-- ==== Sys2Proof/Word.lean ====
section
/-! DEFINITION. The word and byte types of the device: every register is 32 bits wide (R11), memory is bytes. -/
namespace Sys2Proof

/-- A register word (R11). -/
abbrev Word := BitVec 32
/-- A byte of memory, of a frame or of a message. -/
abbrev Byte := BitVec 8

end Sys2Proof
end

