-- ==== Sys2Proof/Machine/Bits.lean ====
section
/-! DEFINITION. Bit fields, byte order and checksums used by every block: fields are named by their first and last
bit as the register tables name them (R10), words are little-endian (R11). -/
namespace Sys2Proof.Machine

/-- Bits hi down to lo of a word of any width, as a number. -/
def fld {n : Nat} (w : BitVec n) (hi lo : Nat) : Nat := (w.extractLsb' lo (hi + 1 - lo)).toNat

/-- The ones of bits hi down to lo. -/
def fieldMask (n hi lo : Nat) : BitVec n := ((BitVec.allOnes (hi + 1 - lo)).setWidth n) <<< lo

/-- A word with bits hi down to lo replaced by v, which is cut to the field. -/
def putFld {n : Nat} (w : BitVec n) (hi lo v : Nat) : BitVec n :=
  (w &&& ~~~ fieldMask n hi lo) ||| (((BitVec.ofNat (hi + 1 - lo) v).setWidth n) <<< lo)

/-- Bits hi down to lo of a number taken as a wide register. -/
def nfld (v hi lo : Nat) : Nat := v / 2 ^ lo % 2 ^ (hi + 1 - lo)

/-- A number with bits hi down to lo replaced by x. -/
def putNfld (v hi lo x : Nat) : Nat :=
  v / 2 ^ (hi + 1) * 2 ^ (hi + 1) + x % 2 ^ (hi + 1 - lo) * 2 ^ lo + v % 2 ^ lo

/-- One bit of a number as a Bool. -/
def nbit (v i : Nat) : Bool := v.testBit i

/-- A Bool as a one-bit field value. -/
def b2n (b : Bool) : Nat := if b then 1 else 0

/-- The signed value of an n-bit two's complement field. -/
def signed (n v : Nat) : Int := if v % 2 ^ n < 2 ^ (n - 1) then (v % 2 ^ n : Nat) else (v % 2 ^ n : Nat) - (2 ^ n : Nat)

/-- An integer as an n-bit two's complement field. -/
def unsigned (n : Nat) (v : Int) : Nat := (v % (2 ^ n : Nat)).toNat

/-- The count of steps from b up to a, modulo m. -/
def modSub (a b m : Nat) : Nat := (a + (m - b % m)) % m

/-- Addition that stops at a limit. -/
def satAdd (limit a b : Nat) : Nat := min limit (a + b)

/-- A value taken as the nearest limit (R476). -/
def clamp (lo hi v : Nat) : Nat := if v < lo then lo else if hi < v then hi else v

/-- Quotient rounded up. -/
def ceilDiv (a b : Nat) : Nat := (a + b - 1) / b

/-- The first k bytes of a number, low byte first. -/
def bytesLE : Nat → Nat → List Byte
  | 0, _ => []
  | k + 1, v => BitVec.ofNat 8 v :: bytesLE k (v / 256)

/-- The first k bytes of a number, high byte first. -/
def bytesBE (k v : Nat) : List Byte := (bytesLE k v).reverse

/-- The number whose bytes, low byte first, are given. -/
def ofBytesLE : List Byte → Nat
  | [] => 0
  | b :: bs => b.toNat + 256 * ofBytesLE bs

/-- The number whose bytes, high byte first, are given. -/
def ofBytesBE (bs : List Byte) : Nat := ofBytesLE bs.reverse

/-- One bit of a most-significant-bit-first CRC of width w (value, polynomial, input bit). -/
def crcBit (w poly crc : Nat) (b : Bool) : Nat :=
  let fb := (crc.testBit (w - 1)) != b
  let sh := crc * 2 % 2 ^ w
  if fb then sh ^^^ poly else sh

/-- The bits of a byte, most significant first. -/
def byteBits (b : Byte) : List Bool := (List.range 8).map fun i => b.toNat.testBit (7 - i)

/-- A most-significant-bit-first CRC over bytes. -/
def crcMsb (w poly init : Nat) (bs : List Byte) : Nat :=
  (bs.flatMap byteBits).foldl (crcBit w poly) init

/-- CRC-8 of the Clause: polynomial 0x07, initial value 0, no reflection, no final XOR (R31). -/
def crc8 (bs : List Byte) : Nat := crcMsb 8 0x07 0 bs

/-- One bit of a reflected CRC-32 step. -/
def crcRefBit (poly crc : Nat) (b : Bool) : Nat :=
  let fb := (crc.testBit 0) != b
  let sh := crc / 2
  if fb then sh ^^^ poly else sh

/-- The bits of a byte, least significant first. -/
def byteBitsLsb (b : Byte) : List Bool := (List.range 8).map fun i => b.toNat.testBit i

/-- CRC-32C (R51): reflected polynomial 0x82F6_3B78, initial value and final XOR all ones. -/
def crc32c (bs : List Byte) : Nat :=
  (bs.flatMap byteBitsLsb).foldl (crcRefBit 0x82F63B78) 0xFFFFFFFF ^^^ 0xFFFFFFFF
/-- The frame check sequence of an Ethernet frame (IEEE 802.3, which R334 and R337 rest on): reflected polynomial
0xEDB8_8320, initial value and final XOR all ones, sent low byte first. -/
def fcs32 (bs : List Byte) : Nat :=
  (bs.flatMap byteBitsLsb).foldl (crcRefBit 0xEDB88320) 0xFFFFFFFF ^^^ 0xFFFFFFFF
/-- A frame's bytes with its last four recomputed as the FCS of the others. -/
def withFcs (d : List Byte) : List Byte :=
  let b := d.take (d.length - 4)
  b ++ bytesLE 4 (fcs32 b)
/-- Whether a frame's FCS holds. -/
def fcsOk (d : List Byte) : Bool := decide (4 ≤ d.length) && ofBytesLE (d.drop (d.length - 4)) == fcs32 (d.take (d.length - 4))
/-- CRC-32C with another initial value (R315). -/
def crc32cFrom (init : Nat) (bs : List Byte) : Nat :=
  (bs.flatMap byteBitsLsb).foldl (crcRefBit 0x82F63B78) init ^^^ 0xFFFFFFFF
/-- The count of ones of a number below 2^n. -/
def ones (n v : Nat) : Nat := ((List.range n).filter v.testBit).length

/-- The n low bits of a number, most significant first. -/
def bitsMsb (n v : Nat) : List Bool := (List.range n).map fun i => v.testBit (n - 1 - i)

/-- All-distinct helper: a list with an element put in at the end when it is not there. -/
def addNew {α : Type} [DecidableEq α] (l : List α) (a : α) : List α := if a ∈ l then l else l ++ [a]

/-- Replaces element i of a list. -/
def listSet {α : Type} (l : List α) (i : Nat) (a : α) : List α := l.set i a

end Sys2Proof.Machine
end

