-- ==== Sys2Proof/Machine/SMap.lean ====
section
/-! DEFINITION. Sparse maps as plain data: a list of (key, value) pairs with strictly rising keys in which no entry
equals what an unlisted key reads as. Memory is such a map from addresses to bytes (Host.Cell pairs). -/
namespace Sys2Proof.Machine

/-- A sparse map from numbers. -/
abbrev SMap (α : Type) := List (Nat × α)

/-- The value of a key; an unlisted key reads as d. -/
def mget {α : Type} (d : α) : SMap α → Nat → α
  | [], _ => d
  | (k, v) :: m, a => if k = a then v else mget d m a

/-- The map without a key. -/
def mdel {α : Type} : SMap α → Nat → SMap α
  | [], _ => []
  | (k, v) :: m, a => if k = a then m else (k, v) :: mdel m a

/-- The map with a key set to v, in rising key order. -/
def mput {α : Type} : SMap α → Nat → α → SMap α
  | [], a, v => [(a, v)]
  | (k, x) :: m, a, v =>
    if a < k then (a, v) :: (k, x) :: m else if a = k then (a, v) :: m else (k, x) :: mput m a v

/-- Writes a key, keeping the canonical form: writing what an unlisted key reads as removes the entry. -/
def mset {α : Type} [DecidableEq α] (d : α) (m : SMap α) (a : Nat) (v : α) : SMap α :=
  if v = d then mdel m a else mput m a v

/-- The canonical form: keys strictly rise from the bound b on, and no entry equals the default of its key. -/
def mwfFrom {α : Type} [DecidableEq α] (d : Nat → α) (b : Nat) : SMap α → Bool
  | [] => true
  | (k, v) :: m => decide (b ≤ k) && decide (v ≠ d k) && mwfFrom d (k + 1) m

/-- The canonical form of a sparse map. -/
def mwf {α : Type} [DecidableEq α] (d : Nat → α) (m : SMap α) : Bool := mwfFrom d 0 m

/-- Reads n consecutive bytes. -/
def mbytes (d : Byte) (m : SMap Byte) (a : Nat) : Nat → List Byte
  | 0 => []
  | n + 1 => mget d m a :: mbytes d m (a + 1) n

/-- Writes consecutive bytes. -/
def mputBytes (d : Byte) (m : SMap Byte) (a : Nat) : List Byte → SMap Byte
  | [] => m
  | b :: bs => mputBytes d (mset d m a b) (a + 1) bs

end Sys2Proof.Machine
end

