-- ==== Sys2Proof/Machine/Items.lean ====
section
/-! DEFINITION. The things commands carry: requesters, the Clause (R28 to R31), identifiers (R7, R8), encapsulation
frames (R92), upstream bursts as the receiver sees them (R103 to R106) and the status codes (GLB_WRSTAT, R393, R63). -/
namespace Sys2Proof.Machine

/-- Who issues an access: the physical function, virtual function p, a control core or a DMA channel (R12, R27). -/
inductive Requester
  | pf
  | vf (p : Nat)
  | core (i : Nat)
  | dma (d : Nat)
  deriving DecidableEq, Repr

/-- A number for each requester, the key of what is held per requester. -/
def Requester.code : Requester → Nat
  | .pf => 0
  | .vf p => 1 + p % 64
  | .core i => 65 + i % 16
  | .dma d => 81 + d % 32

/-- Status codes of GLB_WRSTAT (R26, R27). -/
inductive WrStatus
  | ok | stale | notOwner | outOfRange | islandDown | busy | notAuthorized | unitRefused
  deriving DecidableEq, Repr

def WrStatus.code : WrStatus → Nat
  | .ok => 0 | .stale => 1 | .notOwner => 2 | .outOfRange => 3
  | .islandDown => 4 | .busy => 5 | .notAuthorized => 6 | .unitRefused => 7

/-- Status codes of outcome records and result registers (R393). -/
inductive Status
  | ok | stale | notOwner | outOfRange | islandDown | busy | duplicate | full | notAuthorized | badOpcode | access
  | overAssured | queueLimit | notWaiting | queueFull | notActive | notTunable | chanNotRun | leadShort | crsBound
  | noKek | unwrapFail | sameGen | sameKey | noKtk | moduleError | locked | notFound | quiesceTimeout | reset
  | resolved | badRecord | fetchError
  deriving DecidableEq, Repr

def Status.code : Status → Nat
  | .ok => 0x00 | .stale => 0x01 | .notOwner => 0x02 | .outOfRange => 0x03 | .islandDown => 0x04 | .busy => 0x05
  | .duplicate => 0x06 | .full => 0x07 | .notAuthorized => 0x08 | .badOpcode => 0x09 | .access => 0x0A
  | .overAssured => 0x0B | .queueLimit => 0x0C | .notWaiting => 0x0D | .queueFull => 0x0E | .notActive => 0x0F
  | .notTunable => 0x10 | .chanNotRun => 0x11 | .leadShort => 0x12 | .crsBound => 0x13 | .noKek => 0x14
  | .unwrapFail => 0x15 | .sameGen => 0x16 | .sameKey => 0x17 | .noKtk => 0x18 | .moduleError => 0x19
  | .locked => 0x1A | .notFound => 0x1B | .quiesceTimeout => 0x1C | .reset => 0x1D | .resolved => 0x1E
  | .badRecord => 0x1F | .fetchError => 0x20

/-- What GLB_WRSTAT reports for a refusal whose exact status stands in a result register (R27): codes 0x1 to 0x6 by
their name, any other as UNIT_REFUSED. -/
def Status.toWr : Status → WrStatus
  | .ok => .ok | .stale => .stale | .notOwner => .notOwner | .outOfRange => .outOfRange | .islandDown => .islandDown
  | .busy => .busy | .notAuthorized => .notAuthorized | _ => .unitRefused

/-- STATE of an outcome record (R393). -/
inductive OutState
  | accepted | done | partly | notDone
  deriving DecidableEq, Repr

def OutState.code : OutState → Nat
  | .accepted => 0 | .done => 1 | .partly => 2 | .notDone => 3

/-- Event severities (R36). -/
inductive Severity
  | corrected | contained | degraded | fatal
  deriving DecidableEq, Repr

def Severity.code : Severity → Nat
  | .corrected => 0 | .contained => 1 | .degraded => 2 | .fatal => 3

/-- Item kinds of the Clause (R29). -/
inductive ClauseKind
  | packet | tcm | crcContainer | tracer | dropNotice | hostInject | mgmtFrame | punt
  deriving DecidableEq, Repr

def ClauseKind.code : ClauseKind → Nat
  | .packet => 0 | .tcm => 1 | .crcContainer => 2 | .tracer => 3 | .dropNotice => 4 | .hostInject => 5
  | .mgmtFrame => 6 | .punt => 7

/-- The Clause: the 32-byte internal tag that travels with every packet (R28). KIND is kept as its code, since a
reserved code can arrive (R29). -/
structure Clause where
  kind : Nat := 0
  part : Nat := 0
  tid : Nat := 0x7FFF
  chan : Nat := 0
  sid : Nat := 0
  queue : Nat := 0
  bd : Nat := 0
  tc : Nat := 0
  dp : Nat := 0
  len : Nat := 0
  buf : Nat := 0
  tsIn : Nat := 0
  egr : Nat := 0
  noun : Nat := 0
  trace : Nat := 0
  flags : Nat := 0
  deriving DecidableEq, Repr

/-- Bits 255:8 of the Clause, as the number they spell (R28). -/
def Clause.upper (c : Clause) : Nat :=
  let put (w acc v : Nat) : Nat := acc * 2 ^ w + v % 2 ^ w
  let a := put 4 0 c.kind
  let a := put 6 a c.part
  let a := put 15 a c.tid
  let a := put 8 a c.chan
  let a := put 20 a c.sid
  let a := put 20 a c.queue
  let a := put 16 a c.bd
  let a := put 3 a c.tc
  let a := put 2 a c.dp
  let a := put 14 a c.len
  let a := put 32 a c.buf
  let a := put 40 a c.tsIn
  let a := put 16 a c.egr
  let a := put 32 a c.noun
  let a := put 8 a c.trace
  put 12 a c.flags

/-- CHECK of a Clause: CRC-8 over bits 255:8, most significant bit first (R31). -/
def Clause.check (c : Clause) : Nat := crc8 (bytesBE 31 c.upper)

/-- FLAGS bits of the Clause (R30), numbered within the 12-bit field: Clause bit 8 is bit 0. -/
def flagCoarseTs : Nat := 11
def flagCipher : Nat := 10
def flagFrag : Nat := 9
def flagMirror : Nat := 8
def flagNoLearn : Nat := 7
def flagUptag : Nat := 6
def flagMalformed : Nat := 5
def flagTooDeep : Nat := 4
def flagDeep : Nat := 3
def flagShared : Nat := 2

/-- Sets one bit of a number. -/
def setBit (v i : Nat) : Nat := if v.testBit i then v else v + 2 ^ i
/-- Clears one bit of a number. -/
def clrBit (v i : Nat) : Nat := if v.testBit i then v - 2 ^ i else v
/-- Writes one bit of a number. -/
def putBit (v i : Nat) (b : Bool) : Nat := if b then setBit v i else clrBit v i

def Clause.hasFlag (c : Clause) (i : Nat) : Bool := c.flags.testBit i
def Clause.setFlag (c : Clause) (i : Nat) : Clause := { c with flags := setBit c.flags i }

/-- Egress targets (R30). -/
inductive Egress
  | pon (c : Nat)
  | uplink (p : Nat)
  | hostRing (r : Nat)
  | replication (l : Nat)
  deriving DecidableEq, Repr

def Egress.code : Egress → Nat
  | .pon c => c % 256
  | .uplink p => 2 ^ 14 + p % 256
  | .hostRing r => 2 * 2 ^ 14 + r % 64
  | .replication l => 3 * 2 ^ 14 + l % 2 ^ 14

/-- The egress target that a 16-bit EGR names; none when reserved bits are set (R30). -/
def Egress.ofCode (e : Nat) : Option Egress :=
  let low := e % 2 ^ 14
  match e / 2 ^ 14 % 4 with
  | 0 => if low < 256 then some (.pon low) else none
  | 1 => if low < 256 then some (.uplink low) else none
  | 2 => if low < 64 then some (.hostRing low) else none
  | _ => some (.replication low)

/-- A frame inside the device: its Clause and its bytes from the destination address to the end of the FCS (R93), the PTP
trailer it carries to a host ring (R368), and the DMA channel and instruction that ask for its transmit time (R408). -/
structure Frame where
  cl : Clause
  data : List Byte := []
  trl : List Byte := []
  tsReq : Option (Nat × Nat) := none
  deriving DecidableEq, Repr

/-- A frame that waits for a pipeline: STREAM of its encapsulation header, 31 for a frame that is not a PON frame, and the
port it entered on: a channel, 256 + an uplink port, or 512 + a DMA channel (R294, R296). -/
structure Ingress where
  fr : Frame
  stream : Nat := 31
  port : Nat
  deriving DecidableEq, Repr

/-- A frame that waits for forwarding: its port, its EtherType, and the outer IP source address captured (R296); e is where its
EtherType lies. -/
structure FwdItem where
  fr : Frame
  port : Nat
  e : Nat
  etype : Nat
  ipSrc : Option (List Byte) := none
  deriving DecidableEq, Repr

/-- Channel of tree t, wavelength w (R8). -/
def chanOf (t w : Nat) : Nat := 4 * t + w
/-- TID of slot k of tree t (R8). -/
def tidOf (t k : Nat) : Nat := t * 512 + k
/-- AID of allocation a of tree t (R8). -/
def aidOf (t a : Nat) : Nat := t * 8192 + a
/-- QID of queue q of tree t (R8). -/
def qidOf (t q : Nat) : Nat := t * 16384 + q
/-- The tree of a channel. -/
def treeOfChan (c : Nat) : Nat := c / 4
/-- The wavelength of a channel. -/
def waveOfChan (c : Nat) : Nat := c % 4
/-- The limb die of a tree (R8). -/
def limbOfTree (t : Nat) : Nat := t / 16
/-- The slot of a TID within its tree. -/
def slotOfTid (tid : Nat) : Nat := tid % 512
/-- The tree of a TID. -/
def treeOfTid (tid : Nat) : Nat := tid / 512
/-- The tree of a QID. -/
def treeOfQid (q : Nat) : Nat := q / 16384
/-- The tree of an AID. -/
def treeOfAid (a : Nat) : Nat := a / 8192

/-- FRAG of an encapsulation header (R92). -/
inductive Frag
  | whole | first | middle | last
  deriving DecidableEq, Repr

def Frag.code : Frag → Nat
  | .whole => 3 | .first => 2 | .middle => 0 | .last => 1

/-- An encapsulation frame as received upstream: its header fields (R92), whether its HEC holds, the codeword range
it lies in, its payload, and what the cipher stage finds. -/
structure EncFrame where
  tid : Nat
  stream : Nat
  len : Nat
  frag : Frag
  keyIdx : Nat
  tag12 : Bool := false
  hecOk : Bool := true
  firstCw : Nat := 0
  lastCw : Nat := 0
  payload : List Byte := []
  /-- the counter the IV of the frame carries and whether the tag verifies under the slot's key (R252, R259) -/
  counter : Nat := 0
  tagOk : Bool := true
  deriving DecidableEq, Repr

/-- The encapsulation header of R92 without its HEC: bits 63:16. -/
def encUpper (tid stream len : Nat) (frag : Frag) (keyIdx : Nat) (tag12 : Bool) : Nat :=
  ((((((tid % 2 ^ 15) * 32 + stream % 32) * 2 ^ 14 + len % 2 ^ 14) * 4 + frag.code) * 4 + keyIdx % 4) * 2 + b2n tag12)
    * 2 ^ 9

/-- HEC: CRC-16 with polynomial 0x1021 and initial value 0xFFFF, no reflection, no final XOR (R92). -/
def crc16 (bs : List Byte) : Nat := crcMsb 16 0x1021 0xFFFF bs

/-- The whole 8-byte encapsulation header (R92). -/
def encHeader (tid stream len : Nat) (frag : Frag) (keyIdx : Nat) (tag12 : Bool) : List Byte :=
  let up := bytesBE 6 (encUpper tid stream len frag keyIdx tag12)
  up ++ bytesBE 2 (crc16 up)

/-- How one codeword decoded: bits corrected, or uncorrectable (R86). -/
inductive CwResult
  | good (bitsCorrected : Nat)
  | uncorrectable
  deriving DecidableEq, Repr

/-- The burst header of a received prologue: its 128 bits, most significant bit first on the line (R103). -/
structure BurstHdr where
  word : Nat
  deriving DecidableEq, Repr

/-- Its fields (R103). -/
def BurstHdr.tid (h : BurstHdr) : Nat := nfld h.word 127 113
def BurstHdr.bseq (h : BurstHdr) : Nat := nfld h.word 112 97
def BurstHdr.rptCount (h : BurstHdr) : Nat := nfld h.word 96 92
def BurstHdr.lastGasp (h : BurstHdr) : Bool := nbit h.word 91
def BurstHdr.tcm (h : BurstHdr) : Bool := nbit h.word 90
def BurstHdr.traceCrc (h : BurstHdr) : Nat := nfld h.word 83 68
def BurstHdr.txLevel (h : BurstHdr) : Nat := nfld h.word 67 56
/-- Whether BHDR_CRC is the CRC-32C of bits 127:32. -/
def BurstHdr.crcOk (h : BurstHdr) : Bool := crc32c (bytesBE 12 (nfld h.word 127 32)) == nfld h.word 31 0
/-- The header that carries the fields given, with its BHDR_CRC. -/
def BurstHdr.of (tid bseq rptCount : Nat) (lastGasp tcm : Bool) (traceCrc txLevel : Nat) : BurstHdr :=
  let put (acc w v : Nat) : Nat := acc * 2 ^ w + v % 2 ^ w
  let up := put (put (put (put (put (put (put (put tid 16 bseq) 5 rptCount) 1 (b2n lastGasp)) 1 (b2n tcm)) 6 0) 16 traceCrc) 12
    txLevel) 24 0
  ⟨up % 2 ^ 96 * 2 ^ 32 + crc32c (bytesBE 12 up)⟩

/-- What the receiver of a channel takes from the line in one granted burst: the hard bits of the search window
(R109), the codeword results, the prologue, the report words, the encapsulation frames, and the DSP's final state (the
first 34 bytes of a TLR, R111). A terminal control message of the burst is a command of its own. -/
structure Reception where
  window : List Bool := []
  cws : List CwResult := []
  hdr : BurstHdr
  reports : List Nat := []
  frames : List EncFrame := []
  dsp : List Byte := []
  quality : Nat := 0
  /-- on the standby of a protection pair: the burst's arrival after its place in the Maps, in ps (R424) -/
  late : Int := 0
  deriving DecidableEq, Repr

/-- A command of a command ring as firmware takes it (R392): ring, command index, function of the ring, header fields. -/
structure CmdCtx where
  ring : Nat
  idx : Nat
  fn : Nat
  opcode : Nat
  signal : Bool
  expect : Nat
  tag : Nat
  gen : Nat
  count : Nat
  addr : Nat
  deriving DecidableEq, Repr

/-- Where an operation's outcome record stands: nowhere, in the register outcome ring (record, opcode, tag; R398), or
the record of a ring command (R393). -/
inductive Ticket
  | none
  | regop (record opcode tag : Nat)
  | cmd (c : CmdCtx)
  deriving DecidableEq, Repr

/-- An SRAM or DRAM error found (R37): a single-bit one of an island; an uncorrectable one in a packet cell of a buffer, in a
table entry that an island holds, or in an island's other state. -/
inductive SramErr
  | single (isl : Nat)
  | cell (h : Nat)
  | entry (isl code idx : Nat)
  | state (isl : Nat)
  deriving DecidableEq, Repr

/-! ## Messages of the protection link (R411, R419 to R424). Only the 16-byte header has a layout in the spec; bodies are kept
by their fields. -/

/-- A terminal's state record in a digest (R420): STATE, EPOCH, DETAIL, W, EqD, Transit PHASE. -/
structure DigTerm where
  tid : Nat
  state : Nat
  epoch : Nat
  detail : Nat
  w : Nat
  eqd : Nat
  phase : Nat
  deriving DecidableEq, Repr

/-- An allocation record in a digest (R420). -/
structure DigAlloc where
  aid : Nat
  backlog : Nat
  rpt : Nat
  rate : Nat
  acr : Nat
  mcr : Int
  gOut : Nat
  deriving DecidableEq, Repr

/-- A burst of the Maps section (R420). -/
structure DigMap where
  chan : Nat
  tid : Nat
  start : Nat
  len : Nat
  cold : Bool
  deriving DecidableEq, Repr

/-- The sections of a digest, or of one part of it (R420): times and states of the bases, marks (channel, slot k, INVOC), maps,
state changes of terminals, TLR FLAGS (channel, slot, FLAGS), allocations, whether anything was deferred. -/
structure Digest where
  cycle : Nat
  times : List (Nat × Nat) := []
  marks : List (Nat × Nat × Nat) := []
  maps : List DigMap := []
  terms : List DigTerm := []
  flags : List (Nat × Nat × Nat) := []
  /-- EQRT_RUN by tree, which the standby needs and no section names -/
  eqrt : List (Nat × Nat) := []
  allocs : List DigAlloc := []
  lag : Bool := false
  deriving DecidableEq, Repr

/-- A message body by TYPE (R411, R419, R420, R423, R424). A HELLO answers the peer's nonce by a tag under a wrap counter once
it has one; a KEY holds a slot's state and its wrapped key; a STATE tells the trees whose bursts the sender hears and the
channels it has reset since its last STATE. -/
inductive PlkBody
  | hello (pairId : List Byte) (role st : Nat) (nonce planHash : List Byte) (answer : Option (Nat × List Byte))
  | digest (last : Bool) (d : Digest)
  | key (c k st gen limit : Nat) (tag12 : Bool) (ctr : Nat) (wrapped : List Byte)
  | state (st heard : Nat) (resets : List Nat)
  | idle
  deriving DecidableEq, Repr

/-- TYPE codes of R419. -/
def PlkBody.typ : PlkBody → Nat
  | .hello .. => 1 | .digest .. => 2 | .key .. => 3 | .state .. => 4 | .idle => 5

/-- A message: ALIVE, CYCLE, LEN, body, and whether its CRC holds (R419). -/
structure PlkMsg where
  alive : Nat
  cycle : Nat
  len : Nat
  body : PlkBody
  crcOk : Bool := true
  deriving DecidableEq, Repr

/-- What one rail answers to a read: VOUT in mV, IOUT in 10 mA, TEMP in degrees; none when it does not answer. -/
abbrev RailRead := Option (Nat × Nat × Nat)

end Sys2Proof.Machine
end

