-- ==== Sys2Proof/Syntax.lean ====
section
/-! DEFINITION. The commands of the block: one constructor per row of spec/opcode_table.json, in the table's order. A
command carries what the requester writes or what the device's pins, lines and timers observe. -/
namespace Sys2Proof
open Sys2Proof.Machine

/-- The commands of the device. Each constructor's docstring gives its row's mnemonic and its rule. -/
inductive Instr where
  /-- REGISTER_WRITE (R34): requester, address in its window, value, ns after the cycle start. -/
  | registerWrite (who : Requester) (addr : Nat) (value : Word) (ofs : Nat)
  /-- BAD_ACCESS (R387): requester, address, size in bytes, whether it writes. -/
  | badAccess (who : Requester) (addr size : Nat) (write : Bool)
  /-- LOW_WORD_READ (R12): requester, address, ns after the cycle start. -/
  | lowWordRead (who : Requester) (addr ofs : Nat)
  /-- GLB_BARRIER_READ (R35): requester. -/
  | glbBarrierRead (who : Requester)
  /-- BARRIER_RETURN (R35): requester. -/
  | barrierReturn (who : Requester)
  /-- BARRIER_TIMEOUT (R35): requester, its earlier writes still in flight. -/
  | barrierTimeout (who : Requester) (inFlight : Nat)
  /-- GLB_WRSTAT_READ (R27): requester. -/
  | glbWrstatRead (who : Requester)
  /-- PEND_CLEAR (R38): word of GLB_EVENT_PEND, the value written. -/
  | pendClear (j : Nat) (value : Word)
  /-- FLIT_RECEIVE (R18): port, direction (0 toward the core die), class (0 DATA, 1 CONTROL, 2 ESCAPE), logical
    port, bytes, whether its CRC-32 holds. -/
  | flitReceive (p d cls lp : Nat) (data : List Byte) (ok : Bool)
  /-- RETRAIN_COMPLETE (R18): port, whether it succeeded. -/
  | retrainComplete (p : Nat) (ok : Bool)
  /-- CREDIT_RETURN (R17): port, direction, class, logical port. -/
  | creditReturn (p d cls lp : Nat)
  /-- ISLAND_LOST (R20): island, and for a channel the DETAIL of R117. -/
  | islandLost (i det : Nat)
  /-- SRAM_ERROR (R37). -/
  | sramError (e : SramErr)
  /-- SCRUB_PASS (R37): a pass that finds nothing leaves everything as it stands; what it finds is SRAM_ERROR. -/
  | scrubPass
  /-- CLAUSE_ISLAND_ENTRY (R31): source and destination islands, the Clause and its CHECK. -/
  | clauseIslandEntry (src dst : Nat) (cl : Clause) (check : Nat)
  /-- OWNER_REQUEST (R43). -/
  | ownerRequest (who : Requester) (value : Word)
  /-- OWNER_FLIP (R44). -/
  | ownerFlip (f t i : Nat)
  /-- OWNER_HANDOVER_DONE (R43, R46). -/
  | ownerHandoverDone (f t : Nat) (consistent : Bool)
  /-- QUIESCE_TIMEOUT (R45). -/
  | quiesceTimeout (f t : Nat)
  /-- HOST_WD_WRITE (R47). -/
  | hostWdWrite (who : Requester) (value : Word)
  /-- HOST_WD_EXPIRE (R47). -/
  | hostWdExpire
  /-- IMG_CTRL_STAGE (R67): source code and requester. -/
  | imgCtrlStage (who : Requester) (src : Nat)
  /-- IMG_CTRL_APPLY (R68). -/
  | imgCtrlApply (who : Requester) (live trees : Bool)
  /-- IMG_CTRL_ABANDON (R67). -/
  | imgCtrlAbandon (who : Requester)
  /-- IMG_CTRL_COMMIT (R61). -/
  | imgCtrlCommit (who : Requester)
  /-- IMAGE_FETCH_DONE (R62): whether the fetch met a completion error or a poisoned TLP. -/
  | imageFetchDone (err : Bool)
  /-- APPLY_TRANSIT_TIMEOUT (R68). -/
  | applyTransitTimeout
  /-- APPLY_TREE_TIMEOUT (R70). -/
  | applyTreeTimeout (t : Nat)
  /-- GRAMMAR_SWITCH_MARKER (R305): the pipeline. -/
  | grammarSwitchMarker (p : Nat)
  /-- GRAMMAR_SWITCH_COMPLETE (R305). -/
  | grammarSwitchComplete
  /-- SUPPLY_START (R72): supply. -/
  | supplyStart (i : Nat)
  /-- SUPPLY_VALID (R72): supply. -/
  | supplyValid (i : Nat)
  /-- SUPPLY_GAP_TIMEOUT (R72). -/
  | supplyGapTimeout
  /-- SUPPLY_OUT_OF_RANGE (R73): supply. -/
  | supplyOutOfRange (i : Nat)
  /-- POR_N_ASSERT (R74). -/
  | porNAssert
  /-- POR_N_RELEASE (R74): BOOTSEL[1:0]. -/
  | porNRelease (bootsel : Nat)
  /-- PERST_N_ASSERT (R75). -/
  | perstNAssert
  /-- PERST_N_RELEASE (R75). -/
  | perstNRelease
  /-- P0_COMPLETE (R76): whether the fuse readout holds. -/
  | p0Complete (fuseOk : Bool)
  /-- P1_COMPLETE (R76): whether the ROM digest holds and the vault can be read. -/
  | p1Complete (romOk vaultOk : Bool)
  /-- P2_COMPLETE (R280): the test that failed, 0 none. -/
  | p2Complete (fail : Nat)
  /-- P4_COMPLETE (R76): the DRAM site that failed, if any, and the die-to-die ports that did. -/
  | p4Complete (site : Option Nat) (ports : List Nat)
  /-- FW_START_TIMEOUT (R80). -/
  | fwStartTimeout
  /-- P5_COMPLETE (R76). -/
  | p5Complete
  /-- LINK_TRAIN_TIMEOUT (R80). -/
  | linkTrainTimeout
  /-- TREE_START_TIMEOUT (R78). -/
  | treeStartTimeout (t : Nat)
  /-- GLB_RESET_CTRL_COLD (R83): requester, CONFIRM. -/
  | glbResetCtrlCold (who : Requester) (confirm : Nat)
  /-- GLB_RESET_CTRL_WARM (R83): requester, CONFIRM. -/
  | glbResetCtrlWarm (who : Requester) (confirm : Nat)
  /-- COLD_RESET (R81): one that was asked for. -/
  | coldReset
  /-- WARM_RESET (R81): one that was asked for; BOOTSEL[1:0]. -/
  | warmReset (bootsel : Nat)
  /-- TREE_RESET (R81). -/
  | treeReset (who : Requester) (t expect value : Nat)
  /-- CHN_STATE_RESET (R119). -/
  | chnStateReset (who : Requester) (c expect : Nat)
  /-- CHANNEL_ISLAND_RESET_DONE (R119). -/
  | channelIslandResetDone (c : Nat)
  /-- CHANNEL_LANE_TRAINED (R119). -/
  | channelLaneTrained (c : Nat)
  /-- CHANNEL_RUN (R119). -/
  | channelRun (c : Nat)
  /-- CHANNEL_START_TIMEOUT (R119). -/
  | channelStartTimeout (c : Nat)
  /-- CHN_STATE_ECLIPSE_ENTERING (R243): requester, channel, EXPECT. -/
  | chnStateEclipseEntering (who : Requester) (c expect : Nat)
  /-- CHN_STATE_WAKING (R245): requester, channel, EXPECT. -/
  | chnStateWaking (who : Requester) (c expect : Nat)
  /-- CYCLE_START (R85): channels whose energy detector saw energy outside granted bursts in the cycle that ends;
    at a frame start the superframe counts of the C50 channels. -/
  | cycleStart (energy : List Nat) (sfc : List (Nat × Nat))
  /-- CHN_CRS_WRITE (R99): requester, channel, entry, the 64 bits written. -/
  | chnCrsWrite (who : Requester) (c i value : Nat)
  /-- BURST_START (R112). -/
  | burstStart (c : Nat)
  /-- BURST_RECEIVE (R106): the channel, and what its receiver takes from the line for its oldest granted burst. -/
  | burstReceive (c : Nat) (rx : Reception)
  /-- TLR_INVALIDATE (R115). -/
  | tlrInvalidate (who : Requester) (c k : Nat)
  /-- TLR_FORCE_COLD (R115). -/
  | tlrForceCold (who : Requester) (c k : Nat)
  /-- TLR_PIN (R115). -/
  | tlrPin (who : Requester) (c k : Nat)
  /-- TLR_UNPIN (R115). -/
  | tlrUnpin (who : Requester) (c k : Nat)
  /-- TLR_INVALIDATE_ALL (R115). -/
  | tlrInvalidateAll (who : Requester) (c : Nat)
  /-- PM_BIN_ROLLOVER (R120): the channel, whether the 24-hour bin ends, and the second of time base 0 at the new
    bin's start. -/
  | pmBinRollover (c : Nat) (day : Bool) (second : Nat)
  /-- PM_DATA_READ (R123). -/
  | pmDataRead (who : Requester) (c : Nat)
  /-- PLOAM_RECEIVE (R126): the channel, the terminal, the message's place among the upstream messages of R126, and
    its fields. -/
  | ploamReceive (c tid typ serial delta idx : Nat) (wrapped : List Byte)
  /-- COMA_EPOCH (R132). -/
  | comaEpoch (c : Nat)
  /-- COMA_CANDIDATES_POSTED (R136): the channel, and the peaks of its oldest epoch not yet posted, each a code, a
    magnitude and a round trip in symbols. -/
  | comaCandidatesPosted (c : Nat) (peaks : List (Nat × Nat × Nat))
  /-- REGISTRATION_BURST (R140): the channel, the burst's codeword, prologue and message, its DELIM_OFS, its
    arrival in symbols (quiet windows), and whether it overlapped another. -/
  | registrationBurst (c : Nat) (cw : CwResult) (hdr : BurstHdr) (msg : List Byte) (ofs : Int) (arrival : Nat) (overlap : Bool)
  /-- QUIET_WINDOW_DUE (R145). -/
  | quietWindowDue (c : Nat)
  /-- QW_NOW (R145): requester, tree, the value of TRE_DISC_CFG. -/
  | qwNow (who : Requester) (t : Nat) (value : Word)
  /-- TCM_RECEIVE (R150): the channel, the TID of the burst, the 48 bytes. -/
  | tcmReceive (c tid : Nat) (msg : List Byte)
  /-- TCM_ACK_RECEIVE (R151): the channel, the TID of the burst, the 48 bytes of an ACK. -/
  | tcmAckReceive (c tid : Nat) (msg : List Byte)
  /-- TCM_ACK_TIMEOUT (R151). -/
  | tcmAckTimeout (tid : Nat)
  /-- CHN_TCM_TX (R152): requester, channel, the value of word 10. -/
  | chnTcmTx (who : Requester) (c : Nat) (value : Word)
  /-- AUTH_TIMEOUT (R154). -/
  | authTimeout (tid : Nat)
  /-- LOST_TIMEOUT (R156). -/
  | lostTimeout (tid : Nat)
  /-- TERM_WRITE_FREE (R154): requester, TID, EXPECT. -/
  | termWriteFree (who : Requester) (tid expect : Nat)
  /-- TERM_WRITE_AUTH_WAIT (R154): requester, TID, EXPECT. -/
  | termWriteAuthWait (who : Requester) (tid expect : Nat)
  /-- TERM_WRITE_RANGING (R154): requester, TID, EXPECT. -/
  | termWriteRanging (who : Requester) (tid expect : Nat)
  /-- TERM_WRITE_KEYING (R154): requester, TID, EXPECT. -/
  | termWriteKeying (who : Requester) (tid expect : Nat)
  /-- TERM_WRITE_ACTIVE (R154): requester, TID, EXPECT. -/
  | termWriteActive (who : Requester) (tid expect : Nat)
  /-- TERM_WRITE_DISABLED (R154): requester, TID, EXPECT, and bits 15:8 of the value written. -/
  | termWriteDisabled (who : Requester) (tid expect det : Nat)
  /-- TERM_WRITE_OFFLINE (R154): requester, TID, EXPECT. -/
  | termWriteOffline (who : Requester) (tid expect : Nat)
  /-- TRE_TERM_INFO_WRITE (R164): requester, TID, the 128 bits committed. -/
  | treTermInfoWrite (who : Requester) (tid value : Nat)
  /-- ROGUE_START (R159): requester, tree, the value of TRE_ROGUE_CFG. -/
  | rogueStart (who : Requester) (t : Nat) (value : Word)
  /-- ROGUE_CLEAR (R162): requester, tree, the value of TRE_ROGUE_CFG. -/
  | rogueClear (who : Requester) (t : Nat) (value : Word)
  /-- PROBE_WINDOW_END (R160): the tree, and whether the window had energy. -/
  | probeWindowEnd (t : Nat) (energy : Bool)
  /-- ROGUE_DISABLE_REPEAT (R162). -/
  | rogueDisableRepeat (t : Nat)
  /-- GRANT_BUILD (R177). -/
  | grantBuild (c : Nat)
  /-- CHN_GE_SYSREQ (R186): the 128 bits of the register. -/
  | chnGeSysreq (who : Requester) (c value : Nat)
  /-- GE_RING_WR_IDX (R191). -/
  | geRingWrIdx (who : Requester) (c value : Nat)
  /-- TBLW_WRITE (R330): requester, offset in the table window or table port, value. -/
  | tblwWrite (who : Requester) (ofs : Nat) (value : Word)
  /-- FRAME_ENQUEUE (R201): the DRAM sites, as a mask, whose write queues hold 256 KiB or more. -/
  | frameEnqueue (busySites : Nat)
  /-- SCHEDULER_SELECT (R204). -/
  | schedulerSelect (c lineAt : Nat)
  /-- GATE_ENTRY_CHANGE (R213). -/
  | gateEntryChange (x : Nat)
  /-- GCL_INSTALL (R219). -/
  | gclInstall (who : Requester) (x : Nat)
  /-- GCL_DISABLE (R220). -/
  | gclDisable (who : Requester) (x : Nat)
  /-- GCL_START (R220). -/
  | gclStart (x : Nat)
  /-- SAMPLER_PERIOD (R223). -/
  | samplerPeriod (i n : Nat)
  /-- TRANSIT_REQ_START (R229): the tree, the 128 bits of TRE_TRANSIT_REQ with OP START, and the ns after the cycle
    start at which it lands. -/
  | transitReqStart (who : Requester) (t value ofs : Nat)
  /-- TRANSIT_REQ_CANCEL (R241): as for START, with OP CANCEL. -/
  | transitReqCancel (who : Requester) (t value ofs : Nat)
  /-- TRANSIT_SWITCH (R234): a terminal's switch instant. -/
  | transitSwitch (tid : Nat)
  /-- TRANSIT_DS_KEYS_MOVED (R234). -/
  | transitDsKeysMoved (tid : Nat)
  /-- TRANSIT_US_MOVE (R234). -/
  | transitUsMove (tid : Nat)
  /-- ECLIPSE_ENTER (R243). -/
  | eclipseEnter (c : Nat)
  /-- ECL_TIMEOUT (R243). -/
  | eclTimeout (c : Nat)
  /-- WAKE_COMPLETE (R245): ms after the wake. -/
  | wakeComplete (c ms : Nat)
  /-- WAKE_TIMEOUT (R245). -/
  | wakeTimeout (c : Nat)
  /-- FOLD_MINUTE (R246): the tree, its load and the anchor's load in percent. -/
  | foldMinute (t load anchorLoad : Nat)
  /-- BALANCE_CHECK (R247): the tree, loads by wavelength and loads by TID, in percent. -/
  | balanceCheck (t : Nat) (loads terms : List (Nat × Nat))
  /-- KEY_INSTALL (R255): the 512 bits of CHN_KEY_INSTALL. -/
  | keyInstall (who : Requester) (c value : Nat)
  /-- KEY_SLOT_ERASE (R268). -/
  | keySlotErase (who : Requester) (c k expect : Nat)
  /-- KEY_SLOT_ACTIVATE (R258). -/
  | keySlotActivate (who : Requester) (c k expect : Nat)
  /-- KEY_RETIRE_EXPIRE (R261). -/
  | keyRetireExpire (c k : Nat)
  /-- CORE_CHECK (R250). -/
  | coreCheck (c core : Nat) (pass : Bool)
  /-- SEC_CHALLENGE_READ (R276). -/
  | secChallengeRead (who : Requester)
  /-- SESSION_TIMEOUT (R277): no service of its role for 900 s. -/
  | sessionTimeout (fn : Nat)
  /-- LOGIN_LOCKOUT_EXPIRE (R276). -/
  | loginLockoutExpire (fn role : Nat)
  /-- DRBG_RESEED (R282). -/
  | drbgReseed
  /-- CONDITIONAL_TEST_FAIL (R281). -/
  | conditionalTestFail (test : Nat)
  /-- CHECKPOINT_WRITE (R287). -/
  | checkpointWrite (counter : Nat)
  /-- TAMPER_TRIP (R291): the source, as its bit of SEC_TAMPER. -/
  | tamperTrip (src : Nat)
  /-- SEC_ZEROIZE_WRITE (R291). -/
  | secZeroizeWrite (who : Requester) (value : Word)
  /-- KEY_WRAPPING_AREA_ERASED (R291). -/
  | keyWrappingAreaErased
  /-- PAIR_PROVISION_TIMEOUT (R290). -/
  | pairProvisionTimeout
  /-- PIPELINE_ADMIT (R295, R300): the pipeline. -/
  | pipelineAdmit (p : Nat)
  /-- NOP (R299): the pipeline, as for every verb. -/
  | nop (p : Nat)
  /-- EXTRACT (R299). -/
  | extractVerb (p : Nat)
  /-- MATCH (R299). -/
  | matchVerb (p : Nat)
  /-- DISPATCH (R299). -/
  | dispatchVerb (p : Nat)
  /-- GOTO (R299). -/
  | gotoVerb (p : Nat)
  /-- ADVANCE (R299). -/
  | advance (p : Nat)
  /-- ADVANCE_FIELD (R299). -/
  | advanceField (p : Nat)
  /-- ADVANCE_IF (R299). -/
  | advanceIf (p : Nat)
  /-- MARK (R299). -/
  | markVerb (p : Nat)
  /-- KEEP_CUR (R299). -/
  | keepCur (p : Nat)
  /-- HASH (R299). -/
  | hashVerb (p : Nat)
  /-- SETNOUN (R299, R301). -/
  | setnoun (p : Nat)
  /-- ACCEPT (R309). -/
  | acceptVerb (p : Nat)
  /-- DROP (R299). -/
  | dropVerb (p : Nat)
  /-- PUNT (R299). -/
  | puntVerb (p : Nat)
  /-- FORWARDING (R312): the pipeline, and the destination codes of the replication list a flooded frame takes. -/
  | forwarding (p : Nat) (members : List Nat)
  /-- AGING_SWEEP (R318). -/
  | agingSweep
  /-- LOCK_EXPIRED (R331): table code and index of the entry whose lock has been held LOCK_MS. -/
  | lockExpired (code idx : Nat)
  /-- READ (R332): requester and the value written to FWD_TCMD. -/
  | tblRead (who : Requester) (value : Word)
  /-- WRITE (R332): requester and the value written to FWD_TCMD. -/
  | tblWrite (who : Requester) (value : Word)
  /-- INSERT (R332): requester and the value written to FWD_TCMD. -/
  | tblInsert (who : Requester) (value : Word)
  /-- DELETE (R332): requester and the value written to FWD_TCMD. -/
  | tblDelete (who : Requester) (value : Word)
  /-- SEARCH (R332): requester and the value written to FWD_TCMD. -/
  | tblSearch (who : Requester) (value : Word)
  /-- UPL_GRP_MODE_WRITE (R333): requester, port group, value. -/
  | uplGrpModeWrite (who : Requester) (g : Nat) (value : Word)
  /-- UPLINK_LINK_UP (R334). -/
  | uplinkLinkUp (u : Nat)
  /-- UPLINK_FRAME_RECEIVE (R337): port, ns after the cycle start, the frame from its destination address to its
    FCS, and the uncorrectable FEC codewords met since the port's last frame. -/
  | uplinkFrameReceive (u ofs : Nat) (data : List Byte) (fec : Nat)
  /-- PFC_RECEIVE (R335): port, PFC or PAUSE, the class-enable vector, and the pause times (of a PAUSE, its one
    time). -/
  | pfcReceive (u : Nat) (pfc : Bool) (vec : Nat) (times : List Nat)
  /-- BUFFER_FREE (R346): a holder frees a handle; the requester's island is given. -/
  | bufferFree (h name island : Nat)
  /-- BPM_FREE_WRITE (R346). -/
  | bpmFreeWrite (who : Requester) (h name : Nat)
  /-- DEEP_HEAD_FETCH_DONE (R352): the head of queue key k is staged. -/
  | deepHeadFetchDone (k : Nat)
  /-- OFFSET_SAMPLE (R360). -/
  | offsetSample (who : Requester) (b value : Nat)
  /-- HOLD_TIMEOUT (R361). -/
  | holdTimeout (b : Nat)
  /-- FORCE_STEP_OFFSET (R363): requester, base, CONFIRM, ns after the cycle start. -/
  | forceStepOffset (who : Requester) (b confirm ofs : Nat)
  /-- FORCE_STEP_ABSOLUTE (R363). -/
  | forceStepAbsolute (who : Requester) (b confirm ofs : Nat)
  /-- TB_SET (R358). -/
  | tbSet (who : Requester) (b value ofs : Nat)
  /-- PPS_IN_EDGE (R375): an edge of IN_POL that held for 100 ns, at the instant it was first seen. -/
  | ppsInEdge (ofs : Nat)
  /-- TOD_IN_MESSAGE (R375). -/
  | todInMessage (msg : List Byte) (ofs : Nat)
  /-- PPS_STUCK (R375). -/
  | ppsStuck
  /-- PPS_OUT_PULSE (R373): the instant of the rising edge, ns after the cycle start. -/
  | ppsOutPulse (ofs : Nat)
  /-- CAPTURE_EDGE (R376). -/
  | captureEdge (i : Nat) (rising : Bool) (ofs : Nat)
  /-- CAPTURE_STUCK (R376). -/
  | captureStuck (i ofs : Nat)
  /-- CAP_FIFO_READ (R376). -/
  | capFifoRead (who : Requester) (i : Nat)
  /-- ACTION_COMMIT (R378): requester, slot, the 256 bits written, ns after the cycle start. -/
  | actionCommit (who : Requester) (n value ofs : Nat)
  /-- ACTION_PULSE (R377): slot, ns after the cycle start. -/
  | actionPulse (n ofs : Nat)
  /-- TRIG_PULSE_END (R377): slot. -/
  | trigPulseEnd (n : Nat)
  /-- ACTION_GCL_INSTALL (R377). -/
  | actionGclInstall (n ofs : Nat)
  /-- ACTION_KEY_SWITCH (R377). -/
  | actionKeySwitch (n ofs : Nat)
  /-- ACTION_TRANSIT (R377). -/
  | actionTransit (n ofs : Nat)
  /-- ACTION_DMA_START (R377). -/
  | actionDmaStart (n ofs : Nat)
  /-- ACTION_SNAPSHOT (R377). -/
  | actionSnapshot (n ofs : Nat)
  /-- ACTION_ECLIPSE (R377). -/
  | actionEclipse (n ofs : Nat)
  /-- C50_TIME_LATCH_ARM (R372). -/
  | c50TimeLatchArm (who : Requester) (c : Nat) (sfc : Word)
  /-- RING_PROD_WRITE (R391). -/
  | ringProdWrite (who : Requester) (r value : Nat)
  /-- FLASH_WRITE (R394): ring, slot, offset, host address, length. -/
  | flashWrite (r slot ofs host len : Nat)
  /-- FLASH_ERASE (R394). -/
  | flashErase (r slot ofs len : Nat)
  /-- FLASH_READ (R394). -/
  | flashRead (r slot ofs host len : Nat)
  /-- TERM_AUTHORIZE (R142): ring, serial, DECISION, SLOT, PART, wrapped KEK. -/
  | termAuthorize (r serial decision slot part : Nat) (kek : List Byte)
  /-- TERM_TRANSIT (R228): ring, TID, destination wavelength, switch cycle, ns after the cycle start. -/
  | termTransit (r tid w x ofs : Nat)
  /-- TERM_STATE (R394): ring, TID, new STATE and bits 15:8 of the value. -/
  | termState (r tid dst det : Nat)
  /-- TERM_MSG (R394): ring, TID, TYPE, ACK_REQ, payload. -/
  | termMsg (r tid typ : Nat) (ack : Bool) (body : List Byte)
  /-- ALLOC_SET (R167). -/
  | allocSet (r : Nat)
  /-- QUEUE_SET (R200). -/
  | queueSet (r : Nat)
  /-- TERM_NODE_SET (R200). -/
  | termNodeSet (r : Nat)
  /-- TMPL_APPLY (R209). -/
  | tmplApply (r : Nat) (items : List (Nat × Nat))
  /-- RULE_SET (R308). -/
  | ruleSet (r : Nat)
  /-- KEY_ROTATE (R260). -/
  | keyRotate (r tid dir : Nat)
  /-- KEY_ERASE (R270). -/
  | keyErase (r tid dir : Nat)
  /-- KEY_CFG (R270). -/
  | keyCfg (r ch : Nat) (value : Word)
  /-- STAGE (R67, R394): the host address is the command's ADDR. -/
  | stage (r src : Nat)
  /-- APPLY (R68, R394). -/
  | apply (r : Nat) (live trees : Bool)
  /-- ABANDON (R67, R394). -/
  | abandon (r : Nat)
  /-- COMMIT (R61, R394). -/
  | commit (r : Nat)
  /-- LOGIN (R276): role, the Crypto Officer's public key, the signature or MAC. -/
  | login (r role : Nat) (key sig : List Byte)
  /-- LOGOUT (R277). -/
  | logout (r : Nat)
  /-- STATUS (R278). -/
  | secStatus (r : Nat)
  /-- ZEROIZE (R291). -/
  | zeroize (r : Nat)
  /-- SELF_TEST (R280): the code of the test that fails, 0 when all pass. -/
  | selfTest (r fail : Nat)
  /-- CO_ENROL (R276): the key's hash, and the seconds since the COLD reset. -/
  | coEnrol (r : Nat) (hash : List Byte) (ageS : Nat)
  /-- CO_CRED_SET (R278). -/
  | coCredSet (r slot : Nat) (hash : List Byte)
  /-- USER_CRED_SET (R278). -/
  | userCredSet (r part : Nat) (cred : List Byte)
  /-- IMG_KEY_SET (R289). -/
  | imgKeySet (r : Nat) (ec ml : List Byte)
  /-- KTK_ESTABLISH (R283). -/
  | ktkEstablish (r part : Nat) (pub : List Byte)
  /-- ATTEST (R278). -/
  | attest (r : Nat) (nonce : List Byte)
  /-- IDENTITY_CERT_SET (R278). -/
  | identityCertSet (r len : Nat)
  /-- PAIR_PROVISION (R290): the partner's named hash, and its part of the exchange as it comes over the link, with
    its ephemeral key, its DIK_EC key and its signature; none when it does not come. -/
  | pairProvision (r : Nat) (hash : List Byte) (answer : Option (List Byte × List Byte × List Byte))
  /-- UNPAIR (R290). -/
  | unpair (r : Nat)
  /-- FI_UNLOCK (R292). -/
  | fiUnlock (r : Nat)
  /-- FI_LOCK (R292). -/
  | fiLock (r : Nat)
  /-- RANDOM (R278). -/
  | random (r n : Nat)
  /-- BAD_OPCODE (R394). -/
  | badOpcode (r : Nat)
  /-- RING_RESOLVE (R397). -/
  | ringResolve (who : Requester) (r : Nat)
  /-- HOST_RING_WRITE (R399). -/
  | hostRingWrite
  /-- DMA_START (R400): requester, channel. -/
  | dmaStart (who : Requester) (d : Nat)
  /-- DMA_ABORT (R409). -/
  | dmaAbort (who : Requester) (d : Nat)
  /-- MOVE_INSTR (R402): channel, how many bursts it makes now, ns after the cycle start, the destination codes of
    the replication list that DIRECT may name. -/
  | moveInstr (d n ofs : Nat) (members : List Nat)
  /-- LOOP (R402): channel. -/
  | loop (d : Nat)
  /-- WAIT_REQUEST (R403): channel. -/
  | waitRequest (d : Nat)
  /-- WAIT_REG (R403): channel, ns after the cycle start of the poll. -/
  | waitReg (d ofs : Nat)
  /-- WAIT_TIME (R403): channel, ns after the cycle start. -/
  | waitTime (d ofs : Nat)
  /-- WAIT_SATISFIED (R403): channel, ns after the cycle start; the condition is looked at again. -/
  | waitSatisfied (d ofs : Nat)
  /-- WAIT_TIMEOUT (R403): channel. -/
  | waitTimeout (d : Nat)
  /-- SIGNAL_INTERRUPT (R401): channel. -/
  | signalInterrupt (d : Nat)
  /-- SIGNAL_FLAG (R401): channel, ns after the cycle start. -/
  | signalFlag (d ofs : Nat)
  /-- SIGNAL_DOORBELL (R401): channel. -/
  | signalDoorbell (d : Nat)
  /-- FENCE (R404): channel. -/
  | fence (d : Nat)
  /-- FENCE_COMPLETE (R404): channel. -/
  | fenceComplete (d : Nat)
  /-- END (R404): channel. -/
  | endProg (d : Nat)
  /-- DMA_BEAT_ERROR (R409): channel, ERR, good beats before it, ns after the cycle start. -/
  | dmaBeatError (d err k ofs : Nat)
  /-- DMA_REQ_RAISE (R406). -/
  | dmaReqRaise (who : Requester) (value : Word)
  /-- DMA_REQ_EDGE (R406): the pin, and for how long it is held low, in ns. -/
  | dmaReqEdge (n heldNs : Nat)
  /-- PRT_STATE_RELEASED (R416): requester, EXPECT. -/
  | prtStateReleased (who : Requester) (expect : Nat)
  /-- PRT_STATE_NOT_READY (R428): requester, EXPECT. -/
  | prtStateNotReady (who : Requester) (expect : Nat)
  /-- PRT_ALIVE (R416): requester. -/
  | prtAlive (who : Requester)
  /-- ALIVE_TIMEOUT (R416). -/
  | aliveTimeout
  /-- TOKEN_CLAIM (R414): ns for which the line has read high without a break. -/
  | tokenClaim (highNs : Nat)
  /-- CLAIM_WINDOW_END (R414): ns after the cycle start. -/
  | claimWindowEnd (ofs : Nat)
  /-- PEER_HB_LOST (R417). -/
  | peerHbLost
  /-- TOKEN_STUCK (R417): whether the line toggles faster than its filter. -/
  | tokenStuck (toggling : Bool)
  /-- PLK_LANE_SYNC (R418): a lane, whether its marker matches, whether the four block counts are aligned. -/
  | plkLaneSync (lane : Nat) (hit aligned : Bool)
  /-- HELLO (R411): the message. -/
  | helloMsg (m : PlkMsg)
  /-- DIGEST (R421): the message. -/
  | digestMsg (m : PlkMsg)
  /-- KEY (R423): the message, and what its wrapped key opens to. -/
  | keyMsg (m : PlkMsg) (key : List Byte)
  /-- STATE (R419): the message. -/
  | stateMsg (m : PlkMsg)
  /-- STATE_MESSAGE_SEND (R419). -/
  | stateMessageSend
  /-- REVERT_WTR_EXPIRE (R429). -/
  | revertWtrExpire
  /-- SNAPSHOT (R434): requester, the value written to OBS_SNAP_CTL, ns after the cycle start. -/
  | snapshot (who : Requester) (value : Word) (ofs : Nat)
  /-- FREEZE (R436): requester, the value written to OBS_SNAP_CTL, ns after the cycle start. -/
  | freeze (who : Requester) (value : Word) (ofs : Nat)
  /-- PC_VALUE_WRITE (R433): requester, counter, the 64 bits of OBS_PC_VAL. -/
  | pcValueWrite (who : Requester) (n value : Nat)
  /-- TRACE_INJECT (R437): requester, the 64 bits of OBS_TRACE_INJ. -/
  | traceInject (who : Requester) (value : Nat)
  /-- KILL (R441): requester, the value written to OBS_FI_GLOBAL. -/
  | kill (who : Requester) (value : Word)
  /-- FI_ARM (R441): requester, kind and number of the injector, the 128 bits of FI_CFG. -/
  | fiArm (who : Requester) (kind i value : Nat)
  /-- FI_HOLD_RELEASE (R440): kind and number of the injector. -/
  | fiHoldRelease (kind i : Nat)
  /-- RAIL_POLL (R444): what each of the 16 rails answers. -/
  | railPoll (xs : List RailRead)
  /-- PMB_ALERT (R444): STATUS_WORD of each of the 16 rails. -/
  | pmbAlert (ws : List (Option Nat))
  /-- PMB_LOST (R444): rail. -/
  | pmbLost (r : Nat)
  /-- AVS_CHECK (R446): limb die 1 to 4, the lowest code at which its margin monitors pass. -/
  | avsCheck (k pass : Nat)
  /-- PWR_DVFS_WRITE (R447): requester, die, value. -/
  | pwrDvfsWrite (who : Requester) (k : Nat) (value : Word)
  /-- VOUT_REACHED (R447): die. -/
  | voutReached (k : Nat)
  /-- PWR_GATE_UPL_WRITE (R448): requester, value. -/
  | pwrGateUplWrite (who : Requester) (value : Word)
  /-- SENSOR_READ (R449): sensor, its reading in 1/256 degree. -/
  | sensorRead (n : Nat) (temp : Int)
  /-- THROTTLE_CLEAR (R450): sensor. -/
  | throttleClear (n : Nat)
  /-- CAP_EVALUATION (R452). -/
  | capEvaluation
  /-- SIDEBAND_INPUT_CHANGE (R462): tree, MOD_INT_N low, LIGHT_IN high. -/
  | sidebandInputChange (t : Nat) (intLow light : Bool)
  /-- MODULE_POLL (R462): firmware reads identity and alarms of the modules; the spec gives no state that shows
    them. -/
  | modulePoll
  /-- TOKEN_LINE_CHANGE (R417): whether the filtered line now reads low. -/
  | tokenLineChange (low : Bool)
  /-- PEER_HB_EDGE (R413): ns after the cycle start. -/
  | peerHbEdge (ofs : Nat)
  /-- SUPPLY_REMOVAL (R73): supply. -/
  | supplyRemoval (i : Nat)
  /-- PCIE_LINK_UP (R80). -/
  | pcieLinkUp
  /-- PCIE_LINK_DOWN (R409). -/
  | pcieLinkDown
  /-- UPLINK_LINK_DOWN (R334). -/
  | uplinkLinkDown (u : Nat)
  /-- UPLINK_FRAME_TRANSMIT (R222): port, ns after the cycle start. -/
  | uplinkFrameTransmit (u ofs : Nat)
  /-- PAUSE_TIMER_EXPIRE (R335): port, and the classes whose time has run out. -/
  | pauseTimerExpire (u mask : Nat)
  /-- FUNCTION_LEVEL_RESET (R277). -/
  | functionLevelReset (fn : Nat)
  /-- MOVE_COMPLETE (R404): channel. -/
  | moveComplete (d : Nat)
  deriving DecidableEq, Repr

end Sys2Proof
end

