-- ==== Sys2Proof/Decode.lean ====
section
/-! DEFINITION. The command that a word spells by the opcode table's bits. The table gives no row bits: commands reach the
block as accesses, messages, lines and timers, and no word spells one. -/
namespace Sys2Proof

/-- The command a word of nbits bits spells: none, since no row of the table has bits. -/
def decodeTableWord (_nbits _w : Nat) : Option Instr := none

end Sys2Proof
end

