-- ==== Sys2Proof/Config.lean ====
section
/-! DEFINITION. What an implementation fixes and what the spec leaves open: opaque constants without a body, so that no
proof can see their values. The cryptographic standards the spec names (SHA-384, ECDSA P-384, ML-DSA-65, AES-GCM, AES-KW,
ECDH, the KDF and the DRBG) are uninterpreted functions of their inputs (assumption log 1). -/
namespace Sys2Proof.Config

/-- A free value: what the spec leaves undefined, applied to a counter the state advances (assumption log 2). -/
opaque freeNat : Nat → Nat

/-- The key hashes in the vault at shipment (R60): Lithen's own, and those of its provisioning key in the owner's place. -/
opaque lithenEc : List Byte
opaque lithenMl : List Byte
opaque provisionEc : List Byte
opaque provisionMl : List Byte
/-- The pairing that the factory gives a CS6400-P (R1, R285): key, PAIR_ID, ROLE, the partner's key hash. -/
opaque pairKey : List Byte
opaque pairId : List Byte
opaque pairRole : Nat
opaque pairPartner : List Byte

/-- SHA-384 (R60). -/
opaque sha384 : List Byte → List Byte
/-- ECDSA P-384 verification of a signature over a message under a public key (R60). -/
opaque ecdsaVerify : List Byte → List Byte → List Byte → Bool
/-- ML-DSA-65 verification (R60). -/
opaque mldsaVerify : List Byte → List Byte → List Byte → Bool
/-- ECDSA P-384 signing under the module's identity key of a generation (R278). -/
opaque ecdsaSign : Nat → List Byte → List Byte
/-- ML-DSA-65 signing under the module's identity key of a generation (R278). -/
opaque mldsaSign : Nat → List Byte → List Byte
/-- The DIK_EC public key of a generation (R283). -/
opaque dikPublic : Nat → List Byte
/-- Whether Lithen lists a FW_VERSION in the security policy of the certificate (R273). -/
opaque fwListed : Nat → Bool
/-- AES key wrap, unwrapping (R255, R284): a wrapping key and a wrapped key give the key, or nothing. -/
opaque keyUnwrap : List Byte → List Byte → Option (List Byte)
/-- AES key wrap, wrapping. -/
opaque keyWrap : List Byte → List Byte → List Byte
/-- The shared secret of an ECDH exchange (R283): own secret, peer's public value. -/
opaque ecdh : List Byte → List Byte → List Byte
/-- A public value for a secret (R283). -/
opaque ecdhPublic : List Byte → List Byte
/-- The key-derivation function: key material, label (R283). -/
opaque kdf : List Byte → List Byte → List Byte
/-- HMAC-SHA-384 (R276): key, message. -/
opaque hmac : List Byte → List Byte → List Byte
/-- The output of the DRBG for its n-th request, of the length asked (R282). -/
opaque drbg : Nat → Nat → List Byte
/-- AES-256-GCM encryption (R257): key, IV, associated data, plaintext; gives ciphertext and tag. -/
opaque gcmEncrypt : List Byte → List Byte → List Byte → List Byte → List Byte × List Byte

/-- The STREAM of a queue's downstream frames, which no rule states (taken modulo 31). -/
opaque dsStream : Nat → Nat

/-- The C50 line, which ITU-T G.9804.2 and G.9804.3 lay out and the spec does not (R124, R125): payload bytes of a 125 us downstream
frame; the instant in ps after the frame's start at which payload byte q leaves, and at which its codeword ends. -/
opaque c50Payload : Nat
opaque c50BytePs : Nat → Nat
opaque c50EndPs : Nat → Nat
/-- The time in ns after an upstream frame's start of payload byte o of a burst at a start time, by PERS (R124). -/
opaque c50UsNs : Nat → Nat → Nat → Nat
/-- Bytes of a C50 burst before its first XGEM frame, by PERS (R196). -/
opaque c50Overhead : Nat → Nat
/-- An equalization delay in symbols in the units of G.9804.2 (R146). -/
opaque c50Eqd : Nat → Nat
/-- An XGEM header: TID, allocation, length, key index, last fragment (R125). -/
opaque xgemHeader : Nat → Nat → Nat → Nat → Bool → List Byte
/-- AES-128 counter mode (R125): key, counter block, data. -/
opaque aesCtr : List Byte → List Byte → List Byte → List Byte
/-- The counter block of a C50 frame in a direction: TID, frame number, payload position (R125). -/
opaque c50Counter : Nat → Nat → Nat → Nat → List Byte

end Sys2Proof.Config
end

