-- ==== Sys2Proof/Machine/RegMap.lean ====
section
/-! DEFINITION. The register map of the control window CTLW, written from the register tables of the spec:
for each register its block offset, its index strides and counts, its width, its reset domain (R14), its owner
function (R44), who may write it (R475), whether its top word commits it, and its fields with type (R13) and reset
value. A field whose reset is "Image", "Vault" or "Cause" has 0 here (assumption log 3). -/
namespace Sys2Proof.Machine

/-- Register field types (R13); RSVD bits are the bits no field covers. -/
inductive FieldKind | rw | ro | w1c | w1s | wo deriving DecidableEq, Repr
/-- Reset domains (R14). -/
inductive ResetDomain | cold | warm | tree | channel deriving DecidableEq, Repr
/-- Who may write a register, beside the owner rule (R475). -/
inductive Writer | any | pfOnly | coreOnly deriving DecidableEq, Repr
/-- A field of a register: bits hi down to lo, its type and its reset value. -/
structure RegField where
  hi : Nat
  lo : Nat
  kind : FieldKind
  reset : Nat
  deriving DecidableEq, Repr
/-- The registers of the device by name. -/
inductive RegId where
  | glbDeviceId | glbWrstat | glbWrstatAddr | glbBarrier | glbEventPend | glbIslandStat | glbStaleCnt | glbClauseErr
  | mbxOwner | mbxOwnerReq | mbxHostWd | mbxImgCtrl | mbxImgAddr | mbxImgTrees | mbxImgStat | mbxImgFaultOfs
  | mbxImgArb | glbBootStat | glbResetCtrl | glbResetCause | treState | treChmask | chnState | chnCycle
  | chnDelimCfg | chnTlrCfg | chnTlrCmd | chnOptCfg | chnTraceCfg | chnTraceExp | chnTraceMm | chnEvent
  | chnCrs | chnTcaThr | chnTcaTerm | chnPmSel | chnPmData | chnPmBintime | treDiscCfg | treRegCfg
  | treRogueCfg | treRogueStat | treTerm | treTermInfo | chnDiscEvent | chnComaCand | chnComaStat | chnTcmTx
  | chnTcmTxstat | chnEnergyCfg | chnEnergyStat | chnGeCfg | chnGeAssured | chnGeAssuredUsed | chnGeSyswin | chnGeSysreq
  | chnGeSysstat | chnGeRingCtl | chnGeEvent | chnGeLast | chnDsPart | chnGclCtl | chnGclStat | chnGclAdminBase
  | chnGclAdminCyc | chnGclOperStart | chnGclMtu | chnGclAdmin | chnDsEvent | uplGclFit | dtmSmpCtl | dtmSmpRing
  | dtmSmpIdx | dtmSmpSel | dtmSmpBmap | dtmSmpStat | treTransitReq | treTransitResult | treTransitCfg | treFoldCfg
  | treFoldStat | treTransitEvent | treTransitStat | chnEclStat | chnKeyCfg | chnKeyInstall | chnKeyInstallStat | chnKeySlot
  | chnKeyAttn | chnKeyEvent | secApproved | secStatus | secTamper | secZeroize | secChallenge | grmProgStat
  | grmProgId | grmTraceCfg | grmEvent | fwdTcmd | fwdTindex | fwdTdata | fwdBrCfg | fwdLockCfg
  | fwdNtfRing | fwdNtfIdx | fwdTcq | fwdEvent | acmPlaneStat | uplGrpMode | uplPortCfg | uplPortStat
  | bpmPoolStat | bpmPoolBase | bpmHomeCfg | bpmPartUse | bpmAdmCfg | bpmFree | bpmFreeStat | bpmFaultLog
  | bpmFaultSrc | bpmEvent | timTbCfg | timTbServo | timTbStat | timTbTime | timTbOffset | timTbSet
  | timForceStep | timEvent | timPpsCfg | timTodCfg | timFreqCfg | timCapCfg | timCapStat | timCapWin
  | timCapFifo | timAct | chnTimeCfg | chnTimeC50 | uplTsCfg | mbxRegopIdx | mbxRingCfg | mbxRingIdx
  | mbxTblwSel | mbxTblwStat | mbxMsixMap | dmaChCfg | dmaChCtl | dmaChProg | dmaChStat | dmaChVec
  | dmaReqRaise | dmaReqStat | dmaRxCfg | dmaRxIdx | dmaFnStat | prtCfg | prtState | prtAlive
  | prtTimer | prtLinkStat | prtTrunk | prtEvent | obsStatSel | obsStatData | obsSnapCtl | obsSnapStat
  | obsSnapTime | obsPcSel | obsPcVal | obsPcRgn | obsPcShadow | obsTraceRing | obsTraceIdx | obsTraceInj
  | obsTraceStat | obsFiGlobal | obsEvent | pwrCap | pwrStat | pwrDvfs | pwrGateUpl | pwrEvent
  | pwrRailCfg | pwrRailTel | pwrTherm | chnGeCnt | chnDsCnt | chnCiphCnt | grmCnt | fwdCnt
  | bpmCnt | obsStatBase | obsShadowBase | treModStat | uplGclCtl | uplGclStat | uplGclAdminBase | uplGclAdminCyc
  | uplGclOperStart | uplGclMtu | uplGclEvent | uplGclAdmin | fiCfgDs | fiPatDs | fiStatDs | fiCfgUs
  | fiPatUs | fiStatUs | fiCfgUtx | fiPatUtx | fiStatUtx | fiCfgUrx | fiPatUrx | fiStatUrx
  | fiCfgObs | fiPatObs | fiStatObs | obsFiLink | msixTable | msixPba
  deriving DecidableEq, Repr
/-- One row of the register map: instance (i1, i2, ...) of the register starts at
base + i1 * stride1 + i2 * stride2 + ..., and holds bits/32 words, low word first (R12). -/
structure RegDesc where
  id : RegId
  base : Nat
  dims : List (Nat × Nat)
  bits : Nat
  dom : ResetDomain
  owner : Option Nat
  writer : Writer
  commitTop : Bool
  fields : List RegField
  deriving DecidableEq, Repr

def regsGlb0 : List RegDesc := [
  -- GLB_DEVICE_ID (00_scope.md): PART, VARIANT, REV_STEP, REV_METAL
  ⟨.glbDeviceId, 0x0, [], 32, .cold, none, .any, false,
    [⟨31, 16, .ro, 0x6400⟩, ⟨15, 12, .ro, 0x0⟩, ⟨11, 8, .ro, 0x2⟩, ⟨7, 4, .ro, 0x1⟩]⟩,
  -- GLB_WRSTAT (01_architecture.md): STATUS, EPOCH, STATE, COUNT
  ⟨.glbWrstat, 0x20, [], 32, .warm, none, .any, false,
    [⟨31, 28, .ro, 0x0⟩, ⟨23, 16, .ro, 0x0⟩, ⟨15, 8, .ro, 0x0⟩, ⟨7, 0, .ro, 0x0⟩]⟩,
  -- GLB_WRSTAT_ADDR (01_architecture.md): OFFSET
  ⟨.glbWrstatAddr, 0x24, [], 32, .warm, none, .any, false,
    [⟨26, 0, .ro, 0x0⟩]⟩,
  -- GLB_BARRIER (01_architecture.md): LOST, TIMEOUT, NOTLANDED
  ⟨.glbBarrier, 0x10, [], 32, .warm, none, .any, false,
    [⟨31, 31, .ro, 0x0⟩, ⟨30, 30, .ro, 0x0⟩, ⟨15, 0, .ro, 0x0⟩]⟩,
  -- GLB_EVENT_PEND (01_architecture.md): PEND
  ⟨.glbEventPend, 0x100, [(0x4, 11)], 32, .warm, none, .any, false,
    [⟨31, 0, .w1c, 0x0⟩]⟩,
  -- GLB_ISLAND_STAT (01_architecture.md): STATE, MAXSEV, EVCOUNT, LASTCODE
  ⟨.glbIslandStat, 0x1000, [(0x4, 342)], 32, .warm, none, .any, false,
    [⟨31, 28, .ro, 0x0⟩, ⟨25, 24, .ro, 0x0⟩, ⟨23, 16, .ro, 0x0⟩, ⟨15, 0, .ro, 0x0⟩]⟩,
  -- GLB_STALE_CNT (01_architecture.md): COUNT
  ⟨.glbStaleCnt, 0x50, [], 32, .warm, none, .any, false,
    [⟨31, 0, .ro, 0x0⟩]⟩,
  -- GLB_CLAUSE_ERR (01_architecture.md): COUNT
  ⟨.glbClauseErr, 0x2000, [(0x4, 342)], 32, .warm, none, .any, false,
    [⟨31, 0, .ro, 0x0⟩]⟩
  ]
def regsGlb1 : List RegDesc := [
  -- GLB_BOOT_STAT (03_startup_and_resets.md): PHASE, FAILED, SLOT, SOURCE, CODE, DETAIL, LINK_FULL, TREES_READY
  ⟨.glbBootStat, 0x40, [], 32, .warm, none, .any, false,
    [⟨31, 28, .ro, 0x0⟩, ⟨27, 27, .ro, 0x0⟩, ⟨26, 26, .ro, 0x0⟩, ⟨25, 24, .ro, 0x0⟩, ⟨23, 16, .ro, 0x0⟩, ⟨15, 8, .ro, 0x0⟩, ⟨7, 7, .ro, 0x0⟩, ⟨6, 0, .ro, 0x0⟩]⟩,
  -- GLB_RESET_CTRL (03_startup_and_resets.md): KIND, CONFIRM
  ⟨.glbResetCtrl, 0x30, [], 32, .warm, none, .pfOnly, false,
    [⟨31, 28, .wo, 0x0⟩, ⟨15, 0, .wo, 0x0⟩]⟩,
  -- GLB_RESET_CAUSE (03_startup_and_resets.md): SEQ_ERR, TAMPER, WARM_CMD, COLD_CMD, POR, POWER_ON
  ⟨.glbResetCause, 0x34, [], 32, .cold, none, .any, false,
    [⟨5, 5, .w1c, 0x0⟩, ⟨4, 4, .w1c, 0x0⟩, ⟨3, 3, .w1c, 0x0⟩, ⟨2, 2, .w1c, 0x0⟩, ⟨1, 1, .w1c, 0x0⟩, ⟨0, 0, .w1c, 0x0⟩]⟩
  ]
/-- The registers of block GLB. -/
def regsGlb : List RegDesc := regsGlb0 ++ regsGlb1

def regsMbx0 : List RegDesc := [
  -- MBX_OWNER (01_architecture.md): EPOCH, REFUSED, HSTATE, OWNER
  ⟨.mbxOwner, 0x10400, [(0x100, 12), (0x4, 64)], 32, .cold, none, .any, false,
    [⟨31, 24, .ro, 0x0⟩, ⟨23, 16, .ro, 0x0⟩, ⟨11, 8, .ro, 0x0⟩, ⟨0, 0, .ro, 0x0⟩]⟩,
  -- MBX_OWNER_REQ (01_architecture.md): EXPECT, FUNC, TREE, NEWOWNER
  ⟨.mbxOwnerReq, 0x10100, [], 32, .warm, none, .pfOnly, false,
    [⟨31, 24, .wo, 0x0⟩, ⟨19, 16, .wo, 0x0⟩, ⟨13, 8, .wo, 0x0⟩, ⟨0, 0, .wo, 0x0⟩]⟩,
  -- MBX_HOST_WD (01_architecture.md): EN, EXPIRED, PERIOD
  ⟨.mbxHostWd, 0x10110, [], 32, .warm, none, .any, false,
    [⟨31, 31, .rw, 0x0⟩, ⟨30, 30, .w1c, 0x0⟩, ⟨13, 0, .rw, 0x64⟩]⟩,
  -- MBX_IMG_CTRL (02_orrery_image.md): OP, SRC, TREES, LIVE
  ⟨.mbxImgCtrl, 0x10200, [], 32, .warm, none, .pfOnly, false,
    [⟨31, 28, .wo, 0x0⟩, ⟨27, 26, .wo, 0x0⟩, ⟨1, 1, .wo, 0x0⟩, ⟨0, 0, .wo, 0x0⟩]⟩,
  -- MBX_IMG_ADDR (02_orrery_image.md): ADDR
  ⟨.mbxImgAddr, 0x10208, [], 64, .warm, none, .pfOnly, false,
    [⟨63, 0, .rw, 0x0⟩]⟩,
  -- MBX_IMG_TREES (02_orrery_image.md): MASK
  ⟨.mbxImgTrees, 0x10210, [], 64, .warm, none, .pfOnly, false,
    [⟨63, 0, .rw, 0x0⟩]⟩,
  -- MBX_IMG_STAT (02_orrery_image.md): STATE, SECTION, CODE, TREES_DONE
  ⟨.mbxImgStat, 0x10218, [], 32, .warm, none, .pfOnly, false,
    [⟨31, 28, .ro, 0x0⟩, ⟨27, 24, .ro, 0x0⟩, ⟨23, 16, .ro, 0x0⟩, ⟨6, 0, .ro, 0x0⟩]⟩,
  -- MBX_IMG_FAULT_OFS (02_orrery_image.md): OFFSET
  ⟨.mbxImgFaultOfs, 0x1021C, [], 32, .warm, none, .pfOnly, false,
    [⟨31, 0, .ro, 0x0⟩]⟩
  ]
def regsMbx1 : List RegDesc := [
  -- MBX_IMG_ARB (02_orrery_image.md): VAULT_IMG_ARB, RUN_ARB
  ⟨.mbxImgArb, 0x10220, [], 64, .cold, none, .pfOnly, false,
    [⟨63, 32, .ro, 0x0⟩, ⟨31, 0, .ro, 0x0⟩]⟩,
  -- MBX_REGOP_IDX (15_host_port_and_dma.md): WR
  ⟨.mbxRegopIdx, 0x12200, [], 32, .cold, none, .any, false,
    [⟨7, 0, .ro, 0x0⟩]⟩,
  -- MBX_RING_CFG (15_host_port_and_dma.md): EN, FUNC, RESOLVE, RESTART
  ⟨.mbxRingCfg, 0x12000, [(0x20, 16)], 32, .cold, none, .pfOnly, false,
    [⟨31, 31, .rw, 0x0⟩, ⟨30, 24, .rw, 0x0⟩, ⟨9, 9, .wo, 0x0⟩, ⟨8, 8, .ro, 0x0⟩]⟩,
  -- MBX_RING_IDX (15_host_port_and_dma.md): NTF_WR, NTF_RD, CONS, PROD
  ⟨.mbxRingIdx, 0x12008, [(0x20, 16)], 64, .cold, none, .any, false,
    [⟨56, 48, .ro, 0x0⟩, ⟨40, 32, .rw, 0x0⟩, ⟨24, 16, .ro, 0x0⟩, ⟨8, 0, .rw, 0x0⟩]⟩,
  -- MBX_TBLW_SEL (15_host_port_and_dma.md): BASE, TABLE
  ⟨.mbxTblwSel, 0x13000, [], 32, .warm, none, .any, false,
    [⟨31, 6, .rw, 0x0⟩, ⟨5, 0, .rw, 0x0⟩]⟩,
  -- MBX_TBLW_STAT (15_host_port_and_dma.md): STATUS, COUNT
  ⟨.mbxTblwStat, 0x13004, [], 32, .warm, none, .any, false,
    [⟨31, 24, .ro, 0x0⟩, ⟨15, 0, .ro, 0x0⟩]⟩,
  -- MBX_MSIX_MAP (15_host_port_and_dma.md): EN, PIN, FUNC, VECTOR
  ⟨.mbxMsixMap, 0x14000, [(0x4, 438)], 32, .warm, none, .any, false,
    [⟨31, 31, .rw, 0x0⟩, ⟨30, 30, .rw, 0x0⟩, ⟨29, 23, .rw, 0x0⟩, ⟨10, 0, .rw, 0x0⟩]⟩
  ]
/-- The registers of block MBX. -/
def regsMbx : List RegDesc := regsMbx0 ++ regsMbx1

def regsTre0 : List RegDesc := [
  -- TRE_STATE (03_startup_and_resets.md): EPOCH, EXPECT, REASON, LOST, STATE
  ⟨.treState, 0x1000000, [(0x4000, 64)], 32, .warm, none, .pfOnly, false,
    [⟨31, 24, .ro, 0x0⟩, ⟨23, 16, .wo, 0x0⟩, ⟨15, 12, .ro, 0x0⟩, ⟨11, 8, .ro, 0x0⟩, ⟨7, 0, .rw, 0x0⟩]⟩,
  -- TRE_CHMASK (03_startup_and_resets.md): REASON, LOST, READY
  ⟨.treChmask, 0x1000004, [(0x4000, 64)], 32, .tree, none, .any, false,
    [⟨11, 8, .ro, 0x0⟩, ⟨7, 4, .ro, 0x0⟩, ⟨3, 0, .ro, 0x0⟩]⟩,
  -- TRE_DISC_CFG (05_coma_discovery_and_ranging.md): MODE, COMA_PERIOD, ACCESS_INIT, QW_PERIOD, DISC_W, AUTO_REAUTH, QW_NOW
  ⟨.treDiscCfg, 0x1000100, [(0x4000, 64)], 32, .tree, some 0, .any, false,
    [⟨31, 30, .rw, 0x1⟩, ⟨29, 20, .rw, 0x20⟩, ⟨19, 16, .rw, 0x8⟩, ⟨15, 8, .rw, 0xA⟩, ⟨7, 4, .rw, 0xF⟩, ⟨3, 3, .rw, 0x1⟩, ⟨2, 2, .wo, 0x0⟩]⟩,
  -- TRE_REG_CFG (05_coma_discovery_and_ranging.md): AUTH_TIMEOUT, LOST_TIMEOUT, LOST_MISSES
  ⟨.treRegCfg, 0x1000104, [(0x4000, 64)], 32, .tree, some 0, .any, false,
    [⟨31, 20, .rw, 0x3E8⟩, ⟨19, 8, .rw, 0x3E8⟩, ⟨7, 3, .rw, 0x10⟩]⟩,
  -- TRE_ROGUE_CFG (05_coma_discovery_and_ranging.md): AUTO, AUTO_DISABLE, CLEAR, START, START_W, ROGUE_DET, PROBE_LEN, PROBE_REP
  ⟨.treRogueCfg, 0x1000108, [(0x4000, 64)], 32, .tree, some 11, .any, false,
    [⟨31, 31, .rw, 0x1⟩, ⟨30, 30, .rw, 0x1⟩, ⟨29, 29, .wo, 0x0⟩, ⟨28, 28, .wo, 0x0⟩, ⟨27, 26, .rw, 0x0⟩, ⟨23, 20, .rw, 0x4⟩, ⟨15, 8, .rw, 0x10⟩, ⟨7, 0, .rw, 0x20⟩]⟩,
  -- TRE_ROGUE_STAT (05_coma_discovery_and_ranging.md): STATE, W, REGISTERED, SLOT, SH
  ⟨.treRogueStat, 0x100010C, [(0x4000, 64)], 32, .tree, none, .any, false,
    [⟨31, 28, .ro, 0x0⟩, ⟨27, 26, .ro, 0x0⟩, ⟨25, 25, .ro, 0x0⟩, ⟨24, 16, .ro, 0x0⟩, ⟨15, 0, .ro, 0x0⟩]⟩,
  -- TRE_TERM (05_coma_discovery_and_ranging.md): EPOCH, EXPECT, DETAIL, STATE
  ⟨.treTerm, 0x1001000, [(0x4000, 64), (0x4, 512)], 32, .tree, some 0, .any, false,
    [⟨31, 24, .ro, 0x0⟩, ⟨23, 16, .wo, 0x0⟩, ⟨15, 8, .ro, 0x0⟩, ⟨7, 0, .rw, 0x0⟩]⟩,
  -- TRE_TERM_INFO (05_coma_discovery_and_ranging.md): SERIAL, EQD, W, PART, CAPS, DYING_GASP, SH
  ⟨.treTermInfo, 0x1002000, [(0x4000, 64), (0x10, 512)], 128, .tree, some 0, .any, true,
    [⟨127, 64, .rw, 0x0⟩, ⟨63, 37, .rw, 0x0⟩, ⟨36, 35, .rw, 0x0⟩, ⟨34, 29, .rw, 0x0⟩, ⟨28, 25, .rw, 0x0⟩, ⟨24, 24, .rw, 0x0⟩, ⟨15, 0, .rw, 0x0⟩]⟩
  ]
def regsTre1 : List RegDesc := [
  -- TRE_TRANSIT_REQ (08_transit_and_eclipse.md): SWITCH_CYCLE, EXPECT, OP, DEST_W, SLOT
  ⟨.treTransitReq, 0x1000200, [(0x4000, 64)], 128, .tree, some 5, .any, true,
    [⟨127, 80, .wo, 0x0⟩, ⟨79, 72, .wo, 0x0⟩, ⟨71, 70, .wo, 0x0⟩, ⟨69, 68, .wo, 0x0⟩, ⟨67, 59, .wo, 0x0⟩]⟩,
  -- TRE_TRANSIT_RESULT (08_transit_and_eclipse.md): STATUS, EPOCH, SWITCH_CYCLE
  ⟨.treTransitResult, 0x1000210, [(0x4000, 64)], 64, .tree, none, .any, false,
    [⟨63, 60, .ro, 0x0⟩, ⟨55, 48, .ro, 0x0⟩, ⟨47, 0, .ro, 0x0⟩]⟩,
  -- TRE_TRANSIT_CFG (08_transit_and_eclipse.md): MAX_INFLIGHT, ECL_TIMEOUT
  ⟨.treTransitCfg, 0x1000218, [(0x4000, 64)], 32, .tree, some 5, .any, false,
    [⟨31, 28, .rw, 0x8⟩, ⟨15, 0, .rw, 0x7D0⟩]⟩,
  -- TRE_FOLD_CFG (08_transit_and_eclipse.md): FOLD_EN, BAL_EN, FOLD_START, FOLD_END, FOLD_PCT, UNFOLD_PCT, BAL_PCT
  ⟨.treFoldCfg, 0x1000220, [(0x4000, 64)], 64, .tree, some 5, .any, false,
    [⟨63, 63, .rw, 0x0⟩, ⟨62, 62, .rw, 0x0⟩, ⟨61, 51, .rw, 0x5A⟩, ⟨50, 40, .rw, 0x168⟩, ⟨39, 33, .rw, 0x28⟩, ⟨32, 26, .rw, 0x46⟩, ⟨25, 19, .rw, 0x19⟩]⟩,
  -- TRE_FOLD_STAT (08_transit_and_eclipse.md): STATE, ECLIPSED, INFLIGHT, MOVED
  ⟨.treFoldStat, 0x1000228, [(0x4000, 64)], 32, .tree, none, .any, false,
    [⟨31, 28, .ro, 0x0⟩, ⟨27, 24, .ro, 0x0⟩, ⟨23, 16, .ro, 0x0⟩, ⟨15, 0, .ro, 0x0⟩]⟩,
  -- TRE_TRANSIT_EVENT (08_transit_and_eclipse.md): ECL_TIMEOUT, UNFOLD_DONE, FOLD_PARTIAL, FOLD_DONE, TRANSIT_FAILED, TRANSIT_DONE
  ⟨.treTransitEvent, 0x100022C, [(0x4000, 64)], 32, .tree, none, .any, false,
    [⟨5, 5, .w1c, 0x0⟩, ⟨4, 4, .w1c, 0x0⟩, ⟨3, 3, .w1c, 0x0⟩, ⟨2, 2, .w1c, 0x0⟩, ⟨1, 1, .w1c, 0x0⟩, ⟨0, 0, .w1c, 0x0⟩]⟩,
  -- TRE_TRANSIT_STAT (08_transit_and_eclipse.md): PHASE, SRC_W, DEST_W, DS_DEST, US_DEST, RESULT, WL_MASK, RETUNE_US
  ⟨.treTransitStat, 0x1001800, [(0x4000, 64), (0x4, 512)], 32, .tree, none, .any, false,
    [⟨31, 28, .ro, 0x0⟩, ⟨27, 26, .ro, 0x0⟩, ⟨25, 24, .ro, 0x0⟩, ⟨23, 23, .ro, 0x0⟩, ⟨22, 22, .ro, 0x0⟩, ⟨21, 18, .ro, 0x0⟩, ⟨17, 14, .ro, 0x0⟩, ⟨13, 0, .ro, 0x0⟩]⟩,
  -- TRE_MOD_STAT (19 R463): LIGHT_CHG, INT_SEEN, MOD_INT, LIGHT
  ⟨.treModStat, 0x1000300, [(0x4000, 64)], 32, .tree, none, .any, false,
    [⟨3, 3, .w1c, 0x0⟩, ⟨2, 2, .w1c, 0x0⟩, ⟨1, 1, .ro, 0x0⟩, ⟨0, 0, .ro, 0x0⟩]⟩
  ]
/-- The registers of block TRE. -/
def regsTre : List RegDesc := regsTre0 ++ regsTre1

def regsChn0 : List RegDesc := [
  -- CHN_STATE (04_channel_line.md): EPOCH, EXPECT, DETAIL, STATE
  ⟨.chnState, 0x2000000, [(0x40000, 256)], 32, .warm, none, .any, false,
    [⟨31, 24, .ro, 0x0⟩, ⟨23, 16, .wo, 0x0⟩, ⟨15, 8, .ro, 0x0⟩, ⟨7, 0, .rw, 0x0⟩]⟩,
  -- CHN_CYCLE (04_channel_line.md): CYCLE_COUNT
  ⟨.chnCycle, 0x2000008, [(0x40000, 256)], 64, .cold, none, .any, false,
    [⟨47, 0, .ro, 0x0⟩]⟩,
  -- CHN_DELIM_CFG (04_channel_line.md): EN, THRESH
  ⟨.chnDelimCfg, 0x2000010, [(0x40000, 256)], 32, .channel, some 0, .any, false,
    [⟨10, 8, .rw, 0x7⟩, ⟨4, 0, .rw, 0xC⟩]⟩,
  -- CHN_TLR_CFG (04_channel_line.md): AGE_LIMIT, QUAL_MIN, LOSS_COLD
  ⟨.chnTlrCfg, 0x2000014, [(0x40000, 256)], 32, .channel, some 9, .any, false,
    [⟨31, 16, .rw, 0x40⟩, ⟨15, 8, .rw, 0x48⟩, ⟨2, 0, .rw, 0x2⟩]⟩,
  -- CHN_TLR_CMD (04_channel_line.md): OP, SLOT
  ⟨.chnTlrCmd, 0x2000018, [(0x40000, 256)], 32, .channel, some 9, .any, false,
    [⟨31, 28, .wo, 0x0⟩, ⟨8, 0, .wo, 0x0⟩]⟩,
  -- CHN_OPT_CFG (04_channel_line.md): BRST_WID, BRST_OFS
  ⟨.chnOptCfg, 0x200001C, [(0x40000, 256)], 32, .channel, none, .any, false,
    [⟨14, 8, .rw, 0x2A⟩, ⟨6, 0, .rw, 0xA⟩]⟩,
  -- CHN_TRACE_CFG (04_channel_line.md): DEBOUNCE, EXP_SRC, ACTION
  ⟨.chnTraceCfg, 0x2000020, [(0x40000, 256)], 32, .channel, some 0, .any, false,
    [⟨7, 4, .rw, 0x8⟩, ⟨1, 1, .rw, 0x0⟩, ⟨0, 0, .rw, 0x0⟩]⟩,
  -- CHN_TRACE_EXP (04_channel_line.md): BYTES
  ⟨.chnTraceExp, 0x2000030, [(0x40000, 256), (0x4, 4)], 32, .channel, some 0, .any, false,
    [⟨31, 0, .rw, 0x0⟩]⟩
  ]
def regsChn1 : List RegDesc := [
  -- CHN_TRACE_MM (04_channel_line.md): MM
  ⟨.chnTraceMm, 0x2000040, [(0x40000, 256), (0x4, 16)], 32, .channel, none, .any, false,
    [⟨31, 0, .ro, 0x0⟩]⟩,
  -- CHN_EVENT (04_channel_line.md): CRS_CSF, US_SILENT, TRACE_CLR, TRACE_SET, TCA_TERM, TCA_CH
  ⟨.chnEvent, 0x2000080, [(0x40000, 256)], 32, .channel, none, .any, false,
    [⟨5, 5, .w1c, 0x0⟩, ⟨4, 4, .w1c, 0x0⟩, ⟨3, 3, .w1c, 0x0⟩, ⟨2, 2, .w1c, 0x0⟩, ⟨1, 1, .w1c, 0x0⟩, ⟨0, 0, .w1c, 0x0⟩]⟩,
  -- CHN_CRS (04_channel_line.md): EN, KM1, S, NOM, STREAM, SLOT, QID
  ⟨.chnCrs, 0x2000100, [(0x40000, 256), (0x8, 64)], 64, .channel, some 2, .any, false,
    [⟨63, 63, .rw, 0x0⟩, ⟨62, 60, .rw, 0x0⟩, ⟨59, 56, .rw, 0x1⟩, ⟨55, 40, .rw, 0x0⟩, ⟨39, 35, .rw, 0x0⟩, ⟨34, 26, .rw, 0x0⟩, ⟨19, 0, .rw, 0x0⟩]⟩,
  -- CHN_TCA_THR (04_channel_line.md): THRESHOLD
  ⟨.chnTcaThr, 0x2000400, [(0x40000, 256), (0x4, 64)], 32, .channel, some 10, .any, false,
    [⟨31, 0, .rw, 0x0⟩]⟩,
  -- CHN_TCA_TERM (04_channel_line.md): TCA
  ⟨.chnTcaTerm, 0x2000500, [(0x40000, 256), (0x4, 16)], 32, .channel, none, .any, false,
    [⟨31, 0, .w1c, 0x0⟩]⟩,
  -- CHN_PM_SEL (04_channel_line.md): SCOPE, SLOT, BIN, COUNTER
  ⟨.chnPmSel, 0x2000600, [(0x40000, 256)], 32, .channel, none, .any, false,
    [⟨31, 31, .rw, 0x0⟩, ⟨24, 16, .rw, 0x0⟩, ⟨12, 8, .rw, 0x0⟩, ⟨3, 0, .rw, 0x0⟩]⟩,
  -- CHN_PM_DATA (04_channel_line.md): SUSPECT, TCA, COUNT
  ⟨.chnPmData, 0x2000608, [(0x40000, 256)], 64, .channel, none, .any, false,
    [⟨63, 63, .ro, 0x0⟩, ⟨62, 62, .ro, 0x0⟩, ⟨47, 0, .ro, 0x0⟩]⟩,
  -- CHN_PM_BINTIME (04_channel_line.md): START_SEC
  ⟨.chnPmBintime, 0x2000610, [(0x40000, 256)], 32, .channel, none, .any, false,
    [⟨31, 0, .ro, 0x0⟩]⟩
  ]
def regsChn2 : List RegDesc := [
  -- CHN_DISC_EVENT (05_coma_discovery_and_ranging.md): TREE_FULL, TERM_DUP_SERIAL, TCM_REPLAY, COMA_NO_REPLY, QW_COLLISION, ROGUE_SUSPECT, COMA_OVERLOAD, COMA_PEAK
  ⟨.chnDiscEvent, 0x2000088, [(0x40000, 256)], 32, .channel, none, .any, false,
    [⟨7, 7, .w1c, 0x0⟩, ⟨6, 6, .w1c, 0x0⟩, ⟨5, 5, .w1c, 0x0⟩, ⟨4, 4, .w1c, 0x0⟩, ⟨3, 3, .w1c, 0x0⟩, ⟨2, 2, .w1c, 0x0⟩, ⟨1, 1, .w1c, 0x0⟩, ⟨0, 0, .w1c, 0x0⟩]⟩,
  -- CHN_COMA_CAND (05_coma_discovery_and_ranging.md): VALID, DUP, CODE, MAG, EPOCH, DELTA
  ⟨.chnComaCand, 0x2000800, [(0x40000, 256), (0x8, 4)], 64, .channel, none, .any, false,
    [⟨63, 63, .ro, 0x0⟩, ⟨62, 62, .ro, 0x0⟩, ⟨61, 56, .ro, 0x0⟩, ⟨55, 48, .ro, 0x0⟩, ⟨47, 32, .ro, 0x0⟩, ⟨26, 0, .ro, 0x0⟩]⟩,
  -- CHN_COMA_STAT (05_coma_discovery_and_ranging.md): ACCESS, PEAKS, OVERLOAD, EPOCHS
  ⟨.chnComaStat, 0x2000840, [(0x40000, 256)], 32, .channel, none, .any, false,
    [⟨31, 28, .ro, 0x0⟩, ⟨27, 25, .ro, 0x0⟩, ⟨24, 24, .ro, 0x0⟩, ⟨23, 0, .ro, 0x0⟩]⟩,
  -- CHN_TCM_TX (05_coma_discovery_and_ranging.md): BYTES
  ⟨.chnTcmTx, 0x2000880, [(0x40000, 256), (0x4, 11)], 32, .channel, none, .any, false,
    [⟨31, 0, .wo, 0x0⟩]⟩,
  -- CHN_TCM_TXSTAT (05_coma_discovery_and_ranging.md): STATUS, DEPTH
  ⟨.chnTcmTxstat, 0x20008B0, [(0x40000, 256)], 32, .channel, none, .any, false,
    [⟨31, 28, .ro, 0x0⟩, ⟨10, 0, .ro, 0x0⟩]⟩,
  -- CHN_ENERGY_CFG (05_coma_discovery_and_ranging.md): THR, MIN_GAP
  ⟨.chnEnergyCfg, 0x20008C0, [(0x40000, 256)], 32, .channel, some 11, .any, false,
    [⟨23, 16, .rw, 0x18⟩, ⟨9, 0, .rw, 0x200⟩]⟩,
  -- CHN_ENERGY_STAT (05_coma_discovery_and_ranging.md): HIST
  ⟨.chnEnergyStat, 0x20008C4, [(0x40000, 256)], 32, .channel, none, .any, false,
    [⟨31, 16, .ro, 0x0⟩]⟩,
  -- CHN_GE_CFG (06_upstream_grants.md): MODE, FALLBACK, BURST_CAP, MIN_SURPLUS
  ⟨.chnGeCfg, 0x2000900, [(0x40000, 256)], 32, .channel, some 1, .any, false,
    [⟨31, 30, .rw, 0x0⟩, ⟨29, 29, .rw, 0x0⟩, ⟨23, 16, .rw, 0x80⟩, ⟨15, 8, .rw, 0x40⟩]⟩
  ]
def regsChn3 : List RegDesc := [
  -- CHN_GE_ASSURED (06_upstream_grants.md): CAP
  ⟨.chnGeAssured, 0x2000904, [(0x40000, 256)], 32, .channel, some 1, .any, false,
    [⟨21, 0, .rw, 0x2625A0⟩]⟩,
  -- CHN_GE_ASSURED_USED (06_upstream_grants.md): USED
  ⟨.chnGeAssuredUsed, 0x2000908, [(0x40000, 256)], 32, .channel, none, .any, false,
    [⟨21, 0, .ro, 0x0⟩]⟩,
  -- CHN_GE_SYSWIN (06_upstream_grants.md): SYS_ENTRIES, SYS_START
  ⟨.chnGeSyswin, 0x200090C, [(0x40000, 256)], 32, .channel, some 1, .any, false,
    [⟨31, 28, .rw, 0x4⟩, ⟨16, 0, .rw, 0x19F38⟩]⟩,
  -- CHN_GE_SYSREQ (06_upstream_grants.md): CYCLE, GKIND, START, LENGTH, TCM_EN, ID
  ⟨.chnGeSysreq, 0x2000910, [(0x40000, 256)], 128, .channel, some 0, .any, true,
    [⟨127, 80, .wo, 0x0⟩, ⟨79, 78, .wo, 0x0⟩, ⟨77, 61, .wo, 0x0⟩, ⟨60, 44, .wo, 0x0⟩, ⟨43, 43, .wo, 0x0⟩, ⟨42, 28, .wo, 0x0⟩]⟩,
  -- CHN_GE_SYSSTAT (06_upstream_grants.md): STATUS, BOOKED
  ⟨.chnGeSysstat, 0x2000920, [(0x40000, 256)], 32, .channel, none, .any, false,
    [⟨31, 28, .ro, 0x0⟩, ⟨3, 0, .ro, 0x0⟩]⟩,
  -- CHN_GE_RING_CTL (06_upstream_grants.md): RD_IDX, WR_IDX
  ⟨.chnGeRingCtl, 0x2000928, [(0x40000, 256)], 32, .channel, some 1, .any, false,
    [⟨20, 16, .ro, 0x0⟩, ⟨4, 0, .rw, 0x0⟩]⟩,
  -- CHN_GE_EVENT (06_upstream_grants.md): NO_ALLOC, REPORT_ERR, RING_EMPTY, RING_REFUSED, CAP_DEFER, STD_SHORT, ASSURED_SHORT
  ⟨.chnGeEvent, 0x2000930, [(0x40000, 256)], 32, .channel, none, .any, false,
    [⟨6, 6, .w1c, 0x0⟩, ⟨5, 5, .w1c, 0x0⟩, ⟨4, 4, .w1c, 0x0⟩, ⟨3, 3, .w1c, 0x0⟩, ⟨2, 2, .w1c, 0x0⟩, ⟨1, 1, .w1c, 0x0⟩, ⟨0, 0, .w1c, 0x0⟩]⟩,
  -- CHN_GE_LAST (06_upstream_grants.md): CYCLE, BURSTS, ENTRIES, COLD, DEFERRED, IDLE
  ⟨.chnGeLast, 0x2000938, [(0x40000, 256)], 64, .channel, none, .any, false,
    [⟨63, 48, .ro, 0x0⟩, ⟨47, 40, .ro, 0x0⟩, ⟨39, 32, .ro, 0x0⟩, ⟨31, 24, .ro, 0x0⟩, ⟨23, 17, .ro, 0x0⟩, ⟨16, 0, .ro, 0x0⟩]⟩
  ]
def regsChn4 : List RegDesc := [
  -- CHN_DS_PART (07_downstream_scheduling.md): CIR, PIR, CBS, PBS, PRIO, PROPAGATE, TOKEN_ON_WRITE, WEIGHT
  ⟨.chnDsPart, 0x2000C00, [(0x40000, 256), (0x10, 64)], 128, .channel, some 2, .any, true,
    [⟨126, 105, .rw, 0x0⟩, ⟨104, 83, .rw, 0x0⟩, ⟨82, 67, .rw, 0x0⟩, ⟨66, 51, .rw, 0x0⟩, ⟨50, 48, .rw, 0x0⟩, ⟨47, 47, .rw, 0x0⟩, ⟨46, 46, .rw, 0x0⟩, ⟨45, 38, .rw, 0x1⟩]⟩,
  -- CHN_GCL_CTL (07_downstream_scheduling.md): ENABLE, INSTALL, DEFAULT_GATES, WAIT_LIMIT
  ⟨.chnGclCtl, 0x2000B00, [(0x40000, 256)], 32, .channel, some 2, .any, false,
    [⟨31, 31, .rw, 0x0⟩, ⟨30, 30, .wo, 0x0⟩, ⟨23, 16, .rw, 0xFF⟩, ⟨7, 0, .rw, 0x10⟩]⟩,
  -- CHN_GCL_STAT (07_downstream_scheduling.md): RUNNING, PENDING, START_MOVED, SHORT, GATES, ENTRY
  ⟨.chnGclStat, 0x2000B04, [(0x40000, 256)], 32, .channel, none, .any, false,
    [⟨31, 31, .ro, 0x0⟩, ⟨30, 30, .ro, 0x0⟩, ⟨29, 29, .ro, 0x0⟩, ⟨23, 16, .ro, 0x0⟩, ⟨15, 8, .ro, 0xFF⟩, ⟨7, 0, .ro, 0x0⟩]⟩,
  -- CHN_GCL_ADMIN_BASE (07_downstream_scheduling.md): BASE, TB
  ⟨.chnGclAdminBase, 0x2000B10, [(0x40000, 256)], 128, .channel, some 2, .any, true,
    [⟨127, 32, .rw, 0x0⟩, ⟨31, 29, .rw, 0x0⟩]⟩,
  -- CHN_GCL_ADMIN_CYC (07_downstream_scheduling.md): ENTRIES, CYCLE_NS
  ⟨.chnGclAdminCyc, 0x2000B20, [(0x40000, 256)], 64, .channel, some 2, .any, false,
    [⟨40, 32, .rw, 0x1⟩, ⟨29, 0, .rw, 0x3B9ACA00⟩]⟩,
  -- CHN_GCL_OPER_START (07_downstream_scheduling.md): S
  ⟨.chnGclOperStart, 0x2000B30, [(0x40000, 256)], 128, .channel, none, .any, false,
    [⟨127, 32, .ro, 0x0⟩]⟩,
  -- CHN_GCL_MTU (07_downstream_scheduling.md): GATE_MTU
  ⟨.chnGclMtu, 0x2000B40, [(0x40000, 256), (0x4, 8)], 32, .channel, some 2, .any, false,
    [⟨13, 0, .rw, 0x2400⟩]⟩,
  -- CHN_GCL_ADMIN (07_downstream_scheduling.md): GATES, OP, INTERVAL
  ⟨.chnGclAdmin, 0x2030000, [(0x40000, 256), (0x8, 256)], 64, .channel, some 2, .any, false,
    [⟨63, 56, .rw, 0xFF⟩, ⟨55, 52, .rw, 0x0⟩, ⟨29, 0, .rw, 0x20⟩]⟩
  ]
def regsChn5 : List RegDesc := [
  -- CHN_DS_EVENT (07_downstream_scheduling.md): GCL_STEP, GATE_WAIT_DROP, GATE_OVERSIZE, GCL_SHORT, GCL_START_MOVED, GCL_STARTED
  ⟨.chnDsEvent, 0x2000B60, [(0x40000, 256)], 32, .channel, none, .any, false,
    [⟨5, 5, .w1c, 0x0⟩, ⟨4, 4, .w1c, 0x0⟩, ⟨3, 3, .w1c, 0x0⟩, ⟨2, 2, .w1c, 0x0⟩, ⟨1, 1, .w1c, 0x0⟩, ⟨0, 0, .w1c, 0x0⟩]⟩,
  -- CHN_ECL_STAT (08_transit_and_eclipse.md): ENTRIES, WAKE_MS, REASON
  ⟨.chnEclStat, 0x2001000, [(0x40000, 256)], 32, .warm, none, .any, false,
    [⟨31, 16, .ro, 0x0⟩, ⟨15, 8, .ro, 0x0⟩, ⟨3, 0, .ro, 0x0⟩]⟩,
  -- CHN_KEY_CFG (09_payload_protection.md): SOFT_PCT, RETIRE, CLEAR_US, SYNC_FAIL
  ⟨.chnKeyCfg, 0x2001150, [(0x40000, 256)], 32, .channel, some 3, .any, false,
    [⟨31, 25, .rw, 0x5A⟩, ⟨24, 16, .rw, 0x40⟩, ⟨15, 15, .rw, 0x0⟩, ⟨11, 8, .rw, 0x8⟩]⟩,
  -- CHN_KEY_INSTALL (09_payload_protection.md): EXPECT, SLOT, TAG12, LIMIT_4K, KEY_GEN, WRAPPED
  ⟨.chnKeyInstall, 0x2001100, [(0x40000, 256)], 512, .channel, some 3, .any, true,
    [⟨511, 504, .wo, 0x0⟩, ⟨503, 493, .wo, 0x0⟩, ⟨492, 492, .wo, 0x0⟩, ⟨490, 467, .wo, 0x0⟩, ⟨466, 451, .wo, 0x0⟩, ⟨319, 0, .wo, 0x0⟩]⟩,
  -- CHN_KEY_INSTALL_STAT (09_payload_protection.md): STATUS, EPOCH, STATE
  ⟨.chnKeyInstallStat, 0x2001140, [(0x40000, 256)], 32, .channel, none, .any, false,
    [⟨31, 28, .ro, 0x0⟩, ⟨23, 16, .ro, 0x0⟩, ⟨15, 8, .ro, 0x0⟩]⟩,
  -- CHN_KEY_SLOT (09_payload_protection.md): INVOC, KEY_GEN, LIMIT_4K, TAG12, SHADOW, RESUMED, EPOCH, EXPECT, DETAIL, STATE
  ⟨.chnKeySlot, 0x2004000, [(0x40000, 256), (0x10, 2048)], 128, .channel, some 3, .any, false,
    [⟨127, 80, .ro, 0x0⟩, ⟨79, 64, .ro, 0x0⟩, ⟨63, 40, .ro, 0x0⟩, ⟨39, 39, .ro, 0x0⟩, ⟨38, 38, .ro, 0x0⟩, ⟨37, 37, .ro, 0x0⟩, ⟨31, 24, .ro, 0x0⟩, ⟨23, 16, .wo, 0x0⟩, ⟨15, 8, .ro, 0x0⟩, ⟨7, 0, .rw, 0x0⟩]⟩,
  -- CHN_KEY_ATTN (09_payload_protection.md): ATTN
  ⟨.chnKeyAttn, 0x2001180, [(0x40000, 256), (0x4, 16)], 32, .channel, none, .any, false,
    [⟨31, 0, .w1c, 0x0⟩]⟩,
  -- CHN_KEY_EVENT (09_payload_protection.md): CORE_FAIL, RESUME_REFUSED, CTX_OVERFLOW, ERASE_ABORT, US_DESYNC, KEY_EXHAUSTED, KEY_SOFT
  ⟨.chnKeyEvent, 0x2001154, [(0x40000, 256)], 32, .channel, none, .any, false,
    [⟨6, 6, .w1c, 0x0⟩, ⟨5, 5, .w1c, 0x0⟩, ⟨4, 4, .w1c, 0x0⟩, ⟨3, 3, .w1c, 0x0⟩, ⟨2, 2, .w1c, 0x0⟩, ⟨1, 1, .w1c, 0x0⟩, ⟨0, 0, .w1c, 0x0⟩]⟩
  ]
def regsChn6 : List RegDesc := [
  -- CHN_TIME_CFG (14_time_and_timed_actions.md): ASYM_K, OPT_TX_PS, OPT_RX_PS, ANCHOR_TB, ANCHOR_EN
  ⟨.chnTimeCfg, 0x2001300, [(0x40000, 256)], 128, .warm, some 4, .any, true,
    [⟨127, 96, .rw, 0x80000000⟩, ⟨95, 80, .rw, 0x0⟩, ⟨79, 64, .rw, 0x0⟩, ⟨63, 61, .rw, 0x0⟩, ⟨60, 60, .rw, 0x1⟩]⟩,
  -- CHN_TIME_C50 (14_time_and_timed_actions.md): SFC, TIME
  ⟨.chnTimeC50, 0x2001310, [(0x40000, 256)], 128, .channel, some 4, .any, false,
    [⟨127, 96, .rw, 0x0⟩, ⟨95, 0, .ro, 0x0⟩]⟩,
  -- CHN_GE_CNT (06 R197): COUNT
  ⟨.chnGeCnt, 0x2000A00, [(0x40000, 256), (0x8, 16)], 64, .channel, none, .any, false,
    [⟨63, 0, .ro, 0x0⟩]⟩,
  -- CHN_DS_CNT (07 R226): COUNT
  ⟨.chnDsCnt, 0x2000B80, [(0x40000, 256), (0x8, 8)], 64, .channel, none, .any, false,
    [⟨63, 0, .ro, 0x0⟩]⟩,
  -- CHN_CIPH_CNT (09 R272): COUNT
  ⟨.chnCiphCnt, 0x2001200, [(0x40000, 256), (0x8, 16)], 64, .channel, none, .any, false,
    [⟨63, 0, .ro, 0x0⟩]⟩,
  -- FI_CFG_DS (17 R442): ARM, OP, MODE, SKIP, COUNT_PROB, DELAY_N, OFS, MATCH
  ⟨.fiCfgDs, 0x2001400, [(0x40000, 256)], 128, .warm, none, .any, true,
    [⟨127, 127, .rw, 0x0⟩, ⟨126, 124, .rw, 0x0⟩, ⟨123, 123, .rw, 0x0⟩, ⟨111, 96, .rw, 0x0⟩, ⟨95, 72, .rw, 0x0⟩, ⟨71, 64, .rw, 0x1⟩, ⟨63, 48, .rw, 0x0⟩, ⟨47, 32, .rw, 0xFFFF⟩]⟩,
  -- FI_PAT_DS (17 R442): PAT
  ⟨.fiPatDs, 0x2001410, [(0x40000, 256)], 64, .warm, none, .any, false,
    [⟨63, 0, .rw, 0x0⟩]⟩,
  -- FI_STAT_DS (17 R442): AFFECTED, MISSED, ARMED
  ⟨.fiStatDs, 0x2001418, [(0x40000, 256)], 64, .warm, none, .any, false,
    [⟨63, 32, .ro, 0x0⟩, ⟨31, 16, .ro, 0x0⟩, ⟨0, 0, .ro, 0x0⟩]⟩
  ]
def regsChn7 : List RegDesc := [
  -- FI_CFG_US (17 R442): ARM, OP, MODE, SKIP, COUNT_PROB, DELAY_N, OFS, MATCH
  ⟨.fiCfgUs, 0x2001420, [(0x40000, 256)], 128, .warm, none, .any, true,
    [⟨127, 127, .rw, 0x0⟩, ⟨126, 124, .rw, 0x0⟩, ⟨123, 123, .rw, 0x0⟩, ⟨111, 96, .rw, 0x0⟩, ⟨95, 72, .rw, 0x0⟩, ⟨71, 64, .rw, 0x1⟩, ⟨63, 48, .rw, 0x0⟩, ⟨47, 32, .rw, 0xFFFF⟩]⟩,
  -- FI_PAT_US (17 R442): PAT
  ⟨.fiPatUs, 0x2001430, [(0x40000, 256)], 64, .warm, none, .any, false,
    [⟨63, 0, .rw, 0x0⟩]⟩,
  -- FI_STAT_US (17 R442): AFFECTED, MISSED, ARMED
  ⟨.fiStatUs, 0x2001438, [(0x40000, 256)], 64, .warm, none, .any, false,
    [⟨63, 32, .ro, 0x0⟩, ⟨31, 16, .ro, 0x0⟩, ⟨0, 0, .ro, 0x0⟩]⟩
  ]
/-- The registers of block CHN. -/
def regsChn : List RegDesc := regsChn0 ++ regsChn1 ++ regsChn2 ++ regsChn3 ++ regsChn4 ++ regsChn5 ++ regsChn6 ++ regsChn7

def regsUpl0 : List RegDesc := [
  -- UPL_GCL_FIT (07_downstream_scheduling.md): FIT_MARGIN_NS
  ⟨.uplGclFit, 0x800764, [(0x1000, 256)], 32, .warm, none, .any, false,
    [⟨7, 0, .rw, 0x14⟩]⟩,
  -- UPL_GRP_MODE (12_forwarding_tables.md): G16, HALF1, HALF0
  ⟨.uplGrpMode, 0x800010, [(0x1000, 256)], 32, .warm, none, .pfOnly, false,
    [⟨8, 8, .rw, 0x0⟩, ⟨6, 4, .rw, 0x0⟩, ⟨2, 0, .rw, 0x0⟩]⟩,
  -- UPL_PORT_CFG (12_forwarding_tables.md): EN, IFACE, AN_EN, UPTAG_RX, UPTAG_TX, PFC_RX, PART_DEFAULT, MTU
  ⟨.uplPortCfg, 0x800000, [(0x1000, 256)], 32, .warm, none, .pfOnly, false,
    [⟨31, 31, .rw, 0x0⟩, ⟨30, 29, .rw, 0x0⟩, ⟨28, 28, .rw, 0x0⟩, ⟨27, 27, .rw, 0x0⟩, ⟨26, 26, .rw, 0x0⟩, ⟨25, 25, .rw, 0x0⟩, ⟨19, 14, .rw, 0x0⟩, ⟨13, 0, .rw, 0x2600⟩]⟩,
  -- UPL_PORT_STAT (12_forwarding_tables.md): LINK_UP, AN_DONE, EXISTS, FEC_UNCORR
  ⟨.uplPortStat, 0x800004, [(0x1000, 256)], 32, .warm, none, .any, false,
    [⟨31, 31, .ro, 0x0⟩, ⟨30, 30, .ro, 0x0⟩, ⟨29, 29, .ro, 0x0⟩, ⟨23, 0, .ro, 0x0⟩]⟩,
  -- UPL_TS_CFG (14_time_and_timed_actions.md): PTP_EN, ONE_STEP, PTP_TB, TX_CORR, RX_CORR
  ⟨.uplTsCfg, 0x800020, [(0x1000, 256)], 32, .warm, none, .any, false,
    [⟨31, 31, .rw, 0x0⟩, ⟨30, 30, .rw, 0x0⟩, ⟨29, 27, .rw, 0x0⟩, ⟨23, 12, .rw, 0x0⟩, ⟨11, 0, .rw, 0x0⟩]⟩,
  -- UPL_GCL_CTL (07 R227): ENABLE, INSTALL, DEFAULT_GATES, WAIT_LIMIT
  ⟨.uplGclCtl, 0x800700, [(0x1000, 256)], 32, .warm, none, .pfOnly, false,
    [⟨31, 31, .rw, 0x0⟩, ⟨30, 30, .wo, 0x0⟩, ⟨23, 16, .rw, 0xFF⟩, ⟨7, 0, .rw, 0x10⟩]⟩,
  -- UPL_GCL_STAT (07 R227): RUNNING, PENDING, START_MOVED, SHORT, GATES, ENTRY
  ⟨.uplGclStat, 0x800704, [(0x1000, 256)], 32, .warm, none, .pfOnly, false,
    [⟨31, 31, .ro, 0x0⟩, ⟨30, 30, .ro, 0x0⟩, ⟨29, 29, .ro, 0x0⟩, ⟨23, 16, .ro, 0x0⟩, ⟨15, 8, .ro, 0xFF⟩, ⟨7, 0, .ro, 0x0⟩]⟩,
  -- UPL_GCL_ADMIN_BASE (07 R227): BASE, TB
  ⟨.uplGclAdminBase, 0x800710, [(0x1000, 256)], 128, .warm, none, .pfOnly, true,
    [⟨127, 32, .rw, 0x0⟩, ⟨31, 29, .rw, 0x0⟩]⟩
  ]
def regsUpl1 : List RegDesc := [
  -- UPL_GCL_ADMIN_CYC (07 R227): ENTRIES, CYCLE_NS
  ⟨.uplGclAdminCyc, 0x800720, [(0x1000, 256)], 64, .warm, none, .pfOnly, false,
    [⟨40, 32, .rw, 0x1⟩, ⟨29, 0, .rw, 0x3B9ACA00⟩]⟩,
  -- UPL_GCL_OPER_START (07 R227): S
  ⟨.uplGclOperStart, 0x800730, [(0x1000, 256)], 128, .warm, none, .pfOnly, false,
    [⟨127, 32, .ro, 0x0⟩]⟩,
  -- UPL_GCL_MTU (07 R227): GATE_MTU
  ⟨.uplGclMtu, 0x800740, [(0x1000, 256), (0x4, 8)], 32, .warm, none, .pfOnly, false,
    [⟨13, 0, .rw, 0x2400⟩]⟩,
  -- UPL_GCL_EVENT (07 R227): GCL_STEP, GATE_WAIT_DROP, GATE_OVERSIZE, GCL_SHORT, GCL_START_MOVED, GCL_STARTED
  ⟨.uplGclEvent, 0x800760, [(0x1000, 256)], 32, .warm, none, .pfOnly, false,
    [⟨5, 5, .w1c, 0x0⟩, ⟨4, 4, .w1c, 0x0⟩, ⟨3, 3, .w1c, 0x0⟩, ⟨2, 2, .w1c, 0x0⟩, ⟨1, 1, .w1c, 0x0⟩, ⟨0, 0, .w1c, 0x0⟩]⟩,
  -- UPL_GCL_ADMIN (07 R227): GATES, OP, INTERVAL
  ⟨.uplGclAdmin, 0x800800, [(0x1000, 256), (0x8, 256)], 64, .warm, none, .pfOnly, false,
    [⟨63, 56, .rw, 0xFF⟩, ⟨55, 52, .rw, 0x0⟩, ⟨29, 0, .rw, 0x20⟩]⟩,
  -- FI_CFG_UTX (17 R442): ARM, OP, MODE, SKIP, COUNT_PROB, DELAY_N, OFS, MATCH
  ⟨.fiCfgUtx, 0x800300, [(0x1000, 256)], 128, .warm, none, .any, true,
    [⟨127, 127, .rw, 0x0⟩, ⟨126, 124, .rw, 0x0⟩, ⟨123, 123, .rw, 0x0⟩, ⟨111, 96, .rw, 0x0⟩, ⟨95, 72, .rw, 0x0⟩, ⟨71, 64, .rw, 0x1⟩, ⟨63, 48, .rw, 0x0⟩, ⟨47, 32, .rw, 0xFFFF⟩]⟩,
  -- FI_PAT_UTX (17 R442): PAT
  ⟨.fiPatUtx, 0x800310, [(0x1000, 256)], 64, .warm, none, .any, false,
    [⟨63, 0, .rw, 0x0⟩]⟩,
  -- FI_STAT_UTX (17 R442): AFFECTED, MISSED, ARMED
  ⟨.fiStatUtx, 0x800318, [(0x1000, 256)], 64, .warm, none, .any, false,
    [⟨63, 32, .ro, 0x0⟩, ⟨31, 16, .ro, 0x0⟩, ⟨0, 0, .ro, 0x0⟩]⟩
  ]
def regsUpl2 : List RegDesc := [
  -- FI_CFG_URX (17 R442): ARM, OP, MODE, SKIP, COUNT_PROB, DELAY_N, OFS, MATCH
  ⟨.fiCfgUrx, 0x800320, [(0x1000, 256)], 128, .warm, none, .any, true,
    [⟨127, 127, .rw, 0x0⟩, ⟨126, 124, .rw, 0x0⟩, ⟨123, 123, .rw, 0x0⟩, ⟨111, 96, .rw, 0x0⟩, ⟨95, 72, .rw, 0x0⟩, ⟨71, 64, .rw, 0x1⟩, ⟨63, 48, .rw, 0x0⟩, ⟨47, 32, .rw, 0xFFFF⟩]⟩,
  -- FI_PAT_URX (17 R442): PAT
  ⟨.fiPatUrx, 0x800330, [(0x1000, 256)], 64, .warm, none, .any, false,
    [⟨63, 0, .rw, 0x0⟩]⟩,
  -- FI_STAT_URX (17 R442): AFFECTED, MISSED, ARMED
  ⟨.fiStatUrx, 0x800338, [(0x1000, 256)], 64, .warm, none, .any, false,
    [⟨63, 32, .ro, 0x0⟩, ⟨31, 16, .ro, 0x0⟩, ⟨0, 0, .ro, 0x0⟩]⟩
  ]
/-- The registers of block UPL. -/
def regsUpl : List RegDesc := regsUpl0 ++ regsUpl1 ++ regsUpl2

def regsDtm0 : List RegDesc := [
  -- DTM_SMP_CTL (07_downstream_scheduling.md): EN, MODE, LOG2_SIZE, PERIOD_US
  ⟨.dtmSmpCtl, 0x401000, [(0x40, 8)], 32, .warm, none, .pfOnly, false,
    [⟨31, 31, .rw, 0x0⟩, ⟨30, 30, .rw, 0x0⟩, ⟨29, 25, .rw, 0xA⟩, ⟨19, 0, .rw, 0x3E8⟩]⟩,
  -- DTM_SMP_RING (07_downstream_scheduling.md): BASE
  ⟨.dtmSmpRing, 0x401008, [(0x40, 8)], 64, .warm, none, .pfOnly, false,
    [⟨47, 0, .rw, 0x0⟩]⟩,
  -- DTM_SMP_IDX (07_downstream_scheduling.md): WR_IDX, RD_IDX
  ⟨.dtmSmpIdx, 0x401010, [(0x40, 8)], 64, .warm, none, .pfOnly, false,
    [⟨55, 32, .ro, 0x0⟩, ⟨23, 0, .rw, 0x0⟩]⟩,
  -- DTM_SMP_SEL (07_downstream_scheduling.md): SEL_BASE, SEL_COUNT, SEL_RANGE
  ⟨.dtmSmpSel, 0x401018, [(0x40, 8)], 64, .warm, none, .pfOnly, false,
    [⟨63, 44, .rw, 0x0⟩, ⟨40, 24, .rw, 0x40⟩, ⟨20, 0, .rw, 0x40⟩]⟩,
  -- DTM_SMP_BMAP (07_downstream_scheduling.md): BMAP_ADDR
  ⟨.dtmSmpBmap, 0x401020, [(0x40, 8)], 64, .warm, none, .pfOnly, false,
    [⟨47, 0, .rw, 0x0⟩]⟩,
  -- DTM_SMP_STAT (07_downstream_scheduling.md): OVERRUNS, LOST_RECORDS
  ⟨.dtmSmpStat, 0x401028, [(0x40, 8)], 32, .warm, none, .pfOnly, false,
    [⟨31, 16, .ro, 0x0⟩, ⟨15, 0, .ro, 0x0⟩]⟩
  ]
/-- The registers of block DTM. -/
def regsDtm : List RegDesc := regsDtm0

def regsSec0 : List RegDesc := [
  -- SEC_APPROVED (10_security_module.md): APPROVED, BYPASS, ERROR, ZEROIZED, FI_UNLOCKED, DEBUG_UNLOCKED, SELFTEST, CO_SESSION
  ⟨.secApproved, 0x20000, [], 32, .cold, none, .any, false,
    [⟨31, 31, .ro, 0x0⟩, ⟨30, 30, .ro, 0x0⟩, ⟨7, 7, .ro, 0x0⟩, ⟨6, 6, .ro, 0x0⟩, ⟨5, 5, .ro, 0x0⟩, ⟨4, 4, .ro, 0x0⟩, ⟨3, 3, .ro, 0x1⟩, ⟨2, 2, .ro, 0x0⟩]⟩,
  -- SEC_STATUS (10_security_module.md): STATE, FAIL_TEST, IDENTITY, CO_FAILS
  ⟨.secStatus, 0x20004, [], 32, .warm, none, .any, false,
    [⟨31, 28, .ro, 0x0⟩, ⟨23, 16, .ro, 0x0⟩, ⟨8, 8, .ro, 0x0⟩, ⟨7, 0, .ro, 0x0⟩]⟩,
  -- SEC_TAMPER (10_security_module.md): VOLTAGE, CLOCK, TEMP, LIGHT, MESH, TAMPER_PIN, ZEROIZE_PIN, ZEROIZE_CMD
  ⟨.secTamper, 0x20010, [], 32, .cold, none, .any, false,
    [⟨7, 7, .w1c, 0x0⟩, ⟨6, 6, .w1c, 0x0⟩, ⟨5, 5, .w1c, 0x0⟩, ⟨4, 4, .w1c, 0x0⟩, ⟨3, 3, .w1c, 0x0⟩, ⟨2, 2, .w1c, 0x0⟩, ⟨1, 1, .w1c, 0x0⟩, ⟨0, 0, .w1c, 0x0⟩]⟩,
  -- SEC_ZEROIZE (10_security_module.md): CONFIRM
  ⟨.secZeroize, 0x20020, [], 32, .cold, none, .pfOnly, false,
    [⟨15, 0, .wo, 0x0⟩]⟩,
  -- SEC_CHALLENGE (10_security_module.md): BYTES
  ⟨.secChallenge, 0x20040, [(0x4, 12)], 32, .warm, none, .any, false,
    [⟨31, 0, .ro, 0x0⟩]⟩
  ]
/-- The registers of block SEC. -/
def regsSec : List RegDesc := regsSec0

def regsGrm0 : List RegDesc := [
  -- GRM_PROG_STAT (11_grammar_parser.md): EPOCH, PENDING, BANK, VERB_COUNT
  ⟨.grmProgStat, 0x80000, [], 32, .warm, none, .pfOnly, false,
    [⟨31, 24, .ro, 0x0⟩, ⟨23, 23, .ro, 0x0⟩, ⟨22, 22, .ro, 0x0⟩, ⟨12, 0, .ro, 0x0⟩]⟩,
  -- GRM_PROG_ID (11_grammar_parser.md): PROG_ID
  ⟨.grmProgId, 0x80008, [], 64, .warm, none, .pfOnly, false,
    [⟨63, 0, .ro, 0x0⟩]⟩,
  -- GRM_TRACE_CFG (11_grammar_parser.md): EN, PART_FILT, PART, K
  ⟨.grmTraceCfg, 0x80010, [], 32, .warm, none, .pfOnly, false,
    [⟨31, 31, .rw, 0x0⟩, ⟨30, 30, .rw, 0x0⟩, ⟨13, 8, .rw, 0x0⟩, ⟨4, 0, .rw, 0x10⟩]⟩,
  -- GRM_EVENT (11_grammar_parser.md): SWITCHED
  ⟨.grmEvent, 0x80020, [], 32, .warm, none, .pfOnly, false,
    [⟨0, 0, .w1c, 0x0⟩]⟩,
  -- GRM_CNT (11 R311): COUNT
  ⟨.grmCnt, 0x81000, [(0x80, 16), (0x8, 16)], 64, .warm, none, .pfOnly, false,
    [⟨63, 0, .ro, 0x0⟩]⟩
  ]
/-- The registers of block GRM. -/
def regsGrm : List RegDesc := regsGrm0

def regsFwd0 : List RegDesc := [
  -- FWD_TCMD (12_forwarding_tables.md): BUSY, OP, TABLE, PLANE, STATUS, GEN
  ⟨.fwdTcmd, 0x100000, [], 32, .warm, none, .any, false,
    [⟨31, 31, .ro, 0x0⟩, ⟨30, 27, .rw, 0x0⟩, ⟨26, 23, .rw, 0x0⟩, ⟨22, 21, .rw, 0x0⟩, ⟨20, 17, .ro, 0x0⟩, ⟨15, 0, .rw, 0x0⟩]⟩,
  -- FWD_TINDEX (12_forwarding_tables.md): INDEX
  ⟨.fwdTindex, 0x100004, [], 32, .warm, none, .any, false,
    [⟨26, 0, .rw, 0x0⟩]⟩,
  -- FWD_TDATA (12_forwarding_tables.md): DATA
  ⟨.fwdTdata, 0x100080, [(0x4, 32)], 32, .warm, none, .any, false,
    [⟨31, 0, .rw, 0x0⟩]⟩,
  -- FWD_BR_CFG (12_forwarding_tables.md): AGE_S, MOVE_HOLD_MS, MOVE_RATE, NTF_MOVE, NTF_AGE, NTF_LEARN, LEARN_EN
  ⟨.fwdBrCfg, 0x100200, [], 32, .warm, some 8, .any, false,
    [⟨31, 20, .rw, 0x12C⟩, ⟨19, 12, .rw, 0xA⟩, ⟨11, 4, .rw, 0x10⟩, ⟨3, 3, .rw, 0x1⟩, ⟨2, 2, .rw, 0x0⟩, ⟨1, 1, .rw, 0x0⟩, ⟨0, 0, .rw, 0x1⟩]⟩,
  -- FWD_LOCK_CFG (12_forwarding_tables.md): LOCK_MS
  ⟨.fwdLockCfg, 0x100204, [], 32, .warm, none, .any, false,
    [⟨15, 0, .rw, 0x64⟩]⟩,
  -- FWD_NTF_RING (12_forwarding_tables.md): LOG2_SIZE, BASE
  ⟨.fwdNtfRing, 0x100208, [], 64, .warm, some 8, .any, false,
    [⟨63, 59, .rw, 0xC⟩, ⟨47, 0, .rw, 0x0⟩]⟩,
  -- FWD_NTF_IDX (12_forwarding_tables.md): WR_IDX, RD_IDX
  ⟨.fwdNtfIdx, 0x100210, [], 64, .warm, none, .any, false,
    [⟨55, 32, .ro, 0x0⟩, ⟨23, 0, .rw, 0x0⟩]⟩,
  -- FWD_TCQ (12_forwarding_tables.md): K
  ⟨.fwdTcq, 0x100220, [(0x4, 64)], 32, .warm, some 2, .any, false,
    [⟨23, 0, .rw, 0xFAC688⟩]⟩
  ]
def regsFwd1 : List RegDesc := [
  -- FWD_EVENT (12_forwarding_tables.md): NTF_LOST, LOCK_EXPIRED, TABLE_FULL, MOVE_LIMIT
  ⟨.fwdEvent, 0x100400, [], 32, .warm, none, .any, false,
    [⟨3, 3, .w1c, 0x0⟩, ⟨2, 2, .w1c, 0x0⟩, ⟨1, 1, .w1c, 0x0⟩, ⟨0, 0, .w1c, 0x0⟩]⟩,
  -- FWD_CNT (12 R338): COUNT
  ⟨.fwdCnt, 0x100800, [(0x8, 16)], 64, .warm, none, .any, false,
    [⟨63, 0, .ro, 0x0⟩]⟩
  ]
/-- The registers of block FWD. -/
def regsFwd : List RegDesc := regsFwd0 ++ regsFwd1

def regsAcm0 : List RegDesc := [
  -- ACM_PLANE_STAT (12_forwarding_tables.md): STEP, THERM_STEP, CAP_STEP, TEMP, FREE
  ⟨.acmPlaneStat, 0x200000, [(0x100, 4)], 32, .warm, none, .any, false,
    [⟨31, 30, .ro, 0x0⟩, ⟨29, 28, .ro, 0x0⟩, ⟨27, 26, .ro, 0x0⟩, ⟨25, 18, .ro, 0x0⟩, ⟨17, 0, .ro, 0x0⟩]⟩
  ]
/-- The registers of block ACM. -/
def regsAcm : List RegDesc := regsAcm0

def regsBpm0 : List RegDesc := [
  -- BPM_POOL_STAT (13_buffer_pools.md): COUNT, FREE
  ⟨.bpmPoolStat, 0x300000, [(0x8, 10)], 64, .warm, none, .pfOnly, false,
    [⟨59, 32, .ro, 0x0⟩, ⟨27, 0, .ro, 0x0⟩]⟩,
  -- BPM_POOL_BASE (13_buffer_pools.md): BASE
  ⟨.bpmPoolBase, 0x300100, [(0x20, 10), (0x8, 4)], 64, .warm, none, .pfOnly, false,
    [⟨47, 0, .ro, 0x0⟩]⟩,
  -- BPM_HOME_CFG (13_buffer_pools.md): DEEP_EN, CELL_Q_KIB
  ⟨.bpmHomeCfg, 0x300400, [(0x4, 64)], 32, .warm, none, .pfOnly, false,
    [⟨31, 31, .rw, 0x1⟩, ⟨15, 0, .rw, 0x40⟩]⟩,
  -- BPM_PART_USE (13_buffer_pools.md): DEEP_MIB, CELLS
  ⟨.bpmPartUse, 0x300600, [(0x8, 64)], 64, .warm, none, .pfOnly, false,
    [⟨49, 32, .ro, 0x0⟩, ⟨20, 0, .ro, 0x0⟩]⟩,
  -- BPM_ADM_CFG (13_buffer_pools.md): R_FLOOR_D, Y_FLOOR_D, R_FLOOR_C, Y_FLOOR_C
  ⟨.bpmAdmCfg, 0x300800, [], 64, .warm, none, .pfOnly, false,
    [⟨63, 48, .rw, 0x800⟩, ⟨47, 32, .rw, 0x400⟩, ⟨31, 16, .rw, 0x8000⟩, ⟨15, 0, .rw, 0x4000⟩]⟩,
  -- BPM_FREE (13_buffer_pools.md): NAME, HANDLE
  ⟨.bpmFree, 0x300810, [], 64, .warm, none, .pfOnly, true,
    [⟨63, 32, .wo, 0x0⟩, ⟨31, 0, .wo, 0x0⟩]⟩,
  -- BPM_FREE_STAT (13_buffer_pools.md): STATUS, SHARES
  ⟨.bpmFreeStat, 0x300818, [], 32, .warm, none, .pfOnly, false,
    [⟨31, 28, .ro, 0x0⟩, ⟨11, 0, .ro, 0x0⟩]⟩,
  -- BPM_FAULT_LOG (13_buffer_pools.md): NAME, HANDLE
  ⟨.bpmFaultLog, 0x300820, [], 64, .warm, none, .pfOnly, false,
    [⟨63, 32, .ro, 0x0⟩, ⟨31, 0, .ro, 0x0⟩]⟩
  ]
def regsBpm1 : List RegDesc := [
  -- BPM_FAULT_SRC (13_buffer_pools.md): KIND, ISLAND
  ⟨.bpmFaultSrc, 0x300828, [], 32, .warm, none, .pfOnly, false,
    [⟨31, 28, .ro, 0x0⟩, ⟨8, 0, .ro, 0x0⟩]⟩,
  -- BPM_EVENT (13_buffer_pools.md): HOLDER_FULL, CTRL_FULL, BPM_NOT_HOLDER, BPM_DOUBLE_FREE
  ⟨.bpmEvent, 0x300830, [], 32, .warm, none, .pfOnly, false,
    [⟨3, 3, .w1c, 0x0⟩, ⟨2, 2, .w1c, 0x0⟩, ⟨1, 1, .w1c, 0x0⟩, ⟨0, 0, .w1c, 0x0⟩]⟩,
  -- BPM_CNT (13 R356): COUNT
  ⟨.bpmCnt, 0x300900, [(0x8, 12)], 64, .warm, none, .pfOnly, false,
    [⟨63, 0, .ro, 0x0⟩]⟩
  ]
/-- The registers of block BPM. -/
def regsBpm : List RegDesc := regsBpm0 ++ regsBpm1

def regsTim0 : List RegDesc := [
  -- TIM_TB_CFG (14_time_and_timed_actions.md): SRC, HOLD_TIMEOUT, STEP_THR
  ⟨.timTbCfg, 0x40000, [(0x40, 8)], 32, .cold, some 4, .any, false,
    [⟨31, 30, .rw, 0x0⟩, ⟨27, 16, .rw, 0x0⟩, ⟨15, 0, .rw, 0x0⟩]⟩,
  -- TIM_TB_SERVO (14_time_and_timed_actions.md): KP, KI
  ⟨.timTbServo, 0x40004, [(0x40, 8)], 32, .cold, some 4, .any, false,
    [⟨31, 16, .rw, 0x0⟩, ⟨15, 0, .rw, 0x0⟩]⟩,
  -- TIM_TB_STAT (14_time_and_timed_actions.md): STATE, HELD, ADJ
  ⟨.timTbStat, 0x40008, [(0x40, 8)], 32, .cold, none, .pfOnly, false,
    [⟨31, 28, .ro, 0x0⟩, ⟨27, 27, .ro, 0x0⟩, ⟨23, 0, .ro, 0x0⟩]⟩,
  -- TIM_TB_TIME (14_time_and_timed_actions.md): TIME, STEP_COUNT, STATE
  ⟨.timTbTime, 0x40010, [(0x40, 8)], 128, .cold, none, .pfOnly, false,
    [⟨127, 32, .ro, 0x0⟩, ⟨31, 16, .ro, 0x0⟩, ⟨3, 0, .ro, 0x0⟩]⟩,
  -- TIM_TB_OFFSET (14_time_and_timed_actions.md): REFUSED, OFFSET
  ⟨.timTbOffset, 0x40020, [(0x40, 8)], 64, .cold, some 4, .any, true,
    [⟨63, 63, .ro, 0x0⟩, ⟨47, 0, .rw, 0x0⟩]⟩,
  -- TIM_TB_SET (14_time_and_timed_actions.md): TIME
  ⟨.timTbSet, 0x40030, [(0x40, 8)], 128, .cold, none, .pfOnly, true,
    [⟨127, 32, .wo, 0x0⟩]⟩,
  -- TIM_FORCE_STEP (14_time_and_timed_actions.md): MODE, TB, CONFIRM
  ⟨.timForceStep, 0x40200, [], 32, .warm, none, .pfOnly, false,
    [⟨31, 28, .wo, 0x0⟩, ⟨18, 16, .wo, 0x0⟩, ⟨15, 0, .wo, 0x0⟩]⟩,
  -- TIM_EVENT (14_time_and_timed_actions.md): STEP_FORCED, STEP_REFUSED, HOLDOVER, PPS_STUCK, PPS_OVERRUN, TOD_ERR, CAP_STUCK, ACT_LATE, ACT_FAIL
  ⟨.timEvent, 0x40210, [], 32, .warm, none, .pfOnly, false,
    [⟨31, 24, .w1c, 0x0⟩, ⟨23, 16, .w1c, 0x0⟩, ⟨15, 8, .w1c, 0x0⟩, ⟨7, 7, .w1c, 0x0⟩, ⟨6, 6, .w1c, 0x0⟩, ⟨5, 5, .w1c, 0x0⟩, ⟨4, 4, .w1c, 0x0⟩, ⟨3, 3, .w1c, 0x0⟩, ⟨2, 2, .w1c, 0x0⟩]⟩
  ]
def regsTim1 : List RegDesc := [
  -- TIM_PPS_CFG (14_time_and_timed_actions.md): OUT_EN, OUT_TB, OUT_WIDTH, OUT_OFS, IN_EN, IN_POL, IN_CORR, STUCK_S, PPS_OVERRUN
  ⟨.timPpsCfg, 0x40300, [], 64, .cold, none, .pfOnly, false,
    [⟨63, 63, .rw, 0x0⟩, ⟨62, 60, .rw, 0x0⟩, ⟨59, 48, .rw, 0x0⟩, ⟨47, 36, .rw, 0x0⟩, ⟨35, 35, .rw, 0x0⟩, ⟨34, 34, .rw, 0x0⟩, ⟨31, 16, .rw, 0x0⟩, ⟨15, 12, .rw, 0x0⟩, ⟨11, 0, .ro, 0x0⟩]⟩,
  -- TIM_TOD_CFG (14_time_and_timed_actions.md): OUT_EN, IN_EN, BAUD, UTC_OFFSET, LEAP
  ⟨.timTodCfg, 0x40308, [], 32, .cold, none, .pfOnly, false,
    [⟨31, 31, .rw, 0x0⟩, ⟨30, 30, .rw, 0x0⟩, ⟨29, 28, .rw, 0x0⟩, ⟨27, 12, .rw, 0x0⟩, ⟨11, 8, .rw, 0x0⟩]⟩,
  -- TIM_FREQ_CFG (14_time_and_timed_actions.md): REF_FREQ, RCLK0_EN, RCLK1_EN, RCLK0_LANE, RCLK1_LANE, PLL_LOCK
  ⟨.timFreqCfg, 0x4030C, [], 32, .cold, none, .pfOnly, false,
    [⟨31, 31, .rw, 0x0⟩, ⟨30, 30, .rw, 0x0⟩, ⟨29, 29, .rw, 0x0⟩, ⟨28, 21, .rw, 0x0⟩, ⟨20, 13, .rw, 0x0⟩, ⟨12, 12, .ro, 0x0⟩]⟩,
  -- TIM_CAP_CFG (14_time_and_timed_actions.md): EN, EDGE, TB, WIN_EN, MIN_W, MIN_P, STUCK_MS
  ⟨.timCapCfg, 0x40400, [(0x40, 8)], 64, .cold, none, .pfOnly, false,
    [⟨63, 63, .rw, 0x0⟩, ⟨62, 61, .rw, 0x0⟩, ⟨60, 58, .rw, 0x0⟩, ⟨57, 57, .rw, 0x0⟩, ⟨47, 32, .rw, 0x0⟩, ⟨31, 16, .rw, 0x0⟩, ⟨15, 0, .rw, 0x0⟩]⟩,
  -- TIM_CAP_STAT (14_time_and_timed_actions.md): STUCK, LEVEL, DEPTH, LOST, OVERRUN
  ⟨.timCapStat, 0x40408, [(0x40, 8)], 32, .warm, none, .pfOnly, false,
    [⟨31, 31, .ro, 0x0⟩, ⟨30, 30, .ro, 0x0⟩, ⟨20, 16, .ro, 0x0⟩, ⟨15, 8, .ro, 0x0⟩, ⟨7, 0, .ro, 0x0⟩]⟩,
  -- TIM_CAP_WIN (14_time_and_timed_actions.md): OPEN, CLOSE
  ⟨.timCapWin, 0x40410, [(0x40, 8)], 256, .warm, none, .pfOnly, true,
    [⟨255, 160, .rw, 0x0⟩, ⟨159, 64, .rw, 0x0⟩]⟩,
  -- TIM_CAP_FIFO (14_time_and_timed_actions.md): TIME, VALID, RISING, STUCK, COALESCED, STEP_COUNT
  ⟨.timCapFifo, 0x40430, [(0x40, 8)], 128, .warm, none, .pfOnly, false,
    [⟨127, 32, .ro, 0x0⟩, ⟨31, 31, .ro, 0x0⟩, ⟨30, 30, .ro, 0x0⟩, ⟨29, 29, .ro, 0x0⟩, ⟨23, 16, .ro, 0x0⟩, ⟨15, 0, .ro, 0x0⟩]⟩,
  -- TIM_ACT (14_time_and_timed_actions.md): TIME, TB, KIND, LATE_POLICY, ARM, PERIOD_NS, COUNT, EXPECT, ARG0, ARG1, STATUS, LATE, RESULT, MISSED, RUNS
  ⟨.timAct, 0x41000, [(0x40, 64)], 256, .warm, none, .pfOnly, true,
    [⟨255, 160, .rw, 0x0⟩, ⟨159, 157, .rw, 0x0⟩, ⟨156, 153, .rw, 0x0⟩, ⟨152, 152, .rw, 0x0⟩, ⟨151, 151, .wo, 0x0⟩, ⟨149, 120, .rw, 0x0⟩, ⟨119, 104, .rw, 0x0⟩, ⟨103, 96, .rw, 0x0⟩, ⟨95, 64, .rw, 0x0⟩, ⟨63, 32, .rw, 0x0⟩, ⟨31, 28, .ro, 0x0⟩, ⟨27, 27, .ro, 0x0⟩, ⟨26, 23, .ro, 0x0⟩, ⟨19, 12, .ro, 0x0⟩, ⟨11, 0, .ro, 0x0⟩]⟩
  ]
/-- The registers of block TIM. -/
def regsTim : List RegDesc := regsTim0 ++ regsTim1

def regsDma0 : List RegDesc := [
  -- DMA_CH_CFG (15_host_port_and_dma.md): EN, FUNC, PROG_SPACE, GEN
  ⟨.dmaChCfg, 0x50000, [(0x100, 32)], 32, .warm, none, .pfOnly, false,
    [⟨31, 31, .rw, 0x0⟩, ⟨30, 24, .rw, 0x0⟩, ⟨23, 23, .rw, 0x0⟩, ⟨15, 0, .rw, 0x0⟩]⟩,
  -- DMA_CH_CTL (15_host_port_and_dma.md): START, ABORT
  ⟨.dmaChCtl, 0x50004, [(0x100, 32)], 32, .warm, none, .any, false,
    [⟨31, 31, .wo, 0x0⟩, ⟨30, 30, .wo, 0x0⟩]⟩,
  -- DMA_CH_PROG (15_host_port_and_dma.md): ADDR
  ⟨.dmaChProg, 0x50008, [(0x100, 32)], 64, .warm, none, .any, false,
    [⟨63, 0, .rw, 0x0⟩]⟩,
  -- DMA_CH_STAT (15_host_port_and_dma.md): STATE, ERR, LAST_BEAT_ERR, OUT_WR, PC, RESIDUE
  ⟨.dmaChStat, 0x50010, [(0x100, 32)], 64, .warm, none, .any, false,
    [⟨63, 60, .ro, 0x0⟩, ⟨59, 56, .ro, 0x0⟩, ⟨55, 55, .ro, 0x0⟩, ⟨52, 44, .ro, 0x0⟩, ⟨43, 32, .ro, 0x0⟩, ⟨31, 0, .ro, 0x0⟩]⟩,
  -- DMA_CH_VEC (15_host_port_and_dma.md): EN, VECTOR
  ⟨.dmaChVec, 0x50018, [(0x100, 32)], 32, .warm, none, .pfOnly, false,
    [⟨31, 31, .rw, 0x0⟩, ⟨10, 0, .rw, 0x0⟩]⟩,
  -- DMA_REQ_RAISE (15_host_port_and_dma.md): LINES
  ⟨.dmaReqRaise, 0x53000, [], 32, .warm, none, .any, false,
    [⟨31, 0, .w1s, 0x0⟩]⟩,
  -- DMA_REQ_STAT (15_host_port_and_dma.md): OVERRUN, PENDING
  ⟨.dmaReqStat, 0x53100, [(0x4, 72)], 32, .warm, none, .any, false,
    [⟨31, 31, .w1c, 0x0⟩, ⟨7, 0, .ro, 0x0⟩]⟩,
  -- DMA_RX_CFG (15_host_port_and_dma.md): BASE, EN, FUNC, LOG2_SIZE
  ⟨.dmaRxCfg, 0x54000, [(0x20, 64)], 128, .warm, none, .pfOnly, true,
    [⟨127, 64, .rw, 0x0⟩, ⟨63, 63, .rw, 0x0⟩, ⟨62, 56, .rw, 0x0⟩, ⟨55, 52, .rw, 0x6⟩]⟩
  ]
def regsDma1 : List RegDesc := [
  -- DMA_RX_IDX (15_host_port_and_dma.md): RX_DROP, CONS, PROD
  ⟨.dmaRxIdx, 0x54010, [(0x20, 64)], 64, .warm, none, .any, false,
    [⟨63, 48, .ro, 0x0⟩, ⟨43, 32, .ro, 0x0⟩, ⟨11, 0, .rw, 0x0⟩]⟩,
  -- DMA_FN_STAT (15_host_port_and_dma.md): BAD_ACCESS
  ⟨.dmaFnStat, 0x55000, [(0x4, 65)], 32, .warm, none, .any, false,
    [⟨31, 16, .ro, 0x0⟩]⟩
  ]
/-- The registers of block DMA. -/
def regsDma : List RegDesc := regsDma0 ++ regsDma1

def regsPrt0 : List RegDesc := [
  -- PRT_CFG (16_protection_pair.md): PAIR_EN, REVERT, PREFERRED, FORCE_OK, SW_DEGRADED, SW_TRUNK, HB_LOSS, SYNC_N, LASER_US
  ⟨.prtCfg, 0x70000, [], 32, .cold, some 7, .any, false,
    [⟨31, 31, .rw, 0x0⟩, ⟨30, 30, .rw, 0x0⟩, ⟨29, 29, .rw, 0x0⟩, ⟨28, 28, .rw, 0x0⟩, ⟨27, 27, .rw, 0x0⟩, ⟨26, 26, .rw, 0x0⟩, ⟨23, 16, .rw, 0x4⟩, ⟨15, 12, .rw, 0x2⟩, ⟨6, 0, .rw, 0x32⟩]⟩,
  -- PRT_STATE (16_protection_pair.md): EPOCH, EXPECT, DETAIL, STATE
  ⟨.prtState, 0x70004, [], 32, .warm, some 7, .any, false,
    [⟨31, 24, .ro, 0x0⟩, ⟨23, 16, .wo, 0x0⟩, ⟨15, 8, .ro, 0x0⟩, ⟨7, 0, .rw, 0x0⟩]⟩,
  -- PRT_ALIVE (16_protection_pair.md): KICK
  ⟨.prtAlive, 0x70008, [], 32, .warm, none, .coreOnly, false,
    [⟨31, 0, .wo, 0x0⟩]⟩,
  -- PRT_TIMER (16_protection_pair.md): ALIVE_MS, WTR_S
  ⟨.prtTimer, 0x7000C, [], 32, .cold, some 7, .any, false,
    [⟨31, 24, .rw, 0x2⟩, ⟨15, 0, .rw, 0x12C⟩]⟩,
  -- PRT_LINK_STAT (16_protection_pair.md): LINK, PEER_STATE, PAIR_OK, TOKEN_LOW, PEER_HB, DIGEST_AGE, LOST_DIGESTS, TICK_ERR, MARKER_MISS
  ⟨.prtLinkStat, 0x70010, [], 64, .warm, none, .any, false,
    [⟨63, 60, .ro, 0x0⟩, ⟨59, 56, .ro, 0x0⟩, ⟨55, 55, .ro, 0x0⟩, ⟨54, 54, .ro, 0x0⟩, ⟨53, 52, .ro, 0x0⟩, ⟨47, 40, .ro, 0x0⟩, ⟨39, 32, .ro, 0x0⟩, ⟨31, 16, .ro, 0x0⟩, ⟨15, 0, .ro, 0x0⟩]⟩,
  -- PRT_TRUNK (16_protection_pair.md): EQRT_RUN, VALID, TRUNK_OFS
  ⟨.prtTrunk, 0x70100, [(0x8, 64)], 64, .warm, none, .any, false,
    [⟨63, 32, .ro, 0x0⟩, ⟨31, 31, .ro, 0x0⟩, ⟨27, 0, .ro, 0x0⟩]⟩,
  -- PRT_EVENT (16_protection_pair.md): NOT_READY_TAKEOVER, CLAIM_CONFLICT, HB_LOST, TOKEN_STUCK, DIGEST_LOST, PLAN_MISMATCH, PAIR_MISMATCH, LINK_DOWN, RELEASED, TOOK_OVER
  ⟨.prtEvent, 0x70020, [], 32, .warm, none, .any, false,
    [⟨9, 9, .w1c, 0x0⟩, ⟨8, 8, .w1c, 0x0⟩, ⟨7, 7, .w1c, 0x0⟩, ⟨6, 6, .w1c, 0x0⟩, ⟨5, 5, .w1c, 0x0⟩, ⟨4, 4, .w1c, 0x0⟩, ⟨3, 3, .w1c, 0x0⟩, ⟨2, 2, .w1c, 0x0⟩, ⟨1, 1, .w1c, 0x0⟩, ⟨0, 0, .w1c, 0x0⟩]⟩
  ]
/-- The registers of block PRT. -/
def regsPrt : List RegDesc := regsPrt0

def regsObs0 : List RegDesc := [
  -- OBS_STAT_SEL (17_counters_tracing_faults.md): SCOPE, SHADOW, CODE, INDEX
  ⟨.obsStatSel, 0x60010, [], 32, .warm, none, .pfOnly, false,
    [⟨31, 29, .rw, 0x0⟩, ⟨28, 28, .rw, 0x0⟩, ⟨27, 24, .rw, 0x0⟩, ⟨19, 0, .rw, 0x0⟩]⟩,
  -- OBS_STAT_DATA (17_counters_tracing_faults.md): COUNT
  ⟨.obsStatData, 0x60018, [], 64, .warm, none, .pfOnly, false,
    [⟨63, 0, .ro, 0x0⟩]⟩,
  -- OBS_SNAP_CTL (17_counters_tracing_faults.md): SNAPSHOT, FREEZE, LOCK
  ⟨.obsSnapCtl, 0x60040, [], 32, .warm, none, .pfOnly, false,
    [⟨31, 31, .wo, 0x0⟩, ⟨30, 30, .rw, 0x0⟩, ⟨29, 29, .rw, 0x0⟩]⟩,
  -- OBS_SNAP_STAT (17_counters_tracing_faults.md): BUSY, REFUSED, SEQ
  ⟨.obsSnapStat, 0x60044, [], 32, .warm, none, .pfOnly, false,
    [⟨31, 31, .ro, 0x0⟩, ⟨30, 24, .ro, 0x0⟩, ⟨23, 0, .ro, 0x0⟩]⟩,
  -- OBS_SNAP_TIME (17_counters_tracing_faults.md): F
  ⟨.obsSnapTime, 0x60050, [], 128, .warm, none, .pfOnly, false,
    [⟨127, 32, .ro, 0x0⟩]⟩,
  -- OBS_PC_SEL (17_counters_tracing_faults.md): EN, OVF_IRQ, EVENT, UNIT, PRIV, MKIND, MINDEX, TC, RGN_EN
  ⟨.obsPcSel, 0x61000, [(0x20, 256)], 64, .warm, none, .pfOnly, false,
    [⟨63, 63, .rw, 0x0⟩, ⟨62, 62, .rw, 0x0⟩, ⟨61, 56, .rw, 0x0⟩, ⟨55, 48, .rw, 0xFF⟩, ⟨47, 45, .rw, 0x7⟩, ⟨44, 43, .rw, 0x0⟩, ⟨42, 36, .rw, 0x0⟩, ⟨35, 28, .rw, 0xFF⟩, ⟨27, 27, .rw, 0x0⟩]⟩,
  -- OBS_PC_VAL (17_counters_tracing_faults.md): OVF, VALUE
  ⟨.obsPcVal, 0x61008, [(0x20, 256)], 64, .warm, none, .pfOnly, true,
    [⟨63, 63, .rw, 0x0⟩, ⟨47, 0, .rw, 0x0⟩]⟩,
  -- OBS_PC_RGN (17_counters_tracing_faults.md): BASE, LIMIT
  ⟨.obsPcRgn, 0x61010, [(0x20, 256)], 128, .warm, none, .pfOnly, true,
    [⟨127, 80, .rw, 0x0⟩, ⟨79, 32, .rw, 0x0⟩]⟩
  ]
def regsObs1 : List RegDesc := [
  -- OBS_PC_SHADOW (17_counters_tracing_faults.md): OVF, VALUE
  ⟨.obsPcShadow, 0x63000, [(0x8, 256)], 64, .warm, none, .pfOnly, false,
    [⟨63, 63, .ro, 0x0⟩, ⟨47, 0, .ro, 0x0⟩]⟩,
  -- OBS_TRACE_RING (17_counters_tracing_faults.md): LOG2_SIZE, BASE
  ⟨.obsTraceRing, 0x60100, [], 64, .warm, none, .pfOnly, false,
    [⟨63, 59, .rw, 0xC⟩, ⟨47, 0, .rw, 0x0⟩]⟩,
  -- OBS_TRACE_IDX (17_counters_tracing_faults.md): WR_IDX, RD_IDX
  ⟨.obsTraceIdx, 0x60108, [], 64, .warm, none, .pfOnly, false,
    [⟨55, 32, .ro, 0x0⟩, ⟨23, 0, .rw, 0x0⟩]⟩,
  -- OBS_TRACE_INJ (17_counters_tracing_faults.md): PIPE, EGR, QUEUE
  ⟨.obsTraceInj, 0x60110, [], 64, .warm, none, .pfOnly, true,
    [⟨63, 60, .wo, 0x0⟩, ⟨59, 44, .wo, 0x0⟩, ⟨19, 0, .wo, 0x0⟩]⟩,
  -- OBS_TRACE_STAT (17_counters_tracing_faults.md): LOST_RECORDS
  ⟨.obsTraceStat, 0x60118, [], 32, .warm, none, .pfOnly, false,
    [⟨15, 0, .ro, 0x0⟩]⟩,
  -- OBS_FI_GLOBAL (17_counters_tracing_faults.md): MASTER_EN, KILL, CONFIRM
  ⟨.obsFiGlobal, 0x60200, [], 32, .warm, none, .pfOnly, false,
    [⟨31, 31, .rw, 0x0⟩, ⟨30, 30, .wo, 0x0⟩, ⟨15, 0, .wo, 0x0⟩]⟩,
  -- OBS_EVENT (17_counters_tracing_faults.md): TRACE_LOST, SNAP_REFUSED, PC_OVF
  ⟨.obsEvent, 0x60060, [], 32, .warm, none, .pfOnly, false,
    [⟨2, 2, .w1c, 0x0⟩, ⟨1, 1, .w1c, 0x0⟩, ⟨0, 0, .w1c, 0x0⟩]⟩,
  -- OBS_STAT_BASE (17 R431): BASE
  ⟨.obsStatBase, 0x60000, [], 64, .cold, none, .pfOnly, false,
    [⟨47, 0, .rw, 0x0⟩]⟩
  ]
def regsObs2 : List RegDesc := [
  -- OBS_SHADOW_BASE (17 R431): BASE
  ⟨.obsShadowBase, 0x60008, [], 64, .cold, none, .pfOnly, false,
    [⟨47, 0, .rw, 0x0⟩]⟩,
  -- FI_CFG_OBS (17 R442): ARM, OP, MODE, SKIP, COUNT_PROB, DELAY_N, OFS, MATCH
  ⟨.fiCfgObs, 0x64000, [(0x40, 34)], 128, .warm, none, .pfOnly, true,
    [⟨127, 127, .rw, 0x0⟩, ⟨126, 124, .rw, 0x0⟩, ⟨123, 123, .rw, 0x0⟩, ⟨111, 96, .rw, 0x0⟩, ⟨95, 72, .rw, 0x0⟩, ⟨71, 64, .rw, 0x1⟩, ⟨63, 48, .rw, 0x0⟩, ⟨47, 32, .rw, 0xFFFF⟩]⟩,
  -- FI_PAT_OBS (17 R442): PAT
  ⟨.fiPatObs, 0x64010, [(0x40, 34)], 64, .warm, none, .pfOnly, false,
    [⟨63, 0, .rw, 0x0⟩]⟩,
  -- FI_STAT_OBS (17 R442): AFFECTED, MISSED, ARMED
  ⟨.fiStatObs, 0x64018, [(0x40, 34)], 64, .warm, none, .pfOnly, false,
    [⟨63, 32, .ro, 0x0⟩, ⟨31, 16, .ro, 0x0⟩, ⟨0, 0, .ro, 0x0⟩]⟩,
  -- OBS_FI_LINK (17 R442): SRC, DST
  ⟨.obsFiLink, 0x64020, [(0x40, 34)], 32, .warm, none, .pfOnly, false,
    [⟨24, 16, .rw, 0x0⟩, ⟨8, 0, .rw, 0x0⟩]⟩
  ]
/-- The registers of block OBS. -/
def regsObs : List RegDesc := regsObs0 ++ regsObs1 ++ regsObs2

def regsPwr0 : List RegDesc := [
  -- PWR_CAP (18_power_and_thermal.md): EN, CAP_MIN_POINT, HYST_W, CAP_W
  ⟨.pwrCap, 0x30000, [], 32, .warm, some 6, .any, false,
    [⟨31, 31, .rw, 0x0⟩, ⟨30, 29, .rw, 0x3⟩, ⟨28, 20, .rw, 0x14⟩, ⟨9, 0, .rw, 0x316⟩]⟩,
  -- PWR_STAT (18_power_and_thermal.md): SHUTDOWN, STEP, CAP_STEP, DROP_TC, POWER_W
  ⟨.pwrStat, 0x30004, [], 32, .warm, some 6, .any, false,
    [⟨31, 31, .ro, 0x0⟩, ⟨30, 28, .ro, 0x0⟩, ⟨27, 26, .rw, 0x0⟩, ⟨25, 23, .rw, 0x0⟩, ⟨9, 0, .ro, 0x0⟩]⟩,
  -- PWR_DVFS (18_power_and_thermal.md): AVS, POINT, VCODE, VNOW, CHANGING
  ⟨.pwrDvfs, 0x30010, [(0x4, 5)], 32, .cold, some 6, .any, false,
    [⟨31, 31, .rw, 0x0⟩, ⟨25, 24, .rw, 0x0⟩, ⟨20, 16, .rw, 0x0⟩, ⟨12, 8, .ro, 0x0⟩, ⟨0, 0, .ro, 0x0⟩]⟩,
  -- PWR_GATE_UPL (18_power_and_thermal.md): GATE
  ⟨.pwrGateUpl, 0x30040, [], 32, .warm, some 6, .any, false,
    [⟨31, 0, .rw, 0x0⟩]⟩,
  -- PWR_EVENT (18_power_and_thermal.md): THERM_SHUTDOWN, THERM_THROTTLE, THERM_WARN, CAP_UNMET, PMB_LOST, RAIL_FAULT
  ⟨.pwrEvent, 0x30048, [], 32, .warm, none, .any, false,
    [⟨5, 5, .w1c, 0x0⟩, ⟨4, 4, .w1c, 0x0⟩, ⟨3, 3, .w1c, 0x0⟩, ⟨2, 2, .w1c, 0x0⟩, ⟨1, 1, .w1c, 0x0⟩, ⟨0, 0, .w1c, 0x0⟩]⟩,
  -- PWR_RAIL_CFG (18_power_and_thermal.md): EN, IN_CAP, FAST, KIND, PAGE, ADDR
  ⟨.pwrRailCfg, 0x30100, [(0x8, 16)], 64, .cold, some 6, .any, false,
    [⟨63, 63, .rw, 0x0⟩, ⟨62, 62, .rw, 0x0⟩, ⟨61, 61, .rw, 0x0⟩, ⟨55, 52, .rw, 0x0⟩, ⟨51, 48, .rw, 0x0⟩, ⟨38, 32, .rw, 0x0⟩]⟩,
  -- PWR_RAIL_TEL (18_power_and_thermal.md): STALE, STATUS, VOUT_MV, IOUT_CA, TEMP
  ⟨.pwrRailTel, 0x30200, [(0x8, 16)], 64, .warm, none, .any, false,
    [⟨63, 63, .ro, 0x0⟩, ⟨62, 48, .ro, 0x0⟩, ⟨47, 32, .ro, 0x0⟩, ⟨31, 16, .ro, 0x0⟩, ⟨7, 0, .ro, 0x0⟩]⟩,
  -- PWR_THERM (18_power_and_thermal.md): MAX, TEMP
  ⟨.pwrTherm, 0x30400, [(0x4, 96)], 32, .warm, none, .any, false,
    [⟨31, 24, .ro, 0x0⟩, ⟨15, 0, .ro, 0x0⟩]⟩
  ]
/-- The registers of block PWR. -/
def regsPwr : List RegDesc := regsPwr0

def regsMsix0 : List RegDesc := [
  -- MSIX_TABLE (15 R383): MASK, DATA, ADDR
  ⟨.msixTable, 0xF00000, [(0x10, 2048)], 128, .warm, none, .any, false,
    [⟨96, 96, .rw, 0x1⟩, ⟨95, 64, .rw, 0x0⟩, ⟨63, 2, .rw, 0x0⟩]⟩,
  -- MSIX_PBA (15 R383): PENDING
  ⟨.msixPba, 0xF80000, [(0x4, 64)], 32, .warm, none, .any, false,
    [⟨31, 0, .ro, 0x0⟩]⟩
  ]
/-- The registers of block MSIX. -/
def regsMsix : List RegDesc := regsMsix0

/-- The registers of the block that holds a CTLW offset (R383). -/
def regsAt (a : Nat) : List RegDesc :=
  if a < 0x10000 then regsGlb else
  if a < 0x20000 then regsMbx else
  if a < 0x30000 then regsSec else
  if a < 0x40000 then regsPwr else
  if a < 0x50000 then regsTim else
  if a < 0x60000 then regsDma else
  if a < 0x70000 then regsObs else
  if a < 0x80000 then regsPrt else
  if a < 0x90000 then regsGrm else
  if a < 0x100000 then [] else
  if a < 0x200000 then regsFwd else
  if a < 0x300000 then regsAcm else
  if a < 0x400000 then regsBpm else
  if a < 0x800000 then regsDtm else
  if a < 0x900000 then regsUpl else
  if a < 0xF00000 then [] else if a < 0x1000000 then regsMsix else
  if a < 0x1100000 then regsTre else if a < 0x2000000 then [] else if a < 0x6000000 then regsChn else []

/-! Addresses of the register instances, by name. -/
namespace Adr
def glbDeviceId : Nat := 0x0
def glbWrstat : Nat := 0x20
def glbWrstatAddr : Nat := 0x24
def glbBarrier : Nat := 0x10
def glbEventPend (j : Nat) : Nat := 0x100 + 0x4 * j
def glbIslandStat (i : Nat) : Nat := 0x1000 + 0x4 * i
def glbStaleCnt : Nat := 0x50
def glbClauseErr (i : Nat) : Nat := 0x2000 + 0x4 * i
def mbxOwner (f t : Nat) : Nat := 0x10400 + 0x100 * f + 0x4 * t
def mbxOwnerReq : Nat := 0x10100
def mbxHostWd : Nat := 0x10110
def mbxImgCtrl : Nat := 0x10200
def mbxImgAddr : Nat := 0x10208
def mbxImgTrees : Nat := 0x10210
def mbxImgStat : Nat := 0x10218
def mbxImgFaultOfs : Nat := 0x1021C
def mbxImgArb : Nat := 0x10220
def glbBootStat : Nat := 0x40
def glbResetCtrl : Nat := 0x30
def glbResetCause : Nat := 0x34
def treState (t : Nat) : Nat := 0x1000000 + 0x4000 * t
def treChmask (t : Nat) : Nat := 0x1000004 + 0x4000 * t
def chnState (c : Nat) : Nat := 0x2000000 + 0x40000 * c
def chnCycle (c : Nat) : Nat := 0x2000008 + 0x40000 * c
def chnDelimCfg (c : Nat) : Nat := 0x2000010 + 0x40000 * c
def chnTlrCfg (c : Nat) : Nat := 0x2000014 + 0x40000 * c
def chnTlrCmd (c : Nat) : Nat := 0x2000018 + 0x40000 * c
def chnOptCfg (c : Nat) : Nat := 0x200001C + 0x40000 * c
def chnTraceCfg (c : Nat) : Nat := 0x2000020 + 0x40000 * c
def chnTraceExp (c j : Nat) : Nat := 0x2000030 + 0x40000 * c + 0x4 * j
def chnTraceMm (c j : Nat) : Nat := 0x2000040 + 0x40000 * c + 0x4 * j
def chnEvent (c : Nat) : Nat := 0x2000080 + 0x40000 * c
def chnCrs (c i : Nat) : Nat := 0x2000100 + 0x40000 * c + 0x8 * i
def chnTcaThr (c n : Nat) : Nat := 0x2000400 + 0x40000 * c + 0x4 * n
def chnTcaTerm (c j : Nat) : Nat := 0x2000500 + 0x40000 * c + 0x4 * j
def chnPmSel (c : Nat) : Nat := 0x2000600 + 0x40000 * c
def chnPmData (c : Nat) : Nat := 0x2000608 + 0x40000 * c
def chnPmBintime (c : Nat) : Nat := 0x2000610 + 0x40000 * c
def treDiscCfg (t : Nat) : Nat := 0x1000100 + 0x4000 * t
def treRegCfg (t : Nat) : Nat := 0x1000104 + 0x4000 * t
def treRogueCfg (t : Nat) : Nat := 0x1000108 + 0x4000 * t
def treRogueStat (t : Nat) : Nat := 0x100010C + 0x4000 * t
def treTerm (t s : Nat) : Nat := 0x1001000 + 0x4000 * t + 0x4 * s
def treTermInfo (t s : Nat) : Nat := 0x1002000 + 0x4000 * t + 0x10 * s
def chnDiscEvent (c : Nat) : Nat := 0x2000088 + 0x40000 * c
def chnComaCand (c i : Nat) : Nat := 0x2000800 + 0x40000 * c + 0x8 * i
def chnComaStat (c : Nat) : Nat := 0x2000840 + 0x40000 * c
def chnTcmTx (c j : Nat) : Nat := 0x2000880 + 0x40000 * c + 0x4 * j
def chnTcmTxstat (c : Nat) : Nat := 0x20008B0 + 0x40000 * c
def chnEnergyCfg (c : Nat) : Nat := 0x20008C0 + 0x40000 * c
def chnEnergyStat (c : Nat) : Nat := 0x20008C4 + 0x40000 * c
def chnGeCfg (c : Nat) : Nat := 0x2000900 + 0x40000 * c
def chnGeAssured (c : Nat) : Nat := 0x2000904 + 0x40000 * c
def chnGeAssuredUsed (c : Nat) : Nat := 0x2000908 + 0x40000 * c
def chnGeSyswin (c : Nat) : Nat := 0x200090C + 0x40000 * c
def chnGeSysreq (c : Nat) : Nat := 0x2000910 + 0x40000 * c
def chnGeSysstat (c : Nat) : Nat := 0x2000920 + 0x40000 * c
def chnGeRingCtl (c : Nat) : Nat := 0x2000928 + 0x40000 * c
def chnGeEvent (c : Nat) : Nat := 0x2000930 + 0x40000 * c
def chnGeLast (c : Nat) : Nat := 0x2000938 + 0x40000 * c
def chnDsPart (c p : Nat) : Nat := 0x2000C00 + 0x40000 * c + 0x10 * p
def chnGclCtl (c : Nat) : Nat := 0x2000B00 + 0x40000 * c
def chnGclStat (c : Nat) : Nat := 0x2000B04 + 0x40000 * c
def chnGclAdminBase (c : Nat) : Nat := 0x2000B10 + 0x40000 * c
def chnGclAdminCyc (c : Nat) : Nat := 0x2000B20 + 0x40000 * c
def chnGclOperStart (c : Nat) : Nat := 0x2000B30 + 0x40000 * c
def chnGclMtu (c g : Nat) : Nat := 0x2000B40 + 0x40000 * c + 0x4 * g
def chnGclAdmin (c i : Nat) : Nat := 0x2030000 + 0x40000 * c + 0x8 * i
def chnDsEvent (c : Nat) : Nat := 0x2000B60 + 0x40000 * c
def uplGclFit (u : Nat) : Nat := 0x800764 + 0x1000 * u
def dtmSmpCtl (i : Nat) : Nat := 0x401000 + 0x40 * i
def dtmSmpRing (i : Nat) : Nat := 0x401008 + 0x40 * i
def dtmSmpIdx (i : Nat) : Nat := 0x401010 + 0x40 * i
def dtmSmpSel (i : Nat) : Nat := 0x401018 + 0x40 * i
def dtmSmpBmap (i : Nat) : Nat := 0x401020 + 0x40 * i
def dtmSmpStat (i : Nat) : Nat := 0x401028 + 0x40 * i
def treTransitReq (t : Nat) : Nat := 0x1000200 + 0x4000 * t
def treTransitResult (t : Nat) : Nat := 0x1000210 + 0x4000 * t
def treTransitCfg (t : Nat) : Nat := 0x1000218 + 0x4000 * t
def treFoldCfg (t : Nat) : Nat := 0x1000220 + 0x4000 * t
def treFoldStat (t : Nat) : Nat := 0x1000228 + 0x4000 * t
def treTransitEvent (t : Nat) : Nat := 0x100022C + 0x4000 * t
def treTransitStat (t s : Nat) : Nat := 0x1001800 + 0x4000 * t + 0x4 * s
def chnEclStat (c : Nat) : Nat := 0x2001000 + 0x40000 * c
def chnKeyCfg (c : Nat) : Nat := 0x2001150 + 0x40000 * c
def chnKeyInstall (c : Nat) : Nat := 0x2001100 + 0x40000 * c
def chnKeyInstallStat (c : Nat) : Nat := 0x2001140 + 0x40000 * c
def chnKeySlot (c k : Nat) : Nat := 0x2004000 + 0x40000 * c + 0x10 * k
def chnKeyAttn (c j : Nat) : Nat := 0x2001180 + 0x40000 * c + 0x4 * j
def chnKeyEvent (c : Nat) : Nat := 0x2001154 + 0x40000 * c
def secApproved : Nat := 0x20000
def secStatus : Nat := 0x20004
def secTamper : Nat := 0x20010
def secZeroize : Nat := 0x20020
def secChallenge (j : Nat) : Nat := 0x20040 + 0x4 * j
def grmProgStat : Nat := 0x80000
def grmProgId : Nat := 0x80008
def grmTraceCfg : Nat := 0x80010
def grmEvent : Nat := 0x80020
def fwdTcmd : Nat := 0x100000
def fwdTindex : Nat := 0x100004
def fwdTdata (j : Nat) : Nat := 0x100080 + 0x4 * j
def fwdBrCfg : Nat := 0x100200
def fwdLockCfg : Nat := 0x100204
def fwdNtfRing : Nat := 0x100208
def fwdNtfIdx : Nat := 0x100210
def fwdTcq (p : Nat) : Nat := 0x100220 + 0x4 * p
def fwdEvent : Nat := 0x100400
def acmPlaneStat (p : Nat) : Nat := 0x200000 + 0x100 * p
def uplGrpMode (u : Nat) : Nat := 0x800010 + 0x1000 * u
def uplPortCfg (u : Nat) : Nat := 0x800000 + 0x1000 * u
def uplPortStat (u : Nat) : Nat := 0x800004 + 0x1000 * u
def bpmPoolStat (n : Nat) : Nat := 0x300000 + 0x8 * n
def bpmPoolBase (n m : Nat) : Nat := 0x300100 + 0x20 * n + 0x8 * m
def bpmHomeCfg (p : Nat) : Nat := 0x300400 + 0x4 * p
def bpmPartUse (p : Nat) : Nat := 0x300600 + 0x8 * p
def bpmAdmCfg : Nat := 0x300800
def bpmFree : Nat := 0x300810
def bpmFreeStat : Nat := 0x300818
def bpmFaultLog : Nat := 0x300820
def bpmFaultSrc : Nat := 0x300828
def bpmEvent : Nat := 0x300830
def timTbCfg (b : Nat) : Nat := 0x40000 + 0x40 * b
def timTbServo (b : Nat) : Nat := 0x40004 + 0x40 * b
def timTbStat (b : Nat) : Nat := 0x40008 + 0x40 * b
def timTbTime (b : Nat) : Nat := 0x40010 + 0x40 * b
def timTbOffset (b : Nat) : Nat := 0x40020 + 0x40 * b
def timTbSet (b : Nat) : Nat := 0x40030 + 0x40 * b
def timForceStep : Nat := 0x40200
def timEvent : Nat := 0x40210
def timPpsCfg : Nat := 0x40300
def timTodCfg : Nat := 0x40308
def timFreqCfg : Nat := 0x4030C
def timCapCfg (i : Nat) : Nat := 0x40400 + 0x40 * i
def timCapStat (i : Nat) : Nat := 0x40408 + 0x40 * i
def timCapWin (i : Nat) : Nat := 0x40410 + 0x40 * i
def timCapFifo (i : Nat) : Nat := 0x40430 + 0x40 * i
def timAct (n : Nat) : Nat := 0x41000 + 0x40 * n
def chnTimeCfg (c : Nat) : Nat := 0x2001300 + 0x40000 * c
def chnTimeC50 (c : Nat) : Nat := 0x2001310 + 0x40000 * c
def uplTsCfg (u : Nat) : Nat := 0x800020 + 0x1000 * u
def mbxRegopIdx : Nat := 0x12200
def mbxRingCfg (r : Nat) : Nat := 0x12000 + 0x20 * r
def mbxRingIdx (r : Nat) : Nat := 0x12008 + 0x20 * r
def mbxTblwSel : Nat := 0x13000
def mbxTblwStat : Nat := 0x13004
def mbxMsixMap (src : Nat) : Nat := 0x14000 + 0x4 * src
def dmaChCfg (d : Nat) : Nat := 0x50000 + 0x100 * d
def dmaChCtl (d : Nat) : Nat := 0x50004 + 0x100 * d
def dmaChProg (d : Nat) : Nat := 0x50008 + 0x100 * d
def dmaChStat (d : Nat) : Nat := 0x50010 + 0x100 * d
def dmaChVec (d : Nat) : Nat := 0x50018 + 0x100 * d
def dmaReqRaise : Nat := 0x53000
def dmaReqStat (l : Nat) : Nat := 0x53100 + 0x4 * l
def dmaRxCfg (i : Nat) : Nat := 0x54000 + 0x20 * i
def dmaRxIdx (i : Nat) : Nat := 0x54010 + 0x20 * i
def dmaFnStat (f : Nat) : Nat := 0x55000 + 0x4 * f
def prtCfg : Nat := 0x70000
def prtState : Nat := 0x70004
def prtAlive : Nat := 0x70008
def prtTimer : Nat := 0x7000C
def prtLinkStat : Nat := 0x70010
def prtTrunk (t : Nat) : Nat := 0x70100 + 0x8 * t
def prtEvent : Nat := 0x70020
def obsStatSel : Nat := 0x60010
def obsStatData : Nat := 0x60018
def obsSnapCtl : Nat := 0x60040
def obsSnapStat : Nat := 0x60044
def obsSnapTime : Nat := 0x60050
def obsPcSel (n : Nat) : Nat := 0x61000 + 0x20 * n
def obsPcVal (n : Nat) : Nat := 0x61008 + 0x20 * n
def obsPcRgn (n : Nat) : Nat := 0x61010 + 0x20 * n
def obsPcShadow (n : Nat) : Nat := 0x63000 + 0x8 * n
def obsTraceRing : Nat := 0x60100
def obsTraceIdx : Nat := 0x60108
def obsTraceInj : Nat := 0x60110
def obsTraceStat : Nat := 0x60118
def obsFiGlobal : Nat := 0x60200
def obsEvent : Nat := 0x60060
def pwrCap : Nat := 0x30000
def pwrStat : Nat := 0x30004
def pwrDvfs (k : Nat) : Nat := 0x30010 + 0x4 * k
def pwrGateUpl : Nat := 0x30040
def pwrEvent : Nat := 0x30048
def pwrRailCfg (r : Nat) : Nat := 0x30100 + 0x8 * r
def pwrRailTel (r : Nat) : Nat := 0x30200 + 0x8 * r
def pwrTherm (s : Nat) : Nat := 0x30400 + 0x4 * s
def chnGeCnt (c n : Nat) : Nat := 0x2000A00 + 0x40000 * c + 0x8 * n
def chnDsCnt (c n : Nat) : Nat := 0x2000B80 + 0x40000 * c + 0x8 * n
def chnCiphCnt (c n : Nat) : Nat := 0x2001200 + 0x40000 * c + 0x8 * n
def grmCnt (p n : Nat) : Nat := 0x81000 + 0x80 * p + 0x8 * n
def fwdCnt (n : Nat) : Nat := 0x100800 + 0x8 * n
def bpmCnt (n : Nat) : Nat := 0x300900 + 0x8 * n
def obsStatBase : Nat := 0x60000
def obsShadowBase : Nat := 0x60008
def treModStat (t : Nat) : Nat := 0x1000300 + 0x4000 * t
def uplGclCtl (u : Nat) : Nat := 0x800700 + 0x1000 * u
def uplGclStat (u : Nat) : Nat := 0x800704 + 0x1000 * u
def uplGclAdminBase (u : Nat) : Nat := 0x800710 + 0x1000 * u
def uplGclAdminCyc (u : Nat) : Nat := 0x800720 + 0x1000 * u
def uplGclOperStart (u : Nat) : Nat := 0x800730 + 0x1000 * u
def uplGclMtu (u g : Nat) : Nat := 0x800740 + 0x1000 * u + 0x4 * g
def uplGclEvent (u : Nat) : Nat := 0x800760 + 0x1000 * u
def uplGclAdmin (u i : Nat) : Nat := 0x800800 + 0x1000 * u + 0x8 * i
def fiCfgDs (c : Nat) : Nat := 0x2001400 + 0x40000 * c
def fiPatDs (c : Nat) : Nat := 0x2001410 + 0x40000 * c
def fiStatDs (c : Nat) : Nat := 0x2001418 + 0x40000 * c
def fiCfgUs (c : Nat) : Nat := 0x2001420 + 0x40000 * c
def fiPatUs (c : Nat) : Nat := 0x2001430 + 0x40000 * c
def fiStatUs (c : Nat) : Nat := 0x2001438 + 0x40000 * c
def fiCfgUtx (u : Nat) : Nat := 0x800300 + 0x1000 * u
def fiPatUtx (u : Nat) : Nat := 0x800310 + 0x1000 * u
def fiStatUtx (u : Nat) : Nat := 0x800318 + 0x1000 * u
def fiCfgUrx (u : Nat) : Nat := 0x800320 + 0x1000 * u
def fiPatUrx (u : Nat) : Nat := 0x800330 + 0x1000 * u
def fiStatUrx (u : Nat) : Nat := 0x800338 + 0x1000 * u
def fiCfgObs (i : Nat) : Nat := 0x64000 + 0x40 * i
def fiPatObs (i : Nat) : Nat := 0x64010 + 0x40 * i
def fiStatObs (i : Nat) : Nat := 0x64018 + 0x40 * i
def obsFiLink (i : Nat) : Nat := 0x64020 + 0x40 * i
def msixTable (v : Nat) : Nat := 0xF00000 + 0x10 * v
def msixPba (j : Nat) : Nat := 0xF80000 + 0x4 * j
end Adr

end Sys2Proof.Machine
end

