-- ==== Sys2Proof/Machine/State.lean ====
section
/-! DEFINITION. The machine's state as plain data: registers (by control-window address), table entries (by table-window
address), the memories the device reaches, and the internal state of each unit the spec describes. Every map is sparse
and canonical (SMap). State.reset is the device as a COLD reset leaves it in P0 (R76, R81). -/
namespace Sys2Proof.Machine

/-- The write a GLB_WRSTAT copy reports (R26, R27). -/
structure WrRec where
  status : Nat := 0
  epoch : Nat := 0
  state : Nat := 0
  off : Nat := 0
  deriving DecidableEq, Repr

/-- What the host port holds per requester (R12, R27, R35, R330) and per interrupt source (R389). Keys are requester
codes, or code * 2^28 + address. -/
structure AccessSt where
  perReq : SMap Word := []
  latch : SMap Word := []
  wrBad : SMap WrRec := []
  wrLast : SMap WrRec := []
  wrCount : SMap Nat := []
  barWait : SMap Nat := []
  barLost : SMap Nat := []
  ret : SMap Word := []
  stage : SMap Word := []
  tblStage : SMap Word := []
  tblEntry : SMap Nat := []
  vfMsix : SMap Word := []
  vfPba : List Nat := []
  srcPend : List Nat := []
  deriving DecidableEq, Repr

/-- Unit state registers (R26): those the data path has changed in this cycle, and the pending changes by register
address, each a STATE and a DETAIL. -/
structure UnitSt where
  changed : List Nat := []
  pend : SMap (Nat × Nat) := []
  deriving DecidableEq, Repr

/-- A die-to-die port (R18): the flits still to be replayed in order, each a class, logical port and bytes, replays of the first of
them, a retraining under way, failed retrainings in a row. -/
structure D2dPort where
  retry : List (Nat × Nat × List Byte) := []
  replays : Nat := 0
  retraining : Bool := false
  failedRow : Nat := 0
  lost : Bool := false
  deriving DecidableEq, Repr

/-- Die-to-die ports, and flits whose credit is still out, by port, direction, class and logical port (R17). -/
structure DieSt where
  ports : SMap D2dPort := []
  creditsOut : SMap Nat := []
  deriving DecidableEq, Repr

/-- A handover in progress (R43): function, tree, new owner, the record it writes, the islands still to acknowledge. -/
structure Handover where
  func : Nat
  tree : Nat
  newOwner : Nat
  record : Nat
  watchdog : Bool := false
  quiescing : Bool := false
  flipsSent : Bool := false
  waiting : List Nat := []
  deriving DecidableEq, Repr

/-- Ownership (R43 to R47): handovers, and the islands whose owner copy has already flipped (function * 64 + tree,
island); the host watchdog counts while armed. -/
structure OwnSt where
  handovers : List Handover := []
  flipped : List (Nat × Nat) := []
  wdArmed : Bool := false
  deriving DecidableEq, Repr

/-- What leaves the device, in order: the record of messages, frames and pulses sent. Nothing in the device reads it. -/
inductive Sent
  /-- an MSI-X message: function, vector, address, data (R389) -/
  | msix (fn vec addr data : Nat)
  /-- a downstream terminal control message on a channel, its 48 bytes (R147) -/
  | tcm (c : Nat) (msg : List Byte)
  /-- a frame sent downstream on a channel: encapsulation header (R92), and payload with tag -/
  | dsFrame (c : Nat) (hdr payload : List Byte)
  /-- a downstream cycle of an N200 channel: its CYCLE_COUNT and its 200 codewords, as bytes (R86 to R93) -/
  | cycle (c n : Nat) (codewords : List (List Byte))
  /-- a frame sent on an uplink port -/
  | uplFrame (port queue len : Nat) (data : List Byte)
  /-- the burst-reset pulse of a channel: rising and falling instants in grant units (R108) -/
  | burstReset (c on off : Nat)
  /-- a trigger or PPS pulse: output, width in ns -/
  | pulse (out width : Nat)
  /-- a time-of-day message (R374) -/
  | tod (body : List Byte)
  /-- a message on the protection link (R419) -/
  | plk (m : PlkMsg)
  /-- a PMBus or AVS command to a rail's regulator: rail, value in mV -/
  | pmbus (rail mv : Nat)
  /-- the report of a table entry with an uncorrectable error: table code and index (R37) -/
  | tableError (code idx : Nat)
  /-- a PLOAM message on a C50 channel (R126): destination TID (0x7FFF all), place among the downstream messages of R126, and its
  content: the equalization delay in symbols, the profile, 1 to enable -/
  | ploam (c dest typ arg : Nat)
  deriving DecidableEq, Repr

/-- Pins, supplies and the run of a reset (R71 to R83). Supplies are numbered as supplyStep gives them. -/
structure BootSt where
  fuse6432 : Bool := false
  fuseP : Bool := false
  /-- 0 valid, 1 off, 2 started -/
  supply : SMap Nat := []
  seqErr : Bool := false
  porLow : Bool := false
  perstLow : Bool := true
  bootsel : Nat := 0
  /-- 0 none, 1 WARM, 2 COLD: from the moment the reset is taken until P6 starts (R83) -/
  resetRun : Nat := 0
  /-- a reset that GLB_RESET_CTRL has asked for and that is not taken yet: 1 WARM, 2 COLD -/
  request : Nat := 0
  /-- bit of GLB_RESET_CAUSE that the running reset sets as it completes -/
  cause : Nat := 0
  /-- a failed stay: the phase does not go on (R80) -/
  stay : Bool := false
  linkUp : Bool := false
  bootMode : Bool := false
  fatal : Bool := false
  dataStopped : Bool := false
  fwAlive : Bool := false
  deriving DecidableEq, Repr

/-- The image operation under way (R66 to R70). -/
inductive ImgOp
  | idle
  /-- a fetch at boot: the slot tried (1 A, 2 B), whether the other slot has already failed, the first slot's failure -/
  | bootFetch (slot : Nat) (second : Bool) (code sec ofs : Nat)
  /-- the boot ROM waits in P3 for a STAGE -/
  | bootWait
  /-- a STAGE that the P3 wait has taken -/
  | bootStage
  /-- a STAGE in operation -/
  | stage
  /-- an APPLY that waits for the Transits of its trees to end: LIVE, named trees -/
  | applyWait (live : Bool) (trees : Nat)
  /-- an APPLY that runs -/
  | applying
  deriving DecidableEq, Repr

/-- Images (R48 to R70): the running image as loaded, its Grammar program and templates as applied since, the staged
image (empty: none), each tree's running record as a number, the operation under way, its source and its outcome
record, a STAGE held in boot mode, and of a running APPLY the trees still to reset, still to count, already counted, and named. -/
structure ImageSt where
  running : List Byte := []
  grammar : List Byte := []
  templates : List Byte := []
  staged : List Byte := []
  treeRec : SMap Nat := []
  op : ImgOp := .idle
  src : Nat := 0
  addr : Nat := 0
  ticket : Ticket := .none
  opCount : Nat := 0
  held : Option (Ticket × Nat) := none
  applyReset : List Nat := []
  applyLeft : List Nat := []
  applyDone : Nat := 0
  applyMask : Nat := 0
  deriving DecidableEq, Repr

/-- The pairing record of the vault (R285, R290). -/
structure PairRec where
  key : List Byte
  pairId : List Byte
  role : Nat
  factory : Bool
  partner : List Byte
  deriving DecidableEq, Repr

/-- The key vault (R61, R283 to R290): key hashes, anti-rollback counters; CO credential hashes by slot, User credentials by
partition, the certificate chain, the generation of the identity keys and of the key-wrapping keys, whether the key-wrapping
area is blank, the pairing; SEQ of each region (R286), checkpoint records by counter * 8 + slot (R287): SEQ and value; the
tamper log by slot: source bits and the time of base 0, and the count of its records. -/
structure VaultSt where
  lithenEc : List (List Byte) := []
  lithenMl : List (List Byte) := []
  ownerEc : List (List Byte) := []
  ownerMl : List (List Byte) := []
  imgArb : Nat := 0
  fwArb : Nat := 0
  coCred : SMap (List Byte) := []
  userCred : SMap (List Byte) := []
  cert : List Byte := []
  idGen : Nat := 0
  kwkGen : Nat := 0
  blank : Bool := true
  pair : Option PairRec := none
  seq : SMap Nat := []
  chk : SMap (Nat × Nat) := []
  tamperLog : SMap (Nat × Nat) := []
  logCount : Nat := 0
  deriving DecidableEq, Repr

/-- A PAIR_PROVISION under way (R290): its record, the partner's key hash, the module's ephemeral secret. -/
structure PairProv where
  ticket : Ticket
  hash : List Byte
  secret : List Byte
  deriving DecidableEq, Repr

/-- The security module (R271 to R293): the role of each function's session (1 Crypto Officer, 2 User, 0 none); unused
challenges by requester; consecutive failed logins by function * 4 + role, and the roles so refused; whether the DRBG is
seeded, its reseeds, and the draws at the last one; the transport key (R265); the checkpointed counters (R287); the cycle + 1
of each region's last write, checkpoints as 4 + counter (R286); tamper sources whose erase of the key-wrapping area runs;
a pairing under way. -/
structure SecSt where
  role : SMap Nat := []
  vault : VaultSt := {}
  chal : SMap (List Byte) := []
  fails : SMap Nat := []
  refused : List Nat := []
  drbg : Bool := false
  reseeds : Nat := 0
  seedAt : Nat := 0
  transport : List Byte := []
  ctr : SMap Nat := []
  regionAt : SMap Nat := []
  erasing : List Nat := []
  prov : Option PairProv := none
  deriving DecidableEq, Repr

/-- Statistics counters (R430 to R434): live counts and shadows by ((scope * 2^20) + unit) * 16 + code; the sequence
number each shadow area carries; counters that wrapped since the last snapshot; whether the area bases are good. -/
structure StatSt where
  live : SMap Nat := []
  shadow : SMap Nat := []
  shadowSeq : Nat := 0
  wrapped : List Nat := []
  shadowWrapped : List Nat := []
  deriving DecidableEq, Repr

/-- A buffer descriptor that is not FREE (R343): LOST or in use, length, partition charged, holder names (one occurrence
per share), the frame's cells. -/
structure BufDesc where
  lost : Bool := false
  len : Nat
  part : Nat
  names : List Nat
  cells : List Nat := []
  deriving DecidableEq, Repr

/-- A pool's free handles (R348): the handles from next up to count that the ring still holds as it was filled, the
handles returned to the ring after them, and the on-chip cache, first out first. -/
structure PoolSt where
  count : Nat := 0
  next : Nat := 0
  ring : List Nat := []
  cache : List Nat := []
  deriving DecidableEq, Repr

/-- The buffer pools (R339 to R356): pools by number, descriptors by handle, cells and deep bytes charged to each
partition, lost buffer slices and lost DRAM sites. -/
structure BufSt where
  pools : SMap PoolSt := []
  desc : SMap BufDesc := []
  useCells : SMap Nat := []
  useDeep : SMap Nat := []
  lostSlices : List Nat := []
  lostSites : List Nat := []
  deriving DecidableEq, Repr

/-- A terminal control message in a channel's queue (R152): its class, ADDR, TYPE, ACK_REQ, payload, the TID of the
terminal it goes to (none for a broadcast), whether it is a resend, and the last cycle whose header may carry it + 1 (0: any). -/
structure QMsg where
  cls : Nat
  addr : Nat
  typ : Nat
  ack : Bool := false
  body : List Byte := []
  peer : Option Nat := none
  resend : Bool := false
  latest : Nat := 0
  deriving DecidableEq, Repr

/-- An outstanding message that waits for its ACK (R151): channel, message, ALIVE of each copy, resends so far. -/
structure TcmWait where
  chan : Nat
  msg : QMsg
  alives : List Nat
  resends : Nat := 0
  deriving DecidableEq, Repr

/-- Terminal control messages (R147 to R152): queues by channel, outstanding waits by TID, alive counters: downstream by
TID, broadcast by channel, last accepted upstream + 1 by TID; upstream messages discarded for their CRC or a reserved type, by
channel (R147, R148). -/
structure TcmSt where
  queue : SMap (List QMsg) := []
  wait : SMap TcmWait := []
  aliveDn : SMap Nat := []
  aliveBc : SMap Nat := []
  aliveUp : SMap Nat := []
  discards : SMap Nat := []
  deriving DecidableEq, Repr

/-- A replaced key that its open frames still use (R267). -/
structure ShadowKey where
  key : List Byte
  gen : Nat
  left : Nat
  deriving DecidableEq, Repr

/-- An open context (R266): channel, slot k, stream, generation, counter, bytes and fragments so far, the additional
data's tag length, and the frame's start within the client bytes gathered. -/
structure KeyCtx where
  chan : Nat
  slot : Nat
  stream : Nat
  gen : Nat
  counter : Nat
  bytes : Nat
  frags : Nat
  tag12 : Bool
  deriving DecidableEq, Repr

/-- A downstream frame latched to slot k of a channel (R267): the key's generation, and the places of its header and payload in the
channel's packet area, of one fragment or of two. -/
structure DsLatch where
  chan : Nat
  slot : Nat
  gen : Nat
  segs : List (Nat × Nat)
  deriving DecidableEq, Repr

/-- A rotation that firmware runs (R260), by TID * 2 + direction: new index, KEY_INSTALL parts still to acknowledge. -/
structure KeyRot where
  idx : Nat
  parts : Nat
  ticket : Ticket := .none
  deriving DecidableEq, Repr

/-- Payload protection (R249 to R272). Keys are by channel * 2048 + slot k; KEKs by channel * 512 + terminal slot, and the
retained copies by TID; KTKs by partition; key draws so far. -/
structure KeySt where
  mat : SMap (List Byte) := []
  shadow : SMap ShadowKey := []
  retire : SMap Nat := []
  failRow : SMap Nat := []
  chanKek : SMap (List Byte) := []
  kek : SMap (List Byte) := []
  ktk : SMap (List Byte) := []
  ctx : List KeyCtx := []
  /-- downstream frames that may still be on their way out -/
  latched : List DsLatch := []
  coresOut : SMap (List Nat) := []
  rot : SMap KeyRot := []
  draws : Nat := 0
  /-- high-water marks reported for terminals in Transit, by TID * 4 + DIR * 2 + IDX: the mark and the cycle -/
  marks : SMap (Nat × Nat) := []
  deriving DecidableEq, Repr

/-- An installed gate control list (R213, R219): time base, start instant S in units of 2^-16 ns, cycle time in ns, and
entries of gate states and interval in ns. -/
structure GclList where
  tb : Nat
  start : Nat
  cycle : Nat
  entries : List (Nat × Nat)
  deriving DecidableEq, Repr

/-- The lists of a channel (key c) or of an uplink port (key 256 + u). -/
structure GclSt where
  run : Option GclList := none
  next : Option GclList := none
  deriving DecidableEq, Repr

/-- A frame in a queue (R201): its Clause and bytes, its charged length before the tag. -/
structure QFrame where
  cl : Clause
  data : List Byte
  tsReq : Option (Nat × Nat) := none
  deriving DecidableEq, Repr

/-- A shaper (R207): bucket levels in units of 1/65,536 byte and the instant, in ps, up to which they are filled. -/
structure Bucket where
  cir : Int := 0
  pir : Int := 0
  at_ : Nat := 0
  deriving DecidableEq, Repr

/-- Deficit round robin at one node, tier and priority (R204): the child at the pointer and the deficits, in bytes. -/
structure DrrSt where
  ptr : Nat := 0
  deficit : SMap Int := []
  deriving DecidableEq, Repr

/-- Scheduling (R198 to R227): gate lists; queues by QID, or 2^20 + port * 8 + class; deep heads staged (R352); windows
a head frame has waited without fitting (queue key: count * 4, + 1 when it stood at the window's opening, + 2 when it has fitted
since); shaper buckets and DRR state by node key; the byte position of the line in each channel's packet area; policer buckets
by SID; samplers. -/
structure SchedSt where
  gcl : SMap GclSt := []
  queues : SMap (List QFrame) := []
  staged : List Nat := []
  waits : SMap Nat := []
  buckets : SMap Bucket := []
  drr : SMap DrrSt := []
  pos : SMap Nat := []
  policer : SMap (Int × Int × Nat) := []
  smpPos : SMap Nat := []
  smpSeq : SMap Nat := []
  smpFlags : SMap Nat := []
  deriving DecidableEq, Repr

/-- A system grant booked (R186): cycle, GKIND (1 TERMINAL, 2 REGISTRATION), START, LENGTH, TCM_EN, TID or INVITE_ID. -/
structure Booking where
  cycle : Nat
  kind : Nat
  start : Nat
  len : Nat
  tcm : Bool := false
  id : Nat
  deriving DecidableEq, Repr

/-- An Ephemeris entry (R173) without its CRC8, COMA and TCM_REF, which are put in as it is sent. -/
structure EphEntry where
  gkind : Nat
  aid : Nat
  tid : Nat
  start : Nat
  len : Nat
  btype : Nat
  rpt : Nat := 0
  tcm : Bool := false
  standing : Bool := false
  stream : Nat := 0
  deriving DecidableEq, Repr

/-- A granted burst that has not been received yet: upstream cycle, TID (0x7FFF for a registration), INVITE_ID, span,
cold, GKIND, the bytes granted by AID, and whether its START has come. -/
structure GBurst where
  cycle : Nat
  tid : Nat
  invite : Nat := 0
  start : Nat
  len : Nat
  cold : Bool
  kind : Nat
  grants : List (Nat × Nat) := []
  started : Bool := false
  deriving DecidableEq, Repr

/-- Grants to an allocation: cycle, bytes, whether the burst has been received. -/
structure OutGrant where
  cycle : Nat
  bytes : Nat
  recd : Bool := false
  deriving DecidableEq, Repr

/-- The engine's view of an allocation (R168, R172): backlog of the last report and its cycle + 1 (0: none), the cycle + 1 from which an
allocation without a report counts, the rate estimate in 1/256 byte, the credits in 1/8 byte, the last granted cycle + 1, deferrals, due, grants since the last report,
bytes received since it. -/
structure AllocDyn where
  backlog : Nat := 0
  rpt : Nat := 0
  since : Nat := 0
  rate : Nat := 0
  acr : Nat := 0
  mcr : Int := 0
  last : Nat := 0
  deferrals : Nat := 0
  due : Bool := false
  out : List OutGrant := []
  recv : Nat := 0
  deriving DecidableEq, Repr

/-- The grant engines (R165 to R197), by channel where not by AID or TID: bookings, scheduled quiet windows (first and last
cycle), the Ephemeris built for a cycle, bursts outstanding, rotation pointers, deferred TIDs, last opening START of the
cycle before, last burst cycle + 1 of a TID, TIDs whose last burst was lost, cycles that used a ring record, the cycle + 1
built last, and of the cycles built the widest gap without a granted burst, in grant units (R157). -/
structure GrantSt where
  alloc : SMap AllocDyn := []
  books : SMap (List Booking) := []
  quiet : SMap (List (Nat × Nat)) := []
  eph : SMap (Nat × List EphEntry) := []
  bursts : SMap (List GBurst) := []
  ptr : SMap Nat := []
  deferred : SMap (List Nat) := []
  lastStart : SMap Nat := []
  lastBurst : SMap Nat := []
  lostLast : List Nat := []
  used : SMap (List Nat) := []
  built : SMap Nat := []
  gaps : SMap (List (Nat × Nat)) := []
  deriving DecidableEq, Repr

/-- Where a registration that firmware runs stands (R143). -/
inductive RegStep
  | assign | ranging (eqd : Nat) | check | keys (left : Nat) | activate
  deriving DecidableEq, Repr

/-- An invitation (R138): the epoch cycle and code it answers, the candidate's delta, its registration cycle. -/
structure Invite where
  epoch : Nat
  code : Nat
  delta : Nat
  cycle : Nat
  deriving DecidableEq, Repr

/-- Discovery and registration (R132 to R156): registrations by TID, retained serials and equalization delays by TID (R81),
invitations by channel * 256 + INVITE_ID and the next id by channel, a channel's epoch cycles whose candidates are still to be posted, its
last epochs (overload, peaks; latest first), DELIM_OFS of a TID's last bursts, lost bursts in a row by TID; by TID the delay
measured at registration, the NONCE to echo, and TRESP_ACT + 1 of a TOD_CAPABLE terminal (R370). -/
structure RegSt where
  steps : SMap RegStep := []
  /-- the anchor wavelength of a tree whose fold is under way (R246) -/
  anchor : SMap Nat := []
  retained : SMap Nat := []
  retainedEqd : SMap Nat := []
  invites : SMap Invite := []
  nextInvite : SMap Nat := []
  epochs : SMap (List Nat) := []
  history : SMap (List (Bool × Bool)) := []
  ofs : SMap (List Int) := []
  misses : SMap Nat := []
  delta : SMap Nat := []
  nonce : SMap Nat := []
  tresp : SMap Nat := []
  deriving DecidableEq, Repr

/-- The phase of a rogue localization (R159 to R162). -/
inductive RoguePhase
  | idle
  /-- baseline: windows done, windows with energy -/
  | baseline (n e : Nat)
  /-- deterministic search for a bit, with the bits above it -/
  | search (bit sh : Nat)
  /-- statistical search: bit, bits above, pairs of the round, windows done, energy counts of the two groups -/
  | stat (bit sh pairs n e0 e1 : Nat)
  /-- DISABLE of the registered terminals with the SH, one per window -/
  | test (sh : Nat) (tids : List Nat)
  /-- DISABLE by SH -/
  | bySh (sh : Nat)
  /-- a C50 channel's halves by serial: the terminals still suspected, and whether the first half is disabled -/
  | halves (tids : List Nat)
  /-- the 16 cycles after the rogue's disable: cycles seen, with energy -/
  | watch (n e : Nat)
  /-- a persistent rogue: cycles since the repeats began -/
  | persist (n : Nat)
  deriving DecidableEq, Repr

/-- Rogue handling of a tree (R157 to R163): phase, the SILENCE of the window under way (mask, value) with its first cycle, the
terminals that a DISABLE of the window keeps silent, the rogue's TID. -/
structure RogueSt where
  phase : RoguePhase := .idle
  silence : Option (Nat × Nat) := none
  start : Nat := 0
  muted : List Nat := []
  tid : Option Nat := none
  sh : Nat := 0
  deriving DecidableEq, Repr

/-- A packet's parse in a pipeline (R297): the frame with its Clause so far, the verb about to run, the registers, the
headers counted so far, the Prefix fields (R296), E, whether SETNOUN ran, and whether it parses under the new bank. -/
structure ParseCtx where
  item : Ingress
  pc : Nat
  cur : Nat
  nouns : List Nat := List.replicate 16 0
  acc : Nat := 0
  hdrs : List (Nat × Nat) := []
  e : Nat := 12
  hdrCount : Nat := 0
  vcount : Nat := 0
  pre : List Nat := []
  etype : Nat := 0
  ipSrc : Option (List Byte) := none
  nounSet : Bool := false
  newBank : Bool := false
  deriving DecidableEq, Repr

/-- The Grammar (R294 to R310): the shadow bank's program, a load that has not switched yet, pipelines that passed the
marker; by pipeline the packet under parse, the tracer LFSR and the packets tagged so far; the last drop reason. -/
structure GrmSt where
  shadow : List Byte := []
  loading : Bool := false
  marked : List Nat := []
  ctx : SMap ParseCtx := []
  lfsr : SMap Nat := []
  tagged : SMap Nat := []
  reason : Nat := 0
  deriving DecidableEq, Repr

/-- A constant-rate stream change that waits for its frame start (R99). -/
structure CrsChange where
  value : Nat := 0
  landed : Nat := 0
  deriving DecidableEq, Repr

/-- The cycle header a channel sends, field by field (R90). -/
structure CycleHdr where
  cycle : Nat := 0
  flags : Nat := 0
  traceId : List Byte := []
  anchorTb : Nat := 0
  anchorTime : Nat := 0
  ephCycle : Nat := 0
  eph : List Nat := []
  tcm : List (List Byte) := []
  deriving DecidableEq, Repr

/-- The FIFO of a constant-rate stream (R98): its bytes, the offsets at which client blocks start, how many bytes of the
queue's head frame have entered it, and whether its last container signalled CSF. -/
structure CrsFifo where
  data : List Byte := []
  starts : List Nat := []
  ofs : Nat := 0
  csf : Bool := false
  deriving DecidableEq, Repr

/-- A key in transit between slots (R264). -/
structure KeyMove where
  mat : List Byte
  gen : Nat
  limit : Nat
  tag12 : Bool
  invoc : Nat
  state : Nat
  deriving DecidableEq, Repr

/-- An upstream frame as it left the codewords of a burst: its arrival in ns of time base 0, whether a byte of it lay in an
uncorrectable codeword, and the upstream cycle of its burst. -/
structure UsItem where
  f : EncFrame
  ts : Nat
  bad : Bool := false
  cycle : Nat
  deriving DecidableEq, Repr

/-- A Transit (R230 to R241): switch cycle X, landing cycle Y, the wrapped copy of the four key slots once taken, the
outcome record of the request, bursts missed on the destination, whether it is an ended Transit whose terminal is
recovered on both channels, and the frames of bursts decoded on the destination before US_DEST, with whether there was
one (R236). -/
structure TransitRec where
  x : Nat
  y : Nat
  bundle : List KeyMove := []
  ticket : Ticket := .none
  misses : Nat := 0
  recover : Bool := false
  heard : Bool := false
  held : List UsItem := []
  deriving DecidableEq, Repr

/-- The channel line (R84 to R128): keys are the channel, the channel * 512 + slot, or as said. -/
structure LineSt where
  /-- TLR staging registers, in use and fetched: slot + 1 (0 none) and the 64 bytes of the record as fetched (R112) -/
  stageCur : SMap (Nat × List Byte) := []
  stageNext : SMap (Nat × List Byte) := []
  /-- consecutive mismatching and matching bursts, by TID-like key c * 512 + slot (R116) -/
  traceBad : SMap Nat := []
  traceOk : SMap Nat := []
  /-- granted cycles in a row without a burst, and whether the cycle under way had a grant and a burst (R117) -/
  silent : SMap Nat := []
  granted : List Nat := []
  heard : List Nat := []
  /-- Clause errors of a channel island within the second under way (R39) -/
  clauseSec : SMap Nat := []
  /-- PM counts by ((c * 513 + scope) * 19 + bin) * 16 + counter; scope 0 the channel, slot + 1 a terminal (R120) -/
  pm : SMap Nat := []
  pmTca : List Nat := []
  /-- bins marked SUSPECT, by (c * 513 + scope) * 19 + bin -/
  pmSuspect : List Nat := []
  /-- the start second of each bin, by (c * 513 + scope) * 19 + bin -/
  pmStart : SMap Nat := []
  /-- uncorrectable codewords, lost bursts and granted bursts in the second under way, by c * 513 + scope (R121) -/
  secUncorr : SMap Nat := []
  secLost : SMap Nat := []
  secGranted : SMap Nat := []
  crsPend : SMap CrsChange := []
  crsFifo : SMap CrsFifo := []
  hdr : SMap CycleHdr := []
  /-- what the framer has put into the cycle under way: the bytes of the constant-rate region, entries (channel * 64 + i) whose
  containers carry 12-byte tags, and the bytes of the packet area from its start on (R89, R93, R97) -/
  crs : SMap (List Byte) := []
  crsTag12 : List Nat := []
  pkt : SMap (List Byte) := []
  /-- bytes of a partial upstream frame, by TID * 32 + STREAM (R105), and the streams whose fragments are skipped up to the
  next frame start (R106) -/
  partials : SMap (List Byte) := []
  fragSkip : List Nat := []
  deriving DecidableEq, Repr

/-- Frames on their way through the device: received and waiting for a pipeline, by pipeline (R300); classified and
waiting for forwarding, by pipeline; forwarded and waiting for their queues, each with the queues that its copies take; for
a host receive ring, with its number (R399); handed to the control complex. -/
structure FlowSt where
  ingress : SMap (List Ingress) := []
  fwd : SMap (List FwdItem) := []
  out : List (Frame × List Nat) := []
  toHost : List (Nat × Frame) := []
  ctrl : List Frame := []
  deriving DecidableEq, Repr

/-- A routed INSERT whose relocations run (R323, R324): the requester and the value written to FWD_TCMD, the role of the space, the
relocations left (positions from and to) and whether the first one's copy has committed, the positions whose entry has moved and
where it lies, and the table code, index and entry that end it. -/
structure Reloc where
  who : Requester
  word : Word
  role : Nat
  moves : List (Nat × Nat)
  copied : Bool := false
  moved : List (Nat × Nat) := []
  code : Nat
  idx : Nat
  entry : Nat
  deriving DecidableEq, Repr

/-- Forwarding (R317): moves in the second of time base 0 under way, and that second; an INSERT that relocates. -/
structure FwdSt where
  moveSec : Nat := 0
  moves : Nat := 0
  reloc : Option Reloc := none
  deriving DecidableEq, Repr

/-- A unit that an injector holds (R440): something about to be sent, an uplink frame received (its instant after the
cycle start in ns), a protection-link message received with what its wrapped key opens to, an item entering an island, an upstream burst
of n coded bytes. -/
inductive FiUnit
  | out (o : Sent)
  | uplRx (u ofs : Nat) (data : List Byte)
  | plkRx (m : PlkMsg) (key : List Byte)
  | flit (p d cls lp : Nat) (data : List Byte) (crcOk : Bool)
  | item (src dst : Nat) (cl : Clause) (check : Nat)
  | burst (n : Nat)
  deriving DecidableEq, Repr

/-- An armed injector (R440): matching units still to pass, units still to affect (none: all that follow), and the units
held with the further units each waits for. -/
structure FiSt where
  skip : Nat := 0
  left : Option Nat := none
  held : List (FiUnit × Nat) := []
  deriving DecidableEq, Repr

/-- Observation (R431 to R441): injected tracers, trace records lost since the last one written, injectors by the address
of their FI_CFG, the instant F of the last snapshot in ns of device time + 1, and the cycle of the last trace record with how many
records it has written. -/
structure ObsSt where
  injected : Nat := 0
  traceLost : Bool := false
  fi : SMap FiSt := []
  snapAt : Nat := 0
  traceCycle : Nat := 0
  traceCount : Nat := 0
  deriving DecidableEq, Repr

/-- Uplink ports (R334, R335): paused egress queues by port, a PAUSE of the whole port being all eight. -/
structure UplSt where
  paused : SMap Nat := []
  deriving DecidableEq, Repr

/-- A time base beside its registers (R359 to R363): the integrator I and ADJ in 2^-28 ppb, what of a tick of 2^-16 ns is
left over (in 1 / (10^9 * 2^28)), the held refused sample in 2^-16 ns, the time staged for ABSOLUTE, and whether the base is
FREERUN after a forced step. -/
structure BaseSt where
  integ : Int := 0
  adj : Int := 0
  frac : Nat := 0
  held : Option Int := none
  staged : Option Nat := none
  stepped : Bool := false
  deriving DecidableEq, Repr

/-- A capture input (R376): its records oldest first, the device ns + 1 of the last recorded edge, edges absorbed since. -/
structure CapSt where
  fifo : List Nat := []
  last : Nat := 0
  absorbed : Nat := 0
  deriving DecidableEq, Repr

/-- The time unit (R357 to R381): bases; the device ns + 1 of the last accepted PPS_IN edge, the seconds a time-of-day
message has named for the next; captures; running pulses (slot, output, polarity); further runs left by slot. -/
structure TimeSt where
  base : SMap BaseSt := []
  ppsLast : Nat := 0
  tod : Option Nat := none
  cap : SMap CapSt := []
  pulses : List (Nat × Nat × Bool) := []
  left : SMap Nat := []
  deriving DecidableEq, Repr

/-- A DMA channel's program while it runs (R400 to R410): the index of its outcome record and its TAG, OFS_SRC and OFS_DST,
what is left of each LOOP's counter by instruction, instructions completed, bytes the MOVE under way has moved, whether any
byte has been moved, destinations written since the last FENCE (0 the host, 1 + an island, 1000 DRAM), whether flushing reads
are out and whether they are END's, the request line it waits for, refused TBLW entries with the first one's status, and when an
INJECT was fetched. -/
structure DmaProg where
  idx : Nat
  tag : Nat
  ofsSrc : Int := 0
  ofsDst : Int := 0
  loops : SMap Nat := []
  done : Nat := 0
  moved : Nat := 0
  any : Bool := false
  touched : List Nat := []
  fence : Bool := false
  ending : Bool := false
  line : Option Nat := none
  refused : Nat := 0
  firstSt : Nat := 0
  tsIn : Option Nat := none
  deriving DecidableEq, Repr

/-- DMA channels: running programs, and starts so far, by channel (R400, R410). -/
structure DmaSt where
  prog : SMap DmaProg := []
  starts : SMap Nat := []
  deriving DecidableEq, Repr

/-- The protection pair (R411 to R429) beside its registers: whether the device drives ACTIVE_TOKEN_N; whether it is paired with
its gate closed; STATE and DETAIL before a claim; whether FAST was read in the claim window; a commanded release that waits
for its digest; queued frames of a released device still to flush; the first cycle sent after a takeover and the last one that
carries PROT_SWITCHED; whether outputs are held (R427); the cycle at which the line last went high; the times of the last
edges of PEER_HB_IN in device ns; TOKEN_STUCK; lane states with their counts (R418), whether counts are aligned; own nonce,
the peer's; whether the pair is formed and the plans match; by TYPE the last ALIVE received + 1 and sent; the digest under
way, and whether a part of it was lost; cycle + 1 of the last digest applied; digests until a full refresh; LAG; marks by key;
key copies still missing; TRUNK_OFS samples by tree; trees heard, the peer's, the channels reset and not yet told; what the
last digests carried: state by TID, marks with key generation and state by key, TLR flags; allocations deferred. -/
structure PrtSt where
  driving : Bool := false
  standby : Bool := false
  prev : Nat × Nat := (0, 0)
  fastSeen : Bool := false
  release : Bool := false
  flush : Bool := false
  sendFrom : Nat := 0
  switchedTo : Nat := 0
  held : Bool := false
  highAt : Nat := 0
  hb : List Nat := []
  stuck : Bool := false
  lanes : SMap (Nat × Nat) := []
  aligned : Bool := false
  nonce : List Byte := []
  peerNonce : List Byte := []
  formed : Bool := false
  planOk : Bool := false
  aliveRx : SMap Nat := []
  aliveTx : SMap Nat := []
  part : Option Digest := none
  partLost : Bool := false
  lastDigest : Nat := 0
  refresh : Nat := 0
  lag : Bool := false
  marks : SMap Nat := []
  keyNeed : List Nat := []
  trunk : SMap (List Int) := []
  heard : Nat := 0
  peerHeard : Nat := 0
  resets : List Nat := []
  sentTerm : SMap (List Nat) := []
  sentMark : SMap (Nat × Nat × Nat) := []
  sentFlags : SMap Nat := []
  allocWait : List Nat := []
  deriving DecidableEq, Repr

/-- The power manager (R443 to R453) beside its registers: the point the core die's pipelines run at; requests that wait for the
end of a change, by die; the stage in force by sensor, and the sensors whose warning stands; the sum of the rails' power over the
polls since the last evaluation, in 10^-5 W, and the polls; evaluations in a row below the cap less the hysteresis; channels the cap
put in Eclipse; whether CAP_UNMET stands; whether a thermal shutdown holds. -/
structure PwrSt where
  point : Nat := 0
  next : SMap Word := []
  stage : SMap Nat := []
  warn : List Nat := []
  energy : Nat := 0
  polls : Nat := 0
  below : Nat := 0
  ecl : List Nat := []
  unmet : Bool := false
  shutdown : Bool := false
  deriving DecidableEq, Repr

/-- The whole state of the device. -/
structure State where
  pending : List Instr := []
  freeCtr : Nat := 0
  regs : SMap Word := []
  tabs : SMap Word := []
  hostMem : SMap Byte := []
  flash : SMap Byte := []
  dram : SMap Byte := []
  sent : List Sent := []
  ntfLost : List Nat := []
  acc : AccessSt := {}
  unit : UnitSt := {}
  dies : DieSt := {}
  own : OwnSt := {}
  boot : BootSt := {}
  img : ImageSt := {}
  sec : SecSt := {}
  grm : GrmSt := {}
  stat : StatSt := {}
  buf : BufSt := {}
  sched : SchedSt := {}
  tcm : TcmSt := {}
  keys : KeySt := {}
  line : LineSt := {}
  grant : GrantSt := {}
  reg : RegSt := {}
  rogue : SMap RogueSt := []
  /-- Transits by TID -/
  transits : SMap TransitRec := []
  flow : FlowSt := {}
  fwd : FwdSt := {}
  obs : ObsSt := {}
  upl : UplSt := {}
  tim : TimeSt := {}
  dma : DmaSt := {}
  prt : PrtSt := {}
  pwr : PwrSt := {}
  deriving DecidableEq, Repr

/-- Where a step stops with a fault. No command of the spec faults: the type is kept closed and empty of causes but one
that no meaning raises. -/
inductive Fault
  /-- Raised by no meaning: the block has no access that the spec leaves without an effect. Safe. -/
  | none
  deriving DecidableEq, Repr

/-- Where a step stops with a refusal. -/
inductive Refusal
  /-- Raised by exec for a command that has no meaning yet, by its mnemonic. Safe: nothing is proved of it. -/
  | notModelled (mnemonic : String)
  deriving DecidableEq, Repr

/-- The key vault as a part is delivered (R1, R60, R285): Lithen's key hashes, owner key hashes that name Lithen's provisioning key,
and on a CS6400-P the pairing identity and key of the factory (assumption log 106). -/
def VaultSt.shipped (fuseP : Bool) : VaultSt :=
  { lithenEc := [Config.lithenEc], lithenMl := [Config.lithenMl], ownerEc := [Config.provisionEc]
    ownerMl := [Config.provisionMl]
    pair := if fuseP then some { key := Config.pairKey, pairId := Config.pairId, role := Config.pairRole % 2, factory := true
                                 partner := Config.pairPartner } else none }

/-- A delivered part, by its fuses, as its first COLD reset begins P0: every register at its reset value, nothing listed in any
memory, every supply valid, POR_N high, PERST_N low and the host-port island in reset (R71, R74 to R76, R81). -/
def State.shipped (fuse6432 fuseP : Bool) : State :=
  { regs := [(Adr.glbIslandStat 340, 0x20000000#32)]
    sec := { vault := VaultSt.shipped fuseP }
    boot := { fuse6432 := fuse6432, fuseP := fuseP, resetRun := 2 } }

/-- The state after reset: a CS6400 as delivered. -/
def State.reset : State := State.shipped false false

end Sys2Proof.Machine
end

