-- ==== Sys2Proof/Machine/Regs.lean ====
section
/-! DEFINITION. The named operations over the state: reading and writing register words and wide registers, unit state
registers and their epochs (R24 to R26), events, interrupts and IRQ_N (R36, R38, R388 to R390), write status (R27),
ownership of registers (R43, R44, R474) and outcome records (R393, R398). -/
namespace Sys2Proof.Machine

/-! ## The register map -/

/-- Splits an offset into register indices by strides and counts. -/
def splitIdx : List (Nat × Nat) → Nat → List Nat → Option (List Nat × Nat)
  | [], off, acc => some (acc.reverse, off)
  | (st, n) :: ds, off, acc => if off / st < n then splitIdx ds (off % st) (off / st :: acc) else none

/-- A register instance: its row of the map, its indices and the byte offset within it. -/
structure RegRef where
  desc : RegDesc
  idx : List Nat
  off : Nat
  deriving DecidableEq, Repr

/-- The register of a list of rows that an address lies in. -/
def regFindIn (a : Nat) : List RegDesc → Option RegRef
  | [] => none
  | d :: ds =>
    if d.base ≤ a then
      match splitIdx d.dims (a - d.base) [] with
      | some (idx, off) => if off < d.bits / 8 then some ⟨d, idx, off⟩ else regFindIn a ds
      | none => regFindIn a ds
    else regFindIn a ds

/-- The register at a control-window address, if any (R383). -/
def regFind (a : Nat) : Option RegRef := regFindIn a (regsAt a)

/-- The reset value of a whole register. -/
def RegDesc.resetValue (d : RegDesc) : Nat := d.fields.foldl (fun acc f => acc + f.reset * 2 ^ f.lo) 0

/-- What a register word reads as when nothing has been written to it: its reset value; words outside the registers
(ring memory, windows) read 0 (assumption log 4). -/
def resetWord (a : Nat) : Word :=
  match regFind a with
  | some r => BitVec.ofNat 32 (r.desc.resetValue / 2 ^ (32 * (r.off / 4)))
  | none => 0

/-- Reads a register word. -/
def rd (s : State) (a : Nat) : Word := mget (resetWord a) s.regs a
/-- Writes a register word. -/
def wr (s : State) (a : Nat) (w : Word) : State := { s with regs := mset (resetWord a) s.regs a w }
/-- Reads a field of a register word. -/
def rf (s : State) (a hi lo : Nat) : Nat := fld (rd s a) hi lo
/-- Writes a field of a register word. -/
def wf (s : State) (a hi lo v : Nat) : State := wr s a (putFld (rd s a) hi lo v)
/-- Reads one bit of a register word. -/
def rb (s : State) (a i : Nat) : Bool := (rd s a).toNat.testBit i
/-- Writes one bit of a register word. -/
def wb (s : State) (a i : Nat) (b : Bool) : State := wf s a i i (b2n b)

/-- Reads n register words as one number, low word first. -/
def rdW (s : State) (a : Nat) : Nat → Nat
  | 0 => 0
  | n + 1 => (rd s a).toNat + 2 ^ 32 * rdW s (a + 4) n
/-- Writes n register words from one number, low word first. -/
def wrW (s : State) (a v : Nat) : Nat → State
  | 0 => s
  | n + 1 => wrW (wr s a (BitVec.ofNat 32 v)) (a + 4) (v / 2 ^ 32) n
/-- Reads a field of a wide register of n words. -/
def rfW (s : State) (a n hi lo : Nat) : Nat := nfld (rdW s a n) hi lo
/-- Writes a field of a wide register of n words. -/
def wfW (s : State) (a n hi lo v : Nat) : State := wrW s a (putNfld (rdW s a n) hi lo v) n
/-- Adds to a 64-bit counter that wraps at 2^64. -/
def cnt64 (s : State) (a k : Nat) : State := wrW s a ((rdW s a 2 + k) % 2 ^ 64) 2
/-- Adds to a 32-bit counter that wraps at 2^32. -/
def cnt32 (s : State) (a k : Nat) : State := wr s a (rd s a + BitVec.ofNat 32 k)
/-- Adds to a field that saturates at all ones. -/
def satF (s : State) (a hi lo k : Nat) : State := wf s a hi lo (satAdd (2 ^ (hi + 1 - lo) - 1) (rf s a hi lo) k)

/-- Writes consecutive register words. -/
def wrWords (s : State) (a : Nat) : List Word → State
  | [] => s
  | w :: ws => wrWords (wr s a w) (a + 4) ws

/-- The little-endian words of a list of bytes. -/
def wordsOf (bs : List Byte) (n : Nat) : List Word :=
  (List.range n).map fun i => BitVec.ofNat 32 (ofBytesLE ((bs.drop (4 * i)).take 4))

/-- The bytes of n consecutive register words. -/
def regBytes (s : State) (a n : Nat) : List Byte :=
  (List.range n).flatMap fun i => bytesLE 4 (rd s (a + 4 * i)).toNat

/-! ## Fields (R13) -/

/-- The bits of word k of a register that lie in fields of the kinds chosen. -/
def kindMask (d : RegDesc) (k : Nat) (p : FieldKind → Bool) : Word :=
  BitVec.ofNat 32 (d.fields.foldl (fun m f =>
    if p f.kind then m + (2 ^ (f.hi + 1 - f.lo) - 1) * 2 ^ f.lo else m) 0 / 2 ^ (32 * k))
def rwMask (d : RegDesc) (k : Nat) : Word := kindMask d k fun x => x == .rw
def w1cMask (d : RegDesc) (k : Nat) : Word := kindMask d k fun x => x == .w1c
def woMask (d : RegDesc) (k : Nat) : Word := kindMask d k fun x => x == .wo
/-- Bits that a write can act on. -/
def actMask (d : RegDesc) (k : Nat) : Word := kindMask d k fun x => x != .ro
/-- Whether word k has read-only fields and no other. -/
def wordRo (d : RegDesc) (k : Nat) : Bool := actMask d k == 0 && kindMask d k (fun x => x == .ro) != 0
/-- What a word becomes: RW bits take the value written, W1C bits clear where 1 is written, other bits stay (R13). -/
def mergeWord (d : RegDesc) (k : Nat) (old w : Word) : Word :=
  (old &&& ~~~(rwMask d k) &&& ~~~(w &&& w1cMask d k)) ||| (w &&& rwMask d k)

/-! ## Table entries, by table-window address code * 2^30 + index * stride (R385, R386) -/

/-- A table entry's first address. -/
def entAddr (code stride idx : Nat) : Nat := code * 2 ^ 30 + idx * stride
/-- Reads n words of the table window. -/
def rdT (s : State) (a : Nat) : Nat → Nat
  | 0 => 0
  | n + 1 => (mget 0 s.tabs a).toNat + 2 ^ 32 * rdT s (a + 4) n
/-- Writes n words of the table window. -/
def wrT (s : State) (a v : Nat) : Nat → State
  | 0 => s
  | n + 1 => wrT { s with tabs := mset 0 s.tabs a (BitVec.ofNat 32 v) } (a + 4) (v / 2 ^ 32) n

/-! ## Identifiers and islands -/

/-- Whether a tree is on the part: trees 32 to 63 of a CS6432 are fused (R2, R7). -/
def treeValid (s : State) (t : Nat) : Bool := decide (t < (if s.boot.fuse6432 then 32 else 64))
/-- Whether a channel is on the part. -/
def chanValid (s : State) (c : Nat) : Bool := treeValid s (c / 4)
/-- Whether an uplink lane is on the part. -/
def laneValid (s : State) (u : Nat) : Bool := decide (u < (if s.boot.fuse6432 then 128 else 256))

/-- The island that holds a control-window address (R474). -/
def islandOf (a : Nat) : Nat :=
  if a < 0x10000 then 340
  else if a < 0x20000 then 336
  else if a < 0x30000 then 337
  else if a < 0x40000 then 338
  else if a < 0x50000 then 339
  else if a < 0x60000 then 340
  else if a < 0x70000 then 336
  else if a < 0x80000 then 341
  else if a < 0x90000 then (if 0x81000 ≤ a ∧ a < 0x81800 then 288 + (a - 0x81000) / 0x80 else 288)
  else if a < 0x200000 then 288
  else if a < 0x300000 then 328 + (a - 0x200000) / 0x100 % 4
  else if a < 0x800000 then 304
  else if a < 0x900000 then 256 + (a - 0x800000) / 0x8000
  else if a < 0xF00000 then 336
  else if a < 0x1000000 then 340
  else if a < 0x2000000 then 336
  else (a - 0x2000000) / 0x40000

/-- Codes of GLB_ISLAND_STAT.STATE (R38). -/
def islRun : Nat := 0
def islGated : Nat := 1
def islReset : Nat := 2
def islLost : Nat := 3
def islFused : Nat := 4

/-- STATE of an island (R38). -/
def islState (s : State) (i : Nat) : Nat := rf s (Adr.glbIslandStat i) 31 28
/-- Sets STATE of an island. -/
def setIsl (s : State) (i st : Nat) : State := wf s (Adr.glbIslandStat i) 31 28 st
/-- Whether an island is LOST or in RESET, so that writes to it are discarded (R477). -/
def islDown (s : State) (i : Nat) : Bool := islState s i == islLost || islState s i == islReset

/-! ## Interrupts (R388 to R390) -/

/-- Puts something the device sends on the record of what left it. -/
def emit (s : State) (o : Sent) : State := { s with sent := s.sent ++ [o] }
/-- Whether the device is still in P0 to P6, or in a reset, when its pin outputs are held (R468). -/
def outsHeld (s : State) : Bool := decide (rf s Adr.glbBootStat 31 28 < 7)
/-- Puts a pulse or message of a pin output on the record, unless the outputs are held (R468). -/
def emitPin (s : State) (o : Sent) : State := if outsHeld s then s else emit s o

/-- The four words of a vector of a function: the physical function's table is registers, a virtual function's is its
own table (R384). -/
def msixWord (s : State) (fn vec k : Nat) : Word :=
  if fn = 0 then rd s (Adr.msixTable vec + 4 * k)
  else mget (if k = 3 then 1 else 0) s.acc.vfMsix (((fn - 1) * 64 + vec) * 4 + k)

/-- Whether a vector of a function exists: 2,048 of the physical function, 64 of each virtual function (R388). -/
def vecOk (fn vec : Nat) : Bool := if fn = 0 then decide (vec < 2048) else decide (fn ≤ 64 ∧ vec < 64)

/-- Sends one MSI-X message, or sets the pending bit of a masked vector (R389). -/
def sendMsix (s : State) (fn vec : Nat) : State :=
  if vecOk fn vec then
    if (msixWord s fn vec 3).toNat.testBit 0 then
      if fn = 0 then wb s (Adr.msixPba (vec / 32)) (vec % 32) true
      else { s with acc := { s.acc with vfPba := addNew s.acc.vfPba ((fn - 1) * 64 + vec) } }
    else emit s (.msix fn vec ((msixWord s fn vec 0).toNat + 2 ^ 32 * (msixWord s fn vec 1).toNat)
      (msixWord s fn vec 2).toNat)
  else s

/-- A source that becomes pending sends one message on its mapped vector, when its map entry is enabled (R388). -/
def fireSource (s : State) (src : Nat) : State :=
  if rb s (Adr.mbxMsixMap src) 31 then
    sendMsix s (rf s (Adr.mbxMsixMap src) 29 23) (rf s (Adr.mbxMsixMap src) 10 0)
  else s

/-- Whether an island has a PEND bit set (R38). -/
def islPend (s : State) (i : Nat) : Bool := rb s (Adr.glbEventPend (i / 32)) (i % 32)

/-- A ring source (342 to 437) becomes pending; while it stays pending it sends nothing more (R389). -/
def ringSource (s : State) (src : Nat) : State :=
  if src ∈ s.acc.srcPend then s
  else fireSource { s with acc := { s.acc with srcPend := s.acc.srcPend ++ [src] } } src

/-- The host's write of a ring's index register ends its source (R389). -/
def endSource (s : State) (src : Nat) : State :=
  { s with acc := { s.acc with srcPend := s.acc.srcPend.filter (· ≠ src) } }

/-- IRQ_N is asserted while an island source with PIN = 1 is pending, a FATAL event has occurred since the last COLD or
WARM reset, or a start-up failure is reported before PHASE reaches RUN (R390). -/
def irqAsserted (s : State) : Bool :=
  (List.range 342).any (fun i => islPend s i && rb s (Adr.mbxMsixMap i) 30)
    || s.boot.fatal
    || (rb s Adr.glbBootStat 27 && decide (rf s Adr.glbBootStat 31 28 ≠ 7))

/-! ## Unit state registers (R24 to R26) -/

def uState (s : State) (a : Nat) : Nat := rf s a 7 0
def uDetail (s : State) (a : Nat) : Nat := rf s a 15 8
def uEpoch (s : State) (a : Nat) : Nat := rf s a 31 24

/-- The state a unit already acts on: its pending change, else STATE (R26). -/
def effState (s : State) (a : Nat) : Nat :=
  match s.unit.pend.find? (·.1 = a) with
  | some (_, st, _) => st
  | none => uState s a

/-- DETAIL of the state a unit already acts on. -/
def effDetail (s : State) (a : Nat) : Nat :=
  match s.unit.pend.find? (·.1 = a) with
  | some (_, _, det) => det
  | none => uDetail s a

/-- Puts STATE and DETAIL, and advances EPOCH by one modulo 256 when told to. -/
def putUnit (s : State) (a st det : Nat) (bump : Bool) : State :=
  let w := rd s a
  let e := (fld w 31 24 + b2n bump) % 256
  wr s a (putFld (putFld (putFld (putFld w 31 24 e) 23 16 0) 15 8 det) 7 0 st)

/-- An accepted management write: STATE takes the value, EPOCH advances by one, a pending change is discarded. -/
def unitAccept (s : State) (a st det : Nat) : State :=
  let s := putUnit s a st det true
  { s with unit := { s.unit with pend := mdel s.unit.pend a } }

/-- A data-path change of a unit: at once when STATE has not changed in this cycle, else pending until the next cycle start (R26).
EPOCH advances when STATE changes; a new DETAIL of an unchanged STATE is shown at once unless a change is pending. -/
def dpChange (s : State) (a st det : Nat) : State :=
  if a ∈ s.unit.changed ∧ (st ≠ uState s a ∨ (s.unit.pend.any fun p => p.1 == a) = true) then
    { s with unit := { s.unit with pend := mput s.unit.pend a (st, det) } }
  else
    let moved := decide (uState s a ≠ st)
    let s := putUnit s a st det moved
    if moved then { s with unit := { s.unit with changed := s.unit.changed ++ [a] } } else s

/-- At a cycle start every pending change takes its STATE, as the one data-path change of the new cycle (R26). -/
def commitPending (s : State) : State :=
  let ps := s.unit.pend
  let s := { s with unit := { changed := ps.map (·.1), pend := [] } }
  ps.foldl (fun s p => putUnit s p.1 p.2.1 p.2.2 (uState s p.1 ≠ p.2.1)) s

/-! ## Free values -/

/-- Takes a free value: what the spec leaves undefined (assumption log 2). -/
def freeVal (s : State) : Nat := Config.freeNat s.freeCtr
/-- Moves on to the next free value. -/
def nextFree (s : State) : State := { s with freeCtr := s.freeCtr + 1 }

end Sys2Proof.Machine
end

