-- ==== Sys2Proof/Machine/Links.lean ====
section
/-! DEFINITION. Injectors and what they do to a unit that passes (R439 to R441), and sending on the protection link (R419). -/
namespace Sys2Proof.Machine

/-! ## Fault injectors (R439 to R441). An injector is named by the address of its FI_CFG. -/

def fiPat (cfg : Nat) : Nat := cfg + 0x10
def fiStat (cfg : Nat) : Nat := cfg + 0x18
/-- An injector's state. -/
def fiOf (s : State) (cfg : Nat) : FiSt := mget {} s.obs.fi cfg
def setFi (s : State) (cfg : Nat) (x : FiSt) : State := { s with obs := { s.obs with fi := mset {} s.obs.fi cfg x } }
/-- Whether an injector is active. -/
def fiArmed (s : State) (cfg : Nat) : Bool := rb s (fiStat cfg) 0
/-- Disarms an injector; what it holds stays with it until it is released. -/
def fiDisarm (s : State) (cfg : Nat) : State := if fiArmed s cfg then wb s (fiStat cfg) 0 false else s
/-- An injector of a unit that has stopped disarms, and what it held is lost with the unit (R441). -/
def fiOff (s : State) (cfg : Nat) : State :=
  let s := fiDisarm s cfg
  { s with obs := { s.obs with fi := mdel s.obs.fi cfg } }
/-- In approved mode injector writes are refused with NOT_AUTHORIZED (R292, R441). -/
def fiLocked (s : State) : Bool := rb s Adr.secApproved 31

/-- The bytes of a unit that CORRUPT acts on; a protection-link message, kept by its fields, and a burst count as many zeros. -/
def FiUnit.bytes : FiUnit → List Byte
  | .out (.dsFrame _ h p) => h ++ p
  | .out (.uplFrame _ _ _ d) => d
  | .out (.plk m) => List.replicate (20 + m.len) 0
  | .out _ => []
  | .uplRx _ _ d => d
  | .plkRx m _ => List.replicate (20 + m.len) 0
  | .flit _ _ _ _ d _ => d
  | .item _ _ cl check => bytesBE 31 cl.upper ++ bytesLE 1 check
  | .burst n => List.replicate n 0

/-- The Clause that bits 255:8 spell (R28). -/
def Clause.ofUpper (u : Nat) : Clause :=
  { kind := nfld u 247 244, part := nfld u 243 238, tid := nfld u 237 223, chan := nfld u 222 215, sid := nfld u 214 195,
    queue := nfld u 194 175, bd := nfld u 174 159, tc := nfld u 158 156, dp := nfld u 155 154, len := nfld u 153 140,
    buf := nfld u 139 108, tsIn := nfld u 107 68, egr := nfld u 67 52, noun := nfld u 51 20, trace := nfld u 19 12,
    flags := nfld u 11 0 }

/-- The unit with other bytes of the same count; a check that covered them fails when they differ. -/
def FiUnit.withBytes (x : FiUnit) (b : List Byte) : FiUnit :=
  match x with
  | .out (.dsFrame c h _) => .out (.dsFrame c (b.take h.length) (b.drop h.length))
  | .out (.uplFrame p q l _) => .out (.uplFrame p q l b)
  | .out (.plk m) => .out (.plk { m with crcOk := m.crcOk && b == List.replicate (20 + m.len) 0 })
  | .out o => .out o
  | .uplRx u o _ => .uplRx u o b
  | .plkRx m k => .plkRx { m with crcOk := m.crcOk && b == List.replicate (20 + m.len) 0 } k
  | .flit p d cls lp x ok => .flit p d cls lp b (ok && b == x)
  | .burst n => .burst n
  | .item src dst _ _ => .item src dst (Clause.ofUpper (ofBytesBE (b.take 31))) (ofBytesLE (b.drop 31))

/-- Eight bytes from an offset on, exclusive-ored with a pattern; bytes past the end are not touched. -/
def fiXor (b : List Byte) (ofs : Nat) (pat : List Byte) : List Byte :=
  b.take ofs ++ List.zipWith (fun x p => x ^^^ p) ((b.drop ofs).take 8) pat ++ b.drop (ofs + 8)

/-- Takes one further unit off what each held unit waits for. -/
def fiStep (l : List (FiUnit × Nat)) : List (FiUnit × Nat) := l.map fun p => (p.1, p.2 - 1)

/-- Whether the selection takes a matching unit, and the injector after it (R440). -/
def fiSelect (s : State) (cfg : Nat) : Bool × State :=
  let v := rdW s cfg 4
  let st := fiOf s cfg
  if nbit v 123 then (decide (freeVal s % 2 ^ 24 < nfld v 95 72), nextFree s)
  else if 0 < st.skip then (false, setFi s cfg { st with skip := st.skip - 1 })
  else match st.left with
    | none => (true, s)
    | some n =>
      let s := setFi s cfg { st with left := some (n - 1) }
      (true, if n ≤ 1 then fiDisarm s cfg else s)

/-- The units of held ones that are due, and the injector without them. -/
def fiDue (s : State) (cfg : Nat) : List FiUnit × State :=
  let st := fiOf s cfg
  ((st.held.filter fun p => p.2 == 0).map (·.1), setFi s cfg { st with held := st.held.filter fun p => p.2 != 0 })

/-- An injector's treatment of a matching unit: the units that go on, in order (R440). -/
def fiAct (s : State) (cfg : Nat) (u : FiUnit) : List FiUnit × State :=
  let v := rdW s cfg 4
  let st := fiOf s cfg
  let busySwap := nfld v 126 124 == 3 && !st.held.isEmpty
  let s := setFi s cfg { st with held := fiStep st.held }
  let (hit, s) := if fiArmed s cfg && !busySwap then fiSelect s cfg else (false, s)
  let (now, s) : List FiUnit × State :=
    if !hit then ([u], s)
    else
      let t := satF s (fiStat cfg + 4) 31 0 1
      let hold (n : Nat) : List FiUnit × State := ([], setFi t cfg { fiOf t cfg with held := (fiOf t cfg).held ++ [(u, n)] })
      match nfld v 126 124 with
      | 1 => ([], t)
      | 2 =>
        let ofs := nfld v 63 48
        if u.bytes.length ≤ ofs then ([u], satF s (fiStat cfg) 31 16 1)
        else ([u.withBytes (fiXor u.bytes ofs (bytesLE 8 (rdW s (fiPat cfg) 2)))], t)
      | 3 => hold 1
      | 4 => hold (max 1 (nfld v 71 64))
      | _ => ([u], s)
  let (due, s) := fiDue s cfg
  (now ++ due, s)

/-- A unit passes an injector's point: the units that go on (R440). MATCH narrows PON units by TID. -/
def fiPass (s : State) (cfg : Nat) (tid : Option Nat) (u : FiUnit) : List FiUnit × State :=
  if !fiArmed s cfg && (fiOf s cfg).held.isEmpty then ([u], s)
  else
    let m := rfW s cfg 4 47 32
    if m = 0xFFFF ∨ tid = none ∨ tid = some m then fiAct s cfg u else ([u], s)

/-- Sends what may leave the device past an injector. -/
def emitFi (s : State) (cfg : Nat) (tid : Option Nat) (o : Sent) : State :=
  let (us, s) := fiPass s cfg tid (.out o)
  us.foldl (fun s u => match u with | .out o => emit s o | _ => s) s

/-! ## The protection link, sending (R418, R419) -/

/-- Whether the link is up: four lanes in SYNC with aligned block counts. -/
def prtLinkUp (s : State) : Bool := rfW s Adr.prtLinkStat 2 63 60 == 2 && s.prt.aligned
/-- Sends a message, past the transmit injector: ALIVE counts per TYPE; LEN, since no rule lays the bodies out, is free. -/
def plkSend (s : State) (b : PlkBody) : State :=
  if !prtLinkUp s then s
  else
    let a := (mget 0 s.prt.aliveTx b.typ + 1) % 65536
    let m : PlkMsg := { alive := a, cycle := rdW s (Adr.chnCycle 0) 2 % 2 ^ 48, len := freeVal s % 16385, body := b }
    let s := nextFree { s with prt := { s.prt with aliveTx := mset 0 s.prt.aliveTx b.typ a } }
    emitFi s (Adr.fiCfgObs 16) none (.plk m)
/-- Sends STATE: the trees heard, and the channels reset since the last one (R419, R424, R425). -/
def plkState (s : State) : State :=
  if prtLinkUp s then
    let s := plkSend s (.state (effState s Adr.prtState) s.prt.heard s.prt.resets)
    { s with prt := { s.prt with resets := [] } }
  else s
/-- Whether the outputs of R427 follow the device: a solo device's do, and an active one's past the first cycle it sends. -/
def prtOutOk (s : State) : Bool := effState s Adr.prtState == 0 || (effState s Adr.prtState == 4 && !s.prt.held)
/-- A data-path change of PRT_STATE; a change of STATE is told at once (R419). -/
def prtSet (s : State) (st det : Nat) : State :=
  if effState s Adr.prtState = st then wf s Adr.prtState 15 8 det
  else plkState (dpChange s Adr.prtState st det)

end Sys2Proof.Machine
end

