-- ==== Sys2Proof/Machine/Ops.lean ====
section
/-! DEFINITION. The named operations over registers that every block uses: events, interrupts and their severities (R36,
R38), performance counters (R432), write status (R27), ownership (R42 to R44), outcome records (R393). -/
namespace Sys2Proof.Machine

/-! ## Events (R36, R38) -/

/-- Sets the PEND bit of an island; a bit newly set makes its source pending. -/
def setPend (s : State) (i : Nat) : State :=
  if islPend s i then s
  else fireSource (wb s (Adr.glbEventPend (i / 32)) (i % 32) true) i

/-- Reports an event of an island: LASTCODE, MAXSEV, EVCOUNT and the PEND bit (R38). -/
def report (s : State) (i : Nat) (sev : Severity) (code : Nat) : State :=
  let a := Adr.glbIslandStat i
  let w := rd s a
  let w := putFld w 25 24 (max (fld w 25 24) sev.code)
  let w := putFld w 23 16 (satAdd 255 (fld w 23 16) 1)
  setPend (wr s a (putFld w 15 0 code)) i

/-- The gate of a paired device closes (R415): every channel that is not OFF, RESET, FAULT or ECLIPSE reads STANDBY. -/
def prtClose (s : State) : State :=
  let s := { s with prt := { s.prt with standby := true } }
  (List.range 256).foldl (fun s c =>
    let st := effState s (Adr.chnState c)
    if st = 2 ∨ st = 3 ∨ st = 4 ∨ st = 6 then dpChange s (Adr.chnState c) 8 0 else s) s

/-- The token pin is released, the gate closes and a device that was ACTIVE or CLAIMING enters RELEASED with the cause (R416);
its outputs are held (R427). -/
def prtRelease (s : State) (cause : Nat) : State :=
  let st := effState s Adr.prtState
  if st = 4 ∨ st = 3 then
    let s := prtClose (prtSet s 5 cause)
    let s := { s with prt := { s.prt with driving := false, release := false, flush := true, held := true } }
    report (wb s Adr.prtEvent 1 true) 341 .corrected 0x0F01
  else s

/-- The data plane's part of a command: nothing once a FATAL event has stopped it, until the next COLD or WARM reset (R36). -/
def dataUp (s : State) (f : State → State) : State := if s.boot.dataStopped then s else f s

/-- The FATAL actions of R36: every PON transmit lane is gated, the uplink lanes send idle, the data plane stops, IRQ_N
is asserted until the next COLD or WARM reset, and an active device of a pair releases the token. -/
def fatalActions (s : State) : State :=
  let s := { s with boot := { s.boot with fatal := true, dataStopped := true } }
  prtRelease s 2

/-- Raises an event of an island (R38), with the FATAL actions (R36); a DEGRADED one releases the token where SW_DEGRADED = 1
(R416). -/
def raise0 (s : State) (i : Nat) (sev : Severity) (code : Nat) : State :=
  let s := report s i sev code
  match sev with
  | .fatal => fatalActions s
  | .degraded => if rb s Adr.prtCfg 27 then prtRelease s 4 else s
  | _ => s

/-! ## Performance counters (R432, R433) -/

/-- An event that performance counters may count: its code, how many, the unit, the traffic class, the requester, and the
device addresses it touches. -/
structure PcEv where
  code : Nat
  n : Nat := 1
  unit : Option Nat := none
  tc : Option Nat := none
  who : Option Requester := none
  addrs : List Nat := []
  deriving DecidableEq, Repr

/-- The counters whose selection enables them: those whose OBS_PC_SEL has been written with EN = 1. -/
def pcEnabled (s : State) : List Nat :=
  s.regs.filterMap fun p =>
    if Adr.obsPcSel 0 ≤ p.1 ∧ p.1 < Adr.obsPcSel 256 ∧ (p.1 - Adr.obsPcSel 0) % 0x20 = 4 ∧ p.2.toNat.testBit 31
    then some ((p.1 - Adr.obsPcSel 0) / 0x20) else none

/-- PRIV of a requester: firmware bit 0, the physical function bit 1, virtual functions bit 2; a DMA channel has that of
its function. -/
def privOf (s : State) (who : Requester) : Nat :=
  match who with
  | .core _ => 0
  | .pf => 1
  | .vf _ => 2
  | .dma d => if rf s (Adr.dmaChCfg d) 30 24 = 0 then 1 else 2

/-- Whether a requester is the master that MKIND and MINDEX name. -/
def masterIs (mkind mindex : Nat) (who : Requester) : Bool :=
  match mkind, who with
  | 0, _ => true
  | 1, .dma d => d == mindex
  | 2, .pf => mindex == 0
  | 2, .vf p => mindex == p + 1
  | 3, .core i => i == mindex
  | _, _ => false

/-- Whether counter n counts an event. -/
def pcMatches (s : State) (n : Nat) (e : PcEv) : Bool :=
  let v := rdW s (Adr.obsPcSel n) 2
  let g := rdW s (Adr.obsPcRgn n) 4
  nfld v 61 56 == e.code
    && (nfld v 55 48 == 0xFF || e.unit.elim true fun u => nfld v 55 48 == u)
    && (e.who.elim true fun w => nbit (nfld v 47 45) (privOf s w) && masterIs (nfld v 44 43) (nfld v 42 36) w)
    && (e.tc.elim true fun t => nbit (nfld v 35 28) t)
    && (!nbit v 27 || e.addrs.any fun a => decide (nfld g 127 80 ≤ a ∧ a < nfld g 79 32))

/-- Adds to a performance counter: past 2^48 - 1 it wraps and sets OVF (R433). Tells whether it passed. -/
def pcAdd (s : State) (n k : Nat) : State × Bool :=
  let v := rdW s (Adr.obsPcVal n) 2
  let x := nfld v 47 0 + k
  let ov := decide (2 ^ 48 ≤ x)
  (wrW s (Adr.obsPcVal n) (x % 2 ^ 48 + (if ov || nbit v 63 then 2 ^ 63 else 0)) 2, ov)

/-- Counts an event in the counters that select it; those that overflow with OVF_IRQ are given. -/
def pcCount (s : State) (e : PcEv) : State × Nat :=
  if rb s Adr.obsSnapCtl 30 then (s, 0)
  else ((pcEnabled s).filter fun n => pcMatches s n e).foldl (fun (s, o) n =>
    let (s, ov) := pcAdd s n e.n
    (s, if ov && rb s (Adr.obsPcSel n + 4) 30 then o + 1 else o)) (s, 0)

/-- PC_OVF: the event, which itself counts as an island event. -/
def pcOvf (s : State) : State :=
  (pcCount (raise0 (wb s Adr.obsEvent 0 true) 336 .corrected 0x1000) { code := 0x14 }).1

/-- Counts an event, and raises PC_OVF for an overflow that asks for it (R432, R433). -/
def pc (s : State) (e : PcEv) : State :=
  let (s, o) := pcCount s e
  if o = 0 then s else pcOvf s

/-- Raises an event of an island (R38), which counts as ISLAND_EVENTS (R432). -/
def raise (s : State) (i : Nat) (sev : Severity) (code : Nat) : State := pc (raise0 s i sev code) { code := 0x14 }

/-- Sets a bit of an event register and raises its event. -/
def evBit (s : State) (a bit i : Nat) (sev : Severity) (code : Nat) : State :=
  raise (wb s a bit true) i sev code

/-! ## Write status (R27) -/

/-- The device address of a control-window offset (R385). -/
def ctlwDev (off : Nat) : Nat := 0x080000000000 + off

/-- Records a write of a requester at an offset: a refusal enters the record of refusal and counts. -/
def noteWriteAt (s : State) (who : Requester) (off : Nat) (st : WrStatus) (epoch state : Nat) : State :=
  let k := who.code
  let r : WrRec := ⟨st.code, epoch, state, off % 2 ^ 27⟩
  if st = .ok then { s with acc := { s.acc with wrLast := mset {} s.acc.wrLast k r } }
  else
    let s := { s with acc := { s.acc with
      wrLast := mset {} s.acc.wrLast k r
      wrBad := mset {} s.acc.wrBad k r
      wrCount := mset 0 s.acc.wrCount k (satAdd 255 (mget 0 s.acc.wrCount k) 1) } }
    if st = .stale ∨ st = .notOwner ∨ st = .outOfRange then
      pc s { code := 4, who := some who, addrs := [ctlwDev off] }
    else s

/-- The offset of the write that commits a register: its top word, where that word commits it, else the register's own. -/
def commitOff (a : Nat) : Nat :=
  match regFind a with
  | some r => if r.desc.commitTop && r.off == 0 then a + r.desc.bits / 8 - 4 else a
  | none => a

/-- Records a write that reached a register. -/
def noteWrite (s : State) (who : Requester) (off : Nat) (st : WrStatus) (epoch state : Nat) : State :=
  noteWriteAt s who (commitOff off) st epoch state

/-- A write that took effect. -/
def wrOk (s : State) (who : Requester) (off : Nat) : State := noteWrite s who off .ok 0 0
/-- A write refused with a status other than STALE. -/
def wrRefuse (s : State) (who : Requester) (off : Nat) (st : WrStatus) : State := noteWrite s who off st 0 0

/-- A write discarded because the island is LOST or in RESET (R477). -/
def wrDown (s : State) (who : Requester) (a : Nat) : State :=
  wrRefuse { s with acc := { s.acc with barLost := mset 0 s.acc.barLost who.code 1 } } who a .islandDown

/-- A write refused with STALE: the current STATE and EPOCH are reported, the event is raised in the island that holds
the register and the refusal counts in GLB_STALE_CNT (R25, R39). -/
def wrStale (s : State) (who : Requester) (a : Nat) : State :=
  let s := noteWrite s who a .stale (uEpoch s a) (uState s a)
  raise (cnt32 s Adr.glbStaleCnt 1) (islandOf a) .corrected 0x0001

/-- A command refused with STALE raises the same event and count (R25, R39). -/
def cmdStale (s : State) (a : Nat) : State := raise (cnt32 s Adr.glbStaleCnt 1) (islandOf a) .corrected 0x0001

/-- The address of a register of a requester's own copy. -/
def reqKey (who : Requester) (a : Nat) : Nat := who.code * 2 ^ 28 + a
/-- Reads a register held per requester. -/
def rdReq (s : State) (who : Requester) (a : Nat) : Word := mget (resetWord a) s.acc.perReq (reqKey who a)
/-- Writes a register held per requester. -/
def wrReq (s : State) (who : Requester) (a : Nat) (w : Word) : State :=
  { s with acc := { s.acc with perReq := mset (resetWord a) s.acc.perReq (reqKey who a) w } }
/-- The value a read returns to its requester. -/
def ret (s : State) (who : Requester) (w : Word) : State :=
  { s with acc := { s.acc with ret := mset 0 s.acc.ret who.code w } }

/-- A read of a register in an island: one that is LOST or in RESET returns a value no rule gives, and has no other effect. -/
def readUp (s : State) (who : Requester) (i : Nat) (f : State → State) : State :=
  if islDown s i then ret (nextFree s) who (BitVec.ofNat 32 (freeVal s)) else f s

/-! ## Requesters, functions and partitions -/

/-- The function behind a requester: 0 the physical function, p + 1 virtual function p; control cores are none (65). -/
def fnOf (s : State) : Requester → Nat
  | .pf => 0
  | .vf p => p + 1
  | .core _ => 65
  | .dma d => rf s (Adr.dmaChCfg d) 30 24

/-- Whether a register writable by the physical function only accepts the requester (R475). -/
def isPfSide (s : State) (who : Requester) : Bool :=
  match who with
  | .core _ => true
  | _ => fnOf s who == 0

/-- Whether the requester is a control core (R475). -/
def isCore : Requester → Bool
  | .core _ => true
  | _ => false

/-! ## Ownership (R42 to R44) -/

/-- Functions of device scope use the entry of tree 0 (R42). -/
def deviceScope (f : Nat) : Bool := f == 4 || f == 6 || f == 7 || f == 8
/-- The tree whose entry governs function f at a register of tree t. -/
def ownTree (f t : Nat) : Nat := if deviceScope f then 0 else t
/-- OWNER of an entry. -/
def owner (s : State) (f t : Nat) : Nat := rf s (Adr.mbxOwner f (ownTree f t)) 0 0
/-- An island's own copy of the owner bit: OWNER, the other way round once the island has flipped (R44). -/
def ownerAt (s : State) (i f t : Nat) : Nat :=
  let o := owner s f t
  if (f * 64 + ownTree f t, i) ∈ s.own.flipped then 1 - o else o
/-- Whether a requester is the owner: firmware at the basic level, the physical function at the expert level; a virtual
function is never an owner (R42). -/
def isOwner (s : State) (who : Requester) (i f t : Nat) : Bool :=
  match who with
  | .core _ => ownerAt s i f t == 0
  | _ => fnOf s who == 0 && ownerAt s i f t == 1
/-- Counts a refusal in REFUSED of the entry (R44). -/
def countRefused (s : State) (f t : Nat) : State := satF s (Adr.mbxOwner f (ownTree f t)) 23 16 1
/-- A write refused with NOT_OWNER. -/
def wrNotOwner (s : State) (who : Requester) (a f t : Nat) : State := countRefused (wrRefuse s who a .notOwner) f t

/-- The tree a control-window address belongs to; 0 outside TRE and CHN. -/
def treeOfAddr (a : Nat) : Nat :=
  if a < 0x1000000 then 0 else if a < 0x2000000 then (a - 0x1000000) / 0x4000 else (a - 0x2000000) / 0x100000

/-! ## Outcome records (R393, R398, R410) -/

/-- An outcome record (R393). -/
structure OutRec where
  tag : Nat := 0
  opcode : Nat := 0
  state : OutState := .accepted
  status : Nat := 0
  progress : Nat := 0
  first : Nat := 0xFFFFFFFF
  gen : Nat := 0
  epoch : Nat := 0
  ustate : Nat := 0
  flags : Nat := 0
  firstStatus : Nat := 0
  detail : Nat := 0
  deriving DecidableEq, Repr

/-- The 28 bytes a record's CRC covers. -/
def OutRec.body (r : OutRec) : List Byte :=
  bytesLE 4 r.tag ++ bytesLE 2 r.opcode ++ bytesLE 1 r.state.code ++ bytesLE 1 r.status ++ bytesLE 4 r.progress
    ++ bytesLE 4 r.first ++ bytesLE 2 r.gen ++ bytesLE 1 r.epoch ++ bytesLE 1 r.ustate ++ bytesLE 1 r.flags
    ++ bytesLE 1 r.firstStatus ++ bytesLE 2 0 ++ bytesLE 4 r.detail

/-- The whole record, its CRC-32C in the last four bytes. -/
def OutRec.bytes (r : OutRec) : List Byte := r.body ++ bytesLE 4 (crc32c r.body)

/-- Writes a record at a control-window address, in one write of its eight words. -/
def putRec (s : State) (a : Nat) (r : OutRec) : State := wrWords s a (wordsOf r.bytes 8)

/-- STATE of the record at an address. -/
def recState (s : State) (a : Nat) : Nat := rf s (a + 4) 23 16

/-- The register outcome ring's record i (R398). -/
def regopAddr (i : Nat) : Nat := 0xAE0000 + 32 * (i % 256)
/-- The outcome ring's record i of command ring r (R383, R391). -/
def outAddr (r i : Nat) : Nat := 0xA40000 + 0x2000 * r + 32 * (i % 256)
/-- The record i of the outcome ring of DMA channel d (R383, R410). -/
def dmaOutAddr (d i : Nat) : Nat := 0xA60000 + 0x2000 * d + 32 * (i % 256)

/-- The opcodes of security services (R278, R395). -/
def isSecOp (op : Nat) : Bool :=
  op == 0x1001 || decide (0x4001 ≤ op ∧ op ≤ 0x4004) || decide (0x5001 ≤ op ∧ op ≤ 0x5011)
/-- APPROVED of the moment in the final record of a security service (R278). -/
def OutRec.approve (s : State) (r : OutRec) : OutRec :=
  if isSecOp r.opcode && r.state != .accepted && rb s Adr.secApproved 31 then { r with flags := setBit r.flags 0 } else r

/-- Writes the next record of the register outcome ring, in rotation, and advances WR. -/
def regopPut (s : State) (r : OutRec) : State :=
  let i := rf s Adr.mbxRegopIdx 7 0
  wf (putRec s (regopAddr i) (r.approve s)) Adr.mbxRegopIdx 7 0 ((i + 1) % 256)

/-! ## The security module's indicators and vault regions (R279, R286) -/

/-- Channels with CLEAR_US = 1 (R251). -/
def clearUs (s : State) : Bool := (List.range 256).any fun c => rb s (Adr.chnKeyCfg c) 15
/-- BYPASS follows CHN_KEY_CFG (R279). -/
def showBypass (s : State) : State := wb s Adr.secApproved 30 (clearUs s)
/-- SEC_APPROVED follows the module's state (R279): the running firmware's version is given. -/
def secShow (s : State) (fw : Nat) : State :=
  let a := Adr.secApproved
  let st := rf s Adr.secStatus 31 28
  let s := wb (wb (wb s a 3 (st == 0)) a 7 (st == 2)) a 6 (st == 3)
  let s := wb (wb s a 2 (s.sec.role.any fun p => p.2 == 1)) a 30 (clearUs s)
  wb s a 31 (st == 1 && Config.fwListed fw && !rb s a 5 && !rb s a 4)
/-- The vault's regions: identity, hashes and counters, User credentials, pairing (R285). -/
def vrIdentity : Nat := 0
def vrHashes : Nat := 1
def vrUsers : Nat := 2
def vrPairing : Nat := 3
/-- Whether a region was written less than 1 s ago (R286). -/
def regionBusy (s : State) (r : Nat) : Bool :=
  let w := mget 0 s.sec.regionAt r
  w != 0 && decide (rdW s (Adr.chnCycle 0) 2 % 2 ^ 48 + 1 - w < 64000)
/-- Notes a write of a region: its SEQ and the moment (R286). -/
def regionWrite (s : State) (r : Nat) : State :=
  let v := s.sec.vault
  { s with sec := { s.sec with
    regionAt := mset 0 s.sec.regionAt r (rdW s (Adr.chnCycle 0) 2 % 2 ^ 48 + 1)
    vault := { v with seq := mset 0 v.seq r (mget 0 v.seq r + 1) } } }

end Sys2Proof.Machine
end

