-- ==== Sys2Proof/Machine/Line.lean ====
section
/-! DEFINITION. The channel line: coding (R84 to R88), bursts and the delimiter search (R100 to R110), Terminal Lock
Records (R111 to R115), the trace check (R116), PM bins (R120 to R123), constant-rate streams (R96 to R99), and how a
tree's state follows its channels (R78). -/
namespace Sys2Proof.Machine

/-! ## Coding -/

/-- PAM4 level of a bit pair, first bit the most significant (R84). -/
def pam4 (b1 b0 : Bool) : Int :=
  match b1, b0 with
  | false, false => -3
  | false, true => -1
  | true, true => 1
  | true, false => 3

/-- Rows in which information column j of the LDPC base matrix has an entry (R86). -/
def ldpcRows (j : Nat) : List Nat := (List.range 3).map fun k => (j + k * (1 + j % 6)) % 19
/-- The shift of the base matrix in row i of information column j (R86). -/
def ldpcShift (i j : Nat) : Nat := (13 * i * i + 29 * j + 7 * i * j) % 64

/-- A 64-bit block cyclically shifted right by v. -/
def rotBlock (v : Nat) (b : List Bool) : List Bool := b.drop (v % 64) ++ b.take (v % 64)
/-- The exclusive or of two blocks. -/
def xorBlock (a b : List Bool) : List Bool := List.zipWith (· != ·) a b
/-- The sum of the information blocks that row i checks. -/
def ldpcRowSum (info : List (List Bool)) (i : Nat) : List Bool :=
  (info.zipIdx.filter fun p => i ∈ ldpcRows p.2).foldl (fun acc p => xorBlock acc (rotBlock (ldpcShift i p.2) p.1))
    (List.replicate 64 false)
/-- The parity blocks, in order p = 0 to 18: block p follows from row p and block p - 1 (R86). -/
def ldpcParity (info : List (List Bool)) : List (List Bool) :=
  ((List.range 19).foldl (fun (acc : List (List Bool) × List Bool) p =>
    let q := xorBlock (ldpcRowSum info p) acc.2
    (acc.1 ++ [q], q)) ([], List.replicate 64 false)).1

/-- Cuts a list into pieces of n, up to a count of them. -/
def chunks {α : Type} (n : Nat) : Nat → List α → List (List α)
  | 0, _ => []
  | k + 1, l => l.take n :: chunks n k (l.drop n)
/-- The byte that eight bits spell, most significant first. -/
def bitsByte (b : List Bool) : Byte := BitVec.ofNat 8 (b.foldl (fun n x => 2 * n + b2n x) 0)
/-- n bytes from their bits. -/
def bitsBytes (n : Nat) (b : List Bool) : List Byte := (chunks 8 n b).map bitsByte
/-- A codeword of k information bytes, at most 2,048, with its 152 parity bytes (R86): a shortened one is encoded with its missing
information bytes as zeros, which are not sent (R87). -/
def ldpcEncode (info : List Bool) : List Byte :=
  let full := info ++ List.replicate (16384 - info.length) false
  bitsBytes (info.length / 8) info ++ bitsBytes 152 ((ldpcParity (chunks 64 256 full)).flatten)

/-- The next n bits of a scrambler sequence whose last 31 bits are given, oldest first: b(n) = b(n-31) xor b(n-28)
(R88). -/
def scramble : Nat → List Bool → List Bool
  | 0, _ => []
  | n + 1, st =>
    let b := (st.getD 0 false) != (st.getD 3 false)
    b :: scramble n (st.drop 1 ++ [b])
/-- Seed of the downstream scrambler (R88). -/
def seedDown (cycle : Nat) : List Bool := true :: bitsMsb 30 cycle
/-- Seed of the upstream scrambler (R88). -/
def seedUp (cycle tid : Nat) : List Bool := true :: (bitsMsb 15 cycle ++ bitsMsb 15 tid)

/-- Information bits scrambled, or descrambled, from a seed: the sequence advances over these bits only (R88). -/
def scrambleBits (seed info : List Bool) : List Bool := xorBlock info (scramble info.length seed)
/-- The 200 codewords of downstream cycle n, from its 409,600 information bytes: all but the first 16 bytes of the header are
scrambled, then each codeword is encoded (R86, R88, R89). -/
def cycleCodewords (n : Nat) (info : List Byte) : List (List Byte) :=
  let bits := (info.take 16).flatMap byteBits ++ scrambleBits (seedDown n) ((info.drop 16).flatMap byteBits)
  (chunks 16384 200 bits).map ldpcEncode
/-- The codewords of an upstream burst of a TID, from the information bytes of its coded region (R88, R104). -/
def burstCodewords (n tid : Nat) (info : List Byte) : List (List Byte) :=
  (chunks 16384 (ceilDiv info.length 2048) (scrambleBits (seedUp n tid) (info.flatMap byteBits))).map ldpcEncode

/-- An idle frame of n bytes, its header in them (R93). -/
def idleFrame (n : Nat) : List Byte := encHeader 0x7FFF 31 (n - 8) .whole 0 false ++ List.replicate (n - 8) 0
/-- Idle fill of n bytes in frames of at most 512 bytes (R93, R206); 1 to 7 bytes are zeros. -/
def idleFill : Nat → Nat → List Byte
  | 0, _ => []
  | k + 1, n =>
    if n < 8 then List.replicate n 0
    else if n ≤ 512 then idleFrame n
    else if n < 520 then idleFrame 504 ++ idleFrame (n - 504)
    else idleFrame 512 ++ idleFill k (n - 512)
/-- Idle fill of n bytes. -/
def idleBytes (n : Nat) : List Byte := idleFill (n / 512 + 1) n

/-- The 4,096 information bytes of a cycle header (R90), its HDR_CRC last. -/
def CycleHdr.bytes (h : CycleHdr) : List Byte :=
  let slot (b : List Byte) (n : Nat) : List Byte := (b ++ List.replicate n (0 : Byte)).take n
  let tcms := (List.range 16).flatMap fun i => slot (h.tcm.getD i []) 48
  let ents := (List.range 128).flatMap fun i => bytesBE 16 (h.eph.getD i 0)
  let b := bytesBE 8 0xC6A13F5892E70DB4 ++ bytesBE 6 h.cycle ++ bytesBE 2 h.flags ++ slot h.traceId 16
    ++ bytesBE 1 h.anchorTb ++ bytesBE 3 0 ++ bytesBE 12 h.anchorTime ++ bytesBE 6 h.ephCycle ++ bytesBE 1 h.eph.length
    ++ bytesBE 1 0 ++ bytesBE 2 (2 ^ h.tcm.length - 1) ++ bytesBE 6 0 ++ tcms ++ ents ++ bytesBE 1212 0
  b ++ bytesBE 4 (crc32c b)

/-- The 127-bit preamble sequence of x^7 + x^6 + 1 from all ones (R101). -/
def preambleBits : Nat → List Bool → List Bool
  | 0, _ => []
  | n + 1, st =>
    let o := st.getD 6 true
    let fb := (st.getD 6 true) != (st.getD 5 true)
    o :: preambleBits n (fb :: st.take 6)

/-- Delimiter patterns A, B and C (R102). -/
def delimPattern : Nat → Nat
  | 0 => 0xB5E30F6C9A27D1483CF16E0A954BD827
  | 1 => 0x4A1CF09365D82EB7C30E91F56AB427D8
  | _ => 0xB5E30F6C9A27D148C30E91F56AB427D8

/-- Hamming distance of two bit lists over the shorter. -/
def hamming (a b : List Bool) : Nat := ((List.zipWith (· != ·) a b).filter id).length

/-- A delimiter found: pattern, position within the window, distance. -/
structure DelimHit where
  pattern : Nat
  pos : Nat
  dist : Nat
  deriving DecidableEq, Repr

/-- The first enabled pattern within the threshold at one position. -/
def delimAt (en thresh pos : Nat) (w : List Bool) : Option DelimHit :=
  (List.range 3).findSome? fun p =>
    let d := hamming (bitsMsb 128 (delimPattern p)) (w.take 128)
    if en.testBit p && decide (d ≤ thresh) && decide (128 ≤ w.length) then some ⟨p, pos, d⟩ else none

/-- The delimiter search (R109): the first position of the window at which an enabled pattern is within THRESH; nothing
is searched after it, nor beyond the last of n positions. -/
def delimSearch (en thresh : Nat) : Nat → Nat → List Bool → Option DelimHit
  | 0, _, _ => none
  | n + 1, pos, w =>
    match delimAt en thresh pos w with
    | some h => some h
    | none => match w with
      | [] => none
      | _ :: w' => delimSearch en thresh n (pos + 1) w'

/-- Positions of the window: E - 1,360 to E + 1,360 symbols inclusive (R109). -/
def windowPositions : Nat := 2721

/-- Grant units of burst overhead: guard, preamble and delimiter (R100). -/
def burstOverhead (cold : Bool) : Nat := if cold then 1783 else 262

/-- Codewords of a coded region of g grant units (R104). -/
def codewords (g : Nat) : Nat := ceilDiv (4 * g) 2200
/-- Information bytes of a coded region of g grant units, when its last codeword carries at least 32; else the padded
region ends at the last whole codeword (R104). -/
def infoBytes (g : Nat) : Nat :=
  let n := codewords g
  let last := 4 * g - 2200 * (n - 1)
  if last < 152 + 32 then 2048 * (n - 1) else 4 * g - 152 * n

/-! ## Trees and channels of the running plan (R56, R78, R117) -/

/-- The running tree plan record of a tree, as the number its 32 bytes spell. -/
def trec (s : State) (t : Nat) : Nat := mget 0 s.img.treeRec t
def trecEnabled (r : Nat) : Bool := nbit r (0x11 * 8 + 7)
def trecSplit (r : Nat) : Nat := nfld r (0x11 * 8 + 2) (0x11 * 8)
def trecReach (r : Nat) : Nat := nfld r (0x11 * 8 + 6) (0x11 * 8 + 5)
def trecPers (r w : Nat) : Nat := nfld r (0x12 * 8 + 2 * w + 1) (0x12 * 8 + 2 * w)
def trecFold (r : Nat) : Nat := nfld r (0x13 * 8 + 3) (0x13 * 8)
def trecEqrt (r : Nat) : Nat := nfld r (0x14 * 8 + 31) (0x14 * 8)
def trecTrace (r : Nat) : List Byte := bytesLE 16 r

/-- Whether a tree runs: on the part and enabled (R2, R56). -/
def treeEnabled (s : State) (t : Nat) : Bool := treeValid s t && trecEnabled (trec s t)
/-- PERS of a channel: 0 N200, 1 and 2 C50, 3 OFF (R56). -/
def persOf (s : State) (c : Nat) : Nat := if treeEnabled s (c / 4) then trecPers (trec s (c / 4)) (c % 4) else 3
def isN200 (s : State) (c : Nat) : Bool := persOf s c == 0
def isC50 (s : State) (c : Nat) : Bool := persOf s c == 1 || persOf s c == 2
/-- Terminal slots a tree may use: 32 * 2^SPLIT (R56). -/
def slotLimit (s : State) (t : Nat) : Nat := 32 * 2 ^ trecSplit (trec s t)
/-- The equalized response time a tree runs with, in ps: that of its image until a takeover adds to it (R85, R426). -/
def eqrtPs (s : State) (t : Nat) : Nat :=
  let r := rfW s (Adr.prtTrunk t) 2 63 32
  if r = 0 then trecEqrt (trec s t) * 1000 else r
/-- EQRT of a tree in ns. -/
def eqrtOf (s : State) (t : Nat) : Nat := eqrtPs s t / 1000
/-- EQRT in symbols, at 112.64 symbols per ns (R130). -/
def eqrtSymbols (s : State) (t : Nat) : Nat := eqrtPs s t * 11264 / 100000

/-- STATE codes of CHN_STATE (R117). -/
def chOff : Nat := 0
def chReset : Nat := 1
def chStarting : Nat := 2
def chRun : Nat := 3
def chEclipseEntering : Nat := 4
def chEclipse : Nat := 5
def chWaking : Nat := 6
def chFault : Nat := 7
def chStandby : Nat := 8

/-- STATE of a channel. -/
def chnSt (s : State) (c : Nat) : Nat := uState s (Adr.chnState c)
/-- The state a channel acts on (R26). -/
def chnEff (s : State) (c : Nat) : Nat := effState s (Adr.chnState c)

/-- Whether a channel sends cycles (R117); after a takeover none goes out before the laser has settled (R426). -/
def sendsCycles (s : State) (c : Nat) : Bool :=
  let st := chnEff s c
  (st == chStarting || st == chRun || st == chEclipseEntering || st == chWaking) && !s.boot.dataStopped
    && decide (s.prt.sendFrom ≤ rdW s (Adr.chnCycle 0) 2 % 2 ^ 48)

/-- The PON transmit lane of a channel is gated (R36, R80, R117). -/
def txGated (s : State) (c : Nat) : Bool :=
  let st := chnEff s c
  st == chOff || st == chReset || st == chEclipse || st == chFault || st == chStandby || s.boot.fatal
    || decide (rf s Adr.glbBootStat 31 28 < 6)
/-- The transmit-disable output of a channel is asserted (R117), as it is through P6 (R468). -/
def txDisabled (s : State) (c : Nat) : Bool :=
  let st := chnEff s c
  outsHeld s || st == chOff || st == chReset || st == chEclipse || st == chFault || st == chStandby

/-- Wavelengths of a tree that satisfy a test, as a mask. -/
def waveMask (f : Nat → Bool) : Nat := (List.range 4).foldl (fun m w => if f w then m + 2 ^ w else m) 0

/-- MODE of TRE_DISC_CFG. -/
def discMode (s : State) (t : Nat) : Nat := rf s (Adr.treDiscCfg t) 31 30
/-- Whether discovery runs on a channel's wavelength: the bit of DISC_W. -/
def discOn (s : State) (c : Nat) : Bool := rb s (Adr.treDiscCfg (c / 4)) (4 + c % 4)
/-- The lost channels of a tree: those in FAULT (R78). -/
def lostMask (s : State) (t : Nat) : Nat := waveMask fun w => chnEff s (chanOf t w) == chFault
/-- Whether a channel is ready (R78): it is in RUN; its cycles carry the tree's TRACE_ID, which on N200 the header it sends shows; and
discovery schedules its Coma epochs or quiet windows. On the standby of a pair STANDBY stands in RUN's place (R415, R424; DEDUCED,
assumption log 149). -/
def chanReady (s : State) (c : Nat) : Bool :=
  chnEff s c == chStandby
    || (chnEff s c == chRun && discMode s (c / 4) != 0 && discOn s c
      && (!isN200 s c || s.line.hdr.any fun p => p.1 == c && p.2.traceId == trecTrace (trec s (c / 4))))
/-- The ready channels of a tree. -/
def readyMask (s : State) (t : Nat) : Nat := waveMask fun w => chanReady s (chanOf t w)
/-- The channels of a tree that are not OFF. -/
def liveMask (s : State) (t : Nat) : Nat := waveMask fun w => chnEff s (chanOf t w) != chOff

/-- STATE and REASON a tree takes from its channels (R78): one in RESET or STARTING, or READY, enters FAULT with every channel lost. -/
def treeNext (st ready lost live : Nat) (detailReason : Nat) : Nat × Nat :=
  if st = 0 then (0, detailReason)
  else if live ≠ 0 ∧ lost = live then (4, 2)
  else if st = 1 then (1, detailReason)
  else if st = 2 then (if ready ≠ 0 ∧ ready + lost = live then (3, 0) else (2, 0))
  else if st = 4 then (if ready ≠ 0 then (3, 0) else (4, detailReason))
  else (3, 0)

/-- Trees whose STATE is READY. -/
def treesReady (s : State) : Nat := ((List.range 64).filter fun t => uState s (Adr.treState t) == 3).length

/-- Puts REASON, LOST and READY of TRE_CHMASK. -/
def putChmask (s : State) (t reason lost ready : Nat) : State :=
  let a := Adr.treChmask t
  wf (wf (wf s a 11 8 reason) a 7 4 lost) a 3 0 ready

/-- P6 ends when every enabled tree is READY or in FAULT: PHASE reads RUN. The lowest tree in FAULT is reported with
TREE_FAULT, and boot goes on (R76, R80). -/
def p6Check (s : State) : State :=
  let a := Adr.glbBootStat
  if rf s a 31 28 = 6 then
    let en := (List.range 64).filter (treeEnabled s)
    let bad := en.filter fun t => uState s (Adr.treState t) == 4
    let s := match bad with
      | [] => s
      | t :: _ => wf (wf (wb s a 27 true) a 23 16 0x60) a 15 8 t
    if en.all fun t => uState s (Adr.treState t) == 3 || uState s (Adr.treState t) == 4 then wf s a 31 28 7 else s
  else s

/-- An APPLY counts a named tree done when it is READY or reads OFF (R70). -/
def applyFollow (s : State) (t : Nat) : State :=
  if t ∈ s.img.applyLeft ∧ ¬ t ∈ s.img.applyReset
      ∧ (uState s (Adr.treState t) = 3 ∨ uState s (Adr.treState t) = 0) then
    let s := { s with img := { s.img with applyLeft := s.img.applyLeft.filter (· ≠ t),
                                          applyDone := s.img.applyDone + 1 } }
    wf s Adr.mbxImgStat 6 0 s.img.applyDone
  else s

/-- What shows and follows TRE_STATE: TRE_CHMASK, whose fields are 0 for an OFF tree, TREES_READY, an APPLY's count and the end of
P6. -/
def treeShow (s : State) (t : Nat) : State :=
  let a := Adr.treState t
  let s := if uState s a = 0 then putChmask s t 0 0 0 else putChmask s t (rf s a 15 12) (rf s a 11 8) (readyMask s t)
  let s := wf s Adr.glbBootStat 6 0 (treesReady s)
  p6Check (applyFollow s t)

/-- The tree's state follows its channels (R78): a data-path change of TRE_STATE under R26, and what follows it. -/
def treeFollow (s : State) (t : Nat) : State :=
  let a := Adr.treState t
  let lost := lostMask s t
  let (st, reason) := treeNext (effState s a) (readyMask s t) lost (liveMask s t) (effDetail s a / 16)
  treeShow (if st ≠ effState s a ∨ reason * 16 + lost ≠ effDetail s a then dpChange s a st (reason * 16 + lost) else s) t

/-- The injectors of a channel in FAULT, RESET or ECLIPSE disarm, and what they hold is gone with the channel (R441). -/
def chnInjectorsOff (s : State) (c : Nat) : State := fiOff (fiOff s (Adr.fiCfgDs c)) (Adr.fiCfgUs c)

/-- A data-path change of a channel's STATE, and what its tree makes of it. -/
def chnChange (s : State) (c st det : Nat) : State :=
  let s := if st = chReset ∨ st = chEclipse ∨ st = chFault then chnInjectorsOff s c else s
  treeFollow (dpChange s (Adr.chnState c) st det) (c / 4)

/-! ## Terminal Lock Records (R111 to R115) -/

/-- Record s of channel c's TLR window (R128). -/
def tlrAddr (c k : Nat) : Nat := 0x2010000 + 0x40000 * c + 0x40 * k
/-- AGE, FLAGS, UPDATES in word 8 of a record; LOSSES and DELIM_DIST in word 10; DELIM_OFS in word 11 (R111). -/
def tlrAge (s : State) (c k : Nat) : Nat := rf s (tlrAddr c k + 0x20) 15 0
def tlrFlag (s : State) (c k i : Nat) : Bool := rb s (tlrAddr c k + 0x20) (16 + i)
def setTlrFlag (s : State) (c k i : Nat) (b : Bool) : State := wb s (tlrAddr c k + 0x20) (16 + i) b
def tlrLosses (s : State) (c k : Nat) : Nat := rf s (tlrAddr c k + 0x28) 31 24
def tlrValid : Nat := 0
def tlrForceCold : Nat := 1
def tlrPinned : Nat := 2
def tlrStandbyLearned : Nat := 3

/-- Whether a burst built now is warm (R113); an AGE_LIMIT of 0 makes every burst cold. -/
def burstWarm (s : State) (c k : Nat) : Bool :=
  let lim := rf s (Adr.chnTlrCfg c) 31 16
  tlrFlag s c k tlrValid && !tlrFlag s c k tlrForceCold && decide (tlrAge s c k ≤ lim) && lim != 0

/-- The record after a burst whose prologue decodes (R114): the DSP state, VALID, AGE 0, UPDATES and LOSSES; a cold burst
clears FORCE_COLD, and a QUALITY below QUAL_MIN sets it. A PINNED record is not updated. -/
def tlrUpdate (s : State) (c k : Nat) (cold : Bool) (dsp : List Byte) (quality cycle : Nat) (ofs : Int) (dist : Nat) :
    State :=
  if tlrFlag s c k tlrPinned then s
  else
    let a := tlrAddr c k
    let body := (dsp.take 25) ++ List.replicate (25 - dsp.length) (0 : Byte) ++ bytesLE 1 quality
      ++ ((dsp.drop 26).take 6) ++ List.replicate (6 - (dsp.length - 26)) (0 : Byte)
    let s := wrWords s a (wordsOf body 8)
    let s := wf s (a + 0x20) 15 0 0
    let s := setTlrFlag s c k tlrValid true
    let s := if cold then setTlrFlag s c k tlrForceCold false else s
    let s := if quality < rf s (Adr.chnTlrCfg c) 15 8 then setTlrFlag s c k tlrForceCold true else s
    let s := wf s (a + 0x20) 31 24 ((rf s (a + 0x20) 31 24 + 1) % 256)
    let s := wr s (a + 0x24) (BitVec.ofNat 32 cycle)
    let s := wf s (a + 0x28) 15 0 (cycle / 2 ^ 32)
    let s := wf (wf s (a + 0x28) 23 16 dist) (a + 0x28) 31 24 0
    wf s (a + 0x2C) 15 0 (unsigned 16 ofs)

/-- The record after a lost burst (R114): a lost warm burst increments LOSSES, and LOSS_COLD of them set FORCE_COLD. -/
def tlrLoss (s : State) (c k : Nat) (cold : Bool) : State :=
  if cold || tlrFlag s c k tlrPinned then s
  else
    let n := min 7 (tlrLosses s c k + 1)
    let s := wf s (tlrAddr c k + 0x28) 31 24 n
    if max 1 (rf s (Adr.chnTlrCfg c) 2 0) ≤ n then setTlrFlag s c k tlrForceCold true else s

/-- AGE of one record at a cycle: it increments, saturating, while VALID and not PINNED (R114). -/
def tlrAgeOne (s : State) (c k : Nat) : State :=
  if tlrFlag s c k tlrValid && !tlrFlag s c k tlrPinned then satF s (tlrAddr c k + 0x20) 15 0 1 else s

/-- Clears a channel's TLRs to zero (R115, R119). -/
def clearTlrs (s : State) (c : Nat) : State :=
  { s with regs := s.regs.filter fun p => ¬ (tlrAddr c 0 ≤ p.1 ∧ p.1 < tlrAddr c 512) }

/-- INVALIDATE of one record: VALID clears and FORCE_COLD sets; its contents stay (R115). -/
def tlrInvalidate (s : State) (c k : Nat) : State :=
  setTlrFlag (setTlrFlag s c k tlrValid false) c k tlrForceCold true

/-- The slots of a channel that have a stored record. -/
def tlrSlots (s : State) (c : Nat) : List Nat :=
  ((s.regs.filter fun p => tlrAddr c 0 ≤ p.1 ∧ p.1 < tlrAddr c 512).map fun p => (p.1 - tlrAddr c 0) / 0x40).dedup

/-! ## PM bins (R120 to R123) -/

/-- Bin key: channel, scope (0 the channel, slot + 1 a terminal), bin index. -/
def pmBin (c scope bin : Nat) : Nat := (c * 513 + scope) * 19 + bin
/-- Count key. -/
def pmKey (c scope bin counter : Nat) : Nat := pmBin c scope bin * 16 + counter

/-- The count of a bin. -/
def pmCount (s : State) (c scope bin counter : Nat) : Nat := mget 0 s.line.pm (pmKey c scope bin counter)

/-- Raises the threshold alert of a counter's current bin when the bin first reaches its threshold (R122). -/
def pmAlert (s : State) (c scope bin counter : Nat) : State :=
  let thr := (rd s (Adr.chnTcaThr c ((if scope = 0 then 0 else 32) + counter * 2 + (if bin = 0 then 0 else 1)))).toNat
  let k := pmKey c scope bin counter
  if thr ≠ 0 ∧ thr ≤ pmCount s c scope bin counter ∧ ¬ k ∈ s.line.pmTca then
    let s := { s with line := { s.line with pmTca := s.line.pmTca ++ [k] } }
    if scope = 0 then evBit s (Adr.chnEvent c) 0 c .corrected 0x0401
    else
      let s := wb s (Adr.chnTcaTerm c ((scope - 1) / 32)) ((scope - 1) % 32) true
      evBit s (Adr.chnEvent c) 1 c .corrected 0x0402
  else s

/-- Counts in both current bins of one scope, saturating at 48 bits, with the alerts. -/
def pmAddScope (s : State) (c scope counter n : Nat) : State :=
  [0, 17].foldl (fun s bin =>
    let k := pmKey c scope bin counter
    let s := { s with line := { s.line with pm := mset 0 s.line.pm k (satAdd (2 ^ 48 - 1) (mget 0 s.line.pm k) n) } }
    pmAlert s c scope bin counter) s

/-- Counts an event of a terminal slot on its channel: in the channel's bins and in the slot's (R120). -/
def pmAdd (s : State) (c slot counter n : Nat) : State :=
  if n = 0 then s else pmAddScope (pmAddScope s c 0 counter n) c (slot + 1) counter n

/-- Marks the current bins of a scope SUSPECT (R120); a mark of the channel's bins stands for those of all its slots. -/
def pmSuspectMark (s : State) (c scope : Nat) : State :=
  let l := addNew (addNew s.line.pmSuspect (pmBin c scope 0)) (pmBin c scope 17)
  { s with line := { s.line with pmSuspect := l } }

/-- The new bin index of a bin when 15-minute bins shift, none when the bin falls off (R120). -/
def shift15 (bin : Nat) : Option Nat := if bin < 16 then some (bin + 1) else if bin = 16 then none else some bin
/-- The new bin index of a bin when 24-hour bins shift. -/
def shift24 (bin : Nat) : Option Nat := if bin = 17 then some 18 else if bin = 18 then none else some bin

/-- Moves keys that hold channel c's bins, where per bin there are m keys. -/
def shiftKeys (c m : Nat) (f : Nat → Option Nat) (k : Nat) : Option Nat :=
  let bk := k / m
  if bk / 19 / 513 = c then (f (bk % 19)).map fun b => (bk / 19 * 19 + b) * m + k % m else some k

/-- A map with its keys moved. -/
def mapKeys {α : Type} (f : Nat → Option Nat) (m : SMap α) : SMap α :=
  m.foldl (fun acc p => match f p.1 with | some k => mput acc k p.2 | none => acc) []

/-- The scopes of a channel whose new bins are SUSPECT from their start: the channel's, which stands for all of them, while an Eclipse
lasts, and the slots of terminals whose Transit from or to the channel lasts (R120). -/
def pmSuspectScopes (s : State) (c : Nat) : List Nat :=
  let st := chnEff s c
  (if st = chEclipseEntering ∨ st = chEclipse ∨ st = chWaking then [0] else [])
    ++ (s.transits.filter fun p => !p.2.recover && decide (p.1 / 512 = c / 4)
      && (rf s (Adr.treTransitStat (p.1 / 512) (p.1 % 512)) 27 26 == c % 4
        || rf s (Adr.treTransitStat (p.1 / 512) (p.1 % 512)) 25 24 == c % 4)).map fun p => p.1 % 512 + 1
/-- A 15-minute or 24-hour bin of a channel ends and the bins shift (R120): the new current bin starts at the given
second with nothing counted. The bits of CHN_TCA_TERM stay until they are cleared by a write (DESIGN CHOICE, assumption
log 150). -/
def pmRollover (s : State) (c : Nat) (day : Bool) (sec : Nat) : State :=
  let f := if day then shift24 else shift15
  let cur := if day then 17 else 0
  let l := s.line
  let started := (List.range 513).foldl (fun m sc => mset 0 m (pmBin c sc cur) sec)
    (mapKeys (shiftKeys c 1 f) l.pmStart)
  { s with line := { l with
      pm := mapKeys (shiftKeys c 16 f) l.pm
      pmTca := l.pmTca.filterMap (shiftKeys c 16 f)
      pmSuspect := l.pmSuspect.filterMap (shiftKeys c 1 f) ++ (pmSuspectScopes s c).map fun sc => pmBin c sc cur
      pmStart := started } }

/-- The low-word read of CHN_PM_DATA (R123): the bin index is resolved as the read lands, the count, its flags and the
bin's start are latched for the requester; a bin index above 18 reads 0, and on a C50 channel counters 8, 9, 12 and 14
read 0 (R127). -/
def pmDataRead (s : State) (who : Requester) (c : Nat) : State :=
  let sel := rdReq s who (Adr.chnPmSel c)
  let scope := if fld sel 31 31 = 1 then fld sel 24 16 + 1 else 0
  let bin := fld sel 12 8
  let counter := fld sel 3 0
  let dead := 18 < bin ∨ (isC50 s c = true ∧ counter ∈ [8, 9, 12, 14]) ∨ counter = 15
      ∨ (counter = 14 ∧ scope ≠ 0)
  let v := if dead then 0 else
    pmCount s c scope bin counter + 2 ^ 62 * b2n (decide (pmKey c scope bin counter ∈ s.line.pmTca))
      + 2 ^ 63 * b2n (decide (pmBin c scope bin ∈ s.line.pmSuspect) || decide (pmBin c 0 bin ∈ s.line.pmSuspect))
  let start := if 18 < bin then 0 else mget 0 s.line.pmStart (pmBin c scope bin)
  let s := wrReq s who (Adr.chnPmData c) (BitVec.ofNat 32 v)
  let s := wrReq s who (Adr.chnPmData c + 4) (BitVec.ofNat 32 (v / 2 ^ 32))
  let s := wrReq s who (Adr.chnPmBintime c) (BitVec.ofNat 32 start)
  ret s who (BitVec.ofNat 32 v)

/-! ## The trace check (R116) -/

/-- The trace string a channel expects: the tree's TRACE_ID, or CHN_TRACE_EXP when EXP_SRC = 1. -/
def traceExpected (s : State) (c : Nat) : List Byte :=
  if rb s (Adr.chnTraceCfg c) 1 then (List.range 4).flatMap fun j => bytesBE 4 (rd s (Adr.chnTraceExp c j)).toNat
  else trecTrace (trec s (c / 4))

/-- Whether a terminal's trace is in mismatch on a channel. -/
def traceBit (s : State) (c k : Nat) : Bool := rb s (Adr.chnTraceMm c (k / 32)) (k % 32)

/-- The trace check of one burst (R116): DEBOUNCE mismatches in a row set the slot's bit, as many matches clear it. -/
def traceCheck (s : State) (c k crc : Nat) : State :=
  let key := c * 512 + k
  let deb := max 1 (rf s (Adr.chnTraceCfg c) 7 4)
  if crc = crc16 (traceExpected s c) then
    let n := min deb (mget 0 s.line.traceOk key + 1)
    let s := { s with line := { s.line with traceOk := mset 0 s.line.traceOk key n,
                                            traceBad := mset 0 s.line.traceBad key 0 } }
    if n = deb ∧ traceBit s c k = true then
      evBit (wb s (Adr.chnTraceMm c (k / 32)) (k % 32) false) (Adr.chnEvent c) 3 c .corrected 0x0404
    else s
  else
    let s := pmAdd s c k 9 1
    let n := min deb (mget 0 s.line.traceBad key + 1)
    let s := { s with line := { s.line with traceBad := mset 0 s.line.traceBad key n,
                                            traceOk := mset 0 s.line.traceOk key 0 } }
    if n = deb ∧ traceBit s c k = false then
      evBit (wb s (Adr.chnTraceMm c (k / 32)) (k % 32) true) (Adr.chnEvent c) 2 c .corrected 0x0403
    else s

/-! ## Constant-rate streams (R96 to R99) -/

/-- Bytes on the line of an enabled entry per cycle: K containers, each a header of 8 bytes, 8 + NOM + S bytes and a tag
when it is encrypted. The region limit counts the containers with their tags (assumption log 12). -/
def crsBytes (v tag : Nat) : Nat :=
  if nbit v 63 then (nfld v 62 60 + 1) * (8 + 8 + nfld v 55 40 + nfld v 59 56 + tag) else 0

/-- Tag bytes of the containers of entry i of a channel in the cycle under way (R92): 12 or 16. -/
def crsTag (s : State) (c i : Nat) : Nat := if c * 64 + i ∈ s.line.crsTag12 then 12 else 16

/-- Whether the fields of an entry are within their limits (R96, CHN_CRS). -/
def crsFieldsOk (c v : Nat) : Bool :=
  decide (1 ≤ nfld v 59 56) && decide (nfld v 59 56 ≤ 8) && decide (nfld v 55 40 + nfld v 59 56 ≤ 16359)
    && decide (nfld v 39 35 ≤ 30) && decide (treeOfQid (nfld v 19 0) = c / 4)

/-- The value entry i of a channel will have: its pending change, else the value in force. -/
def crsValue (s : State) (c i : Nat) : Nat :=
  match s.line.crsPend.find? (·.1 = c * 64 + i) with
  | some (_, ch) => ch.value
  | none => rdW s (Adr.chnCrs c i) 2

/-- The constant-rate region of a channel with entry i taken as v, in bytes (R99). -/
def crsRegion (s : State) (c i v tag : Nat) : Nat :=
  (List.range 64).foldl (fun n k => n + crsBytes (if k = i then v else crsValue s c k) tag) 0

/-- The cycle being transmitted. -/
def cycleNow (s : State) : Nat := rdW s (Adr.chnCycle 0) 2 % 2 ^ 48

/-- A write of constant-rate entry i (R99): refused with OUT_OF_RANGE past the limits; an accepted change waits for the
first frame start at least 15.625 us after it landed. -/
def crsWrite (s : State) (who : Requester) (c i v : Nat) : State :=
  let a := Adr.chnCrs c i
  if islDown s c then
    wrDown s who a
  else if isOwner s who c 2 (c / 4) = false then wrNotOwner s who a 2 (c / 4)
  else if crsFieldsOk c v && decide (crsRegion s c i v 16 ≤ 202752) then
    wrOk { s with line := { s.line with crsPend := mput s.line.crsPend (c * 64 + i) ⟨v, cycleNow s⟩ } } who a
  else wrRefuse s who a .outOfRange

/-- Whether a change that landed in a cycle is due at frame start n, at least a whole cycle after it landed (R99). -/
def crsDue (x : CrsChange) (n : Nat) : Bool := n % 8 == 0 && decide (x.landed + 2 ≤ n)
/-- The constant-rate changes due at a frame start (R99). -/
def crsApply (s : State) (now : Nat) : State :=
  let due := s.line.crsPend.filter fun p => crsDue p.2 now
  let s := { s with line := { s.line with crsPend := s.line.crsPend.filter fun p => !crsDue p.2 now } }
  due.foldl (fun s p => wrW s (Adr.chnCrs (p.1 / 64) (p.1 % 64)) p.2.value 2) s
/-- Bytes of a channel's constant-rate region in the cycle under way. -/
def crsNow (s : State) (c : Nat) : Nat :=
  (List.range 64).foldl (fun n i => n + crsBytes (rdW s (Adr.chnCrs c i) 2) (crsTag s c i)) 0
/-- Those of the cycle after it, with the changes that it takes. -/
def crsAfter (s : State) (c : Nat) : Nat :=
  (List.range 64).foldl (fun n i =>
    let v := match s.line.crsPend.find? (·.1 = c * 64 + i) with
      | some (_, x) => if crsDue x (cycleNow s + 1) then x.value else rdW s (Adr.chnCrs c i) 2
      | none => rdW s (Adr.chnCrs c i) 2
    n + crsBytes v (crsTag s c i)) 0

/-- Information bytes of a cycle after its header (R89). -/
def cycleArea : Nat := 405504
/-- Bytes of an N200 channel's packet area in the cycle under way (R89). -/
def packetBytes (s : State) (c : Nat) : Nat := cycleArea - min cycleArea (crsNow s c)
/-- Bytes that a channel's framer has put into its packet area, from the area's start on. -/
def pktOf (s : State) (c : Nat) : List Byte := mget [] s.line.pkt c

/-- The 8-byte header of a constant-rate container (R97). -/
def crsHeader (cnt pointer seq : Nat) (csf : Bool) : List Byte :=
  let up := bytesBE 6 (((cnt * 2 ^ 16 + pointer) * 256 + seq % 256) * 256 + b2n csf)
  up ++ bytesBE 2 (crc16 up)

/-- CNT of a container from the bytes waiting: none and CSF below NOM - S, else up to NOM + S (R98). -/
def crsCnt (nom sft waiting : Nat) : Nat × Bool :=
  if waiting < nom - sft then (0, true) else (min waiting (nom + sft), false)

end Sys2Proof.Machine
end

