-- ==== Sys2Proof/Machine/Gates.lean ====
section
/-! DEFINITION. Times on the time bases (R357) and gate control lists (R213 to R221): installing, starting and stopping a
list, gate states, windows. A unit is a channel c, or 256 + u for the uplink port of lowest lane u. -/
namespace Sys2Proof.Machine

/-! ## Times -/

/-- The ticks of 2^-16 ns that a 96-bit time spells (R357). -/
def timeTicks (t : Nat) : Nat := (nfld t 95 48 * 10 ^ 9 + nfld t 47 16) * 65536 + nfld t 15 0
/-- The 96-bit time of a count of ticks. -/
def ticksTime (k : Nat) : Nat :=
  let ns := k / 65536
  ns / 10 ^ 9 % 2 ^ 48 * 2 ^ 48 + ns % 10 ^ 9 * 2 ^ 16 + k % 65536
/-- TIME of base b as a 96-bit number. -/
def baseTime (s : State) (b : Nat) : Nat := rfW s (Adr.timTbTime b) 4 127 32
/-- TIME of base b in ticks. -/
def baseTicks (s : State) (b : Nat) : Nat := timeTicks (baseTime s b)
def baseOf (s : State) (b : Nat) : BaseSt := mget {} s.tim.base b
/-- One ppb in 2^-28 ppb. -/
def ppbUnit : Nat := 2 ^ 28
/-- Ticks of 2^-16 ns that a base gains in n ns at its ADJ, and what is left over (R359). -/
def baseGain (x : BaseSt) (n : Nat) : Nat × Nat :=
  let d : Nat := 10 ^ 9 * ppbUnit
  let k : Nat := (n * 65536 * (Int.toNat ((d : Int) + x.adj)) + x.frac : Nat)
  (k / d, k % d)

/-- The time of base b, in ticks, at an offset in ns into the cycle under way; its register holds the time of the cycle's
start. -/
def baseAt (s : State) (b ofs : Nat) : Nat := baseTicks s b + (baseGain (baseOf s b) ofs).1
/-- Ticks that a base gains in a span of ps at its ADJ (R359). -/
def basePs (x : BaseSt) (ps : Nat) : Nat :=
  let d : Nat := 10 ^ 9 * ppbUnit
  (ps * 65536 * (Int.toNat ((d : Int) + x.adj)) + 1000 * x.frac) / (1000 * d)
/-- The time of base b, in ticks, at an offset in ps into the cycle under way (R214). -/
def tickAt (s : State) (b ps : Nat) : Nat := baseTicks s b + basePs (baseOf s b) ps
/-- The nanosecond count of base b. -/
def baseNs (s : State) (b : Nat) : Nat := baseTicks s b / 65536
/-- STATE of base b: 0 UNSET, 1 FREERUN, 2 LOCKED, 3 HOLDOVER (R358). -/
def baseState (s : State) (b : Nat) : Nat := rf s (Adr.timTbStat b) 31 28
/-- Whether a 96-bit time is well formed (R357). -/
def timeOk (t : Nat) : Bool := decide (nfld t 47 16 < 10 ^ 9)

/-! ## Registers of a list's unit -/

def isChanUnit (x : Nat) : Bool := decide (x < 256)
def gclCtl (x : Nat) : Nat := if x < 256 then Adr.chnGclCtl x else Adr.uplGclCtl (x - 256)
def gclStat (x : Nat) : Nat := if x < 256 then Adr.chnGclStat x else Adr.uplGclStat (x - 256)
def gclBase (x : Nat) : Nat := if x < 256 then Adr.chnGclAdminBase x else Adr.uplGclAdminBase (x - 256)
def gclCyc (x : Nat) : Nat := if x < 256 then Adr.chnGclAdminCyc x else Adr.uplGclAdminCyc (x - 256)
def gclOper (x : Nat) : Nat := if x < 256 then Adr.chnGclOperStart x else Adr.uplGclOperStart (x - 256)
def gclMtu (x g : Nat) : Nat := if x < 256 then Adr.chnGclMtu x g else Adr.uplGclMtu (x - 256) g
def gclAdmin (x i : Nat) : Nat := if x < 256 then Adr.chnGclAdmin x i else Adr.uplGclAdmin (x - 256) i
/-- Address of a channel's running entry, read-only. -/
def gclRunAddr (c i : Nat) : Nat := Adr.chnGclAdmin c 0 + 0x800 + 8 * i

/-- Raises a gate event: bit and LASTCODE 0x0440 + bit of a channel, 0x0C40 + bit of a port (R226, R227). -/
def gclEvent (s : State) (x bit : Nat) : State :=
  if x < 256 then evBit s (Adr.chnDsEvent x) bit x .corrected (0x0440 + bit)
  else evBit s (Adr.uplGclEvent (x - 256)) bit (256 + (x - 256) / 8) .corrected (0x0C40 + bit)

/-- The lists of a unit. -/
def gclOf (s : State) (x : Nat) : GclSt := mget {} s.sched.gcl x
def setGcl (s : State) (x : Nat) (g : GclSt) : State := { s with sched := { s.sched with gcl := mset {} s.sched.gcl x g } }

/-! ## Gate states of a list -/

/-- The entries of one cycle, cut at its end, the last one held to the end (R213): (gates, ns). -/
def gclCut : List (Nat × Nat) → Nat → List (Nat × Nat)
  | [], _ => []
  | [(g, _)], left => if left = 0 then [] else [(g, left)]
  | (g, n) :: r, left => if left ≤ n then (if left = 0 then [] else [(g, left)]) else (g, n) :: gclCut r (left - n)

/-- The gates at an offset into a cycle's entries, the entry's index and what is left of it in ticks. -/
def gclAtOfs : List (Nat × Nat) → Nat → Nat → Option (Nat × Nat × Nat)
  | [], _, _ => none
  | (g, n) :: r, ofs, i =>
    if ofs < n * 65536 then some (g, i, n * 65536 - ofs) else gclAtOfs r (ofs - n * 65536) (i + 1)

/-- The gates, entry and time left to the next entry that a list gives at an instant from its start on. -/
def gclAt (l : GclList) (t : Nat) : Option (Nat × Nat × Nat) :=
  if l.start ≤ t ∧ 0 < l.cycle then gclAtOfs (gclCut l.entries l.cycle) ((t - l.start) % (l.cycle * 65536)) 0 else none

/-- How long, in ticks, gate g stays open from an instant, looking at n entries at most; none when it stays open through
them all. -/
def openFor (l : GclList) (g : Nat) : Nat → Nat → Nat → Option Nat
  | 0, _, _ => none
  | n + 1, t, acc =>
    match gclAt l t with
    | none => none
    | some (gates, _, left) => if nbit gates g then openFor l g n (t + left) (acc + left) else some acc

/-- The list in force at an instant: a pending list from its start on (R220). -/
def gclInForce (g : GclSt) (t : Nat) : Option GclList :=
  match g.next with
  | some l => if l.start ≤ t then some l else g.run
  | none => g.run

/-- DEFAULT_GATES, which hold while no list runs. -/
def defaultGates (s : State) (x : Nat) : Nat := rf s (gclCtl x) 23 16

/-- The first ps of the cycle under way, or after it, at which a list's time base has reached its start. -/
def startPs (s : State) (l : GclList) : Nat :=
  let d : Nat := 10 ^ 9 * ppbUnit
  ceilDiv ((l.start - baseTicks s l.tb) * 1000 * d) (65536 * max 1 (Int.toNat ((d : Int) + (baseOf s l.tb).adj)))
/-- Whether gate g of a list is open from a to b, in ps after the cycle start, on the list's own time base (R214). -/
def listFits (s : State) (x g : Nat) (l : GclList) (a b : Nat) : Bool :=
  let ta := max l.start (tickAt s l.tb a)
  decide (b ≤ a) || match gclAt l ta with
    | none => nbit (defaultGates s x) g
    | some (gates, _, _) => nbit gates g &&
        match openFor l g (2 * l.entries.length + 2) ta 0 with
        | none => true
        | some k => decide (tickAt s l.tb b ≤ ta + k)
/-- Whether gate g of a unit is open from a to b, in ps after the cycle start (R214, R215, R220): in one window of the list in
force, and of the pending list from its start on; DEFAULT_GATES hold while no list runs or ENABLE is 0. -/
def spanFits (s : State) (x g a b : Nat) : Bool :=
  let st := gclOf s x
  let dflt := nbit (defaultGates s x) g
  let runs (b : Nat) : Bool := decide (b ≤ a) || match st.run with | some l => listFits s x g l a b | none => dflt
  if !rb s (gclCtl x) 31 then decide (b ≤ a) || dflt
  else match st.next with
    | some l => runs (min b (startPs s l)) && listFits s x g l (max a (startPs s l)) b
    | none => runs b

/-- W_max of gate g in ns over a list's cut cycle, unbounded (none) when it is open in every entry (R216): the longest
run of open entries, across the end of the cycle as well. -/
def wMax (l : GclList) (g : Nat) : Option Nat :=
  let es := gclCut l.entries l.cycle
  if es.all fun e => nbit e.1 g then none
  else
    some ((es ++ es).foldl (fun (p : Nat × Nat) e =>
      if nbit e.1 g then (p.1 + e.2, max p.2 (p.1 + e.2)) else (0, p.2)) (0, 0)).2

/-! ## Worst-case times (R216, R222), in units of 1/1000 ns -/

/-- Nominal rate of an uplink port in Gbit/s by its lane count (R222): 200 for one lane, up to 1,600 for eight. -/
def portRate (lanes : Nat) : Nat := 200 * max 1 lanes

/-- T_worst of charged length len on a channel whose constant-rate region is cr bytes. -/
def tWorstChan (cr len : Nat) : Nat := (ceilDiv len 2048 + 1 + (2 + ceilDiv cr 2048)) * 78125
/-- T_worst of len frame bytes on a port of a rate in Gbit/s with a margin in ns. -/
def tWorstPort (rate margin len : Nat) : Nat := ceilDiv ((len + 8) * 8 * 1000) rate + margin * 1000

/-- The ports of a half whose first lane is b, as (lowest lane, lanes), by its HALF code (R333). -/
def halfPorts (b code : Nat) : List (Nat × Nat) :=
  match code with
  | 1 => [(b, 4)]
  | 2 => [(b, 2), (b + 2, 2)]
  | 3 => [(b, 1), (b + 1, 1), (b + 2, 1), (b + 3, 1)]
  | 4 => [(b, 2), (b + 2, 1), (b + 3, 1)]
  | 5 => [(b, 1), (b + 1, 1), (b + 2, 2)]
  | _ => []
/-- The ports that a value of UPL_GRP_MODE gives group g (R333). -/
def modePorts (g : Nat) (v : Word) : List (Nat × Nat) :=
  if fld v 8 8 = 1 then [(8 * g, 8)] else halfPorts (8 * g) (fld v 2 0) ++ halfPorts (8 * g + 4) (fld v 6 4)
/-- The ports of group g. -/
def groupPorts (s : State) (g : Nat) : List (Nat × Nat) := modePorts g (rd s (Adr.uplGrpMode (8 * g)))
/-- Lanes of the port whose lowest lane is u, 0 where u is not a port (R333). -/
def portLanes (s : State) (u : Nat) : Nat := (((groupPorts s (u / 8)).find? (·.1 = u)).map (·.2)).getD 0
/-- Whether u is a port. -/
def portExists (s : State) (u : Nat) : Bool := portLanes s u != 0

/-- T_worst of a unit for a length. -/
def tWorst (s : State) (x len : Nat) : Nat :=
  if x < 256 then tWorstChan (crsNow s x) len
  else tWorstPort (portRate (portLanes s (x - 256))) (rf s (Adr.uplGclFit (x - 256)) 7 0) len

/-- The SHORT mask of a list (R218): gates whose W_max is shorter than T_worst of their MTU and overhead. -/
def shortMask (s : State) (x : Nat) (l : GclList) : Nat :=
  (List.range 8).foldl (fun m g =>
    let need := tWorst s x (rf s (gclMtu x g) 13 0 + if x < 256 then 24 else 16)
    match wMax l g with
    | none => m
    | some w => if w * 1000 < need then m + 2 ^ g else m) 0

/-! ## Installing, starting, stopping -/

/-- The admin list of a unit as it stands: time base, base time, cycle time, entries; none when ENTRIES, CYCLE_NS, an INTERVAL or an
OP is out of range or the time base is not set (R213, R219). -/
def adminList (s : State) (x : Nat) : Option (Nat × Nat × Nat × List (Nat × Nat)) :=
  let tb := rfW s (gclBase x) 4 31 29
  let base := rfW s (gclBase x) 4 127 32
  let n := rfW s (gclCyc x) 2 40 32
  let cyc := rfW s (gclCyc x) 2 29 0
  let words := (List.range n).map fun i => rdW s (gclAdmin x i) 2
  let entOk (w : Nat) : Bool := nfld w 55 52 == 0 && decide (32 ≤ nfld w 29 0) && decide (nfld w 29 0 ≤ 10 ^ 9)
  if 1 ≤ n ∧ n ≤ 256 ∧ 1000 ≤ cyc ∧ cyc ≤ 10 ^ 9 ∧ words.all entOk = true ∧ baseState s tb ≠ 0 then
    some (tb, timeTicks base, cyc, words.map fun w => (nfld w 63 56, nfld w 29 0))
  else none

/-- The start instant: BASE + n * CYCLE_NS for the smallest n at least 2 us after the install completes, and whether n is
above 0 (R219). -/
def gclStartAt (now base cyc : Nat) : Nat × Bool :=
  let lim := now + 2000 * 65536
  let n := if lim ≤ base then 0 else ceilDiv (lim - base) (cyc * 65536)
  (base + n * cyc * 65536, decide (0 < n))

/-- INSTALL (R218, R219): refused with OUT_OF_RANGE, or the admin list is pending until S. The install completes within 10 us of
landing in the cycle under way: the ns after the cycle start is a free value. -/
def gclInstall (s : State) (x : Nat) : Option State :=
  match adminList s x with
  | none => none
  | some (tb, base, cyc, es) =>
    let (st, moved) := gclStartAt (baseAt s tb (freeVal s % 25626)) base cyc
    let s := nextFree s
    let l : GclList := ⟨tb, st, cyc, es⟩
    let s := setGcl s x { gclOf s x with next := some l }
    let m := shortMask s x l
    let a := gclStat x
    let s := wf (wf (wf s a 30 30 1) a 29 29 (b2n moved)) a 23 16 m
    let s := wrW s (gclOper x) (ticksTime st * 2 ^ 32) 4
    let s := if moved then gclEvent s x 1 else s
    some (if m = 0 then s else gclEvent s x 2)

/-- The entries of a channel's running gate list, as CHN_GCL_ADMIN shows them, go with the list (R14). -/
def gclEntriesClear (s : State) (c : Nat) : State :=
  let lo := 0x2000000 + 0x40000 * c + 0x30800
  { s with regs := s.regs.filter fun p => !(decide (lo ≤ p.1) && decide (p.1 < lo + 0x800)) }

/-- ENABLE = 0: the running list stops, a pending one is discarded, DEFAULT_GATES hold at once (R220). -/
def gclDisable (s : State) (x : Nat) : State :=
  let s := setGcl s x {}
  let a := gclStat x
  let s := if x < 256 then gclEntriesClear s x else s
  wf (wf (wf (wf s a 31 31 0) a 30 30 0) a 7 0 0) a 15 8 (defaultGates s x)

/-- Shows the running list's entries of a channel. -/
def gclShowEntries (s : State) (x : Nat) (l : GclList) : State :=
  if x < 256 then
    l.entries.zipIdx.foldl (fun s p => wrW s (gclRunAddr x p.2) (p.1.1 * 2 ^ 56 + p.1.2) 2) (gclEntriesClear s x)
  else s

/-- At S the pending list takes entry 0 and the old list stops (R220); while ENABLE is 0 it is discarded in its place. -/
def gclStart (s : State) (x : Nat) : State :=
  match (gclOf s x).next with
  | none => s
  | some l =>
    if rb s (gclCtl x) 31 then
      let s := setGcl s x { run := some l, next := none }
      let a := gclStat x
      let g := (gclCut l.entries l.cycle).getD 0 (defaultGates s x, 0)
      let s := wf (wf (wf (wf s a 31 31 1) a 30 30 0) a 7 0 0) a 15 8 g.1
      gclEvent (gclShowEntries s x l) x 0
    else wf (setGcl s x { gclOf s x with next := none }) (gclStat x) 30 30 0

/-- After a forced step of a time base (R221): a pending list whose S has passed starts at once, a running list takes the
gates of its new position, and GCL_STEP is raised. -/
def gclStep (s : State) (tb x : Nat) : State :=
  let hit : Option GclList → Bool
    | some l => l.tb == tb
    | none => false
  let st := gclOf s x
  if hit st.run || hit st.next then
    let now := baseTicks s tb
    let s := match st.next with
      | some l => if l.tb = tb ∧ l.start ≤ now then gclStart s x else s
      | none => s
    let s := match (gclOf s x).run with
      | some l =>
        if l.tb ≠ tb then s
        else match gclAt l now with
          | some (gates, i, _) => wf (wf s (gclStat x) 15 8 gates) (gclStat x) 7 0 i
          | none => s
      | none => s
    gclEvent s x 5
  else s

/-- The units that have lists. -/
def gclUnits (s : State) : List Nat := s.sched.gcl.map (·.1)

end Sys2Proof.Machine
end

