-- ==== Sys2Proof/Machine/Plans.lean ====
section
/-! DEFINITION. The content checks of the image sections (R54 to R58, R131, R208, R303, R304, R306, R320, R342, R381,
R478, R479): each takes a section body and answers the offset and the R63 code of its first offending field. -/
namespace Sys2Proof.Machine

/-- The number that n bytes at an offset of a byte list spell, low byte first. -/
def leAt (b : List Byte) (ofs n : Nat) : Nat := ofBytesLE ((b.drop ofs).take n)

/-- One condition that a body must not meet: whether it is met, the offset and the code. -/
structure BadIf where
  bad : Bool
  ofs : Nat
  code : Nat
  deriving DecidableEq, Repr

/-- Refusal codes of R63 used by the content checks. -/
def cFused : Nat := 0x0D
def cContent : Nat := 0x0E
def cOverflow : Nat := 0x0F

/-- A condition refused with INVALID_CONTENT. -/
def bc (bad : Bool) (ofs : Nat) : BadIf := ⟨bad, ofs, cContent⟩
/-- Bytes lo up to hi that must be 0. -/
def bz (b : List Byte) (lo hi : Nat) : BadIf := bc (leAt b lo (hi - lo) != 0) lo

/-- The first condition met, as (offset, code). -/
def firstBad : List BadIf → Option (Nat × Nat)
  | [] => none
  | x :: xs => if x.bad then some (x.ofs, x.code) else firstBad xs

/-! ## Lane map (R54, R478) -/

/-- One lane record: the limit and the group size of its part, its index, which inversion bits it may set. -/
def laneRec (b : List Byte) (base group limit j : Nat) (tx rx : Bool) : List BadIf :=
  let o := base + 4 * j
  let l := leAt b o 2
  let inv := leAt b (o + 2) 1
  [bc (decide (limit ≤ l) || l / group != j / group) o,
   bc (decide (3 < inv) || (nbit inv 0 && !tx) || (nbit inv 1 && !rx)) (o + 2), bz b (o + 3) (o + 4),
   bc ((List.range j).any fun i => leAt b (base + 4 * i) 2 == l) o]

/-- The lane map: 256 uplink, 256 PON and 8 protection-link records. -/
def checkLanes (b : List Byte) : Option (Nat × Nat) :=
  firstBad ((List.range 256).flatMap (fun j => laneRec b 0 8 256 j true true)
    ++ (List.range 256).flatMap (fun j => laneRec b 1024 4 256 j true true)
    ++ (List.range 4).flatMap (fun j => laneRec b 2048 4 4 j true false)
    ++ (List.range 4).flatMap (fun j => laneRec b 2064 4 4 j false true))

/-! ## Tree plan (R56, R57, R131) -/

/-- The EQRT range of a REACH in ns (R131). -/
def eqrtRange : Nat → Nat × Nat
  | 0 => (240000, 400000)
  | 1 => (440000, 600000)
  | _ => (640000, 800000)

/-- One tree record. A disabled or fused record is checked only for its TREE field and for reserved codes (R57). -/
def treeRecChecks (b : List Byte) (fused : Nat → Bool) (t : Nat) : List BadIf :=
  let o := 32 * t
  let x := leAt b (o + 0x11) 1
  let pers := leAt b (o + 0x12) 1
  let fold := leAt b (o + 0x13) 1
  let en := nbit x 7
  let rng := eqrtRange (nfld x 6 5)
  let eqrt := leAt b (o + 0x14) 4
  [bc (nfld (leAt b (o + 0x10) 1) 5 0 != t || (en && nfld (leAt b (o + 0x10) 1) 7 6 != 0)) (o + 0x10),
   ⟨en && fused t, o + 0x11, cFused⟩,
   bc (nfld x 6 5 == 3 || (en && nfld x 4 3 != 0) || decide (4 < nfld x 2 0)) (o + 0x11),
   bc (en && pers == 0xFF) (o + 0x12),
   bc (en && (decide (15 < fold) || (List.range 4).any fun w => nbit fold w && nfld pers (2 * w + 1) (2 * w) != 0))
     (o + 0x13),
   bc (en && (decide (eqrt < rng.1) || decide (rng.2 < eqrt))) (o + 0x14),
   bc (en && leAt b (o + 0x18) 8 != 0) (o + 0x18)]

/-- The tree plan. -/
def checkTrees (b : List Byte) (fused : Nat → Bool) : Option (Nat × Nat) :=
  firstBad ((List.range 64).flatMap (treeRecChecks b fused))

/-- ENABLE of tree record t of a tree-plan body, and PERS of its wavelength w. -/
def planTreeOn (b : List Byte) (t w : Nat) : Bool :=
  nbit (leAt b (32 * t + 0x11) 1) 7 && nfld (leAt b (32 * t + 0x12) 1) (2 * w + 1) (2 * w) != 3

/-! ## Partition plan (R58) -/

/-- Fields of partition record p. -/
def partEn (b : List Byte) (p : Nat) : Bool := nbit (leAt b (32 * p) 1) 7
def partBdAll (b : List Byte) (p : Nat) : Bool := nbit (leAt b (32 * p) 1) 6
def partCells (b : List Byte) (p : Nat) : Nat := leAt b (32 * p + 0x04) 4
def partDeepMib (b : List Byte) (p : Nat) : Nat := leAt b (32 * p + 0x08) 4
def partSidBase (b : List Byte) (p : Nat) : Nat := leAt b (32 * p + 0x0C) 4
def partSidCount (b : List Byte) (p : Nat) : Nat := leAt b (32 * p + 0x10) 4
def partBdBase (b : List Byte) (p : Nat) : Nat := leAt b (32 * p + 0x14) 2
def partBdCount (b : List Byte) (p : Nat) : Nat := leAt b (32 * p + 0x16) 2
def partQueueLimit (b : List Byte) (p : Nat) : Nat := leAt b (32 * p + 0x18) 4
/-- Whether partition p holds a SID, and a bridge domain. -/
def partHasSid (b : List Byte) (p sid : Nat) : Bool :=
  partEn b p && decide (partSidBase b p ≤ sid) && decide (sid < partSidBase b p + partSidCount b p)
def partHasBd (b : List Byte) (p bd : Nat) : Bool :=
  partEn b p && (partBdAll b p || (decide (partBdBase b p ≤ bd) && decide (bd < partBdBase b p + partBdCount b p)))

/-- Whether two ranges share a member. -/
def overlaps (a n b m : Nat) : Bool := decide (0 < n) && decide (0 < m) && decide (a < b + m) && decide (b < a + n)

/-- Bridge-domain range of partition p as base and count. -/
def partBdRange (b : List Byte) (p : Nat) : Nat × Nat :=
  if partBdAll b p then (0, 65536) else (partBdBase b p, partBdCount b p)

/-- One partition record, against those before it. -/
def partRecChecks (b : List Byte) (p : Nat) : List BadIf :=
  let o := 32 * p
  let en := partEn b p
  let before := (List.range p).filter (partEn b)
  let bd := partBdRange b p
  [bc (nfld (leAt b o 1) 5 0 != p || (p == 0 && !en)) o,
   bc (en && leAt b (o + 1) 3 != 0) (o + 1),
   bc (en && (decide (2 ^ 20 ≤ partSidBase b p) || decide (2 ^ 20 < partSidBase b p + partSidCount b p)
      || before.any fun q => overlaps (partSidBase b p) (partSidCount b p) (partSidBase b q) (partSidCount b q)))
     (o + 0x0C),
   bc (en && ((partBdAll b p && (partBdBase b p != 0 || partBdCount b p != 0))
      || decide (65536 < partBdBase b p + partBdCount b p)
      || before.any fun q => overlaps bd.1 bd.2 (partBdRange b q).1 (partBdRange b q).2)) (o + 0x14),
   bc (en && leAt b (o + 0x1C) 4 != 0) (o + 0x1C)]

/-- Fields of the memory carving (R54, R342). -/
def carveCtrlCells (b : List Byte) : Nat := leAt b 0 4
def carveReserveMib (b : List Byte) : Nat := leAt b 4 4
def carveSize (b : List Byte) (i : Nat) : Nat := leAt b (0x10 + 16 * i) 4
def carveCount (b : List Byte) (i : Nat) : Nat := leAt b (0x14 + 16 * i) 4
def carveMask (b : List Byte) (i : Nat) : Nat := leAt b (0x18 + 16 * i) 4
/-- Bytes of the pools. -/
def carvePoolBytes (b : List Byte) : Nat :=
  (List.range 8).foldl (fun n i => n + carveSize b i * carveCount b i) 0

/-- Cells of the cell buffer (R6). -/
def cellTotal : Nat := 1179648

/-- The sums of R58 over the enabled partitions up to p. -/
def partSumChecks (b mem : List Byte) (p : Nat) : List BadIf :=
  let upTo := (List.range (p + 1)).filter (partEn b)
  let cells := upTo.foldl (fun n q => n + partCells b q) (carveCtrlCells mem)
  let deep := upTo.foldl (fun n q => n + partDeepMib b q) 0
  [⟨partEn b p && decide (cellTotal < cells), 32 * p + 4, cOverflow⟩,
   ⟨partEn b p && decide (carvePoolBytes mem < deep * 2 ^ 20), 32 * p + 8, cOverflow⟩]

/-- The partition plan, given the body of the memory carving. -/
def checkParts (b mem : List Byte) : Option (Nat × Nat) :=
  firstBad ((List.range 64).flatMap (partRecChecks b) ++ (List.range 64).flatMap (partSumChecks b mem))

/-! ## Memory carving (R54, R342) -/

/-- Sites that a mask names. -/
def maskCount (m : Nat) : Nat := ((List.range 4).filter (nbit m)).length
/-- Bytes of the region of pool i on site m: ceil(COUNT / n) buffers (R342). -/
def carveRegion (b : List Byte) (i m : Nat) : Nat :=
  if nbit (carveMask b i) m then ceilDiv (carveCount b i) (maskCount (carveMask b i)) * carveSize b i else 0
/-- Bytes of a site's pool regions. -/
def carveSite (b : List Byte) (m : Nat) : Nat := (List.range 8).foldl (fun n i => n + carveRegion b i m) 0
/-- Bytes of the live, and of the shadow, area of the statistics counters (R431). -/
def statAreaBytes : Nat := 0x14810000
/-- What DEEP_RESERVE_MIB must hold (R54): deep descriptors of 8 bytes and free rings of COUNT + 1 handles (R343, R348), the
bridging extension of 16-byte entries (R315, R320), the two areas of the counters (R431), and the rings of the eight samplers, of
the forwarding notifications and of the tracer, each at its least size of 2^10 records of 16 bytes (assumption log 144). -/
def carveReserveNeed (b tab : List Byte) : Nat :=
  (List.range 8).foldl (fun n i => n + carveCount b i * 8 + (carveCount b i + 1) * 4) 0 + leAt tab 0x0C 4 * 2 ^ 20 * 16
    + 2 * statAreaBytes + 10 * (2 ^ 10 * 16)

/-- One pool record. -/
def poolChecks (b : List Byte) (i : Nat) : List BadIf :=
  let o := 0x10 + 16 * i
  let sz := carveSize b i
  [bc (sz % 256 != 0 || decide (sz < 512) || decide (65536 < sz)
      || (decide (0 < i) && decide (sz ≤ carveSize b (i - 1)))) o,
   bc (decide (268435455 < carveCount b i)) (o + 4),
   bc (decide (15 < carveMask b i) || (carveCount b i != 0 && carveMask b i == 0)) (o + 8), bz b (o + 12) (o + 16)]

/-- The memory carving, given the body of the table carving. -/
def checkMemory (b tab : List Byte) : Option (Nat × Nat) :=
  let res := carveReserveMib b * 2 ^ 20
  firstBad ([bc (decide (carveCtrlCells b < 4096)) 0, ⟨decide (cellTotal < carveCtrlCells b), 0, cOverflow⟩,
      bz b 8 0x10]
    ++ (List.range 8).flatMap (poolChecks b)
    ++ [bz b 0x90 0x100, ⟨decide (144 * 2 ^ 30 < carvePoolBytes b + res), 4, cOverflow⟩]
    ++ (List.range 4).map (fun m => ⟨decide (4 * 36 * 2 ^ 30 < 4 * carveSite b m + res), 4, cOverflow⟩)
    ++ [⟨decide (res < carveReserveNeed b tab), 4, cOverflow⟩])

/-! ## Table carving (R320) -/

/-- Fields of the table carving. -/
def planeWidth (b : List Byte) (p : Nat) : Nat := leAt b p 1
def planeRole (b : List Byte) (p : Nat) : Nat := leAt b (4 + p) 1
def hostEntries (b : List Byte) : Nat := leAt b 8 4
def brExtMi (b : List Byte) : Nat := leAt b 0x0C 4
def clsRules (b : List Byte) : Nat := leAt b 0x10 4
/-- Planes of a role. -/
def planesOf (b : List Byte) (r : Nat) : List Nat := (List.range 4).filter fun p => planeRole b p == r

/-- The table carving. -/
def checkTables (b : List Byte) : Option (Nat × Nat) :=
  let h := hostEntries b
  firstBad ((List.range 4).map (fun p => bc (decide (2 < planeWidth b p)
        || (decide (1 ≤ planeRole b p) && decide (planeRole b p ≤ 3) && planeWidth b p != 0)) p)
    ++ (List.range 4).map (fun p => bc (decide (4 < planeRole b p)) (4 + p))
    ++ [bc ([1, 2, 4].any (fun r => decide (2 < (planesOf b r).length)) || decide (1 < (planesOf b 3).length)) 4,
        bc (!((List.range 6).any fun k => h == 65536 * 2 ^ k)) 8, bc (decide (60 < brExtMi b)) 0x0C,
        bc (decide (32768 < clsRules b) || (clsRules b != 0 && (planesOf b 3).isEmpty)) 0x10,
        bc (decide (1000 < leAt b 0x14 4)) 0x14, bz b 0x18 0x80])

/-! ## Grammar program (R298, R299, R303, R304, R306) -/

/-- Fields of a program body. -/
def progId (b : List Byte) : Nat := leAt b 0 8
def progVerbs (b : List Byte) : Nat := leAt b 8 2
def progEntry (b : List Byte) : Nat := leAt b 0x0A 2
def progMaxDepth (b : List Byte) : Nat := leAt b 0x0C 2
def progMaxHdrs (b : List Byte) : Nat := leAt b 0x0E 1
def progBudget (b : List Byte) : Nat := leAt b 0x0F 1
def progTpid (b : List Byte) (i : Nat) : Nat := leAt b (0x10 + 2 * i) 2
def progProfiles (b : List Byte) : Nat := leAt b 0x18 1
def progExc (b : List Byte) (deep : Bool) : Nat := leAt b (if deep then 0x1A else 0x19) 1
/-- Verb i. -/
def progVerb (b : List Byte) (i : Nat) : Nat := leAt b (0x40 + 8 * i) 8
/-- The first byte of profile j: after the verbs, padded to 16 bytes. -/
def profAt (b : List Byte) (j : Nat) : Nat := 0x40 + ceilDiv (8 * progVerbs b) 16 * 16 + 32 * j

/-- Fields of a verb (R298). -/
def vOp (v : Nat) : Nat := nfld v 63 58
def vDst (v : Nat) : Nat := nfld v 57 54
def vOfs (v : Nat) : Nat := nfld v 53 46
def vBit (v : Nat) : Nat := nfld v 45 43
def vWidth (v : Nat) : Nat := nfld v 42 38 + 1
def vTarget (v : Nat) : Nat := nfld v 37 26
def vImm (v : Nat) : Nat := nfld v 25 0

/-- What a verb uses: DST, the field group, TARGET, and the ones of its immediate (R299). -/
structure VerbUse where
  dst : Bool
  field : Bool
  target : Bool
  imm : Nat
  deriving DecidableEq, Repr

/-- The operands of each verb code (R299). -/
def verbUse : Nat → VerbUse
  | 0x01 => ⟨true, true, false, 0⟩
  | 0x02 => ⟨false, true, true, 0xFFFF⟩
  | 0x03 => ⟨false, true, true, 0xFF⟩
  | 0x04 => ⟨false, false, true, 0⟩
  | 0x05 => ⟨false, false, false, 0x1FF⟩
  | 0x06 => ⟨false, true, false, 0x1FF7⟩
  | 0x07 => ⟨false, true, false, 0x1FF⟩
  | 0x08 => ⟨false, false, false, 0xFF⟩
  | 0x09 => ⟨true, false, false, 0⟩
  | 0x0A => ⟨false, false, false, 0xFFFF⟩
  | 0x0B => ⟨true, false, false, 1⟩
  | 0x0C => ⟨false, false, false, 0xF⟩
  | 0x0D => ⟨false, false, false, 0xFF⟩
  | _ => ⟨false, false, false, 0⟩

/-- One verb of a program. -/
def verbBad (b : List Byte) (v : Nat) : Bool :=
  let u := verbUse (vOp v)
  let op := vOp v
  decide (0x0E < op)
    || (!u.dst && vDst v != 0) || (!u.field && nfld v 53 38 != 0) || (!u.target && vTarget v != 0)
    || (vImm v &&& (2 ^ 26 - 1 - u.imm)) != 0
    || decide (progVerbs b ≤ vTarget v)
    || (op == 2 && decide (16 < vWidth v)) || (op == 3 && decide (8 < vWidth v))
    || (op == 3 && decide (progVerbs b ≤ vTarget v + nfld (vImm v) 7 0))
    || (op == 0x0C && decide (progProfiles b ≤ nfld (vImm v) 3 0))

/-- Selector k of the profile that starts at o (R306). -/
def profSel (b : List Byte) (o k : Nat) : Nat := leAt b (o + 3 * k) 3
def selSrc (x : Nat) : Nat := nfld x 23 21
def selIdx (x : Nat) : Nat := nfld x 20 16
def selShift (x : Nat) : Nat := nfld x 15 11
def selWidth (x : Nat) : Nat := nfld x 10 6 + 1

/-- One key profile. -/
def profChecks (b : List Byte) (o : Nat) : List BadIf :=
  let used := (List.range 8).filter fun k => selSrc (profSel b o k) != 0
  (List.range 8).map (fun k =>
      let x := profSel b o k
      bc ((selSrc x == 0 && x != 0) || decide (3 < selSrc x)
        || (selSrc x != 0 && (nfld x 5 0 != 0
          || (selSrc x == 1 && decide (15 < selIdx x)) || (selSrc x == 2 && decide (12 < selIdx x))
          || (selSrc x == 3 && decide (4 < selIdx x))
          || (List.range k).any fun i => selSrc (profSel b o i) == 0))) (o + 3 * k))
    ++ [bc (decide (160 < used.foldl (fun n k => n + selWidth (profSel b o k)) 0)) o,
        bc (nfld (leAt b (o + 0x18) 1) 6 4 != 0) (o + 0x18), bc (decide (2 < leAt b (o + 0x19) 1)) (o + 0x19),
        bc (nfld (leAt b (o + 0x1A) 1) 6 4 != 0) (o + 0x1A), bz b (o + 0x1B) (o + 0x20)]

/-- An exception byte: action 0 to 2, a profile of the program, reserved bits 0. -/
def excBad (b : List Byte) (x : Nat) : Bool :=
  nfld x 1 0 == 3 || nfld x 3 2 != 0 || decide (progProfiles b ≤ nfld x 7 4)

/-- A Grammar program body. -/
def checkGrammar (b : List Byte) : Option (Nat × Nat) :=
  let n := progVerbs b
  let np := progProfiles b
  firstBad ([bc (n == 0 || decide (4096 < n)) 8, bc (decide (n ≤ progEntry b)) 0x0A,
      bc (decide (progMaxDepth b < 64) || decide (256 < progMaxDepth b)) 0x0C,
      bc (decide (progMaxHdrs b < 2) || decide (12 < progMaxHdrs b)) 0x0E,
      bc (decide (progBudget b < 8) || decide (64 < progBudget b)) 0x0F, bc (np == 0 || decide (16 < np)) 0x18,
      bc (excBad b (progExc b false)) 0x19, bc (excBad b (progExc b true)) 0x1A, bz b 0x1B 0x40,
      bc (b.length != profAt b np) 8]
    ++ (List.range n).map (fun i => bc (verbBad b (progVerb b i)) (0x40 + 8 * i))
    ++ [bz b (0x40 + 8 * n) (profAt b 0)]
    ++ (List.range np).flatMap fun j => profChecks b (profAt b j))

/-! ## Scheduler templates (R199, R200, R208) -/

/-- Whether the fields of a DS_QUEUE entry break R200 (as for a write with VALID = 1), reserved bits included. -/
def dsQueueBad (v : Nat) : Bool :=
  let cir := nfld v 207 186
  let pir := nfld v 185 164
  nfld v 236 224 != 0 || nfld v 59 0 != 0 || nfld v 127 120 == 0
    || decide (nfld v 95 78 < nfld v 77 60) || decide (nfld v 113 96 < nfld v 95 78)
    || (pir != 0 && decide (pir < cir)) || (cir != 0 && nfld v 163 148 == 0) || (pir != 0 && nfld v 147 132 == 0)

/-- Whether node fields in the layout of CHN_DS_PART break R200. -/
def dsNodeBad (v : Nat) : Bool :=
  let cir := nfld v 126 105
  let pir := nfld v 104 83
  nfld v 45 38 == 0 || (pir != 0 && decide (pir < cir)) || (cir != 0 && nfld v 82 67 == 0)
    || (pir != 0 && nfld v 66 51 == 0)

/-- Fields of template i. -/
def tmplValid (b : List Byte) (i : Nat) : Bool := nbit (leAt b (256 * i + 1) 1) 7
def tmplDefault (b : List Byte) (i : Nat) : Bool := nbit (leAt b (256 * i + 1) 1) 6
def tmplPart (b : List Byte) (i : Nat) : Nat := nfld (leAt b (256 * i + 1) 1) 5 0
def tmplQcount (b : List Byte) (i : Nat) : Nat := leAt b (256 * i + 2) 1
def tmplNode (b : List Byte) (i : Nat) : Nat := leAt b (256 * i + 0x10) 16
def tmplQueue (b : List Byte) (i k : Nat) : Nat := leAt b (256 * i + 0x20 + 32 * k) 32

/-- One template, given which partitions are enabled. -/
def tmplChecks (b : List Byte) (partOn : Nat → Bool) (i : Nat) : List BadIf :=
  let o := 256 * i
  let v := tmplValid b i
  [bc (leAt b o 1 != i) o,
   bc (v && ((tmplDefault b i && (List.range i).any fun j =>
      tmplValid b j && tmplDefault b j && tmplPart b j == tmplPart b i) || !partOn (tmplPart b i))) (o + 1),
   bc (v && (tmplQcount b i == 0 || decide (7 < tmplQcount b i))) (o + 2), bc (v && leAt b (o + 3) 13 != 0) (o + 3),
   bc (v && (dsNodeBad (tmplNode b i) || nfld (tmplNode b i) 21 0 != 0)) (o + 0x10)]
  ++ (List.range 7).map fun k =>
    bc (v && (if k < tmplQcount b i then nbit (tmplQueue b i k) 255 && dsQueueBad (tmplQueue b i k) else tmplQueue b i k != 0))
      (o + 0x20 + 32 * k)

/-- The scheduler templates. -/
def checkTemplates (b : List Byte) (partOn : Nat → Bool) : Option (Nat × Nat) :=
  firstBad (bc (b.length % 256 != 0 || b.isEmpty || decide (65536 < b.length)) 0
    :: (List.range (b.length / 256)).flatMap (tmplChecks b partOn))

/-! ## Time plan (R357, R381) -/

/-- One base of the time plan. -/
def baseChecks (b : List Byte) (i : Nat) : List BadIf :=
  let o := 32 * i
  let cfg := leAt b o 4
  [bc (nfld cfg 31 30 == 3 || nfld cfg 29 28 != 0 || nfld cfg 15 0 == 0) o,
   bc (decide (10 ^ 9 ≤ nfld (leAt b (o + 8) 12) 47 16)) (o + 8), bz b (o + 0x14) (o + 0x20)]

/-- The time plan. -/
def checkTime (b : List Byte) : Option (Nat × Nat) :=
  let pps := leAt b 0x100 8
  let tod := leAt b 0x108 4
  firstBad ((List.range 8).flatMap (baseChecks b)
    ++ [bc (nfld pps 33 32 != 0 || nfld pps 59 48 == 0) 0x100, bc (nfld tod 29 28 == 3 || nfld tod 7 0 != 0) 0x108,
        bc (nfld (leAt b 0x10C 4) 11 0 != 0) 0x10C, bz b 0x110 0x120]
    ++ (List.range 8).map (fun i => bc (nfld (leAt b (0x120 + 8 * i) 8) 62 61 == 0
        || nfld (leAt b (0x120 + 8 * i) 8) 56 48 != 0) (0x120 + 8 * i))
    ++ [bc (decide (1 < leAt b 0x160 1)) 0x160, bc (decide (leAt b 0x161 1 < 24) || decide (43 < leAt b 0x161 1)) 0x161,
        bc (decide (7 < leAt b 0x162 1)) 0x162, bc (decide (1 < leAt b 0x163 1)) 0x163, bz b 0x164 0x170,
        bz b 0x190 0x200])

/-! ## Island and clock plan (R54, R446, R479) -/

/-- Lowest VCODE of a core point: 5 mV steps from 0.65 V (R446). -/
def pointFloor : Nat → Nat
  | 0 => 26
  | 1 => 18
  | 2 => 10
  | _ => 2
/-- Pipeline clock of a core point in Hz (R446). -/
def pointHz (p : Nat) : Nat := 2000000000 - 200000000 * p
/-- The frequency of domain n + 1 in Hz (R32); domain 24 holds 0 (R479). -/
def domainHz (n : Nat) : Nat :=
  if n = 1 then 1600000000 else if n = 2 then 1500000000 else if n ≤ 6 then 1600000000 else if n = 7 then 2400000000
  else if n ≤ 9 then 1000000000 else if n = 10 then 1600000000 else if n ≤ 14 then 1408000000
  else if n ≤ 18 then 1328125000 else if n = 19 then 1660156250 else if n = 20 then 2000000000
  else if n ≤ 22 then 100000000 else if n = 23 then 0 else 200000000

/-- The die of an island: 0 the core die, k + 1 limb die k (R33). -/
def dieOfIsland (i : Nat) : Nat := if i < 256 then 1 + i / 64 else if i < 288 then 1 + (i - 256) / 8 else 0
/-- The first island of a die. -/
def dieFirst (k : Nat) : Nat := if k = 0 then 288 else 64 * (k - 1)

/-- One island record, given the tree plan. -/
def islandChecks (b trees : List Byte) (fused : Nat → Bool) (i : Nat) : List BadIf :=
  let o := 4 * i
  let st := leAt b o 1
  let pt := leAt b (o + 1) 1
  let vc := nfld (leAt b (o + 2) 1) 4 0
  let t := i / 4
  let unitFused := if i < 256 then fused t else decide (i < 288) && fused (2 * (i - 256))
  [⟨st == 0 && unitFused, o, cFused⟩,
   bc (decide (1 < st) || (decide (i < 256) && (st == 0) != (planTreeOn trees t (i % 4) && !fused t))
      || (decide (288 ≤ i) && st != 0)) o,
   bc (if 288 ≤ i then decide (3 < pt) else pt != 0) (o + 1),
   bc (nfld (leAt b (o + 2) 1) 6 5 != 0
      || (if 288 ≤ i then nbit (leAt b (o + 2) 1) 7 || decide (30 < vc) || decide (vc < pointFloor pt)
          else decide (vc < 10) || decide (30 < vc))
      || leAt b (o + 1) 2 != leAt b (4 * dieFirst (dieOfIsland i) + 1) 2) (o + 2), bz b (o + 3) (o + 4)]

/-- The island and clock plan. -/
def checkIslands (b trees : List Byte) (fused : Nat → Bool) : Option (Nat × Nat) :=
  let pt := leAt b (4 * 288 + 1) 1
  firstBad ((List.range 342).flatMap (islandChecks b trees fused)
    ++ (List.range 25).flatMap fun n =>
      [bc (leAt b (1368 + 8 * n) 4 != if n = 0 then pointHz pt else domainHz n) (1368 + 8 * n),
       bz b (1372 + 8 * n) (1376 + 8 * n)])

/-! ## Ownership defaults and firmware (R54) -/

/-- The ownership defaults. -/
def checkOwners (b : List Byte) : Option (Nat × Nat) :=
  firstBad ([4, 6, 7, 8].map fun f => bc (decide (1 < leAt b (8 * f) 8)) (8 * f))

/-- The firmware section: CODE_LEN at most 12 MiB, ENTRY within the code, the body the code padded to 16 bytes. -/
def checkFw (b : List Byte) : Option (Nat × Nat) :=
  let n := leAt b 8 4
  firstBad [bc (decide (12 * 2 ^ 20 < n) || b.length != ceilDiv (16 + n) 16 * 16) 8, bc (decide (n ≤ leAt b 0x0C 4)) 0x0C,
    bc (leAt b (16 + n) (b.length - (16 + n)) != 0) (16 + n)]

end Sys2Proof.Machine
end

