-- ==== Sys2Proof/Machine/Rings.lean ====
section
/-! DEFINITION. Command rings, outcome records and notification rings (R391 to R398). -/
namespace Sys2Proof.Machine

/-- The slot of command index i of ring r (R383, R391). -/
def slotAddr (r i : Nat) : Nat := 0xA00000 + 0x4000 * r + 64 * (i % 256)
/-- Record i of notification ring r (R383, R396). -/
def ntfAddr (r i : Nat) : Nat := 0xAA0000 + 0x4000 * r + 64 * (i % 256)

/-- PROD and CONS of a ring; both count modulo 512. -/
def ringProd (s : State) (r : Nat) : Nat := rf s (Adr.mbxRingIdx r) 8 0
def ringCons (s : State) (r : Nat) : Nat := rf s (Adr.mbxRingIdx r) 24 16
/-- FUNC of a ring. -/
def ringFn (s : State) (r : Nat) : Nat := rf s (Adr.mbxRingCfg r) 30 24
/-- Whether firmware takes commands of a ring. -/
def ringOn (s : State) (r : Nat) : Bool := decide (r < 16) && rb s (Adr.mbxRingCfg r) 31

/-- Whether an outcome record has been written and reads ACCEPTED: a record never written is all zero (R393). -/
def recAccepted (s : State) (a : Nat) : Bool :=
  recState s a == 0 && (List.range 8).any fun k => rd s (a + 4 * k) != 0

/-- The header of the command in a slot: CRC right and reserved fields 0 (R392). -/
def slotOk (s : State) (a : Nat) : Bool :=
  crc32c (regBytes s a 15) == (rd s (a + 0x3C)).toNat && rf s a 23 18 == 0 && rf s (a + 8) 31 16 == 0
    && rf s (a + 0x10) 3 0 == 0

/-- The command in the slot of ring r's CONS. -/
def slotCtx (s : State) (r : Nat) : CmdCtx :=
  let i := ringCons s r
  let a := slotAddr r i
  { ring := r, idx := i, fn := ringFn s r, opcode := rf s a 15 0, signal := rb s a 16, expect := rf s a 31 24,
    tag := (rd s (a + 4)).toNat, gen := rf s (a + 8) 15 0, count := (rd s (a + 0xC)).toNat,
    addr := rdW s (a + 0x10) 2 }

/-- The record of a ring command: TAG, OPCODE, GEN and PHASE come from the command (R393). -/
def cmdRec (c : CmdCtx) (r : OutRec) : OutRec :=
  { r with tag := c.tag, opcode := c.opcode, gen := c.gen, flags := r.flags % 128 + 128 * (c.idx / 256 % 2) }

/-- Firmware writes a command's record in place; a final record of a command with SIGNAL raises the ring's source
(R388, R393). -/
def cmdPut (s : State) (c : CmdCtx) (r : OutRec) : State :=
  let s := putRec s (outAddr c.ring c.idx) ((cmdRec c r).approve s)
  if c.signal && r.state != .accepted then ringSource s (342 + c.ring) else s

/-- The final record of a refusal. -/
def refusal (st : Status) : OutRec := { state := .notDone, status := st.code }
/-- The final record of a command done. -/
def doneRec : OutRec := { state := .done }

/-- Writes the record of an operation wherever it stands (R393, R398). -/
def ticketPut (s : State) (t : Ticket) (r : OutRec) : State :=
  match t with
  | .none => s
  | .regop i op tag => putRec s (regopAddr i) (({ r with tag := tag, opcode := op } : OutRec).approve s)
  | .cmd c => cmdPut s c r

/-- Whether an earlier command of the ring is not final yet. -/
def ringOpen (s : State) (r : Nat) : Bool := (List.range 256).any fun i => recAccepted s (outAddr r i)

/-- Whether firmware can take a command with this opcode from ring r now: the ring is enabled, a command waits at CONS
and has the opcode, and an ORDERED command waits for the earlier ones (R391, R392). -/
def canTake (s : State) (r op : Nat) : Bool :=
  let a := slotAddr r (ringCons s r)
  ringOn s r && ringProd s r != ringCons s r && rf s a 15 0 == op && !(rb s a 17 && ringOpen s r)

/-- Advances CONS. -/
def ringStep (s : State) (r : Nat) : State := wf s (Adr.mbxRingIdx r) 24 16 ((ringCons s r + 1) % 512)

/-- Firmware takes the command at CONS: a broken record is refused with BAD_RECORD, else f runs the command and writes
its record (R391 to R393). Where firmware can take no such command, nothing happens. -/
def runCmd (s : State) (r op : Nat) (f : State → CmdCtx → State) : State :=
  if canTake s r op then
    let c := slotCtx s r
    let ok := slotOk s (slotAddr r c.idx)
    let s := ringStep s r
    if ok then f s c else cmdPut s c (refusal .badRecord)
  else s

/-- A command that is final at once: f answers the state and the record. -/
def runCmdNow (s : State) (r op : Nat) (f : State → CmdCtx → State × OutRec) : State :=
  runCmd s r op fun s c => let (s, o) := f s c; cmdPut s c o

/-- The opcodes of R394 and R395. -/
def opcodeListed (op : Nat) : Bool :=
  decide (1 ≤ op ∧ op ≤ 3) || decide (0x1001 ≤ op ∧ op ≤ 0x1004) || decide (0x2001 ≤ op ∧ op ≤ 0x2005)
    || decide (0x3001 ≤ op ∧ op ≤ 0x3003) || decide (0x4001 ≤ op ∧ op ≤ 0x4004) || decide (0x5001 ≤ op ∧ op ≤ 0x5011)

/-- A command with an opcode that is not listed (R394). -/
def badOpcode (s : State) (r : Nat) : State :=
  let op := rf s (slotAddr r (ringCons s r)) 15 0
  if opcodeListed op then s else runCmdNow s r op fun s _ => (s, refusal .badOpcode)

/-- The item list of a command in host memory: n items of size bytes (R394). -/
def hostItems (s : State) (c : CmdCtx) (size : Nat) : List (List Byte) :=
  (List.range c.count).map fun i => mbytes 0 s.hostMem (c.addr + size * i) size

/-- Runs the independent items of a table command (R394): each item answers the state and its refusal, if any; refused
items count against PROGRESS and the first sets FIRST and FIRST_STATUS. -/
def runItems {α : Type} (f : State → α → State × Option Status) :
    List α → Nat → State → OutRec → State × OutRec
  | [], _, s, r => (s, { r with state := if r.first = 0xFFFFFFFF then .done else .partly })
  | x :: xs, i, s, r =>
    match f s x with
    | (s, none) => runItems f xs (i + 1) s { r with progress := r.progress + 1 }
    | (s, some st) =>
      runItems f xs (i + 1) s (if r.first = 0xFFFFFFFF then { r with first := i, firstStatus := st.code } else r)

/-- A write of PROD of ring r (R391): refused for another function and beyond 256 commands; it ends the ring's source
(R389). -/
def ringProdWrite (s : State) (who : Requester) (r v : Nat) : State :=
  let a := Adr.mbxRingIdx r
  if islDown s 336 then wrDown s who a else
  let s := endSource s (342 + r)
  if fnOf s who ≠ ringFn s r then wrRefuse s who a .notOwner
  else if 256 < modSub (v % 512) (ringCons s r) 512 then wrRefuse s who a .outOfRange
  else wrOk (wf s a 8 0 v) who a

/-- Clears bit 2 RESTART of a record's flags and answers NOT_DONE with RESOLVED, the other fields as they stood. -/
def resolveRec (s : State) (a : Nat) : State :=
  let s := wf (wf s (a + 4) 23 16 OutState.notDone.code) (a + 4) 31 24 Status.resolved.code
  let s := wf s (a + 0x14) 2 2 0
  wr s (a + 0x1C) (BitVec.ofNat 32 (crc32c (regBytes s a 7)))

/-- A write of RESOLVE (R397). -/
def ringResolve (s : State) (who : Requester) (r : Nat) : State :=
  let a := Adr.mbxRingCfg r
  if islDown s 336 then wrDown s who a
  else if fnOf s who ≠ ringFn s r then wrRefuse s who a .notOwner
  else
    let s := (List.range 256).foldl (fun s i =>
      if recAccepted s (outAddr r i) then resolveRec s (outAddr r i) else s) s
    wrOk (wb s a 8 false) who a

/-- At a WARM reset an ACCEPTED record gets RESTART, its CRC with it, and so does its ring (R397). -/
def ringRestart (s : State) (r : Nat) : State :=
  (List.range 256).foldl (fun s i =>
    let a := outAddr r i
    if recAccepted s a then
      let s := wf s (a + 0x14) 2 2 1
      wb (wr s (a + 0x1C) (BitVec.ofNat 32 (crc32c (regBytes s a 7)))) (Adr.mbxRingCfg r) 8 true
    else s) s

/-! ## Notifications (R396) -/

/-- KIND codes of notification records. -/
def ntfAuth : Nat := 1
def ntfTermState : Nat := 2
def ntfTransitEnd : Nat := 3
def ntfImage : Nat := 4
def ntfDupSerial : Nat := 5
def ntfTreeFull : Nat := 6

/-- Writes a record at NTF_WR of ring r: KIND in byte 0x00, the fields from byte 0x02 on, a CRC-32C in the last four
bytes. A record that would overtake NTF_RD is discarded, and NTF_LOST is set in the next record written (R396). -/
def ntfPut (s : State) (r kind : Nat) (fields : List Byte) : State :=
  let a := Adr.mbxRingIdx r + 4
  let w := rf s a 24 16
  if modSub w (rf s a 8 0) 512 ≥ 256 then { s with ntfLost := addNew s.ntfLost r }
  else
    let lost := decide (r ∈ s.ntfLost)
    let body := bytesLE 1 kind ++ bytesLE 1 (b2n lost) ++ (fields.take 58) ++ List.replicate (58 - fields.length) 0
    let s := wrWords s (ntfAddr r w) (wordsOf (body ++ bytesLE 4 (crc32c body)) 16)
    let s := { s with ntfLost := s.ntfLost.filter (· ≠ r) }
    ringSource (wf s a 24 16 ((w + 1) % 512)) (358 + r)

/-- The enabled rings assigned to a function. -/
def ringsOf (s : State) (fn : Nat) : List Nat := (List.range 16).filter fun r => ringOn s r && ringFn s r == fn

/-- Notifies the rings of the physical function. -/
def ntfPf (s : State) (kind : Nat) (fields : List Byte) : State :=
  (ringsOf s 0).foldl (fun s r => ntfPut s r kind fields) s

/-- Notifies the rings of the physical function and those of a partition's virtual function. -/
def ntfPart (s : State) (part kind : Nat) (fields : List Byte) : State :=
  (ringsOf s 0 ++ ringsOf s (part + 1)).foldl (fun s r => ntfPut s r kind fields) s

/-- Writes the next record of DMA channel d's outcome ring, in rotation, and advances OUT_WR: the record's place (R410). -/
def dmaOutPut (s : State) (d : Nat) (bytes : List Byte) : State × Nat :=
  let i := rfW s (Adr.dmaChStat d) 2 52 44
  (wfW (wrWords s (dmaOutAddr d i) (wordsOf bytes 8)) (Adr.dmaChStat d) 2 52 44 ((i + 1) % 512), i % 256)

/-- The extra record that carries the transmit time of an injected PTP frame (R408). -/
def dmaTimeRec (s : State) (d idx time : Nat) : State :=
  let body := bytesLE 4 idx ++ bytesLE 2 (0xF100 + d) ++ bytesLE 1 OutState.done.code ++ bytesLE 1 0 ++ bytesLE 12 time
    ++ List.replicate 8 (0 : Byte)
  (dmaOutPut s d (body ++ bytesLE 4 (crc32c body))).1

/-- RING_PROD_WRITE (R391). -/
def execRingProdWrite (who : Requester) (r value : Nat) (s : State) : Host.Outcome State Fault Refusal :=
  .next (if r < 16 then ringProdWrite s who r value else s)
/-- RING_RESOLVE (R397). -/
def execRingResolve (who : Requester) (r : Nat) (s : State) : Host.Outcome State Fault Refusal :=
  .next (if r < 16 then ringResolve s who r else s)
/-- BAD_OPCODE (R394). -/
def execBadOpcode (r : Nat) (s : State) : Host.Outcome State Fault Refusal := .next (badOpcode s r)

end Sys2Proof.Machine
end

