-- ==== Sys2Proof/Machine/Image.lean ====
section
/-! DEFINITION. The Orrery image (R48 to R70, R480): the checks of R62, and STAGE, APPLY, ABANDON and COMMIT. -/
namespace Sys2Proof.Machine

/-! ## The checks of R62 -/

/-- A failed check: R63 code, type code of the offending section (0 the header) and image offset. -/
structure ImgBad where
  code : Nat
  sec : Nat
  ofs : Nat
  deriving DecidableEq, Repr

/-- R63 codes. -/
def iBadMagic : Nat := 0x01
def iBadFormat : Nat := 0x02
def iBadLength : Nat := 0x03
def iHdrCrc : Nat := 0x04
def iTarget : Nat := 0x05
def iOrder : Nat := 0x06
def iSecCrc : Nat := 0x07
def iScope : Nat := 0x08
def iSigLithen : Nat := 0x09
def iSigOwner : Nat := 0x0A
def iKeyUnknown : Nat := 0x0B
def iRollback : Nat := 0x0C
def iBase : Nat := 0x10
def iDevice : Nat := 0x11
def iNothing : Nat := 0x12
def iBusy : Nat := 0x13
def iTreeBusy : Nat := 0x14
def iFetch : Nat := 0x15
def iNotAuth : Nat := 0x16
def iNotBootable : Nat := 0x17

/-- Header fields (R49). -/
def imgPartial (b : List Byte) : Bool := nbit (leAt b 6 2) 0
def imgHasFw (b : List Byte) : Bool := nbit (leAt b 6 2) 1
def imgLength (b : List Byte) : Nat := leAt b 8 4
def imgArbVersion (b : List Byte) : Nat := leAt b 0x10 4
def imgId (b : List Byte) : Nat := leAt b 0x18 8
def imgBaseId (b : List Byte) : Nat := leAt b 0x28 8

/-- The first of a list of checks that fails. -/
def firstImg : List (Bool × Nat × Nat × Nat) → Option ImgBad
  | [] => none
  | (bad, c, s, o) :: xs => if bad then some ⟨c, s, o⟩ else firstImg xs

/-- Step 1: the header, against the part's GLB_DEVICE_ID. -/
def checkHeader (b : List Byte) (devId : Word) : Option ImgBad :=
  let p := imgPartial b
  firstImg [(leAt b 0 4 != 0x5952524F, iBadMagic, 0, 0),
    (leAt b 0x3C 4 != crc32c (b.take 0x3C), iHdrCrc, 0, 0x3C),
    (leAt b 5 1 != 1, iBadFormat, 0, 5),
    (decide (3 < leAt b 6 2) || p == imgHasFw b || p == (imgBaseId b == 0), iBadFormat, 0, 6),
    (leAt b 0x0F 1 != 0, iBadFormat, 0, 0x0F), (leAt b 0x16 2 != 0, iBadFormat, 0, 0x16),
    (leAt b 0x30 12 != 0, iBadFormat, 0, 0x30),
    (imgLength b % 16 != 0 || decide (16777216 < imgLength b), iBadLength, 0, 8),
    (leAt b 0x0C 2 != fld devId 31 16, iTarget, 0, 0x0C), (leAt b 0x0E 1 != fld devId 11 4, iTarget, 0, 0x0E)]

/-- A section as its header gives it: type word, scope, header offset, body length. -/
structure Sec where
  typ : Nat
  scope : Nat
  ofs : Nat
  len : Nat
  deriving DecidableEq, Repr

/-- Body length that a type must have, none when it varies (R54). -/
def secLen : Nat → Option Nat
  | 1 => some 2080
  | 2 => some 2048
  | 3 => some 2048
  | 4 => some 256
  | 5 => some 128
  | 8 => some 512
  | 9 => some 1568
  | 10 => some 96
  | 12 => some 10912
  | _ => none
/-- The scope of a type (R54). -/
def secScope (t : Nat) : Nat := if t = 2 then 1 else if t = 6 ∨ t = 7 then 2 else if t = 12 then 3 else 0
/-- Whether the device knows a type. -/
def secKnown (t : Nat) : Bool := decide (1 ≤ t ∧ t ≤ 12)

/-- The checks of one section header, after the section of type prev, if any (step 3). -/
def secHeaderBad (b : List Byte) (isPart : Bool) (prev : Option Nat) (o : Nat) : Option ImgBad :=
  let ty := leAt b o 2
  let t := ty % 256
  let len := leAt b (o + 4) 4
  firstImg [(nfld ty 14 8 != 0, iOrder, t % 16, o), (leAt b (o + 8) 4 != 0, cContent, t % 16, o + 8),
    (len % 16 != 0 || (match secLen t with | some n => len != n | none => false), iBadLength, t % 16, o + 4),
    (secKnown t && leAt b (o + 2) 1 != secScope t, iScope, t % 16, o + 2),
    (prev == some 12 || (t != 12 && prev.elim false fun p => decide (t ≤ p)) || (!secKnown t && !nbit ty 15)
      || (isPart && secKnown t && !(t == 2 || t == 6 || t == 7 || t == 12)), iOrder, t % 16, o)]

/-- Walks the section headers from offset o on: the first failure, or the sections found and where they end. The walk goes on until
LENGTH is reached, so that bytes after the signature block are checked as one more header (DESIGN CHOICE, assumption log 57). -/
def walkSections (b : List Byte) (isPart : Bool) : Nat → Nat → Option Nat → List Sec → Option ImgBad × List Sec × Nat
  | 0, o, _, acc => (none, acc.reverse, o)
  | n + 1, o, prev, acc =>
    if imgLength b ≤ o then (none, acc.reverse, o)
    else match secHeaderBad b isPart prev o with
      | some e => (some e, acc.reverse, o)
      | none =>
        let len := leAt b (o + 4) 4
        walkSections b isPart n (o + 16 + len) (some (leAt b o 2 % 256))
          (⟨leAt b o 2 % 256, leAt b (o + 2) 1, o, len⟩ :: acc)

/-- The sections of an image. -/
def imgSections (b : List Byte) : List Sec := (walkSections b (imgPartial b) (imgLength b / 16 + 1) 64 none []).2.1
/-- The section of a type. -/
def imgSec (b : List Byte) (t : Nat) : Option Sec := (imgSections b).find? (·.typ == t)
/-- The bytes of a section's body; empty where the image has none. -/
def imgBody (b : List Byte) (t : Nat) : List Byte :=
  match imgSec b t with
  | some s => (b.drop (s.ofs + 16)).take s.len
  | none => []
/-- The image offset of the body of a section. -/
def imgBodyOfs (b : List Byte) (t : Nat) : Nat := match imgSec b t with | some s => s.ofs + 16 | none => 0

/-- Types that must be present (R53). -/
def secMissing (isPart : Bool) (ss : List Sec) : Bool :=
  let has (t : Nat) : Bool := ss.any fun s => s.typ == t
  if isPart then !has 12 || !(has 2 || has 6 || has 7)
  else (List.range 12).any fun k => !has (k + 1)

/-- Step 3: the section headers, then missing sections, LENGTH and SECTION_COUNT. -/
def checkSections (b : List Byte) : Option ImgBad :=
  let p := imgPartial b
  match walkSections b p (imgLength b / 16 + 1) 64 none [] with
  | (some e, _, _) => some e
  | (none, ss, fin) => firstImg [(secMissing p ss, iOrder, 0, 0), (fin != imgLength b, iBadLength, 0, 8),
      (ss.length != leAt b 0x14 2, iBadLength, 0, 0x14)]

/-- Step 4: the CRC of each section. -/
def checkCrcs (b : List Byte) : Option ImgBad :=
  firstImg ((imgSections b).map fun s =>
    (leAt b (s.ofs + 12) 4 != crc32c ((b.drop (s.ofs + 16)).take s.len), iSecCrc, s.typ % 16, s.ofs + 12))

/-- Bytes of an image from an offset. -/
def imgBytes (b : List Byte) (o n : Nat) : List Byte := (b.drop o).take n

/-- Steps 5 and 6: key hashes and signatures, ECDSA first, then ML-DSA; the Lithen signatures cover the firmware
section, the owner's the image up to the first owner key with the signature section's CRC field as 0 (R60). -/
def checkKeys (b : List Byte) (v : VaultSt) : Option ImgBad :=
  let o := imgBodyOfs b 12
  let fw := match imgSec b 11 with | some s => imgBytes b s.ofs (16 + s.len) | none => []
  let own := imgBytes b 0 (o - 4) ++ [0, 0, 0, 0] ++ imgBytes b o 0x1550
  let lithen := [(!v.lithenEc.contains (Config.sha384 (imgBytes b o 96)), iKeyUnknown, 12, o),
    (!v.lithenMl.contains (Config.sha384 (imgBytes b (o + 0xC0) 1952)), iKeyUnknown, 12, o + 0xC0),
    (!Config.ecdsaVerify (imgBytes b o 96) (imgBytes b (o + 0x60) 96) fw, iSigLithen, 12, o + 0x60),
    (!Config.mldsaVerify (imgBytes b (o + 0xC0) 1952) (imgBytes b (o + 0x860) 3309) fw, iSigLithen, 12, o + 0x860)]
  let owner := [(!v.ownerEc.contains (Config.sha384 (imgBytes b (o + 0x1550) 96)), iKeyUnknown, 12, o + 0x1550),
    (!v.ownerMl.contains (Config.sha384 (imgBytes b (o + 0x1610) 1952)), iKeyUnknown, 12, o + 0x1610),
    (!Config.ecdsaVerify (imgBytes b (o + 0x1550) 96) (imgBytes b (o + 0x15B0) 96) own, iSigOwner, 12, o + 0x15B0),
    (!Config.mldsaVerify (imgBytes b (o + 0x1610) 1952) (imgBytes b (o + 0x1DB0) 3309) own, iSigOwner, 12, o + 0x1DB0)]
  firstImg ((if imgHasFw b then lithen else []) ++ owner)

/-- Step 7: anti-rollback (R61). -/
def checkArb (b : List Byte) (v : VaultSt) : Option ImgBad :=
  firstImg [(decide (imgArbVersion b < v.imgArb), iRollback, 0, 0x10),
    (imgHasFw b && decide (leAt (imgBody b 11) 4 4 < v.fwArb), iRollback, 11, imgBodyOfs b 11 + 4)]

/-- What the checks of section content need to know of the device: fused trees, and the running partition plan, memory
and table carving that a partial image is checked against. -/
structure ImgEnv where
  devId : Word
  fused : Nat → Bool
  vault : VaultSt
  running : List Byte

/-- The body that governs: the image's own, or the running image's for a section the image does not hold. -/
def govBody (b running : List Byte) (t : Nat) : List Byte := if imgPartial b then imgBody running t else imgBody b t

/-- Content of one section (R54 to R58, R478, R479). -/
def checkBody (b : List Byte) (env : ImgEnv) (t : Nat) : Option (Nat × Nat) :=
  let body := imgBody b t
  match t with
  | 1 => checkLanes body
  | 2 => checkTrees body env.fused
  | 3 => checkParts body (imgBody b 4)
  | 4 => checkMemory body (imgBody b 5)
  | 5 => checkTables body
  | 6 => checkGrammar body
  | 7 => checkTemplates body (partEn (govBody b env.running 3))
  | 8 => checkTime body
  | 9 => checkIslands body (imgBody b 2) env.fused
  | 10 => checkOwners body
  | 11 => checkFw body
  | _ => none

/-- Step 8: each section's content. -/
def checkContent (b : List Byte) (env : ImgEnv) : Option ImgBad :=
  (imgSections b).findSome? fun s =>
    (checkBody b env s.typ).map fun p => ⟨p.2, s.typ % 16, s.ofs + 16 + p.1⟩

/-- All checks of R62, in order; boot tells a load at a COLD or WARM reset. -/
def checkImage (b : List Byte) (env : ImgEnv) (boot : Bool) : Option ImgBad :=
  let steps : List (Unit → Option ImgBad) :=
    [fun _ => checkHeader b env.devId, fun _ => firstImg [(boot && imgPartial b, iNotBootable, 0, 6)],
     fun _ => checkSections b, fun _ => checkCrcs b, fun _ => checkKeys b env.vault, fun _ => checkArb b env.vault,
     fun _ => checkContent b env,
     fun _ => firstImg [(imgPartial b && imgBaseId b != imgId env.running, iBase, 0, 0x28)]]
  steps.findSome? fun f => f ()

/-- The environment of a check now. -/
def imgEnv (s : State) : ImgEnv :=
  { devId := rd s Adr.glbDeviceId, fused := fun t => !treeValid s t, vault := s.sec.vault, running := s.img.running }

/-! ## Fetching -/

/-- Bytes of a source: 0 host memory at the address, 1 flash slot A, 2 flash slot B (R65, R66). An erased or
never-written flash byte reads 0xFF. -/
def imgFetch (s : State) (src addr n : Nat) : List Byte :=
  if src = 0 then mbytes 0 s.hostMem addr n
  else mbytes 0xFF s.flash (if src = 2 then 0x1000000 else 0) n

/-- The image of a source: its header, and the LENGTH bytes when the header is good; the header is never cut. -/
def imgRead (s : State) (src addr : Nat) : List Byte :=
  let h := imgFetch s src addr 64
  match checkHeader h (rd s Adr.glbDeviceId) with
  | some _ => h
  | none => imgFetch s src addr (max 64 (imgLength h))

/-! ## MBX_IMG_STAT and outcome records (R480) -/

/-- STATE codes of MBX_IMG_STAT. -/
def imIdle : Nat := 0
def imFetching : Nat := 1
def imStaged : Nat := 3
def imApplying : Nat := 4
def imFailed : Nat := 5

/-- Sets STATE, SECTION, CODE and the fault offset. -/
def imgStat (s : State) (st code sec ofs : Nat) : State :=
  let a := Adr.mbxImgStat
  let s := wf (wf (wf s a 31 28 st) a 27 24 sec) a 23 16 code
  wr s Adr.mbxImgFaultOfs (BitVec.ofNat 32 ofs)

/-- STAGED while an image is staged, else IDLE. -/
def imgRest (s : State) : Nat := if s.img.staged.isEmpty then imIdle else imStaged

/-- STATUS of an image result (R480). -/
def imgStatus (code : Nat) : Status :=
  if code = 0 then .ok else if code = iNothing then .notFound else if code = iBusy ∨ code = iTreeBusy then .busy
  else if code = iFetch then .fetchError else if code = iNotAuth then .notAuthorized else .outOfRange

/-- The final record of an image operation. -/
def imgRec (code : Nat) : OutRec :=
  { state := if code = 0 then .done else .notDone, status := (imgStatus code).code, detail := code }

/-- How an image operation is issued: by a write of MBX_IMG_CTRL, or by a command. -/
inductive ImgFrom
  | reg (who : Requester)
  | cmd (c : CmdCtx)
  deriving DecidableEq, Repr

/-- The function that issues an image operation. -/
def imgFn (s : State) : ImgFrom → Nat
  | .reg who => fnOf s who
  | .cmd c => c.fn

/-- Opens the record of an operation with opcode op: the next of the register outcome ring, its TAG the count of image
operations since the COLD reset (R398), or the command's own. -/
def imgOpen (s : State) (f : ImgFrom) (op : Nat) (r : OutRec) : State × Ticket :=
  let n := s.img.opCount
  let s := { s with img := { s.img with opCount := n + 1 } }
  match f with
  | .reg _ =>
    let i := rf s Adr.mbxRegopIdx 7 0
    (regopPut s { r with tag := n % 2 ^ 32, opcode := op }, .regop i op (n % 2 ^ 32))
  | .cmd c => (cmdPut s c r, .cmd c)

/-- GLB_WRSTAT of an operation issued by a register write (R27). -/
def imgNote (s : State) (f : ImgFrom) (code : Nat) : State :=
  match f with
  | .reg who => noteWrite s who Adr.mbxImgCtrl (imgStatus code).toWr 0 0
  | .cmd _ => s

/-- Whether an image operation runs, so that another is refused with BUSY. The boot ROM's own fetch is none. -/
def imgBusy (s : State) : Bool :=
  match s.img.op with
  | .idle => false
  | .bootWait => false
  | .bootFetch _ _ _ _ _ => false
  | _ => true

/-- An operation refused before it starts: its final record at once, and MBX_IMG_STAT reads FAILED, but for a refusal with BUSY
because another image operation runs (R480). -/
def imgRefuse (s : State) (f : ImgFrom) (op code : Nat) : State :=
  let keep := code == iBusy && imgBusy s
  let s := (imgOpen s f op (imgRec code)).1
  imgNote (if keep then s else imgStat s imFailed code 0 0) f code

/-- The phase. -/
def phase (s : State) : Nat := rf s Adr.glbBootStat 31 28

/-! ## STAGE, ABANDON, COMMIT -/

/-- A STAGE that starts to fetch: it discards what is staged. During the P3 wait it clears FAILED and CODE (R80). -/
def stageStart (s : State) (t : Ticket) (src addr : Nat) : State :=
  let boot := s.img.op == .bootWait
  let s := { s with img := { s.img with staged := [], op := if boot then .bootStage else .stage, src := src,
                                        addr := addr, ticket := t } }
  let s := if boot then wf (wb s Adr.glbBootStat 27 false) Adr.glbBootStat 23 16 0 else s
  imgStat s imFetching 0 0 0

/-- The outcome record of a STAGE that a failure ends. -/
def ticketFail (s : State) (t : Ticket) (code : Nat) : State := ticketPut s t (imgRec code)

/-- A STAGE written before the P3 wait, or while the wait's own STAGE is fetched, or from P4 on before P6 (R66): held under HOST and
FLASH_THEN_HOST until the wait begins, replacing one held before; else refused with BUSY. -/
def stageEarly (s : State) (f : ImgFrom) (src : Nat) : State :=
  if (s.boot.bootsel = 1 ∨ s.boot.bootsel = 2) ∧ phase s ≤ 3 ∧ s.boot.bootMode = true ∧ imgBusy s = false then
    let s := match s.img.held with
      | some (t, _) => ticketFail s t iBusy
      | none => s
    let (s, t) := imgOpen s f 0x4001 {}
    imgNote { s with img := { s.img with held := some (t, src) } } f 0
  else imgRefuse s f 0x4001 iBusy

/-- STAGE (R66, R67). -/
def imgStage (s : State) (f : ImgFrom) (src addr : Nat) : State :=
  if s.img.op ≠ .bootWait ∧ phase s < 6 then stageEarly s f src
  else if imgBusy s then imgRefuse s f 0x4001 iBusy
  else if src = 3 ∨ (src = 0 ∧ addr % 16 ≠ 0) then imgRefuse s f 0x4001 iFetch
  else
    let (s, t) := imgOpen s f 0x4001 {}
    imgNote (stageStart s t src addr) f 0

/-- The P3 wait begins: a held STAGE is taken as if it had been written now (R66). MBX_IMG_STAT stays as the boot ROM's fetches left
it (DESIGN CHOICE, assumption log 57). -/
def bootWaitStart (s : State) : State :=
  let s := { s with img := { s.img with op := .bootWait } }
  match s.img.held with
  | none => s
  | some (t, src) =>
    let s := { s with img := { s.img with held := none } }
    let addr := rdW s Adr.mbxImgAddr 2
    if src = 3 ∨ (src = 0 ∧ addr % 16 ≠ 0) then imgStat (ticketFail s t iFetch) imFailed iFetch 0 0
    else stageStart s t src addr

/-- ABANDON (R67): the staged image is discarded; with nothing staged it is done too (R480). -/
def imgAbandon (s : State) (f : ImgFrom) : State :=
  if imgBusy s then imgRefuse s f 0x4003 iBusy
  else
    let s := { s with img := { s.img with staged := [] } }
    imgNote (imgStat (imgOpen s f 0x4003 (imgRec 0)).1 imIdle 0 0 0) f 0

/-- COMMIT (R61): only while the issuing function holds a Crypto Officer session, each vault counter rises to the
running image's value. -/
def imgCommit (s : State) (f : ImgFrom) : State :=
  if imgBusy s then imgRefuse s f 0x4004 iBusy
  else if mget 0 s.sec.role (imgFn s f) ≠ 1 then imgRefuse s f 0x4004 iNotAuth
  else if regionBusy s vrHashes then imgRefuse s f 0x4004 iBusy
  else
    let s := regionWrite s vrHashes
    let v := s.sec.vault
    let img := max v.imgArb (imgArbVersion s.img.running)
    let fw := max v.fwArb (leAt (imgBody s.img.running 11) 4 4)
    let s := { s with sec := { s.sec with vault := { v with imgArb := img, fwArb := fw } } }
    let s := wr s (Adr.mbxImgArb + 4) (BitVec.ofNat 32 img)
    imgNote (imgStat (imgOpen s f 0x4004 (imgRec 0)).1 (imgRest s) 0 0 0) f 0

/-! ## APPLY (R67 to R70) -/

/-- Record t of a tree-plan body, as a number. -/
def planRec (body : List Byte) (t : Nat) : Nat := leAt body (32 * t) 32

/-- The DEVICE section types. -/
def deviceTypes : List Nat := [1, 3, 4, 5, 8, 9, 10, 11]

/-- The bytes of a whole section, header and body; empty where the image has none. -/
def imgWhole (b : List Byte) (t : Nat) : List Byte :=
  match imgSec b t with
  | some s => imgBytes b s.ofs (16 + s.len)
  | none => []

/-- The first DEVICE section of a staged full image that is not byte-identical to the running one. -/
def deviceDiffers (s : State) : Option Nat :=
  if imgPartial s.img.staged then none
  else deviceTypes.find? fun t => imgWhole s.img.staged t != imgWhole s.img.running t

/-- Trees named by MBX_IMG_TREES when TREES = 1. With TREES = 0 no tree is named, so that a fused tree's bit there refuses nothing
(DESIGN CHOICE, assumption log 58). -/
def namedTrees (s : State) (trees : Bool) : Nat := if trees then rdW s Adr.mbxImgTrees 2 else 0

/-- A Transit of a terminal of tree t is in progress: PHASE of some TRE_TRANSIT_STAT is not 0 (R232). -/
def treeInTransit (s : State) (t : Nat) : Bool :=
  (List.range 512).any fun k => rf s (Adr.treTransitStat t k) 31 28 != 0

/-- Whether an accepted APPLY holds tree t, from its acceptance to its completion: Transit commands and Eclipse changes on every named
tree are refused with BUSY (R68). -/
def applyHolds (s : State) (t : Nat) : Bool :=
  match s.img.op with
  | .applyWait _ m => nbit m t
  | .applying => nbit s.img.applyMask t
  | _ => false

/-- Whether an APPLY makes, or has made, a TREE reset of tree t: one still waiting for Transits will where the record differs (R68,
R83). -/
def applyResets (s : State) (t : Nat) : Bool :=
  match s.img.op with
  | .applyWait _ m => nbit m t && (imgSec s.img.staged 2).isSome && planRec (imgBody s.img.staged 2) t != mget 0 s.img.treeRec t
  | .applying => decide (t ∈ s.img.applyLeft)
  | _ => false

/-- An APPLY whose trees are all counted ends DONE. -/
def applyFinish (s : State) : State :=
  if s.img.op = .applying ∧ s.img.applyLeft = [] then
    let t := s.img.ticket
    let n := s.img.applyDone
    let s := { s with img := { s.img with op := .idle, ticket := .none, applyReset := [], applyMask := 0 } }
    let s := imgStat s (imgRest s) 0 0 0
    ticketPut s t { imgRec 0 with progress := n }
  else s

/-- The applied LIVE sections: the templates at once, the Grammar program to the shadow bank (R69, R305). -/
def applyLive (s : State) : State :=
  let b := s.img.staged
  let s := if (imgSec b 7).isSome then { s with img := { s.img with templates := imgBody b 7 } } else s
  if (imgSec b 6).isSome then
    wb { s with grm := { s.grm with shadow := imgBody b 6, loading := true, marked := [] } } Adr.grmProgStat 23 true
  else s

/-- Steps 4 and 5 of R68: LIVE sections, then the named trees whose record differs, each to take a TREE reset at its next
cycle boundary; the others count as done. -/
def applyRun (s : State) (live : Bool) (mask : Nat) : State :=
  let b := s.img.staged
  let s := if live then applyLive s else s
  let named := if (imgSec b 2).isSome then (List.range 64).filter (nbit mask) else []
  let diff := named.filter fun t => planRec (imgBody b 2) t != mget 0 s.img.treeRec t
  let n := named.length - diff.length
  let s := { s with img := { s.img with
    op := .applying, applyMask := mask, applyReset := diff, applyLeft := diff, applyDone := n } }
  let s := wf (imgStat s imApplying 0 0 0) Adr.mbxImgStat 6 0 n
  applyFinish s

/-- APPLY (R67, R68). FUSED_UNIT comes before DEVICE_MISMATCH where both hold (DESIGN CHOICE, assumption log 58). -/
def imgApply (s : State) (f : ImgFrom) (live trees : Bool) : State :=
  let mask := namedTrees s trees
  if imgBusy s || (live && s.grm.loading && (imgSec s.img.staged 6).isSome) then
    imgRefuse s f 0x4002 iBusy
  else if s.img.staged = [] then imgRefuse s f 0x4002 iNothing
  else match (List.range 64).find? (fun t => nbit mask t && !treeValid s t), deviceDiffers s with
    | some _, _ => imgRefuse s f 0x4002 cFused
    | none, some t => imgStat (imgRefuse s f 0x4002 iDevice) imFailed iDevice t (imgBodyOfs s.img.staged t)
    | none, none =>
      let (s, tk) := imgOpen s f 0x4002 {}
      let s := imgNote { s with img := { s.img with ticket := tk } } f 0
      if (List.range 64).any (fun t => nbit mask t && treeInTransit s t) then
        wf (imgStat { s with img := { s.img with op := .applyWait live mask } } imApplying 0 0 0) Adr.mbxImgStat 6 0 0
      else applyRun s live mask

/-- A waiting APPLY goes on when no named tree has a Transit any more (R68 step 2). -/
def applyRetry (s : State) : State :=
  match s.img.op with
  | .applyWait live mask =>
    if (List.range 64).any (fun t => nbit mask t && treeInTransit s t) then s else applyRun s live mask
  | _ => s

/-- A waiting APPLY is refused with TREE_BUSY after 100 ms; nothing has changed (R68). -/
def applyTransitTimeout (s : State) : State :=
  match s.img.op with
  | .applyWait _ _ =>
    let t := s.img.ticket
    let s := { s with img := { s.img with op := .idle, ticket := .none } }
    imgStat (ticketFail s t iTreeBusy) imFailed iTreeBusy 0 0
  | _ => s

/-- A named tree not ready 250 ms after its TREE reset ends the APPLY as PARTIAL: the count of trees ready and the lowest
tree not ready (R70). -/
def applyTreeTimeout (s : State) (t : Nat) : State :=
  if s.img.op = .applying ∧ t ∈ s.img.applyLeft ∧ ¬ t ∈ s.img.applyReset then
    let tk := s.img.ticket
    let n := s.img.applyDone
    let low := s.img.applyLeft.foldl min t
    let s := { s with img := { s.img with op := .idle, ticket := .none, applyLeft := [], applyReset := [], applyMask := 0 } }
    let s := imgStat s (imgRest s) 0 0 0
    ticketPut s tk { imgRec 0 with state := .partly, progress := n, first := low }
  else s

/-- A WARM reset ends the image operation under way: an APPLY, however it was issued, NOT_DONE with RESET (R70, R480), a STAGE
through MBX_IMG_CTRL with RESET too (R398), and the staged image is discarded (R67). The record of a STAGE that a ring command
started stays as R397 says. -/
def imgReset (s : State) : State :=
  let apply := match s.img.op with
    | .applyWait _ _ => true
    | .applying => true
    | _ => false
  let end_ (s : State) (t : Ticket) : State := ticketPut s t { refusal .reset with detail := 0 }
  let s := match s.img.ticket with
    | .regop i op tag => end_ s (.regop i op tag)
    | .cmd c => if apply then end_ s (.cmd c) else s
    | .none => s
  let s := match s.img.held with
    | some (.regop i op tag, _) => end_ s (.regop i op tag)
    | _ => s
  { s with img := { s.img with staged := [], op := .idle, ticket := .none, held := none, applyReset := [],
                               applyLeft := [], applyDone := 0, applyMask := 0 } }

/-- An image operation, which the security module in ERROR refuses with MODULE_ERROR, as any service (R278, R281). -/
def imgGate (f : ImgFrom) (op : Nat) (go : State → State) (s : State) : State :=
  if rf s Adr.secStatus 31 28 = 2 then
    let s := (imgOpen s f op (refusal .moduleError)).1
    match f with
    | .reg who => noteWrite s who Adr.mbxImgCtrl Status.moduleError.toWr 0 0
    | .cmd _ => s
  else go s

/-- A write of MBX_IMG_CTRL by the physical function, as its OP says; other codes are ignored. -/
def imgCtrl (s : State) (who : Requester) (v : Word) : State :=
  if islDown s 336 then wrDown s who Adr.mbxImgCtrl
  else if isPfSide s who = false then wrRefuse s who Adr.mbxImgCtrl .notAuthorized
  else match fld v 31 28 with
    | 1 => imgGate (.reg who) 0x4001 (fun s => imgStage s (.reg who) (fld v 27 26) (rdW s Adr.mbxImgAddr 2)) s
    | 2 => imgGate (.reg who) 0x4002 (fun s => imgApply s (.reg who) (v.toNat.testBit 0) (v.toNat.testBit 1)) s
    | 3 => imgGate (.reg who) 0x4003 (fun s => imgAbandon s (.reg who)) s
    | 4 => imgGate (.reg who) 0x4004 (fun s => imgCommit s (.reg who)) s
    | _ => wrOk s who Adr.mbxImgCtrl

/-- A ring image command: the physical function's, on ring 0 only (R394). -/
def imgCmd (s : State) (r op : Nat) (f : State → ImgFrom → State) : State :=
  runCmd s r op fun s c =>
    if c.ring = 0 ∧ c.fn = 0 then imgGate (.cmd c) op (fun s => f s (.cmd c)) s else cmdPut s c (refusal .outOfRange)

/-- IMG_CTRL_STAGE (R67): source code and requester. -/
def execImgCtrlStage (who : Requester) (src : Nat) (s : State) : Host.Outcome State Fault Refusal :=
  .next (imgCtrl s who (putFld (putFld (0 : Word) 31 28 1) 27 26 src))
/-- IMG_CTRL_APPLY (R68). -/
def execImgCtrlApply (who : Requester) (live trees : Bool) (s : State) : Host.Outcome State Fault Refusal :=
  .next (imgCtrl s who (putFld (putFld (putFld (0 : Word) 31 28 2) 0 0 (b2n live)) 1 1 (b2n trees)))
/-- IMG_CTRL_ABANDON (R67). -/
def execImgCtrlAbandon (who : Requester) (s : State) : Host.Outcome State Fault Refusal :=
  .next (imgCtrl s who (putFld (0 : Word) 31 28 3))
/-- IMG_CTRL_COMMIT (R61). -/
def execImgCtrlCommit (who : Requester) (s : State) : Host.Outcome State Fault Refusal :=
  .next (imgCtrl s who (putFld (0 : Word) 31 28 4))
/-- APPLY_TRANSIT_TIMEOUT (R68). -/
def execApplyTransitTimeout (s : State) : Host.Outcome State Fault Refusal := .next (applyTransitTimeout s)
/-- APPLY_TREE_TIMEOUT (R70). -/
def execApplyTreeTimeout (t : Nat) (s : State) : Host.Outcome State Fault Refusal := .next (applyTreeTimeout s t)
/-- STAGE (R67, R394): the host address is the command's ADDR. -/
def execStage (r src : Nat) (s : State) : Host.Outcome State Fault Refusal :=
  .next (imgCmd s r 0x4001 fun s f => match f with | .cmd c => imgStage s f src c.addr | _ => s)
/-- APPLY (R68, R394). -/
def execApply (r : Nat) (live trees : Bool) (s : State) : Host.Outcome State Fault Refusal :=
  .next (imgCmd s r 0x4002 fun s f => imgApply s f live trees)
/-- ABANDON (R67, R394). -/
def execAbandon (r : Nat) (s : State) : Host.Outcome State Fault Refusal := .next (imgCmd s r 0x4003 imgAbandon)
/-- COMMIT (R61, R394). -/
def execCommit (r : Nat) (s : State) : Host.Outcome State Fault Refusal := .next (imgCmd s r 0x4004 imgCommit)

end Sys2Proof.Machine
end

