-- ==== Sys2Proof/Machine/Buffers.lean ====
section
/-! DEFINITION. Statistics counters (R430, R431) and the buffer pools (R339 to R356): pools and handles, descriptors and
holders, frees, placement and admission, losses. -/
namespace Sys2Proof.Machine

/-! ## Statistics counters -/

/-- Scopes of R430. -/
def scQueue : Nat := 0
def scAlloc : Nat := 1
def scTerm : Nat := 2
def scSid : Nat := 3
def scPort : Nat := 4
def scChan : Nat := 5
def scRule : Nat := 6

/-- Bytes of the deep reserve of the running image (R54). -/
def reserveBytes (s : State) : Nat := carveReserveMib (imgBody s.img.running 4) * 2 ^ 20
/-- The first device address of DRAM (R385). -/
def dramBase : Nat := 0x100000000000
/-- Whether n bytes at a device address lie in DRAM inside DEEP_RESERVE_MIB, which the model places at the bottom of the
DRAM addresses (assumption log 13). -/
def inReserve (s : State) (a n : Nat) : Bool := decide (dramBase ≤ a) && decide (a + n ≤ dramBase + reserveBytes s)

/-- Whether both area bases are set, aligned, inside the reserve and apart, so that counters count (R431). -/
def statOn (s : State) : Bool :=
  let a := rdW s Adr.obsStatBase 2
  let b := rdW s Adr.obsShadowBase 2
  a != 0 && b != 0 && a % 2 ^ 20 == 0 && b % 2 ^ 20 == 0 && inReserve s a statAreaBytes && inReserve s b statAreaBytes
    && !overlaps a statAreaBytes b statAreaBytes

/-- Key of a counter. -/
def statKey (scope i code : Nat) : Nat := (scope * 2 ^ 20 + i) * 16 + code
/-- The live count. -/
def statGet (s : State) (scope i code : Nat) : Nat := mget 0 s.stat.live (statKey scope i code)

/-- Counts n events; a counter wraps at 2^64 (R430, R434). -/
def stat (s : State) (scope i code n : Nat) : State :=
  if statOn s then
    let k := statKey scope i code
    let v := mget 0 s.stat.live k + n
    let w := if 2 ^ 64 ≤ v then addNew s.stat.wrapped k else s.stat.wrapped
    { s with stat := { s.stat with live := mset 0 s.stat.live k (v % 2 ^ 64), wrapped := w } }
  else s

/-! ## Pools -/

/-- Bodies of the running image's partition plan, memory carving and table carving. -/
def partPlan (s : State) : List Byte := imgBody s.img.running 3
def memPlan (s : State) : List Byte := imgBody s.img.running 4
def tabPlan (s : State) : List Byte := imgBody s.img.running 5

/-- A buffer handle (R340). -/
def mkHandle (pool i : Nat) : Nat := pool * 2 ^ 28 + i % 2 ^ 28
def handlePool (h : Nat) : Nat := h / 2 ^ 28 % 16
def handleIdx (h : Nat) : Nat := h % 2 ^ 28
/-- BUF of an item without a buffer. -/
def noBuf : Nat := 0xFFFFFFFF

/-- A pool. -/
def pool (s : State) (n : Nat) : PoolSt := mget {} s.buf.pools n
/-- Writes a pool. -/
def setPool (s : State) (n : Nat) (p : PoolSt) : State := { s with buf := { s.buf with pools := mset {} s.buf.pools n p } }
/-- Free handles of a pool, cache included. -/
def PoolSt.free (p : PoolSt) : Nat := (p.count - p.next) + p.ring.length + p.cache.length
/-- SIZE of a deep pool. -/
def poolSize (s : State) (n : Nat) : Nat := carveSize (memPlan s) (n - 1)

/-- Counts in BPM_CNT (R356). -/
def bpmCount (s : State) (code k : Nat) : State := cnt64 s (Adr.bpmCnt code) k

/-- The site of deep buffer i of pool n (R342). -/
def siteOf (s : State) (n i : Nat) : Nat :=
  let m := carveMask (memPlan s) (n - 1)
  ((List.range 4).filter (nbit m)).getD (i % max 1 (maskCount m)) 0
/-- Whether a handle's memory is lost (R355): the slice of a cell, the site of a deep buffer. -/
def memLost (s : State) (n i : Nat) : Bool :=
  if n = 0 ∨ n = 9 then decide (i % 16 ∈ s.buf.lostSlices) else decide (siteOf s n i ∈ s.buf.lostSites)

/-- How many of the handles from a up to b of pool n lie in lost memory. -/
def rangeLost (s : State) (n a b : Nat) : Nat :=
  let per := if n = 0 ∨ n = 9 then 16 else max 1 (maskCount (carveMask (memPlan s) (n - 1)))
  let upTo (x k : Nat) : Nat := (x + per - 1 - k) / per
  ((List.range per).filter (memLost s n)).foldl (fun c k => c + (upTo b k - upTo a k)) 0

/-- Free handles of a pool that are not lost. -/
def poolFreeNow (s : State) (n : Nat) : Nat := (pool s n).free - rangeLost s n (pool s n).next (pool s n).count

/-- Shows COUNT and FREE of a pool, less what is lost. -/
def showPool (s : State) (n : Nat) : State :=
  let p := pool s n
  let first := if n = 0 then carveCtrlCells (memPlan s) else 0
  wrW s (Adr.bpmPoolStat n) ((p.count - first - rangeLost s n first p.count) * 2 ^ 32 + poolFreeNow s n) 2

/-- Takes up to k handles from the front of a pool's ring: first those as filled, in ascending order, then those returned. -/
def ringTake (p : PoolSt) (k : Nat) : PoolSt :=
  let a := min k (p.count - p.next)
  let b := min (k - a) p.ring.length
  { p with next := p.next + a, ring := p.ring.drop b,
           cache := p.cache ++ (List.range a).map (p.next + ·) ++ p.ring.take b }

/-- Below 128 cached handles, 128 are read from the ring (R348). -/
def poolRefill (s : State) (n : Nat) : State :=
  let p := pool s n
  if p.cache.length < 128 ∧ (p.next < p.count ∨ p.ring ≠ []) then 
    let q := ringTake p 128
    pc (bpmCount (setPool s n { q with cache := q.cache.filter fun i => !memLost s n i }) 11 1) { code := 0x12, unit := some n }
  else s

/-- Above 384 cached handles, the last 128 are written to the ring. -/
def poolSpill (s : State) (n : Nat) : State :=
  let p := pool s n
  if 384 < p.cache.length then
    let k := p.cache.length - 128
    pc (bpmCount (setPool s n { p with cache := p.cache.take k, ring := p.ring ++ p.cache.drop k }) 11 1)
      { code := 0x12, unit := some n }
  else s

/-- Allocates one handle of a pool: the first of the cache (R348). -/
def poolAlloc (s : State) (n : Nat) : Option (Nat × State) :=
  match (pool s n).cache with
  | [] => none
  | h :: t =>
    let s := setPool s n { pool s n with cache := t }
    some (h, showPool (poolRefill s n) n)

/-- Returns one handle to a pool; handles of lost memory are discarded (R355). -/
def poolFree (s : State) (n i : Nat) : State :=
  if memLost s n i then s
  else showPool (poolSpill (setPool s n { pool s n with cache := (pool s n).cache ++ [i] }) n) n

/-- Fills the pools at P4 (R348): every buffer in ascending index, every descriptor FREE, the caches read. Pool 9 takes
cells 0 to CTRL_POOL_CELLS - 1, pool 0 the others (R339). -/
def poolsInit (s : State) : State :=
  let b := memPlan s
  let ctrl := carveCtrlCells b
  let s := { s with buf := {} }
  let s := setPool s 0 { count := cellTotal, next := ctrl }
  let s := (List.range 8).foldl (fun s i => setPool s (i + 1) { count := carveCount b i }) s
  let s := setPool s 9 { count := ctrl }
  (List.range 10).foldl (fun s n => showPool (poolRefill s n) n) s

/-- The device address of pool n's region on site m: the sites' regions follow the reserve, site by site, pool by pool
(R342; assumption log 13). -/
def poolBase (s : State) (n m : Nat) : Nat :=
  let b := memPlan s
  if nbit (carveMask b (n - 1)) m then
    dramBase + reserveBytes s + (List.range m).foldl (fun k j => k + carveSite b j) 0
      + (List.range (n - 1)).foldl (fun k i => k + carveRegion b i m) 0
  else 0

/-- Reports the bases at P4. -/
def poolBases (s : State) : State :=
  (List.range 8).foldl (fun s i => (List.range 4).foldl (fun s m =>
    wrW s (Adr.bpmPoolBase (i + 1) m) (poolBase s (i + 1) m) 2) s) s

/-! ## Descriptors and holders -/

/-- Descriptor of a handle, none when FREE. -/
def descOf (s : State) (h : Nat) : Option BufDesc := (s.buf.desc.find? (·.1 = h)).map (·.2)
/-- Writes a descriptor. -/
def setDesc (s : State) (h : Nat) (d : BufDesc) : State := { s with buf := { s.buf with desc := mput s.buf.desc h d } }
/-- The 64-bit descriptor of R343. -/
def descWord (d : Option BufDesc) : Nat :=
  match d with
  | none => 0
  | some d =>
    let n := d.names.length
    let st := if d.lost then 3 else if n ≤ 1 then 1 else 2
    let nm := d.names.getD 0 0
    st * 2 ^ 62 + d.len % 2 ^ 14 * 2 ^ 48 + n % 4096 * 2 ^ 36 + d.part % 64 * 2 ^ 30
      + (if n = 1 then nfld nm 30 28 * 2 ^ 27 + nm % 2 ^ 20 else 0)

/-- Holder names (R344). -/
def holderQueue (qid : Nat) : Nat := 1 * 2 ^ 28 + qid % 2 ^ 20
def holderUplink (port tc : Nat) : Nat := 2 * 2 ^ 28 + (tc % 8) * 256 + port % 256
def holderRing (i : Nat) : Nat := 3 * 2 ^ 28 + i % 64
def holderDma (d : Nat) : Nat := 4 * 2 ^ 28 + d % 32
def holderCtrl : Nat := 5 * 2 ^ 28

/-- Holder blocks in use: one per 15 names of each SHARED buffer (R345). -/
def holderBlocks (s : State) : Nat :=
  s.buf.desc.foldl (fun n p => n + if 1 < p.2.names.length then ceilDiv p.2.names.length 15 else 0) 0

/-- Removes one occurrence of a name. -/
def dropName (l : List Nat) (n : Nat) : List Nat := l.erase n

/-- Charges and uncharges a partition, and shows BPM_PART_USE. -/
def addUse (s : State) (p cells deep : Nat) : State :=
  { s with buf := { s.buf with useCells := mset 0 s.buf.useCells p (mget 0 s.buf.useCells p + cells),
                               useDeep := mset 0 s.buf.useDeep p (mget 0 s.buf.useDeep p + deep) } }
def subUse (s : State) (p cells deep : Nat) : State :=
  { s with buf := { s.buf with useCells := mset 0 s.buf.useCells p (mget 0 s.buf.useCells p - cells),
                               useDeep := mset 0 s.buf.useDeep p (mget 0 s.buf.useDeep p - deep) } }
def showUse (s : State) (p : Nat) : State :=
  wrW s (Adr.bpmPartUse p) (ceilDiv (mget 0 s.buf.useDeep p) (2 ^ 20) * 2 ^ 32 + mget 0 s.buf.useCells p) 2

/-- A buffer returns to its pool, all its cells included. -/
def bufReturn (s : State) (h : Nat) (d : BufDesc) : State :=
  let n := handlePool h
  let s := { s with buf := { s.buf with desc := mdel s.buf.desc h } }
  if n = 0 ∨ n = 9 then
    let s := d.cells.foldl (fun s c => poolFree s n c) s
    showUse (subUse s d.part (if n = 0 then d.cells.length else 0) 0) d.part
  else showUse (subUse (poolFree s n (handleIdx h)) d.part 0 (poolSize s n)) d.part

/-- Results of a free (BPM_FREE_STAT). -/
inductive FreeRes
  | ok (shares : Nat)
  | notHolder (shares : Nat)
  | doubleFree
  | lost
  | outOfRange
  deriving DecidableEq, Repr

def FreeRes.code : FreeRes → Nat
  | .ok _ => 0 | .notHolder _ => 1 | .doubleFree => 2 | .lost => 3 | .outOfRange => 4
def FreeRes.shares : FreeRes → Nat
  | .ok n => n | .notHolder n => n | _ => 0

/-- A refused free is logged with its name, handle and requester's island, raises its event and counts (R346). -/
def freeFault (s : State) (h name isl kind bit cnt code : Nat) : State :=
  let s := wrW s Adr.bpmFaultLog (name % 2 ^ 32 * 2 ^ 32 + h % 2 ^ 32) 2
  let s := wr s Adr.bpmFaultSrc (BitVec.ofNat 32 (kind * 2 ^ 28 + isl % 512))
  evBit (bpmCount s cnt 1) Adr.bpmEvent bit 304 .corrected code

/-- Whether a handle names a buffer of a pool (R340). -/
def handleOk (s : State) (h : Nat) : Bool :=
  let n := handlePool h
  decide (n ≤ 9) && decide (handleIdx h < if n = 0 ∨ n = 9 then cellTotal else (pool s n).count)

/-- A free of a handle by a named holder, from an island (R346). -/
def bufFree (s : State) (h name isl : Nat) : State × FreeRes :=
  if !handleOk s h then (s, .outOfRange)
  else match descOf s h with
  | none => (freeFault s h name isl 1 0 7 0x0A00, .doubleFree)
  | some d =>
    if d.lost then (bpmCount s 9 1, .lost)
    else if name ∈ d.names then
      let rest := dropName d.names name
      if rest = [] then (bufReturn s h d, .ok 0) else (setDesc s h { d with names := rest }, .ok rest.length)
    else (freeFault s h name isl 2 1 8 0x0A01, .notHolder d.names.length)

/-- A write of BPM_FREE by the physical function on behalf of a holder (R346): the result stands in the requester's
BPM_FREE_STAT. -/
def bpmFreeWrite (s : State) (who : Requester) (h name : Nat) : State :=
  if islDown s (islandOf Adr.bpmFree) then wrDown s who Adr.bpmFree
  else if isPfSide s who = false then wrRefuse s who Adr.bpmFree .notAuthorized
  else
    let (s, r) := bufFree s h name 340
    let s := wrReq s who Adr.bpmFreeStat (BitVec.ofNat 32 (r.code * 2 ^ 28 + r.shares % 4096))
    match r with
    | .ok _ => wrOk s who (Adr.bpmFree + 4)
    | .outOfRange => wrRefuse s who (Adr.bpmFree + 4) .outOfRange
    | _ => wrRefuse s who (Adr.bpmFree + 4) .unitRefused

/-! ## Placement (R349 to R351) -/

/-- Cells of a frame. -/
def cellsFor (len : Nat) : Nat := ceilDiv (max 1 len) 256

/-- Guarantees of a partition in cells and deep bytes; those of disabled partitions count as 0 (R58). -/
def guarCells (s : State) (p : Nat) : Nat := if partEn (partPlan s) p then partCells (partPlan s) p else 0
def guarDeep (s : State) (p : Nat) : Nat := if partEn (partPlan s) p then partDeepMib (partPlan s) p * 2 ^ 20 else 0

/-- Space held back for the unmet guarantees. -/
def unmet (s : State) (deep : Bool) : Nat :=
  (List.range 64).foldl (fun n q =>
    n + if deep then guarDeep s q - mget 0 s.buf.useDeep q else guarCells s q - mget 0 s.buf.useCells q) 0
/-- Free deep bytes of pools 1 to 8. -/
def freeDeep (s : State) : Nat :=
  (List.range 8).foldl (fun n i => n + poolFreeNow s (i + 1) * poolSize s (i + 1)) 0

/-- The floor of a colour (0 green, 1 yellow, 2 red) for a home, in cells or bytes (R351). -/
def floorOf (s : State) (deep : Bool) (colour : Nat) : Nat :=
  let v := rdW s Adr.bpmAdmCfg 2
  if colour = 0 then 0
  else if deep then (if colour = 1 then nfld v 47 32 else nfld v 63 48) * 2 ^ 20
  else if colour = 1 then nfld v 15 0 else nfld v 31 16

/-- Admission of a cost into a home (R351): within the guarantee, or leaving the colour's floor of borrowable space. -/
def mayPlace (s : State) (p : Nat) (deep : Bool) (colour cost : Nat) : Bool :=
  let u := if deep then mget 0 s.buf.useDeep p else mget 0 s.buf.useCells p
  let g := if deep then guarDeep s p else guarCells s p
  let f := if deep then freeDeep s else poolFreeNow s 0
  decide (cost ≤ f) && (decide (u + cost ≤ g) || decide (unmet s deep + cost + floorOf s deep colour ≤ f))

/-- The lowest deep pool that fits, and the lowest that fits and has a free buffer (R350). -/
def deepPool (s : State) (len : Nat) : Option (Nat × Nat) :=
  let fits := (List.range 8).filter fun i => decide (len ≤ poolSize s (i + 1)) && decide (0 < carveCount (memPlan s) i)
  match fits, fits.find? fun i => decide (0 < poolFreeNow s (i + 1)) with
  | lo :: _, some i => some (lo + 1, i + 1)
  | _, _ => none

/-- The colour code of a Clause DP: 0 green, 1 yellow, 2 and 3 red (R201, R211). -/
def colourOf (dp : Nat) : Nat := min 2 (dp % 4)

/-- Takes n cells of a pool one at a time (R341). -/
def takeCells (s : State) (pl : Nat) : Nat → List Nat → Option (List Nat × State)
  | 0, acc => some (acc.reverse, s)
  | n + 1, acc =>
    match poolAlloc s pl with
    | some (c, s) => takeCells s pl n (c :: acc)
    | none => none

/-- Places a frame in cells of a pool: its handle is its first cell's. -/
def placeCells (s : State) (pl part len : Nat) (names : List Nat) : Option (Nat × State) :=
  match takeCells s pl (cellsFor len) [] with
  | some (cs, s) =>
    let h := mkHandle pl (cs.getD 0 0)
    let s := setDesc s h { len := len, part := part, names := names, cells := cs }
    let s := showUse (addUse s part (if pl = 0 then cs.length else 0) 0) part
    some (h, bpmCount s (if pl = 0 then 0 else 2) 1)
  | none => none

/-- Places a frame in a deep pool; the sites whose write queues hold 256 KiB or more are given (R351). -/
def placeDeep (s : State) (part len colour : Nat) (names : List Nat) (busySites : Nat) : Option (Nat × State) × State :=
  match deepPool s len with
  | none => (none, s)
  | some (lo, n) =>
    if !mayPlace s part true colour (poolSize s n) then (none, s)
    else if nbit busySites (siteOf s n ((pool s n).cache.getD 0 0)) then (none, bpmCount s 6 1)
    else match poolAlloc s n with
      | none => (none, s)
      | some (i, s') =>
        let h := mkHandle n i
        let s' := setDesc s' h { len := len, part := part, names := names }
        let s' := showUse (addUse s' part 0 (poolSize s n)) part
        let s' := bpmCount s' 1 1
        (some (h, if lo = n then s' else bpmCount s' 5 1), s)

/-- The homes in the order R350 tries them: true is deep. -/
def homeOrder (s : State) (part len cellBytes : Nat) : List Bool :=
  let w := rd s (Adr.bpmHomeCfg part)
  let largest := (List.range 8).foldl (fun m i => if 0 < carveCount (memPlan s) i then max m (poolSize s (i + 1)) else m) 0
  let deepOk := w.toNat.testBit 31 && decide (len ≤ largest)
  if deepOk then (if cellBytes + 256 * cellsFor len > fld w 15 0 * 1024 then [true, false] else [false, true])
  else [false]

/-- Tries the homes in order. -/
def tryHomes (part len colour : Nat) (names : List Nat) (busySites : Nat) : List Bool → State → Option Nat × State
  | [], s => (none, s)
  | true :: rest, s =>
    match placeDeep s part len colour names busySites with
    | (some (h, s'), _) => (some h, s')
    | (none, s') => tryHomes part len colour names busySites rest s'
  | false :: rest, s =>
    if mayPlace s part false colour (cellsFor len) then
      match placeCells s 0 part len names with
      | some (h, s') => (some h, s')
      | none => tryHomes part len colour names busySites rest s
    else tryHomes part len colour names busySites rest s

/-- The names that fit a buffer: at most 4,095, and within the holder store; the copies beyond are not made and count in
HOLDER_FULL (R345). -/
def fitNames (s : State) (names : List Nat) : List Nat × State :=
  let room := (65536 - holderBlocks s) * 15
  let k := min 4095 (if names.length ≤ 1 then 1 else max 1 room)
  let lost := names.length - min k names.length
  (names.take k, if lost = 0 then s
    else evBit (bpmCount s 10 lost) Adr.bpmEvent 3 304 .corrected 0x0A03)

/-- Kinds served by pool 9 (R339). -/
def ctrlKind (k : Nat) : Bool := k == 1 || k == 5 || k == 6 || k == 7

/-- Places a frame of a kind for holders that have admitted it: its handle, or none when it is dropped (R349, R350).
cellBytes is what the queue's frames hold in cells. -/
def placeFrame (s : State) (kind part len colour cellBytes : Nat) (names : List Nat) (busySites : Nat) :
    Option Nat × State :=
  if ctrlKind kind then
    match placeCells s 9 part len names with
    | some (h, s') => (some h, s')
    | none => (none, evBit (bpmCount s 4 1) Adr.bpmEvent 2 304 .corrected 0x0A02)
  else
    match tryHomes part len colour names busySites (homeOrder s part len cellBytes) s with
    | (some h, s') => (some h, s')
    | (none, s') => (none, bpmCount s' 3 1)

/-- A frame for host receive ring r takes a buffer in that ring's name (R344, R349, R350), or is dropped; an injected tracer
takes none (R437). -/
def toRing (s : State) (r : Nat) (f : Frame) (busySites : Nat) : State :=
  let put (s : State) (f : Frame) : State := { s with flow := { s.flow with toHost := s.flow.toHost ++ [(r % 64, f)] } }
  if f.cl.kind = ClauseKind.tracer.code then put s f
  else match placeFrame s f.cl.kind f.cl.part f.data.length (colourOf f.cl.dp) 0 [holderRing r] busySites with
    | (some h, s) => put s { f with cl := { f.cl with buf := h } }
    | (none, s) => s

/-! ## Losses (R355) -/

/-- The handles of a pool whose memory is lost leave its cache and ring, and COUNT and FREE fall. -/
def poolLose (s : State) (n : Nat) : State :=
  let p := pool s n
  let keep (i : Nat) : Bool := !memLost s n i
  showPool (setPool s n { p with cache := p.cache.filter keep, ring := p.ring.filter keep }) n

/-- A buffer slice is lost: its cells leave pools 0 and 9. -/
def sliceLost (s : State) (k : Nat) : State :=
  poolLose (poolLose { s with buf := { s.buf with lostSlices := addNew s.buf.lostSlices k } } 0) 9

/-- A DRAM controller is lost: its site's buffers leave their pools, and the descriptors there read LOST. -/
def siteLost (s : State) (m : Nat) : State :=
  let s := { s with buf := { s.buf with lostSites := addNew s.buf.lostSites m } }
  let d := s.buf.desc.map fun p =>
    let n := handlePool p.1
    if 1 ≤ n ∧ n ≤ 8 ∧ siteOf s n (handleIdx p.1) = m then (p.1, { p.2 with lost := true }) else p
  let s := { s with buf := { s.buf with desc := d } }
  (List.range 8).foldl (fun s i => poolLose s (i + 1)) s

/-- Whether a frame's buffer lies in lost memory, so that it is discarded at the head of its queue. -/
def bufLost (s : State) (h : Nat) : Bool :=
  match descOf s h with
  | some d => d.lost || d.cells.any fun c => memLost s (handlePool h) c
  | none => false

/-- BUFFER_FREE (R346): a holder frees a handle; the requester's island is given. -/
def execBufferFree (h name island : Nat) (s : State) : Host.Outcome State Fault Refusal := .next (bufFree s h name island).1
/-- BPM_FREE_WRITE (R346). -/
def execBpmFreeWrite (who : Requester) (h name : Nat) (s : State) : Host.Outcome State Fault Refusal :=
  .next (bpmFreeWrite s who h name)

end Sys2Proof.Machine
end

