-- ==== Sys2Proof/Machine/Observe.lean ====
section
/-! DEFINITION. Observation (R430 to R442): rings in DRAM, statistics as the live and shadow areas show them, snapshots,
tracer records, and the fault injectors' treatment of one unit. -/
namespace Sys2Proof.Machine

/-! ## Rings in DRAM (R225, R318, R438) -/

/-- Puts a record of 16 bytes into a ring of 2^log2 records, whose index register holds WR in bits 55:32 and RD in bits
23:0; none when the ring is full, one slot staying free, or does not lie in the deep reserve. -/
def dramRingPut (s : State) (base log2 idx : Nat) (bytes : List Byte) : Option State :=
  let n := 2 ^ log2
  let w := rfW s idx 2 55 32 % n
  let r := rfW s idx 2 23 0 % n
  if (w + n - r) % n = n - 1 ∨ inReserve s base (16 * n) = false then none
  else
    let s := { s with dram := mputBytes 0 s.dram (base + 16 * w) (bytes.take 16) }
    some (wfW s idx 2 55 32 ((w + 1) % n))

/-! ## Statistics areas (R431, R434) -/

/-- First byte and records of a scope's part of an area. -/
def scopeOfs (scope : Nat) : Nat × Nat :=
  match scope with
  | 0 => (0x0000000, 1048576) | 1 => (0x8000000, 524288) | 2 => (0xC000000, 32768) | 3 => (0xC400000, 1048576)
  | 4 => (0x14400000, 256) | 5 => (0x14408000, 256) | 6 => (0x14410000, 32768) | _ => (0, 0)

/-- Units of a scope. -/
def scopeUnits (scope : Nat) : Nat := (scopeOfs scope).2
/-- Units of a scope that the part has: half of the QIDs, AIDs, TIDs, channels and lanes on a CS6432 (R7). -/
def scopeUnitsOn (s : State) (scope : Nat) : Nat :=
  if s.boot.fuse6432 && scope != 3 && scope != 6 then scopeUnits scope / 2 else scopeUnits scope

/-- Word 15 of a unit's shadow record: SNAP_SEQ, and which counters wrapped between the last two snapshots. -/
def shadowHeader (s : State) (scope i : Nat) : Nat :=
  s.stat.shadowSeq * 2 ^ 32
    + (List.range 15).foldl (fun w j => if statKey scope i j ∈ s.stat.shadowWrapped then w + 2 ^ j else w) 0

/-- A counter, live or shadow, as OBS_STAT_DATA reads it. -/
def statRead (s : State) (shadow : Bool) (scope i code : Nat) : Nat :=
  if shadow then
    if code = 15 then shadowHeader s scope i else mget 0 s.stat.shadow (statKey scope i code)
  else if code = 15 then 0 else statGet s scope i code

/-- The counter that an offset into an area lies in, with the byte within it. -/
def statLocate (ofs : Nat) : Option (Nat × Nat × Nat × Nat) :=
  ((List.range 7).find? fun sc => decide ((scopeOfs sc).1 ≤ ofs ∧ ofs < (scopeOfs sc).1 + 128 * scopeUnits sc)).map fun sc =>
    let o := ofs - (scopeOfs sc).1
    (sc, o / 128, o % 128 / 8, o % 8)

/-- A byte of DRAM as a device reads it: the counters where the statistics areas lie, else what was written. -/
def dramByte (s : State) (a : Nat) : Byte :=
  let live := rdW s Adr.obsStatBase 2
  let shad := rdW s Adr.obsShadowBase 2
  let at_ (sh : Bool) (o : Nat) : Byte := match statLocate o with
    | some (sc, i, code, b) => BitVec.ofNat 8 (statRead s sh sc i code / 256 ^ b)
    | none => mget 0 s.dram a
  if statOn s ∧ live ≤ a ∧ a < live + statAreaBytes then at_ false (a - live)
  else if statOn s ∧ shad ≤ a ∧ a < shad + statAreaBytes then at_ true (a - shad)
  else mget 0 s.dram a

/-- The count of a record's counter with one byte of it replaced. -/
def putByteOf (v b : Nat) (x : Byte) : Nat := putNfld v (8 * b + 7) (8 * b) x.toNat

/-- A device's write of a byte of DRAM. -/
def dramPut (s : State) (a : Nat) (x : Byte) : State :=
  let live := rdW s Adr.obsStatBase 2
  let shad := rdW s Adr.obsShadowBase 2
  if statOn s ∧ live ≤ a ∧ a < live + statAreaBytes then
    match statLocate (a - live) with
    | some (sc, i, code, b) =>
      let k := statKey sc i code
      { s with stat := { s.stat with live := mset 0 s.stat.live k (putByteOf (mget 0 s.stat.live k) b x) } }
    | none => { s with dram := mset 0 s.dram a x }
  else if statOn s ∧ shad ≤ a ∧ a < shad + statAreaBytes then
    match statLocate (a - shad) with
    | some (sc, i, code, b) =>
      let k := statKey sc i code
      { s with stat := { s.stat with shadow := mset 0 s.stat.shadow k (putByteOf (mget 0 s.stat.shadow k) b x) } }
    | none => { s with dram := mset 0 s.dram a x }
  else { s with dram := mset 0 s.dram a x }

/-! ## Snapshots (R434, R435) -/

/-- The device's instant in ns at an offset into the cycle under way. -/
def devNs (s : State) (ofs : Nat) : Nat := cycleNow s * 15625 + ofs

/-- The performance shadows take the values of their counters. -/
def pcShadow (s : State) : State :=
  let vals := s.regs.filter fun p => Adr.obsPcVal 0 ≤ p.1 ∧ p.1 < Adr.obsPcSel 256 ∧ 8 ≤ (p.1 - Adr.obsPcSel 0) % 0x20
    ∧ (p.1 - Adr.obsPcSel 0) % 0x20 < 16
  let s := { s with regs := s.regs.filter fun p => ¬ (Adr.obsPcShadow 0 ≤ p.1 ∧ p.1 < Adr.obsPcShadow 256) }
  vals.foldl (fun s p =>
    wr s (Adr.obsPcShadow ((p.1 - Adr.obsPcSel 0) / 0x20) + (p.1 - Adr.obsPcSel 0) % 0x20 - 8) p.2) s

/-- Whether an instant ofs ns after the cycle start lies within 1 us of the last snapshot's F: BUSY of OBS_SNAP_STAT (R435). -/
def snapBusy (s : State) (ofs : Nat) : Bool := s.obs.snapAt != 0 && decide (devNs s ofs < s.obs.snapAt + 999)

/-- A snapshot request ofs ns after the cycle start: refused while LOCK = 1 or while the areas are not set, joined within
1 us of F, else taken (R431, R434, R435). Tells whether it was refused. -/
def snapshot (s : State) (ofs : Nat) : State × Bool :=
  if rb s Adr.obsSnapCtl 29 || !statOn s then
    (evBit (satF s Adr.obsSnapStat 30 24 1) Adr.obsEvent 1 336 .corrected 0x1001, true)
  else if snapBusy s ofs then (s, false)
  else
    let seq := (rf s Adr.obsSnapStat 23 0 + 1) % 2 ^ 24
    let s := wf s Adr.obsSnapStat 23 0 seq
    let s := wrW s Adr.obsSnapTime (ticksTime (baseAt s 0 ofs) * 2 ^ 32) 4
    let s := { s with
      stat := { s.stat with shadow := s.stat.live, shadowSeq := seq, shadowWrapped := s.stat.wrapped, wrapped := [] }
      obs := { s.obs with snapAt := devNs s ofs + 1 } }
    (pcShadow s, false)

/-- A write of OBS_SNAP_CTL (R434 to R436): FREEZE and LOCK take the values written, and SNAPSHOT requests a snapshot under
the LOCK that stood before. -/
def snapCtlWrite (s : State) (who : Requester) (v : Word) (ofs : Nat) : State :=
  if islDown s 336 then wrDown s who Adr.obsSnapCtl
  else if !isPfSide s who then wrRefuse s who Adr.obsSnapCtl .notAuthorized
  else
    let (s, bad) := if fld v 31 31 = 1 then snapshot s ofs else (s, false)
    let s := wf (wf s Adr.obsSnapCtl 30 30 (fld v 30 30)) Adr.obsSnapCtl 29 29 (fld v 29 29)
    if bad then wrRefuse s who Adr.obsSnapCtl .busy else wrOk s who Adr.obsSnapCtl

/-! ## Performance counter writes (R432, R433) -/

/-- Filters an event takes: PRIV, MASTER, TC, RGN, and whether UNIT picks an instance; none for an unlisted code. -/
def pcFilters (ev : Nat) : Option (Bool × Bool × Bool × Bool) :=
  match ev with
  | 0x00 | 0x01 => some (false, false, false, false)
  | 0x02 | 0x03 | 0x04 => some (true, true, false, true)
  | 0x05 => some (false, true, false, true)
  | 0x06 | 0x07 => some (false, true, false, false)
  | 0x08 => some (false, false, true, false)
  | 0x09 | 0x0A | 0x0B => some (false, false, false, false)
  | 0x0C | 0x0D => some (false, false, true, false)
  | 0x0E | 0x0F => some (false, false, false, true)
  | 0x10 | 0x11 | 0x12 => some (false, false, false, false)
  | 0x13 => some (false, true, false, false)
  | 0x14 => some (false, false, false, false)
  | _ => none

/-- Whether a selection is accepted: a listed event, and every filter it does not take at its "any" value (R432). -/
def pcSelOk (v : Nat) : Bool :=
  match pcFilters (nfld v 61 56) with
  | none => false
  | some (p, m, t, r) =>
    (p || nfld v 47 45 == 7) && (m || nfld v 44 43 == 0) && (t || nfld v 35 28 == 0xFF) && (r || !nbit v 27)

/-- A write of the high word of OBS_PC_VAL commits VALUE and OVF (R433). -/
def pcValWrite (s : State) (who : Requester) (n v : Nat) : State :=
  if islDown s 336 then wrDown s who (Adr.obsPcVal n)
  else if !isPfSide s who then wrRefuse s who (Adr.obsPcVal n) .notAuthorized
  else wrOk (wrW s (Adr.obsPcVal n) (putNfld v 62 48 0) 2) who (Adr.obsPcVal n)

/-! ## Tracer records (R437, R438) -/

/-- Whether a Clause belongs to a tracer: a packet tagged at the parser, or an injected item. -/
def traced (cl : Clause) : Bool := nbit cl.trace 7

/-- Stages of a trace record. -/
def stParse : Nat := 1
def stClassify : Nat := 2
def stForward : Nat := 3
def stEnqueue : Nat := 4
def stSelect : Nat := 5
def stTransmit : Nat := 6
def stDrop : Nat := 15

/-- The nanosecond count of time base 0 at an instant of the cycle under way that no operand gives: which one is a free value. -/
def instantNs (s : State) : Nat := baseAt s 0 (freeVal s % 15625) / 65536
/-- Trace records that the device writes in a cycle at most: 200 million a second (R438). -/
def traceRate : Nat := 3125
/-- Takes one record's share of the cycle's rate; none when the cycle has written all it may (R438). -/
def traceRoom (s : State) : Option State :=
  let n := if s.obs.traceCycle = cycleNow s then s.obs.traceCount else 0
  if traceRate ≤ n then none
  else some { s with obs := { s.obs with traceCycle := cycleNow s, traceCount := n + 1 } }

/-- Writes a record of a tracer, or counts it lost, beyond the rate or in a full ring; other items write nothing. -/
def trace (s : State) (cl : Clause) (stage isl arg aux : Nat) : State :=
  if !traced cl then s
  else
    let time := instantNs s
    let s := nextFree s
    let r := (((((((stage % 16 * 2 + b2n s.obs.traceLost) * 128 + cl.trace % 128) * 512 + isl % 512) * 4) * 2
      + b2n (cl.kind == ClauseKind.tracer.code)) * 2 ^ 40 + time % 2 ^ 40) * 2 ^ 32 + arg % 2 ^ 32) * 2 ^ 32
      + aux % 2 ^ 32
    let ring := rdW s Adr.obsTraceRing 2
    match (traceRoom s).bind fun s =>
      dramRingPut s (nfld ring 47 0) (clamp 10 24 (nfld ring 63 59)) Adr.obsTraceIdx (bytesBE 16 r) with
    | some s => { s with obs := { s.obs with traceLost := false } }
    | none =>
      let s := evBit (satF s Adr.obsTraceStat 15 0 1) Adr.obsEvent 2 336 .corrected 0x1002
      { s with obs := { s.obs with traceLost := true } }

/-- The record of a dropped tracer: the counter code that counted the drop, its scope and unit. -/
def traceDrop (s : State) (cl : Clause) (isl code scope unit : Nat) : State :=
  trace s cl stDrop isl code (scope * 2 ^ 28 + unit % 2 ^ 20)

/-! ## Injector writes (R441) -/

/-- Arms or disarms by a write of FI_CFG (R441): the operations a link takes are given. Held units stay for release. -/
def fiCfgWrite (s : State) (who : Requester) (cfg v : Nat) (ops : Nat) : State :=
  if !isPfSide s who then wrRefuse s who cfg .notAuthorized
  else if fiLocked s then wrRefuse s who cfg .notAuthorized
  else if ops < nfld v 126 124 then wrRefuse s who cfg .outOfRange
  else
    let v := putNfld (putNfld (putNfld v 122 112 0) 31 0 0) 71 64 (max 1 (nfld v 71 64))
    let s := fiDisarm (wrW s cfg v 4) cfg
    let s := if nbit v 127 && rb s Adr.obsFiGlobal 31 then
        let n := nfld v 95 72
        wb (setFi s cfg { fiOf s cfg with skip := nfld v 111 96, left := if n = 0 then none else some n })
          (fiStat cfg) 0 true
      else s
    wrOk s who cfg

end Sys2Proof.Machine
end

