-- ==== Sys2Proof/Machine/Terms.lean ====
section
/-! DEFINITION. Terminals: their state registers (R153) and their identity and ranging words (TRE_TERM_INFO). -/
namespace Sys2Proof.Machine

/-- STATE codes of TRE_TERM (R153). -/
def tsFree : Nat := 0
def tsAuthWait : Nat := 1
def tsRanging : Nat := 2
def tsKeying : Nat := 3
def tsActive : Nat := 4
def tsLost : Nat := 5
def tsDisabled : Nat := 6
def tsOffline : Nat := 7
def tsTransit : Nat := 8

/-- The state register of a terminal. -/
def termAddr (tid : Nat) : Nat := Adr.treTerm (treeOfTid tid) (slotOfTid tid)
/-- STATE of a terminal, as the register reads. -/
def termSt (s : State) (tid : Nat) : Nat := uState s (termAddr tid)
/-- The state a terminal acts on (R26). -/
def termEff (s : State) (tid : Nat) : Nat := effState s (termAddr tid)
/-- The information words of a terminal. -/
def infoAddr (tid : Nat) : Nat := Adr.treTermInfo (treeOfTid tid) (slotOfTid tid)
def termSerial (s : State) (tid : Nat) : Nat := rfW s (infoAddr tid) 4 127 64
def termEqd (s : State) (tid : Nat) : Nat := rfW s (infoAddr tid) 4 63 37
def termW (s : State) (tid : Nat) : Nat := rfW s (infoAddr tid) 4 36 35
def termPart (s : State) (tid : Nat) : Nat := rfW s (infoAddr tid) 4 34 29
def termCaps (s : State) (tid : Nat) : Nat := rfW s (infoAddr tid) 4 28 25
def termSh (s : State) (tid : Nat) : Nat := rfW s (infoAddr tid) 4 15 0
def setInfo (s : State) (tid hi lo v : Nat) : State := wfW s (infoAddr tid) 4 hi lo v
/-- The channel a terminal works on. -/
def termChan (s : State) (tid : Nat) : Nat := chanOf (treeOfTid tid) (termW s tid)

/-- TIDs of a tree that exist under its SPLIT limit. -/
def treeTids (s : State) (t : Nat) : List Nat := (List.range (slotLimit s t)).map (tidOf t)
/-- TIDs of a tree whose state register has been written: those that can be other than FREE. -/
def usedTids (s : State) (t : Nat) : List Nat :=
  ((s.regs.filter fun p => Adr.treTerm t 0 ≤ p.1 ∧ p.1 < Adr.treTerm t 512).map fun p => tidOf t ((p.1 - Adr.treTerm t 0) / 4))
    ++ ((s.unit.pend.filter fun p => Adr.treTerm t 0 ≤ p.1 ∧ p.1 < Adr.treTerm t 512).map fun p =>
      tidOf t ((p.1 - Adr.treTerm t 0) / 4)) |>.dedup
/-- All used TIDs. -/
def allTids (s : State) : List Nat := (List.range 64).flatMap (usedTids s)
/-- Used terminals working on a channel. -/
def chanTids (s : State) (c : Nat) : List Nat := (usedTids s (c / 4)).filter fun tid => termW s tid == c % 4

/-- Whether function f of a tree is at the basic level: firmware owns it (R42). -/
def basic (s : State) (f t : Nat) : Bool := owner s f t == 0

/-- Posts the notification of a terminal's transition: tree, slot, state, detail, epoch, wavelength, serial (R154, R396). -/
def termNotify (s : State) (tid : Nat) : State :=
  let a := termAddr tid
  ntfPart s (termPart s tid) ntfTermState
    (bytesLE 1 (treeOfTid tid) ++ bytesLE 1 (termW s tid) ++ bytesLE 2 (slotOfTid tid) ++ bytesLE 1 (effState s a)
      ++ bytesLE 1 (uDetail s a) ++ bytesLE 1 (uEpoch s a) ++ bytesLE 1 0 ++ bytesLE 8 (termSerial s tid))

end Sys2Proof.Machine
end

