-- ==== Sys2Proof/Machine/Queues.lean ====
section
/-! DEFINITION. Queues: their table entries (R199), their depth in charged bytes (R203), and flushing (R200, R202). -/
namespace Sys2Proof.Machine

/-- Table addresses by TBLW codes (R386). -/
def dsQueueAt (qid : Nat) : Nat := entAddr 0x12 32 qid
def dsTermAt (tid : Nat) : Nat := entAddr 0x13 16 tid
/-- The DS_QUEUE and DS_TERM entries. -/
def dsQueue (s : State) (qid : Nat) : Nat := rdT s (dsQueueAt qid) 8
def dsTerm (s : State) (tid : Nat) : Nat := rdT s (dsTermAt tid) 4
def qValid (v : Nat) : Bool := nbit v 255
def qTid (v : Nat) : Nat := nfld v 254 240
def qGate (v : Nat) : Nat := nfld v 239 237
def qPrio (v : Nat) : Nat := nfld v 131 129
def qLenAdj (v : Nat) : Int := signed 6 (nfld v 119 114)
/-- The limit of a colour in bytes: 0 green, 1 yellow, 2 red (R201). -/
def qLimit (v colour : Nat) : Nat :=
  1024 * (if colour = 0 then nfld v 113 96 else if colour = 1 then nfld v 95 78 else nfld v 77 60)

/-- Queue keys: a QID, or an uplink port's egress queue. -/
def uplKey (port tc : Nat) : Nat := 2 ^ 20 + port * 8 + tc % 8
/-- The frames of a queue, head first. -/
def qFrames (s : State) (k : Nat) : List QFrame := mget [] s.sched.queues k
def setQueue (s : State) (k : Nat) (l : List QFrame) : State :=
  { s with sched := { s.sched with queues := mset [] s.sched.queues k l, waits := mset 0 s.sched.waits k 0 } }
/-- Appends a frame. -/
def qPush (s : State) (k : Nat) (f : QFrame) : State :=
  { s with sched := { s.sched with queues := mset [] s.sched.queues k (qFrames s k ++ [f]) } }
/-- Takes the head frame off. -/
def qPop (s : State) (k : Nat) : State :=
  { setQueue s k ((qFrames s k).drop 1) with sched := { (setQueue s k ((qFrames s k).drop 1)).sched with
      staged := s.sched.staged.filter (· ≠ k) } }

/-- The charged length of a frame of len client bytes and a tag, in a queue of entry v (R203). -/
def chargedWith (v len tag : Nat) : Nat := ((8 + len + tag : Nat) + qLenAdj v).toNat.max 1

/-- Client frame length of a queued frame. -/
def QFrame.len (f : QFrame) : Nat := f.cl.len

/-- Cell bytes a queue's frames hold (R350). -/
def qCellBytes (s : State) (k : Nat) : Nat :=
  (qFrames s k).foldl (fun n f => n + if handlePool f.cl.buf = 0 then 256 * cellsFor f.len else 0) 0

/-- The holder name of a queue (R344). -/
def qHolder (k : Nat) : Nat := if k < 2 ^ 20 then holderQueue k else holderUplink ((k - 2 ^ 20) / 8) (k % 8)
/-- The island from which a queue frees: the traffic manager's slice of the buffer pool manager. -/
def qIsland : Nat := 304

/-- The channel whose line a QID's frames take: the wavelength its terminal works on. -/
def qChan (s : State) (qid : Nat) : Nat := termChan s (qTid (dsQueue s qid))

/-- Counts a drop of a queue under its statistics code, and under code 3 to 7 in its channel's scheduler (R226, R430);
an uplink queue counts under its port's code. -/
def qCount (s : State) (k code n : Nat) : State :=
  if k < 2 ^ 20 then
    let s := stat s scQueue k code n
    if 3 ≤ code ∧ code ≤ 7 then cnt64 s (Adr.chnDsCnt (qChan s k) code) n else s
  else
    let port := (k - 2 ^ 20) / 8
    if code = 3 then stat s scPort port 7 n else if code = 4 then stat s scPort port 8 n
    else if code = 5 then stat s scPort port 9 n else s

/-- Frees the buffer of a frame that leaves a queue (R346). -/
def qFree (s : State) (k : Nat) (f : QFrame) : State :=
  if f.cl.buf = noBuf then s else (bufFree s f.cl.buf (qHolder k) qIsland).1

/-- Flushes a queue: its frames are counted in FLUSHED and freed (R200, R202). -/
def qFlush (s : State) (k : Nat) : State :=
  let fs := qFrames s k
  if fs = [] then s else fs.foldl (fun s f => qFree s k f) (qCount (setQueue s k []) k 7 fs.length)

/-- Counts frames of a QID lost in flight (R20, R355, R430); an uplink queue has no such counter. -/
def lostFlight (s : State) (k n : Nat) : State := if n = 0 ∨ 2 ^ 20 ≤ k then s else stat s scQueue k 9 n

/-- The QIDs of a tree that hold frames. -/
def treeQueues (s : State) (t : Nat) : List Nat :=
  (s.sched.queues.filter fun p => p.1 < 2 ^ 20 ∧ treeOfQid p.1 = t).map (·.1)
/-- The queues of a terminal that hold frames. -/
def termQueues (s : State) (tid : Nat) : List Nat :=
  (treeQueues s (treeOfTid tid)).filter fun q => qTid (dsQueue s q) == tid
/-- Flushes a terminal's queues. -/
def termFlush (s : State) (tid : Nat) : State := (termQueues s tid).foldl qFlush s
/-- Flushes every queue of a tree (R69, R81). -/
def treeFlush (s : State) (t : Nat) : State := (treeQueues s t).foldl qFlush s

/-- The QIDs bound to enabled constant-rate entries of a channel (R202). -/
def crsQueues (s : State) (c : Nat) : List Nat :=
  ((List.range 64).map fun i => rdW s (Adr.chnCrs c i) 2).filterMap fun v => if nbit v 63 then some (nfld v 19 0) else none

end Sys2Proof.Machine
end

