-- ==== Sys2Proof/Machine/Tcm.lean ====
section
/-! DEFINITION. Terminal control messages: formats (R147 to R149), alive counters (R150), acknowledgement and resends (R151),
the channels' message queues (R152) and the host's message buffer. -/
namespace Sys2Proof.Machine

/-- Message types (R148, R233, R370). -/
def mtComaParam : Nat := 0x01
def mtRangeInvite : Nat := 0x02
def mtSerialReport : Nat := 0x03
def mtAssignTid : Nat := 0x04
def mtRangingTime : Nat := 0x05
def mtKeyInstall : Nat := 0x06
def mtActivate : Nat := 0x07
def mtDeactivate : Nat := 0x08
def mtDisable : Nat := 0x09
def mtEnable : Nat := 0x0A
def mtSilence : Nat := 0x0B
def mtQuietInvite : Nat := 0x0C
def mtTraceReport : Nat := 0x0E
def mtStatusReport : Nat := 0x10
def mtAck : Nat := 0x11
def mtTune : Nat := 0x12
def mtTuneCancel : Nat := 0x13
def mtTuneCapsReq : Nat := 0x14
def mtTuneCaps : Nat := 0x15
def mtTimeInfoReq : Nat := 0x18
def mtTimeInfo : Nat := 0x19
def mtTodSet : Nat := 0x1A
def mtTimeStep : Nat := 0x1B

/-- ADDR of broadcasts and of messages addressed by serial or SH. -/
def bcast : Nat := 0x7FFF

/-- Types that only terminals send. -/
def mtUpOnly (t : Nat) : Bool := t == 0x03 || t == 0x0E || t == 0x10 || t == 0x11 || t == 0x15 || t == 0x19
/-- Types that are not reserved. -/
def mtKnown (t : Nat) : Bool := decide (1 ≤ t ∧ t ≤ 0x15) || decide (0x18 ≤ t ∧ t ≤ 0x1B)

/-- The class of a type in the order of R152. -/
def mtClass (t : Nat) : Nat :=
  if t = mtDisable ∨ t = mtSilence then 1 else if t = mtComaParam then 2
  else if t = mtRangeInvite ∨ t = mtQuietInvite then 3
  else if t = mtAssignTid ∨ t = mtRangingTime ∨ t = mtKeyInstall then 4 else 5

/-- A payload of 38 bytes from its first bytes. -/
def padBody (b : List Byte) : List Byte := (b ++ List.replicate 38 (0 : Byte)).take 38

/-- The 48 bytes of a message (R147). -/
def tcmBytes (addr typ flags alive : Nat) (body : List Byte) : List Byte :=
  let m := bytesBE 2 (addr % 2 ^ 15) ++ bytesBE 1 typ ++ bytesBE 1 flags ++ bytesBE 2 alive ++ padBody body
  m ++ bytesBE 4 (crc32c m)

/-- The queue of a channel. -/
def tcmQueue (s : State) (c : Nat) : List QMsg := mget [] s.tcm.queue c
def setTcmQueue (s : State) (c : Nat) (l : List QMsg) : State :=
  { s with tcm := { s.tcm with queue := mset [] s.tcm.queue c l } }

/-- Messages a queue holds (R152). -/
def tcmDepth : Nat := 1024

/-- Queues a message; none when the queue is full (R152). -/
def tcmPush (s : State) (c : Nat) (m : QMsg) : Option State :=
  if (tcmQueue s c).length < tcmDepth then some (setTcmQueue s c (tcmQueue s c ++ [m])) else none

/-- Queues a message where there is room. -/
def tcmSend (s : State) (c : Nat) (m : QMsg) : State := (tcmPush s c m).getD s

/-- A message to a terminal by its TID. -/
def msgTo (tid typ : Nat) (ack : Bool) (body : List Byte) : QMsg :=
  { cls := mtClass typ, addr := tid, typ := typ, ack := ack, body := padBody body, peer := some tid }
/-- A message to a terminal by serial or SH, in a broadcast. -/
def msgBySerial (tid typ : Nat) (ack : Bool) (body : List Byte) : QMsg :=
  { cls := mtClass typ, addr := bcast, typ := typ, ack := ack, body := padBody body, peer := some tid }
/-- A broadcast. -/
def msgAll (typ : Nat) (body : List Byte) : QMsg :=
  { cls := mtClass typ, addr := bcast, typ := typ, body := padBody body }

/-- Messages to a terminal that has switched wait for its landing cycle (R234). -/
def tcmHeld (s : State) (tid : Nat) : Bool :=
  match s.transits.find? (·.1 = tid) with
  | some (_, r) => !r.recover && decide (r.x ≤ cycleNow s) && decide (cycleNow s < r.y)
  | none => false

/-- Whether the queue's message at a position may be sent now: it is a resend, or nothing to its terminal waits for an ACK
or stands before it in the queue (R151). -/
def tcmReady (s : State) (before : List QMsg) (m : QMsg) : Bool :=
  match m.peer with
  | none => true
  | some p => !tcmHeld s p && (m.resend || (s.tcm.wait.all (fun w => w.1 != p) && before.all (fun b => b.peer != some p)))

/-- The best message of a queue: of the lowest class, the first that may be sent. -/
def tcmPick (s : State) (q : List QMsg) : Option (Nat × QMsg) :=
  [1, 2, 3, 4, 5].findSome? fun cls =>
    (q.zipIdx.find? fun p => p.1.cls == cls && tcmReady s (q.take p.2) p.1).map fun p => (p.2, p.1)

/-- Advances an alive counter: of the TID, or of the channel for broadcasts and messages by serial or SH (R150). -/
def nextAlive (s : State) (c : Nat) (m : QMsg) : Nat × State :=
  if m.addr = bcast then
    let v := (mget 0 s.tcm.aliveBc c + 1) % 65536
    (v, { s with tcm := { s.tcm with aliveBc := mset 0 s.tcm.aliveBc c v } })
  else
    let v := (mget 0 s.tcm.aliveDn m.addr + 1) % 65536
    (v, { s with tcm := { s.tcm with aliveDn := mset 0 s.tcm.aliveDn m.addr v } })

/-- The wait of a terminal. -/
def tcmWaitOf (s : State) (tid : Nat) : Option TcmWait := (s.tcm.wait.find? (·.1 = tid)).map (·.2)

/-- A message with ACK_REQ opens its wait, or adds a copy to it (R151). -/
def openWait (s : State) (c : Nat) (m : QMsg) (alive : Nat) : State :=
  match m.peer with
  | some p =>
    if m.ack then
      let w : TcmWait := match tcmWaitOf s p with
        | some w => { w with chan := c, alives := w.alives ++ [alive] }
        | none => { chan := c, msg := { m with resend := false }, alives := [alive] }
      { s with tcm := { s.tcm with wait := mput s.tcm.wait p w } }
    else s
  | none => s

/-- Sends the best message of a channel's queue; its 48 bytes are given back. -/
def tcmSendOne (s : State) (c : Nat) : Option (List Byte × State) :=
  match tcmPick s (tcmQueue s c) with
  | none => none
  | some (i, m) =>
    let s := setTcmQueue s c ((tcmQueue s c).eraseIdx i)
    let (al, s) := nextAlive s c m
    let b := tcmBytes m.addr m.typ (b2n m.ack) al m.body
    some (b, emit (openWait s c m al) (.tcm c b))

/-- Fills up to n of a cycle's 16 message slots (R152). -/
def tcmFill (c : Nat) : Nat → State → List (List Byte) → List (List Byte) × State
  | 0, s, acc => (acc.reverse, s)
  | n + 1, s, acc =>
    match tcmSendOne s c with
    | some (b, s) => tcmFill c n s (b :: acc)
    | none => (acc.reverse, s)

/-- A reset of a channel clears its queue and ends its waits without a result (R151). -/
def tcmClear (s : State) (c : Nat) : State :=
  let s := setTcmQueue s c []
  { s with tcm := { s.tcm with wait := s.tcm.wait.filter fun w => w.2.chan ≠ c } }

/-- Ends a terminal's wait. -/
def endWait (s : State) (tid : Nat) : State := { s with tcm := { s.tcm with wait := mdel s.tcm.wait tid } }

/-- The first message of a queue that its latest header has missed, with the queue without it (R138, R145). -/
def tcmLate (s : State) (c n : Nat) : Option (QMsg × State) :=
  let q := tcmQueue s c
  (q.find? fun m => decide (m.latest ≠ 0 ∧ m.latest ≤ n + 1)).map fun m => (m, setTcmQueue s c (q.erase m))

/-- Drops a terminal's queued messages and its wait. -/
def tcmForget (s : State) (tid : Nat) : State :=
  let q := s.tcm.queue.map fun p => (p.1, p.2.filter fun m => m.peer ≠ some tid)
  endWait { s with tcm := { s.tcm with queue := q.filter fun p => p.2 ≠ [] } } tid

/-! ## Receiving (R147, R150, R151) -/

/-- Fields of a received message. -/
def rxAddr (m : List Byte) : Nat := ofBytesBE (m.take 2) % 2 ^ 15
def rxType (m : List Byte) : Nat := ofBytesBE ((m.drop 2).take 1)
def rxAlive (m : List Byte) : Nat := ofBytesBE ((m.drop 4).take 2)
/-- Bytes of a received message at an offset within it, as a number. -/
def rxField (m : List Byte) (ofs n : Nat) : Nat := ofBytesBE ((m.drop ofs).take n)
/-- Whether the CRC of a received message holds. -/
def rxCrcOk (m : List Byte) : Bool := m.length == 48 && crc32c (m.take 44) == ofBytesBE (m.drop 44)

/-- What the alive check makes of a message (R150). -/
inductive AliveRes
  | accepted | replay | stale
  deriving DecidableEq, Repr

/-- The alive check of an upstream message of a terminal; the first message accepted sets LAST. -/
def aliveCheck (s : State) (tid alive : Nat) : AliveRes × State :=
  let upd (s : State) : State := { s with tcm := { s.tcm with aliveUp := mput s.tcm.aliveUp tid (alive + 1) } }
  match s.tcm.aliveUp.find? (·.1 = tid) with
  | none => (.accepted, upd s)
  | some (_, l) =>
    let d := modSub (alive + 1) l 65536
    if d = 0 then (.replay, s) else if d ≤ 32767 then (.accepted, upd s) else (.stale, s)

/-- Whether an ACK's TYPE and ALIVE name a copy of the terminal's outstanding message (R151). -/
def ackMatches (w : TcmWait) (typ alive : Nat) : Bool := w.msg.typ == typ && decide (alive ∈ w.alives)

/-- The outstanding message is queued again, first within its class (R151); a full queue refuses it as it does any message
(R152), and the wait goes on as it was. -/
def tcmResend (s : State) (tid : Nat) (w : TcmWait) : State :=
  if tcmDepth ≤ (tcmQueue s w.chan).length then { s with tcm := { s.tcm with wait := mput s.tcm.wait tid w } }
  else
    let s := { s with tcm := { s.tcm with wait := mput s.tcm.wait tid { w with resends := w.resends + 1 } } }
    setTcmQueue s w.chan ({ w.msg with resend := true } :: tcmQueue s w.chan)

/-! ## The host's message buffer -/

/-- STATUS codes of CHN_TCM_TXSTAT. -/
def txQueued : Nat := 0
def txFull : Nat := 1
def txNotOwner : Nat := 2
def txBadType : Nat := 3
def txBadField : Nat := 4

/-- The function that must be the host's for a message type (CHN_TCM_TX). -/
def txFunc (typ : Nat) : Nat := if typ = mtKeyInstall then 3 else if typ = mtSilence ∨ typ = mtDisable then 11 else 0

/-- The terminal of the channel's tree that a host message goes to: by TID in ADDR, by serial (ASSIGN_TID, and DISABLE or ENABLE of
MODE 1) or, the lowest that holds it, by SH (MODE 2) in the payload (R147, R149). -/
def txPeer (s : State) (c addr typ : Nat) (body : List Byte) : Option Nat :=
  let find (p : Nat → Bool) : Option Nat :=
    (usedTids s (treeOfChan c)).find? fun tid => termEff s tid != tsFree && p tid
  let bySerial (ofs : Nat) : Option Nat := find fun tid => termSerial s tid == ofBytesBE ((body.drop ofs).take 8)
  if addr ≠ bcast then (if treeOfTid addr = treeOfChan c then some addr else none)
  else if typ = mtAssignTid then bySerial 0
  else if typ = mtDisable ∨ typ = mtEnable then
    match ofBytesBE (body.take 1) with
    | 1 => bySerial 2
    | 2 => find fun tid => termSh s tid == ofBytesBE ((body.drop 2).take 2)
    | _ => none
  else none

/-- A write to word 10 of CHN_TCM_TX queues the message whose bytes 0x00 to 0x2B stand in the buffer, or refuses it. DEPTH of
CHN_TCM_TXSTAT is the queue's count at that write, not the live one (DESIGN CHOICE, assumption log 151). On a C50 channel, which has
no terminal control messages (R146), every TYPE is refused as BAD_TYPE (DESIGN CHOICE, assumption log 151). -/
def hostTcmTx (s : State) (who : Requester) (c : Nat) : State :=
  let a := Adr.chnTcmTx c 10
  let b := (List.range 11).flatMap fun j => bytesBE 4 (mget 0 s.acc.stage (reqKey who (Adr.chnTcmTx c j))).toNat
  let addr := ofBytesBE (b.take 2)
  let typ := ofBytesBE ((b.drop 2).take 1)
  let fl := ofBytesBE ((b.drop 3).take 1)
  let status (s : State) (st : Nat) : State :=
    wrReq s who (Adr.chnTcmTxstat c) (BitVec.ofNat 32 (st * 2 ^ 28 + (tcmQueue s c).length))
  if isOwner s who c (txFunc typ) (c / 4) = false then wrNotOwner (status s txNotOwner) who a (txFunc typ) (c / 4)
  else if decide (2 ^ 15 ≤ addr) || fl / 2 != 0 then wrRefuse (status s txBadField) who a .unitRefused
  else if !mtKnown typ || mtUpOnly typ || isC50 s c then wrRefuse (status s txBadType) who a .unitRefused
  else
    let m : QMsg := { cls := mtClass typ, addr := addr, typ := typ, ack := fl == 1, body := padBody (b.drop 6),
                      peer := txPeer s c addr typ (b.drop 6) }
    match tcmPush s c m with
    | some s => wrOk (status s txQueued) who a
    | none => wrRefuse (status s txFull) who a .unitRefused

end Sys2Proof.Machine
end

