-- ==== Sys2Proof/Machine/Keys.lean ====
section
/-! DEFINITION. Payload protection (R249 to R272): key slots, installs, the sending switch, usage limits, frames in both
directions, contexts, erasure, rotation, cores. Slot k of channel c is 4 * terminal slot + 2 * DIR + IDX (R253). -/
namespace Sys2Proof.Machine

/-! ## Slots -/

/-- STATE codes of a key slot (R254). -/
def ksEmpty : Nat := 0
def ksReady : Nat := 1
def ksActive : Nat := 2
def ksSoft : Nat := 3
def ksExhausted : Nat := 4
def ksRetiring : Nat := 5
/-- DETAIL codes of an EMPTY slot (R254). -/
def kdCommand : Nat := 1
def kdReset : Nat := 2
def kdAlarm : Nat := 3
def kdMoved : Nat := 4
def kdRetired : Nat := 5
def kdTerminal : Nat := 6
def kdStaleCopy : Nat := 7

/-- The slot of a terminal slot, direction and index (R253). -/
def slotIx (k dir idx : Nat) : Nat := 4 * k + 2 * dir + idx
/-- The other index of the same terminal and direction. -/
def otherIx (k : Nat) : Nat := if k % 2 = 0 then k + 1 else k - 1
def slotDir (k : Nat) : Nat := k / 2 % 2
/-- The TID a slot of a channel belongs to. -/
def slotTid (c k : Nat) : Nat := tidOf (c / 4) (k / 4)
def keyAddr (c k : Nat) : Nat := Adr.chnKeySlot c k
/-- The state a slot acts on (R254). -/
def keyEff (s : State) (c k : Nat) : Nat := effState s (keyAddr c k)
def keyInvoc (s : State) (c k : Nat) : Nat := rfW s (keyAddr c k) 4 127 80
def keyGen (s : State) (c k : Nat) : Nat := rfW s (keyAddr c k) 4 79 64
def keyLimit4k (s : State) (c k : Nat) : Nat := rfW s (keyAddr c k) 4 63 40
def keyTag12 (s : State) (c k : Nat) : Bool := rb s (keyAddr c k + 4) 7
def setKeyFld (s : State) (c k hi lo v : Nat) : State := wfW s (keyAddr c k) 4 hi lo v
/-- Key of the maps of a slot. -/
def keyKey (c k : Nat) : Nat := c * 2048 + k
/-- The key a slot holds, empty when none. -/
def keyMat (s : State) (c k : Nat) : List Byte := mget [] s.keys.mat (keyKey c k)

/-- LIMIT of a LIMIT_4K (R271). -/
def limitOf (v : Nat) : Nat := if v = 0xFFFFFF then 2 ^ 36 else 4096 * v
/-- The soft threshold of a channel for a limit; none when it is disabled (R262). -/
def softOf (s : State) (c limit : Nat) : Option Nat :=
  let p := rf s (Adr.chnKeyCfg c) 31 25
  if 100 ≤ p then none else some (limit * p / 100)
/-- RETIRE cycles, 0 taken as 1. -/
def retireOf (s : State) (c : Nat) : Nat := max 1 (rf s (Adr.chnKeyCfg c) 24 16)

/-- Counts in CHN_CIPH_CNT (R272). -/
def ciphCount (s : State) (c code n : Nat) : State := cnt64 s (Adr.chnCiphCnt c code) n
/-- Raises a cipher event. -/
def keyEvent (s : State) (c bit : Nat) : State :=
  evBit s (Adr.chnKeyEvent c) bit c (if bit = 6 then .degraded else .corrected) (0x0460 + bit)
/-- Sets a terminal's bit of CHN_KEY_ATTN. -/
def keyAttn (s : State) (c k : Nat) : State := wb s (Adr.chnKeyAttn c (k / 4 / 32)) (k / 4 % 32) true

/-- The sending key of a terminal slot on a channel: the downstream slot in ACTIVE or SOFT (R258). -/
def sendSlot (s : State) (c k : Nat) : Option Nat :=
  [slotIx k 0 0, slotIx k 0 1].find? fun x => keyEff s c x == ksActive || keyEff s c x == ksSoft
/-- No cipher core of a channel is in service (R250). -/
def coresGone (s : State) (c : Nat) : Bool := decide (4 ≤ (mget [] s.keys.coresOut c).length)
/-- Tag bytes of a terminal's downstream frames (R203): of the key that it is sent under, 12 or 16; 0 on a C50 channel, whose payload
encryption adds none, and while it has no sending key (assumption log 14). -/
def sendTag (s : State) (tid : Nat) : Nat :=
  let c := termChan s tid
  if isC50 s c then 0
  else match sendSlot s c (slotOfTid tid) with
    | some k => if keyTag12 s c k then 12 else 16
    | none => 0

/-! ## Key-encryption keys (R284) -/

def kekKey (c tid : Nat) : Nat := c * 512 + slotOfTid tid
/-- The KEK that channel c holds for a terminal. -/
def chanKek (s : State) (c tid : Nat) : List Byte := mget [] s.keys.chanKek (kekKey c tid)
def setChanKek (s : State) (c tid : Nat) (k : List Byte) : State :=
  { s with keys := { s.keys with chanKek := mset [] s.keys.chanKek (kekKey c tid) k } }
/-- Sends the retained KEK of a terminal to a channel (R284). -/
def sendKek (s : State) (c tid : Nat) : State := setChanKek s c tid (mget [] s.keys.kek tid)
/-- Stores a KEK in retained SRAM, which takes a value of the KWK_RET counter (R287), and sends it to the terminal's channel. -/
def storeKek (s : State) (tid : Nat) (k : List Byte) : State :=
  let s := { s with sec := { s.sec with ctr := mset 0 s.sec.ctr 1 (mget 0 s.sec.ctr 1 + 1) } }
  sendKek { s with keys := { s.keys with kek := mset [] s.keys.kek tid k } } (termChan s tid) tid

/-! ## Contexts and shadows (R266, R267) -/

/-- The open contexts of a slot. -/
def ctxOf (s : State) (c k : Nat) : List KeyCtx := s.keys.ctx.filter fun x => x.chan == c && x.slot == k
/-- The open context of a stream of a terminal slot. -/
def ctxFind (s : State) (c k stream : Nat) : Option KeyCtx :=
  s.keys.ctx.find? fun x => x.chan == c && x.slot / 4 == k && x.stream == stream
def ctxDrop (s : State) (p : KeyCtx → Bool) : State := { s with keys := { s.keys with ctx := s.keys.ctx.filter fun x => !p x } }
/-- The downstream frames latched to a slot. -/
def latchedTo (s : State) (c k : Nat) : List DsLatch := s.keys.latched.filter fun x => x.chan == c && x.slot == k
/-- Drops the shadow of a slot once no open context and no latched frame uses it. -/
def shadowTrim (s : State) (c k : Nat) : State :=
  match s.keys.shadow.find? (·.1 = keyKey c k) with
  | none => s
  | some (_, sh) =>
    if ((ctxOf s c k).any fun x => x.gen == sh.gen) || (latchedTo s c k).any (fun x => x.gen == sh.gen) then s
    else
      let s := { s with keys := { s.keys with shadow := mdel s.keys.shadow (keyKey c k) } }
      setKeyFld s c k 38 38 0
/-- The packet-area byte that leaves at the instant of a change that lands within the cycle: a free value. -/
def lineInstant (s : State) (c : Nat) : Nat := freeVal s % (packetBytes s c + 1)
/-- Whether the last byte of a latched frame has yet to leave. -/
def DsLatch.onLine (x : DsLatch) (p : Nat) : Bool := x.segs.any fun g => decide (p < g.2)
/-- A channel's line passes into its next packet area, of a bytes before: the frames that have left are latched no longer (R267). -/
def latchRoll (s : State) (c a : Nat) : State :=
  let gone := s.keys.latched.filter fun x => x.chan == c && !x.onLine a
  let roll (x : DsLatch) : DsLatch :=
    if x.chan = c then { x with segs := (x.segs.filter fun g => decide (a < g.2)).map fun g => (g.1 - a, g.2 - a) } else x
  let s := { s with keys := { s.keys with latched := (s.keys.latched.filter fun x => !(x.chan == c && !x.onLine a)).map roll } }
  (gone.map (·.slot)).dedup.foldl (fun s k => shadowTrim s c k) s
/-- Discards the contexts of a terminal's stream whose partial frame is discarded, counting FRAG_ERR (R106, R266). -/
def ctxDiscard (s : State) (c k stream : Nat) : State :=
  match ctxFind s c k stream with
  | none => s
  | some x => shadowTrim (ctxDrop s fun y => y == x) c x.slot

/-- Discards the bytes gathered of the frames of some contexts. -/
def partialDrop (s : State) (l : List KeyCtx) : State :=
  l.foldl (fun s x => { s with line := { s.line with
    partials := mdel s.line.partials (slotTid x.chan x.slot * 32 + x.stream) } }) s

/-! ## Copies for the partner device (R423, R265) -/

/-- The active of a formed pair sends a slot to its partner at each install, erase or switch: the key wrapped under the pairing
key. -/
def prtKeySend (s : State) (c k : Nat) : State :=
  match s.sec.vault.pair with
  | some p =>
    if uState s Adr.prtState = 4 ∧ s.prt.formed = true then
      let ctr := mget 0 s.sec.ctr 0
      let key := keyMat s c k
      let w := Config.gcmEncrypt p.key (bytesBE 12 (p.role % 2 * 2 ^ 95 + ctr % 2 ^ 64)) [] key
      let s := { s with sec := { s.sec with ctr := mset 0 s.sec.ctr 0 (ctr + 1) } }
      plkSend s (.key c k (keyEff s c k) (keyGen s c k) (keyLimit4k s c k) (keyTag12 s c k) ctr
        (if key.isEmpty then [] else w.1 ++ w.2))
    else s
  | none => s

/-! ## Erasure (R268, R269) -/

/-- Bytes put over others from a place on. -/
def splice (l : List Byte) (a : Nat) (x : List Byte) : List Byte := l.take a ++ x ++ l.drop (a + x.length)
/-- What an erase makes of a latched fragment when byte p leaves: idle where its first byte has not left, else zeros for the payload
and tag bytes that remain (R268). -/
def cutSeg (p : Nat) (l : List Byte) (g : Nat × Nat) : List Byte :=
  if p ≤ g.1 then splice l g.1 (idleBytes (g.2 - g.1))
  else
    let a := max p (g.1 + 8)
    if a < g.2 then splice l a (List.replicate (g.2 - a) 0) else l
/-- An erase aborts the downstream frames latched to a slot that have not left, at a free instant of the cycle: how many (R268). -/
def latchAbort (s : State) (c k : Nat) : State × Nat :=
  match latchedTo s c k with
  | [] => (s, 0)
  | ls =>
    let p := lineInstant s c
    let live := ls.filter (·.onLine p)
    let pkt := (live.flatMap (·.segs)).foldl (cutSeg p) (pktOf s c)
    let s := nextFree s
    ({ s with
      line := { s.line with pkt := mset [] s.line.pkt c pkt }
      keys := { s.keys with latched := s.keys.latched.filter fun x => !(x.chan == c && x.slot == k) } }, live.length)

/-- Erases a slot: its key, its shadow and its words are gone, the frames latched to it and its open contexts are discarded and
counted, and STATE is EMPTY with the detail. An EMPTY slot stays as it is. -/
def keyErase (s : State) (c k det : Nat) : State :=
  if keyEff s c k = ksEmpty then s
  else
    let l := ctxOf s c k
    let (s, m) := latchAbort s c k
    let n := l.length + m
    let s := partialDrop s l
    let s := ctxDrop s fun x => x.chan == c && x.slot == k
    let key := keyKey c k
    let s := { s with keys := { s.keys with
      mat := mset [] s.keys.mat key [], shadow := mdel s.keys.shadow key, retire := mdel s.keys.retire key,
      failRow := mdel s.keys.failRow key } }
    let s := prtKeySend (unitAccept (setKeyFld s c k 127 32 0) (keyAddr c k) ksEmpty det) c k
    if n = 0 then s else keyEvent (ciphCount s c 7 n) c 3

/-- Erases the four slots of a terminal on a channel, and the channel's copy of its KEK (R269, R284). -/
def keyEraseTerm (s : State) (c tid det : Nat) : State :=
  let k := slotOfTid tid
  let s := [0, 1, 2, 3].foldl (fun s i => keyErase s c (4 * k + i) det) s
  setChanKek s c tid []

/-- Slots of a channel that have been written. -/
def keySlots (s : State) (c : Nat) : List Nat :=
  ((s.regs.filter fun p => Adr.chnKeySlot c 0 ≤ p.1 ∧ p.1 < Adr.chnKeySlot c 2048).map
    fun p => (p.1 - Adr.chnKeySlot c 0) / 16).dedup
/-- Erases every slot of a channel and its KEKs. -/
def keyEraseChan (s : State) (c det : Nat) : State :=
  let s := (keySlots s c).foldl (fun s k => keyErase s c k det) s
  { s with keys := { s.keys with chanKek := s.keys.chanKek.filter fun p => p.1 / 512 ≠ c } }
/-- Erases every slot of every channel (R269). -/
def keyEraseAll (s : State) (det : Nat) : State := (List.range 256).foldl (fun s c => keyEraseChan s c det) s

/-! ## Install (R255) -/

/-- Result codes of CHN_KEY_INSTALL_STAT. -/
inductive KeyRes
  | ok | stale | notOwner | outOfRange | noKek | unwrapFail | sameGen | sameKey | busy
  deriving DecidableEq, Repr
def KeyRes.code : KeyRes → Nat
  | .ok => 0 | .stale => 1 | .notOwner => 2 | .outOfRange => 3 | .noKek => 4 | .unwrapFail => 5 | .sameGen => 6
  | .sameKey => 7 | .busy => 8

/-- Whether the slot is the downstream sending key and SOFT, or EXHAUSTED with no other sending key (R255). -/
def sendingWorn (s : State) (c k : Nat) : Bool :=
  slotDir k == 0 && (keyEff s c k == ksSoft
    || (keyEff s c k == ksExhausted && (sendSlot s c (k / 4)).isNone))

/-- The refusals of R255 that follow the epoch check, for a key already unwrapped (none: it did not unwrap). -/
def installCheck (s : State) (c k gen limit : Nat) (kekHeld : Bool) (key : Option (List Byte)) : KeyRes :=
  let st := termEff s (slotTid c k)
  if limit = 0 ∨ gen = 0 ∨ ¬ (st = tsKeying ∨ st = tsActive ∨ st = tsLost ∨ st = tsTransit) ∨ sendingWorn s c k = true
  then .outOfRange
  else if !kekHeld then .noKek
  else match key with
    | none => .unwrapFail
    | some m =>
      if gen = keyGen s c k then .sameGen
      else if [k, otherIx k].any (fun x => keyEff s c x != ksEmpty && keyMat s c x == m) then .sameKey
      else if (s.keys.shadow.any fun p => p.1 == keyKey c k) then .busy
      else .ok

/-- An accepted install (R255, R267): open contexts, and frames still leaving at a free instant of the cycle, keep the old key as the
slot's shadow; the key, its generation, tag length and limit are written, INVOC is 0 and STATE is READY, in one clock. -/
def installKey (s : State) (c k gen limit : Nat) (tag12 : Bool) (m : List Byte) : State :=
  let key := keyKey c k
  let old := keyMat s c k
  let ls := latchedTo s c k
  let sh := !(ctxOf s c k).isEmpty || ls.any (·.onLine (lineInstant s c))
  let s := if ls.isEmpty then s else nextFree s
  let s := if sh then { s with keys := { s.keys with
      shadow := mput s.keys.shadow key ⟨old, keyGen s c k, cycleNow s⟩ } } else s
  let s := { s with keys := { s.keys with
      mat := mset [] s.keys.mat key m, retire := mdel s.keys.retire key, failRow := mdel s.keys.failRow key } }
  let s := setKeyFld s c k 127 32 (gen * 2 ^ 32 + limit * 2 ^ 8 + b2n tag12 * 2 ^ 7 + b2n sh * 2 ^ 6)
  prtKeySend (ciphCount (unitAccept s (keyAddr c k) ksReady 0) c 9 1) c k

/-- A write to word 15 of CHN_KEY_INSTALL (R255): the 16 words as one number; the result stands in the requester's
CHN_KEY_INSTALL_STAT. -/
def keyInstallWrite (s : State) (who : Requester) (c v : Nat) : State :=
  let a := Adr.chnKeyInstall c
  let k := nfld v 503 493
  let ka := keyAddr c k
  let tid := slotTid c k
  let finish (s : State) (r : KeyRes) : State :=
    wrReq s who (Adr.chnKeyInstallStat c)
      (BitVec.ofNat 32 (r.code * 2 ^ 28 + uEpoch s ka * 2 ^ 16 + uState s ka * 2 ^ 8))
  let refuse (s : State) (r : KeyRes) : State := ciphCount (finish s r) c 10 1
  let t := c / 4
  if islDown s c then wrDown s who a
  else if isOwner s who c 3 t = false ∨ s.prt.standby = true then wrNotOwner (refuse s .notOwner) who a 3 t
  else if nfld v 511 504 ≠ uEpoch s ka then cmdStale (noteWrite (refuse s .stale) who a .stale (uEpoch s ka) (uState s ka)) ka
  else
    let kek := chanKek s c tid
    let key := Config.keyUnwrap kek (bytesBE 40 (nfld v 319 0))
    match installCheck s c k (nfld v 466 451) (nfld v 490 467) (!kek.isEmpty) key with
    | .ok => wrOk (finish (installKey s c k (nfld v 466 451) (nfld v 490 467) (nbit v 492) (key.getD [])) .ok) who a
    | .outOfRange => wrRefuse (refuse s .outOfRange) who a .outOfRange
    | .busy => wrRefuse (refuse s .busy) who a .busy
    | r => wrRefuse (refuse s r) who a .unitRefused

/-! ## The sending switch (R254, R258) -/

/-- A slot becomes RETIRING; its RETIRE cycles count from now. -/
def keyRetire (s : State) (c k : Nat) : State :=
  let s := unitAccept s (keyAddr c k) ksRetiring 0
  { s with keys := { s.keys with retire := mput s.keys.retire (keyKey c k) (cycleNow s) } }

/-- A key at its limit: EXHAUSTED, the event and the attention bit; a READY other index of the downstream direction
becomes the sending key at once (R263). -/
def keyExhaust (s : State) (c k : Nat) : State :=
  if keyEff s c k = ksExhausted then s
  else
    let s := keyAttn (keyEvent (dpChange s (keyAddr c k) ksExhausted 0) c 1) c k
    if slotDir k = 0 ∧ keyEff s c (otherIx k) = ksReady then
      prtKeySend (dpChange s (keyAddr c (otherIx k)) ksActive 0) c (otherIx k)
    else s

/-- What INVOC of a slot makes of its state: SOFT at the soft threshold, and for a sending key EXHAUSTED at LIMIT. -/
def keyLimits (s : State) (c k : Nat) : State :=
  let inv := keyInvoc s c k
  let lim := limitOf (keyLimit4k s c k)
  let s := match softOf s c lim with
    | some x =>
      if x ≤ inv ∧ keyEff s c k = ksActive then keyAttn (keyEvent (dpChange s (keyAddr c k) ksSoft 0) c 0) c k else s
    | none => s
  if slotDir k = 0 ∧ lim ≤ inv then keyExhaust s c k else s

/-- Makes a READY downstream slot the sending key; the previous one retires in the same clock (R258). The slot then looks at its limits
again, from the written state (R26). -/
def keyActivate (s : State) (c k : Nat) : State :=
  let s := match sendSlot s c (k / 4) with
    | some o => if o = k then s else keyRetire s c o
    | none => s
  prtKeySend (keyLimits (unitAccept s (keyAddr c k) ksActive 0) c k) c k

/-- A direct write of STATE to a slot, after its owner and epoch checks: none when the value is refused (R254). -/
def keyStateWrite (s : State) (c k v : Nat) : Option State :=
  if v = ksEmpty ∧ keyEff s c k ≠ ksEmpty then some (keyErase s c k kdCommand)
  else if v = ksActive ∧ keyEff s c k = ksReady ∧ slotDir k = 0 then some (keyActivate s c k)
  else none

/-- A write of a unit state register by the owner of function f (R25, R44, R477), never on the standby of a pair (R424): act answers the state after an accepted
value, or the refusal. -/
def unitWriteR (s : State) (who : Requester) (a f t expect : Nat) (act : State → Except WrStatus State) : State :=
  if islDown s (islandOf a) then wrDown s who a
  else if isOwner s who (islandOf a) f t = false ∨ s.prt.standby = true then wrNotOwner s who a f t
  else if expect ≠ uEpoch s a then wrStale s who a
  else match act s with
    | .ok s' => wrOk s' who a
    | .error e => wrRefuse s who a e
/-- A unit write whose only other refusal is OUT_OF_RANGE. -/
def unitWrite (s : State) (who : Requester) (a f t expect : Nat) (act : State → Option State) : State :=
  unitWriteR s who a f t expect fun s =>
    match act s with
    | some s' => .ok s'
    | none => .error .outOfRange

/-- A write of CHN_KEY_SLOT word 0. -/
def keySlotWrite (s : State) (who : Requester) (c k expect v : Nat) : State :=
  unitWrite s who (keyAddr c k) 3 (c / 4) expect fun s => keyStateWrite s c k v

/-! ## Limits (R262, R263) -/

/-! ## Downstream frames (R251, R252, R257) -/

/-- The IV of an invocation (R257). -/
def keyIv (tid dir idx gen invoc : Nat) : List Byte :=
  bytesBE 12 ((((tid % 2 ^ 15 * 2 + dir) * 2 + idx) * 2 ^ 15 + gen % 2 ^ 15) * 2 ^ 64 + invoc % 2 ^ 48)
/-- The authenticated data: the header with LEN, FRAG and HEC 0 (R252). -/
def keyAad (tid stream idx : Nat) (tag12 : Bool) : List Byte :=
  bytesBE 6 (encUpper tid stream 0 .middle (idx + 1) tag12) ++ [0, 0]

/-- Takes an invocation of a sending slot and encrypts a payload: the ciphertext and the tag (R257, R258). -/
def keySeal (s : State) (c k stream : Nat) (data : List Byte) : (List Byte × List Byte) × State :=
  let tid := slotTid c k
  let t12 := keyTag12 s c k
  let r := Config.gcmEncrypt (keyMat s c k) (keyIv tid 0 (k % 2) (keyGen s c k) (keyInvoc s c k))
    (keyAad tid stream (k % 2) t12) data
  let s := setKeyFld s c k 127 80 (keyInvoc s c k + 1)
  let s := ciphCount (ciphCount s c 0 1) c 1 data.length
  ((r.1, r.2.take (if t12 then 12 else 16)), keyLimits s c k)

/-! ## Upstream frames (R251, R252, R259, R261, R266) -/

/-- The span of candidate counters of the core and the resync unit (R259). -/
def resyncSpan : Nat := 32768

/-- A failed verification: counted, and SYNC_FAIL in a row raise US_DESYNC (R259). -/
def usFail (s : State) (c k : Nat) : State :=
  let s := stat (ciphCount s c 3 1) scTerm (slotTid c k) 5 1
  let n := mget 0 s.keys.failRow (keyKey c k) + 1
  let lim := max 1 (rf s (Adr.chnKeyCfg c) 11 8)
  let s := { s with keys := { s.keys with failRow := mset 0 s.keys.failRow (keyKey c k) (if n = lim then 0 else n) } }
  if n = lim then keyAttn (keyEvent s c 2) c k else s

/-- An upstream key is used: READY becomes ACTIVE, and the other index RETIRING (R260). -/
def usFirstUse (s : State) (c k : Nat) : State :=
  if keyEff s c k = ksReady then
    let o := otherIx k
    let s := dpChange s (keyAddr c k) ksActive 0
    if keyEff s c o = ksActive ∨ keyEff s c o = ksSoft then
      let s := dpChange s (keyAddr c o) ksRetiring 0
      { s with keys := { s.keys with retire := mput s.keys.retire (keyKey c o) (cycleNow s) } }
    else s
  else s

/-- A frame verified under an upstream key (R259, R260, R262). -/
def usVerified (s : State) (c k : Nat) : State :=
  let s := ciphCount s c 2 1
  keyLimits (usFirstUse { s with keys := { s.keys with failRow := mset 0 s.keys.failRow (keyKey c k) 0 } } c k) c k

/-- Whether a frame against an upstream slot has left its key SOFT or EXHAUSTED, or has raised US_DESYNC, which asks for a new key
(R260); b is the state before it. -/
def usWorn (b s : State) (c k : Nat) : Bool :=
  (keyEff s c k != keyEff b c k && (keyEff s c k == ksSoft || keyEff s c k == ksExhausted))
    || (rdW s (Adr.chnCiphCnt c 3) 2 != rdW b (Adr.chnCiphCnt c 3) 2 && mget 0 s.keys.failRow (keyKey c k) == 0)

/-- The counter of a new frame against a slot: taken (INVOC moves past it), at the limit, or no match (R259). -/
inductive UsCtr | taken | limit | fail deriving DecidableEq, Repr
def usCounter (s : State) (c k n : Nat) (found : Bool) : State × UsCtr :=
  let inv := keyInvoc s c k
  if keyEff s c k = ksRetiring ∨ found = false ∨ n < inv ∨ inv + resyncSpan ≤ n then (usFail s c k, .fail)
  else if limitOf (keyLimit4k s c k) ≤ n ∨ keyEff s c k = ksExhausted then
    (keyExhaust (ciphCount s c 6 1) c k, .limit)
  else
    let s := if inv < n then ciphCount s c 4 1 else s
    (keyLimits (setKeyFld s c k 127 80 (n + 1)) c k, .taken)

/-- Counts a frame that names no usable key. -/
def usNoKey (s : State) (c : Nat) : State × Bool := (ciphCount s c 5 1, false)

/-- The cipher stage of one upstream fragment that passed R106 (R251, R259, R266): whether it goes on to reassembly. -/
def usCipher (s : State) (c tid : Nat) (f : EncFrame) : State × Bool :=
  let k := slotIx (slotOfTid tid) 1 (f.keyIdx - 1)
  if f.keyIdx = 0 then
    if rb s (Adr.chnKeyCfg c) 15 then (s, true) else usNoKey s c
  else if coresGone s c then (pmAdd s c (slotOfTid tid) 13 1, false)
  else match f.frag with
    | .whole =>
      if keyEff s c k = ksEmpty ∨ f.tag12 ≠ keyTag12 s c k then usNoKey s c
      else match usCounter s c k f.counter f.tagOk with
        | (s, .taken) => (usVerified s c k, true)
        | (s, _) => (s, false)
    | .first =>
      if keyEff s c k = ksEmpty ∨ f.tag12 ≠ keyTag12 s c k then usNoKey s c
      else if 4 ≤ (s.keys.ctx.filter fun x => x.chan == c && x.slot / 4 == slotOfTid tid).length then
        (keyEvent (ciphCount s c 8 1) c 4, false)
      else match usCounter s c k f.counter true with
        | (s, .taken) =>
          let x : KeyCtx := { chan := c, slot := k, stream := f.stream, gen := keyGen s c k, counter := f.counter,
                              bytes := f.len, frags := 1, tag12 := f.tag12 }
          ({ s with keys := { s.keys with ctx := s.keys.ctx ++ [x] } }, true)
        | (s, _) => (s, false)
    | .middle =>
      match ctxFind s c (slotOfTid tid) f.stream with
      | some x =>
        let upd (y : KeyCtx) : KeyCtx := if y = x then { y with bytes := y.bytes + f.len, frags := y.frags + 1 } else y
        ({ s with keys := { s.keys with ctx := s.keys.ctx.map upd } }, true)
      | none => (s, false)
    | .last =>
      match ctxFind s c (slotOfTid tid) f.stream with
      | some x =>
        let s := shadowTrim (ctxDrop s fun y => y == x) c x.slot
        if f.tagOk then (usVerified s c x.slot, true) else (usFail s c x.slot, false)
      | none => (s, false)

/-! ## Retirement, and shadows past their time (R261, R267) -/

/-- FRAG_ERR counts of the contexts of a slot that are discarded, in the channel's and the terminal's bins. -/
def ctxFragErr (s : State) (c k : Nat) (p : KeyCtx → Bool) : State :=
  let l := (ctxOf s c k).filter p
  let s := pmAdd s c (k / 4) 13 l.length
  partialDrop (ctxDrop s fun x => decide (x ∈ l)) l

/-- After RETIRE cycles a RETIRING slot is erased with DETAIL RETIRED and its open contexts count in FRAG_ERR; a shadow
past RETIRE cycles goes with the contexts that use it (R261, R267). -/
def keyRetireExpire (s : State) (c k : Nat) : State :=
  let key := keyKey c k
  let now := cycleNow s
  if keyEff s c k = ksRetiring ∧ mget now s.keys.retire key + retireOf s c ≤ now then
    let s := ctxFragErr s c k fun _ => true
    keyErase s c k kdRetired
  else match s.keys.shadow.find? (·.1 = key) with
    | some (_, sh) =>
      if sh.left + retireOf s c ≤ now then shadowTrim (ctxFragErr s c k fun x => x.gen == sh.gen) c k else s
    | none => s

/-! ## Cores (R250) -/

/-- A core's known-answer check: on failure the core leaves service; with no core left every slot is erased with ALARM. -/
def coreCheck (s : State) (c core : Nat) (pass : Bool) : State :=
  let out := mget [] s.keys.coresOut c
  if pass ∨ core ∈ out ∨ 4 ≤ core then s
  else
    let out := out ++ [core]
    let s := { s with keys := { s.keys with coresOut := mset [] s.keys.coresOut c out } }
    let s := keyEvent (ciphCount s c 13 1) c 6
    if out.length = 4 then keyEraseChan s c kdAlarm else s

/-! ## Firmware's keys: registration, rotation, resumption (R143, R260, R264) -/

/-- The DRBG reseeds from the entropy source (R282). -/
def drbgSeed (s : State) : State :=
  { s with sec := { s.sec with drbg := true, reseeds := s.sec.reseeds + 1, seedAt := s.keys.draws } }
/-- n bytes of the DRBG, which reseeds first where 2^20 requests have been served since it was seeded (R282). -/
def drbgDraw (s : State) (n : Nat) : List Byte × State :=
  let s := if s.keys.draws < s.sec.seedAt + 2 ^ 20 then s else drbgSeed s
  (Config.drbg s.keys.draws n, { s with keys := { s.keys with draws := s.keys.draws + 1 } })
/-- A key of 32 bytes from the DRBG. -/
def drawKey (s : State) : List Byte × State := drbgDraw s 32

/-- The payload of a KEY_INSTALL part (R148): direction, index, part, generation and half the wrapped key. -/
def keyInstallBody (dir idx gen part : Nat) (wrapped : List Byte) : List Byte :=
  bytesBE 1 dir ++ bytesBE 1 idx ++ bytesBE 1 part ++ [0] ++ bytesBE 2 gen ++ (wrapped.drop (20 * part)).take 20

/-- Firmware draws a key, installs it in an index of a direction and queues its two KEY_INSTALL parts. Nothing happens
where the install is refused, or where the DRBG's state is erased (R143, R260, R281). -/
def fwInstall (s : State) (tid dir idx : Nat) (tk : Ticket) : State :=
  if !s.sec.drbg then s else
  let c := termChan s tid
  let k := slotIx (slotOfTid tid) dir idx
  let (m, s) := drawKey s
  let gen := (max (keyGen s c k) (keyGen s c (otherIx k))) % 0xFFFF + 1
  let kek := chanKek s c tid
  match installCheck s c k gen 0xFFFFFF (!kek.isEmpty) (some m) with
  | .ok =>
    let s := installKey s c k gen 0xFFFFFF false m
    let w := Config.keyWrap kek m
    let s := { s with keys := { s.keys with rot := mput s.keys.rot (tid * 2 + dir) ⟨idx, 2, tk⟩ } }
    [0, 1].foldl (fun s p => tcmSend s c (msgTo tid mtKeyInstall true (keyInstallBody dir idx gen p w))) s
  | _ => s

/-- The index a rotation installs into: the one that is not in use. -/
def spareIdx (s : State) (c k dir : Nat) : Nat :=
  let used := [0, 1].find? fun i =>
    let e := keyEff s c (slotIx k dir i)
    e == ksActive || e == ksSoft || e == ksExhausted || e == ksReady
  match used with | some 0 => 1 | _ => 0

/-- Starts a rotation of a direction at the basic level, unless one runs (R260); on a C50 channel with Key_Control, which its
Key_Report answers (R125, R126). -/
def keyRotate (s : State) (tid dir : Nat) (tk : Ticket) : State :=
  let c := termChan s tid
  let i := spareIdx s c (slotOfTid tid) dir
  if s.keys.rot.any fun p => p.1 == tid * 2 + dir then s
  else if isC50 s c then
    emit { s with keys := { s.keys with rot := mput s.keys.rot (tid * 2 + dir) ⟨i, 1, tk⟩ } } (.ploam c tid 7 i)
  else fwInstall s tid dir i tk

/-- A KEY_INSTALL part of a terminal is acknowledged: after the last part of a downstream key the new slot becomes ACTIVE
(R143, R260). -/
def rotAck (s : State) (tid dir : Nat) : State :=
  match s.keys.rot.find? (·.1 = tid * 2 + dir) with
  | none => s
  | some (_, r) =>
    if 1 < r.parts then { s with keys := { s.keys with rot := mput s.keys.rot (tid * 2 + dir) { r with parts := r.parts - 1 } } }
    else
      let s := { s with keys := { s.keys with rot := mdel s.keys.rot (tid * 2 + dir) } }
      let c := termChan s tid
      let k := slotIx (slotOfTid tid) dir r.idx
      let s := if dir = 0 ∧ keyEff s c k = ksReady then keyActivate s c k else s
      ticketPut s r.ticket doneRec

/-- The acknowledgement of a KEY_INSTALL part fails: the new slot is erased and the old key stays (R260). -/
def rotFail (s : State) (tid dir : Nat) : State :=
  match s.keys.rot.find? (·.1 = tid * 2 + dir) with
  | none => s
  | some (_, r) =>
    let s := { s with keys := { s.keys with rot := mdel s.keys.rot (tid * 2 + dir) } }
    let s := keyErase s (termChan s tid) (slotIx (slotOfTid tid) dir r.idx) kdCommand
    ticketPut s r.ticket (refusal .notActive)

/-- What firmware makes of a terminal's slots at the basic level: a key that has entered SOFT, or a sending key that is
EXHAUSTED, or US_DESYNC, is replaced (R260, R263, R270). -/
def keyReact (s : State) (tid dir : Nat) : State :=
  if basic s 3 (treeOfTid tid) then keyRotate s tid dir .none else s

/-- What a slot carries to another channel. -/
def keyTake (s : State) (c k : Nat) : KeyMove :=
  ⟨keyMat s c k, keyGen s c k, keyLimit4k s c k, keyTag12 s c k, keyInvoc s c k, keyEff s c k⟩

/-- Puts a moved key into a slot in the state it had, with a counter; RESUMED tells a resume. -/
def keyPlace (s : State) (c k : Nat) (m : KeyMove) (invoc : Nat) (resumed : Bool) : State :=
  if m.state = ksEmpty then s
  else
    let s := { s with keys := { s.keys with mat := mset [] s.keys.mat (keyKey c k) m.mat } }
    let s := if m.state = ksRetiring then
      { s with keys := { s.keys with retire := mput s.keys.retire (keyKey c k) (cycleNow s) } } else s
    let s := setKeyFld s c k 127 32 (invoc * 2 ^ 48 + m.gen * 2 ^ 32 + m.limit * 2 ^ 8 + b2n m.tag12 * 2 ^ 7
      + b2n resumed * 2 ^ 5)
    let s := prtKeySend (unitAccept s (keyAddr c k) m.state 0) c k
    if m.state = ksRetiring then s else keyLimits s c k

/-- The resume rule of R264: a mark at most 3 cycles old resumes at mark + 16,384, an older copy leaves the slot EMPTY
with STALE_COPY. -/
def keyResume (s : State) (c k : Nat) (m : KeyMove) (mark age : Nat) : State :=
  if age ≤ 3 then keyPlace (ciphCount s c 11 1) c k m (mark + 16384) true
  else
    let s := putUnit s (keyAddr c k) ksEmpty kdStaleCopy (uState s (keyAddr c k) ≠ ksEmpty)
    keyReact (keyAttn (keyEvent (ciphCount s c 12 1) c 5) c k) (slotTid c k) (slotDir k)

/-! ## Key commands (R394, R270) -/

/-- Whether a command's function may name a terminal: its tree is on the part, its slot within SPLIT, and for a virtual
function the terminal is of its partition (R394). -/
def cmdTidOk (s : State) (fn tid : Nat) : Bool :=
  treeValid s (treeOfTid tid) && decide (slotOfTid tid < slotLimit s (treeOfTid tid))
    && (fn == 0 || termPart s tid == fn - 1)

/-- KEY_ROTATE of a direction (R260). -/
def cmdKeyRotate (s : State) (c : CmdCtx) (tid dir : Nat) : State :=
  if !cmdTidOk s c.fn tid || decide (1 < dir) then cmdPut s c (refusal .outOfRange)
  else if !basic s 3 (treeOfTid tid) then cmdPut s c (refusal .notOwner)
  else if termEff s tid ≠ tsActive then cmdPut s c (refusal .notActive)
  else if s.keys.rot.any fun p => p.1 == tid * 2 + dir then cmdPut s c (refusal .busy)
  else
    let n := s.keys.rot.length
    let s' := keyRotate (cmdPut s c {}) tid dir (.cmd c)
    if s'.keys.rot.length = n then
      cmdPut s' c (refusal (if (chanKek s (termChan s tid) tid).isEmpty then .noKek else .outOfRange)) else s'

/-- KEY_ERASE of a direction: both slots of it are erased with DETAIL COMMAND (R270). -/
def cmdKeyErase (s : State) (c : CmdCtx) (tid dir : Nat) : State × OutRec :=
  if !cmdTidOk s c.fn tid || decide (1 < dir) then (s, refusal .outOfRange)
  else if !basic s 3 (treeOfTid tid) then (s, refusal .notOwner)
  else
    let ch := termChan s tid
    let k := slotOfTid tid
    ([0, 1].foldl (fun s i => keyErase s ch (slotIx k dir i) kdCommand) s, doneRec)

/-- KEY_CFG sets a channel's CHN_KEY_CFG (R270); only the physical function names a channel. -/
def cmdKeyCfg (s : State) (c : CmdCtx) (ch : Nat) (v : Word) : State × OutRec :=
  if c.fn ≠ 0 ∨ 256 ≤ ch ∨ chanValid s ch = false then (s, refusal .outOfRange)
  else if !basic s 3 (ch / 4) then (s, refusal .notOwner)
  else if islDown s ch then (s, refusal .islandDown)
  else
    let a := Adr.chnKeyCfg ch
    (showBypass (wf (wf (wf s a 31 15 (fld v 31 15)) a 11 8 (fld v 11 8)) a 14 12 0), doneRec)

/-! ## Commands -/

/-- KEY_INSTALL (R255): the 512 bits of CHN_KEY_INSTALL. -/
def execKeyInstall (who : Requester) (c value : Nat) (s : State) : Host.Outcome State Fault Refusal :=
  .next (if islDown s c then wrDown s who (Adr.chnKeyInstall c) else keyInstallWrite s who c value)
/-- KEY_SLOT_ERASE (R268). -/
def execKeySlotErase (who : Requester) (c k expect : Nat) (s : State) : Host.Outcome State Fault Refusal :=
  .next (keySlotWrite s who c k expect ksEmpty)
/-- KEY_SLOT_ACTIVATE (R258). -/
def execKeySlotActivate (who : Requester) (c k expect : Nat) (s : State) : Host.Outcome State Fault Refusal :=
  .next (keySlotWrite s who c k expect ksActive)
/-- KEY_RETIRE_EXPIRE (R261). -/
def execKeyRetireExpire (c k : Nat) (s : State) : Host.Outcome State Fault Refusal := .next (keyRetireExpire s c k)
/-- CORE_CHECK (R250). -/
def execCoreCheck (c core : Nat) (pass : Bool) (s : State) : Host.Outcome State Fault Refusal :=
  .next (coreCheck s c core pass)
/-- KEY_ROTATE (R260). -/
def execKeyRotate (r tid dir : Nat) (s : State) : Host.Outcome State Fault Refusal :=
  .next (runCmd s r 0x3001 fun s c => cmdKeyRotate s c tid dir)
/-- KEY_ERASE (R270). -/
def execKeyErase (r tid dir : Nat) (s : State) : Host.Outcome State Fault Refusal :=
  .next (runCmdNow s r 0x3002 fun s c => cmdKeyErase s c tid dir)
/-- KEY_CFG (R270). -/
def execKeyCfg (r ch : Nat) (value : Word) (s : State) : Host.Outcome State Fault Refusal :=
  .next (runCmdNow s r 0x3003 fun s c => cmdKeyCfg s c ch value)

end Sys2Proof.Machine
end

