-- ==== Sys2Proof/Machine/Sched.lean ====
section
/-! DEFINITION. Downstream scheduling (R198 to R209) and the commands of the gate lists (R213 to R220): table writes, shapers,
admission to queues, selection, deficit round robin, placement of frames on the line, gate windows. -/
namespace Sys2Proof.Machine

/-! ## Nodes and shapers (R198, R207) -/

/-- Parameters of a queue, terminal or partition node. -/
structure NodeP where
  cir : Nat
  pir : Nat
  cbs : Nat
  pbs : Nat
  prio : Nat
  weight : Nat
  propagate : Bool
  empty : Bool
  deriving DecidableEq, Repr

/-- Of a DS_QUEUE entry. -/
def queueP (v : Nat) : NodeP :=
  ⟨nfld v 207 186, nfld v 185 164, nfld v 163 148, nfld v 147 132, nfld v 131 129, nfld v 127 120, false, nbit v 128⟩
/-- Of a DS_TERM entry or a CHN_DS_PART register. -/
def termP (v : Nat) : NodeP :=
  ⟨nfld v 126 105, nfld v 104 83, nfld v 82 67, nfld v 66 51, nfld v 50 48, nfld v 45 38, nbit v 47, nbit v 46⟩

/-- Node keys: a queue by its QID, terminals, a channel's partitions, the root of a channel. -/
def nodeTerm (tid : Nat) : Nat := 2 ^ 21 + tid
def nodePart (c p : Nat) : Nat := 2 ^ 22 + c * 64 + p
def nodeRoot (c : Nat) : Nat := 2 ^ 23 + c

/-- Bytes of a rate in 64 kbit/s over a time in ps, in units of 1/65,536 byte. -/
def fillOf (rate dt : Nat) : Nat := rate * 8000 * 65536 * dt / 10 ^ 12
/-- A bucket filled up to an instant in ps (R207). -/
def bucketAt (b : Bucket) (p : NodeP) (now : Nat) : Bucket :=
  { cir := min ((p.cbs * 64 * 65536 : Nat) : Int) (b.cir + (fillOf p.cir (now - b.at_) : Nat))
    pir := min ((p.pbs * 64 * 65536 : Nat) : Int) (b.pir + (fillOf p.pir (now - b.at_) : Nat))
    at_ := max now b.at_ }
/-- The bucket of a node at an instant. -/
def nodeBucket (s : State) (k : Nat) (p : NodeP) (now : Nat) : Bucket := bucketAt (mget {} s.sched.buckets k) p now
def setBucket (s : State) (k : Nat) (b : Bucket) : State :=
  { s with sched := { s.sched with buckets := mset {} s.sched.buckets k b } }

/-- The time in ps at a cycle start. -/
def cyclePs (n : Nat) : Nat := n * 15625000
/-- A write that changes CIR, PIR, CBS or PBS restarts both buckets (R207); at which instant of the cycle under way it lands is a free
value. -/
def restartBuckets (s : State) (k : Nat) (old new : NodeP) : State :=
  if old.cir = new.cir ∧ old.pir = new.pir ∧ old.cbs = new.cbs ∧ old.pbs = new.pbs then s
  else
    let now := cyclePs (cycleNow s) + freeVal s % 15625000
    setBucket (nextFree s) k (if new.empty then ⟨0, 0, now⟩
      else ⟨((new.cbs * 64 * 65536 : Nat) : Int), ((new.pbs * 64 * 65536 : Nat) : Int), now⟩)
/-- Charges a node's buckets with bytes (R204). -/
def chargeNode (s : State) (k : Nat) (p : NodeP) (now len : Nat) (committed : Bool) : State :=
  let b := nodeBucket s k p now
  let n : Int := (len * 65536 : Nat)
  setBucket s k { b with pir := b.pir - n, cir := if committed then b.cir - n else b.cir }

/-! ## Writes of DS_QUEUE, DS_TERM and CHN_DS_PART (R199, R200) -/

/-- The QIDs of the valid entries of a terminal. -/
def queuesOfTid (s : State) (tid : Nat) : List Nat :=
  (s.tabs.filter fun p => dsQueueAt 0 ≤ p.1 ∧ p.1 < dsQueueAt (2 ^ 20) ∧ p.1 % 32 = 28
    ∧ p.2.toNat.testBit 31 = true ∧ fld p.2 30 16 = tid).map fun p => (p.1 - dsQueueAt 0) / 32
/-- The count of valid queues of a partition's terminals. -/
def queuesOfPart (s : State) (p : Nat) : Nat :=
  (s.tabs.filter fun q => dsQueueAt 0 ≤ q.1 ∧ q.1 < dsQueueAt (2 ^ 20) ∧ q.1 % 32 = 28
    ∧ q.2.toNat.testBit 31 = true ∧ termPart s (fld q.2 30 16) = p).length

/-- The refusal of a DS_QUEUE write with VALID = 1, in the order of R200. -/
def dsQueueCheck (s : State) (qid v : Nat) : Option Status :=
  let old := dsQueue s qid
  let tid := qTid v
  let fresh : Bool := !(qValid old && qTid old == tid)
  if dsQueueBad (putNfld v 223 208 0) || decide (treeOfTid tid ≠ treeOfQid qid)
      || (fresh && decide (64 ≤ (queuesOfTid s tid).length)) then some .outOfRange
  else if fresh && decide (partQueueLimit (partPlan s) (termPart s tid) < queuesOfPart s (termPart s tid) + 1
      - b2n (qValid old && termPart s (qTid old) == termPart s tid)) then some .queueLimit
  else if qTid old ≠ tid ∧ qFrames s qid ≠ [] then some .busy
  else none

/-- A DS_QUEUE write (R200): refused, or stored; with VALID = 0 the queue is flushed. -/
def dsQueueWrite (s : State) (qid v : Nat) : State × Option Status :=
  if 2 ^ 20 ≤ qid ∨ treeValid s (treeOfQid qid) = false then (s, some .outOfRange)
  else match (if qValid v then dsQueueCheck s qid v else none) with
    | some st => (s, some st)
    | none =>
      let s := restartBuckets s qid (queueP (dsQueue s qid)) (queueP v)
      let s := if qValid v then s else qFlush s qid
      (wrT s (dsQueueAt qid) v 8, none)

/-- The refusal of a DS_TERM write with VALID = 1. -/
def dsTermCheck (v : Nat) : Option Status := if dsNodeBad v || nfld v 21 0 != 0 then some .outOfRange else none
/-- A DS_TERM write (R200): with VALID = 0 the terminal's queues are flushed. -/
def dsTermWrite (s : State) (tid v : Nat) : State × Option Status :=
  if 2 ^ 15 ≤ tid ∨ treeValid s (treeOfTid tid) = false then (s, some .outOfRange)
  else match (if nbit v 127 then dsTermCheck v else none) with
    | some st => (s, some st)
    | none =>
      let s := restartBuckets s (nodeTerm tid) (termP (dsTerm s tid)) (termP v)
      let s := if nbit v 127 then s else termFlush s tid
      (wrT s (dsTermAt tid) v 4, none)

/-- A commit of CHN_DS_PART by its word 3: refused with OUT_OF_RANGE for a WEIGHT of 0 and for what R200 refuses in node
fields. -/
def dsPartWrite (s : State) (c p v : Nat) : Option State :=
  if dsNodeBad v then none
  else
    let a := Adr.chnDsPart c p
    let v := putNfld (putNfld v 127 127 0) 37 0 0
    some (wrW (restartBuckets s (nodePart c p) (termP (rdW s a 4)) (termP v)) a v 4)

/-- Writes a terminal's entries from template i of a templates body: its node, and queue k, with the VALID of its record, at
q = 32 * slot + k (R209).
The first refusal ends the batch. -/
def tmplWrite (s : State) (body : List Byte) (tid i gen : Nat) : State × Option Status :=
  let node := putNfld (putNfld (tmplNode body i) 127 127 1) 37 22 gen
  match dsTermWrite s tid node with
  | (s, some st) => (s, some st)
  | (s, none) =>
    (List.range (tmplQcount body i)).foldl (fun (r : State × Option Status) k =>
      match r.2 with
      | some _ => r
      | none =>
        let q := qidOf (treeOfTid tid) (32 * slotOfTid tid + k)
        let v := putNfld (putNfld (tmplQueue body i k) 254 240 tid) 223 208 gen
        dsQueueWrite r.1 q v) (s, none)
/-- Templates of a body. -/
def tmplCount (body : List Byte) : Nat := body.length / 256
/-- The valid DEFAULT template of a partition. -/
def tmplDefaultOf (body : List Byte) (p : Nat) : Option Nat :=
  (List.range (tmplCount body)).find? fun i => tmplValid body i && tmplDefault body i && tmplPart body i == p
/-- At the basic level of function 2 a terminal that enters RANGING gets the default template of its partition (R209). The
generation firmware writes is unstated: a free value. -/
def tmplOnRanging (s : State) (tid : Nat) : State :=
  if basic s 2 (treeOfTid tid) then
    match tmplDefaultOf s.img.templates (termPart s tid) with
    | some i => nextFree (tmplWrite s s.img.templates tid i (freeVal s % 65536)).1
    | none => s
  else s

/-! ## Admission to queues (R200 to R203, R350) -/

/-- The states in which frames for a terminal are dropped (R202). -/
def termDown (st : Nat) : Bool := st == tsFree || st == tsAuthWait || st == tsDisabled || st == tsOffline
/-- Charged bytes queued. -/
def qDepth (s : State) (k : Nat) : Nat :=
  if k < 2 ^ 20 then
    let v := dsQueue s k
    let tag := sendTag s (qTid v)
    (qFrames s k).foldl (fun n f => n + chargedWith v f.len tag) 0
  else (qFrames s k).foldl (fun n f => n + f.len) 0

/-- The limit of an uplink egress queue in bytes is not given by any rule: it is bounded by the buffers alone. -/
def qAdmit (s : State) (k : Nat) (cl : Clause) : Option Nat :=
  if k < 2 ^ 20 then
    let v := dsQueue s k
    if !qValid v then some 2
    else if termDown (termEff s (qTid v)) || s.prt.standby then some 6
    else if qLimit v (colourOf cl.dp) < qDepth s k + chargedWith v cl.len (sendTag s (qTid v))
        ∨ qLimit v (colourOf cl.dp) = 0 then some 3
    else none
  else if portExists s ((k - 2 ^ 20) / 8) then none else some 3

/-- Counts a frame that a queue does not take: NO_QUEUE under the QID named, or the drop's code (R200, R201, R202); a
tracer leaves a DROP record. -/
def qRefuse (s : State) (k code : Nat) (cl : Clause) : State :=
  let s := pc s { code := 0x0D, tc := some cl.tc }
  let s := if code = 2 then stat s scQueue k 2 1 else qCount s k code 1
  if k < 2 ^ 20 then traceDrop s cl qIsland code scQueue k
  else traceDrop s cl qIsland 7 scPort ((k - 2 ^ 20) / 8)

/-- A frame enters a queue. -/
def qTake (s : State) (k : Nat) (cl : Clause) (f : Frame) : State :=
  let s := pc (qPush s k ⟨cl, f.data, f.tsReq⟩) { code := 0x0C, tc := some cl.tc }
  trace s cl stEnqueue qIsland (if k < 2 ^ 20 then k else cl.queue) cl.buf

/-- Puts a frame into the queues named, one buffer for all the copies (R201, R345, R350): each queue admits or drops it;
those that take it share the buffer, or it is dropped and counted in BUF_DROP of each. An injected tracer takes no
buffer (R437). -/
def enqueue (s : State) (f : Frame) (ks : List Nat) (busySites : Nat) : State :=
  let s := ks.foldl (fun s k => match qAdmit s k f.cl with | some code => qRefuse s k code f.cl | none => s) s
  let ok := ks.filter fun k => (qAdmit s k f.cl).isNone
  let name (k : Nat) : Nat := if k < 2 ^ 20 then k else f.cl.queue
  match ok with
  | [] => s
  | k0 :: _ =>
    if f.cl.kind = ClauseKind.tracer.code then
      ok.foldl (fun s k => qTake s k { f.cl with buf := noBuf, queue := name k } f) s
    else
      let (names, s) := fitNames s (ok.map qHolder)
      let ok := ok.take names.length
      match placeFrame s f.cl.kind f.cl.part f.cl.len (colourOf f.cl.dp) (qCellBytes s k0) names busySites with
      | (none, s) => ok.foldl (fun s k =>
          if k < 2 ^ 20 then
            traceDrop (pc (stat s scQueue k 8 1) { code := 0x0D, tc := some f.cl.tc }) f.cl qIsland 8 scQueue k
          else traceDrop (pc s { code := 0x0D, tc := some f.cl.tc }) f.cl qIsland 6 scPort ((k - 2 ^ 20) / 8)) s
      | (some h, s) => ok.foldl (fun s k => qTake s k { f.cl with buf := h, queue := name k } f) s

/-! ## The line (R89, R93, R94, R206) -/

/-- Payload bytes of a C50 channel's downstream frame (R124). -/
def c50Area : Nat := clamp 1 777600 Config.c50Payload
/-- Bytes of a channel's packet area, of the cycle under way; on a C50 channel, of the frame. -/
def packetArea (s : State) (c : Nat) : Nat := if isC50 s c then c50Area else packetBytes s c
/-- Those of the packet area after it. -/
def areaAfter (s : State) (c : Nat) : Nat := if isC50 s c then c50Area else cycleArea - min cycleArea (crsAfter s c)
/-- The downstream cycle with which the area under way started. -/
def areaCycle (s : State) (c : Nat) : Nat := if isC50 s c then cycleNow s / 8 * 8 else cycleNow s
/-- Cycles an area lasts. -/
def areaCycles (s : State) (c : Nat) : Nat := if isC50 s c then 8 else 1

/-- The instant in ps after the cycle start at which information byte q of a cycle leaves: 78.125 ns a codeword, 8 / 225.28
ns a byte (R214). -/
def bytePs (q : Nat) : Nat := q / 2048 * 78125 + q % 2048 * 800000 / 22528
/-- The end of the codeword that holds information byte q (R215). -/
def codewordEndPs (q : Nat) : Nat := (q / 2048 + 1) * 78125
/-- The areas after the one under way, and the information byte, of a packet-area position of a channel: what lies at most 64 KiB and
a frame ahead is in this area or the next. -/
def lineByte (s : State) (c pos : Nat) : Nat × Nat :=
  let a := packetArea s c
  if pos < a then (0, 4096 + crsNow s c + pos) else (1, 4096 + crsAfter s c + (pos - a))
/-- The instant in ps, from the cycle start under way, that lies dt ps after the start of an area of a channel. -/
def areaPs (s : State) (c j dt : Nat) : Nat :=
  cyclePs (areaCycle s c + j * areaCycles s c) + dt - cyclePs (cycleNow s)
/-- The instant in ps, from the cycle start under way, at which a position's byte leaves, and its codeword ends. -/
def leavePs (s : State) (c pos : Nat) : Nat :=
  if isC50 s c then areaPs s c (pos / c50Area) (Config.c50BytePs (pos % c50Area))
  else let (j, q) := lineByte s c pos; areaPs s c j (bytePs q)
def endPs (s : State) (c pos : Nat) : Nat :=
  if isC50 s c then areaPs s c (pos / c50Area) (Config.c50EndPs (pos % c50Area))
  else let (j, q) := lineByte s c pos; areaPs s c j (codewordEndPs q)

/-- Where a frame of len client bytes and a tag lies, from a position on (R94): its first position, the position after it,
and the bytes of its first fragment, less than len where it is cut. The area under way and the one after it are given. -/
structure Place where
  start : Nat
  stop : Nat
  cut : Option Nat
  deriving DecidableEq, Repr
def placeAt (area after pos len tag : Nat) : Place :=
  let next := if pos < area then area else area + max 1 after
  let r := next - pos
  let n := 8 + len + tag
  if n ≤ r then ⟨pos, pos + n, none⟩
  else if 64 ≤ r then
    let first := min len (r - 8)
    ⟨pos, next + 8 + (len - first) + tag, some first⟩
  else ⟨next, next + n, none⟩

/-- The position at which the line stands, not behind the byte now leaving; a gap is idle frames, of 8 bytes at least (R93, R206). -/
def linePos (s : State) (c lineAt : Nat) : Nat :=
  let p := mget 0 s.sched.pos c
  let e := if p < packetArea s c then packetArea s c else packetArea s c + areaAfter s c
  let q := if e < p + 8 then e else p
  if lineAt ≤ p then p else if lineAt ≤ q then q else max lineAt (q + 8)
/-- Puts bytes on the line. -/
def putLine (s : State) (c : Nat) (b : List Byte) : State :=
  { s with line := { s.line with pkt := mset [] s.line.pkt c (pktOf s c ++ b) } }
/-- Idle fill of the packet area from one position to another: up to the end of the area, where it goes on in the next (R93). -/
def idleTo (s : State) (c start stop : Nat) : List Byte :=
  let a := packetArea s c
  if start < a ∧ a < stop then idleBytes (a - start) ++ idleBytes (stop - a) else idleBytes (stop - start)
/-- The line is filled with idle up to a position, which is counted. -/
def lineIdle (s : State) (c start : Nat) : State :=
  let old := mget 0 s.sched.pos c
  if old < start then
    let s := cnt64 s (Adr.chnDsCnt c 2) (start - old)
    let s := if isN200 s c then putLine s c (idleTo s c old start) else s
    { s with sched := { s.sched with pos := mset 0 s.sched.pos c start } }
  else s
/-- Moves the line's position on past a frame. -/
def advanceLine (s : State) (c stop : Nat) : State :=
  { s with sched := { s.sched with pos := mset 0 s.sched.pos c stop } }

/-! ## Eligibility (R202, R205, R215, R235) -/

/-- Whether a terminal's frame placed so may be sent: ACTIVE, with a sending key; in TRANSIT before the
switch only what leaves before D_X unfragmented in cycle X - 1, and after it nothing before cycle Y (R202, R235). -/
def termMaySend (s : State) (c tid : Nat) (p : Place) : Bool :=
  let st := termEff s tid
  let now := cycleNow s
  (sendSlot s c (slotOfTid tid)).isSome && !coresGone s c && (st == tsActive || (st == tsTransit &&
    match s.transits.find? (·.1 = tid) with
    | none => false
    | some (_, r) =>
      if rf s (Adr.treTransitStat (treeOfTid tid) (slotOfTid tid)) 31 28 < 3 then
        decide (now + (lineByte s c (p.stop - 1)).1 < r.x)
      else decide (r.y ≤ now + (lineByte s c p.start).1)))

/-- Whether a terminal's node can have no eligible child, whatever the position: neither ACTIVE nor in TRANSIT, whose frames go by
R235, or without a usable key. -/
def termShut (s : State) (c tid : Nat) : Bool :=
  let st := termEff s tid
  !(st == tsActive || st == tsTransit) || (sendSlot s c (slotOfTid tid)).isNone || coresGone s c
/-- Whether a terminal's node is held (R202): RANGING, KEYING, LOST, TRANSIT, or in service without a usable key. -/
def termHeld (s : State) (c tid : Nat) : Bool :=
  let st := termEff s tid
  st == tsRanging || st == tsKeying || st == tsLost || st == tsTransit
    || (st == tsActive && ((sendSlot s c (slotOfTid tid)).isNone || coresGone s c))

/-- The head frame of a queue, once it may be sent: a deep frame counts only when it is staged (R352). -/
def qHead (s : State) (k : Nat) : Option QFrame :=
  match qFrames s k with
  | [] => none
  | f :: _ => if f.cl.buf ≠ noBuf ∧ 1 ≤ handlePool f.cl.buf ∧ handlePool f.cl.buf ≤ 8 ∧ ¬ k ∈ s.sched.staged then none
              else some f

/-- The queues of a channel that are children of a terminal node: valid entries not bound to a constant-rate entry. -/
def chanQueues (s : State) (c : Nat) : List Nat :=
  let bound := crsQueues s c
  (treeQueues s (c / 4)).filter fun q => qValid (dsQueue s q) && qChan s q == c && decide (¬ q ∈ bound)

/-- A queue's eligibility at a line position (R205). -/
def queueEligible (s : State) (c pos now : Nat) (q : Nat) : Bool :=
  let v := dsQueue s q
  let p := queueP v
  match qHead s q with
  | none => false
  | some f =>
    let pl := placeAt (packetArea s c) (areaAfter s c) pos f.len (sendTag s (qTid v))
    (p.pir == 0 || decide (0 < (nodeBucket s q p now).pir)) && termMaySend s c (qTid v) pl
      && spanFits s c (qGate v) (leavePs s c pl.start) (endPs s c (pl.stop - 1))

/-! ## Selection (R204) -/

/-- A child at one level: its key, its parameters, effective PRIO, and whether its committed bucket is open. -/
structure Child where
  key : Nat
  p : NodeP
  prio : Nat
  committed : Bool
  deriving DecidableEq, Repr

def mkChild (s : State) (now key : Nat) (p : NodeP) (below : Nat) : Child :=
  ⟨key, p, if p.propagate then max p.prio below else p.prio,
   decide (0 < p.cir) && decide (0 < (nodeBucket s key p now).cir)⟩

/-- The child after a key in rising order, round the end. -/
def childAfter (cs : List Child) (k : Nat) : Option Child :=
  let least (l : List Child) : Option Child := l.foldl (fun m x =>
    match m with | none => some x | some y => if x.key < y.key then some x else some y) none
  match least (cs.filter fun x => k < x.key) with
  | some x => some x
  | none => least cs

/-- One quantum: WEIGHT * 256 bytes. -/
def quantum (x : Child) : Int := (x.p.weight * 256 : Nat)
/-- A child's deficit; one quantum at first. -/
def deficitOf (d : DrrSt) (x : Child) : Int := ((d.deficit.find? (·.1 = x.key)).map (·.2)).getD (quantum x)

/-- The child at the pointer that has a deficit above 0; a child whose deficit is 0 or below gains its quantum and the
pointer moves on (R204). -/
def drrNext (cs : List Child) : Nat → DrrSt → Child → DrrSt × Child
  | 0, d, x => ({ d with ptr := x.key }, x)
  | n + 1, d, x =>
    if 0 < deficitOf d x then ({ d with ptr := x.key }, x)
    else
      let d := { d with deficit := mput d.deficit x.key (deficitOf d x + quantum x) }
      drrNext cs n d ((childAfter cs x.key).getD x)

/-- Charges the child served; at 0 or below its deficit gains its quantum and the pointer moves on. -/
def drrCharge (cs : List Child) (d : DrrSt) (x : Child) (len : Nat) : DrrSt :=
  let v := deficitOf d x - (len : Int)
  if 0 < v then { ptr := x.key, deficit := mput d.deficit x.key v }
  else { ptr := ((childAfter cs x.key).getD x).key, deficit := mput d.deficit x.key (v + quantum x) }

/-- One level's choice: the tier, the children at the highest effective PRIO, and the child drr_next gives. -/
structure Pick where
  drrKey : Nat
  peers : List Child
  drr : DrrSt
  child : Child
  committed : Bool
  deriving DecidableEq, Repr
def pickChild (s : State) (node : Nat) (es : List Child) : Option Pick :=
  let cs := es.filter (·.committed)
  let tier := if cs.isEmpty then es else cs
  let top := tier.foldl (fun m x => max m x.prio) 0
  let peers := tier.filter fun x => x.prio == top
  let key := node * 16 + (if cs.isEmpty then 0 else 8) + top
  let d := mget {} s.sched.drr key
  let at0 := match peers.find? fun x => x.key == d.ptr with
    | some x => some x
    | none => childAfter peers d.ptr
  at0.map fun x =>
    let (d, x) := drrNext peers (128 * peers.length + 1) d x
    ⟨key, peers, d, x, !cs.isEmpty⟩

/-- The children of a channel's tree that are eligible, level by level: queues by terminal, terminals by partition. -/
def eligTree (s : State) (c pos now : Nat) : List (Nat × List (Nat × List Nat)) :=
  let qs := (chanQueues s c).filter (queueEligible s c pos now)
  let tids := (qs.map fun q => qTid (dsQueue s q)).dedup.filter fun tid =>
    let v := dsTerm s tid
    let p := termP v
    nbit v 127 && !termShut s c tid && (p.pir == 0 || decide (0 < (nodeBucket s (nodeTerm tid) p now).pir))
  let parts := (tids.map (termPart s)).dedup.filter fun pt =>
    let p := termP (rdW s (Adr.chnDsPart c pt) 4)
    p.pir == 0 || decide (0 < (nodeBucket s (nodePart c pt) p now).pir)
  parts.map fun pt => (pt, (tids.filter fun tid => termPart s tid == pt).map fun tid =>
    (tid, qs.filter fun q => qTid (dsQueue s q) == tid))

def queueChild (s : State) (now q : Nat) : Child := mkChild s now q (queueP (dsQueue s q)) 0
def termChild (s : State) (now : Nat) (x : Nat × List Nat) : Child :=
  mkChild s now (nodeTerm x.1) (termP (dsTerm s x.1)) ((x.2.map fun q => (queueP (dsQueue s q)).prio).foldl max 0)
def partChild (s : State) (c now : Nat) (x : Nat × List (Nat × List Nat)) : Child :=
  mkChild s now (nodePart c x.1) (termP (rdW s (Adr.chnDsPart c x.1) 4)) ((x.2.map fun t => (termChild s now t).prio).foldl max 0)

/-- The queue selected and the path to it (R204). -/
def selectQueue (s : State) (c pos now : Nat) : Option (Nat × List Pick) :=
  let tree := eligTree s c pos now
  match pickChild s (nodeRoot c) (tree.map (partChild s c now)) with
  | none => none
  | some p1 =>
    match tree.find? fun x => nodePart c x.1 == p1.child.key with
    | none => none
    | some (_, terms) =>
      match pickChild s p1.child.key (terms.map (termChild s now)) with
      | none => none
      | some p2 =>
        match terms.find? fun x => nodeTerm x.1 == p2.child.key with
        | none => none
        | some (_, qs) =>
          match pickChild s p2.child.key (qs.map (queueChild s now)) with
          | none => none
          | some p3 => some (p3.child.key, [p1, p2, p3])

/-- Charges every node on the path (R204). -/
def chargePath (s : State) (now len : Nat) (path : List Pick) : State :=
  path.foldl (fun s p =>
    let s := chargeNode s p.child.key p.child.p now len p.committed
    { s with sched := { s.sched with drr := mset {} s.sched.drr p.drrKey (drrCharge p.peers p.drr p.child len) } }) s

/-! ## Drops at the head (R216, R217, R355) -/

/-- Drops a queue's head frame: counted under a code and freed. -/
def qDropHead (s : State) (k code : Nat) : State :=
  match qFrames s k with
  | [] => s
  | f :: _ =>
    let s := qCount (qFree (qPop s k) k f) k code 1
    if k < 2 ^ 20 then traceDrop s f.cl qIsland code scQueue k
    else traceDrop s f.cl qIsland (code + 4) scPort ((k - 2 ^ 20) / 8)

/-- Whether a port adds the uplink tag to a frame. -/
def addsUptag (s : State) (u : Nat) (cl : Clause) : Bool := rb s (Adr.uplPortCfg u) 26 && cl.hasFlag flagUptag
/-- The charged length, or at an uplink port the frame bytes with the tag it adds, that R216 measures at a unit. -/
def gateLen (s : State) (k : Nat) (f : QFrame) : Nat :=
  if k < 2 ^ 20 then chargedWith (dsQueue s k) f.len (sendTag s (qTid (dsQueue s k)))
  else f.len + if addsUptag s ((k - 2 ^ 20) / 8) f.cl then 16 else 0
/-- The unit of a queue and its gate. -/
def qUnit (s : State) (k : Nat) : Nat := if k < 2 ^ 20 then qChan s k else 256 + (k - 2 ^ 20) / 8
def qGateOf (s : State) (k : Nat) : Nat := if k < 2 ^ 20 then qGate (dsQueue s k) else (k - 2 ^ 20) % 8

/-- Whether a frame is longer than its gate's longest window in the running list (R216). -/
def oversize (s : State) (k : Nat) (f : QFrame) : Bool :=
  match (gclOf s (qUnit s k)).run with
  | none => false
  | some l => match wMax l (qGateOf s k) with
    | none => false
    | some w => decide (w * 1000 < tWorst s (qUnit s k) (gateLen s k f))

/-- Drops head frames that can never leave: oversize frames, and frames in lost memory (R216, R355). -/
def qClean (k : Nat) : Nat → State → State
  | 0, s => s
  | n + 1, s =>
    match qFrames s k with
    | [] => s
    | f :: _ =>
      if oversize s k f then qClean k n (gclEvent (qDropHead s k 4) (qUnit s k) 3)
      else if bufLost s f.cl.buf then qClean k n (qFree (lostFlight (qPop s k) k 1) k f)
      else s
def qCleanAll (s : State) (ks : List Nat) : State := ks.foldl (fun s k => qClean k (qFrames s k).length s) s

/-! ## Sending a frame -/

/-- An encapsulation frame goes into a channel's framer. -/
def frameOut (s : State) (c : Nat) (o : Sent) : State :=
  let s := emit s o
  match o with
  | .dsFrame _ hdr payload => if isN200 s c then putLine s c (hdr ++ payload) else s
  | _ => s
/-- Sends an encapsulation frame of a client frame on a channel, past the channel's downstream injector (R439). -/
def sendEnc (s : State) (c tid : Nat) (hdr payload : List Byte) : State :=
  let (us, s) := fiPass s (Adr.fiCfgDs c) (some tid) (.out (.dsFrame c hdr payload))
  us.foldl (fun s u => match u with | .out o => frameOut s c o | _ => s) s

/-- Sends a queue's head frame on a C50 channel, whole, in XGEM under the key's AES-128 counter mode (R125); the layouts are those of
ITU-T G.9804.2. -/
def sendC50 (s : State) (c q : Nat) (f : QFrame) (start : Nat) : State :=
  let tid := qTid (dsQueue s q)
  match sendSlot s c (slotOfTid tid) with
  | none => s
  | some k =>
    let hdr := Config.xgemHeader tid (Config.dsStream q % 31) f.len (k % 2 + 1) true
    let s := ciphCount (ciphCount s c 0 1) c 1 f.len
    sendEnc s c tid hdr (Config.aesCtr (keyMat s c k) (Config.c50Counter 0 tid (cycleNow s / 8) start) f.data)

/-- Sends a queue's head frame on an N200 channel at a place: encrypted under the terminal's sending key, whole or in two
fragments, each with its header; it stays latched to the slot while its bytes leave (R92, R94, R204, R251, R257, R267). -/
def sendFrame (s : State) (c q : Nat) (f : QFrame) (pl : Place) : State :=
  let tid := qTid (dsQueue s q)
  match sendSlot s c (slotOfTid tid) with
  | none => s
  | some k =>
    let stream := Config.dsStream q % 31
    let t12 := keyTag12 s c k
    let idx := k % 2 + 1
    let gen := keyGen s c k
    let ((ct, tag), s) := keySeal s c k stream f.data
    let at0 := (pktOf s c).length
    let (s, segs) := match pl.cut with
      | none =>
        let s := sendEnc s c tid (encHeader tid stream f.len .whole idx t12) (ct ++ tag)
        (s, [(at0, (pktOf s c).length)])
      | some n =>
        let next := pl.stop - (8 + (f.len - n) + if t12 then 12 else 16)
        let s := sendEnc s c tid (encHeader tid stream n .first idx t12) (ct.take n)
        let stop := (pktOf s c).length
        let s := putLine s c (idleBytes (next - (pl.start + 8 + n)))
        let at1 := (pktOf s c).length
        let s := sendEnc s c tid (encHeader tid stream (f.len - n) .last idx t12) (ct.drop n ++ tag)
        (s, [(at0, stop), (at1, (pktOf s c).length)])
    let s := { s with keys := { s.keys with latched := s.keys.latched ++ [⟨c, k, gen, segs⟩] } }
    if keyEff s c k = ksActive then s else keyReact s tid 0

/-- Counts a client frame that a queue sends: in the channel's scheduler, for the queue and for the terminal. -/
def countSent (s : State) (c q : Nat) (f : QFrame) (charged : Nat) : State :=
  let tid := qTid (dsQueue s q)
  let s := cnt64 (cnt64 s (Adr.chnDsCnt c 0) 1) (Adr.chnDsCnt c 1) charged
  let s := stat (stat s scQueue q 0 1) scQueue q 1 charged
  stat (stat s scTerm tid 0 1) scTerm tid 1 f.len

/-- Marks the head frames of queues that fit their gates now, in a window at whose opening they stood (R217). -/
def markFits (s : State) (qs : List Nat) (fits : Nat → QFrame → Bool) : State :=
  let mark := fun (p : Nat × Nat) =>
    if p.1 ∈ qs ∧ p.2 % 4 = 1 then
      match qHead s p.1 with
      | some f => if fits p.1 f then (p.1, p.2 + 2) else p
      | none => p
    else p
  { s with sched := { s.sched with waits := s.sched.waits.map mark } }

/-- Whether a frame fits its gate at a position of a channel's line (R215). -/
def lineFits (s : State) (c pos q : Nat) (f : QFrame) : Bool :=
  let v := dsQueue s q
  let pl := placeAt (packetArea s c) (areaAfter s c) pos f.len (sendTag s (qTid v))
  spanFits s c (qGate v) (leavePs s c pl.start) (endPs s c (pl.stop - 1))

/-- Where the line stands after a frame whose place ends at stop: where an injector has changed what is sent, after what it let
through. -/
def lineStop (s t : State) (c stop : Nat) : Nat :=
  if fiArmed s (Adr.fiCfgDs c) || !(fiOf s (Adr.fiCfgDs c)).held.isEmpty then
    mget 0 s.sched.pos c + ((pktOf t c).length - (pktOf s c).length)
  else stop

/-- One selection on a channel (R204 to R206), the line's packet-area byte now leaving given: with less than 64 KiB
waiting, one frame is selected, placed, charged and sent. -/
def schedSelect (s : State) (c lineAt : Nat) : State :=
  if !sendsCycles s c || decide (packetArea s c ≤ lineAt) then s
  else
    let s := qCleanAll s (chanQueues s c)
    let pos := linePos s c lineAt
    let now := cyclePs (cycleNow s) + leavePs s c lineAt
    if lineAt + 65536 ≤ pos then s
    else
      let s := markFits s (chanQueues s c) (lineFits s c pos)
      match selectQueue s c pos now with
      | none => s
      | some (q, path) =>
        match qHead s q with
        | none => s
        | some f =>
          let v := dsQueue s q
          let tag := sendTag s (qTid v)
          let len := chargedWith v f.len tag
          let pl := placeAt (packetArea s c) (areaAfter s c) pos f.len tag
          let s := trace s f.cl stSelect qIsland q (qDepth s q)
          let sent (s : State) : State := trace s f.cl stTransmit c f.cl.egr (cycleNow s)
          if f.cl.kind = ClauseKind.tracer.code then sent (qPop s q)
          else
            let s := lineIdle (chargePath s now len path) c pl.start
            let t := if isN200 s c then sendFrame s c q f pl else sendC50 s c q f pl.start
            sent (qFree (qPop (countSent (advanceLine t c (lineStop s t c pl.stop)) c q f len) q) q f)

/-! ## Gate lists (R213, R217 to R220) -/

/-- The queues with frames that gate g of a unit governs. -/
def gateQueues (s : State) (x g : Nat) : List Nat :=
  if x < 256 then (chanQueues s x).filter fun q => qGate (dsQueue s q) == g
  else (s.sched.queues.filter fun p => p.1 == uplKey (x - 256) g).map (·.1)

/-- WAIT_LIMIT of a unit. -/
def waitLimit (s : State) (x : Nat) : Nat := rf s (gclCtl x) 7 0

/-- Sets what is kept of a head frame's wait. -/
def setWait (s : State) (q w : Nat) : State := { s with sched := { s.sched with waits := mset 0 s.sched.waits q w } }
/-- A window of gate g ends: a head frame that stood at its opening and has not fitted since has waited through it, and WAIT_LIMIT of
them in a row drop it (R217). A window in which it fitted, though it was held, shaped or not selected, ends the row. -/
def windowEnd (s : State) (x g : Nat) : State :=
  (gateQueues s x g).foldl (fun s q =>
    let w := mget 0 s.sched.waits q
    if w % 4 = 1 then
      let n := w / 4 + 1
      if waitLimit s x ≠ 0 ∧ waitLimit s x ≤ n then gclEvent (qDropHead s q 5) x 4 else setWait s q (4 * n)
    else if w % 4 = 3 then setWait s q 0
    else s) s
/-- A window of gate g opens: the head frames now standing are marked. -/
def windowOpen (s : State) (x g : Nat) : State :=
  (gateQueues s x g).foldl (fun s q => setWait s q (mget 0 s.sched.waits q / 4 * 4 + 1)) s
/-- The gates of a unit take new states. -/
def gatesTake (s : State) (x gates : Nat) : State :=
  let old := rf s (gclStat x) 15 8
  let s := wf s (gclStat x) 15 8 gates
  (List.range 8).foldl (fun s g =>
    if nbit old g && !nbit gates g then windowEnd s x g
    else if !nbit old g && nbit gates g then windowOpen s x g else s) s

/-- The next entry of a running list starts and sets the gate states (R213). -/
def gateEntryChange (s : State) (x : Nat) : State :=
  match (gclOf s x).run with
  | none => s
  | some l =>
    let es := gclCut l.entries l.cycle
    let i := if rf s (gclStat x) 7 0 + 1 < es.length then rf s (gclStat x) 7 0 + 1 else 0
    match es[i]? with
    | some (g, _) => gatesTake (wf s (gclStat x) 7 0 i) x g
    | none => s

/-- At S the pending list takes entry 0, with the windows that end and open there (R220). -/
def gclStartTake (s : State) (x : Nat) : State :=
  let old := rf s (gclStat x) 15 8
  let s := gclStart s x
  let new := rf s (gclStat x) 15 8
  gatesTake (wf s (gclStat x) 15 8 old) x new

/-- Units that exist: channels and uplink lanes of the part. -/
def unitOk (s : State) (x : Nat) : Bool :=
  if x < 256 then chanValid s x else decide (x < 512) && laneValid s (x - 256)
/-- The owner check of a unit's list registers: function 2 of the tree, or the physical function for a port (R226, R227). -/
def gclWriter (s : State) (who : Requester) (x : Nat) (ok : State → State) : State :=
  let a := gclCtl x
  if unitOk s x = false then s
  else if islDown s (islandOf a) then wrDown s who a
  else if x < 256 then (if isOwner s who x 2 (x / 4) then ok s else wrNotOwner s who a 2 (x / 4))
  else if isPfSide s who then ok s else wrRefuse s who a .notAuthorized
/-- INSTALL written to a unit's list control (R219). -/
def gclInstallWrite (s : State) (who : Requester) (x : Nat) : State :=
  gclWriter s who x fun s => match gclInstall s x with
    | some s => wrOk s who (gclCtl x)
    | none => wrRefuse s who (gclCtl x) .outOfRange
/-- ENABLE = 0 written to a unit's list control (R220). -/
def gclDisableWrite (s : State) (who : Requester) (x : Nat) : State :=
  gclWriter s who x fun s =>
    let g := rf s (gclStat x) 15 8
    let s := gclDisable (wb s (gclCtl x) 31 false) x
    wrOk (gatesTake (wf s (gclStat x) 15 8 g) x (defaultGates s x)) who (gclCtl x)

/-! ## Table commands (R394, R209) -/

/-- The units that items name are of the command's function (R394). -/
def itemsOwn (s : State) (fn : Nat) (tids : List Nat) : Bool := tids.all fun tid => fn == 0 || termPart s tid == fn - 1

/-- QUEUE_SET (R199, R200). -/
def cmdQueueSet (s : State) (c : CmdCtx) : State × OutRec :=
  let items := (hostItems s c 40).map fun b => (leAt b 0 8, putNfld (leAt b 8 32) 223 208 c.gen)
  if c.gen = 0 ∨ itemsOwn s c.fn (items.map fun i => qTid i.2) = false then (s, refusal .outOfRange)
  else runItems (fun s (i : Nat × Nat) =>
    if basic s 2 (treeOfQid i.1 % 64) then dsQueueWrite s i.1 i.2 else (s, some .notOwner)) items 0 s {}
/-- TERM_NODE_SET (R199, R200). -/
def cmdTermNodeSet (s : State) (c : CmdCtx) : State × OutRec :=
  let items := (hostItems s c 24).map fun b => (leAt b 0 8, putNfld (leAt b 8 16) 37 22 c.gen)
  if c.gen = 0 ∨ itemsOwn s c.fn (items.map fun i => i.1) = false then (s, refusal .outOfRange)
  else runItems (fun s (i : Nat × Nat) =>
    if basic s 2 (treeOfTid i.1 % 64) then dsTermWrite s i.1 i.2 else (s, some .notOwner)) items 0 s {}
/-- TMPL_APPLY: each item names a TID and a template (R209). -/
def cmdTmplApply (s : State) (c : CmdCtx) (items : List (Nat × Nat)) : State × OutRec :=
  let b := s.img.templates
  if c.gen = 0 ∨ itemsOwn s c.fn (items.map (·.1)) = false then (s, refusal .outOfRange)
  else runItems (fun s (i : Nat × Nat) =>
    if 2 ^ 15 ≤ i.1 ∨ treeValid s (treeOfTid i.1) = false ∨ slotLimit s (treeOfTid i.1) ≤ slotOfTid i.1
        ∨ tmplCount b ≤ i.2 ∨ tmplValid b i.2 = false then (s, some .outOfRange)
    else if basic s 2 (treeOfTid i.1) then tmplWrite s b i.1 i.2 c.gen else (s, some .notOwner)) items 0 s {}

/-! ## Commands -/

/-- SCHEDULER_SELECT (R204). -/
def execSchedulerSelect (c lineAt : Nat) (s : State) : Host.Outcome State Fault Refusal :=
  .next (dataUp s fun s => schedSelect s c lineAt)
/-- GATE_ENTRY_CHANGE (R213). -/
def execGateEntryChange (x : Nat) (s : State) : Host.Outcome State Fault Refusal := .next (gateEntryChange s x)
/-- GCL_INSTALL (R219). -/
def execGclInstall (who : Requester) (x : Nat) (s : State) : Host.Outcome State Fault Refusal :=
  .next (gclInstallWrite s who x)
/-- GCL_DISABLE (R220). -/
def execGclDisable (who : Requester) (x : Nat) (s : State) : Host.Outcome State Fault Refusal :=
  .next (gclDisableWrite s who x)
/-- GCL_START (R220). -/
def execGclStart (x : Nat) (s : State) : Host.Outcome State Fault Refusal := .next (gclStartTake s x)
/-- QUEUE_SET (R200). -/
def execQueueSet (r : Nat) (s : State) : Host.Outcome State Fault Refusal :=
  .next (runCmdNow s r 0x2002 fun s c => cmdQueueSet s c)
/-- TERM_NODE_SET (R200). -/
def execTermNodeSet (r : Nat) (s : State) : Host.Outcome State Fault Refusal :=
  .next (runCmdNow s r 0x2003 fun s c => cmdTermNodeSet s c)
/-- TMPL_APPLY (R209). -/
def execTmplApply (r : Nat) (items : List (Nat × Nat)) (s : State) : Host.Outcome State Fault Refusal :=
  .next (runCmdNow s r 0x2004 fun s c => cmdTmplApply s c items)
/-- DEEP_HEAD_FETCH_DONE (R352): the head of queue key k is staged. -/
def execDeepHeadFetchDone (k : Nat) (s : State) : Host.Outcome State Fault Refusal :=
  .next (dataUp s fun s =>
    if qFrames s k = [] then s else { s with sched := { s.sched with staged := addNew s.sched.staged k } })

end Sys2Proof.Machine
end

