-- ==== Sys2Proof/Machine/Grants.lean ====
section
/-! DEFINITION. Allocations and system grants (R165 to R172, R186): GE_ALLOC and GE_ASTAT, admission, reports, bookings. -/
namespace Sys2Proof.Machine

/-! ## Allocations (R165 to R169) -/

/-- Table addresses (R386). -/
def geAllocAt (aid : Nat) : Nat := entAddr 0x10 32 aid
def geAlloc (s : State) (aid : Nat) : Nat := rdT s (geAllocAt aid) 8
def aValid (v : Nat) : Bool := nbit v 255
def aPredict (v : Nat) : Bool := nbit v 254
def aShift (v : Nat) : Nat := nfld v 253 250
def aStream (v : Nat) : Nat := nfld v 249 245
def aTid (v : Nat) : Nat := nfld v 244 230
def aPart (v : Nat) : Nat := nfld v 229 224
def aAssured (v : Nat) : Nat := nfld v 207 186
def aMax (v : Nat) : Nat := nfld v 185 164
def aStdUnits (v : Nat) : Nat := nfld v 163 148
def aStdPeriod (v : Nat) : Nat := nfld v 147 142 + 1
def aStdPhase (v : Nat) : Nat := nfld v 141 136
def aWeight (v : Nat) : Nat := nfld v 135 128
def aLat (v : Nat) : Nat := nfld v 127 120
def aPoll (v : Nat) : Nat := nfld v 119 112
def aDepth (v : Nat) : Nat := nfld v 111 106 + 1

/-- The engine's view of an allocation. -/
def allocDyn (s : State) (aid : Nat) : AllocDyn := mget {} s.grant.alloc aid
def setDyn (s : State) (aid : Nat) (d : AllocDyn) : State :=
  { s with grant := { s.grant with alloc := mset {} s.grant.alloc aid d } }

/-- The AIDs of valid entries whose TID passes a test, in rising order. -/
def allocsWhere (s : State) (p : Nat → Bool) : List Nat :=
  (s.tabs.filter fun q => geAllocAt 0 ≤ q.1 ∧ q.1 < geAllocAt (2 ^ 19) ∧ q.1 % 32 = 28
    ∧ q.2.toNat.testBit 31 = true ∧ p (fld q.2 20 6) = true).map fun q => (q.1 - geAllocAt 0) / 32
/-- The valid allocations of a terminal. -/
def allocsOf (s : State) (tid : Nat) : List Nat := allocsWhere s (· == tid)
/-- The valid allocation of a terminal's stream. -/
def allocStream (s : State) (tid stream : Nat) : Option Nat :=
  (allocsOf s tid).find? fun a => aStream (geAlloc s a) == stream

/-- The channels on which a terminal counts (R169, R231): where it works, and during a Transit its source and destination;
none while it is FREE. -/
def countChans (s : State) (tid : Nat) : List Nat :=
  let t := treeOfTid tid
  let st := termEff s tid
  if st = tsFree then []
  else if st = tsTransit then
    let a := Adr.treTransitStat t (slotOfTid tid)
    [chanOf t (rf s a 27 26), chanOf t (rf s a 25 24)].dedup
  else [termChan s tid]
/-- Units an allocation counts (R169). -/
def allocUnits (v : Nat) : Nat := max (aAssured v) (ceilDiv (32 * aStdUnits v) (aStdPeriod v))
/-- The assured sum of a channel: CHN_GE_ASSURED_USED. -/
def assuredSum (s : State) (c : Nat) : Nat :=
  (allocsWhere s fun tid => treeOfTid tid == c / 4 && decide (c ∈ countChans s tid)).foldl
    (fun n a => n + allocUnits (geAlloc s a)) 0
/-- CAP of a channel. -/
def assuredCap (s : State) (c : Nat) : Nat := rf s (Adr.chnGeAssured c) 21 0

/-- The refusal of a GE_ALLOC write with VALID = 1, in the order of R167. -/
def geAllocCheck (s : State) (aid v : Nat) : Option Status :=
  let tid := aTid v
  let old := geAlloc s aid
  let oldUnits (c : Nat) : Nat := if aValid old && decide (c ∈ countChans s (aTid old)) then allocUnits old else 0
  if decide (30 < aStream v) || decide (treeOfTid tid ≠ treeOfAid aid) || decide (aPart v ≠ termPart s tid)
      || decide (aMax v < aAssured v) || (aStdUnits v != 0 && decide (aStdUnits v < 16))
      || decide (aStdPeriod v ≤ aStdPhase v) || nfld v 105 0 != 0 then some .outOfRange
  else if (allocsOf s tid).any fun a => a != aid && aStream (geAlloc s a) == aStream v then some .duplicate
  else if (countChans s tid).any fun c =>
      decide (oldUnits c < allocUnits v) && decide (assuredCap s c < assuredSum s c - oldUnits c + allocUnits v)
    then some .overAssured
  else none

/-- What the engine keeps of an allocation whose entry is written (R172): RATE_EST starts at 0; the reports and grants of another
terminal's stream go (DEDUCED, assumption log 156). -/
def dynWritten (s : State) (aid v : Nat) : AllocDyn :=
  let old := geAlloc s aid
  let d := allocDyn s aid
  let d : AllocDyn := if aValid old = true ∧ aTid old = aTid v ∧ aStream old = aStream v then d
    else { acr := d.acr, mcr := d.mcr }
  { d with rate := 0, since := cycleNow s + 1 }
/-- A GE_ALLOC write (R167): refused, or stored. A C50 terminal in service is assigned the allocation (R126). -/
def geAllocWrite (s : State) (aid v : Nat) : State × Option Status :=
  if 2 ^ 19 ≤ aid ∨ treeValid s (treeOfAid aid) = false then (s, some .outOfRange)
  else match (if aValid v then geAllocCheck s aid v else none) with
    | some st => (s, some st)
    | none =>
      let c := termChan s (aTid v)
      let new := setDyn (wrT s (geAllocAt aid) v 8) aid (dynWritten s aid v)
      (if aValid v && isC50 s c && termEff s (aTid v) == tsActive && basic s 0 (c / 4) then
        emit new (.ploam c (aTid v) 6 aid) else new, none)

/-- CLASS of an entry (R168). -/
def allocClass (v : Nat) : Nat :=
  if !aValid v then 0
  else if 0 < aStdUnits v ∧ aWeight v = 0 ∧ aMax v = aAssured v then 1
  else if aStdUnits v = 0 ∧ 0 < aAssured v ∧ aWeight v = 0 ∧ aMax v = aAssured v then 2
  else if aStdUnits v = 0 ∧ 0 < aAssured v ∧ 0 < aWeight v ∧ aAssured v < aMax v then 3
  else if aStdUnits v = 0 ∧ aAssured v = 0 ∧ 0 < aWeight v ∧ 0 < aMax v then 4
  else 5

/-- Cycle j + 1 of an allocation's last report; without one, of its entry's write or of what was last heard of it (R172, R196). -/
def dynBase (d : AllocDyn) : Nat := if d.rpt = 0 then d.since else d.rpt
/-- Whether an allocation has had no report for 256 cycles at the build of cycle m (R172). -/
def allocStale (d : AllocDyn) (m : Nat) : Bool := decide (dynBase d + 255 < m)
/-- G_out: grants issued for the cycles after the report. -/
def gOut (d : AllocDyn) : Nat := (d.out.filter fun g => dynBase d ≤ g.cycle).foldl (fun n g => n + g.bytes) 0
/-- D_rep and D_ant at the build of cycle m (R172). -/
def demand (v : Nat) (d : AllocDyn) (m : Nat) : Nat × Nat :=
  let rep := if allocStale d m then 0 else d.backlog - gOut d
  (rep, if aPredict v then d.backlog + d.rate * (m + 1 - dynBase d) / 256 - gOut d - rep else 0)

/-- A GE_ASTAT entry (R197). -/
def geAstat (s : State) (aid : Nat) : Nat :=
  let d := allocDyn s aid
  let v := geAlloc s aid
  let m := cycleNow s
  let put (w acc x : Nat) : Nat := acc * 2 ^ w + x % 2 ^ w
  let a := put 40 0 d.backlog
  let a := put 16 a (d.rpt - 1)
  let a := put 32 a d.rate
  let a := put 40 a ((d.out.filter fun g => !g.recd).foldl (fun n g => n + g.bytes) 0)
  let a := put 24 a (d.acr / 8)
  let a := put 24 a (unsigned 24 (d.mcr / 8))
  let a := put 16 a (d.last - 1)
  let a := put 8 a d.deferrals
  let a := put 4 a (allocClass v)
  let a := put 1 a (b2n d.due)
  let a := put 1 a (b2n (aValid v && allocStale d m))
  a * 2 ^ 50

/-- ALLOC_SET (R167, R394). -/
def cmdAllocSet (s : State) (c : CmdCtx) : State × OutRec :=
  let items := (hostItems s c 40).map fun b => (leAt b 0 8, putNfld (leAt b 8 32) 223 208 c.gen)
  if c.gen = 0 ∨ itemsOwn s c.fn (items.map fun i => aTid i.2) = false then (s, refusal .outOfRange)
  else runItems (fun s (i : Nat × Nat) =>
    if basic s 1 (treeOfAid i.1 % 64) then geAllocWrite s i.1 i.2 else (s, some .notOwner)) items 0 s {}

/-! ## Reports (R170 to R172) -/

def geCount (s : State) (c code n : Nat) : State := cnt64 s (Adr.chnGeCnt c code) n
def geEvent (s : State) (c bit : Nat) : State := evBit s (Adr.chnGeEvent c) bit c .corrected (0x0430 + bit)

/-- BACKLOG of a report word in bytes. -/
def rptBytes (w : Nat) : Nat := nfld w 23 0 * 4 * 16 ^ nfld w 25 24
/-- A report of an allocation from cycle j (R172): RATE_EST follows, and the backlog and its cycle are kept. -/
def takeReport (s : State) (aid j backlog : Nat) : State :=
  let d := allocDyn s aid
  let v := geAlloc s aid
  let rate := if d.rpt = 0 ∨ j + 1 ≤ d.rpt then d.rate
    else
      let x : Int := ((backlog + d.recv - d.backlog) * 256 / (j + 1 - d.rpt) : Nat)
      (d.rate + (x - d.rate) / (2 ^ aShift v : Nat)).toNat
  setDyn s aid { d with backlog := backlog, rpt := j + 1, rate := rate, recv := 0,
                        out := d.out.filter fun g => j < g.cycle ∨ g.recd = false }

/-- The report words of a decoded burst of cycle j (R171): of two words for one STREAM the later one is used. -/
def takeReports (s : State) (c tid j : Nat) : List Nat → State
  | [] => s
  | w :: ws =>
    let s :=
      if !nbit w 31 then s
      else match allocStream s tid (nfld w 30 26) with
        | none => geEvent (geCount s c 8 1) c 5
        | some a =>
          if ws.any fun x => nbit x 31 && nfld x 30 26 == nfld w 30 26 then s
          else geCount (takeReport s a j (rptBytes w)) c 7 1
    takeReports s c tid j ws
/-- On a C50 channel an allocation with PREDICT that has never reported is monitored (R196): what it has sent since it was last heard
gives its rate. -/
def takeMonitor (s : State) (aid j : Nat) : State :=
  let d := allocDyn s aid
  if aPredict (geAlloc s aid) = true ∧ d.rpt = 0 ∧ d.since ≤ j then
    let x : Int := (d.recv * 256 / (j + 1 - d.since) : Nat)
    setDyn s aid { d with
      since := j + 1, rate := (d.rate + (x - d.rate) / (2 ^ aShift (geAlloc s aid) : Nat)).toNat, recv := 0
      out := d.out.filter fun g => j < g.cycle ∨ g.recd = false }
  else s

/-! ## Bookings (R186) -/

def booksOf (s : State) (c : Nat) : List Booking := mget [] s.grant.books c
/-- The bookings of a cycle. -/
def booksAt (s : State) (c m : Nat) : List Booking := (booksOf s c).filter (·.cycle == m)
def setBooks (s : State) (c : Nat) (l : List Booking) : State :=
  { s with grant := { s.grant with books := mset [] s.grant.books c l } }
/-- SYS_ENTRIES and SYS_START of a channel. -/
def sysEntries (s : State) (c : Nat) : Nat := max 1 (rf s (Adr.chnGeSyswin c) 31 28)
def sysStart (s : State) (c : Nat) : Nat := rf s (Adr.chnGeSyswin c) 16 0
/-- MODE of a channel's engine: 0 BASIC, 1 TEMPLATE, 2 RAW. -/
def geMode (s : State) (c : Nat) : Nat := rf s (Adr.chnGeCfg c) 31 30
/-- Whether a cycle lies in a scheduled quiet window of the channel. -/
def inQuiet (s : State) (c m : Nat) : Bool := (mget [] s.grant.quiet c).any fun w => decide (w.1 ≤ m ∧ m ≤ w.2)
/-- The cycle whose build comes next on a channel: the one after the cycle under way, or after the one built. -/
def nextBuild (s : State) (c : Nat) : Nat := max (cycleNow s + 1) (mget 0 s.grant.built c)

/-- Result codes of CHN_GE_SYSSTAT. -/
def bkOk : Nat := 0
def bkLate : Nat := 1
def bkTooEarly : Nat := 2
def bkOverlap : Nat := 3
def bkSpacing : Nat := 4
def bkBadId : Nat := 5
def bkFull : Nat := 6
def bkSysWindow : Nat := 7
def bkBadLength : Nat := 8
def bkQuiet : Nat := 9

/-- The span that a REGISTRATION grant needs (R138). -/
def regSpan : Nat := 1841

/-- A span that is taken in a cycle; of a burst, or blocked (R193). -/
structure Span where
  start : Nat
  len : Nat
  burst : Bool := true
  deriving DecidableEq, Repr
/-- Whether a burst of a length at a START meets a span: they overlap, or two openings lie less than 704 grant units apart
(R112, R183). -/
def Span.meets (b : Span) (x len : Nat) : Bool :=
  decide (x < b.start + b.len ∧ b.start < x + len) || (b.burst && decide (x < b.start + 704 ∧ b.start < x + 704))
/-- The lowest START for a length at or after a unit, clear of the spans (R183). -/
def placeOne (held : List Span) (len : Nat) : Nat → Nat → Option Nat
  | 0, _ => none
  | n + 1, x =>
    if 110000 < x + len then none
    else match held.find? fun b => b.meets x len with
      | none => some x
      | some b => placeOne held len n (max (b.start + b.len) (if b.burst then b.start + 704 else 0))

/-- The bookings of cycle m, and those of the next cycle, which lies after 110,000 grant units. -/
def heldSpans (s : State) (c m : Nat) : List Span :=
  ((booksAt s c m).map fun b => ⟨b.start, b.len, true⟩) ++ (booksAt s c (m + 1)).map fun b => ⟨110000 + b.start, b.len, true⟩
/-- The first unit of cycle m at which a burst may open, for the last opening of the cycle before, built or booked (R112, R183). -/
def openFrom (s : State) (c m : Nat) : Nat :=
  (booksAt s c (m - 1)).foldl (fun x b => max x (b.start + 704 - 110000))
    (if mget 0 s.grant.built c = m then mget 0 s.grant.lastStart c + 704 - 110000 else 0)

/-- The check of a booking: identity, time, quiet window, span, count, overlap, spacing, also across the cycle boundary (R112), system
window (R186). -/
def bookCheck (s : State) (c : Nat) (b : Booking) : Nat :=
  let held := booksAt s c b.cycle
  if b.kind = 0 ∨ b.kind = 3 ∨ (b.kind = 1 ∧ treeOfTid b.id ≠ c / 4) then bkBadId
  else if b.cycle < nextBuild s c then bkLate
  else if cycleNow s + 64 < b.cycle then bkTooEarly
  else if inQuiet s c b.cycle then bkQuiet
  else if (b.kind = 2 ∧ b.len < regSpan) ∨ 110000 < b.start + b.len then bkBadLength
  else if sysEntries s c ≤ held.length then bkFull
  else if held.any fun x => decide (b.start < x.start + x.len ∧ x.start < b.start + b.len) then bkOverlap
  else if b.start < openFrom s c b.cycle ∨ (heldSpans s c b.cycle).any (fun x => x.meets b.start b.len) then bkSpacing
  else if geMode s c = 2 ∧ b.start < sysStart s c then bkSysWindow
  else bkOk

/-- Books a grant, or gives the reason. -/
def book (s : State) (c : Nat) (b : Booking) : State × Nat :=
  let r := bookCheck s c b
  (if r = bkOk then setBooks s c (booksOf s c ++ [b]) else s, r)

/-- A write to word 3 of CHN_GE_SYSREQ by the owner of function 0 (R186). -/
def sysReq (s : State) (who : Requester) (c v : Nat) : State :=
  let a := Adr.chnGeSysreq c
  if islDown s c then wrDown s who a
  else if isOwner s who c 0 (c / 4) = false then wrNotOwner s who a 0 (c / 4)
  else
    let kind := nfld v 79 78
    let b : Booking := { cycle := nfld v 127 80, kind := kind, start := nfld v 77 61, len := nfld v 60 44,
                         tcm := nbit v 43, id := if kind = 2 then nfld v 35 28 else nfld v 42 28 }
    let (s, r) := book s c b
    let s := wrReq s who (Adr.chnGeSysstat c) (BitVec.ofNat 32 (r * 2 ^ 28 + (booksAt s c b.cycle).length))
    if r = bkOk then wrOk s who a
    else wrRefuse (geCount s c 13 1) who a .unitRefused

/-- Firmware books a grant of a length in a cycle at the first START that fits, clear of more spans that are taken. -/
def bookFw (s : State) (c m kind len : Nat) (tcm : Bool) (id : Nat) (more : List Span := []) : Option State :=
  let from0 := max (if geMode s c = 2 then sysStart s c else 0) (openFrom s c m)
  let held := heldSpans s c m ++ more
  match placeOne held len (held.length + 1) from0 with
  | none => none
  | some x =>
    let r := book s c ⟨m, kind, x, len, tcm, id⟩
    if r.2 = bkOk then some r.1 else none

/-- A write of WR_IDX of a channel's input ring (R191). -/
def ringWrIdx (s : State) (who : Requester) (c v : Nat) : State :=
  let a := Adr.chnGeRingCtl c
  if islDown s c then wrDown s who a
  else if isOwner s who c 1 (c / 4) = false then wrNotOwner s who a 1 (c / 4)
  else if 16 < modSub (v % 32) (rf s a 20 16) 32 then wrRefuse s who a .outOfRange
  else wrOk (wf s a 4 0 v) who a

/-- ALLOC_SET (R167). -/
def execAllocSet (r : Nat) (s : State) : Host.Outcome State Fault Refusal :=
  .next (runCmdNow s r 0x2001 fun s c => cmdAllocSet s c)
/-- CHN_GE_SYSREQ (R186): the 128 bits of the register. -/
def execChnGeSysreq (who : Requester) (c value : Nat) (s : State) : Host.Outcome State Fault Refusal :=
  .next (sysReq s who c value)
/-- GE_RING_WR_IDX (R191). -/
def execGeRingWrIdx (who : Requester) (c value : Nat) (s : State) : Host.Outcome State Fault Refusal :=
  .next (ringWrIdx s who c value)

end Sys2Proof.Machine
end

