-- ==== Sys2Proof/Machine/Tables.lean ====
section
/-! DEFINITION. The tables of the table window (R22, R23, R313 to R332, R386): layouts, who may write, what a write is
checked for, staging, searches, inserts, relocations, locks and the compatibility commands. -/
namespace Sys2Proof.Machine

/-! ## Table codes and layouts (R386) -/

def tbBridge : Nat := 0x00
def tbExact : Nat := 0x01
def tbNh : Nat := 0x03
def tbBdCfg : Nat := 0x04
def tbAsp : Nat := 0x05
def tbCls : Nat := 0x06
def tbAcm : Nat := 0x08
def tbAlloc : Nat := 0x10
def tbAstat : Nat := 0x11
def tbQueue : Nat := 0x12
def tbTerm : Nat := 0x13
def tbSid : Nat := 0x14

/-- Width in bits of a plane's entries by its WIDTH, and how many it holds (R320). -/
def acmBits (w : Nat) : Nat := if w = 0 then 160 else if w = 1 then 320 else 640
def acmEntries (w : Nat) : Nat := if w = 0 then 131072 else if w = 1 then 65536 else 32768

/-- Stride and entries of a table; none for a reserved code. -/
def tblShape (s : State) (code : Nat) : Option (Nat × Nat) :=
  let b := tabPlan s
  match code with
  | 0x00 => some (16, 4194304 + brExtMi b * 1048576)
  | 0x01 => some (32, hostEntries b)
  | 0x03 => some (16, 262144)
  | 0x04 => some (16, 65536)
  | 0x05 => some (8, 32768)
  | 0x06 => some (64, clsRules b)
  | 0x10 => some (32, 524288)
  | 0x11 => some (32, 524288)
  | 0x12 => some (32, 1048576)
  | 0x13 => some (16, 32768)
  | 0x14 => some (32, 1048576)
  | n => if 8 ≤ n ∧ n < 12 then some (64 * 2 ^ planeWidth b (n - 8), acmEntries (planeWidth b (n - 8))) else none

/-- An entry as the number its words spell. -/
def tblEntry (s : State) (code idx : Nat) : Nat :=
  match tblShape s code with
  | some (st, _) => rdT s (entAddr code st idx) (st / 4)
  | none => 0
/-- Stores an entry whole (R22); on an ACM plane it takes an update slot, which counts as ACM_UPDATE (R325, R432). -/
def tblPut (s : State) (code idx v : Nat) : State :=
  match tblShape s code with
  | some (st, _) =>
    let s := wrT s (entAddr code st idx) v (st / 4)
    if 8 ≤ code ∧ code < 12 then pc s { code := 0x0B, unit := some (code - 8) } else s
  | none => s

/-- The lowest bit of VALID's word is the entry's top word; VALID is its top bit (R330). -/
def tblValid (st v : Nat) : Bool := nbit v (8 * st - 1)
/-- The lowest bit of WGEN in a table's layout. -/
def tblGenLo (code st : Nat) : Nat :=
  match code with
  | 0x00 => 18
  | 0x01 => 224
  | 0x03 => 30
  | 0x04 => 76
  | 0x05 => 32
  | 0x06 => 476
  | 0x10 => 208
  | 0x12 => 208
  | 0x13 => 22
  | 0x14 => 224
  | _ => 8 * st - 48
def tblGen (code st v : Nat) : Nat := nfld v (tblGenLo code st + 15) (tblGenLo code st)
/-- An entry with its WGEN put in. -/
def tblSetGen (code st v g : Nat) : Nat := putNfld v (tblGenLo code st + 15) (tblGenLo code st) g
/-- The place of LOCK in a table that has one (R314, R327, R330). -/
def tblLockBit (code st : Nat) : Option Nat :=
  if code = tbBridge then some 125 else if code = tbExact then some 254
  else if 8 ≤ code ∧ code < 12 then some (8 * st - 2) else none

/-- The valid entries of a table as (index, entry), in rising index; a lost associative plane offers none. -/
def tblList (s : State) (code : Nat) : List (Nat × Nat) :=
  match tblShape s code with
  | none => []
  | some (st, n) =>
    if 8 ≤ code ∧ code < 12 ∧ islState s (320 + code) = islLost then [] else
    let a0 := entAddr code st 0
    (s.tabs.filter fun p => a0 ≤ p.1 ∧ p.1 < a0 + st * n ∧ (p.1 - a0) % st = st - 4 ∧ p.2.toNat.testBit 31 = true).map
      fun p => ((p.1 - a0) / st, tblEntry s code ((p.1 - a0) / st))

/-! ## Bridging, exact, next-hop and other fields -/

def brStatic (v : Nat) : Bool := nbit v 126
def brLock (v : Nat) : Bool := nbit v 125
def brHit (v : Nat) : Bool := nbit v 124
def brAge (v : Nat) : Nat := nfld v 123 122
def brBind (v : Nat) : Bool := nbit v 121
def brRoute (v : Nat) : Bool := nbit v 120
def brBd (v : Nat) : Nat := nfld v 119 104
def brMac (v : Nat) : Nat := nfld v 103 56
def brDest (v : Nat) : Nat := nfld v 55 40
def brPart (v : Nat) : Nat := nfld v 39 34
/-- A destination code that names a terminal or an uplink port of the part, or DISCARD (R7, R314). -/
def destOk (s : State) (d : Nat) : Bool :=
  (decide (d < 0x8000) && treeValid s (treeOfTid d)) || (decide (0x8000 ≤ d ∧ d < 0x8100) && laneValid s (d - 0x8000)) || d == 0xFFFF
def exKind (v : Nat) : Nat := nfld v 253 252
def exVrf (v : Nat) : Nat := nfld v 251 240
def exAddr (v : Nat) : Nat := nfld v 223 96
def exTid (v : Nat) : Nat := nfld v 73 59
def bdCfg (s : State) (bd : Nat) : Nat := tblEntry s tbBdCfg bd
def bdPart (v : Nat) : Nat := nfld v 97 92

/-! ## Hashing and search (R315, R327) -/

/-- The two buckets of a key among n (R315). -/
def hashBuckets (key : List Byte) (n : Nat) : List Nat :=
  if n = 0 then [] else [crc32cFrom 0xFFFFFFFF key % n, crc32cFrom 0x5A5A5A5A key % n]
/-- The key of a bridging entry and of an exact entry as bytes. -/
def brKey (bd mac : Nat) : List Byte := bytesBE 2 bd ++ bytesBE 6 mac
def exKey (kind vrf addr : Nat) : List Byte := bytesBE 2 (kind * 2 ^ 14 + vrf) ++ bytesBE 16 addr

/-- The indices of the ways of the buckets a key may lie in, in the order of R315: on the die, then in the extension. -/
def brWays (s : State) (bd mac : Nat) : List Nat :=
  let die := (hashBuckets (brKey bd mac) 524288).flatMap fun b => (List.range 8).map (8 * b + ·)
  let ext := (hashBuckets (brKey bd mac) (brExtMi (tabPlan s) * 131072)).flatMap fun b =>
    (List.range 8).map (4194304 + 8 * b + ·)
  die ++ ext
def exWays (s : State) (kind vrf addr : Nat) : List Nat :=
  (hashBuckets (exKey kind vrf addr) (hostEntries (tabPlan s) / 8)).flatMap fun b => (List.range 8).map (8 * b + ·)

/-- The bridging entry of {BD, MAC}. -/
def brFind (s : State) (bd mac : Nat) : Option Nat :=
  (brWays s bd mac).find? fun i =>
    let v := tblEntry s tbBridge i
    nbit v 127 && brBd v == bd && brMac v == mac
/-- The exact entry of {KIND, VRF, ADDR}. -/
def exFind (s : State) (kind vrf addr : Nat) : Option Nat :=
  (exWays s kind vrf addr).find? fun i =>
    let v := tblEntry s tbExact i
    nbit v 255 && exKind v == kind && exVrf v == vrf && exAddr v == addr

/-! ## Associative planes (R320 to R323) -/

def acmKey (w v : Nat) : Nat := nfld v (acmBits w - 1) 0
def acmMask (w v : Nat) : Nat := nfld v (2 * acmBits w - 1) (acmBits w)
def acmResult (w v : Nat) : Nat := nfld v (2 * acmBits w + 63) (2 * acmBits w)
/-- The stride of plane p's entries. -/
def acmStride (s : State) (p : Nat) : Nat := 64 * 2 ^ planeWidth (tabPlan s) p

/-- FREE of a plane: entries after its last valid one. -/
def showPlane (s : State) (p : Nat) : State :=
  let code := if planeRole (tabPlan s) p = 3 then tbCls else tbAcm + p
  let last := (tblList s code).foldl (fun m e => max m (e.1 + 1)) 0
  wf s (Adr.acmPlaneStat p) 17 0 (acmEntries (planeWidth (tabPlan s) p) - last)
/-- FREE of the planes a table write concerns. -/
def showPlanes (s : State) (code : Nat) : State :=
  if 8 ≤ code ∧ code < 12 then showPlane s (code - 8)
  else if code = tbCls then (planesOf (tabPlan s) 3).foldl showPlane s else s

/-- The ordered space of a role: (position, plane, index, entry) of its valid entries, lowest position first (R320). -/
def spaceList (s : State) (role : Nat) : List (Nat × Nat) :=
  let ps := planesOf (tabPlan s) role
  ps.zipIdx.flatMap fun p =>
    (tblList s (tbAcm + p.1)).map fun e => (p.2 * acmEntries (planeWidth (tabPlan s) p.1) + e.1, e.2)
/-- Table code and index of a position of a role's space. -/
def spaceAt (s : State) (role pos : Nat) : Option (Nat × Nat) :=
  let ps := planesOf (tabPlan s) role
  let n := acmEntries (planeWidth (tabPlan s) (ps.getD 0 0))
  (ps[pos / n]?).map fun p => (tbAcm + p, pos % n)
def spaceSize (s : State) (role : Nat) : Nat :=
  (planesOf (tabPlan s) role).foldl (fun n p => n + acmEntries (planeWidth (tabPlan s) p)) 0

/-- Prefix length of a route entry: the ones of its address mask (R321, R322). -/
def routeLen (v : Nat) : Nat := ones 128 (nfld v 287 160)
/-- The match of a route key at the lowest position (R322). -/
def routeFind (s : State) (role key : Nat) : Option Nat :=
  ((spaceList s role).find? fun e => (key &&& acmMask 0 e.2) == (acmKey 0 e.2 &&& acmMask 0 e.2)).map (·.2)

/-- The entry at a position of a list. -/
def atPos (l : List (Nat × Nat)) (p : Nat) : Option Nat := (l.find? (·.1 = p)).map (·.2)

/-- The first free position at or after p. -/
def firstFree (l : List (Nat × Nat)) : Nat → Nat → Nat
  | 0, p => p
  | n + 1, p => if (l.any fun e => e.1 == p) then firstFree l n (p + 1) else p

/-- Where an insert of length n goes in an ordered space (R323): a hole within its group, or the end of its group, with the
relocations (from, to) that free it, last group first; none when no free position is left. -/
def insertPlan (l : List (Nat × Nat)) (size n : Nat) : Option (Nat × List (Nat × Nat)) :=
  let mine := (l.filter fun e => routeLen e.2 == n).map (·.1)
  let endP := (l.filter fun e => decide (n ≤ routeLen e.2)).foldl (fun m e => max m (e.1 + 1)) 0
  let lo := mine.head?.getD endP
  let hole := firstFree l l.length lo
  if hole < endP then some (hole, [])
  else
    let f := firstFree l l.length endP
    if size ≤ f then none
    else
      let between := l.filter fun e => decide (endP ≤ e.1 ∧ e.1 < f)
      let lens := (between.map fun e => routeLen e.2).dedup
      let starts := lens.filterMap fun k => (between.find? fun e => routeLen e.2 == k).map (·.1)
      let moves := starts.reverse.foldl (fun (acc : Nat × List (Nat × Nat)) g => (g, acc.2 ++ [(g, acc.1)])) (f, [])
      some (endP, moves.2)

/-- The entry at a position of a role's space, and its storing. -/
def spaceGet (s : State) (role pos : Nat) : Nat := match spaceAt s role pos with | some (c, i) => tblEntry s c i | none => 0
def spacePut (s : State) (role pos v : Nat) : State := match spaceAt s role pos with | some (c, i) => tblPut s c i v | none => s

/-- FWD_TINDEX.INDEX of a requester. -/
def setTindex (s : State) (who : Requester) (i : Nat) : State :=
  wrReq s who Adr.fwdTindex (putFld (rdReq s who Adr.fwdTindex) 26 0 i)

/-- The next write of an INSERT that relocates (R323, R324): a relocation's copy commits at its new index, then its old index is
invalid; after the last the new entry commits, BUSY clears with STATUS OK, and INDEX is given. -/
def relocStep (s : State) : State :=
  match s.fwd.reloc with
  | none => s
  | some r =>
    let keep (s : State) (x : Option Reloc) : State := { s with fwd := { s.fwd with reloc := x } }
    match r.moves with
    | [] =>
      let s := (planesOf (tabPlan s) r.role).foldl showPlane (tblPut s r.code r.idx r.entry)
      let s := wrReq (setTindex s r.who r.idx) r.who Adr.fwdTcmd (putFld (putFld r.word 31 31 0) 20 17 0)
      keep s none
    | m :: ms =>
      if r.copied then keep (spacePut s r.role m.1 0) (some { r with moves := ms, copied := false })
      else
        let moved := (r.moved.filter fun p => p.1 ≠ m.2) ++ [(m.1, m.2)]
        keep (spacePut s r.role m.2 (spaceGet s r.role m.1)) (some { r with copied := true, moved := moved })
/-- Several of its writes. -/
def relocSteps : Nat → State → State
  | 0, s => s
  | n + 1, s => relocSteps n (relocStep s)
/-- Its writes that are left. -/
def relocLeft (s : State) : Nat := match s.fwd.reloc with | some r => 2 * r.moves.length + 1 - b2n r.copied | none => 0
/-- All of them: within the 100 us of R332. -/
def relocEnd (s : State) : State := relocSteps (relocLeft s) s
/-- As many of them as have committed before a host access lands: a free value. -/
def relocSome (s : State) : State :=
  if relocLeft s = 0 then s else relocSteps (freeVal s % (relocLeft s + 1)) (nextFree s)
/-- Where the entry of an old index now lies: a relocation has committed its copy, and nothing has committed at the old index since
(R324). -/
def movedTo (s : State) (code idx : Nat) : Option (Nat × Nat) :=
  match s.fwd.reloc with
  | none => none
  | some r => r.moved.findSome? fun p =>
      if spaceAt s r.role p.1 = some (code, idx) then spaceAt s r.role p.2 else none
/-- What a TBLW read returns of an entry (R324): at an old index the old entry with MOVED = 1 and NEW_INDEX set. -/
def tblSeen (s : State) (code idx : Nat) : Nat :=
  match movedTo s code idx, tblShape s code with
  | some (c, i), some (st, _) => putNfld (putNfld (tblEntry s c i) (8 * st - 3) (8 * st - 3) 1) (8 * st - 4) (8 * st - 20) i
  | _, _ => tblEntry s code idx

/-! ## Policers' buckets (R207, R212) -/

/-- A PL_SID write restarts its buckets when a rate, a size or MODE changes (R212); at which ns of the cycle under way it commits is a
free value. -/
def sidRestart (s : State) (sid old new : Nat) : State :=
  if nfld old 254 253 = nfld new 254 253 ∧ nfld old 223 132 = nfld new 223 132 then s
  else
    let now := baseAt s 0 (freeVal s % 15625) / 65536
    let s := nextFree s
    let full : Int × Int × Nat := ((nfld new 179 156 * 65536 : Nat), (nfld new 155 132 * 65536 : Nat), now)
    let b := if nbit new 250 then (0, 0, now) else full
    { s with sched := { s.sched with policer := mput s.sched.policer sid b } }

/-! ## Checks of a write -/

/-- The requester's partition, when it is a virtual function. -/
def vfPart (s : State) (who : Requester) : Option Nat :=
  let f := fnOf s who
  if f = 0 ∨ f = 65 then none else some (f - 1)

/-- Whether a requester may write an entry (R210, R308, R331, R386). -/
def tblMayWrite (s : State) (who : Requester) (code idx v : Nat) : Bool :=
  match vfPart s who with
  | none =>
    if code = tbAlloc then isOwner s who (chanOf (treeOfAid idx) 0) 1 (treeOfAid idx)
    else if code = tbQueue then isOwner s who (chanOf (treeOfQid idx) 0) 2 (treeOfQid idx)
    else if code = tbTerm then isOwner s who (chanOf (treeOfTid idx) 0) 2 (treeOfTid idx)
    else true
  | some p =>
    let plan := partPlan s
    let old := tblEntry s code idx
    if code = tbBridge then
      partHasBd plan p (brBd v) && (!nbit old 127 || partHasBd plan p (brBd old))
    else if code = tbExact then
      let mine (e : Nat) : Bool := decide (2 ≤ exKind e) && termPart s (exTid e) == p
      mine v && (!nbit old 255 || mine old)
    else if code = tbAsp then termPart s idx == p
    else if code = tbCls then
      nbit v 510 && nfld v 509 504 == p && (!nbit v 455 || partHasSid plan p (nfld v 475 456))
        && (!nbit v 438 || partHasBd plan p (nfld v 454 439))
    else if code = tbSid then partHasSid plan p idx
    else false

/-- Whether the contents of an entry with VALID = 1, or of any PL_SID entry (R210), break its table's rules. -/
def tblBad (s : State) (code idx v : Nat) : Bool :=
  if code = tbBridge then
    !destOk s (brDest v) || brPart v != bdPart (bdCfg s (brBd v)) || (brBind v && !brStatic v)
  else if code = tbExact then
    nfld v 75 74 == 3 || (if exKind v < 2 then decide (262144 ≤ nfld v 95 76) else !treeValid s (treeOfTid (exTid v)))
  else if code = tbNh then !destOk s (nfld v 125 110)
  else if code = tbBdCfg then !partHasBd (partPlan s) (bdPart v) idx
  else if code = tbAsp then nfld v 62 61 == 3
  else if code = tbCls then
    nfld v 319 160 &&& (2 ^ 160 - 1 - nfld v 159 0) != 0 || (nbit v 431 && nfld v 433 432 == 3) || nfld v 428 427 == 3
  else if code = tbSid then
    nfld v 254 253 == 3 || (nfld v 254 253 == 1 && (decide (nfld v 201 180 < nfld v 223 202)
      || decide (nfld v 179 156 < 64) || decide (nfld v 155 132 < 64)))
  else if 8 ≤ code ∧ code < 12 then
    let w := planeWidth (tabPlan s) (code - 8)
    let r := planeRole (tabPlan s) (code - 8)
    let res := acmResult w v
    let route := r == 1 || r == 2
    !(route || r == 4) || (route && (nfld res 63 62 == 0 || nfld res 63 62 == 3)
      && decide (262144 ≤ nfld res 55 36 + (if nfld res 63 62 = 3 then nfld res 61 56 else 0)))
  else false

/-- Stores a checked entry with what its table does beside; GE_ALLOC, DS_QUEUE and DS_TERM have checks of their own. -/
def tblStore (s : State) (code idx v : Nat) : State × Option Status :=
  if code = tbAlloc then geAllocWrite s idx v
  else if code = tbQueue then dsQueueWrite s idx v
  else if code = tbTerm then dsTermWrite s idx v
  else
    let s := if code = tbSid then sidRestart s idx (tblEntry s code idx) v else s
    (showPlanes (tblPut s code idx v) code, none)

/-- A whole entry written by a requester (R330): refused by permission, generation 0, index or contents, or stored. -/
def tblWrite (s : State) (who : Requester) (code idx v : Nat) : State × Option Status :=
  match tblShape s code with
  | none => (s, some .outOfRange)
  | some (st, n) =>
    if n ≤ idx then (s, some .outOfRange)
    else if tblMayWrite s who code idx v = false then (s, some .notOwner)
    else if tblGen code st v = 0 ∨ ((tblValid st v = true ∨ code = tbSid) ∧ tblBad s code idx v = true) then
      (s, some .outOfRange)
    else tblStore s code idx (if 8 ≤ code ∧ code < 12 then putNfld v (8 * st - 3) (8 * st - 20) 0 else v)

/-! ## Staged writes through TBLW (R330) -/

/-- Counts a bad access of a requester's function (R387). -/
def badAccess (s : State) (who : Requester) : State :=
  let f := fnOf s who
  satF s (Adr.dmaFnStat (if f = 65 then 0 else f)) 31 16 1

/-- A refused TBLW write leaves its status with the requester (R386). -/
def tblRefuse (s : State) (who : Requester) (st : Status) : State :=
  let w := rdReq s who Adr.mbxTblwStat
  wrReq s who Adr.mbxTblwStat (putFld (putFld w 31 24 st.code) 15 0 (satAdd 65535 (fld w 15 0) 1))

/-- The words a requester has staged. -/
def tblStaged (s : State) (who : Requester) : SMap Word :=
  s.acc.tblStage.filter fun p => p.1 / 2 ^ 40 = who.code
/-- Forgets them. -/
def tblUnstage (s : State) (who : Requester) : State :=
  { s with acc := { s.acc with
      tblStage := s.acc.tblStage.filter fun p => p.1 / 2 ^ 40 ≠ who.code
      tblEntry := mset 0 s.acc.tblEntry who.code 0 } }

def fwdCount (s : State) (code n : Nat) : State := cnt64 s (Adr.fwdCnt code) n
/-- Raises a forwarding event. -/
def fwdEvent (s : State) (bit : Nat) : State := evBit s Adr.fwdEvent bit 288 .corrected (0x0900 + bit)

/-- The island that holds a table (R33, R474): an ACM plane its own, the forwarding tables 288. -/
def tblIsland (code : Nat) : Nat := if 8 ≤ code ∧ code < 12 then 320 + code else if code < 8 then 288 else 304
/-- The write of an entry as GLB_WRSTAT reports it (R27); OFFSET, since the write has no control-window offset, is free. -/
def tblNote (s : State) (who : Requester) (st : WrStatus) : State := noteWriteAt (nextFree s) who (freeVal s % 2 ^ 27) st 0 0

/-- A word written to an entry by a requester: staged, and the entry commits when its top word lands (R330); a write to a lost
island is discarded (R477). The refusal, if any. -/
def tblWordR (s : State) (who : Requester) (code idx k : Nat) (w : Word) : State × Option Status :=
  match tblShape s code with
  | none => (badAccess s who, none)
  | some (st, n) =>
    if code = tbAstat ∨ n ≤ idx ∧ code ≠ tbCls then (badAccess s who, none)
    else
      let a := entAddr code st idx
      let cur := mget 0 s.acc.tblEntry who.code
      let s := if cur ≠ 0 ∧ cur ≠ a + 1 then tblUnstage (fwdCount s 13 1) who else s
      if k + 1 < st / 4 then
        let m := mput s.acc.tblStage (who.code * 2 ^ 40 + 4 * k) w
        ({ s with acc := { s.acc with tblStage := m, tblEntry := mset 0 s.acc.tblEntry who.code (a + 1) } }, none)
      else
        let staged := tblStaged s who
        let word (j : Nat) : Nat :=
          if j = k then w.toNat
          else match staged.find? (·.1 = who.code * 2 ^ 40 + 4 * j) with
            | some (_, x) => x.toNat
            | none => (mget 0 s.tabs (a + 4 * j)).toNat
        let v := (List.range (st / 4)).foldl (fun n j => n + word j * 2 ^ (32 * j)) 0
        let v := match who with
          | .dma d => tblSetGen code st v (rf s (Adr.dmaChCfg d) 15 0)
          | _ => v
        let s := tblUnstage s who
        if islDown s (tblIsland code) then
          let s := { s with acc := { s.acc with barLost := mset 0 s.acc.barLost who.code 1 } }
          (tblNote (tblRefuse s who .islandDown) who .islandDown, some .islandDown)
        else match tblWrite (if 8 ≤ code ∧ code < 12 then relocEnd s else s) who code idx v with
        | (s, none) => (tblNote s who .ok, none)
        | (s, some e) => (tblNote (tblRefuse s who e) who e.toWr, some e)
/-- The same without the answer. -/
def tblWord (s : State) (who : Requester) (code idx k : Nat) (w : Word) : State := (tblWordR s who code idx k w).1

/-- TBLW_WRITE: a word written at an offset of the table window or of the function's table port (R386). -/
def tblwWrite (s : State) (who : Requester) (ofs : Nat) (w : Word) : State :=
  let sel := rdReq s who Adr.mbxTblwSel
  let code := fld sel 5 0
  match tblShape s code with
  | none => badAccess s who
  | some (st, _) =>
    if ofs % 4 ≠ 0 then badAccess s who
    else
      let base := if (vfPart s who).isSome then fld sel 31 6 else 0
      tblWord s who code (base + ofs / st) (ofs % st / 4) w

/-! ## Compatibility commands (R332) -/

/-- STATUS codes of FWD_TCMD. -/
inductive TcRes
  | ok | notFound | duplicate | full | retry | outOfRange | notOwner | locked
  deriving DecidableEq, Repr
def TcRes.code : TcRes → Nat
  | .ok => 0 | .notFound => 1 | .duplicate => 2 | .full => 3 | .retry => 4 | .outOfRange => 5 | .notOwner => 6 | .locked => 7
def tcOf : Status → TcRes
  | .notOwner => .notOwner | .full => .full | .duplicate => .duplicate | .locked => .locked | _ => .outOfRange

/-- The table code that TABLE and PLANE of a command name. -/
def tcTable (table plane : Nat) : Option Nat :=
  match table with
  | 0 => some tbBridge
  | 1 => some tbExact
  | 2 => some (tbAcm + plane)
  | 3 => some tbNh
  | 4 => some tbBdCfg
  | 5 => some tbAsp
  | 6 => some tbCls
  | _ => none

/-- FWD_TDATA of a requester as the entry it spells. -/
def tdata (s : State) (who : Requester) (st : Nat) : Nat :=
  (List.range (st / 4)).foldl (fun n j => n + (rdReq s who (Adr.fwdTdata j)).toNat * 2 ^ (32 * j)) 0
def setTdata (s : State) (who : Requester) (st v : Nat) : State :=
  (List.range (st / 4)).foldl (fun s j => wrReq s who (Adr.fwdTdata j) (BitVec.ofNat 32 (v / 2 ^ (32 * j)))) s

/-- The first free way of a list. -/
def freeWay (s : State) (code st : Nat) (ways : List Nat) : Option Nat :=
  ways.find? fun i => !tblValid st (tblEntry s code i)

/-- The index of the entry with the key of v, in the tables that have keys (R315, R322, R327). -/
def tblFindKey (s : State) (code v : Nat) : Option Nat :=
  if code = tbBridge then brFind s (brBd v) (brMac v)
  else if code = tbExact then exFind s (exKind v) (exVrf v) (exAddr v)
  else
    let w := planeWidth (tabPlan s) (code - 8)
    ((tblList s code).find? fun e => acmKey w e.2 == acmKey w v && acmMask w e.2 == acmMask w v).map (·.1)
/-- The winning index for the key of v: in a plane, the match at the lowest index. -/
def tblSearchKey (s : State) (code v : Nat) : Option Nat :=
  if code = tbBridge ∨ code = tbExact then tblFindKey s code v
  else
    let w := planeWidth (tabPlan s) (code - 8)
    ((tblList s code).find? fun e => (acmKey w v &&& acmMask w e.2) == (acmKey w e.2 &&& acmMask w e.2)).map (·.1)

/-- Whether a table has keys. -/
def tblKeyed (code : Nat) : Bool := code == tbBridge || code == tbExact || decide (8 ≤ code ∧ code < 12)

/-- INSERT of an entry into a table that places by key (R315, R323, R327): the index it takes, or the refusal; one that relocates
others first is under way, which RETRY stands for here. -/
def tblInsert (s : State) (who : Requester) (w : Word) (code st v : Nat) : State × (TcRes × Nat) :=
  let store (s : State) (i : Nat) : State × (TcRes × Nat) :=
    match tblWrite s who code i v with
    | (s, none) => (s, .ok, i)
    | (s, some e) => (s, tcOf e, 0)
  if (tblFindKey s code v).isSome then (s, .duplicate, 0)
  else if code = tbBridge ∨ code = tbExact then
    let ways := if code = tbBridge then brWays s (brBd v) (brMac v) else exWays s (exKind v) (exVrf v) (exAddr v)
    match freeWay s code st ways with
    | some i => store s i
    | none => (fwdEvent s 1, .full, 0)
  else
    let p := code - 8
    let role := planeRole (tabPlan s) p
    if role = 1 ∨ role = 2 then
      let l := spaceList s role
      if l.any fun e => acmKey 0 e.2 == acmKey 0 v && acmMask 0 e.2 == acmMask 0 v then (s, .duplicate, 0)
      else match insertPlan l (spaceSize s role) (routeLen v) with
        | none => (fwdEvent s 1, .full, 0)
        | some (pos, moves) =>
          if moves.any fun m => nbit ((atPos l m.1).getD 0) (8 * st - 2) then (s, .locked, 0)
          else match spaceAt s role pos with
            | none => (s, .outOfRange, 0)
            | some (c, i) =>
              if tblMayWrite s who c i v = false then (s, .notOwner, 0)
              else if tblGen c st v = 0 ∨ tblBad s c i v = true then (s, .outOfRange, 0)
              else
                let v := putNfld v (8 * st - 3) (8 * st - 20) 0
                if moves.isEmpty then ((planesOf (tabPlan s) role).foldl showPlane (tblPut s c i v), .ok, i)
                else
                  let r : Reloc := { who := who, word := w, role := role, moves := moves, code := c, idx := i, entry := v }
                  ({ s with fwd := { s.fwd with reloc := some r } }, .retry, i)
    else
      let l := tblList s code
      let f := firstFree l l.length 0
      if acmEntries (planeWidth (tabPlan s) p) ≤ f then (fwdEvent s 1, .full, 0) else store s f

/-- A table command that has started (R332): op as FWD_TCMD.OP, the value written to FWD_TCMD. -/
def tcmdGo (s : State) (who : Requester) (op : Nat) (w : Word) : State :=
  let a := Adr.fwdTcmd
  let done (s : State) (r : TcRes) : State := wrReq s who a (putFld (putFld w 31 31 0) 20 17 r.code)
  match tcTable (fld w 26 23) (fld w 22 21) with
  | none => done s .outOfRange
  | some code =>
    match tblShape s code with
    | none => done s .outOfRange
    | some (st, n) =>
      let idx := fld (rdReq s who Adr.fwdTindex) 26 0
      let v := putNfld (tblSetGen code st (tdata s who st) (fld w 15 0)) (8 * st - 1) (8 * st - 1) 1
      if 8 ≤ code ∧ code < 12 ∧ planeWidth (tabPlan s) (code - 8) = 2 then done s .outOfRange
      else if op = 1 then
        if (movedTo s code idx).isSome then done s .retry
        else if idx < n then done (setTdata s who st (tblEntry s code idx)) .ok else done s .outOfRange
      else if op = 2 then
        match tblWrite s who code idx (tblSetGen code st (tdata s who st) (fld w 15 0)) with
        | (s, none) => done s .ok
        | (s, some e) => done s (tcOf e)
      else if !tblKeyed code then done s .outOfRange
      else if op = 3 then
        if fld w 15 0 = 0 then done s .outOfRange
        else match tblInsert s who w code st v with
          | (s, .ok, i) => done (setTindex s who i) .ok
          | (s, .retry, _) => wrReq s who a (putFld (putFld w 31 31 1) 20 17 0)
          | (s, r, _) => done s r
      else match (if op = 4 then tblFindKey s code v else tblSearchKey s code v) with
        | none => done s .notFound
        | some i =>
          if op = 5 then done (setTindex s who i) .ok
          else if tblMayWrite s who code i (tblEntry s code i) then done (showPlanes (tblPut s code i 0) code) .ok
          else done s .notOwner

/-- A write of FWD_TCMD with a command (R332): discarded while the requester's own INSERT relocates, BUSY being 1; any other command but
a READ waits for the end of one that relocates. The write itself has landed and reports OK in GLB_WRSTAT whatever STATUS its command
ends with (DESIGN CHOICE, assumption log 27). -/
def tcmdRun (s : State) (who : Requester) (op : Nat) (w : Word) : State :=
  if islDown s (islandOf Adr.fwdTcmd) then wrDown s who Adr.fwdTcmd else
  let s := relocSome s
  let s := if s.fwd.reloc.any fun r => r.who == who then s else tcmdGo (if op = 1 then s else relocEnd s) who op w
  wrOk s who Adr.fwdTcmd

/-! ## Locks (R331) -/

/-- A lock held longer than LOCK_MS is cleared, WGEN unchanged. -/
def lockExpired (s : State) (code idx : Nat) : State :=
  match tblShape s code with
  | none => s
  | some (st, _) =>
    match tblLockBit code st with
    | none => s
    | some b =>
      let s := if 8 ≤ code ∧ code < 12 then relocEnd s else s
      let v := tblEntry s code idx
      if tblValid st v && nbit v b then fwdEvent (fwdCount (tblPut s code idx (putNfld v b b 0)) 12 1) 2 else s

/-! ## RULE_SET (R308, R394) -/

/-- RULE_SET: items of an index and a CLS_RULE entry, written for the command's function. -/
def cmdRuleSet (s : State) (c : CmdCtx) : State × OutRec :=
  let items := (hostItems s c 72).map fun b => (leAt b 0 8, tblSetGen tbCls 64 (leAt b 8 64) c.gen)
  let who : Requester := if c.fn = 0 then .pf else .vf (c.fn - 1)
  if c.gen = 0 then (s, refusal .outOfRange)
  else runItems (fun s (i : Nat × Nat) => tblWrite s who tbCls i.1 i.2) items 0 s {}

/-! ## Commands -/

/-- TBLW_WRITE (R330): requester, offset in the table window or table port, value. -/
def execTblwWrite (who : Requester) (ofs : Nat) (value : Word) (s : State) : Host.Outcome State Fault Refusal :=
  .next (tblwWrite s who ofs value)
/-- READ (R332): requester and the value written to FWD_TCMD. -/
def execTblRead (who : Requester) (value : Word) (s : State) : Host.Outcome State Fault Refusal :=
  .next (tcmdRun s who 1 value)
/-- WRITE (R332): requester and the value written to FWD_TCMD. -/
def execTblWrite (who : Requester) (value : Word) (s : State) : Host.Outcome State Fault Refusal :=
  .next (tcmdRun s who 2 value)
/-- INSERT (R332): requester and the value written to FWD_TCMD. -/
def execTblInsert (who : Requester) (value : Word) (s : State) : Host.Outcome State Fault Refusal :=
  .next (tcmdRun s who 3 value)
/-- DELETE (R332): requester and the value written to FWD_TCMD. -/
def execTblDelete (who : Requester) (value : Word) (s : State) : Host.Outcome State Fault Refusal :=
  .next (tcmdRun s who 4 value)
/-- SEARCH (R332): requester and the value written to FWD_TCMD. -/
def execTblSearch (who : Requester) (value : Word) (s : State) : Host.Outcome State Fault Refusal :=
  .next (tcmdRun s who 5 value)
/-- LOCK_EXPIRED (R331): table code and index of the entry whose lock has been held LOCK_MS. -/
def execLockExpired (code idx : Nat) (s : State) : Host.Outcome State Fault Refusal := .next (lockExpired s code idx)
/-- RULE_SET (R308). -/
def execRuleSet (r : Nat) (s : State) : Host.Outcome State Fault Refusal :=
  .next (runCmdNow s r 0x2005 fun s c => cmdRuleSet s c)

end Sys2Proof.Machine
end

