-- ==== Sys2Proof/Machine/Parse.lean ====
section
/-! DEFINITION. The parser and the classifier (R294 to R311): pipelines, the Prefix stage, the verbs, key profiles and rules,
tracer tagging, and the switch of Grammar programs. -/
namespace Sys2Proof.Machine

/-! ## Pipelines (R294, R326) -/

/-- The pipeline of a source port: a channel, 256 + an uplink lane, or 512 + a DMA channel (R294). -/
def pipeOf (port : Nat) : Nat :=
  if port < 256 then port / 16 else if port < 512 then (port - 256) / 8 / 2 else (port - 512) / 2 % 16
/-- The island of a pipeline. -/
def pipeIsland (p : Nat) : Nat := 288 + p % 16
/-- Whether a pipeline works: its island is neither lost nor in reset, and no FATAL event has stopped the data plane (R20, R36). -/
def pipeUp (s : State) (p : Nat) : Bool := !s.boot.dataStopped && !islDown s (pipeIsland p)
/-- Frames waiting for a pipeline. -/
def ingressOf (s : State) (p : Nat) : List Ingress := mget [] s.flow.ingress p
def setIngress (s : State) (p : Nat) (l : List Ingress) : State :=
  { s with flow := { s.flow with ingress := mset [] s.flow.ingress p l } }
/-- Bytes of a pipeline's ingress buffer (R326). -/
def ingressCap : Nat := 2 ^ 20
/-- Bytes that waiting frames hold. -/
def ingressBytes (l : List Ingress) : Nat := l.foldl (fun n x => n + x.fr.data.length) 0

/-- Counts a frame that found its ingress buffer full (R326). -/
def throttleDrop (s : State) (x : Ingress) : State :=
  let s := fwdCount s 11 1
  let s := if x.port < 256 then stat s scChan x.port 2 1
           else if x.port < 512 then stat s scPort (x.port - 256) 5 1 else s
  if x.port < 256 then traceDrop s x.fr.cl (pipeIsland (pipeOf x.port)) 2 scChan x.port
  else traceDrop s x.fr.cl (pipeIsland (pipeOf x.port)) 5 scPort (x.port - 256)

/-- The newest frame of the lowest TC below tc: the frames without it, and it. -/
def displace (l : List Ingress) (tc : Nat) : Option (List Ingress × Ingress) :=
  let below := l.filter fun x => decide (x.fr.cl.tc < tc)
  let low := below.foldl (fun m x => min m x.fr.cl.tc) 8
  match (l.reverse.findIdx? fun x => x.fr.cl.tc == low && decide (low < tc)) with
  | none => none
  | some j =>
    let i := l.length - 1 - j
    (l[i]?).map fun x => (l.eraseIdx i, x)

/-- Makes room for n bytes, displacing frames of lower classes (R326): whether there is room then. -/
def makeRoom (p tc n : Nat) : Nat → State → State × Bool
  | 0, s => (s, decide (ingressBytes (ingressOf s p) + n ≤ ingressCap))
  | k + 1, s =>
    if ingressBytes (ingressOf s p) + n ≤ ingressCap then (s, true)
    else match displace (ingressOf s p) tc with
      | none => (s, false)
      | some (l, x) => makeRoom p tc n k (throttleDrop (setIngress s p l) x)

/-- A frame arrives at its pipeline (R294, R326); a class that the power cap drops is counted in THROTTLE_DROP (R452). -/
def ingressPut (s : State) (x : Ingress) : State :=
  let p := pipeOf x.port
  if x.fr.cl.tc < min 7 (rf s Adr.pwrStat 25 23) then throttleDrop s x else
  let (s, ok) := makeRoom p x.fr.cl.tc x.fr.data.length (ingressOf s p).length s
  if ok then setIngress s p (ingressOf s p ++ [x]) else throttleDrop s x

/-! ## Where items go -/

/-- Hands a frame to the control complex: it takes a cell of the control pool, or is dropped and counted (R349). -/
def toCtrl (s : State) (f : Frame) : State :=
  match placeFrame s f.cl.kind f.cl.part f.data.length 0 0 [holderCtrl] 0 with
  | (some h, s) => { s with flow := { s.flow with ctrl := s.flow.ctrl ++ [{ f with cl := { f.cl with buf := h } }] } }
  | (none, s) => s

/-- The queue keys that an EGR and QUEUE name: a QID of a channel, a port's queue (R30, R329). -/
def egressKeys (egr queue tc : Nat) : List Nat :=
  match Egress.ofCode egr with
  | some (.pon _) => [queue % 2 ^ 20]
  | some (.uplink u) => [uplKey u tc]
  | _ => []

/-- A forwarded item goes on to its queues, or to its host receive ring. -/
def flowOut (s : State) (f : Frame) (ks : List Nat) : State :=
  match Egress.ofCode f.cl.egr with
  | some (.hostRing r) => toRing s r f 0
  | _ => { s with flow := { s.flow with out := s.flow.out ++ [(f, ks)] } }

/-! ## Programs (R303, R305) -/

/-- Counts in GRM_CNT of a pipeline (R311). -/
def grmCount (s : State) (p code n : Nat) : State := cnt64 s (Adr.grmCnt p code) n
/-- The program in force for a packet. -/
def progOf (s : State) (newBank : Bool) : List Byte := if newBank then s.grm.shadow else s.img.grammar
def ctxOfPipe (s : State) (p : Nat) : Option ParseCtx := (s.grm.ctx.find? (·.1 = p)).map (·.2)
def setCtx (s : State) (p : Nat) (c : ParseCtx) : State := { s with grm := { s.grm with ctx := mput s.grm.ctx p c } }
def dropCtx (s : State) (p : Nat) : State := { s with grm := { s.grm with ctx := mdel s.grm.ctx p } }

/-- A loaded program shows its identity and size. -/
def showProg (s : State) : State :=
  wf (wrW s Adr.grmProgId (progId s.img.grammar) 2) Adr.grmProgStat 12 0 (progVerbs s.img.grammar)

/-- A switch marker is admitted into a pipeline (R305 step 3). -/
def grmMarker (s : State) (p : Nat) : State :=
  if s.grm.loading && decide (p < 16) then { s with grm := { s.grm with marked := addNew s.grm.marked p } } else s

/-- Every pipeline has passed the marker and no old-bank packet is left: the banks swap roles (R305 step 4). -/
def grmSwitch (s : State) : State :=
  if s.grm.loading && (List.range 16).all (fun p => decide (p ∈ s.grm.marked)) && s.grm.ctx.all (·.2.newBank) then
    let old := s.img.grammar
    let s := { s with
      img := { s.img with grammar := s.grm.shadow }
      grm := { s.grm with shadow := old, loading := false, marked := [],
                          ctx := s.grm.ctx.map fun x => (x.1, { x.2 with newBank := false }) } }
    let s := showProg (wb s Adr.grmProgStat 23 false)
    let s := wb s Adr.grmProgStat 22 (!rb s Adr.grmProgStat 22)
    let s := wf s Adr.grmProgStat 31 24 ((rf s Adr.grmProgStat 31 24 + 1) % 256)
    evBit s Adr.grmEvent 0 288 .corrected 0x0800
  else s

/-! ## The Prefix stage (R295, R296) -/

/-- n bytes of a frame at an offset, most significant first; none past its end. -/
def frameNum (d : List Byte) (ofs n : Nat) : Option Nat :=
  if ofs + n ≤ d.length then some (ofBytesBE ((d.drop ofs).take n)) else none

/-- Whether a number is an enabled TPID of a program. -/
def isTpid (b : List Byte) (x : Option Nat) : Bool :=
  match x with
  | none => false
  | some v => v != 0 && (List.range 4).any fun i => progTpid b i == v

/-- Whether an uplink frame's tag counts as one: the port receives tags and the EtherType is 0x88B5 (R295, R337). -/
def hasUptag (s : State) (port : Nat) (d : List Byte) : Bool :=
  decide (256 ≤ port ∧ port < 512) && rb s (Adr.uplPortCfg (port - 256)) 27 && frameNum d 12 2 == some 0x88B5

/-- A field of the uplink tag (R336). -/
def uptagFld (d : List Byte) (hi lo : Nat) : Nat := nfld ((frameNum d 12 16).getD 0) hi lo

/-- What the Prefix stage sets in the Clause (R296, R337); UPTAG where a tag was present or is to be added (R30). -/
def prefixClause (s : State) (x : Ingress) : Clause :=
  let cl := x.fr.cl
  let d := x.fr.data
  if x.port < 256 then { cl.setFlag flagUptag with chan := x.port, part := termPart s cl.tid, sid := 0 }
  else if x.port < 512 then
    if hasUptag s x.port d then
      { cl.setFlag flagUptag with part := uptagFld d 107 102, sid := uptagFld d 78 59, tc := uptagFld d 58 56, dp := uptagFld d 55 54 }
    else { cl with part := rf s (Adr.uplPortCfg (x.port - 256)) 19 14, sid := 0 }
  else cl

/-- The shift register x^32 + x^22 + x^2 + x + 1 steps once (R310). -/
def lfsrStep (v : Nat) : Nat :=
  (v * 2 + b2n (((v.testBit 31 != v.testBit 21) != v.testBit 1) != v.testBit 0)) % 2 ^ 32

/-- The tracer draw of an eligible packet of a pipeline (R310): the Clause, tagged or not. -/
def traceDraw (s : State) (p : Nat) (cl : Clause) : Clause × State :=
  let cfg := rd s Adr.grmTraceCfg
  if fld cfg 31 31 = 0 ∨ (fld cfg 30 30 = 1 ∧ fld cfg 13 8 ≠ cl.part) then (cl, s)
  else
    let (v, s) : Nat × State := match s.grm.lfsr.find? (·.1 = p) with
      | some (_, v) => (v, s)
      | none => (freeVal s % 2 ^ 32, nextFree s)
    let v := lfsrStep v
    let s := { s with grm := { s.grm with lfsr := mput s.grm.lfsr p v } }
    if v % 2 ^ clamp 8 24 (fld cfg 4 0) = 0 then
      let n := mget 0 s.grm.tagged p
      let s := { s with grm := { s.grm with tagged := mset 0 s.grm.tagged p ((n + 1) % 8) } }
      ({ cl with trace := 128 + p % 16 * 8 + n }, grmCount s p 9 1)
    else (cl, s)

/-! ## Ends of a parse -/

/-- The parse of a pipeline's packet ends: its context is gone and it counts as parsed. -/
def parseEnd (s : State) (p : Nat) : State := dropCtx (grmCount s p 0 1) p

/-- A frame is discarded by the parser or the classifier; no rule names the scope of such a drop in its trace record. -/
def parseDrop (s : State) (p code : Nat) (cl : Clause) : State :=
  let s := parseEnd s p
  trace (nextFree s) cl stDrop (pipeIsland p) code (freeVal s)

/-- A frame goes to the control complex with KIND PUNT. -/
def parsePunt (s : State) (p : Nat) (c : ParseCtx) : State :=
  toCtrl (parseEnd (grmCount s p 6 1) p) { c.item.fr with cl := { c.item.fr.cl with kind := ClauseKind.punt.code } }

/-- A packet goes on to forwarding, with what travels beside it. -/
def parsePass (s : State) (p : Nat) (c : ParseCtx) (cl : Clause) : State :=
  let s := trace (parseEnd s p) cl stClassify (pipeIsland p) cl.sid cl.bd
  let it : FwdItem := ⟨{ c.item.fr with cl := cl }, c.item.port, c.e, c.etype, c.ipSrc⟩
  { s with flow := { s.flow with fwd := mset [] s.flow.fwd p (mget [] s.flow.fwd p ++ [it]) } }

/-! ## Classification (R306 to R309) -/

/-- The source of a selector. -/
def selValue (c : ParseCtx) (x : Nat) : Nat :=
  let cl := c.item.fr.cl
  match selSrc x with
  | 1 => c.nouns.getD (selIdx x) 0
  | 2 => c.pre.getD (selIdx x) 0
  | 3 => match selIdx x with
    | 0 => cl.part | 1 => cl.tid | 2 => cl.chan | 3 => cl.tc | 4 => cl.kind | _ => 0
  | _ => 0

/-- The key of a profile that starts at o: used selectors packed from bit 159 down. -/
def profKey (b : List Byte) (o : Nat) (c : ParseCtx) : Nat :=
  let (v, used) := (List.range 8).foldl (fun (v, used) k =>
    let x := profSel b o k
    if selSrc x = 0 then (v, used)
    else (v * 2 ^ selWidth x + selValue c x / 2 ^ selShift x % 2 ^ selWidth x, used + selWidth x)) (0, 0)
  v * 2 ^ (160 - used)

/-- The winning rule of a search: highest PRIO, then lowest index (R309). -/
def ruleFind (s : State) (ruleset key part : Nat) : Option (Nat × Nat) :=
  ((tblList s tbCls).filter fun r =>
    nfld r.2 503 500 == ruleset && (!nbit r.2 510 || nfld r.2 509 504 == part)
      && key &&& nfld r.2 159 0 == nfld r.2 319 160).foldl
    (fun best r => match best with
      | none => some r
      | some q => if nfld q.2 499 492 < nfld r.2 499 492 then some r else some q) none

/-- A rule's enabled fields in the Clause. -/
def ruleApply (cl : Clause) (v : Nat) : Clause :=
  let cl := if nbit v 455 then { cl with sid := nfld v 475 456 } else cl
  let cl := if nbit v 438 then { cl with bd := nfld v 454 439 } else cl
  let cl := if nbit v 434 then { cl with tc := nfld v 437 435 } else cl
  let cl := if nbit v 431 then { cl with dp := nfld v 433 432 } else cl
  let cl := if nbit v 430 then cl.setFlag flagNoLearn else cl
  if nbit v 429 then cl.setFlag flagMirror else cl

/-- The CLASSIFY plane's search slot. -/
def countSearch (s : State) (role : Nat) : State :=
  (planesOf (tabPlan s) role).foldl (fun s q => pc s { code := 0x0A, unit := some q }) s

/-- Classification under key profile j: NOUN, the search, the winning rule's verdict, or the profile's MISS (R301, R306,
R309). -/
def classify (s : State) (p : Nat) (c : ParseCtx) (j : Nat) : State :=
  let b := progOf s c.newBank
  let o := profAt b j
  let src := leAt b (o + 0x1A) 1
  let cl := c.item.fr.cl
  let cl := if c.nounSet then cl
            else { cl with noun := if nbit src 7 then c.acc else c.nouns.getD (nfld src 3 0) 0 }
  let c := { c with item := { c.item with fr := { c.item.fr with cl := cl } } }
  let s := trace s cl stParse (pipeIsland p) cl.noun (cl.kind * 2 ^ 28 + cl.part * 2 ^ 22 + cl.len)
  let rs := leAt b (o + 0x18) 1
  let miss (s : State) (searched : Bool) : State :=
    let s := if searched then grmCount s p 8 1 else s
    match leAt b (o + 0x19) 1 with
    | 0 => parseDrop (if searched then s else grmCount s p 8 1) p 8 cl
    | 1 => parsePunt s p c
    | _ => parsePass s p c cl
  if nbit rs 7 then miss s false
  else
    let s := countSearch s 3
    match ruleFind s (nfld rs 3 0) (profKey b o c) cl.part with
    | none => miss s true
    | some (i, v) =>
      let s := grmCount s p 7 1
      let s := if nbit v 426 then stat (stat s scRule i 0 1) scRule i 1 c.item.fr.data.length else s
      let cl := ruleApply cl v
      match nfld v 428 427 with
      | 1 => parseDrop s p 7 cl
      | 2 => parsePunt s p { c with item := { c.item with fr := { c.item.fr with cl := cl } } }
      | _ => parsePass s p c cl

/-! ## Limits (R302) -/

/-- How a parse ends early. -/
inductive ParseEx | malformed | depth | hdrs | budget deriving DecidableEq, Repr

/-- The program's exception action: the flag is set, the case counted, and the frame classified, dropped or punted. -/
def parseExc (s : State) (p : Nat) (c : ParseCtx) (e : ParseEx) : State :=
  let b := progOf s c.newBank
  let (deep, code) : Bool × Nat := match e with
    | .malformed => (false, 1) | .depth => (true, 2) | .hdrs => (true, 3) | .budget => (true, 4)
  let x := progExc b deep
  let cl := c.item.fr.cl.setFlag (if deep then flagTooDeep else flagMalformed)
  let c := { c with item := { c.item with fr := { c.item.fr with cl := cl } } }
  let s := grmCount s p code 1
  match nfld x 1 0 with
  | 0 => classify s p c (nfld x 7 4)
  | 1 => parseDrop s p code cl
  | _ => parsePunt s p c

/-! ## Admission (R295, R296, R300) -/

/-- The Prefix stage's work on a packet: its context, and the exception it meets. -/
def prefixStage (s : State) (x : Ingress) (cl : Clause) (newBank : Bool) : ParseCtx × Option ParseEx :=
  let b := progOf s newBank
  let d := x.fr.data
  let up := hasUptag s x.port d
  let e0 := if up then 28 else 12
  let outer := isTpid b (frameNum d e0 2)
  let inner := outer && isTpid b (frameNum d (e0 + 4) 2)
  let tags := b2n outer + b2n inner
  let e := e0 + 4 * tags
  let et := (frameNum d e 2).getD 0
  let tci (on : Bool) (o : Nat) : Nat := if on then (frameNum d (o + 2) 2).getD 0 else 0
  let o1 := tci outer e0
  let o2 := tci inner (e0 + 4)
  let da := (frameNum d 0 6).getD 0
  let sa := (frameNum d 6 6).getD 0
  let src := if x.port < 512 then x.port else freeVal s % 512
  let pre := [da / 2 ^ 32, da % 2 ^ 32, sa / 2 ^ 32, sa % 2 ^ 32, nfld o1 11 0, nfld o1 15 12, nfld o2 11 0, nfld o2 15 12,
    et, tags, x.stream, src, b2n up]
  let ip := if et = 0x0800 then (if e + 18 ≤ d.length then some ((d.drop (e + 14)).take 4) else none)
            else if et = 0x86DD then (if e + 26 ≤ d.length then some ((d.drop (e + 10)).take 16) else none) else none
  let c : ParseCtx := { item := { x with fr := { x.fr with cl := cl } }, pc := progEntry b, cur := e, e := e,
                        hdrCount := 2 + tags, pre := pre, etype := et, ipSrc := ip, newBank := newBank }
  (c, if d.length < e + 2 then some .malformed else if progMaxHdrs b < 2 + tags then some .hdrs else none)

/-- A pipeline admits its next item, once the packet before it is parsed (R294 to R296, R300). -/
def pipeAdmit (s : State) (p : Nat) : State :=
  if !pipeUp s p then s else
  match ctxOfPipe s p, ingressOf s p with
  | none, x :: rest =>
    let s := setIngress s p rest
    let s := pc s { code := 0x08, unit := some p, tc := some x.fr.cl.tc }
    let k := x.fr.cl.kind
    if k = ClauseKind.packet.code ∨ k = ClauseKind.hostInject.code then
      let cl := prefixClause s x
      let (cl, s) := traceDraw s p cl
      let (c, e) := prefixStage s x cl (s.grm.loading && decide (p ∈ s.grm.marked))
      let s := if 512 ≤ x.port then nextFree s else s
      let s := setCtx s p c
      match e with
      | none => s
      | some e => parseExc s p c e
    else
      let cl := x.fr.cl
      let s := trace s cl stParse (pipeIsland p) 0 (cl.kind * 2 ^ 28 + cl.part * 2 ^ 22 + cl.len)
      let s := trace s cl stClassify (pipeIsland p) cl.sid cl.bd
      let s := trace s cl stForward (pipeIsland p) cl.queue cl.egr
      flowOut s x.fr (egressKeys cl.egr cl.queue cl.tc)
  | _, _ => s

/-! ## Verbs (R297 to R299, R302) -/

/-- The field of a verb: its first bit is BITOFS below the top of byte CUR + OFS, most significant bit first. -/
def verbField (c : ParseCtx) (v : Nat) : Nat :=
  let o := c.cur + vOfs v
  let n := (vBit v + vWidth v + 7) / 8
  let x := ofBytesBE ((c.item.fr.data.drop o).take n)
  x / 2 ^ (8 * n - vBit v - vWidth v) % 2 ^ vWidth v

/-- The exception that reading a verb's field meets. -/
def fieldEx (b : List Byte) (c : ParseCtx) (v : Nat) : Option ParseEx :=
  let last := c.cur + vOfs v + (vBit v + vWidth v - 1) / 8
  if progMaxDepth b ≤ last then some .depth
  else if c.item.fr.data.length ≤ last then some .malformed else none

/-- What a verb does with the context: the context after it, or an exception. -/
abbrev VerbRes := ParseCtx ⊕ ParseEx

/-- The context moved to the next verb. -/
def vNext (c : ParseCtx) : ParseCtx := { c with pc := c.pc + 1 }
/-- The context moved to a verb. -/
def vGoto (c : ParseCtx) (t : Nat) : ParseCtx := { c with pc := t }
/-- A verb that reads its field. -/
def withField (b : List Byte) (c : ParseCtx) (v : Nat) (f : Nat → VerbRes) : VerbRes :=
  match fieldEx b c v with
  | some e => .inr e
  | none => f (verbField c v)
/-- The cursor moved by k bytes, within 9 bits. -/
def vAdvance (c : ParseCtx) (k : Nat) : VerbRes :=
  if 511 < c.cur + k then .inr .depth else .inl (vNext { c with cur := c.cur + k })

/-- The verb of the packet under parse in pipeline p, when its code is op: VERB_BUDGET is checked first for a verb that is
not an end verb, then f says what the verb does (R302). -/
def verbStep (s : State) (p op : Nat) (f : List Byte → ParseCtx → Nat → VerbRes) : State :=
  match ctxOfPipe s p with
  | none => s
  | some c =>
    let b := progOf s c.newBank
    let v := progVerb b c.pc
    if pipeUp s p = false ∨ progVerbs b ≤ c.pc ∨ vOp v ≠ op then s
    else if progBudget b ≤ c.vcount then parseExc s p c .budget
    else match f b c v with
      | .inr e => parseExc s p c e
      | .inl c' =>
        let c' := { c' with vcount := c.vcount + 1 }
        let s := grmCount s p 10 1
        if progVerbs b ≤ c'.pc then parseExc s p c' .malformed else setCtx s p c'

/-- An end verb, which runs whatever the budget. -/
def verbEnd (s : State) (p op : Nat) (f : State → ParseCtx → Nat → State) : State :=
  match ctxOfPipe s p with
  | none => s
  | some c =>
    let b := progOf s c.newBank
    let v := progVerb b c.pc
    if pipeUp s p = false ∨ progVerbs b ≤ c.pc ∨ vOp v ≠ op then s else f (grmCount s p 10 1) { c with vcount := c.vcount + 1 } v

def verbNop (s : State) (p : Nat) : State := verbStep s p 0x00 fun _ c _ => .inl (vNext c)
def verbExtract (s : State) (p : Nat) : State :=
  verbStep s p 0x01 fun b c v => withField b c v fun x => .inl (vNext { c with nouns := c.nouns.set (vDst v) x })
def verbMatch (s : State) (p : Nat) : State :=
  verbStep s p 0x02 fun b c v => withField b c v fun x =>
    .inl (if x = vImm v % 2 ^ 16 then vGoto c (vTarget v) else vNext c)
def verbDispatch (s : State) (p : Nat) : State :=
  verbStep s p 0x03 fun b c v => withField b c v fun x =>
    let t := vTarget v + min x (vImm v % 2 ^ 8)
    if progVerbs b ≤ t then .inr .malformed else .inl (vGoto c t)
def verbGoto (s : State) (p : Nat) : State := verbStep s p 0x04 fun _ c v => .inl (vGoto c (vTarget v))
def verbAdvance (s : State) (p : Nat) : State := verbStep s p 0x05 fun _ c v => vAdvance c (vImm v % 2 ^ 9)
def verbAdvanceField (s : State) (p : Nat) : State :=
  verbStep s p 0x06 fun b c v => withField b c v fun x =>
    vAdvance c (x * 2 ^ (vImm v % 8) + nfld (vImm v) 12 4)
def verbAdvanceIf (s : State) (p : Nat) : State :=
  verbStep s p 0x07 fun b c v => withField b c v fun x =>
    if x ≠ 0 then vAdvance c (vImm v % 2 ^ 9) else .inl (vNext c)
def verbMark (s : State) (p : Nat) : State :=
  verbStep s p 0x08 fun b c v =>
    if progMaxHdrs b < c.hdrCount + 1 then .inr .hdrs
    else .inl (vNext { c with hdrs := c.hdrs ++ [(vImm v % 256, c.cur)], hdrCount := c.hdrCount + 1 })
def verbKeepCur (s : State) (p : Nat) : State :=
  verbStep s p 0x09 fun _ c v => .inl (vNext { c with nouns := c.nouns.set (vDst v) c.cur })
/-- The noun registers that HASH takes, ascending, each most significant byte first. -/
def hashNouns (c : ParseCtx) (m : Nat) : List Byte :=
  ((List.range 16).filter m.testBit).flatMap fun i => bytesBE 4 (c.nouns.getD i 0)
def verbHash (s : State) (p : Nat) : State :=
  verbStep s p 0x0A fun _ c v => .inl (vNext { c with acc := crc32c (hashNouns c (vImm v % 2 ^ 16)) })
def verbSetnoun (s : State) (p : Nat) : State :=
  verbStep s p 0x0B fun _ c v =>
    let x := if nbit (vImm v) 0 then c.acc else c.nouns.getD (vDst v) 0
    .inl (vNext { c with nounSet := true, item := { c.item with fr := { c.item.fr with cl :=
      { c.item.fr.cl with noun := x } } } })
def verbAccept (s : State) (p : Nat) : State := verbEnd s p 0x0C fun s c v => classify s p c (vImm v % 16)
def verbDrop (s : State) (p : Nat) : State :=
  verbEnd s p 0x0D fun s c v =>
    parseDrop { grmCount s p 5 1 with grm := { s.grm with reason := vImm v % 256 } } p 5 c.item.fr.cl
def verbPunt (s : State) (p : Nat) : State := verbEnd s p 0x0E fun s c _ => parsePunt s p c

/-- PIPELINE_ADMIT (R295, R300): the pipeline. -/
def execPipelineAdmit (p : Nat) (s : State) : Host.Outcome State Fault Refusal := .next (pipeAdmit s p)
/-- GRAMMAR_SWITCH_MARKER (R305): the pipeline. -/
def execGrammarSwitchMarker (p : Nat) (s : State) : Host.Outcome State Fault Refusal := .next (grmMarker s p)
/-- GRAMMAR_SWITCH_COMPLETE (R305). -/
def execGrammarSwitchComplete (s : State) : Host.Outcome State Fault Refusal := .next (grmSwitch s)
/-- NOP (R299): the pipeline, as for every verb. -/
def execNop (p : Nat) (s : State) : Host.Outcome State Fault Refusal := .next (verbNop s p)
/-- EXTRACT (R299). -/
def execExtractVerb (p : Nat) (s : State) : Host.Outcome State Fault Refusal := .next (verbExtract s p)
/-- MATCH (R299). -/
def execMatchVerb (p : Nat) (s : State) : Host.Outcome State Fault Refusal := .next (verbMatch s p)
/-- DISPATCH (R299). -/
def execDispatchVerb (p : Nat) (s : State) : Host.Outcome State Fault Refusal := .next (verbDispatch s p)
/-- GOTO (R299). -/
def execGotoVerb (p : Nat) (s : State) : Host.Outcome State Fault Refusal := .next (verbGoto s p)
/-- ADVANCE (R299). -/
def execAdvance (p : Nat) (s : State) : Host.Outcome State Fault Refusal := .next (verbAdvance s p)
/-- ADVANCE_FIELD (R299). -/
def execAdvanceField (p : Nat) (s : State) : Host.Outcome State Fault Refusal := .next (verbAdvanceField s p)
/-- ADVANCE_IF (R299). -/
def execAdvanceIf (p : Nat) (s : State) : Host.Outcome State Fault Refusal := .next (verbAdvanceIf s p)
/-- MARK (R299). -/
def execMarkVerb (p : Nat) (s : State) : Host.Outcome State Fault Refusal := .next (verbMark s p)
/-- KEEP_CUR (R299). -/
def execKeepCur (p : Nat) (s : State) : Host.Outcome State Fault Refusal := .next (verbKeepCur s p)
/-- HASH (R299). -/
def execHashVerb (p : Nat) (s : State) : Host.Outcome State Fault Refusal := .next (verbHash s p)
/-- SETNOUN (R299, R301). -/
def execSetnoun (p : Nat) (s : State) : Host.Outcome State Fault Refusal := .next (verbSetnoun s p)
/-- ACCEPT (R309). -/
def execAcceptVerb (p : Nat) (s : State) : Host.Outcome State Fault Refusal := .next (verbAccept s p)
/-- DROP (R299). -/
def execDropVerb (p : Nat) (s : State) : Host.Outcome State Fault Refusal := .next (verbDrop s p)
/-- PUNT (R299). -/
def execPuntVerb (p : Nat) (s : State) : Host.Outcome State Fault Refusal := .next (verbPunt s p)

end Sys2Proof.Machine
end

