-- ==== Sys2Proof/Machine/Ephemeris.lean ====
section
/-! DEFINITION. The grant engine's build (R173 to R187, R190 to R197): the steps over the allocations, packing into bursts,
the burst cap, placement, removal, the codeword fit, ring records, the committed Ephemeris. -/
namespace Sys2Proof.Machine

/-! ## Entries (R173) -/

/-- The 16 bytes of an entry as sent: COMA and TCM_SLOT given, its CRC8 computed (R173). -/
def EphEntry.bytes (e : EphEntry) (coma : Bool) (slot : Option Nat) : List Byte :=
  let put (w acc v : Nat) : Nat := acc * 2 ^ w + v % 2 ^ w
  let a := put 2 0 e.gkind
  let a := put 19 a e.aid
  let a := put 17 a e.start
  let a := put 17 a e.len
  let a := put 2 a e.btype
  let a := put 2 a e.rpt
  let a := put 1 a (b2n e.tcm)
  let a := put 1 a (b2n slot.isSome)
  let a := put 4 a (slot.getD 0)
  let a := put 1 a (b2n coma)
  let a := put 1 a (b2n e.standing)
  let a := put 5 a e.stream
  let a := put 1 a 0
  let b := bytesBE 15 (put 47 a 0)
  b ++ bytesBE 1 (crc8 b)
/-- Whether a cycle is a Coma epoch cycle of a channel (R132). -/
def isEpoch (s : State) (c m : Nat) : Bool := decide (m ∈ mget [] s.reg.epochs c)
/-- The NULL entry of a Coma epoch cycle without grants (R175). -/
def nullEntry : EphEntry := ⟨3, 0, 0x7FFF, 0, 0, 0, 0, false, false, 0⟩

/-! ## Who is granted (R187) -/

/-- The rogue probe under way silences a terminal of a channel in cycle m, by SILENCE or by DISABLE (R159, R160, R163). -/
def silenced (s : State) (c tid m : Nat) : Bool :=
  let r := mget {} s.rogue (c / 4)
  let len := max 4 (rf s (Adr.treRogueCfg (c / 4)) 15 8)
  rf s (Adr.treRogueStat (c / 4)) 27 26 == c % 4 && (decide (tid ∈ r.muted) ||
    match r.silence with
    | some (k, v) => decide (r.start ≤ m ∧ m < r.start + len) && (termSh s tid &&& k) == v
    | none => false)

/-- What a terminal is granted in cycle m on a channel outside quiet windows: 0 nothing, 1 bookings only, 2 all steps (R116, R187,
R234). -/
def grantWho (s : State) (c tid m : Nat) : Nat :=
  let st := termEff s tid
  let all := if traceBit s c (slotOfTid tid) && rb s (Adr.chnTraceCfg c) 0 then 1 else 2
  if silenced s c tid m then 0
  else if st = tsActive then all
  else if st = tsRanging ∨ st = tsKeying ∨ st = tsLost then 1
  else if st = tsTransit then
    match s.transits.find? (·.1 = tid) with
    | none => 0
    | some (_, r) =>
      if rf s (Adr.treTransitStat (treeOfTid tid) (slotOfTid tid)) 31 28 < 3 then (if m < r.x then all else 0)
      else (if r.y ≤ m then all else 0)
  else 0
/-- What a terminal is granted in cycle m on a channel: nothing in a quiet window (R145, R187). -/
def grantMode (s : State) (c tid m : Nat) : Nat := if inQuiet s c m then 0 else grantWho s c tid m

/-! ## The steps over the allocations (R178 to R180) -/

/-- An allocation within a build: entry, demand, credits left, and what pins and each step grant, in bytes. -/
structure ABld where
  aid : Nat
  v : Nat
  rep : Nat
  ant : Nat
  acr : Nat
  mcr : Int
  last : Nat
  pin : Nat := 0
  std : Nat := 0
  asd : Nat := 0
  sur : Nat := 0
  due : Bool := false
  antG : Nat := 0
  deriving DecidableEq, Repr
def ABld.tid (a : ABld) : Nat := aTid a.v
def ABld.got (a : ABld) : Nat := a.pin + a.std + a.asd + a.sur + a.antG
/-- Demand not yet served in this build. -/
def ABld.want (a : ABld) : Nat := a.rep - a.got
/-- Bytes of the maximum credit left. -/
def ABld.room (a : ABld) : Nat := (a.mcr / 8).toNat - a.got

/-- An allocation at the start of the build of the cycles m to m + span - 1, one or on a C50 channel the eight of a frame: credits gain
their rate and are capped, at a frame's gain at least (R168, R196; DEDUCED, assumption log 157). -/
def abldInit (s : State) (m span aid : Nat) : ABld :=
  let v := geAlloc s aid
  let d := allocDyn s aid
  let dem := demand v d m
  { aid := aid, v := v, rep := dem.1, ant := dem.2
    acr := min (aAssured v * max span (aDepth v)) (d.acr + span * aAssured v)
    mcr := min ((aMax v * max span (aDepth v) : Nat) : Int) (d.mcr + (span * aMax v : Nat)), last := d.last }

/-- A grant below 64 bytes is not issued (R178). -/
def atLeast64 (n : Nat) : Nat := if n < 64 then 0 else n

/-- The standing step: one grant for each cycle of the build that its period and phase name. -/
def stepStd (m span : Nat) (a : ABld) : ABld :=
  let n := ((List.range span).filter fun k => (m + k + aStdPeriod a.v - aStdPhase a.v) % aStdPeriod a.v == 0).length
  { a with std := n * (4 * aStdUnits a.v) }
/-- The assured step: from the credit that the grants before it leave. -/
def stepAsd (a : ABld) : ABld := { a with asd := atLeast64 (min a.want (a.acr / 8 - a.std - a.pin)) }
/-- The latency targets (R180). -/
def stepDue (m span : Nat) (a : ABld) : ABld :=
  if aLat a.v ≠ 0 ∧ 0 < a.want ∧ a.last + aLat a.v ≤ m + span then
    { a with sur := atLeast64 (min (min a.want a.room) 2048), due := true }
  else a

/-- Rotation order from a pointer: by terminal slot, then by AID (R179). -/
def rotKey (ptr : Nat) (a : ABld) : Nat := ((slotOfTid a.tid + 512 - ptr % 512) % 512) * 2 ^ 19 + a.aid
def insertRot (ptr : Nat) (x : ABld × Nat) : List (ABld × Nat) → List (ABld × Nat)
  | [] => [x]
  | y :: ys => if rotKey ptr x.1 < rotKey ptr y.1 then x :: y :: ys else y :: insertRot ptr x ys
def sortRot (ptr : Nat) (l : List (ABld × Nat)) : List (ABld × Nat) := l.foldr (insertRot ptr) []

/-- One round after another of the weighted max-min division (R179): bytes by AID. -/
def divideRounds (ptr : Nat) : Nat → Nat → List (ABld × Nat) → List (Nat × Nat) → List (Nat × Nat)
  | 0, _, _, acc => acc
  | n + 1, b, xs, acc =>
    if b < 64 ∨ xs = [] then acc
    else
      let w := xs.foldl (fun k x => k + aWeight x.1.v) 0
      let share (x : ABld × Nat) : Nat := b * aWeight x.1.v / w / 4 * 4
      let capped := xs.filter fun x => x.2 ≤ share x
      if capped = [] then
        let used := xs.foldl (fun k x => k + share x) 0
        let units := (b - used) / 4
        acc ++ (sortRot ptr xs).zipIdx.map fun p => (p.1.1.aid, share p.1 + if p.2 < units then 4 else 0)
      else
        divideRounds ptr n (b - capped.foldl (fun k x => k + x.2) 0) (xs.filter fun x => ¬ x.2 ≤ share x)
          (acc ++ capped.map fun x => (x.1.aid, x.2))

/-- What an allocation wants of the surplus; none without a WEIGHT. -/
def surWish (a : ABld) : Option Nat :=
  let w := min a.want a.room
  if 0 < aWeight a.v ∧ 64 ≤ w then some w else none
/-- The division over the allocations with WEIGHT and wish, of the terminals not left out. -/
def divideOnce (ptr b : Nat) (as : List ABld) (out : List Nat) : List (Nat × Nat) :=
  let xs := as.filterMap fun a => if a.tid ∈ out then none else (surWish a).map fun w => (a, w)
  divideRounds ptr (xs.length + 1) b xs []

/-- The terminal that a division leaves below MIN_SURPLUS with no other grant: the one with least, and of equals the last in
rotation (R179; DESIGN CHOICE, assumption log 158). -/
def divideDrop (ptr minS : Nat) (as : List ABld) (out : List Nat) (ds : List (Nat × Nat)) : Option Nat :=
  let amt (a : ABld) : Nat := atLeast64 (((ds.find? (·.1 = a.aid)).map (·.2)).getD 0)
  let mine (t : Nat) : List ABld := as.filter fun a => a.tid == t
  let tot (t : Nat) : Nat := (mine t).foldl (fun k a => k + amt a) 0
  let pos (t : Nat) : Nat := (slotOfTid t + 512 - ptr % 512) % 512
  let tids := ((as.filter fun a => (surWish a).isSome).map ABld.tid).dedup.filter fun t =>
    decide (¬ t ∈ out) && (mine t).all (fun a => a.got == 0) && decide (tot t < max 1 minS)
  tids.foldl (fun r t => match r with
    | none => some t
    | some x => if tot t < tot x ∨ (tot t = tot x ∧ pos x < pos t) then some t else some x) none

/-- Terminals whose only grants would be surplus below MIN_SURPLUS receive none, one after another; their share, and the burst overhead
that they then do not take, is divided again (R178, R179). The budget is given by the terminals left out. -/
def divideAll (budget : List Nat → Nat) (ptr minS : Nat) (as : List ABld) : Nat → List Nat → List (Nat × Nat)
  | 0, out => divideOnce ptr (budget out) as out
  | n + 1, out =>
    let ds := divideOnce ptr (budget out) as out
    match divideDrop ptr minS as out ds with
    | none => ds
    | some t => divideAll budget ptr minS as n (out ++ [t])

/-- The surplus step with a budget. -/
def stepSur (budget : List Nat → Nat) (ptr minS : Nat) (as : List ABld) : List ABld :=
  let ds := divideAll budget ptr minS as ((as.map ABld.tid).dedup.length) []
  as.map fun a => { a with sur := a.sur + atLeast64 (((ds.find? (·.1 = a.aid)).map (·.2)).getD 0) }
/-- The anticipation step: within the credits, which a grant never exceeds (R168, R178). -/
def stepAnt (a : ABld) : ABld :=
  if aPredict a.v then { a with antG := atLeast64 (min a.ant a.room) } else a

/-! ## Bursts (R100, R104, R181, R182) -/

/-- A burst within a build: terminal, cold, TCM_EN, RPT ALL, its grants in span order, a system grant, a poll. -/
structure BBld where
  tid : Nat
  cold : Bool
  tcm : Bool := false
  all : Bool := false
  parts : List ABld := []
  sys : Bool := false
  poll : Bool := false
  deferred : Bool := false
  start : Nat := 0
  deriving DecidableEq, Repr

def ceil4 (n : Nat) : Nat := ceilDiv n 4 * 4
/-- Report words a burst carries: all the terminal's allocations up to 16, or those asked for, at least 4; the four of its prologue
in a polling burst, whose length is fixed (R103, R180, R181). -/
def rptWords (s : State) (m : Nat) (b : BBld) : Nat :=
  let n := if b.poll then 4 else if b.all then min 16 (allocsOf s b.tid).length
    else (b.parts.filter fun a => decide ((allocDyn s a.aid).rpt + 7 ≤ m)).length
  max 4 n
/-- Information bytes of the opening span before the first allocation's bytes. -/
def headBytes (s : State) (m : Nat) (b : BBld) : Nat := 32 + 4 * (rptWords s m b - 4) + (if b.tcm then 48 else 0)
/-- Information bytes of a burst's prologue, message and grants. -/
def burstRaw (s : State) (m : Nat) (b : BBld) : Nat :=
  headBytes s m b + b.parts.foldl (fun n a => n + ceil4 a.got) 0
/-- Information bytes of a burst, its last codeword carrying at least 32 (R104, R181). -/
def burstBytes (s : State) (m : Nat) (b : BBld) : Nat :=
  let k := burstRaw s m b
  let last := k - 2048 * ((k - 1) / 2048)
  if last < 32 then k + (32 - last) else k
/-- Grant units that k information bytes take, parity included, from the start of the coded region. -/
def codedUnits (k : Nat) : Nat := ceilDiv (k + 152 * ceilDiv k 2048) 4
/-- LENGTH of a burst. -/
def burstLen (s : State) (m : Nat) (b : BBld) : Nat :=
  burstOverhead b.cold + codedUnits (burstBytes s m b)

/-- The rank of a burst (R184). -/
def burstRank (b : BBld) : Nat :=
  if b.sys then 1 else if b.parts.any fun a => 0 < a.std then 2
  else if b.parts.any fun a => 0 < a.asd || a.due then 3 else if b.poll then 5 else 4

/-- The order of placement (R183, R184): rank, deferred ones first, standing bursts by TID, the rest in rotation. -/
def burstKey (ptr : Nat) (b : BBld) : Nat :=
  let pos := if burstRank b = 2 then b.tid % 512 else (slotOfTid b.tid + 512 - ptr % 512) % 512
  (burstRank b * 2 + (if b.deferred then 0 else 1)) * 512 + pos
def insertBurst (ptr : Nat) (b : BBld) : List BBld → List BBld
  | [] => [b]
  | x :: xs => if burstKey ptr b < burstKey ptr x then b :: x :: xs else x :: insertBurst ptr b xs
def sortBursts (ptr : Nat) (l : List BBld) : List BBld := l.foldr (insertBurst ptr) []

/-- Places bursts in order, each at or after the end of the one before and 704 units after its opening; none when one does
not fit. -/
def placeAll (s : State) (m : Nat) (held : List Span) : List BBld → Nat → List BBld → Option (List BBld)
  | [], _, acc => some acc.reverse
  | b :: bs, x, acc =>
    let len := burstLen s m b
    match placeOne held len (held.length + 1) x with
    | none => none
    | some y => placeAll s m held bs (max (y + len) (y + 704)) ({ b with start := y } :: acc)

/-- The bytes of a burst in a C50 channel's frame: its overhead and its grants (R196). -/
def c50Len (s : State) (c : Nat) (b : BBld) : Nat :=
  Config.c50Overhead (persOf s c) + b.parts.foldl (fun n a => n + ceil4 a.got) 0
/-- Places the bursts of a C50 frame one after another from a byte on, within a number of bytes and 256 allocation structures. -/
def placeC50 (s : State) (c stop : Nat) : List BBld → (x n : Nat) → List BBld → Option (List BBld)
  | [], _, _, acc => some acc.reverse
  | b :: bs, x, n, acc =>
    let y := x + c50Len s c b
    let k := n + max 1 b.parts.length
    if stop < y ∨ 256 < k then none else placeC50 s c stop bs y k ({ b with start := x } :: acc)

/-! ## Removal until the cycle fits (R184) -/

/-- What removals cost: assured grants cut, standing grants dropped. -/
structure Short where
  asd : Bool := false
  std : Nat := 0
  deriving DecidableEq, Repr

/-- Applies a change to every allocation of the bursts that a test names. Grants of nothing go, and a burst without anything left to
carry, unless it carries a message or polls. -/
def mapParts (p : BBld → Bool) (f : ABld → ABld) (l : List BBld) : List BBld :=
  (l.map fun b => if p b then { b with parts := (b.parts.map f).filter fun a => 0 < a.got } else b).filter fun b =>
    b.sys || b.poll || b.tcm || !b.parts.isEmpty
/-- Applies a change to every allocation. -/
def mapAll (f : ABld → ABld) (l : List BBld) : List BBld := mapParts (fun _ => true) f l

/-- Candidates that lack one more of some terminals' or allocations' grants at a time. -/
def dropEach (keys : List Nat) (drop : List Nat → List BBld) : List (List BBld) :=
  (List.range keys.length).map fun i => drop (keys.take (i + 1))

/-- The bursts without polls, the last in placement order first. -/
def dropPoll (l : List BBld) : List (List BBld) :=
  dropEach ((l.filter (·.poll)).map (·.tid)).reverse fun gone => l.filter fun b => !(b.poll && decide (b.tid ∈ gone))
/-- The bursts with anticipation grants removed, the last in placement order first: the rule names the class only (DESIGN CHOICE,
assumption log 159). -/
def dropAnt (l : List BBld) : List (List BBld) :=
  dropEach (l.flatMap fun b => b.parts.filterMap fun a => if 0 < a.antG then some a.aid else none).reverse fun gone =>
    mapAll (fun a => if a.aid ∈ gone then { a with antG := 0 } else a) l
/-- The bursts that hold surplus grants only, removed from the lowest-ranked on. -/
def dropSurOnly (l : List BBld) : List (List BBld) :=
  let only (b : BBld) : Bool := !b.sys && b.parts.all fun a => a.pin == 0 && a.std == 0 && a.asd == 0
  dropEach ((l.filter only).map (·.tid)).reverse fun gone =>
    mapParts (fun b => only b && decide (b.tid ∈ gone)) (fun a => { a with sur := 0, antG := 0, due := false }) l
/-- The bursts with assured grants cut in proportion to ASSURED, in steps of one eighth of a cycle's worth. -/
def dropAsd (l : List BBld) : List (List BBld) :=
  (List.range 512).map fun i =>
    mapAll (fun a => { a with asd := atLeast64 ((a.asd - aAssured a.v * (i + 1) / 64) / 4 * 4) }) l
/-- The bursts without the standing grants of the highest AIDs, one more at a time. -/
def dropStd (l : List BBld) : List (List BBld) :=
  let aids := (l.flatMap fun b => b.parts.filterMap fun a => if 0 < a.std then some a.aid else none)
  let desc := aids.foldr (fun x acc => (acc.takeWhile (fun y => x < y)) ++ x :: acc.dropWhile (fun y => x < y)) []
  dropEach desc fun gone => mapAll (fun a => if a.aid ∈ gone then { a with std := 0 } else a) l

/-- The first of a list of candidates that fits, with its place in the list. -/
def firstFit (place : List BBld → Option (List BBld)) : List (List BBld) → Nat → Option (List BBld × Nat)
  | [], _ => none
  | l :: ls, i => match place l with
    | some p => some (p, i)
    | none => firstFit place ls (i + 1)

/-- Places the bursts, removing grants in the order of R184 until they fit: polls, anticipation, surplus by dividing a budget that is
2,048 bytes smaller at each step (bursts gives them for a cut, DESIGN CHOICE, assumption log 158), surplus-only bursts, assured grants,
standing grants. Message bursts are never removed. -/
def fitCycle (place : List BBld → Option (List BBld)) (bursts : Nat → List BBld) (budget : Nat) : List BBld × Short :=
  let full := bursts 0
  let noPoll := fun (l : List BBld) => l.filter fun b => !b.poll
  let noAnt := fun (l : List BBld) => mapAll (fun a => { a with antG := 0 }) (noPoll l)
  match firstFit place ([full] ++ dropPoll full ++ dropAnt (noPoll full)
      ++ (List.range (budget / 2048 + 1)).map fun i => noAnt (bursts (2048 * (i + 1)))) 0 with
  | some (p, _) => (p, {})
  | none =>
    let noBudget := noAnt (bursts (budget + 2048))
    match firstFit place (dropSurOnly noBudget) 0 with
    | some (p, _) => (p, {})
    | none =>
      let noSur := mapAll (fun a => { a with sur := 0, due := false }) noBudget
      let cut := noSur.any fun b => b.parts.any fun a => 0 < a.asd
      match firstFit place ([noSur] ++ if cut then dropAsd noSur else []) 0 with
      | some (p, i) => (p, { asd := decide (i ≠ 0) })
      | none =>
        let noAsd := mapAll (fun a => { a with asd := 0 }) noSur
        match firstFit place (dropStd noAsd) 0 with
        | some (p, i) => (p, { asd := cut, std := i + 1 })
        | none =>
          let msgs := mapAll (fun a => { a with pin := 0, std := 0 }) noAsd
          let tries := (List.range (msgs.length + 1)).map fun i => msgs.take (msgs.length - i)
          (((firstFit place tries 0).map (·.1)).getD [], { asd := cut })

/-- What fills a burst's last codeword, within its last entry's maximum credit (R185): 0 where it is full. -/
def codewordFill (s : State) (m : Nat) (b : BBld) : Nat :=
  let k := burstRaw s m b
  match b.parts.getLast? with
  | some a => min (ceilDiv k 2048 * 2048 - k) (a.room / 4 * 4)
  | none => 0
/-- A burst with its last entry extended, by a grant of surplus. -/
def extendLast (b : BBld) (n : Nat) : BBld :=
  match b.parts.getLast? with
  | some a => { b with parts := b.parts.dropLast ++ [{ a with sur := a.sur + n }] }
  | none => b
/-- The codeword fit (R185): in placement order, a burst whose last codeword is shortened is extended, where the cycle still
fits. -/
def codewordFit (s : State) (m : Nat) (place : List BBld → Option (List BBld)) : Nat → Nat → List BBld → List BBld
  | 0, _, l => l
  | n + 1, i, l =>
    match l[i]? with
    | none => l
    | some b =>
      let fill := codewordFill s m b
      if fill = 0 then codewordFit s m place n (i + 1) l
      else codewordFit s m place n (i + 1) ((place (l.set i (extendLast b fill))).getD l)

/-! ## Entries of the bursts -/

/-- The entries of a data burst: the opening span holds the overhead, the prologue and the first allocation; each span
ends with the grant unit of its last byte (R181, R182). -/
def burstEntries (s : State) (m : Nat) (b : BBld) : List EphEntry :=
  let bt := if b.cold then 2 else 1
  let total := burstLen s m b
  let lost := decide (b.tid ∈ s.grant.lostLast)
  let rptOf (a : ABld) (first : Bool) : Nat :=
    if first && (b.all || lost) then 2 else if (allocDyn s a.aid).rpt + 7 ≤ m then 1 else 0
  match b.parts with
  | [] => [⟨1, b.tid, b.tid, b.start, total, bt, if b.all || lost then 2 else 0, b.tcm, false, 0⟩]
  | parts =>
    let ends := (parts.foldl (fun (acc : List Nat × Nat) a =>
      let k := acc.2 + ceil4 a.got
      (acc.1 ++ [burstOverhead b.cold + ceilDiv (k + 152 * (k / 2048)) 4], k)) ([], headBytes s m b)).1
    parts.zipIdx.map fun p =>
      let first := p.2 == 0
      let lo := if first then 0 else ends.getD (p.2 - 1) 0
      let hi := if p.2 + 1 = parts.length then total else ends.getD p.2 0
      ⟨0, p.1.aid, b.tid, b.start + lo, hi - lo, if first then bt else 0, rptOf p.1 first, first && b.tcm,
       decide (0 < p.1.std), aStream p.1.v⟩

/-- The entry of a booked grant: a TERMINAL grant is warm or cold per R113 and asks for all reports. -/
def bookEntry (s : State) (c : Nat) (b : Booking) : EphEntry :=
  if b.kind = 2 then ⟨2, b.id, 0x7FFF, b.start, b.len, 2, 0, b.tcm, false, 0⟩
  else ⟨1, b.id, b.id, b.start, b.len,
    if burstWarm s c (slotOfTid b.id) && !(termEff s b.id == tsRanging || termEff s b.id == tsLost) then 1 else 2, 2,
    b.tcm, false, 0⟩
/-- The bookings of cycle m that are sent: those of a registered terminal that a probe window silences are withheld (R159, R187; DESIGN
CHOICE, assumption log 160). -/
def booksSent (s : State) (c m : Nat) : List Booking :=
  (booksAt s c m).filter fun b => !(b.kind == 1 && silenced s c b.id m)

/-- Entries in rising START. -/
def insertEntry (e : EphEntry) : List EphEntry → List EphEntry
  | [] => [e]
  | x :: xs => if e.start < x.start then e :: x :: xs else x :: insertEntry e xs
def sortEntries (l : List EphEntry) : List EphEntry := l.foldr insertEntry []

/-- More entries than there is room for: the CONT entries with the smallest grants in the lowest-ranked bursts are dropped (R184). -/
def entryCap (room : Nat) : Nat → List BBld → List BBld × Nat
  | 0, l => (l, 0)
  | n + 1, l =>
    let count := l.foldl (fun k b => k + max 1 b.parts.length) 0
    if count ≤ room then (l, 0)
    else
      let worst := l.foldl (fun r b => if 1 < b.parts.length then max r (burstRank b) else r) 0
      let cands := (l.filter fun b => 1 < b.parts.length && burstRank b == worst).flatMap fun b => b.parts.drop 1
      match cands with
      | [] => (l, 0)
      | a :: as =>
        let low := as.foldl (fun x y => if y.got < x.got then y else x) a
        let l' := l.map fun b => { b with parts := b.parts.filter fun y => y.aid ≠ low.aid }
        let (r, k) := entryCap room n l'
        (r, k + 1)

/-! ## The build's own bookings (R143, R151, R156, R186) -/

/-- Terminals of a channel. -/
def buildTids (s : State) (c : Nat) : List Nat := chanTids s c
/-- Whether a terminal has a message that asks for an ACK, waiting or queued on the channel (R151, R186). -/
def wantsTcm (s : State) (c tid : Nat) : Bool :=
  (s.tcm.wait.any fun w => w.1 == tid) || (tcmQueue s c).any fun m => m.ack && m.peer == some tid

/-- A recovery grant of a LOST terminal that is not silenced is due every 8 cycles, its phase by TID (R156, R187); a terminal whose
Transit ended without an acknowledgement is tried on both channels in turn (R241). -/
def recoveryDue (s : State) (c tid m : Nat) : Bool :=
  termEff s tid == tsLost && (m + tid) % 8 == 0 && !silenced s c tid m &&
    match s.transits.find? (·.1 = tid) with
    | some (_, r) => if r.recover then
        ((m + tid) / 8 % 2 == 0) == (termW s tid == c % 4) else termW s tid == c % 4
    | none => termW s tid == c % 4

/-- Books a message or ranging grant of a terminal in cycle m, unless it has one (R186): cold in RANGING, else per R113. -/
def bookMsg (s : State) (c m tid : Nat) (more : List Span) : State :=
  let cold := termEff s tid == tsRanging || !burstWarm s c (slotOfTid tid)
  if (booksAt s c m).any fun b => b.kind == 1 && b.id == tid then s
  else (bookFw s c m 1 (if cold then regSpan else 320) true tid more).getD s

/-- Books what the engine and firmware owe terminals in cycle m: recovery grants, the only ones of a LOST terminal, ranging grants,
message grants of terminals that have bookings only. -/
def engineBooks (s : State) (c m : Nat) : State :=
  (usedTids s (c / 4)).foldl (fun s tid =>
    if termEff s tid = tsLost then
      if recoveryDue s c tid m then (bookFw s c m 1 regSpan true tid).getD s else s
    else if termW s tid = c % 4 ∧ grantMode s c tid m = 1
        ∧ (wantsTcm s c tid = true ∨ (s.reg.steps.find? (·.1 = tid)).map (·.2) = some .check) then bookMsg s c m tid []
    else s) s
/-- Message grants of terminals that a RAW build gives no burst (R151, R186). -/
def rawMsgs (s : State) (c m : Nat) (spans : List Span) (have_ : List Nat) : State :=
  (buildTids s c).foldl (fun s tid =>
    if ¬ tid ∈ have_ ∧ grantMode s c tid m = 2 ∧ wantsTcm s c tid = true then bookMsg s c m tid spans else s) s

/-! ## Assembling a build -/

/-- The order of a burst's entries: standing grants first, then the others, each in rising STREAM (R181). -/
def partOrder (l : List ABld) : List ABld :=
  let by_ (p : ABld → Bool) : List ABld := (List.range 31).flatMap fun st => l.filter fun a => p a && aStream a.v == st
  by_ (fun a => a.std != 0) ++ by_ (fun a => a.std == 0)

/-- Groups the granted allocations into bursts, with message bursts and polls (R180, R181, R186). -/
def groupBursts (s : State) (c m : Nat) (as : List ABld) (tids : List Nat) : List BBld :=
  tids.filterMap fun tid =>
    let mine := as.filter fun a => a.tid == tid
    let parts := partOrder (mine.filter fun a => decide (0 < a.got))
    let tcm := wantsTcm s c tid
    let idle := mine.all fun a => a.rep == 0
    let poll := parts.isEmpty && idle && mine.any fun a =>
      aPoll a.v != 0 && decide (mget 0 s.grant.lastBurst tid + aPoll a.v ≤ m)
    if parts.isEmpty && !tcm && !poll then none
    else some { tid := tid, cold := !burstWarm s c (slotOfTid tid), tcm := tcm, parts := parts, poll := poll && !tcm,
                sys := parts.isEmpty && tcm, all := parts.isEmpty || decide (tid ∈ s.grant.lostLast),
                deferred := decide (tid ∈ mget [] s.grant.deferred c) }

/-- Bytes that a count of grant units carries (R178). -/
def unitsBytes (u : Nat) : Nat := u * 4 * 2048 / 2200
/-- Grant units charged for a terminal's burst (R178). -/
def chargeUnits (s : State) (c tid : Nat) : Nat := if burstWarm s c (slotOfTid tid) then 270 else 1791

/-- The line time left for surplus in bytes, some terminals left out: what bookings, pins, the overheads of the terminals that have
grants or would have surplus, and the grants leave (R178). -/
def surplusBytes (s : State) (c : Nat) (held : List Span) (pinned : List Nat) (as : List ABld) (out : List Nat) : Nat :=
  let tids := (as.filter fun a => !decide (a.tid ∈ pinned)
    && (decide (0 < a.got) || ((surWish a).isSome && !decide (a.tid ∈ out)))).map ABld.tid |>.dedup
  let used := (held.filter fun b => b.start < 110000).foldl (fun n b => n + b.len) 0
    + tids.foldl (fun n t => n + chargeUnits s c t) 0
  unitsBytes (110000 - used) - as.foldl (fun n a => n + (a.got - a.pin)) 0

/-- What a build gives: placed bursts, counts. -/
structure Built where
  bursts : List BBld := []
  deferred : List Nat := []
  deferN : Nat := 0
  capped : Nat := 0
  short : Short := {}
  deriving DecidableEq, Repr

/-- The allocations of a build after each step up to the latency targets; pins holds the pinned bytes by AID (R178, R193). -/
def stepsDue (s : State) (m span : Nat) (tids : List Nat) (pins : List (Nat × Nat)) : List ABld :=
  (allocsWhere s fun t => decide (t ∈ tids)).map fun aid =>
    let pin := (pins.filter fun p => p.1 == aid).foldl (fun n p => n + p.2) 0
    stepDue m span (stepAsd (stepStd m span { abldInit s m span aid with pin := pin }))

/-- A pinned burst takes what the steps grant its terminal beside the pins, its entries after the pinned ones (R181, R193). -/
def pinWith (as : List ABld) (b : BBld) : BBld :=
  let mine := as.filter fun a => a.tid == b.tid
  let first := b.parts.map fun p => (mine.find? fun a => a.aid == p.aid).getD p
  { b with parts := first ++ partOrder (mine.filter fun a => a.pin == 0 && decide (0 < a.got)) }
/-- Each pinned burst at its START with what it takes beside its pins, as far as it stays clear of all other spans: all of it, or the
standing and assured grants, or the pins alone. -/
def pinsFit (s : State) (m : Nat) (held : List Span) (pins : List BBld) (opts : List (List ABld)) : List BBld :=
  let span (b : BBld) : Span := ⟨b.start, burstLen s m b, true⟩
  pins.zipIdx.foldl (fun (l : List BBld) p =>
    let others := held ++ (l.eraseIdx p.2).map span
    let clear (b : BBld) : Bool :=
      decide (b.start + burstLen s m b ≤ 110000) && others.all fun x => !x.meets b.start (burstLen s m b)
    match (opts.map fun as => pinWith as p.1).find? clear with
    | some b => l.set p.2 b
    | none => l) pins

/-- A build by the steps of R178, around booked and blocked spans and the pinned bursts placed (R193), with room for a number of
bursts and entries. -/
def buildSteps (s : State) (c m : Nat) (held : List Span) (nbook : Nat) (pins : List BBld) : Built :=
  let ptr := mget 0 s.grant.ptr c
  let minS := 4 * rf s (Adr.chnGeCfg c) 15 8
  let pinned := pins.map (·.tid)
  let tids := (buildTids s c).filter fun t => grantMode s c t m == 2
    && !(booksAt s c m).any fun b => b.kind == 1 && b.id == t
  let due := stepsDue s m 1 tids (pins.flatMap fun b => b.parts.map fun a => (a.aid, a.pin))
  let held0 := held ++ pins.map fun b => ⟨b.start, burstLen s m b, true⟩
  let budget := surplusBytes s c held0 pinned due
  let steps (cut : Nat) : List ABld := (stepSur (fun out => budget out - cut) ptr minS due).map stepAnt
  let base := due.map fun a => { a with sur := 0, due := false }
  let pins := pinsFit s m held pins [steps 0, base]
  let held := held ++ pins.map fun b => ⟨b.start, burstLen s m b, true⟩
  let nent := nbook + pins.foldl (fun n b => n + b.parts.length) 0
  let cap := clamp 1 128 (rf s (Adr.chnGeCfg c) 23 16) - nbook - pins.length
  let free := tids.filter fun t => !decide (t ∈ pinned)
  let all (cut : Nat) : List BBld := sortBursts ptr (groupBursts s c m (steps cut) free)
  let x0 := openFrom s c m
  let place (l : List BBld) : Option (List BBld) := placeAll s m held l x0 []
  let kept (cut : Nat) : List BBld × Nat := entryCap (128 - nent) 4096 ((all cut).take cap)
  let late := (all 0).drop cap
  let (placed, sh) := fitCycle place (fun cut => (kept cut).1) (budget [])
  let placed := codewordFit s m place placed.length 0 placed
  let fitPin (l : List BBld) (i : Nat) : List BBld :=
    match l[i]? with
    | none => l
    | some b =>
      let b' := extendLast b (codewordFill s m b)
      let len := burstLen s m b'
      let spans : List Span := (held.filter fun x => x.start != b.start)
        ++ placed.map fun y => (⟨y.start, burstLen s m y, true⟩ : Span)
      if b.start + len ≤ 110000 ∧ spans.all (fun x : Span => !x.meets b.start len) = true then l.set i b' else l
  let pins := (List.range pins.length).foldl fitPin pins
  { bursts := pins ++ placed, deferred := late.map (·.tid), deferN := late.length, capped := (kept 0).2, short := sh }

/-! ## Ring records (R191 to R194) -/

/-- The first address of slot i of a channel's input ring. -/
def geSlot (c i : Nat) : Nat := 0x2000000 + 0x40000 * c + 0x20000 + 0x1000 * (i % 16)
/-- A record's bytes. -/
def geRecByte (s : State) (c i ofs : Nat) : Nat := fld (rd s (geSlot c i + ofs / 4 * 4)) (ofs % 4 * 8 + 7) (ofs % 4 * 8)
def geRecBytes (s : State) (c i ofs n : Nat) : List Byte := (List.range n).map fun k => BitVec.ofNat 8 (geRecByte s c i (ofs + k))

/-- The ring's records from RD_IDX on: their slots. -/
def geRingSlots (s : State) (c : Nat) : List Nat :=
  let a := Adr.chnGeRingCtl c
  let rdx := rf s a 20 16
  (List.range (modSub (rf s a 4 0) rdx 32)).map fun k => (rdx + k) % 32

/-- STATUS of a record at the build of cycle m; none when it waits (R192). In BASIC every record differs from MODE. -/
def geRecStatus (s : State) (c i m : Nat) : Option Nat :=
  let target := ofBytesLE (geRecBytes s c i 0 6)
  let n := geRecByte s c i 7
  if target < m then some 1
  else if m + 15 < target then some 2
  else if m < target then none
  else if 128 < n + sysEntries s c then some 5
  else if crc32c (geRecBytes s c i 0 8 ++ geRecBytes s c i 0x20 (16 * n)) ≠ ofBytesLE (geRecBytes s c i 0x1C 4) then some 3
  else if geRecByte s c i 6 ≠ geMode s c ∨ geMode s c = 0 then some 4
  else if m ∈ mget [] s.grant.used c then some 6
  else if inQuiet s c m then some 7
  else some 0

/-- Writes STATUS and REMOVED of a record and moves RD_IDX past it; counts and events (R192). -/
def geRecDone (s : State) (c i status removed : Nat) : State :=
  let a := geSlot c i + 8
  let s := wf (wf s a 7 0 status) a 15 8 (min 255 removed)
  let s := wf s (Adr.chnGeRingCtl c) 20 16 ((i + 1) % 32)
  if status = 0 then geCount (geCount s c 10 1) c 12 removed else geEvent (geCount s c 11 1) c 3

/-- Takes records until one is to be used or waits: the slot of the one to be used. -/
def geTake (c m : Nat) : Nat → State → State × Option Nat
  | 0, s => (s, none)
  | n + 1, s =>
    match geRingSlots s c with
    | [] => (s, none)
    | i :: _ =>
      match geRecStatus s c i m with
      | none => (s, none)
      | some 0 => (s, some i)
      | some st => geTake c m n (geRecDone s c i st 0)
/-- A record of cycle m is used, some of its bursts or pins removed; the records behind it are looked at too, of which none can be used
for the same cycle (R192). -/
def geUsed (s : State) (c m i removed : Nat) : State :=
  let s := { s with grant := { s.grant with used := mset [] s.grant.used c (mget [] s.grant.used c ++ [m]) } }
  (geTake c m 16 (geRecDone s c i 0 removed)).1

/-- Entry k of a record, as the number its 16 bytes spell. -/
def geRecEntry (s : State) (c i k : Nat) : Nat := ofBytesBE (geRecBytes s c i (0x20 + 16 * k) 16)
def geRecEntries (s : State) (c i : Nat) : List Nat := (List.range (geRecByte s c i 7)).map (geRecEntry s c i)
def enKind (e : Nat) : Nat := nfld e 127 126
def enAid (e : Nat) : Nat := nfld e 125 107
def enStart (e : Nat) : Nat := nfld e 106 90
def enLen (e : Nat) : Nat := nfld e 89 73
def enBtype (e : Nat) : Nat := nfld e 72 71
def enEarliest (e : Nat) : Bool := nbit e 55

/-- The pins of a TEMPLATE record, by terminal in record order: the bursts, each with its START and EARLIEST, and the number of entries
removed (R193). A terminal that has a booking in the cycle has its one burst (R180). -/
def tmplPins (s : State) (c m : Nat) (es : List Nat) : List (BBld × Nat × Bool) × Nat :=
  let tid (e : Nat) : Nat := aTid (geAlloc s (enAid e))
  let good := es.filter fun e => enKind e == 0 && aValid (geAlloc s (enAid e)) && grantMode s c (tid e) m == 2
    && termChan s (tid e) == c && !(booksAt s c m).any fun b => b.kind == 1 && b.id == tid e
  let bad := (es.filter fun e => enKind e != 3).length - good.length
  ((good.map tid).dedup.map fun t =>
    let mine := good.filter fun e => tid e == t
    let parts := (mine.map enAid).dedup.map fun aid =>
      { abldInit s m 1 aid with pin := (mine.filter fun e => enAid e == aid).foldl (fun n e => n + 4 * enLen e) 0 }
    let first := mine.getD 0 0
    ({ tid := t, cold := !burstWarm s c (slotOfTid t), tcm := wantsTcm s c t, parts := parts,
       all := decide (t ∈ s.grant.lostLast) }, enStart first, enEarliest first), bad)

/-- Places the pins in record order, the openings before them given: at their START where R183 allows it, at the earliest START for an
EARLIEST pin; others are removed (R193). -/
def placePins (s : State) (m : Nat) (held : List Span) : List (BBld × Nat × Bool) → (x : Nat) → List BBld → List BBld × Nat
  | [], _, acc => (acc.reverse, 0)
  | (b, st, early) :: r, x, acc =>
    let len := burstLen s m b
    let at_ := if early then x else st
    let y := if at_ < x then none else placeOne held len (held.length + 1) at_
    if y.isSome ∧ (early = true ∨ y = some st) then
      let y := y.getD 0
      placePins s m held r (max (y + len) (y + 704)) ({ b with start := y } :: acc)
    else let (l, k) := placePins s m held r x acc; (l, k + 1)

/-- Splits RAW entries into bursts at the opening entries. -/
def rawSplit : List Nat → List (List Nat)
  | [] => []
  | e :: es =>
    match rawSplit es with
    | [] => [[e]]
    | g :: gs => match g with
      | x :: _ => if enBtype x = 0 then (e :: g) :: gs else [e] :: g :: gs
      | [] => [e] :: gs

/-- Whether a burst of RAW entries passes the checks of R194, the opening before it and the bookings given. -/
def rawOk (s : State) (c m : Nat) (held : List Span) (prev : Nat) (g : List Nat) : Bool :=
  match g with
  | [] => false
  | e :: rest =>
    let tid := aTid (geAlloc s (enAid e))
    let chain := (g.zip rest).all fun p => decide (enStart p.2 = enStart p.1 + enLen p.1)
    let stop := g.foldl (fun _ x => enStart x + enLen x) 0
    let warm := enBtype e == 1
    g.all (fun x => enKind x == 0 && aValid (geAlloc s (enAid x)) && aTid (geAlloc s (enAid x)) == tid)
      && termChan s tid == c && grantMode s c tid m == 2
      && (warm || enBtype e == 2) && rest.all (fun x => enBtype x == 0) && chain
      && decide (stop ≤ sysStart s c) && decide ((if warm then 308 else 1829) ≤ enLen e)
      && (!warm || burstWarm s c (slotOfTid tid))
      && decide (prev ≤ enStart e)
      && held.all fun h => decide (h.start + 704 ≤ enStart e ∨ enStart e + 704 ≤ h.start)

/-- The RAW bursts kept, with their count removed. -/
def rawKeep (s : State) (c m : Nat) (held : List Span) : List (List Nat) → Nat → List (List Nat) → List (List Nat) × Nat
  | [], _, acc => (acc.reverse, 0)
  | g :: gs, prev, acc =>
    if rawOk s c m held prev g then
      let e := g.getD 0 0
      let stop := g.foldl (fun _ x => enStart x + enLen x) 0
      rawKeep s c m held gs (max stop (enStart e + 704)) (g :: acc)
    else let (l, k) := rawKeep s c m held gs prev acc; (l, k + 1)

/-- The entries of a RAW burst as sent. -/
def rawEntries (s : State) (c : Nat) (g : List Nat) : List EphEntry :=
  g.zipIdx.map fun p =>
    let v := geAlloc s (enAid p.1)
    ⟨0, enAid p.1, aTid v, enStart p.1, enLen p.1, enBtype p.1, nfld p.1 70 69,
     p.2 == 0 && (nbit p.1 68 || wantsTcm s c (aTid v)), nbit p.1 61, aStream v⟩

/-- Information bytes in the first u grant units of a coded region of g (R104, R182). -/
def infoUpTo (g u : Nat) : Nat := min (infoBytes g) (4 * u / 2200 * 2048 + min 2048 (4 * u % 2200))
/-- What the entries of a RAW burst grant (R166, R182): the allocation bytes of each one's span, without the overhead, the prologue, a
message and parity. -/
def rawGrants (s : State) (c : Nat) (g : List Nat) : List (Nat × Nat) :=
  let es := rawEntries s c g
  let ovh := match es with | e :: _ => burstOverhead (e.btype == 2) | [] => 0
  let total := es.foldl (fun n e => n + e.len) 0 - ovh
  let words := match es with
    | e :: _ => if e.rpt = 2 then min 16 (allocsOf s e.tid).length else (es.filter fun x => x.rpt == 1).length
    | [] => 0
  let head := 32 + 4 * (max 4 words - 4) + (if es.any (·.tcm) then 48 else 0)
  (es.foldl (fun (acc : List (Nat × Nat) × Nat × Nat) e =>
    let u := acc.2.1 + e.len
    let k := max acc.2.2 (infoUpTo total (u - ovh))
    (acc.1 ++ [(e.aid, k - acc.2.2)], u, k)) ([], 0, head)).1

/-! ## Committing a build -/

/-- Charges an allocation's grants: ACR by pinned, standing, assured and anticipated bytes down to 0, MCR by all; G_out and the
statistics follow (R168, R172, R177 step 3, R193). -/
def chargeAlloc (s : State) (m : Nat) (a : ABld) : State :=
  let d := allocDyn s a.aid
  let own := a.pin + a.std + a.asd
  let s := setDyn s a.aid { d with
    acr := a.acr - 8 * (own + min a.antG (a.acr / 8 - own))
    mcr := a.mcr - ((8 * a.got : Nat) : Int), last := m + 1, due := a.due
    out := d.out ++ [{ cycle := m, bytes := a.got }] }
  stat (stat s scAlloc a.aid 2 a.got) scAlloc a.aid 3 1

/-- The credits of allocations gain their rate, whether or not they are granted (R168). -/
def gainOnly (s : State) (m span : Nat) (as : List Nat) : State :=
  as.foldl (fun s aid =>
    let a := abldInit s m span aid
    setDyn s aid { allocDyn s aid with acr := a.acr, mcr := a.mcr, due := false }) s
/-- The allocations of the terminals that work on a channel. -/
def chanAllocs (s : State) (c : Nat) : List Nat := allocsWhere s fun t => treeOfTid t == c / 4 && termChan s t == c

/-- The widest gap in grant units that spans leave in a cycle, guards between bursts of one another left aside (R157). -/
def widestGap (es : List EphEntry) : Nat :=
  let (gap, stop) := (sortEntries es).foldl (fun (acc : Nat × Nat) e =>
    (max acc.1 (e.start - acc.2), max acc.2 (e.start + e.len))) (0, 0)
  max gap (110000 - stop)

/-- The Ephemeris of cycle m is complete: entries in rising START, outstanding bursts, counters, the last build's summary
(R177, R197). -/
def commitBuild (s : State) (c m : Nat) (es : List EphEntry) (gbs : List GBurst) (b : Built) : State :=
  let es := if es = [] ∧ isEpoch s c m = true then [nullEntry] else sortEntries es
  let cold := (gbs.filter (·.cold)).length
  let busy := es.foldl (fun n e => n + e.len) 0
  let idle := 110000 - min 110000 busy
  let last := gbs.foldl (fun n g => max n g.start) 0
  let g := s.grant
  let s := { s with grant := { g with
    eph := mput g.eph c (m, es)
    bursts := mset [] g.bursts c (mget [] g.bursts c ++ gbs)
    books := mset [] g.books c ((mget [] g.books c).filter fun x => m < x.cycle)
    quiet := mset [] g.quiet c ((mget [] g.quiet c).filter fun w => m ≤ w.2 + 64)
    used := mset [] g.used c ((mget [] g.used c).filter fun x => m < x + 16)
    gaps := mset [] g.gaps c ((mget [] g.gaps c).filter (fun x => m < x.1 + 80) ++ [(m, widestGap es)])
    ptr := mset 0 g.ptr c ((mget 0 g.ptr c + 1) % 512)
    deferred := mset [] g.deferred c b.deferred
    lastStart := mset 0 g.lastStart c last
    built := mput g.built c (m + 1)
    lastBurst := gbs.foldl (fun l x => if x.tid = 0x7FFF then l else mput l x.tid (m + 1)) g.lastBurst
    lostLast := g.lostLast.filter fun t => ¬ gbs.any fun x => x.tid = t } }
  let s := geCount (geCount (geCount (geCount s c 0 1) c 1 gbs.length) c 2 cold) c 6 idle
  let s := geCount (geCount s c 3 b.deferN) c 14 b.capped
  let s := b.deferred.foldl (fun s t => (allocsOf s t).foldl (fun s a =>
    setDyn s a { allocDyn s a with deferrals := satAdd 255 (allocDyn s a).deferrals 1 }) s) s
  let s := if b.deferN = 0 then s else geEvent s c 2
  let s := if b.short.asd then geEvent (geCount s c 4 1) c 0 else s
  let s := if b.short.std = 0 then s else geEvent (geCount s c 5 b.short.std) c 1
  wrW s (Adr.chnGeLast c) (m % 65536 * 2 ^ 48 + gbs.length % 256 * 2 ^ 40 + es.length % 256 * 2 ^ 32
    + cold % 256 * 2 ^ 24 + min 127 b.deferN * 2 ^ 17 + idle) 2

/-- The outstanding burst of a built burst, and of a booking. -/
def gburstOf (s : State) (m : Nat) (b : BBld) : GBurst :=
  { cycle := m, tid := b.tid, start := b.start, len := burstLen s m b, cold := b.cold, kind := if b.parts.isEmpty then 1 else 0,
    grants := b.parts.map fun a => (a.aid, a.got) }
def gburstBook (e : EphEntry) (m : Nat) : GBurst :=
  { cycle := m, tid := e.tid, invite := if e.gkind = 2 then e.aid else 0, start := e.start, len := e.len,
    cold := e.btype == 2, kind := e.gkind }
/-- Outstanding bursts in rising START. -/
def insertGb (g : GBurst) : List GBurst → List GBurst
  | [] => [g]
  | x :: xs => if g.start < x.start then g :: x :: xs else x :: insertGb g xs

/-- Commits entries and outstanding bursts after the charges of what is granted. -/
def commitCharged (s : State) (c m : Nat) (parts : List ABld) (es : List EphEntry) (gbs : List GBurst) (b : Built) : State :=
  commitBuild (parts.foldl (fun s a => chargeAlloc s m a) (gainOnly s m 1 (chanAllocs s c))) c m es (gbs.foldr insertGb []) b
/-- Commits built bursts beside the bookings' entries. -/
def commitBursts (s : State) (c m : Nat) (b : Built) : State :=
  let bookEs := (booksSent s c m).map (bookEntry s c)
  commitCharged s c m (b.bursts.flatMap fun x => x.parts) (bookEs ++ b.bursts.flatMap (burstEntries s m))
    (bookEs.map (fun e => gburstBook e m) ++ b.bursts.map (gburstOf s m)) b

/-- The channel's time of a C50 frame in bytes at its upstream line rate (R124): 49.7664 or 24.8832 Gbit/s for 125 us. -/
def c50Bytes (s : State) (c : Nat) : Nat := if persOf s c = 1 then 777600 else 388800

/-- The build of a C50 channel (R196): once per frame of eight cycles, the steps of R178 over up to 256 allocation structures; START and
LENGTH of a burst are bytes of the frame, in whose cycles within a quiet window nothing is granted (R146). The map's format and the
burst overhead are those of G.9804.2. -/
def buildC50 (s : State) (c m : Nat) : State :=
  let live := ((List.range 8).filter fun k => !inQuiet s c (m + k)).length
  let size := c50Bytes s c * live / 8
  let start := if inQuiet s c m then c50Bytes s c - size else 0
  let ptr := mget 0 s.grant.ptr c
  let tids := (buildTids s c).filter fun t => live != 0 && grantWho s c t m == 2
  let due := stepsDue s m 8 tids []
  let budget (out : List Nat) : Nat :=
    let ts := (due.filter fun a => decide (0 < a.got) || ((surWish a).isSome && !decide (a.tid ∈ out))).map ABld.tid |>.dedup
    size - ts.length * Config.c50Overhead (persOf s c) - due.foldl (fun n a => n + a.got) 0
  let steps (cut : Nat) : List ABld :=
    (stepSur (fun out => budget out - cut) ptr (4 * rf s (Adr.chnGeCfg c) 15 8) due).map stepAnt
  let cap := clamp 1 128 (rf s (Adr.chnGeCfg c) 23 16)
  let all (cut : Nat) : List BBld := sortBursts ptr (groupBursts s c m (steps cut) tids)
  let late := (all 0).drop cap
  let kept (cut : Nat) : List BBld × Nat := entryCap 256 4096 ((all cut).take cap)
  let (placed, sh) := fitCycle (fun l => placeC50 s c (start + size) l start 0 []) (fun cut => (kept cut).1) (budget [])
  let parts := placed.flatMap fun b => b.parts
  let gbs := placed.map fun b => ({
    cycle := m, tid := b.tid, start := b.start, len := c50Len s c b, cold := false, kind := 0,
    grants := b.parts.map fun a => (a.aid, a.got) } : GBurst)
  commitBuild (parts.foldl (fun s a => chargeAlloc s m a) (gainOnly s m 8 (chanAllocs s c))) c m [] gbs
    { bursts := placed, deferred := late.map (·.tid), deferN := late.length, capped := (kept 0).2, short := sh }

/-- The build of cycle m from a TEMPLATE record (R193). -/
def buildTemplate (s : State) (c m i : Nat) : State :=
  let es := geRecEntries s c i
  let (pins, bad) := tmplPins s c m es
  let held := heldSpans s c m ++ (es.filter fun e => enKind e == 3).map fun e => ⟨enStart e, enLen e, false⟩
  let (placed, gone) := placePins s m held pins (openFrom s c m) []
  let s := geUsed s c m i (bad + gone)
  commitBursts s c m (buildSteps s c m held (booksAt s c m).length placed)

/-- The build of cycle m from a RAW record (R194, R195). -/
def buildRaw (s : State) (c m i : Nat) : State :=
  let (kept, gone) := rawKeep s c m (heldSpans s c m) (rawSplit (geRecEntries s c i)) (openFrom s c m) []
  let s := geUsed s c m i gone
  let ents := kept.map (rawEntries s c)
  let spans := ents.filterMap fun g => g.head?.map fun e => ⟨e.start, g.foldl (fun n x => n + x.len) 0, true⟩
  let s := rawMsgs s c m spans (ents.filterMap fun g => g.head?.map (·.tid))
  let grants := kept.map (rawGrants s c)
  let flat := grants.flatten
  let charged := gainOnly s m 1 (chanAllocs s c)
  let pays := (flat.map (·.1)).dedup.map fun aid =>
    let d := allocDyn charged aid
    { abldInit charged m 1 aid with
      acr := d.acr, mcr := d.mcr, asd := (flat.filter fun p => p.1 == aid).foldl (fun n p => n + p.2) 0 }
  let gbs := (ents.zip grants).filterMap fun p => p.1.head?.map fun e =>
    ({ cycle := m, tid := e.tid, start := e.start, len := p.1.foldl (fun n x => n + x.len) 0, cold := e.btype == 2,
       kind := 0, grants := p.2 } : GBurst)
  let bookEs := (booksSent s c m).map (bookEntry s c)
  commitCharged s c m pays (bookEs ++ ents.flatten) (bookEs.map (fun e => gburstBook e m) ++ gbs) {}

/-- The build of the next cycle on a channel (R177, R190 to R195). -/
def grantBuild (s : State) (c : Nat) : State :=
  let m := cycleNow s + 1
  let st := chnEff s c
  if mget 0 s.grant.built c = m + 1 ∨ chanValid s c = false ∨ ¬ (st = chRun ∨ st = chEclipseEntering) ∨ islDown s c = true then s
  else if isC50 s c then (if m % 8 = 0 then buildC50 s c m else s)
  else if inQuiet s c m then commitCharged (geTake c m 16 s).1 c m [] [] [] {}
  else
    let (s, slot) := geTake c m 16 (engineBooks s c m)
    let full (s : State) : State := commitBursts s c m (buildSteps s c m (heldSpans s c m) (booksAt s c m).length [])
    match slot with
    | none =>
      if geMode s c = 2 then
        let s := geEvent s c 4
        if rb s (Adr.chnGeCfg c) 29 then full s else commitBursts (rawMsgs s c m [] []) c m {}
      else full s
    | some i => if geMode s c = 1 then buildTemplate s c m i else buildRaw s c m i

/-- Records still in the ring at a return to basic control are ABANDONED and consumed, and MODE is BASIC (R190). -/
def geAbandon (s : State) (c : Nat) : State :=
  let s := wf s (Adr.chnGeCfg c) 31 30 0
  (geRingSlots s c).foldl (fun s i => geRecDone s c i 8 0) s

/-- GRANT_BUILD (R177). -/
def execGrantBuild (c : Nat) (s : State) : Host.Outcome State Fault Refusal := .next (dataUp s fun s => grantBuild s c)

end Sys2Proof.Machine
end

