-- ==== Sys2Proof/Machine/Moves.lean ====
section
/-! DEFINITION. Terminal transitions (R154, R240) with what each entry into a state does, and the course and the ends of a
Transit (R229 to R242). -/
namespace Sys2Proof.Machine

/-! ## Transitions of a terminal (R154) -/

/-- Drops what firmware was doing for a terminal: its registration step and its rotations, whose records end. -/
def termStop (s : State) (tid : Nat) : State :=
  let s := { s with reg := { s.reg with steps := mdel s.reg.steps tid } }
  rotFail (rotFail s tid 0) tid 1

/-- Erases a terminal's keys on every channel of its tree (R269). -/
def termKeysErase (s : State) (tid det : Nat) : State :=
  (List.range 4).foldl (fun s w => keyEraseTerm s (chanOf (treeOfTid tid) w) tid det) s

/-- Forgets the burst history of a terminal. -/
def termFresh (s : State) (tid : Nat) : State :=
  { s with reg := { s.reg with ofs := mdel s.reg.ofs tid, misses := mset 0 s.reg.misses tid 0 } }

/-- What entering a state does: queues are flushed in FREE, AUTH_WAIT, DISABLED and OFFLINE (R202), keys are erased in
FREE, DISABLED and OFFLINE (R269), a freed TID has no upstream alive record (R150), DYING_GASP is 0 in LOST until a last gasp sets it, RANGING takes the default template (R209), and a tunable terminal that enters ACTIVE is
asked for its capabilities (R233), and at the basic level of function 4 every terminal for its response time (R371). -/
def termEnter (s : State) (tid st : Nat) : State :=
  let s := termFresh s tid
  let s := if termDown st then termFlush s tid else s
  if st = tsFree ∨ st = tsDisabled ∨ st = tsOffline then
    let s := tcmForget (termKeysErase (termStop s tid) tid kdTerminal) tid
    if st = tsFree then { s with
      keys := { s.keys with kek := mset [] s.keys.kek tid [] }
      tcm := { s.tcm with aliveUp := mdel s.tcm.aliveUp tid } } else s
  else if st = tsRanging then tmplOnRanging s tid
  else if st = tsActive then
    let c := termChan s tid
    let s := if isN200 s c && termCaps s tid % 2 == 1 then tcmSend s c (msgTo tid mtTuneCapsReq false []) else s
    if isN200 s c && basic s 4 (treeOfTid tid) then tcmSend s c (msgTo tid mtTimeInfoReq false []) else s
  else if st = tsLost then
    let s := setInfo s tid 24 24 0
    { s with reg := { s.reg with steps := mdel s.reg.steps tid } }
  else s

/-- A transition made by a write or by firmware: EPOCH advances, a notification is posted (R25, R154). -/
def termMgmt (s : State) (tid st det : Nat) : State :=
  termNotify (termEnter (unitAccept s (termAddr tid) st det) tid st) tid
/-- A transition made by the data path or by the device's timers (R26, R154). -/
def termData (s : State) (tid st det : Nat) : State :=
  termNotify (termEnter (dpChange s (termAddr tid) st det) tid st) tid

/-- DISABLE or ENABLE by serial (R149). -/
def msgDisable (s : State) (tid typ : Nat) : QMsg :=
  msgBySerial tid typ false ([1, 0] ++ bytesBE 8 (termSerial s tid))

/-! ## Transit: state (R239) -/

def trAddr (tid : Nat) : Nat := Adr.treTransitStat (treeOfTid tid) (slotOfTid tid)
def trPhase (s : State) (tid : Nat) : Nat := rf s (trAddr tid) 31 28
def trSrc (s : State) (tid : Nat) : Nat := chanOf (treeOfTid tid) (rf s (trAddr tid) 27 26)
def trDest (s : State) (tid : Nat) : Nat := chanOf (treeOfTid tid) (rf s (trAddr tid) 25 24)
def trRec (s : State) (tid : Nat) : Option TransitRec := (s.transits.find? (·.1 = tid)).map (·.2)
def setTrRec (s : State) (tid : Nat) (r : TransitRec) : State := { s with transits := mput s.transits tid r }
/-- PHASE codes. -/
def phTuning : Nat := 1
def phArmed : Nat := 2
def phSwitched : Nat := 3
def phLanding : Nat := 4
/-- RESULT codes of TRE_TRANSIT_STAT. -/
def rsDone : Nat := 1
def rsCancelled : Nat := 2
def rsNoAck : Nat := 3
def rsDestLost : Nat := 4
def rsSrcLost : Nat := 5
def rsNotLanded : Nat := 6
def rsLastGasp : Nat := 7
def rsDisabled : Nat := 8
def rsDestEclipse : Nat := 9
def rsRogue : Nat := 10
def rsReset : Nat := 11
def rsTermRefused : Nat := 12

/-- Puts PHASE, which DETAIL of the terminal follows without an epoch (R239). -/
def setPhase (s : State) (tid ph : Nat) : State := wf (wf s (trAddr tid) 31 28 ph) (termAddr tid) 15 8 ph

/-- The terminals of a tree in Transit. -/
def trTids (s : State) (t : Nat) : List Nat :=
  (s.transits.filter fun p => treeOfTid p.1 == t && !p.2.recover).map (·.1)
/-- Shows INFLIGHT of a tree. -/
def showInflight (s : State) (t : Nat) : State := wf s (Adr.treFoldStat t) 23 16 (trTids s t).length
/-- MAX_INFLIGHT, cut to its limits. -/
def maxInflight (s : State) (t : Nat) : Nat := clamp 1 8 (rf s (Adr.treTransitCfg t) 31 28)

/-- Whether a rogue localization runs on a channel (R159). -/
def locating (s : State) (c : Nat) : Bool :=
  match (mget {} s.rogue (c / 4)).phase with
  | .idle => false
  | .persist _ => false
  | .watch _ _ => false
  | _ => rf s (Adr.treRogueStat (c / 4)) 27 26 == c % 4

/-! ## Transit: request (R229 to R231) -/

/-- The time from L, ofs ns after the start of cycle n, up to the start of a cycle x, in ns; 0 when it has passed. -/
def leadNs (n ofs x : Nat) : Nat := (x - n) * 15625 - ofs
/-- The earliest switch cycle: D_X at least 10 ms after L (R230). -/
def firstSwitch (n ofs : Nat) : Nat := n + ceilDiv (10000000 + ofs) 15625
/-- N: the cycles from X to the landing cycle Y (R230). -/
def retuneCycles (us : Nat) : Nat := ceilDiv (us * 64) 1000 + 1

/-- Whether an enabled constant-rate entry of a channel names a terminal (R229). -/
def crsNames (s : State) (c tid : Nat) : Bool := (crsQueues s c).any fun q => qTid (dsQueue s q) == tid

/-- Whether the assured sum of a channel admits a terminal (R169). -/
def admits (s : State) (c tid : Nat) : Bool :=
  let mine := (allocsOf s tid).foldl (fun n a => n + allocUnits (geAlloc s a)) 0
  decide (assuredSum s c + mine ≤ assuredCap s c)

/-- The checks of a Transit request after the owner and the epoch, in the order of R229. -/
def trCheck (s : State) (tid w x ofs : Nat) : Option Status :=
  let t := treeOfTid tid
  let src := termChan s tid
  let dest := chanOf t w
  let n := cycleNow s
  if slotLimit s t ≤ slotOfTid tid ∨ w = termW s tid ∨ isN200 s src = false ∨ isN200 s dest = false ∨ n + 65536 < x
  then some .outOfRange
  else if termEff s tid ≠ tsActive then some .notActive
  else if termCaps s tid % 2 = 0 ∨ rf s (trAddr tid) 13 0 = 0 ∨ (rf s (trAddr tid) 17 14).testBit w = false
  then some .notTunable
  else if chnEff s dest ≠ chRun ∨ ¬ (chnEff s src = chRun ∨ chnEff s src = chEclipseEntering) then some .chanNotRun
  else if maxInflight s t ≤ (trTids s t).length ∨ locating s src = true ∨ locating s dest = true ∨ applyHolds s t = true
    ∨ tcmDepth ≤ (tcmQueue s src).length then some .busy
  else if admits s dest tid = false then some .overAssured
  else if x < firstSwitch n ofs then some .leadShort
  else if crsNames s src tid then some .crsBound
  else none

/-- Accepts a Transit of a terminal to wavelength w at cycle x (R231): STATE is TRANSIT, PHASE is TUNING, TUNE is queued. -/
def trAccept (s : State) (tid w x : Nat) (tk : Ticket) : State :=
  let y := x + retuneCycles (rf s (trAddr tid) 13 0)
  let src := termW s tid
  let a := trAddr tid
  let s := wf (wf (wf (wf s a 27 26 src) a 25 24 w) a 23 22 0) a 21 18 0
  let s := setTrRec s tid { x := x, y := y, ticket := tk }
  let s := setPhase (termMgmt s tid tsTransit phTuning) tid phTuning
  let s := showInflight s (treeOfTid tid)
  tcmSend s (termChan s tid) (msgTo tid mtTune true (bytesBE 1 w ++ [0] ++ bytesBE 6 x ++ bytesBE 6 y))

/-- A Transit request without its owner and epoch checks: refused, or accepted with its switch cycle. -/
def trRequest (s : State) (tid w x0 ofs : Nat) (tk : Ticket) : State × Nat × Option Status :=
  let x := if x0 = 0 then firstSwitch (cycleNow s) ofs else x0
  match trCheck s tid w x ofs with
  | some st => (s, 0, some st)
  | none => (trAccept s tid w x tk, x, none)

/-! ## Folding (R246): moving terminals to the anchor -/

def foldState (s : State) (t : Nat) : Nat := rf s (Adr.treFoldStat t) 31 28
/-- Puts STATE of TRE_FOLD_STAT; in IDLE no anchor is kept. -/
def setFold (s : State) (t st : Nat) : State :=
  let s := if st = 0 then { s with reg := { s.reg with anchor := mdel s.reg.anchor t } } else s
  wf s (Adr.treFoldStat t) 31 28 st
def trEvent (s : State) (t bit c : Nat) : State :=
  evBit s (Adr.treTransitEvent t) bit c .corrected (0x0450 + bit)

/-- The wavelengths of a tree that satisfy a test, lowest first. -/
def wavesWhere (f : Nat → Bool) : List Nat := (List.range 4).filter f
/-- N200 wavelengths of a tree. -/
def n200Waves (s : State) (t : Nat) : List Nat := wavesWhere fun w => isN200 s (chanOf t w)
/-- The anchor of a tree: the lowest N200 wavelength that is not in FOLD_MASK, or when there is none the lowest in RUN; for the whole
of a fold the one it started with (R246). -/
def foldAnchor (s : State) (t : Nat) : Option Nat :=
  let mask := trecFold (trec s t)
  match s.reg.anchor.find? (·.1 = t) with
  | some (_, w) => some w
  | none =>
    match (n200Waves s t).find? fun w => !nbit mask w with
    | some w => some w
    | none => (n200Waves s t).find? fun w => chnEff s (chanOf t w) == chRun
/-- The wavelengths to be folded: those of FOLD_MASK but the anchor. -/
def foldWaves (s : State) (t : Nat) : List Nat :=
  (n200Waves s t).filter fun w => nbit (trecFold (trec s t)) w && foldAnchor s t != some w

/-- The channel is empty (R243). -/
def chanEmpty (s : State) (c : Nat) : Bool :=
  let t := c / 4
  let works (st : Nat) : Bool := decide (tsAuthWait ≤ st ∧ st ≤ tsLost) || st == tsTransit
  !((usedTids s t).any fun tid => termW s tid == c % 4 && works (termEff s tid))
    && !((trTids s t).any fun tid => trSrc s tid == c || trDest s tid == c)
    && !((List.range 64).any fun i => nbit (rdW s (Adr.chnCrs c i) 2) 63)

/-- Whether another N200 channel of the tree is in RUN (R243). -/
def otherRuns (s : State) (c : Nat) : Bool :=
  (n200Waves s (c / 4)).any fun w => w != c % 4 && chnEff s (chanOf (c / 4) w) == chRun

/-- One fold step of firmware: further Transits to the anchor, up to MAX_INFLIGHT; channels that are emptied are written
ECLIPSE_ENTERING; with all of them in ECLIPSE the tree is FOLDED. A refused Transit makes the fold PARTIAL (R246). -/
def foldGo (s : State) (t : Nat) : State :=
  if foldState s t ≠ 1 then s
  else match foldAnchor s t with
  | none => s
  | some aw =>
    let ws := foldWaves s t
    let move := (usedTids s t).filter fun tid => decide (termW s tid ∈ ws) && termEff s tid == tsActive
    let step (p : State × Bool) (tid : Nat) : State × Bool :=
      if p.2 || decide (maxInflight p.1 t ≤ (trTids p.1 t).length) then p
      else
        let r := trRequest p.1 tid aw 0 1 .none
        (r.1, r.2.2.isSome)
    let (s, bad) := move.foldl step (s, false)
    if bad then trEvent (setFold s t 4) t 3 (chanOf t aw)
    else
      let s := ws.foldl (fun s w =>
        let c := chanOf t w
        if chnEff s c = chRun ∧ chanEmpty s c = true ∧ otherRuns s c = true ∧ applyHolds s t = false then
          treeFollow (unitAccept s (Adr.chnState c) chEclipseEntering 0) t else s) s
      if ws.all fun w => chnEff s (chanOf t w) == chEclipse then trEvent (setFold s t 2) t 2 (chanOf t aw) else s

/-- Firmware moves the terminals of channels that enter Eclipse away by Transit, each to the lowest N200 channel in RUN that takes
it, at the basic level (R243). -/
def drainGo (s : State) (t : Nat) : State :=
  if basic s 5 t then
    let ws := (n200Waves s t).filter fun w => chnEff s (chanOf t w) == chRun
    let on (tid : Nat) : Bool := termEff s tid == tsActive && chnEff s (termChan s tid) == chEclipseEntering
    ((usedTids s t).filter on).foldl (fun s tid =>
      if maxInflight s t ≤ (trTids s t).length then s
      else match ws.find? fun w => (trCheck s tid w (firstSwitch (cycleNow s) 1) 1).isNone with
        | some w => (trRequest s tid w 0 1 .none).1
        | none => s) s
  else s

/-! ## Transit: ends (R241, R242) -/

/-- The record of a command whose Transit has ended with a RESULT in a PHASE (R242). -/
def trOutcome (s : State) (tid res ph : Nat) : OutRec :=
  let a := termAddr tid
  let r : OutRec := { detail := res, epoch := uEpoch s a, ustate := effState s a }
  if res = rsDone then { r with state := .done }
  else if termChan s tid = trDest s tid then { r with state := .partly, progress := ph }
  else { r with state := .notDone }

/-- The Transit is over: RESULT, PHASE IDLE, the bundle discarded, the event on the destination, the notification and the
command's record (R241, R242). The record kept, if any, is for a recovery on both channels. -/
def trClose (s : State) (tid res : Nat) (keep : Option TransitRec) : State :=
  match trRec s tid with
  | none => s
  | some r =>
    let t := treeOfTid tid
    let ph := trPhase s tid
    let s := wf (wf s (trAddr tid) 31 28 0) (trAddr tid) 21 18 res
    let s := { s with transits := mdel s.transits tid }
    let s := match keep with | some k => setTrRec s tid k | none => s
    let s := showInflight s t
    let s := if res = rsDone then satF s (Adr.treFoldStat t) 15 0 1 else s
    let s := trEvent s t (if res = rsDone then 0 else 1) (trDest s tid)
    let s := ntfPart s (termPart s tid) ntfTransitEnd
      (bytesLE 1 t ++ bytesLE 1 (termW s tid) ++ bytesLE 2 (slotOfTid tid) ++ bytesLE 1 res ++ bytesLE 1 ph)
    let s := ticketPut s r.ticket (trOutcome s tid res ph)
    if res = rsDone then drainGo (foldGo s t) t
    else if foldState s t = 1 ∧ r.ticket = .none then
      match foldAnchor s t with
      | some aw => if trDest s tid = chanOf t aw then trEvent (setFold s t 4) t 3 (chanOf t aw) else s
      | none => s
    else s

/-- TUNE_CANCEL to a terminal on a channel (R233). -/
def sendTuneCancel (s : State) (c tid x : Nat) : State :=
  tcmSend s c (msgTo tid mtTuneCancel true ([0, 0] ++ bytesBE 6 x))

/-- A Transit that ends before D_X with the terminal ACTIVE on the source, with TUNE_CANCEL when told to (R241). -/
def trBack (s : State) (tid res : Nat) (cancel : Bool) : State :=
  match trRec s tid with
  | none => s
  | some r =>
    let c := trSrc s tid
    let s := tcmForget s tid
    let s := if cancel then sendTuneCancel s c tid r.x else s
    trClose (termData s tid tsActive 0) tid res none

/-- A Transit that ends with the terminal LOST where W names it (R241). -/
def trLost (s : State) (tid det res : Nat) : State := trClose (termData s tid tsLost det) tid res none

/-- The copy of a terminal's slots that a channel holds now (R264). -/
def bundleOf (s : State) (c tid : Nat) : List KeyMove :=
  (List.range 4).map fun i => keyTake s c (4 * slotOfTid tid + i)

/-- The newest high-water mark of a slot of a terminal and its age in cycles (R264). -/
def markOf (s : State) (tid i : Nat) : Nat × Nat :=
  match s.keys.marks.find? (·.1 = tid * 4 + i) with
  | some (_, m, at_) => (m, cycleNow s - at_)
  | none => (0, 4)

/-- Installs slots of the bundle on a channel by the resume rule (R264). -/
def fromBundle (s : State) (c tid : Nat) (b : List KeyMove) (is : List Nat) : State :=
  is.foldl (fun s i =>
    match b[i]? with
    | some m =>
      if m.state = ksEmpty then s
      else
        let (mark, age) := markOf s tid i
        keyResume s c (4 * slotOfTid tid + i) m mark age
    | none => s) s

/-- Moves slots of a terminal from one channel to another: with exact counters while the source still holds them, else
from the bundle (R234, R241, R264). -/
def moveSlots (s : State) (src dest tid : Nat) (b : List KeyMove) (is : List Nat) : State :=
  is.foldl (fun s i =>
    let k := 4 * slotOfTid tid + i
    if keyEff s src k = ksEmpty then fromBundle s dest tid b [i]
    else
      let m := keyTake s src k
      let sh := match s.keys.shadow.find? (·.1 = keyKey src k) with
        | some (_, v) => mput (mdel s.keys.shadow (keyKey src k)) (keyKey dest k) v
        | none => s.keys.shadow
      let cx := s.keys.ctx.map fun x => if x.chan = src ∧ x.slot = k then { x with chan := dest } else x
      let s := { s with keys := { s.keys with ctx := cx, shadow := sh } }
      let s := keyPlace (keyErase s src k kdMoved) dest k m m.invoc false
      if s.keys.shadow.any fun p => p.1 == keyKey dest k then setKeyFld s dest k 38 38 1 else s) s

/-- The partial upstream frames of a terminal and its contexts are lost with an island, counted in FRAG_ERR on a channel (R241). -/
def partialsLost (s : State) (c tid : Nat) : State :=
  let gone := s.line.partials.filter fun p => p.1 / 32 == tid
  let s := ctxDrop s fun x => x.slot / 4 == slotOfTid tid && x.chan / 4 == treeOfTid tid
  pmAdd { s with line := { s.line with partials := s.line.partials.filter fun p => p.1 / 32 != tid } } c (slotOfTid tid) 13 gone.length

/-- The Transit of a lost terminal ends with NO_ACK and what is kept of it. -/
def trNoAckEnd (s : State) (tid : Nat) (keep : TransitRec) : State :=
  match trRec s tid with
  | some _ => trClose s tid rsNoAck (some keep)
  | none => setTrRec (wf s (trAddr tid) 21 18 rsNoAck) tid keep
/-- No ACK to TUNE or TUNE_CANCEL (R241): LOST with NO_ACK on the source; recovery grants go to both channels, and a copy
of the keys is held for the destination. -/
def trNoAck (s : State) (tid : Nat) : State :=
  trNoAckEnd (termData s tid tsLost 3) tid { x := 0, y := 0, bundle := bundleOf s (trSrc s tid) tid, recover := true }

/-- The destination of a Transit is lost or reset (R241). -/
def trDestLost (s : State) (tid : Nat) : State :=
  match trRec s tid with
  | none => s
  | some r =>
    if trPhase s tid < phSwitched then trBack s tid rsDestLost true
    else
      let src := trSrc s tid
      let s := if rb s (trAddr tid) 22 then partialsLost s (trDest s tid) tid else s
      let s := setInfo s tid 36 35 (src % 4)
      let s := wf s (trAddr tid) 23 22 0
      let s := sendKek s src tid
      let s := fromBundle s src tid r.bundle ((List.range 4).filter fun i => keyEff s src (4 * slotOfTid tid + i) == ksEmpty)
      trLost s tid 1 rsDestLost

/-- The source of a Transit is lost or reset (R241). -/
def trSrcLost (s : State) (tid : Nat) : State :=
  if trPhase s tid = phTuning then trLost s tid 1 rsSrcLost else s

/-- A channel is lost, or reset: its Transits end or go on by R241. -/
def trChanLost (s : State) (c : Nat) : State :=
  (trTids s (c / 4)).foldl (fun s tid =>
    if trDest s tid = c then trDestLost s tid else if trSrc s tid = c then trSrcLost s tid else s) s

/-- Transits to or from a channel that are still before D_X end (R241). -/
def trEndBefore (s : State) (t res : Nat) (p : State → Nat → Bool) : State :=
  (trTids s t).foldl (fun s tid => if p s tid && decide (trPhase s tid < phSwitched) then trBack s tid res true else s) s

/-- A last-gasp burst of a terminal in Transit (R241). -/
def trLastGasp (s : State) (tid : Nat) : State := trLost s tid 2 rsLastGasp

/-- A TREE, WARM or COLD reset ends the Transits of a tree with RESET; the terminals re-register (R241, R82). -/
def trReset (s : State) (t : Nat) : State := (trTids s t).foldl (fun s tid => trClose s tid rsReset none) s

/-- The end of a Transit of a terminal that is being DISABLED; DISABLE goes to the channel it is on (R241). -/
def trDisabled (s : State) (tid : Nat) : State := trClose s tid rsDisabled none

/-- The first burst decoded on the destination ends the Transit (R234 step 8). -/
def trLanded (s : State) (tid : Nat) : State := trClose (termData s tid tsActive 0) tid rsDone none

end Sys2Proof.Machine
end

