-- ==== Sys2Proof/Machine/Transit.lean ====
section
/-! DEFINITION. Transit requests and the switch (R228 to R242), Eclipse (R243 to R245), folding and balancing (R246 to
R248). -/
namespace Sys2Proof.Machine

/-! ## Requests (R228, R229) -/

/-- STATUS codes of TRE_TRANSIT_RESULT. -/
def trCode : Status → Nat
  | .ok => 0 | .stale => 1 | .notOwner => 2 | .outOfRange => 3 | .notActive => 4 | .notTunable => 5 | .chanNotRun => 6
  | .overAssured => 8 | .leadShort => 9 | .crsBound => 10 | _ => 7

/-- Puts the requester's TRE_TRANSIT_RESULT. -/
def trResult (s : State) (who : Requester) (t tid : Nat) (st : Status) (x : Nat) : State :=
  let v := trCode st * 2 ^ 60 + uEpoch s (termAddr tid) * 2 ^ 48 + x % 2 ^ 48
  let a := Adr.treTransitResult t
  wrReq (wrReq s who a (BitVec.ofNat 32 v)) who (a + 4) (BitVec.ofNat 32 (v / 2 ^ 32))

/-- CANCEL of a terminal's Transit, after the owner and epoch checks (R241). -/
def trCancel (s : State) (tid ofs : Nat) : Option Status × State :=
  match trRec s tid with
  | none => (some .outOfRange, s)
  | some r =>
    if r.recover then (some .outOfRange, s)
    else if phSwitched ≤ trPhase s tid ∨ leadNs (cycleNow s) ofs r.x < 3000000 then (some .leadShort, s)
    else (none, trBack s tid rsCancelled true)

/-- A committed write of TRE_TRANSIT_REQ (R229): the register's 128 bits, landing ofs ns after the cycle start. -/
def trReqWrite (s : State) (who : Requester) (t v ofs : Nat) : State :=
  let a := Adr.treTransitReq t
  let tid := tidOf t (nfld v 67 59)
  let op := nfld v 71 70
  let fail (s : State) (st : Status) : State := trResult s who t tid st 0
  if islDown s (islandOf a) then wrDown s who a
  else if isOwner s who (islandOf a) 5 t = false then wrNotOwner (fail s .notOwner) who a 5 t
  else if nfld v 79 72 ≠ uEpoch s (termAddr tid) then
    let s := noteWrite (fail s .stale) who a .stale (uEpoch s (termAddr tid)) (uState s (termAddr tid))
    raise (cnt32 s Adr.glbStaleCnt 1) (islandOf a) .corrected 0x0001
  else if op = 0 then
    match trRequest s tid (nfld v 69 68) (nfld v 127 80) ofs .none with
    | (s, x, none) => wrOk (trResult s who t tid .ok x) who a
    | (s, _, some st) => wrRefuse (fail s st) who a st.toWr
  else if op = 1 then
    match trCancel s tid ofs with
    | (none, s) => wrOk (trResult s who t tid .ok 0) who a
    | (some st, s) => wrRefuse (fail s st) who a st.toWr
  else wrRefuse (fail s .outOfRange) who a .outOfRange

/-- TERM_TRANSIT (R228): firmware makes the request at the basic level of function 5. -/
def cmdTermTransit (s : State) (c : CmdCtx) (tid w x ofs : Nat) : State :=
  let a := termAddr tid
  let rec_ (s : State) (st : Status) : OutRec := { refusal st with epoch := uEpoch s a, ustate := effState s a }
  if !cmdTidOk s c.fn tid then cmdPut s c (refusal .outOfRange)
  else if !basic s 5 (treeOfTid tid) then cmdPut s c (rec_ s .notOwner)
  else if c.expect ≠ uEpoch s a then cmdPut (cmdStale s a) c (rec_ s .stale)
  else if tcmDepth ≤ (tcmQueue s (termChan s tid)).length then cmdPut s c (rec_ s .queueFull)
  else
    match trRequest s tid w x ofs (.cmd c) with
    | (s, _, none) => cmdPut s c {}
    | (s, _, some st) => cmdPut s c (rec_ s st)

/-! ## The switch (R234) -/

/-- A TUNE has been acknowledged: ARMED, and the bundle is taken (R234 step 1). -/
def trArm (s : State) (tid : Nat) : State :=
  match trRec s tid with
  | some r =>
    if trPhase s tid = phTuning then
      setPhase (setTrRec s tid { r with bundle := bundleOf s (trSrc s tid) tid }) tid phArmed else s
  | none => s

/-- The switch instant D_X (R234 step 3, R237): W is the destination, its TLR is invalidated, its KEK is sent, messages
move to the destination's queue with an unacknowledged one as a resend, and the terminal's PM bins are SUSPECT. -/
def trSwitch (s : State) (tid : Nat) : State :=
  match trRec s tid with
  | none => s
  | some r =>
    if trPhase s tid ≠ phArmed ∨ cycleNow s < r.x then s
    else
      let src := trSrc s tid
      let dest := trDest s tid
      let k := slotOfTid tid
      let s := setPhase (setInfo s tid 36 35 (dest % 4)) tid phSwitched
      let s := sendKek (tlrInvalidate s dest k) dest tid
      let mine := (tcmQueue s src).filter fun m => m.peer == some tid
      let s := setTcmQueue s src ((tcmQueue s src).filter fun m => m.peer != some tid)
      let s := setTcmQueue s dest (tcmQueue s dest ++ mine)
      let s := match tcmWaitOf s tid with
        | some w => tcmResend s tid { w with chan := dest }
        | none => s
      pmSuspectMark (pmSuspectMark (termFresh s tid) src (k + 1)) dest (k + 1)

/-- The downstream key slots move to the destination (R234 step 4). -/
def trDsMove (s : State) (tid : Nat) : State :=
  match trRec s tid with
  | none => s
  | some r =>
    if trPhase s tid < phSwitched ∨ rb s (trAddr tid) 23 then s
    else wb (moveSlots s (trSrc s tid) (trDest s tid) tid r.bundle [0, 1]) (trAddr tid) 23 true

/-- The upstream key slots and contexts move, the source slots are erased, the source TLR is invalidated, and PHASE is
LANDING (R234 step 7). Where the source no longer holds them, partial frames are discarded (R241). -/
def trUsKeys (s : State) (tid : Nat) : State :=
  match trRec s tid with
  | none => s
  | some r =>
    let src := trSrc s tid
    let k := slotOfTid tid
    let lost := [2, 3].all fun i => keyEff s src (4 * k + i) == ksEmpty
    let s := moveSlots s src (trDest s tid) tid r.bundle [2, 3]
    let s := keyEraseTerm s src tid kdMoved
    let s := if lost then partialsLost s (trDest s tid) tid else s
    setPhase (wb (tlrInvalidate s src k) (trAddr tid) 22 true) tid phLanding

/-! ## Eclipse (R243 to R245) -/

/-- Shows ECLIPSED of a tree. -/
def showEclipsed (s : State) (t : Nat) : State :=
  wf s (Adr.treFoldStat t) 27 24 (waveMask fun w => chnEff s (chanOf t w) == chEclipse)

/-- ECLIPSE_ENTERING is taken by a channel: Transits to it that are before D_X end (R241, R243). -/
def eclipseEntering (s : State) (c : Nat) : State :=
  let s := treeFollow (unitAccept s (Adr.chnState c) chEclipseEntering 0) (c / 4)
  drainGo (trEndBefore s (c / 4) rsDestEclipse fun s tid => trDest s tid == c) (c / 4)

/-- The value checks of ECLIPSE_ENTERING and WAKING (R68, R118, R243, R245). -/
def eclipseAct (c v : Nat) (s : State) : Except WrStatus State :=
  if !isN200 s c then .error .outOfRange
  else if v = chEclipseEntering then
    if chnEff s c ≠ chRun then .error .outOfRange
    else if applyHolds s (c / 4) then .error .busy
    else if otherRuns s c then .ok (eclipseEntering s c) else .error .outOfRange
  else if v = chWaking then
    if chnEff s c ≠ chEclipse then .error .outOfRange
    else if applyHolds s (c / 4) then .error .busy
    else
      let s := setIsl (unitAccept s (Adr.chnState c) chWaking 0) c islRun
      .ok (showEclipsed (treeFollow s (c / 4)) (c / 4))
  else .error .outOfRange

/-- A write of ECLIPSE_ENTERING or WAKING to CHN_STATE by the owner of function 5 (R118). -/
def eclipseWrite (s : State) (who : Requester) (c expect v : Nat) : State :=
  unitWriteR s who (Adr.chnState c) 5 (c / 4) expect (eclipseAct c v)

/-- An empty channel stops: ECLIPSE, its island GATED, TLRs cleared, PM bins SUSPECT (R243, R244). -/
def eclipseEnter (s : State) (c : Nat) : State :=
  if chnEff s c = chEclipseEntering ∧ chanEmpty s c = true then
    let s := setIsl (chnChange s c chEclipse 0) c islGated
    let s := pmSuspectMark (keyEraseChan (clearTlrs s c) c kdTerminal) c 0
    let s := satF s (Adr.chnEclStat c) 31 16 1
    foldGo (showEclipsed s (c / 4)) (c / 4)
  else s

/-- A channel not empty within ECL_TIMEOUT returns to RUN (R243). -/
def eclTimeout (s : State) (c : Nat) : State :=
  if chnEff s c = chEclipseEntering ∧ chanEmpty s c = false then
    let s := wf (chnChange s c chRun 0) (Adr.chnEclStat c) 3 0 1
    trEvent s (c / 4) 5 c
  else s

/-- A waking channel reaches RUN ms after its wake; the last of an unfold ends it (R245, R247). -/
def wakeComplete (s : State) (c ms : Nat) : State :=
  if chnEff s c = chWaking then
    let t := c / 4
    let s := wf (chnChange s c chRun 0) (Adr.chnEclStat c) 15 8 (min ms 255)
    let s := wf s (Adr.chnComaStat c) 31 28 (min 12 (rf s (Adr.treDiscCfg t) 19 16))
    if foldState s t = 3 ∧ ((foldWaves s t).all fun w => chnEff s (chanOf t w) == chRun) = true then
      match foldAnchor s t with
      | some aw => trEvent (setFold s t 0) t 4 (chanOf t aw)
      | none => setFold s t 0
    else s
  else s

/-! ## Folding and balancing (R246, R247) -/

/-- The minute of day of time base 0. -/
def minuteOfDay (s : State) : Nat := baseNs s 0 / 1000000000 % 86400 / 60
/-- Whether a minute lies in the window from a start up to an end, with wrap at midnight. -/
def inWindow (m a b : Nat) : Bool := if a ≤ b then decide (a ≤ m ∧ m < b) else decide (a ≤ m ∨ m < b)

/-- Whether every terminal that the folded channels serve may move to the anchor, and all of them fit its CAP (R246 step 2). -/
def foldFits (s : State) (t aw : Nat) : Bool :=
  let served (st : Nat) : Bool := decide (tsAuthWait ≤ st ∧ st ≤ tsLost) || st == tsTransit
  let tids := (usedTids s t).filter fun tid => decide (termW s tid ∈ foldWaves s t) && served (termEff s tid)
  let x := firstSwitch (cycleNow s) 1
  let sum := tids.foldl (fun n tid => n + (allocsOf s tid).foldl (fun n a => n + allocUnits (geAlloc s a)) 0) 0
  let ok (r : Option Status) : Bool := match r with | none => true | some .busy => true | _ => false
  (tids.all fun tid => ok (trCheck s tid aw x 1) && !crsNames s (termChan s tid) tid)
    && decide (assuredSum s (chanOf t aw) + sum ≤ assuredCap s (chanOf t aw))

/-- Unfolding begins: each eclipsed channel of FOLD_MASK is woken (R247). -/
def unfold (s : State) (t aw : Nat) : State :=
  let cs := ((foldWaves s t).map (chanOf t)).filter fun c => chnEff s c == chEclipse
  if cs.isEmpty then trEvent (setFold s t 0) t 4 (chanOf t aw)
  else cs.foldl (fun s c => match eclipseAct c chWaking s with | .ok s => s | .error _ => s) (setFold s t 3)

/-- The minute of firmware's fold policy of a tree (R246, R247), with the load of the tree over 5 minutes and the 1-minute
load of the anchor, in percent of one channel's capacity. -/
def foldMinute (s : State) (t load anchorLoad : Nat) : State :=
  let cfg := rdW s (Adr.treFoldCfg t) 2
  if basic s 5 t = false ∨ baseState s 0 = 0 then s
  else match foldAnchor s t with
  | none => s
  | some aw =>
    let inW := inWindow (minuteOfDay s) (nfld cfg 61 51) (nfld cfg 50 40)
    let st := foldState s t
    if (st = 1 ∨ st = 2 ∨ st = 4) ∧ inW = false ∨ (st = 2 ∨ st = 4) ∧ nfld cfg 32 26 < anchorLoad then unfold s t aw
    else if nbit cfg 63 && inW && (st == 0 || st == 4) && decide (load ≤ nfld cfg 39 33) && foldFits s t aw
        && !(foldWaves s t).isEmpty then
      let s := { s with reg := { s.reg with anchor := mput s.reg.anchor t aw } }
      let s := wf (setFold s t 1) (Adr.treFoldStat t) 15 0 0
      foldGo s t
    else s

/-- The distance of two numbers. -/
def dist (a b : Nat) : Nat := if a ≤ b then b - a else a - b

/-- The second of firmware's balancing of a tree (R247): the 1-minute loads of its wavelengths and of its terminals, in
percent. The terminal whose load is nearest half the difference moves from the busiest channel to the least busy. -/
def balanceCheck (s : State) (t : Nat) (loads terms : List (Nat × Nat)) : State :=
  let cfg := rdW s (Adr.treFoldCfg t) 2
  let ls := loads.filter fun p => decide (p.1 < 4) && chnEff s (chanOf t p.1) == chRun && isN200 s (chanOf t p.1)
  if basic s 5 t = false ∨ nbit cfg 62 = false ∨ foldState s t = 1 ∨ foldState s t = 3 then s
  else match ls with
  | [] => s
  | l :: _ =>
    let hi := ls.foldl (fun b p => if b.2 < p.2 then p else b) l
    let lo := ls.foldl (fun b p => if p.2 < b.2 then p else b) l
    if hi.2 - lo.2 ≤ nfld cfg 25 19 then s
    else
      let half := (hi.2 - lo.2) / 2
      match terms.filter fun p => termW s p.1 == hi.1 && treeOfTid p.1 == t && termEff s p.1 == tsActive with
      | [] => s
      | m :: ms =>
        let best := ms.foldl (fun b p => if dist p.2 half < dist b.2 half then p else b) m
        (trRequest s best.1 lo.1 0 1 .none).1

/-! ## Commands -/

/-- TRANSIT_REQ_START (R229): the tree, the 128 bits of TRE_TRANSIT_REQ with OP START, and the ns after the cycle start
at which it lands. -/
def execTransitReqStart (who : Requester) (t value ofs : Nat) (s : State) : Host.Outcome State Fault Refusal :=
  .next (if nfld value 71 70 = 1 then s else trReqWrite s who t value ofs)
/-- TRANSIT_REQ_CANCEL (R241): as for START, with OP CANCEL. -/
def execTransitReqCancel (who : Requester) (t value ofs : Nat) (s : State) : Host.Outcome State Fault Refusal :=
  .next (if nfld value 71 70 = 1 then trReqWrite s who t value ofs else s)
/-- TRANSIT_SWITCH (R234): a terminal's switch instant. -/
def execTransitSwitch (tid : Nat) (s : State) : Host.Outcome State Fault Refusal := .next (trSwitch s tid)
/-- TRANSIT_DS_KEYS_MOVED (R234). -/
def execTransitDsKeysMoved (tid : Nat) (s : State) : Host.Outcome State Fault Refusal := .next (trDsMove s tid)
/-- ECLIPSE_ENTER (R243). -/
def execEclipseEnter (c : Nat) (s : State) : Host.Outcome State Fault Refusal := .next (eclipseEnter s c)
/-- ECL_TIMEOUT (R243). -/
def execEclTimeout (c : Nat) (s : State) : Host.Outcome State Fault Refusal := .next (eclTimeout s c)
/-- WAKE_COMPLETE (R245): ms after the wake. -/
def execWakeComplete (c ms : Nat) (s : State) : Host.Outcome State Fault Refusal := .next (wakeComplete s c ms)
/-- CHN_STATE_ECLIPSE_ENTERING (R243): requester, channel, EXPECT. -/
def execChnStateEclipseEntering (who : Requester) (c expect : Nat) (s : State) : Host.Outcome State Fault Refusal :=
  .next (eclipseWrite s who c expect chEclipseEntering)
/-- CHN_STATE_WAKING (R245): requester, channel, EXPECT. -/
def execChnStateWaking (who : Requester) (c expect : Nat) (s : State) : Host.Outcome State Fault Refusal :=
  .next (eclipseWrite s who c expect chWaking)
/-- FOLD_MINUTE (R246): the tree, its load and the anchor's load in percent. -/
def execFoldMinute (t load anchorLoad : Nat) (s : State) : Host.Outcome State Fault Refusal :=
  .next (foldMinute s t load anchorLoad)
/-- BALANCE_CHECK (R247): the tree, loads by wavelength and loads by TID, in percent. -/
def execBalanceCheck (t : Nat) (loads terms : List (Nat × Nat)) (s : State) : Host.Outcome State Fault Refusal :=
  .next (balanceCheck s t loads terms)
/-- TERM_TRANSIT (R228): ring, TID, destination wavelength, switch cycle, ns after the cycle start. -/
def execTermTransit (r tid w x ofs : Nat) (s : State) : Host.Outcome State Fault Refusal :=
  .next (runCmd s r 0x1002 fun s c => cmdTermTransit s c tid w x ofs)

end Sys2Proof.Machine
end

