-- ==== Sys2Proof/Machine/Register.lean ====
section
/-! DEFINITION. Registration (R140 to R143), its timers, the host's and firmware's writes of terminal states (R154), identity
words (R164) and time transfer to terminals (R370, R371). -/
namespace Sys2Proof.Machine

/-! ## Messages of the sequences -/

/-- DISABLE or ENABLE of a terminal by serial: a terminal control message, or on a C50 channel the PLOAM message
Disable_Serial_Number (R126, R149, R163). -/
def sendDisable (s : State) (tid typ : Nat) : State :=
  let c := termChan s tid
  if isC50 s c then emit s (.ploam c tid 4 (b2n (typ = mtDisable))) else tcmSend s c (msgDisable s tid typ)

/-- ASSIGN_TID to a serial: a TID, or HOLD (R140, R143). -/
def sendAssign (s : State) (tid val : Nat) (ack : Bool) : State :=
  let body := bytesBE 8 (termSerial s tid) ++ bytesBE 2 val ++ bytesBE 4 (mget 0 s.reg.nonce tid)
  tcmSend s (termChan s tid) (msgBySerial tid mtAssignTid ack body)

/-- DS_DELAY of a terminal in units of 2^-16 ns, for a response time in ps (R370). -/
def dsDelay (s : State) (tid tresp : Nat) : Nat :=
  let c := termChan s tid
  let cfg := rdW s (Adr.chnTimeCfg c) 4
  let k : Int := nfld cfg 127 96
  let tx : Int := nfld cfg 95 80
  let rx : Int := nfld cfg 79 64
  let sym : Int := (eqrtSymbols s (treeOfTid tid) : Nat) - (termEqd s tid : Nat)
  let rt : Int := sym * 100 * 1000 * 65536 - (tresp + tx + rx) * 65536 * 11264
  let n : Int := tx * 65536 * 11264 * 2 ^ 32 + rt * k
  unsigned 64 (n / (11264 * 1000 * 2 ^ 32))

/-- TOD_SET to a TOD_CAPABLE terminal at the basic level of function 4 (R371): FROM_CYCLE lies at least 16 cycles after the
cycle that carries the message, the up to 64 cycles that the message may wait in its queue included. -/
def sendTod (s : State) (tid : Nat) : State :=
  match s.reg.tresp.find? (·.1 = tid) with
  | some (_, t) =>
    if basic s 4 (treeOfTid tid) then
      let c := termChan s tid
      let from_ := (cycleNow s + 81 + freeVal s % 65536) % 2 ^ 48
      let tb := rfW s (Adr.chnTimeCfg c) 4 63 61
      tcmSend (nextFree s) c (msgTo tid mtTodSet true (bytesBE 1 tb ++ [0] ++ bytesBE 8 (dsDelay s tid (t - 1))
        ++ bytesBE 6 from_))
    else s
  | none => s

/-- RANGING_TIME with an EqD, which becomes the terminal's; APPLY_CYCLE, which no rule gives, is free (R143, R155). -/
def sendRanging (s : State) (tid eqd : Nat) : State :=
  let s := setInfo s tid 63 37 eqd
  let body := bytesBE 4 eqd ++ bytesBE 6 (freeVal s % 2 ^ 48)
  sendTod (tcmSend (nextFree s) (termChan s tid) (msgTo tid mtRangingTime true body)) tid

/-- A terminal's EqD less an offset in symbols. -/
def eqdLess (s : State) (tid : Nat) (ofs : Int) : Nat := ((termEqd s tid : Int) - ofs).toNat

/-! ## From acceptance to service (R143) -/

def setStep (s : State) (tid : Nat) (x : RegStep) : State :=
  { s with reg := { s.reg with steps := mput s.reg.steps tid x } }
def regStep (s : State) (tid : Nat) : Option RegStep := (s.reg.steps.find? (·.1 = tid)).map (·.2)
def endStep (s : State) (tid : Nat) : State := { s with reg := { s.reg with steps := mdel s.reg.steps tid } }

/-- Step 1 at the basic level of function 0: ASSIGN_TID with the TID; Assign_ONU-ID on a C50 channel (R126). -/
def regStart (s : State) (tid : Nat) : State :=
  if basic s 0 (treeOfTid tid) then
    let s := setStep s tid .assign
    if isC50 s (termChan s tid) then emit s (.ploam (termChan s tid) tid 1 tid) else sendAssign s tid tid true
  else s

/-- Step 4 at the basic level of function 3: two keys of index 0, each in two KEY_INSTALL parts; Key_Control on C50. -/
def keysStart (s : State) (tid : Nat) : State :=
  if basic s 3 (treeOfTid tid) then
    let s := setStep s tid (.keys 4)
    if isC50 s (termChan s tid) then emit s (.ploam (termChan s tid) tid 7 0)
    else fwInstall (fwInstall s tid 0 0 .none) tid 1 0 .none
  else endStep s tid

/-- A KEY_INSTALL part of step 4 is acknowledged; after the fourth ACTIVATE is sent (R143 steps 4 and 5). -/
def regKeyAck (s : State) (tid : Nat) : State :=
  match regStep s tid with
  | some (.keys n) =>
    if 1 < n then setStep s tid (.keys (n - 1))
    else tcmSend (setStep s tid .activate) (termChan s tid) (msgTo tid mtActivate true [])
  | _ => s

/-- A message of the sequence is acknowledged (R143). -/
def regAck (s : State) (tid typ : Nat) : State :=
  match regStep s tid with
  | some .assign =>
    if typ = mtAssignTid then sendRanging (setStep s tid (.ranging (termEqd s tid))) tid (termEqd s tid) else s
  | some (.ranging _) => if typ = mtRangingTime then setStep s tid .check else s
  | some (.keys _) => if typ = mtKeyInstall then regKeyAck s tid else s
  | some .activate => if typ = mtActivate then termMgmt (endStep s tid) tid tsActive 0 else s
  | _ => s

/-- Step 3: a cold burst of a terminal that is checked, with its DELIM_OFS. Within 4 symbols the terminal enters KEYING,
else step 2 is repeated with the corrected EqD. -/
def regCheck (s : State) (tid : Nat) (ofs : Int) : State :=
  if ofs.natAbs ≤ 4 then keysStart (termMgmt (endStep s tid) tid tsKeying 0) tid
  else
    let e := eqdLess s tid ofs
    sendRanging (setStep s tid (.ranging e)) tid e

/-! ## Serials and slots (R140) -/

/-- The terminal in service that holds a serial anywhere in the device: in RANGING, KEYING, ACTIVE or TRANSIT (R140 step 1). -/
def serialBusy (s : State) (ser : Nat) : Option Nat :=
  (allTids s).find? fun tid => termSerial s tid == ser &&
    (termEff s tid == tsRanging || termEff s tid == tsKeying || termEff s tid == tsActive || termEff s tid == tsTransit)
/-- The terminal of a tree that holds a serial. -/
def serialIn (s : State) (t ser : Nat) : Option Nat :=
  (usedTids s t).find? fun tid => termEff s tid != tsFree && termSerial s tid == ser
/-- The terminal in AUTH_WAIT that holds a serial (R141, R142). -/
def serialWaits (s : State) (ser : Nat) : Option Nat :=
  (allTids s).find? fun tid => termEff s tid == tsAuthWait && termSerial s tid == ser
/-- The serial that a slot is retained for (R81). -/
def retainedFor (s : State) (tid : Nat) : Option Nat := (s.reg.retained.find? (·.1 = tid)).map (·.2)

/-- The slot a new serial takes in a tree (R140 step 4): the one retained for it, the lowest FREE one that is not retained
for another, else the lowest FREE one. -/
def chooseSlot (s : State) (t ser : Nat) : Option Nat :=
  let free := (treeTids s t).filter fun tid => termEff s tid == tsFree
  match free.find? fun tid => retainedFor s tid == some ser with
  | some tid => some tid
  | none => match free.find? fun tid => retainedFor s tid == none with
    | some tid => some tid
    | none => free.head?

/-- A slot is taken: its retention ends, and so does that of the serial; a KEK stays only with its own serial. -/
def takeSlot (s : State) (tid ser : Nat) : State :=
  let s := if retainedFor s tid = some ser then s else { s with keys := { s.keys with kek := mset [] s.keys.kek tid [] } }
  { s with reg := { s.reg with retained := s.reg.retained.filter fun p => p.1 ≠ tid ∧ p.2 ≠ ser } }

/-- What a registration reports of a terminal: channel of arrival, round trip in symbols, serial, CAPS, NONCE, launch power,
TRACE_OK (R141). -/
structure Arrival where
  chan : Nat
  delta : Nat
  serial : Nat
  caps : Nat
  nonce : Nat
  txLevel : Nat
  traceOk : Bool
  deriving DecidableEq, Repr

/-- Writes a terminal's identity and ranging words from a registration: EqD = EQRT - delta (R130). -/
def putArrival (s : State) (tid : Nat) (a : Arrival) : State :=
  let t := treeOfTid tid
  let s := setInfo s tid 127 64 a.serial
  let s := setInfo (setInfo s tid 63 37 (eqrtSymbols s t - a.delta)) tid 36 35 (a.chan % 4)
  let s := setInfo (setInfo s tid 28 25 a.caps) tid 15 0 (crc16 (bytesBE 8 a.serial))
  let s := { s with reg := { s.reg with
    nonce := mset 0 s.reg.nonce tid a.nonce, delta := mset 0 s.reg.delta tid a.delta } }
  sendKek s a.chan tid

/-- The authorization request of a terminal (R141). -/
def authRequest (s : State) (tid : Nat) (a : Arrival) : State :=
  ntfPf s ntfAuth (bytesLE 1 (a.chan / 4) ++ bytesLE 1 (a.chan % 4) ++ bytesLE 8 a.serial ++ bytesLE 2 (termSh s tid)
    ++ bytesLE 2 a.caps ++ bytesLE 4 a.delta ++ bytesLE 2 a.txLevel ++ bytesLE 1 (b2n a.traceOk) ++ bytesLE 2 (slotOfTid tid))

/-- HOLD, then the request to the host (R140 steps 5 and 6); a C50 terminal is sent nothing yet (R146). -/
def holdAndAsk (s : State) (tid : Nat) (a : Arrival) : State :=
  authRequest (if isC50 s a.chan then s else sendAssign s tid bcast false) tid a

/-- WIN of a tree in ns (R131). -/
def winNs (s : State) (t : Nat) : Nat := min (eqrtOf s t - 34000) 435000
/-- Whether a round trip in symbols lies in a tree's search window, from EQRT - WIN to EQRT (R131). -/
def inSearch (s : State) (t delta : Nat) : Bool :=
  decide (eqrtSymbols s t - winNs s t * 11264 / 100 ≤ delta ∧ delta ≤ eqrtSymbols s t)

/-- The serial of a registration is matched, reserved and announced, at the basic level of function 0 (R140); a terminal whose round
trip lies outside the search window is not found (R131). A TID belongs to its tree, so that a serial which waits, or is LOST or
OFFLINE, on another tree is a new one on the tree of arrival (DEDUCED, assumption log 81). -/
def arrive (s : State) (a : Arrival) : State :=
  let t := a.chan / 4
  let where_ : List Byte := bytesLE 8 a.serial ++ bytesLE 1 t ++ bytesLE 1 (a.chan % 4)
  if !inSearch s t a.delta then s
  else match serialBusy s a.serial with
  | some tid =>
    ntfPf (evBit s (Adr.chnDiscEvent a.chan) 6 a.chan .corrected 0x0426) ntfDupSerial
      (where_ ++ bytesLE 1 (treeOfTid tid) ++ bytesLE 2 (slotOfTid tid) ++ bytesLE 1 (termW s tid)
        ++ bytesLE 1 (termEff s tid))
  | none => match serialIn s t a.serial with
  | some tid =>
    let st := termEff s tid
    if st = tsAuthWait then holdAndAsk (putArrival s tid a) tid a
    else if st = tsLost ∨ st = tsOffline then
      let s := if st = tsLost then termMgmt s tid tsOffline 1 else s
      let s := { s with tcm := { s.tcm with aliveUp := mdel s.tcm.aliveUp tid } }
      let s := putArrival s tid a
      if rb s (Adr.treDiscCfg t) 3 then
        let s := if isC50 s a.chan then s else sendAssign s tid bcast false
        regStart (termMgmt s tid tsRanging 0) tid
      else holdAndAsk (termMgmt s tid tsAuthWait 0) tid a
    else s
  | none => match chooseSlot s t a.serial with
    | none => ntfPf (evBit s (Adr.chnDiscEvent a.chan) 7 a.chan .corrected 0x0427) ntfTreeFull where_
    | some tid =>
      let s := { s with tcm := { s.tcm with aliveUp := mdel s.tcm.aliveUp tid } }
      let s := putArrival (takeSlot s tid a.serial) tid a
      holdAndAsk (termMgmt s tid tsAuthWait 0) tid a

/-! ## The host's answer (R141, R142, R284) -/

/-- Moves a waiting terminal's record to another slot. -/
def moveSlot (s : State) (tid new : Nat) : State :=
  let v := rdW s (infoAddr tid) 4
  let s := wrW s (infoAddr new) v 4
  let al := s.tcm.aliveUp.find? (·.1 = tid)
  let n := mget 0 s.reg.nonce tid
  let d := mget 0 s.reg.delta tid
  let s := takeSlot (termMgmt s tid tsFree 0) new (termSerial s new)
  let s := { s with
    reg := { s.reg with nonce := mset 0 s.reg.nonce new n, delta := mset 0 s.reg.delta new d }
    tcm := { s.tcm with aliveUp := match al with | some (_, x) => mput (mdel s.tcm.aliveUp tid) new x | none => mdel s.tcm.aliveUp new } }
  termMgmt s new tsAuthWait 0

/-- TERM_AUTHORIZE (R142, R284). At the expert level of function 0, where the host makes the transitions, it delivers the
KEK of an ACCEPT and nothing else. -/
def cmdTermAuthorize (s : State) (c : CmdCtx) (ser dec slot part : Nat) (kek : List Byte) : State × OutRec :=
  if rf s Adr.secStatus 31 28 = 2 then (s, refusal .moduleError)
  else match serialWaits s ser with
  | none => (s, refusal .notWaiting)
  | some tid =>
    let t := treeOfTid tid
    let k := if slot = 0xFFFF then slotOfTid tid else slot
    let new := tidOf t k
    if 2 < dec ∨ 63 < part ∨ (c.fn ≠ 0 ∧ part ≠ c.fn - 1) ∨ slotLimit s t ≤ k
      ∨ (new ≠ tid ∧ termEff s new ≠ tsFree) then (s, refusal .outOfRange)
    else
      let fw := basic s 0 t
      if dec = 1 then (if fw then termMgmt s tid tsFree 0 else s, doneRec)
      else if dec = 2 then (if fw then sendDisable (termMgmt s tid tsDisabled 3) tid mtDisable else s, doneRec)
      else
        let ktk := mget [] s.keys.ktk part
        if ktk.isEmpty then (s, refusal .noKtk)
        else match Config.keyUnwrap ktk kek with
        | none => (s, refusal .unwrapFail)
        | some m =>
          if fw then
            let s := if new = tid then s else moveSlot s tid new
            let s := storeKek (setInfo s new 34 29 part) new m
            (regStart (termMgmt s new tsRanging 0) new, doneRec)
          else (storeKek s tid m, doneRec)

/-! ## Writes of terminal states (R154) -/

/-- The rows of R154 that a write can match, with the function whose owner makes them: whether it is made by the owner of
function 0, by that of function 3, by that of function 11. -/
def termRow (from_ dst : Nat) : Bool × Bool × Bool :=
  if dst = tsFree then (from_ == tsAuthWait || from_ == tsOffline, false, false)
  else if dst = tsAuthWait then (from_ == tsFree || from_ == tsOffline, false, false)
  else if dst = tsRanging then (from_ == tsAuthWait || from_ == tsDisabled || from_ == tsOffline, false, false)
  else if dst = tsKeying then (from_ == tsRanging, false, false)
  else if dst = tsActive then (false, from_ == tsKeying, false)
  else if dst = tsDisabled then
    let ok := decide (tsAuthWait ≤ from_ ∧ from_ ≤ tsLost) || from_ == tsTransit
    (ok, false, ok)
  else if dst = tsOffline then (decide (tsAuthWait ≤ from_ ∧ from_ ≤ tsDisabled), false, false)
  else (false, false, false)

/-- DETAIL of a write of DISABLED, from bits 15:8 and the functions the writer owns (R154). -/
def disableDetail (det : Nat) (own0 own11 : Bool) : Except WrStatus Nat :=
  if det = 0 then .ok (if own11 && !own0 then 2 else 1)
  else if det = 1 then (if own0 then .ok 1 else .error .notOwner)
  else if det = 2 then (if own11 then .ok 2 else .error .notOwner)
  else .error .outOfRange

/-- DEACTIVATE, by PLOAM on a C50 channel (R126, R148). -/
def sendDeactivate (s : State) (tid : Nat) : State :=
  let c := termChan s tid
  if isC50 s c then emit s (.ploam c tid 3 0) else tcmSend s c (msgTo tid mtDeactivate false [])

/-- The transition a write makes, with the messages it sends: DISABLE, ENABLE or DEACTIVATE (R154). -/
def termGo (s : State) (tid dst det : Nat) : State :=
  let from_ := termEff s tid
  let s := termMgmt s tid dst det
  if dst = tsDisabled then
    let s := if from_ = tsTransit then trDisabled s tid else s
    sendDisable s tid mtDisable
  else if dst = tsOffline then
    sendDeactivate s tid
  else if dst = tsRanging then
    let s := if from_ = tsDisabled then sendDisable s tid mtEnable else s
    regStart s tid
  else if dst = tsKeying then keysStart s tid
  else if dst = tsActive then endStep s tid
  else s

/-- A write of a STATE value, by a writer that owns functions 0, 3 and 11 as given (R154). -/
def termAct (s : State) (tid dst det : Nat) (own0 own3 own11 : Bool) : Except WrStatus State :=
  let (r0, r3, r11) := termRow (termEff s tid) dst
  if (r0 && own0) || (r3 && own3) || (r11 && own11) then
    if dst = tsDisabled then
      match disableDetail det own0 own11 with
      | .ok d => .ok (termGo s tid dst d)
      | .error e => .error e
    else
      .ok (termGo s tid dst (if dst = tsOffline then 2 else 0))
  else .error .outOfRange

/-- A write to TRE_TERM (R25, R44, R154, R477). -/
def termWrite (s : State) (who : Requester) (tid expect dst det : Nat) : State :=
  let a := termAddr tid
  let t := treeOfTid tid
  let i := islandOf a
  let own (f : Nat) : Bool := isOwner s who i f t
  if islDown s i then wrDown s who a
  else if !(own 0 || own 3 || own 11) || s.prt.standby then wrNotOwner s who a 0 t
  else if expect ≠ uEpoch s a then wrStale s who a
  else match termAct s tid dst det (own 0) (own 3) (own 11) with
    | .ok s' => wrOk s' who a
    | .error .notOwner => wrNotOwner s who a (if det = 2 then 11 else 0) t
    | .error e => wrRefuse s who a e

/-- The status of a command for a write status. -/
def WrStatus.toStatus : WrStatus → Status
  | .ok => .ok | .stale => .stale | .notOwner => .notOwner | .islandDown => .islandDown | .busy => .busy
  | .notAuthorized => .notAuthorized | _ => .outOfRange

/-- TERM_STATE (R394): firmware makes the transition as the owner of the functions it holds. -/
def cmdTermState (s : State) (c : CmdCtx) (tid dst det : Nat) : State × OutRec :=
  let a := termAddr tid
  let t := treeOfTid tid
  let rec_ (s : State) (r : OutRec) : OutRec := { r with epoch := uEpoch s a, ustate := effState s a }
  if !cmdTidOk s c.fn tid then (s, refusal .outOfRange)
  else if !(basic s 0 t || basic s 3 t || basic s 11 t) then (s, rec_ s (refusal .notOwner))
  else if c.expect ≠ uEpoch s a then (cmdStale s a, rec_ s (refusal .stale))
  else match termAct s tid dst det (basic s 0 t) (basic s 3 t) (basic s 11 t) with
    | .ok s' => (s', rec_ s' doneRec)
    | .error e => (s, rec_ s (refusal e.toStatus))

/-- TERM_MSG (R394): firmware queues a message to a terminal, as the owner of the type's function. -/
def cmdTermMsg (s : State) (c : CmdCtx) (tid typ : Nat) (ack : Bool) (body : List Byte) : State × OutRec :=
  if !cmdTidOk s c.fn tid || !mtKnown typ || mtUpOnly typ || isC50 s (termChan s tid) then (s, refusal .outOfRange)
  else if !basic s (txFunc typ) (treeOfTid tid) then (s, refusal .notOwner)
  else match tcmPush s (termChan s tid) (msgTo tid typ ack body) with
    | some s => (s, doneRec)
    | none => (s, refusal .queueFull)

/-- A write to word 3 of TRE_TERM_INFO commits the four words (R164). -/
def termInfoWrite (s : State) (who : Requester) (tid v : Nat) : State :=
  let a := infoAddr tid
  let t := treeOfTid tid
  let i := islandOf a
  if islDown s i then wrDown s who a
  else if isOwner s who i 0 t = false ∨ ownerAt s i 0 t = 0 then wrNotOwner s who a 0 t
  else
    let w := termW s tid
    let s := wrW s a (putNfld v 23 16 0) 4
    wrOk (if termW s tid = w then s else sendKek s (termChan s tid) tid) who a

/-! ## Timers (R154, R156) -/

/-- AUTH_TIMEOUT has passed without an answer. -/
def authTimeout (s : State) (tid : Nat) : State := if termEff s tid = tsAuthWait then termData s tid tsFree 0 else s
/-- LOST_TIMEOUT has passed in LOST: the keys are erased. -/
def lostTimeout (s : State) (tid : Nat) : State := if termEff s tid = tsLost then termData s tid tsOffline 1 else s

/-! ## Commands -/

/-- TERM_WRITE_FREE (R154): requester, TID, EXPECT. -/
def execTermWriteFree (who : Requester) (tid expect : Nat) (s : State) : Host.Outcome State Fault Refusal :=
  .next (termWrite s who tid expect tsFree 0)
/-- TERM_WRITE_AUTH_WAIT (R154): requester, TID, EXPECT. -/
def execTermWriteAuthWait (who : Requester) (tid expect : Nat) (s : State) : Host.Outcome State Fault Refusal :=
  .next (termWrite s who tid expect tsAuthWait 0)
/-- TERM_WRITE_RANGING (R154): requester, TID, EXPECT. -/
def execTermWriteRanging (who : Requester) (tid expect : Nat) (s : State) : Host.Outcome State Fault Refusal :=
  .next (termWrite s who tid expect tsRanging 0)
/-- TERM_WRITE_KEYING (R154): requester, TID, EXPECT. -/
def execTermWriteKeying (who : Requester) (tid expect : Nat) (s : State) : Host.Outcome State Fault Refusal :=
  .next (termWrite s who tid expect tsKeying 0)
/-- TERM_WRITE_ACTIVE (R154): requester, TID, EXPECT. -/
def execTermWriteActive (who : Requester) (tid expect : Nat) (s : State) : Host.Outcome State Fault Refusal :=
  .next (termWrite s who tid expect tsActive 0)
/-- TERM_WRITE_DISABLED (R154): requester, TID, EXPECT, and bits 15:8 of the value written. -/
def execTermWriteDisabled (who : Requester) (tid expect det : Nat) (s : State) : Host.Outcome State Fault Refusal :=
  .next (termWrite s who tid expect tsDisabled det)
/-- TERM_WRITE_OFFLINE (R154): requester, TID, EXPECT. -/
def execTermWriteOffline (who : Requester) (tid expect : Nat) (s : State) : Host.Outcome State Fault Refusal :=
  .next (termWrite s who tid expect tsOffline 0)
/-- TRE_TERM_INFO_WRITE (R164): requester, TID, the 128 bits committed. -/
def execTreTermInfoWrite (who : Requester) (tid value : Nat) (s : State) : Host.Outcome State Fault Refusal :=
  .next (termInfoWrite s who tid value)
/-- AUTH_TIMEOUT (R154). -/
def execAuthTimeout (tid : Nat) (s : State) : Host.Outcome State Fault Refusal := .next (authTimeout s tid)
/-- LOST_TIMEOUT (R156). -/
def execLostTimeout (tid : Nat) (s : State) : Host.Outcome State Fault Refusal := .next (lostTimeout s tid)
/-- TERM_AUTHORIZE (R142): ring, serial, DECISION, SLOT, PART, wrapped KEK. -/
def execTermAuthorize (r serial decision slot part : Nat) (kek : List Byte) (s : State) :
    Host.Outcome State Fault Refusal :=
  .next (runCmdNow s r 0x1001 fun s c => cmdTermAuthorize s c serial decision slot part kek)
/-- TERM_STATE (R394): ring, TID, new STATE and bits 15:8 of the value. -/
def execTermState (r tid dst det : Nat) (s : State) : Host.Outcome State Fault Refusal :=
  .next (runCmdNow s r 0x1003 fun s c => cmdTermState s c tid dst det)
/-- TERM_MSG (R394): ring, TID, TYPE, ACK_REQ, payload. -/
def execTermMsg (r tid typ : Nat) (ack : Bool) (body : List Byte) (s : State) : Host.Outcome State Fault Refusal :=
  .next (runCmdNow s r 0x1004 fun s c => cmdTermMsg s c tid typ ack body)

end Sys2Proof.Machine
end

