-- ==== Sys2Proof/Machine/Coma.lean ====
section
/-! DEFINITION. Discovery: Coma epochs, candidates and invitations (R131 to R138), registration bursts (R139, R140), quiet
windows (R145), and rogue terminals (R157 to R163). -/
namespace Sys2Proof.Machine

/-! ## Coma epochs (R131 to R137) -/

/-- The cycles that a search window takes, two more included: the least COMA_PERIOD, and QW (R132, R145). -/
def winCycles (s : State) (t : Nat) : Nat := ceilDiv (winNs s t) 15625 + 2
/-- ACCESS_INIT, at most 12. -/
def accessInit (s : State) (t : Nat) : Nat := min 12 (rf s (Adr.treDiscCfg t) 19 16)

/-- Whether a channel runs Coma epochs, apart from quiet windows (R132). -/
def comaOn (s : State) (c : Nat) : Bool :=
  isN200 s c && chnEff s c == chRun && (discMode s (c / 4)) % 2 == 1 && discOn s c && !locating s c
/-- Whether a channel runs quiet windows (R145, R146): by MODE, where COMA is taken as QUIET on C50. -/
def quietOn (s : State) (c : Nat) : Bool :=
  chnEff s c == chRun && discOn s c && !locating s c
    && (if isC50 s c then discMode s (c / 4) != 0 else isN200 s c && decide (2 ≤ discMode s (c / 4)))

/-- COMA_PERIOD, raised to its least value. -/
def comaPeriod (s : State) (t : Nat) : Nat := max (rf s (Adr.treDiscCfg t) 29 20) (winCycles s t)

/-- Cycle k of a channel is an epoch cycle: it is marked, and the epoch counts (R132). Epochs start at the cycles that
COMA_PERIOD divides. -/
def comaEpoch (s : State) (c : Nat) : State :=
  let k := cycleNow s + 1
  if comaOn s c && !inQuiet s c k && k % comaPeriod s (c / 4) == 0 && !isEpoch s c k then
    let s := { s with reg := { s.reg with epochs := mset [] s.reg.epochs c (mget [] s.reg.epochs c ++ [k]) } }
    wf s (Adr.chnComaStat c) 23 0 ((rf s (Adr.chnComaStat c) 23 0 + 1) % 2 ^ 24)
  else s

/-- A peak of the correlator: code, magnitude above the threshold in steps of 0.25 dB, round trip in symbols (R136). -/
structure Peak where
  code : Nat
  mag : Nat
  delta : Nat
  deriving DecidableEq, Repr

/-- Peaks by falling magnitude; of equal ones the order found stays, so that it settles which four are posted (DESIGN CHOICE,
assumption log 152). -/
def insertPeak (p : Peak) : List Peak → List Peak
  | [] => [p]
  | x :: xs => if x.mag < p.mag then p :: x :: xs else x :: insertPeak p xs
def sortPeaks (l : List Peak) : List Peak := l.foldr insertPeak []

/-- ACCESS after an epoch, from the last epochs (overload, any peak), latest first (R137). -/
def accessNext (a : Nat) (h : List (Bool × Bool)) : Nat :=
  if 2 ≤ ((h.take 4).filter (·.1)).length then min 12 (a + 1)
  else if h.length = 4 ∧ (h.all fun e => !e.2) = true then a - 1 else a

/-- The first cycle from m on, of n tried, in which a registration grant can be booked, with its START. -/
def bookReg (s : State) (c id : Nat) : Nat → Nat → Option (State × Nat × Nat)
  | 0, _ => none
  | n + 1, m =>
    ((bookFw s c m 2 regSpan true id).map fun t => (t, m, ((booksOf t c).getLast?.map (·.start)).getD 0)).orElse
      fun _ => bookReg s c id n (m + 1)

/-- Cycles that a message of class 3 queued now waits behind those of classes 1 to 3 (R152). -/
def inviteLead (s : State) (c : Nat) : Nat := ((tcmQueue s c).filter fun m => decide (m.cls ≤ 3)).length / 16

/-- Firmware invites a candidate of epoch cycle k (R138): a registration grant in a cycle m and a RANGE_INVITE, which no header after
that of m carries; a round trip beyond EQRT has no EqD (R130). -/
def invite (s : State) (c k : Nat) (p : Peak) : State :=
  let e := eqrtSymbols s (c / 4)
  if e < p.delta ∨ tcmDepth ≤ (tcmQueue s c).length then s
  else
    let id := mget 0 s.reg.nextInvite c
    match bookReg s c id (60 - inviteLead s c) (cycleNow s + 2 + inviteLead s c) with
    | none => s
    | some (s, m, st) =>
      let s := { s with reg := { s.reg with
        nextInvite := mset 0 s.reg.nextInvite c ((id + 1) % 255)
        invites := mput s.reg.invites (c * 256 + id) ⟨k, p.code, p.delta, m⟩ } }
      tcmSend s c { msgAll mtRangeInvite (bytesBE 6 k ++ bytesBE 1 p.code ++ bytesBE 1 id ++ bytesBE 6 m ++ bytesBE 4 st
        ++ bytesBE 4 (e - p.delta)) with latest := m + 1 }

/-- The epoch's candidates are posted (R136, R137): the four greatest peaks of the search window, with DUP where a code peaked twice, the
statistics, ACCESS, the events, and firmware's invitations at the basic level of function 0. -/
def comaPost (s : State) (c : Nat) (peaks : List Peak) : State :=
  match mget [] s.reg.epochs c with
  | [] => s
  | k :: rest =>
    let peaks := peaks.filter fun p => decide (p.code < 64) && inSearch s (c / 4) p.delta
    let top := (sortPeaks peaks).take 4
    let dup (p : Peak) : Bool := decide (2 ≤ (peaks.filter fun q => q.code == p.code).length)
    let over4 := decide (4 < peaks.length)
    let hist := ((over4, !peaks.isEmpty) :: mget [] s.reg.history c).take 4
    let s := { s with reg := { s.reg with epochs := mset [] s.reg.epochs c rest, history := mput s.reg.history c hist } }
    let s := (List.range 4).foldl (fun s i =>
      let v := match top[i]? with
        | some p => 2 ^ 63 + b2n (dup p) * 2 ^ 62 + p.code * 2 ^ 56 + min 255 p.mag * 2 ^ 48 + k % 65536 * 2 ^ 32
            + p.delta % 2 ^ 27
        | none => 0
      wrW s (Adr.chnComaCand c i) v 2) s
    let a := Adr.chnComaStat c
    let s := wf (wf (wf s a 31 28 (accessNext (rf s a 31 28) hist)) a 27 25 (min 7 peaks.length)) a 24 24 (b2n over4)
    let ev := Adr.chnDiscEvent c
    let s := if peaks.isEmpty then s else evBit s ev 0 c .corrected 0x0420
    let s := if over4 then evBit s ev 1 c .corrected 0x0421 else s
    if basic s 0 (c / 4) then (top.filter fun p => !dup p).foldl (fun s p => invite s c k p) s else s

/-- COMA_PARAM of a channel (R133): the discovery flags are 0 in states without epochs or windows; PREFERRED marks the lowest
wavelength of the tree that runs epochs. -/
def comaParam (s : State) (c : Nat) : State :=
  let t := c / 4
  let en := comaOn s c
  let q := isN200 s c && quietOn s c
  let pref := en && (wavesWhere fun w => comaOn s (chanOf t w)).head? == some (c % 4)
  tcmSend s c (msgAll mtComaParam (bytesBE 1 (b2n en + 2 * b2n q + 4 * b2n pref)
    ++ bytesBE 1 (rf s (Adr.chnComaStat c) 31 28) ++ bytesBE 2 (comaPeriod s t) ++ bytesBE 4 (eqrtOf s t)))

/-! ## Quiet windows (R145) -/

/-- The first cycle, from a on and of n tried, from which w cycles hold neither a booking nor another window. -/
def quietPlace (s : State) (c w : Nat) : Nat → Nat → Option Nat
  | 0, _ => none
  | n + 1, a =>
    if (booksOf s c).any (fun b => decide (a ≤ b.cycle ∧ b.cycle < a + w))
        || (mget [] s.grant.quiet c).any (fun q => decide (q.1 < a + w ∧ a ≤ q.2))
        || (mget [] s.reg.epochs c).any (fun k => decide (a ≤ k ∧ k < a + w)) then quietPlace s c w n (a + 1)
    else some a

/-- Places a quiet window on a channel, and invites: with a QUIET_INVITE that no header after that of the window's first cycle carries;
on a C50 channel with the Burst_Profile messages of its four burst profiles (R125, R126; DESIGN CHOICE, assumption log 154). -/
def quietWindow (s : State) (c : Nat) : State :=
  let w := winCycles s (c / 4)
  match quietPlace s c w 200 (cycleNow s + 2 + (if isN200 s c then inviteLead s c else 0)) with
  | none => s
  | some a =>
    let q := a + w - 1
    let l := mget [] s.grant.quiet c ++ [(a, q)]
    let s := { s with grant := { s.grant with quiet := mset [] s.grant.quiet c l } }
    if isN200 s c then tcmSend s c { msgAll mtQuietInvite (bytesBE 6 q ++ bytesBE 1 w) with latest := a + 1 }
    else (List.range 4).foldl (fun s i => emit s (.ploam c bcast 0 i)) s

/-- After the header of cycle n a RANGE_INVITE or QUIET_INVITE that no later header may carry is dropped: the candidate is invited
anew, and the window is withdrawn and placed again (R138, R145). -/
def invitesLate (c n : Nat) : Nat → State → State
  | 0, s => s
  | k + 1, s =>
    match tcmLate s c n with
    | none => s
    | some (m, s) =>
      let s :=
        if m.typ = mtRangeInvite then
          let key := c * 256 + ofBytesBE ((m.body.drop 7).take 1)
          match s.reg.invites.find? (·.1 = key) with
          | some (_, i) =>
            invite { s with reg := { s.reg with invites := mdel s.reg.invites key } } c i.epoch ⟨i.code, 0, i.delta⟩
          | none => s
        else
          let l := (mget [] s.grant.quiet c).filter fun x => x.2 ≠ ofBytesBE (m.body.take 6)
          quietWindow { s with grant := { s.grant with quiet := mset [] s.grant.quiet c l } } c
      invitesLate c n k s

/-- A quiet window falls due by QW_PERIOD. -/
def quietDue (s : State) (c : Nat) : State :=
  if quietOn s c && rf s (Adr.treDiscCfg (c / 4)) 15 8 != 0 then quietWindow s c else s

/-- QW_NOW starts a window at once on every wavelength of DISC_W that is in RUN and not under localization. -/
def quietNow (s : State) (t : Nat) : State :=
  (List.range 4).foldl (fun s w =>
    let c := chanOf t w
    if discOn s c && chnEff s c == chRun && (isN200 s c || isC50 s c) && !locating s c then quietWindow s c else s) s

/-- A write of TRE_DISC_CFG with QW_NOW = 1 (R145): its other fields take their values first. -/
def qwNowWrite (s : State) (who : Requester) (t : Nat) (v : Word) : State :=
  let a := Adr.treDiscCfg t
  if islDown s (islandOf a) then wrDown s who a
  else if isOwner s who (islandOf a) 0 t = false then wrNotOwner s who a 0 t
  else
    let s := wr s a (putFld (putFld v 2 0 0) 19 16 (min 12 (fld v 19 16)))
    wrOk (if v.toNat.testBit 2 then quietNow s t else s) who a

/-! ## Rogue terminals (R157 to R163) -/

def rogueOf (s : State) (t : Nat) : RogueSt := mget {} s.rogue t
def setRogue (s : State) (t : Nat) (r : RogueSt) : State := { s with rogue := mset {} s.rogue t r }
def rogueAddr (t : Nat) : Nat := Adr.treRogueStat t
/-- STATE codes of TRE_ROGUE_STAT. -/
def rgIdle : Nat := 0
def rgSuspect : Nat := 1
def rgLocating : Nat := 2
def rgLocatingStat : Nat := 3
def rgIsolated : Nat := 4
def rgPersistent : Nat := 5
def rgUnlocated : Nat := 6
def rgTransient : Nat := 7
def setRogueState (s : State) (t st : Nat) : State := wf s (rogueAddr t) 31 28 st
/-- The channel concerned. -/
def rogueChan (s : State) (t : Nat) : Nat := chanOf t (rf s (rogueAddr t) 27 26)
/-- Settings, cut to their limits. -/
def rogueDet (s : State) (t : Nat) : Nat := max 1 (rf s (Adr.treRogueCfg t) 23 20)
def probeLen (s : State) (t : Nat) : Nat := max 4 (rf s (Adr.treRogueCfg t) 15 8)
def probeRep (s : State) (t : Nat) : Nat := max 8 (rf s (Adr.treRogueCfg t) 7 0)

/-- The registered terminals of a tree: those with a TID in service or lost. -/
def registered (s : State) (t : Nat) : List Nat :=
  (usedTids s t).filter fun tid => (decide (tsRanging ≤ termEff s tid ∧ termEff s tid ≤ tsLost)) || termEff s tid == tsTransit

/-- Starts a probe window: a SILENCE of some SH for its cycles, or none, and the terminals that a DISABLE keeps silent in it
(R159, R160, R163). -/
def probeWindow (s : State) (t : Nat) (silence : Option (Nat × Nat)) (muted : List Nat := []) : State :=
  let a := cycleNow s + 2
  let s := setRogue s t { rogueOf s t with silence := silence, start := a, muted := muted }
  match silence with
  | some (m, v) =>
    tcmSend s (rogueChan s t) (msgAll mtSilence (bytesBE 2 m ++ bytesBE 2 v ++ bytesBE 6 a
      ++ bytesBE 6 (a + probeLen s t - 1)))
  | none => s

def setPhaseR (s : State) (t : Nat) (p : RoguePhase) : State := setRogue s t { rogueOf s t with phase := p }

/-- The mask and value that name the SH with the bits above b as found and bit b as given. -/
def shSel (b sh v : Nat) : Nat × Nat := (2 ^ 16 - 2 ^ b, sh + v * 2 ^ b)

/-- The localization is over in a STATE, and the channel resumes. -/
def rogueStop (s : State) (t st : Nat) : State :=
  setRogueState (setRogue s t { rogueOf s t with phase := .idle, silence := none, muted := [] }) t st

/-- Localization starts on wavelength w (R159): Transits to or from the channel that are before D_X end (R241), windows that
have not begun are dropped, and the baseline begins. One that runs in the tree is abandoned (DESIGN CHOICE, assumption log 153). -/
def rogueStart (s : State) (t w : Nat) : State :=
  let c := chanOf t w
  let q := (mget [] s.grant.quiet c).filter fun x => decide (x.1 ≤ cycleNow s)
  let s := { s with grant := { s.grant with quiet := mset [] s.grant.quiet c q } }
  let s := wr s (rogueAddr t) (BitVec.ofNat 32 (rgLocating * 2 ^ 28 + w % 4 * 2 ^ 26))
  let s := setRogue s t { phase := .baseline 0 0 }
  probeWindow (trEndBefore s t rsRogue fun s tid => trSrc s tid == c || trDest s tid == c) t none

/-- Detection of a suspect on a channel (R157, R159). -/
def rogueSuspect (s : State) (c : Nat) : State :=
  let t := c / 4
  let s := evBit s (Adr.chnDiscEvent c) 2 c .corrected 0x0422
  match (rogueOf s t).phase with
  | .idle =>
    let s := wf (setRogueState s t rgSuspect) (rogueAddr t) 27 26 (c % 4)
    if rb s (Adr.treRogueCfg t) 31 && basic s 11 t then rogueStart s t (c % 4) else s
  | _ => s

/-- Energy of a channel in a cycle with a silent interval (R157, R162): HIST, ENERGY_OUT, a suspect as the count first
reaches ROGUE_DET. -/
def energyCycle (s : State) (c : Nat) (e : Bool) : State :=
  let a := Adr.chnEnergyStat c
  let h := rf s a 31 16
  let h' := (h * 2 + b2n e) % 65536
  let s := wf s a 31 16 h'
  let s := if e then pmAddScope s c 0 14 1 else s
  let d := rogueDet s (c / 4)
  if ones 16 h < d ∧ d ≤ ones 16 h' then rogueSuspect s c else s

/-- The rogue is found, or known to be unregistered (none): STATE and identity; with AUTO_DISABLE it is disabled and watched,
else a tested terminal is enabled again, and what STATE shows is open (R162). -/
def rogueFound (s : State) (t sh : Nat) (tid : Option Nat) : State :=
  let a := rogueAddr t
  let s := wf s a 15 0 sh
  let s := match tid with
    | some x => wf (wf s a 25 25 1) a 24 16 (slotOfTid x)
    | none => wf s a 25 25 0
  if rb s (Adr.treRogueCfg t) 30 then
    let s := match tid with
      | some x => if termEff s x = tsFree ∨ tsDisabled ≤ termEff s x ∧ termEff s x ≠ tsTransit then s
          else
            let tr := termEff s x == tsTransit
            let s := termMgmt s x tsDisabled 2
            if tr then trDisabled s x else s
      | none => s
    setRogueState (setRogue s t { phase := .watch 0 0, tid := tid, sh := sh }) t rgIsolated
  else
    let s := match tid with
      | some x => sendDisable s x mtEnable
      | none => s
    nextFree (rogueStop s t (freeVal s % 8))

/-- DISABLE by SH to a channel (R149). -/
def disableBySh (s : State) (t sh : Nat) : State :=
  tcmSend s (rogueChan s t) { msgAll mtDisable ([2, 0] ++ bytesBE 2 sh) with cls := 1 }

/-- The test of the next registered terminal with the SH; when none is left the rogue is unregistered: DISABLE by SH, then
ENABLE by serial to every registered terminal with it (R160). -/
def rogueTest (s : State) (t sh : Nat) (tids : List Nat) : State :=
  match tids with
  | x :: _ => sendDisable (probeWindow (setPhaseR s t (.test sh tids)) t none [x]) x mtDisable
  | [] =>
    let s := disableBySh s t sh
    let s := ((registered s t).filter fun x => termSh s x == sh).foldl (fun s x => sendDisable s x mtEnable) s
    rogueFound s t sh none

/-- A bit of the SH is known; the next bit is searched, or the SH is confirmed. -/
def rogueBit (s : State) (t bit sh : Nat) (statistical : Bool) : State :=
  match bit with
  | 0 => rogueTest s t sh ((registered s t).filter fun x => termSh s x == sh)
  | b + 1 =>
    if statistical then probeWindow (setPhaseR s t (.stat b sh (probeRep s t) 0 0 0)) t (some (shSel b sh 0))
    else probeWindow (setPhaseR s t (.search b sh)) t (some (shSel b sh 0))

/-- The halving test of a C50 channel (R163): the first half of the suspects is disabled by serial. -/
def rogueHalves (s : State) (t : Nat) (tids : List Nat) : State :=
  let half := tids.take (ceilDiv tids.length 2)
  if tids.isEmpty then rogueStop s t rgUnlocated
  else half.foldl (fun s x => sendDisable s x mtDisable) (probeWindow (setPhaseR s t (.halves tids)) t none half)

/-- Terminals by rising serial. -/
def insertSerial (s : State) (x : Nat) : List Nat → List Nat
  | [] => [x]
  | y :: ys => if termSerial s x < termSerial s y then x :: y :: ys else y :: insertSerial s x ys

/-- A probe window ends, with or without energy (R159 to R163). -/
def probeEnd (s : State) (t : Nat) (e : Bool) : State :=
  let r := rogueOf s t
  match r.phase with
  | .baseline n e0 =>
    let e0 := e0 + b2n e
    if n + 1 < 32 then probeWindow (setPhaseR s t (.baseline (n + 1) e0)) t none
    else if e0 < 4 then rogueStop s t rgTransient
    else
      let s := if 29 ≤ e0 then s else setRogueState s t rgLocatingStat
      let c := rogueChan s t
      if isC50 s c then
        rogueHalves s t (((registered s t).filter fun x => termChan s x == c).foldr (insertSerial s) [])
      else rogueBit s t 16 0 (decide (e0 < 29))
  | .search b sh => rogueBit s t b (sh + if e then 2 ^ b else 0) false
  | .stat b sh p n e0 e1 =>
    let e0 := if n % 2 = 0 then e0 + b2n e else e0
    let e1 := if n % 2 = 1 then e1 + b2n e else e1
    if n + 1 < 2 * p then
      probeWindow (setPhaseR s t (.stat b sh p (n + 1) e0 e1)) t (some (shSel b sh ((n + 1) % 2)))
    else if 4 * e0 ≤ e1 ∧ 8 ≤ e1 then rogueBit s t b sh true
    else if 4 * e1 ≤ e0 ∧ 8 ≤ e0 then rogueBit s t b (sh + 2 ^ b) true
    else if 8 * probeRep s t ≤ p then rogueStop s t rgUnlocated
    else probeWindow (setPhaseR s t (.stat b sh (2 * p) 0 0 0)) t (some (shSel b sh 0))
  | .test sh tids =>
    match tids with
    | x :: rest => if e then rogueTest (sendDisable s x mtEnable) t sh rest else rogueFound s t sh (some x)
    | [] => s
  | .halves tids =>
    let n := ceilDiv tids.length 2
    let half := tids.take n
    if tids.length = 1 then
      match tids with
      | x :: _ => if e then rogueStop (sendDisable s x mtEnable) t rgUnlocated else rogueFound s t (termSh s x) (some x)
      | [] => s
    else
      let s := half.foldl (fun s x => sendDisable s x mtEnable) s
      rogueHalves s t (if e then tids.drop n else half)
  | _ => s

/-- One of the 16 cycles after the rogue's disable (R162). -/
def rogueWatch (s : State) (t : Nat) (e : Bool) : State :=
  let r := rogueOf s t
  match r.phase with
  | .watch n k =>
    let k := k + b2n e
    if n + 1 < 16 then setRogue s t { r with phase := .watch (n + 1) k }
    else if rogueDet s t ≤ k then setRogueState (setRogue s t { r with phase := .persist 0 }) t rgPersistent
    else setRogue s t { r with phase := .idle }
  | .persist n => setRogue s t { r with phase := .persist (n + 1) }
  | _ => s

/-- The DISABLE of a persistent rogue is repeated: once per frame in the first 64,000 cycles, after that once every 640
(R162). -/
def rogueRepeat (s : State) (t : Nat) : State :=
  let r := rogueOf s t
  match r.phase with
  | .persist _ => match r.tid with
    | some x => sendDisable s x mtDisable
    | none => disableBySh s t r.sh
  | _ => s

/-- A write of TRE_ROGUE_CFG: its fields, then CLEAR and START (R159, R162). -/
def rogueCfgWrite (s : State) (who : Requester) (t : Nat) (v : Word) : State :=
  let a := Adr.treRogueCfg t
  if islDown s (islandOf a) then wrDown s who a
  else if isOwner s who (islandOf a) 11 t = false then wrNotOwner s who a 11 t
  else
    let v' := putFld (putFld (putFld v 29 28 0) 25 24 0) 19 16 0
    let v' := putFld (putFld (putFld v' 23 20 (max 1 (fld v 23 20))) 15 8 (max 4 (fld v 15 8))) 7 0 (max 8 (fld v 7 0))
    let s := wr s a v'
    let s := if v.toNat.testBit 29 then rogueStop s t rgIdle else s
    wrOk (if v.toNat.testBit 28 then rogueStart s t (fld v 27 26) else s) who a

/-! ## Registration bursts (R139, R140) -/

/-- A Clause item for the host: a terminal control message of KIND TCM, as received (R29, R164). No rule names its ring. -/
def tcmToHost (s : State) (c tid : Nat) (msg : List Byte) : State :=
  let cl : Clause := { kind := ClauseKind.tcm.code, part := termPart s tid, tid := tid, chan := c, len := msg.length,
                       buf := noBuf }
  let f : Frame := { cl := cl, data := msg }
  toRing (nextFree s) (freeVal s) f 0

/-- What a registration burst reports: codeword, prologue, message, offset of its delimiter in symbols, arrival of its first
symbol after the downstream start of the window's last cycle in symbols (quiet windows), and whether another overlapped it. -/
structure RegBurst where
  cw : CwResult
  hdr : BurstHdr
  msg : List Byte
  ofs : Int := 0
  arrival : Nat := 0
  overlap : Bool := false
  deriving DecidableEq, Repr

/-- The oldest registration grant of a channel that a burst can answer: of its invitation, or any one where the burst does not
decode. -/
def regGrantFind (s : State) (c : Nat) (id : Option Nat) : Option GBurst :=
  (mget [] s.grant.bursts c).find? fun g => g.kind == 2 && id.all (· == g.invite)
/-- Takes a registration grant off the bursts outstanding, and its invitation with it; it counts as a granted burst of the second
for its channel (R121). -/
def regGrantTaken (s : State) (c : Nat) (g : GBurst) : State :=
  let l := s.line
  { s with
    grant := { s.grant with bursts := mset [] s.grant.bursts c ((mget [] s.grant.bursts c).erase g) }
    line := { l with secGranted := mset 0 l.secGranted (c * 513) (mget 0 l.secGranted (c * 513) + 1) } }
def inviteGone (s : State) (c id : Nat) : State :=
  { s with reg := { s.reg with invites := mdel s.reg.invites (c * 256 + id) } }

/-- The counts of a codeword in a channel's bins, and of an uncorrectable one in its second. -/
def regCwCount (s : State) (c : Nat) (cw : CwResult) : State :=
  let s := pmAddScope s c 0 0 1
  match cw with
  | .good 0 => s
  | .good n => pmAddScope (pmAddScope s c 0 1 1) c 0 3 n
  | .uncorrectable =>
    let l := s.line
    pmAddScope { s with line := { l with
      secUncorr := mset 0 l.secUncorr (c * 513) (mget 0 l.secUncorr (c * 513) + 1) } } c 0 2 1
/-- A registration burst that is not received: BURST_LOST, and for a granted one the second's lost bursts (R106, R121). -/
def regLost (s : State) (c : Nat) (granted : Bool) : State :=
  let s := pmAddScope s c 0 7 1
  let l := s.line
  if granted then
    { s with line := { l with secLost := mset 0 l.secLost (c * 513) (mget 0 l.secLost (c * 513) + 1) } }
  else s

/-- Whether a quiet window of a channel is over and its bursts come, the search for pattern C lasting to 9.6 us after the upstream
start of its last cycle; an arrival in symbols lies in that search (R145). -/
def quietSeen (s : State) (c : Nat) (arrival : Option Nat) : Bool :=
  let e := eqrtSymbols s (c / 4)
  let lo := e - winNs s (c / 4) * 11264 / 100
  (mget [] s.grant.quiet c).any (fun w => decide (w.2 ≤ cycleNow s ∧ cycleNow s ≤ w.2 + 64))
    && arrival.all fun a => decide (lo ≤ a ∧ a ≤ e + 1081344)

/-- The serial of a registration passes its alive check, where it waits for the host (R150). -/
def serialAlive (s : State) (c ser alive : Nat) : Bool × State :=
  match serialIn s (c / 4) ser with
  | some tid =>
    if termEff s tid = tsAuthWait then
      match aliveCheck s tid alive with
      | (.accepted, s) => (true, s)
      | (.replay, s) => (false, evBit s (Adr.chnDiscEvent c) 5 c .corrected 0x0425)
      | (.stale, s) => (false, s)
    else (true, s)
  | none => (true, s)

/-- What a SERIAL_REPORT tells of a terminal with a round trip (R140): serial, capabilities, nonce, transmit level and trace. -/
def serialArrival (s : State) (c : Nat) (b : RegBurst) (d : Nat) : Arrival :=
  { chan := c, delta := d, serial := rxField b.msg 6 8, caps := rxField b.msg 18 2 % 16, nonce := rxField b.msg 20 4
    txLevel := b.hdr.txLevel, traceOk := b.hdr.traceCrc == crc16 (traceExpected s c) }
/-- The first accepted value of a new terminal's alive counter is kept (R150). -/
def firstAlive (s : State) (c : Nat) (m : List Byte) : State :=
  match serialIn s (c / 4) (rxField m 6 8) with
  | some tid =>
    if (termEff s tid = tsAuthWait ∨ termEff s tid = tsRanging) ∧ (s.tcm.aliveUp.find? (·.1 = tid)).isNone then
      { s with tcm := { s.tcm with aliveUp := mput s.tcm.aliveUp tid (rxAlive m + 1) } }
    else s
  | none => s

/-- The SERIAL_REPORT of a registration burst whose prologue holds (R140): at the basic level of function 0 the terminal arrives
with its round trip, of the invitation or of the quiet window; at the expert level the message reaches the host. -/
def serialReport (s : State) (c : Nat) (b : RegBurst) (quiet : Bool) (inv : Option Invite) : State :=
  let m := b.msg
  let ser := rxField m 6 8
  if !rxCrcOk m || rxType m != mtSerialReport then
    { s with tcm := { s.tcm with discards := mset 0 s.tcm.discards c (mget 0 s.tcm.discards c + 1) } }
  else if rxAddr m != bcast then s
  else
    let (ok, s) := serialAlive s c ser (rxAlive m)
    let back := rxField m 16 2 * 16
    let delta : Option Nat :=
      if quiet then (if back ≤ b.arrival then some (b.arrival - back) else none)
      else inv.bind fun i => if i.code = rxField m 14 1 then some ((i.delta : Int) + b.ofs).toNat else none
    if !ok then s
    else if basic s 0 (c / 4) = false then tcmToHost s c 0x7FFF m
    else match delta with
      | none => s
      | some d => firstAlive (arrive s (serialArrival s c b d)) c m

/-- A registration burst (R139, R140, R145), in answer to an invitation or in a quiet window; one that does not decode leaves no
state, and one of another TID is reported to rogue handling (R106). -/
def registration (s : State) (c : Nat) (b : RegBurst) : State :=
  if !isN200 s c || chnEff s c != chRun || islDown s c then s
  else if b.overlap then (if quietSeen s c none then evBit s (Adr.chnDiscEvent c) 3 c .corrected 0x0423 else s)
  else
    let id := rxField b.msg 15 1
    let dark := b.cw == .uncorrectable || !b.hdr.crcOk || b.hdr.tid != 0x7FFF
    let g := if !dark && id == 0xFF then none else regGrantFind s c (if dark then none else some id)
    if g.isNone && !((dark || id == 0xFF) && quietSeen s c (some b.arrival)) then s
    else
      let inv := g.bind fun g => (s.reg.invites.find? (·.1 = c * 256 + g.invite)).map (·.2)
      let s := match g with
        | some g => inviteGone (regGrantTaken s c g) c g.invite
        | none => s
      let s := regCwCount s c b.cw
      if b.cw = .uncorrectable then regLost s c g.isSome
      else if b.hdr.crcOk = false then regLost (pmAddScope s c 0 5 1) c g.isSome
      else if b.hdr.tid ≠ 0x7FFF then rogueSuspect (regLost (pmAddScope s c 0 5 1) c g.isSome) c
      else
        let s := pmAddScope s c 0 8 1
        let s := if b.hdr.traceCrc = crc16 (traceExpected s c) then s else pmAddScope s c 0 9 1
        serialReport s c b g.isNone inv

/-! ## Commands -/

/-- COMA_EPOCH (R132). -/
def execComaEpoch (c : Nat) (s : State) : Host.Outcome State Fault Refusal := .next (dataUp s fun s => comaEpoch s c)
/-- COMA_CANDIDATES_POSTED (R136): the channel, and the peaks of its oldest epoch not yet posted, each a code, a magnitude
and a round trip in symbols. -/
def execComaCandidatesPosted (c : Nat) (peaks : List (Nat × Nat × Nat)) (s : State) : Host.Outcome State Fault Refusal :=
  .next (comaPost s c (peaks.map fun p => ⟨p.1, p.2.1, p.2.2⟩))
/-- REGISTRATION_BURST (R140): the channel, the burst's codeword, prologue and message, its DELIM_OFS, its arrival in symbols
(quiet windows), and whether it overlapped another. -/
def execRegistrationBurst (c : Nat) (cw : CwResult) (hdr : BurstHdr) (msg : List Byte) (ofs : Int) (arrival : Nat)
    (overlap : Bool) (s : State) : Host.Outcome State Fault Refusal :=
  .next (dataUp s fun s => registration s c ⟨cw, hdr, msg, ofs, arrival, overlap⟩)
/-- QUIET_WINDOW_DUE (R145). -/
def execQuietWindowDue (c : Nat) (s : State) : Host.Outcome State Fault Refusal := .next (quietDue s c)
/-- QW_NOW (R145): requester, tree, the value of TRE_DISC_CFG. -/
def execQwNow (who : Requester) (t : Nat) (value : Word) (s : State) : Host.Outcome State Fault Refusal :=
  .next (qwNowWrite s who t value)
/-- ROGUE_START (R159): requester, tree, the value of TRE_ROGUE_CFG. -/
def execRogueStart (who : Requester) (t : Nat) (value : Word) (s : State) : Host.Outcome State Fault Refusal :=
  .next (rogueCfgWrite s who t value)
/-- ROGUE_CLEAR (R162): requester, tree, the value of TRE_ROGUE_CFG. -/
def execRogueClear (who : Requester) (t : Nat) (value : Word) (s : State) : Host.Outcome State Fault Refusal :=
  .next (rogueCfgWrite s who t value)
/-- PROBE_WINDOW_END (R160): the tree, and whether the window had energy. -/
def execProbeWindowEnd (t : Nat) (energy : Bool) (s : State) : Host.Outcome State Fault Refusal :=
  .next (probeEnd s t energy)
/-- ROGUE_DISABLE_REPEAT (R162). -/
def execRogueDisableRepeat (t : Nat) (s : State) : Host.Outcome State Fault Refusal := .next (rogueRepeat s t)

end Sys2Proof.Machine
end

