-- ==== Sys2Proof/Machine/TcmRx.lean ====
section
/-! DEFINITION. Upstream terminal control messages (R147 to R151, R164, R233, R370), waits for an ACK (R151), the host's
message buffer (R152), and upstream PLOAM messages of C50 channels (R125, R126, R146). -/
namespace Sys2Proof.Machine

/-! ## Receiving (R147 to R151) -/

/-- KEY_INSTALL's direction: the first byte of its payload. -/
def keyDirOf (w : TcmWait) : Nat := ofBytesBE (w.msg.body.take 1)

/-- An ACK that names the terminal's outstanding message: the wait ends, and what waited for it goes on or fails (R143, R151,
R233, R260). -/
def ackTake (s : State) (tid : Nat) (m : List Byte) : State :=
  match tcmWaitOf s tid with
  | none => s
  | some w =>
    let typ := rxField m 6 1
    if !ackMatches w typ (rxField m 8 2) then s
    else
      let s := endWait s tid
      if rxField m 7 1 = 0 then
        if typ = mtTune then trArm s tid
        else if typ = mtKeyInstall then regAck (rotAck s tid (keyDirOf w)) tid typ
        else regAck s tid typ
      else if typ = mtTune then trBack s tid rsTermRefused false
      else if typ = mtKeyInstall then endStep (rotFail s tid (keyDirOf w)) tid
      else endStep s tid

/-- TUNE_CAPS (R233). -/
def tuneCaps (s : State) (tid : Nat) (m : List Byte) : State :=
  let us := rxField m 8 4
  wf (wf s (trAddr tid) 17 14 (rxField m 6 1 % 16)) (trAddr tid) 13 0 (if 16383 < us then 0 else us)

/-- TIME_INFO (R370, R371). -/
def timeInfo (s : State) (tid : Nat) (m : List Byte) : State :=
  if (rxField m 10 1).testBit 0 then
    sendTod { s with reg := { s.reg with tresp := mput s.reg.tresp tid (rxField m 6 4 + 1) } } tid
  else { s with reg := { s.reg with tresp := mdel s.reg.tresp tid } }

/-- What an accepted message of a terminal does. At the expert level of function 0 types 0x03, 0x0E, 0x10 and 0x11 also reach
the host (R164). -/
def tcmAct (s : State) (c tid : Nat) (m : List Byte) : State :=
  let typ := rxType m
  let up := typ == mtSerialReport || typ == mtTraceReport || typ == mtStatusReport || typ == mtAck
  let s := if up && !basic s 0 (treeOfTid tid) then tcmToHost s c tid m else s
  if typ = mtAck then ackTake s tid m
  else if typ = mtStatusReport then pmAdd s c (slotOfTid tid) 12 (rxField m 6 4)
  else if typ = mtTuneCaps then tuneCaps s tid m
  else if typ = mtTimeInfo then timeInfo s tid m
  else s

/-- A terminal control message in a burst of a terminal: discarded and counted when its CRC fails or its type is reserved, discarded
when its type is not a terminal's, as a replay, which raises TCM_REPLAY, or as stale (R147, R148, R150). -/
def tcmReceive (s : State) (c tid : Nat) (m : List Byte) : State :=
  if isC50 s c || treeOfTid tid != c / 4 || termEff s tid == tsFree || islDown s c then s
  else if !rxCrcOk m || !mtKnown (rxType m) then
    { s with tcm := { s.tcm with discards := mset 0 s.tcm.discards c (mget 0 s.tcm.discards c + 1) } }
  else if !mtUpOnly (rxType m) then s
  else if rxAddr m ≠ tid ∧ rxAddr m ≠ bcast then s
  else match aliveCheck s tid (rxAlive m) with
    | (.accepted, s) => tcmAct s c tid m
    | (.replay, s) => evBit s (Adr.chnDiscEvent c) 5 c .corrected 0x0425
    | (.stale, s) => s

/-! ## No ACK (R151, R241, R260) -/

/-- No ACK within 2 ms: a resend, or after the third LOST with NO_ACK. -/
def ackTimeout (s : State) (tid : Nat) : State :=
  match tcmWaitOf s tid with
  | none => s
  | some w =>
    if w.resends < 3 then tcmResend s tid w
    else
      let s := endWait s tid
      let st := termEff s tid
      let typ := w.msg.typ
      let s := if typ = mtKeyInstall then rotFail s tid (keyDirOf w) else s
      if (typ = mtTune ∨ typ = mtTuneCancel) ∧ (st = tsTransit ∨ st = tsActive) then trNoAck s tid
      else if st = tsTransit then trLost s tid 3 rsNoAck
      else if st = tsRanging ∨ st = tsKeying ∨ st = tsActive then termData s tid tsLost 3
      else s

/-! ## The host's buffer (R152) -/

/-- A write of word 10 of CHN_TCM_TX: it is staged with words 0 to 9, and the message is queued or refused. -/
def tcmTxWrite (s : State) (who : Requester) (c : Nat) (v : Word) : State :=
  if islDown s c then wrDown s who (Adr.chnTcmTx c 10)
  else
    let s := { s with acc := { s.acc with stage := mset 0 s.acc.stage (reqKey who (Adr.chnTcmTx c 10)) v } }
    hostTcmTx s who c

/-! ## C50 (R125, R126, R146) -/

/-- Key_Report: the AES-128 key that the module takes from it is installed in an index of both directions, at the basic level
of function 3; in KEYING the terminal then enters ACTIVE (R125, R146). -/
def keyReport (s : State) (c tid idx : Nat) (wrapped : List Byte) : State :=
  let kek := chanKek s c tid
  match Config.keyUnwrap kek wrapped with
  | none => s
  | some m =>
    if basic s 3 (c / 4) = false ∨ kek.isEmpty = true then s
    else
      let put (p : State × Bool) (dir : Nat) : State × Bool :=
        let s := p.1
        let k := slotIx (slotOfTid tid) dir (idx % 2)
        let gen := (max (keyGen s c k) (keyGen s c (otherIx k))) % 0xFFFF + 1
        match installCheck s c k gen 0xFFFFFF true (some m) with
        | .ok =>
          let s := installKey s c k gen 0xFFFFFF false m
          (if dir = 0 then keyActivate s c k else s, p.2)
        | _ => (s, false)
      let (s, ok) := put (put (s, true) 0) 1
      let s := [0, 1].foldl (fun s dir => if ok then rotAck s tid dir else rotFail s tid dir) s
      match regStep s tid with
      | some (.keys _) =>
        (allocsOf s tid).foldl (fun s a => emit s (.ploam c tid 6 a)) (termMgmt (endStep s tid) tid tsActive 0)
      | _ => s

/-- Acknowledge: Assign_ONU-ID is followed by Ranging_Time with the equalization delay in the units of G.9804.2, and that by KEYING
and Request_Registration (R126, R146; DESIGN CHOICE, assumption log 154). -/
def ploamAck (s : State) (c tid : Nat) : State :=
  match regStep s tid with
  | some .assign =>
    emit (setStep s tid (.ranging (termEqd s tid))) (.ploam c tid 2 (Config.c50Eqd (termEqd s tid)))
  | some (.ranging _) => emit (setStep (termMgmt (endStep s tid) tid tsKeying 0) tid .check) (.ploam c tid 5 0)
  | _ => s

/-- Registration, which answers Request_Registration: Key_Control follows (R125, R126). -/
def ploamRegistration (s : State) (tid : Nat) : State :=
  match regStep s tid with
  | some .check => keysStart (endStep s tid) tid
  | _ => s

/-- An upstream PLOAM message: 0 Serial_Number_ONU with a serial and a round trip in symbols, in a quiet window, 1 Registration, 2
Key_Report with a key index and a wrapped key, 3 Acknowledge; any other is discarded and counted in EHDR_ERR. Firmware handles
them at the basic level of function 0. -/
def ploamReceive (s : State) (c tid typ serial delta idx : Nat) (wrapped : List Byte) : State :=
  if !isC50 s c || chnEff s c != chRun || islDown s c then s
  else if 3 < typ then pmAddScope s c 0 6 1
  else if basic s 0 (c / 4) = false then s
  else if typ = 0 then
    if quietSeen s c none then
      arrive s { chan := c, delta := delta, serial := serial, caps := 0, nonce := 0, txLevel := 0, traceOk := false }
    else s
  else if treeOfTid tid ≠ c / 4 ∨ termW s tid ≠ c % 4 then s
  else if typ = 1 then ploamRegistration s tid
  else if typ = 2 then keyReport s c tid idx wrapped
  else ploamAck s c tid

/-! ## Commands -/

/-- TCM_RECEIVE (R150): the channel, the TID of the burst, the 48 bytes. -/
def execTcmReceive (c tid : Nat) (msg : List Byte) (s : State) : Host.Outcome State Fault Refusal :=
  .next (dataUp s fun s => tcmReceive s c tid msg)
/-- TCM_ACK_RECEIVE (R151): the channel, the TID of the burst, the 48 bytes of an ACK. -/
def execTcmAckReceive (c tid : Nat) (msg : List Byte) (s : State) : Host.Outcome State Fault Refusal :=
  .next (dataUp s fun s => if rxType msg = mtAck then tcmReceive s c tid msg else s)
/-- TCM_ACK_TIMEOUT (R151). -/
def execTcmAckTimeout (tid : Nat) (s : State) : Host.Outcome State Fault Refusal := .next (ackTimeout s tid)
/-- CHN_TCM_TX (R152): requester, channel, the value of word 10. -/
def execChnTcmTx (who : Requester) (c : Nat) (value : Word) (s : State) : Host.Outcome State Fault Refusal :=
  .next (tcmTxWrite s who c value)
/-- PLOAM_RECEIVE (R126): the channel, the terminal, the message's place among the upstream messages of R126, and its
fields. -/
def execPloamReceive (c tid typ serial delta idx : Nat) (wrapped : List Byte) (s : State) :
    Host.Outcome State Fault Refusal :=
  .next (dataUp s fun s => ploamReceive s c tid typ serial delta idx wrapped)

end Sys2Proof.Machine
end

