-- ==== Sys2Proof/Machine/Burst.lean ====
section
/-! DEFINITION. Upstream bursts (R100 to R117): their start, the delimiter search, failures, Terminal Lock Records, the trace
check, frames and their reassembly, loss and recovery of terminals (R154 to R156), and how a Transit lands (R234, R236).
Also the TLR commands, PM bins and constant-rate entries. -/
namespace Sys2Proof.Machine

/-! ## Bursts outstanding -/

def burstsOf (s : State) (c : Nat) : List GBurst := mget [] s.grant.bursts c
def setBursts (s : State) (c : Nat) (l : List GBurst) : State :=
  { s with grant := { s.grant with bursts := mset [] s.grant.bursts c l } }

/-- The record of slot k - 1 of a channel as fetched into a staging register; none for a registration grant, whose k is 0. -/
def stageFetch (s : State) (c k : Nat) : Nat × List Byte :=
  if k = 0 then (0, []) else (k, regBytes s (tlrAddr c (k - 1)) 16)
/-- The staging registers of a channel after a burst of slot cur - 1 starts, next being the slot + 1 of the burst after it
(R112): they swap, and the next record is fetched into the free one; a terminal that sends again keeps the live state. -/
def stageSwap (s : State) (c cur next : Nat) : State :=
  let live := mget (0, []) s.line.stageCur c
  let ready := mget (0, []) s.line.stageNext c
  let use := if live.1 = cur then live else if ready.1 = cur then ready else stageFetch s c cur
  { s with line := { s.line with
      stageCur := mset (0, []) s.line.stageCur c use
      stageNext := mset (0, []) s.line.stageNext c (if next = cur then (0, []) else stageFetch s c next) } }

/-- Slot + 1 of a burst's terminal, 0 for a registration grant. -/
def stageSlot (g : GBurst) : Nat := if g.tid = 0x7FFF then 0 else slotOfTid g.tid + 1

/-- START of the next granted burst of a channel comes (R108, R112): the staging registers swap and the burst-reset pulse is
sent. -/
def burstStart (s : State) (c : Nat) : State :=
  match (burstsOf s c).findIdx? fun g => !g.started with
  | none => s
  | some i =>
    match (burstsOf s c)[i]? with
    | none => s
    | some g => if islDown s c then s else
      let next := ((burstsOf s c)[i + 1]?.map stageSlot).getD 0
      let s := setBursts s c ((burstsOf s c).set i { g with started := true })
      let s := stageSwap s c (stageSlot g) next
      let cfg := rd s (Adr.chnOptCfg c)
      let rise := g.start + fld cfg 6 0
      emitPin s (.burstReset c rise (rise + fld cfg 14 8))

/-! ## Counts -/

/-- Adds n to a count within the second of a channel, and of the terminal slot of a granted burst's terminal (R121). -/
def secAdd (m : SMap Nat) (c : Nat) (g : GBurst) (n : Nat) : SMap Nat :=
  let put (m : SMap Nat) (i : Nat) : SMap Nat := mset 0 m i (mget 0 m i + n)
  if g.tid = 0x7FFF then put m (c * 513) else put (put m (c * 513)) (c * 513 + slotOfTid g.tid + 1)

/-- A registration grant counts for its channel only. -/
def pmBurst (s : State) (c : Nat) (g : GBurst) (counter n : Nat) : State :=
  if n = 0 then s
  else if g.tid = 0x7FFF then pmAddScope s c 0 counter n else pmAdd s c (slotOfTid g.tid) counter n

/-- The codewords of a burst (R86, R121). -/
def cwCount (s : State) (c : Nat) (g : GBurst) (cws : List CwResult) : State :=
  let bits := cws.foldl (fun n x => match x with | .good b => n + b | .uncorrectable => n) 0
  let corr := (cws.filter fun x => match x with | .good b => b != 0 | .uncorrectable => false).length
  let bad := (cws.filter fun x => x == .uncorrectable).length
  let s := pmBurst (pmBurst s c g 0 cws.length) c g 1 corr
  let s := pmBurst (pmBurst s c g 2 bad) c g 3 bits
  { s with line := { s.line with secUncorr := secAdd s.line.secUncorr c g bad } }

/-! ## Lost bursts (R106, R114, R154, R241) -/

/-- LOST_MISSES, at least 2. -/
def lostMisses (s : State) (t : Nat) : Nat := max 2 (rf s (Adr.treRegCfg t) 7 3)

/-- A granted burst of a terminal was not received: LOST_MISSES in a row move it to LOST; in a Transit that has switched they
end it. -/
def termMissed (s : State) (tid : Nat) : State :=
  let st := termEff s tid
  let lim := lostMisses s (treeOfTid tid)
  if st = tsRanging ∨ st = tsKeying ∨ st = tsActive then
    let n := mget 0 s.reg.misses tid + 1
    if lim ≤ n then termData s tid tsLost 1
    else { s with reg := { s.reg with misses := mset 0 s.reg.misses tid n } }
  else if st = tsTransit ∧ phSwitched ≤ trPhase s tid then
    match trRec s tid with
    | some r =>
      if lim ≤ r.misses + 1 then trLost s tid 1 rsNotLanded else setTrRec s tid { r with misses := r.misses + 1 }
    | none => s
  else s

/-- The grants of a burst to its allocations end: received, or lost and out of G_out (R172). -/
def grantsEnd (s : State) (g : GBurst) (recd : Bool) : State :=
  g.grants.foldl (fun s p =>
    let d := allocDyn s p.1
    let l := if recd then d.out.map fun o => if o.cycle = g.cycle then { o with recd := true } else o
             else d.out.filter fun o => o.cycle ≠ g.cycle
    setDyn s p.1 { d with out := l }) s

/-! ## Frames (R105, R106, R127, R367) -/

/-- Discards the partial frame of a stream of a terminal and its context, counted in FRAG_ERR (R106, R266). -/
def fragDrop (s : State) (c tid stream : Nat) : State :=
  let key := tid * 32 + stream
  if s.line.partials.any fun p => p.1 == key then
    let s := { s with line := { s.line with partials := mdel s.line.partials key } }
    pmAdd (ctxDiscard s c (slotOfTid tid) stream) c (slotOfTid tid) 13 1
  else s
/-- Discards the partial frame of each stream of a terminal. -/
def fragDropAll (s : State) (c tid : Nat) : State :=
  (s.line.partials.filter fun p => p.1 / 32 == tid).foldl (fun s p => fragDrop s c tid (p.1 % 32)) s
/-- The later fragments of a discarded frame are skipped, up to the stream's next frame start. -/
def fragSkipOn (s : State) (key : Nat) (on : Bool) : State :=
  { s with line := { s.line with
      fragSkip := if on then addNew s.line.fragSkip key else s.line.fragSkip.filter (· ≠ key) } }

/-- A lost burst: counted under the codes given and BURST_LOST; the TLR, the next report request and the terminal follow. No partial
frame of the terminal is continued in it, so that each is discarded (R105, R106). -/
def burstLost (s : State) (c : Nat) (g : GBurst) (codes : List Nat) : State :=
  let s := codes.foldl (fun s k => pmBurst s c g k 1) (pmBurst s c g 7 1)
  let s := { s with line := { s.line with secLost := secAdd s.line.secLost c g 1 } }
  let s := grantsEnd s g false
  if g.tid = 0x7FFF then s
  else
    let s := if isN200 s c then tlrLoss s c (slotOfTid g.tid) g.cold else s
    let s := { s with grant := { s.grant with lostLast := addNew s.grant.lostLast g.tid } }
    termMissed (fragDropAll s c g.tid) g.tid

/-- Bytes of an encapsulation frame on the line: header, payload and tag (R92); on a C50 channel no tag (R125). -/
def lineLen (s : State) (c : Nat) (f : EncFrame) : Nat :=
  8 + f.len + (if isN200 s c = true ∧ f.keyIdx ≠ 0 ∧ (f.frag = .whole ∨ f.frag = .last) then (if f.tag12 then 12 else 16) else 0)

/-- A whole client frame leaves the channel island: counted, and on to its pipeline; a management frame of a C50 channel goes
to the host ring named by its terminal's partition (R127): the receive ring of the partition's number (DESIGN CHOICE, assumption
log 155). -/
def usDeliver (s : State) (c tid : Nat) (h : UsItem) (data : List Byte) : State :=
  let aid := allocStream s tid h.f.stream
  let n := data.length
  let s := stat (stat s scTerm tid 2 1) scTerm tid 3 n
  let s := stat (stat s scChan c 0 1) scChan c 1 n
  let s := match aid with | some a => stat s scAlloc a 0 1 | none => s
  let cl : Clause := { tid := tid, chan := c, queue := aid.getD 0, len := n, buf := noBuf, tsIn := h.ts,
                       part := termPart s tid }
  let cl := if h.f.keyIdx = 0 then cl else cl.setFlag flagCipher
  let cl := if h.f.frag = .last then cl.setFlag flagFrag else cl
  if isC50 s c && h.f.stream == 31 then
    let f : Frame := { cl := { cl with kind := ClauseKind.mgmtFrame.code }, data := data }
    toRing s (termPart s tid) f 0
  else ingressPut s { fr := { cl := cl, data := data }, stream := h.f.stream, port := c }

/-- Counts the allocation bytes of a burst's frames, up to the first header that fails (R166, R172). -/
def usBytes (s : State) (c tid : Nat) (fs : List EncFrame) : State :=
  (fs.takeWhile (·.hecOk)).foldl (fun s f =>
    if f.tid ≠ tid then s
    else match allocStream s tid f.stream with
    | some a =>
      let n := lineLen s c f
      stat (setDyn s a { allocDyn s a with recv := (allocDyn s a).recv + n }) scAlloc a 1 n
    | none => s) s

/-- The cipher stage of a C50 fragment (R125): counter mode verifies nothing, so that a slot that is not EMPTY takes it, and its first
use makes a READY key the one in use. -/
def usC50 (s : State) (c tid : Nat) (f : EncFrame) : State × Bool :=
  let k := slotIx (slotOfTid tid) 1 (f.keyIdx - 1)
  if f.keyIdx = 0 then usCipher s c tid f
  else if keyEff s c k = ksEmpty then usNoKey s c
  else (usFirstUse s c k, true)

/-- A frame of a STREAM without a valid allocation is discarded and counted as NO_ALLOC, its later fragments with it (R167). -/
def usNoAlloc (s : State) (c tid : Nat) (f : EncFrame) : State :=
  let key := tid * 32 + f.stream
  let s := fragDrop s c tid f.stream
  let s := if key ∈ s.line.fragSkip ∧ (f.frag = .middle ∨ f.frag = .last) then s else geEvent (geCount s c 9 1) c 6
  fragSkipOn s key (decide (f.frag = .first ∨ f.frag = .middle))

/-- One encapsulation frame of a terminal, whose header holds; first tells whether it is the first of its STREAM in the burst
(R105, R106, R266). -/
def usFrame (s : State) (c tid : Nat) (h : UsItem) (first : Bool) : State :=
  let f := h.f
  let key := tid * 32 + f.stream
  let cont := decide (f.frag = .middle ∨ f.frag = .last)
  let fin := decide (f.frag = .whole ∨ f.frag = .last)
  let skip (s : State) : State := fragSkipOn s key (!fin)
  let hadPart := s.line.partials.any fun p => p.1 == key
  let s := if hadPart && (!cont || !first) then fragDrop s c tid f.stream else s
  let part := (s.line.partials.find? (·.1 = key)).map (·.2)
  if (allocStream s tid f.stream).isNone && !(isC50 s c && f.stream == 31) then usNoAlloc s c tid f
  else if cont && part.isNone then
    if key ∈ s.line.fragSkip then skip s else pmAdd s c (slotOfTid tid) 13 1
  else
    let s := if cont then s else fragSkipOn s key false
    if h.bad then
      let s := if f.frag = .first then pmAdd s c (slotOfTid tid) 13 1 else fragDrop s c tid f.stream
      skip s
    else if f.keyIdx = 3 then skip (fragDrop (pmAdd s c (slotOfTid tid) 6 1) c tid f.stream)
    else if cont && f.keyIdx == 0 && (ctxFind s c (slotOfTid tid) f.stream).isSome then skip (fragDrop s c tid f.stream)
    else
      let over0 := rdW s (Adr.chnCiphCnt c 8) 2
      let b := s
      let (s, ok) := if isC50 s c then usC50 s c tid f else usCipher s c tid f
      let s := if f.keyIdx ≠ 0 ∧ isN200 s c = true ∧ usWorn b s c (slotIx (slotOfTid tid) 1 (f.keyIdx - 1)) = true then keyReact s tid 1
        else s
      let bytes := (part.getD []) ++ f.payload
      let parts := mdel s.line.partials key
      if !ok then
        let s := { s with line := { s.line with partials := parts } }
        if rdW s (Adr.chnCiphCnt c 8) 2 = over0 then skip s else s
      else if fin then usDeliver { s with line := { s.line with partials := parts } } c tid h bytes
      else { s with line := { s.line with partials := mput parts key bytes } }

/-- The frames of one burst, in order; seen are the streams met in it. A failed header discards the rest of the burst and the
partial frame of each stream (R106). -/
def usFrames (c tid : Nat) : List UsItem → List Nat → State → State
  | [], _, s => s
  | h :: hs, seen, s =>
    if !h.f.hecOk then fragDropAll (pmAdd s c (slotOfTid tid) 6 1) c tid
    else if h.f.tid ≠ tid ∨ (h.f.stream = 31 ∧ isN200 s c = true) then usFrames c tid hs seen s
    else usFrames c tid hs (h.f.stream :: seen) (usFrame s c tid h (decide (¬ h.f.stream ∈ seen)))

/-- A burst's frames; then the partial frames of before it that it does not continue are discarded (R105, R106). -/
def usBurst (s : State) (c tid : Nat) (hs : List UsItem) : State :=
  let had := (s.line.partials.filter fun p => p.1 / 32 == tid).map fun p => p.1 % 32
  had.foldl (fun s st => if hs.any (fun h => h.f.tid == tid && h.f.stream == st) then s else fragDrop s c tid st)
    (usFrames c tid hs [] s)
/-- Several bursts' frames, each burst named by its cycle. -/
def usBursts (s : State) (c tid : Nat) (hs : List UsItem) : State :=
  (hs.map (·.cycle)).dedup.foldl (fun s k => usBurst s c tid (hs.filter fun h => h.cycle == k)) s

/-- Nanoseconds of time base 0, ns after the start of an upstream cycle (R85, R367). -/
def usTime (s : State) (c cycle ns : Nat) : Nat :=
  (baseNs s 0 + 2 ^ 40 + eqrtOf s (c / 4) + ns - (cycleNow s - cycle) * 15625) % 2 ^ 40

/-- The frames of a burst with their arrival: the information bytes before a header fix its codeword and so its place. On a C50
channel the place is that of G.9804.3, and payloads are deciphered in counter mode (R124, R125). -/
def usItems (s : State) (c : Nat) (g : GBurst) (rx : Reception) : List UsItem :=
  let bad (f : EncFrame) : Bool :=
    rx.cws.zipIdx.any fun p => p.1 == .uncorrectable && decide (f.firstCw ≤ p.2 ∧ p.2 ≤ f.lastCw)
  if isC50 s c then
    (rx.frames.foldl (fun (acc : List UsItem × Nat) f =>
      let o := acc.2
      let key := keyMat s c (slotIx (slotOfTid g.tid) 1 (f.keyIdx - 1))
      let f' := if f.keyIdx = 0 then f
        else { f with payload := Config.aesCtr key (Config.c50Counter 1 g.tid (g.cycle / 8) (g.start + o)) f.payload }
      (acc.1 ++ [⟨f', usTime s c g.cycle (Config.c50UsNs (persOf s c) g.start o), bad f, g.cycle⟩], o + lineLen s c f))
      ([], 0)).1
  else
    let head := 32 + 4 * (rx.hdr.rptCount - 4) + (if rx.hdr.tcm then 48 else 0)
    (rx.frames.foldl (fun (acc : List UsItem × Nat) f =>
      let o := acc.2
      let units := g.start + burstOverhead g.cold + (o + 152 * (o / 2048)) / 4
      (acc.1 ++ [⟨f, usTime s c g.cycle (units * 15625 / 110000), bad f, g.cycle⟩], o + lineLen s c f)) ([], head)).1

/-- Frames of a terminal on their way into its destination channel before US_DEST wait there, up to 256 KiB (R236). -/
def usHold (s : State) (c tid : Nat) (r : TransitRec) (l : List UsItem) : State :=
  let fits := l.foldl (fun (acc : List UsItem × Nat × Nat) h =>
    if acc.2.1 + lineLen s c h.f ≤ 262144 then (acc.1 ++ [h], acc.2.1 + lineLen s c h.f, acc.2.2)
    else (acc.1, acc.2.1, acc.2.2 + 1)) (r.held, (r.held.foldl (fun n h => n + lineLen s c h.f) 0), 0)
  let s := pmAdd s c (slotOfTid tid) 13 fits.2.2
  setTrRec s tid { r with held := fits.1, heard := true }

/-! ## Terminals heard (R143, R154 to R156) -/

/-- Whether a terminal holds a key slot that is not EMPTY in a direction on a channel. -/
def holdsKey (s : State) (c tid dir : Nat) : Bool :=
  [0, 1].any fun i => keyEff s c (slotIx (slotOfTid tid) dir i) != ksEmpty

/-- A recovery burst of a LOST terminal decodes on a channel (R154, R241): on the other channel of a Transit that ended
without an ACK the keys come from the bundle and W follows. -/
def recovered (s : State) (c tid : Nat) : State :=
  let s := match trRec s tid with
    | none => s
    | some r =>
      let src := termChan s tid
      let s := { s with transits := mdel s.transits tid }
      if src = c then s
      else
        let s := sendKek (setInfo s tid 36 35 (c % 4)) c tid
        moveSlots s src c tid r.bundle [0, 1, 2, 3]
  if holdsKey s c tid 0 && holdsKey s c tid 1 then termData s tid tsActive 0
  else keysStart (termData s tid tsKeying 0) tid

/-- Ranging upkeep (R155) at each accepted delimiter of a terminal's burst, apart from a registration's own ranging (R143): the mean of
the last 8 offsets beyond 8 symbols, or one beyond 1,000, which also sets FORCE_COLD, corrects EqD at the basic level of function
0. -/
def rangingKeep (s : State) (c tid : Nat) (ofs : Int) : State :=
  let b := basic s 0 (treeOfTid tid) && match regStep s tid with
    | some .assign => false
    | some (.ranging _) => false
    | some .check => false
    | _ => true
  let fresh (s : State) : State := { s with reg := { s.reg with ofs := mdel s.reg.ofs tid } }
  if 1000 < ofs.natAbs then
    let s := setTlrFlag s c (slotOfTid tid) tlrForceCold true
    if b then sendRanging (fresh s) tid (eqdLess s tid ofs) else fresh s
  else
    let l := ((mget [] s.reg.ofs tid) ++ [ofs])
    let l := l.drop (l.length - 8)
    let sum := l.foldl (· + ·) 0
    if l.length = 8 ∧ 64 < sum.natAbs then
      if b then sendRanging (fresh s) tid (eqdLess s tid (sum / 8)) else fresh s
    else { s with reg := { s.reg with ofs := mput s.reg.ofs tid l } }

/-- The trace check, and TRACE_REQ as the bit is set, at the basic level of function 0 (R116). -/
def traceStep (s : State) (c tid crc : Nat) : State :=
  let k := slotOfTid tid
  let was := traceBit s c k
  let s := traceCheck s c k crc
  if traceBit s c k && !was && basic s 0 (c / 4) then tcmSend s c (msgTo tid 0x0D false []) else s

/-- A burst with pattern B: the terminal is losing power (R156, R241). -/
def lastGasp (s : State) (tid : Nat) : State :=
  let st := termEff s tid
  if st = tsRanging ∨ st = tsKeying ∨ st = tsActive then setInfo (termData s tid tsLost 2) tid 24 24 1
  else if st = tsTransit then setInfo (trLastGasp s tid) tid 24 24 1
  else s

/-- A burst of the granted terminal whose prologue decodes: what the terminal's state makes of it, and then its frames. -/
def termHeard (s : State) (c : Nat) (g : GBurst) (rx : Reception) (gasp : Bool) (ofs : Int) : State :=
  let tid := g.tid
  let items := usItems s c g rx
  let st := termEff s tid
  let go (s : State) : State := usBurst s c tid items
  if gasp then lastGasp (go s) tid
  else
    let s := { s with reg := { s.reg with misses := mset 0 s.reg.misses tid 0 } }
    if st = tsLost then go (recovered s c tid)
    else if st = tsTransit ∧ phSwitched ≤ trPhase s tid ∧ trDest s tid = c then
      if rb s (trAddr tid) 22 then go (trLanded s tid)
      else match trRec s tid with
        | some r => usHold s c tid { r with misses := 0 } items
        | none => s
    else if isC50 s c || !g.cold then go s
    else match regStep s tid with
      | some .check => go (regCheck s tid ofs)
      | _ => go s

/-! ## Reception (R106, R109, R110) -/

/-- The delimiter of a burst (R109, R110): pattern, offset from the expected position in symbols, distance. On a C50 channel,
whose delimiters are those of G.9804.3, any window that is not empty holds one (R127). -/
def burstDelim (s : State) (c : Nat) (w : List Bool) : Option (Nat × Int × Nat) :=
  if isC50 s c then (if w.isEmpty then none else some (0, 0, 0))
  else
    let cfg := rd s (Adr.chnDelimCfg c)
    (delimSearch (fld cfg 10 8) (fld cfg 4 0) windowPositions 0 w).map fun h => (h.pattern, (h.pos : Int) - 1360, h.dist)

/-- Why a burst whose delimiter is found is lost: the counts beside BURST_LOST, and whether another TID than the granted one is the
reason; pattern C marks a registration burst, whose prologue may name 0x7FFF (R102, R103, R106). -/
def burstFault (g : GBurst) (rx : Reception) (pat : Nat) : Option (List Nat × Bool) :=
  if rx.cws.head? = some .uncorrectable then some ([], false)
  else if rx.hdr.crcOk = false then some ([5], false)
  else if rx.hdr.tid = g.tid ∨ (pat = 2 ∧ rx.hdr.tid = 0x7FFF) then none
  else some ([5], true)

/-- A granted burst whose delimiter is found. -/
def burstDecode (s : State) (c : Nat) (g : GBurst) (rx : Reception) (pat : Nat) (ofs : Int) (dist : Nat) : State :=
  let s := cwCount s c g rx.cws
  let keep (s : State) : State := if isN200 s c = true ∧ g.tid ≠ 0x7FFF then rangingKeep s c g.tid ofs else s
  match burstFault g rx pat with
  | some (codes, true) => rogueSuspect (burstLost s c g codes) c
  | some (codes, false) =>
    let s := keep s
    burstLost (if pat = 1 ∧ g.tid ≠ 0x7FFF then lastGasp s g.tid else s) c g codes
  | none =>
    let k := slotOfTid g.tid
    let s := { grantsEnd s g true with line := { s.line with heard := addNew s.line.heard c } }
    if g.tid = 0x7FFF then (if g.cold then pmBurst s c g 8 1 else s)
    else
      let s := keep s
      let s := if isN200 s c then
          let s := tlrUpdate s c k g.cold rx.dsp rx.quality g.cycle ofs dist
          let s := if g.cold then pmBurst s c g 8 1 else s
          traceStep s c g.tid rx.hdr.traceCrc
        else s
      let s := takeReports (usBytes s c g.tid rx.frames) c g.tid g.cycle (rx.reports.take rx.hdr.rptCount)
      let s := if isC50 s c then g.grants.foldl (fun s p => takeMonitor s p.1 g.cycle) s else s
      termHeard s c g rx (pat == 1) ofs

/-! ## The standby of a protection pair (R423, R424) -/

/-- A sample of a tree's trunk offset in ps: 16 that agree within 2 symbols, at most 100 us away, make it VALID; from then on it is
the mean of the last 16. -/
def trunkTake (s : State) (t : Nat) (late : Int) : State :=
  let l := mget [] s.prt.trunk t ++ [late]
  let l := l.drop (l.length - 16)
  let s := { s with prt := { s.prt with trunk := mput s.prt.trunk t l } }
  let hi := l.foldl max late
  let lo := l.foldl min late
  let mean := l.foldl (· + ·) 0 / 16
  if l.length = 16 ∧ mean.natAbs ≤ 100000000
      ∧ (rfW s (Adr.prtTrunk t) 2 31 31 = 1 ∨ (hi - lo) * 11264 ≤ 200000) then
    wfW (wfW s (Adr.prtTrunk t) 2 27 0 (unsigned 28 mean)) (Adr.prtTrunk t) 2 31 31 1
  else s

/-- A burst of the Maps heard on the standby: it learns the TLR, checks the trace identifier, verifies the frames under its key
copies and discards them. -/
def standbyHeard (s : State) (c : Nat) (g : GBurst) (rx : Reception) (ofs : Int) (dist : Nat) : State :=
  let k := slotOfTid g.tid
  if rx.cws.head? = some .uncorrectable ∨ rx.hdr.crcOk = false ∨ rx.hdr.tid ≠ g.tid then tlrLoss s c k g.cold
  else
    let s := tlrUpdate s c k g.cold rx.dsp rx.quality g.cycle ofs dist
    let s := traceCheck (setTlrFlag s c k tlrStandbyLearned true) c k rx.hdr.traceCrc
    let s := rx.frames.foldl (fun s f => if f.hecOk && f.tid == g.tid then (usCipher s c g.tid f).1 else s) s
    let s := { s with prt := { s.prt with heard := setBit s.prt.heard (c / 4) } }
    trunkTake s (c / 4) rx.late

/-- The granted burst g of a channel that runs is over (R106): the pattern found, not the kind of grant, decides how it is read
(R102); pattern C on a registration grant is REGISTRATION_BURST's, which takes the grant. -/
def burstOver (s : State) (c : Nat) (g : GBurst) (rx : Reception) : State :=
  let take (s : State) : State :=
    let s := setBursts s c ((burstsOf s c).drop 1)
    { s with line := { s.line with secGranted := secAdd s.line.secGranted c g 1 } }
  let gone (s : State) : State := if g.kind = 2 then inviteGone s c g.invite else s
  match burstDelim s c rx.window with
  | none =>
    let s := burstLost (gone (take s)) c g [4]
    if g.kind = 2 then evBit s (Adr.chnDiscEvent c) 4 c .corrected 0x0424 else s
  | some (pat, ofs, dist) =>
    if g.kind = 2 ∧ pat = 2 then s
    else
      let s := gone (take s)
      let (us, s) := fiPass s (Adr.fiCfgUs c) (some g.tid) (.burst (4 * (g.len - burstOverhead g.cold)))
      if us.isEmpty then burstLost s c g [4] else burstDecode s c g rx pat ofs dist

/-- The channel's oldest granted burst is over: nothing is received in an island that is lost or does not run (R20). -/
def burstReceive (s : State) (c : Nat) (rx : Reception) : State :=
  match burstsOf s c with
  | [] => s
  | g :: rest =>
    if islDown s c then s
    else if chnEff s c = chStandby then
      let s := setBursts s c rest
      match burstDelim s c rx.window with
      | none => tlrLoss s c (slotOfTid g.tid) g.cold
      | some (_, ofs, dist) => standbyHeard s c g rx ofs dist
    else burstOver s c g rx

/-! ## Upstream keys moved in a Transit (R234 step 7) -/

/-- The upstream keys and contexts arrive on the destination; frames held there are processed, and a terminal already heard
has landed. -/
def trUsMove (s : State) (tid : Nat) : State :=
  match trRec s tid with
  | none => s
  | some r =>
    if r.recover || decide (trPhase s tid < phSwitched) || rb s (trAddr tid) 22 then s
    else
      let dest := trDest s tid
      let s := trUsKeys s tid
      let s := match trRec s tid with | some r => setTrRec s tid { r with held := [] } | none => s
      let s := if r.heard then trLanded s tid else s
      usBursts s dest tid r.held

/-! ## TLR commands (R115) -/

/-- OP of CHN_TLR_CMD on one slot, or on all. -/
def tlrCmd (s : State) (c op k : Nat) : State :=
  match op with
  | 1 => tlrInvalidate s c k
  | 2 => setTlrFlag s c k tlrForceCold true
  | 3 => setTlrFlag s c k tlrPinned true
  | 4 => setTlrFlag s c k tlrPinned false
  | 5 => (List.range 512).foldl (fun s k => tlrInvalidate s c k) s
  | _ => s

/-- A write of CHN_TLR_CMD by the owner of function 9; other codes are ignored. -/
def tlrCmdWrite (s : State) (who : Requester) (c op k : Nat) : State :=
  let a := Adr.chnTlrCmd c
  if islDown s c then wrDown s who a
  else if isOwner s who c 9 (c / 4) = false then wrNotOwner s who a 9 (c / 4)
  else wrOk (tlrCmd s c op (k % 512)) who a

/-! ## Commands -/

/-- BURST_START (R112). -/
def execBurstStart (c : Nat) (s : State) : Host.Outcome State Fault Refusal := .next (dataUp s fun s => burstStart s c)
/-- BURST_RECEIVE (R106): the channel, and what its receiver takes from the line for its oldest granted burst. -/
def execBurstReceive (c : Nat) (rx : Reception) (s : State) : Host.Outcome State Fault Refusal :=
  .next (dataUp s fun s => burstReceive s c rx)
/-- TRANSIT_US_MOVE (R234). -/
def execTransitUsMove (tid : Nat) (s : State) : Host.Outcome State Fault Refusal := .next (trUsMove s tid)
/-- TLR_INVALIDATE (R115). -/
def execTlrInvalidate (who : Requester) (c k : Nat) (s : State) : Host.Outcome State Fault Refusal :=
  .next (tlrCmdWrite s who c 1 k)
/-- TLR_FORCE_COLD (R115). -/
def execTlrForceCold (who : Requester) (c k : Nat) (s : State) : Host.Outcome State Fault Refusal :=
  .next (tlrCmdWrite s who c 2 k)
/-- TLR_PIN (R115). -/
def execTlrPin (who : Requester) (c k : Nat) (s : State) : Host.Outcome State Fault Refusal :=
  .next (tlrCmdWrite s who c 3 k)
/-- TLR_UNPIN (R115). -/
def execTlrUnpin (who : Requester) (c k : Nat) (s : State) : Host.Outcome State Fault Refusal :=
  .next (tlrCmdWrite s who c 4 k)
/-- TLR_INVALIDATE_ALL (R115). -/
def execTlrInvalidateAll (who : Requester) (c : Nat) (s : State) : Host.Outcome State Fault Refusal :=
  .next (tlrCmdWrite s who c 5 0)
/-- PM_BIN_ROLLOVER (R120): the channel, whether the 24-hour bin ends, and the second of time base 0 at the new bin's start. -/
def execPmBinRollover (c : Nat) (day : Bool) (second : Nat) (s : State) : Host.Outcome State Fault Refusal :=
  .next (pmRollover s c day second)
/-- PM_DATA_READ (R123). -/
def execPmDataRead (who : Requester) (c : Nat) (s : State) : Host.Outcome State Fault Refusal :=
  .next (readUp s who c fun s => pmDataRead s who c)
/-- CHN_CRS_WRITE (R99): requester, channel, entry, the 64 bits written. -/
def execChnCrsWrite (who : Requester) (c i value : Nat) (s : State) : Host.Outcome State Fault Refusal :=
  .next (crsWrite s who c i value)

end Sys2Proof.Machine
end

