-- ==== Sys2Proof/Machine/Chan.lean ====
section
/-! DEFINITION. Channel resets and starts (R20, R118, R119), TREE resets and tree starts (R78, R81 to R83). -/
namespace Sys2Proof.Machine

/-! ## Registers returned by a reset (R14) -/

/-- Puts the registers of a reset domain that lie in an address range back to their reset values: the shared words, what
requesters hold of them, and staged words. -/
def dropRegs (s : State) (lo hi : Nat) (gone : RegDesc → Bool) : State :=
  let out (a : Nat) : Bool := decide (lo ≤ a) && decide (a < hi) && (regFind a).elim false fun r => gone r.desc
  { s with
    regs := s.regs.filter fun p => !out p.1
    unit := { changed := s.unit.changed.filter fun a => !out a, pend := s.unit.pend.filter fun p => !out p.1 }
    acc := { s.acc with
      perReq := s.acc.perReq.filter fun p => !out (p.1 % 2 ^ 28)
      stage := s.acc.stage.filter fun p => !out (p.1 % 2 ^ 28) } }

/-- The CHANNEL registers of channel c, but for its key slots, which are erased with a DETAIL of their own (R254). -/
def dropChanRegs (s : State) (c : Nat) : State :=
  gclEntriesClear (dropRegs s (0x2000000 + 0x40000 * c) (0x2000000 + 0x40000 * (c + 1)) fun d =>
    d.dom == .channel && d.id != .chnKeySlot) c

/-- The TREE registers of tree t. -/
def dropTreeRegs (s : State) (t : Nat) : State :=
  dropRegs s (0x1000000 + 0x4000 * t) (0x1000000 + 0x4000 * (t + 1)) fun d => d.dom == .tree

/-! ## A channel island stops (R20, R81, R119) -/

/-- Frames with bytes in a constant-rate FIFO: those that began in it, and one that began before it; a head frame that has
entered in part is still in its queue. -/
def crsFramesIn (f : CrsFifo) : Nat :=
  if f.data = [] then 0 else f.starts.length + b2n (f.starts.head? != some 0) - b2n (f.ofs != 0)

/-- The frames inside channel c's island are lost: those of its constant-rate FIFOs by queue, and partial upstream frames,
which count in FRAG_ERR (R20, R106). -/
def chanFramesLost (s : State) (c : Nat) : State :=
  let s := (List.range 64).foldl (fun s i =>
    let n := crsFramesIn (mget {} s.line.crsFifo (c * 64 + i))
    let q := nfld (rdW s (Adr.chnCrs c i) 2) 19 0
    lostFlight s q n) s
  let s := { s with line := { s.line with crsFifo := s.line.crsFifo.filter fun p => p.1 / 64 ≠ c } }
  (s.line.partials.filter fun p => treeOfTid (p.1 / 32) == c / 4 && termW s (p.1 / 32) == c % 4).foldl
    (fun s p => fragDrop s c (p.1 / 32) (p.1 % 32)) s

/-- What a channel's line, grant engine and discovery hold beside registers is forgotten. -/
def chanForget (s : State) (c : Nat) : State :=
  let l := s.line
  let g := s.grant
  let q := allocsWhere s fun tid => treeOfTid tid == c / 4 && termW s tid == c % 4
  { s with
    line := { l with
      stageCur := mdel l.stageCur c, stageNext := mdel l.stageNext c
      traceBad := l.traceBad.filter fun p => p.1 / 512 ≠ c, traceOk := l.traceOk.filter fun p => p.1 / 512 ≠ c
      silent := mdel l.silent c, granted := l.granted.filter (· ≠ c), heard := l.heard.filter (· ≠ c)
      clauseSec := mdel l.clauseSec c, hdr := mdel l.hdr c, crs := mdel l.crs c, pkt := mdel l.pkt c
      crsTag12 := l.crsTag12.filter fun k => k / 64 ≠ c
      crsPend := l.crsPend.filter fun p => p.1 / 64 ≠ c }
    grant := { g with
      alloc := g.alloc.filter fun p => ¬ p.1 ∈ q
      books := mdel g.books c, quiet := mdel g.quiet c, eph := mdel g.eph c, bursts := mdel g.bursts c
      ptr := mdel g.ptr c, deferred := mdel g.deferred c, lastStart := mdel g.lastStart c, used := mdel g.used c
      built := mdel g.built c, gaps := mdel g.gaps c }
    reg := { s.reg with
      invites := s.reg.invites.filter fun p => p.1 / 256 ≠ c, nextInvite := mdel s.reg.nextInvite c
      epochs := mdel s.reg.epochs c, history := mdel s.reg.history c }
    sched := { s.sched with gcl := mdel s.sched.gcl c, pos := mdel s.sched.pos c }
    keys := { s.keys with coresOut := mdel s.keys.coresOut c, latched := s.keys.latched.filter (·.chan ≠ c) } }

/-- Channel c stops: Transits end or go on by R241, terminals in service on it are not heard and will register again, its
message queue and waits are gone (R151, R154), the bursts granted on it are not received, and its frames are lost (R20). -/
def chanStop (s : State) (c : Nat) : State :=
  let s := setBursts (trChanLost s c) c []
  let s := (chanTids s c).foldl (fun s tid =>
    let st := termEff s tid
    if st = tsRanging ∨ st = tsKeying ∨ st = tsActive then termData s tid tsLost 1 else s) s
  tcmClear (chanFramesLost s c) c

/-- Marks the current bins of a channel, and so those of its terminals, SUSPECT (R120). -/
def chanSuspect (s : State) (c : Nat) : State := pmSuspectMark s c 0

/-- What a reset clears in a channel island: key slots, TLRs, constant-rate FIFOs, CHANNEL registers (R119 step 1, R14). -/
def chanClear (s : State) (c : Nat) : State :=
  let s := chanSuspect s c
  dropChanRegs (chanForget (clearTlrs (keyEraseChan s c kdReset) c) c) c

/-! ## CHANNEL reset and channel start (R118, R119) -/

/-- On the standby of a pair a CHANNEL reset loses the channel's key copies, which the active sends again once told (R424). -/
def standbyReset (s : State) (c : Nat) : State :=
  if s.prt.standby then
    let live := ((keySlots s c).filter fun k => keyEff s c k != ksEmpty).map (keyKey c)
    { s with prt := { s.prt with keyNeed := s.prt.keyNeed ++ live, resets := addNew s.prt.resets c } }
  else s

/-- An accepted CHANNEL reset (R119 step 1). A channel that was entering Eclipse gives it up with REASON 2 (R243). -/
def chanReset (s : State) (c : Nat) : State :=
  let s := if chnEff s c = chEclipseEntering then wf s (Adr.chnEclStat c) 3 0 2 else s
  let s := chnInjectorsOff (unitAccept s (Adr.chnState c) chReset 0) c
  let s := setIsl (standbyReset s c) c islReset
  treeFollow (showEclipsed (showBypass (chanClear (chanStop s c) c)) (c / 4)) (c / 4)

/-- A write of RESET to CHN_STATE by the physical function (R83, R118, R477): it is absorbed by a COLD or WARM reset that
runs, and merged into a TREE reset. -/
def chanResetWrite (s : State) (who : Requester) (c expect : Nat) : State :=
  let a := Adr.chnState c
  if !isPfSide s who then wrRefuse s who a .notAuthorized
  else if s.boot.resetRun ≠ 0 then wrOk s who a
  else if expect ≠ uEpoch s a then wrStale s who a
  else if chnEff s c = chOff then wrRefuse s who a .outOfRange
  else if effState s (Adr.treState (c / 4)) = 1 then wrOk s who a
  else wrOk (chanReset s c) who a

/-- A channel island is lost by a fault (R20): it stops, its STATE is FAULT with the cause, and the loss is reported with severity
CONTAINED as 0x04F0 + DETAIL (CHN_EVENT). The island of an OFF wavelength is reported too, and its STATE stays OFF, which is the
plan's (R18, R117; DEDUCED, assumption log 50). -/
def chanLost (s : State) (c det : Nat) : State :=
  if chanValid s c = false ∨ islState s c = islLost then s
  else
    let s := setIsl (chanStop s c) c islLost
    raise (if chnEff s c = chOff then s else chnChange s c chFault det) c .contained (0x04F0 + det)

/-- A tree in RESET whose channel islands are all out of reset starts (R78). -/
def treeStartGo (s : State) (t : Nat) : State :=
  let a := Adr.treState t
  if effState s a = 1 ∧ ((List.range 4).all fun w => islState s (chanOf t w) != islReset) = true then
    treeFollow (dpChange s a 2 (effDetail s a % 16)) t
  else s

/-- The island reset of a channel is done; its lanes retrain (R119 step 2). -/
def chanIslandDone (s : State) (c : Nat) : State :=
  if chnEff s c = chReset ∧ islState s c = islReset then treeStartGo (setIsl s c islRun) (c / 4) else s

/-- The lane of a channel is trained: STARTING (R119 step 3); on the standby of a protection pair, STANDBY (R117). -/
def chanTrained (s : State) (c : Nat) : State :=
  if chnEff s c = chReset ∧ islState s c = islRun then
    chnChange s c (if s.prt.standby then chStandby else chStarting) 0
  else s

/-- A channel enters RUN: discovery goes on from ACCESS_INIT, and the tree follows (R119 step 4, R78). -/
def chanRun (s : State) (c : Nat) : State :=
  if chnEff s c = chStarting then
    chnChange (wf s (Adr.chnComaStat c) 31 28 (accessInit s (c / 4))) c chRun 0
  else s

/-- A channel not in RUN 100 ms after its reset or its tree's start is lost and enters FAULT with DETAIL 2 (R78, R117, R119). -/
def chanStartTimeout (s : State) (c : Nat) : State :=
  if chnEff s c = chReset ∨ chnEff s c = chStarting then chanLost s c 2 else s

/-- A waking channel not in RUN within 20 ms is lost and enters FAULT with DETAIL 2 (R117, R245). -/
def wakeTimeout (s : State) (c : Nat) : State :=
  if chnEff s c = chWaking then chanLost s c 2 else s

/-! ## Tree start and TREE reset (R78, R81 to R83) -/

/-- One channel of a starting tree: OFF and gated when its tree or wavelength is off, else in RESET (R78, R117). -/
def chanStartFrom (s : State) (c : Nat) : State :=
  let a := Adr.chnState c
  if !chanValid s c then s
  else if persOf s c = 3 then
    let s := if uState s a = chOff then s else unitAccept s a chOff 0
    setIsl s c islGated
  else setIsl (unitAccept s a chReset 0) c islReset

/-- A tree start: its channels start from the island reset on; a tree that is off reads OFF (R78). -/
def treeStart (s : State) (t : Nat) : State :=
  let a := Adr.treState t
  let s := if !treeEnabled s t then (if effState s a = 0 then s else unitAccept s a 0 0) else unitAccept s a 1 0
  (List.range 4).foldl (fun s w => chanStartFrom s (chanOf t w)) s

/-- What firmware and the engines hold of a tree's terminals and flows (R15). -/
def treeForget (s : State) (t : Nat) : State :=
  let own (tid : Nat) : Bool := treeOfTid tid == t
  let r := s.reg
  { s with
    reg := { r with
      steps := r.steps.filter fun p => !own p.1, anchor := mdel r.anchor t, ofs := r.ofs.filter fun p => !own p.1
      misses := r.misses.filter fun p => !own p.1, delta := r.delta.filter fun p => !own p.1
      nonce := r.nonce.filter fun p => !own p.1, tresp := r.tresp.filter fun p => !own p.1 }
    tcm := { s.tcm with
      wait := s.tcm.wait.filter fun p => !own p.1, aliveDn := s.tcm.aliveDn.filter fun p => !own p.1
      aliveUp := s.tcm.aliveUp.filter fun p => !own p.1 }
    keys := { s.keys with
      rot := s.keys.rot.filter fun p => !own (p.1 / 2), marks := s.keys.marks.filter fun p => !own (p.1 / 4) }
    grant := { s.grant with
      alloc := s.grant.alloc.filter fun p => treeOfAid p.1 ≠ t
      lastBurst := s.grant.lastBurst.filter fun p => !own p.1, lostLast := s.grant.lostLast.filter fun tid => !own tid }
    line := { s.line with
      partials := s.line.partials.filter fun p => !own (p.1 / 32), fragSkip := s.line.fragSkip.filter fun k => !own (k / 32) }
    transits := s.transits.filter fun p => !own p.1
    rogue := mdel s.rogue t }

/-- Everything of a tree that a TREE reset, or a wider one, ends: Transits with RESET, rotations, what its channels do,
queued frames, keys, TLRs and registers (R81, R82). -/
def treeClear (s : State) (t : Nat) : State :=
  let s := trReset s t
  let s := (usedTids s t).foldl (fun s tid => rotFail (rotFail s tid 0) tid 1) s
  let s := (List.range 4).foldl (fun s w =>
    chanClear (tcmClear (chanFramesLost (chnInjectorsOff s (chanOf t w)) (chanOf t w)) (chanOf t w)) (chanOf t w)) s
  showBypass (dropTreeRegs (treeForget (treeFlush s t) t) t)

/-- A TREE reset: the tree is cleared and starts again (R81, R83). -/
def treeReset (s : State) (t : Nat) : State := treeFollow (treeStart (treeClear s t) t) t

/-- A write of TRE_STATE (R25, R83, R475): RESET of a tree that is not OFF; it is absorbed by a running COLD or WARM reset
and merged into the TREE reset of an APPLY that names the tree. -/
def treeStateWrite (s : State) (who : Requester) (t expect v : Nat) : State :=
  let a := Adr.treState t
  if islDown s 336 then wrDown s who a
  else if !isPfSide s who then wrRefuse s who a .notAuthorized
  else if v = 1 ∧ s.boot.resetRun ≠ 0 then wrOk s who a
  else if expect ≠ uEpoch s a then wrStale s who a
  else if v ≠ 1 ∨ effState s a = 0 then wrRefuse s who a .outOfRange
  else if applyResets s t then wrOk s who a
  else wrOk (treeReset s t) who a

/-- A starting tree with no channel ready by its start + 250 ms enters FAULT with REASON 1 (R78). -/
def treeStartTimeout (s : State) (t : Nat) : State :=
  let a := Adr.treState t
  if (effState s a = 1 ∨ effState s a = 2) ∧ readyMask s t = 0 then treeFollow (dpChange s a 4 (16 + lostMask s t)) t
  else s

/-- The APPLY's TREE reset of a tree: the new record is loaded, then the tree is reset; a tree disabled or enabled by its
record follows it (R68, R70). -/
def applyTreeReset (s : State) (t : Nat) : State :=
  let s := treeClear s t
  let s := { s with img := { s.img with
    treeRec := mset 0 s.img.treeRec t (planRec (imgBody s.img.staged 2) t)
    applyReset := s.img.applyReset.filter (· ≠ t) } }
  let s := wfW s (Adr.prtTrunk t) 2 63 32 (trecEqrt (trec s t) * 1000)
  applyFinish (treeFollow (treeStart s t) t)

/-- CHN_STATE_RESET (R119). -/
def execChnStateReset (who : Requester) (c expect : Nat) (s : State) : Host.Outcome State Fault Refusal :=
  .next (if c < 256 then chanResetWrite s who c expect else s)
/-- CHANNEL_ISLAND_RESET_DONE (R119). -/
def execChannelIslandResetDone (c : Nat) (s : State) : Host.Outcome State Fault Refusal := .next (chanIslandDone s c)
/-- CHANNEL_LANE_TRAINED (R119). -/
def execChannelLaneTrained (c : Nat) (s : State) : Host.Outcome State Fault Refusal := .next (chanTrained s c)
/-- CHANNEL_RUN (R119). -/
def execChannelRun (c : Nat) (s : State) : Host.Outcome State Fault Refusal := .next (applyFinish (chanRun s c))
/-- CHANNEL_START_TIMEOUT (R119). -/
def execChannelStartTimeout (c : Nat) (s : State) : Host.Outcome State Fault Refusal := .next (chanStartTimeout s c)
/-- WAKE_TIMEOUT (R245). -/
def execWakeTimeout (c : Nat) (s : State) : Host.Outcome State Fault Refusal := .next (wakeTimeout s c)
/-- TREE_RESET (R81). -/
def execTreeReset (who : Requester) (t expect value : Nat) (s : State) : Host.Outcome State Fault Refusal :=
  .next (if t < 64 then treeStateWrite s who t expect value else s)
/-- TREE_START_TIMEOUT (R78). -/
def execTreeStartTimeout (t : Nat) (s : State) : Host.Outcome State Fault Refusal := .next (treeStartTimeout s t)

end Sys2Proof.Machine
end

