-- ==== Sys2Proof/Machine/Security.lean ====
section
/-! DEFINITION. The security module (R273 to R293): sessions and services (R276 to R278), self-tests and ERROR (R280,
R281), the DRBG (R282), KTKs (R283), checkpoints (R287), pairing keys (R290), tamper and zeroization (R291 to R293). -/
namespace Sys2Proof.Machine

/-! ## State of the module -/

def smSelftest : Nat := 0
def smOperational : Nat := 1
def smError : Nat := 2
def smZeroized : Nat := 3
/-- SEC_STATUS.STATE. -/
def secState (s : State) : Nat := rf s Adr.secStatus 31 28
/-- SEC_APPROVED follows the state, the running firmware and the sessions (R279). -/
def secUpd (s : State) : State := secShow s (leAt (imgBody s.img.running 11) 0 4)
def setSecState (s : State) (st : Nat) : State := secUpd (wf s Adr.secStatus 31 28 st)
/-- Updates the module's own state. -/
def secSet (s : State) (f : SecSt → SecSt) : State := { s with sec := f s.sec }
/-- Updates the vault. -/
def vaultSet (s : State) (f : VaultSt → VaultSt) : State := secSet s fun x => { x with vault := f x.vault }

/-- A FATAL event of island 337, whose LASTCODE no rule gives. -/
def secFatal (s : State) : State := raise (nextFree s) 337 .fatal (freeVal s % 2 ^ 16)

/-- Erases KTKs, KEK copies, the transport key and the DRBG state. -/
def secEraseKeys (s : State) : State :=
  let s := { s with keys := { s.keys with ktk := [], kek := [], chanKek := [] } }
  secSet s fun x => { x with transport := [], drbg := false }

/-- Every session ends (R277). -/
def endSessions (s : State) : State := secUpd (secSet s fun x => { x with role := [], chal := [] })
/-- The session of one function ends (R277). -/
def endSession (s : State) (fn : Nat) : State := secUpd (secSet s fun x => { x with role := mput x.role fn 0 })

/-! ## Self-tests and ERROR (R280, R281) -/

/-- A failed self-test: the module is in ERROR, every key slot is erased as an alarm, the keys are gone, and the event is
FATAL (R281). -/
def secError (s : State) (test : Nat) : State :=
  let s := setSecState (wf s Adr.secStatus 23 16 test) smError
  secUpd (secFatal (secEraseKeys (keyEraseAll s kdAlarm)))

/-- A conditional self-test fails (R281): a failed image verification (0x0D) refuses its image only. -/
def conditionalFail (s : State) (test : Nat) : State :=
  if 9 ≤ test ∧ test ≤ 12 ∧ (secState s = smOperational ∨ secState s = smSelftest) then secError s test else s

/-- After a zeroization P2 finds the key-wrapping area blank, and so it is at the first boot: new wrapping keys and
identity keys, no certificate, no pairing, no User credentials, checkpoints at 0 (R283, R293). -/
def vaultRenew (s : State) : State :=
  if s.sec.vault.blank then
    vaultSet s fun v => { v with
      blank := false, kwkGen := v.kwkGen + 1, idGen := v.idGen + 1, cert := [], pair := none, userCred := [], chk := [] }
  else s

/-- The SEQ and value of a counter's newest checkpoint (R286, R287). -/
def chkNewest (s : State) (i : Nat) : Nat × Nat :=
  (List.range 8).foldl (fun b k => let r := mget (0, 0) s.sec.vault.chk (i * 8 + k); if b.1 < r.1 then r else b) (0, 0)
/-- After a restart each counter resumes at its newest checkpoint + 2^32 (R287). -/
def chkResume (s : State) : State :=
  [0, 1].foldl (fun s i =>
    let v := (chkNewest s i).2 + 2 ^ 32
    secSet s fun x => { x with ctr := mset 0 x.ctr i v }) s

/-- The self-tests of P2 end (R280): the module is OPERATIONAL, or in ERROR. -/
def secP2 (s : State) (fail : Nat) : State :=
  if fail ≠ 0 then secError s fail
  else
    let s := drbgSeed (chkResume (vaultRenew s))
    let s := wf s Adr.secStatus 8 8 (b2n s.sec.vault.cert.isEmpty)
    setSecState s smOperational

/-! ## Sessions (R275 to R277) -/

def roleCo : Nat := 1
def roleUser : Nat := 2
/-- The role a function's session has. -/
def sessionOf (s : State) (fn : Nat) : Nat := mget 0 s.sec.role fn
/-- The partition of a function's User: p for virtual function p, 0 for the physical function (R275). -/
def userPart (fn : Nat) : Nat := fn - 1
/-- The requester that a command's function is. -/
def fnRequester (fn : Nat) : Requester := if fn = 0 then .pf else .vf (fn - 1)

/-- A read of SEC_CHALLENGE word 0 draws a challenge for its requester; the words hold it, first byte in the top bits
(R276). With the DRBG's state erased there is none to draw, and the words read 0 (R281, R291; DEDUCED, assumption log 109). -/
def challengeRead (s : State) (who : Requester) : State :=
  let (b, s) := if s.sec.drbg then drbgDraw s 48 else ([], s)
  let s := secSet s fun x => { x with chal := mput x.chal who.code b }
  let s := (List.range 12).foldl (fun s j =>
    wrReq s who (Adr.secChallenge j) (BitVec.ofNat 32 (ofBytesBE ((b.drop (4 * j)).take 4)))) s
  ret s who (rdReq s who (Adr.secChallenge 0))

/-- Whether a login's proof holds for a challenge (R275, R276): the Crypto Officer's signature by a key whose hash is a
credential, or the User's MAC. -/
def loginOk (s : State) (fn role : Nat) (chal key sig : List Byte) : Bool :=
  let msg := Config.sha384 chal ++ bytesLE 1 fn ++ bytesLE 1 role
  if role = roleCo then
    fn == 0 && s.sec.vault.coCred.any (fun p => p.2 == Config.sha384 key) && Config.ecdsaVerify key msg sig
  else if role = roleUser then
    let cred := mget [] s.sec.vault.userCred (userPart fn)
    !cred.isEmpty && sig == Config.hmac cred msg
  else false

/-- Counts failed Crypto Officer logins. -/
def coFails (s : State) : State := satF s Adr.secStatus 7 0 1

/-- LOGIN (R276): against the challenge latched for the function, which then is used up; eight failures in a row refuse the
role for 60 s. -/
def login (s : State) (c : CmdCtx) (role : Nat) (key sig : List Byte) : State × OutRec :=
  let k := c.fn * 4 + role % 4
  let who := fnRequester c.fn
  if role ≠ roleCo ∧ role ≠ roleUser then (s, refusal .outOfRange)
  else if k ∈ s.sec.refused then (if role = roleCo then coFails s else s, refusal .notAuthorized)
  else
    let chal := mget [] s.sec.chal who.code
    let s := secSet s fun x => { x with chal := mdel x.chal who.code }
    if !chal.isEmpty && loginOk s c.fn role chal key sig then
      let s := secSet s fun x => { x with role := mset 0 x.role c.fn role, fails := mdel x.fails k }
      let s := if role = roleCo then wf s Adr.secStatus 7 0 0 else s
      (secUpd s, doneRec)
    else
      let n := mget 0 s.sec.fails k + 1
      let s := if role = roleCo then coFails s else s
      let s := secSet s fun x => { x with
        fails := mset 0 x.fails k (if n = 8 then 0 else n), refused := if n = 8 then addNew x.refused k else x.refused }
      (s, refusal .notAuthorized)

/-! ## Services (R278) -/

/-- Whether a service may run in the module's state: in ERROR, and while ZEROIZED, only STATUS and ZEROIZE do (R281, R293). -/
def secReady (s : State) : Bool := secState s == smOperational

/-- A service that needs the Crypto Officer (R277, R278). -/
def coService (c : CmdCtx) (s : State) (f : State → State × OutRec) : State × OutRec :=
  if !secReady s then (s, refusal .moduleError)
  else if sessionOf s c.fn ≠ roleCo then (s, refusal .notAuthorized)
  else f s
/-- A service for the Crypto Officer and Users. -/
def anyService (c : CmdCtx) (s : State) (f : State → State × OutRec) : State × OutRec :=
  if !secReady s then (s, refusal .moduleError)
  else if sessionOf s c.fn = 0 then (s, refusal .notAuthorized)
  else f s
/-- A service that writes a vault region (R286). -/
def vaultService (r : Nat) (s : State) (f : State → State × OutRec) : State × OutRec :=
  if regionBusy s r then (s, refusal .busy) else let (s, o) := f s; (if o.state = .done then regionWrite s r else s, o)

/-- CO_ENROL: the first credential, by the physical function within 600 s of a COLD reset (R276). -/
def coEnrol (s : State) (c : CmdCtx) (hash : List Byte) (ageS : Nat) : State × OutRec :=
  if !secReady s then (s, refusal .moduleError)
  else if c.fn ≠ 0 ∨ s.sec.vault.coCred ≠ [] ∨ 600 < ageS then (s, refusal .notAuthorized)
  else if hash.length ≠ 48 then (s, refusal .outOfRange)
  else vaultService vrHashes s fun s => (vaultSet s fun v => { v with coCred := [(0, hash)] }, doneRec)

/-- CO_CRED_SET: Crypto Officer credential hash 0 or 1. -/
def coCredSet (s : State) (c : CmdCtx) (i : Nat) (hash : List Byte) : State × OutRec :=
  coService c s fun s =>
    if 1 < i ∨ hash.length ≠ 48 then (s, refusal .outOfRange)
    else vaultService vrHashes s fun s => (vaultSet s fun v => { v with coCred := mput v.coCred i hash }, doneRec)

/-- USER_CRED_SET: the User credential of a partition. -/
def userCredSet (s : State) (c : CmdCtx) (p : Nat) (cred : List Byte) : State × OutRec :=
  coService c s fun s =>
    if 64 ≤ p ∨ cred.length ≠ 32 then (s, refusal .outOfRange)
    else vaultService vrUsers s fun s => (vaultSet s fun v => { v with userCred := mput v.userCred p cred }, doneRec)

/-- IMG_KEY_SET: the owner's image key hashes (R289). -/
def imgKeySet (s : State) (c : CmdCtx) (ec ml : List Byte) : State × OutRec :=
  coService c s fun s =>
    if ec.length ≠ 48 ∨ ml.length ≠ 48 then (s, refusal .outOfRange)
    else vaultService vrHashes s fun s => (vaultSet s fun v => { v with ownerEc := [ec], ownerMl := [ml] }, doneRec)

/-- Writes bytes to host memory. -/
def putHost (s : State) (a : Nat) (b : List Byte) : State := { s with hostMem := mputBytes 0 s.hostMem a b }

/-- A message signed by both identity keys. -/
def signed2 (s : State) (m : List Byte) : List Byte :=
  Config.ecdsaSign s.sec.vault.idGen m ++ Config.mldsaSign s.sec.vault.idGen m

/-- The label of a key derivation. -/
def labelKtk : List Byte := "CS6400 KTK".toUTF8.toList.map fun b => BitVec.ofNat 8 b.toNat
def labelPair : List Byte := "CS6400 PAIR".toUTF8.toList.map fun b => BitVec.ofNat 8 b.toNat

/-- KTK_ESTABLISH (R283): the module's ephemeral public key, signed, goes to the buffer of the command; the derived key
replaces KTK[p]. -/
def ktkEstablish (s : State) (c : CmdCtx) (p : Nat) (pub : List Byte) : State × OutRec :=
  anyService c s fun s =>
    if 64 ≤ p then (s, refusal .outOfRange)
    else if sessionOf s c.fn = roleUser ∧ userPart c.fn ≠ p then (s, refusal .notAuthorized)
    else
      let (secret, s) := drbgDraw s 48
      let own := Config.ecdhPublic secret
      let k := Config.kdf (Config.ecdh secret pub) (labelKtk ++ bytesLE 1 p ++ pub ++ own)
      let s := { s with keys := { s.keys with ktk := mset [] s.keys.ktk p k } }
      (putHost s c.addr (own ++ signed2 s own), doneRec)

/-- ATTEST: a host nonce signed with both identity keys. -/
def attest (s : State) (c : CmdCtx) (nonce : List Byte) : State × OutRec :=
  anyService c s fun s => (putHost s c.addr (signed2 s nonce), doneRec)

/-- IDENTITY_CERT_SET: the certificate chain, from host memory (R285: at most 6 KiB). -/
def certSet (s : State) (c : CmdCtx) (len : Nat) : State × OutRec :=
  coService c s fun s =>
    if len = 0 ∨ 6144 < len then (s, refusal .outOfRange)
    else vaultService vrIdentity s fun s =>
      let b := mbytes 0 s.hostMem c.addr len
      (wf (vaultSet s fun v => { v with cert := b }) Adr.secStatus 8 8 0, doneRec)

/-- RANDOM: 16 to 4,096 DRBG bytes to a host buffer. -/
def random (s : State) (c : CmdCtx) (n : Nat) : State × OutRec :=
  anyService c s fun s =>
    if n < 16 ∨ 4096 < n then (s, refusal .outOfRange)
    else let (b, s) := drbgDraw s n; (putHost s c.addr b, doneRec)

/-- SELF_TEST reruns the power-up tests; fail names the one that failed, if any (R278, R280). -/
def selfTest (s : State) (c : CmdCtx) (fail : Nat) : State × OutRec :=
  coService c s fun s => if 1 ≤ fail ∧ fail ≤ 8 then (secError s fail, refusal .moduleError) else (s, doneRec)

/-- STATUS reads the SEC registers: SEC_STATUS is what its function reads. -/
def statusService (s : State) (c : CmdCtx) : State × OutRec := (ret s (fnRequester c.fn) (rd s Adr.secStatus), doneRec)

/-! ## The pairing key (R290) -/

/-- The module's own DIK_EC key hash. -/
def dikHash (s : State) : List Byte := Config.sha384 (Config.dikPublic s.sec.vault.idGen)
/-- Two hashes in ascending order. -/
def hashPair (a b : List Byte) : List Byte := if ofBytesBE a ≤ ofBytesBE b then a ++ b else b ++ a

/-- The partner's part of a pairing as the link brings it: its ephemeral public key, its DIK_EC public key, its signature. -/
structure PairAnswer where
  pub : List Byte
  dik : List Byte
  sig : List Byte
  deriving DecidableEq, Repr

/-- The pairing record is written when the partner's signature and hash verify; else nothing is (R290). -/
def pairComplete (s : State) (p : PairProv) (a : PairAnswer) : State :=
  if Config.sha384 a.dik = p.hash ∧ Config.ecdsaVerify a.dik a.pub a.sig = true then
    let own := dikHash s
    let z := Config.ecdh p.secret a.pub
    let ctx := labelPair ++ hashPair own p.hash
    let rec_ : PairRec := { key := Config.kdf z ctx, pairId := (Config.kdf z (ctx ++ [1])).take 16,
                            role := if ofBytesBE own < ofBytesBE p.hash then 0 else 1, factory := false, partner := p.hash }
    let s := regionWrite (vaultSet s fun v => { v with pair := some rec_ }) vrPairing
    ticketPut (secSet s fun x => { x with prov := none }) p.ticket doneRec
  else s

/-- PAIR_PROVISION (R290). -/
def pairProvision (s : State) (c : CmdCtx) (hash : List Byte) (answer : Option PairAnswer) : State :=
  let (s', o) := coService c s fun s =>
    if hash.length ≠ 48 then (s, refusal .outOfRange)
    else if s.sec.vault.pair ≠ none ∨ s.sec.prov ≠ none ∨ regionBusy s vrPairing = true then (s, refusal .busy)
    else (s, {})
  if o.state ≠ .accepted then cmdPut s' c o
  else
    let (secret, s) := drbgDraw (cmdPut s' c {}) 48
    let p : PairProv := ⟨.cmd c, hash, secret⟩
    let s := secSet s fun x => { x with prov := some p }
    match answer with
    | some a => pairComplete s p a
    | none => s

/-- A provisioning not complete within 1 s ends NOT_DONE and writes nothing; its STATUS is stated nowhere (R290). -/
def pairTimeout (s : State) : State :=
  match s.sec.prov with
  | none => s
  | some p =>
    let st := freeVal s % 256
    ticketPut (nextFree (secSet s fun x => { x with prov := none })) p.ticket { state := .notDone, status := st }

/-- The pairing ends: the record is erased, and the pair that it formed is formed no more (R290, R293, R411). -/
def pairForget (s : State) : State :=
  let s := vaultSet s fun v => { v with pair := none }
  wfW { s with prt := { s.prt with formed := false } } Adr.prtLinkStat 2 55 55 0
/-- UNPAIR erases the pairing record (R290). -/
def unpair (s : State) (c : CmdCtx) : State × OutRec :=
  coService c s fun s => vaultService vrPairing s fun s => (pairForget s, doneRec)

/-! ## Tamper and zeroization (R291 to R293) -/

/-- A tamper source trips (R291): its bit is set and the module is zeroized: sessions end, every key slot and key is
erased, the event is FATAL, and the erase of the key-wrapping area follows. -/
def zeroize (s : State) (src : Nat) : State :=
  let s := wb s Adr.secTamper src true
  let s := endSessions (setSecState s smZeroized)
  let s := secEraseKeys (keyEraseAll (secFatal s) kdAlarm)
  secUpd (secSet s fun x => { x with erasing := x.erasing ++ [src], prov := none })

/-- The key-wrapping area reads back blank; what it wrapped is unusable; a tamper log record is written for each source that
tripped, with the time of base 0 (R291 steps 3 and 4). -/
def wrappingErased (s : State) : State :=
  if s.sec.erasing = [] then s
  else
    let t := baseTime s 0
    let s := s.sec.erasing.foldl (fun s src => vaultSet s fun v => { v with
      tamperLog := mput v.tamperLog (v.logCount % 256) (2 ^ src, t), logCount := v.logCount + 1 }) s
    let s := vaultSet (pairForget s) fun v => { v with blank := true, userCred := [] }
    secSet s fun x => { x with erasing := [] }

/-- A write of SEC_ZEROIZE: only the physical function, and only with CONFIRM (R291, R475). -/
def zeroizeWrite (s : State) (who : Requester) (v : Word) : State :=
  let a := Adr.secZeroize
  if islDown s (islandOf a) then wrDown s who a
  else if !isPfSide s who then wrRefuse s who a .notAuthorized
  else if fld v 15 0 = 0x5EC0 then wrOk (zeroize s 0) who a
  else wrOk s who a

/-- ZEROIZE, by the physical function (R278). -/
def zeroizeService (s : State) (c : CmdCtx) : State × OutRec :=
  if c.fn ≠ 0 then (s, refusal .notAuthorized) else (zeroize s 0, doneRec)

/-- FI_UNLOCK: refused with BUSY unless every key slot is EMPTY and no KTK is held (R292). -/
def fiUnlock (s : State) (c : CmdCtx) : State × OutRec :=
  coService c s fun s =>
    if s.keys.ktk ≠ [] ∨ ((List.range 256).any fun ch => (keySlots s ch).any fun k => keyEff s ch k != ksEmpty) = true then
      (s, refusal .busy)
    else (secUpd (wb (wb s Adr.secApproved 5 true) Adr.secApproved 4 true), doneRec)

/-- The end of an unlock: all key slots, KTKs and KEK copies are erased (R292). -/
def fiRelock (s : State) : State :=
  let s := { keyEraseAll s kdCommand with keys := { (keyEraseAll s kdCommand).keys with ktk := [], kek := [], chanKek := [] } }
  secUpd (wb (wb s Adr.secApproved 5 false) Adr.secApproved 4 false)

/-! ## Checkpoints and the DRBG (R282, R287) -/

/-- The checkpoint of a changed counter goes to its next slot, at most once a second (R287). -/
def checkpoint (s : State) (i : Nat) : State :=
  let (n, v) := chkNewest s i
  let x := mget 0 s.sec.ctr i
  if i < 2 ∧ x ≠ v ∧ regionBusy s (4 + i) = false then
    let s := regionWrite s (4 + i)
    vaultSet s fun w => { w with chk := mput w.chk (i * 8 + (n + 1) % 8) (n + 1, x) }
  else s

/-- Runs a security command that is final at once. -/
def secCmd (s : State) (r op : Nat) (f : State → CmdCtx → State × OutRec) : State := runCmdNow s r op f

/-! ## Commands -/

/-- SEC_CHALLENGE_READ (R276). -/
def execSecChallengeRead (who : Requester) (s : State) : Host.Outcome State Fault Refusal :=
  .next (readUp s who 337 fun s => challengeRead s who)
/-- SESSION_TIMEOUT (R277): no service of its role for 900 s. -/
def execSessionTimeout (fn : Nat) (s : State) : Host.Outcome State Fault Refusal := .next (endSession s fn)
/-- LOGIN_LOCKOUT_EXPIRE (R276). -/
def execLoginLockoutExpire (fn role : Nat) (s : State) : Host.Outcome State Fault Refusal :=
  .next (secSet s fun x => { x with refused := x.refused.filter (· ≠ fn * 4 + role % 4) })
/-- DRBG_RESEED (R282). -/
def execDrbgReseed (s : State) : Host.Outcome State Fault Refusal := .next (if s.sec.drbg then drbgSeed s else s)
/-- CONDITIONAL_TEST_FAIL (R281). -/
def execConditionalTestFail (test : Nat) (s : State) : Host.Outcome State Fault Refusal := .next (conditionalFail s test)
/-- CHECKPOINT_WRITE (R287). -/
def execCheckpointWrite (counter : Nat) (s : State) : Host.Outcome State Fault Refusal := .next (checkpoint s counter)
/-- SEC_ZEROIZE_WRITE (R291). -/
def execSecZeroizeWrite (who : Requester) (value : Word) (s : State) : Host.Outcome State Fault Refusal :=
  .next (zeroizeWrite s who value)
/-- KEY_WRAPPING_AREA_ERASED (R291). -/
def execKeyWrappingAreaErased (s : State) : Host.Outcome State Fault Refusal := .next (wrappingErased s)
/-- PAIR_PROVISION_TIMEOUT (R290). -/
def execPairProvisionTimeout (s : State) : Host.Outcome State Fault Refusal := .next (pairTimeout s)
/-- LOGIN (R276): role, the Crypto Officer's public key, the signature or MAC. -/
def execLogin (r role : Nat) (key sig : List Byte) (s : State) : Host.Outcome State Fault Refusal :=
  .next (secCmd s r 0x5001 fun s c => if secReady s then login s c role key sig else (s, refusal .moduleError))
/-- LOGOUT (R277). -/
def execLogout (r : Nat) (s : State) : Host.Outcome State Fault Refusal :=
  .next (secCmd s r 0x5002 fun s c => if secReady s then (endSession s c.fn, doneRec) else (s, refusal .moduleError))
/-- STATUS (R278). -/
def execSecStatus (r : Nat) (s : State) : Host.Outcome State Fault Refusal := .next (secCmd s r 0x5003 statusService)
/-- ZEROIZE (R291). -/
def execZeroize (r : Nat) (s : State) : Host.Outcome State Fault Refusal := .next (secCmd s r 0x5004 zeroizeService)
/-- SELF_TEST (R280): the code of the test that fails, 0 when all pass. -/
def execSelfTest (r fail : Nat) (s : State) : Host.Outcome State Fault Refusal :=
  .next (secCmd s r 0x5005 fun s c => selfTest s c fail)
/-- CO_ENROL (R276): the key's hash, and the seconds since the COLD reset. -/
def execCoEnrol (r : Nat) (hash : List Byte) (ageS : Nat) (s : State) : Host.Outcome State Fault Refusal :=
  .next (secCmd s r 0x5006 fun s c => coEnrol s c hash ageS)
/-- CO_CRED_SET (R278). -/
def execCoCredSet (r slot : Nat) (hash : List Byte) (s : State) : Host.Outcome State Fault Refusal :=
  .next (secCmd s r 0x5007 fun s c => coCredSet s c slot hash)
/-- USER_CRED_SET (R278). -/
def execUserCredSet (r part : Nat) (cred : List Byte) (s : State) : Host.Outcome State Fault Refusal :=
  .next (secCmd s r 0x5008 fun s c => userCredSet s c part cred)
/-- IMG_KEY_SET (R289). -/
def execImgKeySet (r : Nat) (ec ml : List Byte) (s : State) : Host.Outcome State Fault Refusal :=
  .next (secCmd s r 0x5009 fun s c => imgKeySet s c ec ml)
/-- KTK_ESTABLISH (R283). -/
def execKtkEstablish (r part : Nat) (pub : List Byte) (s : State) : Host.Outcome State Fault Refusal :=
  .next (secCmd s r 0x500A fun s c => ktkEstablish s c part pub)
/-- ATTEST (R278). -/
def execAttest (r : Nat) (nonce : List Byte) (s : State) : Host.Outcome State Fault Refusal :=
  .next (secCmd s r 0x500B fun s c => attest s c nonce)
/-- IDENTITY_CERT_SET (R278). -/
def execIdentityCertSet (r len : Nat) (s : State) : Host.Outcome State Fault Refusal :=
  .next (secCmd s r 0x500C fun s c => certSet s c len)
/-- PAIR_PROVISION (R290): the partner's named hash, and its part of the exchange as it comes over the link, with its
ephemeral key, its DIK_EC key and its signature; none when it does not come. -/
def execPairProvision (r : Nat) (hash : List Byte) (answer : Option (List Byte × List Byte × List Byte)) (s : State) :
    Host.Outcome State Fault Refusal :=
  .next (runCmd s r 0x500D fun s c => pairProvision s c hash (answer.map fun a => ⟨a.1, a.2.1, a.2.2⟩))
/-- UNPAIR (R290). -/
def execUnpair (r : Nat) (s : State) : Host.Outcome State Fault Refusal := .next (secCmd s r 0x500E unpair)
/-- FI_UNLOCK (R292). -/
def execFiUnlock (r : Nat) (s : State) : Host.Outcome State Fault Refusal := .next (secCmd s r 0x500F fiUnlock)
/-- RANDOM (R278). -/
def execRandom (r n : Nat) (s : State) : Host.Outcome State Fault Refusal :=
  .next (secCmd s r 0x5011 fun s c => random s c n)
/-- FUNCTION_LEVEL_RESET (R277). -/
def execFunctionLevelReset (fn : Nat) (s : State) : Host.Outcome State Fault Refusal :=
  .next (endSession (secSet s fun x => { x with chal := mput x.chal (fnRequester fn).code [] }) fn)

end Sys2Proof.Machine
end

