-- ==== Sys2Proof/Machine/Time.lean ====
section
/-! DEFINITION. The time unit (R357 to R376): how the bases advance, offset samples and the servo, HOLDOVER, PPS and
time-of-day pins, capture inputs, and request lines that the unit raises (R406). -/
namespace Sys2Proof.Machine

/-! ## Bases (R358, R359) -/

def tbUnset : Nat := 0
def tbFreerun : Nat := 1
def tbLocked : Nat := 2
def tbHoldover : Nat := 3
/-- SRC of a base: 0 HOST, 1 PPS_IN, 2 NONE (R360). -/
def baseSrc (s : State) (b : Nat) : Nat := rf s (Adr.timTbCfg b) 31 30
def timSet (s : State) (f : TimeSt → TimeSt) : State := { s with tim := f s.tim }
def setBase (s : State) (b : Nat) (x : BaseSt) : State := timSet s fun t => { t with base := mput t.base b x }

/-- Sets TIME of a base from ticks. -/
def putBase (s : State) (b ticks : Nat) : State := wfW s (Adr.timTbTime b) 4 127 32 (ticksTime ticks)
/-- A base advances by one cycle. -/
def baseAdvance (s : State) (b : Nat) : State :=
  let x := baseOf s b
  let g := baseGain x 15625
  setBase (putBase s b (baseTicks s b + g.1)) b { x with frac := g.2 }

/-- STATE of a base in its two registers. -/
def setBaseState (s : State) (b st : Nat) : State := wf (wf s (Adr.timTbStat b) 31 28 st) (Adr.timTbTime b) 3 0 st
/-- Sets ADJ, held within its limits, and shows it in whole ppb (R359, R360). -/
def setAdj (s : State) (b : Nat) (a : Int) : State :=
  wf (setBase s b { baseOf s b with adj := a }) (Adr.timTbStat b) 23 0 (unsigned 24 (a / (ppbUnit : Nat)))

/-- Raises a time event (TIM_EVENT). -/
def timEvent (s : State) (bit : Nat) : State := evBit s Adr.timEvent bit 339 .corrected (0x0E00 + bit)

/-! ## Samples (R360 to R362) -/

/-- Keeps a value within -500,000 ppb to +500,000 ppb. -/
def clampPpb (a : Int) : Int := max (-500000 * (ppbUnit : Nat)) (min (500000 * (ppbUnit : Nat)) a)

/-- Shows a sample in TIM_TB_OFFSET. -/
def putOffset (s : State) (b : Nat) (th : Int) (refused : Bool) : State :=
  wrW s (Adr.timTbOffset b) (unsigned 48 th + (if refused then 2 ^ 63 else 0)) 2
/-- HELD and the held sample. -/
def setHeld (s : State) (b : Nat) (h : Option Int) : State :=
  wb (setBase s b { baseOf s b with held := h }) (Adr.timTbStat b) 27 h.isSome

/-- A LOCKED base enters HOLDOVER with ADJ frozen at I (R361). -/
def holdover (s : State) (b : Nat) : State :=
  if baseState s b = tbLocked then timEvent (setAdj (setBaseState s b tbHoldover) b (baseOf s b).integ) (8 + b) else s

/-- A sample of a set base, in 2^-16 ns (R360, R362): within STEP_THR the PI filter runs and the base is LOCKED; beyond, the
sample is held and refused. KP is in 2^-8 and KI in 2^-12 ppb per ns, so that I and ADJ come in 2^-28 ppb. -/
def sampleTake (s : State) (b : Nat) (th : Int) : State :=
  let thr : Int := (max 1 (rf s (Adr.timTbCfg b) 15 0) * 100 * 65536 : Nat)
  if -thr ≤ th ∧ th ≤ thr then
    let s := setHeld (putOffset s b th false) b none
    let x := baseOf s b
    let i := clampPpb (x.integ + (rf s (Adr.timTbServo b) 15 0 : Nat) * th)
    let s := setBase s b { x with integ := i, stepped := false }
    setBaseState (setAdj s b (clampPpb ((rf s (Adr.timTbServo b) 31 16 : Nat) * th * 16 + i))) b tbLocked
  else
    timEvent (holdover (setHeld (putOffset s b th true) b (some th)) b) (16 + b)

/-- A write of the high word of TIM_TB_OFFSET: a sample of a base whose SRC is HOST (R360). An UNSET base takes none. -/
def offsetWrite (s : State) (who : Requester) (b v : Nat) : State :=
  let a := Adr.timTbOffset b
  if islDown s 339 then wrDown s who a
  else if isOwner s who 339 4 0 = false then wrNotOwner s who a 4 0
  else
    let th := signed 48 (nfld v 47 0)
    let s := if baseSrc s b = 0 ∧ baseState s b ≠ tbUnset then sampleTake s b th else putOffset s b th false
    wrOk s who a

/-- A LOCKED base without a sample for HOLD_TIMEOUT (R361); a base with SRC NONE never enters HOLDOVER (R360). -/
def holdTimeout (s : State) (b : Nat) : State := if baseSrc s b = 2 then s else holdover s b

/-! ## Setting a base (R358, R363) -/

/-- Puts the time of a base at an offset into the cycle: the register's time moves with it. -/
def setBaseAt (s : State) (b ticks ofs : Nat) : State := putBase s b (ticks - (baseGain (baseOf s b) ofs).1)

/-- A base leaves UNSET (R358). -/
def baseFirstSet (s : State) (b ticks ofs : Nat) : State := setBaseState (setBaseAt s b ticks ofs) b tbFreerun

/-- A write of word 3 of TIM_TB_SET (R357, R358, R363, R475). -/
def tbSetWrite (s : State) (who : Requester) (b v ofs : Nat) : State :=
  let a := Adr.timTbSet b
  let t := nfld v 127 32
  if islDown s 339 then wrDown s who a
  else if !isPfSide s who then wrRefuse s who a .notAuthorized
  else if !timeOk t then wrRefuse s who a .outOfRange
  else if baseState s b = tbUnset then wrOk (baseFirstSet s b (timeTicks t) ofs) who a
  else wrOk (setBase s b { baseOf s b with staged := some t }) who a

/-! ## PPS_IN and the time-of-day input (R375) -/

/-- A request on a line (R406). -/
def dmaReq (s : State) (l : Nat) : State :=
  let a := Adr.dmaReqStat l
  if rf s a 7 0 = 255 then wb s a 31 true else wf s a 7 0 (rf s a 7 0 + 1)

/-- Nearest whole second, in seconds, of a time in ticks. -/
def nearestSec (ticks : Nat) : Nat := (ticks + 10 ^ 9 * 32768) / (10 ^ 9 * 65536)

/-- What an accepted edge gives base b, at recorded time t: S - t - IN_CORR, or the first setting of an UNSET base when a
message has named the edge (R358, R375). -/
def ppsSample (s : State) (ofs : Nat) (named : Option Nat) (b : Nat) : State :=
  if baseSrc s b ≠ 1 then s
  else
    let corr : Int := signed 16 (rfW s Adr.timPpsCfg 2 31 16) * 65536
    let t := baseAt s b ofs
    let at_ (sec : Nat) : Int := (sec * 10 ^ 9 * 65536 : Nat) - corr
    match baseState s b, named with
    | 0, some sec => baseFirstSet s b (at_ sec).toNat ofs
    | 0, none => s
    | _, some sec => sampleTake s b (at_ sec - (t : Int))
    | _, none => sampleTake s b (at_ (nearestSec t) - (t : Int))

/-- An edge of IN_POL on PPS_IN at an offset into the cycle (R375): coalesced within 900 ms of the last accepted one. -/
def ppsEdge (s : State) (ofs : Nat) : State :=
  let a := Adr.timPpsCfg
  if rfW s a 2 35 35 = 0 then s
  else if s.tim.ppsLast ≠ 0 ∧ devNs s ofs + 1 < s.tim.ppsLast + 900000000 then
    timEvent (satF s a 11 0 1) 6
  else
    let named := s.tim.tod
    let s := wb (timSet s fun t => { t with ppsLast := devNs s ofs + 1, tod := none }) Adr.timEvent 7 false
    (List.range 8).foldl (fun s b => ppsSample s ofs named b) s

/-- A time-of-day message received wholly at an offset into the cycle (R374, R375). -/
def todMessage (s : State) (m : List Byte) (ofs : Nat) : State :=
  let since := devNs s ofs + 1 - s.tim.ppsLast
  let good := m.length == 16 && ofBytesBE (m.take 3) == 0xC53A01 && ((m.getD 3 0).toNat.testBit 0)
    && crc16 (m.take 14) == ofBytesBE (m.drop 14)
  if !rb s Adr.timTodCfg 30 then s
  else if good && s.tim.ppsLast != 0 && decide (10000000 ≤ since) && decide (since ≤ 900000000) then
    timSet s fun t => { t with tod := some (ofBytesBE ((m.drop 4).take 6)) }
  else timEvent s 5

/-- No accepted edge for STUCK_S seconds (R375). -/
def ppsStuck (s : State) : State :=
  if rfW s Adr.timPpsCfg 2 35 35 = 1 ∧ rb s Adr.timEvent 7 = false then timEvent s 7 else s

/-! ## PPS_OUT and the time-of-day output (R373, R374) -/

/-- The time-of-day message that names the next pulse. -/
def todBytes (s : State) (b sec : Nat) : List Byte :=
  let cfg := Adr.timTodCfg
  let st := baseState s b
  let flags := 1 ||| rf s cfg 11 8 * 2 ||| (if st = tbHoldover then 2 else 0)
  let m := [0xC5, 0x3A, 0x01] ++ bytesBE 1 flags ++ bytesBE 6 sec ++ bytesBE 2 (rf s cfg 27 12) ++ bytesBE 1 b
    ++ bytesBE 1 st
  m ++ bytesBE 2 (crc16 m)

/-- The output number of PPS_OUT among the pulses sent; trigger outputs are 0 to 15. -/
def ppsOut : Nat := 16

/-- PPS_OUT at a whole second of OUT_TB, at an offset into the cycle, and the message after it (R373). -/
def ppsPulse (s : State) (ofs : Nat) : State :=
  let a := Adr.timPpsCfg
  let b := rfW s a 2 62 60
  if rfW s a 2 63 63 = 1 ∧ baseState s b ≠ tbUnset ∧ prtOutOk s = true then
    let o : Int := signed 12 (rfW s a 2 47 36) * 65536
    let sec := nearestSec ((baseAt s b ofs : Int) - o).toNat
    let s := emitPin s (.pulse ppsOut (rfW s a 2 59 48 * 100000))
    if rb s Adr.timTodCfg 31 then emitPin s (.tod (todBytes s b (sec + 1))) else s
  else s

/-! ## Capture inputs (R376) -/

def capOf (s : State) (i : Nat) : CapSt := mget {} s.tim.cap i
/-- Puts an input's records, with DEPTH. -/
def setCap (s : State) (i : Nat) (c : CapSt) : State :=
  wf (timSet s fun t => { t with cap := mput t.cap i c }) (Adr.timCapStat i) 20 16 c.fifo.length
/-- Raises the request line of an input's record (R406). -/
def capReq (s : State) (i : Nat) : State := dmaReq s (48 + i)

/-- STEP_COUNT of a base. -/
def stepCount (s : State) (b : Nat) : Nat := rfW s (Adr.timTbTime b) 4 31 16

/-- Puts a record into the FIFO of an input, or counts it in LOST when the FIFO is full. -/
def capPut (s : State) (i time : Nat) (rising stuck : Bool) : State :=
  let c := capOf s i
  if 16 ≤ c.fifo.length then satF s (Adr.timCapStat i) 15 8 1
  else
    let r := time * 2 ^ 32 + 2 ^ 31 + b2n rising * 2 ^ 30 + b2n stuck * 2 ^ 29 + min 255 c.absorbed * 2 ^ 16
      + stepCount s (rfW s (Adr.timCapCfg i) 2 60 58)
    capReq (setCap s i { c with fifo := c.fifo ++ [r], absorbed := 0 }) i

/-- Whether a time lies in an input's window [OPEN, CLOSE) (R365). -/
def capInWindow (s : State) (i t : Nat) : Bool :=
  let w := rdW s (Adr.timCapWin i) 8
  decide (nfld w 255 160 ≤ t) && decide (t < nfld w 159 64)

/-- An edge held for at least MIN_W, at the offset at which the level was first seen (R376). -/
def capEdge (s : State) (i : Nat) (rising : Bool) (ofs : Nat) : State :=
  let cfg := rdW s (Adr.timCapCfg i) 2
  if !nbit cfg 63 then s
  else
    let s := wb s (Adr.timCapStat i) 30 rising
    if !nbit (nfld cfg 62 61) (if rising then 0 else 1) then s
    else
      let s := wb s (Adr.timCapStat i) 31 false
      let t := ticksTime (baseAt s (nfld cfg 60 58) ofs)
      let now := devNs s ofs + 1
      let c := capOf s i
      if nbit cfg 57 && !capInWindow s i t then s
      else if c.last ≠ 0 ∧ now < c.last + max 1 (nfld cfg 31 16) * 1000 then
        setCap (satF s (Adr.timCapStat i) 7 0 1) i { c with absorbed := c.absorbed + 1 }
      else capPut (setCap s i { c with last := now }) i t rising false

/-- No accepted edge for STUCK_MS: one STUCK record (R376). -/
def capStuck (s : State) (i ofs : Nat) : State :=
  let cfg := rdW s (Adr.timCapCfg i) 2
  let a := Adr.timCapStat i
  if nbit cfg 63 && nfld cfg 15 0 != 0 && !rb s a 31 then
    let s := capPut s i (ticksTime (baseAt s (nfld cfg 60 58) ofs)) (rb s a 30) true
    timEvent (wb s a 31 true) 4
  else s

/-- Latches n words for a requester; word 0 is what the read returns. -/
def latchWords (s : State) (who : Requester) (a v : Nat) : Nat → State
  | 0 => s
  | n + 1 => latchWords (wrReq s who a (BitVec.ofNat 32 v)) who (a + 4) (v / 2 ^ 32) n

/-- A read of word 0 of TIM_CAP_FIFO removes the oldest record and latches its four words (R376). -/
def capRead (s : State) (who : Requester) (i : Nat) : State :=
  let c := capOf s i
  let r := c.fifo.headD 0
  let s := latchWords (setCap s i { c with fifo := c.fifo.drop 1 }) who (Adr.timCapFifo i) r 4
  ret s who (BitVec.ofNat 32 r)

/-! ## C50 time (R372) -/

/-- A write of SFC arms the latch of a C50 frame's start time. -/
def c50Arm (s : State) (who : Requester) (c : Nat) (v : Word) : State :=
  let a := Adr.chnTimeC50 c
  if islDown s c then wrDown s who (a + 12)
  else if isOwner s who c 4 0 = false then wrNotOwner s who (a + 12) 4 0
  else wrOk (wrW s a (v.toNat * 2 ^ 96) 4) who (a + 12)

/-- At the start of a downstream frame of a C50 channel whose superframe count is named, TIME is latched; bit 0 reads
LATCHED. -/
def c50Latch (s : State) (c sfc : Nat) : State :=
  let a := Adr.chnTimeC50 c
  let v := rdW s a 4
  if nbit v 0 = false ∧ nfld v 127 96 = sfc % 2 ^ 32 then
    let t := baseTime s (rfW s (Adr.chnTimeCfg c) 4 63 61)
    wrW s a (nfld v 127 96 * 2 ^ 96 + t / 2 * 2 + 1) 4
  else s

/-! ## Commands -/

/-- OFFSET_SAMPLE (R360). -/
def execOffsetSample (who : Requester) (b value : Nat) (s : State) : Host.Outcome State Fault Refusal :=
  .next (if b < 8 then offsetWrite s who b value else s)
/-- HOLD_TIMEOUT (R361). -/
def execHoldTimeout (b : Nat) (s : State) : Host.Outcome State Fault Refusal := .next (if b < 8 then holdTimeout s b else s)
/-- TB_SET (R358). -/
def execTbSet (who : Requester) (b value ofs : Nat) (s : State) : Host.Outcome State Fault Refusal :=
  .next (if b < 8 then tbSetWrite s who b value ofs else s)
/-- PPS_IN_EDGE (R375): an edge of IN_POL that held for 100 ns, at the instant it was first seen. -/
def execPpsInEdge (ofs : Nat) (s : State) : Host.Outcome State Fault Refusal := .next (ppsEdge s ofs)
/-- TOD_IN_MESSAGE (R375). -/
def execTodInMessage (msg : List Byte) (ofs : Nat) (s : State) : Host.Outcome State Fault Refusal :=
  .next (todMessage s msg ofs)
/-- PPS_STUCK (R375). -/
def execPpsStuck (s : State) : Host.Outcome State Fault Refusal := .next (ppsStuck s)
/-- PPS_OUT_PULSE (R373): the instant of the rising edge, ns after the cycle start. -/
def execPpsOutPulse (ofs : Nat) (s : State) : Host.Outcome State Fault Refusal := .next (ppsPulse s ofs)
/-- CAPTURE_EDGE (R376). -/
def execCaptureEdge (i : Nat) (rising : Bool) (ofs : Nat) (s : State) : Host.Outcome State Fault Refusal :=
  .next (if i < 8 then capEdge s i rising ofs else s)
/-- CAPTURE_STUCK (R376). -/
def execCaptureStuck (i ofs : Nat) (s : State) : Host.Outcome State Fault Refusal :=
  .next (if i < 8 then capStuck s i ofs else s)
/-- CAP_FIFO_READ (R376). -/
def execCapFifoRead (who : Requester) (i : Nat) (s : State) : Host.Outcome State Fault Refusal :=
  .next (if i < 8 then readUp s who 339 fun s => capRead s who i else s)
/-- C50_TIME_LATCH_ARM (R372). -/
def execC50TimeLatchArm (who : Requester) (c : Nat) (sfc : Word) (s : State) : Host.Outcome State Fault Refusal :=
  .next (if c < 256 then c50Arm s who c sfc else s)

end Sys2Proof.Machine
end

