-- ==== Sys2Proof/Machine/DmaCore.lean ====
section
/-! DEFINITION. Host receive rings (R399), the life of a DMA program beside its instructions: start, early ends, outcome
records (R400, R409, R410), request lines (R406), and the flash commands (R394). -/
namespace Sys2Proof.Machine

/-! ## Channels -/

def dsIdle : Nat := 0
def dsRunning : Nat := 1
def dsWaiting : Nat := 2
def dsDone : Nat := 3
def dsAborted : Nat := 4
def dsError : Nat := 5
/-- ERR of DMA_CH_STAT. -/
def deNone : Nat := 0
def deBadInstr : Nat := 1
def deAccess : Nat := 2
def deHost : Nat := 3
def deDevice : Nat := 4
def deWaitTimeout : Nat := 5
def deFetch : Nat := 6
def deLoopDepth : Nat := 7
def deLinkDown : Nat := 8

def dmaFld (s : State) (d hi lo : Nat) : Nat := rfW s (Adr.dmaChStat d) 2 hi lo
def setDmaFld (s : State) (d hi lo v : Nat) : State := wfW s (Adr.dmaChStat d) 2 hi lo v
def dmaState (s : State) (d : Nat) : Nat := dmaFld s d 63 60
def setDmaState (s : State) (d st : Nat) : State := setDmaFld s d 63 60 st
def dmaPc (s : State) (d : Nat) : Nat := dmaFld s d 43 32
def setDmaPc (s : State) (d pc : Nat) : State := setDmaFld s d 43 32 pc
def setResidue (s : State) (d n : Nat) : State := setDmaFld s d 31 0 n
/-- FUNC of a channel. -/
def dmaFn (s : State) (d : Nat) : Nat := rf s (Adr.dmaChCfg d) 30 24
def dmaGen (s : State) (d : Nat) : Nat := rf s (Adr.dmaChCfg d) 15 0
/-- The program of channel d while it is RUNNING or WAITING. -/
def dmaProg (s : State) (d : Nat) : Option DmaProg := (s.dma.prog.find? (·.1 = d)).map (·.2)
def setDmaProg (s : State) (d : Nat) (p : DmaProg) : State :=
  { s with dma := { s.dma with prog := mput s.dma.prog d p } }
/-- Changes the program of channel d, when one runs. -/
def dmaUpd (s : State) (d : Nat) (f : DmaProg → DmaProg) : State :=
  match dmaProg s d with
  | some p => setDmaProg s d (f p)
  | none => s
/-- Whether a channel is RUNNING or WAITING. -/
def dmaBusy (s : State) (d : Nat) : Bool := dmaState s d == dsRunning || dmaState s d == dsWaiting

/-- The outcome record of a program (R410). -/
def dmaRec (s : State) (d : Nat) (p : DmaProg) (r : OutRec) : OutRec :=
  { r with tag := p.tag, opcode := 0xF000 + d, gen := dmaGen s d, epoch := p.refused % 256, ustate := p.refused / 256,
           firstStatus := p.firstSt, detail := dmaFld s d 31 0, progress := p.done }

/-- Starts channel d's program: its record is written ACCEPTED (R400, R410). None: refused with OUT_OF_RANGE. -/
def dmaStart (s : State) (d : Nat) : Option State :=
  if dmaBusy s d || dmaGen s d == 0 || !rb s (Adr.dmaChCfg d) 31 then none
  else
    let tag := (mget 0 s.dma.starts d + 1) % 2 ^ 32
    let i := dmaFld s d 52 44
    let p : DmaProg := { idx := i % 256, tag := tag }
    let s := { s with dma := { s.dma with starts := mset 0 s.dma.starts d tag } }
    let s := setResidue (setDmaPc (setDmaFld (setDmaState s d dsRunning) d 59 55 0) d 0) d 0
    let s := setDmaProg s d p
    some (dmaOutPut s d ({ dmaRec s d p { state := .accepted } with flags := 128 * (i / 256 % 2) } : OutRec).bytes).1

/-- A program ends: its final record is written over its ACCEPTED one, at place idx of the ring (R393, R410). -/
def dmaFinal (s : State) (d : Nat) (p : DmaProg) (st err : Nat) (r : OutRec) : State :=
  let s := setDmaFld (setDmaState s d st) d 59 56 err
  let s := { s with dma := { s.dma with prog := mdel s.dma.prog d } }
  let old := rf s (dmaOutAddr d p.idx + 0x14) 7 7
  putRec s (dmaOutAddr d p.idx) { dmaRec s d p r with status := err, flags := r.flags + 128 * old }

/-- The end vector of a channel (DMA_CH_VEC), not while the link is down (R409). -/
def dmaEndVec (s : State) (d : Nat) : State :=
  if rb s (Adr.dmaChVec d) 31 && s.boot.linkUp then sendMsix s (dmaFn s d) (rf s (Adr.dmaChVec d) 10 0) else s

/-- Ends a program early (R409): the instruction at PC is the one stopped; RESIDUE stands in DMA_CH_STAT. -/
def dmaStop (s : State) (d st err : Nat) (partly lastBeat : Bool) : State :=
  match dmaProg s d with
  | none => s
  | some p =>
    let s := setDmaFld s d 55 55 (b2n lastBeat)
    dmaEndVec (dmaFinal s d p st err { state := if partly then .partly else .notDone, first := dmaPc s d,
                                       flags := 8 * b2n lastBeat }) d
/-- An ABORT, or the end of the link (R409). -/
def dmaAbort (s : State) (d err : Nat) : State := dmaStop s d dsAborted err true false
/-- An error of the program itself: NOT_DONE before any MOVE byte (R409). -/
def dmaFail (s : State) (d err : Nat) : State :=
  dmaStop s d dsError err (((dmaProg s d).map (·.any)).getD false) false
/-- Every running program ends as ABORT with LINK_DOWN (R75, R409). -/
def dmaLinkDown (s : State) : State := (List.range 32).foldl (fun s d => dmaAbort s d deLinkDown) s

/-- The function that owns a channel may write DMA_CH_CTL. -/
def dmaOwner (s : State) (who : Requester) (d : Nat) : Bool := fnOf s who == dmaFn s d

/-- A write of START (R400). -/
def dmaStartWrite (s : State) (who : Requester) (d : Nat) : State :=
  let a := Adr.dmaChCtl d
  if islDown s 340 then wrDown s who a
  else if !dmaOwner s who d then wrRefuse s who a .notOwner
  else match dmaStart s d with
    | some s => wrOk s who a
    | none => wrRefuse s who a .outOfRange

/-- A write of ABORT (R409); a channel that runs nothing has nothing to end. -/
def dmaAbortWrite (s : State) (who : Requester) (d : Nat) : State :=
  let a := Adr.dmaChCtl d
  if islDown s 340 then wrDown s who a
  else if !dmaOwner s who d then wrRefuse s who a .notOwner
  else wrOk (dmaAbort s d deNone) who a

/-! ## Request lines (R406) -/

/-- A write of DMA_REQ_RAISE: each set bit raises its line. -/
def reqRaiseWrite (s : State) (who : Requester) (v : Word) : State :=
  let a := Adr.dmaReqRaise
  if islDown s 340 then wrDown s who a
  else wrOk ((List.range 32).foldl (fun s l => if v.toNat.testBit l then dmaReq s l else s) s) who a

/-- A falling edge on DMA_REQ_N, held low for the time given in ns. -/
def reqEdge (s : State) (n heldNs : Nat) : State := if n < 8 ∧ 20 ≤ heldNs then dmaReq s (64 + n) else s

/-- Takes one request of a line for channel d, if there is one and no lower-numbered channel waits for it. -/
def reqTake (s : State) (d l : Nat) : Option State :=
  let n := rf s (Adr.dmaReqStat l) 7 0
  if l < 72 ∧ 0 < n ∧ ¬ (s.dma.prog.any fun p => decide (p.1 < d) && p.2.line == some l) then
    some (wf s (Adr.dmaReqStat l) 7 0 (n - 1))
  else none

/-! ## Host receive rings (R399) -/

/-- Descriptors of receive ring i. -/
def rxSize (s : State) (i : Nat) : Nat := 2 ^ clamp 6 12 (rfW s (Adr.dmaRxCfg i) 4 55 52)
/-- The descriptor as the device writes it back. -/
def rxDescriptor (addr : Nat) (f : Frame) : List Byte :=
  bytesLE 8 addr ++ bytesLE 2 f.data.length ++ bytesLE 1 (f.cl.kind % 16) ++ bytesLE 1 (f.cl.part % 64)
    ++ bytesLE 2 (f.cl.tid % 2 ^ 15) ++ bytesLE 1 f.cl.chan ++ bytesLE 1 (f.cl.tc % 8 + 128 * b2n (!f.trl.isEmpty))
    ++ bytesLE 4 (f.cl.sid % 2 ^ 20) ++ bytesLE 2 (f.cl.flags % 2 ^ 12) ++ bytesLE 5 f.cl.tsIn ++ bytesLE 4 0 ++ bytesLE 1 1

/-- The first frame for a host receive ring: written to the offered buffer with its descriptor, or dropped and counted in
RX_DROP; its buffer is freed either way. -/
def hostRingWrite (s : State) : State :=
  match s.flow.toHost with
  | [] => s
  | (i, f) :: rest =>
    let s := { s with flow := { s.flow with toHost := rest } }
    let cfg := rdW s (Adr.dmaRxCfg i) 4
    let prod := rfW s (Adr.dmaRxIdx i) 2 11 0 % rxSize s i
    let cons := rfW s (Adr.dmaRxIdx i) 2 43 32 % rxSize s i
    let at_ := nfld cfg 127 64 + 32 * cons
    let addr := ofBytesLE (mbytes 0 s.hostMem at_ 8)
    let size := ofBytesLE (mbytes 0 s.hostMem (at_ + 8) 4)
    let s := if f.cl.buf = noBuf then s else (bufFree s f.cl.buf (holderRing i) 340).1
    if !nbit cfg 63 || prod == cons || decide (size < f.data.length + f.trl.length) || !s.boot.linkUp then
      wfW s (Adr.dmaRxIdx i) 2 63 48 (satAdd 0xFFFF (rfW s (Adr.dmaRxIdx i) 2 63 48) 1)
    else
      let s := putHost (putHost s addr (f.data ++ f.trl)) at_ (rxDescriptor addr f)
      ringSource (wfW s (Adr.dmaRxIdx i) 2 43 32 ((cons + 1) % rxSize s i)) (374 + i)

/-! ## Flash commands (R394, R65) -/

/-- The flash offset of a slot's byte range; none outside the slot's 16 MiB. -/
def flashAt (slot ofs len : Nat) : Option Nat :=
  if slot < 2 ∧ ofs + len ≤ 0x1000000 then some (slot * 0x1000000 + ofs) else none
/-- A flash command of the physical function's ring over a range of a slot. -/
def flashCmd (s : State) (c : CmdCtx) (slot ofs len : Nat) (f : Nat → State) : State × OutRec :=
  match flashAt slot ofs len with
  | some a => if c.fn = 0 then (f a, doneRec) else (s, refusal .outOfRange)
  | none => (s, refusal .outOfRange)
def flashWrite (s : State) (c : CmdCtx) (slot ofs host len : Nat) : State × OutRec :=
  flashCmd s c slot ofs len fun a => { s with flash := mputBytes 0xFF s.flash a (mbytes 0 s.hostMem host len) }
/-- An erase covers every 64 KiB sector that the range touches. -/
def flashErase (s : State) (c : CmdCtx) (slot ofs len : Nat) : State × OutRec :=
  flashCmd s c slot ofs len fun a =>
    let lo := a / 65536 * 65536
    let hi := if len = 0 then lo else ceilDiv (a + len) 65536 * 65536
    { s with flash := s.flash.filter fun p => decide (p.1 < lo) || decide (hi ≤ p.1) }
def flashRead (s : State) (c : CmdCtx) (slot ofs host len : Nat) : State × OutRec :=
  flashCmd s c slot ofs len fun a => putHost s host (mbytes 0xFF s.flash a len)

/-- FLASH_WRITE (R394): ring, slot, offset, host address, length. -/
def execFlashWrite (r slot ofs host len : Nat) (s : State) : Host.Outcome State Fault Refusal :=
  .next (runCmdNow s r 0x0001 fun s c => flashWrite s c slot ofs host len)
/-- FLASH_ERASE (R394). -/
def execFlashErase (r slot ofs len : Nat) (s : State) : Host.Outcome State Fault Refusal :=
  .next (runCmdNow s r 0x0002 fun s c => flashErase s c slot ofs len)
/-- FLASH_READ (R394). -/
def execFlashRead (r slot ofs host len : Nat) (s : State) : Host.Outcome State Fault Refusal :=
  .next (runCmdNow s r 0x0003 fun s c => flashRead s c slot ofs host len)
/-- HOST_RING_WRITE (R399). -/
def execHostRingWrite (s : State) : Host.Outcome State Fault Refusal := .next (dataUp s hostRingWrite)
/-- DMA_START (R400): requester, channel. -/
def execDmaStart (who : Requester) (d : Nat) (s : State) : Host.Outcome State Fault Refusal :=
  .next (if d < 32 then dmaStartWrite s who d else s)
/-- DMA_ABORT (R409). -/
def execDmaAbort (who : Requester) (d : Nat) (s : State) : Host.Outcome State Fault Refusal :=
  .next (if d < 32 then dmaAbortWrite s who d else s)
/-- DMA_REQ_RAISE (R406). -/
def execDmaReqRaise (who : Requester) (value : Word) (s : State) : Host.Outcome State Fault Refusal :=
  .next (reqRaiseWrite s who value)
/-- DMA_REQ_EDGE (R406): the pin, and for how long it is held low, in ns. -/
def execDmaReqEdge (n heldNs : Nat) (s : State) : Host.Outcome State Fault Refusal := .next (reqEdge s n heldNs)

end Sys2Proof.Machine
end

