-- ==== Sys2Proof/Machine/Actions.lean ====
section
/-! DEFINITION. Timed actions (R377 to R380) and forced steps of a time base (R363, R364). -/
namespace Sys2Proof.Machine

/-! ## Slots -/

def actIdle : Nat := 0
def actArmed : Nat := 1
def actDone : Nat := 2
def actLate : Nat := 3
def actFailed : Nat := 4
def actFld (s : State) (n hi lo : Nat) : Nat := rfW s (Adr.timAct n) 8 hi lo
def setAct (s : State) (n hi lo v : Nat) : State := wfW s (Adr.timAct n) 8 hi lo v
def actTime (s : State) (n : Nat) : Nat := actFld s n 255 160
def actTb (s : State) (n : Nat) : Nat := actFld s n 159 157
def actKind (s : State) (n : Nat) : Nat := actFld s n 156 153
def actStatus (s : State) (n : Nat) : Nat := actFld s n 31 28
def actPeriod (s : State) (n : Nat) : Nat := actFld s n 149 120
def actExpect (s : State) (n : Nat) : Nat := actFld s n 103 96
def actArg0 (s : State) (n : Nat) : Nat := actFld s n 95 64
def setActStatus (s : State) (n st : Nat) : State := setAct s n 31 28 st

/-- The unit a GCL_INSTALL names. -/
def actGclUnit (a : Nat) : Nat := if nbit a 8 then 256 + nfld a 7 0 else nfld a 7 0
/-- Whether ARG0 and ARG1 of a kind are in range (R377). -/
def actArgsOk (s : State) (kind a0 a1 : Nat) : Bool :=
  match kind with
  | 1 => decide (8 ≤ a1 ∧ a1 ≤ 1000000000)
  | 2 => unitOk s (actGclUnit a0)
  | 3 => chanValid s (nfld a0 7 0) && slotDir (nfld a0 18 8) == 0
  | 4 => treeValid s (nfld a0 5 0)
  | 5 => true
  | 6 => true
  | 7 => chanValid s (nfld a0 7 0)
  | _ => false

/-- A write made as the current owner of function f at tree t (R377): it does not enter any requester's GLB_WRSTAT. The state,
and the status of the write (R26). -/
def actWrite (s : State) (f t : Nat) (w : State → Requester → State) : State × Nat :=
  let who : Requester := if owner s f t = 0 then .core 0 else .pf
  let acc := s.acc
  let s := w { s with acc := { acc with wrLast := mset {} acc.wrLast who.code {} } } who
  let st := (mget {} s.acc.wrLast who.code).status
  ({ s with acc := { s.acc with wrLast := acc.wrLast, wrBad := acc.wrBad, wrCount := acc.wrCount } }, st)

/-- A pulse of a trigger output (R377, R406). -/
def actPulse (s : State) (n : Nat) : State :=
  let a := actArg0 s n
  let o := nfld a 3 0
  let s := emitPin s (.pulse o (actFld s n 63 32))
  let s := timSet s fun t => { t with pulses := t.pulses.filter (·.1 ≠ n) ++ [(n, o, nbit a 4)] }
  dmaReq s (32 + o)

/-- The write of slot n at its instant, ofs ns after the cycle start, and its status. -/
def actDo (s : State) (n ofs : Nat) : State × Nat :=
  let a := actArg0 s n
  match actKind s n with
  | 1 => (actPulse s n, 0)
  | 2 =>
    let x := actGclUnit a
    actWrite s 2 (if x < 256 then x / 4 else 0) fun s who => gclInstallWrite s (if x < 256 then who else .pf) x
  | 3 =>
    let c := nfld a 7 0
    actWrite s 3 (c / 4) fun s who => keySlotWrite s who c (nfld a 18 8) (actExpect s n) ksActive
  | 4 =>
    let t := nfld a 5 0
    let v := nfld a 14 6 * 2 ^ 59 + nfld a 16 15 * 2 ^ 68 + actExpect s n * 2 ^ 72
    actWrite s 5 t fun s who => trReqWrite s who t v ofs
  | 5 => if islDown s 340 then (s, WrStatus.islandDown.code) else match dmaStart s (nfld a 4 0) with
    | some s => (s, 0)
    | none => (s, WrStatus.outOfRange.code)
  | 6 =>
    let (s, bad) := snapshot s ofs
    (s, if bad then WrStatus.busy.code else 0)
  | _ =>
    let c := nfld a 7 0
    actWrite s 5 (c / 4) fun s who => eclipseWrite s who c (actExpect s n) (if nbit a 8 then chWaking else chEclipseEntering)

/-- MISSED of a slot. -/
def actMissed (s : State) (n k : Nat) : State := setAct s n 19 12 (satAdd 255 (actFld s n 19 12) k)
/-- A time in ticks as the time fields show it. -/
def actNext (s : State) (n ticks : Nat) : State := setAct s n 255 160 (ticksTime ticks)

/-- After a run: a periodic slot with runs left takes the occurrence at `next`, in ticks; any other is DONE. -/
def actAfter (s : State) (n next : Nat) : State :=
  let count := actFld s n 119 104
  let left := mget 0 s.tim.left n
  if actPeriod s n = 0 ∨ (count ≠ 0 ∧ left = 0) then setActStatus s n actDone
  else
    let s := timSet s fun t => { t with left := mset 0 t.left n (left - 1) }
    actNext s n next

/-- One run of slot n (R377, R378, R380): a refused write ends the slot FAILED; a pulse due while the outputs of a paired device
are held is not output and counts in MISSED (R427). -/
def actRun (s : State) (n ofs : Nat) (late : Bool) (next : Nat) : State :=
  if actKind s n = 1 ∧ prtOutOk s = false then actAfter (actMissed s n 1) n next else
  let (s, st) := actDo s n ofs
  let s := setAct (setAct (setAct s n 27 27 (b2n late)) n 26 23 st) n 11 0 ((actFld s n 11 0 + 1) % 4096)
  if st = 0 then actAfter s n next else timEvent (setActStatus s n actFailed) 2

/-- Ticks of a slot's period. -/
def actPeriodTicks (s : State) (n : Nat) : Nat := actPeriod s n * 65536

/-- The instant of slot n has come (R365, R377): ofs ns after the cycle start, at the kind the row names. -/
def actDue (s : State) (kind n ofs : Nat) : State :=
  let t := timeTicks (actTime s n)
  if n < 64 ∧ actStatus s n = actArmed ∧ actKind s n = kind ∧ t ≤ baseAt s (actTb s n) ofs then
    actRun s n ofs false (t + actPeriodTicks s n)
  else s

/-- How many occurrences from time t on, a period apart, lie before `now`; 0 when t does not. -/
def actBehind (t period now : Nat) : Nat := if t < now then (if period = 0 then 1 else ceilDiv (now - t) period) else 0

/-- A commit with ARM = 1 arms the slot, or finds it late (R378). -/
def actArm (s : State) (n ofs : Nat) : State :=
  let s := setAct (setAct s n 31 23 0) n 19 0 0
  let s := timSet s fun t => { t with left := mset 0 t.left n (actFld s n 119 104) }
  let t := timeTicks (actTime s n)
  let limit := baseAt s (actTb s n) ofs + 200 * 65536
  if limit ≤ t then setActStatus s n actArmed
  else if actFld s n 152 152 = 0 then timEvent (setActStatus s n actLate) 3
  else
    let k := actBehind t (actPeriodTicks s n) limit
    let s := if actPeriod s n = 0 then s else actMissed s n (k - 1)
    actRun (setActStatus s n actArmed) n ofs true (t + k * actPeriodTicks s n)

/-- A write of word 7 of TIM_ACT[n]: the register's 256 bits, of which the device's own fields are ignored (R377, R378). -/
def actCommit (s : State) (who : Requester) (n v ofs : Nat) : State :=
  let a := Adr.timAct n
  if islDown s 339 then wrDown s who a
  else if !isPfSide s who then wrRefuse s who a .notAuthorized
  else
    let period := nfld v 149 120
    let bad := !actArgsOk s (nfld v 156 153) (nfld v 95 64) (nfld v 63 32) || decide (0 < period ∧ period < 1000)
      || decide (1000000000 < period) || baseState s (nfld v 159 157) == tbUnset || !timeOk (nfld v 255 160)
    if nbit v 151 && bad then wrRefuse s who a .outOfRange
    else
      let keep := putNfld (putNfld v 151 150 0) 31 0 (actFld s n 31 0)
      let s := wrW s a keep 8
      wrOk (if nbit v 151 then actArm s n ofs else setActStatus s n actIdle) who a

/-- A pulse of slot n ends: its output returns to the OR of the pulses left. -/
def trigEnd (s : State) (n : Nat) : State := timSet s fun t => { t with pulses := t.pulses.filter (·.1 ≠ n) }

/-! ## Forced steps (R363, R364, R380) -/

/-- A slot of the base after a forward step past instants (R380). -/
def actStep (s : State) (b now ofs n : Nat) : State :=
  let t := timeTicks (actTime s n)
  if actStatus s n = actArmed ∧ actTb s n = b ∧ t < now then
    let per := actPeriodTicks s n
    let k := if per = 0 then 1 else (now - t) / per + 1
    if actFld s n 152 152 = 1 then
      actRun (if per = 0 then s else actMissed s n (k - 1)) n ofs true (t + k * per)
    else
      let s := actMissed s n k
      if per = 0 then timEvent (setActStatus s n actLate) 3 else actNext s n (t + k * per)
  else s

/-- TIME_STEP on every channel whose terminals take base b (R364, R370). -/
def timeStepSend (s : State) (b : Nat) (step : Int) : State :=
  (List.range 256).foldl (fun s c =>
    if isN200 s c && sendsCycles s c && rfW s (Adr.chnTimeCfg c) 4 63 61 == b then
      tcmSend s c (msgAll mtTimeStep (bytesBE 1 b ++ [0] ++ bytesBE 2 (stepCount s b)
        ++ bytesBE 6 ((cycleNow s + 1) % 2 ^ 48) ++ bytesBE 8 (unsigned 64 step)))
    else s) s

/-- A base jumps to a time, in ticks, ofs ns after the cycle start (R363), and its consumers act (R364). -/
def forceStep (s : State) (b now ofs : Nat) : State :=
  let old := baseAt s b ofs
  let s := setAdj (setBaseAt s b now ofs) b (baseOf s b).integ
  let free := baseSrc s b == 2
  let s := setBaseState s b (if free then tbFreerun else tbHoldover)
  let s := setBase s b { baseOf s b with stepped := free }
  let s := timEvent (wfW s (Adr.timTbTime b) 4 31 16 ((stepCount s b + 1) % 65536)) (24 + b)
  let s := (gclUnits s).foldl (fun s x => gclStep s b x) s
  let s := if b = 0 then (List.range 256).foldl chanSuspect s else s
  let s := if old < now then (List.range 64).foldl (actStep · b now ofs ·) s else s
  timeStepSend s b ((now : Int) - (old : Int))

/-- A write of TIM_FORCE_STEP, ofs ns after the cycle start (R363). -/
def forceStepWrite (s : State) (who : Requester) (v : Word) (ofs : Nat) : State :=
  let a := Adr.timForceStep
  let b := fld v 18 16
  let mode := fld v 31 28
  if islDown s 339 then wrDown s who a
  else if !isPfSide s who then wrRefuse s who a .notAuthorized
  else if fld v 15 0 ≠ 0x57E9 ∨ (mode ≠ 1 ∧ mode ≠ 2) then wrOk s who a
  else if baseState s b = tbUnset then wrRefuse s who a .outOfRange
  else if mode = 1 then
    match (baseOf s b).held with
    | some th => wrOk (forceStep (setHeld s b none) b ((baseAt s b ofs : Int) + th).toNat ofs) who a
    | none => wrRefuse s who a .outOfRange
  else
    match (baseOf s b).staged with
    | some t =>
      let s := setBase s b { baseOf s b with staged := none }
      wrOk (forceStep s b (timeTicks t) ofs) who a
    | none => wrRefuse s who a .outOfRange

/-- The word of TIM_FORCE_STEP for a mode, a base and a CONFIRM. -/
def forceWord (mode b confirm : Nat) : Word := BitVec.ofNat 32 (mode * 2 ^ 28 + b % 8 * 2 ^ 16 + confirm % 2 ^ 16)

/-- FORCE_STEP_OFFSET (R363): requester, base, CONFIRM, ns after the cycle start. -/
def execForceStepOffset (who : Requester) (b confirm ofs : Nat) (s : State) : Host.Outcome State Fault Refusal :=
  .next (forceStepWrite s who (forceWord 1 b confirm) ofs)
/-- FORCE_STEP_ABSOLUTE (R363). -/
def execForceStepAbsolute (who : Requester) (b confirm ofs : Nat) (s : State) : Host.Outcome State Fault Refusal :=
  .next (forceStepWrite s who (forceWord 2 b confirm) ofs)
/-- ACTION_COMMIT (R378): requester, slot, the 256 bits written, ns after the cycle start. -/
def execActionCommit (who : Requester) (n value ofs : Nat) (s : State) : Host.Outcome State Fault Refusal :=
  .next (if n < 64 then actCommit s who n value ofs else s)
/-- ACTION_PULSE (R377): slot, ns after the cycle start. -/
def execActionPulse (n ofs : Nat) (s : State) : Host.Outcome State Fault Refusal := .next (actDue s 1 n ofs)
/-- TRIG_PULSE_END (R377): slot. -/
def execTrigPulseEnd (n : Nat) (s : State) : Host.Outcome State Fault Refusal := .next (trigEnd s n)
/-- ACTION_GCL_INSTALL (R377). -/
def execActionGclInstall (n ofs : Nat) (s : State) : Host.Outcome State Fault Refusal := .next (actDue s 2 n ofs)
/-- ACTION_KEY_SWITCH (R377). -/
def execActionKeySwitch (n ofs : Nat) (s : State) : Host.Outcome State Fault Refusal := .next (actDue s 3 n ofs)
/-- ACTION_TRANSIT (R377). -/
def execActionTransit (n ofs : Nat) (s : State) : Host.Outcome State Fault Refusal := .next (actDue s 4 n ofs)
/-- ACTION_DMA_START (R377). -/
def execActionDmaStart (n ofs : Nat) (s : State) : Host.Outcome State Fault Refusal := .next (actDue s 5 n ofs)
/-- ACTION_SNAPSHOT (R377). -/
def execActionSnapshot (n ofs : Nat) (s : State) : Host.Outcome State Fault Refusal := .next (actDue s 6 n ofs)
/-- ACTION_ECLIPSE (R377). -/
def execActionEclipse (n ofs : Nat) (s : State) : Host.Outcome State Fault Refusal := .next (actDue s 7 n ofs)

end Sys2Proof.Machine
end

