-- ==== Sys2Proof/Machine/Pair.lean ====
section
/-! DEFINITION. The protection pair (R411 to R429): interlock, protection link, digest, standby, switchover. -/
namespace Sys2Proof.Machine

/-! ## State and registers -/

/-- STATE of PRT_STATE. -/
def ptSolo : Nat := 0
def ptNotReady : Nat := 1
def ptReady : Nat := 2
def ptClaiming : Nat := 3
def ptActive : Nat := 4
def ptReleased : Nat := 5
/-- Whether PAIR_EN is set (R411). -/
def prtOn (s : State) : Bool := rb s Adr.prtCfg 31
def prtSt (s : State) : Nat := effState s Adr.prtState
def prtUpd (s : State) (f : PrtSt → PrtSt) : State := { s with prt := f s.prt }
def linkFld (s : State) (hi lo : Nat) : Nat := rfW s Adr.prtLinkStat 2 hi lo
def setLink (s : State) (hi lo v : Nat) : State := wfW s Adr.prtLinkStat 2 hi lo v
/-- Raises a pair event: TOKEN_STUCK is DEGRADED, the others CORRECTED. -/
def prtEvent (s : State) (bit : Nat) : State :=
  evBit s Adr.prtEvent bit 341 (if bit = 6 then .degraded else .corrected) (0x0F00 + bit)
/-- Whether the device works as a standby (R424). -/
def prtStandby (s : State) : Bool := prtSt s == ptNotReady || prtSt s == ptReady
/-- What PEER_HB_OUT shows: 0 no edges, 1 the 32 kHz square wave, 2 the 1.0 MHz square wave (R413). -/
def prtHbOut (s : State) : Nat :=
  match prtSt s with | 0 => 0 | 3 => 2 | 4 => 2 | _ => 1
/-- PAIR_STAT[1:0] (R427), low through P6 (R468); the last level across a switchover is not kept apart, since nothing reads it
back. -/
def pairStat (s : State) : Nat :=
  if outsHeld s then 0 else match prtSt s with | 1 => 1 | 2 => 2 | 4 => 3 | _ => 0
/-- Whether the pair is formed (R411). -/
def prtFormed (s : State) : Bool := s.prt.formed && s.sec.vault.pair.isSome

/-! ## READY (R421) -/

/-- The failing conditions as DETAIL names them: LINK, PAIR, PLAN, STALE, REFRESH, LAG. -/
def prtBits (s : State) : Nat :=
  b2n (!prtLinkUp s) + 2 * b2n (!prtFormed s) + 4 * b2n (prtFormed s && !s.prt.planOk)
    + 8 * b2n (s.prt.lastDigest == 0 || decide (s.prt.lastDigest + 2 < cycleNow s))
    + 16 * b2n (s.prt.refresh != 0 || !s.prt.keyNeed.isEmpty) + 32 * b2n s.prt.lag
/-- TRUNK_OFS is VALID for every enabled tree. -/
def trunksOk (s : State) : Bool :=
  (List.range 64).all fun t => !treeEnabled s t || rfW s (Adr.prtTrunk t) 2 31 31 == 1
/-- NOT_READY or READY as the conditions have it. -/
def prtEval (s : State) : State :=
  if prtStandby s then
    let b := prtBits s
    if b = 0 ∧ trunksOk s = true then prtSet s ptReady 0 else prtSet s ptNotReady b
  else s

/-! ## The gate (R415) -/

/-- Whether the gate of a paired device may be open. -/
def gateMay (s : State) : Bool := s.prt.driving && linkFld s 54 54 == 1 && prtSt s == ptActive
/-- The gate opens: channels in STANDBY read RUN. -/
def prtOpen (s : State) : State :=
  let s := prtUpd s fun p => { p with standby := false }
  (List.range 256).foldl (fun s c =>
    if chnEff s c = chStandby then
      chnChange (wf s (Adr.chnComaStat c) 31 28 (accessInit s (c / 4))) c chRun 0
    else s) s
/-- The gate of a paired device follows its conditions. -/
def prtGate (s : State) : State :=
  if prtSt s = ptSolo then s
  else if gateMay s then (if s.prt.standby then prtOpen s else s)
  else if s.prt.standby then s else prtClose s

/-! ## Joining, leaving, register writes -/

/-- PAIR_EN = 1: the device joins a pair as a standby, with its gate closed. -/
def prtJoin (s : State) : State :=
  if prtSt s = ptSolo then prtEval (prtClose (prtSet s ptNotReady 1)) else s
/-- PAIR_EN = 0: the device is solo; it lets go of the token and transmits as its trees are ready. -/
def prtLeave (s : State) : State :=
  if prtSt s = ptSolo then s
  else prtOpen (prtSet (prtUpd s fun p =>
    { p with driving := false, held := false, release := false, flush := false, sendFrom := 0, switchedTo := 0 }) ptSolo 0)
/-- PRT_CFG taken. -/
def prtCfgTaken (s : State) (v : Word) : State :=
  let a := Adr.prtCfg
  let v := putFld (putFld v 25 24 0) 11 7 0
  let v := putFld v 23 16 (max 2 (fld v 23 16))
  let v := putFld v 15 12 (clamp 1 7 (fld v 15 12))
  let v := putFld v 6 0 (min 100 (fld v 6 0))
  let s := wr s a v
  if prtOn s then prtJoin s else prtLeave s
/-- A write of PRT_CFG by the owner of function 7. -/
def prtCfgWrite (s : State) (who : Requester) (v : Word) : State :=
  let a := Adr.prtCfg
  if islDown s 341 then wrDown s who a
  else if isOwner s who 341 7 0 = false then wrNotOwner s who a 7 0
  else wrOk (prtCfgTaken s v) who a

/-- What a write of STATE does (R416, R428): a commanded release, which waits for the digest under way; or a rejoin. -/
def prtStateAct (s : State) (v : Nat) : Option State :=
  if v = ptReleased ∧ prtSt s = ptActive ∧ (rb s Adr.prtCfg 28 = true ∨ linkFld s 59 56 = ptReady) then
    some (prtUpd s fun p => { p with release := true })
  else if v = ptNotReady ∧ prtSt s = ptReleased ∧ uDetail s Adr.prtState ≠ 2 then
    some (prtEval (prtUpd (plkState (unitAccept s Adr.prtState ptNotReady 0)) fun p => { p with held := false }))
  else none
/-- A write of PRT_STATE by the owner of function 7 (R25, R44): EXPECT in bits 23:16, STATE in bits 7:0. A device that is
standby takes it too: the refusals of R424 name other registers. -/
def prtStateWrite (s : State) (who : Requester) (expect v : Nat) : State :=
  let a := Adr.prtState
  if islDown s 341 then wrDown s who a
  else if isOwner s who 341 7 0 = false then wrNotOwner s who a 7 0
  else if expect ≠ uEpoch s a then wrStale s who a
  else match prtStateAct s v with
    | some s' => wrOk s' who a
    | none => wrRefuse s who a .outOfRange
/-- A write of PRT_ALIVE restarts ALIVE_MS, whose end is a command of its own (R416). -/
def prtAliveWrite (s : State) (who : Requester) : State :=
  let a := Adr.prtAlive
  if !isCore who then wrRefuse s who a .notAuthorized
  else if islDown s 341 then wrDown s who a
  else wrOk s who a
/-- ALIVE_MS has passed without a write of PRT_ALIVE. -/
def aliveTimeout (s : State) : State := prtRelease s 3

/-! ## The token (R413, R414, R417) -/

/-- ROLE of the vault's pairing; none without a pairing record. -/
def prtRole (s : State) : Option Nat := s.sec.vault.pair.map (·.role)
/-- PEER_HB: 0 LOST, 1 SLOW, 2 FAST. -/
def peerHb (s : State) : Nat := linkFld s 53 52
/-- T_ACQ in ns (R414). -/
def tAcq (s : State) (role : Nat) : Nat := if role = 0 then 2000 else if peerHb s = 0 then 1000000 else 6000

/-- The line reads low or high past its filter (R413, R417). -/
def tokenLine (s : State) (low : Bool) : State :=
  let s := setLink s 54 54 (b2n low)
  let s := if low then s else prtUpd s fun p => { p with stuck := false, highAt := cycleNow s }
  prtGate s

/-- The line has read high for a time (R414): a device in READY or NOT_READY drives it low and watches its peer. -/
def tokenClaim (s : State) (highNs : Nat) : State :=
  match prtRole s with
  | some role =>
    if prtStandby s = true ∧ s.prt.stuck = false ∧ linkFld s 54 54 = 0 ∧ tAcq s role ≤ highNs then
      let s := prtUpd s fun p => { p with
        driving := true, prev := (prtSt s, uDetail s Adr.prtState), fastSeen := peerHb s == 2 }
      prtSet (setLink s 54 54 1) ptClaiming 0
    else s
  | none => s

/-- An accepted edge on PEER_HB_IN (R413), ofs ns after the cycle start. -/
def hbEdge (s : State) (ofs : Nat) : State :=
  if prtSt s = ptSolo then s
  else
    let now := devNs s ofs
    let l := (now :: s.prt.hb).take 3
    let fast := l.length == 3 && decide (now < l.getLastD 0 + 4000)
    let s := setLink (prtUpd s fun p => { p with hb := l }) 53 52 (if fast then 2 else 1)
    if fast = true ∧ prtSt s = ptClaiming then prtUpd s fun p => { p with fastSeen := true } else s
/-- No edge for HB_LOSS cycles (R417). -/
def hbLost (s : State) : State :=
  if prtSt s = ptSolo ∨ peerHb s = 0 then s
  else prtEvent (setLink (prtUpd s fun p => { p with hb := [] }) 53 52 0) 7
/-- The line low with no driver, or toggling, for 1 ms (R417). -/
def tokenStuck (s : State) (toggling : Bool) : State :=
  if prtSt s = ptSolo ∨ s.prt.stuck = true then s
  else if toggling = true ∨ (linkFld s 54 54 = 1 ∧ s.prt.driving = false ∧ peerHb s ≠ 2) then
    prtEvent (prtUpd s fun p => { p with stuck := true }) 6
  else s

/-! ## Taking over (R426, R428) -/

/-- Cycles between the last digest applied and the cycle in which the line went high; none applied counts as past any bound. -/
def copyAge (s : State) : Nat :=
  if s.prt.lastDigest = 0 then 1000 else s.prt.highAt + 1 - s.prt.lastDigest

/-- A slot copy becomes the device's own slot (R264, R422): a downstream one resumes by its mark, an upstream one keeps its INVOC. -/
def takeSlotOver (s : State) (age c k : Nat) : State :=
  if keyEff s c k = ksEmpty ∨ slotDir k = 1 then s
  else
    let m := keyTake s c k
    match s.prt.marks.find? (·.1 = keyKey c k) with
    | some (_, mark) =>
      if age ≤ 3 then keyResume s c k m mark age else keyResume (keyErase s c k kdStaleCopy) c k m mark age
    | none => keyResume (keyErase s c k kdStaleCopy) c k m 0 4
/-- Open contexts are the standby's own and are discarded, counting FRAG_ERR (R266, R423). -/
def ctxAllDrop (s : State) : State :=
  s.keys.ctx.foldl (fun s x => partialDrop (ctxDrop (pmAdd s x.chan (x.slot / 4) 13 1) fun y => y == x) [x]) s
/-- EQRT_RUN of every enabled tree becomes the peer's plus twice TRUNK_OFS. -/
def trunkTakeOver (s : State) : State :=
  (List.range 64).foldl (fun s t =>
    if treeEnabled s t then
      let a := Adr.prtTrunk t
      let r : Int := (rfW s a 2 63 32 : Nat) + 2 * signed 28 (rfW s a 2 27 0)
      wfW s a 2 63 32 r.toNat
    else s) s
/-- Terminals whose copied state is not current enter LOST and recover (R428). -/
def termsLost (s : State) : State :=
  (allTids s).foldl (fun s tid =>
    let st := termEff s tid
    if st = tsRanging ∨ st = tsKeying ∨ st = tsActive ∨ st = tsTransit then termData s tid tsLost 1 else s) s

/-- The claim is kept (R414, R426): ACTIVE, ofs ns after the cycle start. -/
def takeOver (s : State) (ofs : Nat) : State :=
  let ready := s.prt.prev.1 == ptReady
  let age := copyAge s
  let current := decide (age ≤ 3) && s.prt.refresh == 0 && !s.prt.lag
  let first := cycleNow s + ceilDiv (ofs + rf s Adr.prtCfg 6 0 * 1000) 15625
  let s := prtEvent (prtSet s ptActive 0) 0
  let s := if ready then s else report (wb s Adr.prtEvent 9 true) 341 .degraded 0x0F09
  let s := prtUpd s fun p => { p with sendFrom := first, switchedTo := first + 7, held := true, release := false, flush := false }
  let s := trunkTakeOver (ctxAllDrop s)
  let s := (List.range 256).foldl (fun s c => (keySlots s c).foldl (fun s k => takeSlotOver s age c k) s) s
  let s := prtGate (if current then s else termsLost s)
  (allTids s).foldl (fun s tid => if termEff s tid = tsActive then sendTod s tid else s) s

/-- The 10 us claim window ends (R414). -/
def claimEnd (s : State) (ofs : Nat) : State :=
  if prtSt s = ptClaiming then
    if s.prt.fastSeen = true ∧ prtRole s = some 1 then
      let (st, det) := s.prt.prev
      prtEvent (prtSet (setLink (prtUpd s fun p => { p with driving := false }) 54 54 0) st det) 8
    else takeOver s ofs
  else s

/-- WTR_S of READY on the preferred device have passed: the other one's firmware releases (R429). -/
def revertRelease (s : State) : State :=
  if rb s Adr.prtCfg 30 = true ∧ rb s Adr.prtCfg 29 = false ∧ prtSt s = ptActive ∧ linkFld s 59 56 = ptReady
      ∧ basic s 7 0 = true then prtUpd s fun p => { p with release := true }
  else s

/-! ## The protection link (R411, R418, R419) -/

/-- SYNC_N as the device takes it. -/
def syncN (s : State) : Nat := clamp 1 7 (rf s Adr.prtCfg 15 12)
/-- A lane's next state, 0 HUNT, 1 PRESYNC, 2 SYNC, with its matches or misses so far. -/
def laneNext (n : Nat) (x : Nat × Nat) (hit : Bool) : Nat × Nat :=
  match x.1 with
  | 0 => if hit then (1, 0) else (0, 0)
  | 1 => if hit then (if n ≤ x.2 + 1 then (2, 0) else (1, x.2 + 1)) else (0, 0)
  | _ => if hit then (2, 0) else if 3 ≤ x.2 then (0, 0) else (2, x.2 + 1)

/-- The hash of the running tree plan. -/
def planHash (s : State) : List Byte :=
  (Config.sha384 ((List.range 64).flatMap fun t => bytesLE 32 (trec s t))).take 16
/-- A GCM tag over a nonce under the pairing key, by the IV of R265. -/
def nonceTag (p : PairRec) (role ctr : Nat) (nonce : List Byte) : List Byte :=
  (Config.gcmEncrypt p.key (bytesBE 12 (role % 2 * 2 ^ 95 + ctr % 2 ^ 64)) nonce []).2
/-- Sends HELLO, with the answer to the peer's nonce once that is known. -/
def helloSend (s : State) : State :=
  match s.sec.vault.pair with
  | some p =>
    let ctr := mget 0 s.sec.ctr 0
    let known := !s.prt.peerNonce.isEmpty
    let s := if known then { s with sec := { s.sec with ctr := mset 0 s.sec.ctr 0 (ctr + 1) } } else s
    plkSend s (.hello p.pairId p.role (prtSt s) s.prt.nonce (planHash s)
      (if known then some (ctr, nonceTag p p.role ctr s.prt.peerNonce) else none))
  | none => s

/-- The link comes up or goes down. -/
def linkChange (s : State) (was : Bool) : State :=
  let now := prtLinkUp s
  if now = was then s
  else if now then
    let (n, s) := drbgDraw s 16
    prtEval (helloSend (prtUpd s fun p => { p with nonce := n, peerNonce := [], aliveRx := [] }))
  else
    let s := setLink (prtUpd s fun p => { p with formed := false, planOk := false, part := none, partLost := false }) 55 55 0
    prtEval (prtEvent s 2)
/-- A lane compares a marker (R418); the command tells whether the four lanes' block counts are aligned. -/
def laneSync (s : State) (lane : Nat) (hit aligned : Bool) : State :=
  let was := prtLinkUp s
  let old := mget (0, 0) s.prt.lanes lane
  let s := if old.1 ≠ 0 ∧ hit = false then
    setLink s 15 0 (satAdd 0xFFFF (linkFld s 15 0) 1) else s
  let s := prtUpd s fun p => { p with lanes := mset (0, 0) p.lanes lane (laneNext (syncN s) old hit), aligned := aligned }
  let low := [0, 1, 2, 3].foldl (fun n i => min n (mget (0, 0) s.prt.lanes i).1) 2
  linkChange (setLink s 63 60 low) was

/-- Whether a message is accepted (R419), and how many of its TYPE it skips. The first of a TYPE is accepted. -/
def plkAccept (s : State) (m : PlkMsg) : Option Nat :=
  if !m.crcOk then none
  else match mget 0 s.prt.aliveRx m.body.typ with
    | 0 => some 0
    | k + 1 =>
      let d := modSub m.alive k 65536
      if d = 0 ∨ 32768 ≤ d then none else some (d - 1)

/-! ## HELLO (R411) -/

/-- The pair is not formed. -/
def pairMismatch (s : State) : State :=
  prtEval (prtEvent (setLink (prtUpd s fun p => { p with formed := false }) 55 55 0) 3)
/-- Sends every live slot to a partner that has just formed the pair, and forgets what the last digests carried. -/
def copiesRestart (s : State) : State :=
  if prtSt s = ptActive then
    let s := prtUpd s fun p => { p with sentTerm := [], sentMark := [], sentFlags := [] }
    (List.range 256).foldl (fun s c => (keySlots s c).foldl (fun s k =>
      if keyEff s c k = ksEmpty then s else prtKeySend s c k) s) s
  else s
/-- A HELLO of the peer: PAIR_IDs equal, roles differ, and the tag over the own nonce verifies. -/
def helloTake (s : State) (pairId : List Byte) (role : Nat) (nonce plan : List Byte) (answer : Option (Nat × List Byte)) :
    State :=
  match s.sec.vault.pair with
  | none => s
  | some p =>
    if pairId ≠ p.pairId ∨ role = p.role then pairMismatch s
    else
      let fresh := nonce != s.prt.peerNonce
      let s := prtUpd s fun x => { x with peerNonce := nonce }
      let s := if fresh then helloSend s else s
      match answer with
      | none => s
      | some (ctr, tag) =>
        if tag = nonceTag p role ctr s.prt.nonce then
          let ok := plan == planHash s
          let s := setLink (prtUpd s fun x => { x with formed := true, planOk := ok }) 55 55 1
          copiesRestart (prtEval (if ok then s else prtEvent s 4))
        else pairMismatch s

/-! ## The digest, receiving (R420 to R422) -/

/-- A digest of a cycle is lost: a full refresh is outstanding. -/
def digestLost (s : State) : State :=
  let s := setLink s 39 32 (satAdd 255 (linkFld s 39 32) 1)
  prtEval (prtEvent (prtUpd s fun p => { p with refresh := 256, part := none, partLost := false }) 5)

/-- A terminal's record: state register, W and EqD, and the phase of a Transit, as the active has them. -/
def digTerm (s : State) (x : DigTerm) : State :=
  let w := rd s (termAddr x.tid)
  let s := wr s (termAddr x.tid) (putFld (putFld (putFld w 31 24 x.epoch) 15 8 x.detail) 7 0 x.state)
  let s := setInfo (setInfo s x.tid 36 35 x.w) x.tid 63 37 x.eqd
  wf s (trAddr x.tid) 31 28 x.phase
/-- An allocation's record. -/
def digAlloc (s : State) (cycle : Nat) (x : DigAlloc) : State :=
  let d := allocDyn s x.aid
  setDyn s x.aid { d with
    backlog := x.backlog, rpt := x.rpt, rate := x.rate, acr := x.acr, mcr := x.mcr
    out := if x.gOut = 0 then [] else [{ cycle := cycle, bytes := x.gOut }] }
/-- A burst of the Maps, which the standby's receiver searches. -/
def digMap (s : State) (cycle : Nat) (x : DigMap) : State :=
  setBursts s x.chan (burstsOf s x.chan ++
    [{ cycle := cycle + 1, tid := x.tid, start := x.start, len := x.len, cold := x.cold, kind := 1 }])
/-- TLR FLAGS of a slot: the active's FORCE_COLD and PINNED; VALID and STANDBY_LEARNED are the standby's own. -/
def digFlag (s : State) (x : Nat × Nat × Nat) : State :=
  let (c, k, f) := x
  setTlrFlag (setTlrFlag s c k tlrForceCold (nbit f tlrForceCold)) c k tlrPinned (nbit f tlrPinned)
/-- A base that is UNSET on the standby takes the active's time. -/
def digTime (s : State) (cycle b : Nat) (x : Nat × Nat) : State :=
  if baseState s b = tbUnset ∧ x.2 ≠ tbUnset then baseFirstSet s b (x.1 + (cycleNow s - cycle) * 15625 * 65536) 0 else s

/-- The two parts of a digest as one. -/
def Digest.join (a b : Digest) : Digest :=
  { cycle := a.cycle, times := a.times ++ b.times, marks := a.marks ++ b.marks, maps := a.maps ++ b.maps
    terms := a.terms ++ b.terms, flags := a.flags ++ b.flags, eqrt := a.eqrt ++ b.eqrt, allocs := a.allocs ++ b.allocs
    lag := a.lag || b.lag }

/-- The cycle counter of a standby follows the active's tick marks (R424): a digest of cycle n is sent from D_{n+1} on. -/
def tickAlign (s : State) (n : Nat) : State :=
  let now := cycleNow s
  if n + 1 ≤ now ∧ now ≤ n + 3 then s
  else (List.range 256).foldl (fun s c => wrW s (Adr.chnCycle c) ((n + 1) % 2 ^ 48 + rdW s (Adr.chnCycle c) 2 / 2 ^ 48 * 2 ^ 48) 2) s

/-- A whole digest is applied. -/
def digestApply (s : State) (d : Digest) : State :=
  let s := tickAlign s d.cycle
  let s := d.times.zipIdx.foldl (fun s x => digTime s d.cycle x.2 x.1) s
  let s := d.marks.foldl (fun s m => prtUpd s fun p => { p with marks := mput p.marks (keyKey m.1 m.2.1) m.2.2 }) s
  let s := d.maps.foldl (fun s x => digMap s d.cycle x) s
  let s := d.terms.foldl digTerm s
  let s := d.flags.foldl digFlag s
  let s := d.eqrt.foldl (fun s x => wfW s (Adr.prtTrunk x.1) 2 63 32 x.2) s
  let s := d.allocs.foldl (fun s x => digAlloc s d.cycle x) s
  prtEval (setLink (prtUpd s fun p => { p with
    lastDigest := d.cycle + 1, refresh := p.refresh - 1, lag := d.lag, part := none, partLost := false }) 47 40 0)

/-- A part of a digest (R420, R421): a lost part makes the cycle's digest lost. -/
def digestTake (s : State) (skipped : Nat) (last : Bool) (d : Digest) : State :=
  if !(prtStandby s && prtFormed s) then s
  else
    let other := match s.prt.part with | some p => p.cycle != d.cycle | none => false
    let s := if other then digestLost s else s
    let lost := s.prt.partLost || decide (0 < skipped)
    let whole := match s.prt.part with | some p => p.join d | none => d
    if last then (if lost then digestLost s else digestApply s whole)
    else prtUpd s fun p => { p with part := some whole, partLost := lost }

/-! ## KEY and STATE (R423, R424, R427) -/

/-- A key copy goes into the same slot, in the state the active has it; an erased slot is erased. -/
def keyTakeCopy (s : State) (c k st gen limit : Nat) (tag12 : Bool) (key : List Byte) : State :=
  if !(prtStandby s && prtFormed s) then s
  else
    let s := prtUpd s fun p => { p with keyNeed := p.keyNeed.filter (· ≠ keyKey c k) }
    if st = ksEmpty then
      let s := { s with keys := { s.keys with mat := mset [] s.keys.mat (keyKey c k) [] } }
      prtEval (putUnit (setKeyFld s c k 127 32 0) (keyAddr c k) ksEmpty 0 (uState s (keyAddr c k) != ksEmpty))
    else
      let same := keyGen s c k == gen && keyEff s c k != ksEmpty
      let inv := if same then keyInvoc s c k else 0
      let s := { s with keys := { s.keys with mat := mset [] s.keys.mat (keyKey c k) key } }
      let s := setKeyFld s c k 127 32 (inv * 2 ^ 48 + gen * 2 ^ 32 + limit * 2 ^ 8 + b2n tag12 * 2 ^ 7)
      prtEval (putUnit s (keyAddr c k) st 0 (uState s (keyAddr c k) != st))

/-- A STATE message of the peer. -/
def stateTake (s : State) (st heard : Nat) (resets : List Nat) : State :=
  let s := setLink (prtUpd s fun p => { p with peerHeard := heard }) 59 56 st
  let s := if st = ptActive ∧ prtSt s ≠ ptActive then prtUpd s fun p => { p with held := false } else s
  resets.foldl (fun s c => (keySlots s c).foldl (fun s k =>
    if keyEff s c k = ksEmpty then s else prtKeySend s c k) s) s

/-- A message goes on past the receive injector. -/
def plkGo (s : State) (m : PlkMsg) (key : List Byte) : State :=
  match plkAccept s m with
  | none => s
  | some skipped =>
    let s := prtUpd s fun p => { p with aliveRx := mput p.aliveRx m.body.typ (m.alive % 65536 + 1) }
    match m.body with
    | .hello id role _ nonce plan answer => helloTake s id role nonce plan answer
    | .digest last d => digestTake s skipped last d
    | .key c k st gen limit tag12 _ _ => if c < 256 ∧ k < 2048 then keyTakeCopy s c k st gen limit tag12 key else s
    | .state st heard resets => stateTake s st heard (resets.filter (· < 256))
    | .idle => s
/-- Units that the receive injector lets go. -/
def plkUnits (s : State) (us : List FiUnit) : State :=
  us.foldl (fun s u => match u with | .plkRx m k => plkGo s m k | _ => s) s
/-- A message of a TYPE arrives on the link, which is up. -/
def plkReceive (s : State) (typ : Nat) (m : PlkMsg) (key : List Byte) : State :=
  if prtLinkUp s = true ∧ m.body.typ = typ ∧ prtSt s ≠ ptSolo then
    let (us, s) := fiPass s (Adr.fiCfgObs 17) none (.plkRx m key)
    plkUnits s us
  else s

/-! ## The digest, sending (R420, R422) -/

/-- A terminal's record. -/
def termRec (s : State) (tid : Nat) : DigTerm :=
  { tid := tid, state := termEff s tid, epoch := uEpoch s (termAddr tid), detail := uDetail s (termAddr tid)
    w := termW s tid, eqd := termEqd s tid, phase := trPhase s tid }
def DigTerm.key (x : DigTerm) : List Nat := [x.state, x.epoch, x.detail, x.w, x.eqd, x.phase]
/-- An allocation's record. -/
def allocRec (s : State) (aid : Nat) : DigAlloc :=
  let d := allocDyn s aid
  { aid := aid, backlog := d.backlog, rpt := d.rpt, rate := d.rate, acr := d.acr, mcr := d.mcr, gOut := gOut d }
/-- Marks: downstream slots installed or switched, or whose INVOC has advanced by 1,024 since the last mark (R422). -/
def digMarks (s : State) : List (Nat × Nat × Nat) :=
  (List.range 256).flatMap fun c => (keySlots s c).filterMap fun k =>
    let now := (keyInvoc s c k, keyGen s c k, keyEff s c k)
    if slotDir k = 1 ∨ now.2.2 = ksEmpty then none
    else match s.prt.sentMark.find? (·.1 = keyKey c k) with
      | some (_, i, g, st) => if g = now.2.1 ∧ st = now.2.2 ∧ now.1 < i + 1024 then none else some (c, k, now.1)
      | none => some (c, k, now.1)
/-- TLR FLAGS of a slot. -/
def tlrFlagsOf (s : State) (c k : Nat) : Nat :=
  b2n (tlrFlag s c k 0) + 2 * b2n (tlrFlag s c k 1) + 4 * b2n (tlrFlag s c k 2) + 8 * b2n (tlrFlag s c k 3)
/-- TLR FLAGS changes per channel and slot. -/
def digFlags (s : State) : List (Nat × Nat × Nat) :=
  (List.range 256).flatMap fun c => (tlrSlots s c).filterMap fun k =>
    let f := tlrFlagsOf s c k
    if mget 0 s.prt.sentFlags (c * 512 + k) = f then none else some (c, k, f)
/-- Bursts of the Ephemeris of upstream cycle n + 1. -/
def digMaps (s : State) (n : Nat) : List DigMap :=
  (List.range 256).flatMap fun c => ((burstsOf s c).filter fun g => g.cycle == n + 1 && g.tid != 0x7FFF).map fun g =>
    { chan := c, tid := g.tid, start := g.start, len := g.len, cold := g.cold }

/-- A digest in its order, cut into records with their bytes. -/
def Digest.items (d : Digest) : List (Digest × Nat) :=
  let e : Digest := { cycle := d.cycle }
  [({ e with times := d.times, eqrt := d.eqrt, lag := d.lag }, 256)]
    ++ d.marks.map (fun x => ({ e with marks := [x] }, 8)) ++ d.maps.map (fun x => ({ e with maps := [x] }, 8))
    ++ d.terms.map (fun x => ({ e with terms := [x] }, 16)) ++ d.flags.map (fun x => ({ e with flags := [x] }, 16))
    ++ d.allocs.map (fun x => ({ e with allocs := [x] }, 16))
/-- Messages of at most 16,384 body bytes. -/
def digPack : List (Digest × Nat) → Digest → Nat → List Digest
  | [], cur, _ => [cur]
  | (d, n) :: r, cur, k => if k + n ≤ 16384 then digPack r (cur.join d) (k + n) else cur :: digPack r d n
/-- Sends parts, LAST on the final one. -/
def digParts : State → List Digest → State
  | s, [] => s
  | s, [d] => plkSend s (.digest true d)
  | s, d :: r => digParts (plkSend s (.digest false d)) r

/-- The digest of cycle n (R420): the budget of 524,288 bytes, less the never deferred sections and 34 KiB of refresh, goes to state
changes, then to allocations; what does not fit is deferred with LAG. The rotating slice takes the units whose number is n
modulo 256. -/
def digestSend (s : State) (n : Nat) : State :=
  let marks := digMarks s
  let maps := digMaps s n
  let changed := (allTids s).filter fun tid => (termRec s tid).key != mget [] s.prt.sentTerm tid
  let flags := digFlags s
  let aids := (s.prt.allocWait ++ (s.grant.alloc.filter fun p =>
    p.2.rpt == n + 1 || p.2.out.any fun g => g.cycle == n).map (·.1)).dedup
  let room := (524288 - 34 * 1024 - 256 - 8 * marks.length - 8 * maps.length) / 16
  let nt := changed.take room
  let nf := flags.take (room - nt.length)
  let na := aids.take (room - nt.length - nf.length)
  let late := aids.drop na.length
  let slice := ((allTids s).filter fun tid => tid % 256 == n % 256 && !nt.contains tid).take 128
  let aslice := ((s.grant.alloc.map (·.1)).filter fun a => a % 256 == n % 256 && !na.contains a).take 2048
  let d : Digest := {
    cycle := n
    times := (List.range 8).map fun b => (baseTicks s b, baseState s b)
    marks := marks, maps := maps
    terms := (nt ++ slice).map (termRec s)
    flags := nf
    eqrt := ((List.range 64).filter (treeEnabled s)).map fun t => (t, eqrtPs s t)
    allocs := (na ++ aslice).map (allocRec s)
    lag := decide (nt.length < changed.length) || decide (nf.length < flags.length) || !late.isEmpty }
  let p := s.prt
  let s := prtUpd s fun p => { p with
    sentMark := marks.foldl (fun m x => mput m (keyKey x.1 x.2.1) (x.2.2, keyGen s x.1 x.2.1, keyEff s x.1 x.2.1)) p.sentMark
    sentTerm := d.terms.foldl (fun m x => mput m x.tid x.key) p.sentTerm
    sentFlags := nf.foldl (fun m x => mset 0 m (x.1 * 512 + x.2.1) x.2.2) p.sentFlags
    allocWait := late }
  if p.formed then digParts s (digPack d.items { cycle := n } 0) else s

/-! ## Every cycle -/

/-- Every RUN channel of some tree is silent while the standby hears that tree (R425). -/
def trunkLost (s : State) : Bool :=
  (List.range 64).any fun t =>
    let run := (List.range 4).filter fun w => chnEff s (chanOf t w) == chRun
    !run.isEmpty && s.prt.peerHeard.testBit t
      && run.all fun w => decide (64 ≤ mget 0 s.line.silent (chanOf t w))

/-- The end of cycle n, before the counter advances: a released device loses its queued frames (R428); the active sends its
digest, then lets go of the token if a release waits (R416) or its trunk is lost (R425); held outputs follow the device from the
first cycle it sends (R427). -/
def prtCycle (s : State) (n : Nat) : State :=
  if prtSt s = ptSolo then s
  else
    let s := if s.prt.flush then
      prtUpd ((List.range 64).foldl treeFlush s) fun p => { p with flush := false } else s
    if prtSt s = ptActive then
      let s := if n + 1 < s.prt.sendFrom then s else prtUpd s fun p => { p with held := false }
      let s := digestSend s n
      if s.prt.release then prtRelease s 1
      else if rb s Adr.prtCfg 26 && basic s 7 0 && trunkLost s then prtRelease s 5
      else s
    else
      let s := setLink s 47 40 (satAdd 255 (linkFld s 47 40) 1)
      prtEval s

/-! ## Commands -/

/-- PRT_STATE_RELEASED (R416): requester, EXPECT. -/
def execPrtStateReleased (who : Requester) (expect : Nat) (s : State) : Host.Outcome State Fault Refusal :=
  .next (prtStateWrite s who expect ptReleased)
/-- PRT_STATE_NOT_READY (R428): requester, EXPECT. -/
def execPrtStateNotReady (who : Requester) (expect : Nat) (s : State) : Host.Outcome State Fault Refusal :=
  .next (prtStateWrite s who expect ptNotReady)
/-- PRT_ALIVE (R416): requester. -/
def execPrtAlive (who : Requester) (s : State) : Host.Outcome State Fault Refusal := .next (prtAliveWrite s who)
/-- ALIVE_TIMEOUT (R416). -/
def execAliveTimeout (s : State) : Host.Outcome State Fault Refusal := .next (aliveTimeout s)
/-- TOKEN_CLAIM (R414): ns for which the line has read high without a break. -/
def execTokenClaim (highNs : Nat) (s : State) : Host.Outcome State Fault Refusal := .next (tokenClaim s highNs)
/-- CLAIM_WINDOW_END (R414): ns after the cycle start. -/
def execClaimWindowEnd (ofs : Nat) (s : State) : Host.Outcome State Fault Refusal := .next (claimEnd s ofs)
/-- PEER_HB_LOST (R417). -/
def execPeerHbLost (s : State) : Host.Outcome State Fault Refusal := .next (hbLost s)
/-- TOKEN_STUCK (R417): whether the line toggles faster than its filter. -/
def execTokenStuck (toggling : Bool) (s : State) : Host.Outcome State Fault Refusal := .next (tokenStuck s toggling)
/-- PLK_LANE_SYNC (R418): a lane, whether its marker matches, whether the four block counts are aligned. -/
def execPlkLaneSync (lane : Nat) (hit aligned : Bool) (s : State) : Host.Outcome State Fault Refusal :=
  .next (if lane < 4 then laneSync s lane hit aligned else s)
/-- HELLO (R411): the message. -/
def execHelloMsg (m : PlkMsg) (s : State) : Host.Outcome State Fault Refusal := .next (plkReceive s 1 m [])
/-- DIGEST (R421): the message. -/
def execDigestMsg (m : PlkMsg) (s : State) : Host.Outcome State Fault Refusal := .next (plkReceive s 2 m [])
/-- KEY (R423): the message, and what its wrapped key opens to. -/
def execKeyMsg (m : PlkMsg) (key : List Byte) (s : State) : Host.Outcome State Fault Refusal := .next (plkReceive s 3 m key)
/-- STATE (R419): the message. -/
def execStateMsg (m : PlkMsg) (s : State) : Host.Outcome State Fault Refusal := .next (plkReceive s 4 m [])
/-- STATE_MESSAGE_SEND (R419). -/
def execStateMessageSend (s : State) : Host.Outcome State Fault Refusal :=
  .next (if prtSt s = ptSolo then s else plkState s)
/-- REVERT_WTR_EXPIRE (R429). -/
def execRevertWtrExpire (s : State) : Host.Outcome State Fault Refusal := .next (revertRelease s)
/-- TOKEN_LINE_CHANGE (R417): whether the filtered line now reads low. -/
def execTokenLineChange (low : Bool) (s : State) : Host.Outcome State Fault Refusal := .next (tokenLine s low)
/-- PEER_HB_EDGE (R413): ns after the cycle start. -/
def execPeerHbEdge (ofs : Nat) (s : State) : Host.Outcome State Fault Refusal := .next (hbEdge s ofs)

end Sys2Proof.Machine
end

