-- ==== Sys2Proof/Machine/Ownership.lean ====
section
/-! DEFINITION. Ownership handovers and the host watchdog (R42 to R47). -/
namespace Sys2Proof.Machine

/-- The islands that hold registers of function f for tree t: its channels and the tree's TRE registers, or the blocks
of a device-scope function (R43 step 3, R474). The time servo's registers also lie in every channel island. -/
def ownIslands (s : State) (f t : Nat) : List Nat :=
  if f = 4 then 339 :: (List.range 256).filter (chanValid s)
  else if f = 6 then [338]
  else if f = 7 then [341]
  else if f = 8 then [288]
  else (List.range 4).map (chanOf t) ++ [336] ++ (if f = 2 ∧ t = 0 then [288] else [])

/-- TAG of a handover's record (R398). -/
def handoverTag (f t : Nat) (watchdog : Bool) : Nat := t + 256 * f + (if watchdog then 2 ^ 15 else 0)

/-- Sets HSTATE of an entry and advances its epoch (R43). -/
def setHstate (s : State) (f t st : Nat) : State :=
  let a := Adr.mbxOwner f t
  wf (wf s a 11 8 st) a 31 24 ((uEpoch s a + 1) % 256)

/-- Accepts a handover: its record is ACCEPTED in the register outcome ring and HSTATE becomes REQUESTED (R43). -/
def startHandover (s : State) (f t new : Nat) (watchdog : Bool) : State :=
  let i := rf s Adr.mbxRegopIdx 7 0
  let s := regopPut s { tag := handoverTag f t watchdog, opcode := 0x6000 + f, state := .accepted,
                        first := 0xFFFFFFFF }
  let s := setHstate s f t 1
  { s with own := { s.own with handovers := s.own.handovers ++
      [{ func := f, tree := t, newOwner := new, record := i, watchdog := watchdog }] } }

/-- The check of a handover request, in the order of R43; none when it is to be accepted. -/
def ownerReqCheck (s : State) (v : Word) : Option Status :=
  let f := fld v 19 16
  let t := fld v 13 8
  let a := Adr.mbxOwner f t
  if 11 < f ∨ treeValid s t = false ∨ (deviceScope f = true ∧ t ≠ 0) then some .outOfRange
  else if fld v 31 24 ≠ uEpoch s a then some .stale
  else if rf s a 11 8 ≠ 0 then some .busy
  else if fld v 0 0 = owner s f t then some .ok
  else none

/-- A write of MBX_OWNER_REQ (R43): refused by requester, refused or done at once by the checks, or accepted. -/
def ownerRequest (s : State) (who : Requester) (v : Word) : State :=
  let f := fld v 19 16
  let t := fld v 13 8
  let a := Adr.mbxOwnerReq
  if islDown s 336 then wrDown s who a
  else if isPfSide s who = false then wrRefuse s who a .notAuthorized
  else
    let r : OutRec := { tag := handoverTag f t false, opcode := 0x6000 + f }
    match ownerReqCheck s v with
    | some .ok => wrOk (regopPut s { r with state := .done }) who a
    | some .stale =>
      let e := Adr.mbxOwner f t
      let s := regopPut s { r with state := .notDone, status := Status.stale.code, epoch := uEpoch s e,
                                   ustate := uState s e }
      cmdStale (noteWrite s who a .stale (uEpoch s e) (uState s e)) e
    | some st => wrRefuse (regopPut s { r with state := .notDone, status := st.code }) who a st.toWr
    | none => wrOk (startHandover s f t (fld v 0 0) false) who a

/-- The handover of function f and tree t that is in progress. -/
def findHandover (s : State) (f t : Nat) : Option Handover :=
  s.own.handovers.find? fun h => h.func == f && h.tree == t

/-- Handovers without that of f and t, and the flips of its islands forgotten. -/
def endHandover (s : State) (f t : Nat) : State :=
  { s with own := { s.own with
      handovers := s.own.handovers.filter fun h => ¬ (h.func = f ∧ h.tree = t)
      flipped := s.own.flipped.filter fun p => p.1 ≠ f * 64 + t } }

/-- Whether firmware still runs a command of function f that it has accepted for tree t: a registration, a rotation, a Transit,
a localization (R43 step 2). Its other commands complete in the step that takes them. -/
def fwBusy (s : State) (f t : Nat) : Bool :=
  match f with
  | 0 => s.reg.steps.any fun p => treeOfTid p.1 == t
  | 3 => s.keys.rot.any fun p => treeOfTid (p.1 / 2) == t
  | 5 => s.transits.any fun p => treeOfTid p.1 == t && p.2.ticket != .none
  | 11 => s.rogue.any fun p => p.1 == t && p.2.phase != .idle
  | _ => false

/-- At a cycle boundary (tree scope) or a 1 ms tick (device scope), a requested handover enters QUIESCING (assumption log 53). Its
flips are sent once firmware, where it is the old owner, has finished the commands it had accepted (R43 step 2 and 3). -/
def quiesceOne (tick1ms : Bool) (s : State) (h : Handover) : State :=
  if h.flipsSent then s
  else if deviceScope h.func && !tick1ms then s
  else
    let s := if h.quiescing then s else setHstate s h.func h.tree 2
    let go := !(h.newOwner == 1 && fwBusy s h.func h.tree)
    let upd (x : Handover) : Handover :=
      if x.func = h.func ∧ x.tree = h.tree then
        { x with quiescing := true, flipsSent := go, waiting := if go then ownIslands s h.func h.tree else [] }
      else x
    { s with own := { s.own with handovers := s.own.handovers.map upd } }

/-- The handovers' part of a cycle start. -/
def quiesceTick (s : State) (tick1ms : Bool) : State := s.own.handovers.foldl (quiesceOne tick1ms) s

/-- An owner flip arrives in an island, updates its copy and is acknowledged (R43, R44). -/
def ownerFlip (s : State) (f t i : Nat) : State :=
  match findHandover s f t with
  | none => s
  | some h =>
    if i ∈ h.waiting then
      let upd (x : Handover) : Handover :=
        if x.func = f ∧ x.tree = t then { x with waiting := x.waiting.filter (· ≠ i) } else x
      { s with own := { s.own with
          handovers := s.own.handovers.map upd
          flipped := s.own.flipped ++ [(f * 64 + t, i)] } }
    else s

/-- A handover is abandoned with a reason: the owner stays, every island keeps or regains the old owner (R45). -/
def abandonHandover (s : State) (f t : Nat) (why : Status) : State :=
  match findHandover s f t with
  | none => s
  | some h =>
    let s := setHstate (endHandover s f t) f t 0
    putRec s (regopAddr h.record)
      { tag := handoverTag f t h.watchdog, opcode := 0x6000 + f, state := .notDone, status := why.code }

/-- A write of MBX_HOST_WD: the watchdog restarts with the period written, cut to its limits (R47, R476). -/
def hostWdWrite (s : State) (who : Requester) (v : Word) : State :=
  let a := Adr.mbxHostWd
  let expired := rb s a 30 && !v.toNat.testBit 30
  if islDown s 336 then wrDown s who a else
  let w := putFld (putFld (putFld (0 : Word) 31 31 (fld v 31 31)) 30 30 (b2n expired)) 13 0
    (clamp 10 10000 (fld v 13 0))
  let s := wr s a w
  wrOk { s with own := { s.own with wdArmed := v.toNat.testBit 31 } } who a

/-- The entries the host owns, as (function, tree). -/
def hostOwned (s : State) : List (Nat × Nat) :=
  (List.range 12).flatMap fun f =>
    ((List.range (if deviceScope f then 1 else 64)).filter fun t => owner s f t == 1).map fun t => (f, t)

/-- The watchdog expires: EXPIRED reads 1, it stops, and a handover to firmware starts for every function the host
owns and that has none in progress (R47). -/
def hostWdExpire (s : State) : State :=
  if s.own.wdArmed then
    let s := wb s Adr.mbxHostWd 30 true
    let s := { s with own := { s.own with wdArmed := false } }
    (hostOwned s).foldl (fun s p =>
      if rf s (Adr.mbxOwner p.1 p.2) 11 8 = 0 then startHandover s p.1 p.2 0 true else s) s
  else s

/-- OWNER_REQUEST (R43). -/
def execOwnerRequest (who : Requester) (value : Word) (s : State) : Host.Outcome State Fault Refusal :=
  .next (ownerRequest s who value)
/-- OWNER_FLIP (R44). -/
def execOwnerFlip (f t i : Nat) (s : State) : Host.Outcome State Fault Refusal := .next (ownerFlip s f t i)
/-- QUIESCE_TIMEOUT (R45). -/
def execQuiesceTimeout (f t : Nat) (s : State) : Host.Outcome State Fault Refusal :=
  .next (abandonHandover s f t .quiesceTimeout)
/-- HOST_WD_WRITE (R47). -/
def execHostWdWrite (who : Requester) (value : Word) (s : State) : Host.Outcome State Fault Refusal :=
  .next (hostWdWrite s who value)
/-- HOST_WD_EXPIRE (R47). -/
def execHostWdExpire (s : State) : Host.Outcome State Fault Refusal := .next (hostWdExpire s)

end Sys2Proof.Machine
end

