-- ==== Sys2Proof/Machine/Forward.lean ====
section
/-! DEFINITION. Forwarding (R312 to R329): bridge domains, source lookup, learning and moves, aging, anti-spoofing,
routing, next hops, queue choice, and the upstream policers (R210 to R212). -/
namespace Sys2Proof.Machine

/-! ## Notifications (R318) -/

/-- Writes a 16-byte notification into the ring of FWD_NTF_RING; one that finds no room is discarded and counted. -/
def fwdNotify (s : State) (kind bd mac old new : Nat) : State :=
  let ring := rdW s Adr.fwdNtfRing 2
  let r := ((((kind % 16 * 2 ^ 16 + bd % 2 ^ 16) * 2 ^ 48 + mac % 2 ^ 48) * 2 ^ 16 + old % 2 ^ 16) * 2 ^ 16 + new % 2 ^ 16)
    * 2 ^ 28 + instantNs s / 1000 % 2 ^ 28
  match dramRingPut (nextFree s) (nfld ring 47 0) (clamp 10 24 (nfld ring 63 59)) Adr.fwdNtfIdx (bytesBE 16 r) with
  | some s => s
  | none => fwdEvent (fwdCount s 15 1) 3

/-! ## Source lookup (R316, R317) -/

/-- The destination code of a frame's source: its TID, or its uplink port; none for a frame of the host without a
terminal (R314, R316). -/
def sourceDest (it : FwdItem) : Option Nat :=
  if 256 ≤ it.port ∧ it.port < 512 then some (0x8000 + (it.port - 256))
  else if it.fr.cl.tid ≠ 0x7FFF then some it.fr.cl.tid else none

/-- Learned entries of a terminal: written by learning, with WGEN 0. -/
def learnedOf (s : State) (tid : Nat) : Nat :=
  ((tblList s tbBridge).filter fun e => brDest e.2 == tid && nfld e.2 33 18 == 0).length

/-- ASP_TERM of a terminal, 0 when invalid: MODE OFF and no limit (R319). -/
def aspTerm (s : State) (tid : Nat) : Nat := let v := tblEntry s tbAsp tid; if nbit v 63 then v else 0

/-- A source miss (R316). -/
def learn (s : State) (it : FwdItem) (bdv mac dest : Nat) : State :=
  let bd := it.fr.cl.bd
  let limit := nfld (aspTerm s dest) 60 48
  if !nbit bdv 126 || !rb s Adr.fwdBrCfg 0 || it.fr.cl.hasFlag flagNoLearn || mac.testBit 40 then s
  else if it.port < 256 ∧ limit ≠ 0 ∧ limit ≤ learnedOf s dest then
    stat (fwdCount s 2 1) scTerm dest 6 1
  else match freeWay s tbBridge 16 (brWays s bd mac) with
    | none => fwdEvent (fwdCount s 1 1) 1
    | some i =>
      let v := 2 ^ 127 + 2 ^ 124 + bd * 2 ^ 104 + mac * 2 ^ 56 + dest * 2 ^ 40 + bdPart bdv * 2 ^ 34
      let s := fwdCount (tblPut s tbBridge i v) 0 1
      if rb s Adr.fwdBrCfg 1 then fwdNotify (nextFree s) 1 bd mac (freeVal s) dest else s

/-- A move of the address of entry i to another source (R317). -/
def moveAddr (s : State) (it : FwdItem) (bdv i dest : Nat) : State :=
  let v := tblEntry s tbBridge i
  let now := instantNs s
  let ms := now / 1000000
  let sec := now / 1000000000
  let s := nextFree s
  let s := if s.fwd.moveSec = sec then s else { s with fwd := { s.fwd with moveSec := sec, moves := 0 } }
  let note (s : State) (kind : Nat) : State :=
    if rb s Adr.fwdBrCfg 3 then fwdNotify s kind it.fr.cl.bd (brMac v) (brDest v) dest else s
  let age := modSub ms (nfld v 17 0) (2 ^ 18)
  if brStatic v || brLock v then note (fwdCount s 4 1) 4
  else if nfld v 17 0 ≠ 0 ∧ age < rf s Adr.fwdBrCfg 19 12 then note (fwdCount s 5 1) 5
  else if rf s Adr.fwdBrCfg 11 4 * 1024 ≤ s.fwd.moves then note (fwdEvent (fwdCount s 5 1) 0) 5
  else
    let v' := putNfld (putNfld v 55 40 dest) 39 34 (bdPart bdv)
    let v' := putNfld (putNfld (putNfld v' 17 0 ms) 124 124 1) 123 122 0
    let s := tblPut s tbBridge i v'
    note (fwdCount { s with fwd := { s.fwd with moves := s.fwd.moves + 1 } } 3 1) 2

/-- Step 3 of R312: the source lookup, with learning and moves; a hit marks an entry that the host does not hold (R23, R331). -/
def sourceStep (s : State) (it : FwdItem) (bdv : Nat) : State :=
  let mac := (frameNum it.fr.data 6 6).getD 0
  match sourceDest it with
  | none => s
  | some dest =>
    match brFind s it.fr.cl.bd mac with
    | none => learn s it bdv mac dest
    | some i =>
      let v := tblEntry s tbBridge i
      if brDest v = dest then (if brLock v then s else tblPut s tbBridge i (putNfld v 124 124 1))
      else moveAddr s it bdv i dest

/-! ## Aging (R318) -/

/-- One visit of the sweep; it leaves an entry that the host holds by LOCK (R23, R331). -/
def ageOne (s : State) (i v : Nat) : State :=
  if brLock v then s
  else if brHit v then tblPut s tbBridge i (putNfld (putNfld v 124 124 0) 123 122 0)
  else
    let a := min 3 (brAge v + 1)
    if a = 3 ∧ !brStatic v then
      let s := fwdCount (tblPut s tbBridge i (putNfld v 127 127 0)) 6 1
      if rb s Adr.fwdBrCfg 2 then fwdNotify s 3 (brBd v) (brMac v) (brDest v) 0 else s
    else tblPut s tbBridge i (putNfld v 123 122 a)

/-- A sweep over every valid entry; AGE_S = 0 stops it. -/
def agingSweep (s : State) : State :=
  if rf s Adr.fwdBrCfg 31 20 = 0 then s else (tblList s tbBridge).foldl (fun s e => ageOne s e.1 e.2) s

/-! ## Anti-spoofing (R319) -/

/-- Whether a terminal's frame passes. -/
def spoofOk (s : State) (it : FwdItem) (bdv : Nat) : Bool :=
  let tid := it.fr.cl.tid
  let mode := nfld (aspTerm s tid) 62 61
  let mac := (frameNum it.fr.data 6 6).getD 0
  let macOk := match brFind s it.fr.cl.bd mac with
    | some i => brBind (tblEntry s tbBridge i) && brDest (tblEntry s tbBridge i) == tid
    | none => false
  let vrf := nfld bdv 123 112
  let ipOk := match it.ipSrc with
    | none => false
    | some a =>
      let (kind, addr) : Nat × Nat := if it.etype = 0x0800 then (2, ofBytesBE a * 2 ^ 96) else (3, ofBytesBE a)
      match exFind s kind vrf addr with
      | some i => exTid (tblEntry s tbExact i) == tid
      | none => false
  if mode = 0 then true
  else if mode = 1 then macOk
  else macOk && (!(it.etype == 0x0800 || it.etype == 0x86DD) || ipOk)

/-! ## Routing (R321, R322, R327, R328) -/

/-- The outer IP destination of a frame, as KIND, TYPE and the 128-bit address: the destination address field of the
header after the EtherType. -/
def ipDest (it : FwdItem) : Option (Nat × Nat × Nat) :=
  if it.etype = 0x0800 then (frameNum it.fr.data (it.e + 18) 4).map fun a => (0, 1, a * 2 ^ 96)
  else if it.etype = 0x86DD then (frameNum it.fr.data (it.e + 26) 16).map fun a => (1, 2, a)
  else none

/-- What routing makes of a frame. -/
inductive RouteRes
  | miss
  | drop
  | punt
  | nh (n : Nat)
  deriving DecidableEq, Repr

/-- ACTION and next hop of a result: an ECMP member is chosen by NOUN. -/
def routeAct (action nh m1 noun : Nat) : RouteRes :=
  match action with
  | 0 => .nh nh
  | 1 => .drop
  | 2 => .punt
  | _ => .nh (nh + noun % (m1 + 1))

/-- The route of a frame: an exact host route wins over any prefix. -/
def routeOf (s : State) (it : FwdItem) (vrf : Nat) : RouteRes :=
  match ipDest it with
  | none => .miss
  | some (kind, typ, addr) =>
    match exFind s kind vrf addr with
    | some i => let v := tblEntry s tbExact i; routeAct (nfld v 75 74) (nfld v 95 76) 0 it.fr.cl.noun
    | none =>
      match routeFind s typ (typ * 2 ^ 156 + vrf * 2 ^ 144 + addr) with
      | none => .miss
      | some v =>
        let r := acmResult 0 v
        routeAct (nfld r 63 62) (nfld r 55 36) (nfld r 61 56) it.fr.cl.noun

/-- Replaces bytes of a frame at an offset. -/
def putBytes (d : List Byte) (ofs : Nat) (b : List Byte) : List Byte := d.take ofs ++ b ++ d.drop (ofs + b.length)

/-- The Internet checksum of an IPv4 header after its TTL has fallen by one: one more in the byte above. -/
def ipCsumStep (c : Nat) : Nat := let x := c + 0x100; if 0xFFFF ≤ x then x - 0xFFFF else x

/-- TTL or hop limit of a frame, its place, and the frame with it decremented. -/
def decTtl (it : FwdItem) : Option (Nat × List Byte) :=
  let d := it.fr.data
  let o := if it.etype = 0x0800 then it.e + 10 else it.e + 9
  (frameNum d o 1).map fun t =>
    let d' := putBytes d o (bytesBE 1 (t - 1))
    (t, if it.etype = 0x0800 then
          match frameNum d' (o + 2) 2 with | some c => putBytes d' (o + 2) (bytesBE 2 (ipCsumStep c)) | none => d'
        else d')

/-! ## Queue choice (R329) -/

/-- The queue of a terminal for a class: the one FWD_TCQ names, else k = 0. -/
def tidQueue (s : State) (part tid tc : Nat) : Nat :=
  let base := qidOf (treeOfTid tid) (32 * slotOfTid tid)
  let k := rf s (Adr.fwdTcq part) (3 * tc + 2) (3 * tc)
  if qValid (dsQueue s (base + k)) then base + k else base

/-- EGR, QUEUE and queue key of a destination code. -/
def destTo (s : State) (cl : Clause) (dest : Nat) : Option (Nat × Nat × Nat) :=
  if dest < 0x8000 then
    let q := tidQueue s cl.part dest cl.tc
    some ((Egress.pon (termChan s dest)).code, q, q)
  else if dest < 0x8100 then
    some ((Egress.uplink (dest - 0x8000)).code, cl.tc, uplKey (dest - 0x8000) cl.tc)
  else none

/-! ## Policers (R211) -/

/-- The bucket levels of a SID at an instant in ns of time base 0, in units of 1/65,536 byte. -/
def policerAt (s : State) (sid v now : Nat) : Int × Int × Nat :=
  let (tc, te, t0) := mget (0, 0, 0) s.sched.policer sid
  let cap (x : Nat) (b : Int) (rate : Nat) : Int := min ((x * 65536 : Nat) : Int) (b + (fillOf rate ((now - t0) * 1000) : Nat))
  (cap (nfld v 179 156) tc (nfld v 223 202), cap (nfld v 155 132) te (nfld v 201 180), max now t0)

/-- Meters a frame of len client bytes against its SID's policer: its colour (0 green, 1 yellow, 2 red) and whether it is
dropped (R210, R211). At which ns of the cycle under way it reaches the policer stage is a free value. -/
def meter (s : State) (sid dp len : Nat) : State × Nat × Bool :=
  let v := tblEntry s tbSid sid
  let mode := nfld v 254 253
  if !nbit v 255 || mode == 0 then (s, colourOf dp, false)
  else
    let b : Int := ((len : Int) + signed 6 (nfld v 249 244)) * 65536
    let incol := if nbit v 252 then colourOf dp else 0
    let (tc, te, t) := policerAt s sid v (instantNs s)
    let s := nextFree s
    let (tc, te, col) : Int × Int × Nat :=
      if mode = 1 then
        if incol = 2 ∨ te < b then (tc, te, 2)
        else if incol = 1 ∨ tc < b then (tc, te - b, 1) else (tc - b, te - b, 0)
      else
        if incol = 0 ∧ b ≤ tc then (tc - b, te, 0)
        else if incol ≠ 2 ∧ b ≤ te then (tc, te - b, 1) else (tc, te, 2)
    let s := { s with sched := { s.sched with policer := mput s.sched.policer sid (tc, te, t) } }
    (s, col, col == 2 && nbit v 251)

/-- The policer stage of an upstream frame: DP takes the colour, frames and bytes are counted, a red frame may drop. -/
def policerStage (s : State) (it : FwdItem) : State × Clause × Bool :=
  let cl := it.fr.cl
  if 256 ≤ it.port then (s, cl, false)
  else
    let (s, col, drop) := meter s cl.sid cl.dp it.fr.data.length
    let s := stat (stat s scSid cl.sid (2 * col) 1) scSid cl.sid (2 * col + 1) it.fr.data.length
    (if drop then stat s scSid cl.sid 6 1 else s, { cl with dp := col }, drop)

/-! ## The forwarding stage (R312) -/

/-- A frame discarded by forwarding and counted; no rule names the scope of such a drop in its trace record, but for a
spoofed frame, which counts for its terminal. -/
def fwdDrop (s : State) (p code : Nat) (cl : Clause) : State :=
  trace (nextFree (fwdCount s code 1)) cl stDrop (pipeIsland p) code (freeVal s)

/-- A frame goes to the control complex from forwarding. -/
def fwdPunt (s : State) (f : Frame) : State := toCtrl s { f with cl := { f.cl with kind := ClauseKind.punt.code } }

/-- Step 7: EGR and QUEUE from the destinations, one or those of a replication list; the policer stage before the queues. -/
def fwdQueue (s : State) (p : Nat) (it : FwdItem) (flood : Option Nat) (dests : List Nat) : State :=
  let (s, cl, drop) := policerStage s it
  if drop then traceDrop s cl (pipeIsland p) 6 scSid cl.sid
  else
    let tos := dests.filterMap fun d => destTo s cl d
    let egr := match flood with | some l => (Egress.replication l).code | none => (tos.head?.map (·.1)).getD 0
    let q := (tos.head?.map (·.2.1)).getD 0
    let cl := { cl with egr := egr, queue := if flood.isSome then cl.queue else q }
    let s := trace s cl stForward (pipeIsland p) cl.queue cl.egr
    flowOut s { it.fr with cl := cl } (tos.map (·.2.2))

/-- Step 5: a frame for a router address is routed. -/
def fwdRoute (s : State) (p : Nat) (it : FwdItem) (bdv : Nat) : State :=
  let cl := it.fr.cl
  let s := match ipDest it with | some (_, typ, _) => countSearch s typ | none => s
  match routeOf s it (nfld bdv 123 112) with
  | .miss => fwdDrop s p 9 cl
  | .drop => trace (nextFree s) cl stDrop (pipeIsland p) (freeVal s) (freeVal s)
  | .punt => fwdPunt s it.fr
  | .nh n =>
    let v := if n < 262144 then tblEntry s tbNh n else 0
    if !nbit v 127 then fwdDrop s p 9 cl
    else
      let (ttl, d) : Nat × List Byte := if nbit v 126 then (decTtl it).getD (0, it.fr.data) else (2, it.fr.data)
      if ttl ≤ 1 then fwdPunt s it.fr
      else
        let out := nfld v 109 94
        let d := withFcs (putBytes d 0 (bytesBE 6 (nfld v 93 46) ++ bytesBE 6 (nfld (bdCfg s out) 75 28)))
        let it := { it with fr := { it.fr with data := d, cl := { cl with bd := out } } }
        let dest := nfld v 125 110
        if dest = 0xFFFF then fwdDrop s p 8 cl else fwdQueue s p it none [dest]

/-- The forwarding stage of pipeline p takes its next frame; members are the destination codes of the replication list the
frame takes when it is flooded. -/
def forwarding (s : State) (p : Nat) (members : List Nat) : State :=
  if !pipeUp s p then s else
  match mget [] s.flow.fwd p with
  | [] => s
  | it :: rest =>
    let s := { s with flow := { s.flow with fwd := mset [] s.flow.fwd p rest } }
    let cl := it.fr.cl
    let bdv := bdCfg s cl.bd
    if !nbit bdv 127 || bdPart bdv != cl.part then fwdDrop s p 10 cl
    else if it.port < 256 ∧ !spoofOk s it bdv then
      let mac := (frameNum it.fr.data 6 6).getD 0
      let old := match brFind s cl.bd mac with | some i => brDest (tblEntry s tbBridge i) | none => freeVal s
      let s := stat (fwdCount (nextFree s) 7 1) scTerm cl.tid 4 1
      traceDrop (fwdNotify s 6 cl.bd mac old cl.tid) cl (pipeIsland p) 4 scTerm cl.tid
    else
      let s := sourceStep s it bdv
      let da := (frameNum it.fr.data 0 6).getD 0
      let hit := (brFind s cl.bd da).map (tblEntry s tbBridge)
      let group := da.testBit 40
      let flood (s : State) : State :=
        if nbit bdv 125 then fwdQueue s p it (some (nfld bdv 111 98)) members else fwdDrop s p 10 cl
      match hit with
      | none => flood s
      | some v =>
        if brDest v = 0xFFFF then fwdDrop s p 8 cl
        else if brRoute v && nbit bdv 124 then fwdRoute s p it bdv
        else if group then flood s
        else fwdQueue s p it none [brDest v]

/-- EGR of a terminal's frame names the channel it works on as the frame reaches the traffic manager (R329). -/
def egrNow (s : State) (cl : Clause) : Clause :=
  match Egress.ofCode cl.egr with
  | some (.pon _) =>
    { cl with egr := (Egress.pon (termChan s (tidOf (treeOfQid cl.queue) (cl.queue % 16384 / 32)))).code }
  | _ => cl
/-- Whether a frame of a DMA channel waits for cells of the control pool (R349); nothing waits on it (R40). -/
def ctrlWaits (s : State) (f : Frame) : Bool :=
  (f.cl.kind == ClauseKind.hostInject.code || (f.cl.kind == ClauseKind.mgmtFrame.code && f.cl.hasFlag flagCoarseTs))
    && (placeCells s 9 f.cl.part f.cl.len []).isNone
/-- The first forwarded frame that does not wait for control-pool cells reaches its queues (R201, R349, R350); the sites whose
write queues hold 256 KiB or more are given. -/
def frameEnqueue (s : State) (busySites : Nat) : State :=
  match s.flow.out.findIdx? fun x => !ctrlWaits s x.1 with
  | none => s
  | some i =>
    match s.flow.out[i]? with
    | none => s
    | some (f, ks) =>
      enqueue { s with flow := { s.flow with out := s.flow.out.eraseIdx i } } { f with cl := egrNow s f.cl } ks busySites

/-- FORWARDING (R312): the pipeline, and the destination codes of the replication list a flooded frame takes. -/
def execForwarding (p : Nat) (members : List Nat) (s : State) : Host.Outcome State Fault Refusal :=
  .next (forwarding s p members)
/-- AGING_SWEEP (R318). -/
def execAgingSweep (s : State) : Host.Outcome State Fault Refusal := .next (agingSweep s)
/-- FRAME_ENQUEUE (R201): the DRAM sites, as a mask, whose write queues hold 256 KiB or more. -/
def execFrameEnqueue (busySites : Nat) (s : State) : Host.Outcome State Fault Refusal :=
  .next (dataUp s fun s => frameEnqueue s busySites)

end Sys2Proof.Machine
end

