-- ==== Sys2Proof/Machine/Uplink.lean ====
section
/-! DEFINITION. Uplink ports (R333 to R337): port groups, links, frames received and sent, the uplink tag, PAUSE and PFC, and
PTP frames (R368). -/
namespace Sys2Proof.Machine

/-- The island of a lane's port group (R33). -/
def uplIsland (u : Nat) : Nat := 256 + u / 8
/-- Whether a port is up: it exists, is enabled, its link is up and its group runs (R333, R334). -/
def portUp (s : State) (u : Nat) : Bool :=
  laneValid s u && portExists s u && rb s (Adr.uplPortCfg u) 31 && rb s (Adr.uplPortStat u) 31
    && islState s (uplIsland u) == islRun

/-! ## Port groups (R333) -/

/-- Flushes an egress queue of a port that no longer exists: its frames are counted as drops of the port, and freed. -/
def uplFlush (s : State) (u tc : Nat) : State :=
  let k := uplKey u tc
  let fs := qFrames s k
  if fs = [] then s
  else fs.foldl (fun s f => traceDrop (qFree s k f) f.cl (uplIsland u) 7 scPort u)
    (stat (setQueue s k []) scPort u 7 fs.length)
def uplFlushAll (s : State) (u : Nat) : State := (List.range 8).foldl (fun s tc => uplFlush s u tc) s

/-- Whether a value of UPL_GRP_MODE names only defined splits. -/
def grpModeOk (v : Word) : Bool := fld v 8 8 == 1 || (decide (fld v 2 0 < 6) && decide (fld v 6 4 < 6))

/-- A lane's part of a mode change: its link stops, EXISTS follows, and a port that no longer exists is flushed. -/
def laneMode (old new : List (Nat × Nat)) (s : State) (u : Nat) : State :=
  let now := new.any (·.1 == u)
  let s := wf (wf s (Adr.uplPortStat u) 31 30 0) (Adr.uplPortStat u) 29 29 (b2n now)
  let s := { s with upl := { s.upl with paused := mdel s.upl.paused u } }
  if old.any (·.1 == u) && !now then uplFlushAll s u else s

/-- A write of UPL_GRP_MODE of group g by the physical function (R333). -/
def grpModeWrite (s : State) (who : Requester) (g : Nat) (v : Word) : State :=
  let a := Adr.uplGrpMode (8 * g)
  if islDown s (256 + g) then wrDown s who a
  else if !isPfSide s who then wrRefuse s who a .notAuthorized
  else if !grpModeOk v then wrRefuse s who a .outOfRange
  else
    let old := groupPorts s g
    let s := wr s a (v &&& 0x177)
    wrOk ((List.range 8).foldl (fun s j => laneMode old (groupPorts s g) s (8 * g + j)) s) who a

/-- A port's PCS aligns and FEC locks (R334); AN_DONE shows a completed negotiation of KR and CR. -/
def linkUp (s : State) (u : Nat) : State :=
  if laneValid s u && portExists s u && rb s (Adr.uplPortCfg u) 31 && islState s (uplIsland u) == islRun then
    let an := rb s (Adr.uplPortCfg u) 28 && decide (2 ≤ rf s (Adr.uplPortCfg u) 30 29)
    wb (wb s (Adr.uplPortStat u) 31 true) (Adr.uplPortStat u) 30 an
  else s

/-- A port loses alignment or FEC lock. -/
def linkDown (s : State) (u : Nat) : State := wf s (Adr.uplPortStat u) 31 30 0

/-! ## PTP frames (R368) -/

/-- Where a PTP event message starts in a frame, after an EtherType of 0x88F7 at 12, with its messageType below 4. -/
def ptpAt (d : List Byte) : Option Nat :=
  if frameNum d 12 2 = some 0x88F7 ∧ nfld ((frameNum d 14 1).getD 0xFF) 3 0 < 4 then some 14 else none

/-- A correction in units of 8 ps as ticks of 2^-16 ns. -/
def corrTicks (v : Nat) : Int := signed 12 v * 8 * 65536 / 1000

/-- The time on base b, ofs ns after the cycle start, with a correction, in ticks. -/
def portTicks (s : State) (b ofs : Nat) (corr : Int) : Nat := ((baseTicks s b + ofs * 65536 : Nat) + corr).toNat

/-! ## Receive (R334 to R337, R366, R367) -/

/-- Whether a received uplink tag passes: HEC, VER, and SID inside PART's range (R337). -/
def uptagOk (s : State) (d : List Byte) : Bool :=
  match frameNum d 12 16 with
  | none => false
  | some t =>
    crc16 ((d.drop 12).take 14) == nfld t 15 0 && nfld t 111 108 == 1
      && partHasSid (partPlan s) (nfld t 107 102) (nfld t 78 59)

/-- A frame whose FCS holds, of a size the port carries, goes to its pipeline. -/
def uplRxGo (s : State) (u ofs : Nat) (d : List Byte) : State :=
  let n := d.length
  if !fcsOk d || decide (n < 64) || decide (16383 < n) || decide (clamp 64 16383 (rf s (Adr.uplPortCfg u) 13 0) < n) then
    stat s scPort u 4 1
  else
    let s := stat (stat s scPort u 0 1) scPort u 1 n
    if hasUptag s (256 + u) d && !uptagOk s d then fwdCount s 14 1
    else
      let cfg := rd s (Adr.uplTsCfg u)
      let rx := - corrTicks (fld cfg 11 0)
      let ts := portTicks s 0 ofs rx / 65536 % 2 ^ 40
      let trl := if fld cfg 31 31 = 1 ∧ (ptpAt d).isSome then bytesBE 12 (ticksTime (portTicks s (fld cfg 29 27) ofs rx))
                 else []
      let cl : Clause := { chan := 0xFF, len := n, buf := noBuf, tsIn := ts,
                           part := rf s (Adr.uplPortCfg u) 19 14 }
      if frameNum d 12 2 = some 0x8809 ∧ frameNum d 14 1 = some 0x0A then
        toCtrl s { cl := { cl with kind := ClauseKind.punt.code }, data := d, trl := trl }
      else ingressPut s { fr := { cl := cl, data := d, trl := trl }, port := 256 + u }

/-- A frame arrives on an uplink port, past its receive injector; fec is how many uncorrectable FEC codewords the port has
met since its last frame. -/
def uplReceive (s : State) (u ofs : Nat) (d : List Byte) (fec : Nat) : State :=
  if !portUp s u || s.boot.dataStopped then s
  else
    let s := satF s (Adr.uplPortStat u) 23 0 fec
    let (us, s) := fiPass s (Adr.fiCfgUrx u) none (.uplRx u ofs d)
    us.foldl (fun s x => match x with | .uplRx u o d => uplRxGo s u o d | _ => s) s

/-! ## PAUSE and PFC (R335) -/

/-- A received PAUSE (all queues) or PFC frame with its pause time by class: a time of 0 ends a pause. -/
def pfcReceive (s : State) (u : Nat) (pfc : Bool) (vec : Nat) (times : List Nat) : State :=
  if !portUp s u || !rb s (Adr.uplPortCfg u) 25 then s
  else
    let old := mget 0 s.upl.paused u
    let new := (List.range 8).foldl (fun m tc =>
      if pfc && !vec.testBit tc then m
      else putBit m tc (decide (times.getD (if pfc then tc else 0) 0 ≠ 0))) old
    { s with upl := { s.upl with paused := mset 0 s.upl.paused u new } }

/-- The pause time of the classes of a mask runs out. -/
def pauseExpire (s : State) (u mask : Nat) : State :=
  let new := (List.range 8).foldl (fun m tc => if mask.testBit tc then putBit m tc false else m) (mget 0 s.upl.paused u)
  { s with upl := { s.upl with paused := mset 0 s.upl.paused u new } }

/-! ## Transmit (R222, R337, R368) -/

/-- The uplink tag of a frame (R336). -/
def uptagBytes (cl : Clause) : List Byte :=
  let put (acc w v : Nat) : Nat := acc * 2 ^ w + v % 2 ^ w
  let t := put (put (put (put 0x88B5 4 1) 6 cl.part) 15 cl.tid) 8 cl.chan
  let t := put (put (put (put (put t 20 cl.sid) 3 cl.tc) 2 cl.dp) 2 0) 32 cl.tsIn
  let t := put (put t 1 (b2n (cl.hasFlag flagCoarseTs))) 3 0
  let b := bytesBE 14 t
  b ++ bytesBE 2 (crc16 b)

/-- Whether a frame of an egress queue fits its gate from ofs ns after the cycle start on (R215, R222). -/
def uplFits (s : State) (u ofs k : Nat) (f : QFrame) : Bool :=
  spanFits s (256 + u) (k % 8) (ofs * 1000) (ofs * 1000 + tWorst s (256 + u) (gateLen s k f))
/-- Whether the head frame of class tc may leave now: standing, not paused, fitting its gate (R215, R222, R335). -/
def uplHead (s : State) (u tc ofs : Nat) : Option QFrame :=
  if (mget 0 s.upl.paused u).testBit tc then none
  else match qHead s (uplKey u tc) with
    | none => none
    | some f => if f.cl.kind = ClauseKind.tracer.code ∨ uplFits s u ofs (uplKey u tc) f = true then some f else none

/-- The frame as it leaves: one-step correction of a Sync, then the uplink tag, each with the FCS recomputed. -/
def uplFrameOut (s : State) (u ofs : Nat) (f : QFrame) : List Byte :=
  let cfg := rd s (Adr.uplTsCfg u)
  let d := f.data
  let d := match ptpAt d with
    | some o =>
      if fld cfg 31 31 = 1 ∧ fld cfg 30 30 = 1 ∧ nfld ((frameNum d o 1).getD 1) 3 0 = 0 then
        let tx := portTicks s 0 ofs (corrTicks (fld cfg 23 12))
        let res := modSub (tx / 65536 % 2 ^ 40) f.cl.tsIn (2 ^ 40) * 65536 + tx % 65536
        withFcs (putBytes d (o + 8) (bytesBE 8 (((frameNum d (o + 8) 8).getD 0 + res) % 2 ^ 64)))
      else d
    | none => d
  if addsUptag s u f.cl then withFcs (d.take 12 ++ uptagBytes f.cl ++ d.drop 12) else d

/-- An uplink port selects and sends its next frame, ofs ns after the cycle start: strict priority, class 7 first (R222). -/
def uplTransmit (s : State) (u ofs : Nat) : State :=
  if !portUp s u || s.boot.dataStopped then s
  else
    let ks := (List.range 8).map (uplKey u)
    let s := qCleanAll s ks
    let s := markFits s ks (uplFits s u ofs)
    match ((List.range 8).map (7 - ·)).find? fun tc => (uplHead s u tc ofs).isSome with
    | none => s
    | some tc =>
      match uplHead s u tc ofs with
      | none => s
      | some f =>
        let k := uplKey u tc
        let s := trace s f.cl stSelect (uplIsland u) f.cl.queue (qDepth s k)
        if f.cl.kind = ClauseKind.tracer.code then
          trace (qPop s k) f.cl stTransmit (uplIsland u) f.cl.egr 0
        else
          let d := uplFrameOut s u ofs f
          let s := stat (stat s scPort u 2 1) scPort u 3 f.len
          let s := emitFi s (Adr.fiCfgUtx u) none (.uplFrame u tc d.length d)
          let s := trace s f.cl stTransmit (uplIsland u) f.cl.egr 0
          let s := qFree (qPop s k) k f
          let cfg := rd s (Adr.uplTsCfg u)
          match f.tsReq, ptpAt f.data with
          | some (ch, i), some _ =>
            if fld cfg 31 31 = 1 then
              dmaTimeRec s ch i (ticksTime (portTicks s (fld cfg 29 27) ofs (corrTicks (fld cfg 23 12))))
            else s
          | _, _ => s

/-- UPL_GRP_MODE_WRITE (R333): requester, port group, value. -/
def execUplGrpModeWrite (who : Requester) (g : Nat) (value : Word) (s : State) : Host.Outcome State Fault Refusal :=
  .next (grpModeWrite s who g value)
/-- UPLINK_LINK_UP (R334). -/
def execUplinkLinkUp (u : Nat) (s : State) : Host.Outcome State Fault Refusal := .next (linkUp s u)
/-- UPLINK_LINK_DOWN (R334). -/
def execUplinkLinkDown (u : Nat) (s : State) : Host.Outcome State Fault Refusal := .next (linkDown s u)
/-- UPLINK_FRAME_RECEIVE (R337): port, ns after the cycle start, the frame from its destination address to its FCS, and the
uncorrectable FEC codewords met since the port's last frame. -/
def execUplinkFrameReceive (u ofs : Nat) (data : List Byte) (fec : Nat) (s : State) : Host.Outcome State Fault Refusal :=
  .next (uplReceive s u ofs data fec)
/-- PFC_RECEIVE (R335): port, PFC or PAUSE, the class-enable vector, and the pause times (of a PAUSE, its one time). -/
def execPfcReceive (u : Nat) (pfc : Bool) (vec : Nat) (times : List Nat) (s : State) : Host.Outcome State Fault Refusal :=
  .next (pfcReceive s u pfc vec times)
/-- PAUSE_TIMER_EXPIRE (R335): port, and the classes whose time has run out. -/
def execPauseTimerExpire (u mask : Nat) (s : State) : Host.Outcome State Fault Refusal := .next (pauseExpire s u mask)
/-- UPLINK_FRAME_TRANSMIT (R222): port, ns after the cycle start. -/
def execUplinkFrameTransmit (u ofs : Nat) (s : State) : Host.Outcome State Fault Refusal := .next (uplTransmit s u ofs)

end Sys2Proof.Machine
end

