-- ==== Sys2Proof/Machine/Dies.lean ====
section
/-! DEFINITION. Die-to-die ports, flits and credits (R16 to R18), lost islands (R20, R36), memory errors (R37), Clauses that
enter an island (R31, R39). -/
namespace Sys2Proof.Machine

/-! ## Lost islands (R20, R36) -/

/-- Raises an event whose code no chapter gives. -/
def raiseFree (s : State) (i : Nat) (sev : Severity) : State := raise (nextFree s) i sev (freeVal s % 65536)

/-- An uplink port group is lost: its ports lose their links. -/
def groupLost (s : State) (g : Nat) : State :=
  if laneValid s (8 * g) = false ∨ islState s (256 + g) = islLost then s
  else
    let stop (s : State) (u : Nat) : State := linkDown (fiOff (fiOff s (Adr.fiCfgUtx u)) (Adr.fiCfgUrx u)) u
    raiseFree ((List.range 8).foldl (fun s j => stop s (8 * g + j)) (setIsl s (256 + g) islLost)) (256 + g) .contained
/-- A die-to-die port is lost: the channels and uplink lanes it carries stop, each a lost island (R18). -/
def d2dLost (s : State) (p : Nat) : State :=
  if islState s (320 + p) = islLost then s
  else
    let s := { s with dies := { s.dies with
      ports := mset {} (mset {} s.dies.ports (2 * p + 1) {}) (2 * p) { lost := true } } }
    let s := raiseFree (setIsl s (320 + p) islLost) (320 + p) .degraded
    let s := (List.range 32).foldl (fun s i => chanLost s (32 * p + i) 3) s
    (List.range 4).foldl (fun s i => groupLost s (4 * p + i)) s
/-- A pipeline is lost with the items in it. -/
def pipeLost (s : State) (p : Nat) : State :=
  let s := dropCtx (setIngress s p []) p
  { s with flow := { s.flow with fwd := mset [] s.flow.fwd p [] } }
/-- An island is lost by a fault: what it held stops, and the event has the severity of R36. DETAIL is a channel's (R117). -/
def islandLost (s : State) (i det : Nat) : State :=
  let st := islState s i
  if i < 256 then chanLost s i det
  else if i < 288 then groupLost s (i - 256)
  else if 342 ≤ i ∨ st = islLost ∨ st = islFused then s
  else if i < 304 then raiseFree (pipeLost (setIsl s i islLost) (i - 288)) i .degraded
  else if i < 320 then raiseFree (sliceLost (setIsl s i islLost) (i - 304)) i .degraded
  else if i < 328 then d2dLost s (i - 320)
  else if i < 332 then raiseFree (setIsl s i islLost) i .degraded
  else if i < 336 then raiseFree (siteLost (setIsl s i islLost) (i - 332)) i .degraded
  else if i = 341 then raiseFree (setIsl s i islLost) i .degraded
  else raiseFree (setIsl s i islLost) i .fatal

/-! ## Flits and credits (R17, R18) -/

/-- What is kept of a port's direction (d 0 toward the core die); a retraining is kept at direction 0. -/
def d2dOf (s : State) (p d : Nat) : D2dPort := mget {} s.dies.ports (2 * p + d)
def setD2d (s : State) (p d : Nat) (x : D2dPort) : State :=
  { s with dies := { s.dies with ports := mset {} s.dies.ports (2 * p + d) x } }
/-- Key of the credits of a class (0 DATA, 1 CONTROL, 2 ESCAPE) and logical port of a direction. -/
def creditKey (p d cls lp : Nat) : Nat := ((2 * p + d) * 3 + cls) * 64 + lp
/-- ESCAPE flits of a direction whose credit is out, of 64 reserved ones. -/
def escapeOut (s : State) (p d : Nat) : Nat :=
  (List.range 64).foldl (fun n lp => n + mget 0 s.dies.creditsOut (creditKey p d 2 lp)) 0

/-- A good flit in its turn is accepted: its credit is out, and it leaves the retry buffer where it was replayed. -/
def flitAccept (s : State) (p d cls lp : Nat) : State :=
  let x := d2dOf s p d
  let s := setD2d s p d { x with replays := 0, retry := x.retry.drop 1 }
  let k := creditKey p d cls lp
  { s with dies := { s.dies with creditsOut := mset 0 s.dies.creditsOut k (mget 0 s.dies.creditsOut k + 1) } }
/-- A flit fails in its turn: it stays at the head of the retry buffer and is replayed, and at its ninth failure the port
retrains. -/
def flitFail (s : State) (p d cls lp : Nat) (data : List Byte) : State :=
  let x := d2dOf s p d
  let x := { x with retry := (cls, lp, data) :: x.retry.drop 1 }
  if x.replays < 8 then
    raiseFree (pc (setD2d s p d { x with replays := x.replays + 1 }) { code := 0x11, unit := some p }) (320 + p) .corrected
  else
    let s := setD2d s p d { x with replays := 0 }
    setD2d s p 0 { d2dOf s p 0 with retraining := true }
/-- A flit is checked (R18). One that arrives behind a flit still to be replayed waits in the retry buffer of 128 flits for its own
replay, so that replays keep the order of the link (assumption log 49). -/
def flitGo (s : State) (p d cls lp : Nat) (data : List Byte) (ok : Bool) : State :=
  let x := d2dOf s p d
  match x.retry with
  | f :: _ =>
    if f = (cls, lp, data) then (if ok then flitAccept s p d cls lp else flitFail s p d cls lp data)
    else if (cls, lp, data) ∈ x.retry ∨ 128 ≤ x.retry.length then s
    else setD2d s p d { x with retry := x.retry ++ [(cls, lp, data)] }
  | [] => if ok then flitAccept s p d cls lp else flitFail s p d cls lp data
/-- Flits that an injector lets go. -/
def flitUnits (s : State) (us : List FiUnit) : State :=
  us.foldl (fun s u => match u with | .flit p d cls lp x ok => flitGo s p d cls lp x ok | _ => s) s
/-- A flit arrives on a port; the retry acts on one that an injector drops. -/
def flitReceive (s : State) (p d cls lp : Nat) (data : List Byte) (ok : Bool) : State :=
  let x := d2dOf s p 0
  if x.lost ∨ x.retraining ∨ (cls = 2 ∧ 64 ≤ escapeOut s p d) then s
  else
    let s := pc s { code := 0x10, unit := some p }
    let cfg := Adr.fiCfgObs (2 * p + d)
    let armed := fiArmed s cfg
    let (us, s) := fiPass s cfg none (.flit p d cls lp data ok)
    if us.isEmpty && armed && rfW s cfg 4 126 124 == 1 then flitGo s p d cls lp data false else flitUnits s us

/-- A retraining ends; the third failed one in a row loses the port. -/
def retrainDone (s : State) (p : Nat) (ok : Bool) : State :=
  let x := d2dOf s p 0
  if !x.retraining then s
  else if ok then setD2d s p 0 { x with retraining := false, failedRow := 0 }
  else if x.failedRow < 2 then setD2d s p 0 { x with failedRow := x.failedRow + 1 }
  else d2dLost s p
/-- A credit returns to the sender. -/
def creditReturn (s : State) (p d cls lp : Nat) : State :=
  let k := creditKey p d cls lp
  { s with dies := { s.dies with creditsOut := mset 0 s.dies.creditsOut k (mget 0 s.dies.creditsOut k - 1) } }

/-! ## Memory errors (R37) -/

/-- A buffer freed by every holder it has left. -/
def bufDrop (s : State) (h isl : Nat) : State :=
  match descOf s h with
  | some d => d.names.foldl (fun s n => (bufFree s h n isl).1) s
  | none => s
/-- The frames that a condition picks out of a list of waiting items of flow are taken away. -/
def flowWithout (s : State) (bad : Clause → Bool) : State :=
  { s with flow := { s.flow with
      ingress := (s.flow.ingress.map fun q => (q.1, q.2.filter fun x => !bad x.fr.cl)).filter fun q => q.2 != []
      fwd := (s.flow.fwd.map fun q => (q.1, q.2.filter fun x => !bad x.fr.cl)).filter fun q => q.2 != []
      out := s.flow.out.filter fun x => !bad x.1.cl
      toHost := s.flow.toHost.filter fun x => !bad x.2.cl
      ctrl := s.flow.ctrl.filter fun x => !bad x.cl } }
/-- Whether an item of a buffer waits anywhere before the queues, or for the host or the control complex. -/
def inFlow (s : State) (h : Nat) : Bool :=
  s.flow.ingress.any (fun q => q.2.any fun x => x.fr.cl.buf == h) || s.flow.fwd.any (fun q => q.2.any fun x => x.fr.cl.buf == h)
    || s.flow.out.any (fun x => x.1.cl.buf == h) || s.flow.toHost.any (fun x => x.2.cl.buf == h)
    || s.flow.ctrl.any fun x => x.cl.buf == h
/-- The frames of a buffer are discarded: from the queues that hold them, where they count as lost in flight, and from every place
before and beside the queues. -/
def cellFrames (s : State) (h : Nat) : State :=
  let s := s.sched.queues.foldl (fun s q =>
    let bad := q.2.filter fun f => f.cl.buf == h
    if bad.isEmpty then s
    else
      let s := setQueue s q.1 (q.2.filter fun f => f.cl.buf != h)
      bad.foldl (fun s f => qFree (lostFlight s q.1 1) q.1 f) s) s
  if h = noBuf ∨ inFlow s h = false then s else bufDrop (flowWithout s fun cl => cl.buf == h) h 304
/-- A table entry read with an uncorrectable error counts as invalid; its table and index are reported (assumption log 51). -/
def entryBad (s : State) (isl code idx : Nat) : State :=
  match tblShape s code with
  | some (_, n) =>
    if idx < n then raiseFree (emit (showPlanes (tblPut s code idx 0) code) (.tableError code idx)) isl .degraded else s
  | none => s
/-- An error found by a read or by the scrub. -/
def sramError (s : State) (e : SramErr) : State :=
  match e with
  | .single i => if i < 342 then raiseFree s i .corrected else s
  | .cell h => raiseFree (cellFrames s h) 304 .corrected
  | .entry i code idx => if i < 342 then entryBad s i code idx else s
  | .state i => islandLost s i 1

/-! ## Clauses (R29, R31, R39) -/

/-- The item of a Clause is discarded and its buffer freed (R31): the one before or beside the queues whose buffer it names, else the
copy in the queue it names, else the buffer alone. An item without a buffer is known by its Clause. -/
def itemDrop (s : State) (i : Nat) (cl : Clause) : State :=
  if cl.buf = noBuf then flowWithout s fun x => x == cl
  else if inFlow s cl.buf then bufDrop (flowWithout s fun x => x.buf == cl.buf) cl.buf i
  else match (qFrames s cl.queue).find? fun f => f.cl.buf == cl.buf with
    | some f => qFree (setQueue s cl.queue ((qFrames s cl.queue).filter fun g => g.cl.buf != cl.buf)) cl.queue f
    | none => bufDrop s cl.buf i
/-- A Clause fails: the item is discarded, its buffer freed; a channel with more than 1,000 within a second is lost. -/
def clauseError (s : State) (i : Nat) (cl : Clause) : State :=
  let s := itemDrop s i cl
  let s := raise (cnt32 s (Adr.glbClauseErr i) 1) i .corrected 0x0002
  if i < 256 then
    let n := mget 0 s.line.clauseSec i + 1
    let s := { s with line := { s.line with clauseSec := mset 0 s.line.clauseSec i n } }
    if 1000 < n then chanLost s i 4 else s
  else s
/-- An item enters an island: its CHECK is verified, and a reserved KIND counts as a Clause error. -/
def itemGo (s : State) (i : Nat) (cl : Clause) (check : Nat) : State :=
  if check ≠ cl.check ∨ 8 ≤ cl.kind then clauseError s i cl else s
/-- Items that an injector lets go. -/
def itemUnits (s : State) (us : List FiUnit) : State :=
  us.foldl (fun s u => match u with | .item _ dst cl check => itemGo s dst cl check | _ => s) s
/-- The island-link injectors that select a pair of islands. -/
def linkInjectors (s : State) (src dst : Nat) : List Nat :=
  ((List.range 16).map (· + 18)).filter fun i => rf s (Adr.obsFiLink i) 24 16 == src && rf s (Adr.obsFiLink i) 8 0 == dst
/-- Units pass one injector after another. -/
def passAll : List Nat → List FiUnit → State → List FiUnit × State
  | [], us, s => (us, s)
  | i :: r, us, s =>
    let (us, s) := us.foldl (fun (acc, s) u =>
      let (v, s) := fiPass s (Adr.fiCfgObs i) none u
      (acc ++ v, s)) (([] : List FiUnit), s)
    passAll r us s
/-- An item's Clause arrives from island src at island dst. -/
def clauseEntry (s : State) (src dst : Nat) (cl : Clause) (check : Nat) : State :=
  let (us, s) := passAll (linkInjectors s src dst) [.item src dst cl check] s
  itemUnits s us

/-! ## Commands -/

/-- FLIT_RECEIVE (R18): port, direction (0 toward the core die), class (0 DATA, 1 CONTROL, 2 ESCAPE), logical port, bytes, whether
its CRC-32 holds. -/
def execFlitReceive (p d cls lp : Nat) (data : List Byte) (ok : Bool) (s : State) : Host.Outcome State Fault Refusal :=
  .next (if p < 8 ∧ d < 2 ∧ cls < 3 ∧ lp < 64 then flitReceive s p d cls lp data ok else s)
/-- RETRAIN_COMPLETE (R18): port, whether it succeeded. -/
def execRetrainComplete (p : Nat) (ok : Bool) (s : State) : Host.Outcome State Fault Refusal :=
  .next (if p < 8 then retrainDone s p ok else s)
/-- CREDIT_RETURN (R17): port, direction, class, logical port. -/
def execCreditReturn (p d cls lp : Nat) (s : State) : Host.Outcome State Fault Refusal :=
  .next (if p < 8 ∧ d < 2 ∧ cls < 3 ∧ lp < 64 then creditReturn s p d cls lp else s)
/-- ISLAND_LOST (R20): island, and for a channel the DETAIL of R117. -/
def execIslandLost (i det : Nat) (s : State) : Host.Outcome State Fault Refusal := .next (islandLost s i det)
/-- SRAM_ERROR (R37). -/
def execSramError (e : SramErr) (s : State) : Host.Outcome State Fault Refusal := .next (sramError s e)
/-- SCRUB_PASS (R37): a pass that finds nothing leaves everything as it stands; what it finds is SRAM_ERROR. -/
def execScrubPass (s : State) : Host.Outcome State Fault Refusal := .next s
/-- CLAUSE_ISLAND_ENTRY (R31): source and destination islands, the Clause and its CHECK. -/
def execClauseIslandEntry (src dst : Nat) (cl : Clause) (check : Nat) (s : State) : Host.Outcome State Fault Refusal :=
  .next (if src < 342 ∧ dst < 342 then clauseEntry s src dst cl check else s)

end Sys2Proof.Machine
end

