-- ==== Sys2Proof/Machine/Inject.lean ====
section
/-! DEFINITION. Observation commands (R433 to R437), and arming, ending and releasing fault injectors (R439 to R441, R292). -/
namespace Sys2Proof.Machine

/-- The address of an injector: 0 a channel's downstream one, 1 its upstream one, 2 a port's transmit one, 3 its receive one, 4 an OBS
block (R442). -/
def fiAddr (kind i : Nat) : Option Nat :=
  match kind with
  | 0 => if i < 256 then some (Adr.fiCfgDs i) else none
  | 1 => if i < 256 then some (Adr.fiCfgUs i) else none
  | 2 => if i < 256 then some (Adr.fiCfgUtx i) else none
  | 3 => if i < 256 then some (Adr.fiCfgUrx i) else none
  | 4 => if i < 34 then some (Adr.fiCfgObs i) else none
  | _ => none
/-- Operations an injector's link takes: an upstream PON link DROP and CORRUPT only (R439). -/
def fiOps (kind : Nat) : Nat := if kind = 1 then 2 else 4
/-- Every injector. -/
def fiAll : List Nat :=
  (List.range 256).flatMap (fun i => [Adr.fiCfgDs i, Adr.fiCfgUs i, Adr.fiCfgUtx i, Adr.fiCfgUrx i])
    ++ (List.range 34).map Adr.fiCfgObs

/-- A unit that was held goes on. -/
def fiGo (s : State) (u : FiUnit) : State :=
  match u with
  | .out o => emit s o
  | .uplRx p o d => uplRxGo s p o d
  | .plkRx m k => plkGo s m k
  | .flit p d cls lp x ok => flitGo s p d cls lp x ok
  | .item _ dst cl check => itemGo s dst cl check
  | .burst _ => s
/-- An injector releases what it holds, in order. -/
def fiRelease (s : State) (cfg : Nat) : State :=
  let l := (fiOf s cfg).held
  l.foldl (fun s u => fiGo s u.1) (setFi s cfg { fiOf s cfg with held := [] })
/-- Every injector disarms and releases what it holds (R441). -/
def fiDisarmAll (s : State) : State := fiAll.foldl (fun s cfg => fiRelease (fiDisarm s cfg) cfg) s

/-- A write of OBS_FI_GLOBAL (R441). -/
def fiGlobalWrite (s : State) (who : Requester) (v : Word) : State :=
  let a := Adr.obsFiGlobal
  if islDown s 336 then wrDown s who a
  else if !isPfSide s who ∨ fiLocked s then wrRefuse s who a .notAuthorized
  else if fld v 31 31 = 1 ∧ fld v 15 0 ≠ 0xF1A5 then wrOk s who a
  else
    let s := if fld v 30 30 = 1 ∨ fld v 31 31 = 0 then fiDisarmAll s else s
    wrOk (wf s a 31 31 (fld v 31 31)) who a
/-- A write of word 3 of FI_CFG: the register's 128 bits. -/
def fiWrite (s : State) (who : Requester) (kind i v : Nat) : State :=
  match fiAddr kind i with
  | some a => if islDown s (islandOf a) then wrDown s who a else fiCfgWrite s who a v (fiOps kind)
  | none => s

/-- FI_LOCK (R292): injectors disarm, keys go, and the module may be approved again. -/
def fiLock (s : State) (c : CmdCtx) : State × OutRec := coService c s fun s => (fiRelock (fiDisarmAll s), doneRec)

/-- A write of the high word of OBS_TRACE_INJ injects one tracer (R437): the register's 64 bits. -/
def traceInject (s : State) (who : Requester) (v : Nat) : State :=
  let a := Adr.obsTraceInj
  if islDown s 336 then wrDown s who a
  else if !isPfSide s who then wrRefuse s who a .notAuthorized
  else
    let p := nfld v 63 60
    let cl : Clause := { kind := ClauseKind.tracer.code, egr := nfld v 59 44, queue := nfld v 19 0, buf := noBuf,
                         trace := 128 + s.obs.injected % 128 }
    let s := { s with obs := { s.obs with injected := s.obs.injected + 1 } }
    wrOk (setIngress s p (ingressOf s p ++ [{ fr := { cl := cl }, port := 16 * p }])) who a

/-- FI_LOCK (R292). -/
def execFiLock (r : Nat) (s : State) : Host.Outcome State Fault Refusal := .next (secCmd s r 0x5010 fiLock)
/-- SNAPSHOT (R434): requester, the value written to OBS_SNAP_CTL, ns after the cycle start. -/
def execSnapshot (who : Requester) (value : Word) (ofs : Nat) (s : State) : Host.Outcome State Fault Refusal :=
  .next (snapCtlWrite s who value ofs)
/-- FREEZE (R436): requester, the value written to OBS_SNAP_CTL, ns after the cycle start. -/
def execFreeze (who : Requester) (value : Word) (ofs : Nat) (s : State) : Host.Outcome State Fault Refusal :=
  .next (snapCtlWrite s who value ofs)
/-- PC_VALUE_WRITE (R433): requester, counter, the 64 bits of OBS_PC_VAL. -/
def execPcValueWrite (who : Requester) (n value : Nat) (s : State) : Host.Outcome State Fault Refusal :=
  .next (if n < 256 then pcValWrite s who n value else s)
/-- TRACE_INJECT (R437): requester, the 64 bits of OBS_TRACE_INJ. -/
def execTraceInject (who : Requester) (value : Nat) (s : State) : Host.Outcome State Fault Refusal :=
  .next (traceInject s who value)
/-- KILL (R441): requester, the value written to OBS_FI_GLOBAL. -/
def execKill (who : Requester) (value : Word) (s : State) : Host.Outcome State Fault Refusal := .next (fiGlobalWrite s who value)
/-- FI_ARM (R441): requester, kind and number of the injector, the 128 bits of FI_CFG. -/
def execFiArm (who : Requester) (kind i value : Nat) (s : State) : Host.Outcome State Fault Refusal :=
  .next (fiWrite s who kind i value)
/-- FI_HOLD_RELEASE (R440): kind and number of the injector. -/
def execFiHoldRelease (kind i : Nat) (s : State) : Host.Outcome State Fault Refusal :=
  .next (match fiAddr kind i with | some a => fiRelease s a | none => s)

end Sys2Proof.Machine
end

