-- ==== Sys2Proof/Machine/Power.lean ====
section
/-! DEFINITION. The power manager (R443 to R453): rails, core voltage, gating, thermal stages, the cap loop. -/
namespace Sys2Proof.Machine

def pwrUpd (s : State) (f : PwrSt → PwrSt) : State := { s with pwr := f s.pwr }
/-- Raises a power event; the chapter gives a severity to THERM_WARN and THERM_SHUTDOWN only. -/
def pwrEvent (s : State) (bit : Nat) : State :=
  evBit s Adr.pwrEvent bit 338 (if bit = 5 then .fatal else .corrected) (0x1100 + bit)

/-! ## Rails (R444, R445) -/

def railEn (s : State) (r : Nat) : Bool := rfW s (Adr.pwrRailCfg r) 2 63 63 == 1
def railInCap (s : State) (r : Nat) : Bool := railEn s r && rfW s (Adr.pwrRailCfg r) 2 62 62 == 1
def railKind (s : State) (r : Nat) : Nat := rfW s (Adr.pwrRailCfg r) 2 55 52
def railTel (s : State) (r hi lo : Nat) : Nat := rfW s (Adr.pwrRailTel r) 2 hi lo
def setRailTel (s : State) (r hi lo v : Nat) : State := wfW s (Adr.pwrRailTel r) 2 hi lo v
/-- A rail's telemetry is posted. -/
def railPost (s : State) (r : Nat) (x : RailRead) : State :=
  match x with
  | some (v, i, t) =>
    if railEn s r then setRailTel (setRailTel (setRailTel (setRailTel s r 47 32 v) r 31 16 i) r 7 0 t) r 63 63 0 else s
  | none => s
/-- The power of the rails in the cap measure, in 10^-5 W. -/
def railPower (s : State) : Nat :=
  (List.range 16).foldl (fun n r => if railInCap s r then n + railTel s r 47 32 * railTel s r 31 16 else n) 0
/-- Every enabled rail is read; the cap measure takes what stands in the telemetry. -/
def railPoll (s : State) (xs : List RailRead) : State :=
  let s := (List.range 16).foldl (fun s r => railPost s r (xs.getD r none)) s
  pwrUpd s fun p => { p with energy := p.energy + railPower s, polls := p.polls + 1 }
/-- STATUS_WORD of every rail is read: a set bit is a fault. -/
def pmbAlert (s : State) (ws : List (Option Nat)) : State :=
  (List.range 16).foldl (fun s r =>
    match ws.getD r none with
    | some w =>
      let w := w % 2 ^ 15
      if railEn s r && w != 0 then pwrEvent (setRailTel s r 62 48 w) 0 else s
    | none => s) s
/-- A rail has answered nothing for 1 s. -/
def pmbLost (s : State) (r : Nat) : State :=
  if railEn s r && railTel s r 63 63 == 0 then pwrEvent (setRailTel s r 63 63 1) 1 else s

/-! ## Core voltage (R445 to R447) -/

def dvfsFld (s : State) (k hi lo : Nat) : Nat := rf s (Adr.pwrDvfs k) hi lo
def setDvfs (s : State) (k hi lo v : Nat) : State := wf s (Adr.pwrDvfs k) hi lo v
/-- A code is commanded to the rails of die k: VNOW, and VOUT_COMMAND of each enabled rail of its KIND, within 0.65 V to 0.80 V. -/
def sendVolt (s : State) (k code : Nat) : State :=
  (List.range 16).foldl (fun s r =>
    if railEn s r && railKind s r == k + 1 then emit s (.pmbus r (650 + 5 * min 30 code)) else s) (setDvfs s k 12 8 (min 30 code))

/-- The core die's clock takes the frequency of the POINT its register holds. -/
def dvfsFreq (s : State) (k : Nat) : State :=
  if k = 0 then pwrUpd s fun p => { p with point := dvfsFld s 0 25 24 } else s
/-- A change of die k to the point and voltage its register holds (R447): a lower frequency is taken first and the voltage follows;
a higher one waits until the voltage has risen, which is over at VOUT_REACHED. -/
def dvfsStart (s : State) (k : Nat) : State :=
  let code := dvfsFld s k 20 16
  if k ≠ 0 ∧ dvfsFld s k 31 31 = 1 then s
  else
    let s := if s.pwr.point ≤ dvfsFld s 0 25 24 then dvfsFreq s k else s
    if dvfsFld s k 12 8 < code then setDvfs (sendVolt s k code) k 0 0 1
    else
      let s := dvfsFreq s k
      if code < dvfsFld s k 12 8 then sendVolt s k code else s
/-- The fields a request sets. -/
def dvfsPut (s : State) (k : Nat) (v : Word) : State :=
  let s := setDvfs s k 20 16 (fld v 20 16)
  if k = 0 then setDvfs s 0 25 24 (fld v 25 24) else setDvfs s k 31 31 (fld v 31 31)
/-- A request of die k: one that lands during a change waits for its end. -/
def dvfsRequest (s : State) (k : Nat) (v : Word) : State :=
  if s.pwr.shutdown then dvfsPut s k v
  else if dvfsFld s k 0 0 = 1 then pwrUpd s fun p => { p with next := mput p.next k v }
  else dvfsStart (dvfsPut s k v) k
/-- A write of PWR_DVFS by the owner of function 6. -/
def dvfsWrite (s : State) (who : Requester) (k : Nat) (v : Word) : State :=
  let a := Adr.pwrDvfs k
  if islDown s 338 then wrDown s who a
  else if isOwner s who 338 6 0 = false then wrNotOwner s who a 6 0
  else if 30 < fld v 20 16 ∨ (k = 0 ∧ fld v 20 16 < pointFloor (fld v 25 24)) then wrRefuse s who a .outOfRange
  else wrOk (dvfsRequest s k v) who a
/-- READ_VOUT has come within 10 mV of the target, or 500 us have passed: the frequency rises, and a waiting request starts. -/
def voutReached (s : State) (k : Nat) : State :=
  if dvfsFld s k 0 0 = 0 then s
  else
    let s := dvfsFreq (setDvfs s k 0 0 0) k
    match s.pwr.next.find? (·.1 = k) with
    | some (_, v) => dvfsStart (dvfsPut (pwrUpd s fun p => { p with next := mdel p.next k }) k v) k
    | none => s
/-- The margin monitors of an AVS limb die pass down to a code: the voltage goes there, never below 0.70 V; at the basic level
(R446, R453). -/
def avsCheck (s : State) (k pass : Nat) : State :=
  let code := clamp 10 30 pass
  if dvfsFld s k 31 31 = 1 ∧ basic s 6 0 = true ∧ s.pwr.shutdown = false ∧ dvfsFld s k 12 8 ≠ code then sendVolt s k code else s

/-! ## Gating of port groups (R448) -/

/-- Whether a group has an enabled port. -/
def groupOn (s : State) (g : Nat) : Bool := (groupPorts s g).any fun p => rb s (Adr.uplPortCfg p.1) 31
/-- The bits of PWR_GATE_UPL gate and ungate groups that are not lost. -/
def gateUplTaken (s : State) (v : Word) : State :=
  let old := rd s Adr.pwrGateUpl
  (List.range 32).foldl (fun s g =>
    let st := islState s (256 + g)
    let s := if v.toNat.testBit g && st == islRun then
        (List.range 8).foldl (fun s j => linkDown s (8 * g + j)) (setIsl s (256 + g) islGated)
      else s
    if !v.toNat.testBit g && old.toNat.testBit g && st == islGated then setIsl s (256 + g) islRun else s)
    (wr s Adr.pwrGateUpl v)
/-- Who may write PWR_CAP, PWR_RAIL_CFG and PWR_GATE_UPL: the owner of function 6, and at the basic level the host too (R453). -/
def pwrHostOk (s : State) (who : Requester) : Bool := isOwner s who 338 6 0 || (!isCore who && isPfSide s who)
/-- A write of PWR_GATE_UPL: refused with BUSY when it gates a group with an enabled port. -/
def gateUplWrite (s : State) (who : Requester) (v : Word) : State :=
  let a := Adr.pwrGateUpl
  if islDown s 338 then wrDown s who a
  else if !pwrHostOk s who then wrNotOwner s who a 6 0
  else if ((List.range 32).any fun g => v.toNat.testBit g && !rb s a g && groupOn s g) = true then wrRefuse s who a .busy
  else wrOk (gateUplTaken s v) who a

/-! ## Thermal stages (R449 to R451) -/

/-- The thresholds of a sensor's throttle stages, in degrees, and the clear levels 2 degrees below them. -/
def stageLevels (n : Nat) : List Int := if n < 16 then [102, 106] else if n < 24 then [100, 103, 106] else []
/-- The stage a reading calls for. -/
def stageOf (n : Nat) (t : Int) : Nat := ((stageLevels n).filter fun x => decide (256 * x ≤ t)).length
/-- The highest stage a falling reading keeps. -/
def stageKeep (n : Nat) (t : Int) : Nat := ((stageLevels n).filter fun x => decide (256 * (x - 2) < t)).length
def sensorStage (s : State) (n : Nat) : Nat := mget 0 s.pwr.stage n
/-- The reading of a sensor, in 1/256 degree. -/
def sensorTemp (s : State) (n : Nat) : Int := signed 16 (rf s (Adr.pwrTherm n) 15 0)
/-- The step applied to a plane is the lower rate of its two (R326). -/
def planeStep (s : State) (p : Nat) : State :=
  let a := Adr.acmPlaneStat p
  wf s a 31 30 (max (rf s a 29 28) (rf s a 27 26))
/-- THERM_STEP and TEMP of a plane follow its two sensors. -/
def planeTherm (s : State) (p : Nat) : State :=
  let a := Adr.acmPlaneStat p
  let hot := max (sensorTemp s (16 + 2 * p)) (sensorTemp s (17 + 2 * p))
  let st := max (sensorStage s (16 + 2 * p)) (sensorStage s (17 + 2 * p))
  planeStep (wf (wf s a 29 28 st) a 25 18 (min 255 (hot / 256).toNat)) p
/-- Sets a sensor's stage; a plane sensor's shows in ACM_PLANE_STAT. -/
def setStage (s : State) (n st : Nat) : State :=
  let s := pwrUpd s fun p => { p with stage := mset 0 p.stage n st }
  if 16 ≤ n ∧ n < 24 then planeTherm s ((n - 16) / 2) else s
/-- Packets per clock that a pipeline admits by its thermal stage; 0 stands for no limit (R450). -/
def pipeLimit (s : State) (p : Nat) : Nat := match sensorStage s p with | 0 => 0 | 1 => 2 | _ => 1

/-- Thermal shutdown (R451). -/
def shutdown (s : State) : State :=
  if s.pwr.shutdown then s
  else
    let s := pwrEvent (wb (pwrUpd s fun p => { p with shutdown := true, next := [] }) Adr.pwrStat 31 true) 5
    let s := (List.range 342).foldl (fun s i =>
      if (i < 337 ∨ 340 < i) ∧ islState s i ≠ islFused then setIsl s i islGated else s) s
    (List.range 5).foldl (fun s k => setDvfs (sendVolt s k (if k = 0 then 10 else 0)) k 0 0 0) s

/-- A sensor is read: TEMP in 1/256 degree, its highest whole degrees since the last read, and the stages. -/
def sensorRead (s : State) (n : Nat) (t : Int) : State :=
  let a := Adr.pwrTherm n
  let top := max (signed 8 (rf s a 31 24)) (t / 256)
  let s := wf (wf s a 15 0 (unsigned 16 t)) a 31 24 (unsigned 8 top)
  let s := if 16 ≤ n ∧ n < 24 then planeTherm s ((n - 16) / 2) else s
  let s := if 256 * 95 ≤ t ∧ ¬ n ∈ s.pwr.warn then
    pwrEvent (pwrUpd s fun p => { p with warn := addNew p.warn n }) 3 else s
  let st := stageOf n t
  let s := if sensorStage s n < st then
      let s := setStage s n st
      if n < 16 then pwrEvent s 4 else s
    else s
  let s := if 256 * 110 ≤ t then shutdown s else s
  if (t < -2560 ∨ 256 * 115 < t) ∧ ¬ (rb s Adr.secTamper 5 = true ∧ secState s = smZeroized) then zeroize s 5 else s

/-- 10 ms have passed below a sensor's clear level (R450): its warning, its stage, or both are lifted. -/
def throttleClear (s : State) (n : Nat) : State :=
  let t := sensorTemp s n
  let s := if t < 256 * 93 then pwrUpd s fun p => { p with warn := p.warn.filter (· ≠ n) } else s
  let st := min (sensorStage s n) (stageKeep n t)
  if st = sensorStage s n then s else setStage s n st

/-! ## The cap loop (R452, R453) -/

/-- CAP_STEP and DROP_TC in PWR_STAT. -/
def capStep (s : State) : Nat := rf s Adr.pwrStat 27 26
def dropTc (s : State) : Nat := rf s Adr.pwrStat 25 23
/-- CAP_STEP of every plane. -/
def setCapStep (s : State) (n : Nat) : State :=
  (List.range 4).foldl (fun s p => planeStep (wf s (Adr.acmPlaneStat p) 27 26 n) p) (wf s Adr.pwrStat 27 26 n)
/-- The core point of the Orrery image, from which steps of order 3 count (R54, R452). -/
def pointBase (s : State) : Nat := leAt (imgBody s.img.running 9) (4 * dieFirst 0 + 1) 1
/-- The highest order in effect. -/
def capOrder (s : State) : Nat :=
  if dropTc s ≠ 0 then 4 else if pointBase s < dvfsFld s 0 25 24 then 3 else if capStep s ≠ 0 then 2
  else b2n (!s.pwr.ecl.isEmpty)
/-- Shows STEP. -/
def showStep (s : State) : State := wf s Adr.pwrStat 30 28 (capOrder s)
/-- Empty N200 channels that a FOLD_MASK names, of trees whose function 5 is basic. -/
def capEmpty (s : State) : List Nat :=
  (List.range 64).flatMap fun t =>
    if basic s 5 t && treeEnabled s t then
      ((foldWaves s t).map (chanOf t)).filter fun c => isN200 s c && chnEff s c == chRun && chanEmpty s c
    else []
/-- Step 1: ECLIPSE_ENTERING to every such channel that takes it. -/
def capEclipse (s : State) : State :=
  (capEmpty s).foldl (fun s c =>
    match eclipseAct c chEclipseEntering s with
    | .ok s => pwrUpd s fun p => { p with ecl := addNew p.ecl c }
    | .error _ => s) s
/-- The core point as the cap sets it, at the point's lowest voltage. -/
def capPoint (s : State) (p : Nat) : State :=
  dvfsRequest s 0 (putFld (putFld (0 : Word) 25 24 p) 20 16 (pointFloor p))
/-- One more step of the order; CAP_UNMET when none is left. -/
def capMore (s : State) : State :=
  let o := capOrder s
  let s1 := if o = 0 then capEclipse s else s
  if o = 0 ∧ s1.pwr.ecl ≠ [] then s1
  else if o ≤ 2 ∧ capStep s < 3 then setCapStep s1 (capStep s + 1)
  else if o ≤ 3 ∧ dvfsFld s 0 25 24 < rf s Adr.pwrCap 30 29 then capPoint s (dvfsFld s 0 25 24 + 1)
  else if dropTc s < 7 then wf s Adr.pwrStat 25 23 (dropTc s + 1)
  else if s.pwr.unmet then s
  else pwrEvent (pwrUpd s fun p => { p with unmet := true }) 2
/-- One step back, the last taken first. -/
def capLess (s : State) : State :=
  match capOrder s with
  | 4 => wf s Adr.pwrStat 25 23 (dropTc s - 1)
  | 3 => capPoint s (dvfsFld s 0 25 24 - 1)
  | 2 => setCapStep s (capStep s - 1)
  | 1 => s.pwr.ecl.foldl (fun s c => match eclipseAct c chWaking s with | .ok s => s | .error _ => s)
      (pwrUpd s fun p => { p with ecl := [] })
  | _ => s
/-- An evaluation, every 100 ms (R452): the mean over the polls since the last one. -/
def capEval (s : State) : State :=
  let n := s.pwr.polls
  let sum := s.pwr.energy
  let s := pwrUpd s fun p => { p with energy := 0, polls := 0 }
  let s := if n = 0 then s else wf s Adr.pwrStat 9 0 (min 1023 (sum / (n * 100000)))
  if n = 0 ∨ rb s Adr.pwrCap 31 = false ∨ basic s 6 0 = false then s
  else
    let cap := rf s Adr.pwrCap 9 0
    let low := cap - rf s Adr.pwrCap 28 20
    if cap * n * 100000 < sum then showStep (capMore (pwrUpd s fun p => { p with below := 0 }))
    else
      let s := pwrUpd s fun p => { p with unmet := false, below := if sum < low * n * 100000 then p.below + 1 else 0 }
      let stale := (List.range 16).any fun r => railInCap s r && railTel s r 63 63 == 1
      if 10 ≤ s.pwr.below ∧ stale = false then showStep (capLess (pwrUpd s fun p => { p with below := 0 })) else s

/-! ## Other register writes (R453) -/

/-- A write of PWR_CAP. -/
def pwrCapWrite (s : State) (who : Requester) (v : Word) : State :=
  let a := Adr.pwrCap
  if islDown s 338 then wrDown s who a
  else if !pwrHostOk s who then wrNotOwner s who a 6 0
  else if fld v 9 0 < 300 ∨ 1000 < fld v 9 0 then wrRefuse s who a .outOfRange
  else wrOk (wr s a (putFld v 19 10 0)) who a
/-- A write of PWR_STAT: CAP_STEP and DROP_TC, at the expert level only. -/
def pwrStatWrite (s : State) (who : Requester) (v : Word) : State :=
  let a := Adr.pwrStat
  if islDown s 338 then wrDown s who a
  else if isOwner s who 338 6 0 = false then wrNotOwner s who a 6 0
  else if basic s 6 0 then wrOk s who a
  else wrOk (showStep (setCapStep (wf s a 25 23 (fld v 25 23)) (fld v 27 26))) who a
/-- A write of the high word of PWR_RAIL_CFG: the register's 64 bits. -/
def railCfgWrite (s : State) (who : Requester) (r v : Nat) : State :=
  let a := Adr.pwrRailCfg r
  if islDown s 338 then wrDown s who (a + 4)
  else if !pwrHostOk s who then wrNotOwner s who (a + 4) 6 0
  else if 5 < nfld v 55 52 then wrRefuse s who (a + 4) .outOfRange
  else wrOk (wrW s a (putNfld (putNfld (putNfld v 60 56 0) 47 39 0) 31 0 0) 2) who (a + 4)

/-! ## Commands -/

/-- RAIL_POLL (R444): what each of the 16 rails answers. -/
def execRailPoll (xs : List RailRead) (s : State) : Host.Outcome State Fault Refusal := .next (railPoll s xs)
/-- PMB_ALERT (R444): STATUS_WORD of each of the 16 rails. -/
def execPmbAlert (ws : List (Option Nat)) (s : State) : Host.Outcome State Fault Refusal := .next (pmbAlert s ws)
/-- PMB_LOST (R444): rail. -/
def execPmbLost (r : Nat) (s : State) : Host.Outcome State Fault Refusal := .next (if r < 16 then pmbLost s r else s)
/-- AVS_CHECK (R446): limb die 1 to 4, the lowest code at which its margin monitors pass. -/
def execAvsCheck (k pass : Nat) (s : State) : Host.Outcome State Fault Refusal :=
  .next (if 1 ≤ k ∧ k < 5 then avsCheck s k pass else s)
/-- PWR_DVFS_WRITE (R447): requester, die, value. -/
def execPwrDvfsWrite (who : Requester) (k : Nat) (value : Word) (s : State) : Host.Outcome State Fault Refusal :=
  .next (if k < 5 then dvfsWrite s who k value else s)
/-- VOUT_REACHED (R447): die. -/
def execVoutReached (k : Nat) (s : State) : Host.Outcome State Fault Refusal := .next (if k < 5 then voutReached s k else s)
/-- PWR_GATE_UPL_WRITE (R448): requester, value. -/
def execPwrGateUplWrite (who : Requester) (value : Word) (s : State) : Host.Outcome State Fault Refusal :=
  .next (gateUplWrite s who value)
/-- SENSOR_READ (R449): sensor, its reading in 1/256 degree. -/
def execSensorRead (n : Nat) (temp : Int) (s : State) : Host.Outcome State Fault Refusal :=
  .next (if n < 96 then sensorRead s n temp else s)
/-- THROTTLE_CLEAR (R450): sensor. -/
def execThrottleClear (n : Nat) (s : State) : Host.Outcome State Fault Refusal :=
  .next (if n < 96 then throttleClear s n else s)
/-- CAP_EVALUATION (R452). -/
def execCapEvaluation (s : State) : Host.Outcome State Fault Refusal := .next (capEval s)

end Sys2Proof.Machine
end

