-- ==== Sys2Proof/Machine/Startup.lean ====
section
/-! DEFINITION. Supplies and reset pins (R71 to R75), phases P0 to P6 and their failures (R76 to R80), fetching and loading the
image (R62, R64 to R66), COLD and WARM resets (R81 to R83), the module sideband (R462, R463). -/
namespace Sys2Proof.Machine

def bootUpd (s : State) (f : BootSt → BootSt) : State := { s with boot := f s.boot }

/-! ## Supplies (R71 to R73). They are numbered VDD_AON 0, VDD_IO18 1, VDD_IO33 2, VDD_SRAM 3, VDD_CORE_C 4, VDD_CORE_L[0..3] 5 to 8,
VDDA_PON, VDDA_UPL and VDDA_PLK 9 to 11, VDD_HBM_CORE 12, VDD_HBM_IO 13. -/

/-- The step of R71 in which a supply rises, from 0. -/
def supplyStep (i : Nat) : Nat :=
  if i = 0 then 0 else if i ≤ 2 then 1 else if i = 3 then 2 else if i ≤ 8 then 3 else if i ≤ 11 then 4 else if i = 12 then 5 else 6
def supplyOf (s : State) (i : Nat) : Nat := mget 0 s.boot.supply i
def supValid : Nat := 0
def supOff : Nat := 1
def supStarted : Nat := 2
def setSupply (s : State) (i x : Nat) : State := bootUpd s fun b => { b with supply := mset 0 b.supply i x }
/-- SEQ_ERR: the device stays in P0 until VDD_AON is removed (R72). -/
def seqError (s : State) : State := wb (bootUpd s fun b => { b with seqErr := true, stay := true }) Adr.glbResetCause 5 true
/-- A supply rises through 10 %: it is out of order unless every supply of every earlier step is valid. -/
def supplyStart (s : State) (i : Nat) : State :=
  if supplyOf s i ≠ supOff then s
  else
    let bad := (List.range 14).any fun j => decide (supplyStep j < supplyStep i) && supplyOf s j != supValid
    let s := setSupply s i supStarted
    if bad then seqError s else s
/-- A supply reaches 90 %. -/
def supplyValid (s : State) (i : Nat) : State := if supplyOf s i = supStarted then setSupply s i supValid else s
/-- No supply of the next step starts within 1 s of the last one of a step. -/
def supplyGap (s : State) : State :=
  let late := (List.range 6).any fun k => (List.range 14).all fun j =>
    if supplyStep j ≤ k then supplyOf s j == supValid else if supplyStep j = k + 1 then supplyOf s j == supOff else true
  if late then seqError s else s

/-! ## COLD reset (R74, R76, R81) -/

/-- What a COLD reset leaves: the key vault, tamper erasures under way, flash, host memory, fuses, pins and supplies; of the
registers only those that no reset returns. The count of key draws keeps the DRBG's values apart. -/
def coldState (s : State) (keep : Nat → Bool) : State :=
  { pending := s.pending, freeCtr := s.freeCtr, sent := s.sent, hostMem := s.hostMem, flash := s.flash
    regs := s.regs.filter fun p => keep p.1
    keys := { draws := s.keys.draws }
    sec := { vault := s.sec.vault, erasing := s.sec.erasing }
    boot := { fuse6432 := s.boot.fuse6432, fuseP := s.boot.fuseP, supply := s.boot.supply, seqErr := s.boot.seqErr
              stay := s.boot.seqErr, porLow := s.boot.porLow, perstLow := s.boot.perstLow, bootsel := s.boot.bootsel, resetRun := 2 } }
/-- PERST_N low holds the host-port island in reset, whatever else is reset or starts (R75). -/
def portHeld (s : State) : State := if s.boot.perstLow then setIsl s 340 islReset else s
/-- SOURCE shows BOOTSEL as sampled. -/
def showSource (s : State) : State := wf s Adr.glbBootStat 25 24 s.boot.bootsel
/-- A COLD reset for a cause, numbered as its bit of GLB_RESET_CAUSE. -/
def coldReset (s : State) (cause : Nat) : State :=
  portHeld (showSource (bootUpd (coldState s fun a => a == Adr.glbResetCause || a == Adr.secTamper) fun b => { b with cause := cause }))

/-- A supply leaves its window while POR_N is high: the voltage tamper, then a COLD reset (R73, R291). -/
def supplyBad (s : State) : State := if s.boot.porLow then s else coldReset (zeroize s 7) 4
/-- A supply falls away. With VDD_AON goes everything that no memory keeps; the board then holds POR_N low (R71). -/
def supplyRemove (s : State) (i : Nat) : State :=
  let s := if supplyOf s i = supValid then supplyBad s else s
  let s := setSupply s i supOff
  if i = 0 then portHeld (bootUpd (coldState s fun _ => false) fun b => { b with seqErr := false, stay := false, porLow := true })
  else s

/-- POR_N has been low for 10 us (R74). -/
def porAssert (s : State) : State :=
  if s.boot.porLow then s else bootUpd (coldReset s 1) fun b => { b with porLow := true }
/-- POR_N is taken as released: every supply is valid; BOOTSEL is sampled and P0 starts. -/
def porRelease (s : State) (bootsel : Nat) : State :=
  if s.boot.porLow = true ∧ ((List.range 14).all fun i => supplyOf s i == supValid) = true then
    showSource (bootUpd s fun b => { b with porLow := false, bootsel := bootsel % 4 })
  else s

/-- PERST_N low: the host-port island and the PCIe configuration of every function are reset (R75). -/
def perstAssert (s : State) : State :=
  let s := endSessions (dmaLinkDown s)
  let s := { s with acc := { s.acc with vfMsix := [], vfPba := [] } }
  let s := dropRegs s 0xF00000 0x1000000 fun d => d.id == .msixTable || d.id == .msixPba
  bootUpd (setIsl s 340 islReset) fun b => { b with perstLow := true, linkUp := false }
/-- PERST_N released; the board does not release it before POR_N. -/
def perstRelease (s : State) : State :=
  if s.boot.porLow then s else bootUpd (setIsl s 340 islRun) fun b => { b with perstLow := false }

/-! ## Phases P0 to P3 (R76, R80) -/

def setPhase7 (s : State) (p : Nat) : State := wf s Adr.glbBootStat 31 28 p
/-- A failure reported in GLB_BOOT_STAT. -/
def bootFail (s : State) (code det : Nat) : State :=
  let a := Adr.glbBootStat
  wf (wf (wb s a 27 true) a 23 16 code) a 15 8 det
/-- A failure that the phase does not leave. -/
def bootStay (s : State) (code det : Nat) : State := bootUpd (bootFail s code det) fun b => { b with stay := true }
/-- Whether the phase under way is p and can go on. -/
def inPhase (s : State) (p : Nat) : Bool := phase s == p && !s.boot.stay && !s.boot.porLow && s.boot.resetRun != 0

/-- Islands of the part that are fused: the limb dies 2 and 3 of a CS6432 (R2). -/
def islFusedOff (s : State) (i : Nat) : Bool :=
  s.boot.fuse6432 && (decide (128 ≤ i ∧ i < 256) || decide (272 ≤ i ∧ i < 288))
/-- P0 ends: fuses read, GLB_DEVICE_ID valid, fused islands FUSED. It waits for an erase of the key-wrapping area (R291), and for
sensors above 95 degrees (R451). -/
def p0Done (s : State) (fuseOk : Bool) : State :=
  if inPhase s 0 = false ∨ s.sec.erasing ≠ [] ∨ ((List.range 96).any fun n => decide (95 * 256 < sensorTemp s n)) = true then s
  else if !fuseOk then bootStay s 0x20 0
  else
    let a := Adr.glbDeviceId
    let s := wf (wf s a 31 16 (if s.boot.fuse6432 then 0x6432 else 0x6400)) a 15 12 (b2n s.boot.fuseP)
    let s := (List.range 342).foldl (fun s i => if islFusedOff s i then setIsl s i islFused else s) s
    bootUpd (setPhase7 s 1) fun b => { b with bootMode := true }
/-- P1 ends: the ROM digest, the vault, BOOTSEL. -/
def p1Done (s : State) (romOk vaultOk : Bool) : State :=
  if inPhase s 1 = false then s
  else if !romOk then bootStay s 0x21 0
  else if !vaultOk then bootStay s 0x23 0
  else if s.boot.bootsel = 3 then bootStay s 0x22 0
  else setPhase7 (wr s (Adr.mbxImgArb + 4) (BitVec.ofNat 32 s.sec.vault.imgArb)) 2

/-- Whether a flash slot's header is valid (R65). -/
def slotHeaderOk (s : State) (slot : Nat) : Bool :=
  let h := imgFetch s slot 0 64
  (checkHeader h (rd s Adr.glbDeviceId)).isNone && !imgPartial h
/-- The slot tried first: 1 A, 2 B. -/
def firstSlot (s : State) : Nat :=
  let va := slotHeaderOk s 1
  let vb := slotHeaderOk s 2
  if vb && (!va || decide (imgArbVersion (imgFetch s 1 0 64) < imgArbVersion (imgFetch s 2 0 64))) then 2 else 1
/-- P3 starts: from flash, or waiting for the host. -/
def p3Start (s : State) : State :=
  let s := setPhase7 s 3
  if s.boot.bootsel = 1 then bootWaitStart s
  else imgStat { s with img := { s.img with op := .bootFetch (firstSlot s) false 0 0 0 } } imFetching 0 0 0
/-- P2 ends. A module that is ZEROIZED stays so until a COLD reset (R293). -/
def p2Done (s : State) (fail : Nat) : State :=
  if inPhase s 2 = false then s
  else if secState s = smZeroized then p3Start s
  else
    let s := secP2 s fail
    if fail = 0 then p3Start s else bootStay s 0x30 fail

/-! ## Loading the image (R62, R66, R69, R76 P4) -/

/-- PWR_DVFS of die k as the island plan has it (R479). -/
def dvfsLoad (s : State) (plan : List Byte) (k : Nat) : State :=
  let o := 4 * dieFirst k
  let v := leAt plan (o + 2) 1
  let s := setDvfs (setDvfs (setDvfs s k 20 16 (nfld v 4 0)) k 12 8 (nfld v 4 0)) k 0 0 0
  if k = 0 then pwrUpd (setDvfs s 0 25 24 (leAt plan (o + 1) 1)) fun p => { p with point := leAt plan (o + 1) 1 }
  else setDvfs s k 31 31 (nfld v 7 7)
/-- Initial states of the islands; those of channels wait for their tree to start, and the host port's for PERST_N. -/
def islandsLoad (s : State) (plan : List Byte) : State :=
  portHeld <| (List.range 342).foldl (fun s i =>
    if islState s i = islFused ∨ s.pwr.shutdown = true then s
    else if leAt plan (4 * i) 1 = 1 then setIsl s i islGated else if i < 256 then s else setIsl s i islRun) s
/-- The owners of the image, at COLD reset (R42). -/
def ownersLoad (s : State) (body : List Byte) : State :=
  (List.range 12).foldl (fun s f => (List.range 64).foldl (fun s t =>
    let o := nbit (leAt body (8 * f) 8) t
    if o && treeValid s t then wb s (Adr.mbxOwner f t) 0 true else s) s) s
/-- A verified image is loaded and P4 starts: the running records, the carving, the transport key. -/
def bootLoad (s : State) (b : List Byte) (slot : Nat) : State :=
  let recs := imgBody b 2
  let s := { s with img := { s.img with
    running := b, grammar := imgBody b 6, templates := imgBody b 7, staged := [], op := .idle, ticket := .none
    treeRec := (List.range 64).foldl (fun m t => mset 0 m t (planRec recs t)) [] } }
  let s := wr (imgStat (showProg s) imIdle 0 0 0) Adr.mbxImgArb (BitVec.ofNat 32 (imgArbVersion b))
  let s := wb (setPhase7 s 4) Adr.glbBootStat 26 (slot == 2)
  let s := islandsLoad s (imgBody b 9)
  let s := if s.pwr.shutdown then s else (List.range 5).foldl (fun s k => dvfsLoad s (imgBody b 9) k) s
  let s := if s.boot.resetRun = 2 then ownersLoad s (imgBody b 10) else s
  let (k, s) := drbgDraw (poolBases (poolsInit s)) 32
  secUpd (secSet s fun x => { x with transport := k })
/-- A STAGE still held when the flash boot succeeds is refused with BUSY (R66). -/
def heldRefuse (s : State) : State :=
  match s.img.held with
  | some (t, _) => ticketFail { s with img := { s.img with held := none } } t iBusy
  | none => s
/-- The result of an image check: none when it is good. -/
def fetched (s : State) (src addr : Nat) (err boot : Bool) : List Byte × Option ImgBad :=
  if err then ([], some ⟨iFetch, 0, 0⟩)
  else let b := imgRead s src addr; (b, checkImage b (imgEnv s) boot)
/-- A fetch at boot from flash has ended (R65). -/
def bootFetched (s : State) (slot : Nat) (second : Bool) (code sec ofs : Nat) (err : Bool) : State :=
  match fetched s slot 0 err true with
  | (b, none) => bootLoad (heldRefuse s) b slot
  | (_, some e) =>
    if !second then { s with img := { s.img with op := .bootFetch (3 - slot) true e.code e.sec e.ofs } }
    else if s.boot.bootsel = 2 then bootWaitStart s
    else bootStay (imgStat { s with img := { s.img with op := .idle } } imFailed code sec ofs) code 0
/-- A fetch that a STAGE asked for has ended, at boot or with the device running (R66, R67). -/
def stageFetched (s : State) (boot err : Bool) : State :=
  let t := s.img.ticket
  match fetched s s.img.src s.img.addr err boot with
  | (b, none) =>
    let s := ticketPut s t (imgRec 0)
    if boot then bootLoad s b 0
    else imgStat { s with img := { s.img with staged := b, op := .idle, ticket := .none } } imStaged 0 0 0
  | (_, some e) =>
    let s := imgStat (ticketFail s t e.code) imFailed e.code e.sec e.ofs
    if boot then bootFail { s with img := { s.img with op := .bootWait, ticket := .none } } e.code 0
    else { s with img := { s.img with op := .idle, ticket := .none } }
/-- An image fetch completes. -/
def imageFetched (s : State) (err : Bool) : State :=
  match s.img.op with
  | .bootFetch slot second code sec ofs => bootFetched s slot second code sec ofs err
  | .bootStage => stageFetched s true err
  | .stage => stageFetched s false err
  | _ => s

/-! ## Phases P4 to P6 -/

/-- P4 ends, and boot mode with it (R77): DRAM trained or not, the die-to-die ports that failed three trainings, the firmware alive. -/
def p4Done (s : State) (site : Option Nat) (ports : List Nat) : State :=
  if inPhase s 4 = false then s
  else match site with
    | some m => bootStay s 0x40 m
    | none =>
      let s := (ports.filter (· < 8)).foldl d2dLost s
      let s := match ports.filter (· < 8) with
        | [] => s
        | p :: ps => bootFail s 0x41 (ps.foldl min p)
      setPhase7 (bootUpd s fun b => { b with fwAlive := true, bootMode := false }) 5
/-- The firmware did not report alive within 200 ms. -/
def fwTimeout (s : State) : State := if inPhase s 4 then bootStay s 0x42 0 else s
/-- The PCIe link did not reach L0 within 100 ms of PERST_N release; boot goes on. -/
def linkTimeout (s : State) : State :=
  if (phase s = 5 ∨ phase s = 6) ∧ s.boot.linkUp = false ∧ s.boot.perstLow = false then bootFail s 0x50 0 else s

/-- TIM_TB_CFG, TIM_PPS_CFG and TIM_CAP_CFG as a value written is taken (R476). -/
def tbCfgTake (v : Nat) : Nat := putNfld v 27 16 (max 1 (nfld v 27 16))
def ppsCfgTake (v : Nat) : Nat := putNfld v 15 12 (max 2 (nfld v 15 12))
def capCfgTake (v : Nat) : Nat := putNfld (putNfld v 47 32 (max 8 (nfld v 47 32))) 31 16 (max 1 (nfld v 31 16))
/-- The registers of the time unit as the time plan has them (R381). -/
def timeRegs (s : State) (b : List Byte) : State :=
  let s := (List.range 8).foldl (fun s i =>
    let s := wr s (Adr.timTbCfg i) (BitVec.ofNat 32 (tbCfgTake (leAt b (32 * i) 4)))
    let s := wr s (Adr.timTbServo i) (BitVec.ofNat 32 (leAt b (32 * i + 4) 4))
    wrW s (Adr.timCapCfg i) (capCfgTake (leAt b (0x120 + 8 * i) 8)) 2) s
  let s := wrW s Adr.timPpsCfg (ppsCfgTake (leAt b 0x100 8)) 2
  wr (wr s Adr.timTodCfg (BitVec.ofNat 32 (leAt b 0x108 4))) Adr.timFreqCfg (BitVec.ofNat 32 (leAt b 0x10C 4))
/-- The time plan at P6 (R381): the registers at a COLD reset, whose reset values they are; bases that are UNSET; ports with PTP. -/
def timePlan (s : State) (b : List Byte) : State :=
  let s := if s.boot.resetRun = 2 then timeRegs s b else s
  let s := (List.range 8).foldl (fun s i =>
    let t := leAt b (32 * i + 8) 12
    if t ≠ 0 ∧ baseState s i = tbUnset then baseFirstSet s i (timeTicks t) 0 else s) s
  (List.range 256).foldl (fun s u =>
    if nbit (leAt b 0x170 32) u && laneValid s u then wf (wb s (Adr.uplTsCfg u) 31 true) (Adr.uplTsCfg u) 29 27 (leAt b 0x162 1)
    else s) s
/-- P5 ends: the host port is set up in full, as LINK_FULL shows, the reset is complete and P6 starts with all enabled trees (R76,
R78, R83; assumption log 59). -/
def p5Done (s : State) : State :=
  if inPhase s 5 = false then s
  else
    let s := wb (wb (setPhase7 s 6) Adr.glbBootStat 7 true) Adr.glbResetCause s.boot.cause true
    let s := timePlan s (imgBody s.img.running 8)
    let s := bootUpd s fun b => { b with resetRun := 0 }
    let s := (List.range 64).foldl (fun s t =>
      if treeEnabled s t then wfW s (Adr.prtTrunk t) 2 63 32 (trecEqrt (trec s t) * 1000) else s) s
    let s := if prtOn s then prtJoin s else s
    if s.pwr.shutdown then s else p6Check ((List.range 64).foldl treeStart s)

/-! ## GLB_RESET_CTRL and WARM reset (R80 to R83) -/

/-- A write of GLB_RESET_CTRL: the reset it asks for starts within 10 us. -/
def resetCtrlWrite (s : State) (who : Requester) (v : Word) : State :=
  let a := Adr.glbResetCtrl
  if islDown s 340 then wrDown s who a
  else if !isPfSide s who then wrRefuse s who a .notAuthorized
  else if fld v 15 0 ≠ 0x0A5A then wrOk s who a
  else match fld v 31 28 with
    | 1 => wrOk (bootUpd s fun b => { b with request := 2 }) who a
    | 2 =>
      if phase s < 5 then wrRefuse s who a .busy
      else if s.boot.resetRun = 2 then wrOk s who a
      else wrOk (bootUpd s fun b => { b with request := max 1 b.request }) who a
    | _ => wrOk s who a

/-- Whether a WARM reset keeps a word of the control window: COLD registers, and retained SRAM, which is everything below the tree
block that is no register (R14, R81). -/
def warmKeeps (a : Nat) : Bool :=
  match regFind a with
  | some r => r.desc.dom == .cold
  | none => decide (a < 0x1000000)
/-- The terminals whose serial identity, TID and equalization delay firmware keeps (R81). -/
def retainTerms (s : State) : RegSt :=
  let tids := ((List.range 64).flatMap (usedTids s)).filter fun tid => termSt s tid != tsFree
  { retained := tids.foldl (fun m tid => mput m tid (termSerial s tid)) s.reg.retained
    retainedEqd := tids.foldl (fun m tid => mput m tid (termEqd s tid)) s.reg.retainedEqd }
/-- What is in flight ends: Transits, image operations, handovers, ring commands, sessions (R45, R70, R82, R277, R397). -/
def warmEnds (s : State) : State :=
  let s := (List.range 64).foldl trReset s
  let s := s.own.handovers.foldl (fun s h => abandonHandover s h.func h.tree .reset) s
  let s := (List.range 16).foldl ringRestart (imgReset s)
  let s := if rb s Adr.secApproved 5 then fiRelock s else keyEraseAll s kdReset
  (List.range 256).foldl chanSuspect (endSessions (fiDisarmAll s))
/-- The state a WARM reset leaves of one in which everything in flight has ended: the registers of COLD domain and what R81 keeps. -/
def warmState (s : State) (bootsel : Nat) : State :=
  let r := retainTerms s
  let x := s.sec
  { s with
    regs := s.regs.filter fun p => warmKeeps p.1
    acc := {}, unit := {}, dies := {}, own := {}, grm := {}, tcm := {}, grant := {}, reg := r, rogue := [], transits := []
    ntfLost := s.ntfLost, buf := {}, sched := {}, flow := {}, fwd := {}, obs := {}, upl := {}, dma := {}, prt := {}
    pwr := { shutdown := s.pwr.shutdown }
    line := { pm := s.line.pm, pmTca := s.line.pmTca, pmSuspect := s.line.pmSuspect, pmStart := s.line.pmStart }
    keys := { kek := s.keys.kek, draws := s.keys.draws }
    sec := { vault := x.vault, reseeds := x.reseeds, seedAt := x.seedAt, ctr := x.ctr, regionAt := x.regionAt, erasing := x.erasing }
    tim := { s.tim with pulses := [], left := [], cap := [] }
    boot := { s.boot with
      stay := false, fatal := false, dataStopped := false, fwAlive := false, bootMode := true, request := 0
      resetRun := 1, cause := 3, bootsel := bootsel % 4 } }
/-- P1 begins again: bases hold, fused islands read FUSED, a thermal shutdown stands, a zeroized module stays so. -/
def warmBegin (s : State) (zero : Bool) : State :=
  let s := (List.range 8).foldl holdover s
  let s := (List.range 342).foldl (fun s i =>
    if islFusedOff s i then setIsl s i islFused
    else if s.pwr.shutdown && (decide (i < 337) || decide (340 < i)) then setIsl s i islGated else s) s
  let s := if s.pwr.shutdown then wb s Adr.pwrStat 31 true else s
  portHeld (showSource (setPhase7 (if zero then setSecState s smZeroized else secUpd s) 1))
/-- A WARM reset (R81): BOOTSEL is sampled again and P1 starts. -/
def warmReset (s : State) (bootsel : Nat) : State :=
  warmBegin (warmState (warmEnds s) bootsel) (secState s == smZeroized)

/-- The reset that a request asked for is taken. -/
def takeCold (s : State) : State := if s.boot.request = 2 then coldReset s 2 else s
def takeWarm (s : State) (bootsel : Nat) : State := if s.boot.request = 1 then warmReset s bootsel else s

/-- A tamper source trips (R291); the voltage trip ends in a COLD reset (R73). -/
def tamperTrip (s : State) (src : Nat) : State := if src = 7 then supplyBad s else if src < 7 then zeroize s src else s

/-! ## The tree sideband (R462, R463) -/

/-- Filtered levels of MOD_INT_N, low or not, and of LIGHT_IN. -/
def sideband (s : State) (t : Nat) (intLow light : Bool) : State :=
  let a := Adr.treModStat t
  let fell := intLow && !rb s a 1
  let moved := light != rb s a 0
  let s := wb (wb s a 1 intLow) a 0 light
  let s := if fell then evBit s a 2 336 .corrected (0x1200 + t) else s
  if moved then evBit s a 3 336 .corrected (0x1240 + t) else s

/-! ## Commands -/

/-- IMAGE_FETCH_DONE (R62): whether the fetch met a completion error or a poisoned TLP. -/
def execImageFetchDone (err : Bool) (s : State) : Host.Outcome State Fault Refusal := .next (imageFetched s err)
/-- SUPPLY_START (R72): supply. -/
def execSupplyStart (i : Nat) (s : State) : Host.Outcome State Fault Refusal := .next (if i < 14 then supplyStart s i else s)
/-- SUPPLY_VALID (R72): supply. -/
def execSupplyValid (i : Nat) (s : State) : Host.Outcome State Fault Refusal := .next (if i < 14 then supplyValid s i else s)
/-- SUPPLY_GAP_TIMEOUT (R72). -/
def execSupplyGapTimeout (s : State) : Host.Outcome State Fault Refusal := .next (supplyGap s)
/-- SUPPLY_OUT_OF_RANGE (R73): supply. -/
def execSupplyOutOfRange (i : Nat) (s : State) : Host.Outcome State Fault Refusal := .next (if i < 14 then supplyBad s else s)
/-- POR_N_ASSERT (R74). -/
def execPorNAssert (s : State) : Host.Outcome State Fault Refusal := .next (porAssert s)
/-- POR_N_RELEASE (R74): BOOTSEL[1:0]. -/
def execPorNRelease (bootsel : Nat) (s : State) : Host.Outcome State Fault Refusal := .next (porRelease s bootsel)
/-- PERST_N_ASSERT (R75). -/
def execPerstNAssert (s : State) : Host.Outcome State Fault Refusal := .next (perstAssert s)
/-- PERST_N_RELEASE (R75). -/
def execPerstNRelease (s : State) : Host.Outcome State Fault Refusal := .next (perstRelease s)
/-- P0_COMPLETE (R76): whether the fuse readout holds. -/
def execP0Complete (fuseOk : Bool) (s : State) : Host.Outcome State Fault Refusal := .next (p0Done s fuseOk)
/-- P1_COMPLETE (R76): whether the ROM digest holds and the vault can be read. -/
def execP1Complete (romOk vaultOk : Bool) (s : State) : Host.Outcome State Fault Refusal := .next (p1Done s romOk vaultOk)
/-- P2_COMPLETE (R280): the test that failed, 0 none. -/
def execP2Complete (fail : Nat) (s : State) : Host.Outcome State Fault Refusal := .next (p2Done s fail)
/-- P4_COMPLETE (R76): the DRAM site that failed, if any, and the die-to-die ports that did. -/
def execP4Complete (site : Option Nat) (ports : List Nat) (s : State) : Host.Outcome State Fault Refusal :=
  .next (p4Done s site ports)
/-- FW_START_TIMEOUT (R80). -/
def execFwStartTimeout (s : State) : Host.Outcome State Fault Refusal := .next (fwTimeout s)
/-- P5_COMPLETE (R76). -/
def execP5Complete (s : State) : Host.Outcome State Fault Refusal := .next (p5Done s)
/-- LINK_TRAIN_TIMEOUT (R80). -/
def execLinkTrainTimeout (s : State) : Host.Outcome State Fault Refusal := .next (linkTimeout s)
/-- GLB_RESET_CTRL_COLD (R83): requester, CONFIRM. -/
def execGlbResetCtrlCold (who : Requester) (confirm : Nat) (s : State) : Host.Outcome State Fault Refusal :=
  .next (resetCtrlWrite s who (putFld (putFld (0 : Word) 31 28 1) 15 0 confirm))
/-- GLB_RESET_CTRL_WARM (R83): requester, CONFIRM. -/
def execGlbResetCtrlWarm (who : Requester) (confirm : Nat) (s : State) : Host.Outcome State Fault Refusal :=
  .next (resetCtrlWrite s who (putFld (putFld (0 : Word) 31 28 2) 15 0 confirm))
/-- COLD_RESET (R81): one that was asked for. -/
def execColdReset (s : State) : Host.Outcome State Fault Refusal := .next (takeCold s)
/-- WARM_RESET (R81): one that was asked for; BOOTSEL[1:0]. -/
def execWarmReset (bootsel : Nat) (s : State) : Host.Outcome State Fault Refusal := .next (takeWarm s bootsel)
/-- TAMPER_TRIP (R291): the source, as its bit of SEC_TAMPER. -/
def execTamperTrip (src : Nat) (s : State) : Host.Outcome State Fault Refusal := .next (tamperTrip s src)
/-- SIDEBAND_INPUT_CHANGE (R462): tree, MOD_INT_N low, LIGHT_IN high. -/
def execSidebandInputChange (t : Nat) (intLow light : Bool) (s : State) : Host.Outcome State Fault Refusal :=
  .next (if t < 64 then sideband s t intLow light else s)
/-- MODULE_POLL (R462): firmware reads identity and alarms of the modules; the spec gives no state that shows them. -/
def execModulePoll (s : State) : Host.Outcome State Fault Refusal := .next s
/-- SUPPLY_REMOVAL (R73): supply. -/
def execSupplyRemoval (i : Nat) (s : State) : Host.Outcome State Fault Refusal := .next (if i < 14 then supplyRemove s i else s)
/-- PCIE_LINK_UP (R80). -/
def execPcieLinkUp (s : State) : Host.Outcome State Fault Refusal :=
  .next (if s.boot.perstLow then s else bootUpd s fun b => { b with linkUp := true })
/-- PCIE_LINK_DOWN (R409). -/
def execPcieLinkDown (s : State) : Host.Outcome State Fault Refusal :=
  .next (bootUpd (dmaLinkDown s) fun b => { b with linkUp := false })

end Sys2Proof.Machine
end

