-- ==== Sys2Proof/Machine/Cycle.lean ====
section
/-! DEFINITION. The 64 kHz tick (R85): what every downstream cycle start does, the cycle header (R90, R133, R152, R173, R175,
R369) and the constant-rate containers (R96 to R98). -/
namespace Sys2Proof.Machine

/-! ## Constant-rate containers (R96 to R98) -/

/-- Client bytes enter a stream's FIFO, up to cap; a frame whose last byte has entered leaves its queue. -/
def crsFill (q cap : Nat) : Nat → State → CrsFifo → State × CrsFifo
  | 0, s, x => (s, x)
  | n + 1, s, x =>
    if cap ≤ x.data.length then (s, x)
    else match qHead s q with
      | none => (s, x)
      | some f =>
        let rest := f.data.drop x.ofs
        let room := cap - x.data.length
        let starts := if x.ofs = 0 then x.starts ++ [x.data.length] else x.starts
        if rest.length ≤ room then
          crsFill q cap n (qFree (qPop (stat (stat s scQueue q 0 1) scQueue q 1 f.len) q) q f)
            { x with data := x.data ++ rest, starts := starts, ofs := 0 }
        else (s, { x with data := x.data ++ rest.take room, starts := starts, ofs := x.ofs + room })

/-- Puts bytes into a channel's constant-rate region. -/
def putCrs (s : State) (c : Nat) (b : List Byte) : State :=
  { s with line := { s.line with crs := mset [] s.line.crs c (mget [] s.line.crs c ++ b) } }

/-- Container j of entry i of a channel in cycle n: sealed under its terminal's sending key (R251). A terminal that may not be
sent to gets idle fill of a container with a 16-byte tag in its place, and its client bytes wait. -/
def crsContainer (c i n : Nat) (s : State) (j : Nat) : State :=
  let v := rdW s (Adr.chnCrs c i) 2
  let q := nfld v 19 0
  let nom := nfld v 55 40
  let sft := nfld v 59 56
  let tid := tidOf (c / 4) (nfld v 34 26)
  let run := chnEff s c = chRun ∨ chnEff s c = chEclipseEntering
  match if run ∧ termEff s tid = tsActive ∧ termChan s tid = c ∧ coresGone s c = false then sendSlot s c (slotOfTid tid) else none with
  | none => putCrs s c (idleBytes (crsBytes v 16 / (nfld v 62 60 + 1)))
  | some k =>
    let (s, x) := crsFill q (4 * (nom + sft)) ((qFrames s q).length + 1) s (mget {} s.line.crsFifo (c * 64 + i))
    let (cnt, csf) := crsCnt nom sft x.data.length
    let ptr := match x.starts with | [] => 0xFFFF | p :: _ => if p < cnt then p else 0xFFFF
    let body := crsHeader cnt ptr (n * (nfld v 62 60 + 1) + j) csf ++ x.data.take cnt ++ List.replicate (nom + sft - cnt) 0
    let y : CrsFifo := { data := x.data.drop cnt, starts := (x.starts.filter (cnt ≤ ·)).map (· - cnt), ofs := x.ofs, csf := csf }
    let s := { s with line := { s.line with crsFifo := mset {} s.line.crsFifo (c * 64 + i) y } }
    let s := if csf && !x.csf then evBit s (Adr.chnEvent c) 5 c .corrected 0x0406 else s
    let stream := nfld v 39 35
    let t12 := keyTag12 s c k
    let ((ct, tag), s) := keySeal s c k stream body
    let hdr := encHeader tid stream (8 + nom + sft) .whole (k % 2 + 1) t12
    let s := putCrs (emit s (.dsFrame c hdr (ct ++ tag))) c (hdr ++ ct ++ tag)
    let s := if t12 then { s with line := { s.line with crsTag12 := addNew s.line.crsTag12 (c * 64 + i) } } else s
    if keyEff s c k = ksActive then s else keyReact s tid 0

/-- The constant-rate region of a channel's cycle, built anew. Where a container's tag has another length than the one before in its
entry's cycle, the region takes the entry's last (R97; DEDUCED, assumption log 12). -/
def crsRegionSend (s : State) (c n : Nat) : State :=
  if sendsCycles s c ∧ isN200 s c = true then
    let s := { s with line := { s.line with
      crs := mset [] s.line.crs c [], crsTag12 := s.line.crsTag12.filter fun k => k / 64 ≠ c } }
    (List.range 64).foldl (fun s i =>
      let v := rdW s (Adr.chnCrs c i) 2
      if nbit v 63 then (List.range (nfld v 62 60 + 1)).foldl (crsContainer c i n) s else s) s
  else s

/-! ## The cycle header (R90) -/

/-- ANCHOR_TIME of a channel (R369). -/
def anchorTime (s : State) (c : Nat) : Nat :=
  let v := rdW s (Adr.chnTimeCfg c) 4
  let b := nfld v 63 61
  if !nbit v 60 || baseState s b == tbUnset || (baseState s b == tbFreerun && (baseOf s b).stepped) then 0 else baseTime s b
/-- The entries of the Ephemeris of cycle n, as numbers (R173). -/
def ephWords (s : State) (c n : Nat) (tcms : List (List Byte)) : List Nat :=
  match s.grant.eph.find? (·.1 = c) with
  | some (_, m, es) =>
    if m ≠ n ∨ chnEff s c = chStarting then []
    else es.map fun e =>
      ofBytesBE (e.bytes (isEpoch s c n) ((tcms.findIdx? fun b => e.tid != 0x7FFF && rxAddr b == e.tid)))
  | none => []
/-- Sends the header of cycle n on a channel: COMA_PARAM at frame starts, up to 16 messages, the Ephemeris. -/
def headerSend (s : State) (c n : Nat) : State :=
  if !sendsCycles s c || !isN200 s c then s
  else
    let s := if n % 8 = 0 then comaParam s c else s
    let (tcms, s) := tcmFill c 16 s []
    let moved := decide (s.prt.switchedTo ≠ 0) && decide (s.prt.sendFrom ≤ n) && decide (n ≤ s.prt.switchedTo)
    let h : CycleHdr := {
      cycle := n, flags := b2n (chnEff s c != chStarting) + 2 * b2n moved, traceId := trecTrace (trec s (c / 4))
      anchorTb := rfW s (Adr.chnTimeCfg c) 4 63 61, anchorTime := anchorTime s c
      ephCycle := n, eph := ephWords s c n tcms, tcm := tcms }
    invitesLate c n 16 { s with line := { s.line with hdr := mput s.line.hdr c h } }

/-! ## What the cycle that ends leaves -/

/-- The cycle of a channel that ends has left as its 200 codewords: header, constant-rate region, packet area (R86, R88 to R90). -/
def cycleSent (s : State) (c : Nat) : State :=
  match s.line.hdr.find? (·.1 = c) with
  | some (_, h) => emit s (.cycle c h.cycle (cycleCodewords h.cycle
      ((h.bytes ++ mget [] s.line.crs c ++ (pktOf s c).take (packetArea s c)).take 409600)))
  | none => s
/-- The line of a channel passes into its next packet area, on a C50 channel with every eighth cycle; what was left unfilled was idle
(R93, R124). -/
def lineRoll (n : Nat) (s : State) (c : Nat) : State :=
  if !sendsCycles s c || (isC50 s c && n % 8 != 0) then s
  else
    let a := packetArea s c
    let s := lineIdle s c a
    let s := if isN200 s c then cycleSent s c else s
    let s := latchRoll s c a
    { s with
      sched := { s.sched with pos := mset 0 s.sched.pos c (mget 0 s.sched.pos c - a) }
      line := { s.line with pkt := mset [] s.line.pkt c ((pktOf s c).drop a) } }
/-- US_SILENT (R117): 64 cycles with a grant, and no burst received. -/
def silentStep (s : State) (c : Nat) : State :=
  let k := mget 0 s.line.silent c
  if c ∈ s.line.heard then { s with line := { s.line with silent := mset 0 s.line.silent c 0 } }
  else if c ∈ s.line.granted then
    let s := { s with line := { s.line with silent := mset 0 s.line.silent c (min 64 (k + 1)) } }
    if k = 63 then evBit s (Adr.chnEvent c) 4 c .corrected 0x0405 else s
  else s
/-- The channels whose cycle n has a grant. -/
def grantedIn (s : State) (n : Nat) : List Nat :=
  (s.grant.bursts.filter fun p => p.2.any fun g => g.cycle == n).map (·.1)
/-- A second ends: ES and SES of each scope, and the count of Clause errors (R39, R121). -/
def secondEnd (s : State) : State :=
  let l := s.line
  let ks := (l.secUncorr.map (·.1) ++ l.secLost.map (·.1)).dedup
  let s := ks.foldl (fun s k =>
    let u := mget 0 l.secUncorr k
    let x := mget 0 l.secLost k
    let s := if u = 0 ∧ x = 0 then s else pmAddScope s (k / 513) (k % 513) 10 1
    if 1000 ≤ u ∨ (0 < x ∧ mget 0 l.secGranted k ≤ 10 * x) then pmAddScope s (k / 513) (k % 513) 11 1 else s) s
  { s with line := { s.line with secUncorr := [], secLost := [], secGranted := [], clauseSec := [] } }
/-- The source channel reports the high-water marks of a terminal in Transit (R264). -/
def marksReport (s : State) (tid : Nat) : State :=
  let c := trSrc s tid
  (List.range 4).foldl (fun s i =>
    let k := 4 * slotOfTid tid + i
    if keyEff s c k = ksEmpty then s
    else { s with keys := { s.keys with marks := mput s.keys.marks (tid * 4 + i) (keyInvoc s c k, cycleNow s) } }) s
/-- The channels that the part has. -/
def chans (s : State) : List Nat := (List.range 256).filter (chanValid s)

/-! ## The tick -/

/-- What ends with the cycle before n: the pair's part, line positions, silence, high-water marks (R117, R264, R420). -/
def cycleEnd (s : State) (n : Nat) : State :=
  let s := prtCycle s n
  let s := (chans s).foldl (lineRoll n) s
  let s := (chans s).foldl silentStep s
  (s.transits.filter fun p => !p.2.recover).foldl (fun s p => marksReport s p.1) s
/-- The counter takes n and the time bases that run move on by 15.625 us (R85, R359). -/
def tick (s : State) (n : Nat) : State :=
  let s := wrW s (Adr.chnCycle 0) n 2
  (List.range 8).foldl (fun s b => if baseState s b = tbUnset then s else baseAdvance s b) s
/-- What begins with cycle n for the whole device: pending state changes, handovers, an APPLY's resets, constant-rate changes
(R26, R43, R68, R99). -/
def cycleBegin (s : State) (n : Nat) : State :=
  let s := quiesceTick (commitPending s) (n % 64 == 0)
  let s := relocEnd (applyRetry s)
  let s := s.img.applyReset.foldl applyTreeReset s
  let s := { s with line := { s.line with granted := grantedIn s n, heard := [] } }
  let s := if n % 8 = 0 then crsApply s n else s
  let s := if n % 64000 = 0 then secondEnd s else s
  pc s { code := 1, n := 15625 }
/-- Whether the upstream cycle of a channel that ended last before cycle n had a silent interval: a gap without a granted burst of
MIN_GAP grant units, which a cycle without grants is as a whole (R157). -/
def silentIn (s : State) (c n : Nat) : Bool :=
  let k := n - 1 - ceilDiv (eqrtOf s (c / 4)) 15625
  let gap := (((mget [] s.grant.gaps c).find? (·.1 = k)).map (·.2)).getD 110000
  decide (max 64 (rf s (Adr.chnEnergyCfg c) 9 0) ≤ gap)
/-- What cycle n begins with on one channel (R90, R97, R114, R157); e tells whether its detector saw energy outside bursts. -/
def chanBegin (energy : List Nat) (n : Nat) (s : State) (c : Nat) : State :=
  let s := (tlrSlots s c).foldl (fun s k => tlrAgeOne s c k) s
  let s := if (chnEff s c = chRun ∨ chnEff s c = chEclipseEntering) ∧ silentIn s c n = true then
    energyCycle s c (decide (c ∈ energy)) else s
  crsRegionSend (headerSend s c n) c n
/-- A downstream cycle starts. Where function 1 has returned to firmware, the engine's mode does too (R190). C50 superframe counts are those of the frames that start with it. -/
def cycleStart (s : State) (energy : List Nat) (sfc : List (Nat × Nat)) : State :=
  if s.boot.porLow ∨ (phase s < 5 ∧ s.boot.resetRun ≠ 1) then s
  else
    let n := (cycleNow s + 1) % 2 ^ 48
    let s := cycleBegin (tick (cycleEnd s n) n) n
    let s := (chans s).foldl (fun s c =>
      if owner s 1 (c / 4) = 0 ∧ (geMode s c ≠ 0 ∨ geRingSlots s c ≠ []) then geAbandon s c else s) s
    let s := (chans s).foldl (chanBegin energy n) s
    let s := applyFinish (((List.range 64).filter (treeEnabled s)).foldl treeFollow s)
    let s := (List.range 64).foldl (fun s t => rogueWatch s t (decide (rogueChan s t ∈ energy))) s
    if n % 8 = 0 then sfc.foldl (fun s p => if isC50 s p.1 then c50Latch s p.1 p.2 else s) s else s

/-- CYCLE_START (R85): channels whose energy detector saw energy outside granted bursts in the cycle that ends; at a frame start
the superframe counts of the C50 channels. -/
def execCycleStart (energy : List Nat) (sfc : List (Nat × Nat)) (s : State) : Host.Outcome State Fault Refusal :=
  .next (cycleStart s energy sfc)

end Sys2Proof.Machine
end

