-- ==== Sys2Proof/Machine/Settings.lean ====
section
/-! DEFINITION. What a register keeps of a written value: fields by their types (R13), values taken as others (R476), and values a
register refuses with OUT_OF_RANGE, from the field descriptions of the register tables. -/
namespace Sys2Proof.Machine

/-! ## Values taken as others, and refused ones -/

/-- A field raised to a least value. -/
def atLeast (v hi lo n : Nat) : Nat := putNfld v hi lo (max n (nfld v hi lo))
/-- A field cut to limits. -/
def within (v hi lo a b : Nat) : Nat := putNfld v hi lo (clamp a b (nfld v hi lo))
/-- A value, unless a condition refuses it. -/
def unlessBad (bad : Bool) (v : Nat) : Option Nat := if bad then none else some v

/-- Rings, DMA channels or receive rings that a function holds, beside one (R384). -/
def heldOf (s : State) (n : Nat) (fn : State → Nat → Nat) (f but : Nat) : Nat :=
  ((List.range n).filter fun i => i != but && fn s i == f).length
/-- FUNC of a receive ring. -/
def rxFn (s : State) (i : Nat) : Nat := rfW s (Adr.dmaRxCfg i) 4 62 56
/-- Whether an assignment to function f is refused: no such function, or a fifth one of a virtual function (R384). -/
def assignBad (s : State) (n : Nat) (fn : State → Nat → Nat) (f but : Nat) : Bool :=
  decide (64 < f) || (f != 0 && decide (4 ≤ heldOf s n fn f but))

/-- Whether a map entry of a source may name a function (R388). -/
def msixFnOk (s : State) (src f : Nat) : Bool :=
  f == 0 || (decide (f ≤ 64) &&
    (if src < 342 then false
     else if src < 358 then ringFn s (src - 342) == f
     else if src < 374 then ringFn s (src - 358) == f
     else rxFn s (src - 374) == f))

/-- The value a register takes for a whole value written, its word k being the one written; none: refused with OUT_OF_RANGE. -/
def regTake (s : State) (id : RegId) (i k v : Nat) : Option Nat :=
  match id with
  | .chnTlrCfg => some (atLeast v 2 0 1)
  | .chnOptCfg => unlessBad (decide (85 < nfld v 6 0 + nfld v 14 8) || decide (nfld v 14 8 < 2)) v
  | .chnTraceCfg => some (atLeast v 7 4 1)
  | .treRegCfg => some (atLeast (atLeast (atLeast v 31 20 10) 19 8 10) 7 3 2)
  | .chnEnergyCfg => some (atLeast v 9 0 64)
  | .chnGeCfg =>
    unlessBad (nfld v 31 30 == 3 || (nfld v 31 30 != 0 && (owner s 1 (i / 4) == 0 || isC50 s i)) || decide (128 < nfld v 23 16))
      (atLeast v 23 16 1)
  | .chnGeAssured => unlessBad (decide (3200000 < nfld v 21 0) || decide (nfld v 21 0 < assuredSum s i)) v
  | .chnGeSyswin => unlessBad (decide (108171 < nfld v 16 0)) (atLeast v 31 28 1)
  | .dtmSmpCtl => some (within (within v 29 25 10 24) 19 0 1 1000000)
  | .treTransitCfg => some (atLeast (within v 31 28 1 8) 15 0 100)
  | .treFoldCfg =>
    unlessBad (decide (1439 < nfld v 61 51) || decide (1439 < nfld v 50 40) || decide (100 < nfld v 39 33)
      || decide (100 < nfld v 32 26) || decide (100 < nfld v 25 19)) v
  | .bpmAdmCfg => unlessBad (decide (nfld v 63 48 < nfld v 47 32) || decide (nfld v 31 16 < nfld v 15 0)) v
  | .chnKeyCfg => some (atLeast (atLeast v 24 16 1) 11 8 1)
  | .grmTraceCfg => some (within v 4 0 8 24)
  | .fwdLockCfg => some (atLeast v 15 0 1)
  | .fwdNtfRing => some (within v 63 59 10 24)
  | .obsTraceRing => some (within v 63 59 10 24)
  | .timTbCfg => unlessBad (nfld v 31 30 == 3) (tbCfgTake v)
  | .timPpsCfg => unlessBad (k == 1 && nfld v 59 48 == 0) (ppsCfgTake v)
  | .timTodCfg => unlessBad (nfld v 29 28 == 3) v
  | .timCapCfg => unlessBad (k == 1 && nfld v 62 61 == 0) (capCfgTake v)
  | .mbxMsixMap => unlessBad (!msixFnOk s i (nfld v 29 23)) v
  | .mbxRingCfg => unlessBad (assignBad s 16 ringFn (nfld v 30 24) i) v
  | .dmaChCfg => unlessBad (assignBad s 32 dmaFn (nfld v 30 24) i) v
  | .dmaChVec => unlessBad (!vecOk (dmaFn s i) (nfld v 10 0)) v
  | .dmaRxCfg =>
    unlessBad (assignBad s 64 rxFn (nfld v 62 56) i || decide (nfld v 55 52 < 6) || decide (12 < nfld v 55 52)) v
  | .prtTimer => some (atLeast v 31 24 1)
  | .timFreqCfg => unlessBad (!laneValid s (nfld v 28 21) || !laneValid s (nfld v 20 13)) v
  | .obsStatSel => unlessBad (nfld v 31 29 == 7 || decide (scopeUnitsOn s (nfld v 31 29) ≤ nfld v 19 0)) v
  | .obsPcSel => unlessBad (!pcSelOk v) v
  | _ => some v

end Sys2Proof.Machine
end

