-- ==== Sys2Proof/Machine/Access.lean ====
section
/-! DEFINITION. Writes to the control window (R11, R13, R24 to R27, R34, R44, R383, R387, R474 to R477): what a register word
written by a requester does. A register whose write is a command of its own takes that command's operation. -/
namespace Sys2Proof.Machine

/-- Whether an address lies in the block of a fused unit (R2): its block reads as zero and discards writes. -/
def blockFused (s : State) (a : Nat) : Bool :=
  if 0x800000 ≤ a ∧ a < 0x900000 then !laneValid s ((a - 0x800000) / 0x1000)
  else if 0x1000000 ≤ a ∧ a < 0x1100000 then !treeValid s ((a - 0x1000000) / 0x4000)
  else if 0x2000000 ≤ a ∧ a < 0x6000000 then !chanValid s ((a - 0x2000000) / 0x40000)
  else false

/-- Whether an address is reachable now (R77): in boot mode the GLB block and MBX_IMG_* only, before it nothing. -/
def reachable (s : State) (a : Nat) : Bool :=
  if s.boot.bootMode then decide (a < 0x10000) || decide (0x10200 ≤ a ∧ a < 0x10228)
  else rf s Adr.glbBootStat 31 28 != 0

/-- Registers whose writes and reads are held per requester (R12). -/
def perRequester (id : RegId) : Bool :=
  match id with
  | .chnPmSel | .obsStatSel | .mbxTblwSel | .fwdTindex | .fwdTdata | .fwdTcmd | .mbxTblwStat | .chnTcmTxstat | .chnGeSysstat
  | .treTransitResult | .chnKeyInstallStat | .bpmFreeStat | .chnPmData | .chnPmBintime | .secChallenge | .timCapFifo => true
  | _ => false

/-! ## Staged words of a register that its top word commits -/

/-- The value a commit takes: each word as this requester staged it, else as it stands; the top word as written. -/
def stagedValue (s : State) (who : Requester) (ra n : Nat) (w : Word) : Nat :=
  let word (j : Nat) : Nat :=
    if j + 1 = n then w.toNat
    else match s.acc.stage.find? (·.1 = reqKey who (ra + 4 * j)) with
      | some (_, x) => x.toNat
      | none => (rd s (ra + 4 * j)).toNat
  (List.range n).foldl (fun v j => v + word j * 2 ^ (32 * j)) 0
/-- Keeps a word for its commit. -/
def stageWord (s : State) (who : Requester) (a : Nat) (w : Word) : State :=
  noteWriteAt { s with acc := { s.acc with stage := mput s.acc.stage (reqKey who a) w } } who a .ok 0 0
/-- Forgets a register's staged words. -/
def unstage (s : State) (who : Requester) (ra n : Nat) : State :=
  { s with acc := { s.acc with stage := (List.range n).foldl (fun m j => mdel m (reqKey who (ra + 4 * j))) s.acc.stage } }

/-! ## Writes with an operation of their own -/

/-- A write of a unit's list control (R219, R220): the fields, INSTALL of the list, and ENABLE = 0; a refused install changes
nothing. -/
def gclCtlWrite (s : State) (who : Requester) (x : Nat) (w : Word) : State :=
  let a := gclCtl x
  gclWriter s who x fun s =>
    let on := w.toNat.testBit 31
    let s1 := wf (wf (wb s a 31 on) a 23 16 (fld w 23 16)) a 7 0 (fld w 7 0)
    match (if w.toNat.testBit 30 then gclInstall s1 x else some s1) with
    | none => wrRefuse s who a .outOfRange
    | some s2 =>
      if on then
        wrOk (if (gclOf s2 x).run.isNone then gatesTake s2 x (defaultGates s2 x) else s2) who a
      else
        let g := rf s2 (gclStat x) 15 8
        wrOk (gatesTake (wf (gclDisable s2 x) (gclStat x) 15 8 g) x (defaultGates s2 x)) who a

/-- A write of FWD_TCMD: OP runs within the write; other codes are refused with its STATUS OUT_OF_RANGE (R332). The write itself has
landed and reports OK in GLB_WRSTAT whatever STATUS its command ends with (DESIGN CHOICE, assumption log 27). -/
def tcmdWrite (s : State) (who : Requester) (w : Word) : State :=
  let a := Adr.fwdTcmd
  let w := putFld w 16 16 0
  let op := fld w 30 27
  if 1 ≤ op ∧ op ≤ 5 then tcmdRun s who op w
  else if islDown s (islandOf a) then wrDown s who a
  else wrOk (wrReq s who a (putFld (putFld w 31 31 0) 20 17 (if op = 0 then 0 else TcRes.outOfRange.code))) who a

/-- A write of CHN_STATE (R118): RESET by the physical function, any other value by the owner of function 5. -/
def chanStateWrite (s : State) (who : Requester) (c : Nat) (w : Word) : State :=
  if fld w 7 0 = chReset then chanResetWrite s who c (fld w 23 16) else eclipseWrite s who c (fld w 23 16) (fld w 7 0)

/-- Clears the PEND bits of a word (R38): MAXSEV and EVCOUNT of each island with them, and the island's source ends (R389). -/
def pendClear (s : State) (j : Nat) (w : Word) : State :=
  (List.range 32).foldl (fun s k =>
    let i := 32 * j + k
    if w.toNat.testBit k && decide (i < 342) then
      wf (wf (wb s (Adr.glbEventPend j) k false) (Adr.glbIslandStat i) 25 24 0) (Adr.glbIslandStat i) 23 16 0
    else s) s

/-- A write of MBX_RING_CFG: RESOLVE by the owning function, the rest by the physical function only (R397, R475). -/
def ringCfgWrite (s : State) (who : Requester) (r : Nat) (w : Word) : State :=
  let a := Adr.mbxRingCfg r
  let resolve := w.toNat.testBit 9
  if resolve && fnOf s who != ringFn s r then wrRefuse s who a .notOwner
  else if !resolve && !isPfSide s who then wrRefuse s who a .notAuthorized
  else if isPfSide s who then
    match regTake s .mbxRingCfg r 0 w.toNat with
    | none => wrRefuse s who a .outOfRange
    | some v =>
      let s := if resolve then ringResolve s who r else s
      wrOk (wf (wf s a 31 31 (nfld v 31 31)) a 30 24 (nfld v 30 24)) who a
  else ringResolve s who r

/-- A write to the MSI-X table of the physical function: a vector unmasked with its pending bit set sends (R389). -/
def msixUnmask (s : State) (v : Nat) : State :=
  let a := Adr.msixPba (v / 32)
  if rb s a (v % 32) && !rb s (Adr.msixTable v + 12) 0 then sendMsix (wb s a (v % 32) false) 0 v else s
/-- A word of a virtual function's MSI-X table (R384). -/
def vfMsixWrite (s : State) (p vec k : Nat) (w : Word) : State :=
  let key := (p * 64 + vec) * 4 + k
  let w := if k = 0 then putFld w 1 0 0 else if k = 3 then putFld (0 : Word) 0 0 (fld w 0 0) else w
  let s := { s with acc := { s.acc with vfMsix := mset (if k = 3 then 1 else 0) s.acc.vfMsix key w } }
  if k = 3 && fld w 0 0 == 0 && decide (p * 64 + vec ∈ s.acc.vfPba) then
    sendMsix { s with acc := { s.acc with vfPba := s.acc.vfPba.filter (· ≠ p * 64 + vec) } } (p + 1) vec
  else s

/-- TOD_SET is sent again to the ACTIVE terminals of a channel whose ASYM_K, OPT_TX, OPT_RX or ANCHOR_TB changed (R371). -/
def todAgain (s : State) (c old new : Nat) : State :=
  if nfld old 127 64 = nfld new 127 64 ∧ nfld old 63 61 = nfld new 63 61 then s
  else (usedTids s (c / 4)).foldl (fun s tid =>
    if termEff s tid = tsActive ∧ termChan s tid = c then sendTod s tid else s) s

/-- An operation of a register's own, if its write has one: index i1 and i2, word k of n, the whole value v, the word w, ns after
the cycle start. It makes its own checks of writer and owner. -/
def routeWrite (s : State) (who : Requester) (id : RegId) (i1 i2 k v : Nat) (w : Word) (ofs : Nat) : Option State :=
  match id with
  | .mbxOwnerReq => some (ownerRequest s who w)
  | .mbxHostWd => some (hostWdWrite s who w)
  | .mbxImgCtrl => some (imgCtrl s who w)
  | .glbResetCtrl => some (resetCtrlWrite s who w)
  | .treState => some (treeStateWrite s who i1 (fld w 23 16) (fld w 7 0))
  | .chnState => some (chanStateWrite s who i1 w)
  | .chnTlrCmd => some (tlrCmdWrite s who i1 (fld w 31 28) (fld w 8 0))
  | .chnCrs =>
    let old := crsValue s i1 i2
    some (crsWrite s who i1 i2 (putNfld old (32 * k + 31) (32 * k) w.toNat))
  | .treDiscCfg => some (qwNowWrite s who i1 w)
  | .treRogueCfg => some (rogueCfgWrite s who i1 w)
  | .treTerm => some (termWrite s who (tidOf i1 i2) (fld w 23 16) (fld w 7 0) (fld w 15 8))
  | .treTermInfo => some (termInfoWrite s who (tidOf i1 i2) v)
  | .chnTcmTx => if i2 = 10 then some (tcmTxWrite s who i1 w) else none
  | .chnGeSysreq => some (sysReq s who i1 v)
  | .chnGeRingCtl => some (ringWrIdx s who i1 (fld w 4 0))
  | .chnGclCtl => some (gclCtlWrite s who i1 w)
  | .uplGclCtl => some (gclCtlWrite s who (256 + i1) w)
  | .treTransitReq => some (trReqWrite s who i1 v ofs)
  | .chnKeyInstall => some (keyInstallWrite s who i1 v)
  | .chnKeySlot => some (keySlotWrite s who i1 i2 (fld w 23 16) (fld w 7 0))
  | .secZeroize => some (zeroizeWrite s who w)
  | .fwdTcmd => some (tcmdWrite s who w)
  | .uplGrpMode => some (grpModeWrite s who (i1 / 8) w)
  | .bpmFree => some (bpmFreeWrite s who (nfld v 31 0) (nfld v 63 32))
  | .timTbOffset => some (offsetWrite s who i1 v)
  | .timTbSet => some (tbSetWrite s who i1 v ofs)
  | .timForceStep => some (forceStepWrite s who w ofs)
  | .timAct => some (actCommit s who i1 v ofs)
  | .chnTimeC50 => some (c50Arm s who i1 w)
  | .mbxRingCfg => some (ringCfgWrite s who i1 w)
  | .mbxRingIdx => if k = 0 then some (ringProdWrite s who i1 (fld w 8 0)) else none
  | .dmaChCtl =>
    if fld w 30 30 = 1 then some (dmaAbortWrite s who i1)
    else if fld w 31 31 = 1 then some (dmaStartWrite s who i1)
    else some (if dmaOwner s who i1 then wrOk s who (Adr.dmaChCtl i1) else wrRefuse s who (Adr.dmaChCtl i1) .notOwner)
  | .dmaReqRaise => some (reqRaiseWrite s who w)
  | .prtCfg => some (prtCfgWrite s who w)
  | .prtState => some (prtStateWrite s who (fld w 23 16) (fld w 7 0))
  | .prtAlive => some (prtAliveWrite s who)
  | .obsSnapCtl => some (snapCtlWrite s who w ofs)
  | .obsPcVal => some (pcValWrite s who i1 v)
  | .obsTraceInj => some (traceInject s who v)
  | .obsFiGlobal => some (fiGlobalWrite s who w)
  | .fiCfgDs => some (fiWrite s who 0 i1 v)
  | .fiCfgUs => some (fiWrite s who 1 i1 v)
  | .fiCfgUtx => some (fiWrite s who 2 i1 v)
  | .fiCfgUrx => some (fiWrite s who 3 i1 v)
  | .fiCfgObs => some (fiWrite s who 4 i1 v)
  | .pwrCap => some (pwrCapWrite s who w)
  | .pwrStat => some (pwrStatWrite s who w)
  | .pwrDvfs => some (dvfsWrite s who i1 w)
  | .pwrGateUpl => some (gateUplWrite s who w)
  | .pwrRailCfg => if k = 1 then some (railCfgWrite s who i1 (w.toNat * 2 ^ 32)) else none
  | _ => none

/-- Injector patterns and links, whose writes the approved mode locks too (R441). -/
def fiExtra (id : RegId) : Bool :=
  match id with
  | .fiPatDs | .fiPatUs | .fiPatUtx | .fiPatUrx | .fiPatObs | .obsFiLink => true
  | _ => false

/-- What a landed write of a plain register brings with it: index, word, the register's value before and after. -/
def afterWrite (s : State) (id : RegId) (i1 k old new : Nat) (w : Word) : State :=
  match id with
  | .glbEventPend => pendClear s i1 w
  | .chnTimeCfg => todAgain s i1 old new
  | .chnKeyCfg => showBypass s
  | .grmTraceCfg => if nbit new 31 && !nbit old 31 then { s with grm := { s.grm with lfsr := [] } } else s
  | .mbxRingIdx => endSource s (358 + i1)
  | .dmaRxIdx => if k = 0 then endSource s (374 + i1) else s
  | .msixTable => if k = 3 then msixUnmask s i1 else s
  | .uplPortCfg => if nbit new 31 then s else linkDown s i1
  | _ => s

/-! ## One register word -/

/-- A word landing in a plain register after its checks: per requester, or with the values taken; OUT_OF_RANGE where refused. -/
def plainWrite (s : State) (who : Requester) (r : RegRef) (a : Nat) (w : Word) : State :=
  let d := r.desc
  let ra := a - r.off
  let k := r.off / 4
  let n := d.bits / 32
  let i1 := r.idx.headD 0
  if perRequester d.id then
    match regTake s d.id i1 k w.toNat with
    | none => wrRefuse s who a .outOfRange
    | some v => noteWriteAt (wrReq s who a (mergeWord d k (rdReq s who a) (BitVec.ofNat 32 v))) who a .ok 0 0
  else
    let old := rdW s ra n
    let put := if d.commitTop then stagedValue s who ra n w else putNfld old (32 * k + 31) (32 * k) w.toNat
    let s := if d.commitTop then unstage s who ra n else s
    match regTake s d.id i1 k put with
    | none => noteWriteAt s who a .outOfRange 0 0
    | some v =>
      let put (s : State) (j : Nat) : State :=
        wr s (ra + 4 * j) (mergeWord d j (rd s (ra + 4 * j)) (BitVec.ofNat 32 (v / 2 ^ (32 * j))))
      let s := if d.commitTop then (List.range n).foldl put s else put s k
      noteWriteAt (afterWrite s d.id i1 k old (rdW s ra n) w) who a .ok 0 0

/-- Whether the requester may write a register by R475; NOT_AUTHORIZED otherwise. -/
def writerOk (s : State) (who : Requester) (d : RegDesc) : Bool :=
  match d.writer with
  | .any => true
  | .pfOnly => isPfSide s who
  | .coreOnly => isCore who

/-- A word written to a register (R13, R25, R44, R475, R477). -/
def regWrite (s : State) (who : Requester) (r : RegRef) (a : Nat) (w : Word) (ofs : Nat) : State :=
  let d := r.desc
  let k := r.off / 4
  let n := d.bits / 32
  let i1 := r.idx.headD 0
  let i2 := (r.idx.drop 1).headD 0
  if wordRo d k || (d.id == .uplGrpMode && i1 % 8 != 0) then badAccess s who
  else if islDown s (islandOf a) && d.id != .chnState then wrDown s who a
  else
    let s := pc s { code := 3, who := some who, addrs := [ctlwDev a] }
    let top := !d.commitTop || k + 1 == n
    let v := if d.commitTop then stagedValue s who (a - r.off) n w else w.toNat
    let go := if top then routeWrite (if d.commitTop then unstage s who (a - r.off) n else s) who d.id i1 i2 k v w ofs else none
    match go with
    | some s => s
    | none =>
      if !writerOk s who d then wrRefuse s who a .notAuthorized
      else if fiExtra d.id && (!isPfSide s who || fiLocked s) then wrRefuse s who a .notAuthorized
      else
        let t := treeOfAddr a
        match d.owner with
        | some f =>
          if isOwner s who (islandOf a) f t = false then wrNotOwner s who a f t
          else if !top then stageWord s who a w
          else if d.id = .chnDsPart then
            let ra := a - r.off
            match dsPartWrite (unstage s who ra n) i1 i2 v with
            | some s => noteWriteAt s who a .ok 0 0
            | none => noteWriteAt (unstage s who ra n) who a .outOfRange 0 0
          else plainWrite s who r a w
        | none =>
          if !top || d.id == .chnTcmTx then stageWord s who a w else plainWrite s who r a w

/-! ## Windows that are no registers -/

/-- The command ring whose slots hold an address. -/
def slotRing (a : Nat) : Option Nat := if 0xA00000 ≤ a ∧ a < 0xA40000 then some ((a - 0xA00000) / 0x4000) else none
/-- The channel whose input-ring slots hold an address (R191). -/
def geWindow (a : Nat) : Option Nat :=
  if 0x2000000 ≤ a ∧ a < 0x6000000 ∧ 0x20000 ≤ (a - 0x2000000) % 0x40000 ∧ (a - 0x2000000) % 0x40000 < 0x30000 then
    some ((a - 0x2000000) / 0x40000)
  else none
/-- Whether an address lies in a read-only window: outcome, DMA outcome, notification and register outcome rings (R383), TLR
records (R128), and the running list's entries (CHN_GCL_ADMIN). -/
def roWindow (a : Nat) : Bool :=
  decide (0xA40000 ≤ a ∧ a < 0xAE2000)
    || (decide (0x2000000 ≤ a ∧ a < 0x6000000)
      && (decide (0x10000 ≤ (a - 0x2000000) % 0x40000 ∧ (a - 0x2000000) % 0x40000 < 0x18000)
        || decide (0x30800 ≤ (a - 0x2000000) % 0x40000 ∧ (a - 0x2000000) % 0x40000 < 0x31000)))

/-- A word written at a control-window address by a requester, ns after the cycle start (R34). -/
def ctlwWrite (s : State) (who : Requester) (a : Nat) (w : Word) (ofs : Nat) : State :=
  if !reachable s a then s
  else if blockFused s a then s
  else if a % 4 ≠ 0 then badAccess s who
  else match regFind a with
  | some r => regWrite s who r a w ofs
  | none =>
    match slotRing a with
    | some r =>
      if islDown s (islandOf a) then wrDown s who a
      else if fnOf s who ≠ ringFn s r then wrRefuse s who a .notOwner
      else wrOk (wr (pc s { code := 3, who := some who, addrs := [ctlwDev a] }) a w) who a
    | none =>
      match geWindow a with
      | some c =>
        if islDown s c then wrDown s who a
        else if isOwner s who c 1 (c / 4) = false then wrNotOwner s who a 1 (c / 4)
        else wrOk (wr (pc s { code := 3, who := some who, addrs := [ctlwDev a] }) a w) who a
      | none => badAccess s who

end Sys2Proof.Machine
end

