-- ==== Sys2Proof/Machine/Reads.lean ====
section
/-! DEFINITION. Reads of the control window and the table window, the views of virtual functions (R12, R27, R35, R383 to R387), and
the access commands. -/
namespace Sys2Proof.Machine

/-! ## Latches (R12) -/

/-- Latches the words of a register above its low word for a requester. -/
def latchHigh (s : State) (who : Requester) (a v n : Nat) : State :=
  let put (m : SMap Word) (j : Nat) : SMap Word :=
    if j = 0 then m else mset 0 m (reqKey who (a + 4 * j)) (BitVec.ofNat 32 (v / 2 ^ (32 * j)))
  { s with acc := { s.acc with latch := (List.range n).foldl put s.acc.latch } }
/-- The word latched for a requester; 0 before its first low-word read. -/
def latched (s : State) (who : Requester) (a : Nat) : Word := mget 0 s.acc.latch (reqKey who a)

/-! ## What registers read as -/

/-- Clears the write-only fields, which read 0 (R13). -/
def maskWo (d : RegDesc) (v : Nat) : Nat :=
  d.fields.foldl (fun v f => if f.kind = .wo then putNfld v f.hi f.lo 0 else v) v

/-- The whole value of a register as a requester reads it, ns after the cycle start. -/
def regValue (s : State) (who : Requester) (d : RegDesc) (ra i1 i2 ofs : Nat) : Nat :=
  let n := d.bits / 32
  match d.id with
  | .chnCycle => rdW s (Adr.chnCycle 0) 2
  | .chnGeAssuredUsed => assuredSum s i1
  | .chnCrs => crsValue s i1 i2
  | .obsStatData =>
    let sel := rdReq s who Adr.obsStatSel
    statRead s (fld sel 28 28 == 1) (fld sel 31 29) (fld sel 19 0) (fld sel 27 24)
  | .timTbTime => putNfld (rdW s ra 4) 127 32 (if baseState s i1 = tbUnset then rfW s ra 4 127 32 else ticksTime (baseAt s i1 ofs))
  | .obsSnapStat => putNfld (rdW s ra 1) 31 31 (b2n (snapBusy s ofs))
  | .fwdNtfIdx => rdW s ra n
  | _ => if perRequester d.id then (rdReq s who ra).toNat else maskWo d (rdW s ra n)

/-- Fields that their read clears, as high and low bit. -/
def readClears (id : RegId) : Option (Nat × Nat) :=
  match id with
  | .uplPortStat => some (23, 0)
  | .obsSnapStat => some (30, 24)
  | .obsTraceStat => some (15, 0)
  | .dmaRxIdx => some (63, 48)
  | .dmaFnStat => some (31, 16)
  | .pwrTherm => some (31, 24)
  | _ => none

/-- What a low-word read clears. -/
def afterRead (s : State) (who : Requester) (d : RegDesc) (ra : Nat) : State :=
  match d.id with
  | .prtLinkStat => wfW (wfW s ra 2 39 32 0) ra 2 15 0 0
  | .mbxTblwStat => wrReq s who ra (putFld (rdReq s who ra) 15 0 0)
  | id => match readClears id with
    | some (hi, lo) => wfW s ra (d.bits / 32) hi lo 0
    | none => s

/-! ## GLB_WRSTAT and GLB_BARRIER (R27, R35) -/

/-- The write that a requester's copy of GLB_WRSTAT reports: its last refused one since the last read, else its last. -/
def wrReport (s : State) (who : Requester) : WrRec :=
  match s.acc.wrBad.find? (·.1 = who.code) with
  | some (_, r) => r
  | none => mget {} s.acc.wrLast who.code
/-- A read of GLB_WRSTAT returns the report and clears the record of refusal and COUNT. -/
def wrstatRead (s : State) (who : Requester) : State :=
  let r := wrReport s who
  let v := r.status * 2 ^ 28 + r.epoch % 256 * 2 ^ 16 + r.state % 256 * 2 ^ 8 + mget 0 s.acc.wrCount who.code
  ret { s with acc := { s.acc with wrBad := mdel s.acc.wrBad who.code, wrCount := mset 0 s.acc.wrCount who.code 0 } } who
    (BitVec.ofNat 32 v)

/-- A read of GLB_BARRIER waits for the requester's earlier writes. -/
def barrierRead (s : State) (who : Requester) : State :=
  { s with acc := { s.acc with barWait := mset 0 s.acc.barWait who.code 1 } }
/-- A waiting barrier read returns: LOST, and with TIMEOUT the writes still in flight; the next barrier reports LOST anew. -/
def barrierDone (s : State) (who : Requester) (inFlight : Option Nat) : State :=
  if mget 0 s.acc.barWait who.code = 0 then s
  else
    let v := mget 0 s.acc.barLost who.code * 2 ^ 31
      + (match inFlight with | some n => 2 ^ 30 + min 0xFFFF n | none => 0)
    ret { s with acc := { s.acc with barWait := mset 0 s.acc.barWait who.code 0, barLost := mset 0 s.acc.barLost who.code 0 } }
      who (BitVec.ofNat 32 v)

/-! ## Reads of the control window -/

/-- A read of a register word: the low word latches the others for the requester, the others return the latch (R12). -/
def regRead (s : State) (who : Requester) (r : RegRef) (a ofs : Nat) : State :=
  let d := r.desc
  let ra := a - r.off
  let k := r.off / 4
  let n := d.bits / 32
  let i1 := r.idx.headD 0
  let i2 := (r.idx.drop 1).headD 0
  match d.id with
  | .glbWrstat => wrstatRead s who
  | .glbWrstatAddr => ret s who (BitVec.ofNat 32 (wrReport s who).off)
  | .glbBarrier => barrierRead s who
  | .chnPmData => if k = 0 then pmDataRead s who i1 else ret s who (rdReq s who a)
  | .secChallenge => if i1 = 0 then challengeRead s who else ret s who (rdReq s who a)
  | .timCapFifo => if k = 0 then capRead s who i1 else ret s who (rdReq s who a)
  | _ =>
    if k ≠ 0 then ret s who (latched s who a)
    else
      let v := regValue s who d ra i1 i2 ofs
      ret (afterRead (latchHigh s who ra v n) who d ra) who (BitVec.ofNat 32 v)

/-- A read of a control-window word by a requester, ns after the cycle start. A register in an island that is LOST or in RESET, other
than CHN_STATE, returns a value no rule gives. -/
def ctlwRead (s : State) (who : Requester) (a ofs : Nat) : State :=
  if !reachable s a then ret s who 0
  else if blockFused s a then ret s who 0
  else if a % 4 ≠ 0 then ret (badAccess s who) who 0
  else
    let seen := pc s { code := 2, who := some who, addrs := [ctlwDev a] }
    match regFind a with
    | some r =>
      if r.desc.id = .uplGrpMode ∧ r.idx.headD 0 % 8 ≠ 0 then ret (badAccess s who) who 0
      else if r.desc.id = .chnState then regRead seen who r a ofs
      else if islDown s (islandOf a) then readUp s who (islandOf a) id
      else regRead seen who r a ofs
    | none =>
      if 0xAE0000 ≤ a ∧ a < 0xAE2000 ∧ fnOf s who ≠ 0 ∧ fnOf s who ≠ 65 then ret (badAccess s who) who 0
      else if (slotRing a).isSome ∨ (geWindow a).isSome ∨ roWindow a = true then
        if islDown s (islandOf a) then readUp s who (islandOf a) id
        else
          let o := (a - 0x2000000) % 0x40000
          if 0x2000000 ≤ a ∧ 0x10000 ≤ o ∧ o < 0x18000 then
            if a % 64 = 0 then ret (latchHigh seen who a (rdW s a 16) 16) who (rd s a) else ret seen who (latched s who a)
          else if 0x2000000 ≤ a ∧ 0x30800 ≤ o ∧ o < 0x31000 then
            if a % 8 = 0 then ret (latchHigh seen who a (rdW s a 2) 2) who (rd s a) else ret seen who (latched s who a)
          else ret seen who (rd s a)
      else ret (badAccess s who) who 0

/-! ## The table window (R386) -/

/-- A read of a word of the table window, or of a function's table port. -/
def tblwRead (s : State) (who : Requester) (ofs : Nat) : State :=
  let sel := rdReq s who Adr.mbxTblwSel
  let code := fld sel 5 0
  match tblShape s code with
  | none => ret (badAccess s who) who 0
  | some (st, n) =>
    let idx := (if (vfPart s who).isSome then fld sel 31 6 else 0) + ofs / st
    if ofs % 4 ≠ 0 ∨ n ≤ idx then ret (badAccess s who) who 0
    else
      let s := if 8 ≤ code ∧ code < 12 then relocSome s else s
      let v := if code = tbAstat then geAstat s idx else tblSeen s code idx
      ret (pc s { code := 2, who := some who }) who (BitVec.ofNat 32 (v / 2 ^ (ofs % st / 4 * 32)))

/-! ## Views (R384) -/

/-- Where a function's address leads. -/
inductive Reach
  | ctlw (a : Nat)
  | table (ofs : Nat)
  | msix (vec k : Nat)
  | pba (j : Nat)
  | none
  deriving DecidableEq, Repr

/-- The j-th unit that a function holds, in ascending order. -/
def nthHeld (s : State) (n : Nat) (fn : State → Nat → Nat) (f j : Nat) : Option Nat :=
  ((List.range n).filter fun i => fn s i == f)[j]?

/-- The place of an offset in the view of virtual function p. -/
def vfPlace (s : State) (p o : Nat) : Reach :=
  let f := p + 1
  let at_ (u : Option Nat) (g : Nat → Nat) : Reach := match u with
    | some i => .ctlw (g i)
    | _ => .none
  if o < 0x100 then (if o = 0x10 ∨ o = 0x20 ∨ o = 0x24 then .ctlw o else .none)
  else if o = 0x100 then .ctlw Adr.mbxTblwSel
  else if o = 0x104 then .ctlw Adr.mbxTblwStat
  else if 0x1000 ≤ o ∧ o < 0x1080 then at_ (nthHeld s 16 ringFn f ((o - 0x1000) / 0x20)) fun r => 0x12000 + 0x20 * r + o % 0x20
  else if 0x2000 ≤ o ∧ o < 0x2400 then at_ (nthHeld s 32 dmaFn f ((o - 0x2000) / 0x100)) fun d => 0x50000 + 0x100 * d + o % 0x100
  else if 0x3000 ≤ o ∧ o < 0x3080 then at_ (nthHeld s 64 rxFn f ((o - 0x3000) / 0x20)) fun i => 0x54000 + 0x20 * i + o % 0x20
  else if 0x4000 ≤ o ∧ o < 0x4400 then .msix ((o - 0x4000) / 16) (o % 16 / 4)
  else if 0x4400 ≤ o ∧ o < 0x4408 then .pba ((o - 0x4400) / 4)
  else if 0x10000 ≤ o ∧ o < 0x50000 then
    let q := o % 0x10000
    at_ (nthHeld s 16 ringFn f (o / 0x10000 - 1)) fun r =>
      if q < 0x4000 then 0xA00000 + 0x4000 * r + q
      else if q < 0x6000 then 0xA40000 + 0x2000 * r + (q - 0x4000)
      else if 0x8000 ≤ q ∧ q < 0xC000 then 0xAA0000 + 0x4000 * r + (q - 0x8000)
      else 0xFFFFFFC
  else if 0x50000 ≤ o ∧ o < 0x58000 then
    at_ (nthHeld s 32 dmaFn f ((o - 0x50000) / 0x2000)) fun d => 0xA60000 + 0x2000 * d + o % 0x2000
  else if 0x80000 ≤ o ∧ o < 0x100000 then .table (o - 0x80000)
  else .none

/-- Whether virtual function p reaches a control-window address through its view (R385). -/
def vfReaches (s : State) (p a : Nat) : Bool :=
  let f := p + 1
  a == 0x10 || a == 0x20 || a == 0x24 || a == Adr.mbxTblwSel || a == Adr.mbxTblwStat
    || (decide (0x12000 ≤ a ∧ a < 0x12200) && ringFn s ((a - 0x12000) / 0x20) == f)
    || (decide (0x50000 ≤ a ∧ a < 0x52000) && dmaFn s ((a - 0x50000) / 0x100) == f)
    || (decide (0x54000 ≤ a ∧ a < 0x54800) && rxFn s ((a - 0x54000) / 0x20) == f)
    || (decide (0xA00000 ≤ a ∧ a < 0xA40000) && ringFn s ((a - 0xA00000) / 0x4000) == f)
    || (decide (0xA40000 ≤ a ∧ a < 0xA60000) && ringFn s ((a - 0xA40000) / 0x2000) == f)
    || (decide (0xA60000 ≤ a ∧ a < 0xAA0000) && dmaFn s ((a - 0xA60000) / 0x2000) == f)
    || (decide (0xAA0000 ≤ a ∧ a < 0xAE0000) && ringFn s ((a - 0xAA0000) / 0x4000) == f)

/-- Where a requester's address leads: the physical function and the control cores see CTLW from 0 on, and TBLW from 2^28 on; a
virtual function its view; a DMA channel CTLW, cut to what its function reaches. -/
def placeOf (s : State) (who : Requester) (addr : Nat) : Reach :=
  match who with
  | .vf p => if p < 64 ∧ s.boot.bootMode = false then vfPlace s p addr else .none
  | .dma d =>
    let f := dmaFn s d
    if f = 0 ∨ vfReaches s (f - 1) addr = true then .ctlw addr else .none
  | _ => if addr < 2 ^ 28 then .ctlw addr else if addr < 2 ^ 28 + 2 ^ 30 then .table (addr - 2 ^ 28) else .none

/-- Whether an access is bad by its shape or its address (R387): narrow, misaligned, or at a reserved offset. -/
def accessBad (s : State) (who : Requester) (addr size : Nat) (write : Bool) : Bool :=
  decide (size < 4) || addr % 4 != 0 ||
    match placeOf s who addr with
    | .none => true
    | .ctlw a => match regFind a with
      | some r => write && wordRo r.desc (r.off / 4)
      | none => if write then (slotRing a).isNone && (geWindow a).isNone
                else (slotRing a).isNone && (geWindow a).isNone && !roWindow a
    | .table o => match tblShape s (fld (rdReq s who Adr.mbxTblwSel) 5 0) with
      | none => true
      | some (st, n) => decide (n ≤ (if (vfPart s who).isSome then fld (rdReq s who Adr.mbxTblwSel) 31 6 else 0) + o / st)
    | .msix _ _ => false
    | .pba _ => write

/-- A write of a word by a requester, ns after the cycle start. -/
def hostWrite (s : State) (who : Requester) (addr : Nat) (w : Word) (ofs : Nat) : State :=
  match placeOf s who addr with
  | .none => badAccess s who
  | .ctlw a => ctlwWrite s who a w ofs
  | .table o =>
    if s.boot.bootMode || rf s Adr.glbBootStat 31 28 == 0 then s
    else tblwWrite (pc s { code := 3, who := some who }) who o w
  | .msix vec k =>
    if addr % 4 ≠ 0 then badAccess s who else match who with
    | .vf p => vfMsixWrite s p vec k w
    | _ => s
  | .pba _ => badAccess s who

/-- A read of a word by a requester, ns after the cycle start; the value returned is the requester's (R12). -/
def hostRead (s : State) (who : Requester) (addr ofs : Nat) : State :=
  match placeOf s who addr with
  | .none => ret (badAccess s who) who 0
  | .ctlw a => ctlwRead s who a ofs
  | .table o =>
    if s.boot.bootMode || rf s Adr.glbBootStat 31 28 == 0 then ret s who 0 else tblwRead s who o
  | .msix vec k =>
    if addr % 4 ≠ 0 then ret (badAccess s who) who 0 else ret s who (msixWord s (fnOf s who) vec k)
  | .pba j =>
    if addr % 4 ≠ 0 then ret (badAccess s who) who 0
    else
      let p := fnOf s who - 1
      ret s who (BitVec.ofNat 32 ((List.range 32).foldl (fun v i =>
        if p * 64 + 32 * j + i ∈ s.acc.vfPba then v + 2 ^ i else v) 0))

/-! ## Commands -/

/-- REGISTER_WRITE (R34): requester, address in its window, value, ns after the cycle start. -/
def execRegisterWrite (who : Requester) (addr : Nat) (value : Word) (ofs : Nat) (s : State) : Host.Outcome State Fault Refusal :=
  .next (hostWrite s who addr value ofs)
/-- BAD_ACCESS (R387): requester, address, size in bytes, whether it writes. -/
def execBadAccess (who : Requester) (addr size : Nat) (write : Bool) (s : State) : Host.Outcome State Fault Refusal :=
  .next (if accessBad s who addr size write then (if write then badAccess s who else ret (badAccess s who) who 0) else s)
/-- LOW_WORD_READ (R12): requester, address, ns after the cycle start. -/
def execLowWordRead (who : Requester) (addr ofs : Nat) (s : State) : Host.Outcome State Fault Refusal :=
  .next (hostRead s who addr ofs)
/-- GLB_BARRIER_READ (R35): requester. -/
def execGlbBarrierRead (who : Requester) (s : State) : Host.Outcome State Fault Refusal := .next (barrierRead s who)
/-- BARRIER_RETURN (R35): requester. -/
def execBarrierReturn (who : Requester) (s : State) : Host.Outcome State Fault Refusal := .next (barrierDone s who none)
/-- BARRIER_TIMEOUT (R35): requester, its earlier writes still in flight. -/
def execBarrierTimeout (who : Requester) (inFlight : Nat) (s : State) : Host.Outcome State Fault Refusal :=
  .next (barrierDone s who (some inFlight))
/-- GLB_WRSTAT_READ (R27): requester. -/
def execGlbWrstatRead (who : Requester) (s : State) : Host.Outcome State Fault Refusal := .next (wrstatRead s who)
/-- PEND_CLEAR (R38): word of GLB_EVENT_PEND, the value written. -/
def execPendClear (j : Nat) (value : Word) (s : State) : Host.Outcome State Fault Refusal :=
  .next (if j < 11 then pendClear s j value else s)

end Sys2Proof.Machine
end

