-- ==== Sys2Proof/Machine/DmaRun.lean ====
section
/-! DEFINITION. What DMA programs do (R400 to R410): fetching and decoding an instruction, MOVE with its bursts and beats, injection,
LOOP, WAIT, SIGNAL, FENCE and END, and errors on a beat. -/
namespace Sys2Proof.Machine

/-! ## Instructions (R401) -/

inductive DmaSpace | device | host | inject deriving DecidableEq, Repr

/-- An instruction, its reserved fields found zero. -/
inductive DmaOp
  | move (src dst : DmaSpace) (ts rel : Bool) (req burst len srcA dstA word3 : Nat)
  | loop (count target : Nat) (srcStep dstStep : Int)
  | waitReq (line timeout : Nat)
  | waitReg (addr mask timeout : Nat)
  | waitTime (tb time timeout : Nat)
  | interrupt (vec : Nat)
  | flag (space : DmaSpace) (addr value : Nat)
  | doorbell (ch : Nat)
  | fence
  | finish
  deriving DecidableEq, Repr

def spaceOf (v : Nat) : Option DmaSpace :=
  match v with
  | 0 => some .device | 1 => some .host | 2 => some .inject | _ => none

/-- A MOVE's words: its source is no INJECT, HOST to HOST is refused, LEN is not 0, an injected frame has a frame's length, and its
injection word only the fields of R408. -/
def decodeMove (a b c d : Nat) : Option DmaOp :=
  match spaceOf (nfld a 59 58), spaceOf (nfld a 57 56) with
  | some src, some dst =>
    let req := nfld a 53 47
    let len := nfld a 31 0
    let bad := src == .inject || (src == .host && dst == .host) || len == 0 || nfld a 46 44 != 0
      || (decide (72 ≤ req) && req != 0x7F)
      || (dst == .inject && (decide (16383 < len) || nfld d 62 48 != 0 || nfld d 31 23 != 0))
    if bad then none
    else some (.move src dst (nbit a 55) (nbit a 54) req (if nfld a 43 32 = 0 then 4096 else nfld a 43 32) len b c d)
  | _, _ => none

/-- A WAIT's words. -/
def decodeWait (a b c d : Nat) : Option DmaOp :=
  let tmo := nfld a 31 0
  if d ≠ 0 ∨ nfld a 57 54 ≠ 0 ∨ nfld a 46 32 ≠ 0 then none
  else match nfld a 59 58 with
    | 0 => if 72 ≤ nfld a 53 47 ∨ b ≠ 0 ∨ c ≠ 0 then none else some (.waitReq (nfld a 53 47) tmo)
    | 1 => if nfld a 53 47 ≠ 0 ∨ 2 ^ 32 ≤ c then none else some (.waitReg b c tmo)
    | 2 => if nfld a 53 51 ≠ 0 ∨ nbit a 47 = true ∨ nfld b 31 0 ≠ 0 then none
           else some (.waitTime (nfld a 50 48) (nfld b 63 32 + c * 2 ^ 32) tmo)
    | _ => none

/-- A SIGNAL's words. -/
def decodeSignal (a b c d : Nat) : Option DmaOp :=
  match nfld a 59 58 with
  | 0 => if nfld a 57 11 ≠ 0 ∨ b ≠ 0 ∨ c ≠ 0 ∨ d ≠ 0 then none else some (.interrupt (nfld a 10 0))
  | 1 => if nfld a 55 0 ≠ 0 ∨ d ≠ 0 then none
         else match spaceOf (nfld a 57 56) with
           | some .device => some (.flag .device b c)
           | some .host => some (.flag .host b c)
           | _ => none
  | 2 => if nfld a 57 11 ≠ 0 ∨ b ≠ 0 ∨ c ≠ 0 ∨ d ≠ 0 ∨ 32 ≤ nfld a 10 0 then none else some (.doorbell (nfld a 10 0))
  | _ => none

/-- The instruction at index pc that four words spell; none ends the program with BAD_INSTR. -/
def decodeInstr (pc a b c d : Nat) : Option DmaOp :=
  match nfld a 63 60 with
  | 1 => decodeMove a b c d
  | 2 => if nfld a 59 32 ≠ 0 ∨ nfld a 31 0 = 0 ∨ 4096 ≤ b ∨ pc ≤ b then none
         else some (.loop (nfld a 31 0) b (signed 64 c) (signed 64 d))
  | 3 => decodeWait a b c d
  | 4 => decodeSignal a b c d
  | 5 => if nfld a 59 0 ≠ 0 ∨ b ≠ 0 ∨ c ≠ 0 ∨ d ≠ 0 then none else some .fence
  | 6 => if nfld a 59 0 ≠ 0 ∨ b ≠ 0 ∨ c ≠ 0 ∨ d ≠ 0 then none else some .finish
  | _ => none

/-! ## Device addresses (R385) -/

def devCtlw : Nat := 0x080000000000
def devTblw : Nat := 0x090000000000

/-- A region of device addresses, with the offset in it; none is refused with ACCESS. -/
inductive DevPlace
  | ctlw (o : Nat)
  | tblw (code o : Nat)
  | dram (a : Nat)
  deriving DecidableEq, Repr

/-- Where n bytes at a device address lie, for channel d: whole within one region, and reachable by the channel's function. -/
def devPlace (s : State) (d a n : Nat) : Option DevPlace :=
  let f := dmaFn s d
  if devCtlw ≤ a ∧ a + n ≤ devCtlw + 2 ^ 28 then
    let o := a - devCtlw
    if f = 0 ∨ ((List.range n).all fun i => vfReaches s (f - 1) (o + i)) = true then some (.ctlw o) else none
  else if devTblw ≤ a ∧ a + n ≤ devTblw + 64 * 2 ^ 30 then some (.tblw ((a - devTblw) / 2 ^ 30) ((a - devTblw) % 2 ^ 30))
  else if inReserve s a n = true ∧ f = 0 then some (.dram a)
  else none

/-- The islands, as DmaProg numbers them, that a place lies in. -/
def placeIsland : DevPlace → Nat
  | .ctlw o => 1 + islandOf o
  | .tblw code _ => 1 + tblIsland code
  | .dram _ => 1000

/-- The word pieces of n bytes at an offset: offset and length, cut at word boundaries. -/
def wordPieces (o n : Nat) : List (Nat × Nat) :=
  let first := min n ((4 - o % 4) % 4)
  let rest := n - first
  (if first = 0 then [] else [(o, first)]) ++ ((List.range (rest / 4)).map fun i => (o + first + 4 * i, 4))
    ++ (if rest % 4 = 0 then [] else [(o + first + rest / 4 * 4, rest % 4)])

/-- A word of a table entry as channel d reads it. -/
def tblWordRead (s : State) (d code o : Nat) : State × Nat :=
  match tblShape s code with
  | none => (badAccess s (.dma d), 0)
  | some (st, n) =>
    if n ≤ o / st then (badAccess s (.dma d), 0)
    else
      let s := if 8 ≤ code ∧ code < 12 then relocSome s else s
      let v := if code = tbAstat then geAstat s (o / st) else tblSeen s code (o / st)
      (pc s { code := 2, who := some (.dma d) }, v / 2 ^ (o % st / 4 * 32) % 2 ^ 32)

/-- Bytes that channel d reads at a place, ns after the cycle start: whole words of registers and entries; a narrower piece is a bad
access and reads 0 (R11, R387). -/
def devRead (s : State) (d : Nat) (p : DevPlace) (n ofs : Nat) : State × List Byte :=
  let who : Requester := .dma d
  match p with
  | .dram a => (s, (List.range n).map fun i => dramByte s (a + i))
  | .ctlw o => (wordPieces o n).foldl (fun (s, l) q =>
      if q.2 = 4 then
        let s := ctlwRead (ret s who 0) who q.1 ofs
        (s, l ++ bytesLE 4 (mget 0 s.acc.ret who.code).toNat)
      else (badAccess s who, l ++ List.replicate q.2 0)) (s, [])
  | .tblw code o => (wordPieces o n).foldl (fun (s, l) q =>
      if q.2 = 4 then
        let (s, v) := tblWordRead s d code q.1
        (s, l ++ bytesLE 4 v)
      else (badAccess s who, l ++ List.replicate q.2 0)) (s, [])

/-- Counts a refused table entry of channel d's program, with the first one's status (R410). -/
def dmaRefused (s : State) (d : Nat) (st : Status) : State :=
  dmaUpd s d fun p => { p with refused := satAdd 0xFFFF p.refused 1, firstSt := if p.refused = 0 then st.code else p.firstSt }

/-- Bytes that channel d writes at a place: whole words of registers and entries; a narrower piece is a bad access. -/
def devWrite (s : State) (d : Nat) (p : DevPlace) (b : List Byte) (ofs : Nat) : State :=
  let who : Requester := .dma d
  match p with
  | .dram a => b.zipIdx.foldl (fun s x => dramPut s (a + x.2) x.1) s
  | .ctlw o => (wordPieces o b.length).foldl (fun s q =>
      if q.2 = 4 then ctlwWrite s who q.1 (BitVec.ofNat 32 (ofBytesLE ((b.drop (q.1 - o)).take 4))) ofs
      else badAccess s who) s
  | .tblw code o => (wordPieces o b.length).foldl (fun s q =>
      match (if q.2 = 4 then tblShape s code else none) with
      | none => badAccess s who
      | some (st, _) =>
        match tblWordR (pc s { code := 3, who := some who }) who code (q.1 / st) (q.1 % st / 4)
          (BitVec.ofNat 32 (ofBytesLE ((b.drop (q.1 - o)).take 4))) with
        | (s, none) => s
        | (s, some e) => dmaRefused s d e) s

/-! ## Fetching (R400) -/

/-- The four words of the instruction at index pc; none: FETCH_ERR. -/
def dmaFetch (s : State) (d pc : Nat) : Option (Nat × Nat × Nat × Nat) :=
  let a := rdW s (Adr.dmaChProg d) 2 + 32 * pc
  let words (b : List Byte) : Nat × Nat × Nat × Nat :=
    let w (i : Nat) : Nat := ofBytesLE ((b.drop (8 * i)).take 8)
    (w 0, w 1, w 2, w 3)
  if rb s (Adr.dmaChCfg d) 23 then (if s.boot.linkUp then some (words (mbytes 0 s.hostMem a 32)) else none)
  else match devPlace s d a 32 with
    | some (.dram a) => some (words ((List.range 32).map fun i => dramByte s (a + i)))
    | _ => none

/-- Fetches and decodes the instruction at PC of channel d's program, and runs it; a program that is not running, or whose flushing
reads are out, takes no instruction. -/
def dmaExec (s : State) (d : Nat) (run : State → DmaProg → DmaOp → State) : State :=
  if d < 32 ∧ dmaBusy s d = true then
    match dmaProg s d with
    | none => s
    | some p =>
      if p.fence then s
      else if 4096 ≤ dmaPc s d then dmaFail s d deBadInstr
      else match dmaFetch s d (dmaPc s d) with
        | none => dmaFail s d deFetch
        | some (a, b, c, w3) => match decodeInstr (dmaPc s d) a b c w3 with
          | none => dmaFail s d deBadInstr
          | some op => run s p op
  else s

/-- The instruction at PC is complete: PC and PROGRESS advance, and the channel runs on. PC past the last of 4,096 stays there. -/
def dmaNext (s : State) (d : Nat) : State :=
  let s := dmaUpd (setDmaState s d dsRunning) d fun p => { p with done := p.done + 1, moved := 0, line := none, tsIn := none }
  setDmaPc s d (dmaPc s d + 1)
/-- The channel waits, for a request line or for what its instruction names. -/
def dmaWaits (s : State) (d : Nat) (line : Option Nat) : State :=
  dmaUpd (setDmaState s d dsWaiting) d fun p => { p with line := line }
/-- Notes a destination written since the last FENCE. -/
def dmaTouch (s : State) (d x : Nat) : State := dmaUpd s d fun p => { p with touched := addNew p.touched x }

/-! ## MOVE (R402, R406, R407) -/

/-- SRC and DST of a MOVE with the program's offsets. -/
def moveAddrs (p : DmaProg) (rel : Bool) (src dst : Nat) : Nat × Nat :=
  if rel then (unsigned 64 ((src : Int) + p.ofsSrc), unsigned 64 ((dst : Int) + p.ofsDst)) else (src, dst)
/-- Whether a copy runs from the highest address down (R407). -/
def descending (ss ds : DmaSpace) (src dst len : Nat) : Bool :=
  ss == .device && ds == .device && decide (src < dst ∧ dst < src + len)
/-- The offset of the next beat and its length, after m of len bytes. -/
def beatAt (down : Bool) (len m : Nat) : Nat × Nat :=
  let n := min 64 (len - m)
  (if down then len - m - n else m, n)

/-- What a read side gives, or the error. -/
def readSide (s : State) (d : Nat) (sp : DmaSpace) (a n ofs : Nat) : State × Option (List Byte) :=
  match sp with
  | .host => (s, some (mbytes 0 s.hostMem a n))
  | _ => match devPlace s d a n with
    | some p => let (s, b) := devRead s d p n ofs; (s, some b)
    | none => (s, none)
/-- Writes a side, or gives the error. -/
def writeSide (s : State) (d : Nat) (sp : DmaSpace) (a : Nat) (b : List Byte) (ofs : Nat) : Option State :=
  match sp with
  | .host => some (dmaTouch (putHost s a b) d 0)
  | _ => (devPlace s d a b.length).map fun p => dmaTouch (devWrite s d p b ofs) d (placeIsland p)

/-- Free bytes: the data of a failed beat is undefined (R409). -/
def freeBytes : Nat → State → State × List Byte
  | 0, s => (s, [])
  | n + 1, s =>
    let b : Byte := BitVec.ofNat 8 (freeVal s)
    let (s, l) := freeBytes n (nextFree s)
    (s, b :: l)

/-- A beat fails (R409): its bytes at the destination are undefined; RESIDUE counts from it, or is 0 with LAST_BEAT_ERR when it is the
last of its MOVE. -/
def beatFail (s : State) (d err : Nat) (ds : DmaSpace) (dst len m n ofs : Nat) : State :=
  let (s, b) := freeBytes n s
  let s := if ds = .inject then s else (writeSide s d ds dst b ofs).getD s
  let last := decide (len ≤ m + n)
  dmaStop (setResidue s d (if last then 0 else len - m)) d dsError err true last

/-- One beat of a MOVE to memory: the state after it, and whether the program still runs. -/
def moveBeat (s : State) (d : Nat) (ss ds : DmaSpace) (src dst len m ofs : Nat) : State × Bool :=
  let (o, n) := beatAt (descending ss ds src dst len) len m
  match readSide s d ss (src + o) n ofs with
  | (s, none) => (beatFail s d deAccess ds (dst + o) len m n ofs, false)
  | (s, some b) =>
    match writeSide s d ds (dst + o) b ofs with
    | none => (beatFail s d deAccess ds (dst + o) len m n ofs, false)
    | some s =>
      let addrs := (if ss = .device then [src + o] else []) ++ (if ds = .device then [dst + o] else [])
      let s := pc s { code := 5, unit := some d, who := some (.dma d), addrs := addrs }
      (setResidue (dmaUpd s d fun p => { p with moved := m + n, any := true }) d (len - (m + n)), true)

/-- Up to k beats, from m bytes on: the state, the bytes moved, and whether the program still runs. -/
def moveBeats (d : Nat) (ss ds : DmaSpace) (src dst len ofs : Nat) : Nat → Nat → State → State × Nat × Bool
  | 0, m, s => (s, m, true)
  | k + 1, m, s =>
    if len ≤ m then (s, m, true)
    else match moveBeat s d ss ds src dst len m ofs with
      | (s, false) => (s, m, false)
      | (s, true) => moveBeats d ss ds src dst len ofs k (m + (beatAt false len m).2) s

/-- Bursts of a MOVE, each with its request (R406): the channel waits while there is none. -/
def moveBursts (d : Nat) (ss ds : DmaSpace) (req burst src dst len ofs : Nat) : Nat → Nat → State → State
  | 0, _, s => s
  | k + 1, m, s =>
    if len ≤ m then s
    else
      match (if req = 0x7F then some s else reqTake s d req) with
      | none => dmaWaits s d (some req)
      | some s =>
        let s := dmaUpd (setDmaState s d dsRunning) d fun p => { p with line := none }
        match moveBeats d ss ds src dst len ofs burst m s with
        | (s, _, false) => s
        | (s, m, true) => moveBursts d ss ds req burst src dst len ofs k m s

/-! ## Injection (R408) -/

/-- Whether an injected frame is one of a C50 terminal's management channel (R127): it goes directly to a queue of STREAM 31 on a
C50 channel (DESIGN CHOICE, assumption log 155). -/
def injectMgmt (s : State) (w3 : Nat) : Bool :=
  match Egress.ofCode (nfld w3 47 32) with
  | some (.pon c) => nbit w3 63 && isC50 s c && nfld w3 19 0 % 32 == 31
  | _ => false
/-- The injected frame's Clause. -/
def injectClause (s : State) (d len ts w3 : Nat) : Clause :=
  let cl : Clause := { kind := ClauseKind.hostInject.code, part := dmaFn s d - 1, tc := nfld w3 22 20, len := len, buf := noBuf,
                       tsIn := ts }
  let cl := cl.setFlag flagCoarseTs
  let cl := if injectMgmt s w3 then { cl with kind := ClauseKind.mgmtFrame.code } else cl
  if nbit w3 63 then { cl with egr := nfld w3 47 32, queue := nfld w3 19 0 } else cl
/-- Hands the frame to its pipeline, or with DIRECT to where EGR names; members are those of the replication list it may name. -/
def injectGo (s : State) (d : Nat) (f : Frame) (direct : Bool) (members : List Nat) : State :=
  if direct then
    let keys := match Egress.ofCode f.cl.egr with
      | some (.replication _) => (members.filterMap fun x => destTo s f.cl x).map (·.2.2)
      | _ => egressKeys f.cl.egr f.cl.queue f.cl.tc
    flowOut s f keys
  else ingressPut s { fr := f, port := 512 + d }

/-- A MOVE to INJECT: the frame's bytes are read beat by beat, and the frame goes on once the control pool has the cells it needs. -/
def moveInject (s : State) (d : Nat) (p : DmaProg) (ss : DmaSpace) (ts : Bool) (src len w3 ofs : Nat) (members : List Nat) : State :=
  let t := p.tsIn.getD (baseAt s 0 ofs / 65536 % 2 ^ 40)
  let s := dmaUpd s d fun p => { p with tsIn := some t }
  if (placeCells s 9 (dmaFn s d - 1) len []).isNone then dmaWaits s d none
  else
    let s := setDmaState s d dsRunning
    match readSide s d ss src len ofs with
    | (s, none) => beatFail s d deAccess .inject 0 len 0 (min 64 len) ofs
    | (s, some b) =>
      let beats := ceilDiv len 64
      let s := pc s { code := 5, n := beats, unit := some d, who := some (.dma d), addrs := if ss = .device then [src] else [] }
      let f : Frame := { cl := injectClause s d len t w3, data := b, tsReq := if ts then some (d, dmaPc s d) else none }
      let s := setResidue (dmaUpd s d fun p => { p with moved := len, any := true }) d 0
      injectGo s d f (nbit w3 63) members

/-- A MOVE takes up to n bursts. -/
def moveRun (s : State) (d n ofs : Nat) (members : List Nat) (p : DmaProg) (op : DmaOp) : State :=
  match op with
  | .move ss ds ts rel req burst len srcA dstA w3 =>
    let (src, dst) := moveAddrs p rel srcA dstA
    if len ≤ p.moved then s
    else
      let s := if p.moved = 0 then setResidue s d len else s
      if ds = .inject then
        match (if req = 0x7F then some s else reqTake s d req) with
        | none => dmaWaits s d (some req)
        | some s => moveInject s d p ss ts src len w3 ofs members
      else moveBursts d ss ds req burst src dst len ofs n p.moved s
  | _ => s

/-- The MOVE's last write has left the engine. -/
def moveDone (s : State) (d : Nat) (p : DmaProg) (op : DmaOp) : State :=
  match op with
  | .move _ _ _ _ _ _ len _ _ _ => if p.moved = len then dmaNext s d else s
  | _ => s

/-- An error on the beat after k good beats (R409): HOST_ERR or DEVICE_ERR. -/
def moveBeatError (s : State) (d err k ofs : Nat) (p : DmaProg) (op : DmaOp) : State :=
  match op with
  | .move ss ds _ rel _ _ len srcA dstA _ =>
    let (src, dst) := moveAddrs p rel srcA dstA
    if dmaState s d ≠ dsRunning ∨ len ≤ p.moved ∨ (err ≠ deHost ∧ err ≠ deDevice) then s
    else if ds = .inject then beatFail (setResidue s d len) d err .inject 0 len (64 * k) (min 64 (len - 64 * k)) ofs
    else match moveBeats d ss ds src dst len ofs k p.moved s with
      | (s, _, false) => s
      | (s, m, true) =>
        if len ≤ m then s
        else
          let (o, n) := beatAt (descending ss ds src dst len) len m
          beatFail s d err ds (dst + o) len m n ofs
  | _ => s

/-! ## LOOP (R402) -/

def loopRun (s : State) (d : Nat) (p : DmaProg) (op : DmaOp) : State :=
  match op with
  | .loop count target ss ds =>
    let i := dmaPc s d
    match p.loops.find? (·.1 = i) with
    | none =>
      if 4 ≤ p.loops.length then dmaFail s d deLoopDepth
      else
        let s := dmaUpd s d fun p => { p with loops := mput p.loops i (count - 1), ofsSrc := p.ofsSrc + ss, ofsDst := p.ofsDst + ds,
                                              done := p.done + 1 }
        setDmaPc s d target
    | some (_, 0) => dmaNext (dmaUpd s d fun p => { p with loops := mdel p.loops i }) d
    | some (_, c + 1) =>
      let s := dmaUpd s d fun p => { p with loops := mput p.loops i c, ofsSrc := p.ofsSrc + ss, ofsDst := p.ofsDst + ds,
                                            done := p.done + 1 }
      setDmaPc s d target
  | _ => s

/-! ## WAIT (R403) -/

/-- Tries a WAIT: done when satisfied, else the channel reads WAITING. -/
def waitTry (s : State) (d ofs : Nat) (op : DmaOp) : State :=
  match op with
  | .waitReq l _ => match reqTake s d l with
    | some s => dmaNext s d
    | none => dmaWaits s d (some l)
  | .waitReg a mask _ => match devPlace s d a 4 with
    | none => dmaFail s d deAccess
    | some p =>
      let (s, b) := devRead s d p 4 ofs
      if ofBytesLE b &&& mask ≠ 0 then dmaNext s d else dmaWaits s d none
  | .waitTime tb t _ =>
    if baseState s tb = tbUnset then dmaFail s d deBadInstr
    else if timeTicks t ≤ baseAt s tb ofs then dmaNext s d
    else dmaWaits s d none
  | _ => s
/-- TIMEOUT_US of a WAIT; 0 for none. -/
def dmaWaitLimit : DmaOp → Nat
  | .waitReq _ t => t
  | .waitReg _ _ t => t
  | .waitTime _ _ t => t
  | _ => 0
/-- A WAIT still unsatisfied at TIMEOUT_US. -/
def waitExpire (s : State) (d : Nat) (op : DmaOp) : State :=
  if dmaWaitLimit op ≠ 0 ∧ dmaState s d = dsWaiting then dmaFail s d deWaitTimeout else s

/-! ## SIGNAL, FENCE, END (R401, R404) -/

/-- A SIGNAL. -/
def signalRun (s : State) (d ofs : Nat) (op : DmaOp) : State :=
  match op with
  | .interrupt v => dmaNext (sendMsix s (dmaFn s d) v) d
  | .flag sp a v => match writeSide s d sp a (bytesLE 8 v) ofs with
    | some s => dmaNext s d
    | none => dmaFail s d deAccess
  | .doorbell c => dmaNext ((dmaStart s c).getD s) d
  | _ => s

/-- A program's END, every write arrived: its final record (R404, R410). -/
def dmaFinish (s : State) (d : Nat) : State :=
  match dmaProg s d with
  | some p => dmaFinal s d { p with done := p.done + 1 } dsDone deNone { state := .done }
  | none => s
/-- Flushing reads go to the destinations written since the last FENCE; with none the instruction is complete at once. -/
def fenceRun (s : State) (d : Nat) (p : DmaProg) (ending : Bool) : State :=
  if p.touched.isEmpty then (if ending then dmaFinish s d else dmaNext s d)
  else dmaUpd s d fun p => { p with fence := true, ending := ending }
/-- Every flushing read has completed. -/
def fenceDone (s : State) (d : Nat) : State :=
  match dmaProg s d with
  | some p =>
    if p.fence then
      let s := setDmaProg s d { p with fence := false, ending := false, touched := [] }
      if p.ending then dmaFinish s d else dmaNext s d
    else s
  | none => s

/-! ## Commands: each takes the instruction at PC when it is of its kind -/

/-- MOVE_INSTR (R402): channel, how many bursts it makes now, ns after the cycle start, the destination codes of the replication list
that DIRECT may name. -/
def execMoveInstr (d n ofs : Nat) (members : List Nat) (s : State) : Host.Outcome State Fault Refusal :=
  .next (dmaExec s d fun s p op => moveRun s d n ofs members p op)
/-- LOOP (R402): channel. -/
def execLoop (d : Nat) (s : State) : Host.Outcome State Fault Refusal :=
  .next (dmaExec s d fun s p op => loopRun s d p op)
/-- WAIT_REQUEST (R403): channel. -/
def execWaitRequest (d : Nat) (s : State) : Host.Outcome State Fault Refusal :=
  .next (dmaExec s d fun s _ op => match op with | .waitReq _ _ => waitTry s d 0 op | _ => s)
/-- WAIT_REG (R403): channel, ns after the cycle start of the poll. -/
def execWaitReg (d ofs : Nat) (s : State) : Host.Outcome State Fault Refusal :=
  .next (dmaExec s d fun s _ op => match op with | .waitReg _ _ _ => waitTry s d ofs op | _ => s)
/-- WAIT_TIME (R403): channel, ns after the cycle start. -/
def execWaitTime (d ofs : Nat) (s : State) : Host.Outcome State Fault Refusal :=
  .next (dmaExec s d fun s _ op => match op with | .waitTime _ _ _ => waitTry s d ofs op | _ => s)
/-- WAIT_SATISFIED (R403): channel, ns after the cycle start; the condition is looked at again. -/
def execWaitSatisfied (d ofs : Nat) (s : State) : Host.Outcome State Fault Refusal :=
  .next (dmaExec s d fun s _ op => if dmaState s d = dsWaiting then waitTry s d ofs op else s)
/-- WAIT_TIMEOUT (R403): channel. -/
def execWaitTimeout (d : Nat) (s : State) : Host.Outcome State Fault Refusal :=
  .next (dmaExec s d fun s _ op => waitExpire s d op)
/-- SIGNAL_INTERRUPT (R401): channel. -/
def execSignalInterrupt (d : Nat) (s : State) : Host.Outcome State Fault Refusal :=
  .next (dmaExec s d fun s _ op => match op with | .interrupt _ => signalRun s d 0 op | _ => s)
/-- SIGNAL_FLAG (R401): channel, ns after the cycle start. -/
def execSignalFlag (d ofs : Nat) (s : State) : Host.Outcome State Fault Refusal :=
  .next (dmaExec s d fun s _ op => match op with | .flag _ _ _ => signalRun s d ofs op | _ => s)
/-- SIGNAL_DOORBELL (R401): channel. -/
def execSignalDoorbell (d : Nat) (s : State) : Host.Outcome State Fault Refusal :=
  .next (dmaExec s d fun s _ op => match op with | .doorbell _ => signalRun s d 0 op | _ => s)
/-- FENCE (R404): channel. -/
def execFence (d : Nat) (s : State) : Host.Outcome State Fault Refusal :=
  .next (dmaExec s d fun s p op => match op with | .fence => fenceRun s d p false | _ => s)
/-- FENCE_COMPLETE (R404): channel. -/
def execFenceComplete (d : Nat) (s : State) : Host.Outcome State Fault Refusal := .next (fenceDone s d)
/-- END (R404): channel. -/
def execEndProg (d : Nat) (s : State) : Host.Outcome State Fault Refusal :=
  .next (dmaExec s d fun s p op => match op with | .finish => fenceRun s d p true | _ => s)
/-- DMA_BEAT_ERROR (R409): channel, ERR, good beats before it, ns after the cycle start. -/
def execDmaBeatError (d err k ofs : Nat) (s : State) : Host.Outcome State Fault Refusal :=
  .next (dmaExec s d fun s p op => moveBeatError s d err k ofs p op)
/-- MOVE_COMPLETE (R404): channel. -/
def execMoveComplete (d : Nat) (s : State) : Host.Outcome State Fault Refusal :=
  .next (dmaExec s d fun s p op => moveDone s d p op)

end Sys2Proof.Machine
end

