-- ==== Sys2Proof/Machine/Handover.lean ====
section
/-! DEFINITION. The end of an ownership handover (R43 step 4), and the Orrery defaults that firmware restores (R46). -/
namespace Sys2Proof.Machine

/-- Registers of an owner function that hold the state of a unit, of a terminal or of an operation and no setting: no default replaces
them. -/
def holdsUnit (id : RegId) : Bool :=
  match id with
  | .treState | .chnState | .treTerm | .treTermInfo | .chnKeySlot | .prtState | .treTransitReq | .chnGeSysreq | .timTbOffset => true
  | _ => false

/-- A register word with its RW fields back at their reset values and its other bits as they stand. -/
def defaultWord (r : RegRef) (a : Nat) (w : Word) : Word :=
  let m := rwMask r.desc (r.off / 4)
  (w &&& ~~~m) ||| (resetWord a &&& m)

/-- Whether an address is a setting of function f for tree t. -/
def settingOf (r : RegRef) (a f t : Nat) : Bool :=
  r.desc.owner == some f && ownTree f (treeOfAddr a) == t && !holdsUnit r.desc.id

/-- What the image gives the settings of a function in a reset value's place: the bases of the time plan (R381), the points and voltages
of the island plan, asked for as a write asks for them (R447, R479). -/
def imageDefaults (s : State) (f : Nat) : State :=
  let plan := imgBody s.img.running 8
  let isl := imgBody s.img.running 9
  if f = 4 then
    (List.range 8).foldl (fun s i =>
      wr (wr s (Adr.timTbCfg i) (BitVec.ofNat 32 (tbCfgTake (leAt plan (32 * i) 4)))) (Adr.timTbServo i)
        (BitVec.ofNat 32 (leAt plan (32 * i + 4) 4))) s
  else if f = 6 then
    (List.range 5).foldl (fun s k =>
      let o := 4 * dieFirst k
      let v := leAt isl (o + 2) 1
      dvfsRequest s k (putFld (putFld (putFld (0 : Word) 20 16 (nfld v 4 0)) 25 24 (leAt isl (o + 1) 1)) 31 31 (nfld v 7 7))) s
  else s

/-- Restores the Orrery defaults of function f for tree t (R46): its settings take their reset values, or those of the running image; gate
lists whose ENABLE returns to 0 stop, and port groups whose gate bit does are ungated. -/
def restoreDefaults (s : State) (f t : Nat) : State :=
  let s := if f = 6 then gateUplTaken s 0 else s
  let s := if f = 2 then (List.range 4).foldl (fun s w => if rb s (gclCtl (chanOf t w)) 31 then gclDisable s (chanOf t w) else s) s else s
  let s := s.regs.foldl (fun s p =>
    match regFind p.1 with
    | some r => if settingOf r p.1 f t && r.desc.id != .pwrDvfs then wr s p.1 (defaultWord r p.1 p.2) else s
    | none => s) s
  imageDefaults s f

/-- The last acknowledgement has arrived: OWNER takes the new value, HSTATE returns to STABLE, EPOCH advances, REFUSED
clears and the record becomes DONE (R43 step 4). On a return to basic control firmware resumes from the registers, or
restores the defaults and says so (R46). -/
def handoverDone (s : State) (f t : Nat) (consistent : Bool) : State :=
  match findHandover s f t with
  | none => s
  | some h =>
    if h.flipsSent && h.waiting.isEmpty then
      let a := Adr.mbxOwner f t
      let restore := h.newOwner == 0 && !consistent
      let s := if restore then restoreDefaults s f t else s
      let s := endHandover s f t
      let s := setHstate s f t 0
      let s := wf (wf s a 23 16 0) a 0 0 h.newOwner
      putRec s (regopAddr h.record)
        { tag := handoverTag f t h.watchdog, opcode := 0x6000 + f, state := .done,
          flags := if restore then 2 else 0 }
    else s

/-- OWNER_HANDOVER_DONE (R43, R46). -/
def execOwnerHandoverDone (f t : Nat) (consistent : Bool) (s : State) : Host.Outcome State Fault Refusal :=
  .next (handoverDone s f t consistent)

end Sys2Proof.Machine
end

