-- ==== Sys2Proof/Machine/Sample.lean ====
section
/-! DEFINITION. Queue samplers (R223 to R225). -/
namespace Sys2Proof.Machine

/-- LOG2_SIZE of a sampler, cut to its limits. -/
def smpLog2 (s : State) (i : Nat) : Nat := clamp 10 24 (rf s (Adr.dtmSmpCtl i) 29 25)

/-- QIDs of the part (R7). -/
def qidLimit (s : State) : Nat := if s.boot.fuse6432 then 2 ^ 19 else 2 ^ 20

/-- Writes a record into a sampler's ring, which must lie in the deep reserve; one that finds the ring full is discarded
and counted (R225). -/
def smpPut (s : State) (i : Nat) (r : Nat) : State :=
  match dramRingPut s (rdW s (Adr.dtmSmpRing i) 2) (smpLog2 s i) (Adr.dtmSmpIdx i) (bytesBE 16 r) with
  | some s => s
  | none =>
    let s := satF s (Adr.dtmSmpStat i) 15 0 1
    { s with sched := { s.sched with smpFlags := mput s.sched.smpFlags i (setBit (mget 0 s.sched.smpFlags i) 1) } }

/-- The QIDs of a period: the bitmap's ones, or the next SEL_COUNT of the rotation (R223). -/
def smpQids (s : State) (i : Nat) : List Nat :=
  let l := if rb s (Adr.dtmSmpCtl i) 30 then
      let v := rdW s (Adr.dtmSmpSel i) 2
      let range := clamp 1 (2 ^ 20) (nfld v 20 0)
      let pos := mget 0 s.sched.smpPos i
      (List.range (clamp 1 65536 (nfld v 40 24))).map fun k => nfld v 63 44 + (pos + k) % range
    else
      let a := rdW s (Adr.dtmSmpBmap i) 2
      (s.dram.filter fun p => a ≤ p.1 ∧ p.1 < a + 131072).flatMap fun p =>
        ((List.range 8).filter fun b => p.2.toNat.testBit b).map fun b => (p.1 - a) * 8 + b
  l.filter fun q => q < qidLimit s

/-- A bucket on the path of a queue with PIR at or below 0 (R224). -/
def smpShaped (s : State) (q : Nat) : Bool :=
  let c := qChan s q
  let now := cyclePs (cycleNow s)
  let tid := qTid (dsQueue s q)
  let low (k : Nat) (p : NodeP) : Bool := p.pir != 0 && decide ((nodeBucket s k p now).pir ≤ 0)
  low q (queueP (dsQueue s q)) || low (nodeTerm tid) (termP (dsTerm s tid))
    || low (nodePart c (termPart s tid)) (termP (rdW s (Adr.chnDsPart c (termPart s tid)) 4))

/-- The head-of-line delay of a queue read at an instant, in ns after the cycle start (R223): a frame that has arrived in this cycle is
not read before it has. -/
def holNs (s : State) (q ofs : Nat) : Nat :=
  match qFrames s q with
  | [] => 0
  | f :: _ =>
    let late := modSub f.cl.tsIn (baseNs s 0 % 2 ^ 40) (2 ^ 40)
    let at_ := if late < 15625 then max ofs late else ofs
    modSub ((baseNs s 0 + at_) % 2 ^ 40) f.cl.tsIn (2 ^ 40)

/-- The record of one queue (R224); the period's start in ns after the cycle start, and the read instant after it in units of 64 ns,
are given. -/
def smpRecord (s : State) (start q tofs : Nat) : Nat :=
  let v := dsQueue s q
  let c := qChan s q
  let fl := b2n (termHeld s c (qTid v)) + 2 * b2n (!nbit (rf s (gclStat c) 15 8) (qGate v)) + 4 * b2n (smpShaped s q)
  let hol := min 0xFFFFFFFF (holNs s q (start + 64 * tofs))
  (((((q * 16 + fl) * 2 ^ 24 + min (2 ^ 24 - 1) (qFrames s q).length) * 2 ^ 32 + qDepth s q % 2 ^ 32) * 2 ^ 32 + hol)
    * 2 ^ 16) + min 0xFFFF tofs

/-- The header of a period that starts at an instant in ns after the cycle start (R224). -/
def smpHeader (s : State) (start i : Nat) : Nat :=
  let t := ticksTime (baseAt s 0 start)
  let seq := mget 0 s.sched.smpSeq i % 65536
  (((((0xFFFFF * 16 + (mget 0 s.sched.smpFlags i % 4 + 8)) * 2 ^ 8 + i) * 2 ^ 48 + nfld t 95 48) * 2 ^ 32
    + nfld t 47 16) * 2 ^ 16) + seq

/-- A sampler period (R223 to R225): the header, then the queue records; where only the first n records are written before
the next period, and at most 64 records in a microsecond, the rest is cut and counted. The period's start within the cycle under way and the read instants are free values. -/
def smpPeriod (s : State) (i n : Nat) : State :=
  if rb s (Adr.dtmSmpCtl i) 31 = false ∨ 8 ≤ i then s
  else
    let qs := smpQids s i
    let n := min n (64 * rf s (Adr.dtmSmpCtl i) 19 0 - 1)
    let start := freeVal s % 15625
    let h := smpHeader s start i
    let s := nextFree s
    let s := { s with sched := { s.sched with smpFlags := mput s.sched.smpFlags i 0 } }
    let s := smpPut s i h
    let s := (qs.take n).foldl (fun s q => smpPut (nextFree s) i (smpRecord s start q (freeVal s % 65536))) s
    let cut := decide (n < qs.length)
    let s := if cut then satF s (Adr.dtmSmpStat i) 31 16 1 else s
    let v := rdW s (Adr.dtmSmpSel i) 2
    let range := clamp 1 (2 ^ 20) (nfld v 20 0)
    { s with sched := { s.sched with
      smpFlags := mput s.sched.smpFlags i (putBit (mget 0 s.sched.smpFlags i) 0 cut)
      smpSeq := mput s.sched.smpSeq i ((mget 0 s.sched.smpSeq i + 1) % 65536)
      smpPos := mset 0 s.sched.smpPos i ((mget 0 s.sched.smpPos i + clamp 1 65536 (nfld v 40 24)) % range) } }

/-- SAMPLER_PERIOD (R223). -/
def execSamplerPeriod (i n : Nat) (s : State) : Host.Outcome State Fault Refusal := .next (dataUp s fun s => smpPeriod s i n)

end Sys2Proof.Machine
end

