-- ==== Sys2Proof/Machine/Dispatch.lean ====
section
/-! DEFINITION. What each command does: one arm per constructor of Instr. -/
namespace Sys2Proof.Machine
open Sys2Proof

def exec (i : Instr) (s : State) : Host.Outcome State Fault Refusal :=
  match i with
  | .registerWrite who addr value ofs => Sys2Proof.Machine.execRegisterWrite who addr value ofs s
  | .badAccess who addr size write => Sys2Proof.Machine.execBadAccess who addr size write s
  | .lowWordRead who addr ofs => Sys2Proof.Machine.execLowWordRead who addr ofs s
  | .glbBarrierRead who => Sys2Proof.Machine.execGlbBarrierRead who s
  | .barrierReturn who => Sys2Proof.Machine.execBarrierReturn who s
  | .barrierTimeout who inFlight => Sys2Proof.Machine.execBarrierTimeout who inFlight s
  | .glbWrstatRead who => Sys2Proof.Machine.execGlbWrstatRead who s
  | .pendClear j value => Sys2Proof.Machine.execPendClear j value s
  | .flitReceive p d cls lp data ok => Sys2Proof.Machine.execFlitReceive p d cls lp data ok s
  | .retrainComplete p ok => Sys2Proof.Machine.execRetrainComplete p ok s
  | .creditReturn p d cls lp => Sys2Proof.Machine.execCreditReturn p d cls lp s
  | .islandLost ix det => Sys2Proof.Machine.execIslandLost ix det s
  | .sramError e => Sys2Proof.Machine.execSramError e s
  | .scrubPass => Sys2Proof.Machine.execScrubPass s
  | .clauseIslandEntry src dst cl check => Sys2Proof.Machine.execClauseIslandEntry src dst cl check s
  | .ownerRequest who value => Sys2Proof.Machine.execOwnerRequest who value s
  | .ownerFlip f t ix => Sys2Proof.Machine.execOwnerFlip f t ix s
  | .ownerHandoverDone f t consistent => Sys2Proof.Machine.execOwnerHandoverDone f t consistent s
  | .quiesceTimeout f t => Sys2Proof.Machine.execQuiesceTimeout f t s
  | .hostWdWrite who value => Sys2Proof.Machine.execHostWdWrite who value s
  | .hostWdExpire => Sys2Proof.Machine.execHostWdExpire s
  | .imgCtrlStage who src => Sys2Proof.Machine.execImgCtrlStage who src s
  | .imgCtrlApply who live trees => Sys2Proof.Machine.execImgCtrlApply who live trees s
  | .imgCtrlAbandon who => Sys2Proof.Machine.execImgCtrlAbandon who s
  | .imgCtrlCommit who => Sys2Proof.Machine.execImgCtrlCommit who s
  | .imageFetchDone err => Sys2Proof.Machine.execImageFetchDone err s
  | .applyTransitTimeout => Sys2Proof.Machine.execApplyTransitTimeout s
  | .applyTreeTimeout t => Sys2Proof.Machine.execApplyTreeTimeout t s
  | .grammarSwitchMarker p => Sys2Proof.Machine.execGrammarSwitchMarker p s
  | .grammarSwitchComplete => Sys2Proof.Machine.execGrammarSwitchComplete s
  | .supplyStart ix => Sys2Proof.Machine.execSupplyStart ix s
  | .supplyValid ix => Sys2Proof.Machine.execSupplyValid ix s
  | .supplyGapTimeout => Sys2Proof.Machine.execSupplyGapTimeout s
  | .supplyOutOfRange ix => Sys2Proof.Machine.execSupplyOutOfRange ix s
  | .porNAssert => Sys2Proof.Machine.execPorNAssert s
  | .porNRelease bootsel => Sys2Proof.Machine.execPorNRelease bootsel s
  | .perstNAssert => Sys2Proof.Machine.execPerstNAssert s
  | .perstNRelease => Sys2Proof.Machine.execPerstNRelease s
  | .p0Complete fuseOk => Sys2Proof.Machine.execP0Complete fuseOk s
  | .p1Complete romOk vaultOk => Sys2Proof.Machine.execP1Complete romOk vaultOk s
  | .p2Complete fail => Sys2Proof.Machine.execP2Complete fail s
  | .p4Complete site ports => Sys2Proof.Machine.execP4Complete site ports s
  | .fwStartTimeout => Sys2Proof.Machine.execFwStartTimeout s
  | .p5Complete => Sys2Proof.Machine.execP5Complete s
  | .linkTrainTimeout => Sys2Proof.Machine.execLinkTrainTimeout s
  | .treeStartTimeout t => Sys2Proof.Machine.execTreeStartTimeout t s
  | .glbResetCtrlCold who confirm => Sys2Proof.Machine.execGlbResetCtrlCold who confirm s
  | .glbResetCtrlWarm who confirm => Sys2Proof.Machine.execGlbResetCtrlWarm who confirm s
  | .coldReset => Sys2Proof.Machine.execColdReset s
  | .warmReset bootsel => Sys2Proof.Machine.execWarmReset bootsel s
  | .treeReset who t expect value => Sys2Proof.Machine.execTreeReset who t expect value s
  | .chnStateReset who c expect => Sys2Proof.Machine.execChnStateReset who c expect s
  | .channelIslandResetDone c => Sys2Proof.Machine.execChannelIslandResetDone c s
  | .channelLaneTrained c => Sys2Proof.Machine.execChannelLaneTrained c s
  | .channelRun c => Sys2Proof.Machine.execChannelRun c s
  | .channelStartTimeout c => Sys2Proof.Machine.execChannelStartTimeout c s
  | .chnStateEclipseEntering who c expect => Sys2Proof.Machine.execChnStateEclipseEntering who c expect s
  | .chnStateWaking who c expect => Sys2Proof.Machine.execChnStateWaking who c expect s
  | .cycleStart energy sfc => Sys2Proof.Machine.execCycleStart energy sfc s
  | .chnCrsWrite who c ix value => Sys2Proof.Machine.execChnCrsWrite who c ix value s
  | .burstStart c => Sys2Proof.Machine.execBurstStart c s
  | .burstReceive c rx => Sys2Proof.Machine.execBurstReceive c rx s
  | .tlrInvalidate who c k => Sys2Proof.Machine.execTlrInvalidate who c k s
  | .tlrForceCold who c k => Sys2Proof.Machine.execTlrForceCold who c k s
  | .tlrPin who c k => Sys2Proof.Machine.execTlrPin who c k s
  | .tlrUnpin who c k => Sys2Proof.Machine.execTlrUnpin who c k s
  | .tlrInvalidateAll who c => Sys2Proof.Machine.execTlrInvalidateAll who c s
  | .pmBinRollover c day second => Sys2Proof.Machine.execPmBinRollover c day second s
  | .pmDataRead who c => Sys2Proof.Machine.execPmDataRead who c s
  | .ploamReceive c tid typ serial delta idx wrapped => Sys2Proof.Machine.execPloamReceive c tid typ serial delta idx wrapped s
  | .comaEpoch c => Sys2Proof.Machine.execComaEpoch c s
  | .comaCandidatesPosted c peaks => Sys2Proof.Machine.execComaCandidatesPosted c peaks s
  | .registrationBurst c cw hdr msg ofs arrival overlap => Sys2Proof.Machine.execRegistrationBurst c cw hdr msg ofs arrival overlap s
  | .quietWindowDue c => Sys2Proof.Machine.execQuietWindowDue c s
  | .qwNow who t value => Sys2Proof.Machine.execQwNow who t value s
  | .tcmReceive c tid msg => Sys2Proof.Machine.execTcmReceive c tid msg s
  | .tcmAckReceive c tid msg => Sys2Proof.Machine.execTcmAckReceive c tid msg s
  | .tcmAckTimeout tid => Sys2Proof.Machine.execTcmAckTimeout tid s
  | .chnTcmTx who c value => Sys2Proof.Machine.execChnTcmTx who c value s
  | .authTimeout tid => Sys2Proof.Machine.execAuthTimeout tid s
  | .lostTimeout tid => Sys2Proof.Machine.execLostTimeout tid s
  | .termWriteFree who tid expect => Sys2Proof.Machine.execTermWriteFree who tid expect s
  | .termWriteAuthWait who tid expect => Sys2Proof.Machine.execTermWriteAuthWait who tid expect s
  | .termWriteRanging who tid expect => Sys2Proof.Machine.execTermWriteRanging who tid expect s
  | .termWriteKeying who tid expect => Sys2Proof.Machine.execTermWriteKeying who tid expect s
  | .termWriteActive who tid expect => Sys2Proof.Machine.execTermWriteActive who tid expect s
  | .termWriteDisabled who tid expect det => Sys2Proof.Machine.execTermWriteDisabled who tid expect det s
  | .termWriteOffline who tid expect => Sys2Proof.Machine.execTermWriteOffline who tid expect s
  | .treTermInfoWrite who tid value => Sys2Proof.Machine.execTreTermInfoWrite who tid value s
  | .rogueStart who t value => Sys2Proof.Machine.execRogueStart who t value s
  | .rogueClear who t value => Sys2Proof.Machine.execRogueClear who t value s
  | .probeWindowEnd t energy => Sys2Proof.Machine.execProbeWindowEnd t energy s
  | .rogueDisableRepeat t => Sys2Proof.Machine.execRogueDisableRepeat t s
  | .grantBuild c => Sys2Proof.Machine.execGrantBuild c s
  | .chnGeSysreq who c value => Sys2Proof.Machine.execChnGeSysreq who c value s
  | .geRingWrIdx who c value => Sys2Proof.Machine.execGeRingWrIdx who c value s
  | .tblwWrite who ofs value => Sys2Proof.Machine.execTblwWrite who ofs value s
  | .frameEnqueue busySites => Sys2Proof.Machine.execFrameEnqueue busySites s
  | .schedulerSelect c lineAt => Sys2Proof.Machine.execSchedulerSelect c lineAt s
  | .gateEntryChange x => Sys2Proof.Machine.execGateEntryChange x s
  | .gclInstall who x => Sys2Proof.Machine.execGclInstall who x s
  | .gclDisable who x => Sys2Proof.Machine.execGclDisable who x s
  | .gclStart x => Sys2Proof.Machine.execGclStart x s
  | .samplerPeriod ix n => Sys2Proof.Machine.execSamplerPeriod ix n s
  | .transitReqStart who t value ofs => Sys2Proof.Machine.execTransitReqStart who t value ofs s
  | .transitReqCancel who t value ofs => Sys2Proof.Machine.execTransitReqCancel who t value ofs s
  | .transitSwitch tid => Sys2Proof.Machine.execTransitSwitch tid s
  | .transitDsKeysMoved tid => Sys2Proof.Machine.execTransitDsKeysMoved tid s
  | .transitUsMove tid => Sys2Proof.Machine.execTransitUsMove tid s
  | .eclipseEnter c => Sys2Proof.Machine.execEclipseEnter c s
  | .eclTimeout c => Sys2Proof.Machine.execEclTimeout c s
  | .wakeComplete c ms => Sys2Proof.Machine.execWakeComplete c ms s
  | .wakeTimeout c => Sys2Proof.Machine.execWakeTimeout c s
  | .foldMinute t load anchorLoad => Sys2Proof.Machine.execFoldMinute t load anchorLoad s
  | .balanceCheck t loads terms => Sys2Proof.Machine.execBalanceCheck t loads terms s
  | .keyInstall who c value => Sys2Proof.Machine.execKeyInstall who c value s
  | .keySlotErase who c k expect => Sys2Proof.Machine.execKeySlotErase who c k expect s
  | .keySlotActivate who c k expect => Sys2Proof.Machine.execKeySlotActivate who c k expect s
  | .keyRetireExpire c k => Sys2Proof.Machine.execKeyRetireExpire c k s
  | .coreCheck c core pass => Sys2Proof.Machine.execCoreCheck c core pass s
  | .secChallengeRead who => Sys2Proof.Machine.execSecChallengeRead who s
  | .sessionTimeout fn => Sys2Proof.Machine.execSessionTimeout fn s
  | .loginLockoutExpire fn role => Sys2Proof.Machine.execLoginLockoutExpire fn role s
  | .drbgReseed => Sys2Proof.Machine.execDrbgReseed s
  | .conditionalTestFail test => Sys2Proof.Machine.execConditionalTestFail test s
  | .checkpointWrite counter => Sys2Proof.Machine.execCheckpointWrite counter s
  | .tamperTrip src => Sys2Proof.Machine.execTamperTrip src s
  | .secZeroizeWrite who value => Sys2Proof.Machine.execSecZeroizeWrite who value s
  | .keyWrappingAreaErased => Sys2Proof.Machine.execKeyWrappingAreaErased s
  | .pairProvisionTimeout => Sys2Proof.Machine.execPairProvisionTimeout s
  | .pipelineAdmit p => Sys2Proof.Machine.execPipelineAdmit p s
  | .nop p => Sys2Proof.Machine.execNop p s
  | .extractVerb p => Sys2Proof.Machine.execExtractVerb p s
  | .matchVerb p => Sys2Proof.Machine.execMatchVerb p s
  | .dispatchVerb p => Sys2Proof.Machine.execDispatchVerb p s
  | .gotoVerb p => Sys2Proof.Machine.execGotoVerb p s
  | .advance p => Sys2Proof.Machine.execAdvance p s
  | .advanceField p => Sys2Proof.Machine.execAdvanceField p s
  | .advanceIf p => Sys2Proof.Machine.execAdvanceIf p s
  | .markVerb p => Sys2Proof.Machine.execMarkVerb p s
  | .keepCur p => Sys2Proof.Machine.execKeepCur p s
  | .hashVerb p => Sys2Proof.Machine.execHashVerb p s
  | .setnoun p => Sys2Proof.Machine.execSetnoun p s
  | .acceptVerb p => Sys2Proof.Machine.execAcceptVerb p s
  | .dropVerb p => Sys2Proof.Machine.execDropVerb p s
  | .puntVerb p => Sys2Proof.Machine.execPuntVerb p s
  | .forwarding p members => Sys2Proof.Machine.execForwarding p members s
  | .agingSweep => Sys2Proof.Machine.execAgingSweep s
  | .lockExpired code idx => Sys2Proof.Machine.execLockExpired code idx s
  | .tblRead who value => Sys2Proof.Machine.execTblRead who value s
  | .tblWrite who value => Sys2Proof.Machine.execTblWrite who value s
  | .tblInsert who value => Sys2Proof.Machine.execTblInsert who value s
  | .tblDelete who value => Sys2Proof.Machine.execTblDelete who value s
  | .tblSearch who value => Sys2Proof.Machine.execTblSearch who value s
  | .uplGrpModeWrite who g value => Sys2Proof.Machine.execUplGrpModeWrite who g value s
  | .uplinkLinkUp u => Sys2Proof.Machine.execUplinkLinkUp u s
  | .uplinkFrameReceive u ofs data fec => Sys2Proof.Machine.execUplinkFrameReceive u ofs data fec s
  | .pfcReceive u pfc vec times => Sys2Proof.Machine.execPfcReceive u pfc vec times s
  | .bufferFree h name island => Sys2Proof.Machine.execBufferFree h name island s
  | .bpmFreeWrite who h name => Sys2Proof.Machine.execBpmFreeWrite who h name s
  | .deepHeadFetchDone k => Sys2Proof.Machine.execDeepHeadFetchDone k s
  | .offsetSample who b value => Sys2Proof.Machine.execOffsetSample who b value s
  | .holdTimeout b => Sys2Proof.Machine.execHoldTimeout b s
  | .forceStepOffset who b confirm ofs => Sys2Proof.Machine.execForceStepOffset who b confirm ofs s
  | .forceStepAbsolute who b confirm ofs => Sys2Proof.Machine.execForceStepAbsolute who b confirm ofs s
  | .tbSet who b value ofs => Sys2Proof.Machine.execTbSet who b value ofs s
  | .ppsInEdge ofs => Sys2Proof.Machine.execPpsInEdge ofs s
  | .todInMessage msg ofs => Sys2Proof.Machine.execTodInMessage msg ofs s
  | .ppsStuck => Sys2Proof.Machine.execPpsStuck s
  | .ppsOutPulse ofs => Sys2Proof.Machine.execPpsOutPulse ofs s
  | .captureEdge ix rising ofs => Sys2Proof.Machine.execCaptureEdge ix rising ofs s
  | .captureStuck ix ofs => Sys2Proof.Machine.execCaptureStuck ix ofs s
  | .capFifoRead who ix => Sys2Proof.Machine.execCapFifoRead who ix s
  | .actionCommit who n value ofs => Sys2Proof.Machine.execActionCommit who n value ofs s
  | .actionPulse n ofs => Sys2Proof.Machine.execActionPulse n ofs s
  | .trigPulseEnd n => Sys2Proof.Machine.execTrigPulseEnd n s
  | .actionGclInstall n ofs => Sys2Proof.Machine.execActionGclInstall n ofs s
  | .actionKeySwitch n ofs => Sys2Proof.Machine.execActionKeySwitch n ofs s
  | .actionTransit n ofs => Sys2Proof.Machine.execActionTransit n ofs s
  | .actionDmaStart n ofs => Sys2Proof.Machine.execActionDmaStart n ofs s
  | .actionSnapshot n ofs => Sys2Proof.Machine.execActionSnapshot n ofs s
  | .actionEclipse n ofs => Sys2Proof.Machine.execActionEclipse n ofs s
  | .c50TimeLatchArm who c sfc => Sys2Proof.Machine.execC50TimeLatchArm who c sfc s
  | .ringProdWrite who r value => Sys2Proof.Machine.execRingProdWrite who r value s
  | .flashWrite r slot ofs host len => Sys2Proof.Machine.execFlashWrite r slot ofs host len s
  | .flashErase r slot ofs len => Sys2Proof.Machine.execFlashErase r slot ofs len s
  | .flashRead r slot ofs host len => Sys2Proof.Machine.execFlashRead r slot ofs host len s
  | .termAuthorize r serial decision slot part kek => Sys2Proof.Machine.execTermAuthorize r serial decision slot part kek s
  | .termTransit r tid w x ofs => Sys2Proof.Machine.execTermTransit r tid w x ofs s
  | .termState r tid dst det => Sys2Proof.Machine.execTermState r tid dst det s
  | .termMsg r tid typ ack body => Sys2Proof.Machine.execTermMsg r tid typ ack body s
  | .allocSet r => Sys2Proof.Machine.execAllocSet r s
  | .queueSet r => Sys2Proof.Machine.execQueueSet r s
  | .termNodeSet r => Sys2Proof.Machine.execTermNodeSet r s
  | .tmplApply r items => Sys2Proof.Machine.execTmplApply r items s
  | .ruleSet r => Sys2Proof.Machine.execRuleSet r s
  | .keyRotate r tid dir => Sys2Proof.Machine.execKeyRotate r tid dir s
  | .keyErase r tid dir => Sys2Proof.Machine.execKeyErase r tid dir s
  | .keyCfg r ch value => Sys2Proof.Machine.execKeyCfg r ch value s
  | .stage r src => Sys2Proof.Machine.execStage r src s
  | .apply r live trees => Sys2Proof.Machine.execApply r live trees s
  | .abandon r => Sys2Proof.Machine.execAbandon r s
  | .commit r => Sys2Proof.Machine.execCommit r s
  | .login r role key sig => Sys2Proof.Machine.execLogin r role key sig s
  | .logout r => Sys2Proof.Machine.execLogout r s
  | .secStatus r => Sys2Proof.Machine.execSecStatus r s
  | .zeroize r => Sys2Proof.Machine.execZeroize r s
  | .selfTest r fail => Sys2Proof.Machine.execSelfTest r fail s
  | .coEnrol r hash ageS => Sys2Proof.Machine.execCoEnrol r hash ageS s
  | .coCredSet r slot hash => Sys2Proof.Machine.execCoCredSet r slot hash s
  | .userCredSet r part cred => Sys2Proof.Machine.execUserCredSet r part cred s
  | .imgKeySet r ec ml => Sys2Proof.Machine.execImgKeySet r ec ml s
  | .ktkEstablish r part pub => Sys2Proof.Machine.execKtkEstablish r part pub s
  | .attest r nonce => Sys2Proof.Machine.execAttest r nonce s
  | .identityCertSet r len => Sys2Proof.Machine.execIdentityCertSet r len s
  | .pairProvision r hash answer => Sys2Proof.Machine.execPairProvision r hash answer s
  | .unpair r => Sys2Proof.Machine.execUnpair r s
  | .fiUnlock r => Sys2Proof.Machine.execFiUnlock r s
  | .fiLock r => Sys2Proof.Machine.execFiLock r s
  | .random r n => Sys2Proof.Machine.execRandom r n s
  | .badOpcode r => Sys2Proof.Machine.execBadOpcode r s
  | .ringResolve who r => Sys2Proof.Machine.execRingResolve who r s
  | .hostRingWrite => Sys2Proof.Machine.execHostRingWrite s
  | .dmaStart who d => Sys2Proof.Machine.execDmaStart who d s
  | .dmaAbort who d => Sys2Proof.Machine.execDmaAbort who d s
  | .moveInstr d n ofs members => Sys2Proof.Machine.execMoveInstr d n ofs members s
  | .loop d => Sys2Proof.Machine.execLoop d s
  | .waitRequest d => Sys2Proof.Machine.execWaitRequest d s
  | .waitReg d ofs => Sys2Proof.Machine.execWaitReg d ofs s
  | .waitTime d ofs => Sys2Proof.Machine.execWaitTime d ofs s
  | .waitSatisfied d ofs => Sys2Proof.Machine.execWaitSatisfied d ofs s
  | .waitTimeout d => Sys2Proof.Machine.execWaitTimeout d s
  | .signalInterrupt d => Sys2Proof.Machine.execSignalInterrupt d s
  | .signalFlag d ofs => Sys2Proof.Machine.execSignalFlag d ofs s
  | .signalDoorbell d => Sys2Proof.Machine.execSignalDoorbell d s
  | .fence d => Sys2Proof.Machine.execFence d s
  | .fenceComplete d => Sys2Proof.Machine.execFenceComplete d s
  | .endProg d => Sys2Proof.Machine.execEndProg d s
  | .dmaBeatError d err k ofs => Sys2Proof.Machine.execDmaBeatError d err k ofs s
  | .dmaReqRaise who value => Sys2Proof.Machine.execDmaReqRaise who value s
  | .dmaReqEdge n heldNs => Sys2Proof.Machine.execDmaReqEdge n heldNs s
  | .prtStateReleased who expect => Sys2Proof.Machine.execPrtStateReleased who expect s
  | .prtStateNotReady who expect => Sys2Proof.Machine.execPrtStateNotReady who expect s
  | .prtAlive who => Sys2Proof.Machine.execPrtAlive who s
  | .aliveTimeout => Sys2Proof.Machine.execAliveTimeout s
  | .tokenClaim highNs => Sys2Proof.Machine.execTokenClaim highNs s
  | .claimWindowEnd ofs => Sys2Proof.Machine.execClaimWindowEnd ofs s
  | .peerHbLost => Sys2Proof.Machine.execPeerHbLost s
  | .tokenStuck toggling => Sys2Proof.Machine.execTokenStuck toggling s
  | .plkLaneSync lane hit aligned => Sys2Proof.Machine.execPlkLaneSync lane hit aligned s
  | .helloMsg m => Sys2Proof.Machine.execHelloMsg m s
  | .digestMsg m => Sys2Proof.Machine.execDigestMsg m s
  | .keyMsg m key => Sys2Proof.Machine.execKeyMsg m key s
  | .stateMsg m => Sys2Proof.Machine.execStateMsg m s
  | .stateMessageSend => Sys2Proof.Machine.execStateMessageSend s
  | .revertWtrExpire => Sys2Proof.Machine.execRevertWtrExpire s
  | .snapshot who value ofs => Sys2Proof.Machine.execSnapshot who value ofs s
  | .freeze who value ofs => Sys2Proof.Machine.execFreeze who value ofs s
  | .pcValueWrite who n value => Sys2Proof.Machine.execPcValueWrite who n value s
  | .traceInject who value => Sys2Proof.Machine.execTraceInject who value s
  | .kill who value => Sys2Proof.Machine.execKill who value s
  | .fiArm who kind ix value => Sys2Proof.Machine.execFiArm who kind ix value s
  | .fiHoldRelease kind ix => Sys2Proof.Machine.execFiHoldRelease kind ix s
  | .railPoll xs => Sys2Proof.Machine.execRailPoll xs s
  | .pmbAlert ws => Sys2Proof.Machine.execPmbAlert ws s
  | .pmbLost r => Sys2Proof.Machine.execPmbLost r s
  | .avsCheck k pass => Sys2Proof.Machine.execAvsCheck k pass s
  | .pwrDvfsWrite who k value => Sys2Proof.Machine.execPwrDvfsWrite who k value s
  | .voutReached k => Sys2Proof.Machine.execVoutReached k s
  | .pwrGateUplWrite who value => Sys2Proof.Machine.execPwrGateUplWrite who value s
  | .sensorRead n temp => Sys2Proof.Machine.execSensorRead n temp s
  | .throttleClear n => Sys2Proof.Machine.execThrottleClear n s
  | .capEvaluation => Sys2Proof.Machine.execCapEvaluation s
  | .sidebandInputChange t intLow light => Sys2Proof.Machine.execSidebandInputChange t intLow light s
  | .modulePoll => Sys2Proof.Machine.execModulePoll s
  | .tokenLineChange low => Sys2Proof.Machine.execTokenLineChange low s
  | .peerHbEdge ofs => Sys2Proof.Machine.execPeerHbEdge ofs s
  | .supplyRemoval ix => Sys2Proof.Machine.execSupplyRemoval ix s
  | .pcieLinkUp => Sys2Proof.Machine.execPcieLinkUp s
  | .pcieLinkDown => Sys2Proof.Machine.execPcieLinkDown s
  | .uplinkLinkDown u => Sys2Proof.Machine.execUplinkLinkDown u s
  | .uplinkFrameTransmit u ofs => Sys2Proof.Machine.execUplinkFrameTransmit u ofs s
  | .pauseTimerExpire u mask => Sys2Proof.Machine.execPauseTimerExpire u mask s
  | .functionLevelReset fn => Sys2Proof.Machine.execFunctionLevelReset fn s
  | .moveComplete d => Sys2Proof.Machine.execMoveComplete d s

end Sys2Proof.Machine
end

