-- ==== Sys2Proof/Safety.lean ====
section
/-! DEFINITION. What statements about steps are written in: the canonical form of the memories, and what one state keeps
of the one before it. -/
namespace Sys2Proof.Machine

/-- The canonical form of a byte memory whose unlisted bytes read as d. -/
def Memory.wf (d : Byte) (m : SMap Byte) : Bool := mwf (fun _ => d) m

/-- Every memory of the device is in its canonical form: registers (an unlisted word reads as its reset value), table
entries, host memory, flash (an unlisted byte is erased) and DRAM. -/
def Canon (s : State) : Prop :=
  mwf resetWord s.regs = true ∧ mwf (fun _ => (0 : Word)) s.tabs = true ∧ Memory.wf 0 s.hostMem = true
    ∧ Memory.wf 0xFF s.flash = true ∧ Memory.wf 0 s.dram = true

/-- Which stores a command leaves as they are. -/
structure Keep where
  flash : Bool
  host : Bool
  tabs : Bool
  deriving DecidableEq, Repr

/-- What a command keeps: the queue of waiting commands as it stands, what has left the device as it was (things are only
added), free values not used again, the canonical form of the memories, and the stores that k names. -/
structure Follows (k : Keep) (s t : State) : Prop where
  queue : t.pending = s.pending
  sent : s.sent <+: t.sent
  free : s.freeCtr ≤ t.freeCtr
  canon : Canon s → Canon t
  flash : k.flash = true → t.flash = s.flash
  host : k.host = true → t.hostMem = s.hostMem
  tabs : k.tabs = true → t.tabs = s.tabs

/-- The commands that may write host memory: services and flash reads that return data to their buffer, receive rings, and the
commands of a DMA program. -/
def mayWriteHost : Instr → Bool
  | .attest .. | .ktkEstablish .. | .random .. | .flashRead .. | .hostRingWrite | .moveInstr .. | .dmaBeatError ..
  | .signalFlag .. | .signalInterrupt .. | .signalDoorbell .. => true
  | _ => false

/-- The commands that may change a table entry. -/
def mayWriteTables : Instr → Bool
  | .actionCommit .. | .actionDmaStart .. | .actionEclipse .. | .actionGclInstall .. | .actionKeySwitch ..
  | .actionPulse .. | .actionSnapshot .. | .actionTransit .. | .agingSweep | .allocSet .. | .authTimeout ..
  | .balanceCheck .. | .burstReceive .. | .capEvaluation | .channelStartTimeout ..
  | .chnStateEclipseEntering .. | .chnStateReset .. | .chnStateWaking .. | .claimWindowEnd ..
  | .clauseIslandEntry .. | .coldReset | .cycleStart .. | .dmaBeatError .. | .eclipseEnter ..
  | .fiHoldRelease .. | .fiLock .. | .foldMinute .. | .forceStepAbsolute .. | .forceStepOffset ..
  | .forwarding .. | .islandLost .. | .kill .. | .lockExpired .. | .lostTimeout .. | .lowWordRead ..
  | .moveInstr .. | .p4Complete .. | .ploamReceive .. | .porNAssert | .probeWindowEnd .. | .queueSet ..
  | .registerWrite .. | .registrationBurst .. | .retrainComplete .. | .rogueClear .. | .rogueStart ..
  | .ruleSet .. | .signalDoorbell .. | .signalFlag .. | .signalInterrupt .. | .sramError ..
  | .supplyOutOfRange .. | .supplyRemoval .. | .tamperTrip .. | .tblDelete .. | .tblInsert .. | .tblRead ..
  | .tblSearch .. | .tblWrite .. | .tblwWrite .. | .tcmAckReceive .. | .tcmAckTimeout .. | .tcmReceive ..
  | .termAuthorize .. | .termNodeSet .. | .termState .. | .termTransit .. | .termWriteActive ..
  | .termWriteAuthWait .. | .termWriteDisabled .. | .termWriteFree .. | .termWriteKeying ..
  | .termWriteOffline .. | .termWriteRanging .. | .tmplApply .. | .transitReqCancel .. | .transitReqStart ..
  | .transitUsMove .. | .treeReset .. | .waitReg .. | .waitRequest .. | .waitSatisfied .. | .waitTime ..
  | .wakeTimeout .. | .warmReset .. => true
  | _ => false

end Sys2Proof.Machine
end

