-- ==== Sys2Proof/Certificates/Slice0/Obligations.lean ====
section
/-! DEFINITION. The statements for the provers. Each docstring names the rules of the spec that it follows; a part of a statement
stands before it under its own name. -/
open Sys2Proof Sys2Proof.Machine

/-! ## The queue, the idle step, what every command keeps -/

/-- A step with a command at the front of the queue is exec of that command on the state with the queue's rest. -/
def Obligations.StepRunsTheFrontCommand : Prop :=
  ∀ (s : State) (c : Instr) (q : List Instr), s.pending = c :: q → step s = exec c { s with pending := q }

/-- On an empty queue the block idles: the model's choice (assumption log 5). -/
def Obligations.StepOnAnEmptyQueueIdles : Prop :=
  ∀ s : State, s.pending = [] → step s = .next s

/-- No command stops: each answers a next state from every state, whatever its operands, and leaves the queue as it is. -/
def Obligations.EveryCommandAnswersANextState : Prop :=
  ∀ (c : Instr) (s : State), ∃ t, exec c s = .next t ∧ t.pending = s.pending

/-- Every step keeps the canonical form of every memory: registers, tables, host memory, flash and DRAM. -/
def Obligations.StepKeepsMemoriesCanonical : Prop :=
  ∀ s t : State, Canon s → step s = .next t → Canon t

/-- The memories are canonical at reset. -/
def Sys2Proof.Rules.ResetMemoriesAreCanonical : Prop := Canon State.reset

/-- A step takes one command off the queue and adds none, leaves what has left the device on the record, and uses no free
value twice. -/
def Obligations.StepTakesOneCommandAndRevokesNothing : Prop :=
  ∀ s t : State, step s = .next t →
    t.pending = s.pending.tail ∧ s.sent <+: t.sent ∧ s.freeCtr ≤ t.freeCtr

/-- Only the commands of mayWriteHost change host memory, and only the two flash commands change flash. -/
def Sys2Proof.Rules.HostMemoryAndFlashChangeByTheirCommandsOnly : Prop :=
  ∀ (c : Instr) (s t : State), exec c s = .next t →
    (mayWriteHost c = false → t.hostMem = s.hostMem)
      ∧ ((∀ r slot ofs host len, c ≠ .flashWrite r slot ofs host len) → (∀ r slot ofs len, c ≠ .flashErase r slot ofs len) →
        t.flash = s.flash)

/-- The table entries change only by the commands of mayWriteTables: of all others, none changes a table word. -/
def Sys2Proof.Rules.TablesChangeByTheirCommandsOnly : Prop :=
  ∀ (c : Instr) (s t : State), exec c s = .next t → mayWriteTables c = false → t.tabs = s.tabs

/-- Host memory, flash and table words change only by the commands that may write them. -/
def Obligations.StoresChangeByTheirCommandsOnly : Prop :=
  Sys2Proof.Rules.HostMemoryAndFlashChangeByTheirCommandsOnly
    ∧ Sys2Proof.Rules.TablesChangeByTheirCommandsOnly

/-- Reset leaves the values that the register tables state: the identification, the defaults of channels, trees, gate lists, pair and
power, every channel OFF with its terminals FREE, every island RUN, every role at the basic level, no command waiting and no key
held. -/
def Sys2Proof.Rules.ResetLeavesTheStatedValues : Prop :=
  State.reset.pending = [] ∧ State.reset.sent = [] ∧ State.reset.keys.mat = []
  ∧ rf State.reset Adr.glbDeviceId 31 16 = 25600 ∧ rf State.reset Adr.glbDeviceId 11 8 = 2
  ∧ (∀ c, c = 0 ∨ c = 255 → chnEff State.reset c = 0 ∧ rf State.reset (Adr.chnTlrCfg c) 31 16 = 64
      ∧ rf State.reset (Adr.chnTlrCfg c) 15 8 = 72 ∧ rf State.reset (Adr.chnTlrCfg c) 2 0 = 2
      ∧ rf State.reset (Adr.chnKeyCfg c) 31 25 = 90 ∧ rf State.reset (Adr.chnGclCtl c) 23 16 = 255)
  ∧ (∀ t, t = 0 ∨ t = 63 → rf State.reset (Adr.treDiscCfg t) 29 20 = 32 ∧ rf State.reset (Adr.treRegCfg t) 31 20 = 1000
      ∧ rf State.reset (Adr.treRogueCfg t) 23 20 = 4 ∧ basic State.reset 3 t = true)
  ∧ (∀ tid, tid = 0 ∨ tid = 32766 → termEff State.reset tid = 0)
  ∧ (∀ i, i = 0 ∨ i = 341 → islState State.reset i = islRun)
  ∧ rf State.reset Adr.prtCfg 15 12 = 2 ∧ rf State.reset Adr.prtCfg 6 0 = 50 ∧ prtSt State.reset = ptSolo
  ∧ rf State.reset Adr.pwrCap 9 0 = 790 ∧ rf State.reset Adr.fwdBrCfg 31 20 = 300 ∧ rf State.reset Adr.fwdLockCfg 15 0 = 100
  ∧ rf State.reset Adr.mbxHostWd 13 0 = 100
  ∧ (∀ b, b = 0 ∨ b = 7 → baseState State.reset b = tbUnset)

/-- Reset leaves canonical memories and the stated values. -/
def Obligations.ResetLeavesTheStatedValues : Prop :=
  Sys2Proof.Rules.ResetMemoriesAreCanonical ∧ Sys2Proof.Rules.ResetLeavesTheStatedValues

/-! ## Accesses (R11 to R13, R27, R34, R35, R38, R387) -/

/-- A register whose write is no command of its own and brings nothing else with it. -/
def Sys2Proof.Machine.plainReg (r : RegRef) : Bool :=
  r.desc.commitTop == false && !perRequester r.desc.id && !fiExtra r.desc.id && !wordRo r.desc (r.off / 4)
    && (match r.desc.id with
      | .glbEventPend | .chnTimeCfg | .chnKeyCfg | .grmTraceCfg | .mbxRingIdx | .dmaRxIdx | .msixTable | .uplPortCfg
      | .uplGrpMode | .chnTcmTx | .chnDsPart => false
      | _ => true)

/-- Whether a requester may write a register, by R475 and R44. -/
def Sys2Proof.Machine.mayWrite (s : State) (who : Requester) (r : RegRef) (a : Nat) : Bool :=
  writerOk s who r.desc
    && (match r.desc.owner with
      | some f => isOwner s who (islandOf a) f (treeOfAddr a)
      | none => true)

/-- A write of a plain register by a requester that may write it, its island up and no performance counter enabled: the word takes
the value by its fields' types (R13) from the value taken (R476), every other word reads as before, and the write reports OK. -/
def Obligations.PlainRegisterWriteTakesItsFieldsByType : Prop :=
  ∀ (s : State) (who : Requester) (a : Nat) (w : Word) (ofs : Nat) (r : RegRef) (v : Nat),
    mwf resetWord s.regs = true → pcEnabled s = [] → placeOf s who a = .ctlw a → reachable s a = true →
    blockFused s a = false → a % 4 = 0 → regFind a = some r → plainReg r = true → islDown s (islandOf a) = false →
    (∀ x, routeWrite s who r.desc.id (r.idx.headD 0) ((r.idx.drop 1).headD 0) (r.off / 4) x w ofs = none) →
    mayWrite s who r a = true → r.off = 4 * (r.off / 4) → r.off ≤ a →
    regTake s r.desc.id (r.idx.headD 0) (r.off / 4)
      (putNfld (rdW s (a - r.off) (r.desc.bits / 32)) (32 * (r.off / 4) + 31) (32 * (r.off / 4)) w.toNat) = some v →
    ∃ t, exec (.registerWrite who a w ofs) s = .next t
      ∧ rd t a = mergeWord r.desc (r.off / 4) (rd s a) (BitVec.ofNat 32 (v / 2 ^ (32 * (r.off / 4))))
      ∧ (∀ b, b ≠ a → rd t b = rd s b)
      ∧ t.acc.wrLast = mset {} s.acc.wrLast who.code ⟨0, 0, 0, a % 2 ^ 27⟩
      ∧ t.tabs = s.tabs ∧ t.hostMem = s.hostMem ∧ t.flash = s.flash ∧ t.dram = s.dram ∧ t.sent = s.sent

/-- An access that is bad by R387 (narrow, misaligned, at a reserved offset or table code, or a write of a word with read-only
fields only) counts in BAD_ACCESS of the function and changes nothing else; a bad read returns 0. -/
def Sys2Proof.Rules.BadAccessIsCountedAndChangesNothing : Prop :=
  ∀ (s : State) (who : Requester) (a size : Nat) (write : Bool), Canon s → accessBad s who a size write = true →
    let b := Adr.dmaFnStat (if fnOf s who = 65 then 0 else fnOf s who)
    ∃ t, exec (.badAccess who a size write) s = .next t
      ∧ rd t b = putFld (rd s b) 31 16 (min 65535 (rf s b 31 16 + 1))
      ∧ (∀ x, x ≠ b → rd t x = rd s x)
      ∧ t.acc.ret = (if write then s.acc.ret else mset 0 s.acc.ret who.code 0)
      ∧ { t with regs := s.regs, acc := s.acc } = s

/-- A read of GLB_BARRIER waits; it returns with LOST, and with TIMEOUT the writes in flight cut to 16 bits, and LOST starts
anew (R35). A read of GLB_WRSTAT returns the last refused write, else the last, and clears the refusal and COUNT (R27). None of
them changes a register. -/
def Sys2Proof.Rules.BarrierAndWriteStatusReads : Prop :=
  (∀ (s : State) (who : Requester), ∃ t, exec (.glbBarrierRead who) s = .next t
      ∧ t.acc.barWait = mset 0 s.acc.barWait who.code 1 ∧ t.regs = s.regs ∧ t.tabs = s.tabs)
  ∧ (∀ (s : State) (who : Requester), mget 0 s.acc.barWait who.code = 1 →
      ∃ t, exec (.barrierReturn who) s = .next t ∧ t.acc.barWait = mset 0 s.acc.barWait who.code 0
        ∧ t.acc.barLost = mset 0 s.acc.barLost who.code 0
        ∧ t.acc.ret = mset 0 s.acc.ret who.code (BitVec.ofNat 32 (mget 0 s.acc.barLost who.code * 2 ^ 31))
        ∧ t.regs = s.regs ∧ t.tabs = s.tabs)
  ∧ (∀ (s : State) (who : Requester) (n : Nat), mget 0 s.acc.barWait who.code = 1 →
      ∃ t, exec (.barrierTimeout who n) s = .next t ∧ t.acc.barWait = mset 0 s.acc.barWait who.code 0
        ∧ t.acc.barLost = mset 0 s.acc.barLost who.code 0
        ∧ t.acc.ret = mset 0 s.acc.ret who.code
            (BitVec.ofNat 32 (mget 0 s.acc.barLost who.code * 2 ^ 31 + (2 ^ 30 + min 0xFFFF n)))
        ∧ t.regs = s.regs ∧ t.tabs = s.tabs)
  ∧ (∀ (s : State) (who : Requester), ∃ t, exec (.glbWrstatRead who) s = .next t
      ∧ t.acc.wrBad = mdel s.acc.wrBad who.code ∧ t.acc.wrCount = mset 0 s.acc.wrCount who.code 0
      ∧ t.acc.wrLast = s.acc.wrLast
      ∧ t.acc.ret = mset 0 s.acc.ret who.code (BitVec.ofNat 32 ((wrReport s who).status * 2 ^ 28
          + (wrReport s who).epoch % 256 * 2 ^ 16 + (wrReport s who).state % 256 * 2 ^ 8 + mget 0 s.acc.wrCount who.code))
      ∧ t.regs = s.regs ∧ t.tabs = s.tabs)

/-- A bad access, and the reads of the barrier and of the write status. -/
def Obligations.RegisterAccessesAreCheckedAndAnswered : Prop :=
  Sys2Proof.Rules.BadAccessIsCountedAndChangesNothing ∧ Sys2Proof.Rules.BarrierAndWriteStatusReads

/-- Registers whose read is an operation of its own. -/
def Sys2Proof.Machine.ownRead (id : RegId) : Bool :=
  match id with
  | .glbWrstat | .glbWrstatAddr | .glbBarrier | .chnPmData | .secChallenge | .timCapFifo => true
  | _ => false

/-- A register word that a requester may read now: reachable, not fused, its island up. -/
def Sys2Proof.Machine.readable (s : State) (who : Requester) (a : Nat) (r : RegRef) : Prop :=
  pcEnabled s = [] ∧ placeOf s who a = .ctlw a ∧ reachable s a = true ∧ blockFused s a = false ∧ a % 4 = 0
    ∧ regFind a = some r ∧ islDown s (islandOf a) = false ∧ ¬ (r.desc.id = .uplGrpMode ∧ r.idx.headD 0 % 8 ≠ 0)
    ∧ ownRead r.desc.id = false

/-- R12: the read of the low word of a 64-bit register returns it and latches the high word for the requester alone; a read of
the high word returns what that requester's last low-word read latched, and 0 where there was none since reset. -/
def Obligations.LowWordReadLatchesTheHighWordPerRequester : Prop :=
  (∀ (s : State) (who : Requester) (a ofs : Nat) (r : RegRef), readable s who a r → r.off = 0 → r.desc.bits = 64 →
      let v := regValue s who r.desc a (r.idx.headD 0) ((r.idx.drop 1).headD 0) ofs
      let latch := mset 0 s.acc.latch (reqKey who (a + 4)) (BitVec.ofNat 32 (v / 2 ^ 32))
      ∃ t, exec (.lowWordRead who a ofs) s = .next t ∧ t.acc.ret = mset 0 s.acc.ret who.code (BitVec.ofNat 32 v)
        ∧ t.acc.latch = latch
        ∧ (∀ k, k ≠ reqKey who (a + 4) → mget 0 t.acc.latch k = mget 0 s.acc.latch k))
  ∧ (∀ (s : State) (who : Requester) (a ofs : Nat) (r : RegRef), readable s who a r → r.off = 4 → r.desc.bits = 64 →
      exec (.lowWordRead who a ofs) s
        = .next { s with acc := { s.acc with ret := mset 0 s.acc.ret who.code (mget 0 s.acc.latch (reqKey who a)) } })
  ∧ (∀ k, mget 0 State.reset.acc.latch k = 0)

/-- A write of 1s to a word of GLB_EVENT_PEND clears those PEND bits with MAXSEV and EVCOUNT of their islands, and nothing of
other islands (R38). -/
def Sys2Proof.Rules.PendClearClearsTheIslandsNamed : Prop :=
  ∀ (s : State) (j k : Nat), mwf resetWord s.regs = true → j < 11 → k < 32 → 32 * j + k < 342 →
    let i := 32 * j + k
    ∃ t, exec (.pendClear j (BitVec.ofNat 32 (2 ^ k))) s = .next t
      ∧ islPend t i = false ∧ rf t (Adr.glbIslandStat i) 25 24 = 0 ∧ rf t (Adr.glbIslandStat i) 23 16 = 0
      ∧ rf t (Adr.glbIslandStat i) 31 28 = rf s (Adr.glbIslandStat i) 31 28
      ∧ rf t (Adr.glbIslandStat i) 15 0 = rf s (Adr.glbIslandStat i) 15 0
      ∧ (∀ x, x ≠ Adr.glbEventPend j → x ≠ Adr.glbIslandStat i → rd t x = rd s x)
      ∧ { t with regs := s.regs } = s

/-! ## Dies and islands (R17, R18, R20, R31, R37) -/

/-- A flit port that takes flits: not lost, not retraining, a reserved ESCAPE credit left, no injector armed or holding. -/
def Sys2Proof.Machine.flitPortUp (s : State) (p d cls lp : Nat) : Prop :=
  p < 8 ∧ d < 2 ∧ cls < 3 ∧ lp < 64 ∧ pcEnabled s = [] ∧ (d2dOf s p 0).lost = false ∧ (d2dOf s p 0).retraining = false
    ∧ (cls = 2 → escapeOut s p d < 64) ∧ fiArmed s (Adr.fiCfgObs (2 * p + d)) = false ∧ (fiOf s (Adr.fiCfgObs (2 * p + d))).held = []

/-- A good flit in its turn is accepted, holds one credit of its class and logical port and leaves the retry buffer; a flit whose CRC
fails stands first in the retry buffer and is replayed with a CORRECTED event, and at its ninth failure in a row the port retrains; a
flit that arrives behind it joins the retry buffer of 128 and is replayed in its turn (R17, R18). A credit returned is one credit less
out. -/
def Sys2Proof.Rules.FlitsAreAcceptedReplayedOrRetrainThePort : Prop :=
  ∀ (s : State) (p d cls lp : Nat) (data : List Byte), flitPortUp s p d cls lp →
    let x := d2dOf s p d
    let k := creditKey p d cls lp
    let out := mget 0 s.dies.creditsOut k
    (x.retry.head? = none ∨ x.retry.head? = some (cls, lp, data) →
      exec (.flitReceive p d cls lp data true) s
        = .next { s with dies := { s.dies with ports := mset {} s.dies.ports (2 * p + d) { x with replays := 0, retry := x.retry.drop 1 },
                                               creditsOut := mset 0 s.dies.creditsOut k (out + 1) } }
      ∧ (x.replays < 8 → exec (.flitReceive p d cls lp data false) s
          = .next (raiseFree (pc (setD2d s p d { x with replays := x.replays + 1, retry := (cls, lp, data) :: x.retry.drop 1 })
              { code := 0x11, unit := some p }) (320 + p) .corrected))
      ∧ (x.replays = 8 → exec (.flitReceive p d cls lp data false) s
          = .next (let u := setD2d s p d { x with replays := 0, retry := (cls, lp, data) :: x.retry.drop 1 }
                   setD2d u p 0 { d2dOf u p 0 with retraining := true })))
    ∧ (∀ (f : Nat × Nat × List Byte) (fs : List (Nat × Nat × List Byte)) (ok : Bool), x.retry = f :: fs → f ≠ (cls, lp, data) →
        ¬ (cls, lp, data) ∈ fs → x.retry.length < 128 →
        exec (.flitReceive p d cls lp data ok) s = .next (setD2d s p d { x with retry := x.retry ++ [(cls, lp, data)] }))
    ∧ exec (.creditReturn p d cls lp) s
        = .next { s with dies := { s.dies with creditsOut := mset 0 s.dies.creditsOut k (out - 1) } }

/-- A retraining that succeeds brings the port back; the first and second failed ones in a row are counted, and the third loses
the port (R18). -/
def Sys2Proof.Rules.ThirdFailedRetrainingLosesThePort : Prop :=
  ∀ (s : State) (p : Nat), p < 8 → (d2dOf s p 0).retraining = true →
    exec (.retrainComplete p true) s = .next (setD2d s p 0 { d2dOf s p 0 with retraining := false, failedRow := 0 })
    ∧ ((d2dOf s p 0).failedRow < 2 → exec (.retrainComplete p false) s
        = .next (setD2d s p 0 { d2dOf s p 0 with failedRow := (d2dOf s p 0).failedRow + 1 }))
    ∧ ((d2dOf s p 0).failedRow = 2 → exec (.retrainComplete p false) s = .next (d2dLost s p))

/-- Flits, replays, retrainings and the loss of a port. -/
def Obligations.FlitsAreAcceptedReplayedOrLoseThePort : Prop :=
  Sys2Proof.Rules.FlitsAreAcceptedReplayedOrRetrainThePort ∧ Sys2Proof.Rules.ThirdFailedRetrainingLosesThePort

/-- A lost island: a channel stops, its island reads LOST, its STATE FAULT with the DETAIL (an OFF one keeps OFF), CONTAINED with
LASTCODE 0x04F0 + DETAIL (R20, R117); an uplink port group loses its links and its injectors; a pipeline loses the items in it,
DEGRADED; the control, security, management, host-port and time islands are FATAL (R36). -/
def Sys2Proof.Rules.LostIslandsStopAndReportBySeverity : Prop :=
  (∀ (s : State) (c det : Nat), c < 256 → chanValid s c = true → islState s c ≠ islLost →
      let u := setIsl (chanStop s c) c islLost
      exec (.islandLost c det) s
        = .next (raise (if chnEff u c = chOff then u else chnChange u c chFault det) c .contained (0x04F0 + det)))
  ∧ (∀ (s : State) (g det : Nat), g < 32 → laneValid s (8 * g) = true → islState s (256 + g) ≠ islLost →
      exec (.islandLost (256 + g) det) s = .next (raiseFree ((List.range 8).foldl (fun s j =>
        linkDown (fiOff (fiOff s (Adr.fiCfgUtx (8 * g + j))) (Adr.fiCfgUrx (8 * g + j))) (8 * g + j)) (setIsl s (256 + g) islLost))
        (256 + g) .contained))
  ∧ (∀ (s : State) (p det : Nat), p < 16 → islState s (288 + p) ≠ islLost → islState s (288 + p) ≠ islFused →
      exec (.islandLost (288 + p) det) s = .next (raiseFree (pipeLost (setIsl s (288 + p) islLost) p) (288 + p) .degraded))
  ∧ (∀ (s : State) (i det : Nat), 336 ≤ i → i < 341 → islState s i ≠ islLost → islState s i ≠ islFused →
      exec (.islandLost i det) s = .next (raiseFree (setIsl s i islLost) i .fatal))
  ∧ (∀ (s : State) (i det : Nat), 288 ≤ i → islState s i = islLost → exec (.islandLost i det) s = .next s)

/-- A single-bit error is corrected and reported; an uncorrectable one in a packet cell discards the frames of the buffer and counts
them lost in flight; in a table entry it reads as invalid, all zeros, and its table and index are reported; in other state the island is lost. A scrub that finds
nothing changes nothing (R37). -/
def Sys2Proof.Rules.MemoryErrorsAreCorrectedOrContained : Prop :=
  (∀ (s : State) (i : Nat), i < 342 → exec (.sramError (.single i)) s = .next (raiseFree s i .corrected))
  ∧ (∀ (s : State) (h : Nat), exec (.sramError (.cell h)) s = .next (raiseFree (cellFrames s h) 304 .corrected))
  ∧ (∀ (s : State) (i code idx st n : Nat), i < 342 → tblShape s code = some (st, n) → idx < n →
      exec (.sramError (.entry i code idx)) s
        = .next (raiseFree (emit (showPlanes (tblPut s code idx 0) code) (.tableError code idx)) i .degraded))
  ∧ (∀ (s : State) (i : Nat), exec (.sramError (.state i)) s = exec (.islandLost i 1) s)
  ∧ (∀ s : State, exec .scrubPass s = .next s)

/-- PEND, lost islands, memory errors. -/
def Obligations.EventsAreClearedAndMemoryErrorsContained : Prop :=
  Sys2Proof.Rules.PendClearClearsTheIslandsNamed
    ∧ Sys2Proof.Rules.LostIslandsStopAndReportBySeverity
    ∧ Sys2Proof.Rules.MemoryErrorsAreCorrectedOrContained

/-- A Clause that enters an island with its CHECK right and a KIND that R29 names goes on as it is. One whose CHECK is wrong, or
whose KIND is reserved, is discarded: its item leaves every place before and beside the queues with its buffer freed by every holder
left, GLB_CLAUSE_ERR of the island counts, and the event is CORRECTED with LASTCODE 0x0002; a channel island counts it in its second
too (R29, R31, R39). No injector selects the link. -/
def Obligations.ClauseIsCheckedAsItEntersAnIsland : Prop :=
  ∀ (s : State) (src dst : Nat) (cl : Clause) (check : Nat), src < 342 → dst < 342 → linkInjectors s src dst = [] →
    (check = cl.check → cl.kind < 8 → exec (.clauseIslandEntry src dst cl check) s = .next s)
    ∧ (check ≠ cl.check ∨ 8 ≤ cl.kind →
        let u := raise (cnt32 (itemDrop s dst cl) (Adr.glbClauseErr dst) 1) dst .corrected 0x0002
        (256 ≤ dst → exec (.clauseIslandEntry src dst cl check) s = .next u)
        ∧ (dst < 256 → mget 0 u.line.clauseSec dst < 1000 → exec (.clauseIslandEntry src dst cl check) s
            = .next { u with line := { u.line with clauseSec := mset 0 u.line.clauseSec dst (mget 0 u.line.clauseSec dst + 1) } }))
    ∧ (cl.buf ≠ noBuf → inFlow s cl.buf = true →
        itemDrop s dst cl = bufDrop (flowWithout s fun x => x.buf == cl.buf) cl.buf dst
        ∧ inFlow (flowWithout s fun x => x.buf == cl.buf) cl.buf = false)

/-! ## Ownership (R43 to R47) -/

/-- A handover request that passes the checks of R43 (function and tree exist, EXPECT matches, HSTATE STABLE, NEW differs) is ACCEPTED
in the register outcome ring, HSTATE becomes REQUESTED (1) and EPOCH advances. -/
def Sys2Proof.Rules.HandoverRequestIsAcceptedWhenItsChecksPass : Prop :=
  ∀ (s : State) (who : Requester) (v : Word), isPfSide s who = true → islDown s 336 = false →
    let f := fld v 19 16
    let t := fld v 13 8
    f ≤ 11 → treeValid s t = true → (deviceScope f = true → t = 0) → fld v 31 24 = uEpoch s (Adr.mbxOwner f t) →
    rf s (Adr.mbxOwner f t) 11 8 = 0 → fld v 0 0 ≠ owner s f t →
    exec (.ownerRequest who v) s = .next (wrOk
      (let i := rf s Adr.mbxRegopIdx 7 0
       let u := setHstate (regopPut s { tag := handoverTag f t false, opcode := 0x6000 + f, state := .accepted }) f t 1
       { u with own := { u.own with handovers := u.own.handovers ++
          [{ func := f, tree := t, newOwner := fld v 0 0, record := i }] } }) who Adr.mbxOwnerReq)

/-- Each island's owner copy flips once and is acknowledged (R43, R44); after the last acknowledgement OWNER is the new owner,
HSTATE 0, REFUSED 0 and EPOCH one more; a handover that cannot quiesce leaves OWNER as it was and ends NOT_DONE (R45). -/
def Sys2Proof.Rules.HandoverFlipsEveryIslandThenChangesTheOwner : Prop :=
  ∀ (s : State) (f t : Nat) (h : Handover), findHandover s f t = some h →
    (∀ i, i ∈ h.waiting → ∃ u, exec (.ownerFlip f t i) s = .next u ∧ u.own.flipped = s.own.flipped ++ [(f * 64 + t, i)]
        ∧ { u with own := s.own } = s)
    ∧ (h.flipsSent = true → h.waiting = [] → (h.newOwner = 1 ∨ h.newOwner = 0) →
        exec (.ownerHandoverDone f t true) s = .next (putRec
          (wf (wf (setHstate (endHandover s f t) f t 0) (Adr.mbxOwner f t) 23 16 0) (Adr.mbxOwner f t) 0 0 h.newOwner)
          (regopAddr h.record) { tag := handoverTag f t h.watchdog, opcode := 0x6000 + f, state := .done }))
    ∧ exec (.quiesceTimeout f t) s = .next (putRec (setHstate (endHandover s f t) f t 0) (regopAddr h.record)
        { tag := handoverTag f t h.watchdog, opcode := 0x6000 + f, state := .notDone, status := Status.quiesceTimeout.code })

/-- A write of MBX_HOST_WD restarts the watchdog with the period cut to 10 to 10,000 (R47, R476) and clears EXPIRED where 1 is written;
as an armed one expires, EXPIRED reads 1, it stops, and a handover to firmware starts for every function the host owns whose HSTATE is
STABLE. -/
def Sys2Proof.Rules.HostWatchdogIsRestartedAndExpires : Prop :=
  (∀ (s : State) (who : Requester) (v : Word), Canon s → islDown s 336 = false →
      ∃ t, exec (.hostWdWrite who v) s = .next t ∧ t.own.wdArmed = v.toNat.testBit 31
        ∧ rf t Adr.mbxHostWd 13 0 = clamp 10 10000 (fld v 13 0)
        ∧ (v.toNat.testBit 30 = true → rb t Adr.mbxHostWd 30 = false)
        ∧ (∀ a, a ≠ Adr.mbxHostWd → rd t a = rd s a))
  ∧ (∀ s : State, s.own.wdArmed = true → exec .hostWdExpire s
      = .next (let u := { wb s Adr.mbxHostWd 30 true with own := { s.own with wdArmed := false } }
               (hostOwned u).foldl (fun s p => if rf s (Adr.mbxOwner p.1 p.2) 11 8 = 0 then startHandover s p.1 p.2 0 true
                                               else s) u))

/-- Handover and the host watchdog. -/
def Obligations.HandoverChangesTheOwnerInStepsAndTheWatchdogTakesBack : Prop :=
  Sys2Proof.Rules.HandoverRequestIsAcceptedWhenItsChecksPass
    ∧ Sys2Proof.Rules.HandoverFlipsEveryIslandThenChangesTheOwner
    ∧ Sys2Proof.Rules.HostWatchdogIsRestartedAndExpires

/-! ## The image (R61 to R70, R480) -/

/-- A ring command that firmware can take now, its record whole (R391, R392). -/
def Sys2Proof.Machine.ringTakes (s : State) (r op : Nat) : Prop :=
  canTake s r op = true ∧ slotOk s (slotAddr r (ringCons s r)) = true

/-- A ring image command of the physical function on ring 0, with the security module not in ERROR. -/
def Sys2Proof.Machine.imgTakes (s : State) (op : Nat) : Prop :=
  ringTakes s 0 op ∧ ringFn s 0 = 0 ∧ rf (ringStep s 0) Adr.secStatus 31 28 ≠ 2

/-- A write of MBX_IMG_CTRL that reaches the image engine: of the physical function, the control complex up, the security module not in
ERROR. -/
def Sys2Proof.Machine.imgWrites (s : State) (who : Requester) : Prop :=
  isPfSide s who = true ∧ islDown s 336 = false ∧ rf s Adr.secStatus 31 28 ≠ 2

/-- STAGE, ABANDON and COMMIT with no image operation running (R61, R66, R67): STAGE opens its record and fetches, discarding what is
staged; ABANDON discards it and is done; COMMIT raises both anti-rollback counters of the vault to the running image's values, for a
function that holds a Crypto Officer session. Each runs as a register write and as a command of ring 0, and so completes. -/
def Sys2Proof.Rules.StageAbandonAndCommitTakeEffectWhenIdle : Prop :=
  (∀ (s : State) (who : Requester) (src : Nat), imgWrites s who → src < 4 →
    exec (.imgCtrlStage who src) s = .next (imgStage s (.reg who) src (rdW s Adr.mbxImgAddr 2))
    ∧ exec (.imgCtrlAbandon who) s = .next (imgAbandon s (.reg who))
    ∧ exec (.imgCtrlCommit who) s = .next (imgCommit s (.reg who)))
  ∧ (∀ (s : State) (src : Nat),
    (imgTakes s 0x4001 → exec (.stage 0 src) s = .next (imgStage (ringStep s 0) (.cmd (slotCtx s 0)) src (slotCtx s 0).addr))
    ∧ (imgTakes s 0x4003 → exec (.abandon 0) s = .next (imgAbandon (ringStep s 0) (.cmd (slotCtx s 0))))
    ∧ (imgTakes s 0x4004 → exec (.commit 0) s = .next (imgCommit (ringStep s 0) (.cmd (slotCtx s 0)))))
  ∧ (∀ (s : State) (f : ImgFrom) (src addr : Nat), s.img.op = .idle → 6 ≤ phase s → src < 3 → (src = 0 → addr % 16 = 0) →
    imgStage s f src addr = imgNote (stageStart (imgOpen s f 0x4001 {}).1 (imgOpen s f 0x4001 {}).2 src addr) f 0
    ∧ (imgStage s f src addr).img.op = .stage ∧ (imgStage s f src addr).img.staged = [])
  ∧ (∀ (s : State) (f : ImgFrom), s.img.op = .idle →
    imgAbandon s f = imgNote (imgStat (imgOpen { s with img := { s.img with staged := [] } } f 0x4003 (imgRec 0)).1 imIdle 0 0 0) f 0
    ∧ (mget 0 s.sec.role (imgFn s f) = 1 → regionBusy s vrHashes = false →
        (imgCommit s f).sec.vault.imgArb = max s.sec.vault.imgArb (imgArbVersion s.img.running)
        ∧ (imgCommit s f).sec.vault.fwArb = max s.sec.vault.fwArb (leAt (imgBody s.img.running 11) 4 4)))

/-- STAGE, ABANDON and COMMIT complete with their own effect when no image operation runs, as register writes and as commands of ring 0:
STAGE fetches from its source with nothing staged, ABANDON leaves nothing staged, COMMIT raises the counters (R61, R66, R67). -/
def Sys2Proof.Rules.ImageOperationsCompleteWhenIdle : Prop :=
  (∀ (s : State) (who : Requester) (src : Nat), imgWrites s who → s.img.op = .idle →
    (6 ≤ phase s → src < 3 → (src = 0 → rdW s Adr.mbxImgAddr 2 % 16 = 0) → ∃ t, exec (.imgCtrlStage who src) s = .next t
        ∧ t.img.op = .stage ∧ t.img.staged = [] ∧ t.img.src = src ∧ t.img.addr = rdW s Adr.mbxImgAddr 2)
    ∧ (∃ t, exec (.imgCtrlAbandon who) s = .next t ∧ t.img.op = .idle ∧ t.img.staged = [])
    ∧ (mget 0 s.sec.role (fnOf s who) = 1 → regionBusy s vrHashes = false → ∃ t, exec (.imgCtrlCommit who) s = .next t
        ∧ t.sec.vault.imgArb = max s.sec.vault.imgArb (imgArbVersion s.img.running)
        ∧ t.sec.vault.fwArb = max s.sec.vault.fwArb (leAt (imgBody s.img.running 11) 4 4)))
  ∧ (∀ (s : State) (src : Nat), s.img.op = .idle →
    (imgTakes s 0x4001 → 6 ≤ phase (ringStep s 0) → src < 3 → (src = 0 → (slotCtx s 0).addr % 16 = 0) →
        ∃ t, exec (.stage 0 src) s = .next t
          ∧ t.img.op = .stage ∧ t.img.staged = [] ∧ t.img.src = src ∧ t.img.addr = (slotCtx s 0).addr)
    ∧ (imgTakes s 0x4003 → ∃ t, exec (.abandon 0) s = .next t ∧ t.img.op = .idle ∧ t.img.staged = [])
    ∧ (imgTakes s 0x4004 → mget 0 s.sec.role 0 = 1 → regionBusy (ringStep s 0) vrHashes = false →
        ∃ t, exec (.commit 0) s = .next t
          ∧ t.sec.vault.imgArb = max s.sec.vault.imgArb (imgArbVersion s.img.running)
          ∧ t.sec.vault.fwArb = max s.sec.vault.fwArb (leAt (imgBody s.img.running 11) 4 4)))

/-- What an accepted APPLY does at once: with a Transit under way in a named tree it waits, else it runs. -/
def Sys2Proof.Machine.applyTaken (s : State) (f : ImgFrom) (live trees : Bool) : State :=
  let o := imgOpen s f 0x4002 {}
  let u := imgNote { o.1 with img := { o.1.img with ticket := o.2 } } f 0
  if (List.range 64).any (fun t => nbit (namedTrees s trees) t && treeInTransit u t) then
    wf (imgStat { u with img := { u.img with op := .applyWait live (namedTrees s trees) } } imApplying 0 0 0)
      Adr.mbxImgStat 6 0 0
  else applyRun u live (namedTrees s trees)

/-- The conditions under which an APPLY is accepted (R68, R305). -/
def Sys2Proof.Machine.applyMay (s : State) (live trees : Bool) : Prop :=
  s.img.op = .idle ∧ (live = true → (imgSec s.img.staged 6).isSome = true → s.grm.loading = false) ∧ s.img.staged ≠ []
    ∧ deviceDiffers s = none ∧ (∀ t, t < 64 → nbit (namedTrees s trees) t = true → treeValid s t = true)

/-- APPLY of a staged image that may be applied (R68), as a register write or as a command of ring 0: with a Transit under way in a named
tree it waits, else it runs its LIVE sections and gives each named tree whose record differs a TREE reset. A wait of 100 ms ends it with
TREE_BUSY, and a tree not ready ends it PARTIAL with the trees done and the lowest one left (R70). -/
def Sys2Proof.Rules.ApplyWaitsForTransitsThenResetsTheTreesThatDiffer : Prop :=
  (∀ (s : State) (who : Requester) (live trees : Bool), imgWrites s who →
    exec (.imgCtrlApply who live trees) s = .next (imgApply s (.reg who) live trees)
    ∧ (applyMay s live trees → exec (.imgCtrlApply who live trees) s = .next (applyTaken s (.reg who) live trees)))
  ∧ (∀ (s : State) (live trees : Bool), imgTakes s 0x4002 →
    exec (.apply 0 live trees) s = .next (imgApply (ringStep s 0) (.cmd (slotCtx s 0)) live trees)
    ∧ (applyMay (ringStep s 0) live trees →
        exec (.apply 0 live trees) s = .next (applyTaken (ringStep s 0) (.cmd (slotCtx s 0)) live trees)))
  ∧ (∀ (s : State) (f : ImgFrom) (live trees : Bool), applyMay s live trees → imgApply s f live trees = applyTaken s f live trees)
  ∧ (∀ (s : State) (live : Bool) (m : Nat), s.img.op = .applyWait live m →
      exec .applyTransitTimeout s = .next (imgStat (ticketFail { s with img := { s.img with op := .idle, ticket := .none } }
        s.img.ticket iTreeBusy) imFailed iTreeBusy 0 0))
  ∧ (∀ (s : State) (t : Nat), s.img.op = .applying → t ∈ s.img.applyLeft → ¬ t ∈ s.img.applyReset →
      exec (.applyTreeTimeout t) s = .next (ticketPut
        (let u := { s with img := { s.img with op := .idle, ticket := .none, applyLeft := [], applyReset := [], applyMask := 0 } }
         imgStat u (imgRest u) 0 0 0) s.img.ticket
        { imgRec 0 with state := .partly, progress := s.img.applyDone, first := s.img.applyLeft.foldl min t }))

/-- The end of a fetch (R62, R65 to R67): a good image of a running device is STAGED with its record DONE; a bad one reads FAILED with the
code, section and offset of the first failed check. A STAGE of the P3 wait loads a good image, and waits again after a bad one. At boot a good slot is loaded, a bad first slot leads to the other one, and after
both the device waits for the host or stays in P3. -/
def Sys2Proof.Rules.FetchedImageIsCheckedThenStagedOrLoaded : Prop :=
  (∀ (s : State) (err : Bool), s.img.op = .stage →
    ∃ t, exec (.imageFetchDone err) s = .next t
      ∧ t = match fetched s s.img.src s.img.addr err false with
        | (b, none) => imgStat { ticketPut s s.img.ticket (imgRec 0) with img :=
            { (ticketPut s s.img.ticket (imgRec 0)).img with staged := b, op := .idle, ticket := .none } } imStaged 0 0 0
        | (_, some e) =>
          let u := imgStat (ticketFail s s.img.ticket e.code) imFailed e.code e.sec e.ofs
          { u with img := { u.img with op := .idle, ticket := .none } })
  ∧ (∀ (s : State) (err : Bool) (slot code sec ofs : Nat) (second : Bool), s.img.op = .bootFetch slot second code sec ofs →
    exec (.imageFetchDone err) s = .next (match fetched s slot 0 err true with
      | (b, none) => bootLoad (heldRefuse s) b slot
      | (_, some e) =>
        if !second then { s with img := { s.img with op := .bootFetch (3 - slot) true e.code e.sec e.ofs } }
        else if s.boot.bootsel = 2 then bootWaitStart s
        else bootStay (imgStat { s with img := { s.img with op := .idle } } imFailed code sec ofs) code 0))
  ∧ (∀ (s : State) (err : Bool), s.img.op = .bootStage →
    exec (.imageFetchDone err) s = .next (match fetched s s.img.src s.img.addr err true with
      | (b, none) => bootLoad (ticketPut s s.img.ticket (imgRec 0)) b 0
      | (_, some e) =>
        let u := imgStat (ticketFail s s.img.ticket e.code) imFailed e.code e.sec e.ofs
        bootFail { u with img := { u.img with op := .bootWait, ticket := .none } } e.code 0))
  ∧ (∀ (s : State) (src addr : Nat) (boot : Bool), fetched s src addr true boot = ([], some ⟨iFetch, 0, 0⟩))

/-- Image commands and their ends. -/
def Obligations.ImagesAreCheckedStagedAppliedAndCommitted : Prop :=
  Sys2Proof.Rules.StageAbandonAndCommitTakeEffectWhenIdle
    ∧ Sys2Proof.Rules.ImageOperationsCompleteWhenIdle
    ∧ Sys2Proof.Rules.ApplyWaitsForTransitsThenResetsTheTreesThatDiffer
    ∧ Sys2Proof.Rules.FetchedImageIsCheckedThenStagedOrLoaded

/-! ## Supplies, pins, phases and resets (R71 to R83, R462) -/

/-- A supply that rises before every supply of an earlier step is valid is out of order: SEQ_ERR, and the device stays in P0; so does a
step that does not start within 1 s (R71, R72). At 90 % a supply is valid. -/
def Sys2Proof.Rules.SuppliesRiseInTheOrderOfTheirSteps : Prop :=
  (∀ (s : State) (i : Nat), i < 14 → supplyOf s i = supOff →
      let bad := (List.range 14).any fun j => decide (supplyStep j < supplyStep i) && supplyOf s j != supValid
      exec (.supplyStart i) s = .next (if bad then seqError (setSupply s i supStarted) else setSupply s i supStarted))
  ∧ (∀ (s : State) (i : Nat), i < 14 → supplyOf s i = supStarted →
      exec (.supplyValid i) s = .next (setSupply s i supValid))
  ∧ (∀ (s : State) (k : Nat), k < 6 →
      (∀ j, j < 14 → (supplyStep j ≤ k → supplyOf s j = supValid) ∧ (supplyStep j = k + 1 → supplyOf s j = supOff)) →
      exec .supplyGapTimeout s = .next (seqError s))

/-- A supply out of its window with POR_N high trips the voltage tamper and a COLD reset with cause bit 4; POR_N low is a COLD reset with
cause bit 1, and its release samples BOOTSEL; without VDD_AON nothing is kept; PERST_N low resets the host-port island and drops the link, its release brings the island
back (R71 to R75, R291). -/
def Sys2Proof.Rules.SuppliesAndResetPinsReset : Prop :=
  ∀ (s : State) (i : Nat), i < 14 → s.boot.porLow = false →
    exec (.supplyOutOfRange i) s = .next (coldReset (zeroize s 7) 4)
    ∧ (supplyOf s i = supValid → 0 < i → exec (.supplyRemoval i) s = .next (setSupply (coldReset (zeroize s 7) 4) i supOff))
    ∧ (supplyOf s 0 = supValid → exec (.supplyRemoval 0) s
        = .next (portHeld (bootUpd (coldState (setSupply (coldReset (zeroize s 7) 4) 0 supOff) fun _ => false)
            fun b => { b with seqErr := false, stay := false, porLow := true })))
    ∧ exec .porNAssert s = .next (bootUpd (coldReset s 1) fun b => { b with porLow := true })
    ∧ exec .perstNRelease s = .next (bootUpd (setIsl s 340 islRun) fun b => { b with perstLow := false })
    ∧ (∃ t, exec .perstNAssert s = .next t ∧ t.boot.perstLow = true ∧ t.boot.linkUp = false ∧ t.acc.vfMsix = [] ∧ t.acc.vfPba = [])
    ∧ (∀ b, (∀ j, j < 14 → supplyOf s j = supValid) → exec (.porNRelease b) { s with boot := { s.boot with porLow := true } }
        = .next (showSource { s with boot := { s.boot with porLow := false, bootsel := b % 4 } }))

/-- P0 to P5 end in order, each in its phase, or stay with their R80 code: 0x20 fuses, 0x21 ROM, 0x23 vault, 0x22 BOOTSEL, 0x30 self-test,
0x40 DRAM, 0x42 firmware; a late PCIe link is reported with 0x50 and boot goes on (R76, R80). -/
def Obligations.BootPhasesEndInOrderOrStayWithTheirCode : Prop :=
  ∀ s : State,
    (inPhase s 0 = true → s.sec.erasing = [] → (∀ n, n < 96 → sensorTemp s n ≤ 95 * 256) →
        exec (.p0Complete false) s = .next (bootStay s 0x20 0)
        ∧ ∃ t, exec (.p0Complete true) s = .next t ∧ t.boot = { s.boot with bootMode := true } ∧ t.tabs = s.tabs)
    ∧ (inPhase s 1 = true → exec (.p1Complete false true) s = .next (bootStay s 0x21 0)
        ∧ exec (.p1Complete true false) s = .next (bootStay s 0x23 0)
        ∧ exec (.p1Complete true true) s = .next (if s.boot.bootsel = 3 then bootStay s 0x22 0
            else setPhase7 (wr s (Adr.mbxImgArb + 4) (BitVec.ofNat 32 s.sec.vault.imgArb)) 2))
    ∧ (inPhase s 2 = true → secState s ≠ smZeroized → exec (.p2Complete 0) s = .next (p3Start (secP2 s 0))
        ∧ (∀ n, exec (.p2Complete (n + 1)) s = .next (bootStay (secP2 s (n + 1)) 0x30 (n + 1))))
    ∧ (inPhase s 4 = true → exec (.p4Complete none []) s = .next
          (setPhase7 (bootUpd s fun b => { b with fwAlive := true, bootMode := false }) 5)
        ∧ (∀ m, exec (.p4Complete (some m) []) s = .next (bootStay s 0x40 m))
        ∧ exec .fwStartTimeout s = .next (bootStay s 0x42 0))
    ∧ (phase s = 5 ∨ phase s = 6 → s.boot.linkUp = false → s.boot.perstLow = false → exec .linkTrainTimeout s = .next (bootFail s 0x50 0))
    ∧ (inPhase s 5 = true → exec .p5Complete s = .next
        (let u := timePlan (wb (wb (setPhase7 s 6) Adr.glbBootStat 7 true) Adr.glbResetCause s.boot.cause true)
          (imgBody s.img.running 8)
         let u := { u with boot := { u.boot with resetRun := 0 } }
         let u := (List.range 64).foldl (fun s t =>
           if treeEnabled s t then wfW s (Adr.prtTrunk t) 2 63 32 (trecEqrt (trec s t) * 1000) else s) u
         let u := if prtOn u then prtJoin u else u
         if u.pwr.shutdown then u else p6Check ((List.range 64).foldl treeStart u)))
    ∧ (s.boot.perstLow = false → exec .pcieLinkUp s = .next { s with boot := { s.boot with linkUp := true } })
    ∧ exec .pcieLinkDown s = .next { dmaLinkDown s with boot := { (dmaLinkDown s).boot with linkUp := false } }

/-- GLB_RESET_CTRL with its CONFIRM word asks for a COLD reset, or past P4 for a WARM one (R83); a wrong CONFIRM asks for nothing. -/
def Sys2Proof.Rules.ResetControlAsksForResetsWithConfirm : Prop :=
  ∀ (s : State) (who : Requester), isPfSide s who = true → islDown s 340 = false →
    exec (.glbResetCtrlCold who 0x0A5A) s
        = .next (wrOk { s with boot := { s.boot with request := 2 } } who Adr.glbResetCtrl)
    ∧ (5 ≤ phase s → s.boot.resetRun ≠ 2 → exec (.glbResetCtrlWarm who 0x0A5A) s
        = .next (wrOk { s with boot := { s.boot with request := max 1 s.boot.request } } who Adr.glbResetCtrl))
    ∧ (∀ x, x < 65536 → x ≠ 0x0A5A → exec (.glbResetCtrlCold who x) s = .next (wrOk s who Adr.glbResetCtrl)
        ∧ exec (.glbResetCtrlWarm who x) s = .next (wrOk s who Adr.glbResetCtrl))

/-- A COLD reset that was asked for returns every register but GLB_RESET_CAUSE, SEC_TAMPER, the fields of GLB_BOOT_STAT and the state of
the host-port island, which PERST_N holds in reset, to its reset value, forgets the tables and the DRAM, and leaves host memory, flash and the key vault (R81). A WARM reset samples BOOTSEL and leaves
flash, host memory, the vault, the wrapped KEKs and the running image; queues, grants, buffers and what is in flight are gone. -/
def Sys2Proof.Rules.ColdAndWarmResetsLeaveWhatTheyKeep : Prop :=
  (∀ s : State, Canon s → s.boot.request = 2 → ∃ t, exec .coldReset s = .next t
      ∧ (∀ a, a ≠ Adr.glbResetCause → a ≠ Adr.secTamper → a ≠ Adr.glbBootStat → a ≠ Adr.glbIslandStat 340 →
          rd t a = resetWord a)
      ∧ rd t Adr.glbResetCause = rd s Adr.glbResetCause ∧ phase t = 0
      ∧ t.tabs = [] ∧ t.dram = [] ∧ t.hostMem = s.hostMem ∧ t.flash = s.flash ∧ t.sec.vault = s.sec.vault
      ∧ t.sec.role = [] ∧ t.keys.kek = [] ∧ t.img = {} ∧ t.sched = {} ∧ t.flow = {} ∧ t.boot.resetRun = 2)
  ∧ (∀ (s : State) (b : Nat), s.boot.request = 1 → ∃ t u, exec (.warmReset b) s = .next t
      ∧ u = warmState (warmEnds s) b ∧ t = warmBegin u (secState s == smZeroized)
      ∧ u.sched = {} ∧ u.grant = {} ∧ u.buf = {} ∧ u.flow = {} ∧ u.transits = [] ∧ u.dma = {} ∧ u.boot.resetRun = 1
      ∧ u.boot.bootsel = b % 4 ∧ (∀ a, warmKeeps a = false → rd u a = resetWord a)
      ∧ (∀ a, warmKeeps a = true → rd u a = rd (warmEnds s) a))

/-- Reset control, COLD and WARM. -/
def Obligations.ResetsAskConfirmAndLeaveWhatTheyKeep : Prop :=
  Sys2Proof.Rules.ResetControlAsksForResetsWithConfirm ∧ Sys2Proof.Rules.ColdAndWarmResetsLeaveWhatTheyKeep

/-- A tamper source 0 to 6 zeroizes the module, the voltage source with a COLD reset (R73, R291). -/
def Sys2Proof.Rules.TamperTripZeroizesTheModule : Prop :=
  ∀ s : State, (∀ n, n < 7 → exec (.tamperTrip n) s = .next (zeroize s n))
    ∧ (s.boot.porLow = false → exec (.tamperTrip 7) s = .next (coldReset (zeroize s 7) 4))

/-- A fall of MOD_INT_N and a change of LIGHT_IN set their bits of TRE_MOD_STAT and report 0x1200 and 0x1240 plus the tree in island
336 (R462); firmware's polls of the modules leave no state that the spec names. -/
def Sys2Proof.Rules.SidebandChangesAreReported : Prop :=
  (∀ (s : State) (t : Nat), t < 64 → rb s (Adr.treModStat t) 1 = false → rb s (Adr.treModStat t) 0 = false →
      let a := Adr.treModStat t
      exec (.sidebandInputChange t true false) s
        = .next (evBit (wb (wb s a 1 true) a 0 false) a 2 336 .corrected (0x1200 + t))
      ∧ exec (.sidebandInputChange t false true) s
        = .next (evBit (wb (wb s a 1 false) a 0 true) a 3 336 .corrected (0x1240 + t)))
  ∧ (∀ s : State, exec .modulePoll s = .next s)

/-- Supplies, pins, tamper inputs and sideband. -/
def Obligations.SuppliesPinsTamperAndSidebandAct : Prop :=
  Sys2Proof.Rules.SuppliesRiseInTheOrderOfTheirSteps
    ∧ Sys2Proof.Rules.SuppliesAndResetPinsReset
    ∧ Sys2Proof.Rules.TamperTripZeroizesTheModule
    ∧ Sys2Proof.Rules.SidebandChangesAreReported

/-! ## Channel and TREE resets (R78, R81, R119) -/

/-- A write of RESET to CHN_STATE or TRE_STATE by the physical function with the unit's epoch, with no wider reset running, takes effect:
the channel's STATE is RESET and EPOCH one more, its island in RESET (R81, R119 step 1); a TREE reset clears the tree and starts it. -/
def Sys2Proof.Rules.ChannelAndTreeResetsAreTaken : Prop :=
  (∀ (s : State) (who : Requester) (c expect : Nat), c < 256 → isPfSide s who = true → s.boot.resetRun = 0 →
      expect = uEpoch s (Adr.chnState c) → chnEff s c ≠ chOff → effState s (Adr.treState (c / 4)) ≠ 1 →
      exec (.chnStateReset who c expect) s = .next (wrOk (chanReset s c) who (Adr.chnState c)))
  ∧ (∀ (s : State) (who : Requester) (t expect : Nat), t < 64 → isPfSide s who = true → islDown s 336 = false →
      s.boot.resetRun = 0 → expect = uEpoch s (Adr.treState t) → effState s (Adr.treState t) ≠ 0 → applyResets s t = false →
      exec (.treeReset who t expect 1) s = .next (wrOk (treeFollow (treeStart (treeClear s t) t) t) who (Adr.treState t)))

/-- After its island reset a channel retrains its lane, enters STARTING, or STANDBY on the standby of a pair, then RUN; not in RUN in
time its island is lost and it enters FAULT with DETAIL 2 (R20, R119). A starting tree with no channel ready by 250 ms enters FAULT (R78). -/
def Sys2Proof.Rules.ChannelStartsStepByStepOrFaults : Prop :=
  (∀ (s : State) (c : Nat), chnEff s c = chReset → islState s c = islReset →
      exec (.channelIslandResetDone c) s = .next (treeStartGo (setIsl s c islRun) (c / 4)))
  ∧ (∀ (s : State) (c : Nat), chnEff s c = chReset → islState s c = islRun →
      exec (.channelLaneTrained c) s = .next (chnChange s c (if s.prt.standby then chStandby else chStarting) 0))
  ∧ (∀ (s : State) (c : Nat), chnEff s c = chStarting →
      exec (.channelRun c) s = .next (applyFinish (chnChange (wf s (Adr.chnComaStat c) 31 28 (accessInit s (c / 4))) c chRun 0)))
  ∧ (∀ (s : State) (c : Nat), chnEff s c = chReset ∨ chnEff s c = chStarting → chanValid s c = true → islState s c ≠ islLost →
      let u := setIsl (chanStop s c) c islLost
      exec (.channelStartTimeout c) s
        = .next (raise (if chnEff u c = chOff then u else chnChange u c chFault 2) c .contained 0x04F2))
  ∧ (∀ (s : State) (t : Nat), effState s (Adr.treState t) = 1 ∨ effState s (Adr.treState t) = 2 → readyMask s t = 0 →
      exec (.treeStartTimeout t) s = .next (treeFollow (dpChange s (Adr.treState t) 4 (16 + lostMask s t)) t))

/-- Channel and tree resets and starts. -/
def Obligations.ChannelsAreResetAndStartedStepByStep : Prop :=
  Sys2Proof.Rules.ChannelAndTreeResetsAreTaken ∧ Sys2Proof.Rules.ChannelStartsStepByStepOrFaults

/-! ## The line, bursts, TLRs, PM bins, the tick (R85, R99, R106 to R123) -/

/-- At START of the next granted burst of a channel whose island is up, the burst is marked, the ready staging register becomes the live
one and the record of the next burst's terminal is fetched into the other (none where it is the same), and, once the outputs are no
longer held, the burst-reset pulse is sent from RST_OFS on, RST_WIDTH long: BURST_START completes (R108, R112). -/
def Sys2Proof.Rules.BurstStartSwapsStagingAndPulsesTheReset : Prop :=
  ∀ (s : State) (c i : Nat) (g : GBurst), s.boot.dataStopped = false → islDown s c = false →
    outsHeld s = false →
    ((burstsOf s c).findIdx? fun g => !g.started) = some i → (burstsOf s c)[i]? = some g →
    let next := ((burstsOf s c)[i + 1]?.map stageSlot).getD 0
    let rise := g.start + fld (rd s (Adr.chnOptCfg c)) 6 0
    let live := mget (0, []) s.line.stageCur c
    let ready := mget (0, []) s.line.stageNext c
    ∃ t, exec (.burstStart c) s = .next t
      ∧ t.sent = s.sent ++ [.burstReset c rise (rise + fld (rd s (Adr.chnOptCfg c)) 14 8)]
      ∧ t.line.stageCur = mset (0, []) s.line.stageCur c (if live.1 = stageSlot g then live else
          if ready.1 = stageSlot g then ready else stageFetch s c (stageSlot g))
      ∧ t.line.stageNext = mset (0, []) s.line.stageNext c (if next = stageSlot g then (0, []) else stageFetch s c next)
      ∧ t.grant.bursts = mset [] s.grant.bursts c ((burstsOf s c).set i { g with started := true })
      ∧ t.regs = s.regs ∧ t.tabs = s.tabs

/-- The oldest granted burst of a running channel is over when its reception ends (R106): without a delimiter it is lost and counts as a
delimiter miss; with one, a burst of a terminal whose first codeword is good, whose prologue CRC holds and whose TID is the granted one
is decoded, and its terminal is heard: BURST_RECEIVE completes. Its delay counts to the ranging, its record is updated, its frames are
taken and its reports after them. A terminal control message, a registration burst and a Transit's upstream keys are commands of their
own. -/
def Sys2Proof.Rules.ReceivedBurstIsDecodedOrLost : Prop :=
  ∀ (s : State) (c : Nat) (rx : Reception) (g : GBurst) (rest : List GBurst),
    s.boot.dataStopped = false → burstsOf s c = g :: rest → islDown s c = false → chnEff s c ≠ chStandby → g.kind ≠ 2 → g.tid ≠ 0x7FFF →
    let u := setBursts s c rest
    let u := { u with line := { u.line with secGranted := secAdd u.line.secGranted c g 1 } }
    (burstDelim s c rx.window = none → exec (.burstReceive c rx) s = .next (burstLost u c g [4]))
    ∧ (∀ pat ofs dist, burstDelim s c rx.window = some (pat, ofs, dist) →
        fiArmed u (Adr.fiCfgUs c) = false → (fiOf u (Adr.fiCfgUs c)).held = [] →
        exec (.burstReceive c rx) s = .next (burstDecode u c g rx pat ofs dist)
        ∧ (rx.cws.head? ≠ some .uncorrectable → rx.hdr.crcOk = true → rx.hdr.tid = g.tid →
            let v := grantsEnd (cwCount u c g rx.cws) g true
            let v := { v with line := { v.line with heard := addNew v.line.heard c } }
            let v := if isN200 v c then rangingKeep v c g.tid ofs else v
            let w := tlrUpdate v c (slotOfTid g.tid) g.cold rx.dsp rx.quality g.cycle ofs dist
            let x := if isN200 v c then traceStep (if g.cold then pmBurst w c g 8 1 else w) c g.tid rx.hdr.traceCrc else v
            let y := takeReports (usBytes x c g.tid rx.frames) c g.tid g.cycle (rx.reports.take rx.hdr.rptCount)
            burstDecode u c g rx pat ofs dist
              = termHeard (if isC50 y c then g.grants.foldl (fun y p => takeMonitor y p.1 g.cycle) y else y) c g rx (pat == 1) ofs))

/-- Upstream bursts. -/
def Obligations.BurstsStartAndAreDecodedOrLost : Prop :=
  Sys2Proof.Rules.BurstStartSwapsStagingAndPulsesTheReset ∧ Sys2Proof.Rules.ReceivedBurstIsDecodedOrLost

/-- The commands of CHN_TLR_CMD by the owner of function 9 change FLAGS of the record named, and of no other (R115): INVALIDATE clears
VALID and sets FORCE_COLD, FORCE_COLD sets it, PIN and UNPIN set and clear PINNED; INVALIDATE_ALL does the first to all 512. -/
def Sys2Proof.Rules.TlrCommandsChangeFlagsOfTheirRecord : Prop :=
  ∀ (s : State) (who : Requester) (c k : Nat), islDown s c = false → isOwner s who c 9 (c / 4) = true → k < 512 →
    let a := Adr.chnTlrCmd c
    let flag (u : State) (i : Nat) (b : Bool) : State := wb u (tlrAddr c k + 0x20) (16 + i) b
    exec (.tlrInvalidate who c k) s = .next (wrOk (flag (flag s 0 false) 1 true) who a)
    ∧ exec (.tlrForceCold who c k) s = .next (wrOk (flag s 1 true) who a)
    ∧ exec (.tlrPin who c k) s = .next (wrOk (flag s 2 true) who a)
    ∧ exec (.tlrUnpin who c k) s = .next (wrOk (flag s 2 false) who a)
    ∧ exec (.tlrInvalidateAll who c) s
        = .next (wrOk ((List.range 512).foldl (fun u k =>
            wb (wb u (tlrAddr c k + 0x20) 16 false) (tlrAddr c k + 0x20) 17 true) s) who a)
    ∧ (∀ i b x, x ≠ tlrAddr c k + 0x20 → rd (flag s i b) x = rd s x)

/-- A burst is warm exactly where the record has VALID = 1, FORCE_COLD = 0 and AGE at most AGE_LIMIT; an AGE_LIMIT of 0 makes every burst
cold (R113). -/
def Sys2Proof.Rules.BurstIsWarmByValidForceColdAndAge : Prop :=
  ∀ (s : State) (c k : Nat), burstWarm s c k = true ↔
    rb s (tlrAddr c k + 0x20) 16 = true ∧ rb s (tlrAddr c k + 0x20) 17 = false
      ∧ rf s (tlrAddr c k + 0x20) 15 0 ≤ rf s (Adr.chnTlrCfg c) 31 16 ∧ rf s (Adr.chnTlrCfg c) 31 16 ≠ 0

/-- PM_BIN_ROLLOVER completes: when a 15-minute bin ends, the counts of a channel's bins 0 to 15 stand in bins 1 to 16 and bin 0 counts
from 0, its start the second given; a scope that an Eclipse or a Transit covers at that moment keeps the new bin marked SUSPECT; other
channels' bins stay (R120). A PM read on an island that is up returns the count of the bin that its CHN_PM_SEL names at that moment,
with the alert and SUSPECT flags, and latches the other word and the bin's start for the requester (R123). -/
def Sys2Proof.Rules.PmBinsShiftAndReadWithTheirFlags : Prop :=
  (∀ (s : State) (c second : Nat), ∃ t, exec (.pmBinRollover c false second) s = .next t
      ∧ t.line.pm = mapKeys (shiftKeys c 16 shift15) s.line.pm
      ∧ t.line.pmTca = s.line.pmTca.filterMap (shiftKeys c 16 shift15)
      ∧ t.line.pmSuspect = s.line.pmSuspect.filterMap (shiftKeys c 1 shift15)
          ++ ((pmSuspectScopes s c).map fun sc => pmBin c sc 0)
      ∧ { t with line := s.line } = s)
  ∧ (∀ (s : State) (who : Requester) (c : Nat), isC50 s c = false → islDown s c = false →
      let sel := rdReq s who (Adr.chnPmSel c)
      let scope := if fld sel 31 31 = 1 then fld sel 24 16 + 1 else 0
      let bin := fld sel 12 8
      let counter := fld sel 3 0
      bin ≤ 18 → counter ≤ 13 →
      let v := pmCount s c scope bin counter + 2 ^ 62 * b2n (decide (pmKey c scope bin counter ∈ s.line.pmTca))
        + 2 ^ 63 * b2n (decide (pmBin c scope bin ∈ s.line.pmSuspect) || decide (pmBin c 0 bin ∈ s.line.pmSuspect))
      ∃ t, exec (.pmDataRead who c) s = .next t ∧ t.acc.ret = mset 0 s.acc.ret who.code (BitVec.ofNat 32 v)
        ∧ t.regs = s.regs ∧ t.line = s.line ∧ t.tabs = s.tabs)

/-- Terminal learning records and performance bins. -/
def Obligations.TerminalLearningRecordsFollowTheirFlags : Prop :=
  Sys2Proof.Rules.TlrCommandsChangeFlagsOfTheirRecord
    ∧ Sys2Proof.Rules.BurstIsWarmByValidForceColdAndAge
    ∧ Sys2Proof.Rules.PmBinsShiftAndReadWithTheirFlags

/-- A write of a constant-rate entry by the owner of function 2, its fields within their limits and the channel's region within 202,752
bytes, waits for its frame start; one past the limits is refused with OUT_OF_RANGE and changes no entry (R96, R99). -/
def Sys2Proof.Rules.ConstantRateEntryIsTakenWithinItsLimits : Prop :=
  ∀ (s : State) (who : Requester) (c i v : Nat), islDown s c = false → isOwner s who c 2 (c / 4) = true →
    (crsFieldsOk c v = true → crsRegion s c i v 16 ≤ 202752 → exec (.chnCrsWrite who c i v) s
      = .next (wrOk { s with line := { s.line with crsPend := mput s.line.crsPend (c * 64 + i) ⟨v, cycleNow s⟩ } } who (Adr.chnCrs c i)))
    ∧ (crsFieldsOk c v = false ∨ 202752 < crsRegion s c i v 16 →
        exec (.chnCrsWrite who c i v) s = .next (wrRefuse s who (Adr.chnCrs c i) .outOfRange))

/-- CYCLE_START completes on a device past its power-on reset in every boot phase from P5 on, and in the run after a reset: it ends the
cycle before, advances CHN_CYCLE by one modulo 2^48 and every time base that is set, begins the new cycle for the device, and then for
its channels, its trees and its rogue searches in this order, and the C50 superframe latches where the cycle is a multiple of 8
(R85, R128). -/
def Obligations.CycleStartAdvancesTheCycleAndItsWork : Prop :=
  (∀ (s : State) (energy : List Nat) (sfc : List (Nat × Nat)), s.boot.porLow = false → (5 ≤ phase s ∨ s.boot.resetRun = 1) →
      let n := (cycleNow s + 1) % 2 ^ 48
      exec (.cycleStart energy sfc) s = .next
        (let u := cycleBegin (tick (cycleEnd s n) n) n
         let u := (chans u).foldl (fun u c =>
           if owner u 1 (c / 4) = 0 ∧ (geMode u c ≠ 0 ∨ geRingSlots u c ≠ []) then geAbandon u c else u) u
         let u := (chans u).foldl (chanBegin energy n) u
         let u := applyFinish (((List.range 64).filter (treeEnabled u)).foldl treeFollow u)
         let u := (List.range 64).foldl (fun u t => rogueWatch u t (decide (rogueChan u t ∈ energy))) u
         if n % 8 = 0 then sfc.foldl (fun u p => if isC50 u p.1 then c50Latch u p.1 p.2 else u) u else u))
  ∧ (∀ (s : State) (n : Nat), Canon s → n < 2 ^ 48 → (∀ b, b < 8 → baseState s b = tbUnset) → cycleNow (tick s n) = n)

/-! ## Discovery, terminal messages, terminals, rogues (R126 to R164) -/

/-- COMA_EPOCH completes where epochs run, no quiet window lies and COMA_PERIOD divides the next cycle: an epoch is marked for it and EPOCHS
counts (R132). With its peaks posted, the epoch leaves the list, CHN_COMA_STAT shows their count and ACCESS moves by R137; at a level
that is not basic the peaks inside the search window, the four of greatest magnitude, stand in CHN_COMA_CAND (R136); with no peak nothing
is invited. -/
def Sys2Proof.Rules.ComaEpochsAreMarkedAndPosted : Prop :=
  (∀ (s : State) (c : Nat), let k := cycleNow s + 1
      s.boot.dataStopped = false → comaOn s c = true → inQuiet s c k = false → k % comaPeriod s (c / 4) = 0 → isEpoch s c k = false →
      exec (.comaEpoch c) s = .next (wf { s with reg := { s.reg with
        epochs := mset [] s.reg.epochs c (mget [] s.reg.epochs c ++ [k]) } } (Adr.chnComaStat c) 23 0
          ((rf s (Adr.chnComaStat c) 23 0 + 1) % 2 ^ 24)))
  ∧ (∀ (s : State) (c k : Nat) (rest : List Nat), Canon s → mget [] s.reg.epochs c = k :: rest →
      let a := Adr.chnComaStat c
      ∃ t, exec (.comaCandidatesPosted c []) s = .next t ∧ t.reg.epochs = mset [] s.reg.epochs c rest
        ∧ rf t a 31 28 = accessNext (rf s a 31 28) (((false, false) :: mget [] s.reg.history c).take 4) % 16
        ∧ rf t a 27 25 = 0 ∧ rf t a 24 24 = 0 ∧ rf t a 23 0 = rf s a 23 0 ∧ t.sent = s.sent ∧ t.tcm = s.tcm)
  ∧ (∀ (s : State) (c k code delta mag : Nat) (rest : List Nat), c < 256 → Canon s → mget [] s.reg.epochs c = k :: rest → code < 64 →
      inSearch s (c / 4) delta = true → basic s 0 (c / 4) = false →
      ∃ t, exec (.comaCandidatesPosted c [(code, delta, mag)]) s = .next t ∧ t.reg.epochs = mset [] s.reg.epochs c rest
        ∧ rdW t (Adr.chnComaCand c 0) 2 = 2 ^ 63 + code * 2 ^ 56 + min 255 mag * 2 ^ 48 + k % 65536 * 2 ^ 32 + delta % 2 ^ 27
        ∧ rdW t (Adr.chnComaCand c 1) 2 = 0 ∧ rf t (Adr.chnComaStat c) 27 25 = 1)

/-- On a running N200 channel (R139, R140): registration bursts that overlapped in a quiet window raise 0x0423; one that does not decode
uses the registration grant whose time it had, is counted and lost. REGISTRATION_BURST completes: a burst whose prologue is good, that
carries a SERIAL_REPORT with its CRC right, of a serial that answers its invitation inside the booked grant, or that comes inside a quiet
window with the measured delay, is that serial's arrival. -/
def Sys2Proof.Rules.RegistrationBurstArrivesOrIsCounted : Prop :=
  ∀ (s : State) (c : Nat) (hdr : BurstHdr) (msg : List Byte) (ofs : Int) (arrival : Nat),
    s.boot.dataStopped = false → isN200 s c = true → chnEff s c = chRun → islDown s c = false →
    let id := rxField msg 15 1
    (quietSeen s c none = true →
      exec (.registrationBurst c (.good 0) hdr msg ofs arrival true) s = .next (evBit s (Adr.chnDiscEvent c) 3 c .corrected 0x0423))
    ∧ (∀ g, regGrantFind s c none = some g →
      exec (.registrationBurst c .uncorrectable hdr msg ofs arrival false) s
        = .next (regLost (regCwCount (inviteGone (regGrantTaken s c g) c g.invite) c .uncorrectable) c true))
    ∧ (∀ d u, hdr.crcOk = true → hdr.tid = 0x7FFF →
        ((id = 0xFF ∧ quietSeen s c (some arrival) = true ∧ rxField msg 16 2 * 16 ≤ arrival ∧ d = arrival - rxField msg 16 2 * 16
            ∧ u = pmAddScope s c 0 0 1)
          ∨ (id ≠ 0xFF ∧ ∃ g k i, regGrantFind s c (some id) = some g
              ∧ s.reg.invites.find? (·.1 = c * 256 + g.invite) = some (k, i) ∧ i.code = rxField msg 14 1
              ∧ d = ((i.delta : Int) + ofs).toNat ∧ u = pmAddScope (inviteGone (regGrantTaken s c g) c g.invite) c 0 0 1)) →
        let v := pmAddScope u c 0 8 1
        let v := if hdr.traceCrc = crc16 (traceExpected v c) then v else pmAddScope v c 0 9 1
        let w := serialAlive v c (rxField msg 6 8) (rxAlive msg)
        rxCrcOk msg = true → rxType msg = mtSerialReport → rxAddr msg = bcast → w.1 = true → basic w.2 0 (c / 4) = true →
        let x : Arrival :=
          { chan := c, delta := d, serial := rxField msg 6 8, caps := rxField msg 18 2 % 16, nonce := rxField msg 20 4,
            txLevel := hdr.txLevel, traceOk := hdr.traceCrc == crc16 (traceExpected w.2 c) }
        exec (.registrationBurst c (.good 0) hdr msg ofs arrival false) s = .next (firstAlive (arrive w.2 x) c msg))

/-- A serial new to the tree, of a device inside the search window, takes a slot and waits in AUTH_WAIT for the decision about it; one
that waits elsewhere raises 0x0426, and with no slot free 0x0427 (R140). -/
def Sys2Proof.Rules.NewSerialTakesASlotAndWaits : Prop :=
  ∀ (s : State) (a : Arrival), inSearch s (a.chan / 4) a.delta = true → serialBusy s a.serial = none →
    serialIn s (a.chan / 4) a.serial = none →
    (∀ tid, chooseSlot s (a.chan / 4) a.serial = some tid →
      let u := { s with tcm := { s.tcm with aliveUp := mdel s.tcm.aliveUp tid } }
      let u := putArrival (takeSlot u tid a.serial) tid a
      arrive s a = holdAndAsk (termMgmt u tid tsAuthWait 0) tid a)
    ∧ (chooseSlot s (a.chan / 4) a.serial = none →
      arrive s a = ntfPf (evBit s (Adr.chnDiscEvent a.chan) 7 a.chan .corrected 0x0427) ntfTreeFull
        (bytesLE 8 a.serial ++ bytesLE 1 (a.chan / 4) ++ bytesLE 1 (a.chan % 4)))

/-- Registration bursts and new serials. -/
def Obligations.RegistrationBurstArrivesOrIsCounted : Prop :=
  Sys2Proof.Rules.RegistrationBurstArrivesOrIsCounted ∧ Sys2Proof.Rules.NewSerialTakesASlotAndWaits

/-- QUIET_WINDOW_DUE completes: a quiet window that falls due by QW_PERIOD is placed in the first free span past the invitation's lead, and
stands in the channel's list from its first to its last cycle. QW_NOW completes: written by the owner of function 0 it places one on each
wavelength of DISC_W in RUN where no rogue is being located, the word's other fields first (R145). -/
def Sys2Proof.Rules.QuietWindowsArePlacedWhenDueOrCommanded : Prop :=
  (∀ (s : State) (c a : Nat), quietOn s c = true → rf s (Adr.treDiscCfg (c / 4)) 15 8 ≠ 0 →
      quietPlace s c (winCycles s (c / 4)) 200 (cycleNow s + 2 + (if isN200 s c then inviteLead s c else 0)) = some a →
      ∃ t, exec (.quietWindowDue c) s = .next t ∧ t = quietWindow s c
        ∧ t.grant.quiet = mset [] s.grant.quiet c (mget [] s.grant.quiet c ++ [(a, a + winCycles s (c / 4) - 1)])
        ∧ t.regs = s.regs ∧ t.tabs = s.tabs)
  ∧ (∀ (s : State) (who : Requester) (t : Nat) (v : Word), let a := Adr.treDiscCfg t
      islDown s (islandOf a) = false → isOwner s who (islandOf a) 0 t = true → v.toNat.testBit 2 = true →
      exec (.qwNow who t v) s = .next (wrOk ((List.range 4).foldl (fun u w =>
          let c := chanOf t w
          if discOn u c && chnEff u c == chRun && (isN200 u c || isC50 u c) && !locating u c then quietWindow u c else u)
        (wr s a (putFld (putFld v 2 0 0) 19 16 (min 12 (fld v 19 16))))) who a))

/-- COMA epochs and quiet windows. -/
def Obligations.ComaEpochsAndQuietWindowsArePlaced : Prop :=
  Sys2Proof.Rules.ComaEpochsAreMarkedAndPosted ∧ Sys2Proof.Rules.QuietWindowsArePlacedWhenDueOrCommanded

/-- An upstream message of a terminal with its CRC right, a terminal's TYPE and its own ADDR is accepted when its ALIVE lies 0 to 32,766
past the one after LAST, and acts; the ALIVE of the last accepted message again is a replay and raises 0x0425; any other is stale and is
discarded; one whose CRC is wrong is discarded and counted (R147, R150). At the basic level an accepted STATUS_REPORT adds its count to
the terminal's counter 12 and an accepted ACK ends its wait: TCM_RECEIVE and TCM_ACK_RECEIVE complete. No ACK within its time is a resend
from the head of the queue, three times, while the queue has room (R151, R152). -/
def Sys2Proof.Rules.TerminalMessagesActByTheirAliveCounter : Prop :=
  (∀ (s : State) (c tid : Nat) (m : List Byte), s.boot.dataStopped = false → islDown s c = false → isC50 s c = false →
      treeOfTid tid = c / 4 → termEff s tid ≠ tsFree →
      (rxCrcOk m = false → exec (.tcmReceive c tid m) s
        = .next { s with tcm := { s.tcm with discards := mset 0 s.tcm.discards c (mget 0 s.tcm.discards c + 1) } })
      ∧ (rxCrcOk m = true → mtKnown (rxType m) = true → mtUpOnly (rxType m) = true → rxAddr m = tid →
      let upd := { s with tcm := { s.tcm with aliveUp := mput s.tcm.aliveUp tid (rxAlive m + 1) } }
      (s.tcm.aliveUp.find? (·.1 = tid) = none → exec (.tcmReceive c tid m) s = .next (tcmAct upd c tid m)
        ∧ (basic s 0 (c / 4) = true → rxType m = mtStatusReport →
          tcmAct upd c tid m = pmAdd upd c (slotOfTid tid) 12 (rxField m 6 4))
        ∧ (basic s 0 (c / 4) = true → rxType m = mtAck → exec (.tcmAckReceive c tid m) s = .next (ackTake upd tid m)))
      ∧ (∀ k l, s.tcm.aliveUp.find? (·.1 = tid) = some (k, l) →
          (modSub (rxAlive m + 1) l 65536 = 0 →
            exec (.tcmReceive c tid m) s = .next (evBit s (Adr.chnDiscEvent c) 5 c .corrected 0x0425))
          ∧ (1 ≤ modSub (rxAlive m + 1) l 65536 → modSub (rxAlive m + 1) l 65536 ≤ 32767 →
            exec (.tcmReceive c tid m) s = .next (tcmAct upd c tid m))
          ∧ (32767 < modSub (rxAlive m + 1) l 65536 → exec (.tcmReceive c tid m) s = .next s))
      ∧ (rxType m = mtAck → exec (.tcmAckReceive c tid m) s = exec (.tcmReceive c tid m) s)))
  ∧ (∀ (s : State) (tid : Nat) (w : TcmWait), tcmWaitOf s tid = some w → w.resends < 3 →
      (tcmQueue s w.chan).length < tcmDepth →
      ∃ t, exec (.tcmAckTimeout tid) s = .next t
        ∧ t.tcm.wait = mput s.tcm.wait tid { w with resends := w.resends + 1 }
        ∧ t.tcm.queue = mset [] s.tcm.queue w.chan ({ w.msg with resend := true } :: mget [] s.tcm.queue w.chan)
        ∧ t.regs = s.regs ∧ t.tabs = s.tabs)

/-- A write of word 10 of CHN_TCM_TX on an island that is up stages it and hands the staged message to the queue; CHN_TCM_TX completes: a
message of the owner of its TYPE's function with a good ADDR, flags and a downstream TYPE, with a free place, stands last in the queue and
CHN_TCM_TXSTAT reads QUEUED with the depth (R152). On a running C50 channel an unsupported PLOAM message counts, a Serial_Number_ONU in a
quiet window arrives at the basic level, and a Registration, a key report and an acknowledgement act for their terminal (R126). -/
def Sys2Proof.Rules.HostMessageBufferAndPloamMessages : Prop :=
  (∀ (s : State) (who : Requester) (c : Nat) (v : Word), islDown s c = false →
      let u := { s with acc := { s.acc with stage := mset 0 s.acc.stage (reqKey who (Adr.chnTcmTx c 10)) v } }
      let a := Adr.chnTcmTx c 10
      let b := (List.range 11).flatMap fun j => bytesBE 4 (mget 0 u.acc.stage (reqKey who (Adr.chnTcmTx c j))).toNat
      let addr := ofBytesBE (b.take 2)
      let typ := ofBytesBE ((b.drop 2).take 1)
      let fl := ofBytesBE ((b.drop 3).take 1)
      exec (.chnTcmTx who c v) s = .next (hostTcmTx u who c)
      ∧ (isOwner u who c (txFunc typ) (c / 4) = true → addr < 2 ^ 15 → fl < 2 → mtKnown typ = true → mtUpOnly typ = false →
        isC50 u c = false → (tcmQueue u c).length < tcmDepth →
        let m : QMsg :=
          { cls := mtClass typ, addr := addr, typ := typ, ack := fl == 1, body := padBody (b.drop 6),
            peer := txPeer u c addr typ (b.drop 6) }
        let w := setTcmQueue u c (tcmQueue u c ++ [m])
        exec (.chnTcmTx who c v) s
          = .next (wrOk (wrReq w who (Adr.chnTcmTxstat c) (BitVec.ofNat 32 (txQueued * 2 ^ 28 + (tcmQueue w c).length))) who a)))
  ∧ (∀ (s : State) (c tid typ serial delta idx : Nat) (w : List Byte), s.boot.dataStopped = false → islDown s c = false →
      isC50 s c = true → chnEff s c = chRun →
      (3 < typ → exec (.ploamReceive c tid typ serial delta idx w) s = .next (pmAddScope s c 0 6 1))
      ∧ (basic s 0 (c / 4) = true → quietSeen s c none = true →
          exec (.ploamReceive c tid 0 serial delta idx w) s = .next (arrive s
            { chan := c, delta := delta, serial := serial, caps := 0, nonce := 0, txLevel := 0, traceOk := false }))
      ∧ (basic s 0 (c / 4) = true → treeOfTid tid = c / 4 → termW s tid = c % 4 →
          exec (.ploamReceive c tid 3 serial delta idx w) s = .next (ploamAck s c tid)
          ∧ exec (.ploamReceive c tid 2 serial delta idx w) s = .next (keyReport s c tid idx w)
          ∧ exec (.ploamReceive c tid 1 serial delta idx w) s = .next (ploamRegistration s tid)))

/-- Terminal control messages. -/
def Obligations.TerminalMessagesActInBothDirections : Prop :=
  Sys2Proof.Rules.TerminalMessagesActByTheirAliveCounter ∧ Sys2Proof.Rules.HostMessageBufferAndPloamMessages

/-- The instruction that writes a STATE value of a terminal. -/
def Sys2Proof.Machine.termWriteOf (who : Requester) (tid expect det : Nat) : Nat → Option Instr
  | 0 => some (.termWriteFree who tid expect)
  | 1 => some (.termWriteAuthWait who tid expect)
  | 2 => some (.termWriteRanging who tid expect)
  | 3 => some (.termWriteKeying who tid expect)
  | 4 => some (.termWriteActive who tid expect)
  | 6 => some (.termWriteDisabled who tid expect det)
  | 7 => some (.termWriteOffline who tid expect)
  | _ => none

/-- A write of a terminal's STATE is accepted when EXPECT is its EPOCH and the row of R154 is one whose writer is an owner; each such write
makes the transition with its messages. Any other value is refused with OUT_OF_RANGE, a stale one with STALE, and one by no owner with
NOT_OWNER, and none of these changes the terminal (R25, R154). -/
def Sys2Proof.Rules.TerminalStateIsWrittenByTheRowsOfItsOwners : Prop :=
  ∀ (s : State) (who : Requester) (tid expect det dst : Nat) (i : Instr), termWriteOf who tid expect det dst = some i →
    let a := termAddr tid
    let t := treeOfTid tid
    let own (f : Nat) : Bool := isOwner s who (islandOf a) f t
    let row := termRow (termEff s tid) dst
    islDown s (islandOf a) = false → s.prt.standby = false →
    ((own 0 || own 3 || own 11) = true → expect = uEpoch s a →
      (((row.1 && own 0) || (row.2.1 && own 3) || (row.2.2 && own 11)) = true → dst ≠ tsDisabled →
        exec i s = .next (wrOk (termGo s tid dst (if dst = tsOffline then 2 else 0)) who a))
      ∧ (((row.1 && own 0) || (row.2.1 && own 3) || (row.2.2 && own 11)) = true → dst = tsDisabled →
        (det = 0 → exec i s = .next (wrOk (termGo s tid dst (if own 11 && !own 0 then 2 else 1)) who a))
        ∧ (det = 1 → exec i s = .next (if own 0 then wrOk (termGo s tid dst 1) who a else wrNotOwner s who a 0 t))
        ∧ (det = 2 → exec i s = .next (if own 11 then wrOk (termGo s tid dst 2) who a else wrNotOwner s who a 11 t))
        ∧ (2 < det → exec i s = .next (wrRefuse s who a .outOfRange)))
      ∧ (((row.1 && own 0) || (row.2.1 && own 3) || (row.2.2 && own 11)) = false → exec i s = .next (wrRefuse s who a .outOfRange)))
    ∧ ((own 0 || own 3 || own 11) = true → expect ≠ uEpoch s a → exec i s = .next (wrStale s who a))
    ∧ ((own 0 || own 3 || own 11) = false → exec i s = .next (wrNotOwner s who a 0 t))

/-- The TERM_WRITE commands complete, each on an island that is up, outside a standby device, with EXPECT the EPOCH, from each state that
R154's row names, by the row's owner: FREE and AUTH_WAIT only write the state; RANGING starts the registration again, a DISABLED terminal
being enabled first; KEYING starts the key exchange; ACTIVE, by the owner of function 3, ends the step under way; DISABLED and OFFLINE send
their messages, DISABLED giving up a Transit (R154). -/
def Sys2Proof.Rules.TerminalWritesComplete : Prop :=
  ∀ (s : State) (who : Requester) (tid expect : Nat),
    let a := termAddr tid
    let own (f : Nat) : Bool := isOwner s who (islandOf a) f (treeOfTid tid)
    let st := termEff s tid
    islDown s (islandOf a) = false → s.prt.standby = false → expect = uEpoch s a →
    (own 0 = true → st = tsAuthWait ∨ st = tsOffline →
      exec (.termWriteFree who tid expect) s = .next (wrOk (termMgmt s tid tsFree 0) who a))
    ∧ (own 0 = true → st = tsFree ∨ st = tsOffline →
      exec (.termWriteAuthWait who tid expect) s = .next (wrOk (termMgmt s tid tsAuthWait 0) who a))
    ∧ (own 0 = true → st = tsAuthWait ∨ st = tsOffline →
      exec (.termWriteRanging who tid expect) s = .next (wrOk (regStart (termMgmt s tid tsRanging 0) tid) who a))
    ∧ (own 0 = true → st = tsDisabled →
      exec (.termWriteRanging who tid expect) s
        = .next (wrOk (regStart (sendDisable (termMgmt s tid tsRanging 0) tid mtEnable) tid) who a))
    ∧ (own 0 = true → st = tsRanging →
      exec (.termWriteKeying who tid expect) s = .next (wrOk (keysStart (termMgmt s tid tsKeying 0) tid) who a))
    ∧ (own 3 = true → st = tsKeying →
      exec (.termWriteActive who tid expect) s = .next (wrOk (endStep (termMgmt s tid tsActive 0) tid) who a))
    ∧ (own 0 = true → tsAuthWait ≤ st → st ≤ tsLost →
      exec (.termWriteDisabled who tid expect 1) s = .next (wrOk (sendDisable (termMgmt s tid tsDisabled 1) tid mtDisable) who a))
    ∧ (own 11 = true → tsAuthWait ≤ st → st ≤ tsLost →
      exec (.termWriteDisabled who tid expect 2) s = .next (wrOk (sendDisable (termMgmt s tid tsDisabled 2) tid mtDisable) who a))
    ∧ (own 0 = true → st = tsTransit →
      exec (.termWriteDisabled who tid expect 1) s
        = .next (wrOk (sendDisable (trDisabled (termMgmt s tid tsDisabled 1) tid) tid mtDisable) who a))
    ∧ (own 0 = true → tsAuthWait ≤ st → st ≤ tsDisabled →
      exec (.termWriteOffline who tid expect) s = .next (wrOk (sendDeactivate (termMgmt s tid tsOffline 2) tid) who a))

/-- Whatever the state, a unit's accepted write puts its STATE and DETAIL and advances its EPOCH by one modulo 256, its EXPECT byte reading
0, and changes no other register (R24, R25). -/
def Obligations.AcceptedUnitWriteAdvancesTheEpochByOne : Prop :=
  ∀ (s : State) (a st det : Nat), Canon s →
    uState (unitAccept s a st det) a = st % 256 ∧ uDetail (unitAccept s a st det) a = det % 256
      ∧ uEpoch (unitAccept s a st det) a = (uEpoch s a + 1) % 256
      ∧ rf (unitAccept s a st det) a 23 16 = 0
      ∧ (∀ b, b ≠ a → rd (unitAccept s a st det) b = rd s b)
      ∧ effState (unitAccept s a st det) a = uState (unitAccept s a st det) a

/-- AUTH_TIMEOUT takes a terminal from AUTH_WAIT to FREE, LOST_TIMEOUT one from LOST to OFFLINE with DETAIL 1 (R154, R156); in other states
they find nothing. The owner of function 0 at the expert level commits TRE_TERM_INFO with its reserved bits 0 (R164). -/
def Sys2Proof.Rules.TerminalTimersAndInformation : Prop :=
  (∀ (s : State) (tid : Nat),
      (termEff s tid = tsAuthWait → exec (.authTimeout tid) s = .next (termData s tid tsFree 0))
      ∧ (termEff s tid ≠ tsAuthWait → exec (.authTimeout tid) s = .next s)
      ∧ (termEff s tid = tsLost → exec (.lostTimeout tid) s = .next (termData s tid tsOffline 1))
      ∧ (termEff s tid ≠ tsLost → exec (.lostTimeout tid) s = .next s))
  ∧ (∀ (s : State) (who : Requester) (tid v : Nat), let a := infoAddr tid
      islDown s (islandOf a) = false → isOwner s who (islandOf a) 0 (treeOfTid tid) = true →
      ownerAt s (islandOf a) 0 (treeOfTid tid) = 1 → nfld (putNfld v 23 16 0) 36 35 = termW s tid →
      termW (wrW s a (putNfld v 23 16 0) 4) tid = termW s tid →
      exec (.treTermInfoWrite who tid v) s = .next (wrOk (wrW s a (putNfld v 23 16 0) 4) who a))

/-- TERM_AUTHORIZE, TERM_STATE and TERM_MSG complete as ring commands (R142, R394): with the security module not in ERROR, at the basic
level, a REJECT frees the terminal in AUTH_WAIT and a DISABLE disables it; an ACCEPT whose key unwraps under the partition's key stores it
and starts the ranging; a TERM_STATE with the terminal's epoch makes the row's transition as the owner; a TERM_MSG queues the message;
each ends DONE. -/
def Sys2Proof.Rules.TerminalRingCommandsAreDone : Prop :=
  ∀ (s : State) (r tid : Nat),
    let u := ringStep s r
    let x := slotCtx s r
    (∀ ser part kek, ringTakes s r 0x1001 → rf u Adr.secStatus 31 28 ≠ 2 → serialWaits u ser = some tid → part < 64 →
      slotOfTid tid < slotLimit u (treeOfTid tid) →
      tidOf (treeOfTid tid) (slotOfTid tid) = tid → (x.fn = 0 ∨ part = x.fn - 1) → basic u 0 (treeOfTid tid) = true →
      exec (.termAuthorize r ser 1 0xFFFF part kek) s = .next (cmdPut (termMgmt u tid tsFree 0) x doneRec)
      ∧ exec (.termAuthorize r ser 2 0xFFFF part kek) s
          = .next (cmdPut (sendDisable (termMgmt u tid tsDisabled 3) tid mtDisable) x doneRec)
      ∧ (∀ m, mget [] u.keys.ktk part ≠ [] → Config.keyUnwrap (mget [] u.keys.ktk part) kek = some m →
        let v := storeKek (setInfo u tid 34 29 part) tid m
        exec (.termAuthorize r ser 0 0xFFFF part kek) s = .next (cmdPut (regStart (termMgmt v tid tsRanging 0) tid) x doneRec)))
    ∧ (∀ dst, ringTakes s r 0x1003 → cmdTidOk u x.fn tid = true → basic u 0 (treeOfTid tid) = true → x.expect = uEpoch u (termAddr tid) →
      (termRow (termEff u tid) dst).1 = true → dst ≠ tsDisabled →
      exec (.termState r tid dst 0) s = .next (let v := termGo u tid dst (if dst = tsOffline then 2 else 0)
        cmdPut v x { doneRec with epoch := uEpoch v (termAddr tid), ustate := effState v (termAddr tid) }))
    ∧ (∀ typ ack body v, ringTakes s r 0x1004 → cmdTidOk u x.fn tid = true → mtKnown typ = true → mtUpOnly typ = false →
      isC50 u (termChan u tid) = false → basic u (txFunc typ) (treeOfTid tid) = true →
      tcmPush u (termChan u tid) (msgTo tid typ ack body) = some v →
      exec (.termMsg r tid typ ack body) s = .next (cmdPut v x doneRec))

/-- Terminal states. -/
def Obligations.TerminalStatesFollowTheirOwnersTimersAndCommands : Prop :=
  Sys2Proof.Rules.TerminalStateIsWrittenByTheRowsOfItsOwners
    ∧ Sys2Proof.Rules.TerminalWritesComplete
    ∧ Sys2Proof.Rules.TerminalTimersAndInformation
    ∧ Sys2Proof.Rules.TerminalRingCommandsAreDone

/-- A write of TRE_ROGUE_CFG by the owner of function 11 stores its settings within their limits; START begins a localization on the
wavelength with a baseline of 32 windows, CLEAR ends one with STATE IDLE (R159, R162). A baseline of 32 windows with fewer than 4 of
energy is TRANSIENT; a persistent rogue's DISABLE is repeated (R159, R162). -/
def Obligations.RogueLocalizationStartsClearsAndGoesOn : Prop :=
  (∀ (s : State) (who : Requester) (t : Nat) (v : Word), let a := Adr.treRogueCfg t
      islDown s (islandOf a) = false → isOwner s who (islandOf a) 11 t = true →
      let x := putFld (putFld (putFld v 29 28 0) 25 24 0) 19 16 0
      let x := putFld (putFld (putFld x 23 20 (max 1 (fld v 23 20))) 15 8 (max 4 (fld v 15 8))) 7 0 (max 8 (fld v 7 0))
      (v.toNat.testBit 28 = true → v.toNat.testBit 29 = false →
        exec (.rogueStart who t v) s = .next (wrOk (rogueStart (wr s a x) t (fld v 27 26)) who a))
      ∧ (v.toNat.testBit 29 = true → v.toNat.testBit 28 = false →
        exec (.rogueClear who t v) s = .next (wrOk (rogueStop (wr s a x) t rgIdle) who a)))
  ∧ (∀ (s : State) (t n k : Nat) (e : Bool), (rogueOf s t).phase = .baseline n k →
      (n < 31 → exec (.probeWindowEnd t e) s = .next (probeWindow (setPhaseR s t (.baseline (n + 1) (k + b2n e))) t none))
      ∧ (n = 31 → k + b2n e < 4 → exec (.probeWindowEnd t e) s = .next (rogueStop s t rgTransient)))
  ∧ (∀ (s : State) (t n x : Nat), (rogueOf s t).phase = .persist n → (rogueOf s t).tid = some x →
      exec (.rogueDisableRepeat t) s = .next (sendDisable s x mtDisable))

/-! ## Grants (R165 to R196) -/

/-- CHN_GE_SYSREQ and GE_RING_WR_IDX complete: a SYSREQ of the owner of function 0 that passes the checks of R186 is booked, CHN_GE_SYSSTAT reads OK with the bookings of the
cycle, and the write reports OK; one that fails a check books nothing, counts under code 13, and CHN_GE_SYSSTAT names the check.
WR_IDX of the input ring is taken while at most 16 records wait past RD_IDX, else refused (R186, R191). -/
def Sys2Proof.Rules.BookingsAndRingRecordsAreTakenWithinTheirChecks : Prop :=
  ∀ (s : State) (who : Requester) (c v : Nat), islDown s c = false →
    let kind := nfld v 79 78
    let b : Booking := { cycle := nfld v 127 80, kind := kind, start := nfld v 77 61, len := nfld v 60 44,
                         tcm := nbit v 43, id := if kind = 2 then nfld v 35 28 else nfld v 42 28 }
    (isOwner s who c 0 (c / 4) = true →
      (bookCheck s c b = bkOk → exec (.chnGeSysreq who c v) s
        = .next (wrOk (wrReq (setBooks s c (booksOf s c ++ [b])) who (Adr.chnGeSysstat c)
            (BitVec.ofNat 32 ((booksAt s c b.cycle).length + 1))) who (Adr.chnGeSysreq c)))
      ∧ (bookCheck s c b ≠ bkOk → exec (.chnGeSysreq who c v) s
        = .next (wrRefuse (geCount (wrReq s who (Adr.chnGeSysstat c)
            (BitVec.ofNat 32 (bookCheck s c b * 2 ^ 28 + (booksAt s c b.cycle).length))) c 13 1) who (Adr.chnGeSysreq c) .unitRefused)))
    ∧ (isOwner s who c 1 (c / 4) = true → let a := Adr.chnGeRingCtl c
        let wait := modSub (v % 32) (rf s a 20 16) 32
        (wait ≤ 16 → exec (.geRingWrIdx who c v) s = .next (wrOk (wf s a 4 0 v) who a))
        ∧ (16 < wait → exec (.geRingWrIdx who c v) s = .next (wrRefuse s who a .outOfRange)))

/-- A booking stands only where it fits (R186): a check that answers OK means a cycle not yet built and at most 64 ahead, outside quiet
windows, a REGISTRATION span of at least 1,841 within the cycle, fewer bookings than SYS_ENTRIES, no booking of the cycle overlapped, and
every held burst of this and the next cycle, and the last one of the cycle before, at least 704 away at its START. -/
def Sys2Proof.Rules.BookedGrantsFitTheirCycle : Prop :=
  ∀ (s : State) (c : Nat) (b : Booking), bookCheck s c b = bkOk ↔
    (b.kind ≠ 0 ∧ b.kind ≠ 3 ∧ (b.kind = 1 → treeOfTid b.id = c / 4))
    ∧ nextBuild s c ≤ b.cycle ∧ b.cycle ≤ cycleNow s + 64 ∧ inQuiet s c b.cycle = false
    ∧ (b.kind = 2 → 1841 ≤ b.len) ∧ b.start + b.len ≤ 110000
    ∧ (booksAt s c b.cycle).length < sysEntries s c
    ∧ (∀ x, x ∈ booksAt s c b.cycle → x.start + x.len ≤ b.start ∨ b.start + b.len ≤ x.start)
    ∧ openFrom s c b.cycle ≤ b.start
    ∧ (∀ x, x ∈ heldSpans s c b.cycle → (x.start + x.len ≤ b.start ∨ b.start + b.len ≤ x.start)
        ∧ (x.burst = true → x.start + 704 ≤ b.start ∨ b.start + 704 ≤ x.start))
    ∧ (geMode s c = 2 → sysStart s c ≤ b.start)

/-- Bookings and constant-rate entries. -/
def Obligations.BookingsAndConstantRatesAreTakenWithinTheirChecks : Prop :=
  Sys2Proof.Rules.BookingsAndRingRecordsAreTakenWithinTheirChecks
    ∧ Sys2Proof.Rules.BookedGrantsFitTheirCycle
    ∧ Sys2Proof.Rules.ConstantRateEntryIsTakenWithinItsLimits

/-- GRANT_BUILD completes on a running N200 channel whose island is up, once per cycle (R177): in a quiet window it commits a build without
an entry, the credits gaining; in mode BASIC with no ring record it commits the bookings of the channel and the engine with the bursts
of the steps of R178; with a ring record for the cycle it commits that record, as a template or as RAW; in mode RAW without one it raises
RING_EMPTY and sends the bookings alone, or the steps of R178 where the fallback is on (R190 to R195). Then the cycle counts as built;
on a channel not in RUN nothing is built. -/
def Obligations.GrantBuildMakesTheNextCyclesEphemeris : Prop :=
  ∀ (s : State) (c : Nat), s.boot.dataStopped = false → let m := cycleNow s + 1
    (chnEff s c ≠ chRun → chnEff s c ≠ chEclipseEntering → exec (.grantBuild c) s = .next s)
    ∧ (mget 0 s.grant.built c = m + 1 → exec (.grantBuild c) s = .next s)
    ∧ (mget 0 s.grant.built c ≠ m + 1 → chanValid s c = true → chnEff s c = chRun → islDown s c = false → isC50 s c = false →
        (inQuiet s c m = true → exec (.grantBuild c) s = .next (commitCharged (geTake c m 16 s).1 c m [] [] [] {}))
        ∧ (inQuiet s c m = false →
          let w := (geTake c m 16 (engineBooks s c m)).1
          let full (u : State) : State := commitBursts u c m (buildSteps u c m (heldSpans u c m) (booksAt u c m).length [])
          ((geTake c m 16 (engineBooks s c m)).2 = none → geMode w c ≠ 2 → exec (.grantBuild c) s = .next (full w))
          ∧ ((geTake c m 16 (engineBooks s c m)).2 = none → geMode w c = 2 →
              exec (.grantBuild c) s = .next (let u := geEvent w c 4
                if rb u (Adr.chnGeCfg c) 29 then full u else commitBursts (rawMsgs u c m [] []) c m {}))
          ∧ (∀ i, (geTake c m 16 (engineBooks s c m)).2 = some i →
              exec (.grantBuild c) s = .next (if geMode w c = 1 then buildTemplate w c m i else buildRaw w c m i)))
        ∧ ∃ t, exec (.grantBuild c) s = .next t ∧ mget 0 t.grant.built c = m + 1)

/-! ## Downstream queues, gates and samplers (R201 to R225) -/

/-- FRAME_ENQUEUE completes: the first forwarded frame that does not wait for its buffer goes to its queues by R201; a frame for one queue
that admits it, with a buffer found, is put there with its buffer and its queue's name. SCHEDULER_SELECT completes: a selection sends one
frame of the queue that R204 selects, charged on its path, counted and freed, the line idle up to its start; or nothing where 64 KiB
wait, no queue is eligible or the line is past the packet area (R204 to R206, R215). -/
def Sys2Proof.Rules.FramesAreQueuedSelectedAndSent : Prop :=
  (∀ (s : State) (busy : Nat), s.boot.dataStopped = false →
      (s.flow.out = [] → exec (.frameEnqueue busy) s = .next s)
      ∧ (∀ i f ks, (s.flow.out.findIdx? fun x => !ctrlWaits s x.1) = some i → s.flow.out[i]? = some (f, ks) →
          exec (.frameEnqueue busy) s = .next (enqueue { s with flow := { s.flow with out := s.flow.out.eraseIdx i } }
            { f with cl := egrNow s f.cl } ks busy)))
  ∧ (∀ (s u : State) (f : Frame) (k h busy : Nat), k < 2 ^ 20 → qAdmit s k f.cl = none → f.cl.kind ≠ ClauseKind.tracer.code →
      placeFrame s f.cl.kind f.cl.part f.cl.len (colourOf f.cl.dp) (qCellBytes s k) [qHolder k] busy = (some h, u) →
      enqueue s f [k] busy = qTake u k { f.cl with buf := h, queue := k } f)
  ∧ (∀ (s : State) (c line : Nat), s.boot.dataStopped = false →
      (sendsCycles s c = false ∨ packetArea s c ≤ line → exec (.schedulerSelect c line) s = .next s)
      ∧ (sendsCycles s c = true → line < packetArea s c →
          let u := qCleanAll s (chanQueues s c)
          let pos := linePos u c line
          let now := cyclePs (cycleNow u) + leavePs u c line
          let m := markFits u (chanQueues u c) (lineFits u c pos)
          (line + 65536 ≤ pos → exec (.schedulerSelect c line) s = .next u)
          ∧ (pos < line + 65536 → selectQueue m c pos now = none → exec (.schedulerSelect c line) s = .next m)
          ∧ (∀ q path f, pos < line + 65536 → selectQueue m c pos now = some (q, path) → qHead m q = some f →
              f.cl.kind ≠ ClauseKind.tracer.code →
              exec (.schedulerSelect c line) s = .next
                (let v := dsQueue m q
                 let tag := sendTag m (qTid v)
                 let len := chargedWith v f.len tag
                 let pl := placeAt (packetArea m c) (areaAfter m c) pos f.len tag
                 let x := lineIdle (chargePath (trace m f.cl stSelect qIsland q (qDepth m q)) now len path) c pl.start
                 let t := if isN200 x c then sendFrame x c q f pl else sendC50 x c q f pl.start
                 let y := qFree (qPop (countSent (advanceLine t c (lineStop x t c pl.stop)) c q f len) q) q f
                 trace y f.cl stTransmit c f.cl.egr (cycleNow y)))))

/-- The charged length of a frame (R203): its bytes with 8 of header, the tag and the queue's signed LEN_ADJ, at least 1. -/
def Sys2Proof.Rules.ChargedLengthAddsHeaderTagAndAdjustment : Prop :=
  ∀ (v len tag : Nat), let x : Int := ((8 + len + tag : Nat) : Int) + signed 6 (nfld v 119 114)
    ((chargedWith v len tag : Nat) : Int) = max 1 x

/-- Downstream frames. -/
def Obligations.FramesAreQueuedSelectedChargedAndSent : Prop :=
  Sys2Proof.Rules.FramesAreQueuedSelectedAndSent ∧ Sys2Proof.Rules.ChargedLengthAddsHeaderTagAndAdjustment

/-- The gate-list commands complete (R213 to R220): the running list's next entry starts and sets the gates; INSTALL by the unit's owner makes a good admin
list pending until S, and a bad one is refused; ENABLE = 0 stops both lists and the DEFAULT_GATES hold; at S the pending list runs from entry 0. S lies
on the list's cycle grid, at least 2 us on and less than one cycle later than need be. -/
def Sys2Proof.Rules.GateListsInstallStartRunAndStop : Prop :=
  (∀ (s : State) (x : Nat) (l : GclList), (gclOf s x).run = some l →
      let es := gclCut l.entries l.cycle
      let i := if rf s (gclStat x) 7 0 + 1 < es.length then rf s (gclStat x) 7 0 + 1 else 0
      ∀ g n, es[i]? = some (g, n) → exec (.gateEntryChange x) s = .next (gatesTake (wf s (gclStat x) 7 0 i) x g))
  ∧ (∀ (s : State) (who : Requester) (x : Nat), unitOk s x = true → islDown s (islandOf (gclCtl x)) = false →
      (if x < 256 then isOwner s who x 2 (x / 4) else isPfSide s who) = true →
      (∀ tb base cyc es, adminList s x = some (tb, base, cyc, es) → ∃ t, exec (.gclInstall who x) s = .next (wrOk t who (gclCtl x))
        ∧ (gclOf t x).run = (gclOf s x).run
        ∧ (gclOf t x).next = some ⟨tb, (gclStartAt (baseAt s tb (freeVal s % 25626)) base cyc).1, cyc, es⟩)
      ∧ (adminList s x = none → exec (.gclInstall who x) s = .next (wrRefuse s who (gclCtl x) .outOfRange))
      ∧ exec (.gclDisable who x) s = .next (
          let g := rf s (gclStat x) 15 8
          let u := gclDisable (wb s (gclCtl x) 31 false) x
          wrOk (gatesTake (wf u (gclStat x) 15 8 g) x (defaultGates u x)) who (gclCtl x)))
  ∧ (∀ (s : State) (x : Nat) (l : GclList), (gclOf s x).next = some l → rb s (gclCtl x) 31 = true →
      let a := gclStat x
      let g := ((gclCut l.entries l.cycle).getD 0 (defaultGates (setGcl s x { run := some l, next := none }) x, 0)).1
      let u := gclEvent (gclShowEntries (wf (wf (wf (wf (setGcl s x { run := some l, next := none }) a 31 31 1) a 30 30 0) a 7 0 0)
        a 15 8 g) x l) x 0
      exec (.gclStart x) s = .next (gatesTake (wf u a 15 8 (rf s a 15 8)) x (rf u a 15 8)))
  ∧ (∀ now base cyc : Nat, 0 < cyc →
      let r := (gclStartAt now base cyc).1
      now + 2000 * 65536 ≤ r ∧ base ≤ r ∧ (r - base) % (cyc * 65536) = 0
        ∧ (base < r → r < now + 2000 * 65536 + cyc * 65536))

/-- SAMPLER_PERIOD completes: a period of an enabled sampler writes its header and then the records of the first n queues, at most what its
burst holds; the rest is cut, which the next header's flag 0 and the upper half of DTM_SMP_STAT tell; SEQ advances by one and the rotation
by SEL_COUNT modulo its range; the instants of the header and the records are free (log 2) (R223 to R225). -/
def Sys2Proof.Rules.SamplerPeriodWritesHeaderThenRecords : Prop :=
  ∀ (s : State) (i n : Nat), i < 8 → s.boot.dataStopped = false →
    (rb s (Adr.dtmSmpCtl i) 31 = false → exec (.samplerPeriod i n) s = .next s)
    ∧ (rb s (Adr.dtmSmpCtl i) 31 = true →
        let k := min n (64 * rf s (Adr.dtmSmpCtl i) 19 0 - 1)
        ∃ t, exec (.samplerPeriod i n) s = .next t
          ∧ mget 0 t.sched.smpSeq i = (mget 0 s.sched.smpSeq i + 1) % 65536
          ∧ t.freeCtr = s.freeCtr + 1 + min k (smpQids s i).length
          ∧ (mget 0 t.sched.smpFlags i).testBit 0 = decide (k < (smpQids s i).length)
          ∧ t.sched.queues = s.sched.queues ∧ t.tabs = s.tabs ∧ t.hostMem = s.hostMem ∧ t.sent = s.sent)

/-- Gate lists and samplers. -/
def Obligations.GateListsAndSamplersRun : Prop :=
  Sys2Proof.Rules.GateListsInstallStartRunAndStop ∧ Sys2Proof.Rules.SamplerPeriodWritesHeaderThenRecords

/-! ## Transit, Eclipse, folding, balancing (R228 to R248) -/

/-- TRANSIT_REQ_START, TRANSIT_REQ_CANCEL and TERM_TRANSIT complete. A Transit request by the owner of function 5 with the terminal's epoch: START that fails no check of R229 is accepted with its switch
cycle, the terminal in TRANSIT with PHASE TUNING and TUNE queued; a failed check refuses it with its STATUS. CANCEL more than 3 ms before
the switch returns the terminal to ACTIVE. TERM_TRANSIT makes the same request as a command (R228 to R231, R241). A request with
a failed check starts nothing, and a switch cycle is at least 10 ms away (R230). -/
def Sys2Proof.Rules.TransitRequestsAreCheckedAcceptedAndCancelled : Prop :=
  (∀ (s : State) (who : Requester) (t v ofs : Nat), let a := Adr.treTransitReq t
      let tid := tidOf t (nfld v 67 59)
      let w := nfld v 69 68
      let x := if nfld v 127 80 = 0 then firstSwitch (cycleNow s) ofs else nfld v 127 80
      islDown s (islandOf a) = false → isOwner s who (islandOf a) 5 t = true → nfld v 79 72 = uEpoch s (termAddr tid) →
      (nfld v 71 70 = 0 → trCheck s tid w x ofs = none →
        exec (.transitReqStart who t v ofs) s = .next (wrOk (trResult (trAccept s tid w x .none) who t tid .ok x) who a))
      ∧ (∀ st, nfld v 71 70 = 0 → trCheck s tid w x ofs = some st →
        exec (.transitReqStart who t v ofs) s = .next (wrRefuse (trResult s who t tid st 0) who a st.toWr))
      ∧ (∀ r, nfld v 71 70 = 1 → trRec s tid = some r → r.recover = false → trPhase s tid < phSwitched →
          3000000 ≤ leadNs (cycleNow s) ofs r.x →
          exec (.transitReqCancel who t v ofs) s = .next (wrOk (trResult (trBack s tid rsCancelled true) who t tid .ok 0) who a)))
  ∧ (∀ (s : State) (r tid w x0 ofs : Nat),
      let u := ringStep s r
      let k := slotCtx s r
      let x := if x0 = 0 then firstSwitch (cycleNow u) ofs else x0
      ringTakes s r 0x1002 → cmdTidOk u k.fn tid = true → basic u 5 (treeOfTid tid) = true → k.expect = uEpoch u (termAddr tid) →
      (tcmQueue u (termChan u tid)).length < tcmDepth → trCheck u tid w x ofs = none →
      exec (.termTransit r tid w x0 ofs) s = .next (cmdPut (trAccept u tid w x (.cmd k)) k {}))
  ∧ (∀ (s : State) (tid w x ofs : Nat), trCheck s tid w x ofs = none →
      termEff s tid = tsActive ∧ w ≠ termW s tid ∧ chnEff s (chanOf (treeOfTid tid) w) = chRun
        ∧ (trTids s (treeOfTid tid)).length < maxInflight s (treeOfTid tid)
        ∧ 10000000 + ofs ≤ (x - cycleNow s) * 15625 ∧ x ≤ cycleNow s + 65536)

/-- TRANSIT_SWITCH, TRANSIT_DS_KEYS_MOVED and TRANSIT_US_MOVE complete. At the switch instant an armed Transit is SWITCHED: the terminal's W is the destination, its messages wait there, an unacknowledged one
as a resend (R234 step 3, R237). After it the downstream keys move, once, and the upstream keys with the frames held there, once
(R234 steps 4 and 7, R236). -/
def Sys2Proof.Rules.TransitSwitchMovesTheTerminalItsMessagesAndKeys : Prop :=
  ∀ (s : State) (tid : Nat) (r : TransitRec), trRec s tid = some r →
    let src := trSrc s tid
    let dest := trDest s tid
    (trPhase s tid = phArmed → r.x ≤ cycleNow s → exec (.transitSwitch tid) s = .next
      (let u := setPhase (setInfo s tid 36 35 (dest % 4)) tid phSwitched
       let u := sendKek (tlrInvalidate u dest (slotOfTid tid)) dest tid
       let mine := (tcmQueue u src).filter fun m => m.peer == some tid
       let u := setTcmQueue u src ((tcmQueue u src).filter fun m => m.peer != some tid)
       let u := setTcmQueue u dest (tcmQueue u dest ++ mine)
       let u := match tcmWaitOf u tid with | some w => tcmResend u tid { w with chan := dest } | none => u
       pmSuspectMark (pmSuspectMark (termFresh u tid) src (slotOfTid tid + 1)) dest (slotOfTid tid + 1)))
    ∧ (trPhase s tid ≠ phArmed ∨ cycleNow s < r.x → exec (.transitSwitch tid) s = .next s)
    ∧ (phSwitched ≤ trPhase s tid →
        (rb s (trAddr tid) 23 = false →
          exec (.transitDsKeysMoved tid) s = .next (wb (moveSlots s src dest tid r.bundle [0, 1]) (trAddr tid) 23 true))
        ∧ (rb s (trAddr tid) 23 = true → exec (.transitDsKeysMoved tid) s = .next s)
        ∧ (r.recover = false → rb s (trAddr tid) 22 = false → exec (.transitUsMove tid) s = .next
            (let u := trUsKeys s tid
             let u := match trRec u tid with | some r => setTrRec u tid { r with held := [] } | none => u
             usBursts (if r.heard then trLanded u tid else u) (trDest s tid) tid r.held)))

/-- Transits. -/
def Obligations.TransitsAreCheckedSwitchedAndCancelled : Prop :=
  Sys2Proof.Rules.TransitRequestsAreCheckedAcceptedAndCancelled
    ∧ Sys2Proof.Rules.TransitSwitchMovesTheTerminalItsMessagesAndKeys

/-- A channel's Eclipse (R243 to R245): ECLIPSE_ENTERING is accepted of a running N200 channel beside another one in RUN; empty, it enters
ECLIPSE, its island GATED; not empty in time, it returns to RUN. WAKING is accepted of an eclipsed channel; it reaches RUN, or after 20 ms
its island is lost: CONTAINED 0x04F2, FAULT with DETAIL 2 (R117). Each of these commands completes so. -/
def Sys2Proof.Rules.ChannelsEnterEclipseAndWake : Prop :=
  ∀ (s : State) (c : Nat),
    (∀ (who : Requester) (ex : Nat), let a := Adr.chnState c
      islDown s (islandOf a) = false → isOwner s who (islandOf a) 5 (c / 4) = true → s.prt.standby = false → ex = uEpoch s a →
      isN200 s c = true → applyHolds s (c / 4) = false →
      (chnEff s c = chRun → otherRuns s c = true →
        exec (.chnStateEclipseEntering who c ex) s = .next (wrOk (eclipseEntering s c) who a))
      ∧ (chnEff s c = chEclipse → exec (.chnStateWaking who c ex) s
        = .next (wrOk (showEclipsed (treeFollow (setIsl (unitAccept s a chWaking 0) c islRun) (c / 4)) (c / 4)) who a)))
    ∧ (chnEff s c = chEclipseEntering →
        (chanEmpty s c = true → exec (.eclipseEnter c) s = .next
          (let u := setIsl (chnChange s c chEclipse 0) c islGated
           let u := satF (pmSuspectMark (keyEraseChan (clearTlrs u c) c kdTerminal) c 0) (Adr.chnEclStat c) 31 16 1
           foldGo (showEclipsed u (c / 4)) (c / 4))
         ∧ exec (.eclTimeout c) s = .next s)
        ∧ (chanEmpty s c = false → exec (.eclipseEnter c) s = .next s
         ∧ exec (.eclTimeout c) s = .next (trEvent (wf (chnChange s c chRun 0) (Adr.chnEclStat c) 3 0 1) (c / 4) 5 c)))
    ∧ (chnEff s c = chWaking →
        (chanValid s c = true → islState s c ≠ islLost → exec (.wakeTimeout c) s = .next
          (let u := setIsl (chanStop s c) c islLost
           raise (if chnEff u c = chOff then u else chnChange u c chFault 2) c .contained 0x04F2))
        ∧ ∀ ms, foldState (wf (wf (chnChange s c chRun 0) (Adr.chnEclStat c) 15 8 (min ms 255)) (Adr.chnComaStat c) 31 28
              (min 12 (rf (wf (chnChange s c chRun 0) (Adr.chnEclStat c) 15 8 (min ms 255)) (Adr.treDiscCfg (c / 4)) 19 16))) (c / 4) ≠ 3 →
          exec (.wakeComplete c ms) s = .next
            (let u := wf (chnChange s c chRun 0) (Adr.chnEclStat c) 15 8 (min ms 255)
             wf u (Adr.chnComaStat c) 31 28 (min 12 (rf u (Adr.treDiscCfg (c / 4)) 19 16))))
    ∧ (chnEff s c ≠ chWaking → exec (.wakeTimeout c) s = .next s ∧ ∀ ms, exec (.wakeComplete c ms) s = .next s)

/-- Firmware's fold and balance policies at the basic level of function 5 (R246 to R248): a folded tree outside its window unfolds; an
unfolded one in its window, enabled, at or below its load and fitting, begins to fold; with a spread above the limit the terminal nearest
half of it moves from the busiest channel to the least busy by Transit where no check of R229 fails; else, and at the expert level, neither
does anything. FOLD_MINUTE and BALANCE_CHECK complete so. -/
def Sys2Proof.Rules.FoldAndBalancePoliciesAct : Prop :=
  ∀ (s : State) (t : Nat), let cfg := rdW s (Adr.treFoldCfg t) 2
    (basic s 5 t = false → ∀ l a ls ts, exec (.foldMinute t l a) s = .next s ∧ exec (.balanceCheck t ls ts) s = .next s)
    ∧ (∀ aw l a, basic s 5 t = true → baseState s 0 ≠ 0 → foldAnchor s t = some aw →
        let inW := inWindow (minuteOfDay s) (nfld cfg 61 51) (nfld cfg 50 40)
        (foldState s t = 2 → inW = false → exec (.foldMinute t l a) s = .next (unfold s t aw))
        ∧ (foldState s t = 0 → inW = true → nbit cfg 63 = true → l ≤ nfld cfg 39 33 → foldFits s t aw = true → foldWaves s t ≠ [] →
            exec (.foldMinute t l a) s = .next (let u := { s with reg := { s.reg with anchor := mput s.reg.anchor t aw } }
              foldGo (wf (setFold u t 1) (Adr.treFoldStat t) 15 0 0) t))
        ∧ (foldState s t = 0 → inW = false → exec (.foldMinute t l a) s = .next s))
    ∧ (∀ hi lo tid load, basic s 5 t = true → nbit cfg 62 = true → foldState s t = 0 → hi.2 > lo.2 + nfld cfg 25 19 →
        (∀ p, p ∈ [lo, hi] → p.1 < 4 ∧ chnEff s (chanOf t p.1) = chRun ∧ isN200 s (chanOf t p.1) = true) →
        termW s tid = hi.1 → treeOfTid tid = t → termEff s tid = tsActive →
        trCheck s tid lo.1 (firstSwitch (cycleNow s) 1) 1 = none →
        exec (.balanceCheck t [lo, hi] [(tid, load)]) s = .next (trAccept s tid lo.1 (firstSwitch (cycleNow s) 1) .none))

/-- Eclipse, fold and balance. -/
def Obligations.ChannelsEclipseFoldAndBalance : Prop :=
  Sys2Proof.Rules.ChannelsEnterEclipseAndWake ∧ Sys2Proof.Rules.FoldAndBalancePoliciesAct

/-! ## Keys (R249 to R270) -/

/-- CHN_KEY_INSTALL, KEY_SLOT_ERASE and KEY_SLOT_ACTIVATE complete. An install whose key unwraps and which passes the checks of R255 is taken: the slot is READY with the key's generation, tag length,
limit and an INVOC of 0, its epoch one more, and CHN_KEY_INSTALL_STAT reads OK; a key that does not unwrap, LIMIT 0 or generation 0
is refused. An erase leaves the slot EMPTY with DETAIL COMMAND, an activation of a READY downstream slot makes it the sending
key (R254, R255, R258, R268). -/
def Sys2Proof.Rules.KeySlotsAreInstalledActivatedAndErased : Prop :=
  ∀ (s : State) (who : Requester) (c : Nat), islDown s c = false → isOwner s who c 3 (c / 4) = true → s.prt.standby = false →
    (∀ v, let k := nfld v 503 493
      let gen := nfld v 466 451
      let lim := nfld v 490 467
      let kek := chanKek s c (slotTid c k)
      let stat (u : State) (r : KeyRes) : State := wrReq u who (Adr.chnKeyInstallStat c)
        (BitVec.ofNat 32 (r.code * 2 ^ 28 + uEpoch u (keyAddr c k) * 2 ^ 16 + uState u (keyAddr c k) * 2 ^ 8))
      nfld v 511 504 = uEpoch s (keyAddr c k) →
      (∀ m, Config.keyUnwrap kek (bytesBE 40 (nfld v 319 0)) = some m → installCheck s c k gen lim (!kek.isEmpty) (some m) = .ok →
        exec (.keyInstall who c v) s
          = .next (wrOk (stat (installKey s c k gen lim (nbit v 492) m) .ok) who (Adr.chnKeyInstall c)))
      ∧ (Config.keyUnwrap kek (bytesBE 40 (nfld v 319 0)) = none → installCheck s c k gen lim (!kek.isEmpty) none = .unwrapFail →
        exec (.keyInstall who c v) s
          = .next (wrRefuse (ciphCount (stat s .unwrapFail) c 10 1) who (Adr.chnKeyInstall c) .unitRefused))
      ∧ (lim = 0 ∨ gen = 0 → exec (.keyInstall who c v) s
          = .next (wrRefuse (ciphCount (stat s .outOfRange) c 10 1) who (Adr.chnKeyInstall c) .outOfRange)))
    ∧ (∀ k ex, isOwner s who (islandOf (keyAddr c k)) 3 (c / 4) = true → islDown s (islandOf (keyAddr c k)) = false →
      ex = uEpoch s (keyAddr c k) →
      (keyEff s c k ≠ ksEmpty → exec (.keySlotErase who c k ex) s = .next (wrOk (keyErase s c k kdCommand) who (keyAddr c k)))
      ∧ (keyEff s c k = ksReady → slotDir k = 0 →
          exec (.keySlotActivate who c k ex) s = .next (wrOk (keyActivate s c k) who (keyAddr c k)))
      ∧ (keyEff s c k ≠ ksReady →
          exec (.keySlotActivate who c k ex) s = .next (wrRefuse s who (keyAddr c k) .outOfRange)))

/-- KEY_RETIRE_EXPIRE and CORE_CHECK complete. A RETIRING slot is erased with DETAIL RETIRED when its RETIRE cycles are over, and its open contexts count in FRAG_ERR (R261). A core
that fails its check leaves service; the fourth one erases every slot of the channel with ALARM, and a passed check changes
nothing (R250). -/
def Sys2Proof.Rules.RetiringSlotsExpireAndFailedCoresLeave : Prop :=
  (∀ (s : State) (c k : Nat), keyEff s c k = ksRetiring →
      mget (cycleNow s) s.keys.retire (keyKey c k) + retireOf s c ≤ cycleNow s →
      exec (.keyRetireExpire c k) s = .next (keyErase (ctxFragErr s c k fun _ => true) c k kdRetired))
  ∧ (∀ (s : State) (c core : Nat),
      exec (.coreCheck c core true) s = .next s
      ∧ (core < 4 → ¬ core ∈ mget [] s.keys.coresOut c →
          let out := mget [] s.keys.coresOut c ++ [core]
          let u := keyEvent (ciphCount { s with keys := { s.keys with coresOut := mset [] s.keys.coresOut c out } } c 13 1) c 6
          exec (.coreCheck c core false) s = .next (if out.length = 4 then keyEraseChan u c kdAlarm else u)))

/-- Key slots. -/
def Obligations.KeySlotsFollowTheirLifeCycle : Prop :=
  Sys2Proof.Rules.KeySlotsAreInstalledActivatedAndErased
    ∧ Sys2Proof.Rules.RetiringSlotsExpireAndFailedCoresLeave

/-- KEY_ROTATE, KEY_ERASE and KEY_CFG complete at the basic level of function 3 (R260, R270): a rotation of an ACTIVE terminal, with the
DRBG running, opens its record, installs a drawn key in the spare slot with the next generation and sends KEY_INSTALL twice, or on a
C50 channel asks the terminal with a Key_Control message; an erase of a direction erases both its slots with DETAIL COMMAND; KEY_CFG of the physical function sets the
channel's fields. At the expert level each answers NOT_OWNER. -/
def Obligations.KeyCommandsActAtTheBasicLevel : Prop :=
  ∀ (s : State) (r : Nat), let u := ringStep s r
    let x := slotCtx s r
    (∀ tid dir, cmdTidOk u x.fn tid = true → dir < 2 →
      (ringTakes s r 0x3001 → basic u 3 (treeOfTid tid) = true → termEff u tid = tsActive →
        (u.keys.rot.any fun p => p.1 == tid * 2 + dir) = false →
        let v := cmdPut u x {}
        let c := termChan v tid
        let i := spareIdx v c (slotOfTid tid) dir
        let k := slotIx (slotOfTid tid) dir i
        let d := drawKey v
        let gen := (max (keyGen d.2 c k) (keyGen d.2 c (otherIx k))) % 0xFFFF + 1
        let kek := chanKek d.2 c tid
        (isC50 v c = true → exec (.keyRotate r tid dir) s
          = .next (let y := { v with keys := { v.keys with rot := mput v.keys.rot (tid * 2 + dir) ⟨i, 1, .cmd x⟩ } }
                   emit y (.ploam c tid 7 i)))
        ∧ (isC50 v c = false → v.sec.drbg = true → installCheck d.2 c k gen 0xFFFFFF (!kek.isEmpty) (some d.1) = .ok →
          exec (.keyRotate r tid dir) s
          = .next (let y := installKey d.2 c k gen 0xFFFFFF false d.1
                   let y := { y with keys := { y.keys with rot := mput y.keys.rot (tid * 2 + dir) ⟨i, 2, .cmd x⟩ } }
                   [0, 1].foldl (fun y p =>
                     tcmSend y c (msgTo tid mtKeyInstall true (keyInstallBody dir i gen p (Config.keyWrap kek d.1)))) y))
        ∧ (isC50 v c = false → v.sec.drbg = true → chanKek d.2 c tid = [] → installCheck d.2 c k gen 0xFFFFFF false (some d.1) = .noKek →
          exec (.keyRotate r tid dir) s = .next (cmdPut d.2 x (refusal (if (chanKek u (termChan u tid) tid).isEmpty then .noKek
            else .outOfRange)))))
      ∧ (ringTakes s r 0x3002 → basic u 3 (treeOfTid tid) = true → exec (.keyErase r tid dir) s
          = .next (cmdPut (keyErase (keyErase u (termChan u tid) (slotIx (slotOfTid tid) dir 0) kdCommand) (termChan u tid)
              (slotIx (slotOfTid tid) dir 1) kdCommand) x doneRec))
      ∧ (basic u 3 (treeOfTid tid) = false →
          (ringTakes s r 0x3001 → exec (.keyRotate r tid dir) s = .next (cmdPut u x (refusal .notOwner)))
          ∧ (ringTakes s r 0x3002 → exec (.keyErase r tid dir) s = .next (cmdPut u x (refusal .notOwner)))))
    ∧ (∀ ch (v : Word), ringTakes s r 0x3003 → x.fn = 0 → ch < 256 → chanValid u ch = true → basic u 3 (ch / 4) = true →
        islDown u ch = false → let a := Adr.chnKeyCfg ch
        exec (.keyCfg r ch v) s
          = .next (cmdPut (showBypass (wf (wf (wf u a 31 15 (fld v 31 15)) a 11 8 (fld v 11 8)) a 14 12 0)) x doneRec))

/-! ## The security module (R273 to R293) -/

/-- LOGIN, LOGOUT, SELF_TEST, CO_ENROL, SEC_STATUS and ZEROIZE complete: each service of the module answers once, DONE where it is allowed (R275 to R278, R281): in ERROR and ZEROIZED every service but STATUS
and ZEROIZE answers MODULE_ERROR; without its role one answers NOT_AUTHORIZED; with it, it acts. LOGIN takes the function's challenge
away; a login that verifies sets the role; LOGOUT ends the session; STATUS reads SEC_STATUS; ZEROIZE of the physical function
zeroizes. -/
def Sys2Proof.Rules.SessionsOpenCloseAndGuardServices : Prop :=
  ∀ (s : State) (r : Nat), let u := ringStep s r
    let x := slotCtx s r
    (secReady u = false →
      (∀ role key sig, ringTakes s r 0x5001 → exec (.login r role key sig) s = .next (cmdPut u x (refusal .moduleError)))
      ∧ (ringTakes s r 0x5002 → exec (.logout r) s = .next (cmdPut u x (refusal .moduleError)))
      ∧ (∀ f, ringTakes s r 0x5005 → exec (.selfTest r f) s = .next (cmdPut u x (refusal .moduleError)))
      ∧ (∀ n, ringTakes s r 0x5011 → exec (.random r n) s = .next (cmdPut u x (refusal .moduleError)))
      ∧ (∀ h a, ringTakes s r 0x5006 → exec (.coEnrol r h a) s = .next (cmdPut u x (refusal .moduleError))))
    ∧ (secReady u = true →
      (∀ role key sig, ringTakes s r 0x5001 → role = 1 ∨ role = 2 → ¬ (x.fn * 4 + role) ∈ u.sec.refused →
        let chal := mget [] u.sec.chal (fnRequester x.fn).code
        let w := secSet u fun y => { y with chal := mdel y.chal (fnRequester x.fn).code }
        chal ≠ [] → loginOk w x.fn role chal key sig = true →
        let w := secSet w fun y => { y with role := mset 0 y.role x.fn role, fails := mdel y.fails (x.fn * 4 + role) }
        exec (.login r role key sig) s = .next (cmdPut (secUpd (if role = roleCo then wf w Adr.secStatus 7 0 0 else w)) x doneRec))
      ∧ (ringTakes s r 0x5002 → exec (.logout r) s = .next (cmdPut (endSession u x.fn) x doneRec))
      ∧ (∀ f, ringTakes s r 0x5005 →
          (sessionOf u x.fn ≠ roleCo → exec (.selfTest r f) s = .next (cmdPut u x (refusal .notAuthorized)))
          ∧ (sessionOf u x.fn = roleCo →
              (f = 0 → exec (.selfTest r f) s = .next (cmdPut u x doneRec))
              ∧ (1 ≤ f → f ≤ 8 → exec (.selfTest r f) s = .next (cmdPut (secError u f) x (refusal .moduleError)))))
      ∧ (∀ h age, ringTakes s r 0x5006 → x.fn = 0 → u.sec.vault.coCred = [] → age ≤ 600 → h.length = 48 →
          regionBusy u vrHashes = false → exec (.coEnrol r h age) s
            = .next (cmdPut (regionWrite (vaultSet u fun v => { v with coCred := [(0, h)] }) vrHashes) x doneRec)))
    ∧ (ringTakes s r 0x5003 → exec (.secStatus r) s
        = .next (cmdPut (ret u (fnRequester x.fn) (rd u Adr.secStatus)) x doneRec))
    ∧ (ringTakes s r 0x5004 → exec (.zeroize r) s = .next
        (if x.fn = 0 then cmdPut (zeroize u 0) x doneRec else cmdPut u x (refusal .notAuthorized)))

/-- Each of these services completes: the services that write the vault's regions for the Crypto Officer, each in a region not busy (R278, R286, R289, R290, R292):
credentials, image keys, the certificate, unpairing; a pairing that starts draws its secret and waits for the partner, and times out
NOT_DONE; FI_UNLOCK and FI_LOCK set and end the fault-injection lock; with no session each answers NOT_AUTHORIZED. -/
def Sys2Proof.Rules.CryptoOfficerServicesWriteTheirRegions : Prop :=
  ∀ (s : State) (r : Nat), let u := ringStep s r
    let x := slotCtx s r
    secReady u = true →
    (sessionOf u x.fn = roleCo →
      (∀ i h, ringTakes s r 0x5007 → i < 2 → h.length = 48 → regionBusy u vrHashes = false → exec (.coCredSet r i h) s
        = .next (cmdPut (regionWrite (vaultSet u fun v => { v with coCred := mput v.coCred i h }) vrHashes) x doneRec))
      ∧ (∀ p h, ringTakes s r 0x5008 → p < 64 → h.length = 32 → regionBusy u vrUsers = false → exec (.userCredSet r p h) s
        = .next (cmdPut (regionWrite (vaultSet u fun v => { v with userCred := mput v.userCred p h }) vrUsers) x doneRec))
      ∧ (∀ e m, ringTakes s r 0x5009 → e.length = 48 → m.length = 48 → regionBusy u vrHashes = false → exec (.imgKeySet r e m) s
        = .next (cmdPut (regionWrite (vaultSet u fun v => { v with ownerEc := [e], ownerMl := [m] }) vrHashes) x doneRec))
      ∧ (∀ n, ringTakes s r 0x500C → 0 < n → n ≤ 6144 → regionBusy u vrIdentity = false → exec (.identityCertSet r n) s
        = .next (cmdPut (regionWrite (wf (vaultSet u fun v => { v with cert := mbytes 0 u.hostMem x.addr n }) Adr.secStatus 8 8 0)
            vrIdentity) x doneRec))
      ∧ (ringTakes s r 0x500E → regionBusy u vrPairing = false → exec (.unpair r) s
        = .next (cmdPut (regionWrite (pairForget u) vrPairing) x doneRec))
      ∧ (∀ h, ringTakes s r 0x500D → h.length = 48 → u.sec.vault.pair = none → u.sec.prov = none → regionBusy u vrPairing = false →
          exec (.pairProvision r h none) s = .next (let d := drbgDraw (cmdPut u x {}) 48
            secSet d.2 fun y => { y with prov := some ⟨.cmd x, h, d.1⟩ }))
      ∧ (ringTakes s r 0x500F → u.keys.ktk = [] →
          (∀ ch, ch < 256 → ∀ k, k ∈ keySlots u ch → keyEff u ch k = ksEmpty) → exec (.fiUnlock r) s
          = .next (cmdPut (secUpd (wb (wb u Adr.secApproved 5 true) Adr.secApproved 4 true)) x doneRec))
      ∧ (ringTakes s r 0x5010 → exec (.fiLock r) s = .next (cmdPut (fiRelock (fiDisarmAll u)) x doneRec)))
    ∧ (sessionOf u x.fn = 0 →
      (∀ i h, ringTakes s r 0x5007 → exec (.coCredSet r i h) s = .next (cmdPut u x (refusal .notAuthorized)))
      ∧ (∀ n, ringTakes s r 0x5011 → exec (.random r n) s = .next (cmdPut u x (refusal .notAuthorized))))
    ∧ (∀ p, s.sec.prov = some p → exec .pairProvisionTimeout s
        = .next (ticketPut (nextFree (secSet s fun y => { y with prov := none })) p.ticket
            { state := .notDone, status := freeVal s % 256 }))

/-- RANDOM, ATTEST and KTK_ESTABLISH complete for a Crypto Officer (R278, R282, R283): their bytes go to the command's buffer and no other byte of
host memory changes; RANDOM gives the n DRBG bytes asked for, and KTK_ESTABLISH replaces the KTK of its partition. -/
def Sys2Proof.Rules.ServicesReturnTheirBytesToTheBuffer : Prop :=
  ∀ (s : State) (r : Nat), let u := ringStep s r
    let x := slotCtx s r
    Canon s → secReady u = true → sessionOf u x.fn = roleCo →
    (∀ n, ringTakes s r 0x5011 → 16 ≤ n → n ≤ 4096 → ∃ t, exec (.random r n) s = .next t
      ∧ mbytes 0 t.hostMem x.addr (drbgDraw u n).1.length = (drbgDraw u n).1
      ∧ (∀ a, a < x.addr ∨ x.addr + (drbgDraw u n).1.length ≤ a → mget 0 t.hostMem a = mget 0 s.hostMem a)
      ∧ t.keys.draws = s.keys.draws + 1)
    ∧ (∀ nonce, ringTakes s r 0x500B → ∃ t, exec (.attest r nonce) s = .next t
      ∧ mbytes 0 t.hostMem x.addr (signed2 u nonce).length = signed2 u nonce
      ∧ (∀ a, a < x.addr ∨ x.addr + (signed2 u nonce).length ≤ a → mget 0 t.hostMem a = mget 0 s.hostMem a))
    ∧ (∀ p pub, ringTakes s r 0x500A → p < 64 →
      let own := Config.ecdhPublic (drbgDraw u 48).1
      ∃ t, exec (.ktkEstablish r p pub) s = .next t
        ∧ t.keys.ktk = mset [] s.keys.ktk p
            (Config.kdf (Config.ecdh (drbgDraw u 48).1 pub) (labelKtk ++ bytesLE 1 p ++ pub ++ own))
        ∧ mbytes 0 t.hostMem x.addr (own ++ signed2 u own).length = own ++ signed2 u own
        ∧ (∀ a, a < x.addr ∨ x.addr + (own ++ signed2 u own).length ≤ a → mget 0 t.hostMem a = mget 0 s.hostMem a))

/-- Services of the security module. -/
def Obligations.CryptoOfficerAndBufferServicesAct : Prop :=
  Sys2Proof.Rules.CryptoOfficerServicesWriteTheirRegions ∧ Sys2Proof.Rules.ServicesReturnTheirBytesToTheBuffer

/-- The module's own events complete: a challenge is drawn for its reader while the DRBG runs (R276); a session ends by time or by a function-level reset, which drops
the challenge (R277); a lock-out ends; a reseed counts (R282); a failed conditional test 9 to 12 is the ERROR state (R281); a checkpoint
of a changed counter is written to its next slot (R287); SEC_ZEROIZE acts with its CONFIRM only, and when the wrapping area is erased
the vault is blank with a log record for each source (R291). -/
def Sys2Proof.Rules.ModuleEventsChangeTheModule : Prop :=
  ∀ s : State,
    (∀ who, islDown s 337 = false → s.sec.drbg = true → ∃ t, exec (.secChallengeRead who) s = .next t ∧ t.sec.chal = mset [] s.sec.chal who.code (Config.drbg s.keys.draws 48)
      ∧ t.keys.draws = s.keys.draws + 1 ∧ t.sec.role = s.sec.role ∧ t.tabs = s.tabs)
    ∧ (∀ fn, exec (.sessionTimeout fn) s = .next (endSession s fn) ∧ mget 0 (endSession s fn).sec.role fn = 0
        ∧ ∃ t, exec (.functionLevelReset fn) s = .next t ∧ mget 0 t.sec.role fn = 0
          ∧ mget [] t.sec.chal (fnRequester fn).code = [])
    ∧ (∀ fn role, role < 4 → ∃ t, exec (.loginLockoutExpire fn role) s = .next t ∧ ¬ (fn * 4 + role) ∈ t.sec.refused
        ∧ { t with sec := s.sec } = s)
    ∧ (s.sec.drbg = true → ∃ t, exec .drbgReseed s = .next t ∧ t.sec.reseeds = s.sec.reseeds + 1 ∧ { t with sec := s.sec } = s)
    ∧ (∀ n, 9 ≤ n → n ≤ 12 → secState s = smOperational → exec (.conditionalTestFail n) s = .next (secError s n))
    ∧ exec (.conditionalTestFail 13) s = .next s
    ∧ (∀ i, i < 2 → mget 0 s.sec.ctr i ≠ (chkNewest s i).2 → regionBusy s (4 + i) = false →
        ∃ t, exec (.checkpointWrite i) s = .next t
          ∧ mget (0, 0) t.sec.vault.chk (i * 8 + ((chkNewest s i).1 + 1) % 8) = ((chkNewest s i).1 + 1, mget 0 s.sec.ctr i))
    ∧ (∀ who (v : Word), isPfSide s who = true → islDown s (islandOf Adr.secZeroize) = false →
        (fld v 15 0 = 0x5EC0 → exec (.secZeroizeWrite who v) s = .next (wrOk (zeroize s 0) who Adr.secZeroize))
        ∧ (fld v 15 0 ≠ 0x5EC0 → exec (.secZeroizeWrite who v) s = .next (wrOk s who Adr.secZeroize)))
    ∧ (s.sec.erasing ≠ [] → ∃ t, exec .keyWrappingAreaErased s = .next t ∧ t.sec.erasing = [] ∧ t.sec.vault.blank = true
        ∧ t.sec.vault.pair = none ∧ t.sec.vault.userCred = [] ∧ t.sec.vault.logCount = s.sec.vault.logCount + s.sec.erasing.length)

/-- Sessions and module events. -/
def Obligations.SessionsAndModuleEventsGuardServices : Prop :=
  Sys2Proof.Rules.SessionsOpenCloseAndGuardServices ∧ Sys2Proof.Rules.ModuleEventsChangeTheModule

/-! ## The parser and the classifier (R294 to R311) -/

/-- Pipeline p, its island up and the data plane running, stands at a verb v with the code op that it may run: a context, and unless it is an end verb, budget left (R302). -/
def Sys2Proof.Machine.verbAt (s : State) (p op : Nat) (c : ParseCtx) (v : Nat) : Prop :=
  pipeUp s p = true ∧ ctxOfPipe s p = some c ∧ c.pc < progVerbs (progOf s c.newBank) ∧ progVerb (progOf s c.newBank) c.pc = v ∧ vOp v = op
    ∧ (op < 0x0C → c.vcount < progBudget (progOf s c.newBank))

/-- A verb has run and left the context c: VERBS counts, and a next verb past the program's end is MALFORMED (R302, R311). -/
def Sys2Proof.Machine.verbDone (s : State) (p : Nat) (c : ParseCtx) : State :=
  let c' := { c with vcount := c.vcount + 1 }
  if progVerbs (progOf s c.newBank) ≤ c.pc then parseExc (grmCount s p 10 1) p c' .malformed
  else setCtx (grmCount s p 10 1) p c'

/-- The verbs that read no field complete (R299): NOP and GOTO move on, ADVANCE moves the cursor by its 9 bits or is TOO_DEEP past 511, MARK
records the header up to MAX_HDRS, KEEP_CUR and SETNOUN set a noun and NOUN, HASH sets the accumulator to the CRC-32C of the nouns
named; with the budget used up a verb is the budget exception instead (R302). -/
def Sys2Proof.Rules.VerbsMoveTheCursorAndTheNouns : Prop :=
  ∀ (s : State) (p op : Nat) (c : ParseCtx) (v : Nat), verbAt s p op c v →
    (op = 0x00 → exec (.nop p) s = .next (verbDone s p { c with pc := c.pc + 1 }))
    ∧ (op = 0x04 → exec (.gotoVerb p) s = .next (verbDone s p { c with pc := vTarget v }))
    ∧ (op = 0x05 → c.cur + vImm v % 512 ≤ 511 →
        exec (.advance p) s = .next (verbDone s p { c with pc := c.pc + 1, cur := c.cur + vImm v % 512 }))
    ∧ (op = 0x05 → 511 < c.cur + vImm v % 512 → exec (.advance p) s = .next (parseExc s p c .depth))
    ∧ (op = 0x08 → c.hdrCount + 1 ≤ progMaxHdrs (progOf s c.newBank) → exec (.markVerb p) s
        = .next (verbDone s p { c with pc := c.pc + 1, hdrs := c.hdrs ++ [(vImm v % 256, c.cur)], hdrCount := c.hdrCount + 1 }))
    ∧ (op = 0x08 → progMaxHdrs (progOf s c.newBank) < c.hdrCount + 1 → exec (.markVerb p) s = .next (parseExc s p c .hdrs))
    ∧ (op = 0x09 → exec (.keepCur p) s = .next (verbDone s p { c with pc := c.pc + 1, nouns := c.nouns.set (vDst v) c.cur }))
    ∧ (op = 0x0A → exec (.hashVerb p) s
        = .next (verbDone s p { c with pc := c.pc + 1, acc := crc32c (hashNouns c (vImm v % 65536)) }))
    ∧ (op = 0x0B → exec (.setnoun p) s = .next (verbDone s p { c with pc := c.pc + 1, nounSet := true, item := { c.item with
          fr := { c.item.fr with cl := { c.item.fr.cl with noun := if nbit (vImm v) 0 then c.acc else c.nouns.getD (vDst v) 0 } } } }))
    ∧ (∀ d : ParseCtx, d = { c with vcount := progBudget (progOf s c.newBank) } → op = 0x00 →
        exec (.nop p) (setCtx s p d) = .next (parseExc (setCtx s p d) p d .budget))

/-- The verbs that read a field complete (R299): EXTRACT puts it into a noun, MATCH and DISPATCH branch on it, ADVANCE_FIELD and ADVANCE_IF move the
cursor by it; a field past MAX_DEPTH or past the frame's end is the exception of its kind instead (R302). -/
def Sys2Proof.Rules.VerbsThatReadAFieldOrExcept : Prop :=
  ∀ (s : State) (p op : Nat) (c : ParseCtx) (v : Nat), verbAt s p op c v →
    let b := progOf s c.newBank
    let x := verbField c v
    (fieldEx b c v = none →
      (op = 0x01 → exec (.extractVerb p) s = .next (verbDone s p { c with pc := c.pc + 1, nouns := c.nouns.set (vDst v) x }))
      ∧ (op = 0x02 → exec (.matchVerb p) s
          = .next (verbDone s p { c with pc := if x = vImm v % 65536 then vTarget v else c.pc + 1 }))
      ∧ (op = 0x03 → vTarget v + min x (vImm v % 256) < progVerbs b →
          exec (.dispatchVerb p) s = .next (verbDone s p { c with pc := vTarget v + min x (vImm v % 256) }))
      ∧ (op = 0x03 → progVerbs b ≤ vTarget v + min x (vImm v % 256) →
          exec (.dispatchVerb p) s = .next (parseExc s p c .malformed))
      ∧ (op = 0x06 → let k := x * 2 ^ (vImm v % 8) + nfld (vImm v) 12 4
          c.cur + k ≤ 511 → exec (.advanceField p) s = .next (verbDone s p { c with pc := c.pc + 1, cur := c.cur + k }))
      ∧ (op = 0x07 → let k := if x = 0 then 0 else vImm v % 512
          c.cur + k ≤ 511 → exec (.advanceIf p) s = .next (verbDone s p { c with pc := c.pc + 1, cur := c.cur + k })))
    ∧ (∀ e, fieldEx b c v = some e →
      (op = 0x01 → exec (.extractVerb p) s = .next (parseExc s p c e)) ∧ (op = 0x02 → exec (.matchVerb p) s = .next (parseExc s p c e))
      ∧ (op = 0x03 → exec (.dispatchVerb p) s = .next (parseExc s p c e))
      ∧ (op = 0x06 → exec (.advanceField p) s = .next (parseExc s p c e))
      ∧ (op = 0x07 → exec (.advanceIf p) s = .next (parseExc s p c e)))
    ∧ (fieldEx b c v = some .depth ↔ progMaxDepth b ≤ c.cur + vOfs v + (vBit v + vWidth v - 1) / 8)

/-- The end verbs and the items of a pipeline complete: ACCEPT classifies under its profile, DROP discards with its reason, PUNT hands the frame to
the control complex, each counted (R299, R309). The pipeline admits its next item when none is under parse: a packet gets its Prefix
fields, an item of another kind passes to its EGR (R294, R295). A marker is remembered per pipeline, and when all sixteen have it and no
packet of the old bank is left, the banks swap (R305). -/
def Sys2Proof.Rules.ParsesEndItemsEnterAndProgramsSwitch : Prop :=
  (∀ (s : State) (p op : Nat) (c : ParseCtx) (v : Nat), verbAt s p op c v →
      let u := grmCount s p 10 1
      let d := { c with vcount := c.vcount + 1 }
      (op = 0x0C → exec (.acceptVerb p) s = .next (classify u p d (vImm v % 16)))
      ∧ (op = 0x0D → exec (.dropVerb p) s
          = .next (parseDrop { grmCount u p 5 1 with grm := { u.grm with reason := vImm v % 256 } } p 5 c.item.fr.cl))
      ∧ (op = 0x0E → exec (.puntVerb p) s = .next (parsePunt u p d)))
  ∧ (∀ (s : State) (p : Nat) (x : Ingress) (rest : List Ingress), pipeUp s p = true → ctxOfPipe s p = none → ingressOf s p = x :: rest →
      let u := pc (setIngress s p rest) { code := 0x08, unit := some p, tc := some x.fr.cl.tc }
      (x.fr.cl.kind = ClauseKind.packet.code → x.port < 512 →
        let d := traceDraw u p (prefixClause u x)
        let r := prefixStage d.2 x d.1 (d.2.grm.loading && decide (p ∈ d.2.grm.marked))
        (r.2 = none → exec (.pipelineAdmit p) s = .next (setCtx d.2 p r.1))
        ∧ (∀ e, r.2 = some e → exec (.pipelineAdmit p) s = .next (parseExc (setCtx d.2 p r.1) p r.1 e)))
      ∧ (x.fr.cl.kind ≠ ClauseKind.packet.code → x.fr.cl.kind ≠ ClauseKind.hostInject.code →
        exec (.pipelineAdmit p) s = .next (let cl := x.fr.cl
          let u := trace u cl stParse (pipeIsland p) 0 (cl.kind * 2 ^ 28 + cl.part * 2 ^ 22 + cl.len)
          let u := trace (trace u cl stClassify (pipeIsland p) cl.sid cl.bd) cl stForward (pipeIsland p) cl.queue cl.egr
          flowOut u x.fr (egressKeys cl.egr cl.queue cl.tc))))
  ∧ (∀ (s : State) (p : Nat), ingressOf s p = [] → exec (.pipelineAdmit p) s = .next s)
  ∧ (∀ (s : State) (p : Nat), s.grm.loading = true → p < 16 →
      exec (.grammarSwitchMarker p) s = .next { s with grm := { s.grm with marked := addNew s.grm.marked p } })
  ∧ (∀ s : State, s.grm.loading = true → (∀ p, p < 16 → p ∈ s.grm.marked) → s.grm.ctx = [] → Canon s →
      ∃ t, exec .grammarSwitchComplete s = .next t ∧ t.img.grammar = s.grm.shadow ∧ t.grm.shadow = s.img.grammar
        ∧ t.grm.loading = false ∧ t.grm.marked = []
        ∧ rf t Adr.grmProgStat 31 24 = (rf s Adr.grmProgStat 31 24 + 1) % 256
        ∧ rb t Adr.grmProgStat 22 = !rb s Adr.grmProgStat 22 ∧ rb t Adr.grmProgStat 23 = false)

/-- Parser verbs. -/
def Obligations.ParserVerbsMoveReadAndEnd : Prop :=
  Sys2Proof.Rules.VerbsMoveTheCursorAndTheNouns
    ∧ Sys2Proof.Rules.VerbsThatReadAFieldOrExcept
    ∧ Sys2Proof.Rules.ParsesEndItemsEnterAndProgramsSwitch

/-! ## Forwarding and tables (R312 to R332) -/

/-- FORWARDING completes: a pipeline's next frame in a valid bridge domain of its partition (R312): with the source step done, it goes to the queue of its
destination, is flooded where the address is unknown or a group, or is dropped with its count: a domain not valid or not its own under
code 10, a spoofed one under 7, and a destination of 0xFFFF under 8. -/
def Obligations.FramesAreForwardedFloodedOrDropped : Prop :=
  ∀ (s : State) (p : Nat) (ms : List Nat) (it : FwdItem) (rest : List FwdItem), pipeUp s p = true → mget [] s.flow.fwd p = it :: rest →
    let u := { s with flow := { s.flow with fwd := mset [] s.flow.fwd p rest } }
    let cl := it.fr.cl
    let bdv := bdCfg u cl.bd
    (nbit bdv 127 = false ∨ bdPart bdv ≠ cl.part → exec (.forwarding p ms) s = .next (fwdDrop u p 10 cl))
    ∧ (nbit bdv 127 = true → bdPart bdv = cl.part → (256 ≤ it.port ∨ spoofOk u it bdv = true) →
        let w := sourceStep u it bdv
        let da := (frameNum it.fr.data 0 6).getD 0
        (brFind w cl.bd da = none →
          (nbit bdv 125 = true → exec (.forwarding p ms) s = .next (fwdQueue w p it (some (nfld bdv 111 98)) ms))
          ∧ (nbit bdv 125 = false → exec (.forwarding p ms) s = .next (fwdDrop w p 10 cl)))
        ∧ (∀ i, brFind w cl.bd da = some i → let v := tblEntry w tbBridge i
          (brDest v = 0xFFFF → exec (.forwarding p ms) s = .next (fwdDrop w p 8 cl))
          ∧ (brDest v ≠ 0xFFFF → brRoute v = false → da.testBit 40 = false →
              exec (.forwarding p ms) s = .next (fwdQueue w p it none [brDest v]))))
    ∧ (nbit bdv 127 = true → bdPart bdv = cl.part → it.port < 256 → spoofOk u it bdv = false →
        ∃ t, exec (.forwarding p ms) s = .next t ∧ t.flow.fwd = mset [] s.flow.fwd p rest ∧ t.flow.out = s.flow.out)

/-- AGING_SWEEP and LOCK_EXPIRED complete. A sweep ages every valid bridge entry once unless AGE_S is 0: a locked entry stays as it is
(R23), HIT is cleared with AGE 0, else AGE counts to 3, where a learned entry becomes invalid (R318). A lock held past LOCK_MS is
cleared, counted and reported, WGEN unchanged (R331). -/
def Sys2Proof.Rules.EntriesAgeAndLocksExpire : Prop :=
  (∀ s : State,
      (rf s Adr.fwdBrCfg 31 20 = 0 → exec .agingSweep s = .next s)
      ∧ (rf s Adr.fwdBrCfg 31 20 ≠ 0 → exec .agingSweep s = .next ((tblList s tbBridge).foldl (fun s e => ageOne s e.1 e.2) s)))
  ∧ (∀ (s : State) (i v : Nat),
      (brLock v = true → ageOne s i v = s)
      ∧ (brLock v = false → brHit v = true → ageOne s i v = tblPut s tbBridge i (putNfld (putNfld v 124 124 0) 123 122 0))
      ∧ (brLock v = false → brHit v = false → brAge v < 2 → ageOne s i v = tblPut s tbBridge i (putNfld v 123 122 (brAge v + 1)))
      ∧ (brHit v = false → 2 ≤ brAge v → brStatic v = false → brLock v = false → rb s Adr.fwdBrCfg 2 = false →
          ageOne s i v = fwdCount (tblPut s tbBridge i (putNfld v 127 127 0)) 6 1))
  ∧ (∀ (s : State) (code idx st n b : Nat), s.fwd.reloc = none → tblShape s code = some (st, n) → tblLockBit code st = some b →
      let v := tblEntry s code idx
      (tblValid st v = true → nbit v b = true →
        exec (.lockExpired code idx) s = .next (fwdEvent (fwdCount (tblPut s code idx (putNfld v b b 0)) 12 1) 2))
      ∧ (nbit v b = false → exec (.lockExpired code idx) s = .next s))

/-- The compatibility commands complete (R332), on an island that is up and with no relocation under way: READ shows the entry, WRITE
writes FWD_TDATA by the table's own checks, INSERT places a new key at the index it answers, DELETE clears the key's entry, SEARCH answers
the winning index; STATUS in FWD_TCMD tells OK or why not, GLB_WRSTAT reports the command's own write OK (the model's choice, log 27), and
a table that does not exist, or a FREEFORM plane, is OUT_OF_RANGE for each. -/
def Sys2Proof.Rules.TableCommandsActAndShowTheirStatus : Prop :=
  ∀ (s : State) (who : Requester) (w : Word), let a := Adr.fwdTcmd
    islDown s (islandOf a) = false → s.fwd.reloc = none →
    let done (u : State) (r : TcRes) : State := wrOk (wrReq u who a (putFld (putFld w 31 31 0) 20 17 r.code)) who a
    (tcTable (fld w 26 23) (fld w 22 21) = none →
      exec (.tblRead who w) s = .next (done s .outOfRange) ∧ exec (.tblWrite who w) s = .next (done s .outOfRange)
      ∧ exec (.tblInsert who w) s = .next (done s .outOfRange) ∧ exec (.tblDelete who w) s = .next (done s .outOfRange)
      ∧ exec (.tblSearch who w) s = .next (done s .outOfRange))
    ∧ (∀ code, tcTable (fld w 26 23) (fld w 22 21) = some code → 8 ≤ code → code < 12 → planeWidth (tabPlan s) (code - 8) = 2 →
      exec (.tblRead who w) s = .next (done s .outOfRange) ∧ exec (.tblWrite who w) s = .next (done s .outOfRange)
      ∧ exec (.tblInsert who w) s = .next (done s .outOfRange) ∧ exec (.tblDelete who w) s = .next (done s .outOfRange)
      ∧ exec (.tblSearch who w) s = .next (done s .outOfRange))
    ∧ (∀ code st n, tcTable (fld w 26 23) (fld w 22 21) = some code → tblShape s code = some (st, n) →
        (8 ≤ code → code < 12 → planeWidth (tabPlan s) (code - 8) ≠ 2) →
        let idx := fld (rdReq s who Adr.fwdTindex) 26 0
        let e := tblSetGen code st (tdata s who st) (fld w 15 0)
        let v := putNfld e (8 * st - 1) (8 * st - 1) 1
        (idx < n → exec (.tblRead who w) s = .next (done (setTdata s who st (tblEntry s code idx)) .ok))
        ∧ (n ≤ idx → exec (.tblRead who w) s = .next (done s .outOfRange))
        ∧ (idx < n → tblMayWrite s who code idx e = true → tblGen code st e ≠ 0 → tblBad s code idx e = false →
            code ≠ tbAlloc → code ≠ tbQueue → code ≠ tbTerm → code ≠ tbSid → exec (.tblWrite who w) s
            = .next (done (showPlanes (tblPut s code idx (if 8 ≤ code ∧ code < 12 then putNfld e (8 * st - 3) (8 * st - 20) 0 else e))
                code) .ok))
        ∧ (∀ x, (tblWrite s who code idx e).2 = some x →
            exec (.tblWrite who w) s = .next (done (tblWrite s who code idx e).1 (tcOf x)))
        ∧ (∀ i, (code = tbBridge ∨ code = tbExact) → fld w 15 0 ≠ 0 → tblFindKey s code v = none → i < n →
            freeWay s code st (if code = tbBridge then brWays s (brBd v) (brMac v) else exWays s (exKind v) (exVrf v) (exAddr v))
              = some i →
            tblMayWrite s who code i v = true → tblGen code st v ≠ 0 → tblBad s code i v = false →
            exec (.tblInsert who w) s = .next (done (setTindex (showPlanes (tblPut s code i v) code) who i) .ok))
        ∧ (∀ pos ms c i, 8 ≤ code → code < 12 → fld w 15 0 ≠ 0 → tblFindKey s code v = none →
            let role := planeRole (tabPlan s) (code - 8)
            (role = 1 ∨ role = 2) → ((spaceList s role).any fun e =>
              acmKey 0 e.2 == acmKey 0 v && acmMask 0 e.2 == acmMask 0 v) = false →
            insertPlan (spaceList s role) (spaceSize s role) (routeLen v) = some (pos, ms) →
            (ms.any fun m => nbit ((atPos (spaceList s role) m.1).getD 0) (8 * st - 2)) = false → spaceAt s role pos = some (c, i) →
            tblMayWrite s who c i v = true → tblGen c st v ≠ 0 → tblBad s c i v = false →
            let x := putNfld v (8 * st - 3) (8 * st - 20) 0
            (ms = [] → exec (.tblInsert who w) s
              = .next (done (setTindex ((planesOf (tabPlan s) role).foldl showPlane (tblPut s c i x)) who i) .ok))
            ∧ (ms ≠ [] → exec (.tblInsert who w) s = .next (wrOk (wrReq { s with fwd := { s.fwd with
                reloc := some { who := who, word := w, role := role, moves := ms, code := c, idx := i, entry := x } } } who a
                  (putFld (putFld w 31 31 1) 20 17 0)) who a)))
        ∧ (tblKeyed code = true → (tblFindKey s code v).isSome = true → fld w 15 0 ≠ 0 →
            exec (.tblInsert who w) s = .next (done s .duplicate))
        ∧ (∀ i, tblKeyed code = true → tblFindKey s code v = some i → tblMayWrite s who code i (tblEntry s code i) = true →
            exec (.tblDelete who w) s = .next (done (showPlanes (tblPut s code i 0) code) .ok))
        ∧ (∀ i, tblKeyed code = true → tblSearchKey s code v = some i →
            exec (.tblSearch who w) s = .next (done (setTindex s who i) .ok))
        ∧ (tblKeyed code = true → tblSearchKey s code v = none → exec (.tblSearch who w) s = .next (done s .notFound)))

/-- An INSERT that must move entries first moves them one by one, each copied to its new index and only then cleared at the old, and puts
its entry in last (R323). While an entry stands at both, a READ of the old index answers RETRY (R324); how far a relocation has come when
another command lands is free (log 121). -/
def Sys2Proof.Rules.RelocationCopiesThenClears : Prop :=
  (∀ (s : State) (r : Reloc) (old new : Nat) (ms : List (Nat × Nat)), s.fwd.reloc = some r → r.moves = (old, new) :: ms →
      (r.copied = false → ∃ m, relocStep s = { spacePut s r.role new (spaceGet s r.role old) with fwd :=
        { s.fwd with reloc := some { r with copied := true, moved := m } } } ∧ (old, new) ∈ m)
      ∧ (r.copied = true → relocStep s
        = { spacePut s r.role old 0 with fwd := { s.fwd with reloc := some { r with moves := ms, copied := false } } }))
  ∧ (∀ (s : State) (r : Reloc), s.fwd.reloc = some r → r.moves = [] → (relocStep s).fwd.reloc = none)
  ∧ (∀ (s : State) (who : Requester) (w : Word) (code : Nat), let a := Adr.fwdTcmd
      let u := relocSome s
      islDown s (islandOf a) = false → (u.fwd.reloc.any fun r => r.who == who) = false →
      tcTable (fld w 26 23) (fld w 22 21) = some code → 8 ≤ code → code < 12 → planeWidth (tabPlan u) (code - 8) ≠ 2 →
      (movedTo u code (fld (rdReq u who Adr.fwdTindex) 26 0)).isSome = true →
      exec (.tblRead who w) s = .next (wrOk (wrReq u who a (putFld (putFld w 31 31 0) 20 17 TcRes.retry.code)) who a))

/-- TBLW_WRITE completes: a word written through the table window is staged until the entry's top word lands; then the entry is written by the table's own
checks and GLB_WRSTAT tells the outcome, on an island that is down ISLAND_DOWN (R330, R386). -/
def Sys2Proof.Rules.WindowWordsAreStagedUntilTheTopWordLands : Prop :=
  ∀ (s : State) (who : Requester) (ofs st n : Nat) (w : Word),
    let sel := rdReq s who Adr.mbxTblwSel
    let code := fld sel 5 0
    let idx := (if (vfPart s who).isSome then fld sel 31 6 else 0) + ofs / st
    tblShape s code = some (st, n) → ofs % 4 = 0 → code ≠ tbAstat → idx < n →
    exec (.tblwWrite who ofs w) s = .next (tblWord s who code idx (ofs % st / 4) w)
    ∧ (ofs % st / 4 + 1 < st / 4 → mget 0 s.acc.tblEntry who.code = 0 →
        tblWord s who code idx (ofs % st / 4) w = { s with acc := { s.acc with
          tblStage := mput s.acc.tblStage (who.code * 2 ^ 40 + 4 * (ofs % st / 4)) w,
          tblEntry := mset 0 s.acc.tblEntry who.code (entAddr code st idx + 1) } })
    ∧ (ofs % st / 4 + 1 = st / 4 → mget 0 s.acc.tblEntry who.code = entAddr code st idx + 1 ∨ mget 0 s.acc.tblEntry who.code = 0 →
        s.fwd.reloc = none → islDown s (tblIsland code) = false →
        let k := ofs % st / 4
        let word (j : Nat) : Nat := if j = k then w.toNat else
          match (tblStaged s who).find? (·.1 = who.code * 2 ^ 40 + 4 * j) with
          | some (_, x) => x.toNat
          | none => (mget 0 s.tabs (entAddr code st idx + 4 * j)).toNat
        let v := (List.range (st / 4)).foldl (fun n j => n + word j * 2 ^ (32 * j)) 0
        (∀ d, who ≠ .dma d) → (tblWrite (tblUnstage s who) who code idx v).2 = none →
        exec (.tblwWrite who ofs w) s = .next (tblNote (tblWrite (tblUnstage s who) who code idx v).1 who .ok))

/-- Forwarding tables. -/
def Obligations.TablesAgeUnlockAndTakeCommands : Prop :=
  Sys2Proof.Rules.EntriesAgeAndLocksExpire
    ∧ Sys2Proof.Rules.TableCommandsActAndShowTheirStatus
    ∧ Sys2Proof.Rules.RelocationCopiesThenClears
    ∧ Sys2Proof.Rules.WindowWordsAreStagedUntilTheTopWordLands

/-! ## Uplink ports (R222, R333 to R337) -/

/-- The commands of a port's link (R334) and its group's mode (R333) complete: a link comes up only on an enabled port of a running group, with AN_DONE for a KR or
CR port that negotiates; going down clears both; a mode write of the physical function with defined splits stores the mode and stops
every lane of the group, an undefined split is refused. -/
def Sys2Proof.Rules.PortGroupsAndLinksFollowTheirSettings : Prop :=
  (∀ (s : State) (u : Nat),
      (laneValid s u = true → portExists s u = true → rb s (Adr.uplPortCfg u) 31 = true → islState s (uplIsland u) = islRun →
        exec (.uplinkLinkUp u) s = .next (wb (wb s (Adr.uplPortStat u) 31 true) (Adr.uplPortStat u) 30
          (rb s (Adr.uplPortCfg u) 28 && decide (2 ≤ rf s (Adr.uplPortCfg u) 30 29))))
      ∧ (portExists s u = false → exec (.uplinkLinkUp u) s = .next s)
      ∧ exec (.uplinkLinkDown u) s = .next (wf s (Adr.uplPortStat u) 31 30 0))
  ∧ (∀ (s : State) (who : Requester) (g : Nat) (v : Word), isPfSide s who = true → islDown s (256 + g) = false →
      (grpModeOk v = true → exec (.uplGrpModeWrite who g v) s
        = .next (let u := wr s (Adr.uplGrpMode (8 * g)) (v &&& 0x177)
                 wrOk ((List.range 8).foldl (fun w j => laneMode (groupPorts s g) (groupPorts w g) w (8 * g + j)) u) who
                   (Adr.uplGrpMode (8 * g))))
      ∧ (grpModeOk v = false → exec (.uplGrpModeWrite who g v) s = .next (wrRefuse s who (Adr.uplGrpMode (8 * g)) .outOfRange)))

/-- UPLINK_FRAME_RECEIVE and UPLINK_FRAME_TRANSMIT complete: a frame received on a port that is up, its receive injector idle, is discarded and counted where its FCS or size is wrong, else counted
and handed to its pipeline or to the control complex (R334, R337). A port that may send takes the head frame of its highest class
that is not paused and fits its gate, and sends it with its tag, counted and freed; with none it sends nothing (R215, R222, R337). -/
def Sys2Proof.Rules.UplinkFramesAreReceivedAndSent : Prop :=
  ∀ (s : State) (u : Nat), u < 256 → portUp s u = true → s.boot.dataStopped = false →
    (∀ ofs d, fiArmed s (Adr.fiCfgUrx u) = false → (fiOf s (Adr.fiCfgUrx u)).held = [] →
      exec (.uplinkFrameReceive u ofs d 0) s = .next (uplRxGo (satF s (Adr.uplPortStat u) 23 0 0) u ofs d)
      ∧ (fcsOk d = false ∨ d.length < 64 ∨ 16383 < d.length → uplRxGo s u ofs d = stat s scPort u 4 1))
    ∧ (∀ ofs, let ks := (List.range 8).map (uplKey u)
      let x := qCleanAll s ks
      let v := markFits x ks (uplFits x u ofs)
      ((∀ tc, tc < 8 → uplHead v u tc ofs = none) → exec (.uplinkFrameTransmit u ofs) s = .next v)
      ∧ (∀ tc f, tc < 8 → uplHead v u tc ofs = some f → (∀ k, tc < k → k < 8 → uplHead v u k ofs = none) →
          f.cl.kind ≠ ClauseKind.tracer.code → f.tsReq = none →
          exec (.uplinkFrameTransmit u ofs) s = .next
            (let k := uplKey u tc
             let w := trace v f.cl stSelect (uplIsland u) f.cl.queue (qDepth v k)
             let d := uplFrameOut w u ofs f
             let w := emitFi (stat (stat w scPort u 2 1) scPort u 3 f.len) (Adr.fiCfgUtx u) none (.uplFrame u tc d.length d)
             let w := trace w f.cl stTransmit (uplIsland u) f.cl.egr 0
             qFree (qPop w k) k f)))

/-- PFC_RECEIVE and PAUSE_TIMER_EXPIRE complete: a PAUSE or PFC frame on a port with reception enabled pauses the classes with a time and resumes those with a time of 0; the end of
a pause time resumes its classes; no class that is not named changes, and nothing else of the device does (R335). -/
def Sys2Proof.Rules.PauseFramesHoldAndReleaseClasses : Prop :=
  ∀ (s : State) (u : Nat),
    (∀ pfc vec times, portUp s u = true → rb s (Adr.uplPortCfg u) 25 = true →
      ∃ t mask, exec (.pfcReceive u pfc vec times) s = .next t ∧ { t with upl := s.upl } = s
        ∧ t.upl.paused = mset 0 s.upl.paused u mask
        ∧ (∀ tc, tc < 8 → mask.testBit tc
            = if pfc && !vec.testBit tc then (mget 0 s.upl.paused u).testBit tc
              else decide (times.getD (if pfc then tc else 0) 0 ≠ 0)))
    ∧ (∀ mask, ∃ t left, exec (.pauseTimerExpire u mask) s = .next t ∧ { t with upl := s.upl } = s
        ∧ t.upl.paused = mset 0 s.upl.paused u left
        ∧ (∀ tc, tc < 8 → left.testBit tc = ((mget 0 s.upl.paused u).testBit tc && !mask.testBit tc)))

/-- Uplink ports. -/
def Obligations.UplinkPortsSendReceiveAndPause : Prop :=
  Sys2Proof.Rules.PortGroupsAndLinksFollowTheirSettings
    ∧ Sys2Proof.Rules.UplinkFramesAreReceivedAndSent
    ∧ Sys2Proof.Rules.PauseFramesHoldAndReleaseClasses

/-! ## Buffers (R340 to R355) -/

/-- BUFFER_FREE and BPM_FREE complete: a free of a buffer by a holder (R346): among the holders, one occurrence of its name goes, and with the last one the buffer returns to
its pool and is FREE; by another name it is refused and the buffer is unchanged; of a FREE buffer it is refused as a double free; of a
LOST one it counts. A refused free records the handle, the name and the island. BPM_FREE by the physical function is the same with
its result in BPM_FREE_STAT. -/
def Sys2Proof.Rules.FreesTakeOneShareOrAreRefused : Prop :=
  ∀ (s : State) (h name isl : Nat), handleOk s h = true →
    (∀ d, descOf s h = some d → d.lost = false → name ∈ d.names →
      (d.names.erase name ≠ [] → exec (.bufferFree h name isl) s
        = .next { s with buf := { s.buf with desc := mput s.buf.desc h { d with names := d.names.erase name } } })
      ∧ (d.names.erase name = [] → ∃ t, exec (.bufferFree h name isl) s = .next t ∧ t = bufReturn s h d
          ∧ t.buf.desc = mdel s.buf.desc h))
    ∧ (∀ d, descOf s h = some d → d.lost = false → ¬ name ∈ d.names → exec (.bufferFree h name isl) s
        = .next (freeFault s h name isl 2 1 8 0x0A01) ∧ (freeFault s h name isl 2 1 8 0x0A01).buf = s.buf)
    ∧ (descOf s h = none → exec (.bufferFree h name isl) s = .next (freeFault s h name isl 1 0 7 0x0A00))
    ∧ (∀ d, descOf s h = some d → d.lost = true → exec (.bufferFree h name isl) s = .next (bpmCount s 9 1))
    ∧ (∀ who d, isPfSide s who = true → islDown s (islandOf Adr.bpmFree) = false → descOf s h = some d → d.lost = false →
        name ∈ d.names → d.names.erase name = [] → exec (.bpmFreeWrite who h name) s
          = .next (wrOk (wrReq (bufReturn s h d) who Adr.bpmFreeStat (BitVec.ofNat 32 ((FreeRes.ok 0).code * 2 ^ 28))) who (Adr.bpmFree + 4)))
    ∧ (∀ who, isPfSide s who = true → islDown s (islandOf Adr.bpmFree) = false → exec (.bpmFreeWrite who h name) s = .next
        (let p := bufFree s h name 340
         let u := wrReq p.1 who Adr.bpmFreeStat (BitVec.ofNat 32 (p.2.code * 2 ^ 28 + p.2.shares % 4096))
         match p.2 with
         | .ok _ => wrOk u who (Adr.bpmFree + 4)
         | .outOfRange => wrRefuse u who (Adr.bpmFree + 4) .outOfRange
         | _ => wrRefuse u who (Adr.bpmFree + 4) .unitRefused))

/-- DEEP_HEAD_FETCH_DONE completes: a deep head that has been fetched is staged while its queue holds a frame, and nothing else changes (R352). The CRC of the image and
of every ring record gives the check value of R51 over the bytes of "123456789". -/
def Sys2Proof.Rules.DeepHeadsAreStagedAndTheCrcChecks : Prop :=
  (∀ (s : State) (k : Nat), s.boot.dataStopped = false →
      (qFrames s k = [] → exec (.deepHeadFetchDone k) s = .next s)
      ∧ (qFrames s k ≠ [] → exec (.deepHeadFetchDone k) s
          = .next { s with sched := { s.sched with staged := addNew s.sched.staged k } }))
  ∧ crc32c [0x31, 0x32, 0x33, 0x34, 0x35, 0x36, 0x37, 0x38, 0x39] = 0xE3069283

/-- Buffers. -/
def Obligations.BuffersAreFreedAndDeepHeadsStaged : Prop :=
  Sys2Proof.Rules.FreesTakeOneShareOrAreRefused ∧ Sys2Proof.Rules.DeepHeadsAreStagedAndTheCrcChecks

/-! ## Time (R357 to R380) -/

/-- HOLD_TIMEOUT and OFFSET_SAMPLE complete: a LOCKED base that takes no sample for HOLD_TIMEOUT enters HOLDOVER with ADJ = I and HOLDOVER[b] raised, but with SRC NONE never
(R360, R361); the next accepted sample returns it to LOCKED. -/
def Obligations.UnsampledBaseHoldsOverUntilTheNextSample : Prop :=
  (∀ (s : State) (b : Nat), Canon s → b < 8 → baseState s b = tbLocked → baseSrc s b ≠ 2 →
      ∃ t, exec (.holdTimeout b) s = .next t ∧ baseState t b = tbHoldover
        ∧ baseOf t b = { baseOf s b with adj := (baseOf s b).integ }
        ∧ rb t Adr.timEvent (8 + b) = true ∧ baseTime t b = baseTime s b)
  ∧ (∀ (s : State) (b : Nat), b < 8 → baseSrc s b = 2 ∨ baseState s b ≠ tbLocked → exec (.holdTimeout b) s = .next s)
  ∧ (∀ (s : State) (who : Requester) (b v : Nat), Canon s → b < 8 → islDown s 339 = false → isOwner s who 339 4 0 = true →
      baseSrc s b = 0 → baseState s b ≠ tbUnset →
      let th := signed 48 (nfld v 47 0)
      let thr : Int := (max 1 (rf s (Adr.timTbCfg b) 15 0) * 100 * 65536 : Nat)
      (-thr ≤ th → th ≤ thr → ∃ t, exec (.offsetSample who b v) s = .next t ∧ baseState t b = tbLocked
        ∧ baseTime t b = baseTime s b
        ∧ (baseOf t b).held = none
        ∧ (baseOf t b).integ = clampPpb ((baseOf s b).integ + (rf s (Adr.timTbServo b) 15 0 : Nat) * th)
        ∧ (baseOf t b).adj = clampPpb ((rf s (Adr.timTbServo b) 31 16 : Nat) * th * 16 + (baseOf t b).integ))
      ∧ (th < -thr ∨ thr < th → ∃ t, exec (.offsetSample who b v) s = .next t ∧ baseTime t b = baseTime s b
        ∧ (baseOf t b).held = some th ∧ rb t Adr.timEvent (16 + b) = true
        ∧ baseState t b = (if baseState s b = tbLocked then tbHoldover else baseState s b)))

/-- FORCE_STEP_OFFSET, FORCE_STEP_ABSOLUTE and TB_SET complete: a forced step with its CONFIRM by the physical function (R363): OFFSET applies the held sample, ABSOLUTE the staged time; either is
refused on an UNSET base or with nothing held or staged; without CONFIRM nothing happens. TIM_TB_SET sets an UNSET base at once, which
then runs free, and stages a time for a set one; a time that is not well formed is refused (R357, R358). A step keeps I. -/
def Obligations.BasesAreSetAndSteppedByTheHost : Prop :=
  ∀ (s : State) (who : Requester) (b ofs : Nat), b < 8 → islDown s 339 = false → isPfSide s who = true →
    (baseState s b ≠ tbUnset →
      (∀ th, (baseOf s b).held = some th → exec (.forceStepOffset who b 0x57E9 ofs) s
        = .next (wrOk (forceStep (setHeld s b none) b ((baseAt s b ofs : Int) + th).toNat ofs) who Adr.timForceStep))
      ∧ ((baseOf s b).held = none → exec (.forceStepOffset who b 0x57E9 ofs) s
        = .next (wrRefuse s who Adr.timForceStep .outOfRange))
      ∧ (∀ x, (baseOf s b).staged = some x → exec (.forceStepAbsolute who b 0x57E9 ofs) s
        = .next (wrOk (forceStep (setBase s b { baseOf s b with staged := none }) b (timeTicks x) ofs) who Adr.timForceStep)))
    ∧ (baseState s b = tbUnset → exec (.forceStepOffset who b 0x57E9 ofs) s = .next (wrRefuse s who Adr.timForceStep .outOfRange)
        ∧ exec (.forceStepAbsolute who b 0x57E9 ofs) s = .next (wrRefuse s who Adr.timForceStep .outOfRange))
    ∧ (∀ x, x < 65536 → x ≠ 0x57E9 → exec (.forceStepOffset who b x ofs) s = .next (wrOk s who Adr.timForceStep)
        ∧ exec (.forceStepAbsolute who b x ofs) s = .next (wrOk s who Adr.timForceStep))
    ∧ (∀ v, let t := nfld v 127 32
        (timeOk t = false → exec (.tbSet who b v ofs) s = .next (wrRefuse s who (Adr.timTbSet b) .outOfRange))
        ∧ (timeOk t = true → baseState s b = tbUnset →
            exec (.tbSet who b v ofs) s = .next (wrOk (baseFirstSet s b (timeTicks t) ofs) who (Adr.timTbSet b)))
        ∧ (timeOk t = true → baseState s b ≠ tbUnset → exec (.tbSet who b v ofs) s
            = .next (wrOk (setBase s b { baseOf s b with staged := some t }) who (Adr.timTbSet b))))

/-- PPS_IN and PPS_OUT with their messages complete (R373 to R375): an edge within 900 ms of the last accepted one is coalesced; another gives
every base of SRC PPS_IN its sample; a good message between 10 ms and 900 ms after an edge names the next one, a bad one raises
TOD_BAD; a pulse is sent for an enabled output of a set base once the outputs are not held; no edge for STUCK_S is reported once. A C50 latch is
armed by its owner (R372). -/
def Sys2Proof.Rules.PulsesAndTimeOfDayAreTakenAndSent : Prop :=
  ∀ (s : State) (ofs : Nat), let a := Adr.timPpsCfg
    (rfW s a 2 35 35 = 1 →
      (s.tim.ppsLast ≠ 0 → devNs s ofs + 1 < s.tim.ppsLast + 900000000 →
        exec (.ppsInEdge ofs) s = .next (timEvent (satF s a 11 0 1) 6))
      ∧ (s.tim.ppsLast = 0 ∨ s.tim.ppsLast + 900000000 ≤ devNs s ofs + 1 → exec (.ppsInEdge ofs) s
        = .next ((List.range 8).foldl (fun u b => ppsSample u ofs s.tim.tod b)
            (wb (timSet s fun t => { t with ppsLast := devNs s ofs + 1, tod := none }) Adr.timEvent 7 false)))
      ∧ (rb s Adr.timEvent 7 = false → exec .ppsStuck s = .next (timEvent s 7))
      ∧ (rb s Adr.timEvent 7 = true → exec .ppsStuck s = .next s))
    ∧ (rfW s a 2 35 35 = 0 → exec (.ppsInEdge ofs) s = .next s ∧ exec .ppsStuck s = .next s)
    ∧ (∀ m, rb s Adr.timTodCfg 30 = true →
        (m.length = 16 → ofBytesBE (m.take 3) = 0xC53A01 → (m.getD 3 0).toNat.testBit 0 = true →
          crc16 (m.take 14) = ofBytesBE (m.drop 14) → s.tim.ppsLast ≠ 0 → s.tim.ppsLast + 10000000 ≤ devNs s ofs + 1 →
          devNs s ofs + 1 ≤ s.tim.ppsLast + 900000000 →
          exec (.todInMessage m ofs) s = .next (timSet s fun t => { t with tod := some (ofBytesBE ((m.drop 4).take 6)) }))
        ∧ (m.length ≠ 16 ∨ crc16 (m.take 14) ≠ ofBytesBE (m.drop 14) → exec (.todInMessage m ofs) s = .next (timEvent s 5)))
    ∧ (outsHeld s = false → rfW s a 2 63 63 = 1 → baseState s (rfW s a 2 62 60) ≠ tbUnset → prtOutOk s = true → rb s Adr.timTodCfg 31 = false →
        exec (.ppsOutPulse ofs) s = .next (emit s (.pulse ppsOut (rfW s a 2 59 48 * 100000))))
    ∧ (∀ who c (w : Word), c < 256 → islDown s c = false → isOwner s who c 4 0 = true → exec (.c50TimeLatchArm who c w) s
        = .next (wrOk (wrW s (Adr.chnTimeC50 c) (w.toNat * 2 ^ 96) 4) who (Adr.chnTimeC50 c + 12)))

/-- CAPTURE_EDGE, CAPTURE_STUCK and CAP_FIFO_READ complete (R376): an edge of EDGE within MIN_P of the last is counted as absorbed, another is recorded, or counted in LOST where
16 records wait; a stuck input gives one record; a read returns the oldest record and removes it. -/
def Sys2Proof.Rules.CaptureInputsRecordTheirEdges : Prop :=
  ∀ (s : State) (i : Nat), i < 8 → let cfg := rdW s (Adr.timCapCfg i) 2
    (∀ rising ofs, nbit cfg 63 = true → nbit (nfld cfg 62 61) (if rising then 0 else 1) = true → nbit cfg 57 = false →
      let u := wb (wb s (Adr.timCapStat i) 30 rising) (Adr.timCapStat i) 31 false
      let c := capOf s i
      let now := devNs u ofs + 1
      (c.last ≠ 0 → now < c.last + max 1 (nfld cfg 31 16) * 1000 → exec (.captureEdge i rising ofs) s
        = .next (setCap (satF u (Adr.timCapStat i) 7 0 1) i { c with absorbed := c.absorbed + 1 }))
      ∧ (c.last = 0 ∨ c.last + max 1 (nfld cfg 31 16) * 1000 ≤ now → exec (.captureEdge i rising ofs) s
        = .next (capPut (setCap u i { c with last := now }) i (ticksTime (baseAt u (nfld cfg 60 58) ofs)) rising false)))
    ∧ (∀ ofs, nbit cfg 63 = true → nfld cfg 15 0 ≠ 0 → rb s (Adr.timCapStat i) 31 = false → exec (.captureStuck i ofs) s
        = .next (timEvent (wb (capPut s i (ticksTime (baseAt s (nfld cfg 60 58) ofs)) (rb s (Adr.timCapStat i) 30) true)
            (Adr.timCapStat i) 31 true) 4))
    ∧ (∀ t rising stuck, 16 ≤ (capOf s i).fifo.length → capPut s i t rising stuck = satF s (Adr.timCapStat i) 15 8 1)
    ∧ (∀ who r rest, islDown s 339 = false → (capOf s i).fifo = r :: rest → ∃ t, exec (.capFifoRead who i) s = .next t
        ∧ capOf t i = { capOf s i with fifo := rest } ∧ t.acc.ret = mset 0 s.acc.ret who.code (BitVec.ofNat 32 r))

/-- Pulses, time of day and capture inputs. -/
def Obligations.PulsesCapturesAndTimeOfDay : Prop :=
  Sys2Proof.Rules.PulsesAndTimeOfDayAreTakenAndSent ∧ Sys2Proof.Rules.CaptureInputsRecordTheirEdges

/-- ACTION_COMMIT completes: a commit by the physical function (R377, R378): with ARM and its arguments in range it arms the slot, late where its instant is less
than 200 ns away; out of range it is refused with the slot unchanged; without ARM the slot is IDLE. -/
def Sys2Proof.Rules.ActionsAreArmedLateOrRefused : Prop :=
  ∀ (s : State) (who : Requester) (n v ofs : Nat), n < 64 → islDown s 339 = false → isPfSide s who = true →
    let a := Adr.timAct n
    let bad := !actArgsOk s (nfld v 156 153) (nfld v 95 64) (nfld v 63 32) || decide (0 < nfld v 149 120 ∧ nfld v 149 120 < 1000)
      || decide (1000000000 < nfld v 149 120) || baseState s (nfld v 159 157) == tbUnset || !timeOk (nfld v 255 160)
    let u := wrW s a (putNfld (putNfld v 151 150 0) 31 0 (actFld s n 31 0)) 8
    (nbit v 151 = true → bad = true → exec (.actionCommit who n v ofs) s = .next (wrRefuse s who a .outOfRange))
    ∧ (nbit v 151 = true → bad = false → exec (.actionCommit who n v ofs) s = .next (wrOk (actArm u n ofs) who a))
    ∧ (nbit v 151 = false → exec (.actionCommit who n v ofs) s = .next (wrOk (setActStatus u n actIdle) who a))
    ∧ (∀ u : State, let w := timSet (setAct (setAct u n 31 23 0) n 19 0 0) fun t =>
          { t with left := mset 0 t.left n (actFld (setAct (setAct u n 31 23 0) n 19 0 0) n 119 104) }
        let limit := baseAt w (actTb w n) ofs + 200 * 65536
        (limit ≤ timeTicks (actTime w n) → actArm u n ofs = setActStatus w n actArmed)
        ∧ (timeTicks (actTime w n) < limit → actFld w n 152 152 = 0 → actArm u n ofs = timEvent (setActStatus w n actLate) 3))

/-- The instruction of a timed action's kind, PULSE to ECLIPSE (R377). -/
def Sys2Proof.Machine.actionOf (n ofs : Nat) : Nat → Option Instr
  | 1 => some (.actionPulse n ofs)
  | 2 => some (.actionGclInstall n ofs)
  | 3 => some (.actionKeySwitch n ofs)
  | 4 => some (.actionTransit n ofs)
  | 5 => some (.actionDmaStart n ofs)
  | 6 => some (.actionSnapshot n ofs)
  | 7 => some (.actionEclipse n ofs)
  | _ => none

/-- At its instant an ARMED slot runs its kind's write, with status and RUNS shown: a refused write ends it FAILED with its event, a
periodic slot with runs left takes its next instant, any other is DONE; before its instant, or with another kind or state,
nothing happens. A pulse's end returns its output (R365, R377, R406). -/
def Sys2Proof.Rules.ActionsRunAtTheirInstant : Prop :=
  (∀ (s : State) (n ofs kind : Nat) (i : Instr), n < 64 → actionOf n ofs kind = some i →
      let d := timeTicks (actTime s n)
      (actStatus s n = actArmed → actKind s n = kind → d ≤ baseAt s (actTb s n) ofs → (kind = 1 → prtOutOk s = true) →
        ∀ w st, actDo s n ofs = (w, st) →
        let u := setAct (setAct (setAct w n 27 27 0) n 26 23 st) n 11 0 ((actFld w n 11 0 + 1) % 4096)
        (st = 0 → exec i s = .next (actAfter u n (d + actPeriodTicks s n)))
        ∧ (st ≠ 0 → exec i s = .next (timEvent (setActStatus u n actFailed) 2)))
      ∧ (actStatus s n ≠ actArmed ∨ actKind s n ≠ kind ∨ baseAt s (actTb s n) ofs < d → exec i s = .next s)
      ∧ (kind = 1 → actKind s n = 1 → outsHeld s = false → ∃ t, actDo s n ofs = (t, 0)
          ∧ t.sent = s.sent ++ [.pulse (nfld (actArg0 s n) 3 0) (actFld s n 63 32)]))
  ∧ (∀ (s : State) (n : Nat), ∃ t, exec (.trigPulseEnd n) s = .next t ∧ t.tim.pulses = s.tim.pulses.filter (·.1 ≠ n)
      ∧ { t with tim := s.tim } = s)

/-- An ARMED slot's action of each kind completes at its instant with the effect of its own write (R377), made as the owner of its
function would make it (log 94): a pulse on its output; the admin gate list pending; a READY downstream key slot made the sending one; a
Transit accepted at the first switch cycle; a DMA program running; the live counts copied; a channel entering Eclipse or waking. The slot
then shows status OK, RUNS one more, and is DONE or takes its next instant. -/
def Sys2Proof.Rules.TimedActionsComplete : Prop :=
  ∀ (s : State) (n ofs : Nat), n < 64 → actStatus s n = actArmed → timeTicks (actTime s n) ≤ baseAt s (actTb s n) ofs →
    let a := actArg0 s n
    let ran (w : State) : State := actAfter (setAct (setAct (setAct w n 27 27 0) n 26 23 0) n 11 0 ((actFld w n 11 0 + 1) % 4096)) n
      (timeTicks (actTime s n) + actPeriodTicks s n)
    let by_ (f t : Nat) : Requester := if owner s f t = 0 then .core 0 else .pf
    let at_ (who : Requester) : State := { s with acc := { s.acc with wrLast := mset {} s.acc.wrLast who.code {} } }
    let noted (x : State) (who : Requester) (off : Nat) : State := let y := wrOk x who off
      { y with acc := { y.acc with wrLast := s.acc.wrLast, wrBad := s.acc.wrBad, wrCount := s.acc.wrCount } }
    (actKind s n = 1 → prtOutOk s = true → exec (.actionPulse n ofs) s = .next (ran (actPulse s n)))
    ∧ (∀ x who tb base cyc es, actKind s n = 2 → x = actGclUnit a → who = (if x < 256 then by_ 2 (x / 4) else .pf) →
        unitOk s x = true → islDown s (islandOf (gclCtl x)) = false →
        (if x < 256 then isOwner s who x 2 (x / 4) else isPfSide s who) = true →
        adminList s x = some (tb, base, cyc, es) →
        ∃ t, exec (.actionGclInstall n ofs) s = .next t
          ∧ (gclOf t x).next = some ⟨tb, (gclStartAt (baseAt s tb (freeVal s % 25626)) base cyc).1, cyc, es⟩)
    ∧ (∀ c k who, actKind s n = 3 → c = nfld a 7 0 → k = nfld a 18 8 → who = by_ 3 (c / 4) → islDown s (islandOf (keyAddr c k)) = false →
        isOwner s who (islandOf (keyAddr c k)) 3 (c / 4) = true → s.prt.standby = false → actExpect s n = uEpoch s (keyAddr c k) →
        keyEff s c k = ksReady → slotDir k = 0 →
        exec (.actionKeySwitch n ofs) s = .next (ran (noted (keyActivate (at_ who) c k) who (keyAddr c k))))
    ∧ (∀ t tid x who, actKind s n = 4 → t = nfld a 5 0 → tid = tidOf t (nfld a 14 6) → x = firstSwitch (cycleNow s) ofs →
        who = by_ 5 t → islDown s (islandOf (Adr.treTransitReq t)) = false → isOwner s who (islandOf (Adr.treTransitReq t)) 5 t = true →
        actExpect s n = uEpoch s (termAddr tid) → trCheck s tid (nfld a 16 15) x ofs = none →
        exec (.actionTransit n ofs) s = .next (ran (noted
          (trResult (trAccept (at_ who) tid (nfld a 16 15) x .none) who t tid .ok x) who (Adr.treTransitReq t))))
    ∧ (∀ d, actKind s n = 5 → d = nfld a 4 0 → islDown s 340 = false → dmaBusy s d = false → dmaGen s d ≠ 0 →
        rb s (Adr.dmaChCfg d) 31 = true →
        ∃ t, dmaStart s d = some t ∧ exec (.actionDmaStart n ofs) s = .next (ran t))
    ∧ (actKind s n = 6 → rb s Adr.obsSnapCtl 29 = false → statOn s = true → snapBusy s ofs = false →
        ∃ t, exec (.actionSnapshot n ofs) s = .next t ∧ t.stat.shadow = s.stat.live
          ∧ t.stat.shadowSeq = (rf s Adr.obsSnapStat 23 0 + 1) % 2 ^ 24)
    ∧ (∀ c who, actKind s n = 7 → c = nfld a 7 0 → who = by_ 5 (c / 4) → islDown s (islandOf (Adr.chnState c)) = false →
        isOwner s who (islandOf (Adr.chnState c)) 5 (c / 4) = true → s.prt.standby = false → actExpect s n = uEpoch s (Adr.chnState c) →
        isN200 s c = true → applyHolds s (c / 4) = false →
        (nbit a 8 = false → chnEff s c = chRun → otherRuns s c = true →
          exec (.actionEclipse n ofs) s = .next (ran (noted (eclipseEntering (at_ who) c) who (Adr.chnState c))))
        ∧ (nbit a 8 = true → chnEff s c = chEclipse →
          exec (.actionEclipse n ofs) s = .next (ran (noted (showEclipsed (treeFollow (setIsl (unitAccept (at_ who) (Adr.chnState c)
            chWaking 0) c islRun) (c / 4)) (c / 4)) who (Adr.chnState c)))))

/-- Timed actions. -/
def Obligations.ActionsAreArmedAndRunAtTheirInstant : Prop :=
  Sys2Proof.Rules.ActionsAreArmedLateOrRefused
    ∧ Sys2Proof.Rules.ActionsRunAtTheirInstant
    ∧ Sys2Proof.Rules.TimedActionsComplete

/-! ## Command rings and their table commands (R391 to R398) -/

/-- RING_PROD_WRITE, RING_RESOLVE and BAD_OPCODE complete, the control complex up: a write of PROD by the ring's function takes the value unless more than 256 commands would wait, and another function's is refused;
RESOLVE answers every record still ACCEPTED with NOT_DONE RESOLVED and clears RESTART; a listed ring command whose record is broken
is refused with BAD_RECORD, and one whose opcode is not listed with BAD_OPCODE (R391 to R394, R397). -/
def Obligations.RingsTakeResolveAndRefuseCommands : Prop :=
  ∀ (s : State) (who : Requester) (r : Nat), r < 16 → islDown s 336 = false →
    (∀ v, let u := endSource s (342 + r)
      (fnOf u who ≠ ringFn u r → exec (.ringProdWrite who r v) s = .next (wrRefuse u who (Adr.mbxRingIdx r) .notOwner))
      ∧ (fnOf u who = ringFn u r → 256 < modSub (v % 512) (ringCons u r) 512 →
          exec (.ringProdWrite who r v) s = .next (wrRefuse u who (Adr.mbxRingIdx r) .outOfRange))
      ∧ (fnOf u who = ringFn u r → modSub (v % 512) (ringCons u r) 512 ≤ 256 →
          exec (.ringProdWrite who r v) s = .next (wrOk (wf u (Adr.mbxRingIdx r) 8 0 v) who (Adr.mbxRingIdx r))))
    ∧ (fnOf s who = ringFn s r → exec (.ringResolve who r) s = .next (wrOk (wb ((List.range 256).foldl (fun s i =>
          if recAccepted s (outAddr r i) then resolveRec s (outAddr r i) else s) s) (Adr.mbxRingCfg r) 8 false) who (Adr.mbxRingCfg r)))
    ∧ (∀ op, canTake s r op = true →
        (slotOk s (slotAddr r (ringCons s r)) = false →
          (op = 0x4003 → exec (.abandon r) s = .next (cmdPut (ringStep s r) (slotCtx s r) (refusal .badRecord)))
          ∧ (op = 0x5003 → exec (.secStatus r) s = .next (cmdPut (ringStep s r) (slotCtx s r) (refusal .badRecord))))
        ∧ (opcodeListed op = false → slotOk s (slotAddr r (ringCons s r)) = true →
          exec (.badOpcode r) s = .next (cmdPut (ringStep s r) (slotCtx s r) (refusal .badOpcode))))
    ∧ (ringOn s r = false → exec (.badOpcode r) s = .next s ∧ ∀ f, exec (.selfTest r f) s = .next s)

/-- A table command of a ring by opcode: its operation, the bytes of an item, and what an item writes. -/
def Sys2Proof.Machine.tableCmd (r : Nat) :
    Nat → Option (Instr × (State → CmdCtx → State × OutRec) × Nat × (State → CmdCtx → List Byte → State × Option Status))
  | 0x2001 => some (.allocSet r, cmdAllocSet, 40, fun u x b =>
      if basic u 1 (treeOfAid (leAt b 0 8) % 64) then geAllocWrite u (leAt b 0 8) (putNfld (leAt b 8 32) 223 208 x.gen)
      else (u, some .notOwner))
  | 0x2002 => some (.queueSet r, cmdQueueSet, 40, fun u x b =>
      if basic u 2 (treeOfQid (leAt b 0 8) % 64) then dsQueueWrite u (leAt b 0 8) (putNfld (leAt b 8 32) 223 208 x.gen)
      else (u, some .notOwner))
  | 0x2003 => some (.termNodeSet r, cmdTermNodeSet, 24, fun u x b =>
      if basic u 2 (treeOfTid (leAt b 0 8) % 64) then dsTermWrite u (leAt b 0 8) (putNfld (leAt b 8 16) 37 22 x.gen)
      else (u, some .notOwner))
  | 0x2005 => some (.ruleSet r, cmdRuleSet, 72, fun u x b =>
      tblWrite u .pf tbCls (leAt b 0 8) (tblSetGen tbCls 64 (leAt b 8 64) x.gen))
  | _ => none

/-- A table command of generation 0 is refused with OUT_OF_RANGE and writes no entry; else each of its items in host memory is one entry
write: a good one counts in PROGRESS, and the first refused one sets FIRST and makes the record PARTIAL; TMPL_APPLY writes each
terminal's template (R167, R200, R209, R308, R394). -/
def Sys2Proof.Rules.TableCommandsRunTheirItems : Prop :=
  (∀ (s : State) (r op : Nat) (i : Instr) (f : State → CmdCtx → State × OutRec) (size : Nat)
      (w : State → CmdCtx → List Byte → State × Option Status), tableCmd r op = some (i, f, size, w) → ringTakes s r op →
      let u := ringStep s r
      let x := slotCtx s r
      (x.gen = 0 → exec i s = .next (cmdPut u x (refusal .outOfRange)))
      ∧ (x.gen ≠ 0 → x.count = 0 → exec i s = .next (cmdPut u x { state := .done }))
      ∧ (x.gen ≠ 0 → x.count = 1 → x.fn = 0 →
          let p := w u x (mbytes 0 u.hostMem x.addr size)
          (p.2 = none → exec i s = .next (cmdPut p.1 x { state := .done, progress := 1 }))
          ∧ (∀ st, p.2 = some st →
              exec i s = .next (cmdPut p.1 x { state := .partly, first := 0, firstStatus := st.code }))))
  ∧ (∀ (s : State) (r : Nat) (items : List (Nat × Nat)), ringTakes s r 0x2004 →
      let u := ringStep s r
      let x := slotCtx s r
      (x.gen = 0 → exec (.tmplApply r items) s = .next (cmdPut u x (refusal .outOfRange)))
      ∧ (x.gen ≠ 0 → itemsOwn u x.fn (items.map (·.1)) = true →
          exec (.tmplApply r items) s = .next (
            let p := runItems (fun w (i : Nat × Nat) =>
              if 2 ^ 15 ≤ i.1 ∨ treeValid w (treeOfTid i.1) = false ∨ slotLimit w (treeOfTid i.1) ≤ slotOfTid i.1
                  ∨ tmplCount u.img.templates ≤ i.2 ∨ tmplValid u.img.templates i.2 = false then (w, some .outOfRange)
              else if basic w 2 (treeOfTid i.1) then tmplWrite w u.img.templates i.1 i.2 x.gen else (w, some .notOwner)) items 0 u {}
            cmdPut p.1 x p.2)))
  ∧ (∀ (s : State) (items : List Nat) (st : Status), items ≠ [] →
      let p := runItems (fun w (_ : Nat) => (w, some st)) items 0 s {}
      p.1 = s ∧ p.2.progress = 0 ∧ p.2.first = 0 ∧ p.2.firstStatus = st.code ∧ p.2.state = .partly)

/-- The table commands complete (R167, R200, R209, R308, R394): with a generation that is not 0, for the physical function, at the basic
level, one good item in host memory is one entry written, and the record is DONE with PROGRESS 1: an allocation that passes the checks of
R167 with its counts begun, a queue and a terminal node that pass theirs with their buckets started again, a classification rule, and a
template of no queue, which writes the terminal's node. -/
def Sys2Proof.Rules.TableRingCommandsComplete : Prop :=
  ∀ (s : State) (r : Nat), let u := ringStep s r
    let x := slotCtx s r
    let b (n : Nat) : List Byte := mbytes 0 u.hostMem x.addr n
    x.gen ≠ 0 → x.count = 1 → x.fn = 0 →
    (∀ i v, v = putNfld (leAt (b 40) 8 32) 223 208 x.gen → i = leAt (b 40) 0 8 → ringTakes s r 0x2001 → i < 2 ^ 19 →
      treeValid u (treeOfAid i) = true → basic u 1 (treeOfAid i % 64) = true → aValid v = true → geAllocCheck u i v = none →
      isC50 u (termChan u (aTid v)) = false →
      exec (.allocSet r) s
        = .next (cmdPut (setDyn (wrT u (geAllocAt i) v 8) i (dynWritten u i v)) x { state := .done, progress := 1 }))
    ∧ (∀ i v, v = putNfld (leAt (b 40) 8 32) 223 208 x.gen → i = leAt (b 40) 0 8 → ringTakes s r 0x2002 → i < 2 ^ 20 →
      treeValid u (treeOfQid i) = true → basic u 2 (treeOfQid i % 64) = true → qValid v = true → dsQueueCheck u i v = none →
      exec (.queueSet r) s
        = .next (cmdPut (wrT (restartBuckets u i (queueP (dsQueue u i)) (queueP v)) (dsQueueAt i) v 8) x { state := .done, progress := 1 }))
    ∧ (∀ i v, v = putNfld (leAt (b 24) 8 16) 37 22 x.gen → i = leAt (b 24) 0 8 → ringTakes s r 0x2003 → i < 2 ^ 15 →
      treeValid u (treeOfTid i) = true → basic u 2 (treeOfTid i % 64) = true → nbit v 127 = true → dsTermCheck v = none →
      exec (.termNodeSet r) s = .next (cmdPut (wrT (restartBuckets u (nodeTerm i) (termP (dsTerm u i)) (termP v)) (dsTermAt i) v 4) x
        { state := .done, progress := 1 }))
    ∧ (∀ i v st n, v = tblSetGen tbCls 64 (leAt (b 72) 8 64) x.gen → i = leAt (b 72) 0 8 → ringTakes s r 0x2005 →
      tblShape u tbCls = some (st, n) → i < n → tblMayWrite u .pf tbCls i v = true → tblGen tbCls st v ≠ 0 → tblBad u tbCls i v = false →
      exec (.ruleSet r) s = .next (cmdPut (showPlanes (tblPut u tbCls i v) tbCls) x { state := .done, progress := 1 }))
    ∧ (∀ tid k, ringTakes s r 0x2004 → tid < 2 ^ 15 → treeValid u (treeOfTid tid) = true → slotOfTid tid < slotLimit u (treeOfTid tid) →
      k < tmplCount u.img.templates → tmplValid u.img.templates k = true → tmplQcount u.img.templates k = 0 →
      basic u 2 (treeOfTid tid) = true →
      let v := putNfld (putNfld (tmplNode u.img.templates k) 127 127 1) 37 22 x.gen
      nbit v 127 = true → dsTermCheck v = none →
      exec (.tmplApply r [(tid, k)]) s
        = .next (cmdPut (wrT (restartBuckets u (nodeTerm tid) (termP (dsTerm u tid)) (termP v)) (dsTermAt tid) v 4) x
            { state := .done, progress := 1 }))

/-- An allocation write that is admitted keeps the assured sum within the channel's limit (R167, R169): where the check answers nothing, every
channel that counts the terminal has room for the units the entry adds. -/
def Sys2Proof.Rules.AdmittedAllocationsFitTheAssuredLimit : Prop :=
  ∀ (s : State) (aid v c : Nat), geAllocCheck s aid v = none → c ∈ countChans s (aTid v) →
    let old := geAlloc s aid
    let oldUnits := if aValid old && decide (c ∈ countChans s (aTid old)) then allocUnits old else 0
    aStream v ≤ 30 ∧ aAssured v ≤ aMax v ∧ aPart v = termPart s (aTid v)
      ∧ (oldUnits < allocUnits v → assuredSum s c - oldUnits + allocUnits v ≤ assuredCap s c)

/-- Table ring commands. -/
def Obligations.TableRingCommandsRunTheirItems : Prop :=
  Sys2Proof.Rules.TableCommandsRunTheirItems
    ∧ Sys2Proof.Rules.TableRingCommandsComplete
    ∧ Sys2Proof.Rules.AdmittedAllocationsFitTheAssuredLimit

/-- FLASH_WRITE, FLASH_ERASE and FLASH_READ complete: the flash commands of the physical function's ring over a range of a slot of 16 MiB (R394): a write stores the bytes of host memory and no
other byte of flash changes, an erase makes whole 64 KiB sectors read erased, a read copies to host memory; a range outside the
slot is refused. -/
def Obligations.FlashCommandsTouchOnlyTheirRange : Prop :=
  ∀ (s : State) (r slot ofs host len : Nat), Canon s → (slotCtx s r).fn = 0 → slot < 2 →
    let a := slot * 2 ^ 24 + ofs
    (ofs + len ≤ 2 ^ 24 →
      (ringTakes s r 0x0001 → ∃ t, exec (.flashWrite r slot ofs host len) s = .next t
        ∧ mbytes 0xFF t.flash a len = mbytes 0 s.hostMem host len
        ∧ (∀ x, x < a ∨ a + len ≤ x → mget 0xFF t.flash x = mget 0xFF s.flash x) ∧ t.hostMem = s.hostMem)
      ∧ (ringTakes s r 0x0002 → 0 < len → ∃ t, exec (.flashErase r slot ofs len) s = .next t
        ∧ (∀ x, mget 0xFF t.flash x = if a / 65536 ≤ x / 65536 ∧ x / 65536 ≤ (a + len - 1) / 65536 then 0xFF else mget 0xFF s.flash x))
      ∧ (ringTakes s r 0x0003 → ∃ t, exec (.flashRead r slot ofs host len) s = .next t
        ∧ mbytes 0 t.hostMem host len = mbytes 0xFF s.flash a len
        ∧ (∀ x, x < host ∨ host + len ≤ x → mget 0 t.hostMem x = mget 0 s.hostMem x) ∧ t.flash = s.flash))
    ∧ (2 ^ 24 < ofs + len → ringTakes s r 0x0001 →
        exec (.flashWrite r slot ofs host len) s = .next (cmdPut (ringStep s r) (slotCtx s r) (refusal .outOfRange)))

/-! ## DMA programs and receive rings (R399 to R410) -/

/-- Channel d's program takes the instruction op at its PC now (R400). -/
def Sys2Proof.Machine.dmaAt (s : State) (d : Nat) (p : DmaProg) (op : DmaOp) : Prop :=
  d < 32 ∧ dmaBusy s d = true ∧ dmaProg s d = some p ∧ p.fence = false ∧ dmaPc s d < 4096
    ∧ ∃ a b c w, dmaFetch s d (dmaPc s d) = some (a, b, c, w) ∧ decodeInstr (dmaPc s d) a b c w = some op

/-- START by the channel's function begins an enabled idle channel with a generation, its record ACCEPTED; a busy one, one that is not
enabled, or one of generation 0 is refused; ABORT ends a running program as ABORTED (R400, R409). A start leaves PC 0, nothing done and
the channel RUNNING. -/
def Sys2Proof.Rules.DmaProgramsStartAndAbortByTheirOwner : Prop :=
  ∀ (s : State) (who : Requester) (d : Nat), d < 32 → islDown s 340 = false → dmaOwner s who d = true →
    (∀ t, dmaStart s d = some t → exec (.dmaStart who d) s = .next (wrOk t who (Adr.dmaChCtl d)))
    ∧ (dmaBusy s d = true ∨ dmaGen s d = 0 ∨ rb s (Adr.dmaChCfg d) 31 = false →
        exec (.dmaStart who d) s = .next (wrRefuse s who (Adr.dmaChCtl d) .outOfRange))
    ∧ (Canon s → dmaBusy s d = false → dmaGen s d ≠ 0 → rb s (Adr.dmaChCfg d) 31 = true →
        ∃ t, exec (.dmaStart who d) s = .next t ∧ dmaState t d = dsRunning ∧ dmaPc t d = 0
          ∧ ∃ p, dmaProg t d = some p ∧ p.done = 0 ∧ p.moved = 0 ∧ p.loops = [])
    ∧ exec (.dmaAbort who d) s = .next (wrOk (dmaAbort s d deNone) who (Adr.dmaChCtl d))

/-- A MOVE's commands complete: it takes its next bursts, each with its request where it names a line, without which it waits; after its last write it is complete
and PC advances; a beat that fails ends the program with its error, RESIDUE and the bytes of that beat free (R402, R406, R409). -/
def Sys2Proof.Rules.MovesCopyBurstByBurst : Prop :=
  ∀ (s : State) (d : Nat) (p : DmaProg) (ss ds : DmaSpace) (ts rel : Bool) (req burst len srcA dstA w3 : Nat),
    dmaAt s d p (.move ss ds ts rel req burst len srcA dstA w3) → ds ≠ .inject →
    let src := (moveAddrs p rel srcA dstA).1
    let dst := (moveAddrs p rel srcA dstA).2
    (∀ n ofs ms, p.moved < len → exec (.moveInstr d n ofs ms) s
      = .next (moveBursts d ss ds req burst src dst len ofs n p.moved (if p.moved = 0 then setResidue s d len else s)))
    ∧ (p.moved = len → exec (.moveComplete d) s = .next (dmaNext s d))
    ∧ (p.moved < len → exec (.moveComplete d) s = .next s)
    ∧ (∀ ofs err, p.moved < len → dmaState s d = dsRunning → err = deHost ∨ err = deDevice →
        exec (.dmaBeatError d err 0 ofs) s
          = .next (beatFail s d err ds (dst + (beatAt (descending ss ds src dst len) len p.moved).1) len p.moved
              (beatAt (descending ss ds src dst len) len p.moved).2 ofs))
    ∧ (∀ n ofs (u : State), req < 72 → rf u (Adr.dmaReqStat req) 7 0 = 0 → p.moved < len →
        moveBursts d ss ds req burst src dst len ofs (n + 1) p.moved u = dmaWaits u d (some req))

/-- A MOVE to INJECT completes its burst: with the control pool's cells free and its source readable it takes its frame of LEN bytes, whole,
into a HOST_INJECT Clause, stamped as the MOVE's first look, RESIDUE 0, and hands it on; with no cells free it waits (R349, R408). -/
def Sys2Proof.Rules.InjectionsHandOnTheirFrame : Prop :=
  ∀ (s : State) (d n ofs : Nat) (ms : List Nat) (p : DmaProg) (ss : DmaSpace) (ts rel : Bool) (burst len srcA dstA w3 : Nat),
    dmaAt s d p (.move ss .inject ts rel 0x7F burst len srcA dstA w3) → p.moved = 0 → 0 < len →
    let src := (moveAddrs p rel srcA dstA).1
    let u := setResidue s d len
    let stamp := p.tsIn.getD (baseAt u 0 ofs / 65536 % 2 ^ 40)
    let v := dmaUpd u d fun p => { p with tsIn := some stamp }
    let run := setDmaState v d dsRunning
    ((placeCells v 9 (dmaFn v d - 1) len []).isNone = true → exec (.moveInstr d n ofs ms) s = .next (dmaWaits v d none))
    ∧ ((placeCells v 9 (dmaFn v d - 1) len []).isNone = false → ∀ r b, readSide run d ss src len ofs = (r, some b) →
        let w := pc r { code := 5, n := ceilDiv len 64, unit := some d, who := some (.dma d),
                        addrs := if ss = .device then [src] else [] }
        let f : Frame :=
          { cl := injectClause w d len stamp w3, data := b, tsReq := if ts then some (d, dmaPc w d) else none }
        exec (.moveInstr d n ofs ms) s
          = .next (injectGo (setResidue (dmaUpd w d fun p => { p with moved := len, any := true }) d 0) d f (nbit w3 63) ms))

/-- A copy of host memory to host addresses never happens (R401); of a copy from device memory to the host, each beat puts its bytes at their
destination and changes no other byte of host memory, and RESIDUE is what is left (R402, R407). -/
def Sys2Proof.Rules.MoveBeatsWriteOnlyTheirBytes : Prop :=
  (∀ a b c w, nfld a 59 58 = 1 → nfld a 57 56 = 1 → decodeMove a b c w = none)
  ∧ (∀ (s : State) (d src dst len m ofs : Nat) (b : List Byte), Canon s → m < len → d < 32 →
      let n := min 64 (len - m)
      (readSide s d .device (src + m) n ofs).2 = some b → b.length = n →
      let r := moveBeat s d .device .host src dst len m ofs
      r.2 = true ∧ mbytes 0 r.1.hostMem (dst + m) n = b
        ∧ (∀ x, x < dst + m ∨ dst + m + n ≤ x → mget 0 r.1.hostMem x = mget 0 s.hostMem x)
        ∧ dmaFld r.1 d 31 0 = (len - (m + n)) % 2 ^ 32)

/-- DMA moves. -/
def Obligations.MovesCopyTheirBytesAndNoOthers : Prop :=
  Sys2Proof.Rules.MovesCopyBurstByBurst
    ∧ Sys2Proof.Rules.MoveBeatsWriteOnlyTheirBytes
    ∧ Sys2Proof.Rules.InjectionsHandOnTheirFrame

/-- LOOP completes: it jumps back COUNT times, moving both offsets by its steps, and then goes on; a fifth loop open at once ends the program with
LOOP_DEPTH (R402). Each jump and the going on count as an instruction done. -/
def Sys2Proof.Rules.LoopsRepeatCountTimesThenGoOn : Prop :=
  ∀ (s : State) (d : Nat) (p : DmaProg) (count target : Nat) (a b : Int), dmaAt s d p (.loop count target a b) →
    let i := dmaPc s d
    let q (n : Nat) : DmaProg :=
      { p with loops := mput p.loops i n, ofsSrc := p.ofsSrc + a, ofsDst := p.ofsDst + b, done := p.done + 1 }
    let jump (n : Nat) : State := setDmaPc (setDmaProg s d (q n)) d target
    (p.loops.find? (·.1 = i) = none →
      (p.loops.length < 4 → exec (.loop d) s = .next (jump (count - 1)))
      ∧ (4 ≤ p.loops.length → exec (.loop d) s = .next (dmaFail s d deLoopDepth)))
    ∧ (∀ k n, p.loops.find? (·.1 = i) = some (k, n + 1) → exec (.loop d) s = .next (jump n))
    ∧ (∀ k, p.loops.find? (·.1 = i) = some (k, 0) →
        exec (.loop d) s = .next (dmaNext (setDmaProg s d { p with loops := mdel p.loops i }) d))

/-- Each WAIT completes: it goes on when its request, register bit or time is there and waits else; looked at again while WAITING it does the same; at
its TIMEOUT it ends the program with WAIT_TIMEOUT (R403, R406). -/
def Sys2Proof.Rules.WaitsGoOnWaitOrTimeOut : Prop :=
  ∀ (s : State) (d : Nat) (p : DmaProg) (ofs : Nat),
    (∀ l t, dmaAt s d p (.waitReq l t) →
      (∀ u, reqTake s d l = some u → exec (.waitRequest d) s = .next (dmaNext u d))
      ∧ (reqTake s d l = none → exec (.waitRequest d) s = .next (dmaWaits s d (some l))))
    ∧ (∀ a mask t q, dmaAt s d p (.waitReg a mask t) → devPlace s d a 4 = some q →
        let r := devRead s d q 4 ofs
        (ofBytesLE r.2 &&& mask ≠ 0 → exec (.waitReg d ofs) s = .next (dmaNext r.1 d))
        ∧ (ofBytesLE r.2 &&& mask = 0 → exec (.waitReg d ofs) s = .next (dmaWaits r.1 d none)))
    ∧ (∀ tb x t, dmaAt s d p (.waitTime tb x t) → baseState s tb ≠ tbUnset →
        (timeTicks x ≤ baseAt s tb ofs → exec (.waitTime d ofs) s = .next (dmaNext s d))
        ∧ (baseAt s tb ofs < timeTicks x → exec (.waitTime d ofs) s = .next (dmaWaits s d none))
        ∧ (dmaState s d = dsWaiting → exec (.waitSatisfied d ofs) s = exec (.waitTime d ofs) s)
        ∧ (dmaState s d = dsWaiting → t ≠ 0 → exec (.waitTimeout d) s = .next (dmaFail s d deWaitTimeout))
        ∧ (t = 0 → exec (.waitTimeout d) s = .next s))

/-- DMA loops and waits. -/
def Obligations.LoopsAndWaitsGoOn : Prop :=
  Sys2Proof.Rules.LoopsRepeatCountTimesThenGoOn ∧ Sys2Proof.Rules.WaitsGoOnWaitOrTimeOut

/-- SIGNAL, FENCE and END complete: SIGNAL sends its vector, writes its flag's eight bytes or starts another channel, and goes on; FENCE and END wait for the flushing reads
of the destinations touched, and with none FENCE goes on and END writes the final record DONE at once (R401, R404, R410). -/
def Obligations.SignalsFencesAndEndsComplete : Prop :=
  ∀ (s : State) (d : Nat) (p : DmaProg),
    (∀ v, dmaAt s d p (.interrupt v) → exec (.signalInterrupt d) s = .next (dmaNext (sendMsix s (dmaFn s d) v) d))
    ∧ (∀ a v ofs, dmaAt s d p (.flag .host a v) → exec (.signalFlag d ofs) s
        = .next (dmaNext (dmaTouch (putHost s a (bytesLE 8 v)) d 0) d))
    ∧ (∀ c, dmaAt s d p (.doorbell c) → exec (.signalDoorbell d) s = .next (dmaNext ((dmaStart s c).getD s) d))
    ∧ (dmaAt s d p .fence → (p.touched = [] → exec (.fence d) s = .next (dmaNext s d))
        ∧ (p.touched ≠ [] → exec (.fence d) s = .next (setDmaProg s d { p with fence := true, ending := false })))
    ∧ (dmaAt s d p .finish → (p.touched = [] → exec (.endProg d) s
          = .next (dmaFinal s d { p with done := p.done + 1 } dsDone deNone { state := .done }))
        ∧ (p.touched ≠ [] → exec (.endProg d) s = .next (setDmaProg s d { p with fence := true, ending := true })))
    ∧ (dmaProg s d = some p → p.fence = true →
        let q := { p with fence := false, ending := false, touched := [] }
        (p.ending = false → exec (.fenceComplete d) s = .next (dmaNext (setDmaProg s d q) d))
        ∧ (p.ending = true → ∃ t, exec (.fenceComplete d) s = .next t
            ∧ t = dmaFinal (setDmaProg s d q) d { q with done := q.done + 1 } dsDone deNone { state := .done }))

/-- Request lines and receive rings (R399, R406), their commands completing: each set bit of DMA_REQ_RAISE raises its line, a pin edge held for 20 ns its own; a frame
for a receive ring with a buffer that fits is written there with its descriptor, CONS advances and its buffer is freed, else it counts
in RX_DROP. No byte outside the buffer and the descriptor changes. -/
def Sys2Proof.Rules.RequestLinesAndReceiveRingsTakeEntries : Prop :=
  (∀ (s : State) (who : Requester) (v : Word), islDown s 340 = false → exec (.dmaReqRaise who v) s
      = .next (wrOk ((List.range 32).foldl (fun s l => if v.toNat.testBit l then dmaReq s l else s) s) who Adr.dmaReqRaise))
  ∧ (∀ (s : State) (n h : Nat), n < 8 → (20 ≤ h → exec (.dmaReqEdge n h) s = .next (dmaReq s (64 + n)))
      ∧ (h < 20 → exec (.dmaReqEdge n h) s = .next s))
  ∧ (∀ s : State, s.boot.dataStopped = false → s.flow.toHost = [] → exec .hostRingWrite s = .next s)
  ∧ (∀ (s : State) (i : Nat) (f : Frame) (rest : List (Nat × Frame)), Canon s → s.boot.dataStopped = false → i < 64 → s.flow.toHost = (i, f) :: rest →
      f.cl.buf = noBuf →
      let cfg := rdW s (Adr.dmaRxCfg i) 4
      let prod := rfW s (Adr.dmaRxIdx i) 2 11 0 % rxSize s i
      let cons := rfW s (Adr.dmaRxIdx i) 2 43 32 % rxSize s i
      let at_ := nfld cfg 127 64 + 32 * cons
      let addr := ofBytesLE (mbytes 0 s.hostMem at_ 8)
      let size := ofBytesLE (mbytes 0 s.hostMem (at_ + 8) 4)
      let len := f.data.length + f.trl.length
      (nbit cfg 63 = true → prod ≠ cons → len ≤ size → s.boot.linkUp = true → addr + len ≤ at_ ∨ at_ + 32 ≤ addr →
        ∃ t, exec .hostRingWrite s = .next t ∧ t.flow.toHost = rest ∧ mbytes 0 t.hostMem addr len = f.data ++ f.trl
          ∧ mbytes 0 t.hostMem at_ 32 = rxDescriptor addr f
          ∧ (∀ x, (x < addr ∨ addr + len ≤ x) → (x < at_ ∨ at_ + 32 ≤ x) → mget 0 t.hostMem x = mget 0 s.hostMem x)
          ∧ rfW t (Adr.dmaRxIdx i) 2 43 32 = (cons + 1) % rxSize s i)
      ∧ (nbit cfg 63 = false ∨ prod = cons ∨ size < len ∨ s.boot.linkUp = false →
        ∃ t, exec .hostRingWrite s = .next t ∧ t.flow.toHost = rest ∧ t.hostMem = s.hostMem
          ∧ rfW t (Adr.dmaRxIdx i) 2 63 48 = min 0xFFFF (rfW s (Adr.dmaRxIdx i) 2 63 48 + 1)))

/-- DMA programs, request lines and receive rings. -/
def Obligations.DmaProgramsStartAbortAndTakeRequests : Prop :=
  Sys2Proof.Rules.DmaProgramsStartAndAbortByTheirOwner
    ∧ Sys2Proof.Rules.RequestLinesAndReceiveRingsTakeEntries

/-! ## The protection pair (R411 to R429) -/

/-- The commands of release and rejoin complete. A commanded release by the owner of function 7 with the current EPOCH waits for the digest under way, on an ACTIVE device whose peer
reads READY or with FORCE_OK; a rejoin takes RELEASED to NOT_READY unless DETAIL is FATAL; any other write is OUT_OF_RANGE, a wrong
EXPECT is STALE; ALIVE_MS without a write of PRT_ALIVE releases the token of an ACTIVE device at once with cause ALIVE, and closes
its gate; REVERT releases like a command (R25, R416, R428, R429). -/
def Sys2Proof.Rules.ReleasesAndRejoinsFollowTheInterlock : Prop :=
  (∀ (s : State) (who : Requester) (e : Nat), islDown s 341 = false →
    (isOwner s who 341 7 0 = true →
      (e = uEpoch s Adr.prtState →
        (prtSt s = ptActive → (rb s Adr.prtCfg 28 = true ∨ linkFld s 59 56 = ptReady) →
          exec (.prtStateReleased who e) s = .next (wrOk (prtUpd s fun p => { p with release := true }) who Adr.prtState))
        ∧ (prtSt s ≠ ptActive ∨ (rb s Adr.prtCfg 28 = false ∧ linkFld s 59 56 ≠ ptReady) →
          exec (.prtStateReleased who e) s = .next (wrRefuse s who Adr.prtState .outOfRange))
        ∧ (prtSt s = ptReleased → uDetail s Adr.prtState ≠ 2 → exec (.prtStateNotReady who e) s
          = .next (wrOk (prtEval (prtUpd (plkState (unitAccept s Adr.prtState ptNotReady 0)) fun p => { p with held := false }))
              who Adr.prtState))
        ∧ (prtSt s ≠ ptReleased ∨ uDetail s Adr.prtState = 2 →
          exec (.prtStateNotReady who e) s = .next (wrRefuse s who Adr.prtState .outOfRange)))
      ∧ (e ≠ uEpoch s Adr.prtState → exec (.prtStateReleased who e) s = .next (wrStale s who Adr.prtState)
          ∧ exec (.prtStateNotReady who e) s = .next (wrStale s who Adr.prtState)))
    ∧ (isOwner s who 341 7 0 = false → exec (.prtStateReleased who e) s = .next (wrNotOwner s who Adr.prtState 7 0))
    ∧ (isCore who = true → exec (.prtAlive who) s = .next (wrOk s who Adr.prtAlive))
    ∧ (isCore who = false → exec (.prtAlive who) s = .next (wrRefuse s who Adr.prtAlive .notAuthorized)))
  ∧ (∀ s : State, Canon s →
    (prtSt s = ptActive ∨ prtSt s = ptClaiming → ∃ t, exec .aliveTimeout s = .next t
        ∧ (Adr.prtState ∈ s.unit.changed → prtSt t = ptReleased)
        ∧ (Adr.prtState ∉ s.unit.changed → uState t Adr.prtState = ptReleased ∧ uDetail t Adr.prtState = 3)
        ∧ t.prt.driving = false ∧ t.prt.standby = true ∧ t.prt.held = true ∧ gateMay t = false ∧ rb t Adr.prtEvent 1 = true)
    ∧ (prtSt s ≠ ptActive → prtSt s ≠ ptClaiming → exec .aliveTimeout s = .next s)
    ∧ (rb s Adr.prtCfg 30 = true → rb s Adr.prtCfg 29 = false → prtSt s = ptActive → linkFld s 59 56 = ptReady →
        basic s 7 0 = true → exec .revertWtrExpire s = .next (prtUpd s fun p => { p with release := true })))

/-- The events of the token complete (R413, R414, R417): a standby claims only past T_ACQ of its ROLE and of the peer's heartbeat; the secondary gives up its
claim where it sees the fast heartbeat in the window, any other claimant takes over; three edges within 4 us read FAST; a lost
heartbeat is reported once; a line low with no driver and no fast heartbeat, or one that toggles, is STUCK and blocks a claim;
the gate follows the line. -/
def Sys2Proof.Rules.TokenIsClaimedKeptOrGivenUp : Prop :=
  ∀ s : State,
    (∀ role ns, prtRole s = some role →
      (prtStandby s = true → s.prt.stuck = false → linkFld s 54 54 = 0 →
          (if role = 0 then 2000 else if peerHb s = 0 then 1000000 else 6000) ≤ ns →
        exec (.tokenClaim ns) s = .next (prtSet (setLink (prtUpd s fun p =>
          { p with driving := true, prev := (prtSt s, uDetail s Adr.prtState), fastSeen := peerHb s == 2 }) 54 54 1)
            ptClaiming 0))
      ∧ (prtStandby s = false ∨ s.prt.stuck = true ∨ linkFld s 54 54 ≠ 0
          ∨ ns < (if role = 0 then 2000 else if peerHb s = 0 then 1000000 else 6000) → exec (.tokenClaim ns) s = .next s))
    ∧ (∀ ofs, prtSt s = ptClaiming →
      (s.prt.fastSeen = true → prtRole s = some 1 → exec (.claimWindowEnd ofs) s
        = .next (prtEvent (prtSet (setLink (prtUpd s fun p => { p with driving := false }) 54 54 0) s.prt.prev.1 s.prt.prev.2) 8))
      ∧ (s.prt.fastSeen = false ∨ prtRole s ≠ some 1 → exec (.claimWindowEnd ofs) s = .next (takeOver s ofs)))
    ∧ (∀ ofs, prtSt s ≠ ptClaiming → exec (.claimWindowEnd ofs) s = .next s)
    ∧ (∀ ofs a b rest, prtSt s ≠ ptSolo → s.prt.hb = a :: b :: rest → ∃ t, exec (.peerHbEdge ofs) s = .next t
        ∧ t.prt.hb = [devNs s ofs, a, b]
        ∧ (Canon s → peerHb t = if devNs s ofs < b + 4000 then 2 else 1)
        ∧ (t.prt.fastSeen = (s.prt.fastSeen || (decide (devNs s ofs < b + 4000) && prtSt s == ptClaiming))))
    ∧ (prtSt s ≠ ptSolo → peerHb s ≠ 0 → exec .peerHbLost s
        = .next (prtEvent (setLink (prtUpd s fun p => { p with hb := [] }) 53 52 0) 7))
    ∧ (prtSt s = ptSolo ∨ peerHb s = 0 → exec .peerHbLost s = .next s)
    ∧ (∀ tg, prtSt s ≠ ptSolo → s.prt.stuck = false →
      (tg = true ∨ (linkFld s 54 54 = 1 ∧ s.prt.driving = false ∧ peerHb s ≠ 2) → exec (.tokenStuck tg) s
        = .next (prtEvent (prtUpd s fun p => { p with stuck := true }) 6))
      ∧ (tg = false → (linkFld s 54 54 ≠ 1 ∨ s.prt.driving = true ∨ peerHb s = 2) → exec (.tokenStuck tg) s = .next s))
    ∧ exec (.tokenLineChange true) s = .next (prtGate (setLink s 54 54 1))
    ∧ (∀ u, u = setLink s 54 54 0 → exec (.tokenLineChange false) s
        = .next (prtGate (prtUpd u fun p => { p with stuck := false, highAt := cycleNow u })))
    ∧ (prtSt s ≠ ptSolo → gateMay s = false → s.prt.standby = false → prtGate s = prtClose s)

/-- The interlock of the pair. -/
def Obligations.PairReleasesClaimsAndKeepsTheToken : Prop :=
  Sys2Proof.Rules.ReleasesAndRejoinsFollowTheInterlock ∧ Sys2Proof.Rules.TokenIsClaimedKeptOrGivenUp

/-- Lane synchronization and STATE complete. A lane goes from HUNT over PRESYNC, for SYNC_N further matches, to SYNC, and back to HUNT on a miss before SYNC or on four in a row
in it; a mismatch outside HUNT counts. The link is up with all four lanes in SYNC and their block counts aligned; STATE is sent
over a link that is up, with the channels reset since the last one (R418, R419). -/
def Sys2Proof.Rules.LanesSynchronizeByTheirMarkers : Prop :=
  (∀ (s : State) (i : Nat) (hit al : Bool), i < 4 → let old := mget (0, 0) s.prt.lanes i
      let u := if old.1 ≠ 0 ∧ hit = false then setLink s 15 0 (satAdd 0xFFFF (linkFld s 15 0) 1) else s
      let w := prtUpd u fun p =>
        { p with lanes := mset (0, 0) p.lanes i (laneNext (clamp 1 7 (rf s Adr.prtCfg 15 12)) old hit), aligned := al }
      exec (.plkLaneSync i hit al) s = .next (linkChange
        (setLink w 63 60 ([0, 1, 2, 3].foldl (fun n j => min n (mget (0, 0) w.prt.lanes j).1) 2)) (prtLinkUp s)))
  ∧ (∀ n k, laneNext n (0, k) true = (1, 0) ∧ laneNext n (0, k) false = (0, 0) ∧ laneNext n (1, k) false = (0, 0)
      ∧ laneNext n (2, k) true = (2, 0)
      ∧ (k + 1 < n → laneNext n (1, k) true = (1, k + 1)) ∧ (n ≤ k + 1 → laneNext n (1, k) true = (2, 0))
      ∧ (k < 3 → laneNext n (2, k) false = (2, k + 1)) ∧ (3 ≤ k → laneNext n (2, k) false = (0, 0)))
  ∧ (∀ s : State, prtSt s ≠ ptSolo → (prtLinkUp s = false → exec .stateMessageSend s = .next s)
      ∧ (prtLinkUp s = true → ∃ t, exec .stateMessageSend s = .next t ∧ t.prt.resets = []
          ∧ (fiArmed s (Adr.fiCfgObs 16) = false → (fiOf s (Adr.fiCfgObs 16)).held = [] →
              ∃ m, t.sent = s.sent ++ [.plk m] ∧ m.body = .state (prtSt s) s.prt.heard s.prt.resets
                ∧ m.alive = (mget 0 s.prt.aliveTx m.body.typ + 1) % 65536)))

/-- Messages of the pair link complete. A message of the link that is up, with a right CRC and an ALIVE ahead of the last of its TYPE, is taken, any other is dropped
(R419). A standby of a formed pair joins the parts of a digest and applies it whole, or loses it where a message was skipped
(R421); it takes a key copy into the same slot (R423); STATE sets PEER (R419); HELLO with another PAIR_ID or the same ROLE
is a mismatch (R411). -/
def Sys2Proof.Rules.LinkMessagesAreAcceptedAndApplied : Prop :=
  ∀ (s : State) (m : PlkMsg) (key : List Byte), prtLinkUp s = true → prtSt s ≠ ptSolo →
    fiArmed s (Adr.fiCfgObs 17) = false → (fiOf s (Adr.fiCfgObs 17)).held = [] →
    let u := prtUpd s fun p => { p with aliveRx := mput p.aliveRx m.body.typ (m.alive % 65536 + 1) }
    (∀ skipped last d, m.body = .digest last d →
      (plkAccept s m = some skipped → exec (.digestMsg m) s = .next (digestTake u skipped last d))
      ∧ (plkAccept s m = none → exec (.digestMsg m) s = .next s))
    ∧ (∀ skipped c k st gen limit tag12 ctr wr, m.body = .key c k st gen limit tag12 ctr wr → c < 256 → k < 2048 →
      plkAccept s m = some skipped → exec (.keyMsg m key) s = .next (keyTakeCopy u c k st gen limit tag12 key))
    ∧ (∀ skipped st heard resets, m.body = .state st heard resets → plkAccept s m = some skipped →
      exec (.stateMsg m) s = .next (stateTake u st heard (resets.filter (· < 256))))
    ∧ (∀ skipped id role st nonce plan ans p, m.body = .hello id role st nonce plan ans → plkAccept s m = some skipped →
      s.sec.vault.pair = some p →
      (id ≠ p.pairId ∨ role = p.role → exec (.helloMsg m) s
        = .next (prtEval (prtEvent (setLink (prtUpd u fun x => { x with formed := false }) 55 55 0) 3)))
      ∧ (id = p.pairId → role ≠ p.role → exec (.helloMsg m) s = .next (helloTake u id role nonce plan ans)))
    ∧ (m.crcOk = false → plkAccept s m = none)
    ∧ (m.crcOk = true → mget 0 s.prt.aliveRx m.body.typ = 0 → plkAccept s m = some 0)
    ∧ (∀ k, m.crcOk = true → mget 0 s.prt.aliveRx m.body.typ = k + 1 →
        plkAccept s m = (let d := modSub m.alive k 65536
          if d = 0 ∨ 32768 ≤ d then none else some (d - 1)))
    ∧ (prtStandby u = true → prtFormed u = true → ∀ skipped d, u.prt.part = none → u.prt.partLost = false →
        digestTake u skipped true d = (if skipped = 0 then digestApply u d else digestLost u))
    ∧ (Canon s → rb (digestLost s) Adr.prtEvent 5 = true ∧ (digestLost s).prt.refresh = 256
        ∧ linkFld (digestLost s) 39 32 = min 255 (linkFld s 39 32 + 1))

/-- The link of the pair. -/
def Obligations.PairLinkSynchronizesAndAppliesMessages : Prop :=
  Sys2Proof.Rules.LanesSynchronizeByTheirMarkers ∧ Sys2Proof.Rules.LinkMessagesAreAcceptedAndApplied

/-! ## Observation, fault injection, power (R430 to R453) -/

/-- SNAPSHOT, FREEZE and PC_VALUE_WRITE complete. A snapshot copies every live count to the shadow, with SNAP_SEQ, and starts the next set of wraps; while LOCK is set, or with the
areas off, it is refused as BUSY and counted; within 1 us of the last one it joins that one. FREEZE and LOCK take the values written.
A counter's VALUE and OVF are written with the high word (R431, R433 to R436). -/
def Sys2Proof.Rules.SnapshotsCopyTheLiveCountsOrAreRefused : Prop :=
  (∀ (s : State) (who : Requester) (v : Word) (ofs : Nat), islDown s 336 = false → isPfSide s who = true → ∀ i,
    i = .snapshot who v ofs ∨ i = .freeze who v ofs →
    let put := fun u : State => wf (wf u Adr.obsSnapCtl 30 30 (fld v 30 30)) Adr.obsSnapCtl 29 29 (fld v 29 29)
    (fld v 31 31 = 0 → exec i s = .next (wrOk (put s) who Adr.obsSnapCtl))
    ∧ (fld v 31 31 = 1 →
      (rb s Adr.obsSnapCtl 29 = true ∨ statOn s = false → exec i s = .next (wrRefuse (put
          (evBit (satF s Adr.obsSnapStat 30 24 1) Adr.obsEvent 1 336 .corrected 0x1001)) who Adr.obsSnapCtl .busy))
      ∧ (rb s Adr.obsSnapCtl 29 = false → statOn s = true →
        (s.obs.snapAt ≠ 0 → devNs s ofs < s.obs.snapAt + 999 → exec i s = .next (wrOk (put s) who Adr.obsSnapCtl))
        ∧ (s.obs.snapAt = 0 ∨ s.obs.snapAt + 999 ≤ devNs s ofs → ∃ t, exec i s = .next t
            ∧ t.stat = { s.stat with shadow := s.stat.live, shadowSeq := (rf s Adr.obsSnapStat 23 0 + 1) % 2 ^ 24
                                     shadowWrapped := s.stat.wrapped, wrapped := [] }
            ∧ t.obs.snapAt = devNs s ofs + 1))))
  ∧ (∀ (s : State) (who : Requester) (n v : Nat), n < 256 → islDown s 336 = false →
      (isPfSide s who = true → exec (.pcValueWrite who n v) s
        = .next (wrOk (wrW s (Adr.obsPcVal n) (putNfld v 62 48 0) 2) who (Adr.obsPcVal n)))
      ∧ (isPfSide s who = false → exec (.pcValueWrite who n v) s = .next (wrRefuse s who (Adr.obsPcVal n) .notAuthorized)))

/-- Injectors and their commands, which complete (R437, R439 to R441): in the approved mode writes are refused; FI_CFG arms where EN and the global ENABLE are set, with SKIP
and COUNT of the write and a DELAY_N of 0 taken as 1, and refuses an operation its link does not take; GLOBAL needs its magic to enable, and KILL or ENABLE = 0
disarms and releases every injector; a hold's end releases the held units in order. An injected tracer joins its pipeline's items. -/
def Sys2Proof.Rules.InjectorsArmReleaseAndEnd : Prop :=
  ∀ (s : State) (who : Requester), islDown s 336 = false → isPfSide s who = true →
    (fiLocked s = true → ∀ v, exec (.kill who v) s = .next (wrRefuse s who Adr.obsFiGlobal .notAuthorized))
    ∧ (fiLocked s = false → ∀ v : Word,
      (fld v 31 31 = 1 → fld v 15 0 ≠ 0xF1A5 → exec (.kill who v) s = .next (wrOk s who Adr.obsFiGlobal))
      ∧ (fld v 31 31 = 1 → fld v 15 0 = 0xF1A5 → fld v 30 30 = 0 → exec (.kill who v) s
          = .next (wrOk (wf s Adr.obsFiGlobal 31 31 1) who Adr.obsFiGlobal))
      ∧ (fld v 31 31 = 0 ∨ (fld v 30 30 = 1 ∧ fld v 15 0 = 0xF1A5) → exec (.kill who v) s
          = .next (wrOk (wf (fiDisarmAll s) Adr.obsFiGlobal 31 31 (fld v 31 31)) who Adr.obsFiGlobal)))
    ∧ (∀ kind n a v, fiAddr kind n = some a → islDown s (islandOf a) = false →
      (fiLocked s = true → exec (.fiArm who kind n v) s = .next (wrRefuse s who a .notAuthorized))
      ∧ (fiLocked s = false → fiOps kind < nfld v 126 124 → exec (.fiArm who kind n v) s = .next (wrRefuse s who a .outOfRange))
      ∧ (fiLocked s = false → nfld v 126 124 ≤ fiOps kind →
          let u := fiDisarm (wrW s a (putNfld (putNfld (putNfld v 122 112 0) 31 0 0) 71 64 (max 1 (nfld v 71 64))) 4) a
          (nbit v 127 = false ∨ rb u Adr.obsFiGlobal 31 = false → exec (.fiArm who kind n v) s = .next (wrOk u who a))
          ∧ (nbit v 127 = true → rb u Adr.obsFiGlobal 31 = true → exec (.fiArm who kind n v) s
            = .next (wrOk (wb (setFi u a { fiOf u a with
                skip := nfld v 111 96, left := if nfld v 95 72 = 0 then none else some (nfld v 95 72) }) (fiStat a) 0 true) who a))))
    ∧ (∀ kind n a, fiAddr kind n = some a → ∃ t, exec (.fiHoldRelease kind n) s = .next t
        ∧ t = (fiOf s a).held.foldl (fun u x => fiGo u x.1) (setFi s a { fiOf s a with held := [] }))
    ∧ (∀ v, ∃ t fi, exec (.traceInject who v) s = .next t
        ∧ fi.fr.cl.kind = ClauseKind.tracer.code ∧ fi.fr.cl.egr = nfld v 59 44 ∧ fi.fr.cl.queue = nfld v 19 0
        ∧ fi.fr.cl.trace = 128 + s.obs.injected % 128 ∧ fi.port = 16 * nfld v 63 60
        ∧ ingressOf t (nfld v 63 60) = ingressOf s (nfld v 63 60) ++ [fi] ∧ t.obs.injected = s.obs.injected + 1)

/-- Snapshots and injectors. -/
def Obligations.SnapshotsAndInjectorsObserve : Prop :=
  Sys2Proof.Rules.SnapshotsCopyTheLiveCountsOrAreRefused ∧ Sys2Proof.Rules.InjectorsArmReleaseAndEnd

/-- The commands of rails complete (R444, R445): a poll posts volts, amperes and temperature of the enabled rails that answer, and adds to the energy of the cap
measure; an alert posts a fault bit and raises RAIL_FAULT; a rail silent for a second is stale. A limb's AVS goes to the lowest
passing code, not below 0.70 V (R446). -/
def Sys2Proof.Rules.RailsAreReadAndAdjusted : Prop :=
  (∀ (s : State) (xs : List RailRead),
    let u := (List.range 16).foldl (fun u r => railPost u r (xs.getD r none)) s
    exec (.railPoll xs) s = .next (pwrUpd u fun p => { p with energy := p.energy + railPower u, polls := p.polls + 1 })
    ∧ ∀ r v i t, r < 16 → Canon s → railEn s r = true → v < 65536 → i < 65536 → t < 256 →
        let w := railPost s r (some (v, i, t))
        railTel w r 47 32 = v ∧ railTel w r 31 16 = i ∧ railTel w r 7 0 = t ∧ railTel w r 63 63 = 0
          ∧ railPost s r none = s)
  ∧ (∀ (s : State) (ws : List (Option Nat)), ∃ t, exec (.pmbAlert ws) s = .next t
      ∧ ((∀ w, w ∈ ws → w = none ∨ w = some 0) → t = s)
      ∧ (∀ r w, Canon s → r < 16 → ws = List.replicate r none ++ [some w] → railEn s r = true → 0 < w → w < 2 ^ 15 →
          railTel t r 62 48 = w ∧ rb t Adr.pwrEvent 0 = true))
  ∧ (∀ (s : State) (r : Nat), r < 16 →
      (railEn s r = true → railTel s r 63 63 = 0 → exec (.pmbLost r) s = .next (pwrEvent (setRailTel s r 63 63 1) 1))
      ∧ (railEn s r = false ∨ railTel s r 63 63 ≠ 0 → exec (.pmbLost r) s = .next s))
  ∧ (∀ (s : State) (k pass : Nat), 1 ≤ k → k < 5 → dvfsFld s k 31 31 = 1 → basic s 6 0 = true → s.pwr.shutdown = false →
      (dvfsFld s k 12 8 ≠ clamp 10 30 pass → exec (.avsCheck k pass) s = .next (sendVolt s k (clamp 10 30 pass)))
      ∧ (dvfsFld s k 12 8 = clamp 10 30 pass → exec (.avsCheck k pass) s = .next s))

/-- The commands of core voltage and gating complete (R447, R448): a code above 0.80 V, or one below the floor of its operating point, is refused; a request in a
change waits for its end; a rise sends the voltage and marks a change, the point lowered before it and raised after it, a fall changes the point first; VOUT_REACHED ends the change,
raises the point and starts the waiting request. A group with an enabled port is not gated. -/
def Sys2Proof.Rules.CoreVoltageAndGatesFollowTheirRequests : Prop :=
  (∀ (s : State) (who : Requester) (k : Nat) (v : Word), k < 5 → islDown s 338 = false → isOwner s who 338 6 0 = true →
    (30 < fld v 20 16 ∨ (k = 0 ∧ fld v 20 16 < pointFloor (fld v 25 24)) →
      exec (.pwrDvfsWrite who k v) s = .next (wrRefuse s who (Adr.pwrDvfs k) .outOfRange))
    ∧ (fld v 20 16 ≤ 30 → (k = 0 → pointFloor (fld v 25 24) ≤ fld v 20 16) →
      exec (.pwrDvfsWrite who k v) s = .next (wrOk (dvfsRequest s k v) who (Adr.pwrDvfs k))))
  ∧ (∀ (s : State) (k : Nat) (v : Word), k < 5 →
      (s.pwr.shutdown = true → dvfsRequest s k v = dvfsPut s k v)
      ∧ (s.pwr.shutdown = false → dvfsFld s k 0 0 = 1 →
          dvfsRequest s k v = pwrUpd s fun p => { p with next := mput p.next k v })
      ∧ (s.pwr.shutdown = false → dvfsFld s k 0 0 = 0 → dvfsRequest s k v = dvfsStart (dvfsPut s k v) k)
      ∧ (k = 0 ∨ dvfsFld s k 31 31 = 0 → dvfsFld s k 12 8 < dvfsFld s k 20 16 →
          dvfsStart s k = setDvfs (sendVolt (if s.pwr.point ≤ dvfsFld s 0 25 24 then dvfsFreq s k else s) k (dvfsFld s k 20 16)) k 0 0 1)
      ∧ (dvfsFld s k 0 0 = 0 → exec (.voutReached k) s = .next s)
      ∧ (dvfsFld s k 0 0 = 1 → s.pwr.next = [] → ∃ t, exec (.voutReached k) s = .next t ∧ (Canon s → dvfsFld t k 0 0 = 0)
          ∧ t.pwr.point = (if k = 0 then dvfsFld (setDvfs s 0 0 0 0) 0 25 24 else s.pwr.point) ∧ t.pwr.next = [])
      ∧ (dvfsFld s k 0 0 = 1 → k ≠ 0 → s.pwr.next = [(k, v)] → ∀ u, u = setDvfs s k 0 0 0 →
          exec (.voutReached k) s = .next (dvfsStart (dvfsPut (pwrUpd u fun p => { p with next := mdel p.next k }) k v) k)))
  ∧ (∀ (s : State) (who : Requester) (v : Word), islDown s 338 = false → pwrHostOk s who = true →
      ((∃ g, g < 32 ∧ v.toNat.testBit g = true ∧ rb s Adr.pwrGateUpl g = false ∧ groupOn s g = true) →
        exec (.pwrGateUplWrite who v) s = .next (wrRefuse s who Adr.pwrGateUpl .busy))
      ∧ ((∀ g, g < 32 → v.toNat.testBit g = true → rb s Adr.pwrGateUpl g = false → groupOn s g = false) →
        exec (.pwrGateUplWrite who v) s = .next (wrOk (gateUplTaken s v) who Adr.pwrGateUpl)))

/-- Rails, voltage and gating. -/
def Obligations.RailsAndCoreVoltageFollowTheirRequests : Prop :=
  Sys2Proof.Rules.RailsAreReadAndAdjusted ∧ Sys2Proof.Rules.CoreVoltageAndGatesFollowTheirRequests

/-- The commands of sensors and the cap loop complete (R449 to R452): a reading below every level only shows TEMP; one of 110 degrees shuts the device down, once,
with SHUTDOWN; a stage falls after its 10 ms. An evaluation above the cap takes the
next step of the order and one 10 times below the window's floor takes the last step back; off, or at the expert level, it only
shows the measure. -/
def Obligations.SensorsAndTheCapLoopStepByTheirLevels : Prop :=
  (∀ (s : State) (n : Nat) (x : Int), n < 96 →
    let a := Adr.pwrTherm n
    let top := max (signed 8 (rf s a 31 24)) (x / 256)
    let u := wf (wf s a 15 0 (unsigned 16 x)) a 31 24 (unsigned 8 top)
    (-2560 ≤ x → x < 256 * 95 → ¬ (16 ≤ n ∧ n < 24) → exec (.sensorRead n x) s = .next u)
    ∧ (-2560 ≤ x → x < 256 * 95 → 16 ≤ n → n < 24 → exec (.sensorRead n x) s = .next (planeTherm u ((n - 16) / 2)))
    ∧ (24 ≤ n → 256 * 110 ≤ x → x ≤ 256 * 115 → n ∈ s.pwr.warn → exec (.sensorRead n x) s = .next (shutdown u))
    ∧ (24 ≤ n → 256 * 115 < x → n ∈ s.pwr.warn → rb (shutdown u) Adr.secTamper 5 = false →
        exec (.sensorRead n x) s = .next (zeroize (shutdown u) 5))
    ∧ (s.pwr.shutdown = true → shutdown s = s)
    ∧ (s.pwr.shutdown = false → ∃ t, t = shutdown s ∧ t.pwr.shutdown = true ∧ t.pwr.next = [])
    ∧ (sensorTemp s n < 256 * 93 → sensorStage s n = 0 → exec (.throttleClear n) s
        = .next (pwrUpd s fun p => { p with warn := p.warn.filter (· ≠ n) }))
    ∧ (256 * 93 ≤ sensorTemp s n → stageKeep n (sensorTemp s n) < sensorStage s n → exec (.throttleClear n) s
        = .next (setStage s n (stageKeep n (sensorTemp s n)))))
  ∧ (∀ s : State, let n := s.pwr.polls
      let sum := s.pwr.energy
      let u := pwrUpd s fun p => { p with energy := 0, polls := 0 }
      let w := wf u Adr.pwrStat 9 0 (min 1023 (sum / (n * 100000)))
      (n = 0 → exec .capEvaluation s = .next u)
      ∧ (0 < n → rb w Adr.pwrCap 31 = false ∨ basic w 6 0 = false → exec .capEvaluation s = .next w)
      ∧ (0 < n → rb w Adr.pwrCap 31 = true → basic w 6 0 = true → rf w Adr.pwrCap 9 0 * n * 100000 < sum →
          exec .capEvaluation s = .next (showStep (capMore (pwrUpd w fun p => { p with below := 0 }))))
      ∧ (0 < n → rb w Adr.pwrCap 31 = true → basic w 6 0 = true →
          sum < (rf w Adr.pwrCap 9 0 - rf w Adr.pwrCap 28 20) * n * 100000 → 9 ≤ s.pwr.below →
          (∀ r, r < 16 → railInCap w r = true → railTel w r 63 63 = 0) →
          exec .capEvaluation s = .next (showStep (capLess (pwrUpd w fun p => { p with unmet := false, below := 0 })))))
end

