-- ==== Sys2Proof/Laws/SMap.lean ====
section
/-! SUPPORT. What the operations of a sparse map do: a read after a write, and the canonical form. -/
namespace Sys2Proof.Machine

variable {α : Type}

/-- Reading a key that was put gives the value put. -/
theorem mget_mput_same (d : α) (m : SMap α) (a : Nat) (v : α) : mget d (mput m a v) a = v := by
  induction m with
  | nil => simp [mput, mget]
  | cons p m ih =>
    obtain ⟨k, x⟩ := p
    simp only [mput]
    split
    · simp [mget]
    · split
      · simp [mget]
      · simp only [mget]; rw [if_neg (by omega), ih]

/-- Reading another key than the one put gives what stood there. -/
theorem mget_mput_other (d : α) (m : SMap α) {a b : Nat} (v : α) (h : b ≠ a) :
    mget d (mput m a v) b = mget d m b := by
  induction m with
  | nil => simp [mput, mget, Ne.symm h]
  | cons p m ih =>
    obtain ⟨k, x⟩ := p
    simp only [mput]
    split
    · simp [mget, Ne.symm h]
    · split
      · simp only [mget]; rw [if_neg (Ne.symm h), if_neg (by omega)]
      · simp only [mget, ih]

/-- Deleting a key leaves the others. -/
theorem mget_mdel_other (d : α) (m : SMap α) {a b : Nat} (h : b ≠ a) : mget d (mdel m a) b = mget d m b := by
  induction m with
  | nil => rfl
  | cons p m ih =>
    obtain ⟨k, x⟩ := p
    simp only [mdel]
    split
    · simp only [mget]; rw [if_neg (by omega)]
    · simp only [mget, ih]

section
variable [DecidableEq α]

/-- A key below the bound of a canonical map reads as the default. -/
theorem mget_of_lt (d : Nat → α) (m : SMap α) {b a : Nat} (h : mwfFrom d b m = true) (ha : a < b) :
    mget (d a) m a = d a := by
  induction m generalizing b with
  | nil => rfl
  | cons p m ih =>
    obtain ⟨k, x⟩ := p
    simp only [mwfFrom, Bool.and_eq_true, decide_eq_true_eq] at h
    simp only [mget]
    rw [if_neg (by omega)]
    exact ih h.2 (by omega)

/-- A canonical map stays canonical under a lower bound. -/
theorem mwfFrom_mono (d : Nat → α) (m : SMap α) {b c : Nat} (h : mwfFrom d b m = true) (hc : c ≤ b) :
    mwfFrom d c m = true := by
  cases m with
  | nil => rfl
  | cons p m =>
    obtain ⟨k, x⟩ := p
    simp only [mwfFrom, Bool.and_eq_true, decide_eq_true_eq] at h ⊢
    exact ⟨⟨by omega, h.1.2⟩, h.2⟩

/-- A deleted key of a canonical map reads as the default. -/
theorem mget_mdel_same (d : Nat → α) (m : SMap α) (a : Nat) {b : Nat} (h : mwfFrom d b m = true) :
    mget (d a) (mdel m a) a = d a := by
  induction m generalizing b with
  | nil => rfl
  | cons p m ih =>
    obtain ⟨k, x⟩ := p
    simp only [mwfFrom, Bool.and_eq_true, decide_eq_true_eq] at h
    simp only [mdel]
    split
    · rename_i hk; subst hk; exact mget_of_lt d m h.2 (by omega)
    · rename_i hk; simp only [mget]; rw [if_neg hk]; exact ih h.2

/-- A read after a write of a canonical map gives the value written. -/
theorem mget_mset_same (d : Nat → α) (m : SMap α) (a : Nat) (v : α) (h : mwf d m = true) :
    mget (d a) (mset (d a) m a v) a = v := by
  unfold mset; split
  · rename_i hv; subst hv; exact mget_mdel_same d m a h
  · exact mget_mput_same _ m a v

/-- A write leaves every other key as it was. -/
theorem mget_mset_other (d e : α) (m : SMap α) {a b : Nat} (v : α) (h : b ≠ a) :
    mget e (mset d m a v) b = mget e m b := by
  unfold mset; split
  · exact mget_mdel_other e m h
  · exact mget_mput_other e m v h

theorem mwfFrom_mdel (d : Nat → α) (m : SMap α) (a : Nat) {b : Nat} (h : mwfFrom d b m = true) :
    mwfFrom d b (mdel m a) = true := by
  induction m generalizing b with
  | nil => rfl
  | cons p m ih =>
    obtain ⟨k, x⟩ := p
    simp only [mwfFrom, Bool.and_eq_true, decide_eq_true_eq] at h
    simp only [mdel]
    split
    · exact mwfFrom_mono d m h.2 (by omega)
    · simp only [mwfFrom, Bool.and_eq_true, decide_eq_true_eq]; exact ⟨h.1, ih h.2⟩

theorem mwfFrom_mput (d : Nat → α) (m : SMap α) (a : Nat) (v : α) {b : Nat} (h : mwfFrom d b m = true) (hb : b ≤ a)
    (hv : v ≠ d a) : mwfFrom d b (mput m a v) = true := by
  induction m generalizing b with
  | nil => simp [mput, mwfFrom, hb, hv]
  | cons p m ih =>
    obtain ⟨k, x⟩ := p
    simp only [mwfFrom, Bool.and_eq_true, decide_eq_true_eq] at h
    simp only [mput]
    split
    · simp only [mwfFrom, Bool.and_eq_true, decide_eq_true_eq]
      exact ⟨⟨hb, hv⟩, ⟨by omega, h.1.2⟩, h.2⟩
    · split
      · rename_i _ hk; subst hk
        simp only [mwfFrom, Bool.and_eq_true, decide_eq_true_eq]
        exact ⟨⟨hb, hv⟩, h.2⟩
      · simp only [mwfFrom, Bool.and_eq_true, decide_eq_true_eq]
        exact ⟨h.1, ih h.2 (by omega)⟩

/-- A write keeps the canonical form. -/
theorem mwf_mset (d : Nat → α) (m : SMap α) (a : Nat) (v : α) (h : mwf d m = true) :
    mwf d (mset (d a) m a v) = true := by
  unfold mset; split
  · exact mwfFrom_mdel d m a h
  · rename_i hv; exact mwfFrom_mput d m a v h (Nat.zero_le a) hv

/-- Leaving entries out keeps the canonical form. -/
theorem mwfFrom_filter (d : Nat → α) (m : SMap α) (f : Nat × α → Bool) {b : Nat} (h : mwfFrom d b m = true) :
    mwfFrom d b (m.filter f) = true := by
  induction m generalizing b with
  | nil => rfl
  | cons p m ih =>
    obtain ⟨k, x⟩ := p
    simp only [mwfFrom, Bool.and_eq_true, decide_eq_true_eq] at h
    simp only [List.filter_cons]
    split
    · simp only [mwfFrom, Bool.and_eq_true, decide_eq_true_eq]; exact ⟨h.1, ih h.2⟩
    · exact mwfFrom_mono d _ (ih h.2) (by omega)

theorem mwf_filter (d : Nat → α) (m : SMap α) (f : Nat × α → Bool) (h : mwf d m = true) :
    mwf d (m.filter f) = true := mwfFrom_filter d m f h

end

/-- Writing consecutive bytes keeps the canonical form. -/
theorem mwf_mputBytes (d : Byte) (bs : List Byte) : ∀ (m : SMap Byte) (a : Nat), mwf (fun _ => d) m = true →
    mwf (fun _ => d) (mputBytes d m a bs) = true := by
  induction bs with
  | nil => intro m a h; exact h
  | cons b bs ih => intro m a h; exact ih _ _ (mwf_mset (fun _ => d) m a b h)

/-- Writing consecutive bytes leaves every other byte as it was. -/
theorem mget_mputBytes_other (d e : Byte) (bs : List Byte) : ∀ (m : SMap Byte) (a x : Nat),
    x < a ∨ a + bs.length ≤ x → mget e (mputBytes d m a bs) x = mget e m x := by
  induction bs with
  | nil => intro m a x _; rfl
  | cons b bs ih =>
    intro m a x hx
    simp only [List.length_cons] at hx
    rw [mputBytes, ih _ _ _ (by omega), mget_mset_other _ _ _ _ (by omega)]

end Sys2Proof.Machine
end

