-- ==== Sys2Proof/Laws/Follows.lean ====
section
/-! SUPPORT. The steps from which every lemma <function>_follows is put together: what a chain of updates keeps of the
state it starts from, through branches, local definitions, folds and results that carry a state. -/
namespace Sys2Proof.Machine

/-- A result with a state first. -/
def FollowsFst {α : Type} (kp : Keep) (b : State) (p : State × α) : Prop := Follows kp b p.1
/-- A result with a state second. -/
def FollowsSnd {α : Type} (kp : Keep) (b : State) (p : α × State) : Prop := Follows kp b p.2
/-- A state that may be absent. -/
def FollowsOpt (kp : Keep) (b : State) (o : Option State) : Prop := ∀ t, o = some t → Follows kp b t
/-- A state or a refusal. -/
def FollowsExc {α : Type} (kp : Keep) (b : State) (o : Except α State) : Prop := ∀ t, o = .ok t → Follows kp b t
/-- A pair with a state second that may be absent. -/
def FollowsOptSnd {α : Type} (kp : Keep) (b : State) (o : Option (α × State)) : Prop := ∀ p, o = some p → Follows kp b p.2
/-- A pair with a state first that may be absent. -/
def FollowsOptFst {α : Type} (kp : Keep) (b : State) (o : Option (State × α)) : Prop := ∀ p, o = some p → Follows kp b p.1

theorem Follows.refl (kp : Keep) (s : State) : Follows kp s s :=
  ⟨rfl, List.prefix_refl _, Nat.le_refl _, id, fun _ => rfl, fun _ => rfl, fun _ => rfl⟩

variable {kp : Keep} {b s t : State} {α β : Type}

theorem Follows.trans {u : State} (h : Follows kp b s) (g : Follows kp s u) : Follows kp b u :=
  ⟨g.queue.trans h.queue, h.sent.trans g.sent, Nat.le_trans h.free g.free, fun c => g.canon (h.canon c),
    fun e => (g.flash e).trans (h.flash e), fun e => (g.host e).trans (h.host e), fun e => (g.tabs e).trans (h.tabs e)⟩

theorem fst_mk {x : α} (h : Follows kp b s) : FollowsFst kp b (s, x) := h
theorem snd_mk {x : α} (h : Follows kp b s) : FollowsSnd kp b (x, s) := h
theorem opt_some (h : Follows kp b s) : FollowsOpt kp b (some s) := fun _ e => Option.some.inj e ▸ h
theorem opt_none : FollowsOpt kp b none := fun _ e => nomatch e
theorem exc_ok (h : Follows kp b s) : FollowsExc kp b (.ok s : Except α State) := fun _ e => Except.ok.inj e ▸ h
theorem exc_error {x : α} : FollowsExc kp b (.error x) := fun _ e => nomatch e
theorem optSnd_some {x : α} (h : Follows kp b s) : FollowsOptSnd kp b (some (x, s)) := fun _ e => Option.some.inj e ▸ h
theorem optSnd_none : FollowsOptSnd kp b (none : Option (α × State)) := fun _ e => nomatch e
theorem optFst_some {x : α} (h : Follows kp b s) : FollowsOptFst kp b (some (s, x)) := fun _ e => Option.some.inj e ▸ h
theorem optFst_none : FollowsOptFst kp b (none : Option (State × α)) := fun _ e => nomatch e

theorem of_fst {p : State × α} (h : FollowsFst kp b p) : Follows kp b p.1 := h
theorem of_snd {p : α × State} (h : FollowsSnd kp b p) : Follows kp b p.2 := h
theorem of_fst_eq {p : State × α} {x : α} (e : p = (s, x)) (h : FollowsFst kp b p) : Follows kp b s := by subst e; exact h
theorem of_snd_eq {p : α × State} {x : α} (e : p = (x, s)) (h : FollowsSnd kp b p) : Follows kp b s := by subst e; exact h
theorem of_opt_eq {o : Option State} (e : o = some s) (h : FollowsOpt kp b o) : Follows kp b s := h s e
theorem of_exc_eq {o : Except α State} (e : o = .ok s) (h : FollowsExc kp b o) : Follows kp b s := h s e
theorem of_optSnd_eq {o : Option (α × State)} {x : α} (e : o = some (x, s)) (h : FollowsOptSnd kp b o) : Follows kp b s :=
  h (x, s) e
theorem of_optFst_eq {o : Option (State × α)} {x : α} (e : o = some (s, x)) (h : FollowsOptFst kp b o) : Follows kp b s :=
  h (s, x) e
theorem of_getD {o : Option State} (h : Follows kp b s) (g : FollowsOpt kp b o) : Follows kp b (o.getD s) := by
  cases o with
  | none => exact h
  | some t => exact g t rfl

theorem foldl_follows {f : State → α → State} {l : List α} (h : Follows kp b s)
    (g : ∀ s x, Follows kp b s → Follows kp b (f s x)) : Follows kp b (l.foldl f s) := by
  induction l generalizing s with
  | nil => exact h
  | cons x l ih => exact ih (g s x h)

theorem foldl_fst {f : State × β → α → State × β} {l : List α} {p : State × β} (h : FollowsFst kp b p)
    (g : ∀ p x, FollowsFst kp b p → FollowsFst kp b (f p x)) : FollowsFst kp b (l.foldl f p) := by
  induction l generalizing p with
  | nil => exact h
  | cons x l ih => exact ih (g p x h)

theorem foldl_snd {f : β × State → α → β × State} {l : List α} {p : β × State} (h : FollowsSnd kp b p)
    (g : ∀ p x, FollowsSnd kp b p → FollowsSnd kp b (f p x)) : FollowsSnd kp b (l.foldl f p) := by
  induction l generalizing p with
  | nil => exact h
  | cons x l ih => exact ih (g p x h)

/-- An update of the fields that hold none of these. -/
theorem upd_follows (h : Follows kp b s) (ntfLost : List Nat) (acc : AccessSt) (unit : UnitSt) (dies : DieSt) (own :
    OwnSt) (boot : BootSt) (img : ImageSt) (sec : SecSt) (grm : GrmSt) (stat : StatSt) (buf : BufSt) (sched : SchedSt)
    (tcm : TcmSt) (keys : KeySt) (line : LineSt) (grant : GrantSt) (reg : RegSt) (rogue : SMap RogueSt) (transits :
    SMap TransitRec) (flow : FlowSt) (fwd : FwdSt) (obs : ObsSt) (upl : UplSt) (tim : TimeSt) (dma : DmaSt) (prt :
    PrtSt) (pwr : PwrSt) :
    Follows kp b ⟨s.pending, s.freeCtr, s.regs, s.tabs, s.hostMem, s.flash, s.dram, s.sent, ntfLost, acc, unit, dies,
    own, boot, img, sec, grm, stat, buf, sched, tcm, keys, line, grant, reg, rogue, transits, flow, fwd, obs, upl,
    tim, dma, prt, pwr⟩ := ⟨h.queue, h.sent, h.free, h.canon, h.flash, h.host, h.tabs⟩

/-- A local state that follows, without its definition. -/
theorem cut_follows {P : Prop} (g : Follows kp b s → P) (h : Follows kp b s) : P := g h
theorem cut_fst {P : Prop} {p : State × α} (g : FollowsFst kp b p → P) (h : FollowsFst kp b p) : P := g h
theorem cut_opt {P : Prop} {o : Option State} (g : FollowsOpt kp b o → P) (h : FollowsOpt kp b o) : P := g h
theorem cut_optSnd {P : Prop} {o : Option (α × State)} (g : FollowsOptSnd kp b o → P) (h : FollowsOptSnd kp b o) : P := g h
theorem cut_fun {P : Prop} {f : State → State} (g : (∀ s, Follows kp b s → Follows kp b (f s)) → P)
    (h : ∀ s, Follows kp b s → Follows kp b (f s)) : P := g h
theorem cut_fun2 {P : Prop} {f : State → α → State} (g : (∀ s x, Follows kp b s → Follows kp b (f s x)) → P)
    (h : ∀ s x, Follows kp b s → Follows kp b (f s x)) : P := g h
theorem cut_fun3 {P : Prop} {f : α → State → State} (g : (∀ x s, Follows kp b s → Follows kp b (f x s)) → P)
    (h : ∀ x s, Follows kp b s → Follows kp b (f x s)) : P := g h
theorem cut_fun4 {P : Prop} {f : State → α → β → State} (g : (∀ s x y, Follows kp b s → Follows kp b (f s x y)) → P)
    (h : ∀ s x y, Follows kp b s → Follows kp b (f s x y)) : P := g h
theorem cut_fun5 {P : Prop} {f : State → α → State × β} (g : (∀ s x, Follows kp b s → FollowsFst kp b (f s x)) → P)
    (h : ∀ s x, Follows kp b s → FollowsFst kp b (f s x)) : P := g h
theorem cut_fun6 {P : Prop} {f : α → β × State} (g : (∀ x, FollowsSnd kp b (f x)) → P)
    (h : ∀ x, FollowsSnd kp b (f x)) : P := g h
theorem cut_snd {P : Prop} {p : α × State} (g : FollowsSnd kp b p → P) (h : FollowsSnd kp b p) : P := g h

/-! The updates of the memories, of what was sent and of the free values. -/

theorem regs_follows {m : SMap Word} (h : Follows kp b s) (g : mwf resetWord s.regs = true → mwf resetWord m = true) :
    Follows kp b { s with regs := m } :=
  ⟨h.queue, h.sent, h.free, fun c => ⟨g (h.canon c).1, (h.canon c).2⟩, h.flash, h.host, h.tabs⟩

theorem wr_follows (h : Follows kp b s) (a : Nat) (w : Word) : Follows kp b (wr s a w) :=
  regs_follows h (mwf_mset resetWord s.regs a w)

theorem regs_filter_follows (h : Follows kp b s) (f : Nat × Word → Bool) :
    Follows kp b { s with regs := s.regs.filter f } := regs_follows h (mwf_filter resetWord s.regs f)

theorem tabs_follows (hk : kp.tabs = false) (h : Follows kp b s) (a : Nat) (w : Word) :
    Follows kp b { s with tabs := mset 0 s.tabs a w } :=
  ⟨h.queue, h.sent, h.free, fun c => by
    obtain ⟨c1, c2, c3, c4, c5⟩ := h.canon c; exact ⟨c1, mwf_mset (fun _ => 0) s.tabs a w c2, c3, c4, c5⟩,
    h.flash, h.host, fun e => by rw [hk] at e; cases e⟩

theorem hostMem_follows (hk : kp.host = false) (h : Follows kp b s) (a : Nat) (bs : List Byte) :
    Follows kp b { s with hostMem := mputBytes 0 s.hostMem a bs } :=
  ⟨h.queue, h.sent, h.free, fun c => by
    obtain ⟨c1, c2, c3, c4, c5⟩ := h.canon c; exact ⟨c1, c2, mwf_mputBytes 0 bs s.hostMem a c3, c4, c5⟩,
    h.flash, fun e => (by rw [hk] at e; cases e), h.tabs⟩

theorem flash_follows (hk : kp.flash = false) (h : Follows kp b s) (a : Nat) (bs : List Byte) :
    Follows kp b { s with flash := mputBytes 0xFF s.flash a bs } :=
  ⟨h.queue, h.sent, h.free, fun c => by
    obtain ⟨c1, c2, c3, c4, c5⟩ := h.canon c; exact ⟨c1, c2, c3, mwf_mputBytes 0xFF bs s.flash a c4, c5⟩,
    fun e => (by rw [hk] at e; cases e), h.host, h.tabs⟩

theorem flash_filter_follows (hk : kp.flash = false) (h : Follows kp b s) (f : Nat × Byte → Bool) :
    Follows kp b { s with flash := s.flash.filter f } :=
  ⟨h.queue, h.sent, h.free, fun c => by
    obtain ⟨c1, c2, c3, c4, c5⟩ := h.canon c; exact ⟨c1, c2, c3, mwf_filter _ s.flash f c4, c5⟩,
    fun e => (by rw [hk] at e; cases e), h.host, h.tabs⟩

theorem dram_follows (h : Follows kp b s) (a : Nat) (x : Byte) : Follows kp b { s with dram := mset 0 s.dram a x } :=
  ⟨h.queue, h.sent, h.free, fun c => by
    obtain ⟨c1, c2, c3, c4, c5⟩ := h.canon c; exact ⟨c1, c2, c3, c4, mwf_mset (fun _ => 0) s.dram a x c5⟩,
    h.flash, h.host, h.tabs⟩

theorem dram_bytes_follows (h : Follows kp b s) (a : Nat) (bs : List Byte) :
    Follows kp b { s with dram := mputBytes 0 s.dram a bs } :=
  ⟨h.queue, h.sent, h.free, fun c => by
    obtain ⟨c1, c2, c3, c4, c5⟩ := h.canon c; exact ⟨c1, c2, c3, c4, mwf_mputBytes 0 bs s.dram a c5⟩,
    h.flash, h.host, h.tabs⟩

theorem emit_follows (h : Follows kp b s) (o : Sent) : Follows kp b (emit s o) :=
  ⟨h.queue, h.sent.trans (List.prefix_append _ _), h.free, h.canon, h.flash, h.host, h.tabs⟩

theorem nextFree_follows (h : Follows kp b s) : Follows kp b (nextFree s) :=
  ⟨h.queue, h.sent, Nat.le_succ_of_le h.free, h.canon, h.flash, h.host, h.tabs⟩

end Sys2Proof.Machine
end

