-- ==== Sys2Proof/Laws/RegsKeeps.lean ====
section
/-! SUPPORT. What the functions of Machine/Regs.lean keep (Follows), one lemma each. -/
namespace Sys2Proof.Machine

set_option linter.all false
variable {kp : Keep} {b b0 s : State}

theorem wf_follows (h0 : Follows kp b0 s) (a hi lo v : Nat) : Follows kp b0 (wf s a hi lo v) := by
  unfold wf
  with_reducible repeat' first
    | assumption | apply wr_follows
theorem wb_follows (h0 : Follows kp b0 s) (a i : Nat) (b : Bool) : Follows kp b0 (wb s a i b) := by
  unfold wb
  with_reducible repeat' first
    | assumption | apply wf_follows
theorem wrW_follows (h : Follows kp b s) (a v n : Nat) : Follows kp b (wrW s a v n) := by
  induction n generalizing s a v with
  | zero => exact h
  | succ n ih => exact ih (wr_follows h _ _) _ _

theorem wfW_follows (h0 : Follows kp b0 s) (a n hi lo v : Nat) : Follows kp b0 (wfW s a n hi lo v) := by
  unfold wfW
  with_reducible repeat' first
    | assumption | apply wrW_follows
theorem cnt64_follows (h0 : Follows kp b0 s) (a k : Nat) : Follows kp b0 (cnt64 s a k) := by
  unfold cnt64
  with_reducible repeat' first
    | assumption | apply wrW_follows
theorem cnt32_follows (h0 : Follows kp b0 s) (a k : Nat) : Follows kp b0 (cnt32 s a k) := by
  unfold cnt32
  with_reducible repeat' first
    | assumption | apply wr_follows
theorem satF_follows (h0 : Follows kp b0 s) (a hi lo k : Nat) : Follows kp b0 (satF s a hi lo k) := by
  unfold satF
  with_reducible repeat' first
    | assumption | apply wf_follows
theorem wrWords_follows (h : Follows kp b s) (a : Nat) (ws : List Word) : Follows kp b (wrWords s a ws) := by
  induction ws generalizing s a with
  | nil => exact h
  | cons w ws ih => exact ih (wr_follows h _ _) _

theorem wrT_follows (hk : kp.tabs = false) (h : Follows kp b s) (a v n : Nat) : Follows kp b (wrT s a v n) := by
  induction n generalizing s a v with
  | zero => exact h
  | succ n ih => exact ih (tabs_follows hk h _ _) _ _

theorem setIsl_follows (h0 : Follows kp b0 s) (i st : Nat) : Follows kp b0 (setIsl s i st) := by
  unfold setIsl
  with_reducible repeat' first
    | assumption | apply wf_follows
theorem emitPin_follows (h0 : Follows kp b0 s) (o : Sent) : Follows kp b0 (emitPin s o) := by
  unfold emitPin
  with_reducible repeat' first
    | assumption | apply emit_follows | split
theorem sendMsix_follows (h0 : Follows kp b0 s) (fn vec : Nat) : Follows kp b0 (sendMsix s fn vec) := by
  unfold sendMsix
  with_reducible repeat' first
    | assumption | apply emit_follows | apply wb_follows | split | (fail_if_no_progress apply upd_follows)
theorem fireSource_follows (h0 : Follows kp b0 s) (src : Nat) : Follows kp b0 (fireSource s src) := by
  unfold fireSource
  with_reducible repeat' first
    | assumption | apply sendMsix_follows | split
theorem ringSource_follows (h0 : Follows kp b0 s) (src : Nat) : Follows kp b0 (ringSource s src) := by
  unfold ringSource
  with_reducible repeat' first
    | assumption | apply fireSource_follows | split | (fail_if_no_progress apply upd_follows)
theorem endSource_follows (h0 : Follows kp b0 s) (src : Nat) : Follows kp b0 (endSource s src) := by
  unfold endSource
  with_reducible repeat' first
    | assumption | (fail_if_no_progress apply upd_follows)
theorem putUnit_follows (h0 : Follows kp b0 s) (a st det : Nat) (bump : Bool) : Follows kp b0 (putUnit s a st det
    bump) := by
  unfold putUnit
  with_reducible repeat' first
    | assumption
    | (extract_lets +onlyGivenNames x; refine cut_follows (kp := kp) (b := b0) (s := x) (fun _ => ?_) ?_; clear_value x; on_goal 2 => subst x)
    | (extract_lets +onlyGivenNames x; clear_value x) | apply wr_follows
theorem unitAccept_follows (h0 : Follows kp b0 s) (a st det : Nat) : Follows kp b0 (unitAccept s a st det) := by
  unfold unitAccept
  with_reducible repeat' first
    | assumption
    | (extract_lets +onlyGivenNames x; refine cut_follows (kp := kp) (b := b0) (s := x) (fun _ => ?_) ?_; clear_value x; on_goal 2 => subst x)
    | (extract_lets +onlyGivenNames x; clear_value x) | apply putUnit_follows
    | (fail_if_no_progress apply upd_follows)
theorem dpChange_follows (h0 : Follows kp b0 s) (a st det : Nat) : Follows kp b0 (dpChange s a st det) := by
  unfold dpChange
  with_reducible repeat' first
    | assumption | intro _
    | (extract_lets +onlyGivenNames x; refine cut_follows (kp := kp) (b := b0) (s := x) (fun _ => ?_) ?_; clear_value x; on_goal 2 => subst x)
    | (extract_lets +onlyGivenNames x; clear_value x) | apply putUnit_follows | split
    | (fail_if_no_progress apply upd_follows)
theorem commitPending_follows (h0 : Follows kp b0 s) : Follows kp b0 (commitPending s) := by
  unfold commitPending
  with_reducible repeat' first
    | assumption | intro _
    | (extract_lets +onlyGivenNames x; refine cut_follows (kp := kp) (b := b0) (s := x) (fun _ => ?_) ?_; clear_value x; on_goal 2 => subst x)
    | (extract_lets +onlyGivenNames x; clear_value x) | apply putUnit_follows | apply foldl_follows
    | (fail_if_no_progress apply upd_follows)

end Sys2Proof.Machine
end

