-- ==== Sys2Proof/Laws/LinksKeeps.lean ====
section
/-! SUPPORT. What the functions of Machine/Links.lean keep (Follows), one lemma each. -/
namespace Sys2Proof.Machine

set_option linter.all false
variable {kp : Keep} {b b0 s : State}

theorem setFi_follows (h0 : Follows kp b0 s) (cfg : Nat) (x : FiSt) : Follows kp b0 (setFi s cfg x) := by
  unfold setFi
  with_reducible repeat' first
    | assumption | (fail_if_no_progress apply upd_follows)
theorem fiDisarm_follows (h0 : Follows kp b0 s) (cfg : Nat) : Follows kp b0 (fiDisarm s cfg) := by
  unfold fiDisarm
  with_reducible repeat' first
    | assumption | apply wb_follows | split
theorem fiOff_follows (h0 : Follows kp b0 s) (cfg : Nat) : Follows kp b0 (fiOff s cfg) := by
  unfold fiOff
  with_reducible repeat' first
    | assumption
    | (extract_lets +onlyGivenNames x; refine cut_follows (kp := kp) (b := b0) (s := x) (fun _ => ?_) ?_; clear_value x; on_goal 2 => subst x)
    | (extract_lets +onlyGivenNames x; clear_value x) | apply fiDisarm_follows
    | (fail_if_no_progress apply upd_follows)
theorem fiSelect_follows (h0 : Follows kp b0 s) (cfg : Nat) : FollowsSnd kp b0 (fiSelect s cfg) := by
  unfold fiSelect
  with_reducible repeat' first
    | assumption
    | (extract_lets +onlyGivenNames x; refine cut_follows (kp := kp) (b := b0) (s := x) (fun _ => ?_) ?_; clear_value x; on_goal 2 => subst x)
    | (extract_lets +onlyGivenNames x; clear_value x) | apply fiDisarm_follows | apply nextFree_follows
    | apply setFi_follows | (apply of_snd; assumption) | split | apply snd_mk | refine of_snd_eq (by assumption) ?_
    | (fail_if_no_progress apply upd_follows)
theorem fiDue_follows (h0 : Follows kp b0 s) (cfg : Nat) : FollowsSnd kp b0 (fiDue s cfg) := by
  unfold fiDue
  with_reducible repeat' first
    | assumption | intro _
    | (extract_lets +onlyGivenNames x; refine cut_follows (kp := kp) (b := b0) (s := x) (fun _ => ?_) ?_; clear_value x; on_goal 2 => subst x)
    | (extract_lets +onlyGivenNames x; clear_value x) | apply setFi_follows | (apply of_snd; assumption)
    | apply snd_mk | refine of_snd_eq (by assumption) ?_ | (fail_if_no_progress apply upd_follows)
theorem fiAct_follows (h0 : Follows kp b0 s) (cfg : Nat) (u : FiUnit) : FollowsSnd kp b0 (fiAct s cfg u) := by
  unfold fiAct
  with_reducible repeat' first
    | assumption | intro _
    | (extract_lets +onlyGivenNames x; refine cut_follows (kp := kp) (b := b0) (s := x) (fun _ => ?_) ?_; clear_value x; on_goal 2 => subst x)
    | (extract_lets +onlyGivenNames x; refine cut_snd (kp := kp) (b := b0) (p := x) (fun _ => ?_) ?_; clear_value x; on_goal 2 => subst x)
    | (extract_lets +onlyGivenNames x; refine cut_fun (kp := kp) (b := b0) (f := x) (fun _ => ?_) ?_; clear_value x; on_goal 2 => subst x)
    | (extract_lets +onlyGivenNames x; refine cut_fun2 (kp := kp) (b := b0) (f := x) (fun _ => ?_) ?_; clear_value x; on_goal 2 => subst x)
    | (extract_lets +onlyGivenNames x; refine cut_fun3 (kp := kp) (b := b0) (f := x) (fun _ => ?_) ?_; clear_value x; on_goal 2 => subst x)
    | (extract_lets +onlyGivenNames x; refine cut_fun4 (kp := kp) (b := b0) (f := x) (fun _ => ?_) ?_; clear_value x; on_goal 2 => subst x)
    | (extract_lets +onlyGivenNames x; refine cut_fun5 (kp := kp) (b := b0) (f := x) (fun _ => ?_) ?_; clear_value x; on_goal 2 => subst x)
    | (extract_lets +onlyGivenNames x; refine cut_fun6 (kp := kp) (b := b0) (f := x) (fun _ => ?_) ?_; clear_value x; on_goal 2 => subst x)
    | (extract_lets +onlyGivenNames x; clear_value x) | apply fiDue_follows | (apply of_snd; apply fiDue_follows)
    | apply fiSelect_follows | (apply of_snd; apply fiSelect_follows) | apply satF_follows | apply setFi_follows
    | (apply of_snd; assumption) | split | apply snd_mk | refine of_snd_eq (by assumption) ?_ | apply_assumption
    | (apply of_fst; apply_assumption) | (apply of_snd; apply_assumption) | (fail_if_no_progress apply upd_follows)
theorem fiPass_follows (h0 : Follows kp b0 s) (cfg : Nat) (tid : Option Nat) (u : FiUnit) : FollowsSnd kp b0 (fiPass
    s cfg tid u) := by
  unfold fiPass
  with_reducible repeat' first
    | assumption
    | (extract_lets +onlyGivenNames x; refine cut_follows (kp := kp) (b := b0) (s := x) (fun _ => ?_) ?_; clear_value x; on_goal 2 => subst x)
    | (extract_lets +onlyGivenNames x; refine cut_snd (kp := kp) (b := b0) (p := x) (fun _ => ?_) ?_; clear_value x; on_goal 2 => subst x)
    | (extract_lets +onlyGivenNames x; clear_value x) | apply fiAct_follows | (apply of_snd; apply fiAct_follows)
    | (apply of_snd; assumption) | split | apply snd_mk | refine of_snd_eq (by assumption) ?_
theorem emitFi_follows (h0 : Follows kp b0 s) (cfg : Nat) (tid : Option Nat) (o : Sent) : Follows kp b0 (emitFi s cfg
    tid o) := by
  unfold emitFi
  with_reducible repeat' first
    | assumption | intro _
    | (extract_lets +onlyGivenNames x; refine cut_follows (kp := kp) (b := b0) (s := x) (fun _ => ?_) ?_; clear_value x; on_goal 2 => subst x)
    | (extract_lets +onlyGivenNames x; refine cut_snd (kp := kp) (b := b0) (p := x) (fun _ => ?_) ?_; clear_value x; on_goal 2 => subst x)
    | (extract_lets +onlyGivenNames x; clear_value x) | apply emit_follows | apply fiPass_follows
    | (apply of_snd; apply fiPass_follows) | apply foldl_follows | apply foldl_snd | (apply of_snd; assumption)
    | split | apply snd_mk | refine of_snd_eq (by assumption) ?_
theorem plkSend_follows (h0 : Follows kp b0 s) (b : PlkBody) : Follows kp b0 (plkSend s b) := by
  unfold plkSend
  with_reducible repeat' first
    | assumption
    | (extract_lets +onlyGivenNames x; refine cut_follows (kp := kp) (b := b0) (s := x) (fun _ => ?_) ?_; clear_value x; on_goal 2 => subst x)
    | (extract_lets +onlyGivenNames x; clear_value x) | apply emitFi_follows | apply nextFree_follows | split
    | (fail_if_no_progress apply upd_follows)
theorem plkState_follows (h0 : Follows kp b0 s) : Follows kp b0 (plkState s) := by
  unfold plkState
  with_reducible repeat' first
    | assumption
    | (extract_lets +onlyGivenNames x; refine cut_follows (kp := kp) (b := b0) (s := x) (fun _ => ?_) ?_; clear_value x; on_goal 2 => subst x)
    | (extract_lets +onlyGivenNames x; clear_value x) | apply plkSend_follows | split
    | (fail_if_no_progress apply upd_follows)
theorem prtSet_follows (h0 : Follows kp b0 s) (st det : Nat) : Follows kp b0 (prtSet s st det) := by
  unfold prtSet
  with_reducible repeat' first
    | assumption | apply dpChange_follows | apply plkState_follows | apply wf_follows | split

end Sys2Proof.Machine
end

