-- ==== Sys2Proof/Laws/OpsKeeps.lean ====
section
/-! SUPPORT. What the functions of Machine/Ops.lean keep (Follows), one lemma each. -/
namespace Sys2Proof.Machine

set_option linter.all false
variable {kp : Keep} {b b0 s : State}

theorem setPend_follows (h0 : Follows kp b0 s) (i : Nat) : Follows kp b0 (setPend s i) := by
  unfold setPend
  with_reducible repeat' first
    | assumption | apply fireSource_follows | apply wb_follows | split
theorem report_follows (h0 : Follows kp b0 s) (i : Nat) (sev : Severity) (code : Nat) : Follows kp b0 (report s i sev
    code) := by
  unfold report
  with_reducible repeat' first
    | assumption
    | (extract_lets +onlyGivenNames x; refine cut_follows (kp := kp) (b := b0) (s := x) (fun _ => ?_) ?_; clear_value x; on_goal 2 => subst x)
    | (extract_lets +onlyGivenNames x; clear_value x) | apply setPend_follows | apply wr_follows
theorem prtClose_follows (h0 : Follows kp b0 s) : Follows kp b0 (prtClose s) := by
  unfold prtClose
  with_reducible repeat' first
    | assumption | intro _
    | (extract_lets +onlyGivenNames x; refine cut_follows (kp := kp) (b := b0) (s := x) (fun _ => ?_) ?_; clear_value x; on_goal 2 => subst x)
    | (extract_lets +onlyGivenNames x; clear_value x) | apply dpChange_follows | apply foldl_follows | split
    | (fail_if_no_progress apply upd_follows)
theorem prtRelease_follows (h0 : Follows kp b0 s) (cause : Nat) : Follows kp b0 (prtRelease s cause) := by
  unfold prtRelease
  with_reducible repeat' first
    | assumption
    | (extract_lets +onlyGivenNames x; refine cut_follows (kp := kp) (b := b0) (s := x) (fun _ => ?_) ?_; clear_value x; on_goal 2 => subst x)
    | (extract_lets +onlyGivenNames x; clear_value x) | apply prtClose_follows | apply prtSet_follows
    | apply report_follows | apply wb_follows | split | (fail_if_no_progress apply upd_follows)
theorem dataUp_follows (h0 : Follows kp b0 s) (f : State → State) (hf : ∀ s, Follows kp b0 s → Follows kp b0 (f s)) :
    Follows kp b0 (dataUp s f) := by
  unfold dataUp
  with_reducible repeat' first
    | assumption | apply hf | split
theorem fatalActions_follows (h0 : Follows kp b0 s) : Follows kp b0 (fatalActions s) := by
  unfold fatalActions
  with_reducible repeat' first
    | assumption
    | (extract_lets +onlyGivenNames x; refine cut_follows (kp := kp) (b := b0) (s := x) (fun _ => ?_) ?_; clear_value x; on_goal 2 => subst x)
    | (extract_lets +onlyGivenNames x; clear_value x) | apply prtRelease_follows
    | (fail_if_no_progress apply upd_follows)
theorem raise0_follows (h0 : Follows kp b0 s) (i : Nat) (sev : Severity) (code : Nat) : Follows kp b0 (raise0 s i sev
    code) := by
  unfold raise0
  with_reducible repeat' first
    | assumption
    | (extract_lets +onlyGivenNames x; refine cut_follows (kp := kp) (b := b0) (s := x) (fun _ => ?_) ?_; clear_value x; on_goal 2 => subst x)
    | (extract_lets +onlyGivenNames x; clear_value x) | apply fatalActions_follows | apply prtRelease_follows
    | apply report_follows | split
theorem pcAdd_follows (h0 : Follows kp b0 s) (n k : Nat) : FollowsFst kp b0 (pcAdd s n k) := by
  unfold pcAdd
  with_reducible repeat' first
    | assumption
    | (extract_lets +onlyGivenNames x; refine cut_follows (kp := kp) (b := b0) (s := x) (fun _ => ?_) ?_; clear_value x; on_goal 2 => subst x)
    | (extract_lets +onlyGivenNames x; clear_value x) | apply wrW_follows | (apply of_fst; assumption) | split
    | apply fst_mk | refine of_fst_eq (by assumption) ?_
theorem pcCount_follows (h : Follows kp b s) (e : PcEv) : FollowsFst kp b (pcCount s e) := by
  unfold pcCount
  split
  · exact h
  · refine foldl_fst (fst_mk h) ?_
    intro p x hp
    exact fst_mk (of_fst (pcAdd_follows (of_fst hp) _ _))

theorem pcOvf_follows (h0 : Follows kp b0 s) : Follows kp b0 (pcOvf s) := by
  unfold pcOvf
  with_reducible repeat' first
    | assumption | apply pcCount_follows | (apply of_fst; apply pcCount_follows) | apply raise0_follows
    | apply wb_follows | (apply of_fst; assumption) | apply fst_mk | refine of_fst_eq (by assumption) ?_
theorem pc_follows (h0 : Follows kp b0 s) (e : PcEv) : Follows kp b0 (pc s e) := by
  unfold pc
  with_reducible repeat' first
    | assumption
    | (extract_lets +onlyGivenNames x; refine cut_follows (kp := kp) (b := b0) (s := x) (fun _ => ?_) ?_; clear_value x; on_goal 2 => subst x)
    | (extract_lets +onlyGivenNames x; refine cut_fst (kp := kp) (b := b0) (p := x) (fun _ => ?_) ?_; clear_value x; on_goal 2 => subst x)
    | (extract_lets +onlyGivenNames x; clear_value x) | apply pcCount_follows
    | (apply of_fst; apply pcCount_follows) | apply pcOvf_follows | (apply of_fst; assumption) | split
    | apply fst_mk | refine of_fst_eq (by assumption) ?_
theorem raise_follows (h0 : Follows kp b0 s) (i : Nat) (sev : Severity) (code : Nat) : Follows kp b0 (raise s i sev
    code) := by
  unfold raise
  with_reducible repeat' first
    | assumption | apply pc_follows | apply raise0_follows
theorem evBit_follows (h0 : Follows kp b0 s) (a bit i : Nat) (sev : Severity) (code : Nat) : Follows kp b0 (evBit s a
    bit i sev code) := by
  unfold evBit
  with_reducible repeat' first
    | assumption | apply raise_follows | apply wb_follows
theorem noteWriteAt_follows (h0 : Follows kp b0 s) (who : Requester) (off : Nat) (st : WrStatus) (epoch state : Nat)
    : Follows kp b0 (noteWriteAt s who off st epoch state) := by
  unfold noteWriteAt
  with_reducible repeat' first
    | assumption
    | (extract_lets +onlyGivenNames x; refine cut_follows (kp := kp) (b := b0) (s := x) (fun _ => ?_) ?_; clear_value x; on_goal 2 => subst x)
    | (extract_lets +onlyGivenNames x; clear_value x) | apply pc_follows | split
    | (fail_if_no_progress apply upd_follows)
theorem noteWrite_follows (h0 : Follows kp b0 s) (who : Requester) (off : Nat) (st : WrStatus) (epoch state : Nat) :
    Follows kp b0 (noteWrite s who off st epoch state) := by
  unfold noteWrite
  with_reducible repeat' first
    | assumption | apply noteWriteAt_follows
theorem wrOk_follows (h0 : Follows kp b0 s) (who : Requester) (off : Nat) : Follows kp b0 (wrOk s who off) := by
  unfold wrOk
  with_reducible repeat' first
    | assumption | apply noteWrite_follows
theorem wrRefuse_follows (h0 : Follows kp b0 s) (who : Requester) (off : Nat) (st : WrStatus) : Follows kp b0
    (wrRefuse s who off st) := by
  unfold wrRefuse
  with_reducible repeat' first
    | assumption | apply noteWrite_follows
theorem wrDown_follows (h0 : Follows kp b0 s) (who : Requester) (a : Nat) : Follows kp b0 (wrDown s who a) := by
  unfold wrDown
  with_reducible repeat' first
    | assumption | apply wrRefuse_follows | (fail_if_no_progress apply upd_follows)
theorem wrStale_follows (h0 : Follows kp b0 s) (who : Requester) (a : Nat) : Follows kp b0 (wrStale s who a) := by
  unfold wrStale
  with_reducible repeat' first
    | assumption
    | (extract_lets +onlyGivenNames x; refine cut_follows (kp := kp) (b := b0) (s := x) (fun _ => ?_) ?_; clear_value x; on_goal 2 => subst x)
    | (extract_lets +onlyGivenNames x; clear_value x) | apply cnt32_follows | apply noteWrite_follows
    | apply raise_follows
theorem cmdStale_follows (h0 : Follows kp b0 s) (a : Nat) : Follows kp b0 (cmdStale s a) := by
  unfold cmdStale
  with_reducible repeat' first
    | assumption | apply cnt32_follows | apply raise_follows
theorem wrReq_follows (h0 : Follows kp b0 s) (who : Requester) (a : Nat) (w : Word) : Follows kp b0 (wrReq s who a w)
    := by
  unfold wrReq
  with_reducible repeat' first
    | assumption | (fail_if_no_progress apply upd_follows)
theorem ret_follows (h0 : Follows kp b0 s) (who : Requester) (w : Word) : Follows kp b0 (ret s who w) := by
  unfold ret
  with_reducible repeat' first
    | assumption | (fail_if_no_progress apply upd_follows)
theorem readUp_follows (h0 : Follows kp b0 s) (who : Requester) (i : Nat) (f : State → State) (hf : ∀ s, Follows kp
    b0 s → Follows kp b0 (f s)) : Follows kp b0 (readUp s who i f) := by
  unfold readUp
  with_reducible repeat' first
    | assumption | apply hf | apply nextFree_follows | apply ret_follows | split
theorem countRefused_follows (h0 : Follows kp b0 s) (f t : Nat) : Follows kp b0 (countRefused s f t) := by
  unfold countRefused
  with_reducible repeat' first
    | assumption | apply satF_follows
theorem wrNotOwner_follows (h0 : Follows kp b0 s) (who : Requester) (a f t : Nat) : Follows kp b0 (wrNotOwner s who a
    f t) := by
  unfold wrNotOwner
  with_reducible repeat' first
    | assumption | apply countRefused_follows | apply wrRefuse_follows
theorem putRec_follows (h0 : Follows kp b0 s) (a : Nat) (r : OutRec) : Follows kp b0 (putRec s a r) := by
  unfold putRec
  with_reducible repeat' first
    | assumption | apply wrWords_follows
theorem regopPut_follows (h0 : Follows kp b0 s) (r : OutRec) : Follows kp b0 (regopPut s r) := by
  unfold regopPut
  with_reducible repeat' first
    | assumption
    | (extract_lets +onlyGivenNames x; refine cut_follows (kp := kp) (b := b0) (s := x) (fun _ => ?_) ?_; clear_value x; on_goal 2 => subst x)
    | (extract_lets +onlyGivenNames x; clear_value x) | apply putRec_follows | apply wf_follows
theorem showBypass_follows (h0 : Follows kp b0 s) : Follows kp b0 (showBypass s) := by
  unfold showBypass
  with_reducible repeat' first
    | assumption | apply wb_follows
theorem secShow_follows (h0 : Follows kp b0 s) (fw : Nat) : Follows kp b0 (secShow s fw) := by
  unfold secShow
  with_reducible repeat' first
    | assumption | intro _
    | (extract_lets +onlyGivenNames x; refine cut_follows (kp := kp) (b := b0) (s := x) (fun _ => ?_) ?_; clear_value x; on_goal 2 => subst x)
    | (extract_lets +onlyGivenNames x; clear_value x) | apply wb_follows
theorem regionWrite_follows (h0 : Follows kp b0 s) (r : Nat) : Follows kp b0 (regionWrite s r) := by
  unfold regionWrite
  with_reducible repeat' first
    | assumption
    | (extract_lets +onlyGivenNames x; refine cut_follows (kp := kp) (b := b0) (s := x) (fun _ => ?_) ?_; clear_value x; on_goal 2 => subst x)
    | (extract_lets +onlyGivenNames x; clear_value x) | (fail_if_no_progress apply upd_follows)

end Sys2Proof.Machine
end

