-- ==== Sys2Proof/Laws/LineKeeps.lean ====
section
/-! SUPPORT. What the functions of Machine/Line.lean keep (Follows), one lemma each. -/
namespace Sys2Proof.Machine

set_option linter.all false
variable {kp : Keep} {b b0 s : State}

theorem putChmask_follows (h0 : Follows kp b0 s) (t reason lost ready : Nat) : Follows kp b0 (putChmask s t reason
    lost ready) := by
  unfold putChmask
  with_reducible repeat' first
    | assumption
    | (extract_lets +onlyGivenNames x; refine cut_follows (kp := kp) (b := b0) (s := x) (fun _ => ?_) ?_; clear_value x; on_goal 2 => subst x)
    | (extract_lets +onlyGivenNames x; clear_value x) | apply wf_follows
theorem p6Check_follows (h0 : Follows kp b0 s) : Follows kp b0 (p6Check s) := by
  unfold p6Check
  with_reducible repeat' first
    | assumption | intro _
    | (extract_lets +onlyGivenNames x; refine cut_follows (kp := kp) (b := b0) (s := x) (fun _ => ?_) ?_; clear_value x; on_goal 2 => subst x)
    | (extract_lets +onlyGivenNames x; clear_value x) | apply wb_follows | apply wf_follows | split
theorem applyFollow_follows (h0 : Follows kp b0 s) (t : Nat) : Follows kp b0 (applyFollow s t) := by
  unfold applyFollow
  with_reducible repeat' first
    | assumption
    | (extract_lets +onlyGivenNames x; refine cut_follows (kp := kp) (b := b0) (s := x) (fun _ => ?_) ?_; clear_value x; on_goal 2 => subst x)
    | (extract_lets +onlyGivenNames x; clear_value x) | apply wf_follows | split
    | (fail_if_no_progress apply upd_follows)
theorem treeShow_follows (h0 : Follows kp b0 s) (t : Nat) : Follows kp b0 (treeShow s t) := by
  unfold treeShow
  with_reducible repeat' first
    | assumption
    | (extract_lets +onlyGivenNames x; refine cut_follows (kp := kp) (b := b0) (s := x) (fun _ => ?_) ?_; clear_value x; on_goal 2 => subst x)
    | (extract_lets +onlyGivenNames x; clear_value x) | apply applyFollow_follows | apply p6Check_follows
    | apply putChmask_follows | apply wf_follows | split
theorem treeFollow_follows (h0 : Follows kp b0 s) (t : Nat) : Follows kp b0 (treeFollow s t) := by
  unfold treeFollow
  with_reducible repeat' first
    | assumption
    | (extract_lets +onlyGivenNames x; refine cut_follows (kp := kp) (b := b0) (s := x) (fun _ => ?_) ?_; clear_value x; on_goal 2 => subst x)
    | (extract_lets +onlyGivenNames x; clear_value x) | apply dpChange_follows | apply treeShow_follows | split
theorem chnInjectorsOff_follows (h0 : Follows kp b0 s) (c : Nat) : Follows kp b0 (chnInjectorsOff s c) := by
  unfold chnInjectorsOff
  with_reducible repeat' first
    | assumption | apply fiOff_follows
theorem chnChange_follows (h0 : Follows kp b0 s) (c st det : Nat) : Follows kp b0 (chnChange s c st det) := by
  unfold chnChange
  with_reducible repeat' first
    | assumption
    | (extract_lets +onlyGivenNames x; refine cut_follows (kp := kp) (b := b0) (s := x) (fun _ => ?_) ?_; clear_value x; on_goal 2 => subst x)
    | (extract_lets +onlyGivenNames x; clear_value x) | apply chnInjectorsOff_follows | apply dpChange_follows
    | apply treeFollow_follows | split
theorem setTlrFlag_follows (h0 : Follows kp b0 s) (c k i : Nat) (b : Bool) : Follows kp b0 (setTlrFlag s c k i b) :=
    by
  unfold setTlrFlag
  with_reducible repeat' first
    | assumption | apply wb_follows
theorem tlrUpdate_follows (h0 : Follows kp b0 s) (c k : Nat) (cold : Bool) (dsp : List Byte) (quality cycle : Nat)
    (ofs : Int) (dist : Nat) : Follows kp b0 (tlrUpdate s c k cold dsp quality cycle ofs dist) := by
  unfold tlrUpdate
  with_reducible repeat' first
    | assumption
    | (extract_lets +onlyGivenNames x; refine cut_follows (kp := kp) (b := b0) (s := x) (fun _ => ?_) ?_; clear_value x; on_goal 2 => subst x)
    | (extract_lets +onlyGivenNames x; clear_value x) | apply setTlrFlag_follows | apply wf_follows
    | apply wr_follows | apply wrWords_follows | split
theorem tlrLoss_follows (h0 : Follows kp b0 s) (c k : Nat) (cold : Bool) : Follows kp b0 (tlrLoss s c k cold) := by
  unfold tlrLoss
  with_reducible repeat' first
    | assumption
    | (extract_lets +onlyGivenNames x; refine cut_follows (kp := kp) (b := b0) (s := x) (fun _ => ?_) ?_; clear_value x; on_goal 2 => subst x)
    | (extract_lets +onlyGivenNames x; clear_value x) | apply setTlrFlag_follows | apply wf_follows | split
theorem tlrAgeOne_follows (h0 : Follows kp b0 s) (c k : Nat) : Follows kp b0 (tlrAgeOne s c k) := by
  unfold tlrAgeOne
  with_reducible repeat' first
    | assumption | apply satF_follows | split
theorem clearTlrs_follows (h0 : Follows kp b0 s) (c : Nat) : Follows kp b0 (clearTlrs s c) := by
  unfold clearTlrs
  with_reducible repeat' first
    | assumption | apply regs_filter_follows | intro _ | (fail_if_no_progress apply upd_follows)
    | apply regs_filter_follows
theorem tlrInvalidate_follows (h0 : Follows kp b0 s) (c k : Nat) : Follows kp b0 (tlrInvalidate s c k) := by
  unfold tlrInvalidate
  with_reducible repeat' first
    | assumption | apply setTlrFlag_follows
theorem pmAlert_follows (h0 : Follows kp b0 s) (c scope bin counter : Nat) : Follows kp b0 (pmAlert s c scope bin
    counter) := by
  unfold pmAlert
  with_reducible repeat' first
    | assumption
    | (extract_lets +onlyGivenNames x; refine cut_follows (kp := kp) (b := b0) (s := x) (fun _ => ?_) ?_; clear_value x; on_goal 2 => subst x)
    | (extract_lets +onlyGivenNames x; clear_value x) | apply evBit_follows | apply wb_follows | split
    | (fail_if_no_progress apply upd_follows)
theorem pmAddScope_follows (h0 : Follows kp b0 s) (c scope counter n : Nat) : Follows kp b0 (pmAddScope s c scope
    counter n) := by
  unfold pmAddScope
  with_reducible repeat' first
    | assumption | intro _
    | (extract_lets +onlyGivenNames x; refine cut_follows (kp := kp) (b := b0) (s := x) (fun _ => ?_) ?_; clear_value x; on_goal 2 => subst x)
    | (extract_lets +onlyGivenNames x; clear_value x) | apply pmAlert_follows | apply foldl_follows
    | (fail_if_no_progress apply upd_follows)
theorem pmAdd_follows (h0 : Follows kp b0 s) (c slot counter n : Nat) : Follows kp b0 (pmAdd s c slot counter n) := by
  unfold pmAdd
  with_reducible repeat' first
    | assumption | apply pmAddScope_follows | split
theorem pmSuspectMark_follows (h0 : Follows kp b0 s) (c scope : Nat) : Follows kp b0 (pmSuspectMark s c scope) := by
  unfold pmSuspectMark
  with_reducible repeat' first
    | assumption
    | (extract_lets +onlyGivenNames x; refine cut_follows (kp := kp) (b := b0) (s := x) (fun _ => ?_) ?_; clear_value x; on_goal 2 => subst x)
    | (extract_lets +onlyGivenNames x; clear_value x) | (fail_if_no_progress apply upd_follows)
theorem pmRollover_follows (h0 : Follows kp b0 s) (c : Nat) (day : Bool) (sec : Nat) : Follows kp b0 (pmRollover s c
    day sec) := by
  unfold pmRollover
  with_reducible repeat' first
    | assumption | intro _
    | (extract_lets +onlyGivenNames x; refine cut_follows (kp := kp) (b := b0) (s := x) (fun _ => ?_) ?_; clear_value x; on_goal 2 => subst x)
    | (extract_lets +onlyGivenNames x; clear_value x) | apply foldl_follows | split
    | (fail_if_no_progress apply upd_follows)
theorem pmDataRead_follows (h0 : Follows kp b0 s) (who : Requester) (c : Nat) : Follows kp b0 (pmDataRead s who c) :=
    by
  unfold pmDataRead
  with_reducible repeat' first
    | assumption
    | (extract_lets +onlyGivenNames x; refine cut_follows (kp := kp) (b := b0) (s := x) (fun _ => ?_) ?_; clear_value x; on_goal 2 => subst x)
    | (extract_lets +onlyGivenNames x; clear_value x) | apply ret_follows | apply wrReq_follows | split
theorem traceCheck_follows (h0 : Follows kp b0 s) (c k crc : Nat) : Follows kp b0 (traceCheck s c k crc) := by
  unfold traceCheck
  with_reducible repeat' first
    | assumption
    | (extract_lets +onlyGivenNames x; refine cut_follows (kp := kp) (b := b0) (s := x) (fun _ => ?_) ?_; clear_value x; on_goal 2 => subst x)
    | (extract_lets +onlyGivenNames x; clear_value x) | apply evBit_follows | apply pmAdd_follows | apply wb_follows
    | split | (fail_if_no_progress apply upd_follows)
theorem crsWrite_follows (h0 : Follows kp b0 s) (who : Requester) (c i v : Nat) : Follows kp b0 (crsWrite s who c i
    v) := by
  unfold crsWrite
  with_reducible repeat' first
    | assumption
    | (extract_lets +onlyGivenNames x; refine cut_follows (kp := kp) (b := b0) (s := x) (fun _ => ?_) ?_; clear_value x; on_goal 2 => subst x)
    | (extract_lets +onlyGivenNames x; clear_value x) | apply wrDown_follows | apply wrNotOwner_follows
    | apply wrOk_follows | apply wrRefuse_follows | split | (fail_if_no_progress apply upd_follows)
theorem crsApply_follows (h0 : Follows kp b0 s) (now : Nat) : Follows kp b0 (crsApply s now) := by
  unfold crsApply
  with_reducible repeat' first
    | assumption | intro _
    | (extract_lets +onlyGivenNames x; refine cut_follows (kp := kp) (b := b0) (s := x) (fun _ => ?_) ?_; clear_value x; on_goal 2 => subst x)
    | (extract_lets +onlyGivenNames x; clear_value x) | apply wrW_follows | apply foldl_follows
    | (fail_if_no_progress apply upd_follows)

end Sys2Proof.Machine
end

