-- ==== Sys2Proof/Laws/GatesKeeps.lean ====
section
/-! SUPPORT. What the functions of Machine/Gates.lean keep (Follows), one lemma each. -/
namespace Sys2Proof.Machine

set_option linter.all false
variable {kp : Keep} {b b0 s : State}

theorem gclEvent_follows (h0 : Follows kp b0 s) (x bit : Nat) : Follows kp b0 (gclEvent s x bit) := by
  unfold gclEvent
  with_reducible repeat' first
    | assumption | apply evBit_follows | split
theorem setGcl_follows (h0 : Follows kp b0 s) (x : Nat) (g : GclSt) : Follows kp b0 (setGcl s x g) := by
  unfold setGcl
  with_reducible repeat' first
    | assumption | (fail_if_no_progress apply upd_follows)
theorem gclInstall_follows (h0 : Follows kp b0 s) (x : Nat) : FollowsOpt kp b0 (gclInstall s x) := by
  unfold gclInstall
  with_reducible repeat' first
    | assumption
    | (extract_lets +onlyGivenNames x; refine cut_follows (kp := kp) (b := b0) (s := x) (fun _ => ?_) ?_; clear_value x; on_goal 2 => subst x)
    | (extract_lets +onlyGivenNames x; clear_value x) | apply gclEvent_follows | apply nextFree_follows
    | apply setGcl_follows | apply wf_follows | apply wrW_follows | apply opt_some | apply opt_none | apply of_getD
    | split | refine of_opt_eq (by assumption) ?_ | (fail_if_no_progress apply upd_follows)
theorem gclEntriesClear_follows (h0 : Follows kp b0 s) (c : Nat) : Follows kp b0 (gclEntriesClear s c) := by
  unfold gclEntriesClear
  with_reducible repeat' first
    | assumption | apply regs_filter_follows | intro _
    | (extract_lets +onlyGivenNames x; refine cut_follows (kp := kp) (b := b0) (s := x) (fun _ => ?_) ?_; clear_value x; on_goal 2 => subst x)
    | (extract_lets +onlyGivenNames x; clear_value x) | (fail_if_no_progress apply upd_follows)
    | apply regs_filter_follows
theorem gclDisable_follows (h0 : Follows kp b0 s) (x : Nat) : Follows kp b0 (gclDisable s x) := by
  unfold gclDisable
  with_reducible repeat' first
    | assumption
    | (extract_lets +onlyGivenNames x; refine cut_follows (kp := kp) (b := b0) (s := x) (fun _ => ?_) ?_; clear_value x; on_goal 2 => subst x)
    | (extract_lets +onlyGivenNames x; clear_value x) | apply gclEntriesClear_follows | apply setGcl_follows
    | apply wf_follows | split
theorem gclShowEntries_follows (h0 : Follows kp b0 s) (x : Nat) (l : GclList) : Follows kp b0 (gclShowEntries s x l)
    := by
  unfold gclShowEntries
  with_reducible repeat' first
    | assumption | intro _ | apply gclEntriesClear_follows | apply wrW_follows | apply foldl_follows | split
theorem gclStart_follows (h0 : Follows kp b0 s) (x : Nat) : Follows kp b0 (gclStart s x) := by
  unfold gclStart
  with_reducible repeat' first
    | assumption
    | (extract_lets +onlyGivenNames x; refine cut_follows (kp := kp) (b := b0) (s := x) (fun _ => ?_) ?_; clear_value x; on_goal 2 => subst x)
    | (extract_lets +onlyGivenNames x; clear_value x) | apply gclEvent_follows | apply gclShowEntries_follows
    | apply setGcl_follows | apply wf_follows | split | (fail_if_no_progress apply upd_follows)
theorem gclStep_follows (h0 : Follows kp b0 s) (tb x : Nat) : Follows kp b0 (gclStep s tb x) := by
  unfold gclStep
  with_reducible repeat' first
    | assumption
    | (extract_lets +onlyGivenNames x; refine cut_follows (kp := kp) (b := b0) (s := x) (fun _ => ?_) ?_; clear_value x; on_goal 2 => subst x)
    | (extract_lets +onlyGivenNames x; clear_value x) | apply gclEvent_follows | apply gclStart_follows
    | apply wf_follows | split

end Sys2Proof.Machine
end

