-- ==== Sys2Proof/Laws/RingsKeeps.lean ====
section
/-! SUPPORT. What the functions of Machine/Rings.lean keep (Follows), one lemma each. -/
namespace Sys2Proof.Machine

set_option linter.all false
variable {kp : Keep} {b b0 s : State}

theorem cmdPut_follows (h0 : Follows kp b0 s) (c : CmdCtx) (r : OutRec) : Follows kp b0 (cmdPut s c r) := by
  unfold cmdPut
  with_reducible repeat' first
    | assumption
    | (extract_lets +onlyGivenNames x; refine cut_follows (kp := kp) (b := b0) (s := x) (fun _ => ?_) ?_; clear_value x; on_goal 2 => subst x)
    | (extract_lets +onlyGivenNames x; clear_value x) | apply putRec_follows | apply ringSource_follows | split
theorem ticketPut_follows (h0 : Follows kp b0 s) (t : Ticket) (r : OutRec) : Follows kp b0 (ticketPut s t r) := by
  unfold ticketPut
  with_reducible repeat' first
    | assumption | apply cmdPut_follows | apply putRec_follows | split | (fail_if_no_progress apply upd_follows)
theorem ringStep_follows (h0 : Follows kp b0 s) (r : Nat) : Follows kp b0 (ringStep s r) := by
  unfold ringStep
  with_reducible repeat' first
    | assumption | apply wf_follows
theorem runCmd_follows (h0 : Follows kp b0 s) (r op : Nat) (f : State → CmdCtx → State) (hf : ∀ s x1, Follows kp b0 s
    → Follows kp b0 (f s x1)) : Follows kp b0 (runCmd s r op f) := by
  unfold runCmd
  with_reducible repeat' first
    | assumption
    | (extract_lets +onlyGivenNames x; refine cut_follows (kp := kp) (b := b0) (s := x) (fun _ => ?_) ?_; clear_value x; on_goal 2 => subst x)
    | (extract_lets +onlyGivenNames x; clear_value x) | apply hf | apply cmdPut_follows | apply ringStep_follows
    | split
theorem runCmdNow_follows (h0 : Follows kp b0 s) (r op : Nat) (f : State → CmdCtx → State × OutRec) (hf : ∀ s x1,
    Follows kp b0 s → FollowsFst kp b0 (f s x1)) : Follows kp b0 (runCmdNow s r op f) := by
  unfold runCmdNow
  with_reducible repeat' first
    | assumption | intro _
    | (extract_lets +onlyGivenNames x; refine cut_follows (kp := kp) (b := b0) (s := x) (fun _ => ?_) ?_; clear_value x; on_goal 2 => subst x)
    | (extract_lets +onlyGivenNames x; refine cut_fst (kp := kp) (b := b0) (p := x) (fun _ => ?_) ?_; clear_value x; on_goal 2 => subst x)
    | (extract_lets +onlyGivenNames x; clear_value x) | apply hf | apply cmdPut_follows | apply runCmd_follows
    | (apply of_fst; apply hf) | (apply of_fst; assumption) | split | apply fst_mk
    | refine of_fst_eq (by assumption) ?_
theorem badOpcode_follows (h0 : Follows kp b0 s) (r : Nat) : Follows kp b0 (badOpcode s r) := by
  unfold badOpcode
  with_reducible repeat' first
    | assumption | intro _
    | (extract_lets +onlyGivenNames x; refine cut_follows (kp := kp) (b := b0) (s := x) (fun _ => ?_) ?_; clear_value x; on_goal 2 => subst x)
    | (extract_lets +onlyGivenNames x; clear_value x) | apply runCmdNow_follows | (apply of_fst; assumption) | split
    | apply fst_mk | refine of_fst_eq (by assumption) ?_
theorem runItems_follows {α : Type} (f : State → α → State × Option Status)
    (hf : ∀ s x, Follows kp b s → FollowsFst kp b (f s x)) (h : Follows kp b s) (l : List α) (i : Nat) (r : OutRec) :
    FollowsFst kp b (runItems f l i s r) := by
  induction l generalizing s i r with
  | nil => exact h
  | cons x xs ih =>
    have hx := hf s x h
    unfold runItems
    split
    · rename_i e; exact ih (of_fst_eq e hx) _ _
    · rename_i e; exact ih (of_fst_eq e hx) _ _

theorem ringProdWrite_follows (h0 : Follows kp b0 s) (who : Requester) (r v : Nat) : Follows kp b0 (ringProdWrite s
    who r v) := by
  unfold ringProdWrite
  with_reducible repeat' first
    | assumption
    | (extract_lets +onlyGivenNames x; refine cut_follows (kp := kp) (b := b0) (s := x) (fun _ => ?_) ?_; clear_value x; on_goal 2 => subst x)
    | (extract_lets +onlyGivenNames x; clear_value x) | apply endSource_follows | apply wf_follows
    | apply wrDown_follows | apply wrOk_follows | apply wrRefuse_follows | split
theorem resolveRec_follows (h0 : Follows kp b0 s) (a : Nat) : Follows kp b0 (resolveRec s a) := by
  unfold resolveRec
  with_reducible repeat' first
    | assumption
    | (extract_lets +onlyGivenNames x; refine cut_follows (kp := kp) (b := b0) (s := x) (fun _ => ?_) ?_; clear_value x; on_goal 2 => subst x)
    | (extract_lets +onlyGivenNames x; clear_value x) | apply wf_follows | apply wr_follows
theorem ringResolve_follows (h0 : Follows kp b0 s) (who : Requester) (r : Nat) : Follows kp b0 (ringResolve s who r)
    := by
  unfold ringResolve
  with_reducible repeat' first
    | assumption | intro _
    | (extract_lets +onlyGivenNames x; refine cut_follows (kp := kp) (b := b0) (s := x) (fun _ => ?_) ?_; clear_value x; on_goal 2 => subst x)
    | (extract_lets +onlyGivenNames x; clear_value x) | apply resolveRec_follows | apply wb_follows
    | apply wrDown_follows | apply wrOk_follows | apply wrRefuse_follows | apply foldl_follows | split
theorem ringRestart_follows (h0 : Follows kp b0 s) (r : Nat) : Follows kp b0 (ringRestart s r) := by
  unfold ringRestart
  with_reducible repeat' first
    | assumption | intro _
    | (extract_lets +onlyGivenNames x; refine cut_follows (kp := kp) (b := b0) (s := x) (fun _ => ?_) ?_; clear_value x; on_goal 2 => subst x)
    | (extract_lets +onlyGivenNames x; clear_value x) | apply wb_follows | apply wf_follows | apply wr_follows
    | apply foldl_follows | split
theorem ntfPut_follows (h0 : Follows kp b0 s) (r kind : Nat) (fields : List Byte) : Follows kp b0 (ntfPut s r kind
    fields) := by
  unfold ntfPut
  with_reducible repeat' first
    | assumption
    | (extract_lets +onlyGivenNames x; refine cut_follows (kp := kp) (b := b0) (s := x) (fun _ => ?_) ?_; clear_value x; on_goal 2 => subst x)
    | (extract_lets +onlyGivenNames x; clear_value x) | apply ringSource_follows | apply wf_follows
    | apply wrWords_follows | split | (fail_if_no_progress apply upd_follows)
theorem ntfPf_follows (h0 : Follows kp b0 s) (kind : Nat) (fields : List Byte) : Follows kp b0 (ntfPf s kind fields)
    := by
  unfold ntfPf
  with_reducible repeat' first
    | assumption | intro _ | apply ntfPut_follows | apply foldl_follows
theorem ntfPart_follows (h0 : Follows kp b0 s) (part kind : Nat) (fields : List Byte) : Follows kp b0 (ntfPart s part
    kind fields) := by
  unfold ntfPart
  with_reducible repeat' first
    | assumption | intro _ | apply ntfPut_follows | apply foldl_follows
theorem dmaOutPut_follows (h0 : Follows kp b0 s) (d : Nat) (bytes : List Byte) : FollowsFst kp b0 (dmaOutPut s d
    bytes) := by
  unfold dmaOutPut
  with_reducible repeat' first
    | assumption
    | (extract_lets +onlyGivenNames x; refine cut_follows (kp := kp) (b := b0) (s := x) (fun _ => ?_) ?_; clear_value x; on_goal 2 => subst x)
    | (extract_lets +onlyGivenNames x; clear_value x) | apply wfW_follows | apply wrWords_follows
    | (apply of_fst; assumption) | apply fst_mk | refine of_fst_eq (by assumption) ?_
theorem dmaTimeRec_follows (h0 : Follows kp b0 s) (d idx time : Nat) : Follows kp b0 (dmaTimeRec s d idx time) := by
  unfold dmaTimeRec
  with_reducible repeat' first
    | assumption
    | (extract_lets +onlyGivenNames x; refine cut_follows (kp := kp) (b := b0) (s := x) (fun _ => ?_) ?_; clear_value x; on_goal 2 => subst x)
    | (extract_lets +onlyGivenNames x; refine cut_fst (kp := kp) (b := b0) (p := x) (fun _ => ?_) ?_; clear_value x; on_goal 2 => subst x)
    | (extract_lets +onlyGivenNames x; clear_value x) | apply dmaOutPut_follows
    | (apply of_fst; apply dmaOutPut_follows) | (apply of_fst; assumption) | apply fst_mk
    | refine of_fst_eq (by assumption) ?_
theorem execRingProdWrite_follows (s : State) (who : Requester) (r value : Nat) : ∃ t0, execRingProdWrite who r value
    s = .next t0 ∧ Follows ⟨true, true, true⟩ s t0 := by
  refine ⟨_, rfl, ?_⟩
  have h0 := Follows.refl ⟨true, true, true⟩ s
  with_reducible repeat' first
    | assumption | exact rfl | apply ringProdWrite_follows | split
theorem execRingResolve_follows (s : State) (who : Requester) (r : Nat) : ∃ t0, execRingResolve who r s = .next t0 ∧
    Follows ⟨true, true, true⟩ s t0 := by
  refine ⟨_, rfl, ?_⟩
  have h0 := Follows.refl ⟨true, true, true⟩ s
  with_reducible repeat' first
    | assumption | exact rfl | apply ringResolve_follows | split
theorem execBadOpcode_follows (s : State) (r : Nat) : ∃ t0, execBadOpcode r s = .next t0 ∧ Follows ⟨true, true, true⟩
    s t0 := by
  refine ⟨_, rfl, ?_⟩
  have h0 := Follows.refl ⟨true, true, true⟩ s
  with_reducible repeat' first
    | assumption | exact rfl | apply badOpcode_follows

end Sys2Proof.Machine
end

