-- ==== Sys2Proof/Laws/ImageKeeps.lean ====
section
/-! SUPPORT. What the functions of Machine/Image.lean keep (Follows), one lemma each. -/
namespace Sys2Proof.Machine

set_option linter.all false
variable {kp : Keep} {b b0 s : State}

theorem imgStat_follows (h0 : Follows kp b0 s) (st code sec ofs : Nat) : Follows kp b0 (imgStat s st code sec ofs) :=
    by
  unfold imgStat
  with_reducible repeat' first
    | assumption
    | (extract_lets +onlyGivenNames x; refine cut_follows (kp := kp) (b := b0) (s := x) (fun _ => ?_) ?_; clear_value x; on_goal 2 => subst x)
    | (extract_lets +onlyGivenNames x; clear_value x) | apply wf_follows | apply wr_follows
theorem imgOpen_follows (h0 : Follows kp b0 s) (f : ImgFrom) (op : Nat) (r : OutRec) : FollowsFst kp b0 (imgOpen s f
    op r) := by
  unfold imgOpen
  with_reducible repeat' first
    | assumption
    | (extract_lets +onlyGivenNames x; refine cut_follows (kp := kp) (b := b0) (s := x) (fun _ => ?_) ?_; clear_value x; on_goal 2 => subst x)
    | (extract_lets +onlyGivenNames x; clear_value x) | apply cmdPut_follows | apply regopPut_follows
    | (apply of_fst; assumption) | split | apply fst_mk | refine of_fst_eq (by assumption) ?_
    | (fail_if_no_progress apply upd_follows)
theorem imgNote_follows (h0 : Follows kp b0 s) (f : ImgFrom) (code : Nat) : Follows kp b0 (imgNote s f code) := by
  unfold imgNote
  with_reducible repeat' first
    | assumption | apply noteWrite_follows | split
theorem imgRefuse_follows (h0 : Follows kp b0 s) (f : ImgFrom) (op code : Nat) : Follows kp b0 (imgRefuse s f op
    code) := by
  unfold imgRefuse
  with_reducible repeat' first
    | assumption
    | (extract_lets +onlyGivenNames x; refine cut_follows (kp := kp) (b := b0) (s := x) (fun _ => ?_) ?_; clear_value x; on_goal 2 => subst x)
    | (extract_lets +onlyGivenNames x; refine cut_fst (kp := kp) (b := b0) (p := x) (fun _ => ?_) ?_; clear_value x; on_goal 2 => subst x)
    | (extract_lets +onlyGivenNames x; clear_value x) | apply imgNote_follows | apply imgOpen_follows
    | (apply of_fst; apply imgOpen_follows) | apply imgStat_follows | (apply of_fst; assumption) | split
    | apply fst_mk | refine of_fst_eq (by assumption) ?_
theorem stageStart_follows (h0 : Follows kp b0 s) (t : Ticket) (src addr : Nat) : Follows kp b0 (stageStart s t src
    addr) := by
  unfold stageStart
  with_reducible repeat' first
    | assumption
    | (extract_lets +onlyGivenNames x; refine cut_follows (kp := kp) (b := b0) (s := x) (fun _ => ?_) ?_; clear_value x; on_goal 2 => subst x)
    | (extract_lets +onlyGivenNames x; clear_value x) | apply imgStat_follows | apply wb_follows | apply wf_follows
    | split | (fail_if_no_progress apply upd_follows)
theorem ticketFail_follows (h0 : Follows kp b0 s) (t : Ticket) (code : Nat) : Follows kp b0 (ticketFail s t code) :=
    by
  unfold ticketFail
  with_reducible repeat' first
    | assumption | apply ticketPut_follows
theorem stageEarly_follows (h0 : Follows kp b0 s) (f : ImgFrom) (src : Nat) : Follows kp b0 (stageEarly s f src) := by
  unfold stageEarly
  with_reducible repeat' first
    | assumption
    | (extract_lets +onlyGivenNames x; refine cut_follows (kp := kp) (b := b0) (s := x) (fun _ => ?_) ?_; clear_value x; on_goal 2 => subst x)
    | (extract_lets +onlyGivenNames x; refine cut_fst (kp := kp) (b := b0) (p := x) (fun _ => ?_) ?_; clear_value x; on_goal 2 => subst x)
    | (extract_lets +onlyGivenNames x; clear_value x) | apply imgNote_follows | apply imgOpen_follows
    | (apply of_fst; apply imgOpen_follows) | apply imgRefuse_follows | apply ticketFail_follows
    | (apply of_fst; assumption) | split | apply fst_mk | refine of_fst_eq (by assumption) ?_
    | (fail_if_no_progress apply upd_follows)
theorem imgStage_follows (h0 : Follows kp b0 s) (f : ImgFrom) (src addr : Nat) : Follows kp b0 (imgStage s f src
    addr) := by
  unfold imgStage
  with_reducible repeat' first
    | assumption
    | (extract_lets +onlyGivenNames x; refine cut_follows (kp := kp) (b := b0) (s := x) (fun _ => ?_) ?_; clear_value x; on_goal 2 => subst x)
    | (extract_lets +onlyGivenNames x; refine cut_fst (kp := kp) (b := b0) (p := x) (fun _ => ?_) ?_; clear_value x; on_goal 2 => subst x)
    | (extract_lets +onlyGivenNames x; clear_value x) | apply imgNote_follows | apply imgOpen_follows
    | (apply of_fst; apply imgOpen_follows) | apply imgRefuse_follows | apply stageEarly_follows
    | apply stageStart_follows | (apply of_fst; assumption) | split | apply fst_mk
    | refine of_fst_eq (by assumption) ?_
theorem bootWaitStart_follows (h0 : Follows kp b0 s) : Follows kp b0 (bootWaitStart s) := by
  unfold bootWaitStart
  with_reducible repeat' first
    | assumption
    | (extract_lets +onlyGivenNames x; refine cut_follows (kp := kp) (b := b0) (s := x) (fun _ => ?_) ?_; clear_value x; on_goal 2 => subst x)
    | (extract_lets +onlyGivenNames x; clear_value x) | apply imgStat_follows | apply stageStart_follows
    | apply ticketFail_follows | split | (fail_if_no_progress apply upd_follows)
theorem imgAbandon_follows (h0 : Follows kp b0 s) (f : ImgFrom) : Follows kp b0 (imgAbandon s f) := by
  unfold imgAbandon
  with_reducible repeat' first
    | assumption
    | (extract_lets +onlyGivenNames x; refine cut_follows (kp := kp) (b := b0) (s := x) (fun _ => ?_) ?_; clear_value x; on_goal 2 => subst x)
    | (extract_lets +onlyGivenNames x; refine cut_fst (kp := kp) (b := b0) (p := x) (fun _ => ?_) ?_; clear_value x; on_goal 2 => subst x)
    | (extract_lets +onlyGivenNames x; clear_value x) | apply imgNote_follows | apply imgOpen_follows
    | (apply of_fst; apply imgOpen_follows) | apply imgRefuse_follows | apply imgStat_follows
    | (apply of_fst; assumption) | split | apply fst_mk | refine of_fst_eq (by assumption) ?_
    | (fail_if_no_progress apply upd_follows)
theorem imgCommit_follows (h0 : Follows kp b0 s) (f : ImgFrom) : Follows kp b0 (imgCommit s f) := by
  unfold imgCommit
  with_reducible repeat' first
    | assumption
    | (extract_lets +onlyGivenNames x; refine cut_follows (kp := kp) (b := b0) (s := x) (fun _ => ?_) ?_; clear_value x; on_goal 2 => subst x)
    | (extract_lets +onlyGivenNames x; refine cut_fst (kp := kp) (b := b0) (p := x) (fun _ => ?_) ?_; clear_value x; on_goal 2 => subst x)
    | (extract_lets +onlyGivenNames x; clear_value x) | apply imgNote_follows | apply imgOpen_follows
    | (apply of_fst; apply imgOpen_follows) | apply imgRefuse_follows | apply imgStat_follows
    | apply regionWrite_follows | apply wr_follows | (apply of_fst; assumption) | split | apply fst_mk
    | refine of_fst_eq (by assumption) ?_ | (fail_if_no_progress apply upd_follows)
theorem applyFinish_follows (h0 : Follows kp b0 s) : Follows kp b0 (applyFinish s) := by
  unfold applyFinish
  with_reducible repeat' first
    | assumption
    | (extract_lets +onlyGivenNames x; refine cut_follows (kp := kp) (b := b0) (s := x) (fun _ => ?_) ?_; clear_value x; on_goal 2 => subst x)
    | (extract_lets +onlyGivenNames x; clear_value x) | apply imgStat_follows | apply ticketPut_follows | split
    | (fail_if_no_progress apply upd_follows)
theorem applyLive_follows (h0 : Follows kp b0 s) : Follows kp b0 (applyLive s) := by
  unfold applyLive
  with_reducible repeat' first
    | assumption
    | (extract_lets +onlyGivenNames x; refine cut_follows (kp := kp) (b := b0) (s := x) (fun _ => ?_) ?_; clear_value x; on_goal 2 => subst x)
    | (extract_lets +onlyGivenNames x; clear_value x) | apply wb_follows | split
    | (fail_if_no_progress apply upd_follows)
theorem applyRun_follows (h0 : Follows kp b0 s) (live : Bool) (mask : Nat) : Follows kp b0 (applyRun s live mask) :=
    by
  unfold applyRun
  with_reducible repeat' first
    | assumption | intro _
    | (extract_lets +onlyGivenNames x; refine cut_follows (kp := kp) (b := b0) (s := x) (fun _ => ?_) ?_; clear_value x; on_goal 2 => subst x)
    | (extract_lets +onlyGivenNames x; clear_value x) | apply applyFinish_follows | apply applyLive_follows
    | apply imgStat_follows | apply wf_follows | split | (fail_if_no_progress apply upd_follows)
theorem imgApply_follows (h0 : Follows kp b0 s) (f : ImgFrom) (live trees : Bool) : Follows kp b0 (imgApply s f live
    trees) := by
  unfold imgApply
  with_reducible repeat' first
    | assumption | intro _
    | (extract_lets +onlyGivenNames x; refine cut_follows (kp := kp) (b := b0) (s := x) (fun _ => ?_) ?_; clear_value x; on_goal 2 => subst x)
    | (extract_lets +onlyGivenNames x; refine cut_fst (kp := kp) (b := b0) (p := x) (fun _ => ?_) ?_; clear_value x; on_goal 2 => subst x)
    | (extract_lets +onlyGivenNames x; clear_value x) | apply applyRun_follows | apply imgNote_follows
    | apply imgOpen_follows | (apply of_fst; apply imgOpen_follows) | apply imgRefuse_follows
    | apply imgStat_follows | apply wf_follows | (apply of_fst; assumption) | split | apply fst_mk
    | refine of_fst_eq (by assumption) ?_ | (fail_if_no_progress apply upd_follows)
theorem applyRetry_follows (h0 : Follows kp b0 s) : Follows kp b0 (applyRetry s) := by
  unfold applyRetry
  with_reducible repeat' first
    | assumption | intro _ | apply applyRun_follows | split
theorem applyTransitTimeout_follows (h0 : Follows kp b0 s) : Follows kp b0 (applyTransitTimeout s) := by
  unfold applyTransitTimeout
  with_reducible repeat' first
    | assumption
    | (extract_lets +onlyGivenNames x; refine cut_follows (kp := kp) (b := b0) (s := x) (fun _ => ?_) ?_; clear_value x; on_goal 2 => subst x)
    | (extract_lets +onlyGivenNames x; clear_value x) | apply imgStat_follows | apply ticketFail_follows | split
    | (fail_if_no_progress apply upd_follows)
theorem applyTreeTimeout_follows (h0 : Follows kp b0 s) (t : Nat) : Follows kp b0 (applyTreeTimeout s t) := by
  unfold applyTreeTimeout
  with_reducible repeat' first
    | assumption | intro _
    | (extract_lets +onlyGivenNames x; refine cut_follows (kp := kp) (b := b0) (s := x) (fun _ => ?_) ?_; clear_value x; on_goal 2 => subst x)
    | (extract_lets +onlyGivenNames x; clear_value x) | apply imgStat_follows | apply ticketPut_follows
    | apply foldl_follows | split | (fail_if_no_progress apply upd_follows)
theorem imgReset_follows (h0 : Follows kp b0 s) : Follows kp b0 (imgReset s) := by
  unfold imgReset
  with_reducible repeat' first
    | assumption | intro _
    | (extract_lets +onlyGivenNames x; refine cut_follows (kp := kp) (b := b0) (s := x) (fun _ => ?_) ?_; clear_value x; on_goal 2 => subst x)
    | (extract_lets +onlyGivenNames x; refine cut_fun (kp := kp) (b := b0) (f := x) (fun _ => ?_) ?_; clear_value x; on_goal 2 => subst x)
    | (extract_lets +onlyGivenNames x; refine cut_fun2 (kp := kp) (b := b0) (f := x) (fun _ => ?_) ?_; clear_value x; on_goal 2 => subst x)
    | (extract_lets +onlyGivenNames x; refine cut_fun3 (kp := kp) (b := b0) (f := x) (fun _ => ?_) ?_; clear_value x; on_goal 2 => subst x)
    | (extract_lets +onlyGivenNames x; refine cut_fun4 (kp := kp) (b := b0) (f := x) (fun _ => ?_) ?_; clear_value x; on_goal 2 => subst x)
    | (extract_lets +onlyGivenNames x; refine cut_fun5 (kp := kp) (b := b0) (f := x) (fun _ => ?_) ?_; clear_value x; on_goal 2 => subst x)
    | (extract_lets +onlyGivenNames x; refine cut_fun6 (kp := kp) (b := b0) (f := x) (fun _ => ?_) ?_; clear_value x; on_goal 2 => subst x)
    | (extract_lets +onlyGivenNames x; clear_value x) | apply ticketPut_follows | split | apply_assumption
    | (apply of_fst; apply_assumption) | (apply of_snd; apply_assumption) | (fail_if_no_progress apply upd_follows)
theorem imgGate_follows (h0 : Follows kp b0 s) (f : ImgFrom) (op : Nat) (go : State → State) (hgo : ∀ s, Follows kp
    b0 s → Follows kp b0 (go s)) : Follows kp b0 (imgGate f op go s) := by
  unfold imgGate
  with_reducible repeat' first
    | assumption
    | (extract_lets +onlyGivenNames x; refine cut_follows (kp := kp) (b := b0) (s := x) (fun _ => ?_) ?_; clear_value x; on_goal 2 => subst x)
    | (extract_lets +onlyGivenNames x; refine cut_fst (kp := kp) (b := b0) (p := x) (fun _ => ?_) ?_; clear_value x; on_goal 2 => subst x)
    | (extract_lets +onlyGivenNames x; clear_value x) | apply hgo | apply imgOpen_follows
    | (apply of_fst; apply imgOpen_follows) | apply noteWrite_follows | (apply of_fst; assumption) | split
    | apply fst_mk | refine of_fst_eq (by assumption) ?_
theorem imgCtrl_follows (h0 : Follows kp b0 s) (who : Requester) (v : Word) : Follows kp b0 (imgCtrl s who v) := by
  unfold imgCtrl
  with_reducible repeat' first
    | assumption | intro _ | apply imgAbandon_follows | apply imgApply_follows | apply imgCommit_follows
    | apply imgGate_follows | apply imgStage_follows | apply wrDown_follows | apply wrOk_follows
    | apply wrRefuse_follows | split
theorem imgCmd_follows (h0 : Follows kp b0 s) (r op : Nat) (f : State → ImgFrom → State) (hf : ∀ s x1, Follows kp b0
    s → Follows kp b0 (f s x1)) : Follows kp b0 (imgCmd s r op f) := by
  unfold imgCmd
  with_reducible repeat' first
    | assumption | intro _ | apply hf | apply cmdPut_follows | apply imgGate_follows | apply runCmd_follows | split
theorem execImgCtrlStage_follows (s : State) (who : Requester) (src : Nat) : ∃ t0, execImgCtrlStage who src s = .next
    t0 ∧ Follows ⟨true, true, true⟩ s t0 := by
  refine ⟨_, rfl, ?_⟩
  have h0 := Follows.refl ⟨true, true, true⟩ s
  with_reducible repeat' first
    | assumption | exact rfl | apply imgCtrl_follows
theorem execImgCtrlApply_follows (s : State) (who : Requester) (live trees : Bool) : ∃ t0, execImgCtrlApply who live
    trees s = .next t0 ∧ Follows ⟨true, true, true⟩ s t0 := by
  refine ⟨_, rfl, ?_⟩
  have h0 := Follows.refl ⟨true, true, true⟩ s
  with_reducible repeat' first
    | assumption | exact rfl | apply imgCtrl_follows
theorem execImgCtrlAbandon_follows (s : State) (who : Requester) : ∃ t0, execImgCtrlAbandon who s = .next t0 ∧
    Follows ⟨true, true, true⟩ s t0 := by
  refine ⟨_, rfl, ?_⟩
  have h0 := Follows.refl ⟨true, true, true⟩ s
  with_reducible repeat' first
    | assumption | exact rfl | apply imgCtrl_follows
theorem execImgCtrlCommit_follows (s : State) (who : Requester) : ∃ t0, execImgCtrlCommit who s = .next t0 ∧ Follows
    ⟨true, true, true⟩ s t0 := by
  refine ⟨_, rfl, ?_⟩
  have h0 := Follows.refl ⟨true, true, true⟩ s
  with_reducible repeat' first
    | assumption | exact rfl | apply imgCtrl_follows
theorem execApplyTransitTimeout_follows (s : State) : ∃ t0, execApplyTransitTimeout s = .next t0 ∧ Follows ⟨true,
    true, true⟩ s t0 := by
  refine ⟨_, rfl, ?_⟩
  have h0 := Follows.refl ⟨true, true, true⟩ s
  with_reducible repeat' first
    | assumption | exact rfl | apply applyTransitTimeout_follows
theorem execApplyTreeTimeout_follows (s : State) (t : Nat) : ∃ t0, execApplyTreeTimeout t s = .next t0 ∧ Follows
    ⟨true, true, true⟩ s t0 := by
  refine ⟨_, rfl, ?_⟩
  have h0 := Follows.refl ⟨true, true, true⟩ s
  with_reducible repeat' first
    | assumption | exact rfl | apply applyTreeTimeout_follows
theorem execStage_follows (s : State) (r src : Nat) : ∃ t0, execStage r src s = .next t0 ∧ Follows ⟨true, true, true⟩
    s t0 := by
  refine ⟨_, rfl, ?_⟩
  have h0 := Follows.refl ⟨true, true, true⟩ s
  with_reducible repeat' first
    | assumption | exact rfl | intro _ | apply imgCmd_follows | apply imgStage_follows | split
theorem execApply_follows (s : State) (r : Nat) (live trees : Bool) : ∃ t0, execApply r live trees s = .next t0 ∧
    Follows ⟨true, true, true⟩ s t0 := by
  refine ⟨_, rfl, ?_⟩
  have h0 := Follows.refl ⟨true, true, true⟩ s
  with_reducible repeat' first
    | assumption | exact rfl | intro _ | apply imgApply_follows | apply imgCmd_follows
theorem execAbandon_follows (s : State) (r : Nat) : ∃ t0, execAbandon r s = .next t0 ∧ Follows ⟨true, true, true⟩ s
    t0 := by
  refine ⟨_, rfl, ?_⟩
  have h0 := Follows.refl ⟨true, true, true⟩ s
  with_reducible repeat' first
    | assumption | exact rfl | intro _ | apply imgAbandon_follows | apply imgCmd_follows
theorem execCommit_follows (s : State) (r : Nat) : ∃ t0, execCommit r s = .next t0 ∧ Follows ⟨true, true, true⟩ s t0
    := by
  refine ⟨_, rfl, ?_⟩
  have h0 := Follows.refl ⟨true, true, true⟩ s
  with_reducible repeat' first
    | assumption | exact rfl | intro _ | apply imgCmd_follows | apply imgCommit_follows

end Sys2Proof.Machine
end

