-- ==== Sys2Proof/Laws/BuffersKeeps.lean ====
section
/-! SUPPORT. What the functions of Machine/Buffers.lean keep (Follows), one lemma each. -/
namespace Sys2Proof.Machine

set_option linter.all false
variable {kp : Keep} {b b0 s : State}

theorem stat_follows (h0 : Follows kp b0 s) (scope i code n : Nat) : Follows kp b0 (stat s scope i code n) := by
  unfold stat
  with_reducible repeat' first
    | assumption
    | (extract_lets +onlyGivenNames x; refine cut_follows (kp := kp) (b := b0) (s := x) (fun _ => ?_) ?_; clear_value x; on_goal 2 => subst x)
    | (extract_lets +onlyGivenNames x; clear_value x) | split | (fail_if_no_progress apply upd_follows)
theorem setPool_follows (h0 : Follows kp b0 s) (n : Nat) (p : PoolSt) : Follows kp b0 (setPool s n p) := by
  unfold setPool
  with_reducible repeat' first
    | assumption | (fail_if_no_progress apply upd_follows)
theorem bpmCount_follows (h0 : Follows kp b0 s) (code k : Nat) : Follows kp b0 (bpmCount s code k) := by
  unfold bpmCount
  with_reducible repeat' first
    | assumption | apply cnt64_follows
theorem showPool_follows (h0 : Follows kp b0 s) (n : Nat) : Follows kp b0 (showPool s n) := by
  unfold showPool
  with_reducible repeat' first
    | assumption
    | (extract_lets +onlyGivenNames x; refine cut_follows (kp := kp) (b := b0) (s := x) (fun _ => ?_) ?_; clear_value x; on_goal 2 => subst x)
    | (extract_lets +onlyGivenNames x; clear_value x) | apply wrW_follows | split
theorem poolRefill_follows (h0 : Follows kp b0 s) (n : Nat) : Follows kp b0 (poolRefill s n) := by
  unfold poolRefill
  with_reducible repeat' first
    | assumption | intro _
    | (extract_lets +onlyGivenNames x; refine cut_follows (kp := kp) (b := b0) (s := x) (fun _ => ?_) ?_; clear_value x; on_goal 2 => subst x)
    | (extract_lets +onlyGivenNames x; clear_value x) | apply bpmCount_follows | apply pc_follows
    | apply setPool_follows | split | (fail_if_no_progress apply upd_follows)
theorem poolSpill_follows (h0 : Follows kp b0 s) (n : Nat) : Follows kp b0 (poolSpill s n) := by
  unfold poolSpill
  with_reducible repeat' first
    | assumption
    | (extract_lets +onlyGivenNames x; refine cut_follows (kp := kp) (b := b0) (s := x) (fun _ => ?_) ?_; clear_value x; on_goal 2 => subst x)
    | (extract_lets +onlyGivenNames x; clear_value x) | apply bpmCount_follows | apply pc_follows
    | apply setPool_follows | split | (fail_if_no_progress apply upd_follows)
theorem poolAlloc_follows (h0 : Follows kp b0 s) (n : Nat) : FollowsOptSnd kp b0 (poolAlloc s n) := by
  unfold poolAlloc
  with_reducible repeat' first
    | assumption
    | (extract_lets +onlyGivenNames x; refine cut_follows (kp := kp) (b := b0) (s := x) (fun _ => ?_) ?_; clear_value x; on_goal 2 => subst x)
    | (extract_lets +onlyGivenNames x; clear_value x) | apply poolRefill_follows | apply setPool_follows
    | apply showPool_follows | apply optSnd_some | apply optSnd_none | split
    | refine of_optSnd_eq (by assumption) ?_ | (fail_if_no_progress apply upd_follows)
theorem poolFree_follows (h0 : Follows kp b0 s) (n i : Nat) : Follows kp b0 (poolFree s n i) := by
  unfold poolFree
  with_reducible repeat' first
    | assumption | apply poolSpill_follows | apply setPool_follows | apply showPool_follows | split
    | (fail_if_no_progress apply upd_follows)
theorem poolsInit_follows (h0 : Follows kp b0 s) : Follows kp b0 (poolsInit s) := by
  unfold poolsInit
  with_reducible repeat' first
    | assumption | intro _
    | (extract_lets +onlyGivenNames x; refine cut_follows (kp := kp) (b := b0) (s := x) (fun _ => ?_) ?_; clear_value x; on_goal 2 => subst x)
    | (extract_lets +onlyGivenNames x; clear_value x) | apply poolRefill_follows | apply setPool_follows
    | apply showPool_follows | apply foldl_follows | (fail_if_no_progress apply upd_follows)
theorem poolBases_follows (h0 : Follows kp b0 s) : Follows kp b0 (poolBases s) := by
  unfold poolBases
  with_reducible repeat' first
    | assumption | intro _ | apply wrW_follows | apply foldl_follows
theorem setDesc_follows (h0 : Follows kp b0 s) (h : Nat) (d : BufDesc) : Follows kp b0 (setDesc s h d) := by
  unfold setDesc
  with_reducible repeat' first
    | assumption | (fail_if_no_progress apply upd_follows)
theorem addUse_follows (h0 : Follows kp b0 s) (p cells deep : Nat) : Follows kp b0 (addUse s p cells deep) := by
  unfold addUse
  with_reducible repeat' first
    | assumption | (fail_if_no_progress apply upd_follows)
theorem subUse_follows (h0 : Follows kp b0 s) (p cells deep : Nat) : Follows kp b0 (subUse s p cells deep) := by
  unfold subUse
  with_reducible repeat' first
    | assumption | (fail_if_no_progress apply upd_follows)
theorem showUse_follows (h0 : Follows kp b0 s) (p : Nat) : Follows kp b0 (showUse s p) := by
  unfold showUse
  with_reducible repeat' first
    | assumption | apply wrW_follows
theorem bufReturn_follows (h0 : Follows kp b0 s) (h : Nat) (d : BufDesc) : Follows kp b0 (bufReturn s h d) := by
  unfold bufReturn
  with_reducible repeat' first
    | assumption | intro _
    | (extract_lets +onlyGivenNames x; refine cut_follows (kp := kp) (b := b0) (s := x) (fun _ => ?_) ?_; clear_value x; on_goal 2 => subst x)
    | (extract_lets +onlyGivenNames x; clear_value x) | apply poolFree_follows | apply showUse_follows
    | apply subUse_follows | apply foldl_follows | split | (fail_if_no_progress apply upd_follows)
theorem freeFault_follows (h0 : Follows kp b0 s) (h name isl kind bit cnt code : Nat) : Follows kp b0 (freeFault s h
    name isl kind bit cnt code) := by
  unfold freeFault
  with_reducible repeat' first
    | assumption
    | (extract_lets +onlyGivenNames x; refine cut_follows (kp := kp) (b := b0) (s := x) (fun _ => ?_) ?_; clear_value x; on_goal 2 => subst x)
    | (extract_lets +onlyGivenNames x; clear_value x) | apply bpmCount_follows | apply evBit_follows
    | apply wr_follows | apply wrW_follows
theorem bufFree_follows (h0 : Follows kp b0 s) (h name isl : Nat) : FollowsFst kp b0 (bufFree s h name isl) := by
  unfold bufFree
  with_reducible repeat' first
    | assumption
    | (extract_lets +onlyGivenNames x; refine cut_follows (kp := kp) (b := b0) (s := x) (fun _ => ?_) ?_; clear_value x; on_goal 2 => subst x)
    | (extract_lets +onlyGivenNames x; clear_value x) | apply bpmCount_follows | apply bufReturn_follows
    | apply freeFault_follows | apply setDesc_follows | (apply of_fst; assumption) | split | apply fst_mk
    | refine of_fst_eq (by assumption) ?_ | (fail_if_no_progress apply upd_follows)
theorem bpmFreeWrite_follows (h0 : Follows kp b0 s) (who : Requester) (h name : Nat) : Follows kp b0 (bpmFreeWrite s
    who h name) := by
  unfold bpmFreeWrite
  with_reducible repeat' first
    | assumption
    | (extract_lets +onlyGivenNames x; refine cut_follows (kp := kp) (b := b0) (s := x) (fun _ => ?_) ?_; clear_value x; on_goal 2 => subst x)
    | (extract_lets +onlyGivenNames x; refine cut_fst (kp := kp) (b := b0) (p := x) (fun _ => ?_) ?_; clear_value x; on_goal 2 => subst x)
    | (extract_lets +onlyGivenNames x; clear_value x) | apply bufFree_follows
    | (apply of_fst; apply bufFree_follows) | apply wrDown_follows | apply wrOk_follows | apply wrRefuse_follows
    | apply wrReq_follows | (apply of_fst; assumption) | split | apply fst_mk | refine of_fst_eq (by assumption) ?_
theorem takeCells_follows (h : Follows kp b s) (pl n : Nat) (acc : List Nat) : FollowsOptSnd kp b (takeCells s pl n acc) := by
  induction n generalizing s acc with
  | zero => exact optSnd_some h
  | succ n ih =>
    unfold takeCells
    split
    · rename_i e; exact ih (of_optSnd_eq e (poolAlloc_follows h _)) _
    · exact optSnd_none

theorem placeCells_follows (h0 : Follows kp b0 s) (pl part len : Nat) (names : List Nat) : FollowsOptSnd kp b0
    (placeCells s pl part len names) := by
  unfold placeCells
  with_reducible repeat' first
    | assumption
    | (extract_lets +onlyGivenNames x; refine cut_follows (kp := kp) (b := b0) (s := x) (fun _ => ?_) ?_; clear_value x; on_goal 2 => subst x)
    | (extract_lets +onlyGivenNames x; refine cut_optSnd (kp := kp) (b := b0) (o := x) (fun _ => ?_) ?_; clear_value x; on_goal 2 => subst x)
    | (extract_lets +onlyGivenNames x; clear_value x) | apply addUse_follows | apply bpmCount_follows
    | apply setDesc_follows | apply showUse_follows | apply takeCells_follows | apply optSnd_some
    | apply optSnd_none | split | refine of_optSnd_eq (by assumption) ?_ | (fail_if_no_progress apply upd_follows)
theorem placeDeep_follows (h : Follows kp b s) (part len colour : Nat) (names : List Nat) (busySites : Nat) :
    FollowsOptSnd kp b (placeDeep s part len colour names busySites).1
      ∧ Follows kp b (placeDeep s part len colour names busySites).2 := by
  unfold placeDeep
  split
  · exact ⟨optSnd_none, h⟩
  · split
    · exact ⟨optSnd_none, h⟩
    · split
      · exact ⟨optSnd_none, bpmCount_follows h _ _⟩
      · split
        · exact ⟨optSnd_none, h⟩
        · rename_i e
          have h1 := of_optSnd_eq e (poolAlloc_follows h _)
          refine ⟨optSnd_some ?_, h⟩
          split
          · apply bpmCount_follows; apply showUse_follows; apply addUse_follows; apply setDesc_follows; exact h1
          · apply bpmCount_follows; apply bpmCount_follows; apply showUse_follows; apply addUse_follows
            apply setDesc_follows; exact h1

theorem tryHomes_follows (h : Follows kp b s) (part len colour : Nat) (names : List Nat) (busySites : Nat) (l : List Bool) :
    FollowsSnd kp b (tryHomes part len colour names busySites l s) := by
  induction l generalizing s with
  | nil => exact h
  | cons d l ih =>
    have hd := placeDeep_follows h part len colour names busySites
    cases d with
    | true =>
      unfold tryHomes
      split
      · rename_i e; rw [e] at hd; exact snd_mk (of_optSnd_eq rfl hd.1)
      · rename_i e; rw [e] at hd; exact ih hd.2
    | false =>
      unfold tryHomes
      split
      · split
        · rename_i e; exact snd_mk (of_optSnd_eq e (placeCells_follows h _ _ _ _))
        · exact ih h
      · exact ih h

theorem fitNames_follows (h0 : Follows kp b0 s) (names : List Nat) : FollowsSnd kp b0 (fitNames s names) := by
  unfold fitNames
  with_reducible repeat' first
    | assumption
    | (extract_lets +onlyGivenNames x; refine cut_follows (kp := kp) (b := b0) (s := x) (fun _ => ?_) ?_; clear_value x; on_goal 2 => subst x)
    | (extract_lets +onlyGivenNames x; clear_value x) | apply bpmCount_follows | apply evBit_follows
    | (apply of_snd; assumption) | split | apply snd_mk | refine of_snd_eq (by assumption) ?_
theorem placeFrame_follows (h0 : Follows kp b0 s) (kind part len colour cellBytes : Nat) (names : List Nat)
    (busySites : Nat) : FollowsSnd kp b0 (placeFrame s kind part len colour cellBytes names busySites) := by
  unfold placeFrame
  with_reducible repeat' first
    | assumption | apply bpmCount_follows | apply evBit_follows | apply placeCells_follows | apply tryHomes_follows
    | (apply of_snd; apply tryHomes_follows) | (apply of_snd; assumption) | apply optSnd_some | apply optSnd_none
    | split | apply snd_mk | refine of_snd_eq (by assumption) ?_ | refine of_optSnd_eq (by assumption) ?_
theorem toRing_follows (h0 : Follows kp b0 s) (r : Nat) (f : Frame) (busySites : Nat) : Follows kp b0 (toRing s r f
    busySites) := by
  unfold toRing
  with_reducible repeat' first
    | assumption | intro _
    | (extract_lets +onlyGivenNames x; refine cut_follows (kp := kp) (b := b0) (s := x) (fun _ => ?_) ?_; clear_value x; on_goal 2 => subst x)
    | (extract_lets +onlyGivenNames x; refine cut_snd (kp := kp) (b := b0) (p := x) (fun _ => ?_) ?_; clear_value x; on_goal 2 => subst x)
    | (extract_lets +onlyGivenNames x; refine cut_fun (kp := kp) (b := b0) (f := x) (fun _ => ?_) ?_; clear_value x; on_goal 2 => subst x)
    | (extract_lets +onlyGivenNames x; refine cut_fun2 (kp := kp) (b := b0) (f := x) (fun _ => ?_) ?_; clear_value x; on_goal 2 => subst x)
    | (extract_lets +onlyGivenNames x; refine cut_fun3 (kp := kp) (b := b0) (f := x) (fun _ => ?_) ?_; clear_value x; on_goal 2 => subst x)
    | (extract_lets +onlyGivenNames x; refine cut_fun4 (kp := kp) (b := b0) (f := x) (fun _ => ?_) ?_; clear_value x; on_goal 2 => subst x)
    | (extract_lets +onlyGivenNames x; refine cut_fun5 (kp := kp) (b := b0) (f := x) (fun _ => ?_) ?_; clear_value x; on_goal 2 => subst x)
    | (extract_lets +onlyGivenNames x; refine cut_fun6 (kp := kp) (b := b0) (f := x) (fun _ => ?_) ?_; clear_value x; on_goal 2 => subst x)
    | (extract_lets +onlyGivenNames x; clear_value x) | apply placeFrame_follows
    | (apply of_snd; apply placeFrame_follows) | (apply of_snd; assumption) | split | apply snd_mk
    | refine of_snd_eq (by assumption) ?_ | apply_assumption | (apply of_fst; apply_assumption)
    | (apply of_snd; apply_assumption) | (fail_if_no_progress apply upd_follows)
theorem poolLose_follows (h0 : Follows kp b0 s) (n : Nat) : Follows kp b0 (poolLose s n) := by
  unfold poolLose
  with_reducible repeat' first
    | assumption | intro _
    | (extract_lets +onlyGivenNames x; refine cut_follows (kp := kp) (b := b0) (s := x) (fun _ => ?_) ?_; clear_value x; on_goal 2 => subst x)
    | (extract_lets +onlyGivenNames x; refine cut_fun (kp := kp) (b := b0) (f := x) (fun _ => ?_) ?_; clear_value x; on_goal 2 => subst x)
    | (extract_lets +onlyGivenNames x; refine cut_fun2 (kp := kp) (b := b0) (f := x) (fun _ => ?_) ?_; clear_value x; on_goal 2 => subst x)
    | (extract_lets +onlyGivenNames x; refine cut_fun3 (kp := kp) (b := b0) (f := x) (fun _ => ?_) ?_; clear_value x; on_goal 2 => subst x)
    | (extract_lets +onlyGivenNames x; refine cut_fun4 (kp := kp) (b := b0) (f := x) (fun _ => ?_) ?_; clear_value x; on_goal 2 => subst x)
    | (extract_lets +onlyGivenNames x; refine cut_fun5 (kp := kp) (b := b0) (f := x) (fun _ => ?_) ?_; clear_value x; on_goal 2 => subst x)
    | (extract_lets +onlyGivenNames x; refine cut_fun6 (kp := kp) (b := b0) (f := x) (fun _ => ?_) ?_; clear_value x; on_goal 2 => subst x)
    | (extract_lets +onlyGivenNames x; clear_value x) | apply setPool_follows | apply showPool_follows
    | apply_assumption | (apply of_fst; apply_assumption) | (apply of_snd; apply_assumption)
    | (fail_if_no_progress apply upd_follows)
theorem sliceLost_follows (h0 : Follows kp b0 s) (k : Nat) : Follows kp b0 (sliceLost s k) := by
  unfold sliceLost
  with_reducible repeat' first
    | assumption | apply poolLose_follows | (fail_if_no_progress apply upd_follows)
theorem siteLost_follows (h0 : Follows kp b0 s) (m : Nat) : Follows kp b0 (siteLost s m) := by
  unfold siteLost
  with_reducible repeat' first
    | assumption | intro _
    | (extract_lets +onlyGivenNames x; refine cut_follows (kp := kp) (b := b0) (s := x) (fun _ => ?_) ?_; clear_value x; on_goal 2 => subst x)
    | (extract_lets +onlyGivenNames x; clear_value x) | apply poolLose_follows | apply foldl_follows | split
    | (fail_if_no_progress apply upd_follows)
theorem execBufferFree_follows (s : State) (h name island : Nat) : ∃ t0, execBufferFree h name island s = .next t0 ∧
    Follows ⟨true, true, true⟩ s t0 := by
  refine ⟨_, rfl, ?_⟩
  have h0 := Follows.refl ⟨true, true, true⟩ s
  with_reducible repeat' first
    | assumption | exact rfl | apply bufFree_follows | (apply of_fst; apply bufFree_follows)
    | (apply of_fst; assumption) | apply fst_mk | refine of_fst_eq (by assumption) ?_
theorem execBpmFreeWrite_follows (s : State) (who : Requester) (h name : Nat) : ∃ t0, execBpmFreeWrite who h name s =
    .next t0 ∧ Follows ⟨true, true, true⟩ s t0 := by
  refine ⟨_, rfl, ?_⟩
  have h0 := Follows.refl ⟨true, true, true⟩ s
  with_reducible repeat' first
    | assumption | exact rfl | apply bpmFreeWrite_follows

end Sys2Proof.Machine
end

