-- ==== Sys2Proof/Laws/ObserveKeeps.lean ====
section
/-! SUPPORT. What the functions of Machine/Observe.lean keep (Follows), one lemma each. -/
namespace Sys2Proof.Machine

set_option linter.all false
variable {kp : Keep} {b b0 s : State}

theorem dramRingPut_follows (h0 : Follows kp b0 s) (base log2 idx : Nat) (bytes : List Byte) : FollowsOpt kp b0
    (dramRingPut s base log2 idx bytes) := by
  unfold dramRingPut
  with_reducible repeat' first
    | assumption | apply dram_bytes_follows | apply dram_follows
    | (extract_lets +onlyGivenNames x; refine cut_follows (kp := kp) (b := b0) (s := x) (fun _ => ?_) ?_; clear_value x; on_goal 2 => subst x)
    | (extract_lets +onlyGivenNames x; clear_value x) | apply wfW_follows | apply opt_some | apply opt_none
    | apply of_getD | split | refine of_opt_eq (by assumption) ?_ | (fail_if_no_progress apply upd_follows)
theorem dramPut_follows (h0 : Follows kp b0 s) (a : Nat) (x : Byte) : Follows kp b0 (dramPut s a x) := by
  unfold dramPut
  with_reducible repeat' first
    | assumption | apply dram_bytes_follows | apply dram_follows
    | (extract_lets +onlyGivenNames x; refine cut_follows (kp := kp) (b := b0) (s := x) (fun _ => ?_) ?_; clear_value x; on_goal 2 => subst x)
    | (extract_lets +onlyGivenNames x; clear_value x) | apply stat_follows | split
    | (fail_if_no_progress apply upd_follows)
theorem pcShadow_follows (h0 : Follows kp b0 s) : Follows kp b0 (pcShadow s) := by
  unfold pcShadow
  with_reducible repeat' first
    | assumption | apply regs_filter_follows | intro _
    | (extract_lets +onlyGivenNames x; refine cut_follows (kp := kp) (b := b0) (s := x) (fun _ => ?_) ?_; clear_value x; on_goal 2 => subst x)
    | (extract_lets +onlyGivenNames x; clear_value x) | apply wr_follows | apply foldl_follows
    | (fail_if_no_progress apply upd_follows) | apply regs_filter_follows
theorem snapshot_follows (h0 : Follows kp b0 s) (ofs : Nat) : FollowsFst kp b0 (snapshot s ofs) := by
  unfold snapshot
  with_reducible repeat' first
    | assumption
    | (extract_lets +onlyGivenNames x; refine cut_follows (kp := kp) (b := b0) (s := x) (fun _ => ?_) ?_; clear_value x; on_goal 2 => subst x)
    | (extract_lets +onlyGivenNames x; clear_value x) | apply evBit_follows | apply pcShadow_follows
    | apply satF_follows | apply stat_follows | apply wf_follows | apply wrW_follows | (apply of_fst; assumption)
    | split | apply fst_mk | refine of_fst_eq (by assumption) ?_ | (fail_if_no_progress apply upd_follows)
theorem snapCtlWrite_follows (h0 : Follows kp b0 s) (who : Requester) (v : Word) (ofs : Nat) : Follows kp b0
    (snapCtlWrite s who v ofs) := by
  unfold snapCtlWrite
  with_reducible repeat' first
    | assumption
    | (extract_lets +onlyGivenNames x; refine cut_follows (kp := kp) (b := b0) (s := x) (fun _ => ?_) ?_; clear_value x; on_goal 2 => subst x)
    | (extract_lets +onlyGivenNames x; refine cut_fst (kp := kp) (b := b0) (p := x) (fun _ => ?_) ?_; clear_value x; on_goal 2 => subst x)
    | (extract_lets +onlyGivenNames x; clear_value x) | apply snapshot_follows
    | (apply of_fst; apply snapshot_follows) | apply wf_follows | apply wrDown_follows | apply wrOk_follows
    | apply wrRefuse_follows | (apply of_fst; assumption) | split | apply fst_mk | refine of_fst_eq (by assumption) ?_
theorem pcValWrite_follows (h0 : Follows kp b0 s) (who : Requester) (n v : Nat) : Follows kp b0 (pcValWrite s who n
    v) := by
  unfold pcValWrite
  with_reducible repeat' first
    | assumption | apply wrDown_follows | apply wrOk_follows | apply wrRefuse_follows | apply wrW_follows | split
theorem traceRoom_follows (h0 : Follows kp b0 s) : FollowsOpt kp b0 (traceRoom s) := by
  unfold traceRoom
  with_reducible repeat' first
    | assumption
    | (extract_lets +onlyGivenNames x; refine cut_follows (kp := kp) (b := b0) (s := x) (fun _ => ?_) ?_; clear_value x; on_goal 2 => subst x)
    | (extract_lets +onlyGivenNames x; clear_value x) | apply opt_some | apply opt_none | apply of_getD | split
    | refine of_opt_eq (by assumption) ?_ | (fail_if_no_progress apply upd_follows)
theorem trace_follows (h : Follows kp b s) (cl : Clause) (stage isl arg aux : Nat) :
    Follows kp b (trace s cl stage isl arg aux) := by
  unfold trace
  split
  · exact h
  · extract_lets +onlyGivenNames time s1 r ring
    have h1 : Follows kp b s1 := nextFree_follows h
    clear_value s1 r
    split
    · rename_i e
      obtain ⟨u, hu, e⟩ := Option.bind_eq_some_iff.1 e
      have h2 := of_opt_eq e (dramRingPut_follows (of_opt_eq hu (traceRoom_follows h1)) _ _ _ _)
      with_reducible apply upd_follows; exact h2
    · extract_lets s3
      have h3 : Follows kp b s3 := evBit_follows (satF_follows h1 _ _ _ _) _ _ _ _ _
      with_reducible apply upd_follows; exact h3

theorem traceDrop_follows (h0 : Follows kp b0 s) (cl : Clause) (isl code scope unit : Nat) : Follows kp b0 (traceDrop
    s cl isl code scope unit) := by
  unfold traceDrop
  with_reducible repeat' first
    | assumption | apply trace_follows
theorem fiCfgWrite_follows (h0 : Follows kp b0 s) (who : Requester) (cfg v : Nat) (ops : Nat) : Follows kp b0
    (fiCfgWrite s who cfg v ops) := by
  unfold fiCfgWrite
  with_reducible repeat' first
    | assumption
    | (extract_lets +onlyGivenNames x; refine cut_follows (kp := kp) (b := b0) (s := x) (fun _ => ?_) ?_; clear_value x; on_goal 2 => subst x)
    | (extract_lets +onlyGivenNames x; clear_value x) | apply fiDisarm_follows | apply setFi_follows
    | apply wb_follows | apply wrOk_follows | apply wrRefuse_follows | apply wrW_follows | split
    | (fail_if_no_progress apply upd_follows)

end Sys2Proof.Machine
end

