-- ==== Sys2Proof/Laws/TermsKeeps.lean ====
section
/-! SUPPORT. What the functions of Machine/Terms.lean keep (Follows), one lemma each. -/
namespace Sys2Proof.Machine

set_option linter.all false
variable {kp : Keep} {b b0 s : State}

theorem setInfo_follows (h0 : Follows kp b0 s) (tid hi lo v : Nat) : Follows kp b0 (setInfo s tid hi lo v) := by
  unfold setInfo
  with_reducible repeat' first
    | assumption | apply wfW_follows
theorem termNotify_follows (h0 : Follows kp b0 s) (tid : Nat) : Follows kp b0 (termNotify s tid) := by
  unfold termNotify
  with_reducible repeat' first
    | assumption
    | (extract_lets +onlyGivenNames x; refine cut_follows (kp := kp) (b := b0) (s := x) (fun _ => ?_) ?_; clear_value x; on_goal 2 => subst x)
    | (extract_lets +onlyGivenNames x; clear_value x) | apply ntfPart_follows

end Sys2Proof.Machine
end

