-- ==== Sys2Proof/Laws/QueuesKeeps.lean ====
section
/-! SUPPORT. What the functions of Machine/Queues.lean keep (Follows), one lemma each. -/
namespace Sys2Proof.Machine

set_option linter.all false
variable {kp : Keep} {b b0 s : State}

theorem setQueue_follows (h0 : Follows kp b0 s) (k : Nat) (l : List QFrame) : Follows kp b0 (setQueue s k l) := by
  unfold setQueue
  with_reducible repeat' first
    | assumption | (fail_if_no_progress apply upd_follows)
theorem qPush_follows (h0 : Follows kp b0 s) (k : Nat) (f : QFrame) : Follows kp b0 (qPush s k f) := by
  unfold qPush
  with_reducible repeat' first
    | assumption | (fail_if_no_progress apply upd_follows)
theorem qPop_follows (h0 : Follows kp b0 s) (k : Nat) : Follows kp b0 (qPop s k) := by
  unfold qPop
  with_reducible repeat' first
    | assumption | apply setQueue_follows | (fail_if_no_progress apply upd_follows)
theorem qCount_follows (h0 : Follows kp b0 s) (k code n : Nat) : Follows kp b0 (qCount s k code n) := by
  unfold qCount
  with_reducible repeat' first
    | assumption
    | (extract_lets +onlyGivenNames x; refine cut_follows (kp := kp) (b := b0) (s := x) (fun _ => ?_) ?_; clear_value x; on_goal 2 => subst x)
    | (extract_lets +onlyGivenNames x; clear_value x) | apply cnt64_follows | apply stat_follows | split
theorem qFree_follows (h0 : Follows kp b0 s) (k : Nat) (f : QFrame) : Follows kp b0 (qFree s k f) := by
  unfold qFree
  with_reducible repeat' first
    | assumption | apply bufFree_follows | (apply of_fst; apply bufFree_follows) | (apply of_fst; assumption)
    | split | apply fst_mk | refine of_fst_eq (by assumption) ?_
theorem qFlush_follows (h0 : Follows kp b0 s) (k : Nat) : Follows kp b0 (qFlush s k) := by
  unfold qFlush
  with_reducible repeat' first
    | assumption | intro _
    | (extract_lets +onlyGivenNames x; refine cut_follows (kp := kp) (b := b0) (s := x) (fun _ => ?_) ?_; clear_value x; on_goal 2 => subst x)
    | (extract_lets +onlyGivenNames x; clear_value x) | apply qCount_follows | apply qFree_follows
    | apply setQueue_follows | apply foldl_follows | split
theorem lostFlight_follows (h0 : Follows kp b0 s) (k n : Nat) : Follows kp b0 (lostFlight s k n) := by
  unfold lostFlight
  with_reducible repeat' first
    | assumption | apply stat_follows | split
theorem termFlush_follows (h0 : Follows kp b0 s) (tid : Nat) : Follows kp b0 (termFlush s tid) := by
  unfold termFlush
  with_reducible repeat' first
    | assumption | intro _ | apply qFlush_follows | apply foldl_follows
theorem treeFlush_follows (h0 : Follows kp b0 s) (t : Nat) : Follows kp b0 (treeFlush s t) := by
  unfold treeFlush
  with_reducible repeat' first
    | assumption | intro _ | apply qFlush_follows | apply foldl_follows

end Sys2Proof.Machine
end

