-- ==== Sys2Proof/Laws/TcmKeeps.lean ====
section
/-! SUPPORT. What the functions of Machine/Tcm.lean keep (Follows), one lemma each. -/
namespace Sys2Proof.Machine

set_option linter.all false
variable {kp : Keep} {b b0 s : State}

theorem setTcmQueue_follows (h0 : Follows kp b0 s) (c : Nat) (l : List QMsg) : Follows kp b0 (setTcmQueue s c l) := by
  unfold setTcmQueue
  with_reducible repeat' first
    | assumption | (fail_if_no_progress apply upd_follows)
theorem tcmPush_follows (h0 : Follows kp b0 s) (c : Nat) (m : QMsg) : FollowsOpt kp b0 (tcmPush s c m) := by
  unfold tcmPush
  with_reducible repeat' first
    | assumption | apply setTcmQueue_follows | apply opt_some | apply opt_none | apply of_getD | split
    | refine of_opt_eq (by assumption) ?_
theorem tcmSend_follows (h0 : Follows kp b0 s) (c : Nat) (m : QMsg) : Follows kp b0 (tcmSend s c m) := by
  unfold tcmSend
  with_reducible repeat' first
    | assumption | apply tcmPush_follows | apply opt_some | apply opt_none | apply of_getD
    | refine of_opt_eq (by assumption) ?_
theorem nextAlive_follows (h0 : Follows kp b0 s) (c : Nat) (m : QMsg) : FollowsSnd kp b0 (nextAlive s c m) := by
  unfold nextAlive
  with_reducible repeat' first
    | assumption
    | (extract_lets +onlyGivenNames x; refine cut_follows (kp := kp) (b := b0) (s := x) (fun _ => ?_) ?_; clear_value x; on_goal 2 => subst x)
    | (extract_lets +onlyGivenNames x; clear_value x) | (apply of_snd; assumption) | split | apply snd_mk
    | refine of_snd_eq (by assumption) ?_ | (fail_if_no_progress apply upd_follows)
theorem openWait_follows (h0 : Follows kp b0 s) (c : Nat) (m : QMsg) (alive : Nat) : Follows kp b0 (openWait s c m
    alive) := by
  unfold openWait
  with_reducible repeat' first
    | assumption
    | (extract_lets +onlyGivenNames x; refine cut_follows (kp := kp) (b := b0) (s := x) (fun _ => ?_) ?_; clear_value x; on_goal 2 => subst x)
    | (extract_lets +onlyGivenNames x; clear_value x) | split | (fail_if_no_progress apply upd_follows)
theorem tcmSendOne_follows (h0 : Follows kp b0 s) (c : Nat) : FollowsOptSnd kp b0 (tcmSendOne s c) := by
  unfold tcmSendOne
  with_reducible repeat' first
    | assumption
    | (extract_lets +onlyGivenNames x; refine cut_follows (kp := kp) (b := b0) (s := x) (fun _ => ?_) ?_; clear_value x; on_goal 2 => subst x)
    | (extract_lets +onlyGivenNames x; refine cut_snd (kp := kp) (b := b0) (p := x) (fun _ => ?_) ?_; clear_value x; on_goal 2 => subst x)
    | (extract_lets +onlyGivenNames x; clear_value x) | apply emit_follows | apply nextAlive_follows
    | (apply of_snd; apply nextAlive_follows) | apply openWait_follows | apply setTcmQueue_follows
    | (apply of_snd; assumption) | apply optSnd_some | apply optSnd_none | split | apply snd_mk
    | refine of_snd_eq (by assumption) ?_ | refine of_optSnd_eq (by assumption) ?_
theorem tcmFill_follows (h : Follows kp b s) (c n : Nat) (acc : List (List Byte)) : FollowsSnd kp b (tcmFill c n s acc) := by
  induction n generalizing s acc with
  | zero => exact h
  | succ n ih =>
    unfold tcmFill
    split
    · rename_i e; exact ih (of_optSnd_eq e (tcmSendOne_follows h _)) _
    · exact h

theorem tcmClear_follows (h0 : Follows kp b0 s) (c : Nat) : Follows kp b0 (tcmClear s c) := by
  unfold tcmClear
  with_reducible repeat' first
    | assumption | intro _
    | (extract_lets +onlyGivenNames x; refine cut_follows (kp := kp) (b := b0) (s := x) (fun _ => ?_) ?_; clear_value x; on_goal 2 => subst x)
    | (extract_lets +onlyGivenNames x; clear_value x) | apply setTcmQueue_follows
    | (fail_if_no_progress apply upd_follows)
theorem endWait_follows (h0 : Follows kp b0 s) (tid : Nat) : Follows kp b0 (endWait s tid) := by
  unfold endWait
  with_reducible repeat' first
    | assumption | (fail_if_no_progress apply upd_follows)
theorem tcmLate_follows (h : Follows kp b s) (c n : Nat) : FollowsOptSnd kp b (tcmLate s c n) := by
  intro p e
  obtain ⟨m, _, rfl⟩ := Option.map_eq_some_iff.1 e
  exact setTcmQueue_follows h _ _

theorem tcmForget_follows (h0 : Follows kp b0 s) (tid : Nat) : Follows kp b0 (tcmForget s tid) := by
  unfold tcmForget
  with_reducible repeat' first
    | assumption | intro _
    | (extract_lets +onlyGivenNames x; refine cut_follows (kp := kp) (b := b0) (s := x) (fun _ => ?_) ?_; clear_value x; on_goal 2 => subst x)
    | (extract_lets +onlyGivenNames x; clear_value x) | apply endWait_follows
    | (fail_if_no_progress apply upd_follows)
theorem aliveCheck_follows (h0 : Follows kp b0 s) (tid alive : Nat) : FollowsSnd kp b0 (aliveCheck s tid alive) := by
  unfold aliveCheck
  with_reducible repeat' first
    | assumption | intro _
    | (extract_lets +onlyGivenNames x; refine cut_follows (kp := kp) (b := b0) (s := x) (fun _ => ?_) ?_; clear_value x; on_goal 2 => subst x)
    | (extract_lets +onlyGivenNames x; refine cut_fun (kp := kp) (b := b0) (f := x) (fun _ => ?_) ?_; clear_value x; on_goal 2 => subst x)
    | (extract_lets +onlyGivenNames x; refine cut_fun2 (kp := kp) (b := b0) (f := x) (fun _ => ?_) ?_; clear_value x; on_goal 2 => subst x)
    | (extract_lets +onlyGivenNames x; refine cut_fun3 (kp := kp) (b := b0) (f := x) (fun _ => ?_) ?_; clear_value x; on_goal 2 => subst x)
    | (extract_lets +onlyGivenNames x; refine cut_fun4 (kp := kp) (b := b0) (f := x) (fun _ => ?_) ?_; clear_value x; on_goal 2 => subst x)
    | (extract_lets +onlyGivenNames x; refine cut_fun5 (kp := kp) (b := b0) (f := x) (fun _ => ?_) ?_; clear_value x; on_goal 2 => subst x)
    | (extract_lets +onlyGivenNames x; refine cut_fun6 (kp := kp) (b := b0) (f := x) (fun _ => ?_) ?_; clear_value x; on_goal 2 => subst x)
    | (extract_lets +onlyGivenNames x; clear_value x) | (apply of_snd; assumption) | split | apply snd_mk
    | refine of_snd_eq (by assumption) ?_ | apply_assumption | (apply of_fst; apply_assumption)
    | (apply of_snd; apply_assumption) | (fail_if_no_progress apply upd_follows)
theorem tcmResend_follows (h0 : Follows kp b0 s) (tid : Nat) (w : TcmWait) : Follows kp b0 (tcmResend s tid w) := by
  unfold tcmResend
  with_reducible repeat' first
    | assumption
    | (extract_lets +onlyGivenNames x; refine cut_follows (kp := kp) (b := b0) (s := x) (fun _ => ?_) ?_; clear_value x; on_goal 2 => subst x)
    | (extract_lets +onlyGivenNames x; clear_value x) | apply setTcmQueue_follows | split
    | (fail_if_no_progress apply upd_follows)
theorem hostTcmTx_follows (h0 : Follows kp b0 s) (who : Requester) (c : Nat) : Follows kp b0 (hostTcmTx s who c) := by
  unfold hostTcmTx
  with_reducible repeat' first
    | assumption | intro _
    | (extract_lets +onlyGivenNames x; refine cut_follows (kp := kp) (b := b0) (s := x) (fun _ => ?_) ?_; clear_value x; on_goal 2 => subst x)
    | (extract_lets +onlyGivenNames x; refine cut_opt (kp := kp) (b := b0) (o := x) (fun _ => ?_) ?_; clear_value x; on_goal 2 => subst x)
    | (extract_lets +onlyGivenNames x; refine cut_fun (kp := kp) (b := b0) (f := x) (fun _ => ?_) ?_; clear_value x; on_goal 2 => subst x)
    | (extract_lets +onlyGivenNames x; refine cut_fun2 (kp := kp) (b := b0) (f := x) (fun _ => ?_) ?_; clear_value x; on_goal 2 => subst x)
    | (extract_lets +onlyGivenNames x; refine cut_fun3 (kp := kp) (b := b0) (f := x) (fun _ => ?_) ?_; clear_value x; on_goal 2 => subst x)
    | (extract_lets +onlyGivenNames x; refine cut_fun4 (kp := kp) (b := b0) (f := x) (fun _ => ?_) ?_; clear_value x; on_goal 2 => subst x)
    | (extract_lets +onlyGivenNames x; refine cut_fun5 (kp := kp) (b := b0) (f := x) (fun _ => ?_) ?_; clear_value x; on_goal 2 => subst x)
    | (extract_lets +onlyGivenNames x; refine cut_fun6 (kp := kp) (b := b0) (f := x) (fun _ => ?_) ?_; clear_value x; on_goal 2 => subst x)
    | (extract_lets +onlyGivenNames x; clear_value x) | apply tcmPush_follows | apply wrNotOwner_follows
    | apply wrOk_follows | apply wrRefuse_follows | apply wrReq_follows | apply opt_some | apply opt_none
    | apply of_getD | split | refine of_opt_eq (by assumption) ?_ | apply_assumption
    | (apply of_fst; apply_assumption) | (apply of_snd; apply_assumption) | (fail_if_no_progress apply upd_follows)

end Sys2Proof.Machine
end

