-- ==== Sys2Proof/Laws/KeysKeeps.lean ====
section
/-! SUPPORT. What the functions of Machine/Keys.lean keep (Follows), one lemma each. -/
namespace Sys2Proof.Machine

set_option linter.all false
variable {kp : Keep} {b b0 s : State}

theorem setKeyFld_follows (h0 : Follows kp b0 s) (c k hi lo v : Nat) : Follows kp b0 (setKeyFld s c k hi lo v) := by
  unfold setKeyFld
  with_reducible repeat' first
    | assumption | apply wfW_follows
theorem ciphCount_follows (h0 : Follows kp b0 s) (c code n : Nat) : Follows kp b0 (ciphCount s c code n) := by
  unfold ciphCount
  with_reducible repeat' first
    | assumption | apply cnt64_follows
theorem keyEvent_follows (h0 : Follows kp b0 s) (c bit : Nat) : Follows kp b0 (keyEvent s c bit) := by
  unfold keyEvent
  with_reducible repeat' first
    | assumption | apply evBit_follows | split
theorem keyAttn_follows (h0 : Follows kp b0 s) (c k : Nat) : Follows kp b0 (keyAttn s c k) := by
  unfold keyAttn
  with_reducible repeat' first
    | assumption | apply wb_follows
theorem setChanKek_follows (h0 : Follows kp b0 s) (c tid : Nat) (k : List Byte) : Follows kp b0 (setChanKek s c tid
    k) := by
  unfold setChanKek
  with_reducible repeat' first
    | assumption | (fail_if_no_progress apply upd_follows)
theorem sendKek_follows (h0 : Follows kp b0 s) (c tid : Nat) : Follows kp b0 (sendKek s c tid) := by
  unfold sendKek
  with_reducible repeat' first
    | assumption | apply setChanKek_follows
theorem storeKek_follows (h0 : Follows kp b0 s) (tid : Nat) (k : List Byte) : Follows kp b0 (storeKek s tid k) := by
  unfold storeKek
  with_reducible repeat' first
    | assumption
    | (extract_lets +onlyGivenNames x; refine cut_follows (kp := kp) (b := b0) (s := x) (fun _ => ?_) ?_; clear_value x; on_goal 2 => subst x)
    | (extract_lets +onlyGivenNames x; clear_value x) | apply sendKek_follows
    | (fail_if_no_progress apply upd_follows)
theorem ctxDrop_follows (h0 : Follows kp b0 s) (p : KeyCtx → Bool) : Follows kp b0 (ctxDrop s p) := by
  unfold ctxDrop
  with_reducible repeat' first
    | assumption | intro _ | (fail_if_no_progress apply upd_follows)
theorem shadowTrim_follows (h0 : Follows kp b0 s) (c k : Nat) : Follows kp b0 (shadowTrim s c k) := by
  unfold shadowTrim
  with_reducible repeat' first
    | assumption | intro _
    | (extract_lets +onlyGivenNames x; refine cut_follows (kp := kp) (b := b0) (s := x) (fun _ => ?_) ?_; clear_value x; on_goal 2 => subst x)
    | (extract_lets +onlyGivenNames x; clear_value x) | apply setKeyFld_follows | split
    | (fail_if_no_progress apply upd_follows)
theorem latchRoll_follows (h0 : Follows kp b0 s) (c a : Nat) : Follows kp b0 (latchRoll s c a) := by
  unfold latchRoll
  with_reducible repeat' first
    | assumption | intro _
    | (extract_lets +onlyGivenNames x; refine cut_follows (kp := kp) (b := b0) (s := x) (fun _ => ?_) ?_; clear_value x; on_goal 2 => subst x)
    | (extract_lets +onlyGivenNames x; refine cut_fun (kp := kp) (b := b0) (f := x) (fun _ => ?_) ?_; clear_value x; on_goal 2 => subst x)
    | (extract_lets +onlyGivenNames x; refine cut_fun2 (kp := kp) (b := b0) (f := x) (fun _ => ?_) ?_; clear_value x; on_goal 2 => subst x)
    | (extract_lets +onlyGivenNames x; refine cut_fun3 (kp := kp) (b := b0) (f := x) (fun _ => ?_) ?_; clear_value x; on_goal 2 => subst x)
    | (extract_lets +onlyGivenNames x; refine cut_fun4 (kp := kp) (b := b0) (f := x) (fun _ => ?_) ?_; clear_value x; on_goal 2 => subst x)
    | (extract_lets +onlyGivenNames x; refine cut_fun5 (kp := kp) (b := b0) (f := x) (fun _ => ?_) ?_; clear_value x; on_goal 2 => subst x)
    | (extract_lets +onlyGivenNames x; refine cut_fun6 (kp := kp) (b := b0) (f := x) (fun _ => ?_) ?_; clear_value x; on_goal 2 => subst x)
    | (extract_lets +onlyGivenNames x; clear_value x) | apply shadowTrim_follows | apply foldl_follows | split
    | apply_assumption | (apply of_fst; apply_assumption) | (apply of_snd; apply_assumption)
    | (fail_if_no_progress apply upd_follows)
theorem ctxDiscard_follows (h0 : Follows kp b0 s) (c k stream : Nat) : Follows kp b0 (ctxDiscard s c k stream) := by
  unfold ctxDiscard
  with_reducible repeat' first
    | assumption | intro _ | apply ctxDrop_follows | apply shadowTrim_follows | split
theorem partialDrop_follows (h0 : Follows kp b0 s) (l : List KeyCtx) : Follows kp b0 (partialDrop s l) := by
  unfold partialDrop
  with_reducible repeat' first
    | assumption | intro _ | apply foldl_follows | (fail_if_no_progress apply upd_follows)
theorem prtKeySend_follows (h0 : Follows kp b0 s) (c k : Nat) : Follows kp b0 (prtKeySend s c k) := by
  unfold prtKeySend
  with_reducible repeat' first
    | assumption
    | (extract_lets +onlyGivenNames x; refine cut_follows (kp := kp) (b := b0) (s := x) (fun _ => ?_) ?_; clear_value x; on_goal 2 => subst x)
    | (extract_lets +onlyGivenNames x; clear_value x) | apply plkSend_follows | split
    | (fail_if_no_progress apply upd_follows)
theorem latchAbort_follows (h0 : Follows kp b0 s) (c k : Nat) : FollowsFst kp b0 (latchAbort s c k) := by
  unfold latchAbort
  with_reducible repeat' first
    | assumption | intro _
    | (extract_lets +onlyGivenNames x; refine cut_follows (kp := kp) (b := b0) (s := x) (fun _ => ?_) ?_; clear_value x; on_goal 2 => subst x)
    | (extract_lets +onlyGivenNames x; clear_value x) | apply nextFree_follows | apply foldl_follows
    | apply foldl_fst | (apply of_fst; assumption) | split | apply fst_mk | refine of_fst_eq (by assumption) ?_
    | (fail_if_no_progress apply upd_follows)
theorem keyErase_follows (h0 : Follows kp b0 s) (c k det : Nat) : Follows kp b0 (keyErase s c k det) := by
  unfold keyErase
  with_reducible repeat' first
    | assumption | intro _
    | (extract_lets +onlyGivenNames x; refine cut_follows (kp := kp) (b := b0) (s := x) (fun _ => ?_) ?_; clear_value x; on_goal 2 => subst x)
    | (extract_lets +onlyGivenNames x; refine cut_fst (kp := kp) (b := b0) (p := x) (fun _ => ?_) ?_; clear_value x; on_goal 2 => subst x)
    | (extract_lets +onlyGivenNames x; clear_value x) | apply ciphCount_follows | apply ctxDrop_follows
    | apply keyEvent_follows | apply latchAbort_follows | (apply of_fst; apply latchAbort_follows)
    | apply partialDrop_follows | apply prtKeySend_follows | apply setKeyFld_follows | apply unitAccept_follows
    | (apply of_fst; assumption) | split | apply fst_mk | refine of_fst_eq (by assumption) ?_
    | (fail_if_no_progress apply upd_follows)
theorem keyEraseTerm_follows (h0 : Follows kp b0 s) (c tid det : Nat) : Follows kp b0 (keyEraseTerm s c tid det) := by
  unfold keyEraseTerm
  with_reducible repeat' first
    | assumption | intro _
    | (extract_lets +onlyGivenNames x; refine cut_follows (kp := kp) (b := b0) (s := x) (fun _ => ?_) ?_; clear_value x; on_goal 2 => subst x)
    | (extract_lets +onlyGivenNames x; clear_value x) | apply keyErase_follows | apply setChanKek_follows
    | apply foldl_follows
theorem keyEraseChan_follows (h0 : Follows kp b0 s) (c det : Nat) : Follows kp b0 (keyEraseChan s c det) := by
  unfold keyEraseChan
  with_reducible repeat' first
    | assumption | intro _
    | (extract_lets +onlyGivenNames x; refine cut_follows (kp := kp) (b := b0) (s := x) (fun _ => ?_) ?_; clear_value x; on_goal 2 => subst x)
    | (extract_lets +onlyGivenNames x; clear_value x) | apply keyErase_follows | apply foldl_follows
    | (fail_if_no_progress apply upd_follows)
theorem keyEraseAll_follows (h0 : Follows kp b0 s) (det : Nat) : Follows kp b0 (keyEraseAll s det) := by
  unfold keyEraseAll
  with_reducible repeat' first
    | assumption | intro _ | apply keyEraseChan_follows | apply foldl_follows
theorem installKey_follows (h0 : Follows kp b0 s) (c k gen limit : Nat) (tag12 : Bool) (m : List Byte) : Follows kp
    b0 (installKey s c k gen limit tag12 m) := by
  unfold installKey
  with_reducible repeat' first
    | assumption
    | (extract_lets +onlyGivenNames x; refine cut_follows (kp := kp) (b := b0) (s := x) (fun _ => ?_) ?_; clear_value x; on_goal 2 => subst x)
    | (extract_lets +onlyGivenNames x; clear_value x) | apply ciphCount_follows | apply nextFree_follows
    | apply prtKeySend_follows | apply setKeyFld_follows | apply unitAccept_follows | split
    | (fail_if_no_progress apply upd_follows)
theorem keyInstallWrite_follows (h0 : Follows kp b0 s) (who : Requester) (c v : Nat) : Follows kp b0 (keyInstallWrite
    s who c v) := by
  unfold keyInstallWrite
  with_reducible repeat' first
    | assumption | intro _
    | (extract_lets +onlyGivenNames x; refine cut_follows (kp := kp) (b := b0) (s := x) (fun _ => ?_) ?_; clear_value x; on_goal 2 => subst x)
    | (extract_lets +onlyGivenNames x; refine cut_fun (kp := kp) (b := b0) (f := x) (fun _ => ?_) ?_; clear_value x; on_goal 2 => subst x)
    | (extract_lets +onlyGivenNames x; refine cut_fun2 (kp := kp) (b := b0) (f := x) (fun _ => ?_) ?_; clear_value x; on_goal 2 => subst x)
    | (extract_lets +onlyGivenNames x; refine cut_fun3 (kp := kp) (b := b0) (f := x) (fun _ => ?_) ?_; clear_value x; on_goal 2 => subst x)
    | (extract_lets +onlyGivenNames x; refine cut_fun4 (kp := kp) (b := b0) (f := x) (fun _ => ?_) ?_; clear_value x; on_goal 2 => subst x)
    | (extract_lets +onlyGivenNames x; refine cut_fun5 (kp := kp) (b := b0) (f := x) (fun _ => ?_) ?_; clear_value x; on_goal 2 => subst x)
    | (extract_lets +onlyGivenNames x; refine cut_fun6 (kp := kp) (b := b0) (f := x) (fun _ => ?_) ?_; clear_value x; on_goal 2 => subst x)
    | (extract_lets +onlyGivenNames x; clear_value x) | apply ciphCount_follows | apply cmdStale_follows
    | apply installKey_follows | apply noteWrite_follows | apply wrDown_follows | apply wrNotOwner_follows
    | apply wrOk_follows | apply wrRefuse_follows | apply wrReq_follows | split | apply_assumption
    | (apply of_fst; apply_assumption) | (apply of_snd; apply_assumption)
theorem keyRetire_follows (h0 : Follows kp b0 s) (c k : Nat) : Follows kp b0 (keyRetire s c k) := by
  unfold keyRetire
  with_reducible repeat' first
    | assumption
    | (extract_lets +onlyGivenNames x; refine cut_follows (kp := kp) (b := b0) (s := x) (fun _ => ?_) ?_; clear_value x; on_goal 2 => subst x)
    | (extract_lets +onlyGivenNames x; clear_value x) | apply unitAccept_follows
    | (fail_if_no_progress apply upd_follows)
theorem keyExhaust_follows (h0 : Follows kp b0 s) (c k : Nat) : Follows kp b0 (keyExhaust s c k) := by
  unfold keyExhaust
  with_reducible repeat' first
    | assumption
    | (extract_lets +onlyGivenNames x; refine cut_follows (kp := kp) (b := b0) (s := x) (fun _ => ?_) ?_; clear_value x; on_goal 2 => subst x)
    | (extract_lets +onlyGivenNames x; clear_value x) | apply dpChange_follows | apply keyAttn_follows
    | apply keyEvent_follows | apply prtKeySend_follows | split
theorem keyLimits_follows (h0 : Follows kp b0 s) (c k : Nat) : Follows kp b0 (keyLimits s c k) := by
  unfold keyLimits
  with_reducible repeat' first
    | assumption
    | (extract_lets +onlyGivenNames x; refine cut_follows (kp := kp) (b := b0) (s := x) (fun _ => ?_) ?_; clear_value x; on_goal 2 => subst x)
    | (extract_lets +onlyGivenNames x; clear_value x) | apply dpChange_follows | apply keyAttn_follows
    | apply keyEvent_follows | apply keyExhaust_follows | split
theorem keyActivate_follows (h0 : Follows kp b0 s) (c k : Nat) : Follows kp b0 (keyActivate s c k) := by
  unfold keyActivate
  with_reducible repeat' first
    | assumption
    | (extract_lets +onlyGivenNames x; refine cut_follows (kp := kp) (b := b0) (s := x) (fun _ => ?_) ?_; clear_value x; on_goal 2 => subst x)
    | (extract_lets +onlyGivenNames x; clear_value x) | apply keyRetire_follows | apply prtKeySend_follows
    | apply keyLimits_follows | apply unitAccept_follows | split
theorem keyStateWrite_follows (h0 : Follows kp b0 s) (c k v : Nat) : FollowsOpt kp b0 (keyStateWrite s c k v) := by
  unfold keyStateWrite
  with_reducible repeat' first
    | assumption | apply keyActivate_follows | apply keyErase_follows | apply opt_some | apply opt_none
    | apply of_getD | split | refine of_opt_eq (by assumption) ?_
theorem unitWriteR_follows (h0 : Follows kp b0 s) (who : Requester) (a f t expect : Nat) (act : State → Except
    WrStatus State) (hact : ∀ s, Follows kp b0 s → FollowsExc kp b0 (act s)) : Follows kp b0 (unitWriteR s who a f t
    expect act) := by
  unfold unitWriteR
  with_reducible repeat' first
    | assumption | apply hact | apply wrDown_follows | apply wrNotOwner_follows | apply wrOk_follows
    | apply wrRefuse_follows | apply wrStale_follows | apply exc_ok | apply exc_error | split
    | refine of_exc_eq (by assumption) ?_
theorem unitWrite_follows (h : Follows kp b s) (who : Requester) (a f t expect : Nat) (act : State → Option State)
    (hact : ∀ s, Follows kp b s → FollowsOpt kp b (act s)) : Follows kp b (unitWrite s who a f t expect act) := by
  unfold unitWrite
  apply unitWriteR_follows h
  intro s hs
  split
  · rename_i e; exact exc_ok (of_opt_eq e (hact s hs))
  · exact exc_error

theorem keySlotWrite_follows (h0 : Follows kp b0 s) (who : Requester) (c k expect v : Nat) : Follows kp b0
    (keySlotWrite s who c k expect v) := by
  unfold keySlotWrite
  with_reducible repeat' first
    | assumption | intro _ | apply keyStateWrite_follows | apply unitWrite_follows | apply opt_some | apply opt_none
    | apply of_getD | refine of_opt_eq (by assumption) ?_
theorem keySeal_follows (h0 : Follows kp b0 s) (c k stream : Nat) (data : List Byte) : FollowsSnd kp b0 (keySeal s c
    k stream data) := by
  unfold keySeal
  with_reducible repeat' first
    | assumption
    | (extract_lets +onlyGivenNames x; refine cut_follows (kp := kp) (b := b0) (s := x) (fun _ => ?_) ?_; clear_value x; on_goal 2 => subst x)
    | (extract_lets +onlyGivenNames x; clear_value x) | apply ciphCount_follows | apply keyLimits_follows
    | apply setKeyFld_follows | (apply of_snd; assumption) | split | apply snd_mk
    | refine of_snd_eq (by assumption) ?_
theorem usFail_follows (h0 : Follows kp b0 s) (c k : Nat) : Follows kp b0 (usFail s c k) := by
  unfold usFail
  with_reducible repeat' first
    | assumption
    | (extract_lets +onlyGivenNames x; refine cut_follows (kp := kp) (b := b0) (s := x) (fun _ => ?_) ?_; clear_value x; on_goal 2 => subst x)
    | (extract_lets +onlyGivenNames x; clear_value x) | apply ciphCount_follows | apply keyAttn_follows
    | apply keyEvent_follows | apply stat_follows | split | (fail_if_no_progress apply upd_follows)
theorem usFirstUse_follows (h0 : Follows kp b0 s) (c k : Nat) : Follows kp b0 (usFirstUse s c k) := by
  unfold usFirstUse
  with_reducible repeat' first
    | assumption
    | (extract_lets +onlyGivenNames x; refine cut_follows (kp := kp) (b := b0) (s := x) (fun _ => ?_) ?_; clear_value x; on_goal 2 => subst x)
    | (extract_lets +onlyGivenNames x; clear_value x) | apply dpChange_follows | split
    | (fail_if_no_progress apply upd_follows)
theorem usVerified_follows (h0 : Follows kp b0 s) (c k : Nat) : Follows kp b0 (usVerified s c k) := by
  unfold usVerified
  with_reducible repeat' first
    | assumption
    | (extract_lets +onlyGivenNames x; refine cut_follows (kp := kp) (b := b0) (s := x) (fun _ => ?_) ?_; clear_value x; on_goal 2 => subst x)
    | (extract_lets +onlyGivenNames x; clear_value x) | apply ciphCount_follows | apply keyLimits_follows
    | apply usFirstUse_follows | (fail_if_no_progress apply upd_follows)
theorem usCounter_follows (h0 : Follows kp b0 s) (c k n : Nat) (found : Bool) : FollowsFst kp b0 (usCounter s c k n
    found) := by
  unfold usCounter
  with_reducible repeat' first
    | assumption
    | (extract_lets +onlyGivenNames x; refine cut_follows (kp := kp) (b := b0) (s := x) (fun _ => ?_) ?_; clear_value x; on_goal 2 => subst x)
    | (extract_lets +onlyGivenNames x; clear_value x) | apply ciphCount_follows | apply keyExhaust_follows
    | apply keyLimits_follows | apply setKeyFld_follows | apply usFail_follows | (apply of_fst; assumption) | split
    | apply fst_mk | refine of_fst_eq (by assumption) ?_
theorem usNoKey_follows (h0 : Follows kp b0 s) (c : Nat) : FollowsFst kp b0 (usNoKey s c) := by
  unfold usNoKey
  with_reducible repeat' first
    | assumption | apply ciphCount_follows | (apply of_fst; assumption) | apply fst_mk
    | refine of_fst_eq (by assumption) ?_
theorem usCipher_follows (h : Follows kp b s) (c tid : Nat) (f : EncFrame) : FollowsFst kp b (usCipher s c tid f) := by
  unfold usCipher
  extract_lets k
  have hk : FollowsFst kp b (usNoKey s c) := usNoKey_follows h c
  split
  · split
    · exact h
    · exact hk
  · split
    · exact fst_mk (pmAdd_follows h _ _ _ _)
    · split
      · split
        · exact hk
        · split
          · rename_i e; exact fst_mk (usVerified_follows (of_fst_eq e (usCounter_follows h _ _ _ _)) _ _)
          · rename_i e; exact fst_mk (of_fst_eq e (usCounter_follows h _ _ _ _))
      · split
        · exact hk
        · split
          · exact fst_mk (keyEvent_follows (ciphCount_follows h _ _ _) _ _)
          · split
            · rename_i e; have h1 := of_fst_eq e (usCounter_follows h _ _ _ _)
              exact fst_mk (by apply upd_follows; exact h1)
            · rename_i e; exact fst_mk (of_fst_eq e (usCounter_follows h _ _ _ _))
      · split
        · exact fst_mk (by apply upd_follows; exact h)
        · exact h
      · split
        · rename_i x _
          have h1 := shadowTrim_follows (ctxDrop_follows h (fun y => y == x)) c x.slot
          extract_lets t
          split
          · exact fst_mk (usVerified_follows h1 _ _)
          · exact fst_mk (usFail_follows h1 _ _)
        · exact h

theorem ctxFragErr_follows (h0 : Follows kp b0 s) (c k : Nat) (p : KeyCtx → Bool) : Follows kp b0 (ctxFragErr s c k
    p) := by
  unfold ctxFragErr
  with_reducible repeat' first
    | assumption | intro _
    | (extract_lets +onlyGivenNames x; refine cut_follows (kp := kp) (b := b0) (s := x) (fun _ => ?_) ?_; clear_value x; on_goal 2 => subst x)
    | (extract_lets +onlyGivenNames x; clear_value x) | apply ctxDrop_follows | apply partialDrop_follows
    | apply pmAdd_follows
theorem keyRetireExpire_follows (h0 : Follows kp b0 s) (c k : Nat) : Follows kp b0 (keyRetireExpire s c k) := by
  unfold keyRetireExpire
  with_reducible repeat' first
    | assumption | intro _
    | (extract_lets +onlyGivenNames x; refine cut_follows (kp := kp) (b := b0) (s := x) (fun _ => ?_) ?_; clear_value x; on_goal 2 => subst x)
    | (extract_lets +onlyGivenNames x; clear_value x) | apply ctxFragErr_follows | apply keyErase_follows
    | apply shadowTrim_follows | split
theorem coreCheck_follows (h0 : Follows kp b0 s) (c core : Nat) (pass : Bool) : Follows kp b0 (coreCheck s c core
    pass) := by
  unfold coreCheck
  with_reducible repeat' first
    | assumption
    | (extract_lets +onlyGivenNames x; refine cut_follows (kp := kp) (b := b0) (s := x) (fun _ => ?_) ?_; clear_value x; on_goal 2 => subst x)
    | (extract_lets +onlyGivenNames x; clear_value x) | apply ciphCount_follows | apply keyEraseChan_follows
    | apply keyEvent_follows | split | (fail_if_no_progress apply upd_follows)
theorem drbgSeed_follows (h0 : Follows kp b0 s) : Follows kp b0 (drbgSeed s) := by
  unfold drbgSeed
  with_reducible repeat' first
    | assumption | (fail_if_no_progress apply upd_follows)
theorem drbgDraw_follows (h0 : Follows kp b0 s) (n : Nat) : FollowsSnd kp b0 (drbgDraw s n) := by
  unfold drbgDraw
  with_reducible repeat' first
    | assumption
    | (extract_lets +onlyGivenNames x; refine cut_follows (kp := kp) (b := b0) (s := x) (fun _ => ?_) ?_; clear_value x; on_goal 2 => subst x)
    | (extract_lets +onlyGivenNames x; clear_value x) | apply drbgSeed_follows | (apply of_snd; assumption) | split
    | apply snd_mk | refine of_snd_eq (by assumption) ?_ | (fail_if_no_progress apply upd_follows)
theorem drawKey_follows (h0 : Follows kp b0 s) : FollowsSnd kp b0 (drawKey s) := by
  unfold drawKey
  with_reducible repeat' first
    | assumption | apply drbgDraw_follows | (apply of_snd; apply drbgDraw_follows) | (apply of_snd; assumption)
    | apply snd_mk | refine of_snd_eq (by assumption) ?_
theorem fwInstall_follows (h0 : Follows kp b0 s) (tid dir idx : Nat) (tk : Ticket) : Follows kp b0 (fwInstall s tid
    dir idx tk) := by
  unfold fwInstall
  with_reducible repeat' first
    | assumption | intro _
    | (extract_lets +onlyGivenNames x; refine cut_follows (kp := kp) (b := b0) (s := x) (fun _ => ?_) ?_; clear_value x; on_goal 2 => subst x)
    | (extract_lets +onlyGivenNames x; refine cut_snd (kp := kp) (b := b0) (p := x) (fun _ => ?_) ?_; clear_value x; on_goal 2 => subst x)
    | (extract_lets +onlyGivenNames x; clear_value x) | apply drawKey_follows
    | (apply of_snd; apply drawKey_follows) | apply installKey_follows | apply tcmSend_follows | apply foldl_follows
    | apply foldl_snd | (apply of_snd; assumption) | split | apply snd_mk | refine of_snd_eq (by assumption) ?_
    | (fail_if_no_progress apply upd_follows)
theorem keyRotate_follows (h0 : Follows kp b0 s) (tid dir : Nat) (tk : Ticket) : Follows kp b0 (keyRotate s tid dir
    tk) := by
  unfold keyRotate
  with_reducible repeat' first
    | assumption | intro _
    | (extract_lets +onlyGivenNames x; refine cut_follows (kp := kp) (b := b0) (s := x) (fun _ => ?_) ?_; clear_value x; on_goal 2 => subst x)
    | (extract_lets +onlyGivenNames x; clear_value x) | apply emit_follows | apply fwInstall_follows | split
    | (fail_if_no_progress apply upd_follows)
theorem rotAck_follows (h0 : Follows kp b0 s) (tid dir : Nat) : Follows kp b0 (rotAck s tid dir) := by
  unfold rotAck
  with_reducible repeat' first
    | assumption
    | (extract_lets +onlyGivenNames x; refine cut_follows (kp := kp) (b := b0) (s := x) (fun _ => ?_) ?_; clear_value x; on_goal 2 => subst x)
    | (extract_lets +onlyGivenNames x; clear_value x) | apply keyActivate_follows | apply ticketPut_follows | split
    | (fail_if_no_progress apply upd_follows)
theorem rotFail_follows (h0 : Follows kp b0 s) (tid dir : Nat) : Follows kp b0 (rotFail s tid dir) := by
  unfold rotFail
  with_reducible repeat' first
    | assumption
    | (extract_lets +onlyGivenNames x; refine cut_follows (kp := kp) (b := b0) (s := x) (fun _ => ?_) ?_; clear_value x; on_goal 2 => subst x)
    | (extract_lets +onlyGivenNames x; clear_value x) | apply keyErase_follows | apply ticketPut_follows | split
    | (fail_if_no_progress apply upd_follows)
theorem keyReact_follows (h0 : Follows kp b0 s) (tid dir : Nat) : Follows kp b0 (keyReact s tid dir) := by
  unfold keyReact
  with_reducible repeat' first
    | assumption | apply keyRotate_follows | split
theorem keyPlace_follows (h0 : Follows kp b0 s) (c k : Nat) (m : KeyMove) (invoc : Nat) (resumed : Bool) : Follows kp
    b0 (keyPlace s c k m invoc resumed) := by
  unfold keyPlace
  with_reducible repeat' first
    | assumption
    | (extract_lets +onlyGivenNames x; refine cut_follows (kp := kp) (b := b0) (s := x) (fun _ => ?_) ?_; clear_value x; on_goal 2 => subst x)
    | (extract_lets +onlyGivenNames x; clear_value x) | apply keyLimits_follows | apply prtKeySend_follows
    | apply setKeyFld_follows | apply unitAccept_follows | split | (fail_if_no_progress apply upd_follows)
theorem keyResume_follows (h0 : Follows kp b0 s) (c k : Nat) (m : KeyMove) (mark age : Nat) : Follows kp b0
    (keyResume s c k m mark age) := by
  unfold keyResume
  with_reducible repeat' first
    | assumption
    | (extract_lets +onlyGivenNames x; refine cut_follows (kp := kp) (b := b0) (s := x) (fun _ => ?_) ?_; clear_value x; on_goal 2 => subst x)
    | (extract_lets +onlyGivenNames x; clear_value x) | apply ciphCount_follows | apply keyAttn_follows
    | apply keyEvent_follows | apply keyPlace_follows | apply keyReact_follows | apply putUnit_follows | split
theorem cmdKeyRotate_follows (h0 : Follows kp b0 s) (c : CmdCtx) (tid dir : Nat) : Follows kp b0 (cmdKeyRotate s c
    tid dir) := by
  unfold cmdKeyRotate
  with_reducible repeat' first
    | assumption | intro _
    | (extract_lets +onlyGivenNames x; refine cut_follows (kp := kp) (b := b0) (s := x) (fun _ => ?_) ?_; clear_value x; on_goal 2 => subst x)
    | (extract_lets +onlyGivenNames x; clear_value x) | apply cmdPut_follows | apply keyRotate_follows | split
theorem cmdKeyErase_follows (h0 : Follows kp b0 s) (c : CmdCtx) (tid dir : Nat) : FollowsFst kp b0 (cmdKeyErase s c
    tid dir) := by
  unfold cmdKeyErase
  with_reducible repeat' first
    | assumption | intro _
    | (extract_lets +onlyGivenNames x; refine cut_follows (kp := kp) (b := b0) (s := x) (fun _ => ?_) ?_; clear_value x; on_goal 2 => subst x)
    | (extract_lets +onlyGivenNames x; clear_value x) | apply keyErase_follows | apply foldl_follows
    | apply foldl_fst | (apply of_fst; assumption) | split | apply fst_mk | refine of_fst_eq (by assumption) ?_
theorem cmdKeyCfg_follows (h0 : Follows kp b0 s) (c : CmdCtx) (ch : Nat) (v : Word) : FollowsFst kp b0 (cmdKeyCfg s c
    ch v) := by
  unfold cmdKeyCfg
  with_reducible repeat' first
    | assumption
    | (extract_lets +onlyGivenNames x; refine cut_follows (kp := kp) (b := b0) (s := x) (fun _ => ?_) ?_; clear_value x; on_goal 2 => subst x)
    | (extract_lets +onlyGivenNames x; clear_value x) | apply showBypass_follows | apply wf_follows
    | (apply of_fst; assumption) | split | apply fst_mk | refine of_fst_eq (by assumption) ?_
theorem execKeyInstall_follows (s : State) (who : Requester) (c value : Nat) : ∃ t0, execKeyInstall who c value s =
    .next t0 ∧ Follows ⟨true, true, true⟩ s t0 := by
  refine ⟨_, rfl, ?_⟩
  have h0 := Follows.refl ⟨true, true, true⟩ s
  with_reducible repeat' first
    | assumption | exact rfl | apply keyInstallWrite_follows | apply wrDown_follows | split
theorem execKeySlotErase_follows (s : State) (who : Requester) (c k expect : Nat) : ∃ t0, execKeySlotErase who c k
    expect s = .next t0 ∧ Follows ⟨true, true, true⟩ s t0 := by
  refine ⟨_, rfl, ?_⟩
  have h0 := Follows.refl ⟨true, true, true⟩ s
  with_reducible repeat' first
    | assumption | exact rfl | apply keySlotWrite_follows
theorem execKeySlotActivate_follows (s : State) (who : Requester) (c k expect : Nat) : ∃ t0, execKeySlotActivate who
    c k expect s = .next t0 ∧ Follows ⟨true, true, true⟩ s t0 := by
  refine ⟨_, rfl, ?_⟩
  have h0 := Follows.refl ⟨true, true, true⟩ s
  with_reducible repeat' first
    | assumption | exact rfl | apply keySlotWrite_follows
theorem execKeyRetireExpire_follows (s : State) (c k : Nat) : ∃ t0, execKeyRetireExpire c k s = .next t0 ∧ Follows
    ⟨true, true, true⟩ s t0 := by
  refine ⟨_, rfl, ?_⟩
  have h0 := Follows.refl ⟨true, true, true⟩ s
  with_reducible repeat' first
    | assumption | exact rfl | apply keyRetireExpire_follows
theorem execCoreCheck_follows (s : State) (c core : Nat) (pass : Bool) : ∃ t0, execCoreCheck c core pass s = .next t0
    ∧ Follows ⟨true, true, true⟩ s t0 := by
  refine ⟨_, rfl, ?_⟩
  have h0 := Follows.refl ⟨true, true, true⟩ s
  with_reducible repeat' first
    | assumption | exact rfl | apply coreCheck_follows
theorem execKeyRotate_follows (s : State) (r tid dir : Nat) : ∃ t0, execKeyRotate r tid dir s = .next t0 ∧ Follows
    ⟨true, true, true⟩ s t0 := by
  refine ⟨_, rfl, ?_⟩
  have h0 := Follows.refl ⟨true, true, true⟩ s
  with_reducible repeat' first
    | assumption | exact rfl | intro _ | apply cmdKeyRotate_follows | apply runCmd_follows
theorem execKeyErase_follows (s : State) (r tid dir : Nat) : ∃ t0, execKeyErase r tid dir s = .next t0 ∧ Follows
    ⟨true, true, true⟩ s t0 := by
  refine ⟨_, rfl, ?_⟩
  have h0 := Follows.refl ⟨true, true, true⟩ s
  with_reducible repeat' first
    | assumption | exact rfl | intro _ | apply cmdKeyErase_follows | (apply of_fst; apply cmdKeyErase_follows)
    | apply runCmdNow_follows | (apply of_fst; assumption) | apply fst_mk | refine of_fst_eq (by assumption) ?_
theorem execKeyCfg_follows (s : State) (r ch : Nat) (value : Word) : ∃ t0, execKeyCfg r ch value s = .next t0 ∧
    Follows ⟨true, true, true⟩ s t0 := by
  refine ⟨_, rfl, ?_⟩
  have h0 := Follows.refl ⟨true, true, true⟩ s
  with_reducible repeat' first
    | assumption | exact rfl | intro _ | apply cmdKeyCfg_follows | (apply of_fst; apply cmdKeyCfg_follows)
    | apply runCmdNow_follows | (apply of_fst; assumption) | apply fst_mk | refine of_fst_eq (by assumption) ?_

end Sys2Proof.Machine
end

