-- ==== Sys2Proof/Laws/SchedKeeps.lean ====
section
/-! SUPPORT. What the functions of Machine/Sched.lean keep (Follows), one lemma each. -/
namespace Sys2Proof.Machine

set_option linter.all false
variable {kp : Keep} {b b0 s : State}

theorem setBucket_follows (h0 : Follows kp b0 s) (k : Nat) (b : Bucket) : Follows kp b0 (setBucket s k b) := by
  unfold setBucket
  with_reducible repeat' first
    | assumption | (fail_if_no_progress apply upd_follows)
theorem restartBuckets_follows (h0 : Follows kp b0 s) (k : Nat) (old new : NodeP) : Follows kp b0 (restartBuckets s k
    old new) := by
  unfold restartBuckets
  with_reducible repeat' first
    | assumption
    | (extract_lets +onlyGivenNames x; refine cut_follows (kp := kp) (b := b0) (s := x) (fun _ => ?_) ?_; clear_value x; on_goal 2 => subst x)
    | (extract_lets +onlyGivenNames x; clear_value x) | apply nextFree_follows | apply setBucket_follows | split
theorem chargeNode_follows (h0 : Follows kp b0 s) (k : Nat) (p : NodeP) (now len : Nat) (committed : Bool) : Follows
    kp b0 (chargeNode s k p now len committed) := by
  unfold chargeNode
  with_reducible repeat' first
    | assumption
    | (extract_lets +onlyGivenNames x; refine cut_follows (kp := kp) (b := b0) (s := x) (fun _ => ?_) ?_; clear_value x; on_goal 2 => subst x)
    | (extract_lets +onlyGivenNames x; clear_value x) | apply setBucket_follows | split
    | (fail_if_no_progress apply upd_follows)
theorem dsQueueWrite_follows (hktabs : kp.tabs = false) (h0 : Follows kp b0 s) (qid v : Nat) : FollowsFst kp b0
    (dsQueueWrite s qid v) := by
  unfold dsQueueWrite
  with_reducible repeat' first
    | assumption
    | (extract_lets +onlyGivenNames x; refine cut_follows (kp := kp) (b := b0) (s := x) (fun _ => ?_) ?_; clear_value x; on_goal 2 => subst x)
    | (extract_lets +onlyGivenNames x; clear_value x) | apply qFlush_follows | apply restartBuckets_follows
    | apply wrT_follows | (apply of_fst; assumption) | split | apply fst_mk | refine of_fst_eq (by assumption) ?_
theorem dsTermWrite_follows (hktabs : kp.tabs = false) (h0 : Follows kp b0 s) (tid v : Nat) : FollowsFst kp b0
    (dsTermWrite s tid v) := by
  unfold dsTermWrite
  with_reducible repeat' first
    | assumption
    | (extract_lets +onlyGivenNames x; refine cut_follows (kp := kp) (b := b0) (s := x) (fun _ => ?_) ?_; clear_value x; on_goal 2 => subst x)
    | (extract_lets +onlyGivenNames x; clear_value x) | apply restartBuckets_follows | apply termFlush_follows
    | apply wrT_follows | (apply of_fst; assumption) | split | apply fst_mk | refine of_fst_eq (by assumption) ?_
theorem dsPartWrite_follows (h0 : Follows kp b0 s) (c p v : Nat) : FollowsOpt kp b0 (dsPartWrite s c p v) := by
  unfold dsPartWrite
  with_reducible repeat' first
    | assumption
    | (extract_lets +onlyGivenNames x; refine cut_follows (kp := kp) (b := b0) (s := x) (fun _ => ?_) ?_; clear_value x; on_goal 2 => subst x)
    | (extract_lets +onlyGivenNames x; clear_value x) | apply restartBuckets_follows | apply wrW_follows
    | apply opt_some | apply opt_none | apply of_getD | split | refine of_opt_eq (by assumption) ?_
theorem tmplWrite_follows (hktabs : kp.tabs = false) (h0 : Follows kp b0 s) (body : List Byte) (tid i gen : Nat) :
    FollowsFst kp b0 (tmplWrite s body tid i gen) := by
  unfold tmplWrite
  with_reducible repeat' first
    | assumption | intro _
    | (extract_lets +onlyGivenNames x; refine cut_follows (kp := kp) (b := b0) (s := x) (fun _ => ?_) ?_; clear_value x; on_goal 2 => subst x)
    | (extract_lets +onlyGivenNames x; refine cut_fst (kp := kp) (b := b0) (p := x) (fun _ => ?_) ?_; clear_value x; on_goal 2 => subst x)
    | (extract_lets +onlyGivenNames x; clear_value x) | apply dsQueueWrite_follows
    | (apply of_fst; apply dsQueueWrite_follows) | apply dsTermWrite_follows
    | (apply of_fst; apply dsTermWrite_follows) | apply foldl_follows | apply foldl_fst | (apply of_fst; assumption)
    | split | apply fst_mk | refine of_fst_eq (by assumption) ?_
theorem tmplOnRanging_follows (hktabs : kp.tabs = false) (h0 : Follows kp b0 s) (tid : Nat) : Follows kp b0
    (tmplOnRanging s tid) := by
  unfold tmplOnRanging
  with_reducible repeat' first
    | assumption | apply nextFree_follows | apply tmplWrite_follows | (apply of_fst; apply tmplWrite_follows)
    | (apply of_fst; assumption) | split | apply fst_mk | refine of_fst_eq (by assumption) ?_
theorem qRefuse_follows (h0 : Follows kp b0 s) (k code : Nat) (cl : Clause) : Follows kp b0 (qRefuse s k code cl) :=
    by
  unfold qRefuse
  with_reducible repeat' first
    | assumption
    | (extract_lets +onlyGivenNames x; refine cut_follows (kp := kp) (b := b0) (s := x) (fun _ => ?_) ?_; clear_value x; on_goal 2 => subst x)
    | (extract_lets +onlyGivenNames x; clear_value x) | apply pc_follows | apply qCount_follows | apply stat_follows
    | apply traceDrop_follows | split
theorem qTake_follows (h0 : Follows kp b0 s) (k : Nat) (cl : Clause) (f : Frame) : Follows kp b0 (qTake s k cl f) :=
    by
  unfold qTake
  with_reducible repeat' first
    | assumption
    | (extract_lets +onlyGivenNames x; refine cut_follows (kp := kp) (b := b0) (s := x) (fun _ => ?_) ?_; clear_value x; on_goal 2 => subst x)
    | (extract_lets +onlyGivenNames x; clear_value x) | apply pc_follows | apply qPush_follows | apply trace_follows
    | split
theorem enqueue_follows (h0 : Follows kp b0 s) (f : Frame) (ks : List Nat) (busySites : Nat) : Follows kp b0 (enqueue
    s f ks busySites) := by
  unfold enqueue
  with_reducible repeat' first
    | assumption | intro _
    | (extract_lets +onlyGivenNames x; refine cut_follows (kp := kp) (b := b0) (s := x) (fun _ => ?_) ?_; clear_value x; on_goal 2 => subst x)
    | (extract_lets +onlyGivenNames x; refine cut_snd (kp := kp) (b := b0) (p := x) (fun _ => ?_) ?_; clear_value x; on_goal 2 => subst x)
    | (extract_lets +onlyGivenNames x; refine cut_fun (kp := kp) (b := b0) (f := x) (fun _ => ?_) ?_; clear_value x; on_goal 2 => subst x)
    | (extract_lets +onlyGivenNames x; refine cut_fun2 (kp := kp) (b := b0) (f := x) (fun _ => ?_) ?_; clear_value x; on_goal 2 => subst x)
    | (extract_lets +onlyGivenNames x; refine cut_fun3 (kp := kp) (b := b0) (f := x) (fun _ => ?_) ?_; clear_value x; on_goal 2 => subst x)
    | (extract_lets +onlyGivenNames x; refine cut_fun4 (kp := kp) (b := b0) (f := x) (fun _ => ?_) ?_; clear_value x; on_goal 2 => subst x)
    | (extract_lets +onlyGivenNames x; refine cut_fun5 (kp := kp) (b := b0) (f := x) (fun _ => ?_) ?_; clear_value x; on_goal 2 => subst x)
    | (extract_lets +onlyGivenNames x; refine cut_fun6 (kp := kp) (b := b0) (f := x) (fun _ => ?_) ?_; clear_value x; on_goal 2 => subst x)
    | (extract_lets +onlyGivenNames x; clear_value x) | apply fitNames_follows
    | (apply of_snd; apply fitNames_follows) | apply pc_follows | apply placeFrame_follows
    | (apply of_snd; apply placeFrame_follows) | apply qRefuse_follows | apply qTake_follows | apply stat_follows
    | apply traceDrop_follows | apply foldl_follows | apply foldl_snd | (apply of_snd; assumption) | split
    | apply snd_mk | refine of_snd_eq (by assumption) ?_ | apply_assumption | (apply of_fst; apply_assumption)
    | (apply of_snd; apply_assumption) | (fail_if_no_progress apply upd_follows)
theorem putLine_follows (h0 : Follows kp b0 s) (c : Nat) (b : List Byte) : Follows kp b0 (putLine s c b) := by
  unfold putLine
  with_reducible repeat' first
    | assumption | (fail_if_no_progress apply upd_follows)
theorem lineIdle_follows (h0 : Follows kp b0 s) (c start : Nat) : Follows kp b0 (lineIdle s c start) := by
  unfold lineIdle
  with_reducible repeat' first
    | assumption
    | (extract_lets +onlyGivenNames x; refine cut_follows (kp := kp) (b := b0) (s := x) (fun _ => ?_) ?_; clear_value x; on_goal 2 => subst x)
    | (extract_lets +onlyGivenNames x; clear_value x) | apply cnt64_follows | apply putLine_follows | split
    | (fail_if_no_progress apply upd_follows)
theorem advanceLine_follows (h0 : Follows kp b0 s) (c stop : Nat) : Follows kp b0 (advanceLine s c stop) := by
  unfold advanceLine
  with_reducible repeat' first
    | assumption | (fail_if_no_progress apply upd_follows)
theorem chargePath_follows (h0 : Follows kp b0 s) (now len : Nat) (path : List Pick) : Follows kp b0 (chargePath s
    now len path) := by
  unfold chargePath
  with_reducible repeat' first
    | assumption | intro _
    | (extract_lets +onlyGivenNames x; refine cut_follows (kp := kp) (b := b0) (s := x) (fun _ => ?_) ?_; clear_value x; on_goal 2 => subst x)
    | (extract_lets +onlyGivenNames x; clear_value x) | apply chargeNode_follows | apply foldl_follows
    | (fail_if_no_progress apply upd_follows)
theorem qDropHead_follows (h0 : Follows kp b0 s) (k code : Nat) : Follows kp b0 (qDropHead s k code) := by
  unfold qDropHead
  with_reducible repeat' first
    | assumption
    | (extract_lets +onlyGivenNames x; refine cut_follows (kp := kp) (b := b0) (s := x) (fun _ => ?_) ?_; clear_value x; on_goal 2 => subst x)
    | (extract_lets +onlyGivenNames x; clear_value x) | apply qCount_follows | apply qFree_follows
    | apply qPop_follows | apply traceDrop_follows | split
theorem qClean_follows (h : Follows kp b s) (k n : Nat) : Follows kp b (qClean k n s) := by
  induction n generalizing s with
  | zero => exact h
  | succ n ih =>
    unfold qClean
    with_reducible repeat' first
      | assumption | apply ih | apply gclEvent_follows | apply qDropHead_follows | apply qFree_follows | apply lostFlight_follows | apply qPop_follows | split

theorem qCleanAll_follows (h0 : Follows kp b0 s) (ks : List Nat) : Follows kp b0 (qCleanAll s ks) := by
  unfold qCleanAll
  with_reducible repeat' first
    | assumption | intro _ | apply qClean_follows | apply foldl_follows
theorem frameOut_follows (h0 : Follows kp b0 s) (c : Nat) (o : Sent) : Follows kp b0 (frameOut s c o) := by
  unfold frameOut
  with_reducible repeat' first
    | assumption
    | (extract_lets +onlyGivenNames x; refine cut_follows (kp := kp) (b := b0) (s := x) (fun _ => ?_) ?_; clear_value x; on_goal 2 => subst x)
    | (extract_lets +onlyGivenNames x; clear_value x) | apply emit_follows | apply putLine_follows | split
theorem sendEnc_follows (h0 : Follows kp b0 s) (c tid : Nat) (hdr payload : List Byte) : Follows kp b0 (sendEnc s c
    tid hdr payload) := by
  unfold sendEnc
  with_reducible repeat' first
    | assumption | intro _
    | (extract_lets +onlyGivenNames x; refine cut_follows (kp := kp) (b := b0) (s := x) (fun _ => ?_) ?_; clear_value x; on_goal 2 => subst x)
    | (extract_lets +onlyGivenNames x; refine cut_snd (kp := kp) (b := b0) (p := x) (fun _ => ?_) ?_; clear_value x; on_goal 2 => subst x)
    | (extract_lets +onlyGivenNames x; clear_value x) | apply fiPass_follows | (apply of_snd; apply fiPass_follows)
    | apply frameOut_follows | apply foldl_follows | apply foldl_snd | (apply of_snd; assumption) | split
    | apply snd_mk | refine of_snd_eq (by assumption) ?_
theorem sendC50_follows (h0 : Follows kp b0 s) (c q : Nat) (f : QFrame) (start : Nat) : Follows kp b0 (sendC50 s c q
    f start) := by
  unfold sendC50
  with_reducible repeat' first
    | assumption
    | (extract_lets +onlyGivenNames x; refine cut_follows (kp := kp) (b := b0) (s := x) (fun _ => ?_) ?_; clear_value x; on_goal 2 => subst x)
    | (extract_lets +onlyGivenNames x; clear_value x) | apply ciphCount_follows | apply sendEnc_follows | split
theorem sendFrame_follows (h : Follows kp b s) (c q : Nat) (f : QFrame) (pl : Place) : Follows kp b (sendFrame s c q f pl) := by
  unfold sendFrame
  extract_lets +onlyGivenNames tid
  split
  · exact h
  · extract_lets stream t12 idx gen
    split
    rename_i k _ _ ct tag s1 e
    have h1 : Follows kp b s1 := of_snd_eq e (keySeal_follows h _ _ _ _)
    clear e
    have tail : ∀ s segs, Follows kp b s → Follows kp b
        (let s := { s with keys := { s.keys with latched := s.keys.latched ++ [⟨c, k, gen, segs⟩] } }
         if keyEff s c k = ksActive then s else keyReact s tid 0) := by
      intro s segs hs
      extract_lets src s3
      have h3 : Follows kp b s3 := by unfold s3; with_reducible apply upd_follows; exact hs
      clear_value s3
      split
      · exact h3
      · exact keyReact_follows h3 _ _
    cases pl.cut with
    | none => exact tail _ _ (sendEnc_follows h1 _ _ _ _)
    | some n => exact tail _ _ (sendEnc_follows (putLine_follows (sendEnc_follows h1 _ _ _ _) _ _) _ _ _ _)

theorem countSent_follows (h0 : Follows kp b0 s) (c q : Nat) (f : QFrame) (charged : Nat) : Follows kp b0 (countSent
    s c q f charged) := by
  unfold countSent
  with_reducible repeat' first
    | assumption
    | (extract_lets +onlyGivenNames x; refine cut_follows (kp := kp) (b := b0) (s := x) (fun _ => ?_) ?_; clear_value x; on_goal 2 => subst x)
    | (extract_lets +onlyGivenNames x; clear_value x) | apply cnt64_follows | apply stat_follows
theorem markFits_follows (h0 : Follows kp b0 s) (qs : List Nat) (fits : Nat → QFrame → Bool) : Follows kp b0
    (markFits s qs fits) := by
  unfold markFits
  with_reducible repeat' first
    | assumption | intro _
    | (extract_lets +onlyGivenNames x; refine cut_follows (kp := kp) (b := b0) (s := x) (fun _ => ?_) ?_; clear_value x; on_goal 2 => subst x)
    | (extract_lets +onlyGivenNames x; refine cut_fun (kp := kp) (b := b0) (f := x) (fun _ => ?_) ?_; clear_value x; on_goal 2 => subst x)
    | (extract_lets +onlyGivenNames x; refine cut_fun2 (kp := kp) (b := b0) (f := x) (fun _ => ?_) ?_; clear_value x; on_goal 2 => subst x)
    | (extract_lets +onlyGivenNames x; refine cut_fun3 (kp := kp) (b := b0) (f := x) (fun _ => ?_) ?_; clear_value x; on_goal 2 => subst x)
    | (extract_lets +onlyGivenNames x; refine cut_fun4 (kp := kp) (b := b0) (f := x) (fun _ => ?_) ?_; clear_value x; on_goal 2 => subst x)
    | (extract_lets +onlyGivenNames x; refine cut_fun5 (kp := kp) (b := b0) (f := x) (fun _ => ?_) ?_; clear_value x; on_goal 2 => subst x)
    | (extract_lets +onlyGivenNames x; refine cut_fun6 (kp := kp) (b := b0) (f := x) (fun _ => ?_) ?_; clear_value x; on_goal 2 => subst x)
    | (extract_lets +onlyGivenNames x; clear_value x) | split | apply_assumption | (apply of_fst; apply_assumption)
    | (apply of_snd; apply_assumption) | (fail_if_no_progress apply upd_follows)
theorem schedSelect_follows (h0 : Follows kp b0 s) (c lineAt : Nat) : Follows kp b0 (schedSelect s c lineAt) := by
  unfold schedSelect
  with_reducible repeat' first
    | assumption | intro _
    | (extract_lets +onlyGivenNames x; refine cut_follows (kp := kp) (b := b0) (s := x) (fun _ => ?_) ?_; clear_value x; on_goal 2 => subst x)
    | (extract_lets +onlyGivenNames x; refine cut_fun (kp := kp) (b := b0) (f := x) (fun _ => ?_) ?_; clear_value x; on_goal 2 => subst x)
    | (extract_lets +onlyGivenNames x; refine cut_fun2 (kp := kp) (b := b0) (f := x) (fun _ => ?_) ?_; clear_value x; on_goal 2 => subst x)
    | (extract_lets +onlyGivenNames x; refine cut_fun3 (kp := kp) (b := b0) (f := x) (fun _ => ?_) ?_; clear_value x; on_goal 2 => subst x)
    | (extract_lets +onlyGivenNames x; refine cut_fun4 (kp := kp) (b := b0) (f := x) (fun _ => ?_) ?_; clear_value x; on_goal 2 => subst x)
    | (extract_lets +onlyGivenNames x; refine cut_fun5 (kp := kp) (b := b0) (f := x) (fun _ => ?_) ?_; clear_value x; on_goal 2 => subst x)
    | (extract_lets +onlyGivenNames x; refine cut_fun6 (kp := kp) (b := b0) (f := x) (fun _ => ?_) ?_; clear_value x; on_goal 2 => subst x)
    | (extract_lets +onlyGivenNames x; clear_value x) | apply advanceLine_follows | apply chargePath_follows
    | apply countSent_follows | apply lineIdle_follows | apply markFits_follows | apply qCleanAll_follows
    | apply qFree_follows | apply qPop_follows | apply sendC50_follows | apply sendFrame_follows
    | apply trace_follows | split | apply_assumption | (apply of_fst; apply_assumption)
    | (apply of_snd; apply_assumption)
theorem setWait_follows (h0 : Follows kp b0 s) (q w : Nat) : Follows kp b0 (setWait s q w) := by
  unfold setWait
  with_reducible repeat' first
    | assumption | (fail_if_no_progress apply upd_follows)
theorem windowEnd_follows (h0 : Follows kp b0 s) (x g : Nat) : Follows kp b0 (windowEnd s x g) := by
  unfold windowEnd
  with_reducible repeat' first
    | assumption | intro _
    | (extract_lets +onlyGivenNames x; refine cut_follows (kp := kp) (b := b0) (s := x) (fun _ => ?_) ?_; clear_value x; on_goal 2 => subst x)
    | (extract_lets +onlyGivenNames x; clear_value x) | apply gclEvent_follows | apply qDropHead_follows
    | apply setWait_follows | apply foldl_follows | split
theorem windowOpen_follows (h0 : Follows kp b0 s) (x g : Nat) : Follows kp b0 (windowOpen s x g) := by
  unfold windowOpen
  with_reducible repeat' first
    | assumption | intro _ | apply setWait_follows | apply foldl_follows
theorem gatesTake_follows (h0 : Follows kp b0 s) (x gates : Nat) : Follows kp b0 (gatesTake s x gates) := by
  unfold gatesTake
  with_reducible repeat' first
    | assumption | intro _
    | (extract_lets +onlyGivenNames x; refine cut_follows (kp := kp) (b := b0) (s := x) (fun _ => ?_) ?_; clear_value x; on_goal 2 => subst x)
    | (extract_lets +onlyGivenNames x; clear_value x) | apply wf_follows | apply windowEnd_follows
    | apply windowOpen_follows | apply foldl_follows | split
theorem gateEntryChange_follows (h0 : Follows kp b0 s) (x : Nat) : Follows kp b0 (gateEntryChange s x) := by
  unfold gateEntryChange
  with_reducible repeat' first
    | assumption
    | (extract_lets +onlyGivenNames x; refine cut_follows (kp := kp) (b := b0) (s := x) (fun _ => ?_) ?_; clear_value x; on_goal 2 => subst x)
    | (extract_lets +onlyGivenNames x; clear_value x) | apply gatesTake_follows | apply wf_follows | split
theorem gclStartTake_follows (h0 : Follows kp b0 s) (x : Nat) : Follows kp b0 (gclStartTake s x) := by
  unfold gclStartTake
  with_reducible repeat' first
    | assumption
    | (extract_lets +onlyGivenNames x; refine cut_follows (kp := kp) (b := b0) (s := x) (fun _ => ?_) ?_; clear_value x; on_goal 2 => subst x)
    | (extract_lets +onlyGivenNames x; clear_value x) | apply gatesTake_follows | apply gclStart_follows
    | apply wf_follows
theorem gclWriter_follows (h0 : Follows kp b0 s) (who : Requester) (x : Nat) (ok : State → State) (hok : ∀ s, Follows
    kp b0 s → Follows kp b0 (ok s)) : Follows kp b0 (gclWriter s who x ok) := by
  unfold gclWriter
  with_reducible repeat' first
    | assumption
    | (extract_lets +onlyGivenNames x; refine cut_follows (kp := kp) (b := b0) (s := x) (fun _ => ?_) ?_; clear_value x; on_goal 2 => subst x)
    | (extract_lets +onlyGivenNames x; clear_value x) | apply hok | apply wrDown_follows | apply wrNotOwner_follows
    | apply wrRefuse_follows | split
theorem gclInstallWrite_follows (h0 : Follows kp b0 s) (who : Requester) (x : Nat) : Follows kp b0 (gclInstallWrite s
    who x) := by
  unfold gclInstallWrite
  with_reducible repeat' first
    | assumption | intro _ | apply gclInstall_follows | apply gclWriter_follows | apply wrOk_follows
    | apply wrRefuse_follows | apply opt_some | apply opt_none | apply of_getD | split
    | refine of_opt_eq (by assumption) ?_
theorem gclDisableWrite_follows (h0 : Follows kp b0 s) (who : Requester) (x : Nat) : Follows kp b0 (gclDisableWrite s
    who x) := by
  unfold gclDisableWrite
  with_reducible repeat' first
    | assumption | intro _
    | (extract_lets +onlyGivenNames x; refine cut_follows (kp := kp) (b := b0) (s := x) (fun _ => ?_) ?_; clear_value x; on_goal 2 => subst x)
    | (extract_lets +onlyGivenNames x; clear_value x) | apply gatesTake_follows | apply gclDisable_follows
    | apply gclWriter_follows | apply wb_follows | apply wf_follows | apply wrOk_follows
theorem cmdQueueSet_follows (hktabs : kp.tabs = false) (h0 : Follows kp b0 s) (c : CmdCtx) : FollowsFst kp b0
    (cmdQueueSet s c) := by
  unfold cmdQueueSet
  with_reducible repeat' first
    | assumption | intro _
    | (extract_lets +onlyGivenNames x; refine cut_follows (kp := kp) (b := b0) (s := x) (fun _ => ?_) ?_; clear_value x; on_goal 2 => subst x)
    | (extract_lets +onlyGivenNames x; refine cut_fst (kp := kp) (b := b0) (p := x) (fun _ => ?_) ?_; clear_value x; on_goal 2 => subst x)
    | (extract_lets +onlyGivenNames x; clear_value x) | apply dsQueueWrite_follows
    | (apply of_fst; apply dsQueueWrite_follows) | apply runItems_follows | (apply of_fst; apply runItems_follows)
    | (apply of_fst; assumption) | split | apply fst_mk | refine of_fst_eq (by assumption) ?_
theorem cmdTermNodeSet_follows (hktabs : kp.tabs = false) (h0 : Follows kp b0 s) (c : CmdCtx) : FollowsFst kp b0
    (cmdTermNodeSet s c) := by
  unfold cmdTermNodeSet
  with_reducible repeat' first
    | assumption | intro _
    | (extract_lets +onlyGivenNames x; refine cut_follows (kp := kp) (b := b0) (s := x) (fun _ => ?_) ?_; clear_value x; on_goal 2 => subst x)
    | (extract_lets +onlyGivenNames x; refine cut_fst (kp := kp) (b := b0) (p := x) (fun _ => ?_) ?_; clear_value x; on_goal 2 => subst x)
    | (extract_lets +onlyGivenNames x; clear_value x) | apply dsTermWrite_follows
    | (apply of_fst; apply dsTermWrite_follows) | apply runItems_follows | (apply of_fst; apply runItems_follows)
    | (apply of_fst; assumption) | split | apply fst_mk | refine of_fst_eq (by assumption) ?_
theorem cmdTmplApply_follows (hktabs : kp.tabs = false) (h0 : Follows kp b0 s) (c : CmdCtx) (items : List (Nat ×
    Nat)) : FollowsFst kp b0 (cmdTmplApply s c items) := by
  unfold cmdTmplApply
  with_reducible repeat' first
    | assumption | intro _
    | (extract_lets +onlyGivenNames x; refine cut_follows (kp := kp) (b := b0) (s := x) (fun _ => ?_) ?_; clear_value x; on_goal 2 => subst x)
    | (extract_lets +onlyGivenNames x; refine cut_fst (kp := kp) (b := b0) (p := x) (fun _ => ?_) ?_; clear_value x; on_goal 2 => subst x)
    | (extract_lets +onlyGivenNames x; clear_value x) | apply runItems_follows
    | (apply of_fst; apply runItems_follows) | apply tmplWrite_follows | (apply of_fst; apply tmplWrite_follows)
    | (apply of_fst; assumption) | split | apply fst_mk | refine of_fst_eq (by assumption) ?_
theorem execSchedulerSelect_follows (s : State) (c lineAt : Nat) : ∃ t0, execSchedulerSelect c lineAt s = .next t0 ∧
    Follows ⟨true, true, true⟩ s t0 := by
  refine ⟨_, rfl, ?_⟩
  have h0 := Follows.refl ⟨true, true, true⟩ s
  with_reducible repeat' first
    | assumption | exact rfl | intro _ | apply dataUp_follows | apply schedSelect_follows
theorem execGateEntryChange_follows (s : State) (x : Nat) : ∃ t0, execGateEntryChange x s = .next t0 ∧ Follows ⟨true,
    true, true⟩ s t0 := by
  refine ⟨_, rfl, ?_⟩
  have h0 := Follows.refl ⟨true, true, true⟩ s
  with_reducible repeat' first
    | assumption | exact rfl | apply gateEntryChange_follows
theorem execGclInstall_follows (s : State) (who : Requester) (x : Nat) : ∃ t0, execGclInstall who x s = .next t0 ∧
    Follows ⟨true, true, true⟩ s t0 := by
  refine ⟨_, rfl, ?_⟩
  have h0 := Follows.refl ⟨true, true, true⟩ s
  with_reducible repeat' first
    | assumption | exact rfl | apply gclInstallWrite_follows
theorem execGclDisable_follows (s : State) (who : Requester) (x : Nat) : ∃ t0, execGclDisable who x s = .next t0 ∧
    Follows ⟨true, true, true⟩ s t0 := by
  refine ⟨_, rfl, ?_⟩
  have h0 := Follows.refl ⟨true, true, true⟩ s
  with_reducible repeat' first
    | assumption | exact rfl | apply gclDisableWrite_follows
theorem execGclStart_follows (s : State) (x : Nat) : ∃ t0, execGclStart x s = .next t0 ∧ Follows ⟨true, true, true⟩ s
    t0 := by
  refine ⟨_, rfl, ?_⟩
  have h0 := Follows.refl ⟨true, true, true⟩ s
  with_reducible repeat' first
    | assumption | exact rfl | apply gclStartTake_follows
theorem execQueueSet_follows (s : State) (r : Nat) : ∃ t0, execQueueSet r s = .next t0 ∧ Follows ⟨true, true, false⟩
    s t0 := by
  refine ⟨_, rfl, ?_⟩
  have h0 := Follows.refl ⟨true, true, false⟩ s
  with_reducible repeat' first
    | assumption | exact rfl | intro _ | apply cmdQueueSet_follows | (apply of_fst; apply cmdQueueSet_follows)
    | apply runCmdNow_follows | (apply of_fst; assumption) | apply fst_mk | refine of_fst_eq (by assumption) ?_
theorem execTermNodeSet_follows (s : State) (r : Nat) : ∃ t0, execTermNodeSet r s = .next t0 ∧ Follows ⟨true, true,
    false⟩ s t0 := by
  refine ⟨_, rfl, ?_⟩
  have h0 := Follows.refl ⟨true, true, false⟩ s
  with_reducible repeat' first
    | assumption | exact rfl | intro _ | apply cmdTermNodeSet_follows | (apply of_fst; apply cmdTermNodeSet_follows)
    | apply runCmdNow_follows | (apply of_fst; assumption) | apply fst_mk | refine of_fst_eq (by assumption) ?_
theorem execTmplApply_follows (s : State) (r : Nat) (items : List (Nat × Nat)) : ∃ t0, execTmplApply r items s =
    .next t0 ∧ Follows ⟨true, true, false⟩ s t0 := by
  refine ⟨_, rfl, ?_⟩
  have h0 := Follows.refl ⟨true, true, false⟩ s
  with_reducible repeat' first
    | assumption | exact rfl | intro _ | apply cmdTmplApply_follows | (apply of_fst; apply cmdTmplApply_follows)
    | apply runCmdNow_follows | (apply of_fst; assumption) | apply fst_mk | refine of_fst_eq (by assumption) ?_
theorem execDeepHeadFetchDone_follows (s : State) (k : Nat) : ∃ t0, execDeepHeadFetchDone k s = .next t0 ∧ Follows
    ⟨true, true, true⟩ s t0 := by
  refine ⟨_, rfl, ?_⟩
  have h0 := Follows.refl ⟨true, true, true⟩ s
  with_reducible repeat' first
    | assumption | exact rfl | intro _ | apply dataUp_follows | split | (fail_if_no_progress apply upd_follows)

end Sys2Proof.Machine
end

