-- ==== Sys2Proof/Laws/GrantsKeeps.lean ====
section
/-! SUPPORT. What the functions of Machine/Grants.lean keep (Follows), one lemma each. -/
namespace Sys2Proof.Machine

set_option linter.all false
variable {kp : Keep} {b b0 s : State}

theorem setDyn_follows (h0 : Follows kp b0 s) (aid : Nat) (d : AllocDyn) : Follows kp b0 (setDyn s aid d) := by
  unfold setDyn
  with_reducible repeat' first
    | assumption | (fail_if_no_progress apply upd_follows)
theorem geAllocWrite_follows (hktabs : kp.tabs = false) (h0 : Follows kp b0 s) (aid v : Nat) : FollowsFst kp b0
    (geAllocWrite s aid v) := by
  unfold geAllocWrite
  with_reducible repeat' first
    | assumption
    | (extract_lets +onlyGivenNames x; refine cut_follows (kp := kp) (b := b0) (s := x) (fun _ => ?_) ?_; clear_value x; on_goal 2 => subst x)
    | (extract_lets +onlyGivenNames x; clear_value x) | apply emit_follows | apply setDyn_follows
    | apply wrT_follows | (apply of_fst; assumption) | split | apply fst_mk | refine of_fst_eq (by assumption) ?_
theorem cmdAllocSet_follows (hktabs : kp.tabs = false) (h0 : Follows kp b0 s) (c : CmdCtx) : FollowsFst kp b0
    (cmdAllocSet s c) := by
  unfold cmdAllocSet
  with_reducible repeat' first
    | assumption | intro _
    | (extract_lets +onlyGivenNames x; refine cut_follows (kp := kp) (b := b0) (s := x) (fun _ => ?_) ?_; clear_value x; on_goal 2 => subst x)
    | (extract_lets +onlyGivenNames x; refine cut_fst (kp := kp) (b := b0) (p := x) (fun _ => ?_) ?_; clear_value x; on_goal 2 => subst x)
    | (extract_lets +onlyGivenNames x; clear_value x) | apply geAllocWrite_follows
    | (apply of_fst; apply geAllocWrite_follows) | apply runItems_follows | (apply of_fst; apply runItems_follows)
    | (apply of_fst; assumption) | split | apply fst_mk | refine of_fst_eq (by assumption) ?_
theorem geCount_follows (h0 : Follows kp b0 s) (c code n : Nat) : Follows kp b0 (geCount s c code n) := by
  unfold geCount
  with_reducible repeat' first
    | assumption | apply cnt64_follows
theorem geEvent_follows (h0 : Follows kp b0 s) (c bit : Nat) : Follows kp b0 (geEvent s c bit) := by
  unfold geEvent
  with_reducible repeat' first
    | assumption | apply evBit_follows
theorem takeReport_follows (h0 : Follows kp b0 s) (aid j backlog : Nat) : Follows kp b0 (takeReport s aid j backlog)
    := by
  unfold takeReport
  with_reducible repeat' first
    | assumption | intro _
    | (extract_lets +onlyGivenNames x; refine cut_follows (kp := kp) (b := b0) (s := x) (fun _ => ?_) ?_; clear_value x; on_goal 2 => subst x)
    | (extract_lets +onlyGivenNames x; clear_value x) | apply setDyn_follows | split
    | (fail_if_no_progress apply upd_follows)
theorem takeReports_follows (h : Follows kp b s) (c tid j : Nat) (l : List Nat) : Follows kp b (takeReports s c tid j l) := by
  induction l generalizing s with
  | nil => exact h
  | cons w l ih =>
    unfold takeReports
    apply ih
    with_reducible repeat' first
      | assumption | apply geEvent_follows | apply geCount_follows | apply takeReport_follows | split

theorem takeMonitor_follows (h0 : Follows kp b0 s) (aid j : Nat) : Follows kp b0 (takeMonitor s aid j) := by
  unfold takeMonitor
  with_reducible repeat' first
    | assumption | intro _
    | (extract_lets +onlyGivenNames x; refine cut_follows (kp := kp) (b := b0) (s := x) (fun _ => ?_) ?_; clear_value x; on_goal 2 => subst x)
    | (extract_lets +onlyGivenNames x; clear_value x) | apply setDyn_follows | split
    | (fail_if_no_progress apply upd_follows)
theorem setBooks_follows (h0 : Follows kp b0 s) (c : Nat) (l : List Booking) : Follows kp b0 (setBooks s c l) := by
  unfold setBooks
  with_reducible repeat' first
    | assumption | (fail_if_no_progress apply upd_follows)
theorem book_follows (h0 : Follows kp b0 s) (c : Nat) (b : Booking) : FollowsFst kp b0 (book s c b) := by
  unfold book
  with_reducible repeat' first
    | assumption
    | (extract_lets +onlyGivenNames x; refine cut_follows (kp := kp) (b := b0) (s := x) (fun _ => ?_) ?_; clear_value x; on_goal 2 => subst x)
    | (extract_lets +onlyGivenNames x; clear_value x) | apply setBooks_follows | (apply of_fst; assumption) | split
    | apply fst_mk | refine of_fst_eq (by assumption) ?_
theorem sysReq_follows (h0 : Follows kp b0 s) (who : Requester) (c v : Nat) : Follows kp b0 (sysReq s who c v) := by
  unfold sysReq
  with_reducible repeat' first
    | assumption
    | (extract_lets +onlyGivenNames x; refine cut_follows (kp := kp) (b := b0) (s := x) (fun _ => ?_) ?_; clear_value x; on_goal 2 => subst x)
    | (extract_lets +onlyGivenNames x; refine cut_fst (kp := kp) (b := b0) (p := x) (fun _ => ?_) ?_; clear_value x; on_goal 2 => subst x)
    | (extract_lets +onlyGivenNames x; clear_value x) | apply book_follows | (apply of_fst; apply book_follows)
    | apply geCount_follows | apply wrDown_follows | apply wrNotOwner_follows | apply wrOk_follows
    | apply wrRefuse_follows | apply wrReq_follows | (apply of_fst; assumption) | split | apply fst_mk
    | refine of_fst_eq (by assumption) ?_
theorem bookFw_follows (h0 : Follows kp b0 s) (c m kind len : Nat) (tcm : Bool) (id : Nat) (more : List Span := []) :
    FollowsOpt kp b0 (bookFw s c m kind len tcm id more) := by
  unfold bookFw
  with_reducible repeat' first
    | assumption
    | (extract_lets +onlyGivenNames x; refine cut_follows (kp := kp) (b := b0) (s := x) (fun _ => ?_) ?_; clear_value x; on_goal 2 => subst x)
    | (extract_lets +onlyGivenNames x; refine cut_fst (kp := kp) (b := b0) (p := x) (fun _ => ?_) ?_; clear_value x; on_goal 2 => subst x)
    | (extract_lets +onlyGivenNames x; clear_value x) | apply book_follows | (apply of_fst; apply book_follows)
    | (apply of_fst; assumption) | apply opt_some | apply opt_none | apply of_getD | split | apply fst_mk
    | refine of_fst_eq (by assumption) ?_ | refine of_opt_eq (by assumption) ?_
theorem ringWrIdx_follows (h0 : Follows kp b0 s) (who : Requester) (c v : Nat) : Follows kp b0 (ringWrIdx s who c v)
    := by
  unfold ringWrIdx
  with_reducible repeat' first
    | assumption
    | (extract_lets +onlyGivenNames x; refine cut_follows (kp := kp) (b := b0) (s := x) (fun _ => ?_) ?_; clear_value x; on_goal 2 => subst x)
    | (extract_lets +onlyGivenNames x; clear_value x) | apply wf_follows | apply wrDown_follows
    | apply wrNotOwner_follows | apply wrOk_follows | apply wrRefuse_follows | split
theorem execAllocSet_follows (s : State) (r : Nat) : ∃ t0, execAllocSet r s = .next t0 ∧ Follows ⟨true, true, false⟩
    s t0 := by
  refine ⟨_, rfl, ?_⟩
  have h0 := Follows.refl ⟨true, true, false⟩ s
  with_reducible repeat' first
    | assumption | exact rfl | intro _ | apply cmdAllocSet_follows | (apply of_fst; apply cmdAllocSet_follows)
    | apply runCmdNow_follows | (apply of_fst; assumption) | apply fst_mk | refine of_fst_eq (by assumption) ?_
theorem execChnGeSysreq_follows (s : State) (who : Requester) (c value : Nat) : ∃ t0, execChnGeSysreq who c value s =
    .next t0 ∧ Follows ⟨true, true, true⟩ s t0 := by
  refine ⟨_, rfl, ?_⟩
  have h0 := Follows.refl ⟨true, true, true⟩ s
  with_reducible repeat' first
    | assumption | exact rfl | apply sysReq_follows
theorem execGeRingWrIdx_follows (s : State) (who : Requester) (c value : Nat) : ∃ t0, execGeRingWrIdx who c value s =
    .next t0 ∧ Follows ⟨true, true, true⟩ s t0 := by
  refine ⟨_, rfl, ?_⟩
  have h0 := Follows.refl ⟨true, true, true⟩ s
  with_reducible repeat' first
    | assumption | exact rfl | apply ringWrIdx_follows

end Sys2Proof.Machine
end

