-- ==== Sys2Proof/Laws/TablesKeeps.lean ====
section
/-! SUPPORT. What the functions of Machine/Tables.lean keep (Follows), one lemma each. -/
namespace Sys2Proof.Machine

set_option linter.all false
variable {kp : Keep} {b b0 s : State}

theorem tblPut_follows (hktabs : kp.tabs = false) (h0 : Follows kp b0 s) (code idx v : Nat) : Follows kp b0 (tblPut s
    code idx v) := by
  unfold tblPut
  with_reducible repeat' first
    | assumption
    | (extract_lets +onlyGivenNames x; refine cut_follows (kp := kp) (b := b0) (s := x) (fun _ => ?_) ?_; clear_value x; on_goal 2 => subst x)
    | (extract_lets +onlyGivenNames x; clear_value x) | apply pc_follows | apply wrT_follows | split
    | (fail_if_no_progress apply upd_follows)
theorem showPlane_follows (h0 : Follows kp b0 s) (p : Nat) : Follows kp b0 (showPlane s p) := by
  unfold showPlane
  with_reducible repeat' first
    | assumption | intro _
    | (extract_lets +onlyGivenNames x; refine cut_follows (kp := kp) (b := b0) (s := x) (fun _ => ?_) ?_; clear_value x; on_goal 2 => subst x)
    | (extract_lets +onlyGivenNames x; clear_value x) | apply wf_follows | apply foldl_follows | split
theorem showPlanes_follows (h0 : Follows kp b0 s) (code : Nat) : Follows kp b0 (showPlanes s code) := by
  unfold showPlanes
  with_reducible repeat' first
    | assumption | intro _ | apply showPlane_follows | apply foldl_follows | split
theorem spacePut_follows (hktabs : kp.tabs = false) (h0 : Follows kp b0 s) (role pos v : Nat) : Follows kp b0
    (spacePut s role pos v) := by
  unfold spacePut
  with_reducible repeat' first
    | assumption | apply tblPut_follows | split
theorem setTindex_follows (h0 : Follows kp b0 s) (who : Requester) (i : Nat) : Follows kp b0 (setTindex s who i) := by
  unfold setTindex
  with_reducible repeat' first
    | assumption | apply wrReq_follows
theorem relocStep_follows (hktabs : kp.tabs = false) (h0 : Follows kp b0 s) : Follows kp b0 (relocStep s) := by
  unfold relocStep
  with_reducible repeat' first
    | assumption | intro _
    | (extract_lets +onlyGivenNames x; refine cut_follows (kp := kp) (b := b0) (s := x) (fun _ => ?_) ?_; clear_value x; on_goal 2 => subst x)
    | (extract_lets +onlyGivenNames x; refine cut_fun (kp := kp) (b := b0) (f := x) (fun _ => ?_) ?_; clear_value x; on_goal 2 => subst x)
    | (extract_lets +onlyGivenNames x; refine cut_fun2 (kp := kp) (b := b0) (f := x) (fun _ => ?_) ?_; clear_value x; on_goal 2 => subst x)
    | (extract_lets +onlyGivenNames x; refine cut_fun3 (kp := kp) (b := b0) (f := x) (fun _ => ?_) ?_; clear_value x; on_goal 2 => subst x)
    | (extract_lets +onlyGivenNames x; refine cut_fun4 (kp := kp) (b := b0) (f := x) (fun _ => ?_) ?_; clear_value x; on_goal 2 => subst x)
    | (extract_lets +onlyGivenNames x; refine cut_fun5 (kp := kp) (b := b0) (f := x) (fun _ => ?_) ?_; clear_value x; on_goal 2 => subst x)
    | (extract_lets +onlyGivenNames x; refine cut_fun6 (kp := kp) (b := b0) (f := x) (fun _ => ?_) ?_; clear_value x; on_goal 2 => subst x)
    | (extract_lets +onlyGivenNames x; clear_value x) | apply setTindex_follows | apply showPlane_follows
    | apply spacePut_follows | apply tblPut_follows | apply wrReq_follows | apply foldl_follows | split
    | apply_assumption | (apply of_fst; apply_assumption) | (apply of_snd; apply_assumption)
    | (fail_if_no_progress apply upd_follows)
theorem relocSteps_follows (hk : kp.tabs = false) (h : Follows kp b s) (n : Nat) : Follows kp b (relocSteps n s) := by
  induction n generalizing s with
  | zero => exact h
  | succ n ih => exact ih (relocStep_follows hk h)

theorem relocEnd_follows (hktabs : kp.tabs = false) (h0 : Follows kp b0 s) : Follows kp b0 (relocEnd s) := by
  unfold relocEnd
  with_reducible repeat' first
    | assumption | apply relocSteps_follows
theorem relocSome_follows (hktabs : kp.tabs = false) (h0 : Follows kp b0 s) : Follows kp b0 (relocSome s) := by
  unfold relocSome
  with_reducible repeat' first
    | assumption | apply nextFree_follows | apply relocSteps_follows | split
theorem sidRestart_follows (h0 : Follows kp b0 s) (sid old new : Nat) : Follows kp b0 (sidRestart s sid old new) := by
  unfold sidRestart
  with_reducible repeat' first
    | assumption
    | (extract_lets +onlyGivenNames x; refine cut_follows (kp := kp) (b := b0) (s := x) (fun _ => ?_) ?_; clear_value x; on_goal 2 => subst x)
    | (extract_lets +onlyGivenNames x; clear_value x) | apply nextFree_follows | split
    | (fail_if_no_progress apply upd_follows)
theorem tblStore_follows (hktabs : kp.tabs = false) (h0 : Follows kp b0 s) (code idx v : Nat) : FollowsFst kp b0
    (tblStore s code idx v) := by
  unfold tblStore
  with_reducible repeat' first
    | assumption
    | (extract_lets +onlyGivenNames x; refine cut_follows (kp := kp) (b := b0) (s := x) (fun _ => ?_) ?_; clear_value x; on_goal 2 => subst x)
    | (extract_lets +onlyGivenNames x; refine cut_fst (kp := kp) (b := b0) (p := x) (fun _ => ?_) ?_; clear_value x; on_goal 2 => subst x)
    | (extract_lets +onlyGivenNames x; clear_value x) | apply dsQueueWrite_follows
    | (apply of_fst; apply dsQueueWrite_follows) | apply dsTermWrite_follows
    | (apply of_fst; apply dsTermWrite_follows) | apply geAllocWrite_follows
    | (apply of_fst; apply geAllocWrite_follows) | apply showPlanes_follows | apply sidRestart_follows
    | apply tblPut_follows | (apply of_fst; assumption) | split | apply fst_mk | refine of_fst_eq (by assumption) ?_
theorem tblWrite_follows (hktabs : kp.tabs = false) (h0 : Follows kp b0 s) (who : Requester) (code idx v : Nat) :
    FollowsFst kp b0 (tblWrite s who code idx v) := by
  unfold tblWrite
  with_reducible repeat' first
    | assumption | apply tblStore_follows | (apply of_fst; apply tblStore_follows) | (apply of_fst; assumption)
    | split | apply fst_mk | refine of_fst_eq (by assumption) ?_
theorem badAccess_follows (h0 : Follows kp b0 s) (who : Requester) : Follows kp b0 (badAccess s who) := by
  unfold badAccess
  with_reducible repeat' first
    | assumption
    | (extract_lets +onlyGivenNames x; refine cut_follows (kp := kp) (b := b0) (s := x) (fun _ => ?_) ?_; clear_value x; on_goal 2 => subst x)
    | (extract_lets +onlyGivenNames x; clear_value x) | apply satF_follows | split
theorem tblRefuse_follows (h0 : Follows kp b0 s) (who : Requester) (st : Status) : Follows kp b0 (tblRefuse s who st)
    := by
  unfold tblRefuse
  with_reducible repeat' first
    | assumption
    | (extract_lets +onlyGivenNames x; refine cut_follows (kp := kp) (b := b0) (s := x) (fun _ => ?_) ?_; clear_value x; on_goal 2 => subst x)
    | (extract_lets +onlyGivenNames x; clear_value x) | apply wrReq_follows
theorem tblUnstage_follows (h0 : Follows kp b0 s) (who : Requester) : Follows kp b0 (tblUnstage s who) := by
  unfold tblUnstage
  with_reducible repeat' first
    | assumption | intro _ | (fail_if_no_progress apply upd_follows)
theorem fwdCount_follows (h0 : Follows kp b0 s) (code n : Nat) : Follows kp b0 (fwdCount s code n) := by
  unfold fwdCount
  with_reducible repeat' first
    | assumption | apply cnt64_follows
theorem fwdEvent_follows (h0 : Follows kp b0 s) (bit : Nat) : Follows kp b0 (fwdEvent s bit) := by
  unfold fwdEvent
  with_reducible repeat' first
    | assumption | apply evBit_follows
theorem tblNote_follows (h0 : Follows kp b0 s) (who : Requester) (st : WrStatus) : Follows kp b0 (tblNote s who st)
    := by
  unfold tblNote
  with_reducible repeat' first
    | assumption | apply nextFree_follows | apply noteWriteAt_follows
theorem tblWordR_follows (hk : kp.tabs = false) (h : Follows kp b s) (who : Requester) (code idx k : Nat) (w : Word) :
    FollowsFst kp b (tblWordR s who code idx k w) := by
  unfold tblWordR
  split
  · exact fst_mk (badAccess_follows h _)
  · split
    · exact fst_mk (badAccess_follows h _)
    · extract_lets +onlyGivenNames a cur x
      have hx : Follows kp b x := by
        unfold x; split
        · exact tblUnstage_follows (fwdCount_follows h _ _) _
        · exact h
      clear_value x
      split
      · exact fst_mk (by apply upd_follows; exact hx)
      · extract_lets +onlyGivenNames staged word v v2 t
        have ht : Follows kp b t := tblUnstage_follows hx who
        clear_value t v2
        split
        · extract_lets src u
          have hu : Follows kp b u := by unfold u; with_reducible apply upd_follows; exact ht
          clear_value u
          exact fst_mk (tblNote_follows (tblRefuse_follows hu _ _) _ _)
        · have hw : Follows kp b (if 8 ≤ code ∧ code < 12 then relocEnd t else t) := by
            split
            · exact relocEnd_follows hk ht
            · exact ht
          split
          · rename_i e; exact fst_mk (tblNote_follows (of_fst_eq e (tblWrite_follows hk hw _ _ _ _)) _ _)
          · rename_i e
            exact fst_mk (tblNote_follows (tblRefuse_follows (of_fst_eq e (tblWrite_follows hk hw _ _ _ _)) _ _) _ _)

theorem tblWord_follows (hktabs : kp.tabs = false) (h0 : Follows kp b0 s) (who : Requester) (code idx k : Nat) (w :
    Word) : Follows kp b0 (tblWord s who code idx k w) := by
  unfold tblWord
  with_reducible repeat' first
    | assumption | apply tblWordR_follows | (apply of_fst; apply tblWordR_follows) | (apply of_fst; assumption)
    | apply fst_mk | refine of_fst_eq (by assumption) ?_
theorem tblwWrite_follows (hktabs : kp.tabs = false) (h0 : Follows kp b0 s) (who : Requester) (ofs : Nat) (w : Word)
    : Follows kp b0 (tblwWrite s who ofs w) := by
  unfold tblwWrite
  with_reducible repeat' first
    | assumption
    | (extract_lets +onlyGivenNames x; refine cut_follows (kp := kp) (b := b0) (s := x) (fun _ => ?_) ?_; clear_value x; on_goal 2 => subst x)
    | (extract_lets +onlyGivenNames x; clear_value x) | apply badAccess_follows | apply tblWord_follows | split
theorem setTdata_follows (h0 : Follows kp b0 s) (who : Requester) (st v : Nat) : Follows kp b0 (setTdata s who st v)
    := by
  unfold setTdata
  with_reducible repeat' first
    | assumption | intro _ | apply wrReq_follows | apply foldl_follows
theorem tblInsert_follows (hk : kp.tabs = false) (h : Follows kp b s) (who : Requester) (w : Word) (code st v : Nat) :
    FollowsFst kp b (tblInsert s who w code st v) := by
  unfold tblInsert
  extract_lets +onlyGivenNames store
  have hs : ∀ i, FollowsFst kp b (store s i) := by
    intro i; unfold store
    split
    · rename_i e; exact fst_mk (of_fst_eq e (tblWrite_follows hk h _ _ _ _))
    · rename_i e; exact fst_mk (of_fst_eq e (tblWrite_follows hk h _ _ _ _))
  have hf : FollowsFst kp b (fwdEvent s 1, TcRes.full, 0) := fst_mk (fwdEvent_follows h _)
  clear_value store
  split
  · exact h
  · split
    · extract_lets ways
      split
      · exact hs _
      · exact hf
    · extract_lets +onlyGivenNames p role
      split
      · extract_lets +onlyGivenNames l
        split
        · exact h
        · split
          · exact hf
          · split
            · exact h
            · split
              · exact h
              · split
                · exact h
                · split
                  · exact h
                  · extract_lets v2
                    split
                    · exact fst_mk (foldl_follows (tblPut_follows hk h _ _ _) fun s x hs => showPlane_follows hs _)
                    · refine fst_mk ?_
                      with_reducible apply upd_follows; exact h
      · extract_lets l f
        split
        · exact hf
        · exact hs _

theorem tcmdGo_follows (hktabs : kp.tabs = false) (h0 : Follows kp b0 s) (who : Requester) (op : Nat) (w : Word) :
    Follows kp b0 (tcmdGo s who op w) := by
  unfold tcmdGo
  with_reducible repeat' first
    | assumption | intro _
    | (extract_lets +onlyGivenNames x; refine cut_follows (kp := kp) (b := b0) (s := x) (fun _ => ?_) ?_; clear_value x; on_goal 2 => subst x)
    | (extract_lets +onlyGivenNames x; refine cut_fst (kp := kp) (b := b0) (p := x) (fun _ => ?_) ?_; clear_value x; on_goal 2 => subst x)
    | (extract_lets +onlyGivenNames x; refine cut_fun (kp := kp) (b := b0) (f := x) (fun _ => ?_) ?_; clear_value x; on_goal 2 => subst x)
    | (extract_lets +onlyGivenNames x; refine cut_fun2 (kp := kp) (b := b0) (f := x) (fun _ => ?_) ?_; clear_value x; on_goal 2 => subst x)
    | (extract_lets +onlyGivenNames x; refine cut_fun3 (kp := kp) (b := b0) (f := x) (fun _ => ?_) ?_; clear_value x; on_goal 2 => subst x)
    | (extract_lets +onlyGivenNames x; refine cut_fun4 (kp := kp) (b := b0) (f := x) (fun _ => ?_) ?_; clear_value x; on_goal 2 => subst x)
    | (extract_lets +onlyGivenNames x; refine cut_fun5 (kp := kp) (b := b0) (f := x) (fun _ => ?_) ?_; clear_value x; on_goal 2 => subst x)
    | (extract_lets +onlyGivenNames x; refine cut_fun6 (kp := kp) (b := b0) (f := x) (fun _ => ?_) ?_; clear_value x; on_goal 2 => subst x)
    | (extract_lets +onlyGivenNames x; clear_value x) | apply setTdata_follows | apply setTindex_follows
    | apply showPlanes_follows | apply tblInsert_follows | (apply of_fst; apply tblInsert_follows)
    | apply tblPut_follows | apply tblWrite_follows | (apply of_fst; apply tblWrite_follows) | apply wrReq_follows
    | (apply of_fst; assumption) | split | apply fst_mk | refine of_fst_eq (by assumption) ?_ | apply_assumption
    | (apply of_fst; apply_assumption) | (apply of_snd; apply_assumption)
theorem tcmdRun_follows (hktabs : kp.tabs = false) (h0 : Follows kp b0 s) (who : Requester) (op : Nat) (w : Word) :
    Follows kp b0 (tcmdRun s who op w) := by
  unfold tcmdRun
  with_reducible repeat' first
    | assumption | intro _
    | (extract_lets +onlyGivenNames x; refine cut_follows (kp := kp) (b := b0) (s := x) (fun _ => ?_) ?_; clear_value x; on_goal 2 => subst x)
    | (extract_lets +onlyGivenNames x; clear_value x) | apply relocEnd_follows | apply relocSome_follows
    | apply tcmdGo_follows | apply wrDown_follows | apply wrOk_follows | split
theorem lockExpired_follows (hktabs : kp.tabs = false) (h0 : Follows kp b0 s) (code idx : Nat) : Follows kp b0
    (lockExpired s code idx) := by
  unfold lockExpired
  with_reducible repeat' first
    | assumption
    | (extract_lets +onlyGivenNames x; refine cut_follows (kp := kp) (b := b0) (s := x) (fun _ => ?_) ?_; clear_value x; on_goal 2 => subst x)
    | (extract_lets +onlyGivenNames x; clear_value x) | apply fwdCount_follows | apply fwdEvent_follows
    | apply relocEnd_follows | apply tblPut_follows | split
theorem cmdRuleSet_follows (hktabs : kp.tabs = false) (h0 : Follows kp b0 s) (c : CmdCtx) : FollowsFst kp b0
    (cmdRuleSet s c) := by
  unfold cmdRuleSet
  with_reducible repeat' first
    | assumption | intro _
    | (extract_lets +onlyGivenNames x; refine cut_follows (kp := kp) (b := b0) (s := x) (fun _ => ?_) ?_; clear_value x; on_goal 2 => subst x)
    | (extract_lets +onlyGivenNames x; refine cut_fst (kp := kp) (b := b0) (p := x) (fun _ => ?_) ?_; clear_value x; on_goal 2 => subst x)
    | (extract_lets +onlyGivenNames x; clear_value x) | apply runItems_follows
    | (apply of_fst; apply runItems_follows) | apply tblWrite_follows | (apply of_fst; apply tblWrite_follows)
    | (apply of_fst; assumption) | split | apply fst_mk | refine of_fst_eq (by assumption) ?_
theorem execTblwWrite_follows (s : State) (who : Requester) (ofs : Nat) (value : Word) : ∃ t0, execTblwWrite who ofs
    value s = .next t0 ∧ Follows ⟨true, true, false⟩ s t0 := by
  refine ⟨_, rfl, ?_⟩
  have h0 := Follows.refl ⟨true, true, false⟩ s
  with_reducible repeat' first
    | assumption | exact rfl | apply tblwWrite_follows
theorem execTblRead_follows (s : State) (who : Requester) (value : Word) : ∃ t0, execTblRead who value s = .next t0 ∧
    Follows ⟨true, true, false⟩ s t0 := by
  refine ⟨_, rfl, ?_⟩
  have h0 := Follows.refl ⟨true, true, false⟩ s
  with_reducible repeat' first
    | assumption | exact rfl | apply tcmdRun_follows
theorem execTblWrite_follows (s : State) (who : Requester) (value : Word) : ∃ t0, execTblWrite who value s = .next t0
    ∧ Follows ⟨true, true, false⟩ s t0 := by
  refine ⟨_, rfl, ?_⟩
  have h0 := Follows.refl ⟨true, true, false⟩ s
  with_reducible repeat' first
    | assumption | exact rfl | apply tcmdRun_follows
theorem execTblInsert_follows (s : State) (who : Requester) (value : Word) : ∃ t0, execTblInsert who value s = .next
    t0 ∧ Follows ⟨true, true, false⟩ s t0 := by
  refine ⟨_, rfl, ?_⟩
  have h0 := Follows.refl ⟨true, true, false⟩ s
  with_reducible repeat' first
    | assumption | exact rfl | apply tcmdRun_follows
theorem execTblDelete_follows (s : State) (who : Requester) (value : Word) : ∃ t0, execTblDelete who value s = .next
    t0 ∧ Follows ⟨true, true, false⟩ s t0 := by
  refine ⟨_, rfl, ?_⟩
  have h0 := Follows.refl ⟨true, true, false⟩ s
  with_reducible repeat' first
    | assumption | exact rfl | apply tcmdRun_follows
theorem execTblSearch_follows (s : State) (who : Requester) (value : Word) : ∃ t0, execTblSearch who value s = .next
    t0 ∧ Follows ⟨true, true, false⟩ s t0 := by
  refine ⟨_, rfl, ?_⟩
  have h0 := Follows.refl ⟨true, true, false⟩ s
  with_reducible repeat' first
    | assumption | exact rfl | apply tcmdRun_follows
theorem execLockExpired_follows (s : State) (code idx : Nat) : ∃ t0, execLockExpired code idx s = .next t0 ∧ Follows
    ⟨true, true, false⟩ s t0 := by
  refine ⟨_, rfl, ?_⟩
  have h0 := Follows.refl ⟨true, true, false⟩ s
  with_reducible repeat' first
    | assumption | exact rfl | apply lockExpired_follows
theorem execRuleSet_follows (s : State) (r : Nat) : ∃ t0, execRuleSet r s = .next t0 ∧ Follows ⟨true, true, false⟩ s
    t0 := by
  refine ⟨_, rfl, ?_⟩
  have h0 := Follows.refl ⟨true, true, false⟩ s
  with_reducible repeat' first
    | assumption | exact rfl | intro _ | apply cmdRuleSet_follows | (apply of_fst; apply cmdRuleSet_follows)
    | apply runCmdNow_follows | (apply of_fst; assumption) | apply fst_mk | refine of_fst_eq (by assumption) ?_

end Sys2Proof.Machine
end

