-- ==== Sys2Proof/Laws/ParseKeeps.lean ====
section
/-! SUPPORT. What the functions of Machine/Parse.lean keep (Follows), one lemma each. -/
namespace Sys2Proof.Machine

set_option linter.all false
variable {kp : Keep} {b b0 s : State}

theorem setIngress_follows (h0 : Follows kp b0 s) (p : Nat) (l : List Ingress) : Follows kp b0 (setIngress s p l) :=
    by
  unfold setIngress
  with_reducible repeat' first
    | assumption | (fail_if_no_progress apply upd_follows)
theorem throttleDrop_follows (h0 : Follows kp b0 s) (x : Ingress) : Follows kp b0 (throttleDrop s x) := by
  unfold throttleDrop
  with_reducible repeat' first
    | assumption
    | (extract_lets +onlyGivenNames x; refine cut_follows (kp := kp) (b := b0) (s := x) (fun _ => ?_) ?_; clear_value x; on_goal 2 => subst x)
    | (extract_lets +onlyGivenNames x; clear_value x) | apply fwdCount_follows | apply stat_follows
    | apply traceDrop_follows | split
theorem makeRoom_follows (h : Follows kp b s) (p tc n k : Nat) : FollowsFst kp b (makeRoom p tc n k s) := by
  induction k generalizing s with
  | zero => exact h
  | succ k ih =>
    unfold makeRoom
    with_reducible repeat' first
      | assumption | apply ih | (apply of_fst; apply ih) | apply throttleDrop_follows | apply setIngress_follows | split | apply fst_mk

theorem ingressPut_follows (h0 : Follows kp b0 s) (x : Ingress) : Follows kp b0 (ingressPut s x) := by
  unfold ingressPut
  with_reducible repeat' first
    | assumption
    | (extract_lets +onlyGivenNames x; refine cut_follows (kp := kp) (b := b0) (s := x) (fun _ => ?_) ?_; clear_value x; on_goal 2 => subst x)
    | (extract_lets +onlyGivenNames x; refine cut_fst (kp := kp) (b := b0) (p := x) (fun _ => ?_) ?_; clear_value x; on_goal 2 => subst x)
    | (extract_lets +onlyGivenNames x; clear_value x) | apply makeRoom_follows
    | (apply of_fst; apply makeRoom_follows) | apply setIngress_follows | apply throttleDrop_follows
    | (apply of_fst; assumption) | split | apply fst_mk | refine of_fst_eq (by assumption) ?_
theorem toCtrl_follows (h0 : Follows kp b0 s) (f : Frame) : Follows kp b0 (toCtrl s f) := by
  unfold toCtrl
  with_reducible repeat' first
    | assumption | apply placeFrame_follows | (apply of_snd; apply placeFrame_follows) | (apply of_snd; assumption)
    | split | apply snd_mk | refine of_snd_eq (by assumption) ?_ | (fail_if_no_progress apply upd_follows)
theorem flowOut_follows (h0 : Follows kp b0 s) (f : Frame) (ks : List Nat) : Follows kp b0 (flowOut s f ks) := by
  unfold flowOut
  with_reducible repeat' first
    | assumption | apply toRing_follows | split | (fail_if_no_progress apply upd_follows)
theorem grmCount_follows (h0 : Follows kp b0 s) (p code n : Nat) : Follows kp b0 (grmCount s p code n) := by
  unfold grmCount
  with_reducible repeat' first
    | assumption | apply cnt64_follows
theorem setCtx_follows (h0 : Follows kp b0 s) (p : Nat) (c : ParseCtx) : Follows kp b0 (setCtx s p c) := by
  unfold setCtx
  with_reducible repeat' first
    | assumption | (fail_if_no_progress apply upd_follows)
theorem dropCtx_follows (h0 : Follows kp b0 s) (p : Nat) : Follows kp b0 (dropCtx s p) := by
  unfold dropCtx
  with_reducible repeat' first
    | assumption | (fail_if_no_progress apply upd_follows)
theorem showProg_follows (h0 : Follows kp b0 s) : Follows kp b0 (showProg s) := by
  unfold showProg
  with_reducible repeat' first
    | assumption | apply wf_follows | apply wrW_follows
theorem grmMarker_follows (h0 : Follows kp b0 s) (p : Nat) : Follows kp b0 (grmMarker s p) := by
  unfold grmMarker
  with_reducible repeat' first
    | assumption | split | (fail_if_no_progress apply upd_follows)
theorem grmSwitch_follows (h0 : Follows kp b0 s) : Follows kp b0 (grmSwitch s) := by
  unfold grmSwitch
  with_reducible repeat' first
    | assumption | intro _
    | (extract_lets +onlyGivenNames x; refine cut_follows (kp := kp) (b := b0) (s := x) (fun _ => ?_) ?_; clear_value x; on_goal 2 => subst x)
    | (extract_lets +onlyGivenNames x; clear_value x) | apply evBit_follows | apply showProg_follows
    | apply wb_follows | apply wf_follows | split | (fail_if_no_progress apply upd_follows)
theorem traceDraw_follows (h0 : Follows kp b0 s) (p : Nat) (cl : Clause) : FollowsSnd kp b0 (traceDraw s p cl) := by
  unfold traceDraw
  with_reducible repeat' first
    | assumption
    | (extract_lets +onlyGivenNames x; refine cut_follows (kp := kp) (b := b0) (s := x) (fun _ => ?_) ?_; clear_value x; on_goal 2 => subst x)
    | (extract_lets +onlyGivenNames x; clear_value x) | apply grmCount_follows | apply nextFree_follows
    | apply trace_follows | (apply of_snd; assumption) | split | apply snd_mk | refine of_snd_eq (by assumption) ?_
    | (fail_if_no_progress apply upd_follows)
theorem parseEnd_follows (h0 : Follows kp b0 s) (p : Nat) : Follows kp b0 (parseEnd s p) := by
  unfold parseEnd
  with_reducible repeat' first
    | assumption | apply dropCtx_follows | apply grmCount_follows
theorem parseDrop_follows (h0 : Follows kp b0 s) (p code : Nat) (cl : Clause) : Follows kp b0 (parseDrop s p code cl)
    := by
  unfold parseDrop
  with_reducible repeat' first
    | assumption
    | (extract_lets +onlyGivenNames x; refine cut_follows (kp := kp) (b := b0) (s := x) (fun _ => ?_) ?_; clear_value x; on_goal 2 => subst x)
    | (extract_lets +onlyGivenNames x; clear_value x) | apply nextFree_follows | apply parseEnd_follows
    | apply trace_follows
theorem parsePunt_follows (h0 : Follows kp b0 s) (p : Nat) (c : ParseCtx) : Follows kp b0 (parsePunt s p c) := by
  unfold parsePunt
  with_reducible repeat' first
    | assumption | apply grmCount_follows | apply parseEnd_follows | apply toCtrl_follows
    | (fail_if_no_progress apply upd_follows)
theorem parsePass_follows (h0 : Follows kp b0 s) (p : Nat) (c : ParseCtx) (cl : Clause) : Follows kp b0 (parsePass s
    p c cl) := by
  unfold parsePass
  with_reducible repeat' first
    | assumption
    | (extract_lets +onlyGivenNames x; refine cut_follows (kp := kp) (b := b0) (s := x) (fun _ => ?_) ?_; clear_value x; on_goal 2 => subst x)
    | (extract_lets +onlyGivenNames x; clear_value x) | apply parseEnd_follows | apply trace_follows
    | (fail_if_no_progress apply upd_follows)
theorem countSearch_follows (h0 : Follows kp b0 s) (role : Nat) : Follows kp b0 (countSearch s role) := by
  unfold countSearch
  with_reducible repeat' first
    | assumption | intro _ | apply pc_follows | apply foldl_follows
theorem classify_follows (h0 : Follows kp b0 s) (p : Nat) (c : ParseCtx) (j : Nat) : Follows kp b0 (classify s p c j)
    := by
  unfold classify
  with_reducible repeat' first
    | assumption | intro _
    | (extract_lets +onlyGivenNames x; refine cut_follows (kp := kp) (b := b0) (s := x) (fun _ => ?_) ?_; clear_value x; on_goal 2 => subst x)
    | (extract_lets +onlyGivenNames x; refine cut_fun (kp := kp) (b := b0) (f := x) (fun _ => ?_) ?_; clear_value x; on_goal 2 => subst x)
    | (extract_lets +onlyGivenNames x; refine cut_fun2 (kp := kp) (b := b0) (f := x) (fun _ => ?_) ?_; clear_value x; on_goal 2 => subst x)
    | (extract_lets +onlyGivenNames x; refine cut_fun3 (kp := kp) (b := b0) (f := x) (fun _ => ?_) ?_; clear_value x; on_goal 2 => subst x)
    | (extract_lets +onlyGivenNames x; refine cut_fun4 (kp := kp) (b := b0) (f := x) (fun _ => ?_) ?_; clear_value x; on_goal 2 => subst x)
    | (extract_lets +onlyGivenNames x; refine cut_fun5 (kp := kp) (b := b0) (f := x) (fun _ => ?_) ?_; clear_value x; on_goal 2 => subst x)
    | (extract_lets +onlyGivenNames x; refine cut_fun6 (kp := kp) (b := b0) (f := x) (fun _ => ?_) ?_; clear_value x; on_goal 2 => subst x)
    | (extract_lets +onlyGivenNames x; clear_value x) | apply countSearch_follows | apply grmCount_follows
    | apply parseDrop_follows | apply parsePass_follows | apply parsePunt_follows | apply stat_follows
    | apply trace_follows | split | apply_assumption | (apply of_fst; apply_assumption)
    | (apply of_snd; apply_assumption) | (fail_if_no_progress apply upd_follows)
theorem parseExc_follows (h0 : Follows kp b0 s) (p : Nat) (c : ParseCtx) (e : ParseEx) : Follows kp b0 (parseExc s p
    c e) := by
  unfold parseExc
  with_reducible repeat' first
    | assumption
    | (extract_lets +onlyGivenNames x; refine cut_follows (kp := kp) (b := b0) (s := x) (fun _ => ?_) ?_; clear_value x; on_goal 2 => subst x)
    | (extract_lets +onlyGivenNames x; clear_value x) | apply classify_follows | apply grmCount_follows
    | apply parseDrop_follows | apply parsePunt_follows | split | (fail_if_no_progress apply upd_follows)
theorem pipeAdmit_follows (h0 : Follows kp b0 s) (p : Nat) : Follows kp b0 (pipeAdmit s p) := by
  unfold pipeAdmit
  with_reducible repeat' first
    | assumption
    | (extract_lets +onlyGivenNames x; refine cut_follows (kp := kp) (b := b0) (s := x) (fun _ => ?_) ?_; clear_value x; on_goal 2 => subst x)
    | (extract_lets +onlyGivenNames x; refine cut_snd (kp := kp) (b := b0) (p := x) (fun _ => ?_) ?_; clear_value x; on_goal 2 => subst x)
    | (extract_lets +onlyGivenNames x; clear_value x) | apply flowOut_follows | apply nextFree_follows
    | apply parseExc_follows | apply pc_follows | apply setCtx_follows | apply setIngress_follows
    | apply trace_follows | apply traceDraw_follows | (apply of_snd; apply traceDraw_follows)
    | (apply of_snd; assumption) | split | apply snd_mk | refine of_snd_eq (by assumption) ?_
    | (fail_if_no_progress apply upd_follows)
theorem verbStep_follows (h0 : Follows kp b0 s) (p op : Nat) (f : List Byte → ParseCtx → Nat → VerbRes) : Follows kp
    b0 (verbStep s p op f) := by
  unfold verbStep
  with_reducible repeat' first
    | assumption
    | (extract_lets +onlyGivenNames x; refine cut_follows (kp := kp) (b := b0) (s := x) (fun _ => ?_) ?_; clear_value x; on_goal 2 => subst x)
    | (extract_lets +onlyGivenNames x; clear_value x) | apply grmCount_follows | apply parseExc_follows
    | apply setCtx_follows | split | (fail_if_no_progress apply upd_follows)
theorem verbEnd_follows (h0 : Follows kp b0 s) (p op : Nat) (f : State → ParseCtx → Nat → State) (hf : ∀ s x1 x2,
    Follows kp b0 s → Follows kp b0 (f s x1 x2)) : Follows kp b0 (verbEnd s p op f) := by
  unfold verbEnd
  with_reducible repeat' first
    | assumption
    | (extract_lets +onlyGivenNames x; refine cut_follows (kp := kp) (b := b0) (s := x) (fun _ => ?_) ?_; clear_value x; on_goal 2 => subst x)
    | (extract_lets +onlyGivenNames x; clear_value x) | apply hf | apply grmCount_follows | split
    | (fail_if_no_progress apply upd_follows)
theorem verbNop_follows (h0 : Follows kp b0 s) (p : Nat) : Follows kp b0 (verbNop s p) := by
  unfold verbNop
  with_reducible repeat' first
    | assumption | intro _ | apply verbStep_follows
theorem verbExtract_follows (h0 : Follows kp b0 s) (p : Nat) : Follows kp b0 (verbExtract s p) := by
  unfold verbExtract
  with_reducible repeat' first
    | assumption | intro _ | apply verbStep_follows | (fail_if_no_progress apply upd_follows)
theorem verbMatch_follows (h0 : Follows kp b0 s) (p : Nat) : Follows kp b0 (verbMatch s p) := by
  unfold verbMatch
  with_reducible repeat' first
    | assumption | intro _ | apply verbStep_follows | split
theorem verbDispatch_follows (h0 : Follows kp b0 s) (p : Nat) : Follows kp b0 (verbDispatch s p) := by
  unfold verbDispatch
  with_reducible repeat' first
    | assumption | intro _
    | (extract_lets +onlyGivenNames x; refine cut_follows (kp := kp) (b := b0) (s := x) (fun _ => ?_) ?_; clear_value x; on_goal 2 => subst x)
    | (extract_lets +onlyGivenNames x; clear_value x) | apply verbStep_follows | split
theorem verbGoto_follows (h0 : Follows kp b0 s) (p : Nat) : Follows kp b0 (verbGoto s p) := by
  unfold verbGoto
  with_reducible repeat' first
    | assumption | intro _ | apply verbStep_follows
theorem verbAdvance_follows (h0 : Follows kp b0 s) (p : Nat) : Follows kp b0 (verbAdvance s p) := by
  unfold verbAdvance
  with_reducible repeat' first
    | assumption | intro _ | apply verbStep_follows
theorem verbAdvanceField_follows (h0 : Follows kp b0 s) (p : Nat) : Follows kp b0 (verbAdvanceField s p) := by
  unfold verbAdvanceField
  with_reducible repeat' first
    | assumption | intro _ | apply verbStep_follows
theorem verbAdvanceIf_follows (h0 : Follows kp b0 s) (p : Nat) : Follows kp b0 (verbAdvanceIf s p) := by
  unfold verbAdvanceIf
  with_reducible repeat' first
    | assumption | intro _ | apply verbStep_follows | split
theorem verbMark_follows (h0 : Follows kp b0 s) (p : Nat) : Follows kp b0 (verbMark s p) := by
  unfold verbMark
  with_reducible repeat' first
    | assumption | intro _ | apply verbStep_follows | split | (fail_if_no_progress apply upd_follows)
theorem verbKeepCur_follows (h0 : Follows kp b0 s) (p : Nat) : Follows kp b0 (verbKeepCur s p) := by
  unfold verbKeepCur
  with_reducible repeat' first
    | assumption | intro _ | apply verbStep_follows | (fail_if_no_progress apply upd_follows)
theorem verbHash_follows (h0 : Follows kp b0 s) (p : Nat) : Follows kp b0 (verbHash s p) := by
  unfold verbHash
  with_reducible repeat' first
    | assumption | intro _ | apply verbStep_follows | (fail_if_no_progress apply upd_follows)
theorem verbSetnoun_follows (h0 : Follows kp b0 s) (p : Nat) : Follows kp b0 (verbSetnoun s p) := by
  unfold verbSetnoun
  with_reducible repeat' first
    | assumption | intro _
    | (extract_lets +onlyGivenNames x; refine cut_follows (kp := kp) (b := b0) (s := x) (fun _ => ?_) ?_; clear_value x; on_goal 2 => subst x)
    | (extract_lets +onlyGivenNames x; clear_value x) | apply verbStep_follows | split
    | (fail_if_no_progress apply upd_follows)
theorem verbAccept_follows (h0 : Follows kp b0 s) (p : Nat) : Follows kp b0 (verbAccept s p) := by
  unfold verbAccept
  with_reducible repeat' first
    | assumption | intro _ | apply classify_follows | apply verbEnd_follows
theorem verbDrop_follows (h0 : Follows kp b0 s) (p : Nat) : Follows kp b0 (verbDrop s p) := by
  unfold verbDrop
  with_reducible repeat' first
    | assumption | intro _ | apply grmCount_follows | apply parseDrop_follows | apply verbEnd_follows
    | (fail_if_no_progress apply upd_follows)
theorem verbPunt_follows (h0 : Follows kp b0 s) (p : Nat) : Follows kp b0 (verbPunt s p) := by
  unfold verbPunt
  with_reducible repeat' first
    | assumption | intro _ | apply parsePunt_follows | apply verbEnd_follows
theorem execPipelineAdmit_follows (s : State) (p : Nat) : ∃ t0, execPipelineAdmit p s = .next t0 ∧ Follows ⟨true,
    true, true⟩ s t0 := by
  refine ⟨_, rfl, ?_⟩
  have h0 := Follows.refl ⟨true, true, true⟩ s
  with_reducible repeat' first
    | assumption | exact rfl | apply pipeAdmit_follows
theorem execGrammarSwitchMarker_follows (s : State) (p : Nat) : ∃ t0, execGrammarSwitchMarker p s = .next t0 ∧
    Follows ⟨true, true, true⟩ s t0 := by
  refine ⟨_, rfl, ?_⟩
  have h0 := Follows.refl ⟨true, true, true⟩ s
  with_reducible repeat' first
    | assumption | exact rfl | apply grmMarker_follows
theorem execGrammarSwitchComplete_follows (s : State) : ∃ t0, execGrammarSwitchComplete s = .next t0 ∧ Follows ⟨true,
    true, true⟩ s t0 := by
  refine ⟨_, rfl, ?_⟩
  have h0 := Follows.refl ⟨true, true, true⟩ s
  with_reducible repeat' first
    | assumption | exact rfl | apply grmSwitch_follows
theorem execNop_follows (s : State) (p : Nat) : ∃ t0, execNop p s = .next t0 ∧ Follows ⟨true, true, true⟩ s t0 := by
  refine ⟨_, rfl, ?_⟩
  have h0 := Follows.refl ⟨true, true, true⟩ s
  with_reducible repeat' first
    | assumption | exact rfl | apply verbNop_follows
theorem execExtractVerb_follows (s : State) (p : Nat) : ∃ t0, execExtractVerb p s = .next t0 ∧ Follows ⟨true, true,
    true⟩ s t0 := by
  refine ⟨_, rfl, ?_⟩
  have h0 := Follows.refl ⟨true, true, true⟩ s
  with_reducible repeat' first
    | assumption | exact rfl | apply verbExtract_follows
theorem execMatchVerb_follows (s : State) (p : Nat) : ∃ t0, execMatchVerb p s = .next t0 ∧ Follows ⟨true, true, true⟩
    s t0 := by
  refine ⟨_, rfl, ?_⟩
  have h0 := Follows.refl ⟨true, true, true⟩ s
  with_reducible repeat' first
    | assumption | exact rfl | apply verbMatch_follows
theorem execDispatchVerb_follows (s : State) (p : Nat) : ∃ t0, execDispatchVerb p s = .next t0 ∧ Follows ⟨true, true,
    true⟩ s t0 := by
  refine ⟨_, rfl, ?_⟩
  have h0 := Follows.refl ⟨true, true, true⟩ s
  with_reducible repeat' first
    | assumption | exact rfl | apply verbDispatch_follows
theorem execGotoVerb_follows (s : State) (p : Nat) : ∃ t0, execGotoVerb p s = .next t0 ∧ Follows ⟨true, true, true⟩ s
    t0 := by
  refine ⟨_, rfl, ?_⟩
  have h0 := Follows.refl ⟨true, true, true⟩ s
  with_reducible repeat' first
    | assumption | exact rfl | apply verbGoto_follows
theorem execAdvance_follows (s : State) (p : Nat) : ∃ t0, execAdvance p s = .next t0 ∧ Follows ⟨true, true, true⟩ s
    t0 := by
  refine ⟨_, rfl, ?_⟩
  have h0 := Follows.refl ⟨true, true, true⟩ s
  with_reducible repeat' first
    | assumption | exact rfl | apply verbAdvance_follows
theorem execAdvanceField_follows (s : State) (p : Nat) : ∃ t0, execAdvanceField p s = .next t0 ∧ Follows ⟨true, true,
    true⟩ s t0 := by
  refine ⟨_, rfl, ?_⟩
  have h0 := Follows.refl ⟨true, true, true⟩ s
  with_reducible repeat' first
    | assumption | exact rfl | apply verbAdvanceField_follows
theorem execAdvanceIf_follows (s : State) (p : Nat) : ∃ t0, execAdvanceIf p s = .next t0 ∧ Follows ⟨true, true, true⟩
    s t0 := by
  refine ⟨_, rfl, ?_⟩
  have h0 := Follows.refl ⟨true, true, true⟩ s
  with_reducible repeat' first
    | assumption | exact rfl | apply verbAdvanceIf_follows
theorem execMarkVerb_follows (s : State) (p : Nat) : ∃ t0, execMarkVerb p s = .next t0 ∧ Follows ⟨true, true, true⟩ s
    t0 := by
  refine ⟨_, rfl, ?_⟩
  have h0 := Follows.refl ⟨true, true, true⟩ s
  with_reducible repeat' first
    | assumption | exact rfl | apply verbMark_follows
theorem execKeepCur_follows (s : State) (p : Nat) : ∃ t0, execKeepCur p s = .next t0 ∧ Follows ⟨true, true, true⟩ s
    t0 := by
  refine ⟨_, rfl, ?_⟩
  have h0 := Follows.refl ⟨true, true, true⟩ s
  with_reducible repeat' first
    | assumption | exact rfl | apply verbKeepCur_follows
theorem execHashVerb_follows (s : State) (p : Nat) : ∃ t0, execHashVerb p s = .next t0 ∧ Follows ⟨true, true, true⟩ s
    t0 := by
  refine ⟨_, rfl, ?_⟩
  have h0 := Follows.refl ⟨true, true, true⟩ s
  with_reducible repeat' first
    | assumption | exact rfl | apply verbHash_follows
theorem execSetnoun_follows (s : State) (p : Nat) : ∃ t0, execSetnoun p s = .next t0 ∧ Follows ⟨true, true, true⟩ s
    t0 := by
  refine ⟨_, rfl, ?_⟩
  have h0 := Follows.refl ⟨true, true, true⟩ s
  with_reducible repeat' first
    | assumption | exact rfl | apply verbSetnoun_follows
theorem execAcceptVerb_follows (s : State) (p : Nat) : ∃ t0, execAcceptVerb p s = .next t0 ∧ Follows ⟨true, true,
    true⟩ s t0 := by
  refine ⟨_, rfl, ?_⟩
  have h0 := Follows.refl ⟨true, true, true⟩ s
  with_reducible repeat' first
    | assumption | exact rfl | apply verbAccept_follows
theorem execDropVerb_follows (s : State) (p : Nat) : ∃ t0, execDropVerb p s = .next t0 ∧ Follows ⟨true, true, true⟩ s
    t0 := by
  refine ⟨_, rfl, ?_⟩
  have h0 := Follows.refl ⟨true, true, true⟩ s
  with_reducible repeat' first
    | assumption | exact rfl | apply verbDrop_follows
theorem execPuntVerb_follows (s : State) (p : Nat) : ∃ t0, execPuntVerb p s = .next t0 ∧ Follows ⟨true, true, true⟩ s
    t0 := by
  refine ⟨_, rfl, ?_⟩
  have h0 := Follows.refl ⟨true, true, true⟩ s
  with_reducible repeat' first
    | assumption | exact rfl | apply verbPunt_follows

end Sys2Proof.Machine
end

