-- ==== Sys2Proof/Laws/EphemerisKeeps.lean ====
section
/-! SUPPORT. What the functions of Machine/Ephemeris.lean keep (Follows), one lemma each. -/
namespace Sys2Proof.Machine

set_option linter.all false
variable {kp : Keep} {b b0 s : State}

theorem bookMsg_follows (h0 : Follows kp b0 s) (c m tid : Nat) (more : List Span) : Follows kp b0 (bookMsg s c m tid
    more) := by
  unfold bookMsg
  with_reducible repeat' first
    | assumption | intro _
    | (extract_lets +onlyGivenNames x; refine cut_follows (kp := kp) (b := b0) (s := x) (fun _ => ?_) ?_; clear_value x; on_goal 2 => subst x)
    | (extract_lets +onlyGivenNames x; refine cut_opt (kp := kp) (b := b0) (o := x) (fun _ => ?_) ?_; clear_value x; on_goal 2 => subst x)
    | (extract_lets +onlyGivenNames x; clear_value x) | apply bookFw_follows | apply opt_some | apply opt_none
    | apply of_getD | split | refine of_opt_eq (by assumption) ?_
theorem engineBooks_follows (h0 : Follows kp b0 s) (c m : Nat) : Follows kp b0 (engineBooks s c m) := by
  unfold engineBooks
  with_reducible repeat' first
    | assumption | intro _ | apply bookFw_follows | apply bookMsg_follows | apply foldl_follows | apply opt_some
    | apply opt_none | apply of_getD | split | refine of_opt_eq (by assumption) ?_
theorem rawMsgs_follows (h0 : Follows kp b0 s) (c m : Nat) (spans : List Span) (have_ : List Nat) : Follows kp b0
    (rawMsgs s c m spans have_) := by
  unfold rawMsgs
  with_reducible repeat' first
    | assumption | intro _ | apply bookMsg_follows | apply foldl_follows | split
theorem geRecDone_follows (h0 : Follows kp b0 s) (c i status removed : Nat) : Follows kp b0 (geRecDone s c i status
    removed) := by
  unfold geRecDone
  with_reducible repeat' first
    | assumption
    | (extract_lets +onlyGivenNames x; refine cut_follows (kp := kp) (b := b0) (s := x) (fun _ => ?_) ?_; clear_value x; on_goal 2 => subst x)
    | (extract_lets +onlyGivenNames x; clear_value x) | apply geCount_follows | apply geEvent_follows
    | apply wf_follows | split
theorem geTake_follows (h : Follows kp b s) (c m n : Nat) : FollowsFst kp b (geTake c m n s) := by
  induction n generalizing s with
  | zero => exact h
  | succ n ih =>
    unfold geTake
    with_reducible repeat' first
      | assumption | apply ih | apply geRecDone_follows | split | apply fst_mk

theorem geUsed_follows (h0 : Follows kp b0 s) (c m i removed : Nat) : Follows kp b0 (geUsed s c m i removed) := by
  unfold geUsed
  with_reducible repeat' first
    | assumption
    | (extract_lets +onlyGivenNames x; refine cut_follows (kp := kp) (b := b0) (s := x) (fun _ => ?_) ?_; clear_value x; on_goal 2 => subst x)
    | (extract_lets +onlyGivenNames x; refine cut_fst (kp := kp) (b := b0) (p := x) (fun _ => ?_) ?_; clear_value x; on_goal 2 => subst x)
    | (extract_lets +onlyGivenNames x; clear_value x) | apply geRecDone_follows | apply geTake_follows
    | (apply of_fst; apply geTake_follows) | (apply of_fst; assumption) | apply fst_mk
    | refine of_fst_eq (by assumption) ?_ | (fail_if_no_progress apply upd_follows)
theorem chargeAlloc_follows (h0 : Follows kp b0 s) (m : Nat) (a : ABld) : Follows kp b0 (chargeAlloc s m a) := by
  unfold chargeAlloc
  with_reducible repeat' first
    | assumption
    | (extract_lets +onlyGivenNames x; refine cut_follows (kp := kp) (b := b0) (s := x) (fun _ => ?_) ?_; clear_value x; on_goal 2 => subst x)
    | (extract_lets +onlyGivenNames x; clear_value x) | apply setDyn_follows | apply stat_follows
    | (fail_if_no_progress apply upd_follows)
theorem gainOnly_follows (h0 : Follows kp b0 s) (m span : Nat) (as : List Nat) : Follows kp b0 (gainOnly s m span as)
    := by
  unfold gainOnly
  with_reducible repeat' first
    | assumption | intro _
    | (extract_lets +onlyGivenNames x; refine cut_follows (kp := kp) (b := b0) (s := x) (fun _ => ?_) ?_; clear_value x; on_goal 2 => subst x)
    | (extract_lets +onlyGivenNames x; clear_value x) | apply setDyn_follows | apply foldl_follows
    | (fail_if_no_progress apply upd_follows)
theorem commitBuild_follows (h0 : Follows kp b0 s) (c m : Nat) (es : List EphEntry) (gbs : List GBurst) (b : Built) :
    Follows kp b0 (commitBuild s c m es gbs b) := by
  unfold commitBuild
  with_reducible repeat' first
    | assumption | intro _
    | (extract_lets +onlyGivenNames x; refine cut_follows (kp := kp) (b := b0) (s := x) (fun _ => ?_) ?_; clear_value x; on_goal 2 => subst x)
    | (extract_lets +onlyGivenNames x; clear_value x) | apply geCount_follows | apply geEvent_follows
    | apply setDyn_follows | apply wrW_follows | apply foldl_follows | split | (fail_if_no_progress apply upd_follows)
theorem commitCharged_follows (h0 : Follows kp b0 s) (c m : Nat) (parts : List ABld) (es : List EphEntry) (gbs : List
    GBurst) (b : Built) : Follows kp b0 (commitCharged s c m parts es gbs b) := by
  unfold commitCharged
  with_reducible repeat' first
    | assumption | intro _ | apply chargeAlloc_follows | apply commitBuild_follows | apply gainOnly_follows
    | apply foldl_follows
theorem commitBursts_follows (h0 : Follows kp b0 s) (c m : Nat) (b : Built) : Follows kp b0 (commitBursts s c m b) :=
    by
  unfold commitBursts
  with_reducible repeat' first
    | assumption | intro _
    | (extract_lets +onlyGivenNames x; refine cut_follows (kp := kp) (b := b0) (s := x) (fun _ => ?_) ?_; clear_value x; on_goal 2 => subst x)
    | (extract_lets +onlyGivenNames x; clear_value x) | apply commitCharged_follows
theorem buildC50_follows (h0 : Follows kp b0 s) (c m : Nat) : Follows kp b0 (buildC50 s c m) := by
  unfold buildC50
  with_reducible repeat' first
    | assumption | intro _
    | (extract_lets +onlyGivenNames x; refine cut_follows (kp := kp) (b := b0) (s := x) (fun _ => ?_) ?_; clear_value x; on_goal 2 => subst x)
    | (extract_lets +onlyGivenNames x; refine cut_fun (kp := kp) (b := b0) (f := x) (fun _ => ?_) ?_; clear_value x; on_goal 2 => subst x)
    | (extract_lets +onlyGivenNames x; refine cut_fun2 (kp := kp) (b := b0) (f := x) (fun _ => ?_) ?_; clear_value x; on_goal 2 => subst x)
    | (extract_lets +onlyGivenNames x; refine cut_fun3 (kp := kp) (b := b0) (f := x) (fun _ => ?_) ?_; clear_value x; on_goal 2 => subst x)
    | (extract_lets +onlyGivenNames x; refine cut_fun4 (kp := kp) (b := b0) (f := x) (fun _ => ?_) ?_; clear_value x; on_goal 2 => subst x)
    | (extract_lets +onlyGivenNames x; refine cut_fun5 (kp := kp) (b := b0) (f := x) (fun _ => ?_) ?_; clear_value x; on_goal 2 => subst x)
    | (extract_lets +onlyGivenNames x; refine cut_fun6 (kp := kp) (b := b0) (f := x) (fun _ => ?_) ?_; clear_value x; on_goal 2 => subst x)
    | (extract_lets +onlyGivenNames x; clear_value x) | apply chargeAlloc_follows | apply commitBuild_follows
    | apply gainOnly_follows | apply foldl_follows | split | apply_assumption | (apply of_fst; apply_assumption)
    | (apply of_snd; apply_assumption)
theorem buildTemplate_follows (h0 : Follows kp b0 s) (c m i : Nat) : Follows kp b0 (buildTemplate s c m i) := by
  unfold buildTemplate
  with_reducible repeat' first
    | assumption | intro _
    | (extract_lets +onlyGivenNames x; refine cut_follows (kp := kp) (b := b0) (s := x) (fun _ => ?_) ?_; clear_value x; on_goal 2 => subst x)
    | (extract_lets +onlyGivenNames x; clear_value x) | apply commitBursts_follows | apply geUsed_follows | split
theorem buildRaw_follows (h0 : Follows kp b0 s) (c m i : Nat) : Follows kp b0 (buildRaw s c m i) := by
  unfold buildRaw
  with_reducible repeat' first
    | assumption | intro _
    | (extract_lets +onlyGivenNames x; refine cut_follows (kp := kp) (b := b0) (s := x) (fun _ => ?_) ?_; clear_value x; on_goal 2 => subst x)
    | (extract_lets +onlyGivenNames x; clear_value x) | apply commitCharged_follows | apply gainOnly_follows
    | apply geUsed_follows | apply rawMsgs_follows | apply foldl_follows | split
    | (fail_if_no_progress apply upd_follows)
theorem grantBuild_follows (h0 : Follows kp b0 s) (c : Nat) : Follows kp b0 (grantBuild s c) := by
  unfold grantBuild
  with_reducible repeat' first
    | assumption | intro _
    | (extract_lets +onlyGivenNames x; refine cut_follows (kp := kp) (b := b0) (s := x) (fun _ => ?_) ?_; clear_value x; on_goal 2 => subst x)
    | (extract_lets +onlyGivenNames x; refine cut_fst (kp := kp) (b := b0) (p := x) (fun _ => ?_) ?_; clear_value x; on_goal 2 => subst x)
    | (extract_lets +onlyGivenNames x; refine cut_fun (kp := kp) (b := b0) (f := x) (fun _ => ?_) ?_; clear_value x; on_goal 2 => subst x)
    | (extract_lets +onlyGivenNames x; refine cut_fun2 (kp := kp) (b := b0) (f := x) (fun _ => ?_) ?_; clear_value x; on_goal 2 => subst x)
    | (extract_lets +onlyGivenNames x; refine cut_fun3 (kp := kp) (b := b0) (f := x) (fun _ => ?_) ?_; clear_value x; on_goal 2 => subst x)
    | (extract_lets +onlyGivenNames x; refine cut_fun4 (kp := kp) (b := b0) (f := x) (fun _ => ?_) ?_; clear_value x; on_goal 2 => subst x)
    | (extract_lets +onlyGivenNames x; refine cut_fun5 (kp := kp) (b := b0) (f := x) (fun _ => ?_) ?_; clear_value x; on_goal 2 => subst x)
    | (extract_lets +onlyGivenNames x; refine cut_fun6 (kp := kp) (b := b0) (f := x) (fun _ => ?_) ?_; clear_value x; on_goal 2 => subst x)
    | (extract_lets +onlyGivenNames x; clear_value x) | apply buildC50_follows | apply buildRaw_follows
    | apply buildTemplate_follows | apply commitBursts_follows | apply commitCharged_follows
    | apply engineBooks_follows | apply geEvent_follows | apply geTake_follows
    | (apply of_fst; apply geTake_follows) | apply rawMsgs_follows | (apply of_fst; assumption) | split
    | apply fst_mk | refine of_fst_eq (by assumption) ?_ | apply_assumption | (apply of_fst; apply_assumption)
    | (apply of_snd; apply_assumption) | (fail_if_no_progress apply upd_follows)
theorem geAbandon_follows (h0 : Follows kp b0 s) (c : Nat) : Follows kp b0 (geAbandon s c) := by
  unfold geAbandon
  with_reducible repeat' first
    | assumption | intro _
    | (extract_lets +onlyGivenNames x; refine cut_follows (kp := kp) (b := b0) (s := x) (fun _ => ?_) ?_; clear_value x; on_goal 2 => subst x)
    | (extract_lets +onlyGivenNames x; clear_value x) | apply geRecDone_follows | apply wf_follows
    | apply foldl_follows
theorem execGrantBuild_follows (s : State) (c : Nat) : ∃ t0, execGrantBuild c s = .next t0 ∧ Follows ⟨true, true,
    true⟩ s t0 := by
  refine ⟨_, rfl, ?_⟩
  have h0 := Follows.refl ⟨true, true, true⟩ s
  with_reducible repeat' first
    | assumption | exact rfl | intro _ | apply dataUp_follows | apply grantBuild_follows

end Sys2Proof.Machine
end

