-- ==== Sys2Proof/Laws/MovesKeeps.lean ====
section
/-! SUPPORT. What the functions of Machine/Moves.lean keep (Follows), one lemma each. -/
namespace Sys2Proof.Machine

set_option linter.all false
variable {kp : Keep} {b b0 s : State}

theorem termStop_follows (h0 : Follows kp b0 s) (tid : Nat) : Follows kp b0 (termStop s tid) := by
  unfold termStop
  with_reducible repeat' first
    | assumption
    | (extract_lets +onlyGivenNames x; refine cut_follows (kp := kp) (b := b0) (s := x) (fun _ => ?_) ?_; clear_value x; on_goal 2 => subst x)
    | (extract_lets +onlyGivenNames x; clear_value x) | apply rotFail_follows
    | (fail_if_no_progress apply upd_follows)
theorem termKeysErase_follows (h0 : Follows kp b0 s) (tid det : Nat) : Follows kp b0 (termKeysErase s tid det) := by
  unfold termKeysErase
  with_reducible repeat' first
    | assumption | intro _ | apply keyEraseTerm_follows | apply foldl_follows
theorem termFresh_follows (h0 : Follows kp b0 s) (tid : Nat) : Follows kp b0 (termFresh s tid) := by
  unfold termFresh
  with_reducible repeat' first
    | assumption | (fail_if_no_progress apply upd_follows)
theorem termEnter_follows (hktabs : kp.tabs = false) (h0 : Follows kp b0 s) (tid st : Nat) : Follows kp b0 (termEnter
    s tid st) := by
  unfold termEnter
  with_reducible repeat' first
    | assumption
    | (extract_lets +onlyGivenNames x; refine cut_follows (kp := kp) (b := b0) (s := x) (fun _ => ?_) ?_; clear_value x; on_goal 2 => subst x)
    | (extract_lets +onlyGivenNames x; clear_value x) | apply setInfo_follows | apply tcmForget_follows
    | apply tcmSend_follows | apply termFlush_follows | apply termFresh_follows | apply termKeysErase_follows
    | apply termStop_follows | apply tmplOnRanging_follows | split | (fail_if_no_progress apply upd_follows)
theorem termMgmt_follows (hktabs : kp.tabs = false) (h0 : Follows kp b0 s) (tid st det : Nat) : Follows kp b0
    (termMgmt s tid st det) := by
  unfold termMgmt
  with_reducible repeat' first
    | assumption | apply termEnter_follows | apply termNotify_follows | apply unitAccept_follows
theorem termData_follows (hktabs : kp.tabs = false) (h0 : Follows kp b0 s) (tid st det : Nat) : Follows kp b0
    (termData s tid st det) := by
  unfold termData
  with_reducible repeat' first
    | assumption | apply dpChange_follows | apply termEnter_follows | apply termNotify_follows
theorem setTrRec_follows (h0 : Follows kp b0 s) (tid : Nat) (r : TransitRec) : Follows kp b0 (setTrRec s tid r) := by
  unfold setTrRec
  with_reducible repeat' first
    | assumption | (fail_if_no_progress apply upd_follows)
theorem setPhase_follows (h0 : Follows kp b0 s) (tid ph : Nat) : Follows kp b0 (setPhase s tid ph) := by
  unfold setPhase
  with_reducible repeat' first
    | assumption | apply wf_follows
theorem showInflight_follows (h0 : Follows kp b0 s) (t : Nat) : Follows kp b0 (showInflight s t) := by
  unfold showInflight
  with_reducible repeat' first
    | assumption | apply wf_follows
theorem trAccept_follows (hktabs : kp.tabs = false) (h0 : Follows kp b0 s) (tid w x : Nat) (tk : Ticket) : Follows kp
    b0 (trAccept s tid w x tk) := by
  unfold trAccept
  with_reducible repeat' first
    | assumption
    | (extract_lets +onlyGivenNames x; refine cut_follows (kp := kp) (b := b0) (s := x) (fun _ => ?_) ?_; clear_value x; on_goal 2 => subst x)
    | (extract_lets +onlyGivenNames x; clear_value x) | apply setPhase_follows | apply setTrRec_follows
    | apply showInflight_follows | apply tcmSend_follows | apply termMgmt_follows | apply wf_follows
theorem trRequest_follows (hktabs : kp.tabs = false) (h0 : Follows kp b0 s) (tid w x0 ofs : Nat) (tk : Ticket) :
    FollowsFst kp b0 (trRequest s tid w x0 ofs tk) := by
  unfold trRequest
  with_reducible repeat' first
    | assumption
    | (extract_lets +onlyGivenNames x; refine cut_follows (kp := kp) (b := b0) (s := x) (fun _ => ?_) ?_; clear_value x; on_goal 2 => subst x)
    | (extract_lets +onlyGivenNames x; clear_value x) | apply trAccept_follows | (apply of_fst; assumption) | split
    | apply fst_mk | refine of_fst_eq (by assumption) ?_
theorem setFold_follows (h0 : Follows kp b0 s) (t st : Nat) : Follows kp b0 (setFold s t st) := by
  unfold setFold
  with_reducible repeat' first
    | assumption
    | (extract_lets +onlyGivenNames x; refine cut_follows (kp := kp) (b := b0) (s := x) (fun _ => ?_) ?_; clear_value x; on_goal 2 => subst x)
    | (extract_lets +onlyGivenNames x; clear_value x) | apply wf_follows | split
    | (fail_if_no_progress apply upd_follows)
theorem trEvent_follows (h0 : Follows kp b0 s) (t bit c : Nat) : Follows kp b0 (trEvent s t bit c) := by
  unfold trEvent
  with_reducible repeat' first
    | assumption | apply evBit_follows
theorem foldGo_follows (hk : kp.tabs = false) (h : Follows kp b s) (t : Nat) : Follows kp b (foldGo s t) := by
  unfold foldGo
  split
  · exact h
  · split
    · exact h
    · extract_lets ws move step
      split
      rename_i e
      have hs := of_fst_eq e (foldl_fst (fst_mk h) (fun p x hp => by
        unfold step
        split
        · exact hp
        · exact fst_mk (of_fst (trRequest_follows hk (of_fst hp) _ _ _ _ _))))
      split
      · exact trEvent_follows (setFold_follows hs _ _) _ _ _
      · extract_lets y
        have hy : Follows kp b y := foldl_follows hs (fun s x hx => by
          extract_lets z
          split
          · exact treeFollow_follows (unitAccept_follows hx _ _ _) _
          · exact hx)
        split
        · exact trEvent_follows (setFold_follows hy _ _) _ _ _
        · exact hy

theorem drainGo_follows (hktabs : kp.tabs = false) (h0 : Follows kp b0 s) (t : Nat) : Follows kp b0 (drainGo s t) :=
    by
  unfold drainGo
  with_reducible repeat' first
    | assumption | intro _
    | (extract_lets +onlyGivenNames x; refine cut_follows (kp := kp) (b := b0) (s := x) (fun _ => ?_) ?_; clear_value x; on_goal 2 => subst x)
    | (extract_lets +onlyGivenNames x; refine cut_fst (kp := kp) (b := b0) (p := x) (fun _ => ?_) ?_; clear_value x; on_goal 2 => subst x)
    | (extract_lets +onlyGivenNames x; refine cut_fun (kp := kp) (b := b0) (f := x) (fun _ => ?_) ?_; clear_value x; on_goal 2 => subst x)
    | (extract_lets +onlyGivenNames x; refine cut_fun2 (kp := kp) (b := b0) (f := x) (fun _ => ?_) ?_; clear_value x; on_goal 2 => subst x)
    | (extract_lets +onlyGivenNames x; refine cut_fun3 (kp := kp) (b := b0) (f := x) (fun _ => ?_) ?_; clear_value x; on_goal 2 => subst x)
    | (extract_lets +onlyGivenNames x; refine cut_fun4 (kp := kp) (b := b0) (f := x) (fun _ => ?_) ?_; clear_value x; on_goal 2 => subst x)
    | (extract_lets +onlyGivenNames x; refine cut_fun5 (kp := kp) (b := b0) (f := x) (fun _ => ?_) ?_; clear_value x; on_goal 2 => subst x)
    | (extract_lets +onlyGivenNames x; refine cut_fun6 (kp := kp) (b := b0) (f := x) (fun _ => ?_) ?_; clear_value x; on_goal 2 => subst x)
    | (extract_lets +onlyGivenNames x; clear_value x) | apply trRequest_follows
    | (apply of_fst; apply trRequest_follows) | apply foldl_follows | apply foldl_fst | (apply of_fst; assumption)
    | split | apply fst_mk | refine of_fst_eq (by assumption) ?_ | apply_assumption
    | (apply of_fst; apply_assumption) | (apply of_snd; apply_assumption)
theorem trClose_follows (hktabs : kp.tabs = false) (h0 : Follows kp b0 s) (tid res : Nat) (keep : Option TransitRec)
    : Follows kp b0 (trClose s tid res keep) := by
  unfold trClose
  with_reducible repeat' first
    | assumption
    | (extract_lets +onlyGivenNames x; refine cut_follows (kp := kp) (b := b0) (s := x) (fun _ => ?_) ?_; clear_value x; on_goal 2 => subst x)
    | (extract_lets +onlyGivenNames x; clear_value x) | apply drainGo_follows | apply foldGo_follows
    | apply ntfPart_follows | apply satF_follows | apply setFold_follows | apply setTrRec_follows
    | apply showInflight_follows | apply ticketPut_follows | apply trEvent_follows | apply wf_follows | split
    | (fail_if_no_progress apply upd_follows)
theorem sendTuneCancel_follows (h0 : Follows kp b0 s) (c tid x : Nat) : Follows kp b0 (sendTuneCancel s c tid x) := by
  unfold sendTuneCancel
  with_reducible repeat' first
    | assumption | apply tcmSend_follows
theorem trBack_follows (hktabs : kp.tabs = false) (h0 : Follows kp b0 s) (tid res : Nat) (cancel : Bool) : Follows kp
    b0 (trBack s tid res cancel) := by
  unfold trBack
  with_reducible repeat' first
    | assumption
    | (extract_lets +onlyGivenNames x; refine cut_follows (kp := kp) (b := b0) (s := x) (fun _ => ?_) ?_; clear_value x; on_goal 2 => subst x)
    | (extract_lets +onlyGivenNames x; clear_value x) | apply sendTuneCancel_follows | apply tcmForget_follows
    | apply termData_follows | apply trClose_follows | split
theorem trLost_follows (hktabs : kp.tabs = false) (h0 : Follows kp b0 s) (tid det res : Nat) : Follows kp b0 (trLost
    s tid det res) := by
  unfold trLost
  with_reducible repeat' first
    | assumption | apply termData_follows | apply trClose_follows
theorem fromBundle_follows (h0 : Follows kp b0 s) (c tid : Nat) (b : List KeyMove) (is : List Nat) : Follows kp b0
    (fromBundle s c tid b is) := by
  unfold fromBundle
  with_reducible repeat' first
    | assumption | intro _
    | (extract_lets +onlyGivenNames x; refine cut_follows (kp := kp) (b := b0) (s := x) (fun _ => ?_) ?_; clear_value x; on_goal 2 => subst x)
    | (extract_lets +onlyGivenNames x; clear_value x) | apply keyResume_follows | apply foldl_follows | split
theorem moveSlots_follows (h0 : Follows kp b0 s) (src dest tid : Nat) (b : List KeyMove) (is : List Nat) : Follows kp
    b0 (moveSlots s src dest tid b is) := by
  unfold moveSlots
  with_reducible repeat' first
    | assumption | intro _
    | (extract_lets +onlyGivenNames x; refine cut_follows (kp := kp) (b := b0) (s := x) (fun _ => ?_) ?_; clear_value x; on_goal 2 => subst x)
    | (extract_lets +onlyGivenNames x; clear_value x) | apply fromBundle_follows | apply keyErase_follows
    | apply keyPlace_follows | apply setKeyFld_follows | apply foldl_follows | split
    | (fail_if_no_progress apply upd_follows)
theorem partialsLost_follows (h0 : Follows kp b0 s) (c tid : Nat) : Follows kp b0 (partialsLost s c tid) := by
  unfold partialsLost
  with_reducible repeat' first
    | assumption | intro _
    | (extract_lets +onlyGivenNames x; refine cut_follows (kp := kp) (b := b0) (s := x) (fun _ => ?_) ?_; clear_value x; on_goal 2 => subst x)
    | (extract_lets +onlyGivenNames x; clear_value x) | apply ctxDrop_follows | apply pmAdd_follows
    | (fail_if_no_progress apply upd_follows)
theorem trNoAckEnd_follows (hktabs : kp.tabs = false) (h0 : Follows kp b0 s) (tid : Nat) (keep : TransitRec) :
    Follows kp b0 (trNoAckEnd s tid keep) := by
  unfold trNoAckEnd
  with_reducible repeat' first
    | assumption | apply setTrRec_follows | apply trClose_follows | apply wf_follows | split
theorem trNoAck_follows (hktabs : kp.tabs = false) (h0 : Follows kp b0 s) (tid : Nat) : Follows kp b0 (trNoAck s tid)
    := by
  unfold trNoAck
  with_reducible repeat' first
    | assumption | apply termData_follows | apply trNoAckEnd_follows
theorem trDestLost_follows (hktabs : kp.tabs = false) (h0 : Follows kp b0 s) (tid : Nat) : Follows kp b0 (trDestLost
    s tid) := by
  unfold trDestLost
  with_reducible repeat' first
    | assumption | intro _
    | (extract_lets +onlyGivenNames x; refine cut_follows (kp := kp) (b := b0) (s := x) (fun _ => ?_) ?_; clear_value x; on_goal 2 => subst x)
    | (extract_lets +onlyGivenNames x; clear_value x) | apply fromBundle_follows | apply partialsLost_follows
    | apply sendKek_follows | apply setInfo_follows | apply trBack_follows | apply trLost_follows | apply wf_follows
    | split
theorem trSrcLost_follows (hktabs : kp.tabs = false) (h0 : Follows kp b0 s) (tid : Nat) : Follows kp b0 (trSrcLost s
    tid) := by
  unfold trSrcLost
  with_reducible repeat' first
    | assumption | apply trLost_follows | split
theorem trChanLost_follows (hktabs : kp.tabs = false) (h0 : Follows kp b0 s) (c : Nat) : Follows kp b0 (trChanLost s
    c) := by
  unfold trChanLost
  with_reducible repeat' first
    | assumption | intro _ | apply trDestLost_follows | apply trSrcLost_follows | apply foldl_follows | split
theorem trEndBefore_follows (hktabs : kp.tabs = false) (h0 : Follows kp b0 s) (t res : Nat) (p : State → Nat → Bool)
    : Follows kp b0 (trEndBefore s t res p) := by
  unfold trEndBefore
  with_reducible repeat' first
    | assumption | intro _ | apply trBack_follows | apply foldl_follows | split
theorem trLastGasp_follows (hktabs : kp.tabs = false) (h0 : Follows kp b0 s) (tid : Nat) : Follows kp b0 (trLastGasp
    s tid) := by
  unfold trLastGasp
  with_reducible repeat' first
    | assumption | apply trLost_follows
theorem trReset_follows (hktabs : kp.tabs = false) (h0 : Follows kp b0 s) (t : Nat) : Follows kp b0 (trReset s t) :=
    by
  unfold trReset
  with_reducible repeat' first
    | assumption | intro _ | apply trClose_follows | apply foldl_follows
theorem trDisabled_follows (hktabs : kp.tabs = false) (h0 : Follows kp b0 s) (tid : Nat) : Follows kp b0 (trDisabled
    s tid) := by
  unfold trDisabled
  with_reducible repeat' first
    | assumption | apply trClose_follows
theorem trLanded_follows (hktabs : kp.tabs = false) (h0 : Follows kp b0 s) (tid : Nat) : Follows kp b0 (trLanded s
    tid) := by
  unfold trLanded
  with_reducible repeat' first
    | assumption | apply termData_follows | apply trClose_follows

end Sys2Proof.Machine
end

