-- ==== Sys2Proof/Laws/TransitKeeps.lean ====
section
/-! SUPPORT. What the functions of Machine/Transit.lean keep (Follows), one lemma each. -/
namespace Sys2Proof.Machine

set_option linter.all false
variable {kp : Keep} {b b0 s : State}

theorem trResult_follows (h0 : Follows kp b0 s) (who : Requester) (t tid : Nat) (st : Status) (x : Nat) : Follows kp
    b0 (trResult s who t tid st x) := by
  unfold trResult
  with_reducible repeat' first
    | assumption
    | (extract_lets +onlyGivenNames x; refine cut_follows (kp := kp) (b := b0) (s := x) (fun _ => ?_) ?_; clear_value x; on_goal 2 => subst x)
    | (extract_lets +onlyGivenNames x; clear_value x) | apply wrReq_follows
theorem trCancel_follows (hktabs : kp.tabs = false) (h0 : Follows kp b0 s) (tid ofs : Nat) : FollowsSnd kp b0
    (trCancel s tid ofs) := by
  unfold trCancel
  with_reducible repeat' first
    | assumption | apply trBack_follows | (apply of_snd; assumption) | split | apply snd_mk
    | refine of_snd_eq (by assumption) ?_
theorem trReqWrite_follows (hktabs : kp.tabs = false) (h0 : Follows kp b0 s) (who : Requester) (t v ofs : Nat) :
    Follows kp b0 (trReqWrite s who t v ofs) := by
  unfold trReqWrite
  with_reducible repeat' first
    | assumption | intro _
    | (extract_lets +onlyGivenNames x; refine cut_follows (kp := kp) (b := b0) (s := x) (fun _ => ?_) ?_; clear_value x; on_goal 2 => subst x)
    | (extract_lets +onlyGivenNames x; refine cut_fst (kp := kp) (b := b0) (p := x) (fun _ => ?_) ?_; clear_value x; on_goal 2 => subst x)
    | (extract_lets +onlyGivenNames x; refine cut_snd (kp := kp) (b := b0) (p := x) (fun _ => ?_) ?_; clear_value x; on_goal 2 => subst x)
    | (extract_lets +onlyGivenNames x; refine cut_fun (kp := kp) (b := b0) (f := x) (fun _ => ?_) ?_; clear_value x; on_goal 2 => subst x)
    | (extract_lets +onlyGivenNames x; refine cut_fun2 (kp := kp) (b := b0) (f := x) (fun _ => ?_) ?_; clear_value x; on_goal 2 => subst x)
    | (extract_lets +onlyGivenNames x; refine cut_fun3 (kp := kp) (b := b0) (f := x) (fun _ => ?_) ?_; clear_value x; on_goal 2 => subst x)
    | (extract_lets +onlyGivenNames x; refine cut_fun4 (kp := kp) (b := b0) (f := x) (fun _ => ?_) ?_; clear_value x; on_goal 2 => subst x)
    | (extract_lets +onlyGivenNames x; refine cut_fun5 (kp := kp) (b := b0) (f := x) (fun _ => ?_) ?_; clear_value x; on_goal 2 => subst x)
    | (extract_lets +onlyGivenNames x; refine cut_fun6 (kp := kp) (b := b0) (f := x) (fun _ => ?_) ?_; clear_value x; on_goal 2 => subst x)
    | (extract_lets +onlyGivenNames x; clear_value x) | apply cnt32_follows | apply noteWrite_follows
    | apply raise_follows | apply trCancel_follows | (apply of_snd; apply trCancel_follows)
    | apply trRequest_follows | (apply of_fst; apply trRequest_follows) | apply trResult_follows
    | apply wrDown_follows | apply wrNotOwner_follows | apply wrOk_follows | apply wrRefuse_follows
    | (apply of_fst; assumption) | (apply of_snd; assumption) | split | apply fst_mk | apply snd_mk
    | refine of_fst_eq (by assumption) ?_ | refine of_snd_eq (by assumption) ?_ | apply_assumption
    | (apply of_fst; apply_assumption) | (apply of_snd; apply_assumption)
theorem cmdTermTransit_follows (hktabs : kp.tabs = false) (h0 : Follows kp b0 s) (c : CmdCtx) (tid w x ofs : Nat) :
    Follows kp b0 (cmdTermTransit s c tid w x ofs) := by
  unfold cmdTermTransit
  with_reducible repeat' first
    | assumption | intro _
    | (extract_lets +onlyGivenNames x; refine cut_follows (kp := kp) (b := b0) (s := x) (fun _ => ?_) ?_; clear_value x; on_goal 2 => subst x)
    | (extract_lets +onlyGivenNames x; refine cut_fst (kp := kp) (b := b0) (p := x) (fun _ => ?_) ?_; clear_value x; on_goal 2 => subst x)
    | (extract_lets +onlyGivenNames x; refine cut_fun (kp := kp) (b := b0) (f := x) (fun _ => ?_) ?_; clear_value x; on_goal 2 => subst x)
    | (extract_lets +onlyGivenNames x; refine cut_fun2 (kp := kp) (b := b0) (f := x) (fun _ => ?_) ?_; clear_value x; on_goal 2 => subst x)
    | (extract_lets +onlyGivenNames x; refine cut_fun3 (kp := kp) (b := b0) (f := x) (fun _ => ?_) ?_; clear_value x; on_goal 2 => subst x)
    | (extract_lets +onlyGivenNames x; refine cut_fun4 (kp := kp) (b := b0) (f := x) (fun _ => ?_) ?_; clear_value x; on_goal 2 => subst x)
    | (extract_lets +onlyGivenNames x; refine cut_fun5 (kp := kp) (b := b0) (f := x) (fun _ => ?_) ?_; clear_value x; on_goal 2 => subst x)
    | (extract_lets +onlyGivenNames x; refine cut_fun6 (kp := kp) (b := b0) (f := x) (fun _ => ?_) ?_; clear_value x; on_goal 2 => subst x)
    | (extract_lets +onlyGivenNames x; clear_value x) | apply cmdPut_follows | apply cmdStale_follows
    | apply trRequest_follows | (apply of_fst; apply trRequest_follows) | (apply of_fst; assumption) | split
    | apply fst_mk | refine of_fst_eq (by assumption) ?_ | apply_assumption | (apply of_fst; apply_assumption)
    | (apply of_snd; apply_assumption) | (fail_if_no_progress apply upd_follows)
theorem trArm_follows (h0 : Follows kp b0 s) (tid : Nat) : Follows kp b0 (trArm s tid) := by
  unfold trArm
  with_reducible repeat' first
    | assumption | apply setPhase_follows | apply setTrRec_follows | split | (fail_if_no_progress apply upd_follows)
theorem trSwitch_follows (h0 : Follows kp b0 s) (tid : Nat) : Follows kp b0 (trSwitch s tid) := by
  unfold trSwitch
  with_reducible repeat' first
    | assumption | intro _
    | (extract_lets +onlyGivenNames x; refine cut_follows (kp := kp) (b := b0) (s := x) (fun _ => ?_) ?_; clear_value x; on_goal 2 => subst x)
    | (extract_lets +onlyGivenNames x; clear_value x) | apply pmSuspectMark_follows | apply sendKek_follows
    | apply setInfo_follows | apply setPhase_follows | apply setTcmQueue_follows | apply tcmResend_follows
    | apply termFresh_follows | apply tlrInvalidate_follows | split | (fail_if_no_progress apply upd_follows)
theorem trDsMove_follows (h0 : Follows kp b0 s) (tid : Nat) : Follows kp b0 (trDsMove s tid) := by
  unfold trDsMove
  with_reducible repeat' first
    | assumption | apply moveSlots_follows | apply wb_follows | split
theorem trUsKeys_follows (h0 : Follows kp b0 s) (tid : Nat) : Follows kp b0 (trUsKeys s tid) := by
  unfold trUsKeys
  with_reducible repeat' first
    | assumption | intro _
    | (extract_lets +onlyGivenNames x; refine cut_follows (kp := kp) (b := b0) (s := x) (fun _ => ?_) ?_; clear_value x; on_goal 2 => subst x)
    | (extract_lets +onlyGivenNames x; clear_value x) | apply keyEraseTerm_follows | apply moveSlots_follows
    | apply partialsLost_follows | apply setPhase_follows | apply tlrInvalidate_follows | apply wb_follows | split
theorem showEclipsed_follows (h0 : Follows kp b0 s) (t : Nat) : Follows kp b0 (showEclipsed s t) := by
  unfold showEclipsed
  with_reducible repeat' first
    | assumption | intro _ | apply wf_follows
theorem eclipseEntering_follows (hktabs : kp.tabs = false) (h0 : Follows kp b0 s) (c : Nat) : Follows kp b0
    (eclipseEntering s c) := by
  unfold eclipseEntering
  with_reducible repeat' first
    | assumption | intro _
    | (extract_lets +onlyGivenNames x; refine cut_follows (kp := kp) (b := b0) (s := x) (fun _ => ?_) ?_; clear_value x; on_goal 2 => subst x)
    | (extract_lets +onlyGivenNames x; clear_value x) | apply drainGo_follows | apply trEndBefore_follows
    | apply treeFollow_follows | apply unitAccept_follows
theorem eclipseAct_follows (hktabs : kp.tabs = false) (h0 : Follows kp b0 s) (c v : Nat) : FollowsExc kp b0
    (eclipseAct c v s) := by
  unfold eclipseAct
  with_reducible repeat' first
    | assumption
    | (extract_lets +onlyGivenNames x; refine cut_follows (kp := kp) (b := b0) (s := x) (fun _ => ?_) ?_; clear_value x; on_goal 2 => subst x)
    | (extract_lets +onlyGivenNames x; clear_value x) | apply eclipseEntering_follows | apply setIsl_follows
    | apply showEclipsed_follows | apply treeFollow_follows | apply unitAccept_follows | apply exc_ok
    | apply exc_error | split | refine of_exc_eq (by assumption) ?_
theorem eclipseWrite_follows (hktabs : kp.tabs = false) (h0 : Follows kp b0 s) (who : Requester) (c expect v : Nat) :
    Follows kp b0 (eclipseWrite s who c expect v) := by
  unfold eclipseWrite
  with_reducible repeat' first
    | assumption | intro _ | apply eclipseAct_follows | apply unitWriteR_follows | apply exc_ok | apply exc_error
    | refine of_exc_eq (by assumption) ?_
theorem eclipseEnter_follows (hktabs : kp.tabs = false) (h0 : Follows kp b0 s) (c : Nat) : Follows kp b0
    (eclipseEnter s c) := by
  unfold eclipseEnter
  with_reducible repeat' first
    | assumption
    | (extract_lets +onlyGivenNames x; refine cut_follows (kp := kp) (b := b0) (s := x) (fun _ => ?_) ?_; clear_value x; on_goal 2 => subst x)
    | (extract_lets +onlyGivenNames x; clear_value x) | apply chnChange_follows | apply clearTlrs_follows
    | apply foldGo_follows | apply keyEraseChan_follows | apply pmSuspectMark_follows | apply satF_follows
    | apply setIsl_follows | apply showEclipsed_follows | split
theorem eclTimeout_follows (h0 : Follows kp b0 s) (c : Nat) : Follows kp b0 (eclTimeout s c) := by
  unfold eclTimeout
  with_reducible repeat' first
    | assumption
    | (extract_lets +onlyGivenNames x; refine cut_follows (kp := kp) (b := b0) (s := x) (fun _ => ?_) ?_; clear_value x; on_goal 2 => subst x)
    | (extract_lets +onlyGivenNames x; clear_value x) | apply chnChange_follows | apply trEvent_follows
    | apply wf_follows | split
theorem wakeComplete_follows (h0 : Follows kp b0 s) (c ms : Nat) : Follows kp b0 (wakeComplete s c ms) := by
  unfold wakeComplete
  with_reducible repeat' first
    | assumption | intro _
    | (extract_lets +onlyGivenNames x; refine cut_follows (kp := kp) (b := b0) (s := x) (fun _ => ?_) ?_; clear_value x; on_goal 2 => subst x)
    | (extract_lets +onlyGivenNames x; clear_value x) | apply chnChange_follows | apply setFold_follows
    | apply trEvent_follows | apply wf_follows | split
theorem unfold_follows (hktabs : kp.tabs = false) (h0 : Follows kp b0 s) (t aw : Nat) : Follows kp b0 (unfold s t aw)
    := by
  unfold unfold
  with_reducible repeat' first
    | assumption | intro _
    | (extract_lets +onlyGivenNames x; refine cut_follows (kp := kp) (b := b0) (s := x) (fun _ => ?_) ?_; clear_value x; on_goal 2 => subst x)
    | (extract_lets +onlyGivenNames x; clear_value x) | apply eclipseAct_follows | apply setFold_follows
    | apply trEvent_follows | apply foldl_follows | apply exc_ok | apply exc_error | split
    | refine of_exc_eq (by assumption) ?_
theorem foldMinute_follows (hktabs : kp.tabs = false) (h0 : Follows kp b0 s) (t load anchorLoad : Nat) : Follows kp
    b0 (foldMinute s t load anchorLoad) := by
  unfold foldMinute
  with_reducible repeat' first
    | assumption
    | (extract_lets +onlyGivenNames x; refine cut_follows (kp := kp) (b := b0) (s := x) (fun _ => ?_) ?_; clear_value x; on_goal 2 => subst x)
    | (extract_lets +onlyGivenNames x; clear_value x) | apply foldGo_follows | apply setFold_follows
    | apply unfold_follows | apply wf_follows | split | (fail_if_no_progress apply upd_follows)
theorem balanceCheck_follows (hktabs : kp.tabs = false) (h0 : Follows kp b0 s) (t : Nat) (loads terms : List (Nat ×
    Nat)) : Follows kp b0 (balanceCheck s t loads terms) := by
  unfold balanceCheck
  with_reducible repeat' first
    | assumption | intro _
    | (extract_lets +onlyGivenNames x; refine cut_follows (kp := kp) (b := b0) (s := x) (fun _ => ?_) ?_; clear_value x; on_goal 2 => subst x)
    | (extract_lets +onlyGivenNames x; refine cut_fst (kp := kp) (b := b0) (p := x) (fun _ => ?_) ?_; clear_value x; on_goal 2 => subst x)
    | (extract_lets +onlyGivenNames x; clear_value x) | apply trRequest_follows
    | (apply of_fst; apply trRequest_follows) | apply foldl_follows | apply foldl_fst | (apply of_fst; assumption)
    | split | apply fst_mk | refine of_fst_eq (by assumption) ?_
theorem execTransitReqStart_follows (s : State) (who : Requester) (t value ofs : Nat) : ∃ t0, execTransitReqStart who
    t value ofs s = .next t0 ∧ Follows ⟨true, true, false⟩ s t0 := by
  refine ⟨_, rfl, ?_⟩
  have h0 := Follows.refl ⟨true, true, false⟩ s
  with_reducible repeat' first
    | assumption | exact rfl | apply trReqWrite_follows | split
theorem execTransitReqCancel_follows (s : State) (who : Requester) (t value ofs : Nat) : ∃ t0, execTransitReqCancel
    who t value ofs s = .next t0 ∧ Follows ⟨true, true, false⟩ s t0 := by
  refine ⟨_, rfl, ?_⟩
  have h0 := Follows.refl ⟨true, true, false⟩ s
  with_reducible repeat' first
    | assumption | exact rfl | apply trReqWrite_follows | split
theorem execTransitSwitch_follows (s : State) (tid : Nat) : ∃ t0, execTransitSwitch tid s = .next t0 ∧ Follows ⟨true,
    true, true⟩ s t0 := by
  refine ⟨_, rfl, ?_⟩
  have h0 := Follows.refl ⟨true, true, true⟩ s
  with_reducible repeat' first
    | assumption | exact rfl | apply trSwitch_follows
theorem execTransitDsKeysMoved_follows (s : State) (tid : Nat) : ∃ t0, execTransitDsKeysMoved tid s = .next t0 ∧
    Follows ⟨true, true, true⟩ s t0 := by
  refine ⟨_, rfl, ?_⟩
  have h0 := Follows.refl ⟨true, true, true⟩ s
  with_reducible repeat' first
    | assumption | exact rfl | apply trDsMove_follows
theorem execEclipseEnter_follows (s : State) (c : Nat) : ∃ t0, execEclipseEnter c s = .next t0 ∧ Follows ⟨true, true,
    false⟩ s t0 := by
  refine ⟨_, rfl, ?_⟩
  have h0 := Follows.refl ⟨true, true, false⟩ s
  with_reducible repeat' first
    | assumption | exact rfl | apply eclipseEnter_follows
theorem execEclTimeout_follows (s : State) (c : Nat) : ∃ t0, execEclTimeout c s = .next t0 ∧ Follows ⟨true, true,
    true⟩ s t0 := by
  refine ⟨_, rfl, ?_⟩
  have h0 := Follows.refl ⟨true, true, true⟩ s
  with_reducible repeat' first
    | assumption | exact rfl | apply eclTimeout_follows
theorem execWakeComplete_follows (s : State) (c ms : Nat) : ∃ t0, execWakeComplete c ms s = .next t0 ∧ Follows ⟨true,
    true, true⟩ s t0 := by
  refine ⟨_, rfl, ?_⟩
  have h0 := Follows.refl ⟨true, true, true⟩ s
  with_reducible repeat' first
    | assumption | exact rfl | apply wakeComplete_follows
theorem execChnStateEclipseEntering_follows (s : State) (who : Requester) (c expect : Nat) : ∃ t0,
    execChnStateEclipseEntering who c expect s = .next t0 ∧ Follows ⟨true, true, false⟩ s t0 := by
  refine ⟨_, rfl, ?_⟩
  have h0 := Follows.refl ⟨true, true, false⟩ s
  with_reducible repeat' first
    | assumption | exact rfl | apply eclipseWrite_follows
theorem execChnStateWaking_follows (s : State) (who : Requester) (c expect : Nat) : ∃ t0, execChnStateWaking who c
    expect s = .next t0 ∧ Follows ⟨true, true, false⟩ s t0 := by
  refine ⟨_, rfl, ?_⟩
  have h0 := Follows.refl ⟨true, true, false⟩ s
  with_reducible repeat' first
    | assumption | exact rfl | apply eclipseWrite_follows
theorem execFoldMinute_follows (s : State) (t load anchorLoad : Nat) : ∃ t0, execFoldMinute t load anchorLoad s =
    .next t0 ∧ Follows ⟨true, true, false⟩ s t0 := by
  refine ⟨_, rfl, ?_⟩
  have h0 := Follows.refl ⟨true, true, false⟩ s
  with_reducible repeat' first
    | assumption | exact rfl | apply foldMinute_follows
theorem execBalanceCheck_follows (s : State) (t : Nat) (loads terms : List (Nat × Nat)) : ∃ t0, execBalanceCheck t
    loads terms s = .next t0 ∧ Follows ⟨true, true, false⟩ s t0 := by
  refine ⟨_, rfl, ?_⟩
  have h0 := Follows.refl ⟨true, true, false⟩ s
  with_reducible repeat' first
    | assumption | exact rfl | apply balanceCheck_follows
theorem execTermTransit_follows (s : State) (r tid w x ofs : Nat) : ∃ t0, execTermTransit r tid w x ofs s = .next t0
    ∧ Follows ⟨true, true, false⟩ s t0 := by
  refine ⟨_, rfl, ?_⟩
  have h0 := Follows.refl ⟨true, true, false⟩ s
  with_reducible repeat' first
    | assumption | exact rfl | intro _ | apply cmdTermTransit_follows | apply runCmd_follows

end Sys2Proof.Machine
end

