-- ==== Sys2Proof/Laws/RegisterKeeps.lean ====
section
/-! SUPPORT. What the functions of Machine/Register.lean keep (Follows), one lemma each. -/
namespace Sys2Proof.Machine

set_option linter.all false
variable {kp : Keep} {b b0 s : State}

theorem sendDisable_follows (h0 : Follows kp b0 s) (tid typ : Nat) : Follows kp b0 (sendDisable s tid typ) := by
  unfold sendDisable
  with_reducible repeat' first
    | assumption
    | (extract_lets +onlyGivenNames x; refine cut_follows (kp := kp) (b := b0) (s := x) (fun _ => ?_) ?_; clear_value x; on_goal 2 => subst x)
    | (extract_lets +onlyGivenNames x; clear_value x) | apply emit_follows | apply tcmSend_follows | split
theorem sendAssign_follows (h0 : Follows kp b0 s) (tid val : Nat) (ack : Bool) : Follows kp b0 (sendAssign s tid val
    ack) := by
  unfold sendAssign
  with_reducible repeat' first
    | assumption
    | (extract_lets +onlyGivenNames x; refine cut_follows (kp := kp) (b := b0) (s := x) (fun _ => ?_) ?_; clear_value x; on_goal 2 => subst x)
    | (extract_lets +onlyGivenNames x; clear_value x) | apply tcmSend_follows
theorem sendTod_follows (h0 : Follows kp b0 s) (tid : Nat) : Follows kp b0 (sendTod s tid) := by
  unfold sendTod
  with_reducible repeat' first
    | assumption
    | (extract_lets +onlyGivenNames x; refine cut_follows (kp := kp) (b := b0) (s := x) (fun _ => ?_) ?_; clear_value x; on_goal 2 => subst x)
    | (extract_lets +onlyGivenNames x; clear_value x) | apply nextFree_follows | apply tcmSend_follows | split
theorem sendRanging_follows (h0 : Follows kp b0 s) (tid eqd : Nat) : Follows kp b0 (sendRanging s tid eqd) := by
  unfold sendRanging
  with_reducible repeat' first
    | assumption
    | (extract_lets +onlyGivenNames x; refine cut_follows (kp := kp) (b := b0) (s := x) (fun _ => ?_) ?_; clear_value x; on_goal 2 => subst x)
    | (extract_lets +onlyGivenNames x; clear_value x) | apply nextFree_follows | apply sendTod_follows
    | apply setInfo_follows | apply tcmSend_follows
theorem setStep_follows (h0 : Follows kp b0 s) (tid : Nat) (x : RegStep) : Follows kp b0 (setStep s tid x) := by
  unfold setStep
  with_reducible repeat' first
    | assumption | (fail_if_no_progress apply upd_follows)
theorem endStep_follows (h0 : Follows kp b0 s) (tid : Nat) : Follows kp b0 (endStep s tid) := by
  unfold endStep
  with_reducible repeat' first
    | assumption | (fail_if_no_progress apply upd_follows)
theorem regStart_follows (h0 : Follows kp b0 s) (tid : Nat) : Follows kp b0 (regStart s tid) := by
  unfold regStart
  with_reducible repeat' first
    | assumption
    | (extract_lets +onlyGivenNames x; refine cut_follows (kp := kp) (b := b0) (s := x) (fun _ => ?_) ?_; clear_value x; on_goal 2 => subst x)
    | (extract_lets +onlyGivenNames x; clear_value x) | apply emit_follows | apply sendAssign_follows
    | apply setStep_follows | split
theorem keysStart_follows (h0 : Follows kp b0 s) (tid : Nat) : Follows kp b0 (keysStart s tid) := by
  unfold keysStart
  with_reducible repeat' first
    | assumption
    | (extract_lets +onlyGivenNames x; refine cut_follows (kp := kp) (b := b0) (s := x) (fun _ => ?_) ?_; clear_value x; on_goal 2 => subst x)
    | (extract_lets +onlyGivenNames x; clear_value x) | apply emit_follows | apply endStep_follows
    | apply fwInstall_follows | apply setStep_follows | split
theorem regKeyAck_follows (h0 : Follows kp b0 s) (tid : Nat) : Follows kp b0 (regKeyAck s tid) := by
  unfold regKeyAck
  with_reducible repeat' first
    | assumption | apply setStep_follows | apply tcmSend_follows | split
theorem regAck_follows (hktabs : kp.tabs = false) (h0 : Follows kp b0 s) (tid typ : Nat) : Follows kp b0 (regAck s
    tid typ) := by
  unfold regAck
  with_reducible repeat' first
    | assumption | apply endStep_follows | apply regKeyAck_follows | apply sendRanging_follows
    | apply setStep_follows | apply termMgmt_follows | split
theorem regCheck_follows (hktabs : kp.tabs = false) (h0 : Follows kp b0 s) (tid : Nat) (ofs : Int) : Follows kp b0
    (regCheck s tid ofs) := by
  unfold regCheck
  with_reducible repeat' first
    | assumption
    | (extract_lets +onlyGivenNames x; refine cut_follows (kp := kp) (b := b0) (s := x) (fun _ => ?_) ?_; clear_value x; on_goal 2 => subst x)
    | (extract_lets +onlyGivenNames x; clear_value x) | apply endStep_follows | apply keysStart_follows
    | apply sendRanging_follows | apply setStep_follows | apply termMgmt_follows | split
theorem takeSlot_follows (h0 : Follows kp b0 s) (tid ser : Nat) : Follows kp b0 (takeSlot s tid ser) := by
  unfold takeSlot
  with_reducible repeat' first
    | assumption | intro _
    | (extract_lets +onlyGivenNames x; refine cut_follows (kp := kp) (b := b0) (s := x) (fun _ => ?_) ?_; clear_value x; on_goal 2 => subst x)
    | (extract_lets +onlyGivenNames x; clear_value x) | split | (fail_if_no_progress apply upd_follows)
theorem putArrival_follows (h0 : Follows kp b0 s) (tid : Nat) (a : Arrival) : Follows kp b0 (putArrival s tid a) := by
  unfold putArrival
  with_reducible repeat' first
    | assumption
    | (extract_lets +onlyGivenNames x; refine cut_follows (kp := kp) (b := b0) (s := x) (fun _ => ?_) ?_; clear_value x; on_goal 2 => subst x)
    | (extract_lets +onlyGivenNames x; clear_value x) | apply sendKek_follows | apply setInfo_follows
    | (fail_if_no_progress apply upd_follows)
theorem authRequest_follows (h0 : Follows kp b0 s) (tid : Nat) (a : Arrival) : Follows kp b0 (authRequest s tid a) :=
    by
  unfold authRequest
  with_reducible repeat' first
    | assumption | apply ntfPf_follows
theorem holdAndAsk_follows (h0 : Follows kp b0 s) (tid : Nat) (a : Arrival) : Follows kp b0 (holdAndAsk s tid a) := by
  unfold holdAndAsk
  with_reducible repeat' first
    | assumption | apply authRequest_follows | apply sendAssign_follows | split
theorem arrive_follows (hktabs : kp.tabs = false) (h0 : Follows kp b0 s) (a : Arrival) : Follows kp b0 (arrive s a)
    := by
  unfold arrive
  with_reducible repeat' first
    | assumption
    | (extract_lets +onlyGivenNames x; refine cut_follows (kp := kp) (b := b0) (s := x) (fun _ => ?_) ?_; clear_value x; on_goal 2 => subst x)
    | (extract_lets +onlyGivenNames x; clear_value x) | apply evBit_follows | apply holdAndAsk_follows
    | apply ntfPf_follows | apply putArrival_follows | apply regStart_follows | apply sendAssign_follows
    | apply takeSlot_follows | apply termMgmt_follows | split | (fail_if_no_progress apply upd_follows)
theorem moveSlot_follows (hktabs : kp.tabs = false) (h0 : Follows kp b0 s) (tid new : Nat) : Follows kp b0 (moveSlot
    s tid new) := by
  unfold moveSlot
  with_reducible repeat' first
    | assumption
    | (extract_lets +onlyGivenNames x; refine cut_follows (kp := kp) (b := b0) (s := x) (fun _ => ?_) ?_; clear_value x; on_goal 2 => subst x)
    | (extract_lets +onlyGivenNames x; clear_value x) | apply takeSlot_follows | apply termMgmt_follows
    | apply wrW_follows | split | (fail_if_no_progress apply upd_follows)
theorem cmdTermAuthorize_follows (hktabs : kp.tabs = false) (h0 : Follows kp b0 s) (c : CmdCtx) (ser dec slot part :
    Nat) (kek : List Byte) : FollowsFst kp b0 (cmdTermAuthorize s c ser dec slot part kek) := by
  unfold cmdTermAuthorize
  with_reducible repeat' first
    | assumption
    | (extract_lets +onlyGivenNames x; refine cut_follows (kp := kp) (b := b0) (s := x) (fun _ => ?_) ?_; clear_value x; on_goal 2 => subst x)
    | (extract_lets +onlyGivenNames x; clear_value x) | apply moveSlot_follows | apply regStart_follows
    | apply sendDisable_follows | apply setInfo_follows | apply storeKek_follows | apply termMgmt_follows
    | (apply of_fst; assumption) | split | apply fst_mk | refine of_fst_eq (by assumption) ?_
theorem sendDeactivate_follows (h0 : Follows kp b0 s) (tid : Nat) : Follows kp b0 (sendDeactivate s tid) := by
  unfold sendDeactivate
  with_reducible repeat' first
    | assumption
    | (extract_lets +onlyGivenNames x; refine cut_follows (kp := kp) (b := b0) (s := x) (fun _ => ?_) ?_; clear_value x; on_goal 2 => subst x)
    | (extract_lets +onlyGivenNames x; clear_value x) | apply emit_follows | apply tcmSend_follows | split
theorem termGo_follows (hktabs : kp.tabs = false) (h0 : Follows kp b0 s) (tid dst det : Nat) : Follows kp b0 (termGo
    s tid dst det) := by
  unfold termGo
  with_reducible repeat' first
    | assumption
    | (extract_lets +onlyGivenNames x; refine cut_follows (kp := kp) (b := b0) (s := x) (fun _ => ?_) ?_; clear_value x; on_goal 2 => subst x)
    | (extract_lets +onlyGivenNames x; clear_value x) | apply endStep_follows | apply keysStart_follows
    | apply regStart_follows | apply sendDeactivate_follows | apply sendDisable_follows | apply termMgmt_follows
    | apply trDisabled_follows | split
theorem termAct_follows (hktabs : kp.tabs = false) (h0 : Follows kp b0 s) (tid dst det : Nat) (own0 own3 own11 :
    Bool) : FollowsExc kp b0 (termAct s tid dst det own0 own3 own11) := by
  unfold termAct
  with_reducible repeat' first
    | assumption
    | (extract_lets +onlyGivenNames x; refine cut_follows (kp := kp) (b := b0) (s := x) (fun _ => ?_) ?_; clear_value x; on_goal 2 => subst x)
    | (extract_lets +onlyGivenNames x; clear_value x) | apply termGo_follows | apply exc_ok | apply exc_error
    | split | refine of_exc_eq (by assumption) ?_
theorem termWrite_follows (hktabs : kp.tabs = false) (h0 : Follows kp b0 s) (who : Requester) (tid expect dst det :
    Nat) : Follows kp b0 (termWrite s who tid expect dst det) := by
  unfold termWrite
  with_reducible repeat' first
    | assumption | intro _
    | (extract_lets +onlyGivenNames x; refine cut_follows (kp := kp) (b := b0) (s := x) (fun _ => ?_) ?_; clear_value x; on_goal 2 => subst x)
    | (extract_lets +onlyGivenNames x; refine cut_fun (kp := kp) (b := b0) (f := x) (fun _ => ?_) ?_; clear_value x; on_goal 2 => subst x)
    | (extract_lets +onlyGivenNames x; refine cut_fun2 (kp := kp) (b := b0) (f := x) (fun _ => ?_) ?_; clear_value x; on_goal 2 => subst x)
    | (extract_lets +onlyGivenNames x; refine cut_fun3 (kp := kp) (b := b0) (f := x) (fun _ => ?_) ?_; clear_value x; on_goal 2 => subst x)
    | (extract_lets +onlyGivenNames x; refine cut_fun4 (kp := kp) (b := b0) (f := x) (fun _ => ?_) ?_; clear_value x; on_goal 2 => subst x)
    | (extract_lets +onlyGivenNames x; refine cut_fun5 (kp := kp) (b := b0) (f := x) (fun _ => ?_) ?_; clear_value x; on_goal 2 => subst x)
    | (extract_lets +onlyGivenNames x; refine cut_fun6 (kp := kp) (b := b0) (f := x) (fun _ => ?_) ?_; clear_value x; on_goal 2 => subst x)
    | (extract_lets +onlyGivenNames x; clear_value x) | apply termAct_follows | apply wrDown_follows
    | apply wrNotOwner_follows | apply wrOk_follows | apply wrRefuse_follows | apply wrStale_follows | apply exc_ok
    | apply exc_error | split | refine of_exc_eq (by assumption) ?_ | apply_assumption
    | (apply of_fst; apply_assumption) | (apply of_snd; apply_assumption)
theorem cmdTermState_follows (hktabs : kp.tabs = false) (h0 : Follows kp b0 s) (c : CmdCtx) (tid dst det : Nat) :
    FollowsFst kp b0 (cmdTermState s c tid dst det) := by
  unfold cmdTermState
  with_reducible repeat' first
    | assumption | intro _
    | (extract_lets +onlyGivenNames x; refine cut_follows (kp := kp) (b := b0) (s := x) (fun _ => ?_) ?_; clear_value x; on_goal 2 => subst x)
    | (extract_lets +onlyGivenNames x; refine cut_fun (kp := kp) (b := b0) (f := x) (fun _ => ?_) ?_; clear_value x; on_goal 2 => subst x)
    | (extract_lets +onlyGivenNames x; refine cut_fun2 (kp := kp) (b := b0) (f := x) (fun _ => ?_) ?_; clear_value x; on_goal 2 => subst x)
    | (extract_lets +onlyGivenNames x; refine cut_fun3 (kp := kp) (b := b0) (f := x) (fun _ => ?_) ?_; clear_value x; on_goal 2 => subst x)
    | (extract_lets +onlyGivenNames x; refine cut_fun4 (kp := kp) (b := b0) (f := x) (fun _ => ?_) ?_; clear_value x; on_goal 2 => subst x)
    | (extract_lets +onlyGivenNames x; refine cut_fun5 (kp := kp) (b := b0) (f := x) (fun _ => ?_) ?_; clear_value x; on_goal 2 => subst x)
    | (extract_lets +onlyGivenNames x; refine cut_fun6 (kp := kp) (b := b0) (f := x) (fun _ => ?_) ?_; clear_value x; on_goal 2 => subst x)
    | (extract_lets +onlyGivenNames x; clear_value x) | apply cmdStale_follows | apply termAct_follows
    | (apply of_fst; assumption) | apply exc_ok | apply exc_error | split | apply fst_mk
    | refine of_fst_eq (by assumption) ?_ | refine of_exc_eq (by assumption) ?_ | apply_assumption
    | (apply of_fst; apply_assumption) | (apply of_snd; apply_assumption) | (fail_if_no_progress apply upd_follows)
theorem cmdTermMsg_follows (h0 : Follows kp b0 s) (c : CmdCtx) (tid typ : Nat) (ack : Bool) (body : List Byte) :
    FollowsFst kp b0 (cmdTermMsg s c tid typ ack body) := by
  unfold cmdTermMsg
  with_reducible repeat' first
    | assumption | apply tcmPush_follows | (apply of_fst; assumption) | apply opt_some | apply opt_none
    | apply of_getD | split | apply fst_mk | refine of_fst_eq (by assumption) ?_ | refine of_opt_eq (by assumption) ?_
theorem termInfoWrite_follows (h0 : Follows kp b0 s) (who : Requester) (tid v : Nat) : Follows kp b0 (termInfoWrite s
    who tid v) := by
  unfold termInfoWrite
  with_reducible repeat' first
    | assumption
    | (extract_lets +onlyGivenNames x; refine cut_follows (kp := kp) (b := b0) (s := x) (fun _ => ?_) ?_; clear_value x; on_goal 2 => subst x)
    | (extract_lets +onlyGivenNames x; clear_value x) | apply sendKek_follows | apply wrDown_follows
    | apply wrNotOwner_follows | apply wrOk_follows | apply wrW_follows | split
theorem authTimeout_follows (hktabs : kp.tabs = false) (h0 : Follows kp b0 s) (tid : Nat) : Follows kp b0
    (authTimeout s tid) := by
  unfold authTimeout
  with_reducible repeat' first
    | assumption | apply termData_follows | split
theorem lostTimeout_follows (hktabs : kp.tabs = false) (h0 : Follows kp b0 s) (tid : Nat) : Follows kp b0
    (lostTimeout s tid) := by
  unfold lostTimeout
  with_reducible repeat' first
    | assumption | apply termData_follows | split
theorem execTermWriteFree_follows (s : State) (who : Requester) (tid expect : Nat) : ∃ t0, execTermWriteFree who tid
    expect s = .next t0 ∧ Follows ⟨true, true, false⟩ s t0 := by
  refine ⟨_, rfl, ?_⟩
  have h0 := Follows.refl ⟨true, true, false⟩ s
  with_reducible repeat' first
    | assumption | exact rfl | apply termWrite_follows
theorem execTermWriteAuthWait_follows (s : State) (who : Requester) (tid expect : Nat) : ∃ t0, execTermWriteAuthWait
    who tid expect s = .next t0 ∧ Follows ⟨true, true, false⟩ s t0 := by
  refine ⟨_, rfl, ?_⟩
  have h0 := Follows.refl ⟨true, true, false⟩ s
  with_reducible repeat' first
    | assumption | exact rfl | apply termWrite_follows
theorem execTermWriteRanging_follows (s : State) (who : Requester) (tid expect : Nat) : ∃ t0, execTermWriteRanging
    who tid expect s = .next t0 ∧ Follows ⟨true, true, false⟩ s t0 := by
  refine ⟨_, rfl, ?_⟩
  have h0 := Follows.refl ⟨true, true, false⟩ s
  with_reducible repeat' first
    | assumption | exact rfl | apply termWrite_follows
theorem execTermWriteKeying_follows (s : State) (who : Requester) (tid expect : Nat) : ∃ t0, execTermWriteKeying who
    tid expect s = .next t0 ∧ Follows ⟨true, true, false⟩ s t0 := by
  refine ⟨_, rfl, ?_⟩
  have h0 := Follows.refl ⟨true, true, false⟩ s
  with_reducible repeat' first
    | assumption | exact rfl | apply termWrite_follows
theorem execTermWriteActive_follows (s : State) (who : Requester) (tid expect : Nat) : ∃ t0, execTermWriteActive who
    tid expect s = .next t0 ∧ Follows ⟨true, true, false⟩ s t0 := by
  refine ⟨_, rfl, ?_⟩
  have h0 := Follows.refl ⟨true, true, false⟩ s
  with_reducible repeat' first
    | assumption | exact rfl | apply termWrite_follows
theorem execTermWriteDisabled_follows (s : State) (who : Requester) (tid expect det : Nat) : ∃ t0,
    execTermWriteDisabled who tid expect det s = .next t0 ∧ Follows ⟨true, true, false⟩ s t0 := by
  refine ⟨_, rfl, ?_⟩
  have h0 := Follows.refl ⟨true, true, false⟩ s
  with_reducible repeat' first
    | assumption | exact rfl | apply termWrite_follows
theorem execTermWriteOffline_follows (s : State) (who : Requester) (tid expect : Nat) : ∃ t0, execTermWriteOffline
    who tid expect s = .next t0 ∧ Follows ⟨true, true, false⟩ s t0 := by
  refine ⟨_, rfl, ?_⟩
  have h0 := Follows.refl ⟨true, true, false⟩ s
  with_reducible repeat' first
    | assumption | exact rfl | apply termWrite_follows
theorem execTreTermInfoWrite_follows (s : State) (who : Requester) (tid value : Nat) : ∃ t0, execTreTermInfoWrite who
    tid value s = .next t0 ∧ Follows ⟨true, true, true⟩ s t0 := by
  refine ⟨_, rfl, ?_⟩
  have h0 := Follows.refl ⟨true, true, true⟩ s
  with_reducible repeat' first
    | assumption | exact rfl | apply termInfoWrite_follows
theorem execAuthTimeout_follows (s : State) (tid : Nat) : ∃ t0, execAuthTimeout tid s = .next t0 ∧ Follows ⟨true,
    true, false⟩ s t0 := by
  refine ⟨_, rfl, ?_⟩
  have h0 := Follows.refl ⟨true, true, false⟩ s
  with_reducible repeat' first
    | assumption | exact rfl | apply authTimeout_follows
theorem execLostTimeout_follows (s : State) (tid : Nat) : ∃ t0, execLostTimeout tid s = .next t0 ∧ Follows ⟨true,
    true, false⟩ s t0 := by
  refine ⟨_, rfl, ?_⟩
  have h0 := Follows.refl ⟨true, true, false⟩ s
  with_reducible repeat' first
    | assumption | exact rfl | apply lostTimeout_follows
theorem execTermAuthorize_follows (s : State) (r serial decision slot part : Nat) (kek : List Byte) : ∃ t0,
    execTermAuthorize r serial decision slot part kek s = .next t0 ∧ Follows ⟨true, true, false⟩ s t0 := by
  refine ⟨_, rfl, ?_⟩
  have h0 := Follows.refl ⟨true, true, false⟩ s
  with_reducible repeat' first
    | assumption | exact rfl | intro _ | apply cmdTermAuthorize_follows
    | (apply of_fst; apply cmdTermAuthorize_follows) | apply runCmdNow_follows | (apply of_fst; assumption)
    | apply fst_mk | refine of_fst_eq (by assumption) ?_
theorem execTermState_follows (s : State) (r tid dst det : Nat) : ∃ t0, execTermState r tid dst det s = .next t0 ∧
    Follows ⟨true, true, false⟩ s t0 := by
  refine ⟨_, rfl, ?_⟩
  have h0 := Follows.refl ⟨true, true, false⟩ s
  with_reducible repeat' first
    | assumption | exact rfl | intro _ | apply cmdTermState_follows | (apply of_fst; apply cmdTermState_follows)
    | apply runCmdNow_follows | (apply of_fst; assumption) | apply fst_mk | refine of_fst_eq (by assumption) ?_
theorem execTermMsg_follows (s : State) (r tid typ : Nat) (ack : Bool) (body : List Byte) : ∃ t0, execTermMsg r tid
    typ ack body s = .next t0 ∧ Follows ⟨true, true, true⟩ s t0 := by
  refine ⟨_, rfl, ?_⟩
  have h0 := Follows.refl ⟨true, true, true⟩ s
  with_reducible repeat' first
    | assumption | exact rfl | intro _ | apply cmdTermMsg_follows | (apply of_fst; apply cmdTermMsg_follows)
    | apply runCmdNow_follows | (apply of_fst; assumption) | apply fst_mk | refine of_fst_eq (by assumption) ?_

end Sys2Proof.Machine
end

