-- ==== Sys2Proof/Laws/ComaKeeps.lean ====
section
/-! SUPPORT. What the functions of Machine/Coma.lean keep (Follows), one lemma each. -/
namespace Sys2Proof.Machine

set_option linter.all false
variable {kp : Keep} {b b0 s : State}

theorem comaEpoch_follows (h0 : Follows kp b0 s) (c : Nat) : Follows kp b0 (comaEpoch s c) := by
  unfold comaEpoch
  with_reducible repeat' first
    | assumption
    | (extract_lets +onlyGivenNames x; refine cut_follows (kp := kp) (b := b0) (s := x) (fun _ => ?_) ?_; clear_value x; on_goal 2 => subst x)
    | (extract_lets +onlyGivenNames x; clear_value x) | apply wf_follows | split
    | (fail_if_no_progress apply upd_follows)
theorem bookReg_follows (h : Follows kp b s) (c id n m : Nat) : FollowsOptFst kp b (bookReg s c id n m) := by
  induction n generalizing m with
  | zero => exact optFst_none
  | succ n ih =>
    have h1 := bookFw_follows h c m 2 regSpan true id
    intro p e
    rw [bookReg] at e
    generalize bookFw s c m 2 regSpan true id = o at h1 e
    cases o with
    | none => exact ih _ p e
    | some t => exact Option.some.inj e ▸ h1 t rfl

theorem invite_follows (h0 : Follows kp b0 s) (c k : Nat) (p : Peak) : Follows kp b0 (invite s c k p) := by
  unfold invite
  with_reducible repeat' first
    | assumption
    | (extract_lets +onlyGivenNames x; refine cut_follows (kp := kp) (b := b0) (s := x) (fun _ => ?_) ?_; clear_value x; on_goal 2 => subst x)
    | (extract_lets +onlyGivenNames x; clear_value x) | apply bookReg_follows | apply tcmSend_follows
    | apply optFst_some | apply optFst_none | split | refine of_optFst_eq (by assumption) ?_
    | (fail_if_no_progress apply upd_follows)
theorem comaPost_follows (h0 : Follows kp b0 s) (c : Nat) (peaks : List Peak) : Follows kp b0 (comaPost s c peaks) :=
    by
  unfold comaPost
  with_reducible repeat' first
    | assumption | intro _
    | (extract_lets +onlyGivenNames x; refine cut_follows (kp := kp) (b := b0) (s := x) (fun _ => ?_) ?_; clear_value x; on_goal 2 => subst x)
    | (extract_lets +onlyGivenNames x; refine cut_fun (kp := kp) (b := b0) (f := x) (fun _ => ?_) ?_; clear_value x; on_goal 2 => subst x)
    | (extract_lets +onlyGivenNames x; refine cut_fun2 (kp := kp) (b := b0) (f := x) (fun _ => ?_) ?_; clear_value x; on_goal 2 => subst x)
    | (extract_lets +onlyGivenNames x; refine cut_fun3 (kp := kp) (b := b0) (f := x) (fun _ => ?_) ?_; clear_value x; on_goal 2 => subst x)
    | (extract_lets +onlyGivenNames x; refine cut_fun4 (kp := kp) (b := b0) (f := x) (fun _ => ?_) ?_; clear_value x; on_goal 2 => subst x)
    | (extract_lets +onlyGivenNames x; refine cut_fun5 (kp := kp) (b := b0) (f := x) (fun _ => ?_) ?_; clear_value x; on_goal 2 => subst x)
    | (extract_lets +onlyGivenNames x; refine cut_fun6 (kp := kp) (b := b0) (f := x) (fun _ => ?_) ?_; clear_value x; on_goal 2 => subst x)
    | (extract_lets +onlyGivenNames x; clear_value x) | apply evBit_follows | apply invite_follows
    | apply wf_follows | apply wrW_follows | apply foldl_follows | split | apply_assumption
    | (apply of_fst; apply_assumption) | (apply of_snd; apply_assumption) | (fail_if_no_progress apply upd_follows)
theorem comaParam_follows (h0 : Follows kp b0 s) (c : Nat) : Follows kp b0 (comaParam s c) := by
  unfold comaParam
  with_reducible repeat' first
    | assumption | intro _
    | (extract_lets +onlyGivenNames x; refine cut_follows (kp := kp) (b := b0) (s := x) (fun _ => ?_) ?_; clear_value x; on_goal 2 => subst x)
    | (extract_lets +onlyGivenNames x; clear_value x) | apply tcmSend_follows
theorem quietWindow_follows (h0 : Follows kp b0 s) (c : Nat) : Follows kp b0 (quietWindow s c) := by
  unfold quietWindow
  with_reducible repeat' first
    | assumption | intro _
    | (extract_lets +onlyGivenNames x; refine cut_follows (kp := kp) (b := b0) (s := x) (fun _ => ?_) ?_; clear_value x; on_goal 2 => subst x)
    | (extract_lets +onlyGivenNames x; clear_value x) | apply emit_follows | apply tcmSend_follows
    | apply foldl_follows | split | (fail_if_no_progress apply upd_follows)
theorem invitesLate_follows (h : Follows kp b s) (c n k : Nat) : Follows kp b (invitesLate c n k s) := by
  induction k generalizing s with
  | zero => exact h
  | succ k ih =>
    unfold invitesLate
    split
    · exact h
    · rename_i m t e
      have h1 : Follows kp b t := of_optSnd_eq e (tcmLate_follows h c n)
      clear e
      refine ih ?_
      split
      · extract_lets key src
        split
        · apply invite_follows; with_reducible apply upd_follows; exact h1
        · exact h1
      · extract_lets l src
        apply quietWindow_follows; with_reducible apply upd_follows; exact h1

theorem quietDue_follows (h0 : Follows kp b0 s) (c : Nat) : Follows kp b0 (quietDue s c) := by
  unfold quietDue
  with_reducible repeat' first
    | assumption | apply quietWindow_follows | split
theorem quietNow_follows (h0 : Follows kp b0 s) (t : Nat) : Follows kp b0 (quietNow s t) := by
  unfold quietNow
  with_reducible repeat' first
    | assumption | intro _
    | (extract_lets +onlyGivenNames x; refine cut_follows (kp := kp) (b := b0) (s := x) (fun _ => ?_) ?_; clear_value x; on_goal 2 => subst x)
    | (extract_lets +onlyGivenNames x; clear_value x) | apply quietWindow_follows | apply foldl_follows | split
theorem qwNowWrite_follows (h0 : Follows kp b0 s) (who : Requester) (t : Nat) (v : Word) : Follows kp b0 (qwNowWrite
    s who t v) := by
  unfold qwNowWrite
  with_reducible repeat' first
    | assumption
    | (extract_lets +onlyGivenNames x; refine cut_follows (kp := kp) (b := b0) (s := x) (fun _ => ?_) ?_; clear_value x; on_goal 2 => subst x)
    | (extract_lets +onlyGivenNames x; clear_value x) | apply quietNow_follows | apply wr_follows
    | apply wrDown_follows | apply wrNotOwner_follows | apply wrOk_follows | split
theorem setRogue_follows (h0 : Follows kp b0 s) (t : Nat) (r : RogueSt) : Follows kp b0 (setRogue s t r) := by
  unfold setRogue
  with_reducible repeat' first
    | assumption | (fail_if_no_progress apply upd_follows)
theorem setRogueState_follows (h0 : Follows kp b0 s) (t st : Nat) : Follows kp b0 (setRogueState s t st) := by
  unfold setRogueState
  with_reducible repeat' first
    | assumption | apply wf_follows
theorem probeWindow_follows (h0 : Follows kp b0 s) (t : Nat) (silence : Option (Nat × Nat)) (muted : List Nat := [])
    : Follows kp b0 (probeWindow s t silence muted) := by
  unfold probeWindow
  with_reducible repeat' first
    | assumption
    | (extract_lets +onlyGivenNames x; refine cut_follows (kp := kp) (b := b0) (s := x) (fun _ => ?_) ?_; clear_value x; on_goal 2 => subst x)
    | (extract_lets +onlyGivenNames x; clear_value x) | apply setRogue_follows | apply tcmSend_follows | split
    | (fail_if_no_progress apply upd_follows)
theorem setPhaseR_follows (h0 : Follows kp b0 s) (t : Nat) (p : RoguePhase) : Follows kp b0 (setPhaseR s t p) := by
  unfold setPhaseR
  with_reducible repeat' first
    | assumption | apply setRogue_follows | (fail_if_no_progress apply upd_follows)
theorem rogueStop_follows (h0 : Follows kp b0 s) (t st : Nat) : Follows kp b0 (rogueStop s t st) := by
  unfold rogueStop
  with_reducible repeat' first
    | assumption | apply setRogue_follows | apply setRogueState_follows | (fail_if_no_progress apply upd_follows)
theorem rogueStart_follows (hktabs : kp.tabs = false) (h0 : Follows kp b0 s) (t w : Nat) : Follows kp b0 (rogueStart
    s t w) := by
  unfold rogueStart
  with_reducible repeat' first
    | assumption | intro _
    | (extract_lets +onlyGivenNames x; refine cut_follows (kp := kp) (b := b0) (s := x) (fun _ => ?_) ?_; clear_value x; on_goal 2 => subst x)
    | (extract_lets +onlyGivenNames x; clear_value x) | apply probeWindow_follows | apply setRogue_follows
    | apply trEndBefore_follows | apply wr_follows | (fail_if_no_progress apply upd_follows)
theorem rogueSuspect_follows (hktabs : kp.tabs = false) (h0 : Follows kp b0 s) (c : Nat) : Follows kp b0
    (rogueSuspect s c) := by
  unfold rogueSuspect
  with_reducible repeat' first
    | assumption
    | (extract_lets +onlyGivenNames x; refine cut_follows (kp := kp) (b := b0) (s := x) (fun _ => ?_) ?_; clear_value x; on_goal 2 => subst x)
    | (extract_lets +onlyGivenNames x; clear_value x) | apply evBit_follows | apply rogueStart_follows
    | apply setRogueState_follows | apply wf_follows | split
theorem energyCycle_follows (hktabs : kp.tabs = false) (h0 : Follows kp b0 s) (c : Nat) (e : Bool) : Follows kp b0
    (energyCycle s c e) := by
  unfold energyCycle
  with_reducible repeat' first
    | assumption
    | (extract_lets +onlyGivenNames x; refine cut_follows (kp := kp) (b := b0) (s := x) (fun _ => ?_) ?_; clear_value x; on_goal 2 => subst x)
    | (extract_lets +onlyGivenNames x; clear_value x) | apply pmAddScope_follows | apply rogueSuspect_follows
    | apply wf_follows | split
theorem rogueFound_follows (hktabs : kp.tabs = false) (h0 : Follows kp b0 s) (t sh : Nat) (tid : Option Nat) :
    Follows kp b0 (rogueFound s t sh tid) := by
  unfold rogueFound
  with_reducible repeat' first
    | assumption
    | (extract_lets +onlyGivenNames x; refine cut_follows (kp := kp) (b := b0) (s := x) (fun _ => ?_) ?_; clear_value x; on_goal 2 => subst x)
    | (extract_lets +onlyGivenNames x; clear_value x) | apply nextFree_follows | apply rogueStop_follows
    | apply sendDisable_follows | apply setRogue_follows | apply setRogueState_follows | apply termMgmt_follows
    | apply trDisabled_follows | apply wf_follows | split | (fail_if_no_progress apply upd_follows)
theorem disableBySh_follows (h0 : Follows kp b0 s) (t sh : Nat) : Follows kp b0 (disableBySh s t sh) := by
  unfold disableBySh
  with_reducible repeat' first
    | assumption | apply tcmSend_follows | (fail_if_no_progress apply upd_follows)
theorem rogueTest_follows (hktabs : kp.tabs = false) (h0 : Follows kp b0 s) (t sh : Nat) (tids : List Nat) : Follows
    kp b0 (rogueTest s t sh tids) := by
  unfold rogueTest
  with_reducible repeat' first
    | assumption | intro _
    | (extract_lets +onlyGivenNames x; refine cut_follows (kp := kp) (b := b0) (s := x) (fun _ => ?_) ?_; clear_value x; on_goal 2 => subst x)
    | (extract_lets +onlyGivenNames x; clear_value x) | apply disableBySh_follows | apply probeWindow_follows
    | apply rogueFound_follows | apply sendDisable_follows | apply setPhaseR_follows | apply foldl_follows | split
theorem rogueBit_follows (hktabs : kp.tabs = false) (h0 : Follows kp b0 s) (t bit sh : Nat) (statistical : Bool) :
    Follows kp b0 (rogueBit s t bit sh statistical) := by
  unfold rogueBit
  with_reducible repeat' first
    | assumption | intro _ | apply probeWindow_follows | apply rogueTest_follows | apply setPhaseR_follows
    | apply stat_follows | split
theorem rogueHalves_follows (h0 : Follows kp b0 s) (t : Nat) (tids : List Nat) : Follows kp b0 (rogueHalves s t tids)
    := by
  unfold rogueHalves
  with_reducible repeat' first
    | assumption | intro _
    | (extract_lets +onlyGivenNames x; refine cut_follows (kp := kp) (b := b0) (s := x) (fun _ => ?_) ?_; clear_value x; on_goal 2 => subst x)
    | (extract_lets +onlyGivenNames x; clear_value x) | apply probeWindow_follows | apply rogueStop_follows
    | apply sendDisable_follows | apply setPhaseR_follows | apply foldl_follows | split
theorem probeEnd_follows (hktabs : kp.tabs = false) (h0 : Follows kp b0 s) (t : Nat) (e : Bool) : Follows kp b0
    (probeEnd s t e) := by
  unfold probeEnd
  with_reducible repeat' first
    | assumption | intro _
    | (extract_lets +onlyGivenNames x; refine cut_follows (kp := kp) (b := b0) (s := x) (fun _ => ?_) ?_; clear_value x; on_goal 2 => subst x)
    | (extract_lets +onlyGivenNames x; clear_value x) | apply probeWindow_follows | apply rogueBit_follows
    | apply rogueFound_follows | apply rogueHalves_follows | apply rogueStop_follows | apply rogueTest_follows
    | apply sendDisable_follows | apply setPhaseR_follows | apply setRogueState_follows | apply stat_follows
    | apply foldl_follows | split
theorem rogueWatch_follows (h0 : Follows kp b0 s) (t : Nat) (e : Bool) : Follows kp b0 (rogueWatch s t e) := by
  unfold rogueWatch
  with_reducible repeat' first
    | assumption
    | (extract_lets +onlyGivenNames x; refine cut_follows (kp := kp) (b := b0) (s := x) (fun _ => ?_) ?_; clear_value x; on_goal 2 => subst x)
    | (extract_lets +onlyGivenNames x; clear_value x) | apply setRogue_follows | apply setRogueState_follows | split
    | (fail_if_no_progress apply upd_follows)
theorem rogueRepeat_follows (h0 : Follows kp b0 s) (t : Nat) : Follows kp b0 (rogueRepeat s t) := by
  unfold rogueRepeat
  with_reducible repeat' first
    | assumption
    | (extract_lets +onlyGivenNames x; refine cut_follows (kp := kp) (b := b0) (s := x) (fun _ => ?_) ?_; clear_value x; on_goal 2 => subst x)
    | (extract_lets +onlyGivenNames x; clear_value x) | apply disableBySh_follows | apply sendDisable_follows | split
theorem rogueCfgWrite_follows (hktabs : kp.tabs = false) (h0 : Follows kp b0 s) (who : Requester) (t : Nat) (v :
    Word) : Follows kp b0 (rogueCfgWrite s who t v) := by
  unfold rogueCfgWrite
  with_reducible repeat' first
    | assumption
    | (extract_lets +onlyGivenNames x; refine cut_follows (kp := kp) (b := b0) (s := x) (fun _ => ?_) ?_; clear_value x; on_goal 2 => subst x)
    | (extract_lets +onlyGivenNames x; clear_value x) | apply rogueStart_follows | apply rogueStop_follows
    | apply wr_follows | apply wrDown_follows | apply wrNotOwner_follows | apply wrOk_follows | split
theorem tcmToHost_follows (h0 : Follows kp b0 s) (c tid : Nat) (msg : List Byte) : Follows kp b0 (tcmToHost s c tid
    msg) := by
  unfold tcmToHost
  with_reducible repeat' first
    | assumption
    | (extract_lets +onlyGivenNames x; refine cut_follows (kp := kp) (b := b0) (s := x) (fun _ => ?_) ?_; clear_value x; on_goal 2 => subst x)
    | (extract_lets +onlyGivenNames x; clear_value x) | apply nextFree_follows | apply toRing_follows
theorem regGrantTaken_follows (h0 : Follows kp b0 s) (c : Nat) (g : GBurst) : Follows kp b0 (regGrantTaken s c g) :=
    by
  unfold regGrantTaken
  with_reducible repeat' first
    | assumption
    | (extract_lets +onlyGivenNames x; refine cut_follows (kp := kp) (b := b0) (s := x) (fun _ => ?_) ?_; clear_value x; on_goal 2 => subst x)
    | (extract_lets +onlyGivenNames x; clear_value x) | (fail_if_no_progress apply upd_follows)
theorem inviteGone_follows (h0 : Follows kp b0 s) (c id : Nat) : Follows kp b0 (inviteGone s c id) := by
  unfold inviteGone
  with_reducible repeat' first
    | assumption | (fail_if_no_progress apply upd_follows)
theorem regCwCount_follows (h0 : Follows kp b0 s) (c : Nat) (cw : CwResult) : Follows kp b0 (regCwCount s c cw) := by
  unfold regCwCount
  with_reducible repeat' first
    | assumption
    | (extract_lets +onlyGivenNames x; refine cut_follows (kp := kp) (b := b0) (s := x) (fun _ => ?_) ?_; clear_value x; on_goal 2 => subst x)
    | (extract_lets +onlyGivenNames x; clear_value x) | apply pmAddScope_follows | split
    | (fail_if_no_progress apply upd_follows)
theorem regLost_follows (h0 : Follows kp b0 s) (c : Nat) (granted : Bool) : Follows kp b0 (regLost s c granted) := by
  unfold regLost
  with_reducible repeat' first
    | assumption
    | (extract_lets +onlyGivenNames x; refine cut_follows (kp := kp) (b := b0) (s := x) (fun _ => ?_) ?_; clear_value x; on_goal 2 => subst x)
    | (extract_lets +onlyGivenNames x; clear_value x) | apply pmAddScope_follows | split
    | (fail_if_no_progress apply upd_follows)
theorem serialAlive_follows (h0 : Follows kp b0 s) (c ser alive : Nat) : FollowsSnd kp b0 (serialAlive s c ser alive)
    := by
  unfold serialAlive
  with_reducible repeat' first
    | assumption | apply aliveCheck_follows | (apply of_snd; apply aliveCheck_follows) | apply evBit_follows
    | (apply of_snd; assumption) | split | apply snd_mk | refine of_snd_eq (by assumption) ?_
theorem firstAlive_follows (h0 : Follows kp b0 s) (c : Nat) (m : List Byte) : Follows kp b0 (firstAlive s c m) := by
  unfold firstAlive
  with_reducible repeat' first
    | assumption | split | (fail_if_no_progress apply upd_follows)
theorem serialReport_follows (hktabs : kp.tabs = false) (h0 : Follows kp b0 s) (c : Nat) (b : RegBurst) (quiet :
    Bool) (inv : Option Invite) : Follows kp b0 (serialReport s c b quiet inv) := by
  unfold serialReport
  with_reducible repeat' first
    | assumption | intro _
    | (extract_lets +onlyGivenNames x; refine cut_follows (kp := kp) (b := b0) (s := x) (fun _ => ?_) ?_; clear_value x; on_goal 2 => subst x)
    | (extract_lets +onlyGivenNames x; refine cut_snd (kp := kp) (b := b0) (p := x) (fun _ => ?_) ?_; clear_value x; on_goal 2 => subst x)
    | (extract_lets +onlyGivenNames x; clear_value x) | apply arrive_follows | apply firstAlive_follows
    | apply serialAlive_follows | (apply of_snd; apply serialAlive_follows) | apply tcmToHost_follows
    | (apply of_snd; assumption) | split | apply snd_mk | refine of_snd_eq (by assumption) ?_
    | (fail_if_no_progress apply upd_follows)
theorem registration_follows (hktabs : kp.tabs = false) (h0 : Follows kp b0 s) (c : Nat) (b : RegBurst) : Follows kp
    b0 (registration s c b) := by
  unfold registration
  with_reducible repeat' first
    | assumption | intro _
    | (extract_lets +onlyGivenNames x; refine cut_follows (kp := kp) (b := b0) (s := x) (fun _ => ?_) ?_; clear_value x; on_goal 2 => subst x)
    | (extract_lets +onlyGivenNames x; clear_value x) | apply evBit_follows | apply inviteGone_follows
    | apply pmAddScope_follows | apply regCwCount_follows | apply regGrantTaken_follows | apply regLost_follows
    | apply rogueSuspect_follows | apply serialReport_follows | split
theorem execComaEpoch_follows (s : State) (c : Nat) : ∃ t0, execComaEpoch c s = .next t0 ∧ Follows ⟨true, true, true⟩
    s t0 := by
  refine ⟨_, rfl, ?_⟩
  have h0 := Follows.refl ⟨true, true, true⟩ s
  with_reducible repeat' first
    | assumption | exact rfl | intro _ | apply comaEpoch_follows | apply dataUp_follows
theorem execComaCandidatesPosted_follows (s : State) (c : Nat) (peaks : List (Nat × Nat × Nat)) : ∃ t0,
    execComaCandidatesPosted c peaks s = .next t0 ∧ Follows ⟨true, true, true⟩ s t0 := by
  refine ⟨_, rfl, ?_⟩
  have h0 := Follows.refl ⟨true, true, true⟩ s
  with_reducible repeat' first
    | assumption | exact rfl | intro _ | apply comaPost_follows
theorem execRegistrationBurst_follows (s : State) (c : Nat) (cw : CwResult) (hdr : BurstHdr) (msg : List Byte) (ofs :
    Int) (arrival : Nat) (overlap : Bool) : ∃ t0, execRegistrationBurst c cw hdr msg ofs arrival overlap s = .next t0
    ∧ Follows ⟨true, true, false⟩ s t0 := by
  refine ⟨_, rfl, ?_⟩
  have h0 := Follows.refl ⟨true, true, false⟩ s
  with_reducible repeat' first
    | assumption | exact rfl | intro _ | apply dataUp_follows | apply registration_follows
theorem execQuietWindowDue_follows (s : State) (c : Nat) : ∃ t0, execQuietWindowDue c s = .next t0 ∧ Follows ⟨true,
    true, true⟩ s t0 := by
  refine ⟨_, rfl, ?_⟩
  have h0 := Follows.refl ⟨true, true, true⟩ s
  with_reducible repeat' first
    | assumption | exact rfl | apply quietDue_follows
theorem execQwNow_follows (s : State) (who : Requester) (t : Nat) (value : Word) : ∃ t0, execQwNow who t value s =
    .next t0 ∧ Follows ⟨true, true, true⟩ s t0 := by
  refine ⟨_, rfl, ?_⟩
  have h0 := Follows.refl ⟨true, true, true⟩ s
  with_reducible repeat' first
    | assumption | exact rfl | apply qwNowWrite_follows
theorem execRogueStart_follows (s : State) (who : Requester) (t : Nat) (value : Word) : ∃ t0, execRogueStart who t
    value s = .next t0 ∧ Follows ⟨true, true, false⟩ s t0 := by
  refine ⟨_, rfl, ?_⟩
  have h0 := Follows.refl ⟨true, true, false⟩ s
  with_reducible repeat' first
    | assumption | exact rfl | apply rogueCfgWrite_follows
theorem execRogueClear_follows (s : State) (who : Requester) (t : Nat) (value : Word) : ∃ t0, execRogueClear who t
    value s = .next t0 ∧ Follows ⟨true, true, false⟩ s t0 := by
  refine ⟨_, rfl, ?_⟩
  have h0 := Follows.refl ⟨true, true, false⟩ s
  with_reducible repeat' first
    | assumption | exact rfl | apply rogueCfgWrite_follows
theorem execProbeWindowEnd_follows (s : State) (t : Nat) (energy : Bool) : ∃ t0, execProbeWindowEnd t energy s =
    .next t0 ∧ Follows ⟨true, true, false⟩ s t0 := by
  refine ⟨_, rfl, ?_⟩
  have h0 := Follows.refl ⟨true, true, false⟩ s
  with_reducible repeat' first
    | assumption | exact rfl | apply probeEnd_follows
theorem execRogueDisableRepeat_follows (s : State) (t : Nat) : ∃ t0, execRogueDisableRepeat t s = .next t0 ∧ Follows
    ⟨true, true, true⟩ s t0 := by
  refine ⟨_, rfl, ?_⟩
  have h0 := Follows.refl ⟨true, true, true⟩ s
  with_reducible repeat' first
    | assumption | exact rfl | apply rogueRepeat_follows

end Sys2Proof.Machine
end

