-- ==== Sys2Proof/Laws/TcmRxKeeps.lean ====
section
/-! SUPPORT. What the functions of Machine/TcmRx.lean keep (Follows), one lemma each. -/
namespace Sys2Proof.Machine

set_option linter.all false
variable {kp : Keep} {b b0 s : State}

theorem ackTake_follows (hktabs : kp.tabs = false) (h0 : Follows kp b0 s) (tid : Nat) (m : List Byte) : Follows kp b0
    (ackTake s tid m) := by
  unfold ackTake
  with_reducible repeat' first
    | assumption
    | (extract_lets +onlyGivenNames x; refine cut_follows (kp := kp) (b := b0) (s := x) (fun _ => ?_) ?_; clear_value x; on_goal 2 => subst x)
    | (extract_lets +onlyGivenNames x; clear_value x) | apply endStep_follows | apply endWait_follows
    | apply regAck_follows | apply rotAck_follows | apply rotFail_follows | apply trArm_follows
    | apply trBack_follows | split
theorem tuneCaps_follows (h0 : Follows kp b0 s) (tid : Nat) (m : List Byte) : Follows kp b0 (tuneCaps s tid m) := by
  unfold tuneCaps
  with_reducible repeat' first
    | assumption
    | (extract_lets +onlyGivenNames x; refine cut_follows (kp := kp) (b := b0) (s := x) (fun _ => ?_) ?_; clear_value x; on_goal 2 => subst x)
    | (extract_lets +onlyGivenNames x; clear_value x) | apply wf_follows | split
theorem timeInfo_follows (h0 : Follows kp b0 s) (tid : Nat) (m : List Byte) : Follows kp b0 (timeInfo s tid m) := by
  unfold timeInfo
  with_reducible repeat' first
    | assumption | apply sendTod_follows | split | (fail_if_no_progress apply upd_follows)
theorem tcmAct_follows (hktabs : kp.tabs = false) (h0 : Follows kp b0 s) (c tid : Nat) (m : List Byte) : Follows kp
    b0 (tcmAct s c tid m) := by
  unfold tcmAct
  with_reducible repeat' first
    | assumption
    | (extract_lets +onlyGivenNames x; refine cut_follows (kp := kp) (b := b0) (s := x) (fun _ => ?_) ?_; clear_value x; on_goal 2 => subst x)
    | (extract_lets +onlyGivenNames x; clear_value x) | apply ackTake_follows | apply pmAdd_follows
    | apply tcmToHost_follows | apply timeInfo_follows | apply tuneCaps_follows | split
theorem tcmReceive_follows (hktabs : kp.tabs = false) (h0 : Follows kp b0 s) (c tid : Nat) (m : List Byte) : Follows
    kp b0 (tcmReceive s c tid m) := by
  unfold tcmReceive
  with_reducible repeat' first
    | assumption | apply aliveCheck_follows | (apply of_snd; apply aliveCheck_follows) | apply evBit_follows
    | apply tcmAct_follows | (apply of_snd; assumption) | split | apply snd_mk | refine of_snd_eq (by assumption) ?_
    | (fail_if_no_progress apply upd_follows)
theorem ackTimeout_follows (hktabs : kp.tabs = false) (h0 : Follows kp b0 s) (tid : Nat) : Follows kp b0 (ackTimeout
    s tid) := by
  unfold ackTimeout
  with_reducible repeat' first
    | assumption
    | (extract_lets +onlyGivenNames x; refine cut_follows (kp := kp) (b := b0) (s := x) (fun _ => ?_) ?_; clear_value x; on_goal 2 => subst x)
    | (extract_lets +onlyGivenNames x; clear_value x) | apply endWait_follows | apply rotFail_follows
    | apply tcmResend_follows | apply termData_follows | apply trLost_follows | apply trNoAck_follows | split
theorem tcmTxWrite_follows (h0 : Follows kp b0 s) (who : Requester) (c : Nat) (v : Word) : Follows kp b0 (tcmTxWrite
    s who c v) := by
  unfold tcmTxWrite
  with_reducible repeat' first
    | assumption
    | (extract_lets +onlyGivenNames x; refine cut_follows (kp := kp) (b := b0) (s := x) (fun _ => ?_) ?_; clear_value x; on_goal 2 => subst x)
    | (extract_lets +onlyGivenNames x; clear_value x) | apply hostTcmTx_follows | apply wrDown_follows | split
    | (fail_if_no_progress apply upd_follows)
theorem keyReport_follows (hk : kp.tabs = false) (h : Follows kp b s) (c tid idx : Nat) (wrapped : List Byte) :
    Follows kp b (keyReport s c tid idx wrapped) := by
  unfold keyReport
  extract_lets kek
  split
  · exact h
  · split
    · exact h
    · extract_lets put
      have hput : ∀ p dir, FollowsFst kp b p → FollowsFst kp b (put p dir) := by
        intro p dir hs
        unfold put
        extract_lets +onlyGivenNames q k gen
        split
        · extract_lets +onlyGivenNames t
          have ht : Follows kp b t := installKey_follows (of_fst hs) _ _ _ _ _ _
          clear_value t
          split
          · exact fst_mk (keyActivate_follows ht _ _)
          · exact fst_mk ht
        · exact fst_mk (of_fst hs)
      clear_value put
      split
      rename_i t ok e
      have ht : Follows kp b t := of_fst_eq e (hput _ _ (hput _ _ (fst_mk h)))
      clear e
      extract_lets u
      have hu : Follows kp b u := foldl_follows ht fun s dir hs => by
        split
        · exact rotAck_follows hs _ _
        · exact rotFail_follows hs _ _
      clear_value u
      split
      · exact foldl_follows (termMgmt_follows hk (endStep_follows hu _) _ _ _) fun s x hs => emit_follows hs _
      · exact hu

theorem ploamAck_follows (hktabs : kp.tabs = false) (h0 : Follows kp b0 s) (c tid : Nat) : Follows kp b0 (ploamAck s
    c tid) := by
  unfold ploamAck
  with_reducible repeat' first
    | assumption | apply emit_follows | apply endStep_follows | apply setStep_follows | apply termMgmt_follows | split
theorem ploamRegistration_follows (h0 : Follows kp b0 s) (tid : Nat) : Follows kp b0 (ploamRegistration s tid) := by
  unfold ploamRegistration
  with_reducible repeat' first
    | assumption | apply endStep_follows | apply keysStart_follows | split
theorem ploamReceive_follows (hktabs : kp.tabs = false) (h0 : Follows kp b0 s) (c tid typ serial delta idx : Nat)
    (wrapped : List Byte) : Follows kp b0 (ploamReceive s c tid typ serial delta idx wrapped) := by
  unfold ploamReceive
  with_reducible repeat' first
    | assumption | apply arrive_follows | apply keyReport_follows | apply ploamAck_follows
    | apply ploamRegistration_follows | apply pmAddScope_follows | split
theorem execTcmReceive_follows (s : State) (c tid : Nat) (msg : List Byte) : ∃ t0, execTcmReceive c tid msg s = .next
    t0 ∧ Follows ⟨true, true, false⟩ s t0 := by
  refine ⟨_, rfl, ?_⟩
  have h0 := Follows.refl ⟨true, true, false⟩ s
  with_reducible repeat' first
    | assumption | exact rfl | intro _ | apply dataUp_follows | apply tcmReceive_follows
theorem execTcmAckReceive_follows (s : State) (c tid : Nat) (msg : List Byte) : ∃ t0, execTcmAckReceive c tid msg s =
    .next t0 ∧ Follows ⟨true, true, false⟩ s t0 := by
  refine ⟨_, rfl, ?_⟩
  have h0 := Follows.refl ⟨true, true, false⟩ s
  with_reducible repeat' first
    | assumption | exact rfl | intro _ | apply dataUp_follows | apply tcmReceive_follows | split
theorem execTcmAckTimeout_follows (s : State) (tid : Nat) : ∃ t0, execTcmAckTimeout tid s = .next t0 ∧ Follows ⟨true,
    true, false⟩ s t0 := by
  refine ⟨_, rfl, ?_⟩
  have h0 := Follows.refl ⟨true, true, false⟩ s
  with_reducible repeat' first
    | assumption | exact rfl | apply ackTimeout_follows
theorem execChnTcmTx_follows (s : State) (who : Requester) (c : Nat) (value : Word) : ∃ t0, execChnTcmTx who c value
    s = .next t0 ∧ Follows ⟨true, true, true⟩ s t0 := by
  refine ⟨_, rfl, ?_⟩
  have h0 := Follows.refl ⟨true, true, true⟩ s
  with_reducible repeat' first
    | assumption | exact rfl | apply tcmTxWrite_follows
theorem execPloamReceive_follows (s : State) (c tid typ serial delta idx : Nat) (wrapped : List Byte) : ∃ t0,
    execPloamReceive c tid typ serial delta idx wrapped s = .next t0 ∧ Follows ⟨true, true, false⟩ s t0 := by
  refine ⟨_, rfl, ?_⟩
  have h0 := Follows.refl ⟨true, true, false⟩ s
  with_reducible repeat' first
    | assumption | exact rfl | intro _ | apply dataUp_follows | apply ploamReceive_follows

end Sys2Proof.Machine
end

