-- ==== Sys2Proof/Laws/BurstKeeps.lean ====
section
/-! SUPPORT. What the functions of Machine/Burst.lean keep (Follows), one lemma each. -/
namespace Sys2Proof.Machine

set_option linter.all false
variable {kp : Keep} {b b0 s : State}

theorem setBursts_follows (h0 : Follows kp b0 s) (c : Nat) (l : List GBurst) : Follows kp b0 (setBursts s c l) := by
  unfold setBursts
  with_reducible repeat' first
    | assumption | (fail_if_no_progress apply upd_follows)
theorem stageSwap_follows (h0 : Follows kp b0 s) (c cur next : Nat) : Follows kp b0 (stageSwap s c cur next) := by
  unfold stageSwap
  with_reducible repeat' first
    | assumption
    | (extract_lets +onlyGivenNames x; refine cut_follows (kp := kp) (b := b0) (s := x) (fun _ => ?_) ?_; clear_value x; on_goal 2 => subst x)
    | (extract_lets +onlyGivenNames x; clear_value x) | split | (fail_if_no_progress apply upd_follows)
theorem burstStart_follows (h0 : Follows kp b0 s) (c : Nat) : Follows kp b0 (burstStart s c) := by
  unfold burstStart
  with_reducible repeat' first
    | assumption | intro _
    | (extract_lets +onlyGivenNames x; refine cut_follows (kp := kp) (b := b0) (s := x) (fun _ => ?_) ?_; clear_value x; on_goal 2 => subst x)
    | (extract_lets +onlyGivenNames x; clear_value x) | apply emitPin_follows | apply setBursts_follows
    | apply stageSwap_follows | split | (fail_if_no_progress apply upd_follows)
theorem pmBurst_follows (h0 : Follows kp b0 s) (c : Nat) (g : GBurst) (counter n : Nat) : Follows kp b0 (pmBurst s c
    g counter n) := by
  unfold pmBurst
  with_reducible repeat' first
    | assumption | apply pmAdd_follows | apply pmAddScope_follows | split
theorem cwCount_follows (h0 : Follows kp b0 s) (c : Nat) (g : GBurst) (cws : List CwResult) : Follows kp b0 (cwCount
    s c g cws) := by
  unfold cwCount
  with_reducible repeat' first
    | assumption | intro _
    | (extract_lets +onlyGivenNames x; refine cut_follows (kp := kp) (b := b0) (s := x) (fun _ => ?_) ?_; clear_value x; on_goal 2 => subst x)
    | (extract_lets +onlyGivenNames x; clear_value x) | apply pmBurst_follows | apply foldl_follows | split
    | (fail_if_no_progress apply upd_follows)
theorem termMissed_follows (hktabs : kp.tabs = false) (h0 : Follows kp b0 s) (tid : Nat) : Follows kp b0 (termMissed
    s tid) := by
  unfold termMissed
  with_reducible repeat' first
    | assumption
    | (extract_lets +onlyGivenNames x; refine cut_follows (kp := kp) (b := b0) (s := x) (fun _ => ?_) ?_; clear_value x; on_goal 2 => subst x)
    | (extract_lets +onlyGivenNames x; clear_value x) | apply setTrRec_follows | apply termData_follows
    | apply trLost_follows | split | (fail_if_no_progress apply upd_follows)
theorem grantsEnd_follows (h0 : Follows kp b0 s) (g : GBurst) (recd : Bool) : Follows kp b0 (grantsEnd s g recd) := by
  unfold grantsEnd
  with_reducible repeat' first
    | assumption | intro _
    | (extract_lets +onlyGivenNames x; refine cut_follows (kp := kp) (b := b0) (s := x) (fun _ => ?_) ?_; clear_value x; on_goal 2 => subst x)
    | (extract_lets +onlyGivenNames x; clear_value x) | apply setDyn_follows | apply foldl_follows | split
    | (fail_if_no_progress apply upd_follows)
theorem fragDrop_follows (h0 : Follows kp b0 s) (c tid stream : Nat) : Follows kp b0 (fragDrop s c tid stream) := by
  unfold fragDrop
  with_reducible repeat' first
    | assumption | intro _
    | (extract_lets +onlyGivenNames x; refine cut_follows (kp := kp) (b := b0) (s := x) (fun _ => ?_) ?_; clear_value x; on_goal 2 => subst x)
    | (extract_lets +onlyGivenNames x; clear_value x) | apply ctxDiscard_follows | apply pmAdd_follows | split
    | (fail_if_no_progress apply upd_follows)
theorem fragDropAll_follows (h0 : Follows kp b0 s) (c tid : Nat) : Follows kp b0 (fragDropAll s c tid) := by
  unfold fragDropAll
  with_reducible repeat' first
    | assumption | intro _ | apply fragDrop_follows | apply foldl_follows
theorem fragSkipOn_follows (h0 : Follows kp b0 s) (key : Nat) (on : Bool) : Follows kp b0 (fragSkipOn s key on) := by
  unfold fragSkipOn
  with_reducible repeat' first
    | assumption | split | (fail_if_no_progress apply upd_follows)
theorem burstLost_follows (hktabs : kp.tabs = false) (h0 : Follows kp b0 s) (c : Nat) (g : GBurst) (codes : List Nat)
    : Follows kp b0 (burstLost s c g codes) := by
  unfold burstLost
  with_reducible repeat' first
    | assumption | intro _
    | (extract_lets +onlyGivenNames x; refine cut_follows (kp := kp) (b := b0) (s := x) (fun _ => ?_) ?_; clear_value x; on_goal 2 => subst x)
    | (extract_lets +onlyGivenNames x; clear_value x) | apply fragDropAll_follows | apply grantsEnd_follows
    | apply pmBurst_follows | apply termMissed_follows | apply tlrLoss_follows | apply foldl_follows | split
    | (fail_if_no_progress apply upd_follows)
theorem usDeliver_follows (h0 : Follows kp b0 s) (c tid : Nat) (h : UsItem) (data : List Byte) : Follows kp b0
    (usDeliver s c tid h data) := by
  unfold usDeliver
  with_reducible repeat' first
    | assumption
    | (extract_lets +onlyGivenNames x; refine cut_follows (kp := kp) (b := b0) (s := x) (fun _ => ?_) ?_; clear_value x; on_goal 2 => subst x)
    | (extract_lets +onlyGivenNames x; clear_value x) | apply ingressPut_follows | apply stat_follows
    | apply toRing_follows | split | (fail_if_no_progress apply upd_follows)
theorem usBytes_follows (h0 : Follows kp b0 s) (c tid : Nat) (fs : List EncFrame) : Follows kp b0 (usBytes s c tid
    fs) := by
  unfold usBytes
  with_reducible repeat' first
    | assumption | intro _
    | (extract_lets +onlyGivenNames x; refine cut_follows (kp := kp) (b := b0) (s := x) (fun _ => ?_) ?_; clear_value x; on_goal 2 => subst x)
    | (extract_lets +onlyGivenNames x; clear_value x) | apply setDyn_follows | apply stat_follows
    | apply foldl_follows | split | (fail_if_no_progress apply upd_follows)
theorem usC50_follows (h0 : Follows kp b0 s) (c tid : Nat) (f : EncFrame) : FollowsFst kp b0 (usC50 s c tid f) := by
  unfold usC50
  with_reducible repeat' first
    | assumption
    | (extract_lets +onlyGivenNames x; refine cut_follows (kp := kp) (b := b0) (s := x) (fun _ => ?_) ?_; clear_value x; on_goal 2 => subst x)
    | (extract_lets +onlyGivenNames x; refine cut_fst (kp := kp) (b := b0) (p := x) (fun _ => ?_) ?_; clear_value x; on_goal 2 => subst x)
    | (extract_lets +onlyGivenNames x; clear_value x) | apply usCipher_follows
    | (apply of_fst; apply usCipher_follows) | apply usFirstUse_follows | apply usNoKey_follows
    | (apply of_fst; apply usNoKey_follows) | (apply of_fst; assumption) | split | apply fst_mk
    | refine of_fst_eq (by assumption) ?_
theorem usNoAlloc_follows (h0 : Follows kp b0 s) (c tid : Nat) (f : EncFrame) : Follows kp b0 (usNoAlloc s c tid f)
    := by
  unfold usNoAlloc
  with_reducible repeat' first
    | assumption
    | (extract_lets +onlyGivenNames x; refine cut_follows (kp := kp) (b := b0) (s := x) (fun _ => ?_) ?_; clear_value x; on_goal 2 => subst x)
    | (extract_lets +onlyGivenNames x; clear_value x) | apply fragDrop_follows | apply fragSkipOn_follows
    | apply geCount_follows | apply geEvent_follows | split
theorem usFrame_follows (h : Follows kp b s) (c tid : Nat) (x : UsItem) (first : Bool) :
    Follows kp b (usFrame s c tid x first) := by
  unfold usFrame
  extract_lets +onlyGivenNames f key cont fin skip hadPart s1 part
  have h1 : Follows kp b s1 := by
    unfold s1; split
    · exact fragDrop_follows h _ _ _
    · exact h
  have hskip : ∀ s, Follows kp b s → Follows kp b (skip s) := fun s hs => fragSkipOn_follows hs _ _
  clear_value skip s1 part
  split
  · exact usNoAlloc_follows h1 _ _ _
  · split
    · split
      · exact hskip _ h1
      · exact pmAdd_follows h1 _ _ _ _
    · extract_lets +onlyGivenNames s3
      have h3 : Follows kp b s3 := by
        unfold s3; split
        · exact h1
        · exact fragSkipOn_follows h1 _ _
      clear_value s3
      split
      · extract_lets s4
        have h4 : Follows kp b s4 := by
          unfold s4; split
          · exact pmAdd_follows h3 _ _ _ _
          · exact fragDrop_follows h3 _ _ _
        exact hskip _ h4
      · split
        · exact hskip _ (fragDrop_follows (pmAdd_follows h3 _ _ _ _) _ _ _)
        · split
          · exact hskip _ (fragDrop_follows h3 _ _ _)
          · extract_lets +onlyGivenNames over0 b0
            split
            rename_i s5 ok e
            have h5 : Follows kp b s5 := by
              revert e
              split
              · intro e; exact of_fst_eq e (usC50_follows h3 _ _ _)
              · intro e; exact of_fst_eq e (usCipher_follows h3 _ _ _)
            clear e
            extract_lets +onlyGivenNames s6 bytes parts
            have h6 : Follows kp b s6 := by
              unfold s6; split
              · exact keyReact_follows h5 _ _
              · exact h5
            clear_value s6 bytes parts
            split
            · extract_lets src s7
              have h7 : Follows kp b s7 := by unfold s7; with_reducible apply upd_follows; exact h6
              clear_value s7
              split
              · exact hskip _ h7
              · exact h7
            · split
              · apply usDeliver_follows; with_reducible apply upd_follows; exact h6
              · with_reducible apply upd_follows; exact h6

theorem usFrames_follows (h : Follows kp b s) (c tid : Nat) (l : List UsItem) (seen : List Nat) :
    Follows kp b (usFrames c tid l seen s) := by
  induction l generalizing s seen with
  | nil => exact h
  | cons x l ih =>
    unfold usFrames
    split
    · exact fragDropAll_follows (pmAdd_follows h _ _ _ _) _ _
    · split
      · exact ih h _
      · exact ih (usFrame_follows h _ _ _ _) _

theorem usBurst_follows (h0 : Follows kp b0 s) (c tid : Nat) (hs : List UsItem) : Follows kp b0 (usBurst s c tid hs)
    := by
  unfold usBurst
  with_reducible repeat' first
    | assumption | intro _
    | (extract_lets +onlyGivenNames x; refine cut_follows (kp := kp) (b := b0) (s := x) (fun _ => ?_) ?_; clear_value x; on_goal 2 => subst x)
    | (extract_lets +onlyGivenNames x; clear_value x) | apply fragDrop_follows | apply usFrames_follows
    | apply foldl_follows | split
theorem usBursts_follows (h0 : Follows kp b0 s) (c tid : Nat) (hs : List UsItem) : Follows kp b0 (usBursts s c tid
    hs) := by
  unfold usBursts
  with_reducible repeat' first
    | assumption | intro _ | apply usBurst_follows | apply foldl_follows
theorem usHold_follows (h0 : Follows kp b0 s) (c tid : Nat) (r : TransitRec) (l : List UsItem) : Follows kp b0
    (usHold s c tid r l) := by
  unfold usHold
  with_reducible repeat' first
    | assumption | intro _
    | (extract_lets +onlyGivenNames x; refine cut_follows (kp := kp) (b := b0) (s := x) (fun _ => ?_) ?_; clear_value x; on_goal 2 => subst x)
    | (extract_lets +onlyGivenNames x; clear_value x) | apply pmAdd_follows | apply setTrRec_follows
    | apply foldl_follows | split | (fail_if_no_progress apply upd_follows)
theorem recovered_follows (hktabs : kp.tabs = false) (h0 : Follows kp b0 s) (c tid : Nat) : Follows kp b0 (recovered
    s c tid) := by
  unfold recovered
  with_reducible repeat' first
    | assumption
    | (extract_lets +onlyGivenNames x; refine cut_follows (kp := kp) (b := b0) (s := x) (fun _ => ?_) ?_; clear_value x; on_goal 2 => subst x)
    | (extract_lets +onlyGivenNames x; clear_value x) | apply keysStart_follows | apply moveSlots_follows
    | apply sendKek_follows | apply setInfo_follows | apply termData_follows | split
    | (fail_if_no_progress apply upd_follows)
theorem rangingKeep_follows (h : Follows kp b s) (c tid : Nat) (ofs : Int) : Follows kp b (rangingKeep s c tid ofs) := by
  unfold rangingKeep
  extract_lets q fresh s1 l l2 sum
  have hf : ∀ s, Follows kp b s → Follows kp b (fresh s) := by
    intro s hs; unfold fresh; with_reducible apply upd_follows; exact hs
  have h1 : Follows kp b s1 := setTlrFlag_follows h _ _ _ _
  clear_value fresh s1
  split
  · split
    · exact sendRanging_follows (hf _ h1) _ _
    · exact hf _ h1
  · split
    · split
      · exact sendRanging_follows (hf _ h) _ _
      · exact hf _ h
    · with_reducible apply upd_follows; exact h

theorem traceStep_follows (h0 : Follows kp b0 s) (c tid crc : Nat) : Follows kp b0 (traceStep s c tid crc) := by
  unfold traceStep
  with_reducible repeat' first
    | assumption
    | (extract_lets +onlyGivenNames x; refine cut_follows (kp := kp) (b := b0) (s := x) (fun _ => ?_) ?_; clear_value x; on_goal 2 => subst x)
    | (extract_lets +onlyGivenNames x; clear_value x) | apply tcmSend_follows | apply traceCheck_follows | split
theorem lastGasp_follows (hktabs : kp.tabs = false) (h0 : Follows kp b0 s) (tid : Nat) : Follows kp b0 (lastGasp s
    tid) := by
  unfold lastGasp
  with_reducible repeat' first
    | assumption
    | (extract_lets +onlyGivenNames x; refine cut_follows (kp := kp) (b := b0) (s := x) (fun _ => ?_) ?_; clear_value x; on_goal 2 => subst x)
    | (extract_lets +onlyGivenNames x; clear_value x) | apply setInfo_follows | apply termData_follows
    | apply trLastGasp_follows | split
theorem termHeard_follows (hktabs : kp.tabs = false) (h0 : Follows kp b0 s) (c : Nat) (g : GBurst) (rx : Reception)
    (gasp : Bool) (ofs : Int) : Follows kp b0 (termHeard s c g rx gasp ofs) := by
  unfold termHeard
  with_reducible repeat' first
    | assumption | intro _
    | (extract_lets +onlyGivenNames x; refine cut_follows (kp := kp) (b := b0) (s := x) (fun _ => ?_) ?_; clear_value x; on_goal 2 => subst x)
    | (extract_lets +onlyGivenNames x; refine cut_fun (kp := kp) (b := b0) (f := x) (fun _ => ?_) ?_; clear_value x; on_goal 2 => subst x)
    | (extract_lets +onlyGivenNames x; refine cut_fun2 (kp := kp) (b := b0) (f := x) (fun _ => ?_) ?_; clear_value x; on_goal 2 => subst x)
    | (extract_lets +onlyGivenNames x; refine cut_fun3 (kp := kp) (b := b0) (f := x) (fun _ => ?_) ?_; clear_value x; on_goal 2 => subst x)
    | (extract_lets +onlyGivenNames x; refine cut_fun4 (kp := kp) (b := b0) (f := x) (fun _ => ?_) ?_; clear_value x; on_goal 2 => subst x)
    | (extract_lets +onlyGivenNames x; refine cut_fun5 (kp := kp) (b := b0) (f := x) (fun _ => ?_) ?_; clear_value x; on_goal 2 => subst x)
    | (extract_lets +onlyGivenNames x; refine cut_fun6 (kp := kp) (b := b0) (f := x) (fun _ => ?_) ?_; clear_value x; on_goal 2 => subst x)
    | (extract_lets +onlyGivenNames x; clear_value x) | apply lastGasp_follows | apply recovered_follows
    | apply regCheck_follows | apply trLanded_follows | apply usBurst_follows | apply usHold_follows | split
    | apply_assumption | (apply of_fst; apply_assumption) | (apply of_snd; apply_assumption)
    | (fail_if_no_progress apply upd_follows)
theorem burstDecode_follows (hk : kp.tabs = false) (h : Follows kp b s) (c : Nat) (g : GBurst) (rx : Reception) (pat : Nat) (ofs : Int)
    (dist : Nat) : Follows kp b (burstDecode s c g rx pat ofs dist) := by
  unfold burstDecode
  extract_lets +onlyGivenNames s1 keep
  have h1 : Follows kp b s1 := cwCount_follows h _ _ _
  have hkeep : ∀ s, Follows kp b s → Follows kp b (keep s) := by
    intro s hs; unfold keep; split
    · exact rangingKeep_follows hs _ _ _
    · exact hs
  clear_value s1 keep
  split
  · exact rogueSuspect_follows hk (burstLost_follows hk h1 _ _ _) _
  · extract_lets +onlyGivenNames s2
    have h2 : Follows kp b s2 := hkeep _ h1
    clear_value s2
    apply burstLost_follows hk
    split
    · exact lastGasp_follows hk h2 _
    · exact h2
  · extract_lets +onlyGivenNames k src src2 s2
    have h2 : Follows kp b s2 := by
      unfold s2; with_reducible apply upd_follows; exact grantsEnd_follows h1 _ _
    clear_value s2
    split
    · split
      · exact pmBurst_follows h2 _ _ _ _
      · exact h2
    · extract_lets +onlyGivenNames s3 s4 s5 s6 s7 s8
      have h3 : Follows kp b s3 := hkeep _ h2
      clear_value s3
      have h4 : Follows kp b s4 := tlrUpdate_follows h3 _ _ _ _ _ _ _ _
      clear_value s4
      have h5 : Follows kp b s5 := by
        unfold s5; split
        · exact pmBurst_follows h4 _ _ _ _
        · exact h4
      clear_value s5
      have h6 : Follows kp b s6 := by
        unfold s6; split
        · exact traceStep_follows h5 _ _ _
        · exact h3
      clear_value s6
      have h7 : Follows kp b s7 := takeReports_follows (usBytes_follows h6 _ _ _) _ _ _ _
      clear_value s7
      have h8 : Follows kp b s8 := by
        unfold s8; split
        · exact foldl_follows h7 fun s x hs => takeMonitor_follows hs _ _
        · exact h7
      clear_value s8
      exact termHeard_follows hk h8 _ _ _ _ _

theorem trunkTake_follows (h : Follows kp b s) (t : Nat) (late : Int) : Follows kp b (trunkTake s t late) := by
  have h1 : ∀ p, Follows kp b { s with prt := p } := fun p => by with_reducible apply upd_follows; exact h
  unfold trunkTake
  extract_lets l l2 src s1 hi lo mean
  have h2 : Follows kp b s1 := h1 _
  split
  · exact wfW_follows (wfW_follows h2 _ _ _ _ _) _ _ _ _ _
  · exact h2

theorem standbyHeard_follows (h0 : Follows kp b0 s) (c : Nat) (g : GBurst) (rx : Reception) (ofs : Int) (dist : Nat)
    : Follows kp b0 (standbyHeard s c g rx ofs dist) := by
  unfold standbyHeard
  with_reducible repeat' first
    | assumption | intro _
    | (extract_lets +onlyGivenNames x; refine cut_follows (kp := kp) (b := b0) (s := x) (fun _ => ?_) ?_; clear_value x; on_goal 2 => subst x)
    | (extract_lets +onlyGivenNames x; refine cut_fst (kp := kp) (b := b0) (p := x) (fun _ => ?_) ?_; clear_value x; on_goal 2 => subst x)
    | (extract_lets +onlyGivenNames x; clear_value x) | apply setTlrFlag_follows | apply tlrLoss_follows
    | apply tlrUpdate_follows | apply traceCheck_follows | apply trunkTake_follows | apply usCipher_follows
    | (apply of_fst; apply usCipher_follows) | apply foldl_follows | apply foldl_fst | (apply of_fst; assumption)
    | split | apply fst_mk | refine of_fst_eq (by assumption) ?_ | (fail_if_no_progress apply upd_follows)
theorem burstOver_follows (hktabs : kp.tabs = false) (h0 : Follows kp b0 s) (c : Nat) (g : GBurst) (rx : Reception) :
    Follows kp b0 (burstOver s c g rx) := by
  unfold burstOver
  with_reducible repeat' first
    | assumption | intro _
    | (extract_lets +onlyGivenNames x; refine cut_follows (kp := kp) (b := b0) (s := x) (fun _ => ?_) ?_; clear_value x; on_goal 2 => subst x)
    | (extract_lets +onlyGivenNames x; refine cut_snd (kp := kp) (b := b0) (p := x) (fun _ => ?_) ?_; clear_value x; on_goal 2 => subst x)
    | (extract_lets +onlyGivenNames x; refine cut_fun (kp := kp) (b := b0) (f := x) (fun _ => ?_) ?_; clear_value x; on_goal 2 => subst x)
    | (extract_lets +onlyGivenNames x; refine cut_fun2 (kp := kp) (b := b0) (f := x) (fun _ => ?_) ?_; clear_value x; on_goal 2 => subst x)
    | (extract_lets +onlyGivenNames x; refine cut_fun3 (kp := kp) (b := b0) (f := x) (fun _ => ?_) ?_; clear_value x; on_goal 2 => subst x)
    | (extract_lets +onlyGivenNames x; refine cut_fun4 (kp := kp) (b := b0) (f := x) (fun _ => ?_) ?_; clear_value x; on_goal 2 => subst x)
    | (extract_lets +onlyGivenNames x; refine cut_fun5 (kp := kp) (b := b0) (f := x) (fun _ => ?_) ?_; clear_value x; on_goal 2 => subst x)
    | (extract_lets +onlyGivenNames x; refine cut_fun6 (kp := kp) (b := b0) (f := x) (fun _ => ?_) ?_; clear_value x; on_goal 2 => subst x)
    | (extract_lets +onlyGivenNames x; clear_value x) | apply burstDecode_follows | apply burstLost_follows
    | apply evBit_follows | apply fiPass_follows | (apply of_snd; apply fiPass_follows) | apply inviteGone_follows
    | apply setBursts_follows | (apply of_snd; assumption) | split | apply snd_mk
    | refine of_snd_eq (by assumption) ?_ | apply_assumption | (apply of_fst; apply_assumption)
    | (apply of_snd; apply_assumption) | (fail_if_no_progress apply upd_follows)
theorem burstReceive_follows (hktabs : kp.tabs = false) (h0 : Follows kp b0 s) (c : Nat) (rx : Reception) : Follows
    kp b0 (burstReceive s c rx) := by
  unfold burstReceive
  with_reducible repeat' first
    | assumption
    | (extract_lets +onlyGivenNames x; refine cut_follows (kp := kp) (b := b0) (s := x) (fun _ => ?_) ?_; clear_value x; on_goal 2 => subst x)
    | (extract_lets +onlyGivenNames x; clear_value x) | apply burstOver_follows | apply setBursts_follows
    | apply standbyHeard_follows | apply tlrLoss_follows | split
theorem trUsMove_follows (hktabs : kp.tabs = false) (h0 : Follows kp b0 s) (tid : Nat) : Follows kp b0 (trUsMove s
    tid) := by
  unfold trUsMove
  with_reducible repeat' first
    | assumption
    | (extract_lets +onlyGivenNames x; refine cut_follows (kp := kp) (b := b0) (s := x) (fun _ => ?_) ?_; clear_value x; on_goal 2 => subst x)
    | (extract_lets +onlyGivenNames x; clear_value x) | apply setTrRec_follows | apply trLanded_follows
    | apply trUsKeys_follows | apply usBursts_follows | split | (fail_if_no_progress apply upd_follows)
theorem tlrCmd_follows (h0 : Follows kp b0 s) (c op k : Nat) : Follows kp b0 (tlrCmd s c op k) := by
  unfold tlrCmd
  with_reducible repeat' first
    | assumption | intro _ | apply setTlrFlag_follows | apply tlrInvalidate_follows | apply foldl_follows | split
theorem tlrCmdWrite_follows (h0 : Follows kp b0 s) (who : Requester) (c op k : Nat) : Follows kp b0 (tlrCmdWrite s
    who c op k) := by
  unfold tlrCmdWrite
  with_reducible repeat' first
    | assumption
    | (extract_lets +onlyGivenNames x; refine cut_follows (kp := kp) (b := b0) (s := x) (fun _ => ?_) ?_; clear_value x; on_goal 2 => subst x)
    | (extract_lets +onlyGivenNames x; clear_value x) | apply tlrCmd_follows | apply wrDown_follows
    | apply wrNotOwner_follows | apply wrOk_follows | split
theorem execBurstStart_follows (s : State) (c : Nat) : ∃ t0, execBurstStart c s = .next t0 ∧ Follows ⟨true, true,
    true⟩ s t0 := by
  refine ⟨_, rfl, ?_⟩
  have h0 := Follows.refl ⟨true, true, true⟩ s
  with_reducible repeat' first
    | assumption | exact rfl | intro _ | apply burstStart_follows | apply dataUp_follows
theorem execBurstReceive_follows (s : State) (c : Nat) (rx : Reception) : ∃ t0, execBurstReceive c rx s = .next t0 ∧
    Follows ⟨true, true, false⟩ s t0 := by
  refine ⟨_, rfl, ?_⟩
  have h0 := Follows.refl ⟨true, true, false⟩ s
  with_reducible repeat' first
    | assumption | exact rfl | intro _ | apply burstReceive_follows | apply dataUp_follows
theorem execTransitUsMove_follows (s : State) (tid : Nat) : ∃ t0, execTransitUsMove tid s = .next t0 ∧ Follows ⟨true,
    true, false⟩ s t0 := by
  refine ⟨_, rfl, ?_⟩
  have h0 := Follows.refl ⟨true, true, false⟩ s
  with_reducible repeat' first
    | assumption | exact rfl | apply trUsMove_follows
theorem execTlrInvalidate_follows (s : State) (who : Requester) (c k : Nat) : ∃ t0, execTlrInvalidate who c k s =
    .next t0 ∧ Follows ⟨true, true, true⟩ s t0 := by
  refine ⟨_, rfl, ?_⟩
  have h0 := Follows.refl ⟨true, true, true⟩ s
  with_reducible repeat' first
    | assumption | exact rfl | apply tlrCmdWrite_follows
theorem execTlrForceCold_follows (s : State) (who : Requester) (c k : Nat) : ∃ t0, execTlrForceCold who c k s = .next
    t0 ∧ Follows ⟨true, true, true⟩ s t0 := by
  refine ⟨_, rfl, ?_⟩
  have h0 := Follows.refl ⟨true, true, true⟩ s
  with_reducible repeat' first
    | assumption | exact rfl | apply tlrCmdWrite_follows
theorem execTlrPin_follows (s : State) (who : Requester) (c k : Nat) : ∃ t0, execTlrPin who c k s = .next t0 ∧
    Follows ⟨true, true, true⟩ s t0 := by
  refine ⟨_, rfl, ?_⟩
  have h0 := Follows.refl ⟨true, true, true⟩ s
  with_reducible repeat' first
    | assumption | exact rfl | apply tlrCmdWrite_follows
theorem execTlrUnpin_follows (s : State) (who : Requester) (c k : Nat) : ∃ t0, execTlrUnpin who c k s = .next t0 ∧
    Follows ⟨true, true, true⟩ s t0 := by
  refine ⟨_, rfl, ?_⟩
  have h0 := Follows.refl ⟨true, true, true⟩ s
  with_reducible repeat' first
    | assumption | exact rfl | apply tlrCmdWrite_follows
theorem execTlrInvalidateAll_follows (s : State) (who : Requester) (c : Nat) : ∃ t0, execTlrInvalidateAll who c s =
    .next t0 ∧ Follows ⟨true, true, true⟩ s t0 := by
  refine ⟨_, rfl, ?_⟩
  have h0 := Follows.refl ⟨true, true, true⟩ s
  with_reducible repeat' first
    | assumption | exact rfl | apply tlrCmdWrite_follows
theorem execPmBinRollover_follows (s : State) (c : Nat) (day : Bool) (second : Nat) : ∃ t0, execPmBinRollover c day
    second s = .next t0 ∧ Follows ⟨true, true, true⟩ s t0 := by
  refine ⟨_, rfl, ?_⟩
  have h0 := Follows.refl ⟨true, true, true⟩ s
  with_reducible repeat' first
    | assumption | exact rfl | apply pmRollover_follows
theorem execPmDataRead_follows (s : State) (who : Requester) (c : Nat) : ∃ t0, execPmDataRead who c s = .next t0 ∧
    Follows ⟨true, true, true⟩ s t0 := by
  refine ⟨_, rfl, ?_⟩
  have h0 := Follows.refl ⟨true, true, true⟩ s
  with_reducible repeat' first
    | assumption | exact rfl | intro _ | apply pmDataRead_follows | apply readUp_follows
theorem execChnCrsWrite_follows (s : State) (who : Requester) (c i value : Nat) : ∃ t0, execChnCrsWrite who c i value
    s = .next t0 ∧ Follows ⟨true, true, true⟩ s t0 := by
  refine ⟨_, rfl, ?_⟩
  have h0 := Follows.refl ⟨true, true, true⟩ s
  with_reducible repeat' first
    | assumption | exact rfl | apply crsWrite_follows

end Sys2Proof.Machine
end

