-- ==== Sys2Proof/Laws/ChanKeeps.lean ====
section
/-! SUPPORT. What the functions of Machine/Chan.lean keep (Follows), one lemma each. -/
namespace Sys2Proof.Machine

set_option linter.all false
variable {kp : Keep} {b b0 s : State}

theorem dropRegs_follows (h : Follows kp b s) (lo hi : Nat) (gone : RegDesc → Bool) : Follows kp b (dropRegs s lo hi gone) := by
  unfold dropRegs
  exact ⟨h.queue, h.sent, h.free, fun k => ⟨mwf_filter _ _ _ (h.canon k).1, (h.canon k).2⟩, h.flash, h.host, h.tabs⟩

theorem dropChanRegs_follows (h0 : Follows kp b0 s) (c : Nat) : Follows kp b0 (dropChanRegs s c) := by
  unfold dropChanRegs
  with_reducible repeat' first
    | assumption | intro _ | apply dropRegs_follows | apply gclEntriesClear_follows
theorem dropTreeRegs_follows (h0 : Follows kp b0 s) (t : Nat) : Follows kp b0 (dropTreeRegs s t) := by
  unfold dropTreeRegs
  with_reducible repeat' first
    | assumption | intro _ | apply dropRegs_follows
theorem chanFramesLost_follows (h0 : Follows kp b0 s) (c : Nat) : Follows kp b0 (chanFramesLost s c) := by
  unfold chanFramesLost
  with_reducible repeat' first
    | assumption | intro _
    | (extract_lets +onlyGivenNames x; refine cut_follows (kp := kp) (b := b0) (s := x) (fun _ => ?_) ?_; clear_value x; on_goal 2 => subst x)
    | (extract_lets +onlyGivenNames x; clear_value x) | apply fragDrop_follows | apply lostFlight_follows
    | apply foldl_follows | (fail_if_no_progress apply upd_follows)
theorem chanForget_follows (h0 : Follows kp b0 s) (c : Nat) : Follows kp b0 (chanForget s c) := by
  unfold chanForget
  with_reducible repeat' first
    | assumption | intro _
    | (extract_lets +onlyGivenNames x; refine cut_follows (kp := kp) (b := b0) (s := x) (fun _ => ?_) ?_; clear_value x; on_goal 2 => subst x)
    | (extract_lets +onlyGivenNames x; clear_value x) | (fail_if_no_progress apply upd_follows)
theorem chanStop_follows (hktabs : kp.tabs = false) (h0 : Follows kp b0 s) (c : Nat) : Follows kp b0 (chanStop s c)
    := by
  unfold chanStop
  with_reducible repeat' first
    | assumption | intro _
    | (extract_lets +onlyGivenNames x; refine cut_follows (kp := kp) (b := b0) (s := x) (fun _ => ?_) ?_; clear_value x; on_goal 2 => subst x)
    | (extract_lets +onlyGivenNames x; clear_value x) | apply chanFramesLost_follows | apply setBursts_follows
    | apply tcmClear_follows | apply termData_follows | apply trChanLost_follows | apply foldl_follows | split
theorem chanSuspect_follows (h0 : Follows kp b0 s) (c : Nat) : Follows kp b0 (chanSuspect s c) := by
  unfold chanSuspect
  with_reducible repeat' first
    | assumption | apply pmSuspectMark_follows
theorem chanClear_follows (h0 : Follows kp b0 s) (c : Nat) : Follows kp b0 (chanClear s c) := by
  unfold chanClear
  with_reducible repeat' first
    | assumption
    | (extract_lets +onlyGivenNames x; refine cut_follows (kp := kp) (b := b0) (s := x) (fun _ => ?_) ?_; clear_value x; on_goal 2 => subst x)
    | (extract_lets +onlyGivenNames x; clear_value x) | apply chanForget_follows | apply chanSuspect_follows
    | apply clearTlrs_follows | apply dropChanRegs_follows | apply keyEraseChan_follows
theorem standbyReset_follows (h0 : Follows kp b0 s) (c : Nat) : Follows kp b0 (standbyReset s c) := by
  unfold standbyReset
  with_reducible repeat' first
    | assumption | intro _
    | (extract_lets +onlyGivenNames x; refine cut_follows (kp := kp) (b := b0) (s := x) (fun _ => ?_) ?_; clear_value x; on_goal 2 => subst x)
    | (extract_lets +onlyGivenNames x; clear_value x) | split | (fail_if_no_progress apply upd_follows)
theorem chanReset_follows (hktabs : kp.tabs = false) (h0 : Follows kp b0 s) (c : Nat) : Follows kp b0 (chanReset s c)
    := by
  unfold chanReset
  with_reducible repeat' first
    | assumption
    | (extract_lets +onlyGivenNames x; refine cut_follows (kp := kp) (b := b0) (s := x) (fun _ => ?_) ?_; clear_value x; on_goal 2 => subst x)
    | (extract_lets +onlyGivenNames x; clear_value x) | apply chanClear_follows | apply chanStop_follows
    | apply chnInjectorsOff_follows | apply setIsl_follows | apply showBypass_follows | apply showEclipsed_follows
    | apply standbyReset_follows | apply treeFollow_follows | apply unitAccept_follows | apply wf_follows | split
theorem chanResetWrite_follows (hktabs : kp.tabs = false) (h0 : Follows kp b0 s) (who : Requester) (c expect : Nat) :
    Follows kp b0 (chanResetWrite s who c expect) := by
  unfold chanResetWrite
  with_reducible repeat' first
    | assumption
    | (extract_lets +onlyGivenNames x; refine cut_follows (kp := kp) (b := b0) (s := x) (fun _ => ?_) ?_; clear_value x; on_goal 2 => subst x)
    | (extract_lets +onlyGivenNames x; clear_value x) | apply chanReset_follows | apply wrOk_follows
    | apply wrRefuse_follows | apply wrStale_follows | split
theorem chanLost_follows (hktabs : kp.tabs = false) (h0 : Follows kp b0 s) (c det : Nat) : Follows kp b0 (chanLost s
    c det) := by
  unfold chanLost
  with_reducible repeat' first
    | assumption
    | (extract_lets +onlyGivenNames x; refine cut_follows (kp := kp) (b := b0) (s := x) (fun _ => ?_) ?_; clear_value x; on_goal 2 => subst x)
    | (extract_lets +onlyGivenNames x; clear_value x) | apply chanStop_follows | apply chnChange_follows
    | apply raise_follows | apply setIsl_follows | split
theorem treeStartGo_follows (h0 : Follows kp b0 s) (t : Nat) : Follows kp b0 (treeStartGo s t) := by
  unfold treeStartGo
  with_reducible repeat' first
    | assumption | intro _
    | (extract_lets +onlyGivenNames x; refine cut_follows (kp := kp) (b := b0) (s := x) (fun _ => ?_) ?_; clear_value x; on_goal 2 => subst x)
    | (extract_lets +onlyGivenNames x; clear_value x) | apply dpChange_follows | apply treeFollow_follows | split
theorem chanIslandDone_follows (h0 : Follows kp b0 s) (c : Nat) : Follows kp b0 (chanIslandDone s c) := by
  unfold chanIslandDone
  with_reducible repeat' first
    | assumption | apply setIsl_follows | apply treeStartGo_follows | split
theorem chanTrained_follows (h0 : Follows kp b0 s) (c : Nat) : Follows kp b0 (chanTrained s c) := by
  unfold chanTrained
  with_reducible repeat' first
    | assumption | apply chnChange_follows | split
theorem chanRun_follows (h0 : Follows kp b0 s) (c : Nat) : Follows kp b0 (chanRun s c) := by
  unfold chanRun
  with_reducible repeat' first
    | assumption | apply chnChange_follows | apply wf_follows | split
theorem chanStartTimeout_follows (hktabs : kp.tabs = false) (h0 : Follows kp b0 s) (c : Nat) : Follows kp b0
    (chanStartTimeout s c) := by
  unfold chanStartTimeout
  with_reducible repeat' first
    | assumption | apply chanLost_follows | split
theorem wakeTimeout_follows (hktabs : kp.tabs = false) (h0 : Follows kp b0 s) (c : Nat) : Follows kp b0 (wakeTimeout
    s c) := by
  unfold wakeTimeout
  with_reducible repeat' first
    | assumption | apply chanLost_follows | split
theorem chanStartFrom_follows (h0 : Follows kp b0 s) (c : Nat) : Follows kp b0 (chanStartFrom s c) := by
  unfold chanStartFrom
  with_reducible repeat' first
    | assumption
    | (extract_lets +onlyGivenNames x; refine cut_follows (kp := kp) (b := b0) (s := x) (fun _ => ?_) ?_; clear_value x; on_goal 2 => subst x)
    | (extract_lets +onlyGivenNames x; clear_value x) | apply setIsl_follows | apply unitAccept_follows | split
theorem treeStart_follows (h0 : Follows kp b0 s) (t : Nat) : Follows kp b0 (treeStart s t) := by
  unfold treeStart
  with_reducible repeat' first
    | assumption | intro _
    | (extract_lets +onlyGivenNames x; refine cut_follows (kp := kp) (b := b0) (s := x) (fun _ => ?_) ?_; clear_value x; on_goal 2 => subst x)
    | (extract_lets +onlyGivenNames x; clear_value x) | apply chanStartFrom_follows | apply unitAccept_follows
    | apply foldl_follows | split
theorem treeForget_follows (h0 : Follows kp b0 s) (t : Nat) : Follows kp b0 (treeForget s t) := by
  unfold treeForget
  with_reducible repeat' first
    | assumption | intro _
    | (extract_lets +onlyGivenNames x; refine cut_follows (kp := kp) (b := b0) (s := x) (fun _ => ?_) ?_; clear_value x; on_goal 2 => subst x)
    | (extract_lets +onlyGivenNames x; refine cut_fun (kp := kp) (b := b0) (f := x) (fun _ => ?_) ?_; clear_value x; on_goal 2 => subst x)
    | (extract_lets +onlyGivenNames x; refine cut_fun2 (kp := kp) (b := b0) (f := x) (fun _ => ?_) ?_; clear_value x; on_goal 2 => subst x)
    | (extract_lets +onlyGivenNames x; refine cut_fun3 (kp := kp) (b := b0) (f := x) (fun _ => ?_) ?_; clear_value x; on_goal 2 => subst x)
    | (extract_lets +onlyGivenNames x; refine cut_fun4 (kp := kp) (b := b0) (f := x) (fun _ => ?_) ?_; clear_value x; on_goal 2 => subst x)
    | (extract_lets +onlyGivenNames x; refine cut_fun5 (kp := kp) (b := b0) (f := x) (fun _ => ?_) ?_; clear_value x; on_goal 2 => subst x)
    | (extract_lets +onlyGivenNames x; refine cut_fun6 (kp := kp) (b := b0) (f := x) (fun _ => ?_) ?_; clear_value x; on_goal 2 => subst x)
    | (extract_lets +onlyGivenNames x; clear_value x) | apply_assumption | (apply of_fst; apply_assumption)
    | (apply of_snd; apply_assumption) | (fail_if_no_progress apply upd_follows)
theorem treeClear_follows (hktabs : kp.tabs = false) (h0 : Follows kp b0 s) (t : Nat) : Follows kp b0 (treeClear s t)
    := by
  unfold treeClear
  with_reducible repeat' first
    | assumption | intro _
    | (extract_lets +onlyGivenNames x; refine cut_follows (kp := kp) (b := b0) (s := x) (fun _ => ?_) ?_; clear_value x; on_goal 2 => subst x)
    | (extract_lets +onlyGivenNames x; clear_value x) | apply chanClear_follows | apply chanFramesLost_follows
    | apply chnInjectorsOff_follows | apply dropTreeRegs_follows | apply rotFail_follows | apply showBypass_follows
    | apply tcmClear_follows | apply trReset_follows | apply treeFlush_follows | apply treeForget_follows
    | apply foldl_follows
theorem treeReset_follows (hktabs : kp.tabs = false) (h0 : Follows kp b0 s) (t : Nat) : Follows kp b0 (treeReset s t)
    := by
  unfold treeReset
  with_reducible repeat' first
    | assumption | apply treeClear_follows | apply treeFollow_follows | apply treeStart_follows
theorem treeStateWrite_follows (hktabs : kp.tabs = false) (h0 : Follows kp b0 s) (who : Requester) (t expect v : Nat)
    : Follows kp b0 (treeStateWrite s who t expect v) := by
  unfold treeStateWrite
  with_reducible repeat' first
    | assumption
    | (extract_lets +onlyGivenNames x; refine cut_follows (kp := kp) (b := b0) (s := x) (fun _ => ?_) ?_; clear_value x; on_goal 2 => subst x)
    | (extract_lets +onlyGivenNames x; clear_value x) | apply treeReset_follows | apply wrDown_follows
    | apply wrOk_follows | apply wrRefuse_follows | apply wrStale_follows | split
theorem treeStartTimeout_follows (h0 : Follows kp b0 s) (t : Nat) : Follows kp b0 (treeStartTimeout s t) := by
  unfold treeStartTimeout
  with_reducible repeat' first
    | assumption
    | (extract_lets +onlyGivenNames x; refine cut_follows (kp := kp) (b := b0) (s := x) (fun _ => ?_) ?_; clear_value x; on_goal 2 => subst x)
    | (extract_lets +onlyGivenNames x; clear_value x) | apply dpChange_follows | apply treeFollow_follows | split
theorem applyTreeReset_follows (hktabs : kp.tabs = false) (h0 : Follows kp b0 s) (t : Nat) : Follows kp b0
    (applyTreeReset s t) := by
  unfold applyTreeReset
  with_reducible repeat' first
    | assumption
    | (extract_lets +onlyGivenNames x; refine cut_follows (kp := kp) (b := b0) (s := x) (fun _ => ?_) ?_; clear_value x; on_goal 2 => subst x)
    | (extract_lets +onlyGivenNames x; clear_value x) | apply applyFinish_follows | apply treeClear_follows
    | apply treeFollow_follows | apply treeStart_follows | apply wfW_follows | (fail_if_no_progress apply upd_follows)
theorem execChnStateReset_follows (s : State) (who : Requester) (c expect : Nat) : ∃ t0, execChnStateReset who c
    expect s = .next t0 ∧ Follows ⟨true, true, false⟩ s t0 := by
  refine ⟨_, rfl, ?_⟩
  have h0 := Follows.refl ⟨true, true, false⟩ s
  with_reducible repeat' first
    | assumption | exact rfl | apply chanResetWrite_follows | split
theorem execChannelIslandResetDone_follows (s : State) (c : Nat) : ∃ t0, execChannelIslandResetDone c s = .next t0 ∧
    Follows ⟨true, true, true⟩ s t0 := by
  refine ⟨_, rfl, ?_⟩
  have h0 := Follows.refl ⟨true, true, true⟩ s
  with_reducible repeat' first
    | assumption | exact rfl | apply chanIslandDone_follows
theorem execChannelLaneTrained_follows (s : State) (c : Nat) : ∃ t0, execChannelLaneTrained c s = .next t0 ∧ Follows
    ⟨true, true, true⟩ s t0 := by
  refine ⟨_, rfl, ?_⟩
  have h0 := Follows.refl ⟨true, true, true⟩ s
  with_reducible repeat' first
    | assumption | exact rfl | apply chanTrained_follows
theorem execChannelRun_follows (s : State) (c : Nat) : ∃ t0, execChannelRun c s = .next t0 ∧ Follows ⟨true, true,
    true⟩ s t0 := by
  refine ⟨_, rfl, ?_⟩
  have h0 := Follows.refl ⟨true, true, true⟩ s
  with_reducible repeat' first
    | assumption | exact rfl | apply applyFinish_follows | apply chanRun_follows
theorem execChannelStartTimeout_follows (s : State) (c : Nat) : ∃ t0, execChannelStartTimeout c s = .next t0 ∧
    Follows ⟨true, true, false⟩ s t0 := by
  refine ⟨_, rfl, ?_⟩
  have h0 := Follows.refl ⟨true, true, false⟩ s
  with_reducible repeat' first
    | assumption | exact rfl | apply chanStartTimeout_follows
theorem execWakeTimeout_follows (s : State) (c : Nat) : ∃ t0, execWakeTimeout c s = .next t0 ∧ Follows ⟨true, true,
    false⟩ s t0 := by
  refine ⟨_, rfl, ?_⟩
  have h0 := Follows.refl ⟨true, true, false⟩ s
  with_reducible repeat' first
    | assumption | exact rfl | apply wakeTimeout_follows
theorem execTreeReset_follows (s : State) (who : Requester) (t expect value : Nat) : ∃ t0, execTreeReset who t expect
    value s = .next t0 ∧ Follows ⟨true, true, false⟩ s t0 := by
  refine ⟨_, rfl, ?_⟩
  have h0 := Follows.refl ⟨true, true, false⟩ s
  with_reducible repeat' first
    | assumption | exact rfl | apply treeStateWrite_follows | split
theorem execTreeStartTimeout_follows (s : State) (t : Nat) : ∃ t0, execTreeStartTimeout t s = .next t0 ∧ Follows
    ⟨true, true, true⟩ s t0 := by
  refine ⟨_, rfl, ?_⟩
  have h0 := Follows.refl ⟨true, true, true⟩ s
  with_reducible repeat' first
    | assumption | exact rfl | apply treeStartTimeout_follows

end Sys2Proof.Machine
end

