-- ==== Sys2Proof/Laws/SecurityKeeps.lean ====
section
/-! SUPPORT. What the functions of Machine/Security.lean keep (Follows), one lemma each. -/
namespace Sys2Proof.Machine

set_option linter.all false
variable {kp : Keep} {b b0 s : State}

theorem secUpd_follows (h0 : Follows kp b0 s) : Follows kp b0 (secUpd s) := by
  unfold secUpd
  with_reducible repeat' first
    | assumption | apply secShow_follows
theorem setSecState_follows (h0 : Follows kp b0 s) (st : Nat) : Follows kp b0 (setSecState s st) := by
  unfold setSecState
  with_reducible repeat' first
    | assumption | apply secUpd_follows | apply wf_follows
theorem secSet_follows (h0 : Follows kp b0 s) (f : SecSt → SecSt) : Follows kp b0 (secSet s f) := by
  unfold secSet
  with_reducible repeat' first
    | assumption | (fail_if_no_progress apply upd_follows)
theorem vaultSet_follows (h0 : Follows kp b0 s) (f : VaultSt → VaultSt) : Follows kp b0 (vaultSet s f) := by
  unfold vaultSet
  with_reducible repeat' first
    | assumption | intro _ | apply secSet_follows | (fail_if_no_progress apply upd_follows)
theorem secFatal_follows (h0 : Follows kp b0 s) : Follows kp b0 (secFatal s) := by
  unfold secFatal
  with_reducible repeat' first
    | assumption | apply nextFree_follows | apply raise_follows
theorem secEraseKeys_follows (h0 : Follows kp b0 s) : Follows kp b0 (secEraseKeys s) := by
  unfold secEraseKeys
  with_reducible repeat' first
    | assumption | intro _
    | (extract_lets +onlyGivenNames x; refine cut_follows (kp := kp) (b := b0) (s := x) (fun _ => ?_) ?_; clear_value x; on_goal 2 => subst x)
    | (extract_lets +onlyGivenNames x; clear_value x) | apply secSet_follows | (fail_if_no_progress apply upd_follows)
theorem endSessions_follows (h0 : Follows kp b0 s) : Follows kp b0 (endSessions s) := by
  unfold endSessions
  with_reducible repeat' first
    | assumption | intro _ | apply secSet_follows | apply secUpd_follows | (fail_if_no_progress apply upd_follows)
theorem endSession_follows (h0 : Follows kp b0 s) (fn : Nat) : Follows kp b0 (endSession s fn) := by
  unfold endSession
  with_reducible repeat' first
    | assumption | intro _ | apply secSet_follows | apply secUpd_follows | (fail_if_no_progress apply upd_follows)
theorem secError_follows (h0 : Follows kp b0 s) (test : Nat) : Follows kp b0 (secError s test) := by
  unfold secError
  with_reducible repeat' first
    | assumption
    | (extract_lets +onlyGivenNames x; refine cut_follows (kp := kp) (b := b0) (s := x) (fun _ => ?_) ?_; clear_value x; on_goal 2 => subst x)
    | (extract_lets +onlyGivenNames x; clear_value x) | apply keyEraseAll_follows | apply secEraseKeys_follows
    | apply secFatal_follows | apply secUpd_follows | apply setSecState_follows | apply wf_follows
theorem conditionalFail_follows (h0 : Follows kp b0 s) (test : Nat) : Follows kp b0 (conditionalFail s test) := by
  unfold conditionalFail
  with_reducible repeat' first
    | assumption | apply secError_follows | split
theorem vaultRenew_follows (h0 : Follows kp b0 s) : Follows kp b0 (vaultRenew s) := by
  unfold vaultRenew
  with_reducible repeat' first
    | assumption | intro _ | apply vaultSet_follows | split | (fail_if_no_progress apply upd_follows)
theorem chkResume_follows (h0 : Follows kp b0 s) : Follows kp b0 (chkResume s) := by
  unfold chkResume
  with_reducible repeat' first
    | assumption | intro _
    | (extract_lets +onlyGivenNames x; refine cut_follows (kp := kp) (b := b0) (s := x) (fun _ => ?_) ?_; clear_value x; on_goal 2 => subst x)
    | (extract_lets +onlyGivenNames x; clear_value x) | apply secSet_follows | apply foldl_follows
    | (fail_if_no_progress apply upd_follows)
theorem secP2_follows (h0 : Follows kp b0 s) (fail : Nat) : Follows kp b0 (secP2 s fail) := by
  unfold secP2
  with_reducible repeat' first
    | assumption
    | (extract_lets +onlyGivenNames x; refine cut_follows (kp := kp) (b := b0) (s := x) (fun _ => ?_) ?_; clear_value x; on_goal 2 => subst x)
    | (extract_lets +onlyGivenNames x; clear_value x) | apply chkResume_follows | apply drbgSeed_follows
    | apply secError_follows | apply setSecState_follows | apply vaultRenew_follows | apply wf_follows | split
theorem challengeRead_follows (h0 : Follows kp b0 s) (who : Requester) : Follows kp b0 (challengeRead s who) := by
  unfold challengeRead
  with_reducible repeat' first
    | assumption | intro _
    | (extract_lets +onlyGivenNames x; refine cut_follows (kp := kp) (b := b0) (s := x) (fun _ => ?_) ?_; clear_value x; on_goal 2 => subst x)
    | (extract_lets +onlyGivenNames x; refine cut_snd (kp := kp) (b := b0) (p := x) (fun _ => ?_) ?_; clear_value x; on_goal 2 => subst x)
    | (extract_lets +onlyGivenNames x; clear_value x) | apply drbgDraw_follows
    | (apply of_snd; apply drbgDraw_follows) | apply ret_follows | apply secSet_follows | apply wrReq_follows
    | apply foldl_follows | apply foldl_snd | (apply of_snd; assumption) | split | apply snd_mk
    | refine of_snd_eq (by assumption) ?_ | (fail_if_no_progress apply upd_follows)
theorem coFails_follows (h0 : Follows kp b0 s) : Follows kp b0 (coFails s) := by
  unfold coFails
  with_reducible repeat' first
    | assumption | apply satF_follows
theorem login_follows (h0 : Follows kp b0 s) (c : CmdCtx) (role : Nat) (key sig : List Byte) : FollowsFst kp b0
    (login s c role key sig) := by
  unfold login
  with_reducible repeat' first
    | assumption | intro _
    | (extract_lets +onlyGivenNames x; refine cut_follows (kp := kp) (b := b0) (s := x) (fun _ => ?_) ?_; clear_value x; on_goal 2 => subst x)
    | (extract_lets +onlyGivenNames x; clear_value x) | apply coFails_follows | apply secSet_follows
    | apply secUpd_follows | apply wf_follows | (apply of_fst; assumption) | split | apply fst_mk
    | refine of_fst_eq (by assumption) ?_ | (fail_if_no_progress apply upd_follows)
theorem coService_follows (h0 : Follows kp b0 s) (c : CmdCtx) (f : State → State × OutRec) (hf : ∀ s, Follows kp b0 s
    → FollowsFst kp b0 (f s)) : FollowsFst kp b0 (coService c s f) := by
  unfold coService
  with_reducible repeat' first
    | assumption | apply hf | (apply of_fst; apply hf) | (apply of_fst; assumption) | split | apply fst_mk
    | refine of_fst_eq (by assumption) ?_
theorem anyService_follows (h0 : Follows kp b0 s) (c : CmdCtx) (f : State → State × OutRec) (hf : ∀ s, Follows kp b0
    s → FollowsFst kp b0 (f s)) : FollowsFst kp b0 (anyService c s f) := by
  unfold anyService
  with_reducible repeat' first
    | assumption | apply hf | (apply of_fst; apply hf) | (apply of_fst; assumption) | split | apply fst_mk
    | refine of_fst_eq (by assumption) ?_
theorem vaultService_follows (h0 : Follows kp b0 s) (r : Nat) (f : State → State × OutRec) (hf : ∀ s, Follows kp b0 s
    → FollowsFst kp b0 (f s)) : FollowsFst kp b0 (vaultService r s f) := by
  unfold vaultService
  with_reducible repeat' first
    | assumption
    | (extract_lets +onlyGivenNames x; refine cut_follows (kp := kp) (b := b0) (s := x) (fun _ => ?_) ?_; clear_value x; on_goal 2 => subst x)
    | (extract_lets +onlyGivenNames x; refine cut_fst (kp := kp) (b := b0) (p := x) (fun _ => ?_) ?_; clear_value x; on_goal 2 => subst x)
    | (extract_lets +onlyGivenNames x; clear_value x) | apply hf | apply regionWrite_follows
    | (apply of_fst; apply hf) | (apply of_fst; assumption) | split | apply fst_mk
    | refine of_fst_eq (by assumption) ?_
theorem coEnrol_follows (h0 : Follows kp b0 s) (c : CmdCtx) (hash : List Byte) (ageS : Nat) : FollowsFst kp b0
    (coEnrol s c hash ageS) := by
  unfold coEnrol
  with_reducible repeat' first
    | assumption | intro _ | apply vaultService_follows | (apply of_fst; apply vaultService_follows)
    | apply vaultSet_follows | (apply of_fst; assumption) | split | apply fst_mk
    | refine of_fst_eq (by assumption) ?_ | (fail_if_no_progress apply upd_follows)
theorem coCredSet_follows (h0 : Follows kp b0 s) (c : CmdCtx) (i : Nat) (hash : List Byte) : FollowsFst kp b0
    (coCredSet s c i hash) := by
  unfold coCredSet
  with_reducible repeat' first
    | assumption | intro _ | apply coService_follows | (apply of_fst; apply coService_follows)
    | apply vaultService_follows | (apply of_fst; apply vaultService_follows) | apply vaultSet_follows
    | (apply of_fst; assumption) | split | apply fst_mk | refine of_fst_eq (by assumption) ?_
    | (fail_if_no_progress apply upd_follows)
theorem userCredSet_follows (h0 : Follows kp b0 s) (c : CmdCtx) (p : Nat) (cred : List Byte) : FollowsFst kp b0
    (userCredSet s c p cred) := by
  unfold userCredSet
  with_reducible repeat' first
    | assumption | intro _ | apply coService_follows | (apply of_fst; apply coService_follows)
    | apply vaultService_follows | (apply of_fst; apply vaultService_follows) | apply vaultSet_follows
    | (apply of_fst; assumption) | split | apply fst_mk | refine of_fst_eq (by assumption) ?_
    | (fail_if_no_progress apply upd_follows)
theorem imgKeySet_follows (h0 : Follows kp b0 s) (c : CmdCtx) (ec ml : List Byte) : FollowsFst kp b0 (imgKeySet s c
    ec ml) := by
  unfold imgKeySet
  with_reducible repeat' first
    | assumption | intro _ | apply coService_follows | (apply of_fst; apply coService_follows)
    | apply vaultService_follows | (apply of_fst; apply vaultService_follows) | apply vaultSet_follows
    | (apply of_fst; assumption) | split | apply fst_mk | refine of_fst_eq (by assumption) ?_
    | (fail_if_no_progress apply upd_follows)
theorem putHost_follows (hkhost : kp.host = false) (h0 : Follows kp b0 s) (a : Nat) (b : List Byte) : Follows kp b0
    (putHost s a b) := by
  unfold putHost
  with_reducible repeat' first
    | assumption | apply hostMem_follows | (fail_if_no_progress apply upd_follows)
theorem ktkEstablish_follows (hkhost : kp.host = false) (h0 : Follows kp b0 s) (c : CmdCtx) (p : Nat) (pub : List
    Byte) : FollowsFst kp b0 (ktkEstablish s c p pub) := by
  unfold ktkEstablish
  with_reducible repeat' first
    | assumption | intro _
    | (extract_lets +onlyGivenNames x; refine cut_follows (kp := kp) (b := b0) (s := x) (fun _ => ?_) ?_; clear_value x; on_goal 2 => subst x)
    | (extract_lets +onlyGivenNames x; refine cut_fst (kp := kp) (b := b0) (p := x) (fun _ => ?_) ?_; clear_value x; on_goal 2 => subst x)
    | (extract_lets +onlyGivenNames x; refine cut_snd (kp := kp) (b := b0) (p := x) (fun _ => ?_) ?_; clear_value x; on_goal 2 => subst x)
    | (extract_lets +onlyGivenNames x; clear_value x) | apply anyService_follows
    | (apply of_fst; apply anyService_follows) | apply drbgDraw_follows | (apply of_snd; apply drbgDraw_follows)
    | apply putHost_follows | (apply of_fst; assumption) | (apply of_snd; assumption) | split | apply fst_mk
    | apply snd_mk | refine of_fst_eq (by assumption) ?_ | refine of_snd_eq (by assumption) ?_
    | (fail_if_no_progress apply upd_follows)
theorem attest_follows (hkhost : kp.host = false) (h0 : Follows kp b0 s) (c : CmdCtx) (nonce : List Byte) :
    FollowsFst kp b0 (attest s c nonce) := by
  unfold attest
  with_reducible repeat' first
    | assumption | intro _ | apply anyService_follows | (apply of_fst; apply anyService_follows)
    | apply putHost_follows | (apply of_fst; assumption) | apply fst_mk | refine of_fst_eq (by assumption) ?_
theorem certSet_follows (h0 : Follows kp b0 s) (c : CmdCtx) (len : Nat) : FollowsFst kp b0 (certSet s c len) := by
  unfold certSet
  with_reducible repeat' first
    | assumption | intro _
    | (extract_lets +onlyGivenNames x; refine cut_follows (kp := kp) (b := b0) (s := x) (fun _ => ?_) ?_; clear_value x; on_goal 2 => subst x)
    | (extract_lets +onlyGivenNames x; refine cut_fst (kp := kp) (b := b0) (p := x) (fun _ => ?_) ?_; clear_value x; on_goal 2 => subst x)
    | (extract_lets +onlyGivenNames x; clear_value x) | apply coService_follows
    | (apply of_fst; apply coService_follows) | apply vaultService_follows
    | (apply of_fst; apply vaultService_follows) | apply vaultSet_follows | apply wf_follows
    | (apply of_fst; assumption) | split | apply fst_mk | refine of_fst_eq (by assumption) ?_
    | (fail_if_no_progress apply upd_follows)
theorem random_follows (hkhost : kp.host = false) (h0 : Follows kp b0 s) (c : CmdCtx) (n : Nat) : FollowsFst kp b0
    (random s c n) := by
  unfold random
  with_reducible repeat' first
    | assumption | intro _
    | (extract_lets +onlyGivenNames x; refine cut_follows (kp := kp) (b := b0) (s := x) (fun _ => ?_) ?_; clear_value x; on_goal 2 => subst x)
    | (extract_lets +onlyGivenNames x; refine cut_fst (kp := kp) (b := b0) (p := x) (fun _ => ?_) ?_; clear_value x; on_goal 2 => subst x)
    | (extract_lets +onlyGivenNames x; refine cut_snd (kp := kp) (b := b0) (p := x) (fun _ => ?_) ?_; clear_value x; on_goal 2 => subst x)
    | (extract_lets +onlyGivenNames x; clear_value x) | apply anyService_follows
    | (apply of_fst; apply anyService_follows) | apply drbgDraw_follows | (apply of_snd; apply drbgDraw_follows)
    | apply putHost_follows | (apply of_fst; assumption) | (apply of_snd; assumption) | split | apply fst_mk
    | apply snd_mk | refine of_fst_eq (by assumption) ?_ | refine of_snd_eq (by assumption) ?_
theorem selfTest_follows (h0 : Follows kp b0 s) (c : CmdCtx) (fail : Nat) : FollowsFst kp b0 (selfTest s c fail) := by
  unfold selfTest
  with_reducible repeat' first
    | assumption | intro _ | apply coService_follows | (apply of_fst; apply coService_follows)
    | apply secError_follows | (apply of_fst; assumption) | split | apply fst_mk | refine of_fst_eq (by assumption) ?_
theorem statusService_follows (h0 : Follows kp b0 s) (c : CmdCtx) : FollowsFst kp b0 (statusService s c) := by
  unfold statusService
  with_reducible repeat' first
    | assumption | apply ret_follows | (apply of_fst; assumption) | apply fst_mk | refine of_fst_eq (by assumption) ?_
theorem pairComplete_follows (h0 : Follows kp b0 s) (p : PairProv) (a : PairAnswer) : Follows kp b0 (pairComplete s p
    a) := by
  unfold pairComplete
  with_reducible repeat' first
    | assumption | intro _
    | (extract_lets +onlyGivenNames x; refine cut_follows (kp := kp) (b := b0) (s := x) (fun _ => ?_) ?_; clear_value x; on_goal 2 => subst x)
    | (extract_lets +onlyGivenNames x; clear_value x) | apply regionWrite_follows | apply secSet_follows
    | apply ticketPut_follows | apply vaultSet_follows | split | (fail_if_no_progress apply upd_follows)
theorem pairProvision_follows (h0 : Follows kp b0 s) (c : CmdCtx) (hash : List Byte) (answer : Option PairAnswer) :
    Follows kp b0 (pairProvision s c hash answer) := by
  unfold pairProvision
  with_reducible repeat' first
    | assumption | intro _
    | (extract_lets +onlyGivenNames x; refine cut_follows (kp := kp) (b := b0) (s := x) (fun _ => ?_) ?_; clear_value x; on_goal 2 => subst x)
    | (extract_lets +onlyGivenNames x; refine cut_fst (kp := kp) (b := b0) (p := x) (fun _ => ?_) ?_; clear_value x; on_goal 2 => subst x)
    | (extract_lets +onlyGivenNames x; refine cut_snd (kp := kp) (b := b0) (p := x) (fun _ => ?_) ?_; clear_value x; on_goal 2 => subst x)
    | (extract_lets +onlyGivenNames x; clear_value x) | apply cmdPut_follows | apply coService_follows
    | (apply of_fst; apply coService_follows) | apply drbgDraw_follows | (apply of_snd; apply drbgDraw_follows)
    | apply pairComplete_follows | apply secSet_follows | (apply of_fst; assumption) | (apply of_snd; assumption)
    | split | apply fst_mk | apply snd_mk | refine of_fst_eq (by assumption) ?_
    | refine of_snd_eq (by assumption) ?_ | (fail_if_no_progress apply upd_follows)
theorem pairTimeout_follows (h0 : Follows kp b0 s) : Follows kp b0 (pairTimeout s) := by
  unfold pairTimeout
  with_reducible repeat' first
    | assumption | intro _
    | (extract_lets +onlyGivenNames x; refine cut_follows (kp := kp) (b := b0) (s := x) (fun _ => ?_) ?_; clear_value x; on_goal 2 => subst x)
    | (extract_lets +onlyGivenNames x; clear_value x) | apply nextFree_follows | apply secSet_follows
    | apply ticketPut_follows | split | (fail_if_no_progress apply upd_follows)
theorem pairForget_follows (h0 : Follows kp b0 s) : Follows kp b0 (pairForget s) := by
  unfold pairForget
  with_reducible repeat' first
    | assumption | intro _
    | (extract_lets +onlyGivenNames x; refine cut_follows (kp := kp) (b := b0) (s := x) (fun _ => ?_) ?_; clear_value x; on_goal 2 => subst x)
    | (extract_lets +onlyGivenNames x; clear_value x) | apply vaultSet_follows | apply wfW_follows
    | (fail_if_no_progress apply upd_follows)
theorem unpair_follows (h0 : Follows kp b0 s) (c : CmdCtx) : FollowsFst kp b0 (unpair s c) := by
  unfold unpair
  with_reducible repeat' first
    | assumption | intro _ | apply coService_follows | (apply of_fst; apply coService_follows)
    | apply pairForget_follows | apply vaultService_follows | (apply of_fst; apply vaultService_follows)
    | (apply of_fst; assumption) | apply fst_mk | refine of_fst_eq (by assumption) ?_
theorem zeroize_follows (h0 : Follows kp b0 s) (src : Nat) : Follows kp b0 (zeroize s src) := by
  unfold zeroize
  with_reducible repeat' first
    | assumption | intro _
    | (extract_lets +onlyGivenNames x; refine cut_follows (kp := kp) (b := b0) (s := x) (fun _ => ?_) ?_; clear_value x; on_goal 2 => subst x)
    | (extract_lets +onlyGivenNames x; clear_value x) | apply endSessions_follows | apply keyEraseAll_follows
    | apply secEraseKeys_follows | apply secFatal_follows | apply secSet_follows | apply secUpd_follows
    | apply setSecState_follows | apply wb_follows | (fail_if_no_progress apply upd_follows)
theorem wrappingErased_follows (h0 : Follows kp b0 s) : Follows kp b0 (wrappingErased s) := by
  unfold wrappingErased
  with_reducible repeat' first
    | assumption | intro _
    | (extract_lets +onlyGivenNames x; refine cut_follows (kp := kp) (b := b0) (s := x) (fun _ => ?_) ?_; clear_value x; on_goal 2 => subst x)
    | (extract_lets +onlyGivenNames x; clear_value x) | apply pairForget_follows | apply secSet_follows
    | apply vaultSet_follows | apply foldl_follows | split | (fail_if_no_progress apply upd_follows)
theorem zeroizeWrite_follows (h0 : Follows kp b0 s) (who : Requester) (v : Word) : Follows kp b0 (zeroizeWrite s who
    v) := by
  unfold zeroizeWrite
  with_reducible repeat' first
    | assumption
    | (extract_lets +onlyGivenNames x; refine cut_follows (kp := kp) (b := b0) (s := x) (fun _ => ?_) ?_; clear_value x; on_goal 2 => subst x)
    | (extract_lets +onlyGivenNames x; clear_value x) | apply wrDown_follows | apply wrOk_follows
    | apply wrRefuse_follows | apply zeroize_follows | split
theorem zeroizeService_follows (h0 : Follows kp b0 s) (c : CmdCtx) : FollowsFst kp b0 (zeroizeService s c) := by
  unfold zeroizeService
  with_reducible repeat' first
    | assumption | apply zeroize_follows | (apply of_fst; assumption) | split | apply fst_mk
    | refine of_fst_eq (by assumption) ?_
theorem fiUnlock_follows (h0 : Follows kp b0 s) (c : CmdCtx) : FollowsFst kp b0 (fiUnlock s c) := by
  unfold fiUnlock
  with_reducible repeat' first
    | assumption | intro _ | apply coService_follows | (apply of_fst; apply coService_follows)
    | apply secUpd_follows | apply wb_follows | (apply of_fst; assumption) | split | apply fst_mk
    | refine of_fst_eq (by assumption) ?_
theorem fiRelock_follows (h0 : Follows kp b0 s) : Follows kp b0 (fiRelock s) := by
  unfold fiRelock
  with_reducible repeat' first
    | assumption
    | (extract_lets +onlyGivenNames x; refine cut_follows (kp := kp) (b := b0) (s := x) (fun _ => ?_) ?_; clear_value x; on_goal 2 => subst x)
    | (extract_lets +onlyGivenNames x; clear_value x) | apply keyEraseAll_follows | apply secUpd_follows
    | apply wb_follows | (fail_if_no_progress apply upd_follows)
theorem checkpoint_follows (h0 : Follows kp b0 s) (i : Nat) : Follows kp b0 (checkpoint s i) := by
  unfold checkpoint
  with_reducible repeat' first
    | assumption | intro _
    | (extract_lets +onlyGivenNames x; refine cut_follows (kp := kp) (b := b0) (s := x) (fun _ => ?_) ?_; clear_value x; on_goal 2 => subst x)
    | (extract_lets +onlyGivenNames x; clear_value x) | apply regionWrite_follows | apply vaultSet_follows | split
    | (fail_if_no_progress apply upd_follows)
theorem secCmd_follows (h0 : Follows kp b0 s) (r op : Nat) (f : State → CmdCtx → State × OutRec) (hf : ∀ s x1,
    Follows kp b0 s → FollowsFst kp b0 (f s x1)) : Follows kp b0 (secCmd s r op f) := by
  unfold secCmd
  with_reducible repeat' first
    | assumption | intro _ | apply hf | apply runCmdNow_follows | (apply of_fst; apply hf)
    | (apply of_fst; assumption) | apply fst_mk | refine of_fst_eq (by assumption) ?_
theorem execSecChallengeRead_follows (s : State) (who : Requester) : ∃ t0, execSecChallengeRead who s = .next t0 ∧
    Follows ⟨true, true, true⟩ s t0 := by
  refine ⟨_, rfl, ?_⟩
  have h0 := Follows.refl ⟨true, true, true⟩ s
  with_reducible repeat' first
    | assumption | exact rfl | intro _ | apply challengeRead_follows | apply readUp_follows
theorem execSessionTimeout_follows (s : State) (fn : Nat) : ∃ t0, execSessionTimeout fn s = .next t0 ∧ Follows ⟨true,
    true, true⟩ s t0 := by
  refine ⟨_, rfl, ?_⟩
  have h0 := Follows.refl ⟨true, true, true⟩ s
  with_reducible repeat' first
    | assumption | exact rfl | apply endSession_follows
theorem execLoginLockoutExpire_follows (s : State) (fn role : Nat) : ∃ t0, execLoginLockoutExpire fn role s = .next
    t0 ∧ Follows ⟨true, true, true⟩ s t0 := by
  refine ⟨_, rfl, ?_⟩
  have h0 := Follows.refl ⟨true, true, true⟩ s
  with_reducible repeat' first
    | assumption | exact rfl | intro _ | apply secSet_follows | (fail_if_no_progress apply upd_follows)
theorem execDrbgReseed_follows (s : State) : ∃ t0, execDrbgReseed s = .next t0 ∧ Follows ⟨true, true, true⟩ s t0 := by
  refine ⟨_, rfl, ?_⟩
  have h0 := Follows.refl ⟨true, true, true⟩ s
  with_reducible repeat' first
    | assumption | exact rfl | apply drbgSeed_follows | split
theorem execConditionalTestFail_follows (s : State) (test : Nat) : ∃ t0, execConditionalTestFail test s = .next t0 ∧
    Follows ⟨true, true, true⟩ s t0 := by
  refine ⟨_, rfl, ?_⟩
  have h0 := Follows.refl ⟨true, true, true⟩ s
  with_reducible repeat' first
    | assumption | exact rfl | apply conditionalFail_follows
theorem execCheckpointWrite_follows (s : State) (counter : Nat) : ∃ t0, execCheckpointWrite counter s = .next t0 ∧
    Follows ⟨true, true, true⟩ s t0 := by
  refine ⟨_, rfl, ?_⟩
  have h0 := Follows.refl ⟨true, true, true⟩ s
  with_reducible repeat' first
    | assumption | exact rfl | apply checkpoint_follows
theorem execSecZeroizeWrite_follows (s : State) (who : Requester) (value : Word) : ∃ t0, execSecZeroizeWrite who
    value s = .next t0 ∧ Follows ⟨true, true, true⟩ s t0 := by
  refine ⟨_, rfl, ?_⟩
  have h0 := Follows.refl ⟨true, true, true⟩ s
  with_reducible repeat' first
    | assumption | exact rfl | apply zeroizeWrite_follows
theorem execKeyWrappingAreaErased_follows (s : State) : ∃ t0, execKeyWrappingAreaErased s = .next t0 ∧ Follows ⟨true,
    true, true⟩ s t0 := by
  refine ⟨_, rfl, ?_⟩
  have h0 := Follows.refl ⟨true, true, true⟩ s
  with_reducible repeat' first
    | assumption | exact rfl | apply wrappingErased_follows
theorem execPairProvisionTimeout_follows (s : State) : ∃ t0, execPairProvisionTimeout s = .next t0 ∧ Follows ⟨true,
    true, true⟩ s t0 := by
  refine ⟨_, rfl, ?_⟩
  have h0 := Follows.refl ⟨true, true, true⟩ s
  with_reducible repeat' first
    | assumption | exact rfl | apply pairTimeout_follows
theorem execLogin_follows (s : State) (r role : Nat) (key sig : List Byte) : ∃ t0, execLogin r role key sig s = .next
    t0 ∧ Follows ⟨true, true, true⟩ s t0 := by
  refine ⟨_, rfl, ?_⟩
  have h0 := Follows.refl ⟨true, true, true⟩ s
  with_reducible repeat' first
    | assumption | exact rfl | intro _ | apply login_follows | (apply of_fst; apply login_follows)
    | apply secCmd_follows | (apply of_fst; assumption) | split | apply fst_mk | refine of_fst_eq (by assumption) ?_
theorem execLogout_follows (s : State) (r : Nat) : ∃ t0, execLogout r s = .next t0 ∧ Follows ⟨true, true, true⟩ s t0
    := by
  refine ⟨_, rfl, ?_⟩
  have h0 := Follows.refl ⟨true, true, true⟩ s
  with_reducible repeat' first
    | assumption | exact rfl | intro _ | apply endSession_follows | apply secCmd_follows
    | (apply of_fst; assumption) | split | apply fst_mk | refine of_fst_eq (by assumption) ?_
theorem execSecStatus_follows (s : State) (r : Nat) : ∃ t0, execSecStatus r s = .next t0 ∧ Follows ⟨true, true, true⟩
    s t0 := by
  refine ⟨_, rfl, ?_⟩
  have h0 := Follows.refl ⟨true, true, true⟩ s
  with_reducible repeat' first
    | assumption | exact rfl | intro _ | apply secCmd_follows | apply statusService_follows
    | (apply of_fst; apply statusService_follows) | (apply of_fst; assumption) | apply fst_mk
    | refine of_fst_eq (by assumption) ?_
theorem execZeroize_follows (s : State) (r : Nat) : ∃ t0, execZeroize r s = .next t0 ∧ Follows ⟨true, true, true⟩ s
    t0 := by
  refine ⟨_, rfl, ?_⟩
  have h0 := Follows.refl ⟨true, true, true⟩ s
  with_reducible repeat' first
    | assumption | exact rfl | intro _ | apply secCmd_follows | apply zeroizeService_follows
    | (apply of_fst; apply zeroizeService_follows) | (apply of_fst; assumption) | apply fst_mk
    | refine of_fst_eq (by assumption) ?_
theorem execSelfTest_follows (s : State) (r fail : Nat) : ∃ t0, execSelfTest r fail s = .next t0 ∧ Follows ⟨true,
    true, true⟩ s t0 := by
  refine ⟨_, rfl, ?_⟩
  have h0 := Follows.refl ⟨true, true, true⟩ s
  with_reducible repeat' first
    | assumption | exact rfl | intro _ | apply secCmd_follows | apply selfTest_follows
    | (apply of_fst; apply selfTest_follows) | (apply of_fst; assumption) | apply fst_mk
    | refine of_fst_eq (by assumption) ?_
theorem execCoEnrol_follows (s : State) (r : Nat) (hash : List Byte) (ageS : Nat) : ∃ t0, execCoEnrol r hash ageS s =
    .next t0 ∧ Follows ⟨true, true, true⟩ s t0 := by
  refine ⟨_, rfl, ?_⟩
  have h0 := Follows.refl ⟨true, true, true⟩ s
  with_reducible repeat' first
    | assumption | exact rfl | intro _ | apply coEnrol_follows | (apply of_fst; apply coEnrol_follows)
    | apply secCmd_follows | (apply of_fst; assumption) | apply fst_mk | refine of_fst_eq (by assumption) ?_
theorem execCoCredSet_follows (s : State) (r slot : Nat) (hash : List Byte) : ∃ t0, execCoCredSet r slot hash s =
    .next t0 ∧ Follows ⟨true, true, true⟩ s t0 := by
  refine ⟨_, rfl, ?_⟩
  have h0 := Follows.refl ⟨true, true, true⟩ s
  with_reducible repeat' first
    | assumption | exact rfl | intro _ | apply coCredSet_follows | (apply of_fst; apply coCredSet_follows)
    | apply secCmd_follows | (apply of_fst; assumption) | apply fst_mk | refine of_fst_eq (by assumption) ?_
theorem execUserCredSet_follows (s : State) (r part : Nat) (cred : List Byte) : ∃ t0, execUserCredSet r part cred s =
    .next t0 ∧ Follows ⟨true, true, true⟩ s t0 := by
  refine ⟨_, rfl, ?_⟩
  have h0 := Follows.refl ⟨true, true, true⟩ s
  with_reducible repeat' first
    | assumption | exact rfl | intro _ | apply secCmd_follows | apply userCredSet_follows
    | (apply of_fst; apply userCredSet_follows) | (apply of_fst; assumption) | apply fst_mk
    | refine of_fst_eq (by assumption) ?_
theorem execImgKeySet_follows (s : State) (r : Nat) (ec ml : List Byte) : ∃ t0, execImgKeySet r ec ml s = .next t0 ∧
    Follows ⟨true, true, true⟩ s t0 := by
  refine ⟨_, rfl, ?_⟩
  have h0 := Follows.refl ⟨true, true, true⟩ s
  with_reducible repeat' first
    | assumption | exact rfl | intro _ | apply imgKeySet_follows | (apply of_fst; apply imgKeySet_follows)
    | apply secCmd_follows | (apply of_fst; assumption) | apply fst_mk | refine of_fst_eq (by assumption) ?_
theorem execKtkEstablish_follows (s : State) (r part : Nat) (pub : List Byte) : ∃ t0, execKtkEstablish r part pub s =
    .next t0 ∧ Follows ⟨true, false, true⟩ s t0 := by
  refine ⟨_, rfl, ?_⟩
  have h0 := Follows.refl ⟨true, false, true⟩ s
  with_reducible repeat' first
    | assumption | exact rfl | intro _ | apply ktkEstablish_follows | (apply of_fst; apply ktkEstablish_follows)
    | apply secCmd_follows | (apply of_fst; assumption) | apply fst_mk | refine of_fst_eq (by assumption) ?_
theorem execAttest_follows (s : State) (r : Nat) (nonce : List Byte) : ∃ t0, execAttest r nonce s = .next t0 ∧
    Follows ⟨true, false, true⟩ s t0 := by
  refine ⟨_, rfl, ?_⟩
  have h0 := Follows.refl ⟨true, false, true⟩ s
  with_reducible repeat' first
    | assumption | exact rfl | intro _ | apply attest_follows | (apply of_fst; apply attest_follows)
    | apply secCmd_follows | (apply of_fst; assumption) | apply fst_mk | refine of_fst_eq (by assumption) ?_
theorem execIdentityCertSet_follows (s : State) (r len : Nat) : ∃ t0, execIdentityCertSet r len s = .next t0 ∧
    Follows ⟨true, true, true⟩ s t0 := by
  refine ⟨_, rfl, ?_⟩
  have h0 := Follows.refl ⟨true, true, true⟩ s
  with_reducible repeat' first
    | assumption | exact rfl | intro _ | apply certSet_follows | (apply of_fst; apply certSet_follows)
    | apply secCmd_follows | (apply of_fst; assumption) | apply fst_mk | refine of_fst_eq (by assumption) ?_
theorem execPairProvision_follows (s : State) (r : Nat) (hash : List Byte) (answer : Option (List Byte × List Byte ×
    List Byte)) : ∃ t0, execPairProvision r hash answer s = .next t0 ∧ Follows ⟨true, true, true⟩ s t0 := by
  refine ⟨_, rfl, ?_⟩
  have h0 := Follows.refl ⟨true, true, true⟩ s
  with_reducible repeat' first
    | assumption | exact rfl | intro _ | apply pairProvision_follows | apply runCmd_follows
theorem execUnpair_follows (s : State) (r : Nat) : ∃ t0, execUnpair r s = .next t0 ∧ Follows ⟨true, true, true⟩ s t0
    := by
  refine ⟨_, rfl, ?_⟩
  have h0 := Follows.refl ⟨true, true, true⟩ s
  with_reducible repeat' first
    | assumption | exact rfl | intro _ | apply secCmd_follows | apply unpair_follows
    | (apply of_fst; apply unpair_follows) | (apply of_fst; assumption) | apply fst_mk
    | refine of_fst_eq (by assumption) ?_
theorem execFiUnlock_follows (s : State) (r : Nat) : ∃ t0, execFiUnlock r s = .next t0 ∧ Follows ⟨true, true, true⟩ s
    t0 := by
  refine ⟨_, rfl, ?_⟩
  have h0 := Follows.refl ⟨true, true, true⟩ s
  with_reducible repeat' first
    | assumption | exact rfl | intro _ | apply fiUnlock_follows | (apply of_fst; apply fiUnlock_follows)
    | apply secCmd_follows | (apply of_fst; assumption) | apply fst_mk | refine of_fst_eq (by assumption) ?_
theorem execRandom_follows (s : State) (r n : Nat) : ∃ t0, execRandom r n s = .next t0 ∧ Follows ⟨true, false, true⟩
    s t0 := by
  refine ⟨_, rfl, ?_⟩
  have h0 := Follows.refl ⟨true, false, true⟩ s
  with_reducible repeat' first
    | assumption | exact rfl | intro _ | apply random_follows | (apply of_fst; apply random_follows)
    | apply secCmd_follows | (apply of_fst; assumption) | apply fst_mk | refine of_fst_eq (by assumption) ?_
theorem execFunctionLevelReset_follows (s : State) (fn : Nat) : ∃ t0, execFunctionLevelReset fn s = .next t0 ∧
    Follows ⟨true, true, true⟩ s t0 := by
  refine ⟨_, rfl, ?_⟩
  have h0 := Follows.refl ⟨true, true, true⟩ s
  with_reducible repeat' first
    | assumption | exact rfl | intro _ | apply endSession_follows | apply secSet_follows
    | (fail_if_no_progress apply upd_follows)

end Sys2Proof.Machine
end

