-- ==== Sys2Proof/Laws/TimeKeeps.lean ====
section
/-! SUPPORT. What the functions of Machine/Time.lean keep (Follows), one lemma each. -/
namespace Sys2Proof.Machine

set_option linter.all false
variable {kp : Keep} {b b0 s : State}

theorem timSet_follows (h0 : Follows kp b0 s) (f : TimeSt → TimeSt) : Follows kp b0 (timSet s f) := by
  unfold timSet
  with_reducible repeat' first
    | assumption | (fail_if_no_progress apply upd_follows)
theorem setBase_follows (h0 : Follows kp b0 s) (b : Nat) (x : BaseSt) : Follows kp b0 (setBase s b x) := by
  unfold setBase
  with_reducible repeat' first
    | assumption | intro _ | apply timSet_follows | (fail_if_no_progress apply upd_follows)
theorem putBase_follows (h0 : Follows kp b0 s) (b ticks : Nat) : Follows kp b0 (putBase s b ticks) := by
  unfold putBase
  with_reducible repeat' first
    | assumption | apply wfW_follows
theorem baseAdvance_follows (h0 : Follows kp b0 s) (b : Nat) : Follows kp b0 (baseAdvance s b) := by
  unfold baseAdvance
  with_reducible repeat' first
    | assumption
    | (extract_lets +onlyGivenNames x; refine cut_follows (kp := kp) (b := b0) (s := x) (fun _ => ?_) ?_; clear_value x; on_goal 2 => subst x)
    | (extract_lets +onlyGivenNames x; clear_value x) | apply putBase_follows | apply setBase_follows
    | (fail_if_no_progress apply upd_follows)
theorem setBaseState_follows (h0 : Follows kp b0 s) (b st : Nat) : Follows kp b0 (setBaseState s b st) := by
  unfold setBaseState
  with_reducible repeat' first
    | assumption | apply wf_follows
theorem setAdj_follows (h0 : Follows kp b0 s) (b : Nat) (a : Int) : Follows kp b0 (setAdj s b a) := by
  unfold setAdj
  with_reducible repeat' first
    | assumption | apply setBase_follows | apply wf_follows | (fail_if_no_progress apply upd_follows)
theorem timEvent_follows (h0 : Follows kp b0 s) (bit : Nat) : Follows kp b0 (timEvent s bit) := by
  unfold timEvent
  with_reducible repeat' first
    | assumption | apply evBit_follows
theorem putOffset_follows (h0 : Follows kp b0 s) (b : Nat) (th : Int) (refused : Bool) : Follows kp b0 (putOffset s b
    th refused) := by
  unfold putOffset
  with_reducible repeat' first
    | assumption | apply wrW_follows | split
theorem setHeld_follows (h0 : Follows kp b0 s) (b : Nat) (h : Option Int) : Follows kp b0 (setHeld s b h) := by
  unfold setHeld
  with_reducible repeat' first
    | assumption | apply setBase_follows | apply wb_follows | (fail_if_no_progress apply upd_follows)
theorem holdover_follows (h0 : Follows kp b0 s) (b : Nat) : Follows kp b0 (holdover s b) := by
  unfold holdover
  with_reducible repeat' first
    | assumption | apply setAdj_follows | apply setBaseState_follows | apply timEvent_follows | split
theorem sampleTake_follows (h0 : Follows kp b0 s) (b : Nat) (th : Int) : Follows kp b0 (sampleTake s b th) := by
  unfold sampleTake
  with_reducible repeat' first
    | assumption
    | (extract_lets +onlyGivenNames x; refine cut_follows (kp := kp) (b := b0) (s := x) (fun _ => ?_) ?_; clear_value x; on_goal 2 => subst x)
    | (extract_lets +onlyGivenNames x; clear_value x) | apply holdover_follows | apply putOffset_follows
    | apply setAdj_follows | apply setBase_follows | apply setBaseState_follows | apply setHeld_follows
    | apply timEvent_follows | split | (fail_if_no_progress apply upd_follows)
theorem offsetWrite_follows (h0 : Follows kp b0 s) (who : Requester) (b v : Nat) : Follows kp b0 (offsetWrite s who b
    v) := by
  unfold offsetWrite
  with_reducible repeat' first
    | assumption
    | (extract_lets +onlyGivenNames x; refine cut_follows (kp := kp) (b := b0) (s := x) (fun _ => ?_) ?_; clear_value x; on_goal 2 => subst x)
    | (extract_lets +onlyGivenNames x; clear_value x) | apply putOffset_follows | apply sampleTake_follows
    | apply wrDown_follows | apply wrNotOwner_follows | apply wrOk_follows | split
theorem holdTimeout_follows (h0 : Follows kp b0 s) (b : Nat) : Follows kp b0 (holdTimeout s b) := by
  unfold holdTimeout
  with_reducible repeat' first
    | assumption | apply holdover_follows | split
theorem setBaseAt_follows (h0 : Follows kp b0 s) (b ticks ofs : Nat) : Follows kp b0 (setBaseAt s b ticks ofs) := by
  unfold setBaseAt
  with_reducible repeat' first
    | assumption | apply putBase_follows
theorem baseFirstSet_follows (h0 : Follows kp b0 s) (b ticks ofs : Nat) : Follows kp b0 (baseFirstSet s b ticks ofs)
    := by
  unfold baseFirstSet
  with_reducible repeat' first
    | assumption | apply setBaseAt_follows | apply setBaseState_follows
theorem tbSetWrite_follows (h0 : Follows kp b0 s) (who : Requester) (b v ofs : Nat) : Follows kp b0 (tbSetWrite s who
    b v ofs) := by
  unfold tbSetWrite
  with_reducible repeat' first
    | assumption
    | (extract_lets +onlyGivenNames x; refine cut_follows (kp := kp) (b := b0) (s := x) (fun _ => ?_) ?_; clear_value x; on_goal 2 => subst x)
    | (extract_lets +onlyGivenNames x; clear_value x) | apply baseFirstSet_follows | apply setBase_follows
    | apply wrDown_follows | apply wrOk_follows | apply wrRefuse_follows | split
    | (fail_if_no_progress apply upd_follows)
theorem dmaReq_follows (h0 : Follows kp b0 s) (l : Nat) : Follows kp b0 (dmaReq s l) := by
  unfold dmaReq
  with_reducible repeat' first
    | assumption
    | (extract_lets +onlyGivenNames x; refine cut_follows (kp := kp) (b := b0) (s := x) (fun _ => ?_) ?_; clear_value x; on_goal 2 => subst x)
    | (extract_lets +onlyGivenNames x; clear_value x) | apply wb_follows | apply wf_follows | split
theorem ppsSample_follows (h0 : Follows kp b0 s) (ofs : Nat) (named : Option Nat) (b : Nat) : Follows kp b0
    (ppsSample s ofs named b) := by
  unfold ppsSample
  with_reducible repeat' first
    | assumption | intro _
    | (extract_lets +onlyGivenNames x; refine cut_follows (kp := kp) (b := b0) (s := x) (fun _ => ?_) ?_; clear_value x; on_goal 2 => subst x)
    | (extract_lets +onlyGivenNames x; refine cut_fun (kp := kp) (b := b0) (f := x) (fun _ => ?_) ?_; clear_value x; on_goal 2 => subst x)
    | (extract_lets +onlyGivenNames x; refine cut_fun2 (kp := kp) (b := b0) (f := x) (fun _ => ?_) ?_; clear_value x; on_goal 2 => subst x)
    | (extract_lets +onlyGivenNames x; refine cut_fun3 (kp := kp) (b := b0) (f := x) (fun _ => ?_) ?_; clear_value x; on_goal 2 => subst x)
    | (extract_lets +onlyGivenNames x; refine cut_fun4 (kp := kp) (b := b0) (f := x) (fun _ => ?_) ?_; clear_value x; on_goal 2 => subst x)
    | (extract_lets +onlyGivenNames x; refine cut_fun5 (kp := kp) (b := b0) (f := x) (fun _ => ?_) ?_; clear_value x; on_goal 2 => subst x)
    | (extract_lets +onlyGivenNames x; refine cut_fun6 (kp := kp) (b := b0) (f := x) (fun _ => ?_) ?_; clear_value x; on_goal 2 => subst x)
    | (extract_lets +onlyGivenNames x; clear_value x) | apply baseFirstSet_follows | apply sampleTake_follows
    | split | apply_assumption | (apply of_fst; apply_assumption) | (apply of_snd; apply_assumption)
theorem ppsEdge_follows (h0 : Follows kp b0 s) (ofs : Nat) : Follows kp b0 (ppsEdge s ofs) := by
  unfold ppsEdge
  with_reducible repeat' first
    | assumption | intro _
    | (extract_lets +onlyGivenNames x; refine cut_follows (kp := kp) (b := b0) (s := x) (fun _ => ?_) ?_; clear_value x; on_goal 2 => subst x)
    | (extract_lets +onlyGivenNames x; clear_value x) | apply ppsSample_follows | apply satF_follows
    | apply timEvent_follows | apply timSet_follows | apply wb_follows | apply foldl_follows | split
    | (fail_if_no_progress apply upd_follows)
theorem todMessage_follows (h0 : Follows kp b0 s) (m : List Byte) (ofs : Nat) : Follows kp b0 (todMessage s m ofs) :=
    by
  unfold todMessage
  with_reducible repeat' first
    | assumption | intro _
    | (extract_lets +onlyGivenNames x; refine cut_follows (kp := kp) (b := b0) (s := x) (fun _ => ?_) ?_; clear_value x; on_goal 2 => subst x)
    | (extract_lets +onlyGivenNames x; clear_value x) | apply timEvent_follows | apply timSet_follows | split
    | (fail_if_no_progress apply upd_follows)
theorem ppsStuck_follows (h0 : Follows kp b0 s) : Follows kp b0 (ppsStuck s) := by
  unfold ppsStuck
  with_reducible repeat' first
    | assumption | apply timEvent_follows | split
theorem ppsPulse_follows (h0 : Follows kp b0 s) (ofs : Nat) : Follows kp b0 (ppsPulse s ofs) := by
  unfold ppsPulse
  with_reducible repeat' first
    | assumption
    | (extract_lets +onlyGivenNames x; refine cut_follows (kp := kp) (b := b0) (s := x) (fun _ => ?_) ?_; clear_value x; on_goal 2 => subst x)
    | (extract_lets +onlyGivenNames x; clear_value x) | apply emitPin_follows | split
theorem setCap_follows (h0 : Follows kp b0 s) (i : Nat) (c : CapSt) : Follows kp b0 (setCap s i c) := by
  unfold setCap
  with_reducible repeat' first
    | assumption | intro _ | apply timSet_follows | apply wf_follows | (fail_if_no_progress apply upd_follows)
theorem capReq_follows (h0 : Follows kp b0 s) (i : Nat) : Follows kp b0 (capReq s i) := by
  unfold capReq
  with_reducible repeat' first
    | assumption | apply dmaReq_follows
theorem capPut_follows (h0 : Follows kp b0 s) (i time : Nat) (rising stuck : Bool) : Follows kp b0 (capPut s i time
    rising stuck) := by
  unfold capPut
  with_reducible repeat' first
    | assumption
    | (extract_lets +onlyGivenNames x; refine cut_follows (kp := kp) (b := b0) (s := x) (fun _ => ?_) ?_; clear_value x; on_goal 2 => subst x)
    | (extract_lets +onlyGivenNames x; clear_value x) | apply capReq_follows | apply satF_follows
    | apply setCap_follows | split | (fail_if_no_progress apply upd_follows)
theorem capEdge_follows (h0 : Follows kp b0 s) (i : Nat) (rising : Bool) (ofs : Nat) : Follows kp b0 (capEdge s i
    rising ofs) := by
  unfold capEdge
  with_reducible repeat' first
    | assumption
    | (extract_lets +onlyGivenNames x; refine cut_follows (kp := kp) (b := b0) (s := x) (fun _ => ?_) ?_; clear_value x; on_goal 2 => subst x)
    | (extract_lets +onlyGivenNames x; clear_value x) | apply capPut_follows | apply satF_follows
    | apply setCap_follows | apply wb_follows | split | (fail_if_no_progress apply upd_follows)
theorem capStuck_follows (h0 : Follows kp b0 s) (i ofs : Nat) : Follows kp b0 (capStuck s i ofs) := by
  unfold capStuck
  with_reducible repeat' first
    | assumption
    | (extract_lets +onlyGivenNames x; refine cut_follows (kp := kp) (b := b0) (s := x) (fun _ => ?_) ?_; clear_value x; on_goal 2 => subst x)
    | (extract_lets +onlyGivenNames x; clear_value x) | apply capPut_follows | apply timEvent_follows
    | apply wb_follows | split
theorem latchWords_follows (h : Follows kp b s) (who : Requester) (a v n : Nat) : Follows kp b (latchWords s who a v n) := by
  induction n generalizing s a v with
  | zero => exact h
  | succ n ih => exact ih (wrReq_follows h _ _ _) _ _

theorem capRead_follows (h0 : Follows kp b0 s) (who : Requester) (i : Nat) : Follows kp b0 (capRead s who i) := by
  unfold capRead
  with_reducible repeat' first
    | assumption
    | (extract_lets +onlyGivenNames x; refine cut_follows (kp := kp) (b := b0) (s := x) (fun _ => ?_) ?_; clear_value x; on_goal 2 => subst x)
    | (extract_lets +onlyGivenNames x; clear_value x) | apply latchWords_follows | apply ret_follows
    | apply setCap_follows | (fail_if_no_progress apply upd_follows)
theorem c50Arm_follows (h0 : Follows kp b0 s) (who : Requester) (c : Nat) (v : Word) : Follows kp b0 (c50Arm s who c
    v) := by
  unfold c50Arm
  with_reducible repeat' first
    | assumption
    | (extract_lets +onlyGivenNames x; refine cut_follows (kp := kp) (b := b0) (s := x) (fun _ => ?_) ?_; clear_value x; on_goal 2 => subst x)
    | (extract_lets +onlyGivenNames x; clear_value x) | apply wrDown_follows | apply wrNotOwner_follows
    | apply wrOk_follows | apply wrW_follows | split
theorem c50Latch_follows (h0 : Follows kp b0 s) (c sfc : Nat) : Follows kp b0 (c50Latch s c sfc) := by
  unfold c50Latch
  with_reducible repeat' first
    | assumption
    | (extract_lets +onlyGivenNames x; refine cut_follows (kp := kp) (b := b0) (s := x) (fun _ => ?_) ?_; clear_value x; on_goal 2 => subst x)
    | (extract_lets +onlyGivenNames x; clear_value x) | apply wrW_follows | split
theorem execOffsetSample_follows (s : State) (who : Requester) (b value : Nat) : ∃ t0, execOffsetSample who b value s
    = .next t0 ∧ Follows ⟨true, true, true⟩ s t0 := by
  refine ⟨_, rfl, ?_⟩
  have h0 := Follows.refl ⟨true, true, true⟩ s
  with_reducible repeat' first
    | assumption | exact rfl | apply offsetWrite_follows | split
theorem execHoldTimeout_follows (s : State) (b : Nat) : ∃ t0, execHoldTimeout b s = .next t0 ∧ Follows ⟨true, true,
    true⟩ s t0 := by
  refine ⟨_, rfl, ?_⟩
  have h0 := Follows.refl ⟨true, true, true⟩ s
  with_reducible repeat' first
    | assumption | exact rfl | apply holdTimeout_follows | split
theorem execTbSet_follows (s : State) (who : Requester) (b value ofs : Nat) : ∃ t0, execTbSet who b value ofs s =
    .next t0 ∧ Follows ⟨true, true, true⟩ s t0 := by
  refine ⟨_, rfl, ?_⟩
  have h0 := Follows.refl ⟨true, true, true⟩ s
  with_reducible repeat' first
    | assumption | exact rfl | apply tbSetWrite_follows | split
theorem execPpsInEdge_follows (s : State) (ofs : Nat) : ∃ t0, execPpsInEdge ofs s = .next t0 ∧ Follows ⟨true, true,
    true⟩ s t0 := by
  refine ⟨_, rfl, ?_⟩
  have h0 := Follows.refl ⟨true, true, true⟩ s
  with_reducible repeat' first
    | assumption | exact rfl | apply ppsEdge_follows
theorem execTodInMessage_follows (s : State) (msg : List Byte) (ofs : Nat) : ∃ t0, execTodInMessage msg ofs s = .next
    t0 ∧ Follows ⟨true, true, true⟩ s t0 := by
  refine ⟨_, rfl, ?_⟩
  have h0 := Follows.refl ⟨true, true, true⟩ s
  with_reducible repeat' first
    | assumption | exact rfl | apply todMessage_follows
theorem execPpsStuck_follows (s : State) : ∃ t0, execPpsStuck s = .next t0 ∧ Follows ⟨true, true, true⟩ s t0 := by
  refine ⟨_, rfl, ?_⟩
  have h0 := Follows.refl ⟨true, true, true⟩ s
  with_reducible repeat' first
    | assumption | exact rfl | apply ppsStuck_follows
theorem execPpsOutPulse_follows (s : State) (ofs : Nat) : ∃ t0, execPpsOutPulse ofs s = .next t0 ∧ Follows ⟨true,
    true, true⟩ s t0 := by
  refine ⟨_, rfl, ?_⟩
  have h0 := Follows.refl ⟨true, true, true⟩ s
  with_reducible repeat' first
    | assumption | exact rfl | apply ppsPulse_follows
theorem execCaptureEdge_follows (s : State) (i : Nat) (rising : Bool) (ofs : Nat) : ∃ t0, execCaptureEdge i rising
    ofs s = .next t0 ∧ Follows ⟨true, true, true⟩ s t0 := by
  refine ⟨_, rfl, ?_⟩
  have h0 := Follows.refl ⟨true, true, true⟩ s
  with_reducible repeat' first
    | assumption | exact rfl | apply capEdge_follows | split
theorem execCaptureStuck_follows (s : State) (i ofs : Nat) : ∃ t0, execCaptureStuck i ofs s = .next t0 ∧ Follows
    ⟨true, true, true⟩ s t0 := by
  refine ⟨_, rfl, ?_⟩
  have h0 := Follows.refl ⟨true, true, true⟩ s
  with_reducible repeat' first
    | assumption | exact rfl | apply capStuck_follows | split
theorem execCapFifoRead_follows (s : State) (who : Requester) (i : Nat) : ∃ t0, execCapFifoRead who i s = .next t0 ∧
    Follows ⟨true, true, true⟩ s t0 := by
  refine ⟨_, rfl, ?_⟩
  have h0 := Follows.refl ⟨true, true, true⟩ s
  with_reducible repeat' first
    | assumption | exact rfl | intro _ | apply capRead_follows | apply readUp_follows | split
theorem execC50TimeLatchArm_follows (s : State) (who : Requester) (c : Nat) (sfc : Word) : ∃ t0, execC50TimeLatchArm
    who c sfc s = .next t0 ∧ Follows ⟨true, true, true⟩ s t0 := by
  refine ⟨_, rfl, ?_⟩
  have h0 := Follows.refl ⟨true, true, true⟩ s
  with_reducible repeat' first
    | assumption | exact rfl | apply c50Arm_follows | split

end Sys2Proof.Machine
end

