-- ==== Sys2Proof/Laws/DmaCoreKeeps.lean ====
section
/-! SUPPORT. What the functions of Machine/DmaCore.lean keep (Follows), one lemma each. -/
namespace Sys2Proof.Machine

set_option linter.all false
variable {kp : Keep} {b b0 s : State}

theorem setDmaFld_follows (h0 : Follows kp b0 s) (d hi lo v : Nat) : Follows kp b0 (setDmaFld s d hi lo v) := by
  unfold setDmaFld
  with_reducible repeat' first
    | assumption | apply wfW_follows
theorem setDmaState_follows (h0 : Follows kp b0 s) (d st : Nat) : Follows kp b0 (setDmaState s d st) := by
  unfold setDmaState
  with_reducible repeat' first
    | assumption | apply setDmaFld_follows
theorem setDmaPc_follows (h0 : Follows kp b0 s) (d pc : Nat) : Follows kp b0 (setDmaPc s d pc) := by
  unfold setDmaPc
  with_reducible repeat' first
    | assumption | apply pc_follows | apply setDmaFld_follows
theorem setResidue_follows (h0 : Follows kp b0 s) (d n : Nat) : Follows kp b0 (setResidue s d n) := by
  unfold setResidue
  with_reducible repeat' first
    | assumption | apply setDmaFld_follows
theorem setDmaProg_follows (h0 : Follows kp b0 s) (d : Nat) (p : DmaProg) : Follows kp b0 (setDmaProg s d p) := by
  unfold setDmaProg
  with_reducible repeat' first
    | assumption | (fail_if_no_progress apply upd_follows)
theorem dmaUpd_follows (h0 : Follows kp b0 s) (d : Nat) (f : DmaProg → DmaProg) : Follows kp b0 (dmaUpd s d f) := by
  unfold dmaUpd
  with_reducible repeat' first
    | assumption | apply setDmaProg_follows | split
theorem dmaStart_follows (h0 : Follows kp b0 s) (d : Nat) : FollowsOpt kp b0 (dmaStart s d) := by
  unfold dmaStart
  with_reducible repeat' first
    | assumption
    | (extract_lets +onlyGivenNames x; refine cut_follows (kp := kp) (b := b0) (s := x) (fun _ => ?_) ?_; clear_value x; on_goal 2 => subst x)
    | (extract_lets +onlyGivenNames x; refine cut_fst (kp := kp) (b := b0) (p := x) (fun _ => ?_) ?_; clear_value x; on_goal 2 => subst x)
    | (extract_lets +onlyGivenNames x; clear_value x) | apply dmaOutPut_follows
    | (apply of_fst; apply dmaOutPut_follows) | apply setDmaFld_follows | apply setDmaPc_follows
    | apply setDmaProg_follows | apply setDmaState_follows | apply setResidue_follows | (apply of_fst; assumption)
    | apply opt_some | apply opt_none | apply of_getD | split | apply fst_mk | refine of_fst_eq (by assumption) ?_
    | refine of_opt_eq (by assumption) ?_ | (fail_if_no_progress apply upd_follows)
theorem dmaFinal_follows (h0 : Follows kp b0 s) (d : Nat) (p : DmaProg) (st err : Nat) (r : OutRec) : Follows kp b0
    (dmaFinal s d p st err r) := by
  unfold dmaFinal
  with_reducible repeat' first
    | assumption
    | (extract_lets +onlyGivenNames x; refine cut_follows (kp := kp) (b := b0) (s := x) (fun _ => ?_) ?_; clear_value x; on_goal 2 => subst x)
    | (extract_lets +onlyGivenNames x; clear_value x) | apply putRec_follows | apply setDmaFld_follows
    | apply setDmaState_follows | (fail_if_no_progress apply upd_follows)
theorem dmaEndVec_follows (h0 : Follows kp b0 s) (d : Nat) : Follows kp b0 (dmaEndVec s d) := by
  unfold dmaEndVec
  with_reducible repeat' first
    | assumption | apply sendMsix_follows | split
theorem dmaStop_follows (h0 : Follows kp b0 s) (d st err : Nat) (partly lastBeat : Bool) : Follows kp b0 (dmaStop s d
    st err partly lastBeat) := by
  unfold dmaStop
  with_reducible repeat' first
    | assumption
    | (extract_lets +onlyGivenNames x; refine cut_follows (kp := kp) (b := b0) (s := x) (fun _ => ?_) ?_; clear_value x; on_goal 2 => subst x)
    | (extract_lets +onlyGivenNames x; clear_value x) | apply dmaEndVec_follows | apply dmaFinal_follows
    | apply setDmaFld_follows | split | (fail_if_no_progress apply upd_follows)
theorem dmaAbort_follows (h0 : Follows kp b0 s) (d err : Nat) : Follows kp b0 (dmaAbort s d err) := by
  unfold dmaAbort
  with_reducible repeat' first
    | assumption | apply dmaStop_follows
theorem dmaFail_follows (h0 : Follows kp b0 s) (d err : Nat) : Follows kp b0 (dmaFail s d err) := by
  unfold dmaFail
  with_reducible repeat' first
    | assumption | apply dmaStop_follows
theorem dmaLinkDown_follows (h0 : Follows kp b0 s) : Follows kp b0 (dmaLinkDown s) := by
  unfold dmaLinkDown
  with_reducible repeat' first
    | assumption | intro _ | apply dmaAbort_follows | apply foldl_follows
theorem dmaStartWrite_follows (h0 : Follows kp b0 s) (who : Requester) (d : Nat) : Follows kp b0 (dmaStartWrite s who
    d) := by
  unfold dmaStartWrite
  with_reducible repeat' first
    | assumption
    | (extract_lets +onlyGivenNames x; refine cut_follows (kp := kp) (b := b0) (s := x) (fun _ => ?_) ?_; clear_value x; on_goal 2 => subst x)
    | (extract_lets +onlyGivenNames x; refine cut_opt (kp := kp) (b := b0) (o := x) (fun _ => ?_) ?_; clear_value x; on_goal 2 => subst x)
    | (extract_lets +onlyGivenNames x; clear_value x) | apply dmaStart_follows | apply wrDown_follows
    | apply wrOk_follows | apply wrRefuse_follows | apply opt_some | apply opt_none | apply of_getD | split
    | refine of_opt_eq (by assumption) ?_
theorem dmaAbortWrite_follows (h0 : Follows kp b0 s) (who : Requester) (d : Nat) : Follows kp b0 (dmaAbortWrite s who
    d) := by
  unfold dmaAbortWrite
  with_reducible repeat' first
    | assumption
    | (extract_lets +onlyGivenNames x; refine cut_follows (kp := kp) (b := b0) (s := x) (fun _ => ?_) ?_; clear_value x; on_goal 2 => subst x)
    | (extract_lets +onlyGivenNames x; clear_value x) | apply dmaAbort_follows | apply wrDown_follows
    | apply wrOk_follows | apply wrRefuse_follows | split
theorem reqRaiseWrite_follows (h0 : Follows kp b0 s) (who : Requester) (v : Word) : Follows kp b0 (reqRaiseWrite s
    who v) := by
  unfold reqRaiseWrite
  with_reducible repeat' first
    | assumption | intro _
    | (extract_lets +onlyGivenNames x; refine cut_follows (kp := kp) (b := b0) (s := x) (fun _ => ?_) ?_; clear_value x; on_goal 2 => subst x)
    | (extract_lets +onlyGivenNames x; clear_value x) | apply dmaReq_follows | apply wrDown_follows
    | apply wrOk_follows | apply foldl_follows | split
theorem reqEdge_follows (h0 : Follows kp b0 s) (n heldNs : Nat) : Follows kp b0 (reqEdge s n heldNs) := by
  unfold reqEdge
  with_reducible repeat' first
    | assumption | apply dmaReq_follows | split
theorem reqTake_follows (h0 : Follows kp b0 s) (d l : Nat) : FollowsOpt kp b0 (reqTake s d l) := by
  unfold reqTake
  with_reducible repeat' first
    | assumption | intro _
    | (extract_lets +onlyGivenNames x; refine cut_follows (kp := kp) (b := b0) (s := x) (fun _ => ?_) ?_; clear_value x; on_goal 2 => subst x)
    | (extract_lets +onlyGivenNames x; clear_value x) | apply wf_follows | apply opt_some | apply opt_none
    | apply of_getD | split | refine of_opt_eq (by assumption) ?_
theorem hostRingWrite_follows (hkhost : kp.host = false) (h0 : Follows kp b0 s) : Follows kp b0 (hostRingWrite s) :=
    by
  unfold hostRingWrite
  with_reducible repeat' first
    | assumption
    | (extract_lets +onlyGivenNames x; refine cut_follows (kp := kp) (b := b0) (s := x) (fun _ => ?_) ?_; clear_value x; on_goal 2 => subst x)
    | (extract_lets +onlyGivenNames x; refine cut_fst (kp := kp) (b := b0) (p := x) (fun _ => ?_) ?_; clear_value x; on_goal 2 => subst x)
    | (extract_lets +onlyGivenNames x; clear_value x) | apply bufFree_follows
    | (apply of_fst; apply bufFree_follows) | apply putHost_follows | apply ringSource_follows | apply wfW_follows
    | (apply of_fst; assumption) | split | apply fst_mk | refine of_fst_eq (by assumption) ?_
    | (fail_if_no_progress apply upd_follows)
theorem flashCmd_follows (h0 : Follows kp b0 s) (c : CmdCtx) (slot ofs len : Nat) (f : Nat → State) (hf : ∀ x0,
    Follows kp b0 (f x0)) : FollowsFst kp b0 (flashCmd s c slot ofs len f) := by
  unfold flashCmd
  with_reducible repeat' first
    | assumption | apply hf | (apply of_fst; assumption) | split | apply fst_mk | refine of_fst_eq (by assumption) ?_
theorem flashWrite_follows (hk : kp.flash = false) (h : Follows kp b s) (c : CmdCtx) (slot ofs host len : Nat) :
    FollowsFst kp b (flashWrite s c slot ofs host len) :=
  flashCmd_follows h c slot ofs len _ fun a => flash_follows hk h a _

theorem flashErase_follows (hk : kp.flash = false) (h : Follows kp b s) (c : CmdCtx) (slot ofs len : Nat) :
    FollowsFst kp b (flashErase s c slot ofs len) :=
  flashCmd_follows h c slot ofs len _ fun a => flash_filter_follows hk h _

theorem flashRead_follows (hkhost : kp.host = false) (h0 : Follows kp b0 s) (c : CmdCtx) (slot ofs host len : Nat) :
    FollowsFst kp b0 (flashRead s c slot ofs host len) := by
  unfold flashRead
  with_reducible repeat' first
    | assumption | intro _ | apply flashCmd_follows | (apply of_fst; apply flashCmd_follows) | apply putHost_follows
    | (apply of_fst; assumption) | apply fst_mk | refine of_fst_eq (by assumption) ?_
theorem execFlashWrite_follows (s : State) (r slot ofs host len : Nat) : ∃ t0, execFlashWrite r slot ofs host len s =
    .next t0 ∧ Follows ⟨false, true, true⟩ s t0 := by
  refine ⟨_, rfl, ?_⟩
  have h0 := Follows.refl ⟨false, true, true⟩ s
  with_reducible repeat' first
    | assumption | exact rfl | intro _ | apply flashWrite_follows | (apply of_fst; apply flashWrite_follows)
    | apply runCmdNow_follows | (apply of_fst; assumption) | apply fst_mk | refine of_fst_eq (by assumption) ?_
theorem execFlashErase_follows (s : State) (r slot ofs len : Nat) : ∃ t0, execFlashErase r slot ofs len s = .next t0
    ∧ Follows ⟨false, true, true⟩ s t0 := by
  refine ⟨_, rfl, ?_⟩
  have h0 := Follows.refl ⟨false, true, true⟩ s
  with_reducible repeat' first
    | assumption | exact rfl | intro _ | apply flashErase_follows | (apply of_fst; apply flashErase_follows)
    | apply runCmdNow_follows | (apply of_fst; assumption) | apply fst_mk | refine of_fst_eq (by assumption) ?_
theorem execFlashRead_follows (s : State) (r slot ofs host len : Nat) : ∃ t0, execFlashRead r slot ofs host len s =
    .next t0 ∧ Follows ⟨true, false, true⟩ s t0 := by
  refine ⟨_, rfl, ?_⟩
  have h0 := Follows.refl ⟨true, false, true⟩ s
  with_reducible repeat' first
    | assumption | exact rfl | intro _ | apply flashRead_follows | (apply of_fst; apply flashRead_follows)
    | apply runCmdNow_follows | (apply of_fst; assumption) | apply fst_mk | refine of_fst_eq (by assumption) ?_
theorem execHostRingWrite_follows (s : State) : ∃ t0, execHostRingWrite s = .next t0 ∧ Follows ⟨true, false, true⟩ s
    t0 := by
  refine ⟨_, rfl, ?_⟩
  have h0 := Follows.refl ⟨true, false, true⟩ s
  with_reducible repeat' first
    | assumption | exact rfl | intro _ | apply dataUp_follows | apply hostRingWrite_follows
theorem execDmaStart_follows (s : State) (who : Requester) (d : Nat) : ∃ t0, execDmaStart who d s = .next t0 ∧
    Follows ⟨true, true, true⟩ s t0 := by
  refine ⟨_, rfl, ?_⟩
  have h0 := Follows.refl ⟨true, true, true⟩ s
  with_reducible repeat' first
    | assumption | exact rfl | apply dmaStartWrite_follows | split
theorem execDmaAbort_follows (s : State) (who : Requester) (d : Nat) : ∃ t0, execDmaAbort who d s = .next t0 ∧
    Follows ⟨true, true, true⟩ s t0 := by
  refine ⟨_, rfl, ?_⟩
  have h0 := Follows.refl ⟨true, true, true⟩ s
  with_reducible repeat' first
    | assumption | exact rfl | apply dmaAbortWrite_follows | split
theorem execDmaReqRaise_follows (s : State) (who : Requester) (value : Word) : ∃ t0, execDmaReqRaise who value s =
    .next t0 ∧ Follows ⟨true, true, true⟩ s t0 := by
  refine ⟨_, rfl, ?_⟩
  have h0 := Follows.refl ⟨true, true, true⟩ s
  with_reducible repeat' first
    | assumption | exact rfl | apply reqRaiseWrite_follows
theorem execDmaReqEdge_follows (s : State) (n heldNs : Nat) : ∃ t0, execDmaReqEdge n heldNs s = .next t0 ∧ Follows
    ⟨true, true, true⟩ s t0 := by
  refine ⟨_, rfl, ?_⟩
  have h0 := Follows.refl ⟨true, true, true⟩ s
  with_reducible repeat' first
    | assumption | exact rfl | apply reqEdge_follows

end Sys2Proof.Machine
end

