-- ==== Sys2Proof/Laws/ActionsKeeps.lean ====
section
/-! SUPPORT. What the functions of Machine/Actions.lean keep (Follows), one lemma each. -/
namespace Sys2Proof.Machine

set_option linter.all false
variable {kp : Keep} {b b0 s : State}

theorem setAct_follows (h0 : Follows kp b0 s) (n hi lo v : Nat) : Follows kp b0 (setAct s n hi lo v) := by
  unfold setAct
  with_reducible repeat' first
    | assumption | apply wfW_follows
theorem setActStatus_follows (h0 : Follows kp b0 s) (n st : Nat) : Follows kp b0 (setActStatus s n st) := by
  unfold setActStatus
  with_reducible repeat' first
    | assumption | apply setAct_follows
theorem actWrite_follows (h0 : Follows kp b0 s) (f t : Nat) (w : State → Requester → State) (hw : ∀ s x1, Follows kp
    b0 s → Follows kp b0 (w s x1)) : FollowsFst kp b0 (actWrite s f t w) := by
  unfold actWrite
  with_reducible repeat' first
    | assumption
    | (extract_lets +onlyGivenNames x; refine cut_follows (kp := kp) (b := b0) (s := x) (fun _ => ?_) ?_; clear_value x; on_goal 2 => subst x)
    | (extract_lets +onlyGivenNames x; clear_value x) | apply hw | (apply of_fst; assumption) | split | apply fst_mk
    | refine of_fst_eq (by assumption) ?_ | (fail_if_no_progress apply upd_follows)
theorem actPulse_follows (h0 : Follows kp b0 s) (n : Nat) : Follows kp b0 (actPulse s n) := by
  unfold actPulse
  with_reducible repeat' first
    | assumption | intro _
    | (extract_lets +onlyGivenNames x; refine cut_follows (kp := kp) (b := b0) (s := x) (fun _ => ?_) ?_; clear_value x; on_goal 2 => subst x)
    | (extract_lets +onlyGivenNames x; clear_value x) | apply dmaReq_follows | apply emitPin_follows
    | apply timSet_follows | (fail_if_no_progress apply upd_follows)
theorem actDo_follows (hktabs : kp.tabs = false) (h0 : Follows kp b0 s) (n ofs : Nat) : FollowsFst kp b0 (actDo s n
    ofs) := by
  unfold actDo
  with_reducible repeat' first
    | assumption | intro _
    | (extract_lets +onlyGivenNames x; refine cut_follows (kp := kp) (b := b0) (s := x) (fun _ => ?_) ?_; clear_value x; on_goal 2 => subst x)
    | (extract_lets +onlyGivenNames x; refine cut_fst (kp := kp) (b := b0) (p := x) (fun _ => ?_) ?_; clear_value x; on_goal 2 => subst x)
    | (extract_lets +onlyGivenNames x; refine cut_opt (kp := kp) (b := b0) (o := x) (fun _ => ?_) ?_; clear_value x; on_goal 2 => subst x)
    | (extract_lets +onlyGivenNames x; clear_value x) | apply actPulse_follows | apply actWrite_follows
    | (apply of_fst; apply actWrite_follows) | apply dmaStart_follows | apply eclipseWrite_follows
    | apply gclInstallWrite_follows | apply keySlotWrite_follows | apply snapshot_follows
    | (apply of_fst; apply snapshot_follows) | apply trReqWrite_follows | (apply of_fst; assumption)
    | apply opt_some | apply opt_none | apply of_getD | split | apply fst_mk | refine of_fst_eq (by assumption) ?_
    | refine of_opt_eq (by assumption) ?_
theorem actMissed_follows (h0 : Follows kp b0 s) (n k : Nat) : Follows kp b0 (actMissed s n k) := by
  unfold actMissed
  with_reducible repeat' first
    | assumption | apply setAct_follows
theorem actNext_follows (h0 : Follows kp b0 s) (n ticks : Nat) : Follows kp b0 (actNext s n ticks) := by
  unfold actNext
  with_reducible repeat' first
    | assumption | apply setAct_follows
theorem actAfter_follows (h0 : Follows kp b0 s) (n next : Nat) : Follows kp b0 (actAfter s n next) := by
  unfold actAfter
  with_reducible repeat' first
    | assumption | intro _
    | (extract_lets +onlyGivenNames x; refine cut_follows (kp := kp) (b := b0) (s := x) (fun _ => ?_) ?_; clear_value x; on_goal 2 => subst x)
    | (extract_lets +onlyGivenNames x; clear_value x) | apply actNext_follows | apply setActStatus_follows
    | apply timSet_follows | split | (fail_if_no_progress apply upd_follows)
theorem actRun_follows (hktabs : kp.tabs = false) (h0 : Follows kp b0 s) (n ofs : Nat) (late : Bool) (next : Nat) :
    Follows kp b0 (actRun s n ofs late next) := by
  unfold actRun
  with_reducible repeat' first
    | assumption
    | (extract_lets +onlyGivenNames x; refine cut_follows (kp := kp) (b := b0) (s := x) (fun _ => ?_) ?_; clear_value x; on_goal 2 => subst x)
    | (extract_lets +onlyGivenNames x; refine cut_fst (kp := kp) (b := b0) (p := x) (fun _ => ?_) ?_; clear_value x; on_goal 2 => subst x)
    | (extract_lets +onlyGivenNames x; clear_value x) | apply actAfter_follows | apply actDo_follows
    | (apply of_fst; apply actDo_follows) | apply actMissed_follows | apply setAct_follows
    | apply setActStatus_follows | apply timEvent_follows | (apply of_fst; assumption) | split | apply fst_mk
    | refine of_fst_eq (by assumption) ?_
theorem actDue_follows (hktabs : kp.tabs = false) (h0 : Follows kp b0 s) (kind n ofs : Nat) : Follows kp b0 (actDue s
    kind n ofs) := by
  unfold actDue
  with_reducible repeat' first
    | assumption
    | (extract_lets +onlyGivenNames x; refine cut_follows (kp := kp) (b := b0) (s := x) (fun _ => ?_) ?_; clear_value x; on_goal 2 => subst x)
    | (extract_lets +onlyGivenNames x; clear_value x) | apply actRun_follows | split
theorem actArm_follows (hktabs : kp.tabs = false) (h0 : Follows kp b0 s) (n ofs : Nat) : Follows kp b0 (actArm s n
    ofs) := by
  unfold actArm
  with_reducible repeat' first
    | assumption | intro _
    | (extract_lets +onlyGivenNames x; refine cut_follows (kp := kp) (b := b0) (s := x) (fun _ => ?_) ?_; clear_value x; on_goal 2 => subst x)
    | (extract_lets +onlyGivenNames x; clear_value x) | apply actMissed_follows | apply actRun_follows
    | apply setAct_follows | apply setActStatus_follows | apply timEvent_follows | apply timSet_follows | split
    | (fail_if_no_progress apply upd_follows)
theorem actCommit_follows (hktabs : kp.tabs = false) (h0 : Follows kp b0 s) (who : Requester) (n v ofs : Nat) :
    Follows kp b0 (actCommit s who n v ofs) := by
  unfold actCommit
  with_reducible repeat' first
    | assumption
    | (extract_lets +onlyGivenNames x; refine cut_follows (kp := kp) (b := b0) (s := x) (fun _ => ?_) ?_; clear_value x; on_goal 2 => subst x)
    | (extract_lets +onlyGivenNames x; clear_value x) | apply actArm_follows | apply setActStatus_follows
    | apply wrDown_follows | apply wrOk_follows | apply wrRefuse_follows | apply wrW_follows | split
theorem trigEnd_follows (h0 : Follows kp b0 s) (n : Nat) : Follows kp b0 (trigEnd s n) := by
  unfold trigEnd
  with_reducible repeat' first
    | assumption | intro _ | apply timSet_follows | (fail_if_no_progress apply upd_follows)
theorem actStep_follows (hktabs : kp.tabs = false) (h0 : Follows kp b0 s) (b now ofs n : Nat) : Follows kp b0
    (actStep s b now ofs n) := by
  unfold actStep
  with_reducible repeat' first
    | assumption
    | (extract_lets +onlyGivenNames x; refine cut_follows (kp := kp) (b := b0) (s := x) (fun _ => ?_) ?_; clear_value x; on_goal 2 => subst x)
    | (extract_lets +onlyGivenNames x; clear_value x) | apply actMissed_follows | apply actNext_follows
    | apply actRun_follows | apply setActStatus_follows | apply timEvent_follows | split
theorem timeStepSend_follows (h0 : Follows kp b0 s) (b : Nat) (step : Int) : Follows kp b0 (timeStepSend s b step) :=
    by
  unfold timeStepSend
  with_reducible repeat' first
    | assumption | intro _ | apply step_follows | apply tcmSend_follows | apply foldl_follows | split
theorem forceStep_follows (hktabs : kp.tabs = false) (h0 : Follows kp b0 s) (b now ofs : Nat) : Follows kp b0
    (forceStep s b now ofs) := by
  unfold forceStep
  with_reducible repeat' first
    | assumption | intro _
    | (extract_lets +onlyGivenNames x; refine cut_follows (kp := kp) (b := b0) (s := x) (fun _ => ?_) ?_; clear_value x; on_goal 2 => subst x)
    | (extract_lets +onlyGivenNames x; clear_value x) | apply actStep_follows | apply chanSuspect_follows
    | apply gclStep_follows | apply setAdj_follows | apply setBase_follows | apply setBaseAt_follows
    | apply setBaseState_follows | apply timEvent_follows | apply timeStepSend_follows | apply wfW_follows
    | apply foldl_follows | split | (fail_if_no_progress apply upd_follows)
theorem forceStepWrite_follows (hktabs : kp.tabs = false) (h0 : Follows kp b0 s) (who : Requester) (v : Word) (ofs :
    Nat) : Follows kp b0 (forceStepWrite s who v ofs) := by
  unfold forceStepWrite
  with_reducible repeat' first
    | assumption
    | (extract_lets +onlyGivenNames x; refine cut_follows (kp := kp) (b := b0) (s := x) (fun _ => ?_) ?_; clear_value x; on_goal 2 => subst x)
    | (extract_lets +onlyGivenNames x; clear_value x) | apply forceStep_follows | apply setBase_follows
    | apply setHeld_follows | apply wrDown_follows | apply wrOk_follows | apply wrRefuse_follows | split
    | (fail_if_no_progress apply upd_follows)
theorem execForceStepOffset_follows (s : State) (who : Requester) (b confirm ofs : Nat) : ∃ t0, execForceStepOffset
    who b confirm ofs s = .next t0 ∧ Follows ⟨true, true, false⟩ s t0 := by
  refine ⟨_, rfl, ?_⟩
  have h0 := Follows.refl ⟨true, true, false⟩ s
  with_reducible repeat' first
    | assumption | exact rfl | apply forceStepWrite_follows
theorem execForceStepAbsolute_follows (s : State) (who : Requester) (b confirm ofs : Nat) : ∃ t0,
    execForceStepAbsolute who b confirm ofs s = .next t0 ∧ Follows ⟨true, true, false⟩ s t0 := by
  refine ⟨_, rfl, ?_⟩
  have h0 := Follows.refl ⟨true, true, false⟩ s
  with_reducible repeat' first
    | assumption | exact rfl | apply forceStepWrite_follows
theorem execActionCommit_follows (s : State) (who : Requester) (n value ofs : Nat) : ∃ t0, execActionCommit who n
    value ofs s = .next t0 ∧ Follows ⟨true, true, false⟩ s t0 := by
  refine ⟨_, rfl, ?_⟩
  have h0 := Follows.refl ⟨true, true, false⟩ s
  with_reducible repeat' first
    | assumption | exact rfl | apply actCommit_follows | split
theorem execActionPulse_follows (s : State) (n ofs : Nat) : ∃ t0, execActionPulse n ofs s = .next t0 ∧ Follows ⟨true,
    true, false⟩ s t0 := by
  refine ⟨_, rfl, ?_⟩
  have h0 := Follows.refl ⟨true, true, false⟩ s
  with_reducible repeat' first
    | assumption | exact rfl | apply actDue_follows
theorem execTrigPulseEnd_follows (s : State) (n : Nat) : ∃ t0, execTrigPulseEnd n s = .next t0 ∧ Follows ⟨true, true,
    true⟩ s t0 := by
  refine ⟨_, rfl, ?_⟩
  have h0 := Follows.refl ⟨true, true, true⟩ s
  with_reducible repeat' first
    | assumption | exact rfl | apply trigEnd_follows
theorem execActionGclInstall_follows (s : State) (n ofs : Nat) : ∃ t0, execActionGclInstall n ofs s = .next t0 ∧
    Follows ⟨true, true, false⟩ s t0 := by
  refine ⟨_, rfl, ?_⟩
  have h0 := Follows.refl ⟨true, true, false⟩ s
  with_reducible repeat' first
    | assumption | exact rfl | apply actDue_follows
theorem execActionKeySwitch_follows (s : State) (n ofs : Nat) : ∃ t0, execActionKeySwitch n ofs s = .next t0 ∧
    Follows ⟨true, true, false⟩ s t0 := by
  refine ⟨_, rfl, ?_⟩
  have h0 := Follows.refl ⟨true, true, false⟩ s
  with_reducible repeat' first
    | assumption | exact rfl | apply actDue_follows
theorem execActionTransit_follows (s : State) (n ofs : Nat) : ∃ t0, execActionTransit n ofs s = .next t0 ∧ Follows
    ⟨true, true, false⟩ s t0 := by
  refine ⟨_, rfl, ?_⟩
  have h0 := Follows.refl ⟨true, true, false⟩ s
  with_reducible repeat' first
    | assumption | exact rfl | apply actDue_follows
theorem execActionDmaStart_follows (s : State) (n ofs : Nat) : ∃ t0, execActionDmaStart n ofs s = .next t0 ∧ Follows
    ⟨true, true, false⟩ s t0 := by
  refine ⟨_, rfl, ?_⟩
  have h0 := Follows.refl ⟨true, true, false⟩ s
  with_reducible repeat' first
    | assumption | exact rfl | apply actDue_follows
theorem execActionSnapshot_follows (s : State) (n ofs : Nat) : ∃ t0, execActionSnapshot n ofs s = .next t0 ∧ Follows
    ⟨true, true, false⟩ s t0 := by
  refine ⟨_, rfl, ?_⟩
  have h0 := Follows.refl ⟨true, true, false⟩ s
  with_reducible repeat' first
    | assumption | exact rfl | apply actDue_follows
theorem execActionEclipse_follows (s : State) (n ofs : Nat) : ∃ t0, execActionEclipse n ofs s = .next t0 ∧ Follows
    ⟨true, true, false⟩ s t0 := by
  refine ⟨_, rfl, ?_⟩
  have h0 := Follows.refl ⟨true, true, false⟩ s
  with_reducible repeat' first
    | assumption | exact rfl | apply actDue_follows

end Sys2Proof.Machine
end

