-- ==== Sys2Proof/Laws/PairKeeps.lean ====
section
/-! SUPPORT. What the functions of Machine/Pair.lean keep (Follows), one lemma each. -/
namespace Sys2Proof.Machine

set_option linter.all false
variable {kp : Keep} {b b0 s : State}

theorem prtUpd_follows (h0 : Follows kp b0 s) (f : PrtSt → PrtSt) : Follows kp b0 (prtUpd s f) := by
  unfold prtUpd
  with_reducible repeat' first
    | assumption | (fail_if_no_progress apply upd_follows)
theorem setLink_follows (h0 : Follows kp b0 s) (hi lo v : Nat) : Follows kp b0 (setLink s hi lo v) := by
  unfold setLink
  with_reducible repeat' first
    | assumption | apply wfW_follows
theorem prtEvent_follows (h0 : Follows kp b0 s) (bit : Nat) : Follows kp b0 (prtEvent s bit) := by
  unfold prtEvent
  with_reducible repeat' first
    | assumption | apply evBit_follows | split
theorem prtEval_follows (h0 : Follows kp b0 s) : Follows kp b0 (prtEval s) := by
  unfold prtEval
  with_reducible repeat' first
    | assumption
    | (extract_lets +onlyGivenNames x; refine cut_follows (kp := kp) (b := b0) (s := x) (fun _ => ?_) ?_; clear_value x; on_goal 2 => subst x)
    | (extract_lets +onlyGivenNames x; clear_value x) | apply prtSet_follows | split
theorem prtOpen_follows (h0 : Follows kp b0 s) : Follows kp b0 (prtOpen s) := by
  unfold prtOpen
  with_reducible repeat' first
    | assumption | intro _
    | (extract_lets +onlyGivenNames x; refine cut_follows (kp := kp) (b := b0) (s := x) (fun _ => ?_) ?_; clear_value x; on_goal 2 => subst x)
    | (extract_lets +onlyGivenNames x; clear_value x) | apply chnChange_follows | apply prtUpd_follows
    | apply wf_follows | apply foldl_follows | split | (fail_if_no_progress apply upd_follows)
theorem prtGate_follows (h0 : Follows kp b0 s) : Follows kp b0 (prtGate s) := by
  unfold prtGate
  with_reducible repeat' first
    | assumption | apply prtClose_follows | apply prtOpen_follows | split
theorem prtJoin_follows (h0 : Follows kp b0 s) : Follows kp b0 (prtJoin s) := by
  unfold prtJoin
  with_reducible repeat' first
    | assumption | apply prtClose_follows | apply prtEval_follows | apply prtSet_follows | split
theorem prtLeave_follows (h0 : Follows kp b0 s) : Follows kp b0 (prtLeave s) := by
  unfold prtLeave
  with_reducible repeat' first
    | assumption | intro _ | apply prtOpen_follows | apply prtSet_follows | apply prtUpd_follows | split
    | (fail_if_no_progress apply upd_follows)
theorem prtCfgTaken_follows (h0 : Follows kp b0 s) (v : Word) : Follows kp b0 (prtCfgTaken s v) := by
  unfold prtCfgTaken
  with_reducible repeat' first
    | assumption
    | (extract_lets +onlyGivenNames x; refine cut_follows (kp := kp) (b := b0) (s := x) (fun _ => ?_) ?_; clear_value x; on_goal 2 => subst x)
    | (extract_lets +onlyGivenNames x; clear_value x) | apply prtJoin_follows | apply prtLeave_follows
    | apply wr_follows | split
theorem prtCfgWrite_follows (h0 : Follows kp b0 s) (who : Requester) (v : Word) : Follows kp b0 (prtCfgWrite s who v)
    := by
  unfold prtCfgWrite
  with_reducible repeat' first
    | assumption
    | (extract_lets +onlyGivenNames x; refine cut_follows (kp := kp) (b := b0) (s := x) (fun _ => ?_) ?_; clear_value x; on_goal 2 => subst x)
    | (extract_lets +onlyGivenNames x; clear_value x) | apply prtCfgTaken_follows | apply wrDown_follows
    | apply wrNotOwner_follows | apply wrOk_follows | split
theorem prtStateAct_follows (h0 : Follows kp b0 s) (v : Nat) : FollowsOpt kp b0 (prtStateAct s v) := by
  unfold prtStateAct
  with_reducible repeat' first
    | assumption | intro _ | apply plkState_follows | apply prtEval_follows | apply prtUpd_follows
    | apply unitAccept_follows | apply opt_some | apply opt_none | apply of_getD | split
    | refine of_opt_eq (by assumption) ?_ | (fail_if_no_progress apply upd_follows)
theorem prtStateWrite_follows (h0 : Follows kp b0 s) (who : Requester) (expect v : Nat) : Follows kp b0
    (prtStateWrite s who expect v) := by
  unfold prtStateWrite
  with_reducible repeat' first
    | assumption
    | (extract_lets +onlyGivenNames x; refine cut_follows (kp := kp) (b := b0) (s := x) (fun _ => ?_) ?_; clear_value x; on_goal 2 => subst x)
    | (extract_lets +onlyGivenNames x; refine cut_opt (kp := kp) (b := b0) (o := x) (fun _ => ?_) ?_; clear_value x; on_goal 2 => subst x)
    | (extract_lets +onlyGivenNames x; clear_value x) | apply prtStateAct_follows | apply wrDown_follows
    | apply wrNotOwner_follows | apply wrOk_follows | apply wrRefuse_follows | apply wrStale_follows
    | apply opt_some | apply opt_none | apply of_getD | split | refine of_opt_eq (by assumption) ?_
theorem prtAliveWrite_follows (h0 : Follows kp b0 s) (who : Requester) : Follows kp b0 (prtAliveWrite s who) := by
  unfold prtAliveWrite
  with_reducible repeat' first
    | assumption
    | (extract_lets +onlyGivenNames x; refine cut_follows (kp := kp) (b := b0) (s := x) (fun _ => ?_) ?_; clear_value x; on_goal 2 => subst x)
    | (extract_lets +onlyGivenNames x; clear_value x) | apply wrDown_follows | apply wrOk_follows
    | apply wrRefuse_follows | split
theorem aliveTimeout_follows (h0 : Follows kp b0 s) : Follows kp b0 (aliveTimeout s) := by
  unfold aliveTimeout
  with_reducible repeat' first
    | assumption | apply prtRelease_follows
theorem tokenLine_follows (h0 : Follows kp b0 s) (low : Bool) : Follows kp b0 (tokenLine s low) := by
  unfold tokenLine
  with_reducible repeat' first
    | assumption | intro _
    | (extract_lets +onlyGivenNames x; refine cut_follows (kp := kp) (b := b0) (s := x) (fun _ => ?_) ?_; clear_value x; on_goal 2 => subst x)
    | (extract_lets +onlyGivenNames x; clear_value x) | apply prtGate_follows | apply prtUpd_follows
    | apply setLink_follows | split | (fail_if_no_progress apply upd_follows)
theorem tokenClaim_follows (h0 : Follows kp b0 s) (highNs : Nat) : Follows kp b0 (tokenClaim s highNs) := by
  unfold tokenClaim
  with_reducible repeat' first
    | assumption | intro _
    | (extract_lets +onlyGivenNames x; refine cut_follows (kp := kp) (b := b0) (s := x) (fun _ => ?_) ?_; clear_value x; on_goal 2 => subst x)
    | (extract_lets +onlyGivenNames x; clear_value x) | apply prtSet_follows | apply prtUpd_follows
    | apply setLink_follows | split | (fail_if_no_progress apply upd_follows)
theorem hbEdge_follows (h0 : Follows kp b0 s) (ofs : Nat) : Follows kp b0 (hbEdge s ofs) := by
  unfold hbEdge
  with_reducible repeat' first
    | assumption | intro _
    | (extract_lets +onlyGivenNames x; refine cut_follows (kp := kp) (b := b0) (s := x) (fun _ => ?_) ?_; clear_value x; on_goal 2 => subst x)
    | (extract_lets +onlyGivenNames x; clear_value x) | apply prtUpd_follows | apply setLink_follows | split
    | (fail_if_no_progress apply upd_follows)
theorem hbLost_follows (h0 : Follows kp b0 s) : Follows kp b0 (hbLost s) := by
  unfold hbLost
  with_reducible repeat' first
    | assumption | intro _ | apply prtEvent_follows | apply prtUpd_follows | apply setLink_follows | split
    | (fail_if_no_progress apply upd_follows)
theorem tokenStuck_follows (h0 : Follows kp b0 s) (toggling : Bool) : Follows kp b0 (tokenStuck s toggling) := by
  unfold tokenStuck
  with_reducible repeat' first
    | assumption | intro _ | apply prtEvent_follows | apply prtUpd_follows | split
    | (fail_if_no_progress apply upd_follows)
theorem takeSlotOver_follows (h0 : Follows kp b0 s) (age c k : Nat) : Follows kp b0 (takeSlotOver s age c k) := by
  unfold takeSlotOver
  with_reducible repeat' first
    | assumption
    | (extract_lets +onlyGivenNames x; refine cut_follows (kp := kp) (b := b0) (s := x) (fun _ => ?_) ?_; clear_value x; on_goal 2 => subst x)
    | (extract_lets +onlyGivenNames x; clear_value x) | apply keyErase_follows | apply keyResume_follows | split
theorem ctxAllDrop_follows (h0 : Follows kp b0 s) : Follows kp b0 (ctxAllDrop s) := by
  unfold ctxAllDrop
  with_reducible repeat' first
    | assumption | intro _ | apply ctxDrop_follows | apply partialDrop_follows | apply pmAdd_follows
    | apply foldl_follows
theorem trunkTakeOver_follows (h0 : Follows kp b0 s) : Follows kp b0 (trunkTakeOver s) := by
  unfold trunkTakeOver
  with_reducible repeat' first
    | assumption | intro _
    | (extract_lets +onlyGivenNames x; refine cut_follows (kp := kp) (b := b0) (s := x) (fun _ => ?_) ?_; clear_value x; on_goal 2 => subst x)
    | (extract_lets +onlyGivenNames x; clear_value x) | apply wfW_follows | apply foldl_follows | split
theorem termsLost_follows (hktabs : kp.tabs = false) (h0 : Follows kp b0 s) : Follows kp b0 (termsLost s) := by
  unfold termsLost
  with_reducible repeat' first
    | assumption | intro _
    | (extract_lets +onlyGivenNames x; refine cut_follows (kp := kp) (b := b0) (s := x) (fun _ => ?_) ?_; clear_value x; on_goal 2 => subst x)
    | (extract_lets +onlyGivenNames x; clear_value x) | apply termData_follows | apply foldl_follows | split
theorem takeOver_follows (hktabs : kp.tabs = false) (h0 : Follows kp b0 s) (ofs : Nat) : Follows kp b0 (takeOver s
    ofs) := by
  unfold takeOver
  with_reducible repeat' first
    | assumption | intro _
    | (extract_lets +onlyGivenNames x; refine cut_follows (kp := kp) (b := b0) (s := x) (fun _ => ?_) ?_; clear_value x; on_goal 2 => subst x)
    | (extract_lets +onlyGivenNames x; clear_value x) | apply ctxAllDrop_follows | apply prtEvent_follows
    | apply prtGate_follows | apply prtSet_follows | apply prtUpd_follows | apply report_follows
    | apply sendTod_follows | apply takeSlotOver_follows | apply termsLost_follows | apply trunkTakeOver_follows
    | apply wb_follows | apply foldl_follows | split | (fail_if_no_progress apply upd_follows)
theorem claimEnd_follows (hktabs : kp.tabs = false) (h0 : Follows kp b0 s) (ofs : Nat) : Follows kp b0 (claimEnd s
    ofs) := by
  unfold claimEnd
  with_reducible repeat' first
    | assumption | intro _
    | (extract_lets +onlyGivenNames x; refine cut_follows (kp := kp) (b := b0) (s := x) (fun _ => ?_) ?_; clear_value x; on_goal 2 => subst x)
    | (extract_lets +onlyGivenNames x; clear_value x) | apply prtEvent_follows | apply prtSet_follows
    | apply prtUpd_follows | apply setLink_follows | apply takeOver_follows | split
    | (fail_if_no_progress apply upd_follows)
theorem revertRelease_follows (h0 : Follows kp b0 s) : Follows kp b0 (revertRelease s) := by
  unfold revertRelease
  with_reducible repeat' first
    | assumption | intro _ | apply prtUpd_follows | split | (fail_if_no_progress apply upd_follows)
theorem helloSend_follows (h0 : Follows kp b0 s) : Follows kp b0 (helloSend s) := by
  unfold helloSend
  with_reducible repeat' first
    | assumption
    | (extract_lets +onlyGivenNames x; refine cut_follows (kp := kp) (b := b0) (s := x) (fun _ => ?_) ?_; clear_value x; on_goal 2 => subst x)
    | (extract_lets +onlyGivenNames x; clear_value x) | apply plkSend_follows | split
    | (fail_if_no_progress apply upd_follows)
theorem linkChange_follows (h0 : Follows kp b0 s) (was : Bool) : Follows kp b0 (linkChange s was) := by
  unfold linkChange
  with_reducible repeat' first
    | assumption | intro _
    | (extract_lets +onlyGivenNames x; refine cut_follows (kp := kp) (b := b0) (s := x) (fun _ => ?_) ?_; clear_value x; on_goal 2 => subst x)
    | (extract_lets +onlyGivenNames x; refine cut_snd (kp := kp) (b := b0) (p := x) (fun _ => ?_) ?_; clear_value x; on_goal 2 => subst x)
    | (extract_lets +onlyGivenNames x; clear_value x) | apply drbgDraw_follows
    | (apply of_snd; apply drbgDraw_follows) | apply helloSend_follows | apply prtEval_follows
    | apply prtEvent_follows | apply prtUpd_follows | apply setLink_follows | (apply of_snd; assumption) | split
    | apply snd_mk | refine of_snd_eq (by assumption) ?_ | (fail_if_no_progress apply upd_follows)
theorem laneSync_follows (h0 : Follows kp b0 s) (lane : Nat) (hit aligned : Bool) : Follows kp b0 (laneSync s lane
    hit aligned) := by
  unfold laneSync
  with_reducible repeat' first
    | assumption | intro _
    | (extract_lets +onlyGivenNames x; refine cut_follows (kp := kp) (b := b0) (s := x) (fun _ => ?_) ?_; clear_value x; on_goal 2 => subst x)
    | (extract_lets +onlyGivenNames x; clear_value x) | apply linkChange_follows | apply prtUpd_follows
    | apply setLink_follows | apply foldl_follows | split | (fail_if_no_progress apply upd_follows)
theorem pairMismatch_follows (h0 : Follows kp b0 s) : Follows kp b0 (pairMismatch s) := by
  unfold pairMismatch
  with_reducible repeat' first
    | assumption | intro _ | apply prtEval_follows | apply prtEvent_follows | apply prtUpd_follows
    | apply setLink_follows | (fail_if_no_progress apply upd_follows)
theorem copiesRestart_follows (h0 : Follows kp b0 s) : Follows kp b0 (copiesRestart s) := by
  unfold copiesRestart
  with_reducible repeat' first
    | assumption | intro _
    | (extract_lets +onlyGivenNames x; refine cut_follows (kp := kp) (b := b0) (s := x) (fun _ => ?_) ?_; clear_value x; on_goal 2 => subst x)
    | (extract_lets +onlyGivenNames x; clear_value x) | apply prtKeySend_follows | apply prtUpd_follows
    | apply foldl_follows | split | (fail_if_no_progress apply upd_follows)
theorem helloTake_follows (h0 : Follows kp b0 s) (pairId : List Byte) (role : Nat) (nonce plan : List Byte) (answer :
    Option (Nat × List Byte)) : Follows kp b0 (helloTake s pairId role nonce plan answer) := by
  unfold helloTake
  with_reducible repeat' first
    | assumption | intro _
    | (extract_lets +onlyGivenNames x; refine cut_follows (kp := kp) (b := b0) (s := x) (fun _ => ?_) ?_; clear_value x; on_goal 2 => subst x)
    | (extract_lets +onlyGivenNames x; clear_value x) | apply copiesRestart_follows | apply helloSend_follows
    | apply pairMismatch_follows | apply prtEval_follows | apply prtEvent_follows | apply prtUpd_follows
    | apply setLink_follows | split | (fail_if_no_progress apply upd_follows)
theorem digestLost_follows (h0 : Follows kp b0 s) : Follows kp b0 (digestLost s) := by
  unfold digestLost
  with_reducible repeat' first
    | assumption | intro _
    | (extract_lets +onlyGivenNames x; refine cut_follows (kp := kp) (b := b0) (s := x) (fun _ => ?_) ?_; clear_value x; on_goal 2 => subst x)
    | (extract_lets +onlyGivenNames x; clear_value x) | apply prtEval_follows | apply prtEvent_follows
    | apply prtUpd_follows | apply setLink_follows | (fail_if_no_progress apply upd_follows)
theorem digTerm_follows (h0 : Follows kp b0 s) (x : DigTerm) : Follows kp b0 (digTerm s x) := by
  unfold digTerm
  with_reducible repeat' first
    | assumption
    | (extract_lets +onlyGivenNames x; refine cut_follows (kp := kp) (b := b0) (s := x) (fun _ => ?_) ?_; clear_value x; on_goal 2 => subst x)
    | (extract_lets +onlyGivenNames x; clear_value x) | apply setInfo_follows | apply wf_follows | apply wr_follows
theorem digAlloc_follows (h0 : Follows kp b0 s) (cycle : Nat) (x : DigAlloc) : Follows kp b0 (digAlloc s cycle x) :=
    by
  unfold digAlloc
  with_reducible repeat' first
    | assumption
    | (extract_lets +onlyGivenNames x; refine cut_follows (kp := kp) (b := b0) (s := x) (fun _ => ?_) ?_; clear_value x; on_goal 2 => subst x)
    | (extract_lets +onlyGivenNames x; clear_value x) | apply setDyn_follows | split
    | (fail_if_no_progress apply upd_follows)
theorem digMap_follows (h0 : Follows kp b0 s) (cycle : Nat) (x : DigMap) : Follows kp b0 (digMap s cycle x) := by
  unfold digMap
  with_reducible repeat' first
    | assumption | apply setBursts_follows
theorem digFlag_follows (h0 : Follows kp b0 s) (x : Nat × Nat × Nat) : Follows kp b0 (digFlag s x) := by
  unfold digFlag
  with_reducible repeat' first
    | assumption
    | (extract_lets +onlyGivenNames x; refine cut_follows (kp := kp) (b := b0) (s := x) (fun _ => ?_) ?_; clear_value x; on_goal 2 => subst x)
    | (extract_lets +onlyGivenNames x; clear_value x) | apply setTlrFlag_follows | split
theorem digTime_follows (h0 : Follows kp b0 s) (cycle b : Nat) (x : Nat × Nat) : Follows kp b0 (digTime s cycle b x)
    := by
  unfold digTime
  with_reducible repeat' first
    | assumption | apply baseFirstSet_follows | split
theorem tickAlign_follows (h0 : Follows kp b0 s) (n : Nat) : Follows kp b0 (tickAlign s n) := by
  unfold tickAlign
  with_reducible repeat' first
    | assumption | intro _
    | (extract_lets +onlyGivenNames x; refine cut_follows (kp := kp) (b := b0) (s := x) (fun _ => ?_) ?_; clear_value x; on_goal 2 => subst x)
    | (extract_lets +onlyGivenNames x; clear_value x) | apply wrW_follows | apply foldl_follows | split
theorem digestApply_follows (h0 : Follows kp b0 s) (d : Digest) : Follows kp b0 (digestApply s d) := by
  unfold digestApply
  with_reducible repeat' first
    | assumption | intro _
    | (extract_lets +onlyGivenNames x; refine cut_follows (kp := kp) (b := b0) (s := x) (fun _ => ?_) ?_; clear_value x; on_goal 2 => subst x)
    | (extract_lets +onlyGivenNames x; clear_value x) | apply digAlloc_follows | apply digFlag_follows
    | apply digMap_follows | apply digTerm_follows | apply digTime_follows | apply prtEval_follows
    | apply prtUpd_follows | apply setLink_follows | apply tickAlign_follows | apply wfW_follows
    | apply foldl_follows | (fail_if_no_progress apply upd_follows)
theorem digestTake_follows (h0 : Follows kp b0 s) (skipped : Nat) (last : Bool) (d : Digest) : Follows kp b0
    (digestTake s skipped last d) := by
  unfold digestTake
  with_reducible repeat' first
    | assumption | intro _
    | (extract_lets +onlyGivenNames x; refine cut_follows (kp := kp) (b := b0) (s := x) (fun _ => ?_) ?_; clear_value x; on_goal 2 => subst x)
    | (extract_lets +onlyGivenNames x; clear_value x) | apply digestApply_follows | apply digestLost_follows
    | apply prtUpd_follows | split | (fail_if_no_progress apply upd_follows)
theorem keyTakeCopy_follows (h0 : Follows kp b0 s) (c k st gen limit : Nat) (tag12 : Bool) (key : List Byte) :
    Follows kp b0 (keyTakeCopy s c k st gen limit tag12 key) := by
  unfold keyTakeCopy
  with_reducible repeat' first
    | assumption | intro _
    | (extract_lets +onlyGivenNames x; refine cut_follows (kp := kp) (b := b0) (s := x) (fun _ => ?_) ?_; clear_value x; on_goal 2 => subst x)
    | (extract_lets +onlyGivenNames x; clear_value x) | apply prtEval_follows | apply prtUpd_follows
    | apply putUnit_follows | apply setKeyFld_follows | split | (fail_if_no_progress apply upd_follows)
theorem stateTake_follows (h0 : Follows kp b0 s) (st heard : Nat) (resets : List Nat) : Follows kp b0 (stateTake s st
    heard resets) := by
  unfold stateTake
  with_reducible repeat' first
    | assumption | intro _
    | (extract_lets +onlyGivenNames x; refine cut_follows (kp := kp) (b := b0) (s := x) (fun _ => ?_) ?_; clear_value x; on_goal 2 => subst x)
    | (extract_lets +onlyGivenNames x; clear_value x) | apply prtKeySend_follows | apply prtUpd_follows
    | apply setLink_follows | apply foldl_follows | split | (fail_if_no_progress apply upd_follows)
theorem plkGo_follows (h0 : Follows kp b0 s) (m : PlkMsg) (key : List Byte) : Follows kp b0 (plkGo s m key) := by
  unfold plkGo
  with_reducible repeat' first
    | assumption | intro _
    | (extract_lets +onlyGivenNames x; refine cut_follows (kp := kp) (b := b0) (s := x) (fun _ => ?_) ?_; clear_value x; on_goal 2 => subst x)
    | (extract_lets +onlyGivenNames x; clear_value x) | apply digestTake_follows | apply helloTake_follows
    | apply keyTakeCopy_follows | apply prtUpd_follows | apply stateTake_follows | split
    | (fail_if_no_progress apply upd_follows)
theorem plkUnits_follows (h0 : Follows kp b0 s) (us : List FiUnit) : Follows kp b0 (plkUnits s us) := by
  unfold plkUnits
  with_reducible repeat' first
    | assumption | intro _ | apply plkGo_follows | apply foldl_follows | split
theorem plkReceive_follows (h0 : Follows kp b0 s) (typ : Nat) (m : PlkMsg) (key : List Byte) : Follows kp b0
    (plkReceive s typ m key) := by
  unfold plkReceive
  with_reducible repeat' first
    | assumption
    | (extract_lets +onlyGivenNames x; refine cut_follows (kp := kp) (b := b0) (s := x) (fun _ => ?_) ?_; clear_value x; on_goal 2 => subst x)
    | (extract_lets +onlyGivenNames x; refine cut_snd (kp := kp) (b := b0) (p := x) (fun _ => ?_) ?_; clear_value x; on_goal 2 => subst x)
    | (extract_lets +onlyGivenNames x; clear_value x) | apply fiPass_follows | (apply of_snd; apply fiPass_follows)
    | apply plkUnits_follows | (apply of_snd; assumption) | split | apply snd_mk | refine of_snd_eq (by assumption) ?_
theorem digParts_follows (h : Follows kp b s) (l : List Digest) : Follows kp b (digParts s l) := by
  induction l generalizing s with
  | nil => exact h
  | cons d l ih =>
    cases l with
    | nil => exact plkSend_follows h _
    | cons e l => exact ih (plkSend_follows h _)

theorem digestSend_follows (h0 : Follows kp b0 s) (n : Nat) : Follows kp b0 (digestSend s n) := by
  unfold digestSend
  with_reducible repeat' first
    | assumption | intro _
    | (extract_lets +onlyGivenNames x; refine cut_follows (kp := kp) (b := b0) (s := x) (fun _ => ?_) ?_; clear_value x; on_goal 2 => subst x)
    | (extract_lets +onlyGivenNames x; clear_value x) | apply digParts_follows | apply prtUpd_follows
    | apply foldl_follows | split | (fail_if_no_progress apply upd_follows)
theorem prtCycle_follows (h0 : Follows kp b0 s) (n : Nat) : Follows kp b0 (prtCycle s n) := by
  unfold prtCycle
  with_reducible repeat' first
    | assumption | intro _
    | (extract_lets +onlyGivenNames x; refine cut_follows (kp := kp) (b := b0) (s := x) (fun _ => ?_) ?_; clear_value x; on_goal 2 => subst x)
    | (extract_lets +onlyGivenNames x; clear_value x) | apply digestSend_follows | apply prtEval_follows
    | apply prtRelease_follows | apply prtUpd_follows | apply setLink_follows | apply treeFlush_follows
    | apply foldl_follows | split | (fail_if_no_progress apply upd_follows)
theorem execPrtStateReleased_follows (s : State) (who : Requester) (expect : Nat) : ∃ t0, execPrtStateReleased who
    expect s = .next t0 ∧ Follows ⟨true, true, true⟩ s t0 := by
  refine ⟨_, rfl, ?_⟩
  have h0 := Follows.refl ⟨true, true, true⟩ s
  with_reducible repeat' first
    | assumption | exact rfl | apply prtStateWrite_follows
theorem execPrtStateNotReady_follows (s : State) (who : Requester) (expect : Nat) : ∃ t0, execPrtStateNotReady who
    expect s = .next t0 ∧ Follows ⟨true, true, true⟩ s t0 := by
  refine ⟨_, rfl, ?_⟩
  have h0 := Follows.refl ⟨true, true, true⟩ s
  with_reducible repeat' first
    | assumption | exact rfl | apply prtStateWrite_follows
theorem execPrtAlive_follows (s : State) (who : Requester) : ∃ t0, execPrtAlive who s = .next t0 ∧ Follows ⟨true,
    true, true⟩ s t0 := by
  refine ⟨_, rfl, ?_⟩
  have h0 := Follows.refl ⟨true, true, true⟩ s
  with_reducible repeat' first
    | assumption | exact rfl | apply prtAliveWrite_follows
theorem execAliveTimeout_follows (s : State) : ∃ t0, execAliveTimeout s = .next t0 ∧ Follows ⟨true, true, true⟩ s t0
    := by
  refine ⟨_, rfl, ?_⟩
  have h0 := Follows.refl ⟨true, true, true⟩ s
  with_reducible repeat' first
    | assumption | exact rfl | apply aliveTimeout_follows
theorem execTokenClaim_follows (s : State) (highNs : Nat) : ∃ t0, execTokenClaim highNs s = .next t0 ∧ Follows ⟨true,
    true, true⟩ s t0 := by
  refine ⟨_, rfl, ?_⟩
  have h0 := Follows.refl ⟨true, true, true⟩ s
  with_reducible repeat' first
    | assumption | exact rfl | apply tokenClaim_follows
theorem execClaimWindowEnd_follows (s : State) (ofs : Nat) : ∃ t0, execClaimWindowEnd ofs s = .next t0 ∧ Follows
    ⟨true, true, false⟩ s t0 := by
  refine ⟨_, rfl, ?_⟩
  have h0 := Follows.refl ⟨true, true, false⟩ s
  with_reducible repeat' first
    | assumption | exact rfl | apply claimEnd_follows
theorem execPeerHbLost_follows (s : State) : ∃ t0, execPeerHbLost s = .next t0 ∧ Follows ⟨true, true, true⟩ s t0 := by
  refine ⟨_, rfl, ?_⟩
  have h0 := Follows.refl ⟨true, true, true⟩ s
  with_reducible repeat' first
    | assumption | exact rfl | apply hbLost_follows
theorem execTokenStuck_follows (s : State) (toggling : Bool) : ∃ t0, execTokenStuck toggling s = .next t0 ∧ Follows
    ⟨true, true, true⟩ s t0 := by
  refine ⟨_, rfl, ?_⟩
  have h0 := Follows.refl ⟨true, true, true⟩ s
  with_reducible repeat' first
    | assumption | exact rfl | apply tokenStuck_follows
theorem execPlkLaneSync_follows (s : State) (lane : Nat) (hit aligned : Bool) : ∃ t0, execPlkLaneSync lane hit
    aligned s = .next t0 ∧ Follows ⟨true, true, true⟩ s t0 := by
  refine ⟨_, rfl, ?_⟩
  have h0 := Follows.refl ⟨true, true, true⟩ s
  with_reducible repeat' first
    | assumption | exact rfl | apply laneSync_follows | split
theorem execHelloMsg_follows (s : State) (m : PlkMsg) : ∃ t0, execHelloMsg m s = .next t0 ∧ Follows ⟨true, true,
    true⟩ s t0 := by
  refine ⟨_, rfl, ?_⟩
  have h0 := Follows.refl ⟨true, true, true⟩ s
  with_reducible repeat' first
    | assumption | exact rfl | apply plkReceive_follows
theorem execDigestMsg_follows (s : State) (m : PlkMsg) : ∃ t0, execDigestMsg m s = .next t0 ∧ Follows ⟨true, true,
    true⟩ s t0 := by
  refine ⟨_, rfl, ?_⟩
  have h0 := Follows.refl ⟨true, true, true⟩ s
  with_reducible repeat' first
    | assumption | exact rfl | apply plkReceive_follows
theorem execKeyMsg_follows (s : State) (m : PlkMsg) (key : List Byte) : ∃ t0, execKeyMsg m key s = .next t0 ∧ Follows
    ⟨true, true, true⟩ s t0 := by
  refine ⟨_, rfl, ?_⟩
  have h0 := Follows.refl ⟨true, true, true⟩ s
  with_reducible repeat' first
    | assumption | exact rfl | apply plkReceive_follows
theorem execStateMsg_follows (s : State) (m : PlkMsg) : ∃ t0, execStateMsg m s = .next t0 ∧ Follows ⟨true, true,
    true⟩ s t0 := by
  refine ⟨_, rfl, ?_⟩
  have h0 := Follows.refl ⟨true, true, true⟩ s
  with_reducible repeat' first
    | assumption | exact rfl | apply plkReceive_follows
theorem execStateMessageSend_follows (s : State) : ∃ t0, execStateMessageSend s = .next t0 ∧ Follows ⟨true, true,
    true⟩ s t0 := by
  refine ⟨_, rfl, ?_⟩
  have h0 := Follows.refl ⟨true, true, true⟩ s
  with_reducible repeat' first
    | assumption | exact rfl | apply plkState_follows | split
theorem execRevertWtrExpire_follows (s : State) : ∃ t0, execRevertWtrExpire s = .next t0 ∧ Follows ⟨true, true, true⟩
    s t0 := by
  refine ⟨_, rfl, ?_⟩
  have h0 := Follows.refl ⟨true, true, true⟩ s
  with_reducible repeat' first
    | assumption | exact rfl | apply revertRelease_follows
theorem execTokenLineChange_follows (s : State) (low : Bool) : ∃ t0, execTokenLineChange low s = .next t0 ∧ Follows
    ⟨true, true, true⟩ s t0 := by
  refine ⟨_, rfl, ?_⟩
  have h0 := Follows.refl ⟨true, true, true⟩ s
  with_reducible repeat' first
    | assumption | exact rfl | apply tokenLine_follows
theorem execPeerHbEdge_follows (s : State) (ofs : Nat) : ∃ t0, execPeerHbEdge ofs s = .next t0 ∧ Follows ⟨true, true,
    true⟩ s t0 := by
  refine ⟨_, rfl, ?_⟩
  have h0 := Follows.refl ⟨true, true, true⟩ s
  with_reducible repeat' first
    | assumption | exact rfl | apply hbEdge_follows

end Sys2Proof.Machine
end

