-- ==== Sys2Proof/Laws/OwnershipKeeps.lean ====
section
/-! SUPPORT. What the functions of Machine/Ownership.lean keep (Follows), one lemma each. -/
namespace Sys2Proof.Machine

set_option linter.all false
variable {kp : Keep} {b b0 s : State}

theorem setHstate_follows (h0 : Follows kp b0 s) (f t st : Nat) : Follows kp b0 (setHstate s f t st) := by
  unfold setHstate
  with_reducible repeat' first
    | assumption
    | (extract_lets +onlyGivenNames x; refine cut_follows (kp := kp) (b := b0) (s := x) (fun _ => ?_) ?_; clear_value x; on_goal 2 => subst x)
    | (extract_lets +onlyGivenNames x; clear_value x) | apply wf_follows
theorem startHandover_follows (h0 : Follows kp b0 s) (f t new : Nat) (watchdog : Bool) : Follows kp b0 (startHandover
    s f t new watchdog) := by
  unfold startHandover
  with_reducible repeat' first
    | assumption | intro _
    | (extract_lets +onlyGivenNames x; refine cut_follows (kp := kp) (b := b0) (s := x) (fun _ => ?_) ?_; clear_value x; on_goal 2 => subst x)
    | (extract_lets +onlyGivenNames x; clear_value x) | apply regopPut_follows | apply setHstate_follows
    | (fail_if_no_progress apply upd_follows)
theorem ownerRequest_follows (h0 : Follows kp b0 s) (who : Requester) (v : Word) : Follows kp b0 (ownerRequest s who
    v) := by
  unfold ownerRequest
  with_reducible repeat' first
    | assumption
    | (extract_lets +onlyGivenNames x; refine cut_follows (kp := kp) (b := b0) (s := x) (fun _ => ?_) ?_; clear_value x; on_goal 2 => subst x)
    | (extract_lets +onlyGivenNames x; clear_value x) | apply cmdStale_follows | apply noteWrite_follows
    | apply regopPut_follows | apply startHandover_follows | apply wrDown_follows | apply wrOk_follows
    | apply wrRefuse_follows | split | (fail_if_no_progress apply upd_follows)
theorem endHandover_follows (h0 : Follows kp b0 s) (f t : Nat) : Follows kp b0 (endHandover s f t) := by
  unfold endHandover
  with_reducible repeat' first
    | assumption | intro _ | (fail_if_no_progress apply upd_follows)
theorem quiesceOne_follows (h0 : Follows kp b s) (tick1ms : Bool) (h : Handover) :
    Follows kp b (quiesceOne tick1ms s h) := by
  unfold quiesceOne
  split
  · exact h0
  · split
    · exact h0
    · extract_lets +onlyGivenNames t go upd
      have ht : Follows kp b t := by
        unfold t; split
        · exact h0
        · exact setHstate_follows h0 _ _ _
      clear_value t upd
      with_reducible apply upd_follows; exact ht

theorem quiesceTick_follows (h0 : Follows kp b0 s) (tick1ms : Bool) : Follows kp b0 (quiesceTick s tick1ms) := by
  unfold quiesceTick
  with_reducible repeat' first
    | assumption | intro _ | apply quiesceOne_follows | apply foldl_follows
theorem ownerFlip_follows (h0 : Follows kp b0 s) (f t i : Nat) : Follows kp b0 (ownerFlip s f t i) := by
  unfold ownerFlip
  with_reducible repeat' first
    | assumption | intro _
    | (extract_lets +onlyGivenNames x; refine cut_follows (kp := kp) (b := b0) (s := x) (fun _ => ?_) ?_; clear_value x; on_goal 2 => subst x)
    | (extract_lets +onlyGivenNames x; refine cut_fun (kp := kp) (b := b0) (f := x) (fun _ => ?_) ?_; clear_value x; on_goal 2 => subst x)
    | (extract_lets +onlyGivenNames x; refine cut_fun2 (kp := kp) (b := b0) (f := x) (fun _ => ?_) ?_; clear_value x; on_goal 2 => subst x)
    | (extract_lets +onlyGivenNames x; refine cut_fun3 (kp := kp) (b := b0) (f := x) (fun _ => ?_) ?_; clear_value x; on_goal 2 => subst x)
    | (extract_lets +onlyGivenNames x; refine cut_fun4 (kp := kp) (b := b0) (f := x) (fun _ => ?_) ?_; clear_value x; on_goal 2 => subst x)
    | (extract_lets +onlyGivenNames x; refine cut_fun5 (kp := kp) (b := b0) (f := x) (fun _ => ?_) ?_; clear_value x; on_goal 2 => subst x)
    | (extract_lets +onlyGivenNames x; refine cut_fun6 (kp := kp) (b := b0) (f := x) (fun _ => ?_) ?_; clear_value x; on_goal 2 => subst x)
    | (extract_lets +onlyGivenNames x; clear_value x) | split | apply_assumption | (apply of_fst; apply_assumption)
    | (apply of_snd; apply_assumption) | (fail_if_no_progress apply upd_follows)
theorem abandonHandover_follows (h0 : Follows kp b0 s) (f t : Nat) (why : Status) : Follows kp b0 (abandonHandover s
    f t why) := by
  unfold abandonHandover
  with_reducible repeat' first
    | assumption
    | (extract_lets +onlyGivenNames x; refine cut_follows (kp := kp) (b := b0) (s := x) (fun _ => ?_) ?_; clear_value x; on_goal 2 => subst x)
    | (extract_lets +onlyGivenNames x; clear_value x) | apply endHandover_follows | apply putRec_follows
    | apply setHstate_follows | split | (fail_if_no_progress apply upd_follows)
theorem hostWdWrite_follows (h0 : Follows kp b0 s) (who : Requester) (v : Word) : Follows kp b0 (hostWdWrite s who v)
    := by
  unfold hostWdWrite
  with_reducible repeat' first
    | assumption
    | (extract_lets +onlyGivenNames x; refine cut_follows (kp := kp) (b := b0) (s := x) (fun _ => ?_) ?_; clear_value x; on_goal 2 => subst x)
    | (extract_lets +onlyGivenNames x; clear_value x) | apply wr_follows | apply wrDown_follows | apply wrOk_follows
    | split | (fail_if_no_progress apply upd_follows)
theorem hostWdExpire_follows (h0 : Follows kp b0 s) : Follows kp b0 (hostWdExpire s) := by
  unfold hostWdExpire
  with_reducible repeat' first
    | assumption | intro _
    | (extract_lets +onlyGivenNames x; refine cut_follows (kp := kp) (b := b0) (s := x) (fun _ => ?_) ?_; clear_value x; on_goal 2 => subst x)
    | (extract_lets +onlyGivenNames x; clear_value x) | apply startHandover_follows | apply wb_follows
    | apply foldl_follows | split | (fail_if_no_progress apply upd_follows)
theorem execOwnerRequest_follows (s : State) (who : Requester) (value : Word) : ∃ t0, execOwnerRequest who value s =
    .next t0 ∧ Follows ⟨true, true, true⟩ s t0 := by
  refine ⟨_, rfl, ?_⟩
  have h0 := Follows.refl ⟨true, true, true⟩ s
  with_reducible repeat' first
    | assumption | exact rfl | apply ownerRequest_follows
theorem execOwnerFlip_follows (s : State) (f t i : Nat) : ∃ t0, execOwnerFlip f t i s = .next t0 ∧ Follows ⟨true,
    true, true⟩ s t0 := by
  refine ⟨_, rfl, ?_⟩
  have h0 := Follows.refl ⟨true, true, true⟩ s
  with_reducible repeat' first
    | assumption | exact rfl | apply ownerFlip_follows
theorem execQuiesceTimeout_follows (s : State) (f t : Nat) : ∃ t0, execQuiesceTimeout f t s = .next t0 ∧ Follows
    ⟨true, true, true⟩ s t0 := by
  refine ⟨_, rfl, ?_⟩
  have h0 := Follows.refl ⟨true, true, true⟩ s
  with_reducible repeat' first
    | assumption | exact rfl | apply abandonHandover_follows
theorem execHostWdWrite_follows (s : State) (who : Requester) (value : Word) : ∃ t0, execHostWdWrite who value s =
    .next t0 ∧ Follows ⟨true, true, true⟩ s t0 := by
  refine ⟨_, rfl, ?_⟩
  have h0 := Follows.refl ⟨true, true, true⟩ s
  with_reducible repeat' first
    | assumption | exact rfl | apply hostWdWrite_follows
theorem execHostWdExpire_follows (s : State) : ∃ t0, execHostWdExpire s = .next t0 ∧ Follows ⟨true, true, true⟩ s t0
    := by
  refine ⟨_, rfl, ?_⟩
  have h0 := Follows.refl ⟨true, true, true⟩ s
  with_reducible repeat' first
    | assumption | exact rfl | apply hostWdExpire_follows

end Sys2Proof.Machine
end

