-- ==== Sys2Proof/Laws/ForwardKeeps.lean ====
section
/-! SUPPORT. What the functions of Machine/Forward.lean keep (Follows), one lemma each. -/
namespace Sys2Proof.Machine

set_option linter.all false
variable {kp : Keep} {b b0 s : State}

theorem fwdNotify_follows (h0 : Follows kp b0 s) (kind bd mac old new : Nat) : Follows kp b0 (fwdNotify s kind bd mac
    old new) := by
  unfold fwdNotify
  with_reducible repeat' first
    | assumption
    | (extract_lets +onlyGivenNames x; refine cut_follows (kp := kp) (b := b0) (s := x) (fun _ => ?_) ?_; clear_value x; on_goal 2 => subst x)
    | (extract_lets +onlyGivenNames x; refine cut_opt (kp := kp) (b := b0) (o := x) (fun _ => ?_) ?_; clear_value x; on_goal 2 => subst x)
    | (extract_lets +onlyGivenNames x; clear_value x) | apply dramRingPut_follows | apply fwdCount_follows
    | apply fwdEvent_follows | apply nextFree_follows | apply opt_some | apply opt_none | apply of_getD | split
    | refine of_opt_eq (by assumption) ?_
theorem learn_follows (hktabs : kp.tabs = false) (h0 : Follows kp b0 s) (it : FwdItem) (bdv mac dest : Nat) : Follows
    kp b0 (learn s it bdv mac dest) := by
  unfold learn
  with_reducible repeat' first
    | assumption
    | (extract_lets +onlyGivenNames x; refine cut_follows (kp := kp) (b := b0) (s := x) (fun _ => ?_) ?_; clear_value x; on_goal 2 => subst x)
    | (extract_lets +onlyGivenNames x; clear_value x) | apply fwdCount_follows | apply fwdEvent_follows
    | apply fwdNotify_follows | apply nextFree_follows | apply stat_follows | apply tblPut_follows | split
theorem moveAddr_follows (hk : kp.tabs = false) (h : Follows kp b s) (it : FwdItem) (bdv i dest : Nat) : Follows kp b (moveAddr s it bdv i dest) := by
  unfold moveAddr
  extract_lets +onlyGivenNames v now ms sec s0 src s1 note age
  have h0 : Follows kp b s0 := nextFree_follows h
  have h1 : Follows kp b s1 := by
    unfold s1; split
    · exact h0
    · with_reducible apply upd_follows; exact h0
  have hn : ∀ s k, Follows kp b s → Follows kp b (note s k) := by
    intro s k hs; unfold note; split
    · exact fwdNotify_follows hs _ _ _ _ _
    · exact hs
  clear_value s1 note
  split
  · exact hn _ _ (fwdCount_follows h1 _ _)
  · split
    · exact hn _ _ (fwdCount_follows h1 _ _)
    · split
      · exact hn _ _ (fwdEvent_follows (fwdCount_follows h1 _ _) _)
      · extract_lets +onlyGivenNames v1 v2 s2 src2
        have h2 : Follows kp b s2 := tblPut_follows hk h1 _ _ _
        clear_value s2
        apply hn; apply fwdCount_follows; with_reducible apply upd_follows; exact h2

theorem sourceStep_follows (hktabs : kp.tabs = false) (h0 : Follows kp b0 s) (it : FwdItem) (bdv : Nat) : Follows kp
    b0 (sourceStep s it bdv) := by
  unfold sourceStep
  with_reducible repeat' first
    | assumption
    | (extract_lets +onlyGivenNames x; refine cut_follows (kp := kp) (b := b0) (s := x) (fun _ => ?_) ?_; clear_value x; on_goal 2 => subst x)
    | (extract_lets +onlyGivenNames x; clear_value x) | apply learn_follows | apply moveAddr_follows
    | apply tblPut_follows | split
theorem ageOne_follows (hktabs : kp.tabs = false) (h0 : Follows kp b0 s) (i v : Nat) : Follows kp b0 (ageOne s i v)
    := by
  unfold ageOne
  with_reducible repeat' first
    | assumption
    | (extract_lets +onlyGivenNames x; refine cut_follows (kp := kp) (b := b0) (s := x) (fun _ => ?_) ?_; clear_value x; on_goal 2 => subst x)
    | (extract_lets +onlyGivenNames x; clear_value x) | apply fwdCount_follows | apply fwdNotify_follows
    | apply tblPut_follows | split
theorem agingSweep_follows (hktabs : kp.tabs = false) (h0 : Follows kp b0 s) : Follows kp b0 (agingSweep s) := by
  unfold agingSweep
  with_reducible repeat' first
    | assumption | intro _ | apply ageOne_follows | apply foldl_follows | split
theorem meter_follows (h0 : Follows kp b0 s) (sid dp len : Nat) : FollowsFst kp b0 (meter s sid dp len) := by
  unfold meter
  with_reducible repeat' first
    | assumption
    | (extract_lets +onlyGivenNames x; refine cut_follows (kp := kp) (b := b0) (s := x) (fun _ => ?_) ?_; clear_value x; on_goal 2 => subst x)
    | (extract_lets +onlyGivenNames x; clear_value x) | apply nextFree_follows | (apply of_fst; assumption) | split
    | apply fst_mk | refine of_fst_eq (by assumption) ?_ | (fail_if_no_progress apply upd_follows)
theorem policerStage_follows (h0 : Follows kp b0 s) (it : FwdItem) : FollowsFst kp b0 (policerStage s it) := by
  unfold policerStage
  with_reducible repeat' first
    | assumption
    | (extract_lets +onlyGivenNames x; refine cut_follows (kp := kp) (b := b0) (s := x) (fun _ => ?_) ?_; clear_value x; on_goal 2 => subst x)
    | (extract_lets +onlyGivenNames x; refine cut_fst (kp := kp) (b := b0) (p := x) (fun _ => ?_) ?_; clear_value x; on_goal 2 => subst x)
    | (extract_lets +onlyGivenNames x; clear_value x) | apply meter_follows | (apply of_fst; apply meter_follows)
    | apply stat_follows | (apply of_fst; assumption) | split | apply fst_mk | refine of_fst_eq (by assumption) ?_
    | (fail_if_no_progress apply upd_follows)
theorem fwdDrop_follows (h0 : Follows kp b0 s) (p code : Nat) (cl : Clause) : Follows kp b0 (fwdDrop s p code cl) :=
    by
  unfold fwdDrop
  with_reducible repeat' first
    | assumption | apply fwdCount_follows | apply nextFree_follows | apply trace_follows
theorem fwdPunt_follows (h0 : Follows kp b0 s) (f : Frame) : Follows kp b0 (fwdPunt s f) := by
  unfold fwdPunt
  with_reducible repeat' first
    | assumption | apply toCtrl_follows | (fail_if_no_progress apply upd_follows)
theorem fwdQueue_follows (h0 : Follows kp b0 s) (p : Nat) (it : FwdItem) (flood : Option Nat) (dests : List Nat) :
    Follows kp b0 (fwdQueue s p it flood dests) := by
  unfold fwdQueue
  with_reducible repeat' first
    | assumption | intro _
    | (extract_lets +onlyGivenNames x; refine cut_follows (kp := kp) (b := b0) (s := x) (fun _ => ?_) ?_; clear_value x; on_goal 2 => subst x)
    | (extract_lets +onlyGivenNames x; refine cut_fst (kp := kp) (b := b0) (p := x) (fun _ => ?_) ?_; clear_value x; on_goal 2 => subst x)
    | (extract_lets +onlyGivenNames x; clear_value x) | apply flowOut_follows | apply policerStage_follows
    | (apply of_fst; apply policerStage_follows) | apply trace_follows | apply traceDrop_follows
    | (apply of_fst; assumption) | split | apply fst_mk | refine of_fst_eq (by assumption) ?_
    | (fail_if_no_progress apply upd_follows)
theorem fwdRoute_follows (h0 : Follows kp b0 s) (p : Nat) (it : FwdItem) (bdv : Nat) : Follows kp b0 (fwdRoute s p it
    bdv) := by
  unfold fwdRoute
  with_reducible repeat' first
    | assumption
    | (extract_lets +onlyGivenNames x; refine cut_follows (kp := kp) (b := b0) (s := x) (fun _ => ?_) ?_; clear_value x; on_goal 2 => subst x)
    | (extract_lets +onlyGivenNames x; clear_value x) | apply countSearch_follows | apply fwdDrop_follows
    | apply fwdPunt_follows | apply fwdQueue_follows | apply nextFree_follows | apply trace_follows | split
    | (fail_if_no_progress apply upd_follows)
theorem forwarding_follows (hk : kp.tabs = false) (h : Follows kp b s) (p : Nat) (members : List Nat) :
    Follows kp b (forwarding s p members) := by
  unfold forwarding
  split
  · exact h
  · split
    · exact h
    · extract_lets +onlyGivenNames src t cl bdv
      have ht : Follows kp b t := by unfold t; with_reducible apply upd_follows; exact h
      clear_value t
      split
      · exact fwdDrop_follows ht _ _ _
      · split
        · extract_lets mac old u
          exact traceDrop_follows (fwdNotify_follows (stat_follows (fwdCount_follows (nextFree_follows ht) _ _) _ _ _ _)
            _ _ _ _ _) _ _ _ _ _
        · extract_lets +onlyGivenNames u da hit group flood
          have hu : Follows kp b u := sourceStep_follows hk ht _ _
          clear_value u
          have hflood : ∀ s, Follows kp b s → Follows kp b (flood s) := by
            intro s hs; unfold flood; split
            · exact fwdQueue_follows hs _ _ _ _
            · exact fwdDrop_follows hs _ _ _
          clear_value flood hit
          split
          · exact hflood _ hu
          · split
            · exact fwdDrop_follows hu _ _ _
            · split
              · exact fwdRoute_follows hu _ _ _
              · split
                · exact hflood _ hu
                · exact fwdQueue_follows hu _ _ _ _

theorem frameEnqueue_follows (h0 : Follows kp b0 s) (busySites : Nat) : Follows kp b0 (frameEnqueue s busySites) := by
  unfold frameEnqueue
  with_reducible repeat' first
    | assumption | intro _ | apply enqueue_follows | split | (fail_if_no_progress apply upd_follows)
theorem execForwarding_follows (s : State) (p : Nat) (members : List Nat) : ∃ t0, execForwarding p members s = .next
    t0 ∧ Follows ⟨true, true, false⟩ s t0 := by
  refine ⟨_, rfl, ?_⟩
  have h0 := Follows.refl ⟨true, true, false⟩ s
  with_reducible repeat' first
    | assumption | exact rfl | apply forwarding_follows
theorem execAgingSweep_follows (s : State) : ∃ t0, execAgingSweep s = .next t0 ∧ Follows ⟨true, true, false⟩ s t0 :=
    by
  refine ⟨_, rfl, ?_⟩
  have h0 := Follows.refl ⟨true, true, false⟩ s
  with_reducible repeat' first
    | assumption | exact rfl | apply agingSweep_follows
theorem execFrameEnqueue_follows (s : State) (busySites : Nat) : ∃ t0, execFrameEnqueue busySites s = .next t0 ∧
    Follows ⟨true, true, true⟩ s t0 := by
  refine ⟨_, rfl, ?_⟩
  have h0 := Follows.refl ⟨true, true, true⟩ s
  with_reducible repeat' first
    | assumption | exact rfl | intro _ | apply dataUp_follows | apply frameEnqueue_follows

end Sys2Proof.Machine
end

