-- ==== Sys2Proof/Laws/UplinkKeeps.lean ====
section
/-! SUPPORT. What the functions of Machine/Uplink.lean keep (Follows), one lemma each. -/
namespace Sys2Proof.Machine

set_option linter.all false
variable {kp : Keep} {b b0 s : State}

theorem uplFlush_follows (h0 : Follows kp b0 s) (u tc : Nat) : Follows kp b0 (uplFlush s u tc) := by
  unfold uplFlush
  with_reducible repeat' first
    | assumption | intro _
    | (extract_lets +onlyGivenNames x; refine cut_follows (kp := kp) (b := b0) (s := x) (fun _ => ?_) ?_; clear_value x; on_goal 2 => subst x)
    | (extract_lets +onlyGivenNames x; clear_value x) | apply qFree_follows | apply setQueue_follows
    | apply stat_follows | apply traceDrop_follows | apply foldl_follows | split
theorem uplFlushAll_follows (h0 : Follows kp b0 s) (u : Nat) : Follows kp b0 (uplFlushAll s u) := by
  unfold uplFlushAll
  with_reducible repeat' first
    | assumption | intro _ | apply uplFlush_follows | apply foldl_follows
theorem laneMode_follows (h0 : Follows kp b0 s) (old new : List (Nat × Nat)) (u : Nat) : Follows kp b0 (laneMode old
    new s u) := by
  unfold laneMode
  with_reducible repeat' first
    | assumption
    | (extract_lets +onlyGivenNames x; refine cut_follows (kp := kp) (b := b0) (s := x) (fun _ => ?_) ?_; clear_value x; on_goal 2 => subst x)
    | (extract_lets +onlyGivenNames x; clear_value x) | apply uplFlushAll_follows | apply wf_follows | split
    | (fail_if_no_progress apply upd_follows)
theorem grpModeWrite_follows (h0 : Follows kp b0 s) (who : Requester) (g : Nat) (v : Word) : Follows kp b0
    (grpModeWrite s who g v) := by
  unfold grpModeWrite
  with_reducible repeat' first
    | assumption | intro _
    | (extract_lets +onlyGivenNames x; refine cut_follows (kp := kp) (b := b0) (s := x) (fun _ => ?_) ?_; clear_value x; on_goal 2 => subst x)
    | (extract_lets +onlyGivenNames x; clear_value x) | apply laneMode_follows | apply wr_follows
    | apply wrDown_follows | apply wrOk_follows | apply wrRefuse_follows | apply foldl_follows | split
theorem linkUp_follows (h0 : Follows kp b0 s) (u : Nat) : Follows kp b0 (linkUp s u) := by
  unfold linkUp
  with_reducible repeat' first
    | assumption
    | (extract_lets +onlyGivenNames x; refine cut_follows (kp := kp) (b := b0) (s := x) (fun _ => ?_) ?_; clear_value x; on_goal 2 => subst x)
    | (extract_lets +onlyGivenNames x; clear_value x) | apply wb_follows | split
theorem linkDown_follows (h0 : Follows kp b0 s) (u : Nat) : Follows kp b0 (linkDown s u) := by
  unfold linkDown
  with_reducible repeat' first
    | assumption | apply wf_follows
theorem uplRxGo_follows (h0 : Follows kp b0 s) (u ofs : Nat) (d : List Byte) : Follows kp b0 (uplRxGo s u ofs d) := by
  unfold uplRxGo
  with_reducible repeat' first
    | assumption
    | (extract_lets +onlyGivenNames x; refine cut_follows (kp := kp) (b := b0) (s := x) (fun _ => ?_) ?_; clear_value x; on_goal 2 => subst x)
    | (extract_lets +onlyGivenNames x; clear_value x) | apply fwdCount_follows | apply ingressPut_follows
    | apply stat_follows | apply toCtrl_follows | split | (fail_if_no_progress apply upd_follows)
theorem uplReceive_follows (h0 : Follows kp b0 s) (u ofs : Nat) (d : List Byte) (fec : Nat) : Follows kp b0
    (uplReceive s u ofs d fec) := by
  unfold uplReceive
  with_reducible repeat' first
    | assumption | intro _
    | (extract_lets +onlyGivenNames x; refine cut_follows (kp := kp) (b := b0) (s := x) (fun _ => ?_) ?_; clear_value x; on_goal 2 => subst x)
    | (extract_lets +onlyGivenNames x; refine cut_snd (kp := kp) (b := b0) (p := x) (fun _ => ?_) ?_; clear_value x; on_goal 2 => subst x)
    | (extract_lets +onlyGivenNames x; clear_value x) | apply fiPass_follows | (apply of_snd; apply fiPass_follows)
    | apply satF_follows | apply uplRxGo_follows | apply foldl_follows | apply foldl_snd
    | (apply of_snd; assumption) | split | apply snd_mk | refine of_snd_eq (by assumption) ?_
theorem pfcReceive_follows (h0 : Follows kp b0 s) (u : Nat) (pfc : Bool) (vec : Nat) (times : List Nat) : Follows kp
    b0 (pfcReceive s u pfc vec times) := by
  unfold pfcReceive
  with_reducible repeat' first
    | assumption | intro _
    | (extract_lets +onlyGivenNames x; refine cut_follows (kp := kp) (b := b0) (s := x) (fun _ => ?_) ?_; clear_value x; on_goal 2 => subst x)
    | (extract_lets +onlyGivenNames x; clear_value x) | apply foldl_follows | split
    | (fail_if_no_progress apply upd_follows)
theorem pauseExpire_follows (h0 : Follows kp b0 s) (u mask : Nat) : Follows kp b0 (pauseExpire s u mask) := by
  unfold pauseExpire
  with_reducible repeat' first
    | assumption | intro _
    | (extract_lets +onlyGivenNames x; refine cut_follows (kp := kp) (b := b0) (s := x) (fun _ => ?_) ?_; clear_value x; on_goal 2 => subst x)
    | (extract_lets +onlyGivenNames x; clear_value x) | apply foldl_follows | split
    | (fail_if_no_progress apply upd_follows)
theorem uplTransmit_follows (h0 : Follows kp b0 s) (u ofs : Nat) : Follows kp b0 (uplTransmit s u ofs) := by
  unfold uplTransmit
  with_reducible repeat' first
    | assumption | intro _
    | (extract_lets +onlyGivenNames x; refine cut_follows (kp := kp) (b := b0) (s := x) (fun _ => ?_) ?_; clear_value x; on_goal 2 => subst x)
    | (extract_lets +onlyGivenNames x; clear_value x) | apply dmaTimeRec_follows | apply emitFi_follows
    | apply markFits_follows | apply qCleanAll_follows | apply qFree_follows | apply qPop_follows
    | apply stat_follows | apply trace_follows | split
theorem execUplGrpModeWrite_follows (s : State) (who : Requester) (g : Nat) (value : Word) : ∃ t0,
    execUplGrpModeWrite who g value s = .next t0 ∧ Follows ⟨true, true, true⟩ s t0 := by
  refine ⟨_, rfl, ?_⟩
  have h0 := Follows.refl ⟨true, true, true⟩ s
  with_reducible repeat' first
    | assumption | exact rfl | apply grpModeWrite_follows
theorem execUplinkLinkUp_follows (s : State) (u : Nat) : ∃ t0, execUplinkLinkUp u s = .next t0 ∧ Follows ⟨true, true,
    true⟩ s t0 := by
  refine ⟨_, rfl, ?_⟩
  have h0 := Follows.refl ⟨true, true, true⟩ s
  with_reducible repeat' first
    | assumption | exact rfl | apply linkUp_follows
theorem execUplinkLinkDown_follows (s : State) (u : Nat) : ∃ t0, execUplinkLinkDown u s = .next t0 ∧ Follows ⟨true,
    true, true⟩ s t0 := by
  refine ⟨_, rfl, ?_⟩
  have h0 := Follows.refl ⟨true, true, true⟩ s
  with_reducible repeat' first
    | assumption | exact rfl | apply linkDown_follows
theorem execUplinkFrameReceive_follows (s : State) (u ofs : Nat) (data : List Byte) (fec : Nat) : ∃ t0,
    execUplinkFrameReceive u ofs data fec s = .next t0 ∧ Follows ⟨true, true, true⟩ s t0 := by
  refine ⟨_, rfl, ?_⟩
  have h0 := Follows.refl ⟨true, true, true⟩ s
  with_reducible repeat' first
    | assumption | exact rfl | apply uplReceive_follows
theorem execPfcReceive_follows (s : State) (u : Nat) (pfc : Bool) (vec : Nat) (times : List Nat) : ∃ t0,
    execPfcReceive u pfc vec times s = .next t0 ∧ Follows ⟨true, true, true⟩ s t0 := by
  refine ⟨_, rfl, ?_⟩
  have h0 := Follows.refl ⟨true, true, true⟩ s
  with_reducible repeat' first
    | assumption | exact rfl | apply pfcReceive_follows
theorem execPauseTimerExpire_follows (s : State) (u mask : Nat) : ∃ t0, execPauseTimerExpire u mask s = .next t0 ∧
    Follows ⟨true, true, true⟩ s t0 := by
  refine ⟨_, rfl, ?_⟩
  have h0 := Follows.refl ⟨true, true, true⟩ s
  with_reducible repeat' first
    | assumption | exact rfl | apply pauseExpire_follows
theorem execUplinkFrameTransmit_follows (s : State) (u ofs : Nat) : ∃ t0, execUplinkFrameTransmit u ofs s = .next t0
    ∧ Follows ⟨true, true, true⟩ s t0 := by
  refine ⟨_, rfl, ?_⟩
  have h0 := Follows.refl ⟨true, true, true⟩ s
  with_reducible repeat' first
    | assumption | exact rfl | apply uplTransmit_follows

end Sys2Proof.Machine
end

