-- ==== Sys2Proof/Laws/DiesKeeps.lean ====
section
/-! SUPPORT. What the functions of Machine/Dies.lean keep (Follows), one lemma each. -/
namespace Sys2Proof.Machine

set_option linter.all false
variable {kp : Keep} {b b0 s : State}

theorem raiseFree_follows (h0 : Follows kp b0 s) (i : Nat) (sev : Severity) : Follows kp b0 (raiseFree s i sev) := by
  unfold raiseFree
  with_reducible repeat' first
    | assumption | apply nextFree_follows | apply raise_follows
theorem groupLost_follows (h0 : Follows kp b0 s) (g : Nat) : Follows kp b0 (groupLost s g) := by
  unfold groupLost
  with_reducible repeat' first
    | assumption | intro _
    | (extract_lets +onlyGivenNames x; refine cut_follows (kp := kp) (b := b0) (s := x) (fun _ => ?_) ?_; clear_value x; on_goal 2 => subst x)
    | (extract_lets +onlyGivenNames x; refine cut_fun (kp := kp) (b := b0) (f := x) (fun _ => ?_) ?_; clear_value x; on_goal 2 => subst x)
    | (extract_lets +onlyGivenNames x; refine cut_fun2 (kp := kp) (b := b0) (f := x) (fun _ => ?_) ?_; clear_value x; on_goal 2 => subst x)
    | (extract_lets +onlyGivenNames x; refine cut_fun3 (kp := kp) (b := b0) (f := x) (fun _ => ?_) ?_; clear_value x; on_goal 2 => subst x)
    | (extract_lets +onlyGivenNames x; refine cut_fun4 (kp := kp) (b := b0) (f := x) (fun _ => ?_) ?_; clear_value x; on_goal 2 => subst x)
    | (extract_lets +onlyGivenNames x; refine cut_fun5 (kp := kp) (b := b0) (f := x) (fun _ => ?_) ?_; clear_value x; on_goal 2 => subst x)
    | (extract_lets +onlyGivenNames x; refine cut_fun6 (kp := kp) (b := b0) (f := x) (fun _ => ?_) ?_; clear_value x; on_goal 2 => subst x)
    | (extract_lets +onlyGivenNames x; clear_value x) | apply fiOff_follows | apply linkDown_follows
    | apply raiseFree_follows | apply setIsl_follows | apply foldl_follows | split | apply_assumption
    | (apply of_fst; apply_assumption) | (apply of_snd; apply_assumption)
theorem d2dLost_follows (hktabs : kp.tabs = false) (h0 : Follows kp b0 s) (p : Nat) : Follows kp b0 (d2dLost s p) :=
    by
  unfold d2dLost
  with_reducible repeat' first
    | assumption | intro _
    | (extract_lets +onlyGivenNames x; refine cut_follows (kp := kp) (b := b0) (s := x) (fun _ => ?_) ?_; clear_value x; on_goal 2 => subst x)
    | (extract_lets +onlyGivenNames x; clear_value x) | apply chanLost_follows | apply groupLost_follows
    | apply raiseFree_follows | apply setIsl_follows | apply foldl_follows | split
    | (fail_if_no_progress apply upd_follows)
theorem pipeLost_follows (h0 : Follows kp b0 s) (p : Nat) : Follows kp b0 (pipeLost s p) := by
  unfold pipeLost
  with_reducible repeat' first
    | assumption
    | (extract_lets +onlyGivenNames x; refine cut_follows (kp := kp) (b := b0) (s := x) (fun _ => ?_) ?_; clear_value x; on_goal 2 => subst x)
    | (extract_lets +onlyGivenNames x; clear_value x) | apply dropCtx_follows | apply setIngress_follows
    | (fail_if_no_progress apply upd_follows)
theorem islandLost_follows (hktabs : kp.tabs = false) (h0 : Follows kp b0 s) (i det : Nat) : Follows kp b0
    (islandLost s i det) := by
  unfold islandLost
  with_reducible repeat' first
    | assumption
    | (extract_lets +onlyGivenNames x; refine cut_follows (kp := kp) (b := b0) (s := x) (fun _ => ?_) ?_; clear_value x; on_goal 2 => subst x)
    | (extract_lets +onlyGivenNames x; clear_value x) | apply chanLost_follows | apply d2dLost_follows
    | apply groupLost_follows | apply pipeLost_follows | apply raiseFree_follows | apply setIsl_follows
    | apply siteLost_follows | apply sliceLost_follows | split
theorem setD2d_follows (h0 : Follows kp b0 s) (p d : Nat) (x : D2dPort) : Follows kp b0 (setD2d s p d x) := by
  unfold setD2d
  with_reducible repeat' first
    | assumption | (fail_if_no_progress apply upd_follows)
theorem flitAccept_follows (h0 : Follows kp b0 s) (p d cls lp : Nat) : Follows kp b0 (flitAccept s p d cls lp) := by
  unfold flitAccept
  with_reducible repeat' first
    | assumption
    | (extract_lets +onlyGivenNames x; refine cut_follows (kp := kp) (b := b0) (s := x) (fun _ => ?_) ?_; clear_value x; on_goal 2 => subst x)
    | (extract_lets +onlyGivenNames x; clear_value x) | apply setD2d_follows | (fail_if_no_progress apply upd_follows)
theorem flitFail_follows (h : Follows kp b s) (p d cls lp : Nat) (data : List Byte) :
    Follows kp b (flitFail s p d cls lp data) := by
  unfold flitFail
  extract_lets +onlyGivenNames x y
  split
  · exact raiseFree_follows (pc_follows (setD2d_follows h _ _ _) _) _ _
  · exact setD2d_follows (setD2d_follows h _ _ _) _ _ _

theorem flitGo_follows (h0 : Follows kp b0 s) (p d cls lp : Nat) (data : List Byte) (ok : Bool) : Follows kp b0
    (flitGo s p d cls lp data ok) := by
  unfold flitGo
  with_reducible repeat' first
    | assumption
    | (extract_lets +onlyGivenNames x; refine cut_follows (kp := kp) (b := b0) (s := x) (fun _ => ?_) ?_; clear_value x; on_goal 2 => subst x)
    | (extract_lets +onlyGivenNames x; clear_value x) | apply flitAccept_follows | apply flitFail_follows
    | apply setD2d_follows | split | (fail_if_no_progress apply upd_follows)
theorem flitUnits_follows (h0 : Follows kp b0 s) (us : List FiUnit) : Follows kp b0 (flitUnits s us) := by
  unfold flitUnits
  with_reducible repeat' first
    | assumption | intro _ | apply flitGo_follows | apply foldl_follows | split
theorem flitReceive_follows (h0 : Follows kp b0 s) (p d cls lp : Nat) (data : List Byte) (ok : Bool) : Follows kp b0
    (flitReceive s p d cls lp data ok) := by
  unfold flitReceive
  with_reducible repeat' first
    | assumption
    | (extract_lets +onlyGivenNames x; refine cut_follows (kp := kp) (b := b0) (s := x) (fun _ => ?_) ?_; clear_value x; on_goal 2 => subst x)
    | (extract_lets +onlyGivenNames x; refine cut_snd (kp := kp) (b := b0) (p := x) (fun _ => ?_) ?_; clear_value x; on_goal 2 => subst x)
    | (extract_lets +onlyGivenNames x; clear_value x) | apply fiPass_follows | (apply of_snd; apply fiPass_follows)
    | apply flitGo_follows | apply flitUnits_follows | apply pc_follows | (apply of_snd; assumption) | split
    | apply snd_mk | refine of_snd_eq (by assumption) ?_
theorem retrainDone_follows (hktabs : kp.tabs = false) (h0 : Follows kp b0 s) (p : Nat) (ok : Bool) : Follows kp b0
    (retrainDone s p ok) := by
  unfold retrainDone
  with_reducible repeat' first
    | assumption
    | (extract_lets +onlyGivenNames x; refine cut_follows (kp := kp) (b := b0) (s := x) (fun _ => ?_) ?_; clear_value x; on_goal 2 => subst x)
    | (extract_lets +onlyGivenNames x; clear_value x) | apply d2dLost_follows | apply setD2d_follows | split
    | (fail_if_no_progress apply upd_follows)
theorem creditReturn_follows (h0 : Follows kp b0 s) (p d cls lp : Nat) : Follows kp b0 (creditReturn s p d cls lp) :=
    by
  unfold creditReturn
  with_reducible repeat' first
    | assumption
    | (extract_lets +onlyGivenNames x; refine cut_follows (kp := kp) (b := b0) (s := x) (fun _ => ?_) ?_; clear_value x; on_goal 2 => subst x)
    | (extract_lets +onlyGivenNames x; clear_value x) | (fail_if_no_progress apply upd_follows)
theorem bufDrop_follows (h0 : Follows kp b0 s) (h isl : Nat) : Follows kp b0 (bufDrop s h isl) := by
  unfold bufDrop
  with_reducible repeat' first
    | assumption | intro _ | apply bufFree_follows | (apply of_fst; apply bufFree_follows) | apply foldl_follows
    | apply foldl_fst | (apply of_fst; assumption) | split | apply fst_mk | refine of_fst_eq (by assumption) ?_
theorem flowWithout_follows (h0 : Follows kp b0 s) (bad : Clause → Bool) : Follows kp b0 (flowWithout s bad) := by
  unfold flowWithout
  with_reducible repeat' first
    | assumption | intro _ | (fail_if_no_progress apply upd_follows)
theorem cellFrames_follows (h0 : Follows kp b0 s) (h : Nat) : Follows kp b0 (cellFrames s h) := by
  unfold cellFrames
  with_reducible repeat' first
    | assumption | intro _
    | (extract_lets +onlyGivenNames x; refine cut_follows (kp := kp) (b := b0) (s := x) (fun _ => ?_) ?_; clear_value x; on_goal 2 => subst x)
    | (extract_lets +onlyGivenNames x; clear_value x) | apply bufDrop_follows | apply flowWithout_follows
    | apply lostFlight_follows | apply qFree_follows | apply setQueue_follows | apply foldl_follows | split
theorem entryBad_follows (hktabs : kp.tabs = false) (h0 : Follows kp b0 s) (isl code idx : Nat) : Follows kp b0
    (entryBad s isl code idx) := by
  unfold entryBad
  with_reducible repeat' first
    | assumption | apply emit_follows | apply raiseFree_follows | apply showPlanes_follows | apply tblPut_follows
    | split
theorem sramError_follows (hktabs : kp.tabs = false) (h0 : Follows kp b0 s) (e : SramErr) : Follows kp b0 (sramError
    s e) := by
  unfold sramError
  with_reducible repeat' first
    | assumption | apply cellFrames_follows | apply entryBad_follows | apply islandLost_follows
    | apply raiseFree_follows | split
theorem itemDrop_follows (h0 : Follows kp b0 s) (i : Nat) (cl : Clause) : Follows kp b0 (itemDrop s i cl) := by
  unfold itemDrop
  with_reducible repeat' first
    | assumption | intro _ | apply bufDrop_follows | apply flowWithout_follows | apply qFree_follows
    | apply setQueue_follows | split
theorem clauseError_follows (hktabs : kp.tabs = false) (h0 : Follows kp b0 s) (i : Nat) (cl : Clause) : Follows kp b0
    (clauseError s i cl) := by
  unfold clauseError
  with_reducible repeat' first
    | assumption
    | (extract_lets +onlyGivenNames x; refine cut_follows (kp := kp) (b := b0) (s := x) (fun _ => ?_) ?_; clear_value x; on_goal 2 => subst x)
    | (extract_lets +onlyGivenNames x; clear_value x) | apply chanLost_follows | apply cnt32_follows
    | apply itemDrop_follows | apply raise_follows | split | (fail_if_no_progress apply upd_follows)
theorem itemGo_follows (hktabs : kp.tabs = false) (h0 : Follows kp b0 s) (i : Nat) (cl : Clause) (check : Nat) :
    Follows kp b0 (itemGo s i cl check) := by
  unfold itemGo
  with_reducible repeat' first
    | assumption | apply clauseError_follows | split
theorem itemUnits_follows (hktabs : kp.tabs = false) (h0 : Follows kp b0 s) (us : List FiUnit) : Follows kp b0
    (itemUnits s us) := by
  unfold itemUnits
  with_reducible repeat' first
    | assumption | intro _ | apply itemGo_follows | apply foldl_follows | split
theorem passAll_follows (h : Follows kp b s) (l : List Nat) (us : List FiUnit) : FollowsSnd kp b (passAll l us s) := by
  induction l generalizing s us with
  | nil => exact h
  | cons i l ih =>
    unfold passAll
    split
    rename_i e
    refine ih (of_snd_eq e ?_) _
    refine foldl_snd (snd_mk h) ?_
    intro p x hp
    exact snd_mk (of_snd (fiPass_follows (of_snd hp) _ _ _))

theorem clauseEntry_follows (hktabs : kp.tabs = false) (h0 : Follows kp b0 s) (src dst : Nat) (cl : Clause) (check :
    Nat) : Follows kp b0 (clauseEntry s src dst cl check) := by
  unfold clauseEntry
  with_reducible repeat' first
    | assumption
    | (extract_lets +onlyGivenNames x; refine cut_follows (kp := kp) (b := b0) (s := x) (fun _ => ?_) ?_; clear_value x; on_goal 2 => subst x)
    | (extract_lets +onlyGivenNames x; refine cut_snd (kp := kp) (b := b0) (p := x) (fun _ => ?_) ?_; clear_value x; on_goal 2 => subst x)
    | (extract_lets +onlyGivenNames x; clear_value x) | apply itemUnits_follows | apply passAll_follows
    | (apply of_snd; apply passAll_follows) | (apply of_snd; assumption) | split | apply snd_mk
    | refine of_snd_eq (by assumption) ?_
theorem execFlitReceive_follows (s : State) (p d cls lp : Nat) (data : List Byte) (ok : Bool) : ∃ t0, execFlitReceive
    p d cls lp data ok s = .next t0 ∧ Follows ⟨true, true, true⟩ s t0 := by
  refine ⟨_, rfl, ?_⟩
  have h0 := Follows.refl ⟨true, true, true⟩ s
  with_reducible repeat' first
    | assumption | exact rfl | apply flitReceive_follows | split
theorem execRetrainComplete_follows (s : State) (p : Nat) (ok : Bool) : ∃ t0, execRetrainComplete p ok s = .next t0 ∧
    Follows ⟨true, true, false⟩ s t0 := by
  refine ⟨_, rfl, ?_⟩
  have h0 := Follows.refl ⟨true, true, false⟩ s
  with_reducible repeat' first
    | assumption | exact rfl | apply retrainDone_follows | split
theorem execCreditReturn_follows (s : State) (p d cls lp : Nat) : ∃ t0, execCreditReturn p d cls lp s = .next t0 ∧
    Follows ⟨true, true, true⟩ s t0 := by
  refine ⟨_, rfl, ?_⟩
  have h0 := Follows.refl ⟨true, true, true⟩ s
  with_reducible repeat' first
    | assumption | exact rfl | apply creditReturn_follows | split
theorem execIslandLost_follows (s : State) (i det : Nat) : ∃ t0, execIslandLost i det s = .next t0 ∧ Follows ⟨true,
    true, false⟩ s t0 := by
  refine ⟨_, rfl, ?_⟩
  have h0 := Follows.refl ⟨true, true, false⟩ s
  with_reducible repeat' first
    | assumption | exact rfl | apply islandLost_follows
theorem execSramError_follows (s : State) (e : SramErr) : ∃ t0, execSramError e s = .next t0 ∧ Follows ⟨true, true,
    false⟩ s t0 := by
  refine ⟨_, rfl, ?_⟩
  have h0 := Follows.refl ⟨true, true, false⟩ s
  with_reducible repeat' first
    | assumption | exact rfl | apply sramError_follows
theorem execScrubPass_follows (s : State) : ∃ t0, execScrubPass s = .next t0 ∧ Follows ⟨true, true, true⟩ s t0 := by
  refine ⟨_, rfl, ?_⟩
  have h0 := Follows.refl ⟨true, true, true⟩ s
  with_reducible repeat' first
    | assumption | exact rfl
theorem execClauseIslandEntry_follows (s : State) (src dst : Nat) (cl : Clause) (check : Nat) : ∃ t0,
    execClauseIslandEntry src dst cl check s = .next t0 ∧ Follows ⟨true, true, false⟩ s t0 := by
  refine ⟨_, rfl, ?_⟩
  have h0 := Follows.refl ⟨true, true, false⟩ s
  with_reducible repeat' first
    | assumption | exact rfl | apply clauseEntry_follows | split

end Sys2Proof.Machine
end

