-- ==== Sys2Proof/Laws/InjectKeeps.lean ====
section
/-! SUPPORT. What the functions of Machine/Inject.lean keep (Follows), one lemma each. -/
namespace Sys2Proof.Machine

set_option linter.all false
variable {kp : Keep} {b b0 s : State}

theorem fiGo_follows (hktabs : kp.tabs = false) (h0 : Follows kp b0 s) (u : FiUnit) : Follows kp b0 (fiGo s u) := by
  unfold fiGo
  with_reducible repeat' first
    | assumption | apply emit_follows | apply flitGo_follows | apply itemGo_follows | apply plkGo_follows
    | apply uplRxGo_follows | split
theorem fiRelease_follows (hktabs : kp.tabs = false) (h0 : Follows kp b0 s) (cfg : Nat) : Follows kp b0 (fiRelease s
    cfg) := by
  unfold fiRelease
  with_reducible repeat' first
    | assumption | intro _
    | (extract_lets +onlyGivenNames x; refine cut_follows (kp := kp) (b := b0) (s := x) (fun _ => ?_) ?_; clear_value x; on_goal 2 => subst x)
    | (extract_lets +onlyGivenNames x; clear_value x) | apply fiGo_follows | apply setFi_follows
    | apply foldl_follows | (fail_if_no_progress apply upd_follows)
theorem fiDisarmAll_follows (hktabs : kp.tabs = false) (h0 : Follows kp b0 s) : Follows kp b0 (fiDisarmAll s) := by
  unfold fiDisarmAll
  with_reducible repeat' first
    | assumption | intro _ | apply fiDisarm_follows | apply fiRelease_follows | apply foldl_follows
theorem fiGlobalWrite_follows (hktabs : kp.tabs = false) (h0 : Follows kp b0 s) (who : Requester) (v : Word) :
    Follows kp b0 (fiGlobalWrite s who v) := by
  unfold fiGlobalWrite
  with_reducible repeat' first
    | assumption
    | (extract_lets +onlyGivenNames x; refine cut_follows (kp := kp) (b := b0) (s := x) (fun _ => ?_) ?_; clear_value x; on_goal 2 => subst x)
    | (extract_lets +onlyGivenNames x; clear_value x) | apply fiDisarmAll_follows | apply wf_follows
    | apply wrDown_follows | apply wrOk_follows | apply wrRefuse_follows | split
theorem fiWrite_follows (h0 : Follows kp b0 s) (who : Requester) (kind i v : Nat) : Follows kp b0 (fiWrite s who kind
    i v) := by
  unfold fiWrite
  with_reducible repeat' first
    | assumption | apply fiCfgWrite_follows | apply wrDown_follows | split
theorem fiLock_follows (hktabs : kp.tabs = false) (h0 : Follows kp b0 s) (c : CmdCtx) : FollowsFst kp b0 (fiLock s c)
    := by
  unfold fiLock
  with_reducible repeat' first
    | assumption | intro _ | apply coService_follows | (apply of_fst; apply coService_follows)
    | apply fiDisarmAll_follows | apply fiRelock_follows | (apply of_fst; assumption) | apply fst_mk
    | refine of_fst_eq (by assumption) ?_
theorem traceInject_follows (h0 : Follows kp b0 s) (who : Requester) (v : Nat) : Follows kp b0 (traceInject s who v)
    := by
  unfold traceInject
  with_reducible repeat' first
    | assumption
    | (extract_lets +onlyGivenNames x; refine cut_follows (kp := kp) (b := b0) (s := x) (fun _ => ?_) ?_; clear_value x; on_goal 2 => subst x)
    | (extract_lets +onlyGivenNames x; clear_value x) | apply setIngress_follows | apply trace_follows
    | apply wrDown_follows | apply wrOk_follows | apply wrRefuse_follows | split
    | (fail_if_no_progress apply upd_follows)
theorem execFiLock_follows (s : State) (r : Nat) : ∃ t0, execFiLock r s = .next t0 ∧ Follows ⟨true, true, false⟩ s t0
    := by
  refine ⟨_, rfl, ?_⟩
  have h0 := Follows.refl ⟨true, true, false⟩ s
  with_reducible repeat' first
    | assumption | exact rfl | intro _ | apply fiLock_follows | (apply of_fst; apply fiLock_follows)
    | apply secCmd_follows | (apply of_fst; assumption) | apply fst_mk | refine of_fst_eq (by assumption) ?_
theorem execSnapshot_follows (s : State) (who : Requester) (value : Word) (ofs : Nat) : ∃ t0, execSnapshot who value
    ofs s = .next t0 ∧ Follows ⟨true, true, true⟩ s t0 := by
  refine ⟨_, rfl, ?_⟩
  have h0 := Follows.refl ⟨true, true, true⟩ s
  with_reducible repeat' first
    | assumption | exact rfl | apply snapCtlWrite_follows
theorem execFreeze_follows (s : State) (who : Requester) (value : Word) (ofs : Nat) : ∃ t0, execFreeze who value ofs
    s = .next t0 ∧ Follows ⟨true, true, true⟩ s t0 := by
  refine ⟨_, rfl, ?_⟩
  have h0 := Follows.refl ⟨true, true, true⟩ s
  with_reducible repeat' first
    | assumption | exact rfl | apply snapCtlWrite_follows
theorem execPcValueWrite_follows (s : State) (who : Requester) (n value : Nat) : ∃ t0, execPcValueWrite who n value s
    = .next t0 ∧ Follows ⟨true, true, true⟩ s t0 := by
  refine ⟨_, rfl, ?_⟩
  have h0 := Follows.refl ⟨true, true, true⟩ s
  with_reducible repeat' first
    | assumption | exact rfl | apply pcValWrite_follows | split
theorem execTraceInject_follows (s : State) (who : Requester) (value : Nat) : ∃ t0, execTraceInject who value s =
    .next t0 ∧ Follows ⟨true, true, true⟩ s t0 := by
  refine ⟨_, rfl, ?_⟩
  have h0 := Follows.refl ⟨true, true, true⟩ s
  with_reducible repeat' first
    | assumption | exact rfl | apply traceInject_follows
theorem execKill_follows (s : State) (who : Requester) (value : Word) : ∃ t0, execKill who value s = .next t0 ∧
    Follows ⟨true, true, false⟩ s t0 := by
  refine ⟨_, rfl, ?_⟩
  have h0 := Follows.refl ⟨true, true, false⟩ s
  with_reducible repeat' first
    | assumption | exact rfl | apply fiGlobalWrite_follows
theorem execFiArm_follows (s : State) (who : Requester) (kind i value : Nat) : ∃ t0, execFiArm who kind i value s =
    .next t0 ∧ Follows ⟨true, true, true⟩ s t0 := by
  refine ⟨_, rfl, ?_⟩
  have h0 := Follows.refl ⟨true, true, true⟩ s
  with_reducible repeat' first
    | assumption | exact rfl | apply fiWrite_follows
theorem execFiHoldRelease_follows (s : State) (kind i : Nat) : ∃ t0, execFiHoldRelease kind i s = .next t0 ∧ Follows
    ⟨true, true, false⟩ s t0 := by
  refine ⟨_, rfl, ?_⟩
  have h0 := Follows.refl ⟨true, true, false⟩ s
  with_reducible repeat' first
    | assumption | exact rfl | apply fiRelease_follows | split

end Sys2Proof.Machine
end

