-- ==== Sys2Proof/Laws/PowerKeeps.lean ====
section
/-! SUPPORT. What the functions of Machine/Power.lean keep (Follows), one lemma each. -/
namespace Sys2Proof.Machine

set_option linter.all false
variable {kp : Keep} {b b0 s : State}

theorem pwrUpd_follows (h0 : Follows kp b0 s) (f : PwrSt → PwrSt) : Follows kp b0 (pwrUpd s f) := by
  unfold pwrUpd
  with_reducible repeat' first
    | assumption | (fail_if_no_progress apply upd_follows)
theorem pwrEvent_follows (h0 : Follows kp b0 s) (bit : Nat) : Follows kp b0 (pwrEvent s bit) := by
  unfold pwrEvent
  with_reducible repeat' first
    | assumption | apply evBit_follows | split
theorem setRailTel_follows (h0 : Follows kp b0 s) (r hi lo v : Nat) : Follows kp b0 (setRailTel s r hi lo v) := by
  unfold setRailTel
  with_reducible repeat' first
    | assumption | apply wfW_follows
theorem railPost_follows (h0 : Follows kp b0 s) (r : Nat) (x : RailRead) : Follows kp b0 (railPost s r x) := by
  unfold railPost
  with_reducible repeat' first
    | assumption | apply setRailTel_follows | split
theorem railPoll_follows (h0 : Follows kp b0 s) (xs : List RailRead) : Follows kp b0 (railPoll s xs) := by
  unfold railPoll
  with_reducible repeat' first
    | assumption | intro _
    | (extract_lets +onlyGivenNames x; refine cut_follows (kp := kp) (b := b0) (s := x) (fun _ => ?_) ?_; clear_value x; on_goal 2 => subst x)
    | (extract_lets +onlyGivenNames x; clear_value x) | apply pwrUpd_follows | apply railPost_follows
    | apply foldl_follows | (fail_if_no_progress apply upd_follows)
theorem pmbAlert_follows (h0 : Follows kp b0 s) (ws : List (Option Nat)) : Follows kp b0 (pmbAlert s ws) := by
  unfold pmbAlert
  with_reducible repeat' first
    | assumption | intro _
    | (extract_lets +onlyGivenNames x; refine cut_follows (kp := kp) (b := b0) (s := x) (fun _ => ?_) ?_; clear_value x; on_goal 2 => subst x)
    | (extract_lets +onlyGivenNames x; clear_value x) | apply pwrEvent_follows | apply setRailTel_follows
    | apply foldl_follows | split
theorem pmbLost_follows (h0 : Follows kp b0 s) (r : Nat) : Follows kp b0 (pmbLost s r) := by
  unfold pmbLost
  with_reducible repeat' first
    | assumption | apply pwrEvent_follows | apply setRailTel_follows | split
theorem setDvfs_follows (h0 : Follows kp b0 s) (k hi lo v : Nat) : Follows kp b0 (setDvfs s k hi lo v) := by
  unfold setDvfs
  with_reducible repeat' first
    | assumption | apply wf_follows
theorem sendVolt_follows (h0 : Follows kp b0 s) (k code : Nat) : Follows kp b0 (sendVolt s k code) := by
  unfold sendVolt
  with_reducible repeat' first
    | assumption | intro _ | apply emit_follows | apply setDvfs_follows | apply foldl_follows | split
theorem dvfsFreq_follows (h0 : Follows kp b0 s) (k : Nat) : Follows kp b0 (dvfsFreq s k) := by
  unfold dvfsFreq
  with_reducible repeat' first
    | assumption | intro _ | apply pwrUpd_follows | split | (fail_if_no_progress apply upd_follows)
theorem dvfsStart_follows (h0 : Follows kp b0 s) (k : Nat) : Follows kp b0 (dvfsStart s k) := by
  unfold dvfsStart
  with_reducible repeat' first
    | assumption
    | (extract_lets +onlyGivenNames x; refine cut_follows (kp := kp) (b := b0) (s := x) (fun _ => ?_) ?_; clear_value x; on_goal 2 => subst x)
    | (extract_lets +onlyGivenNames x; clear_value x) | apply dvfsFreq_follows | apply sendVolt_follows
    | apply setDvfs_follows | split
theorem dvfsPut_follows (h0 : Follows kp b0 s) (k : Nat) (v : Word) : Follows kp b0 (dvfsPut s k v) := by
  unfold dvfsPut
  with_reducible repeat' first
    | assumption
    | (extract_lets +onlyGivenNames x; refine cut_follows (kp := kp) (b := b0) (s := x) (fun _ => ?_) ?_; clear_value x; on_goal 2 => subst x)
    | (extract_lets +onlyGivenNames x; clear_value x) | apply setDvfs_follows | split
theorem dvfsRequest_follows (h0 : Follows kp b0 s) (k : Nat) (v : Word) : Follows kp b0 (dvfsRequest s k v) := by
  unfold dvfsRequest
  with_reducible repeat' first
    | assumption | intro _ | apply dvfsPut_follows | apply dvfsStart_follows | apply pwrUpd_follows | split
    | (fail_if_no_progress apply upd_follows)
theorem dvfsWrite_follows (h0 : Follows kp b0 s) (who : Requester) (k : Nat) (v : Word) : Follows kp b0 (dvfsWrite s
    who k v) := by
  unfold dvfsWrite
  with_reducible repeat' first
    | assumption
    | (extract_lets +onlyGivenNames x; refine cut_follows (kp := kp) (b := b0) (s := x) (fun _ => ?_) ?_; clear_value x; on_goal 2 => subst x)
    | (extract_lets +onlyGivenNames x; clear_value x) | apply dvfsRequest_follows | apply wrDown_follows
    | apply wrNotOwner_follows | apply wrOk_follows | apply wrRefuse_follows | split
theorem voutReached_follows (h0 : Follows kp b0 s) (k : Nat) : Follows kp b0 (voutReached s k) := by
  unfold voutReached
  with_reducible repeat' first
    | assumption | intro _
    | (extract_lets +onlyGivenNames x; refine cut_follows (kp := kp) (b := b0) (s := x) (fun _ => ?_) ?_; clear_value x; on_goal 2 => subst x)
    | (extract_lets +onlyGivenNames x; clear_value x) | apply dvfsFreq_follows | apply dvfsPut_follows
    | apply dvfsStart_follows | apply pwrUpd_follows | apply setDvfs_follows | split
    | (fail_if_no_progress apply upd_follows)
theorem avsCheck_follows (h0 : Follows kp b0 s) (k pass : Nat) : Follows kp b0 (avsCheck s k pass) := by
  unfold avsCheck
  with_reducible repeat' first
    | assumption
    | (extract_lets +onlyGivenNames x; refine cut_follows (kp := kp) (b := b0) (s := x) (fun _ => ?_) ?_; clear_value x; on_goal 2 => subst x)
    | (extract_lets +onlyGivenNames x; clear_value x) | apply sendVolt_follows | split
theorem gateUplTaken_follows (h0 : Follows kp b0 s) (v : Word) : Follows kp b0 (gateUplTaken s v) := by
  unfold gateUplTaken
  with_reducible repeat' first
    | assumption | intro _
    | (extract_lets +onlyGivenNames x; refine cut_follows (kp := kp) (b := b0) (s := x) (fun _ => ?_) ?_; clear_value x; on_goal 2 => subst x)
    | (extract_lets +onlyGivenNames x; clear_value x) | apply linkDown_follows | apply setIsl_follows
    | apply wr_follows | apply foldl_follows | split
theorem gateUplWrite_follows (h0 : Follows kp b0 s) (who : Requester) (v : Word) : Follows kp b0 (gateUplWrite s who
    v) := by
  unfold gateUplWrite
  with_reducible repeat' first
    | assumption | intro _
    | (extract_lets +onlyGivenNames x; refine cut_follows (kp := kp) (b := b0) (s := x) (fun _ => ?_) ?_; clear_value x; on_goal 2 => subst x)
    | (extract_lets +onlyGivenNames x; clear_value x) | apply gateUplTaken_follows | apply wrDown_follows
    | apply wrNotOwner_follows | apply wrOk_follows | apply wrRefuse_follows | split
theorem planeStep_follows (h0 : Follows kp b0 s) (p : Nat) : Follows kp b0 (planeStep s p) := by
  unfold planeStep
  with_reducible repeat' first
    | assumption
    | (extract_lets +onlyGivenNames x; refine cut_follows (kp := kp) (b := b0) (s := x) (fun _ => ?_) ?_; clear_value x; on_goal 2 => subst x)
    | (extract_lets +onlyGivenNames x; clear_value x) | apply wf_follows
theorem planeTherm_follows (h0 : Follows kp b0 s) (p : Nat) : Follows kp b0 (planeTherm s p) := by
  unfold planeTherm
  with_reducible repeat' first
    | assumption
    | (extract_lets +onlyGivenNames x; refine cut_follows (kp := kp) (b := b0) (s := x) (fun _ => ?_) ?_; clear_value x; on_goal 2 => subst x)
    | (extract_lets +onlyGivenNames x; clear_value x) | apply planeStep_follows | apply wf_follows
theorem setStage_follows (h0 : Follows kp b0 s) (n st : Nat) : Follows kp b0 (setStage s n st) := by
  unfold setStage
  with_reducible repeat' first
    | assumption | intro _
    | (extract_lets +onlyGivenNames x; refine cut_follows (kp := kp) (b := b0) (s := x) (fun _ => ?_) ?_; clear_value x; on_goal 2 => subst x)
    | (extract_lets +onlyGivenNames x; clear_value x) | apply planeTherm_follows | apply pwrUpd_follows | split
    | (fail_if_no_progress apply upd_follows)
theorem shutdown_follows (h0 : Follows kp b0 s) : Follows kp b0 (shutdown s) := by
  unfold shutdown
  with_reducible repeat' first
    | assumption | intro _
    | (extract_lets +onlyGivenNames x; refine cut_follows (kp := kp) (b := b0) (s := x) (fun _ => ?_) ?_; clear_value x; on_goal 2 => subst x)
    | (extract_lets +onlyGivenNames x; clear_value x) | apply pwrEvent_follows | apply pwrUpd_follows
    | apply sendVolt_follows | apply setDvfs_follows | apply setIsl_follows | apply wb_follows | apply foldl_follows
    | split | (fail_if_no_progress apply upd_follows)
theorem sensorRead_follows (h0 : Follows kp b0 s) (n : Nat) (t : Int) : Follows kp b0 (sensorRead s n t) := by
  unfold sensorRead
  with_reducible repeat' first
    | assumption | intro _
    | (extract_lets +onlyGivenNames x; refine cut_follows (kp := kp) (b := b0) (s := x) (fun _ => ?_) ?_; clear_value x; on_goal 2 => subst x)
    | (extract_lets +onlyGivenNames x; clear_value x) | apply planeTherm_follows | apply pwrEvent_follows
    | apply pwrUpd_follows | apply setStage_follows | apply shutdown_follows | apply wf_follows
    | apply zeroize_follows | split | (fail_if_no_progress apply upd_follows)
theorem throttleClear_follows (h0 : Follows kp b0 s) (n : Nat) : Follows kp b0 (throttleClear s n) := by
  unfold throttleClear
  with_reducible repeat' first
    | assumption | intro _
    | (extract_lets +onlyGivenNames x; refine cut_follows (kp := kp) (b := b0) (s := x) (fun _ => ?_) ?_; clear_value x; on_goal 2 => subst x)
    | (extract_lets +onlyGivenNames x; clear_value x) | apply pwrUpd_follows | apply setStage_follows | split
    | (fail_if_no_progress apply upd_follows)
theorem setCapStep_follows (h0 : Follows kp b0 s) (n : Nat) : Follows kp b0 (setCapStep s n) := by
  unfold setCapStep
  with_reducible repeat' first
    | assumption | intro _ | apply planeStep_follows | apply wf_follows | apply foldl_follows
theorem showStep_follows (h0 : Follows kp b0 s) : Follows kp b0 (showStep s) := by
  unfold showStep
  with_reducible repeat' first
    | assumption | apply wf_follows
theorem capEclipse_follows (hktabs : kp.tabs = false) (h0 : Follows kp b0 s) : Follows kp b0 (capEclipse s) := by
  unfold capEclipse
  with_reducible repeat' first
    | assumption | intro _ | apply eclipseAct_follows | apply pwrUpd_follows | apply foldl_follows | apply exc_ok
    | apply exc_error | split | refine of_exc_eq (by assumption) ?_ | (fail_if_no_progress apply upd_follows)
theorem capPoint_follows (h0 : Follows kp b0 s) (p : Nat) : Follows kp b0 (capPoint s p) := by
  unfold capPoint
  with_reducible repeat' first
    | assumption | apply dvfsRequest_follows
theorem capMore_follows (hktabs : kp.tabs = false) (h0 : Follows kp b0 s) : Follows kp b0 (capMore s) := by
  unfold capMore
  with_reducible repeat' first
    | assumption | intro _
    | (extract_lets +onlyGivenNames x; refine cut_follows (kp := kp) (b := b0) (s := x) (fun _ => ?_) ?_; clear_value x; on_goal 2 => subst x)
    | (extract_lets +onlyGivenNames x; clear_value x) | apply capEclipse_follows | apply capPoint_follows
    | apply pwrEvent_follows | apply pwrUpd_follows | apply setCapStep_follows | apply wf_follows | split
    | (fail_if_no_progress apply upd_follows)
theorem capLess_follows (hktabs : kp.tabs = false) (h0 : Follows kp b0 s) : Follows kp b0 (capLess s) := by
  unfold capLess
  with_reducible repeat' first
    | assumption | intro _ | apply capPoint_follows | apply eclipseAct_follows | apply pwrUpd_follows
    | apply setCapStep_follows | apply wf_follows | apply foldl_follows | apply exc_ok | apply exc_error | split
    | refine of_exc_eq (by assumption) ?_ | (fail_if_no_progress apply upd_follows)
theorem capEval_follows (hktabs : kp.tabs = false) (h0 : Follows kp b0 s) : Follows kp b0 (capEval s) := by
  unfold capEval
  with_reducible repeat' first
    | assumption | intro _
    | (extract_lets +onlyGivenNames x; refine cut_follows (kp := kp) (b := b0) (s := x) (fun _ => ?_) ?_; clear_value x; on_goal 2 => subst x)
    | (extract_lets +onlyGivenNames x; clear_value x) | apply capLess_follows | apply capMore_follows
    | apply pwrUpd_follows | apply showStep_follows | apply wf_follows | split
    | (fail_if_no_progress apply upd_follows)
theorem pwrCapWrite_follows (h0 : Follows kp b0 s) (who : Requester) (v : Word) : Follows kp b0 (pwrCapWrite s who v)
    := by
  unfold pwrCapWrite
  with_reducible repeat' first
    | assumption
    | (extract_lets +onlyGivenNames x; refine cut_follows (kp := kp) (b := b0) (s := x) (fun _ => ?_) ?_; clear_value x; on_goal 2 => subst x)
    | (extract_lets +onlyGivenNames x; clear_value x) | apply wr_follows | apply wrDown_follows
    | apply wrNotOwner_follows | apply wrOk_follows | apply wrRefuse_follows | split
theorem pwrStatWrite_follows (h0 : Follows kp b0 s) (who : Requester) (v : Word) : Follows kp b0 (pwrStatWrite s who
    v) := by
  unfold pwrStatWrite
  with_reducible repeat' first
    | assumption
    | (extract_lets +onlyGivenNames x; refine cut_follows (kp := kp) (b := b0) (s := x) (fun _ => ?_) ?_; clear_value x; on_goal 2 => subst x)
    | (extract_lets +onlyGivenNames x; clear_value x) | apply setCapStep_follows | apply showStep_follows
    | apply wf_follows | apply wrDown_follows | apply wrNotOwner_follows | apply wrOk_follows | split
theorem railCfgWrite_follows (h0 : Follows kp b0 s) (who : Requester) (r v : Nat) : Follows kp b0 (railCfgWrite s who
    r v) := by
  unfold railCfgWrite
  with_reducible repeat' first
    | assumption
    | (extract_lets +onlyGivenNames x; refine cut_follows (kp := kp) (b := b0) (s := x) (fun _ => ?_) ?_; clear_value x; on_goal 2 => subst x)
    | (extract_lets +onlyGivenNames x; clear_value x) | apply wrDown_follows | apply wrNotOwner_follows
    | apply wrOk_follows | apply wrRefuse_follows | apply wrW_follows | split
theorem execRailPoll_follows (s : State) (xs : List RailRead) : ∃ t0, execRailPoll xs s = .next t0 ∧ Follows ⟨true,
    true, true⟩ s t0 := by
  refine ⟨_, rfl, ?_⟩
  have h0 := Follows.refl ⟨true, true, true⟩ s
  with_reducible repeat' first
    | assumption | exact rfl | apply railPoll_follows
theorem execPmbAlert_follows (s : State) (ws : List (Option Nat)) : ∃ t0, execPmbAlert ws s = .next t0 ∧ Follows
    ⟨true, true, true⟩ s t0 := by
  refine ⟨_, rfl, ?_⟩
  have h0 := Follows.refl ⟨true, true, true⟩ s
  with_reducible repeat' first
    | assumption | exact rfl | apply pmbAlert_follows
theorem execPmbLost_follows (s : State) (r : Nat) : ∃ t0, execPmbLost r s = .next t0 ∧ Follows ⟨true, true, true⟩ s
    t0 := by
  refine ⟨_, rfl, ?_⟩
  have h0 := Follows.refl ⟨true, true, true⟩ s
  with_reducible repeat' first
    | assumption | exact rfl | apply pmbLost_follows | split
theorem execAvsCheck_follows (s : State) (k pass : Nat) : ∃ t0, execAvsCheck k pass s = .next t0 ∧ Follows ⟨true,
    true, true⟩ s t0 := by
  refine ⟨_, rfl, ?_⟩
  have h0 := Follows.refl ⟨true, true, true⟩ s
  with_reducible repeat' first
    | assumption | exact rfl | apply avsCheck_follows | split
theorem execPwrDvfsWrite_follows (s : State) (who : Requester) (k : Nat) (value : Word) : ∃ t0, execPwrDvfsWrite who
    k value s = .next t0 ∧ Follows ⟨true, true, true⟩ s t0 := by
  refine ⟨_, rfl, ?_⟩
  have h0 := Follows.refl ⟨true, true, true⟩ s
  with_reducible repeat' first
    | assumption | exact rfl | apply dvfsWrite_follows | split
theorem execVoutReached_follows (s : State) (k : Nat) : ∃ t0, execVoutReached k s = .next t0 ∧ Follows ⟨true, true,
    true⟩ s t0 := by
  refine ⟨_, rfl, ?_⟩
  have h0 := Follows.refl ⟨true, true, true⟩ s
  with_reducible repeat' first
    | assumption | exact rfl | apply voutReached_follows | split
theorem execPwrGateUplWrite_follows (s : State) (who : Requester) (value : Word) : ∃ t0, execPwrGateUplWrite who
    value s = .next t0 ∧ Follows ⟨true, true, true⟩ s t0 := by
  refine ⟨_, rfl, ?_⟩
  have h0 := Follows.refl ⟨true, true, true⟩ s
  with_reducible repeat' first
    | assumption | exact rfl | apply gateUplWrite_follows
theorem execSensorRead_follows (s : State) (n : Nat) (temp : Int) : ∃ t0, execSensorRead n temp s = .next t0 ∧
    Follows ⟨true, true, true⟩ s t0 := by
  refine ⟨_, rfl, ?_⟩
  have h0 := Follows.refl ⟨true, true, true⟩ s
  with_reducible repeat' first
    | assumption | exact rfl | apply sensorRead_follows | split
theorem execThrottleClear_follows (s : State) (n : Nat) : ∃ t0, execThrottleClear n s = .next t0 ∧ Follows ⟨true,
    true, true⟩ s t0 := by
  refine ⟨_, rfl, ?_⟩
  have h0 := Follows.refl ⟨true, true, true⟩ s
  with_reducible repeat' first
    | assumption | exact rfl | apply throttleClear_follows | split
theorem execCapEvaluation_follows (s : State) : ∃ t0, execCapEvaluation s = .next t0 ∧ Follows ⟨true, true, false⟩ s
    t0 := by
  refine ⟨_, rfl, ?_⟩
  have h0 := Follows.refl ⟨true, true, false⟩ s
  with_reducible repeat' first
    | assumption | exact rfl | apply capEval_follows

end Sys2Proof.Machine
end

