-- ==== Sys2Proof/Laws/StartupKeeps.lean ====
section
/-! SUPPORT. What the functions of Machine/Startup.lean keep (Follows), one lemma each. -/
namespace Sys2Proof.Machine

set_option linter.all false
variable {kp : Keep} {b b0 s : State}

theorem bootUpd_follows (h0 : Follows kp b0 s) (f : BootSt → BootSt) : Follows kp b0 (bootUpd s f) := by
  unfold bootUpd
  with_reducible repeat' first
    | assumption | (fail_if_no_progress apply upd_follows)
theorem setSupply_follows (h0 : Follows kp b0 s) (i x : Nat) : Follows kp b0 (setSupply s i x) := by
  unfold setSupply
  with_reducible repeat' first
    | assumption | intro _ | apply bootUpd_follows | (fail_if_no_progress apply upd_follows)
theorem seqError_follows (h0 : Follows kp b0 s) : Follows kp b0 (seqError s) := by
  unfold seqError
  with_reducible repeat' first
    | assumption | intro _ | apply bootUpd_follows | apply wb_follows | (fail_if_no_progress apply upd_follows)
theorem supplyStart_follows (h0 : Follows kp b0 s) (i : Nat) : Follows kp b0 (supplyStart s i) := by
  unfold supplyStart
  with_reducible repeat' first
    | assumption | intro _
    | (extract_lets +onlyGivenNames x; refine cut_follows (kp := kp) (b := b0) (s := x) (fun _ => ?_) ?_; clear_value x; on_goal 2 => subst x)
    | (extract_lets +onlyGivenNames x; clear_value x) | apply seqError_follows | apply setSupply_follows | split
theorem supplyValid_follows (h0 : Follows kp b0 s) (i : Nat) : Follows kp b0 (supplyValid s i) := by
  unfold supplyValid
  with_reducible repeat' first
    | assumption | apply setSupply_follows | split
theorem supplyGap_follows (h0 : Follows kp b0 s) : Follows kp b0 (supplyGap s) := by
  unfold supplyGap
  with_reducible repeat' first
    | assumption | intro _
    | (extract_lets +onlyGivenNames x; refine cut_follows (kp := kp) (b := b0) (s := x) (fun _ => ?_) ?_; clear_value x; on_goal 2 => subst x)
    | (extract_lets +onlyGivenNames x; clear_value x) | apply seqError_follows | split
theorem coldState_follows (hk : kp.tabs = false) (h : Follows kp b s) (keep : Nat → Bool) : Follows kp b (coldState s keep) := by
  unfold coldState
  exact ⟨h.queue, h.sent, h.free, fun k =>
    ⟨mwf_filter _ _ _ (h.canon k).1, rfl, (h.canon k).2.2.1, (h.canon k).2.2.2.1, rfl⟩,
    h.flash, h.host, fun e => by rw [hk] at e; cases e⟩

theorem portHeld_follows (h0 : Follows kp b0 s) : Follows kp b0 (portHeld s) := by
  unfold portHeld
  with_reducible repeat' first
    | assumption | apply setIsl_follows | split
theorem showSource_follows (h0 : Follows kp b0 s) : Follows kp b0 (showSource s) := by
  unfold showSource
  with_reducible repeat' first
    | assumption | apply wf_follows
theorem coldReset_follows (hktabs : kp.tabs = false) (h0 : Follows kp b0 s) (cause : Nat) : Follows kp b0 (coldReset
    s cause) := by
  unfold coldReset
  with_reducible repeat' first
    | assumption | intro _ | apply bootUpd_follows | apply coldState_follows | apply portHeld_follows
    | apply showSource_follows | (fail_if_no_progress apply upd_follows)
theorem supplyBad_follows (hktabs : kp.tabs = false) (h0 : Follows kp b0 s) : Follows kp b0 (supplyBad s) := by
  unfold supplyBad
  with_reducible repeat' first
    | assumption | apply coldReset_follows | apply zeroize_follows | split
theorem supplyRemove_follows (hktabs : kp.tabs = false) (h0 : Follows kp b0 s) (i : Nat) : Follows kp b0
    (supplyRemove s i) := by
  unfold supplyRemove
  with_reducible repeat' first
    | assumption | intro _
    | (extract_lets +onlyGivenNames x; refine cut_follows (kp := kp) (b := b0) (s := x) (fun _ => ?_) ?_; clear_value x; on_goal 2 => subst x)
    | (extract_lets +onlyGivenNames x; clear_value x) | apply bootUpd_follows | apply coldState_follows
    | apply portHeld_follows | apply setSupply_follows | apply supplyBad_follows | split
    | (fail_if_no_progress apply upd_follows)
theorem porAssert_follows (hktabs : kp.tabs = false) (h0 : Follows kp b0 s) : Follows kp b0 (porAssert s) := by
  unfold porAssert
  with_reducible repeat' first
    | assumption | intro _ | apply bootUpd_follows | apply coldReset_follows | split
    | (fail_if_no_progress apply upd_follows)
theorem porRelease_follows (h0 : Follows kp b0 s) (bootsel : Nat) : Follows kp b0 (porRelease s bootsel) := by
  unfold porRelease
  with_reducible repeat' first
    | assumption | intro _ | apply bootUpd_follows | apply showSource_follows | split
    | (fail_if_no_progress apply upd_follows)
theorem perstAssert_follows (h0 : Follows kp b0 s) : Follows kp b0 (perstAssert s) := by
  unfold perstAssert
  with_reducible repeat' first
    | assumption | intro _
    | (extract_lets +onlyGivenNames x; refine cut_follows (kp := kp) (b := b0) (s := x) (fun _ => ?_) ?_; clear_value x; on_goal 2 => subst x)
    | (extract_lets +onlyGivenNames x; clear_value x) | apply bootUpd_follows | apply dmaLinkDown_follows
    | apply dropRegs_follows | apply endSessions_follows | apply linkUp_follows | apply setIsl_follows
    | (fail_if_no_progress apply upd_follows)
theorem perstRelease_follows (h0 : Follows kp b0 s) : Follows kp b0 (perstRelease s) := by
  unfold perstRelease
  with_reducible repeat' first
    | assumption | intro _ | apply bootUpd_follows | apply setIsl_follows | split
    | (fail_if_no_progress apply upd_follows)
theorem setPhase7_follows (h0 : Follows kp b0 s) (p : Nat) : Follows kp b0 (setPhase7 s p) := by
  unfold setPhase7
  with_reducible repeat' first
    | assumption | apply wf_follows
theorem bootFail_follows (h0 : Follows kp b0 s) (code det : Nat) : Follows kp b0 (bootFail s code det) := by
  unfold bootFail
  with_reducible repeat' first
    | assumption
    | (extract_lets +onlyGivenNames x; refine cut_follows (kp := kp) (b := b0) (s := x) (fun _ => ?_) ?_; clear_value x; on_goal 2 => subst x)
    | (extract_lets +onlyGivenNames x; clear_value x) | apply wb_follows | apply wf_follows
theorem bootStay_follows (h0 : Follows kp b0 s) (code det : Nat) : Follows kp b0 (bootStay s code det) := by
  unfold bootStay
  with_reducible repeat' first
    | assumption | intro _ | apply bootFail_follows | apply bootUpd_follows | (fail_if_no_progress apply upd_follows)
theorem p0Done_follows (h0 : Follows kp b0 s) (fuseOk : Bool) : Follows kp b0 (p0Done s fuseOk) := by
  unfold p0Done
  with_reducible repeat' first
    | assumption | intro _
    | (extract_lets +onlyGivenNames x; refine cut_follows (kp := kp) (b := b0) (s := x) (fun _ => ?_) ?_; clear_value x; on_goal 2 => subst x)
    | (extract_lets +onlyGivenNames x; clear_value x) | apply bootStay_follows | apply bootUpd_follows
    | apply setIsl_follows | apply setPhase7_follows | apply wf_follows | apply foldl_follows | split
    | (fail_if_no_progress apply upd_follows)
theorem p1Done_follows (h0 : Follows kp b0 s) (romOk vaultOk : Bool) : Follows kp b0 (p1Done s romOk vaultOk) := by
  unfold p1Done
  with_reducible repeat' first
    | assumption | apply bootStay_follows | apply setPhase7_follows | apply wr_follows | split
theorem p3Start_follows (h0 : Follows kp b0 s) : Follows kp b0 (p3Start s) := by
  unfold p3Start
  with_reducible repeat' first
    | assumption
    | (extract_lets +onlyGivenNames x; refine cut_follows (kp := kp) (b := b0) (s := x) (fun _ => ?_) ?_; clear_value x; on_goal 2 => subst x)
    | (extract_lets +onlyGivenNames x; clear_value x) | apply bootWaitStart_follows | apply imgStat_follows
    | apply setPhase7_follows | split | (fail_if_no_progress apply upd_follows)
theorem p2Done_follows (h0 : Follows kp b0 s) (fail : Nat) : Follows kp b0 (p2Done s fail) := by
  unfold p2Done
  with_reducible repeat' first
    | assumption
    | (extract_lets +onlyGivenNames x; refine cut_follows (kp := kp) (b := b0) (s := x) (fun _ => ?_) ?_; clear_value x; on_goal 2 => subst x)
    | (extract_lets +onlyGivenNames x; clear_value x) | apply bootStay_follows | apply p3Start_follows
    | apply secP2_follows | split
theorem dvfsLoad_follows (h0 : Follows kp b0 s) (plan : List Byte) (k : Nat) : Follows kp b0 (dvfsLoad s plan k) := by
  unfold dvfsLoad
  with_reducible repeat' first
    | assumption | intro _
    | (extract_lets +onlyGivenNames x; refine cut_follows (kp := kp) (b := b0) (s := x) (fun _ => ?_) ?_; clear_value x; on_goal 2 => subst x)
    | (extract_lets +onlyGivenNames x; clear_value x) | apply pwrUpd_follows | apply setDvfs_follows | split
    | (fail_if_no_progress apply upd_follows)
theorem islandsLoad_follows (h0 : Follows kp b0 s) (plan : List Byte) : Follows kp b0 (islandsLoad s plan) := by
  unfold islandsLoad
  with_reducible repeat' first
    | assumption | intro _ | apply portHeld_follows | apply setIsl_follows | apply foldl_follows | split
theorem ownersLoad_follows (h0 : Follows kp b0 s) (body : List Byte) : Follows kp b0 (ownersLoad s body) := by
  unfold ownersLoad
  with_reducible repeat' first
    | assumption | intro _
    | (extract_lets +onlyGivenNames x; refine cut_follows (kp := kp) (b := b0) (s := x) (fun _ => ?_) ?_; clear_value x; on_goal 2 => subst x)
    | (extract_lets +onlyGivenNames x; clear_value x) | apply wb_follows | apply foldl_follows | split
theorem bootLoad_follows (h0 : Follows kp b0 s) (b : List Byte) (slot : Nat) : Follows kp b0 (bootLoad s b slot) := by
  unfold bootLoad
  with_reducible repeat' first
    | assumption | intro _
    | (extract_lets +onlyGivenNames x; refine cut_follows (kp := kp) (b := b0) (s := x) (fun _ => ?_) ?_; clear_value x; on_goal 2 => subst x)
    | (extract_lets +onlyGivenNames x; refine cut_snd (kp := kp) (b := b0) (p := x) (fun _ => ?_) ?_; clear_value x; on_goal 2 => subst x)
    | (extract_lets +onlyGivenNames x; clear_value x) | apply drbgDraw_follows
    | (apply of_snd; apply drbgDraw_follows) | apply dvfsLoad_follows | apply imgStat_follows
    | apply islandsLoad_follows | apply ownersLoad_follows | apply poolBases_follows | apply poolsInit_follows
    | apply secSet_follows | apply secUpd_follows | apply setPhase7_follows | apply showProg_follows
    | apply wb_follows | apply wr_follows | apply foldl_follows | apply foldl_snd | (apply of_snd; assumption)
    | split | apply snd_mk | refine of_snd_eq (by assumption) ?_ | (fail_if_no_progress apply upd_follows)
theorem heldRefuse_follows (h0 : Follows kp b0 s) : Follows kp b0 (heldRefuse s) := by
  unfold heldRefuse
  with_reducible repeat' first
    | assumption | apply ticketFail_follows | split | (fail_if_no_progress apply upd_follows)
theorem bootFetched_follows (h0 : Follows kp b0 s) (slot : Nat) (second : Bool) (code sec ofs : Nat) (err : Bool) :
    Follows kp b0 (bootFetched s slot second code sec ofs err) := by
  unfold bootFetched
  with_reducible repeat' first
    | assumption | apply bootLoad_follows | apply bootStay_follows | apply bootWaitStart_follows
    | apply heldRefuse_follows | apply imgStat_follows | split | (fail_if_no_progress apply upd_follows)
theorem stageFetched_follows (h0 : Follows kp b0 s) (boot err : Bool) : Follows kp b0 (stageFetched s boot err) := by
  unfold stageFetched
  with_reducible repeat' first
    | assumption
    | (extract_lets +onlyGivenNames x; refine cut_follows (kp := kp) (b := b0) (s := x) (fun _ => ?_) ?_; clear_value x; on_goal 2 => subst x)
    | (extract_lets +onlyGivenNames x; clear_value x) | apply bootFail_follows | apply bootLoad_follows
    | apply imgStat_follows | apply ticketFail_follows | apply ticketPut_follows | split
    | (fail_if_no_progress apply upd_follows)
theorem imageFetched_follows (h0 : Follows kp b0 s) (err : Bool) : Follows kp b0 (imageFetched s err) := by
  unfold imageFetched
  with_reducible repeat' first
    | assumption | apply bootFetched_follows | apply stageFetched_follows | split
theorem p4Done_follows (hktabs : kp.tabs = false) (h0 : Follows kp b0 s) (site : Option Nat) (ports : List Nat) :
    Follows kp b0 (p4Done s site ports) := by
  unfold p4Done
  with_reducible repeat' first
    | assumption | intro _
    | (extract_lets +onlyGivenNames x; refine cut_follows (kp := kp) (b := b0) (s := x) (fun _ => ?_) ?_; clear_value x; on_goal 2 => subst x)
    | (extract_lets +onlyGivenNames x; clear_value x) | apply bootFail_follows | apply bootStay_follows
    | apply bootUpd_follows | apply d2dLost_follows | apply setPhase7_follows | apply foldl_follows | split
    | (fail_if_no_progress apply upd_follows)
theorem fwTimeout_follows (h0 : Follows kp b0 s) : Follows kp b0 (fwTimeout s) := by
  unfold fwTimeout
  with_reducible repeat' first
    | assumption | apply bootStay_follows | split
theorem linkTimeout_follows (h0 : Follows kp b0 s) : Follows kp b0 (linkTimeout s) := by
  unfold linkTimeout
  with_reducible repeat' first
    | assumption | apply bootFail_follows | split
theorem timeRegs_follows (h0 : Follows kp b0 s) (b : List Byte) : Follows kp b0 (timeRegs s b) := by
  unfold timeRegs
  with_reducible repeat' first
    | assumption | intro _
    | (extract_lets +onlyGivenNames x; refine cut_follows (kp := kp) (b := b0) (s := x) (fun _ => ?_) ?_; clear_value x; on_goal 2 => subst x)
    | (extract_lets +onlyGivenNames x; clear_value x) | apply wr_follows | apply wrW_follows | apply foldl_follows
theorem timePlan_follows (h0 : Follows kp b0 s) (b : List Byte) : Follows kp b0 (timePlan s b) := by
  unfold timePlan
  with_reducible repeat' first
    | assumption | intro _
    | (extract_lets +onlyGivenNames x; refine cut_follows (kp := kp) (b := b0) (s := x) (fun _ => ?_) ?_; clear_value x; on_goal 2 => subst x)
    | (extract_lets +onlyGivenNames x; clear_value x) | apply baseFirstSet_follows | apply timeRegs_follows
    | apply wb_follows | apply wf_follows | apply foldl_follows | split
theorem p5Done_follows (h0 : Follows kp b0 s) : Follows kp b0 (p5Done s) := by
  unfold p5Done
  with_reducible repeat' first
    | assumption | intro _
    | (extract_lets +onlyGivenNames x; refine cut_follows (kp := kp) (b := b0) (s := x) (fun _ => ?_) ?_; clear_value x; on_goal 2 => subst x)
    | (extract_lets +onlyGivenNames x; clear_value x) | apply bootUpd_follows | apply p6Check_follows
    | apply prtJoin_follows | apply setPhase7_follows | apply timePlan_follows | apply treeStart_follows
    | apply wb_follows | apply wfW_follows | apply foldl_follows | split | (fail_if_no_progress apply upd_follows)
theorem resetCtrlWrite_follows (h0 : Follows kp b0 s) (who : Requester) (v : Word) : Follows kp b0 (resetCtrlWrite s
    who v) := by
  unfold resetCtrlWrite
  with_reducible repeat' first
    | assumption | intro _
    | (extract_lets +onlyGivenNames x; refine cut_follows (kp := kp) (b := b0) (s := x) (fun _ => ?_) ?_; clear_value x; on_goal 2 => subst x)
    | (extract_lets +onlyGivenNames x; clear_value x) | apply bootUpd_follows | apply wrDown_follows
    | apply wrOk_follows | apply wrRefuse_follows | split | (fail_if_no_progress apply upd_follows)
theorem warmEnds_follows (hktabs : kp.tabs = false) (h0 : Follows kp b0 s) : Follows kp b0 (warmEnds s) := by
  unfold warmEnds
  with_reducible repeat' first
    | assumption | intro _
    | (extract_lets +onlyGivenNames x; refine cut_follows (kp := kp) (b := b0) (s := x) (fun _ => ?_) ?_; clear_value x; on_goal 2 => subst x)
    | (extract_lets +onlyGivenNames x; clear_value x) | apply abandonHandover_follows | apply chanSuspect_follows
    | apply endSessions_follows | apply fiDisarmAll_follows | apply fiRelock_follows | apply imgReset_follows
    | apply keyEraseAll_follows | apply ringRestart_follows | apply trReset_follows | apply foldl_follows | split
theorem warmState_follows (h : Follows kp b s) (bootsel : Nat) : Follows kp b (warmState s bootsel) :=
  ⟨h.queue, h.sent, h.free, fun k => ⟨mwf_filter _ _ _ (h.canon k).1, (h.canon k).2⟩, h.flash, h.host, h.tabs⟩

theorem warmBegin_follows (h : Follows kp b s) (zero : Bool) : Follows kp b (warmBegin s zero) := by
  unfold warmBegin
  extract_lets s3 s4 s5
  have k3 : Follows kp b s3 := foldl_follows h fun s x hs => holdover_follows hs _
  clear_value s3
  have k4 : Follows kp b s4 := foldl_follows k3 fun s x hs => by
    split
    · exact setIsl_follows hs _ _
    · split
      · exact setIsl_follows hs _ _
      · exact hs
  clear_value s4
  have k5 : Follows kp b s5 := by
    unfold s5; split
    · exact wb_follows k4 _ _ _
    · exact k4
  clear_value s5
  apply portHeld_follows
  apply showSource_follows
  apply setPhase7_follows
  split
  · exact setSecState_follows k5 _
  · exact secUpd_follows k5

theorem warmReset_follows (hktabs : kp.tabs = false) (h0 : Follows kp b0 s) (bootsel : Nat) : Follows kp b0
    (warmReset s bootsel) := by
  unfold warmReset
  with_reducible repeat' first
    | assumption | apply warmBegin_follows | apply warmEnds_follows | apply warmState_follows
theorem takeCold_follows (hktabs : kp.tabs = false) (h0 : Follows kp b0 s) : Follows kp b0 (takeCold s) := by
  unfold takeCold
  with_reducible repeat' first
    | assumption | apply coldReset_follows | split
theorem takeWarm_follows (hktabs : kp.tabs = false) (h0 : Follows kp b0 s) (bootsel : Nat) : Follows kp b0 (takeWarm
    s bootsel) := by
  unfold takeWarm
  with_reducible repeat' first
    | assumption | apply warmReset_follows | split
theorem tamperTrip_follows (hktabs : kp.tabs = false) (h0 : Follows kp b0 s) (src : Nat) : Follows kp b0 (tamperTrip
    s src) := by
  unfold tamperTrip
  with_reducible repeat' first
    | assumption | apply supplyBad_follows | apply zeroize_follows | split
theorem sideband_follows (h0 : Follows kp b0 s) (t : Nat) (intLow light : Bool) : Follows kp b0 (sideband s t intLow
    light) := by
  unfold sideband
  with_reducible repeat' first
    | assumption
    | (extract_lets +onlyGivenNames x; refine cut_follows (kp := kp) (b := b0) (s := x) (fun _ => ?_) ?_; clear_value x; on_goal 2 => subst x)
    | (extract_lets +onlyGivenNames x; clear_value x) | apply evBit_follows | apply wb_follows | split
theorem execImageFetchDone_follows (s : State) (err : Bool) : ∃ t0, execImageFetchDone err s = .next t0 ∧ Follows
    ⟨true, true, true⟩ s t0 := by
  refine ⟨_, rfl, ?_⟩
  have h0 := Follows.refl ⟨true, true, true⟩ s
  with_reducible repeat' first
    | assumption | exact rfl | apply imageFetched_follows
theorem execSupplyStart_follows (s : State) (i : Nat) : ∃ t0, execSupplyStart i s = .next t0 ∧ Follows ⟨true, true,
    true⟩ s t0 := by
  refine ⟨_, rfl, ?_⟩
  have h0 := Follows.refl ⟨true, true, true⟩ s
  with_reducible repeat' first
    | assumption | exact rfl | apply supplyStart_follows | split
theorem execSupplyValid_follows (s : State) (i : Nat) : ∃ t0, execSupplyValid i s = .next t0 ∧ Follows ⟨true, true,
    true⟩ s t0 := by
  refine ⟨_, rfl, ?_⟩
  have h0 := Follows.refl ⟨true, true, true⟩ s
  with_reducible repeat' first
    | assumption | exact rfl | apply supplyValid_follows | split
theorem execSupplyGapTimeout_follows (s : State) : ∃ t0, execSupplyGapTimeout s = .next t0 ∧ Follows ⟨true, true,
    true⟩ s t0 := by
  refine ⟨_, rfl, ?_⟩
  have h0 := Follows.refl ⟨true, true, true⟩ s
  with_reducible repeat' first
    | assumption | exact rfl | apply supplyGap_follows
theorem execSupplyOutOfRange_follows (s : State) (i : Nat) : ∃ t0, execSupplyOutOfRange i s = .next t0 ∧ Follows
    ⟨true, true, false⟩ s t0 := by
  refine ⟨_, rfl, ?_⟩
  have h0 := Follows.refl ⟨true, true, false⟩ s
  with_reducible repeat' first
    | assumption | exact rfl | apply supplyBad_follows | split
theorem execPorNAssert_follows (s : State) : ∃ t0, execPorNAssert s = .next t0 ∧ Follows ⟨true, true, false⟩ s t0 :=
    by
  refine ⟨_, rfl, ?_⟩
  have h0 := Follows.refl ⟨true, true, false⟩ s
  with_reducible repeat' first
    | assumption | exact rfl | apply porAssert_follows
theorem execPorNRelease_follows (s : State) (bootsel : Nat) : ∃ t0, execPorNRelease bootsel s = .next t0 ∧ Follows
    ⟨true, true, true⟩ s t0 := by
  refine ⟨_, rfl, ?_⟩
  have h0 := Follows.refl ⟨true, true, true⟩ s
  with_reducible repeat' first
    | assumption | exact rfl | apply porRelease_follows
theorem execPerstNAssert_follows (s : State) : ∃ t0, execPerstNAssert s = .next t0 ∧ Follows ⟨true, true, true⟩ s t0
    := by
  refine ⟨_, rfl, ?_⟩
  have h0 := Follows.refl ⟨true, true, true⟩ s
  with_reducible repeat' first
    | assumption | exact rfl | apply perstAssert_follows
theorem execPerstNRelease_follows (s : State) : ∃ t0, execPerstNRelease s = .next t0 ∧ Follows ⟨true, true, true⟩ s
    t0 := by
  refine ⟨_, rfl, ?_⟩
  have h0 := Follows.refl ⟨true, true, true⟩ s
  with_reducible repeat' first
    | assumption | exact rfl | apply perstRelease_follows
theorem execP0Complete_follows (s : State) (fuseOk : Bool) : ∃ t0, execP0Complete fuseOk s = .next t0 ∧ Follows
    ⟨true, true, true⟩ s t0 := by
  refine ⟨_, rfl, ?_⟩
  have h0 := Follows.refl ⟨true, true, true⟩ s
  with_reducible repeat' first
    | assumption | exact rfl | apply p0Done_follows
theorem execP1Complete_follows (s : State) (romOk vaultOk : Bool) : ∃ t0, execP1Complete romOk vaultOk s = .next t0 ∧
    Follows ⟨true, true, true⟩ s t0 := by
  refine ⟨_, rfl, ?_⟩
  have h0 := Follows.refl ⟨true, true, true⟩ s
  with_reducible repeat' first
    | assumption | exact rfl | apply p1Done_follows
theorem execP2Complete_follows (s : State) (fail : Nat) : ∃ t0, execP2Complete fail s = .next t0 ∧ Follows ⟨true,
    true, true⟩ s t0 := by
  refine ⟨_, rfl, ?_⟩
  have h0 := Follows.refl ⟨true, true, true⟩ s
  with_reducible repeat' first
    | assumption | exact rfl | apply p2Done_follows
theorem execP4Complete_follows (s : State) (site : Option Nat) (ports : List Nat) : ∃ t0, execP4Complete site ports s
    = .next t0 ∧ Follows ⟨true, true, false⟩ s t0 := by
  refine ⟨_, rfl, ?_⟩
  have h0 := Follows.refl ⟨true, true, false⟩ s
  with_reducible repeat' first
    | assumption | exact rfl | apply p4Done_follows
theorem execFwStartTimeout_follows (s : State) : ∃ t0, execFwStartTimeout s = .next t0 ∧ Follows ⟨true, true, true⟩ s
    t0 := by
  refine ⟨_, rfl, ?_⟩
  have h0 := Follows.refl ⟨true, true, true⟩ s
  with_reducible repeat' first
    | assumption | exact rfl | apply fwTimeout_follows
theorem execP5Complete_follows (s : State) : ∃ t0, execP5Complete s = .next t0 ∧ Follows ⟨true, true, true⟩ s t0 := by
  refine ⟨_, rfl, ?_⟩
  have h0 := Follows.refl ⟨true, true, true⟩ s
  with_reducible repeat' first
    | assumption | exact rfl | apply p5Done_follows
theorem execLinkTrainTimeout_follows (s : State) : ∃ t0, execLinkTrainTimeout s = .next t0 ∧ Follows ⟨true, true,
    true⟩ s t0 := by
  refine ⟨_, rfl, ?_⟩
  have h0 := Follows.refl ⟨true, true, true⟩ s
  with_reducible repeat' first
    | assumption | exact rfl | apply linkTimeout_follows
theorem execGlbResetCtrlCold_follows (s : State) (who : Requester) (confirm : Nat) : ∃ t0, execGlbResetCtrlCold who
    confirm s = .next t0 ∧ Follows ⟨true, true, true⟩ s t0 := by
  refine ⟨_, rfl, ?_⟩
  have h0 := Follows.refl ⟨true, true, true⟩ s
  with_reducible repeat' first
    | assumption | exact rfl | apply resetCtrlWrite_follows
theorem execGlbResetCtrlWarm_follows (s : State) (who : Requester) (confirm : Nat) : ∃ t0, execGlbResetCtrlWarm who
    confirm s = .next t0 ∧ Follows ⟨true, true, true⟩ s t0 := by
  refine ⟨_, rfl, ?_⟩
  have h0 := Follows.refl ⟨true, true, true⟩ s
  with_reducible repeat' first
    | assumption | exact rfl | apply resetCtrlWrite_follows
theorem execColdReset_follows (s : State) : ∃ t0, execColdReset s = .next t0 ∧ Follows ⟨true, true, false⟩ s t0 := by
  refine ⟨_, rfl, ?_⟩
  have h0 := Follows.refl ⟨true, true, false⟩ s
  with_reducible repeat' first
    | assumption | exact rfl | apply takeCold_follows
theorem execWarmReset_follows (s : State) (bootsel : Nat) : ∃ t0, execWarmReset bootsel s = .next t0 ∧ Follows ⟨true,
    true, false⟩ s t0 := by
  refine ⟨_, rfl, ?_⟩
  have h0 := Follows.refl ⟨true, true, false⟩ s
  with_reducible repeat' first
    | assumption | exact rfl | apply takeWarm_follows
theorem execTamperTrip_follows (s : State) (src : Nat) : ∃ t0, execTamperTrip src s = .next t0 ∧ Follows ⟨true, true,
    false⟩ s t0 := by
  refine ⟨_, rfl, ?_⟩
  have h0 := Follows.refl ⟨true, true, false⟩ s
  with_reducible repeat' first
    | assumption | exact rfl | apply tamperTrip_follows
theorem execSidebandInputChange_follows (s : State) (t : Nat) (intLow light : Bool) : ∃ t0, execSidebandInputChange t
    intLow light s = .next t0 ∧ Follows ⟨true, true, true⟩ s t0 := by
  refine ⟨_, rfl, ?_⟩
  have h0 := Follows.refl ⟨true, true, true⟩ s
  with_reducible repeat' first
    | assumption | exact rfl | apply sideband_follows | split
theorem execModulePoll_follows (s : State) : ∃ t0, execModulePoll s = .next t0 ∧ Follows ⟨true, true, true⟩ s t0 := by
  refine ⟨_, rfl, ?_⟩
  have h0 := Follows.refl ⟨true, true, true⟩ s
  with_reducible repeat' first
    | assumption | exact rfl
theorem execSupplyRemoval_follows (s : State) (i : Nat) : ∃ t0, execSupplyRemoval i s = .next t0 ∧ Follows ⟨true,
    true, false⟩ s t0 := by
  refine ⟨_, rfl, ?_⟩
  have h0 := Follows.refl ⟨true, true, false⟩ s
  with_reducible repeat' first
    | assumption | exact rfl | apply supplyRemove_follows | split
theorem execPcieLinkUp_follows (s : State) : ∃ t0, execPcieLinkUp s = .next t0 ∧ Follows ⟨true, true, true⟩ s t0 := by
  refine ⟨_, rfl, ?_⟩
  have h0 := Follows.refl ⟨true, true, true⟩ s
  with_reducible repeat' first
    | assumption | exact rfl | intro _ | apply bootUpd_follows | apply linkUp_follows | split
    | (fail_if_no_progress apply upd_follows)
theorem execPcieLinkDown_follows (s : State) : ∃ t0, execPcieLinkDown s = .next t0 ∧ Follows ⟨true, true, true⟩ s t0
    := by
  refine ⟨_, rfl, ?_⟩
  have h0 := Follows.refl ⟨true, true, true⟩ s
  with_reducible repeat' first
    | assumption | exact rfl | intro _ | apply bootUpd_follows | apply dmaLinkDown_follows | apply linkUp_follows
    | (fail_if_no_progress apply upd_follows)

end Sys2Proof.Machine
end

