-- ==== Sys2Proof/Laws/CycleKeeps.lean ====
section
/-! SUPPORT. What the functions of Machine/Cycle.lean keep (Follows), one lemma each. -/
namespace Sys2Proof.Machine

set_option linter.all false
variable {kp : Keep} {b b0 s : State}

theorem crsFill_follows (h : Follows kp b s) (q cap n : Nat) (x : CrsFifo) : FollowsFst kp b (crsFill q cap n s x) := by
  induction n generalizing s x with
  | zero => exact h
  | succ n ih =>
    unfold crsFill
    with_reducible repeat' first
      | assumption | extract_lets +onlyGivenNames y | apply ih | apply qFree_follows | apply qPop_follows | apply stat_follows | split | apply fst_mk

theorem putCrs_follows (h0 : Follows kp b0 s) (c : Nat) (b : List Byte) : Follows kp b0 (putCrs s c b) := by
  unfold putCrs
  with_reducible repeat' first
    | assumption | (fail_if_no_progress apply upd_follows)
theorem crsContainer_follows (h : Follows kp b s) (c i n j : Nat) : Follows kp b (crsContainer c i n s j) := by
  unfold crsContainer
  extract_lets +onlyGivenNames v q nom sft tid run
  split
  · exact putCrs_follows h _ _
  · split
    rename_i t x e
    have ht : Follows kp b t := of_fst_eq e (crsFill_follows h _ _ _ _)
    clear e
    split
    rename_i cnt csf e
    clear e
    extract_lets +onlyGivenNames ptr body y src t2
    have h2 : Follows kp b t2 := by unfold t2; with_reducible apply upd_follows; exact ht
    clear_value t2 body y
    extract_lets +onlyGivenNames t3 stream t12
    have h3 : Follows kp b t3 := by
      unfold t3; split
      · exact evBit_follows h2 _ _ _ _ _
      · exact h2
    clear_value t3 t12
    split
    rename_i ct tag t4 e
    have h4 : Follows kp b t4 := of_snd_eq e (keySeal_follows h3 _ _ _ _)
    clear e
    extract_lets +onlyGivenNames hdr t5 src2 t6
    have h5 : Follows kp b t5 := putCrs_follows (emit_follows h4 _) _ _
    clear_value t5
    have h6 : Follows kp b t6 := by
      unfold t6; split
      · with_reducible apply upd_follows; exact h5
      · exact h5
    clear_value t6
    split
    · exact h6
    · exact keyReact_follows h6 _ _

theorem crsRegionSend_follows (h0 : Follows kp b0 s) (c n : Nat) : Follows kp b0 (crsRegionSend s c n) := by
  unfold crsRegionSend
  with_reducible repeat' first
    | assumption | intro _
    | (extract_lets +onlyGivenNames x; refine cut_follows (kp := kp) (b := b0) (s := x) (fun _ => ?_) ?_; clear_value x; on_goal 2 => subst x)
    | (extract_lets +onlyGivenNames x; clear_value x) | apply crsContainer_follows | apply foldl_follows | split
    | (fail_if_no_progress apply upd_follows)
theorem headerSend_follows (h0 : Follows kp b0 s) (c n : Nat) : Follows kp b0 (headerSend s c n) := by
  unfold headerSend
  with_reducible repeat' first
    | assumption
    | (extract_lets +onlyGivenNames x; refine cut_follows (kp := kp) (b := b0) (s := x) (fun _ => ?_) ?_; clear_value x; on_goal 2 => subst x)
    | (extract_lets +onlyGivenNames x; refine cut_snd (kp := kp) (b := b0) (p := x) (fun _ => ?_) ?_; clear_value x; on_goal 2 => subst x)
    | (extract_lets +onlyGivenNames x; clear_value x) | apply comaParam_follows | apply invitesLate_follows
    | apply tcmFill_follows | (apply of_snd; apply tcmFill_follows) | (apply of_snd; assumption) | split
    | apply snd_mk | refine of_snd_eq (by assumption) ?_ | (fail_if_no_progress apply upd_follows)
theorem cycleSent_follows (h0 : Follows kp b0 s) (c : Nat) : Follows kp b0 (cycleSent s c) := by
  unfold cycleSent
  with_reducible repeat' first
    | assumption | apply emit_follows | split
theorem lineRoll_follows (h0 : Follows kp b0 s) (n : Nat) (c : Nat) : Follows kp b0 (lineRoll n s c) := by
  unfold lineRoll
  with_reducible repeat' first
    | assumption
    | (extract_lets +onlyGivenNames x; refine cut_follows (kp := kp) (b := b0) (s := x) (fun _ => ?_) ?_; clear_value x; on_goal 2 => subst x)
    | (extract_lets +onlyGivenNames x; clear_value x) | apply cycleSent_follows | apply latchRoll_follows
    | apply lineIdle_follows | split | (fail_if_no_progress apply upd_follows)
theorem silentStep_follows (h0 : Follows kp b0 s) (c : Nat) : Follows kp b0 (silentStep s c) := by
  unfold silentStep
  with_reducible repeat' first
    | assumption
    | (extract_lets +onlyGivenNames x; refine cut_follows (kp := kp) (b := b0) (s := x) (fun _ => ?_) ?_; clear_value x; on_goal 2 => subst x)
    | (extract_lets +onlyGivenNames x; clear_value x) | apply evBit_follows | split
    | (fail_if_no_progress apply upd_follows)
theorem secondEnd_follows (h0 : Follows kp b0 s) : Follows kp b0 (secondEnd s) := by
  unfold secondEnd
  with_reducible repeat' first
    | assumption | intro _
    | (extract_lets +onlyGivenNames x; refine cut_follows (kp := kp) (b := b0) (s := x) (fun _ => ?_) ?_; clear_value x; on_goal 2 => subst x)
    | (extract_lets +onlyGivenNames x; clear_value x) | apply pmAddScope_follows | apply foldl_follows | split
    | (fail_if_no_progress apply upd_follows)
theorem marksReport_follows (h0 : Follows kp b0 s) (tid : Nat) : Follows kp b0 (marksReport s tid) := by
  unfold marksReport
  with_reducible repeat' first
    | assumption | intro _
    | (extract_lets +onlyGivenNames x; refine cut_follows (kp := kp) (b := b0) (s := x) (fun _ => ?_) ?_; clear_value x; on_goal 2 => subst x)
    | (extract_lets +onlyGivenNames x; clear_value x) | apply foldl_follows | split
    | (fail_if_no_progress apply upd_follows)
theorem cycleEnd_follows (h0 : Follows kp b0 s) (n : Nat) : Follows kp b0 (cycleEnd s n) := by
  unfold cycleEnd
  with_reducible repeat' first
    | assumption | intro _
    | (extract_lets +onlyGivenNames x; refine cut_follows (kp := kp) (b := b0) (s := x) (fun _ => ?_) ?_; clear_value x; on_goal 2 => subst x)
    | (extract_lets +onlyGivenNames x; clear_value x) | apply lineRoll_follows | apply marksReport_follows
    | apply prtCycle_follows | apply silentStep_follows | apply foldl_follows
theorem tick_follows (h0 : Follows kp b0 s) (n : Nat) : Follows kp b0 (tick s n) := by
  unfold tick
  with_reducible repeat' first
    | assumption | intro _
    | (extract_lets +onlyGivenNames x; refine cut_follows (kp := kp) (b := b0) (s := x) (fun _ => ?_) ?_; clear_value x; on_goal 2 => subst x)
    | (extract_lets +onlyGivenNames x; clear_value x) | apply baseAdvance_follows | apply wrW_follows
    | apply foldl_follows | split
theorem cycleBegin_follows (hktabs : kp.tabs = false) (h0 : Follows kp b0 s) (n : Nat) : Follows kp b0 (cycleBegin s
    n) := by
  unfold cycleBegin
  with_reducible repeat' first
    | assumption | intro _
    | (extract_lets +onlyGivenNames x; refine cut_follows (kp := kp) (b := b0) (s := x) (fun _ => ?_) ?_; clear_value x; on_goal 2 => subst x)
    | (extract_lets +onlyGivenNames x; clear_value x) | apply applyRetry_follows | apply applyTreeReset_follows
    | apply commitPending_follows | apply crsApply_follows | apply pc_follows | apply quiesceTick_follows
    | apply relocEnd_follows | apply secondEnd_follows | apply foldl_follows | split
    | (fail_if_no_progress apply upd_follows)
theorem chanBegin_follows (hktabs : kp.tabs = false) (h0 : Follows kp b0 s) (energy : List Nat) (n : Nat) (c : Nat) :
    Follows kp b0 (chanBegin energy n s c) := by
  unfold chanBegin
  with_reducible repeat' first
    | assumption | intro _
    | (extract_lets +onlyGivenNames x; refine cut_follows (kp := kp) (b := b0) (s := x) (fun _ => ?_) ?_; clear_value x; on_goal 2 => subst x)
    | (extract_lets +onlyGivenNames x; clear_value x) | apply crsRegionSend_follows | apply energyCycle_follows
    | apply headerSend_follows | apply tlrAgeOne_follows | apply foldl_follows | split
theorem cycleStart_follows (hktabs : kp.tabs = false) (h0 : Follows kp b0 s) (energy : List Nat) (sfc : List (Nat ×
    Nat)) : Follows kp b0 (cycleStart s energy sfc) := by
  unfold cycleStart
  with_reducible repeat' first
    | assumption | intro _
    | (extract_lets +onlyGivenNames x; refine cut_follows (kp := kp) (b := b0) (s := x) (fun _ => ?_) ?_; clear_value x; on_goal 2 => subst x)
    | (extract_lets +onlyGivenNames x; clear_value x) | apply applyFinish_follows | apply c50Latch_follows
    | apply chanBegin_follows | apply cycleBegin_follows | apply cycleEnd_follows | apply geAbandon_follows
    | apply rogueWatch_follows | apply tick_follows | apply treeFollow_follows | apply foldl_follows | split
theorem execCycleStart_follows (s : State) (energy : List Nat) (sfc : List (Nat × Nat)) : ∃ t0, execCycleStart energy
    sfc s = .next t0 ∧ Follows ⟨true, true, false⟩ s t0 := by
  refine ⟨_, rfl, ?_⟩
  have h0 := Follows.refl ⟨true, true, false⟩ s
  with_reducible repeat' first
    | assumption | exact rfl | apply cycleStart_follows

end Sys2Proof.Machine
end

