-- ==== Sys2Proof/Laws/AccessKeeps.lean ====
section
/-! SUPPORT. What the functions of Machine/Access.lean keep (Follows), one lemma each. -/
namespace Sys2Proof.Machine

set_option linter.all false
variable {kp : Keep} {b b0 s : State}

theorem stageWord_follows (h0 : Follows kp b0 s) (who : Requester) (a : Nat) (w : Word) : Follows kp b0 (stageWord s
    who a w) := by
  unfold stageWord
  with_reducible repeat' first
    | assumption | apply noteWriteAt_follows | (fail_if_no_progress apply upd_follows)
theorem unstage_follows (h0 : Follows kp b0 s) (who : Requester) (ra n : Nat) : Follows kp b0 (unstage s who ra n) :=
    by
  unfold unstage
  with_reducible repeat' first
    | assumption | intro _ | apply foldl_follows | (fail_if_no_progress apply upd_follows)
theorem gclCtlWrite_follows (h0 : Follows kp b0 s) (who : Requester) (x : Nat) (w : Word) : Follows kp b0
    (gclCtlWrite s who x w) := by
  unfold gclCtlWrite
  with_reducible repeat' first
    | assumption | intro _
    | (extract_lets +onlyGivenNames x; refine cut_follows (kp := kp) (b := b0) (s := x) (fun _ => ?_) ?_; clear_value x; on_goal 2 => subst x)
    | (extract_lets +onlyGivenNames x; refine cut_opt (kp := kp) (b := b0) (o := x) (fun _ => ?_) ?_; clear_value x; on_goal 2 => subst x)
    | (extract_lets +onlyGivenNames x; clear_value x) | apply gatesTake_follows | apply gclDisable_follows
    | apply gclInstall_follows | apply gclWriter_follows | apply wb_follows | apply wf_follows | apply wrOk_follows
    | apply wrRefuse_follows | apply opt_some | apply opt_none | apply of_getD | split
    | refine of_opt_eq (by assumption) ?_
theorem tcmdWrite_follows (hktabs : kp.tabs = false) (h0 : Follows kp b0 s) (who : Requester) (w : Word) : Follows kp
    b0 (tcmdWrite s who w) := by
  unfold tcmdWrite
  with_reducible repeat' first
    | assumption
    | (extract_lets +onlyGivenNames x; refine cut_follows (kp := kp) (b := b0) (s := x) (fun _ => ?_) ?_; clear_value x; on_goal 2 => subst x)
    | (extract_lets +onlyGivenNames x; clear_value x) | apply tcmdRun_follows | apply wrDown_follows
    | apply wrOk_follows | apply wrReq_follows | split
theorem chanStateWrite_follows (hktabs : kp.tabs = false) (h0 : Follows kp b0 s) (who : Requester) (c : Nat) (w :
    Word) : Follows kp b0 (chanStateWrite s who c w) := by
  unfold chanStateWrite
  with_reducible repeat' first
    | assumption | apply chanResetWrite_follows | apply eclipseWrite_follows | split
theorem pendClear_follows (h0 : Follows kp b0 s) (j : Nat) (w : Word) : Follows kp b0 (pendClear s j w) := by
  unfold pendClear
  with_reducible repeat' first
    | assumption | intro _
    | (extract_lets +onlyGivenNames x; refine cut_follows (kp := kp) (b := b0) (s := x) (fun _ => ?_) ?_; clear_value x; on_goal 2 => subst x)
    | (extract_lets +onlyGivenNames x; clear_value x) | apply wb_follows | apply wf_follows | apply foldl_follows
    | split
theorem ringCfgWrite_follows (h0 : Follows kp b0 s) (who : Requester) (r : Nat) (w : Word) : Follows kp b0
    (ringCfgWrite s who r w) := by
  unfold ringCfgWrite
  with_reducible repeat' first
    | assumption
    | (extract_lets +onlyGivenNames x; refine cut_follows (kp := kp) (b := b0) (s := x) (fun _ => ?_) ?_; clear_value x; on_goal 2 => subst x)
    | (extract_lets +onlyGivenNames x; clear_value x) | apply ringResolve_follows | apply wf_follows
    | apply wrOk_follows | apply wrRefuse_follows | split
theorem msixUnmask_follows (h0 : Follows kp b0 s) (v : Nat) : Follows kp b0 (msixUnmask s v) := by
  unfold msixUnmask
  with_reducible repeat' first
    | assumption
    | (extract_lets +onlyGivenNames x; refine cut_follows (kp := kp) (b := b0) (s := x) (fun _ => ?_) ?_; clear_value x; on_goal 2 => subst x)
    | (extract_lets +onlyGivenNames x; clear_value x) | apply sendMsix_follows | apply wb_follows | split
theorem vfMsixWrite_follows (h : Follows kp b s) (p vec k : Nat) (w : Word) : Follows kp b (vfMsixWrite s p vec k w) := by
  unfold vfMsixWrite
  extract_lets key w1 src s1 src2
  have h1 : Follows kp b s1 := by unfold s1; with_reducible apply upd_follows; exact h
  split
  · apply sendMsix_follows; with_reducible apply upd_follows; exact h1
  · exact h1

theorem todAgain_follows (h0 : Follows kp b0 s) (c old new : Nat) : Follows kp b0 (todAgain s c old new) := by
  unfold todAgain
  with_reducible repeat' first
    | assumption | intro _ | apply sendTod_follows | apply foldl_follows | split
theorem routeWrite_follows (hktabs : kp.tabs = false) (h0 : Follows kp b0 s) (who : Requester) (id : RegId) (i1 i2 k
    v : Nat) (w : Word) (ofs : Nat) : FollowsOpt kp b0 (routeWrite s who id i1 i2 k v w ofs) := by
  unfold routeWrite
  with_reducible repeat' first
    | assumption
    | (extract_lets +onlyGivenNames x; refine cut_follows (kp := kp) (b := b0) (s := x) (fun _ => ?_) ?_; clear_value x; on_goal 2 => subst x)
    | (extract_lets +onlyGivenNames x; clear_value x) | apply actCommit_follows | apply bpmFreeWrite_follows
    | apply c50Arm_follows | apply chanStateWrite_follows | apply crsWrite_follows | apply dmaAbortWrite_follows
    | apply dmaStartWrite_follows | apply dvfsWrite_follows | apply fiGlobalWrite_follows | apply fiWrite_follows
    | apply forceStepWrite_follows | apply gateUplWrite_follows | apply gclCtlWrite_follows
    | apply grpModeWrite_follows | apply hostWdWrite_follows | apply imgCtrl_follows | apply keyInstallWrite_follows
    | apply keySlotWrite_follows | apply offsetWrite_follows | apply ownerRequest_follows | apply pcValWrite_follows
    | apply prtAliveWrite_follows | apply prtCfgWrite_follows | apply prtStateWrite_follows
    | apply pwrCapWrite_follows | apply pwrStatWrite_follows | apply qwNowWrite_follows | apply railCfgWrite_follows
    | apply reqRaiseWrite_follows | apply resetCtrlWrite_follows | apply ringCfgWrite_follows
    | apply ringProdWrite_follows | apply ringWrIdx_follows | apply rogueCfgWrite_follows
    | apply snapCtlWrite_follows | apply sysReq_follows | apply tbSetWrite_follows | apply tcmTxWrite_follows
    | apply tcmdWrite_follows | apply termInfoWrite_follows | apply termWrite_follows | apply tlrCmdWrite_follows
    | apply trReqWrite_follows | apply traceInject_follows | apply treeStateWrite_follows | apply wrOk_follows
    | apply wrRefuse_follows | apply zeroizeWrite_follows | apply opt_some | apply opt_none | apply of_getD | split
    | refine of_opt_eq (by assumption) ?_
theorem afterWrite_follows (h0 : Follows kp b0 s) (id : RegId) (i1 k old new : Nat) (w : Word) : Follows kp b0
    (afterWrite s id i1 k old new w) := by
  unfold afterWrite
  with_reducible repeat' first
    | assumption | apply endSource_follows | apply linkDown_follows | apply msixUnmask_follows
    | apply pendClear_follows | apply showBypass_follows | apply todAgain_follows | split
    | (fail_if_no_progress apply upd_follows)
theorem plainWrite_follows (h0 : Follows kp b0 s) (who : Requester) (r : RegRef) (a : Nat) (w : Word) : Follows kp b0
    (plainWrite s who r a w) := by
  unfold plainWrite
  with_reducible repeat' first
    | assumption | intro _
    | (extract_lets +onlyGivenNames x; refine cut_follows (kp := kp) (b := b0) (s := x) (fun _ => ?_) ?_; clear_value x; on_goal 2 => subst x)
    | (extract_lets +onlyGivenNames x; refine cut_fun (kp := kp) (b := b0) (f := x) (fun _ => ?_) ?_; clear_value x; on_goal 2 => subst x)
    | (extract_lets +onlyGivenNames x; refine cut_fun2 (kp := kp) (b := b0) (f := x) (fun _ => ?_) ?_; clear_value x; on_goal 2 => subst x)
    | (extract_lets +onlyGivenNames x; refine cut_fun3 (kp := kp) (b := b0) (f := x) (fun _ => ?_) ?_; clear_value x; on_goal 2 => subst x)
    | (extract_lets +onlyGivenNames x; refine cut_fun4 (kp := kp) (b := b0) (f := x) (fun _ => ?_) ?_; clear_value x; on_goal 2 => subst x)
    | (extract_lets +onlyGivenNames x; refine cut_fun5 (kp := kp) (b := b0) (f := x) (fun _ => ?_) ?_; clear_value x; on_goal 2 => subst x)
    | (extract_lets +onlyGivenNames x; refine cut_fun6 (kp := kp) (b := b0) (f := x) (fun _ => ?_) ?_; clear_value x; on_goal 2 => subst x)
    | (extract_lets +onlyGivenNames x; clear_value x) | apply afterWrite_follows | apply noteWriteAt_follows
    | apply unstage_follows | apply wr_follows | apply wrRefuse_follows | apply wrReq_follows | apply foldl_follows
    | split | apply_assumption | (apply of_fst; apply_assumption) | (apply of_snd; apply_assumption)
theorem regWrite_follows (hk : kp.tabs = false) (h : Follows kp b s) (who : Requester) (r : RegRef) (a : Nat) (w : Word) (ofs : Nat) :
    Follows kp b (regWrite s who r a w ofs) := by
  unfold regWrite
  extract_lets d k n i1 i2 s1 top v go t ra
  have h1 : Follows kp b s1 := pc_follows h _
  have hgo : FollowsOpt kp b go := by
    unfold go; split
    · refine routeWrite_follows hk ?_ _ _ _ _ _ _ _ _; split
      · exact unstage_follows h1 _ _ _
      · exact h1
    · exact opt_none
  clear_value go
  split
  · exact badAccess_follows h _
  · split
    · exact wrDown_follows h _ _
    · split
      · exact hgo _ rfl
      · split
        · exact wrRefuse_follows h1 _ _ _
        · split
          · exact wrRefuse_follows h1 _ _ _
          · split
            · split
              · exact wrNotOwner_follows h1 _ _ _ _
              · split
                · exact stageWord_follows h1 _ _ _
                · split
                  · split
                    · rename_i e
                      exact noteWriteAt_follows (of_opt_eq e (dsPartWrite_follows (unstage_follows h1 _ _ _) _ _ _)) _ _ _ _ _
                    · exact noteWriteAt_follows (unstage_follows h1 _ _ _) _ _ _ _ _
                  · exact plainWrite_follows h1 _ _ _ _
            · split
              · exact stageWord_follows h1 _ _ _
              · exact plainWrite_follows h1 _ _ _ _

theorem ctlwWrite_follows (hktabs : kp.tabs = false) (h0 : Follows kp b0 s) (who : Requester) (a : Nat) (w : Word)
    (ofs : Nat) : Follows kp b0 (ctlwWrite s who a w ofs) := by
  unfold ctlwWrite
  with_reducible repeat' first
    | assumption | apply badAccess_follows | apply pc_follows | apply regWrite_follows | apply wr_follows
    | apply wrDown_follows | apply wrNotOwner_follows | apply wrOk_follows | apply wrRefuse_follows | split
    | (fail_if_no_progress apply upd_follows)

end Sys2Proof.Machine
end

