-- ==== Sys2Proof/Laws/ReadsKeeps.lean ====
section
/-! SUPPORT. What the functions of Machine/Reads.lean keep (Follows), one lemma each. -/
namespace Sys2Proof.Machine

set_option linter.all false
variable {kp : Keep} {b b0 s : State}

theorem latchHigh_follows (h0 : Follows kp b0 s) (who : Requester) (a v n : Nat) : Follows kp b0 (latchHigh s who a v
    n) := by
  unfold latchHigh
  with_reducible repeat' first
    | assumption | intro _
    | (extract_lets +onlyGivenNames x; refine cut_follows (kp := kp) (b := b0) (s := x) (fun _ => ?_) ?_; clear_value x; on_goal 2 => subst x)
    | (extract_lets +onlyGivenNames x; refine cut_fun (kp := kp) (b := b0) (f := x) (fun _ => ?_) ?_; clear_value x; on_goal 2 => subst x)
    | (extract_lets +onlyGivenNames x; refine cut_fun2 (kp := kp) (b := b0) (f := x) (fun _ => ?_) ?_; clear_value x; on_goal 2 => subst x)
    | (extract_lets +onlyGivenNames x; refine cut_fun3 (kp := kp) (b := b0) (f := x) (fun _ => ?_) ?_; clear_value x; on_goal 2 => subst x)
    | (extract_lets +onlyGivenNames x; refine cut_fun4 (kp := kp) (b := b0) (f := x) (fun _ => ?_) ?_; clear_value x; on_goal 2 => subst x)
    | (extract_lets +onlyGivenNames x; refine cut_fun5 (kp := kp) (b := b0) (f := x) (fun _ => ?_) ?_; clear_value x; on_goal 2 => subst x)
    | (extract_lets +onlyGivenNames x; refine cut_fun6 (kp := kp) (b := b0) (f := x) (fun _ => ?_) ?_; clear_value x; on_goal 2 => subst x)
    | (extract_lets +onlyGivenNames x; clear_value x) | apply foldl_follows | split | apply_assumption
    | (apply of_fst; apply_assumption) | (apply of_snd; apply_assumption) | (fail_if_no_progress apply upd_follows)
theorem afterRead_follows (h0 : Follows kp b0 s) (who : Requester) (d : RegDesc) (ra : Nat) : Follows kp b0
    (afterRead s who d ra) := by
  unfold afterRead
  with_reducible repeat' first
    | assumption | apply wfW_follows | apply wrReq_follows | split
theorem wrstatRead_follows (h0 : Follows kp b0 s) (who : Requester) : Follows kp b0 (wrstatRead s who) := by
  unfold wrstatRead
  with_reducible repeat' first
    | assumption
    | (extract_lets +onlyGivenNames x; refine cut_follows (kp := kp) (b := b0) (s := x) (fun _ => ?_) ?_; clear_value x; on_goal 2 => subst x)
    | (extract_lets +onlyGivenNames x; clear_value x) | apply ret_follows | (fail_if_no_progress apply upd_follows)
theorem barrierRead_follows (h0 : Follows kp b0 s) (who : Requester) : Follows kp b0 (barrierRead s who) := by
  unfold barrierRead
  with_reducible repeat' first
    | assumption | (fail_if_no_progress apply upd_follows)
theorem barrierDone_follows (h0 : Follows kp b0 s) (who : Requester) (inFlight : Option Nat) : Follows kp b0
    (barrierDone s who inFlight) := by
  unfold barrierDone
  with_reducible repeat' first
    | assumption
    | (extract_lets +onlyGivenNames x; refine cut_follows (kp := kp) (b := b0) (s := x) (fun _ => ?_) ?_; clear_value x; on_goal 2 => subst x)
    | (extract_lets +onlyGivenNames x; clear_value x) | apply ret_follows | split
    | (fail_if_no_progress apply upd_follows)
theorem regRead_follows (h0 : Follows kp b0 s) (who : Requester) (r : RegRef) (a ofs : Nat) : Follows kp b0 (regRead
    s who r a ofs) := by
  unfold regRead
  with_reducible repeat' first
    | assumption
    | (extract_lets +onlyGivenNames x; refine cut_follows (kp := kp) (b := b0) (s := x) (fun _ => ?_) ?_; clear_value x; on_goal 2 => subst x)
    | (extract_lets +onlyGivenNames x; clear_value x) | apply afterRead_follows | apply barrierRead_follows
    | apply capRead_follows | apply challengeRead_follows | apply latchHigh_follows | apply pmDataRead_follows
    | apply ret_follows | apply wrstatRead_follows | split
theorem ctlwRead_follows (h : Follows kp b s) (who : Requester) (a ofs : Nat) :
    Follows kp b (ctlwRead s who a ofs) := by
  have hr : ∀ s w, Follows kp b s → Follows kp b (ret s who w) := fun s w hs => ret_follows hs _ _
  have hd : ∀ i, Follows kp b (readUp s who i id) := fun i => by
    unfold readUp; split
    · exact ret_follows (nextFree_follows h) _ _
    · exact h
  unfold ctlwRead
  split
  · exact hr _ _ h
  · split
    · exact hr _ _ h
    · split
      · exact hr _ _ (badAccess_follows h _)
      · extract_lets +onlyGivenNames seen
        have hs : Follows kp b seen := pc_follows h _
        clear_value seen
        split
        · split
          · exact hr _ _ (badAccess_follows h _)
          · split
            · exact regRead_follows hs _ _ _ _
            · split
              · exact hd _
              · exact regRead_follows hs _ _ _ _
        · split
          · exact hr _ _ (badAccess_follows h _)
          · split
            · split
              · exact hd _
              · extract_lets o
                split
                · split
                  · exact hr _ _ (latchHigh_follows hs _ _ _ _)
                  · exact hr _ _ hs
                · split
                  · split
                    · exact hr _ _ (latchHigh_follows hs _ _ _ _)
                    · exact hr _ _ hs
                  · exact hr _ _ hs
            · exact hr _ _ (badAccess_follows h _)

theorem tblwRead_follows (hktabs : kp.tabs = false) (h0 : Follows kp b0 s) (who : Requester) (ofs : Nat) : Follows kp
    b0 (tblwRead s who ofs) := by
  unfold tblwRead
  with_reducible repeat' first
    | assumption
    | (extract_lets +onlyGivenNames x; refine cut_follows (kp := kp) (b := b0) (s := x) (fun _ => ?_) ?_; clear_value x; on_goal 2 => subst x)
    | (extract_lets +onlyGivenNames x; clear_value x) | apply badAccess_follows | apply pc_follows
    | apply relocSome_follows | apply ret_follows | split | (fail_if_no_progress apply upd_follows)
theorem hostWrite_follows (hktabs : kp.tabs = false) (h0 : Follows kp b0 s) (who : Requester) (addr : Nat) (w : Word)
    (ofs : Nat) : Follows kp b0 (hostWrite s who addr w ofs) := by
  unfold hostWrite
  with_reducible repeat' first
    | assumption | apply badAccess_follows | apply ctlwWrite_follows | apply pc_follows | apply tblwWrite_follows
    | apply vfMsixWrite_follows | split | (fail_if_no_progress apply upd_follows)
theorem hostRead_follows (hktabs : kp.tabs = false) (h0 : Follows kp b0 s) (who : Requester) (addr ofs : Nat) :
    Follows kp b0 (hostRead s who addr ofs) := by
  unfold hostRead
  with_reducible repeat' first
    | assumption | intro _
    | (extract_lets +onlyGivenNames x; refine cut_follows (kp := kp) (b := b0) (s := x) (fun _ => ?_) ?_; clear_value x; on_goal 2 => subst x)
    | (extract_lets +onlyGivenNames x; clear_value x) | apply badAccess_follows | apply ctlwRead_follows
    | apply ret_follows | apply tblwRead_follows | apply foldl_follows | split
theorem execRegisterWrite_follows (s : State) (who : Requester) (addr : Nat) (value : Word) (ofs : Nat) : ∃ t0,
    execRegisterWrite who addr value ofs s = .next t0 ∧ Follows ⟨true, true, false⟩ s t0 := by
  refine ⟨_, rfl, ?_⟩
  have h0 := Follows.refl ⟨true, true, false⟩ s
  with_reducible repeat' first
    | assumption | exact rfl | apply hostWrite_follows
theorem execBadAccess_follows (s : State) (who : Requester) (addr size : Nat) (write : Bool) : ∃ t0, execBadAccess
    who addr size write s = .next t0 ∧ Follows ⟨true, true, true⟩ s t0 := by
  refine ⟨_, rfl, ?_⟩
  have h0 := Follows.refl ⟨true, true, true⟩ s
  with_reducible repeat' first
    | assumption | exact rfl | apply badAccess_follows | apply ret_follows | split
theorem execLowWordRead_follows (s : State) (who : Requester) (addr ofs : Nat) : ∃ t0, execLowWordRead who addr ofs s
    = .next t0 ∧ Follows ⟨true, true, false⟩ s t0 := by
  refine ⟨_, rfl, ?_⟩
  have h0 := Follows.refl ⟨true, true, false⟩ s
  with_reducible repeat' first
    | assumption | exact rfl | apply hostRead_follows
theorem execGlbBarrierRead_follows (s : State) (who : Requester) : ∃ t0, execGlbBarrierRead who s = .next t0 ∧
    Follows ⟨true, true, true⟩ s t0 := by
  refine ⟨_, rfl, ?_⟩
  have h0 := Follows.refl ⟨true, true, true⟩ s
  with_reducible repeat' first
    | assumption | exact rfl | apply barrierRead_follows
theorem execBarrierReturn_follows (s : State) (who : Requester) : ∃ t0, execBarrierReturn who s = .next t0 ∧ Follows
    ⟨true, true, true⟩ s t0 := by
  refine ⟨_, rfl, ?_⟩
  have h0 := Follows.refl ⟨true, true, true⟩ s
  with_reducible repeat' first
    | assumption | exact rfl | apply barrierDone_follows
theorem execBarrierTimeout_follows (s : State) (who : Requester) (inFlight : Nat) : ∃ t0, execBarrierTimeout who
    inFlight s = .next t0 ∧ Follows ⟨true, true, true⟩ s t0 := by
  refine ⟨_, rfl, ?_⟩
  have h0 := Follows.refl ⟨true, true, true⟩ s
  with_reducible repeat' first
    | assumption | exact rfl | apply barrierDone_follows
theorem execGlbWrstatRead_follows (s : State) (who : Requester) : ∃ t0, execGlbWrstatRead who s = .next t0 ∧ Follows
    ⟨true, true, true⟩ s t0 := by
  refine ⟨_, rfl, ?_⟩
  have h0 := Follows.refl ⟨true, true, true⟩ s
  with_reducible repeat' first
    | assumption | exact rfl | apply wrstatRead_follows
theorem execPendClear_follows (s : State) (j : Nat) (value : Word) : ∃ t0, execPendClear j value s = .next t0 ∧
    Follows ⟨true, true, true⟩ s t0 := by
  refine ⟨_, rfl, ?_⟩
  have h0 := Follows.refl ⟨true, true, true⟩ s
  with_reducible repeat' first
    | assumption | exact rfl | apply pendClear_follows | split

end Sys2Proof.Machine
end

