-- ==== Sys2Proof/Laws/DmaRunKeeps.lean ====
section
/-! SUPPORT. What the functions of Machine/DmaRun.lean keep (Follows), one lemma each. -/
namespace Sys2Proof.Machine

set_option linter.all false
variable {kp : Keep} {b b0 s : State}

theorem tblWordRead_follows (hktabs : kp.tabs = false) (h0 : Follows kp b0 s) (d code o : Nat) : FollowsFst kp b0
    (tblWordRead s d code o) := by
  unfold tblWordRead
  with_reducible repeat' first
    | assumption
    | (extract_lets +onlyGivenNames x; refine cut_follows (kp := kp) (b := b0) (s := x) (fun _ => ?_) ?_; clear_value x; on_goal 2 => subst x)
    | (extract_lets +onlyGivenNames x; clear_value x) | apply badAccess_follows | apply pc_follows
    | apply relocSome_follows | (apply of_fst; assumption) | split | apply fst_mk
    | refine of_fst_eq (by assumption) ?_ | (fail_if_no_progress apply upd_follows)
theorem devRead_follows (hk : kp.tabs = false) (h : Follows kp b s) (d : Nat) (p : DevPlace) (n ofs : Nat) : FollowsFst kp b (devRead s d p n ofs) := by
  unfold devRead
  extract_lets who
  split
  · exact h
  · refine foldl_fst (fst_mk h) ?_
    rintro ⟨t, l⟩ x hp
    dsimp only
    split
    · exact fst_mk (ctlwRead_follows (ret_follows (hp) _ _) _ _ _)
    · exact fst_mk (badAccess_follows (hp) _)
  · refine foldl_fst (fst_mk h) ?_
    rintro ⟨t, l⟩ x hp
    dsimp only
    split
    · exact fst_mk (of_fst (tblWordRead_follows hk hp _ _ _))
    · exact fst_mk (badAccess_follows (hp) _)

theorem dmaRefused_follows (h0 : Follows kp b0 s) (d : Nat) (st : Status) : Follows kp b0 (dmaRefused s d st) := by
  unfold dmaRefused
  with_reducible repeat' first
    | assumption | intro _ | apply dmaUpd_follows | split | (fail_if_no_progress apply upd_follows)
theorem devWrite_follows (hktabs : kp.tabs = false) (h0 : Follows kp b0 s) (d : Nat) (p : DevPlace) (b : List Byte)
    (ofs : Nat) : Follows kp b0 (devWrite s d p b ofs) := by
  unfold devWrite
  with_reducible repeat' first
    | assumption | intro _
    | (extract_lets +onlyGivenNames x; refine cut_follows (kp := kp) (b := b0) (s := x) (fun _ => ?_) ?_; clear_value x; on_goal 2 => subst x)
    | (extract_lets +onlyGivenNames x; refine cut_fst (kp := kp) (b := b0) (p := x) (fun _ => ?_) ?_; clear_value x; on_goal 2 => subst x)
    | (extract_lets +onlyGivenNames x; clear_value x) | apply badAccess_follows | apply ctlwWrite_follows
    | apply dmaRefused_follows | apply dramPut_follows | apply pc_follows | apply tblWordR_follows
    | (apply of_fst; apply tblWordR_follows) | apply foldl_follows | apply foldl_fst | (apply of_fst; assumption)
    | split | apply fst_mk | refine of_fst_eq (by assumption) ?_ | (fail_if_no_progress apply upd_follows)
theorem dmaExec_follows (h0 : Follows kp b0 s) (d : Nat) (run : State → DmaProg → DmaOp → State) (hrun : ∀ s x1 x2,
    Follows kp b0 s → Follows kp b0 (run s x1 x2)) : Follows kp b0 (dmaExec s d run) := by
  unfold dmaExec
  with_reducible repeat' first
    | assumption | apply hrun | apply dmaFail_follows | split
theorem dmaNext_follows (h0 : Follows kp b0 s) (d : Nat) : Follows kp b0 (dmaNext s d) := by
  unfold dmaNext
  with_reducible repeat' first
    | assumption | intro _
    | (extract_lets +onlyGivenNames x; refine cut_follows (kp := kp) (b := b0) (s := x) (fun _ => ?_) ?_; clear_value x; on_goal 2 => subst x)
    | (extract_lets +onlyGivenNames x; clear_value x) | apply dmaUpd_follows | apply setDmaPc_follows
    | apply setDmaState_follows | (fail_if_no_progress apply upd_follows)
theorem dmaWaits_follows (h0 : Follows kp b0 s) (d : Nat) (line : Option Nat) : Follows kp b0 (dmaWaits s d line) :=
    by
  unfold dmaWaits
  with_reducible repeat' first
    | assumption | intro _ | apply dmaUpd_follows | apply setDmaState_follows
    | (fail_if_no_progress apply upd_follows)
theorem dmaTouch_follows (h0 : Follows kp b0 s) (d x : Nat) : Follows kp b0 (dmaTouch s d x) := by
  unfold dmaTouch
  with_reducible repeat' first
    | assumption | intro _ | apply dmaUpd_follows | (fail_if_no_progress apply upd_follows)
theorem readSide_follows (hktabs : kp.tabs = false) (h0 : Follows kp b0 s) (d : Nat) (sp : DmaSpace) (a n ofs : Nat)
    : FollowsFst kp b0 (readSide s d sp a n ofs) := by
  unfold readSide
  with_reducible repeat' first
    | assumption
    | (extract_lets +onlyGivenNames x; refine cut_follows (kp := kp) (b := b0) (s := x) (fun _ => ?_) ?_; clear_value x; on_goal 2 => subst x)
    | (extract_lets +onlyGivenNames x; refine cut_fst (kp := kp) (b := b0) (p := x) (fun _ => ?_) ?_; clear_value x; on_goal 2 => subst x)
    | (extract_lets +onlyGivenNames x; clear_value x) | apply devRead_follows
    | (apply of_fst; apply devRead_follows) | (apply of_fst; assumption) | split | apply fst_mk
    | refine of_fst_eq (by assumption) ?_
theorem writeSide_follows (hk : kp.host = false) (hk2 : kp.tabs = false) (h : Follows kp b s) (d : Nat) (sp : DmaSpace) (a : Nat) (l : List Byte) (ofs : Nat) :
    FollowsOpt kp b (writeSide s d sp a l ofs) := by
  unfold writeSide
  split
  · exact opt_some (dmaTouch_follows (putHost_follows hk h _ _) _ _)
  · cases devPlace s d a l.length with
    | none => exact opt_none
    | some p => exact opt_some (dmaTouch_follows (devWrite_follows hk2 h _ _ _ _) _ _)

theorem freeBytes_follows (h : Follows kp b s) (n : Nat) : FollowsFst kp b (freeBytes n s) := by
  induction n generalizing s with
  | zero => exact h
  | succ n ih => unfold freeBytes; extract_lets; exact fst_mk (of_fst (ih (nextFree_follows h)))

theorem beatFail_follows (hkhost : kp.host = false) (hktabs : kp.tabs = false) (h0 : Follows kp b0 s) (d err : Nat)
    (ds : DmaSpace) (dst len m n ofs : Nat) : Follows kp b0 (beatFail s d err ds dst len m n ofs) := by
  unfold beatFail
  with_reducible repeat' first
    | assumption
    | (extract_lets +onlyGivenNames x; refine cut_follows (kp := kp) (b := b0) (s := x) (fun _ => ?_) ?_; clear_value x; on_goal 2 => subst x)
    | (extract_lets +onlyGivenNames x; refine cut_fst (kp := kp) (b := b0) (p := x) (fun _ => ?_) ?_; clear_value x; on_goal 2 => subst x)
    | (extract_lets +onlyGivenNames x; refine cut_opt (kp := kp) (b := b0) (o := x) (fun _ => ?_) ?_; clear_value x; on_goal 2 => subst x)
    | (extract_lets +onlyGivenNames x; clear_value x) | apply dmaStop_follows | apply freeBytes_follows
    | (apply of_fst; apply freeBytes_follows) | apply setResidue_follows | apply writeSide_follows
    | (apply of_fst; assumption) | apply opt_some | apply opt_none | apply of_getD | split | apply fst_mk
    | refine of_fst_eq (by assumption) ?_ | refine of_opt_eq (by assumption) ?_
theorem moveBeat_follows (hkhost : kp.host = false) (hktabs : kp.tabs = false) (h0 : Follows kp b0 s) (d : Nat) (ss
    ds : DmaSpace) (src dst len m ofs : Nat) : FollowsFst kp b0 (moveBeat s d ss ds src dst len m ofs) := by
  unfold moveBeat
  with_reducible repeat' first
    | assumption | intro _
    | (extract_lets +onlyGivenNames x; refine cut_follows (kp := kp) (b := b0) (s := x) (fun _ => ?_) ?_; clear_value x; on_goal 2 => subst x)
    | (extract_lets +onlyGivenNames x; refine cut_fst (kp := kp) (b := b0) (p := x) (fun _ => ?_) ?_; clear_value x; on_goal 2 => subst x)
    | (extract_lets +onlyGivenNames x; refine cut_opt (kp := kp) (b := b0) (o := x) (fun _ => ?_) ?_; clear_value x; on_goal 2 => subst x)
    | (extract_lets +onlyGivenNames x; clear_value x) | apply beatFail_follows | apply dmaUpd_follows
    | apply pc_follows | apply readSide_follows | (apply of_fst; apply readSide_follows) | apply setResidue_follows
    | apply writeSide_follows | (apply of_fst; assumption) | apply opt_some | apply opt_none | apply of_getD | split
    | apply fst_mk | refine of_fst_eq (by assumption) ?_ | refine of_opt_eq (by assumption) ?_
    | (fail_if_no_progress apply upd_follows)
theorem moveBeats_follows (hk : kp.host = false) (hk2 : kp.tabs = false) (h : Follows kp b s) (d : Nat) (ss ds : DmaSpace) (src dst len ofs n m : Nat) :
    FollowsFst kp b (moveBeats d ss ds src dst len ofs n m s) := by
  induction n generalizing s m with
  | zero => exact h
  | succ n ih =>
    unfold moveBeats
    split
    · exact h
    · split
      · rename_i e; exact fst_mk (of_fst_eq e (moveBeat_follows hk hk2 h _ _ _ _ _ _ _ _))
      · rename_i e; exact ih (of_fst_eq e (moveBeat_follows hk hk2 h _ _ _ _ _ _ _ _)) _

theorem moveBursts_follows (hk : kp.host = false) (hk2 : kp.tabs = false) (h : Follows kp b s) (d : Nat) (ss ds : DmaSpace) (req burst src dst len ofs n m : Nat) :
    Follows kp b (moveBursts d ss ds req burst src dst len ofs n m s) := by
  induction n generalizing s m with
  | zero => exact h
  | succ n ih =>
    unfold moveBursts
    split
    · exact h
    · split
      · exact dmaWaits_follows h _ _
      · rename_i t e
        have ht : Follows kp b t := by
          split at e
          · exact Option.some.inj e ▸ h
          · exact of_opt_eq e (reqTake_follows h _ _)
        have hs := dmaUpd_follows (setDmaState_follows ht d dsRunning) d fun p => { p with line := none }
        extract_lets x
        split
        · rename_i e; exact of_fst_eq e (moveBeats_follows hk hk2 hs _ _ _ _ _ _ _ _ _)
        · rename_i e; exact ih (of_fst_eq e (moveBeats_follows hk hk2 hs _ _ _ _ _ _ _ _ _)) _

theorem injectGo_follows (h0 : Follows kp b0 s) (d : Nat) (f : Frame) (direct : Bool) (members : List Nat) : Follows
    kp b0 (injectGo s d f direct members) := by
  unfold injectGo
  with_reducible repeat' first
    | assumption | intro _
    | (extract_lets +onlyGivenNames x; refine cut_follows (kp := kp) (b := b0) (s := x) (fun _ => ?_) ?_; clear_value x; on_goal 2 => subst x)
    | (extract_lets +onlyGivenNames x; clear_value x) | apply flowOut_follows | apply ingressPut_follows | split
    | (fail_if_no_progress apply upd_follows)
theorem moveInject_follows (hkhost : kp.host = false) (hktabs : kp.tabs = false) (h0 : Follows kp b0 s) (d : Nat) (p
    : DmaProg) (ss : DmaSpace) (ts : Bool) (src len w3 ofs : Nat) (members : List Nat) : Follows kp b0 (moveInject s
    d p ss ts src len w3 ofs members) := by
  unfold moveInject
  with_reducible repeat' first
    | assumption | intro _
    | (extract_lets +onlyGivenNames x; refine cut_follows (kp := kp) (b := b0) (s := x) (fun _ => ?_) ?_; clear_value x; on_goal 2 => subst x)
    | (extract_lets +onlyGivenNames x; refine cut_fst (kp := kp) (b := b0) (p := x) (fun _ => ?_) ?_; clear_value x; on_goal 2 => subst x)
    | (extract_lets +onlyGivenNames x; refine cut_optSnd (kp := kp) (b := b0) (o := x) (fun _ => ?_) ?_; clear_value x; on_goal 2 => subst x)
    | (extract_lets +onlyGivenNames x; clear_value x) | apply beatFail_follows | apply dmaUpd_follows
    | apply dmaWaits_follows | apply injectGo_follows | apply pc_follows | apply placeCells_follows
    | apply readSide_follows | (apply of_fst; apply readSide_follows) | apply setDmaState_follows
    | apply setResidue_follows | (apply of_fst; assumption) | apply optSnd_some | apply optSnd_none | split
    | apply fst_mk | refine of_fst_eq (by assumption) ?_ | refine of_optSnd_eq (by assumption) ?_
    | (fail_if_no_progress apply upd_follows)
theorem moveRun_follows (hkhost : kp.host = false) (hktabs : kp.tabs = false) (h0 : Follows kp b0 s) (d n ofs : Nat)
    (members : List Nat) (p : DmaProg) (op : DmaOp) : Follows kp b0 (moveRun s d n ofs members p op) := by
  unfold moveRun
  with_reducible repeat' first
    | assumption
    | (extract_lets +onlyGivenNames x; refine cut_follows (kp := kp) (b := b0) (s := x) (fun _ => ?_) ?_; clear_value x; on_goal 2 => subst x)
    | (extract_lets +onlyGivenNames x; refine cut_opt (kp := kp) (b := b0) (o := x) (fun _ => ?_) ?_; clear_value x; on_goal 2 => subst x)
    | (extract_lets +onlyGivenNames x; clear_value x) | apply dmaWaits_follows | apply moveBursts_follows
    | apply moveInject_follows | apply reqTake_follows | apply setResidue_follows | apply opt_some | apply opt_none
    | apply of_getD | split | refine of_opt_eq (by assumption) ?_
theorem moveDone_follows (h0 : Follows kp b0 s) (d : Nat) (p : DmaProg) (op : DmaOp) : Follows kp b0 (moveDone s d p
    op) := by
  unfold moveDone
  with_reducible repeat' first
    | assumption | apply dmaNext_follows | split
theorem moveBeatError_follows (hkhost : kp.host = false) (hktabs : kp.tabs = false) (h0 : Follows kp b0 s) (d err k
    ofs : Nat) (p : DmaProg) (op : DmaOp) : Follows kp b0 (moveBeatError s d err k ofs p op) := by
  unfold moveBeatError
  with_reducible repeat' first
    | assumption
    | (extract_lets +onlyGivenNames x; refine cut_follows (kp := kp) (b := b0) (s := x) (fun _ => ?_) ?_; clear_value x; on_goal 2 => subst x)
    | (extract_lets +onlyGivenNames x; refine cut_fst (kp := kp) (b := b0) (p := x) (fun _ => ?_) ?_; clear_value x; on_goal 2 => subst x)
    | (extract_lets +onlyGivenNames x; clear_value x) | apply beatFail_follows | apply moveBeats_follows
    | (apply of_fst; apply moveBeats_follows) | apply setResidue_follows | (apply of_fst; assumption) | split
    | apply fst_mk | refine of_fst_eq (by assumption) ?_
theorem loopRun_follows (h0 : Follows kp b0 s) (d : Nat) (p : DmaProg) (op : DmaOp) : Follows kp b0 (loopRun s d p
    op) := by
  unfold loopRun
  with_reducible repeat' first
    | assumption | intro _
    | (extract_lets +onlyGivenNames x; refine cut_follows (kp := kp) (b := b0) (s := x) (fun _ => ?_) ?_; clear_value x; on_goal 2 => subst x)
    | (extract_lets +onlyGivenNames x; clear_value x) | apply dmaFail_follows | apply dmaNext_follows
    | apply dmaUpd_follows | apply setDmaPc_follows | split | (fail_if_no_progress apply upd_follows)
theorem waitTry_follows (hktabs : kp.tabs = false) (h0 : Follows kp b0 s) (d ofs : Nat) (op : DmaOp) : Follows kp b0
    (waitTry s d ofs op) := by
  unfold waitTry
  with_reducible repeat' first
    | assumption
    | (extract_lets +onlyGivenNames x; refine cut_follows (kp := kp) (b := b0) (s := x) (fun _ => ?_) ?_; clear_value x; on_goal 2 => subst x)
    | (extract_lets +onlyGivenNames x; refine cut_fst (kp := kp) (b := b0) (p := x) (fun _ => ?_) ?_; clear_value x; on_goal 2 => subst x)
    | (extract_lets +onlyGivenNames x; refine cut_opt (kp := kp) (b := b0) (o := x) (fun _ => ?_) ?_; clear_value x; on_goal 2 => subst x)
    | (extract_lets +onlyGivenNames x; clear_value x) | apply devRead_follows
    | (apply of_fst; apply devRead_follows) | apply dmaFail_follows | apply dmaNext_follows | apply dmaWaits_follows
    | apply reqTake_follows | (apply of_fst; assumption) | apply opt_some | apply opt_none | apply of_getD | split
    | apply fst_mk | refine of_fst_eq (by assumption) ?_ | refine of_opt_eq (by assumption) ?_
theorem waitExpire_follows (h0 : Follows kp b0 s) (d : Nat) (op : DmaOp) : Follows kp b0 (waitExpire s d op) := by
  unfold waitExpire
  with_reducible repeat' first
    | assumption | apply dmaFail_follows | split
theorem signalRun_follows (hkhost : kp.host = false) (hktabs : kp.tabs = false) (h0 : Follows kp b0 s) (d ofs : Nat)
    (op : DmaOp) : Follows kp b0 (signalRun s d ofs op) := by
  unfold signalRun
  with_reducible repeat' first
    | assumption | apply dmaFail_follows | apply dmaNext_follows | apply dmaStart_follows | apply sendMsix_follows
    | apply writeSide_follows | apply opt_some | apply opt_none | apply of_getD | split
    | refine of_opt_eq (by assumption) ?_
theorem dmaFinish_follows (h0 : Follows kp b0 s) (d : Nat) : Follows kp b0 (dmaFinish s d) := by
  unfold dmaFinish
  with_reducible repeat' first
    | assumption | apply dmaFinal_follows | split | (fail_if_no_progress apply upd_follows)
theorem fenceRun_follows (h0 : Follows kp b0 s) (d : Nat) (p : DmaProg) (ending : Bool) : Follows kp b0 (fenceRun s d
    p ending) := by
  unfold fenceRun
  with_reducible repeat' first
    | assumption | intro _ | apply dmaFinish_follows | apply dmaNext_follows | apply dmaUpd_follows | split
    | (fail_if_no_progress apply upd_follows)
theorem fenceDone_follows (h0 : Follows kp b0 s) (d : Nat) : Follows kp b0 (fenceDone s d) := by
  unfold fenceDone
  with_reducible repeat' first
    | assumption
    | (extract_lets +onlyGivenNames x; refine cut_follows (kp := kp) (b := b0) (s := x) (fun _ => ?_) ?_; clear_value x; on_goal 2 => subst x)
    | (extract_lets +onlyGivenNames x; clear_value x) | apply dmaFinish_follows | apply dmaNext_follows
    | apply setDmaProg_follows | split | (fail_if_no_progress apply upd_follows)
theorem execMoveInstr_follows (s : State) (d n ofs : Nat) (members : List Nat) : ∃ t0, execMoveInstr d n ofs members
    s = .next t0 ∧ Follows ⟨true, false, false⟩ s t0 := by
  refine ⟨_, rfl, ?_⟩
  have h0 := Follows.refl ⟨true, false, false⟩ s
  with_reducible repeat' first
    | assumption | exact rfl | intro _ | apply dmaExec_follows | apply moveRun_follows
theorem execLoop_follows (s : State) (d : Nat) : ∃ t0, execLoop d s = .next t0 ∧ Follows ⟨true, true, true⟩ s t0 := by
  refine ⟨_, rfl, ?_⟩
  have h0 := Follows.refl ⟨true, true, true⟩ s
  with_reducible repeat' first
    | assumption | exact rfl | intro _ | apply dmaExec_follows | apply loopRun_follows
theorem execWaitRequest_follows (s : State) (d : Nat) : ∃ t0, execWaitRequest d s = .next t0 ∧ Follows ⟨true, true,
    false⟩ s t0 := by
  refine ⟨_, rfl, ?_⟩
  have h0 := Follows.refl ⟨true, true, false⟩ s
  with_reducible repeat' first
    | assumption | exact rfl | intro _ | apply dmaExec_follows | apply waitTry_follows | split
theorem execWaitReg_follows (s : State) (d ofs : Nat) : ∃ t0, execWaitReg d ofs s = .next t0 ∧ Follows ⟨true, true,
    false⟩ s t0 := by
  refine ⟨_, rfl, ?_⟩
  have h0 := Follows.refl ⟨true, true, false⟩ s
  with_reducible repeat' first
    | assumption | exact rfl | intro _ | apply dmaExec_follows | apply waitTry_follows | split
theorem execWaitTime_follows (s : State) (d ofs : Nat) : ∃ t0, execWaitTime d ofs s = .next t0 ∧ Follows ⟨true, true,
    false⟩ s t0 := by
  refine ⟨_, rfl, ?_⟩
  have h0 := Follows.refl ⟨true, true, false⟩ s
  with_reducible repeat' first
    | assumption | exact rfl | intro _ | apply dmaExec_follows | apply waitTry_follows | split
theorem execWaitSatisfied_follows (s : State) (d ofs : Nat) : ∃ t0, execWaitSatisfied d ofs s = .next t0 ∧ Follows
    ⟨true, true, false⟩ s t0 := by
  refine ⟨_, rfl, ?_⟩
  have h0 := Follows.refl ⟨true, true, false⟩ s
  with_reducible repeat' first
    | assumption | exact rfl | intro _ | apply dmaExec_follows | apply waitTry_follows | split
theorem execWaitTimeout_follows (s : State) (d : Nat) : ∃ t0, execWaitTimeout d s = .next t0 ∧ Follows ⟨true, true,
    true⟩ s t0 := by
  refine ⟨_, rfl, ?_⟩
  have h0 := Follows.refl ⟨true, true, true⟩ s
  with_reducible repeat' first
    | assumption | exact rfl | intro _ | apply dmaExec_follows | apply waitExpire_follows
theorem execSignalInterrupt_follows (s : State) (d : Nat) : ∃ t0, execSignalInterrupt d s = .next t0 ∧ Follows ⟨true,
    false, false⟩ s t0 := by
  refine ⟨_, rfl, ?_⟩
  have h0 := Follows.refl ⟨true, false, false⟩ s
  with_reducible repeat' first
    | assumption | exact rfl | intro _ | apply dmaExec_follows | apply signalRun_follows | split
theorem execSignalFlag_follows (s : State) (d ofs : Nat) : ∃ t0, execSignalFlag d ofs s = .next t0 ∧ Follows ⟨true,
    false, false⟩ s t0 := by
  refine ⟨_, rfl, ?_⟩
  have h0 := Follows.refl ⟨true, false, false⟩ s
  with_reducible repeat' first
    | assumption | exact rfl | intro _ | apply dmaExec_follows | apply signalRun_follows | split
theorem execSignalDoorbell_follows (s : State) (d : Nat) : ∃ t0, execSignalDoorbell d s = .next t0 ∧ Follows ⟨true,
    false, false⟩ s t0 := by
  refine ⟨_, rfl, ?_⟩
  have h0 := Follows.refl ⟨true, false, false⟩ s
  with_reducible repeat' first
    | assumption | exact rfl | intro _ | apply dmaExec_follows | apply signalRun_follows | split
theorem execFence_follows (s : State) (d : Nat) : ∃ t0, execFence d s = .next t0 ∧ Follows ⟨true, true, true⟩ s t0 :=
    by
  refine ⟨_, rfl, ?_⟩
  have h0 := Follows.refl ⟨true, true, true⟩ s
  with_reducible repeat' first
    | assumption | exact rfl | intro _ | apply dmaExec_follows | apply fenceRun_follows | split
theorem execFenceComplete_follows (s : State) (d : Nat) : ∃ t0, execFenceComplete d s = .next t0 ∧ Follows ⟨true,
    true, true⟩ s t0 := by
  refine ⟨_, rfl, ?_⟩
  have h0 := Follows.refl ⟨true, true, true⟩ s
  with_reducible repeat' first
    | assumption | exact rfl | apply fenceDone_follows
theorem execEndProg_follows (s : State) (d : Nat) : ∃ t0, execEndProg d s = .next t0 ∧ Follows ⟨true, true, true⟩ s
    t0 := by
  refine ⟨_, rfl, ?_⟩
  have h0 := Follows.refl ⟨true, true, true⟩ s
  with_reducible repeat' first
    | assumption | exact rfl | intro _ | apply dmaExec_follows | apply fenceRun_follows | split
theorem execDmaBeatError_follows (s : State) (d err k ofs : Nat) : ∃ t0, execDmaBeatError d err k ofs s = .next t0 ∧
    Follows ⟨true, false, false⟩ s t0 := by
  refine ⟨_, rfl, ?_⟩
  have h0 := Follows.refl ⟨true, false, false⟩ s
  with_reducible repeat' first
    | assumption | exact rfl | intro _ | apply dmaExec_follows | apply moveBeatError_follows
theorem execMoveComplete_follows (s : State) (d : Nat) : ∃ t0, execMoveComplete d s = .next t0 ∧ Follows ⟨true, true,
    true⟩ s t0 := by
  refine ⟨_, rfl, ?_⟩
  have h0 := Follows.refl ⟨true, true, true⟩ s
  with_reducible repeat' first
    | assumption | exact rfl | intro _ | apply dmaExec_follows | apply moveDone_follows

end Sys2Proof.Machine
end

