-- ==== Sys2Proof/Laws/HandoverKeeps.lean ====
section
/-! SUPPORT. What the functions of Machine/Handover.lean keep (Follows), one lemma each. -/
namespace Sys2Proof.Machine

set_option linter.all false
variable {kp : Keep} {b b0 s : State}

theorem imageDefaults_follows (h0 : Follows kp b0 s) (f : Nat) : Follows kp b0 (imageDefaults s f) := by
  unfold imageDefaults
  with_reducible repeat' first
    | assumption | intro _
    | (extract_lets +onlyGivenNames x; refine cut_follows (kp := kp) (b := b0) (s := x) (fun _ => ?_) ?_; clear_value x; on_goal 2 => subst x)
    | (extract_lets +onlyGivenNames x; clear_value x) | apply dvfsRequest_follows | apply wr_follows
    | apply foldl_follows | split
theorem restoreDefaults_follows (h0 : Follows kp b0 s) (f t : Nat) : Follows kp b0 (restoreDefaults s f t) := by
  unfold restoreDefaults
  with_reducible repeat' first
    | assumption | intro _
    | (extract_lets +onlyGivenNames x; refine cut_follows (kp := kp) (b := b0) (s := x) (fun _ => ?_) ?_; clear_value x; on_goal 2 => subst x)
    | (extract_lets +onlyGivenNames x; clear_value x) | apply gateUplTaken_follows | apply gclDisable_follows
    | apply imageDefaults_follows | apply wr_follows | apply foldl_follows | split
theorem handoverDone_follows (h0 : Follows kp b0 s) (f t : Nat) (consistent : Bool) : Follows kp b0 (handoverDone s f
    t consistent) := by
  unfold handoverDone
  with_reducible repeat' first
    | assumption
    | (extract_lets +onlyGivenNames x; refine cut_follows (kp := kp) (b := b0) (s := x) (fun _ => ?_) ?_; clear_value x; on_goal 2 => subst x)
    | (extract_lets +onlyGivenNames x; clear_value x) | apply endHandover_follows | apply putRec_follows
    | apply restoreDefaults_follows | apply setHstate_follows | apply wf_follows | split
    | (fail_if_no_progress apply upd_follows)
theorem execOwnerHandoverDone_follows (s : State) (f t : Nat) (consistent : Bool) : ∃ t0, execOwnerHandoverDone f t
    consistent s = .next t0 ∧ Follows ⟨true, true, true⟩ s t0 := by
  refine ⟨_, rfl, ?_⟩
  have h0 := Follows.refl ⟨true, true, true⟩ s
  with_reducible repeat' first
    | assumption | exact rfl | apply handoverDone_follows

end Sys2Proof.Machine
end

