-- ==== Sys2Proof/Laws/SampleKeeps.lean ====
section
/-! SUPPORT. What the functions of Machine/Sample.lean keep (Follows), one lemma each. -/
namespace Sys2Proof.Machine

set_option linter.all false
variable {kp : Keep} {b b0 s : State}

theorem smpPut_follows (h0 : Follows kp b0 s) (i : Nat) (r : Nat) : Follows kp b0 (smpPut s i r) := by
  unfold smpPut
  with_reducible repeat' first
    | assumption
    | (extract_lets +onlyGivenNames x; refine cut_follows (kp := kp) (b := b0) (s := x) (fun _ => ?_) ?_; clear_value x; on_goal 2 => subst x)
    | (extract_lets +onlyGivenNames x; refine cut_opt (kp := kp) (b := b0) (o := x) (fun _ => ?_) ?_; clear_value x; on_goal 2 => subst x)
    | (extract_lets +onlyGivenNames x; clear_value x) | apply dramRingPut_follows | apply satF_follows
    | apply opt_some | apply opt_none | apply of_getD | split | refine of_opt_eq (by assumption) ?_
    | (fail_if_no_progress apply upd_follows)
theorem smpPeriod_follows (h0 : Follows kp b0 s) (i n : Nat) : Follows kp b0 (smpPeriod s i n) := by
  unfold smpPeriod
  with_reducible repeat' first
    | assumption | intro _
    | (extract_lets +onlyGivenNames x; refine cut_follows (kp := kp) (b := b0) (s := x) (fun _ => ?_) ?_; clear_value x; on_goal 2 => subst x)
    | (extract_lets +onlyGivenNames x; clear_value x) | apply nextFree_follows | apply satF_follows
    | apply smpPut_follows | apply foldl_follows | split | (fail_if_no_progress apply upd_follows)
theorem execSamplerPeriod_follows (s : State) (i n : Nat) : ∃ t0, execSamplerPeriod i n s = .next t0 ∧ Follows ⟨true,
    true, true⟩ s t0 := by
  refine ⟨_, rfl, ?_⟩
  have h0 := Follows.refl ⟨true, true, true⟩ s
  with_reducible repeat' first
    | assumption | exact rfl | intro _ | apply dataUp_follows | apply smpPeriod_follows

end Sys2Proof.Machine
end

