-- ==== Sys2Proof/Laws/State.lean ====
section
/-! SUPPORT. The named updates of State, field by field, each true by unfolding: wr changes the registers, emit what has
left the device, nextFree the count of free values, and nothing else. -/
namespace Sys2Proof.Machine

@[simp] theorem wr_pending (s : State) (a : Nat) (w : Word) : (wr s a w).pending = s.pending := rfl
@[simp] theorem wr_freeCtr (s : State) (a : Nat) (w : Word) : (wr s a w).freeCtr = s.freeCtr := rfl
@[simp] theorem wr_tabs (s : State) (a : Nat) (w : Word) : (wr s a w).tabs = s.tabs := rfl
@[simp] theorem wr_hostMem (s : State) (a : Nat) (w : Word) : (wr s a w).hostMem = s.hostMem := rfl
@[simp] theorem wr_flash (s : State) (a : Nat) (w : Word) : (wr s a w).flash = s.flash := rfl
@[simp] theorem wr_dram (s : State) (a : Nat) (w : Word) : (wr s a w).dram = s.dram := rfl
@[simp] theorem wr_sent (s : State) (a : Nat) (w : Word) : (wr s a w).sent = s.sent := rfl
@[simp] theorem wr_ntfLost (s : State) (a : Nat) (w : Word) : (wr s a w).ntfLost = s.ntfLost := rfl
@[simp] theorem wr_acc (s : State) (a : Nat) (w : Word) : (wr s a w).acc = s.acc := rfl
@[simp] theorem wr_unit (s : State) (a : Nat) (w : Word) : (wr s a w).unit = s.unit := rfl
@[simp] theorem wr_dies (s : State) (a : Nat) (w : Word) : (wr s a w).dies = s.dies := rfl
@[simp] theorem wr_own (s : State) (a : Nat) (w : Word) : (wr s a w).own = s.own := rfl
@[simp] theorem wr_boot (s : State) (a : Nat) (w : Word) : (wr s a w).boot = s.boot := rfl
@[simp] theorem wr_img (s : State) (a : Nat) (w : Word) : (wr s a w).img = s.img := rfl
@[simp] theorem wr_sec (s : State) (a : Nat) (w : Word) : (wr s a w).sec = s.sec := rfl
@[simp] theorem wr_grm (s : State) (a : Nat) (w : Word) : (wr s a w).grm = s.grm := rfl
@[simp] theorem wr_stat (s : State) (a : Nat) (w : Word) : (wr s a w).stat = s.stat := rfl
@[simp] theorem wr_buf (s : State) (a : Nat) (w : Word) : (wr s a w).buf = s.buf := rfl
@[simp] theorem wr_sched (s : State) (a : Nat) (w : Word) : (wr s a w).sched = s.sched := rfl
@[simp] theorem wr_tcm (s : State) (a : Nat) (w : Word) : (wr s a w).tcm = s.tcm := rfl
@[simp] theorem wr_keys (s : State) (a : Nat) (w : Word) : (wr s a w).keys = s.keys := rfl
@[simp] theorem wr_line (s : State) (a : Nat) (w : Word) : (wr s a w).line = s.line := rfl
@[simp] theorem wr_grant (s : State) (a : Nat) (w : Word) : (wr s a w).grant = s.grant := rfl
@[simp] theorem wr_reg (s : State) (a : Nat) (w : Word) : (wr s a w).reg = s.reg := rfl
@[simp] theorem wr_rogue (s : State) (a : Nat) (w : Word) : (wr s a w).rogue = s.rogue := rfl
@[simp] theorem wr_transits (s : State) (a : Nat) (w : Word) : (wr s a w).transits = s.transits := rfl
@[simp] theorem wr_flow (s : State) (a : Nat) (w : Word) : (wr s a w).flow = s.flow := rfl
@[simp] theorem wr_fwd (s : State) (a : Nat) (w : Word) : (wr s a w).fwd = s.fwd := rfl
@[simp] theorem wr_obs (s : State) (a : Nat) (w : Word) : (wr s a w).obs = s.obs := rfl
@[simp] theorem wr_upl (s : State) (a : Nat) (w : Word) : (wr s a w).upl = s.upl := rfl
@[simp] theorem wr_tim (s : State) (a : Nat) (w : Word) : (wr s a w).tim = s.tim := rfl
@[simp] theorem wr_dma (s : State) (a : Nat) (w : Word) : (wr s a w).dma = s.dma := rfl
@[simp] theorem wr_prt (s : State) (a : Nat) (w : Word) : (wr s a w).prt = s.prt := rfl
@[simp] theorem wr_pwr (s : State) (a : Nat) (w : Word) : (wr s a w).pwr = s.pwr := rfl

@[simp] theorem emit_pending (s : State) (o : Sent) : (emit s o).pending = s.pending := rfl
@[simp] theorem emit_freeCtr (s : State) (o : Sent) : (emit s o).freeCtr = s.freeCtr := rfl
@[simp] theorem emit_regs (s : State) (o : Sent) : (emit s o).regs = s.regs := rfl
@[simp] theorem emit_tabs (s : State) (o : Sent) : (emit s o).tabs = s.tabs := rfl
@[simp] theorem emit_hostMem (s : State) (o : Sent) : (emit s o).hostMem = s.hostMem := rfl
@[simp] theorem emit_flash (s : State) (o : Sent) : (emit s o).flash = s.flash := rfl
@[simp] theorem emit_dram (s : State) (o : Sent) : (emit s o).dram = s.dram := rfl
@[simp] theorem emit_ntfLost (s : State) (o : Sent) : (emit s o).ntfLost = s.ntfLost := rfl
@[simp] theorem emit_acc (s : State) (o : Sent) : (emit s o).acc = s.acc := rfl
@[simp] theorem emit_unit (s : State) (o : Sent) : (emit s o).unit = s.unit := rfl
@[simp] theorem emit_dies (s : State) (o : Sent) : (emit s o).dies = s.dies := rfl
@[simp] theorem emit_own (s : State) (o : Sent) : (emit s o).own = s.own := rfl
@[simp] theorem emit_boot (s : State) (o : Sent) : (emit s o).boot = s.boot := rfl
@[simp] theorem emit_img (s : State) (o : Sent) : (emit s o).img = s.img := rfl
@[simp] theorem emit_sec (s : State) (o : Sent) : (emit s o).sec = s.sec := rfl
@[simp] theorem emit_grm (s : State) (o : Sent) : (emit s o).grm = s.grm := rfl
@[simp] theorem emit_stat (s : State) (o : Sent) : (emit s o).stat = s.stat := rfl
@[simp] theorem emit_buf (s : State) (o : Sent) : (emit s o).buf = s.buf := rfl
@[simp] theorem emit_sched (s : State) (o : Sent) : (emit s o).sched = s.sched := rfl
@[simp] theorem emit_tcm (s : State) (o : Sent) : (emit s o).tcm = s.tcm := rfl
@[simp] theorem emit_keys (s : State) (o : Sent) : (emit s o).keys = s.keys := rfl
@[simp] theorem emit_line (s : State) (o : Sent) : (emit s o).line = s.line := rfl
@[simp] theorem emit_grant (s : State) (o : Sent) : (emit s o).grant = s.grant := rfl
@[simp] theorem emit_reg (s : State) (o : Sent) : (emit s o).reg = s.reg := rfl
@[simp] theorem emit_rogue (s : State) (o : Sent) : (emit s o).rogue = s.rogue := rfl
@[simp] theorem emit_transits (s : State) (o : Sent) : (emit s o).transits = s.transits := rfl
@[simp] theorem emit_flow (s : State) (o : Sent) : (emit s o).flow = s.flow := rfl
@[simp] theorem emit_fwd (s : State) (o : Sent) : (emit s o).fwd = s.fwd := rfl
@[simp] theorem emit_obs (s : State) (o : Sent) : (emit s o).obs = s.obs := rfl
@[simp] theorem emit_upl (s : State) (o : Sent) : (emit s o).upl = s.upl := rfl
@[simp] theorem emit_tim (s : State) (o : Sent) : (emit s o).tim = s.tim := rfl
@[simp] theorem emit_dma (s : State) (o : Sent) : (emit s o).dma = s.dma := rfl
@[simp] theorem emit_prt (s : State) (o : Sent) : (emit s o).prt = s.prt := rfl
@[simp] theorem emit_pwr (s : State) (o : Sent) : (emit s o).pwr = s.pwr := rfl

@[simp] theorem nextFree_pending (s : State) : (nextFree s).pending = s.pending := rfl
@[simp] theorem nextFree_regs (s : State) : (nextFree s).regs = s.regs := rfl
@[simp] theorem nextFree_tabs (s : State) : (nextFree s).tabs = s.tabs := rfl
@[simp] theorem nextFree_hostMem (s : State) : (nextFree s).hostMem = s.hostMem := rfl
@[simp] theorem nextFree_flash (s : State) : (nextFree s).flash = s.flash := rfl
@[simp] theorem nextFree_dram (s : State) : (nextFree s).dram = s.dram := rfl
@[simp] theorem nextFree_sent (s : State) : (nextFree s).sent = s.sent := rfl
@[simp] theorem nextFree_ntfLost (s : State) : (nextFree s).ntfLost = s.ntfLost := rfl
@[simp] theorem nextFree_acc (s : State) : (nextFree s).acc = s.acc := rfl
@[simp] theorem nextFree_unit (s : State) : (nextFree s).unit = s.unit := rfl
@[simp] theorem nextFree_dies (s : State) : (nextFree s).dies = s.dies := rfl
@[simp] theorem nextFree_own (s : State) : (nextFree s).own = s.own := rfl
@[simp] theorem nextFree_boot (s : State) : (nextFree s).boot = s.boot := rfl
@[simp] theorem nextFree_img (s : State) : (nextFree s).img = s.img := rfl
@[simp] theorem nextFree_sec (s : State) : (nextFree s).sec = s.sec := rfl
@[simp] theorem nextFree_grm (s : State) : (nextFree s).grm = s.grm := rfl
@[simp] theorem nextFree_stat (s : State) : (nextFree s).stat = s.stat := rfl
@[simp] theorem nextFree_buf (s : State) : (nextFree s).buf = s.buf := rfl
@[simp] theorem nextFree_sched (s : State) : (nextFree s).sched = s.sched := rfl
@[simp] theorem nextFree_tcm (s : State) : (nextFree s).tcm = s.tcm := rfl
@[simp] theorem nextFree_keys (s : State) : (nextFree s).keys = s.keys := rfl
@[simp] theorem nextFree_line (s : State) : (nextFree s).line = s.line := rfl
@[simp] theorem nextFree_grant (s : State) : (nextFree s).grant = s.grant := rfl
@[simp] theorem nextFree_reg (s : State) : (nextFree s).reg = s.reg := rfl
@[simp] theorem nextFree_rogue (s : State) : (nextFree s).rogue = s.rogue := rfl
@[simp] theorem nextFree_transits (s : State) : (nextFree s).transits = s.transits := rfl
@[simp] theorem nextFree_flow (s : State) : (nextFree s).flow = s.flow := rfl
@[simp] theorem nextFree_fwd (s : State) : (nextFree s).fwd = s.fwd := rfl
@[simp] theorem nextFree_obs (s : State) : (nextFree s).obs = s.obs := rfl
@[simp] theorem nextFree_upl (s : State) : (nextFree s).upl = s.upl := rfl
@[simp] theorem nextFree_tim (s : State) : (nextFree s).tim = s.tim := rfl
@[simp] theorem nextFree_dma (s : State) : (nextFree s).dma = s.dma := rfl
@[simp] theorem nextFree_prt (s : State) : (nextFree s).prt = s.prt := rfl
@[simp] theorem nextFree_pwr (s : State) : (nextFree s).pwr = s.pwr := rfl

@[simp] theorem wr_regs (s : State) (a : Nat) (w : Word) : (wr s a w).regs = mset (resetWord a) s.regs a w := rfl
@[simp] theorem emit_sent (s : State) (o : Sent) : (emit s o).sent = s.sent ++ [o] := rfl
@[simp] theorem nextFree_freeCtr (s : State) : (nextFree s).freeCtr = s.freeCtr + 1 := rfl

/-- A register word that an update leaves the map of alone reads as before. -/
@[simp] theorem rd_emit (s : State) (o : Sent) (a : Nat) : rd (emit s o) a = rd s a := rfl
@[simp] theorem rd_nextFree (s : State) (a : Nat) : rd (nextFree s) a = rd s a := rfl

end Sys2Proof.Machine
end

