-- ==== Sys2Proof/Laws/Words.lean ====
section
/-! SUPPORT. What a read of a register word or field gives after a write: the word or field written, and every other one
as it was. The registers are taken to be in their canonical form (Canon). -/
namespace Sys2Proof.Machine

variable {s : State}

/-- Reading the word just written. -/
theorem rd_wr_same (h : mwf resetWord s.regs = true) (a : Nat) (w : Word) : rd (wr s a w) a = w :=
  mget_mset_same resetWord s.regs a w h

/-- Reading another word. -/
theorem rd_wr_other (s : State) {a b : Nat} (w : Word) (h : b ≠ a) : rd (wr s a w) b = rd s b :=
  mget_mset_other _ _ _ _ h

/-- A field of a word into which it was put reads as the value cut to the field. -/
theorem fld_putFld_same (w : Word) (hi lo v : Nat) (h : lo ≤ hi) (h2 : hi < 32) :
    fld (putFld w hi lo v) hi lo = v % 2 ^ (hi + 1 - lo) := by
  unfold fld putFld fieldMask
  rw [← BitVec.toNat_ofNat]
  congr 1
  apply BitVec.eq_of_getLsbD_eq
  intro i hi'
  simp only [BitVec.getLsbD_extractLsb', BitVec.getLsbD_or, BitVec.getLsbD_and, BitVec.getLsbD_not,
    BitVec.getLsbD_shiftLeft, BitVec.getLsbD_setWidth, BitVec.getLsbD_allOnes]
  have e : lo + i - lo = i := by omega
  have k1 : lo + i < 32 := by omega
  have k2 : ¬ lo + i < lo := by omega
  simp [e, k1, k2, hi', show i < 32 by omega]

/-- A field of a word apart from one that was put reads as before. -/
theorem fld_putFld_other (w : Word) (hi lo v hi' lo' : Nat) (h : hi' < lo ∨ hi < lo') (_h2 : hi < 32) (h3 : lo ≤ hi) :
    fld (putFld w hi lo v) hi' lo' = fld w hi' lo' := by
  unfold fld putFld fieldMask
  congr 1
  apply BitVec.eq_of_getLsbD_eq
  intro i hi''
  simp only [BitVec.getLsbD_extractLsb', BitVec.getLsbD_or, BitVec.getLsbD_and, BitVec.getLsbD_not,
    BitVec.getLsbD_shiftLeft, BitVec.getLsbD_setWidth, BitVec.getLsbD_allOnes, BitVec.getLsbD_ofNat]
  by_cases k : lo' + i < 32
  · rcases h with h | h
    · have : lo' + i < lo := by omega
      simp [hi'', k, this]
    · have : ¬ lo' + i - lo < hi + 1 - lo := by omega
      simp [hi'', k, this]
  · have : ∀ x : Word, x.getLsbD (lo' + i) = false := fun x => BitVec.getLsbD_of_ge x _ (by omega)
    simp [hi'', k, this]

/-- Reading a field just written. -/
theorem rf_wf_same (h : mwf resetWord s.regs = true) (a hi lo v : Nat) (hl : lo ≤ hi) (hh : hi < 32) :
    rf (wf s a hi lo v) a hi lo = v % 2 ^ (hi + 1 - lo) := by
  unfold rf wf; rw [rd_wr_same h, fld_putFld_same _ _ _ _ hl hh]

/-- Reading another field of the word. -/
theorem rf_wf_field (h : mwf resetWord s.regs = true) (a hi lo v hi' lo' : Nat) (hd : hi' < lo ∨ hi < lo') (hh : hi < 32)
    (hl : lo ≤ hi) : rf (wf s a hi lo v) a hi' lo' = rf s a hi' lo' := by
  unfold rf wf; rw [rd_wr_same h, fld_putFld_other _ _ _ _ _ _ hd hh hl]

/-- Reading another word after a field was written. -/
theorem rd_wf_other (s : State) {a b : Nat} (hi lo v : Nat) (h : b ≠ a) : rd (wf s a hi lo v) b = rd s b :=
  rd_wr_other s _ h

/-- The four fields of a unit's state register after it is put (R24). -/
theorem putUnit_read (h : mwf resetWord s.regs = true) (a st det : Nat) (b : Bool) :
    uState (putUnit s a st det b) a = st % 256 ∧ uDetail (putUnit s a st det b) a = det % 256
      ∧ uEpoch (putUnit s a st det b) a = (uEpoch s a + b2n b) % 256 := by
  unfold uState uDetail uEpoch rf putUnit
  simp only [rd_wr_same h]
  refine ⟨?_, ?_, ?_⟩
  · rw [fld_putFld_same _ _ _ _ (by omega) (by omega)]; rfl
  · rw [fld_putFld_other _ _ _ _ _ _ (by omega) (by omega) (by omega),
      fld_putFld_same _ _ _ _ (by omega) (by omega)]; rfl
  · rw [fld_putFld_other _ _ _ _ _ _ (by omega) (by omega) (by omega),
      fld_putFld_other _ _ _ _ _ _ (by omega) (by omega) (by omega),
      fld_putFld_other _ _ _ _ _ _ (by omega) (by omega) (by omega),
      fld_putFld_same _ _ _ _ (by omega) (by omega)]
    simp

end Sys2Proof.Machine
end

