-- ==== Sys2Proof/WellFormed.lean ====
section
/-! DEFINITION. Well-formed commands: every operand within the width or the number of units that the spec gives it. A meaning is total:
outside these bounds it does what it does for a unit or code that does not exist. -/
namespace Sys2Proof
open Sys2Proof.Machine

/-- A requester that exists: the physical function, 64 virtual functions, 16 control cores, 32 DMA channels (R12). -/
def reqOk : Requester → Bool
  | .pf => true
  | .vf p => decide (p < 64)
  | .core i => decide (i < 16)
  | .dma d => decide (d < 32)

/-- Whether a command's operands are in range. -/
def Instr.wellFormed : Instr → Bool
  | .registerWrite who addr _ ofs => reqOk who && decide (addr < 2 ^ 28) && decide (ofs < 15625)
  | .badAccess who addr size _ => reqOk who && decide (addr < 2 ^ 28) && decide (size ≤ 4096)
  | .lowWordRead who addr ofs => reqOk who && decide (addr < 2 ^ 28) && decide (ofs < 15625)
  | .glbBarrierRead who => reqOk who
  | .barrierReturn who => reqOk who
  | .barrierTimeout who _ => reqOk who
  | .glbWrstatRead who => reqOk who
  | .pendClear j _ => decide (j < 11)
  | .flitReceive p d cls lp _ _ => decide (p < 8) && decide (d < 2) && decide (cls < 3) && decide (lp < 64)
  | .retrainComplete p _ => decide (p < 8)
  | .creditReturn p d cls lp => decide (p < 8) && decide (d < 2) && decide (cls < 3) && decide (lp < 64)
  | .islandLost i _ => decide (i < 342)
  | .sramError _ => true
  | .scrubPass => true
  | .clauseIslandEntry src dst _ check => decide (src < 342) && decide (dst < 342) && decide (check < 2 ^ 32)
  | .ownerRequest who _ => reqOk who
  | .ownerFlip f t i => decide (f < 12) && decide (t < 64) && decide (i < 342)
  | .ownerHandoverDone f t _ => decide (f < 12) && decide (t < 64)
  | .quiesceTimeout f t => decide (f < 12) && decide (t < 64)
  | .hostWdWrite who _ => reqOk who
  | .hostWdExpire => true
  | .imgCtrlStage who src => reqOk who && decide (src < 4)
  | .imgCtrlApply who _ _ => reqOk who
  | .imgCtrlAbandon who => reqOk who
  | .imgCtrlCommit who => reqOk who
  | .imageFetchDone _ => true
  | .applyTransitTimeout => true
  | .applyTreeTimeout t => decide (t < 64)
  | .grammarSwitchMarker p => decide (p < 16)
  | .grammarSwitchComplete => true
  | .supplyStart i => decide (i < 14)
  | .supplyValid i => decide (i < 14)
  | .supplyGapTimeout => true
  | .supplyOutOfRange i => decide (i < 14)
  | .porNAssert => true
  | .porNRelease bootsel => decide (bootsel < 4)
  | .perstNAssert => true
  | .perstNRelease => true
  | .p0Complete _ => true
  | .p1Complete _ _ => true
  | .p2Complete fail => decide (fail ≤ 12)
  | .p4Complete _ _ => true
  | .fwStartTimeout => true
  | .p5Complete => true
  | .linkTrainTimeout => true
  | .treeStartTimeout t => decide (t < 64)
  | .glbResetCtrlCold who confirm => reqOk who && decide (confirm < 2 ^ 16)
  | .glbResetCtrlWarm who confirm => reqOk who && decide (confirm < 2 ^ 16)
  | .coldReset => true
  | .warmReset bootsel => decide (bootsel < 4)
  | .treeReset who t expect _ => reqOk who && decide (t < 64) && decide (expect < 256)
  | .chnStateReset who c expect => reqOk who && decide (c < 256) && decide (expect < 256)
  | .channelIslandResetDone c => decide (c < 256)
  | .channelLaneTrained c => decide (c < 256)
  | .channelRun c => decide (c < 256)
  | .channelStartTimeout c => decide (c < 256)
  | .chnStateEclipseEntering who c expect => reqOk who && decide (c < 256) && decide (expect < 256)
  | .chnStateWaking who c expect => reqOk who && decide (c < 256) && decide (expect < 256)
  | .cycleStart _ _ => true
  | .chnCrsWrite who c i value => reqOk who && decide (c < 256) && decide (i < 64) && decide (value < 2 ^ 64)
  | .burstStart c => decide (c < 256)
  | .burstReceive c rx => decide (c < 256) && decide (rx.hdr.word < 2 ^ 128)
  | .tlrInvalidate who c k => reqOk who && decide (c < 256) && decide (k < 512)
  | .tlrForceCold who c k => reqOk who && decide (c < 256) && decide (k < 512)
  | .tlrPin who c k => reqOk who && decide (c < 256) && decide (k < 512)
  | .tlrUnpin who c k => reqOk who && decide (c < 256) && decide (k < 512)
  | .tlrInvalidateAll who c => reqOk who && decide (c < 256)
  | .pmBinRollover c _ _ => decide (c < 256)
  | .pmDataRead who c => reqOk who && decide (c < 256)
  | .ploamReceive c tid typ serial _ _ _ =>
    decide (c < 256) && decide (tid < 2 ^ 15) && decide (typ < 256) && decide (serial < 2 ^ 64)
  | .comaEpoch c => decide (c < 256)
  | .comaCandidatesPosted c _ => decide (c < 256)
  | .registrationBurst c _ hdr _ _ _ _ => decide (c < 256) && decide (hdr.word < 2 ^ 128)
  | .quietWindowDue c => decide (c < 256)
  | .qwNow who t _ => reqOk who && decide (t < 64)
  | .tcmReceive c tid msg => decide (c < 256) && decide (tid < 2 ^ 15) && decide (msg.length = 48)
  | .tcmAckReceive c tid msg => decide (c < 256) && decide (tid < 2 ^ 15) && decide (msg.length = 48)
  | .tcmAckTimeout tid => decide (tid < 2 ^ 15)
  | .chnTcmTx who c _ => reqOk who && decide (c < 256)
  | .authTimeout tid => decide (tid < 2 ^ 15)
  | .lostTimeout tid => decide (tid < 2 ^ 15)
  | .termWriteFree who tid expect => reqOk who && decide (tid < 2 ^ 15) && decide (expect < 256)
  | .termWriteAuthWait who tid expect => reqOk who && decide (tid < 2 ^ 15) && decide (expect < 256)
  | .termWriteRanging who tid expect => reqOk who && decide (tid < 2 ^ 15) && decide (expect < 256)
  | .termWriteKeying who tid expect => reqOk who && decide (tid < 2 ^ 15) && decide (expect < 256)
  | .termWriteActive who tid expect => reqOk who && decide (tid < 2 ^ 15) && decide (expect < 256)
  | .termWriteDisabled who tid expect det =>
    reqOk who && decide (tid < 2 ^ 15) && decide (expect < 256) && decide (det < 256)
  | .termWriteOffline who tid expect => reqOk who && decide (tid < 2 ^ 15) && decide (expect < 256)
  | .treTermInfoWrite who tid value => reqOk who && decide (tid < 2 ^ 15) && decide (value < 2 ^ 128)
  | .rogueStart who t _ => reqOk who && decide (t < 64)
  | .rogueClear who t _ => reqOk who && decide (t < 64)
  | .probeWindowEnd t _ => decide (t < 64)
  | .rogueDisableRepeat t => decide (t < 64)
  | .grantBuild c => decide (c < 256)
  | .chnGeSysreq who c value => reqOk who && decide (c < 256) && decide (value < 2 ^ 128)
  | .geRingWrIdx who c value => reqOk who && decide (c < 256) && decide (value < 2 ^ 32)
  | .tblwWrite who ofs _ => reqOk who && decide (ofs < 2 ^ 30)
  | .frameEnqueue busySites => decide (busySites < 16)
  | .schedulerSelect c lineAt => decide (c < 256) && decide (lineAt < 2 ^ 20)
  | .gateEntryChange x => decide (x < 512)
  | .gclInstall who x => reqOk who && decide (x < 512)
  | .gclDisable who x => reqOk who && decide (x < 512)
  | .gclStart x => decide (x < 512)
  | .samplerPeriod i _ => decide (i < 8)
  | .transitReqStart who t value ofs =>
    reqOk who && decide (t < 64) && decide (value < 2 ^ 128) && decide (ofs < 15625)
  | .transitReqCancel who t value ofs =>
    reqOk who && decide (t < 64) && decide (value < 2 ^ 128) && decide (ofs < 15625)
  | .transitSwitch tid => decide (tid < 2 ^ 15)
  | .transitDsKeysMoved tid => decide (tid < 2 ^ 15)
  | .transitUsMove tid => decide (tid < 2 ^ 15)
  | .eclipseEnter c => decide (c < 256)
  | .eclTimeout c => decide (c < 256)
  | .wakeComplete c _ => decide (c < 256)
  | .wakeTimeout c => decide (c < 256)
  | .foldMinute t load anchorLoad => decide (t < 64) && decide (load ≤ 100) && decide (anchorLoad ≤ 100)
  | .balanceCheck t _ _ => decide (t < 64)
  | .keyInstall who c value => reqOk who && decide (c < 256) && decide (value < 2 ^ 512)
  | .keySlotErase who c k expect => reqOk who && decide (c < 256) && decide (k < 2048) && decide (expect < 256)
  | .keySlotActivate who c k expect => reqOk who && decide (c < 256) && decide (k < 2048) && decide (expect < 256)
  | .keyRetireExpire c k => decide (c < 256) && decide (k < 2048)
  | .coreCheck c core _ => decide (c < 256) && decide (core < 4)
  | .secChallengeRead who => reqOk who
  | .sessionTimeout fn => decide (fn < 65)
  | .loginLockoutExpire fn role => decide (fn < 65) && decide (role < 4)
  | .drbgReseed => true
  | .conditionalTestFail test => decide (1 ≤ test ∧ test ≤ 12)
  | .checkpointWrite counter => decide (counter < 2)
  | .tamperTrip src => decide (src < 8)
  | .secZeroizeWrite who _ => reqOk who
  | .keyWrappingAreaErased => true
  | .pairProvisionTimeout => true
  | .pipelineAdmit p => decide (p < 16)
  | .nop p => decide (p < 16)
  | .extractVerb p => decide (p < 16)
  | .matchVerb p => decide (p < 16)
  | .dispatchVerb p => decide (p < 16)
  | .gotoVerb p => decide (p < 16)
  | .advance p => decide (p < 16)
  | .advanceField p => decide (p < 16)
  | .advanceIf p => decide (p < 16)
  | .markVerb p => decide (p < 16)
  | .keepCur p => decide (p < 16)
  | .hashVerb p => decide (p < 16)
  | .setnoun p => decide (p < 16)
  | .acceptVerb p => decide (p < 16)
  | .dropVerb p => decide (p < 16)
  | .puntVerb p => decide (p < 16)
  | .forwarding p members => decide (p < 16) && members.all (fun x => decide (x < 2 ^ 16))
  | .agingSweep => true
  | .lockExpired code _ => decide (code < 64)
  | .tblRead who _ => reqOk who
  | .tblWrite who _ => reqOk who
  | .tblInsert who _ => reqOk who
  | .tblDelete who _ => reqOk who
  | .tblSearch who _ => reqOk who
  | .uplGrpModeWrite who g _ => reqOk who && decide (g < 32)
  | .uplinkLinkUp u => decide (u < 256)
  | .uplinkFrameReceive u ofs _ _ => decide (u < 256) && decide (ofs < 15625)
  | .pfcReceive u _ vec times => decide (u < 256) && decide (vec < 256) && times.all (fun t => decide (t < 65536))
  | .bufferFree h name island => decide (h < 2 ^ 32) && decide (name < 2 ^ 32) && decide (island < 342)
  | .bpmFreeWrite who h name => reqOk who && decide (h < 2 ^ 32) && decide (name < 2 ^ 32)
  | .deepHeadFetchDone _ => true
  | .offsetSample who b value => reqOk who && decide (b < 8) && decide (value < 2 ^ 64)
  | .holdTimeout b => decide (b < 8)
  | .forceStepOffset who b confirm ofs =>
    reqOk who && decide (b < 8) && decide (confirm < 2 ^ 16) && decide (ofs < 15625)
  | .forceStepAbsolute who b confirm ofs =>
    reqOk who && decide (b < 8) && decide (confirm < 2 ^ 16) && decide (ofs < 15625)
  | .tbSet who b value ofs => reqOk who && decide (b < 8) && decide (value < 2 ^ 128) && decide (ofs < 15625)
  | .ppsInEdge ofs => decide (ofs < 15625)
  | .todInMessage _ ofs => decide (ofs < 15625)
  | .ppsStuck => true
  | .ppsOutPulse ofs => decide (ofs < 15625)
  | .captureEdge i _ ofs => decide (i < 8) && decide (ofs < 15625)
  | .captureStuck i ofs => decide (i < 8) && decide (ofs < 15625)
  | .capFifoRead who i => reqOk who && decide (i < 8)
  | .actionCommit who n value ofs => reqOk who && decide (n < 64) && decide (value < 2 ^ 256) && decide (ofs < 15625)
  | .actionPulse n ofs => decide (n < 64) && decide (ofs < 15625)
  | .trigPulseEnd n => decide (n < 64)
  | .actionGclInstall n ofs => decide (n < 64) && decide (ofs < 15625)
  | .actionKeySwitch n ofs => decide (n < 64) && decide (ofs < 15625)
  | .actionTransit n ofs => decide (n < 64) && decide (ofs < 15625)
  | .actionDmaStart n ofs => decide (n < 64) && decide (ofs < 15625)
  | .actionSnapshot n ofs => decide (n < 64) && decide (ofs < 15625)
  | .actionEclipse n ofs => decide (n < 64) && decide (ofs < 15625)
  | .c50TimeLatchArm who c _ => reqOk who && decide (c < 256)
  | .ringProdWrite who r value => reqOk who && decide (r < 16) && decide (value < 2 ^ 32)
  | .flashWrite r slot ofs host len =>
    decide (r < 16) && decide (slot < 256) && decide (ofs < 2 ^ 32) && decide (host < 2 ^ 64) && decide (len < 2 ^ 32)
  | .flashErase r slot ofs len =>
    decide (r < 16) && decide (slot < 256) && decide (ofs < 2 ^ 32) && decide (len < 2 ^ 32)
  | .flashRead r slot ofs host len =>
    decide (r < 16) && decide (slot < 256) && decide (ofs < 2 ^ 32) && decide (host < 2 ^ 64) && decide (len < 2 ^ 32)
  | .termAuthorize r serial decision slot part _ =>
    decide (r < 16) && decide (serial < 2 ^ 64) && decide (decision < 256) && decide (slot < 2 ^ 16) && decide (part < 256)
  | .termTransit r tid w _ ofs => decide (r < 16) && decide (tid < 2 ^ 15) && decide (w < 4) && decide (ofs < 15625)
  | .termState r tid dst det => decide (r < 16) && decide (tid < 2 ^ 15) && decide (dst < 256) && decide (det < 256)
  | .termMsg r tid typ _ body =>
    decide (r < 16) && decide (tid < 2 ^ 15) && decide (typ < 256) && decide (body.length ≤ 48)
  | .allocSet r => decide (r < 16)
  | .queueSet r => decide (r < 16)
  | .termNodeSet r => decide (r < 16)
  | .tmplApply r _ => decide (r < 16)
  | .ruleSet r => decide (r < 16)
  | .keyRotate r tid dir => decide (r < 16) && decide (tid < 2 ^ 15) && decide (dir < 256)
  | .keyErase r tid dir => decide (r < 16) && decide (tid < 2 ^ 15) && decide (dir < 256)
  | .keyCfg r ch _ => decide (r < 16) && decide (ch < 256)
  | .stage r src => decide (r < 16) && decide (src < 4)
  | .apply r _ _ => decide (r < 16)
  | .abandon r => decide (r < 16)
  | .commit r => decide (r < 16)
  | .login r role _ _ => decide (r < 16) && decide (role < 256)
  | .logout r => decide (r < 16)
  | .secStatus r => decide (r < 16)
  | .zeroize r => decide (r < 16)
  | .selfTest r fail => decide (r < 16) && decide (fail ≤ 12)
  | .coEnrol r _ _ => decide (r < 16)
  | .coCredSet r slot _ => decide (r < 16) && decide (slot < 256)
  | .userCredSet r part _ => decide (r < 16) && decide (part < 256)
  | .imgKeySet r _ _ => decide (r < 16)
  | .ktkEstablish r part _ => decide (r < 16) && decide (part < 256)
  | .attest r _ => decide (r < 16)
  | .identityCertSet r _ => decide (r < 16)
  | .pairProvision r _ _ => decide (r < 16)
  | .unpair r => decide (r < 16)
  | .fiUnlock r => decide (r < 16)
  | .fiLock r => decide (r < 16)
  | .random r n => decide (r < 16) && decide (n < 2 ^ 32)
  | .badOpcode r => decide (r < 16)
  | .ringResolve who r => reqOk who && decide (r < 16)
  | .hostRingWrite => true
  | .dmaStart who d => reqOk who && decide (d < 32)
  | .dmaAbort who d => reqOk who && decide (d < 32)
  | .moveInstr d _ ofs members =>
    decide (d < 32) && decide (ofs < 15625) && members.all (fun x => decide (x < 2 ^ 16))
  | .loop d => decide (d < 32)
  | .waitRequest d => decide (d < 32)
  | .waitReg d ofs => decide (d < 32) && decide (ofs < 15625)
  | .waitTime d ofs => decide (d < 32) && decide (ofs < 15625)
  | .waitSatisfied d ofs => decide (d < 32) && decide (ofs < 15625)
  | .waitTimeout d => decide (d < 32)
  | .signalInterrupt d => decide (d < 32)
  | .signalFlag d ofs => decide (d < 32) && decide (ofs < 15625)
  | .signalDoorbell d => decide (d < 32)
  | .fence d => decide (d < 32)
  | .fenceComplete d => decide (d < 32)
  | .endProg d => decide (d < 32)
  | .dmaBeatError d err _ ofs => decide (d < 32) && decide (err < 16) && decide (ofs < 15625)
  | .dmaReqRaise who _ => reqOk who
  | .dmaReqEdge n _ => decide (n < 8)
  | .prtStateReleased who expect => reqOk who && decide (expect < 256)
  | .prtStateNotReady who expect => reqOk who && decide (expect < 256)
  | .prtAlive who => reqOk who
  | .aliveTimeout => true
  | .tokenClaim _ => true
  | .claimWindowEnd ofs => decide (ofs < 15625)
  | .peerHbLost => true
  | .tokenStuck _ => true
  | .plkLaneSync lane _ _ => decide (lane < 4)
  | .helloMsg _ => true
  | .digestMsg _ => true
  | .keyMsg _ _ => true
  | .stateMsg _ => true
  | .stateMessageSend => true
  | .revertWtrExpire => true
  | .snapshot who _ ofs => reqOk who && decide (ofs < 15625)
  | .freeze who _ ofs => reqOk who && decide (ofs < 15625)
  | .pcValueWrite who n value => reqOk who && decide (n < 256) && decide (value < 2 ^ 64)
  | .traceInject who value => reqOk who && decide (value < 2 ^ 64)
  | .kill who _ => reqOk who
  | .fiArm who kind i value =>
    reqOk who && decide (kind < 5) && decide (i < (if kind = 4 then 34 else 256)) && decide (value < 2 ^ 128)
  | .fiHoldRelease kind i => decide (kind < 5) && decide (i < (if kind = 4 then 34 else 256))
  | .railPoll xs => decide (xs.length ≤ 16)
  | .pmbAlert ws => decide (ws.length ≤ 16)
  | .pmbLost r => decide (r < 16)
  | .avsCheck k pass => decide (1 ≤ k ∧ k < 5) && decide (pass < 32)
  | .pwrDvfsWrite who k _ => reqOk who && decide (k < 5)
  | .voutReached k => decide (k < 5)
  | .pwrGateUplWrite who _ => reqOk who
  | .sensorRead n temp => decide (n < 96) && decide (-32768 ≤ temp ∧ temp < 32768)
  | .throttleClear n => decide (n < 96)
  | .capEvaluation => true
  | .sidebandInputChange t _ _ => decide (t < 64)
  | .modulePoll => true
  | .tokenLineChange _ => true
  | .peerHbEdge ofs => decide (ofs < 15625)
  | .supplyRemoval i => decide (i < 14)
  | .pcieLinkUp => true
  | .pcieLinkDown => true
  | .uplinkLinkDown u => decide (u < 256)
  | .uplinkFrameTransmit u ofs => decide (u < 256) && decide (ofs < 15625)
  | .pauseTimerExpire u mask => decide (u < 256) && decide (mask < 256)
  | .functionLevelReset fn => decide (fn < 65)
  | .moveComplete d => decide (d < 32)

/-- A well-formed command. -/
abbrev WellFormed (i : Instr) : Prop := i.wellFormed = true

end Sys2Proof
end

