-- ==== Sys2Proof/Tests/Slice0.lean ====
section
/-! SUPPORT. Tests of the model: ill-formed commands that the check refuses; for each statement with hypotheses a state and operands that
meet them, clause by clause; and small tests of single steps. -/
namespace Sys2Proof.Tests
open Sys2Proof Sys2Proof.Machine

set_option maxRecDepth 20000
set_option Elab.async false
set_option exponentiation.threshold 600
/-! ## States for the witnesses -/

/-- A device in phase P6, PERST_N high, its host link up and firmware alive. -/
def up : State :=
  setIsl (wf { State.reset with boot := { resetRun := 0, perstLow := false, linkUp := true, fwAlive := true } } Adr.glbBootStat 31 28 6)
    340 islRun
/-- The device that is up with every tree started, so that no output is held. -/
def live : State := wf up Adr.glbBootStat 31 28 7
/-- A state with a field of a register set. -/
def setF (s : State) (a hi lo v : Nat) : State := wf s a hi lo v
/-- The state with command op of ring 0, its other header words 0 but EXPECT, COUNT and ADDR, waiting at CONS. -/
def withCmd (s : State) (op expect count addr : Nat) : State :=
  let s := wf (wb s (Adr.mbxRingCfg 0) 31 true) (Adr.mbxRingIdx 0) 8 0 1
  let a := slotAddr 0 0
  let s := wr s a (BitVec.ofNat 32 (expect * 2 ^ 24 + op))
  let s := wr (wr s (a + 0xC) (BitVec.ofNat 32 count)) (a + 0x10) (BitVec.ofNat 32 addr)
  wr s (a + 0x3C) (BitVec.ofNat 32 (crc32c (regBytes s a 15)))
/-- The same on a device that is up. -/
def cmd (op : Nat) : State := withCmd up op 0 0 0
/-- The first state of an outcome; every command answers one. -/
def after (o : Host.Outcome State Fault Refusal) : State := match o with | .next s => s | _ => State.reset
theorem canon_up : Canon up := by unfold Canon; decide
theorem canon_wr (s : State) (h : Canon s) (a : Nat) (w : Word) : Canon (wr s a w) := ⟨mwf_mset _ _ _ _ h.1, h.2⟩
/-- The plan record of an enabled tree with 512 slots, wavelengths 0 to 2 N200, 3 C50, EQRT 400,000 ns. -/
def treeRec : Nat := 2 ^ 143 + 4 * 2 ^ 136 + 2 ^ 150 + 400000 * 2 ^ 160
/-- A device that is up with tree 0 planned and its four channels in RUN. -/
def plant : State :=
  let s : State := { up with img := { up.img with treeRec := [(0, treeRec)] } }
  [0, 1, 2, 3].foldl (fun s c => setF s (Adr.chnState c) 7 0 chRun) (setF s (Adr.treState 0) 7 0 2)
/-- The plant with a terminal in a state. -/
def term (s : State) (tid st : Nat) : State := setF s (termAddr tid) 7 0 st
/-- A command of ring 0 on a state, as a record the ring takes: opcode, EXPECT, COUNT, ADDR. -/
def onRing (s : State) (op : Nat) : State := withCmd s op 0 0 0
/-! ## Ill-formed commands -/

/-- Every command of a list is refused by the check. -/
def refusedAll (l : List Instr) : Bool := l.all fun i => !i.wellFormed
/-- Every command of a list passes it. -/
def acceptedAll (l : List Instr) : Bool := l.all Instr.wellFormed

theorem test_illFormed_0 : refusedAll [
    .registerWrite (.vf 64) 0 0 0, .registerWrite .pf (2 ^ 28) 0 0, .registerWrite .pf 0 0 15625, .badAccess (.vf 64) 0 0 false,
    .badAccess .pf (2 ^ 28) 0 false, .badAccess .pf 0 4097 false, .lowWordRead (.vf 64) 0 0, .lowWordRead .pf (2 ^ 28) 0,
    .lowWordRead .pf 0 15625, .glbBarrierRead (.vf 64), .barrierReturn (.vf 64), .barrierTimeout (.vf 64) 0,
    .glbWrstatRead (.vf 64), .pendClear 11 0, .flitReceive 8 0 0 0 [] false, .flitReceive 0 2 0 0 [] false,
    .flitReceive 0 0 3 0 [] false, .flitReceive 0 0 0 64 [] false, .retrainComplete 8 false, .creditReturn 8 0 0 0,
    .creditReturn 0 2 0 0, .creditReturn 0 0 3 0, .creditReturn 0 0 0 64, .islandLost 342 0, .clauseIslandEntry 342 0 {} 0,
    .clauseIslandEntry 0 342 {} 0, .clauseIslandEntry 0 0 {} (2 ^ 32), .ownerRequest (.vf 64) 0, .ownerFlip 12 0 0,
    .ownerFlip 0 64 0, .ownerFlip 0 0 342, .ownerHandoverDone 12 0 false, .ownerHandoverDone 0 64 false, .quiesceTimeout 12 0,
    .quiesceTimeout 0 64, .hostWdWrite (.vf 64) 0, .imgCtrlStage (.vf 64) 0, .imgCtrlStage .pf 4,
    .imgCtrlApply (.vf 64) false false, .imgCtrlAbandon (.vf 64)] = true := by decide
theorem test_illFormed_1 : refusedAll [
    .imgCtrlCommit (.vf 64), .applyTreeTimeout 64, .grammarSwitchMarker 16, .supplyStart 14, .supplyValid 14,
    .supplyOutOfRange 14, .porNRelease 4, .p2Complete 13, .treeStartTimeout 64, .glbResetCtrlCold (.vf 64) 0,
    .glbResetCtrlCold .pf (2 ^ 16), .glbResetCtrlWarm (.vf 64) 0, .glbResetCtrlWarm .pf (2 ^ 16), .warmReset 4,
    .treeReset (.vf 64) 0 0 0, .treeReset .pf 64 0 0, .treeReset .pf 0 256 0, .chnStateReset (.vf 64) 0 0,
    .chnStateReset .pf 256 0, .chnStateReset .pf 0 256, .channelIslandResetDone 256, .channelLaneTrained 256, .channelRun 256,
    .channelStartTimeout 256, .chnStateEclipseEntering (.vf 64) 0 0, .chnStateEclipseEntering .pf 256 0,
    .chnStateEclipseEntering .pf 0 256, .chnStateWaking (.vf 64) 0 0, .chnStateWaking .pf 256 0, .chnStateWaking .pf 0 256,
    .chnCrsWrite (.vf 64) 0 0 0, .chnCrsWrite .pf 256 0 0, .chnCrsWrite .pf 0 64 0, .chnCrsWrite .pf 0 0 (2 ^ 64),
    .burstStart 256, .burstReceive 256 { hdr := { word := 0 } }, .burstReceive 0 { hdr := { word := 2 ^ 128 } },
    .tlrInvalidate (.vf 64) 0 0, .tlrInvalidate .pf 256 0, .tlrInvalidate .pf 0 512] = true := by decide
theorem test_illFormed_2 : refusedAll [
    .tlrForceCold (.vf 64) 0 0, .tlrForceCold .pf 256 0, .tlrForceCold .pf 0 512, .tlrPin (.vf 64) 0 0, .tlrPin .pf 256 0,
    .tlrPin .pf 0 512, .tlrUnpin (.vf 64) 0 0, .tlrUnpin .pf 256 0, .tlrUnpin .pf 0 512, .tlrInvalidateAll (.vf 64) 0,
    .tlrInvalidateAll .pf 256, .pmBinRollover 256 false 0, .pmDataRead (.vf 64) 0, .pmDataRead .pf 256,
    .ploamReceive 256 0 0 0 0 0 [], .ploamReceive 0 (2 ^ 15) 0 0 0 0 [], .ploamReceive 0 0 256 0 0 0 [],
    .ploamReceive 0 0 0 (2 ^ 64) 0 0 [], .comaEpoch 256, .comaCandidatesPosted 256 [],
    .registrationBurst 256 (.good 0) { word := 0 } [] 0 0 false, .registrationBurst 0 (.good 0) { word := 2 ^ 128 } [] 0 0 false,
    .quietWindowDue 256, .qwNow (.vf 64) 0 0, .qwNow .pf 64 0, .tcmReceive 256 0 (List.replicate 48 0),
    .tcmReceive 0 (2 ^ 15) (List.replicate 48 0), .tcmReceive 0 0 [], .tcmAckReceive 256 0 (List.replicate 48 0),
    .tcmAckReceive 0 (2 ^ 15) (List.replicate 48 0), .tcmAckReceive 0 0 [], .tcmAckTimeout (2 ^ 15), .chnTcmTx (.vf 64) 0 0,
    .chnTcmTx .pf 256 0, .authTimeout (2 ^ 15), .lostTimeout (2 ^ 15), .termWriteFree (.vf 64) 0 0,
    .termWriteFree .pf (2 ^ 15) 0, .termWriteFree .pf 0 256, .termWriteAuthWait (.vf 64) 0 0] = true := by decide
theorem test_illFormed_3 : refusedAll [
    .termWriteAuthWait .pf (2 ^ 15) 0, .termWriteAuthWait .pf 0 256, .termWriteRanging (.vf 64) 0 0,
    .termWriteRanging .pf (2 ^ 15) 0, .termWriteRanging .pf 0 256, .termWriteKeying (.vf 64) 0 0,
    .termWriteKeying .pf (2 ^ 15) 0, .termWriteKeying .pf 0 256, .termWriteActive (.vf 64) 0 0, .termWriteActive .pf (2 ^ 15) 0,
    .termWriteActive .pf 0 256, .termWriteDisabled (.vf 64) 0 0 0, .termWriteDisabled .pf (2 ^ 15) 0 0,
    .termWriteDisabled .pf 0 256 0, .termWriteDisabled .pf 0 0 256, .termWriteOffline (.vf 64) 0 0,
    .termWriteOffline .pf (2 ^ 15) 0, .termWriteOffline .pf 0 256, .treTermInfoWrite (.vf 64) 0 0,
    .treTermInfoWrite .pf (2 ^ 15) 0, .treTermInfoWrite .pf 0 (2 ^ 128), .rogueStart (.vf 64) 0 0, .rogueStart .pf 64 0,
    .rogueClear (.vf 64) 0 0, .rogueClear .pf 64 0, .probeWindowEnd 64 false, .rogueDisableRepeat 64, .grantBuild 256,
    .chnGeSysreq (.vf 64) 0 0, .chnGeSysreq .pf 256 0, .chnGeSysreq .pf 0 (2 ^ 128), .geRingWrIdx (.vf 64) 0 0,
    .geRingWrIdx .pf 256 0, .geRingWrIdx .pf 0 (2 ^ 32), .tblwWrite (.vf 64) 0 0, .tblwWrite .pf (2 ^ 30) 0, .frameEnqueue 16,
    .schedulerSelect 256 0, .schedulerSelect 0 (2 ^ 20), .gateEntryChange 512] = true := by decide
theorem test_illFormed_4 : refusedAll [
    .gclInstall (.vf 64) 0, .gclInstall .pf 512, .gclDisable (.vf 64) 0, .gclDisable .pf 512, .gclStart 512, .samplerPeriod 8 0,
    .transitReqStart (.vf 64) 0 0 0, .transitReqStart .pf 64 0 0, .transitReqStart .pf 0 (2 ^ 128) 0,
    .transitReqStart .pf 0 0 15625, .transitReqCancel (.vf 64) 0 0 0, .transitReqCancel .pf 64 0 0,
    .transitReqCancel .pf 0 (2 ^ 128) 0, .transitReqCancel .pf 0 0 15625, .transitSwitch (2 ^ 15), .transitDsKeysMoved (2 ^ 15),
    .transitUsMove (2 ^ 15), .eclipseEnter 256, .eclTimeout 256, .wakeComplete 256 0, .wakeTimeout 256, .foldMinute 64 0 0,
    .foldMinute 0 101 0, .foldMinute 0 0 101, .balanceCheck 64 [] [], .keyInstall (.vf 64) 0 0, .keyInstall .pf 256 0,
    .keyInstall .pf 0 (2 ^ 256 * 2 ^ 256), .keySlotErase (.vf 64) 0 0 0, .keySlotErase .pf 256 0 0, .keySlotErase .pf 0 2048 0,
    .keySlotErase .pf 0 0 256, .keySlotActivate (.vf 64) 0 0 0, .keySlotActivate .pf 256 0 0, .keySlotActivate .pf 0 2048 0,
    .keySlotActivate .pf 0 0 256, .keyRetireExpire 256 0, .keyRetireExpire 0 2048, .coreCheck 256 0 false, .coreCheck 0 4 false] = true := by decide
theorem test_illFormed_5 : refusedAll [
    .secChallengeRead (.vf 64), .sessionTimeout 65, .loginLockoutExpire 65 0, .loginLockoutExpire 0 4, .conditionalTestFail 0,
    .checkpointWrite 2, .tamperTrip 8, .secZeroizeWrite (.vf 64) 0, .pipelineAdmit 16, .nop 16, .extractVerb 16, .matchVerb 16,
    .dispatchVerb 16, .gotoVerb 16, .advance 16, .advanceField 16, .advanceIf 16, .markVerb 16, .keepCur 16, .hashVerb 16,
    .setnoun 16, .acceptVerb 16, .dropVerb 16, .puntVerb 16, .forwarding 16 [], .forwarding 0 [65536], .lockExpired 64 0,
    .tblRead (.vf 64) 0, .tblWrite (.vf 64) 0, .tblInsert (.vf 64) 0, .tblDelete (.vf 64) 0, .tblSearch (.vf 64) 0,
    .uplGrpModeWrite (.vf 64) 0 0, .uplGrpModeWrite .pf 32 0, .uplinkLinkUp 256, .uplinkFrameReceive 256 0 [] 0,
    .uplinkFrameReceive 0 15625 [] 0, .pfcReceive 256 false 0 [], .pfcReceive 0 false 256 [], .pfcReceive 0 false 0 [65536]] = true := by decide
theorem test_illFormed_6 : refusedAll [
    .bufferFree (2 ^ 32) 0 0, .bufferFree 0 (2 ^ 32) 0, .bufferFree 0 0 342, .bpmFreeWrite (.vf 64) 0 0,
    .bpmFreeWrite .pf (2 ^ 32) 0, .bpmFreeWrite .pf 0 (2 ^ 32), .offsetSample (.vf 64) 0 0, .offsetSample .pf 8 0,
    .offsetSample .pf 0 (2 ^ 64), .holdTimeout 8, .forceStepOffset (.vf 64) 0 0 0, .forceStepOffset .pf 8 0 0,
    .forceStepOffset .pf 0 (2 ^ 16) 0, .forceStepOffset .pf 0 0 15625, .forceStepAbsolute (.vf 64) 0 0 0,
    .forceStepAbsolute .pf 8 0 0, .forceStepAbsolute .pf 0 (2 ^ 16) 0, .forceStepAbsolute .pf 0 0 15625, .tbSet (.vf 64) 0 0 0,
    .tbSet .pf 8 0 0, .tbSet .pf 0 (2 ^ 128) 0, .tbSet .pf 0 0 15625, .ppsInEdge 15625, .todInMessage [] 15625,
    .ppsOutPulse 15625, .captureEdge 8 false 0, .captureEdge 0 false 15625, .captureStuck 8 0, .captureStuck 0 15625,
    .capFifoRead (.vf 64) 0, .capFifoRead .pf 8, .actionCommit (.vf 64) 0 0 0, .actionCommit .pf 64 0 0,
    .actionCommit .pf 0 (2 ^ 256) 0, .actionCommit .pf 0 0 15625, .actionPulse 64 0, .actionPulse 0 15625, .trigPulseEnd 64,
    .actionGclInstall 64 0, .actionGclInstall 0 15625] = true := by decide
theorem test_illFormed_7 : refusedAll [
    .actionKeySwitch 64 0, .actionKeySwitch 0 15625, .actionTransit 64 0, .actionTransit 0 15625, .actionDmaStart 64 0,
    .actionDmaStart 0 15625, .actionSnapshot 64 0, .actionSnapshot 0 15625, .actionEclipse 64 0, .actionEclipse 0 15625,
    .c50TimeLatchArm (.vf 64) 0 0, .c50TimeLatchArm .pf 256 0, .ringProdWrite (.vf 64) 0 0, .ringProdWrite .pf 16 0,
    .ringProdWrite .pf 0 (2 ^ 32), .flashWrite 16 0 0 0 0, .flashWrite 0 256 0 0 0, .flashWrite 0 0 (2 ^ 32) 0 0,
    .flashWrite 0 0 0 (2 ^ 64) 0, .flashWrite 0 0 0 0 (2 ^ 32), .flashErase 16 0 0 0, .flashErase 0 256 0 0,
    .flashErase 0 0 (2 ^ 32) 0, .flashErase 0 0 0 (2 ^ 32), .flashRead 16 0 0 0 0, .flashRead 0 256 0 0 0,
    .flashRead 0 0 (2 ^ 32) 0 0, .flashRead 0 0 0 (2 ^ 64) 0, .flashRead 0 0 0 0 (2 ^ 32), .termAuthorize 16 0 0 0 0 [],
    .termAuthorize 0 (2 ^ 64) 0 0 0 [], .termAuthorize 0 0 256 0 0 [], .termAuthorize 0 0 0 (2 ^ 16) 0 [],
    .termAuthorize 0 0 0 0 256 [], .termTransit 16 0 0 0 0, .termTransit 0 (2 ^ 15) 0 0 0, .termTransit 0 0 4 0 0,
    .termTransit 0 0 0 0 15625, .termState 16 0 0 0, .termState 0 (2 ^ 15) 0 0] = true := by decide
theorem test_illFormed_8 : refusedAll [
    .termState 0 0 256 0, .termState 0 0 0 256, .termMsg 16 0 0 false [], .termMsg 0 (2 ^ 15) 0 false [],
    .termMsg 0 0 256 false [], .termMsg 0 0 0 false (List.replicate 49 0), .allocSet 16, .queueSet 16, .termNodeSet 16,
    .tmplApply 16 [], .ruleSet 16, .keyRotate 16 0 0, .keyRotate 0 (2 ^ 15) 0, .keyRotate 0 0 256, .keyErase 16 0 0,
    .keyErase 0 (2 ^ 15) 0, .keyErase 0 0 256, .keyCfg 16 0 0, .keyCfg 0 256 0, .stage 16 0, .stage 0 4, .apply 16 false false,
    .abandon 16, .commit 16, .login 16 0 [] [], .login 0 256 [] [], .logout 16, .secStatus 16, .zeroize 16, .selfTest 16 0,
    .selfTest 0 13, .coEnrol 16 [] 0, .coCredSet 16 0 [], .coCredSet 0 256 [], .userCredSet 16 0 [], .userCredSet 0 256 [],
    .imgKeySet 16 [] [], .ktkEstablish 16 0 [], .ktkEstablish 0 256 [], .attest 16 []] = true := by decide
theorem test_illFormed_9 : refusedAll [
    .identityCertSet 16 0, .pairProvision 16 [] none, .unpair 16, .fiUnlock 16, .fiLock 16, .random 16 0, .random 0 (2 ^ 32),
    .badOpcode 16, .ringResolve (.vf 64) 0, .ringResolve .pf 16, .dmaStart (.vf 64) 0, .dmaStart .pf 32, .dmaAbort (.vf 64) 0,
    .dmaAbort .pf 32, .moveInstr 32 0 0 [], .moveInstr 0 0 15625 [], .moveInstr 0 0 0 [65536], .loop 32, .waitRequest 32,
    .waitReg 32 0, .waitReg 0 15625, .waitTime 32 0, .waitTime 0 15625, .waitSatisfied 32 0, .waitSatisfied 0 15625,
    .waitTimeout 32, .signalInterrupt 32, .signalFlag 32 0, .signalFlag 0 15625, .signalDoorbell 32, .fence 32,
    .fenceComplete 32, .endProg 32, .dmaBeatError 32 0 0 0, .dmaBeatError 0 16 0 0, .dmaBeatError 0 0 0 15625,
    .dmaReqRaise (.vf 64) 0, .dmaReqEdge 8 0, .prtStateReleased (.vf 64) 0, .prtStateReleased .pf 256] = true := by decide
theorem test_illFormed_10 : refusedAll [
    .prtStateNotReady (.vf 64) 0, .prtStateNotReady .pf 256, .prtAlive (.vf 64), .claimWindowEnd 15625,
    .plkLaneSync 4 false false, .snapshot (.vf 64) 0 0, .snapshot .pf 0 15625, .freeze (.vf 64) 0 0, .freeze .pf 0 15625,
    .pcValueWrite (.vf 64) 0 0, .pcValueWrite .pf 256 0, .pcValueWrite .pf 0 (2 ^ 64), .traceInject (.vf 64) 0,
    .traceInject .pf (2 ^ 64), .kill (.vf 64) 0, .fiArm (.vf 64) 0 0 0, .fiArm .pf 5 0 0, .fiArm .pf 0 256 0,
    .fiArm .pf 0 0 (2 ^ 128), .fiHoldRelease 5 0, .fiHoldRelease 0 256, .railPoll (List.replicate 17 none),
    .pmbAlert (List.replicate 17 none), .pmbLost 16, .avsCheck 0 0, .avsCheck 1 32, .pwrDvfsWrite (.vf 64) 0 0,
    .pwrDvfsWrite .pf 5 0, .voutReached 5, .pwrGateUplWrite (.vf 64) 0, .sensorRead 96 0, .sensorRead 0 32768, .throttleClear 96,
    .sidebandInputChange 64 false false, .peerHbEdge 15625, .supplyRemoval 14, .uplinkLinkDown 256, .uplinkFrameTransmit 256 0,
    .uplinkFrameTransmit 0 15625, .pauseTimerExpire 256 0] = true := by decide
theorem test_illFormed_11 : refusedAll [
    .pauseTimerExpire 0 256, .functionLevelReset 65, .moveComplete 32] = true := by decide
theorem test_wellFormed_0 : acceptedAll [
    .registerWrite .pf 0 0 0, .badAccess .pf 0 0 false, .lowWordRead .pf 0 0, .glbBarrierRead .pf, .barrierReturn .pf,
    .barrierTimeout .pf 0, .glbWrstatRead .pf, .pendClear 0 0, .flitReceive 0 0 0 0 [] false, .retrainComplete 0 false,
    .creditReturn 0 0 0 0, .islandLost 0 0, .sramError (.single 0), .scrubPass, .clauseIslandEntry 0 0 {} 0, .ownerRequest .pf 0,
    .ownerFlip 0 0 0, .ownerHandoverDone 0 0 false, .quiesceTimeout 0 0, .hostWdWrite .pf 0, .hostWdExpire, .imgCtrlStage .pf 0,
    .imgCtrlApply .pf false false, .imgCtrlAbandon .pf, .imgCtrlCommit .pf, .imageFetchDone false, .applyTransitTimeout,
    .applyTreeTimeout 0, .grammarSwitchMarker 0, .grammarSwitchComplete, .supplyStart 0, .supplyValid 0, .supplyGapTimeout,
    .supplyOutOfRange 0, .porNAssert, .porNRelease 0, .perstNAssert, .perstNRelease, .p0Complete false, .p1Complete false false] = true := by decide
theorem test_wellFormed_1 : acceptedAll [
    .p2Complete 0, .p4Complete none [], .fwStartTimeout, .p5Complete, .linkTrainTimeout, .treeStartTimeout 0,
    .glbResetCtrlCold .pf 0, .glbResetCtrlWarm .pf 0, .coldReset, .warmReset 0, .treeReset .pf 0 0 0, .chnStateReset .pf 0 0,
    .channelIslandResetDone 0, .channelLaneTrained 0, .channelRun 0, .channelStartTimeout 0, .chnStateEclipseEntering .pf 0 0,
    .chnStateWaking .pf 0 0, .cycleStart [] [], .chnCrsWrite .pf 0 0 0, .burstStart 0, .burstReceive 0 { hdr := { word := 0 } },
    .tlrInvalidate .pf 0 0, .tlrForceCold .pf 0 0, .tlrPin .pf 0 0, .tlrUnpin .pf 0 0, .tlrInvalidateAll .pf 0,
    .pmBinRollover 0 false 0, .pmDataRead .pf 0, .ploamReceive 0 0 0 0 0 0 [], .comaEpoch 0, .comaCandidatesPosted 0 [],
    .registrationBurst 0 (.good 0) { word := 0 } [] 0 0 false, .quietWindowDue 0, .qwNow .pf 0 0,
    .tcmReceive 0 0 (List.replicate 48 0), .tcmAckReceive 0 0 (List.replicate 48 0), .tcmAckTimeout 0, .chnTcmTx .pf 0 0,
    .authTimeout 0] = true := by decide
theorem test_wellFormed_2 : acceptedAll [
    .lostTimeout 0, .termWriteFree .pf 0 0, .termWriteAuthWait .pf 0 0, .termWriteRanging .pf 0 0, .termWriteKeying .pf 0 0,
    .termWriteActive .pf 0 0, .termWriteDisabled .pf 0 0 0, .termWriteOffline .pf 0 0, .treTermInfoWrite .pf 0 0,
    .rogueStart .pf 0 0, .rogueClear .pf 0 0, .probeWindowEnd 0 false, .rogueDisableRepeat 0, .grantBuild 0,
    .chnGeSysreq .pf 0 0, .geRingWrIdx .pf 0 0, .tblwWrite .pf 0 0, .frameEnqueue 0, .schedulerSelect 0 0, .gateEntryChange 0,
    .gclInstall .pf 0, .gclDisable .pf 0, .gclStart 0, .samplerPeriod 0 0, .transitReqStart .pf 0 0 0,
    .transitReqCancel .pf 0 0 0, .transitSwitch 0, .transitDsKeysMoved 0, .transitUsMove 0, .eclipseEnter 0, .eclTimeout 0,
    .wakeComplete 0 0, .wakeTimeout 0, .foldMinute 0 0 0, .balanceCheck 0 [] [], .keyInstall .pf 0 0, .keySlotErase .pf 0 0 0,
    .keySlotActivate .pf 0 0 0, .keyRetireExpire 0 0, .coreCheck 0 0 false] = true := by decide
theorem test_wellFormed_3 : acceptedAll [
    .secChallengeRead .pf, .sessionTimeout 0, .loginLockoutExpire 0 0, .drbgReseed, .conditionalTestFail 1, .checkpointWrite 0,
    .tamperTrip 0, .secZeroizeWrite .pf 0, .keyWrappingAreaErased, .pairProvisionTimeout, .pipelineAdmit 0, .nop 0,
    .extractVerb 0, .matchVerb 0, .dispatchVerb 0, .gotoVerb 0, .advance 0, .advanceField 0, .advanceIf 0, .markVerb 0,
    .keepCur 0, .hashVerb 0, .setnoun 0, .acceptVerb 0, .dropVerb 0, .puntVerb 0, .forwarding 0 [], .agingSweep,
    .lockExpired 0 0, .tblRead .pf 0, .tblWrite .pf 0, .tblInsert .pf 0, .tblDelete .pf 0, .tblSearch .pf 0,
    .uplGrpModeWrite .pf 0 0, .uplinkLinkUp 0, .uplinkFrameReceive 0 0 [] 0, .pfcReceive 0 false 0 [], .bufferFree 0 0 0,
    .bpmFreeWrite .pf 0 0] = true := by decide
theorem test_wellFormed_4 : acceptedAll [
    .deepHeadFetchDone 0, .offsetSample .pf 0 0, .holdTimeout 0, .forceStepOffset .pf 0 0 0, .forceStepAbsolute .pf 0 0 0,
    .tbSet .pf 0 0 0, .ppsInEdge 0, .todInMessage [] 0, .ppsStuck, .ppsOutPulse 0, .captureEdge 0 false 0, .captureStuck 0 0,
    .capFifoRead .pf 0, .actionCommit .pf 0 0 0, .actionPulse 0 0, .trigPulseEnd 0, .actionGclInstall 0 0, .actionKeySwitch 0 0,
    .actionTransit 0 0, .actionDmaStart 0 0, .actionSnapshot 0 0, .actionEclipse 0 0, .c50TimeLatchArm .pf 0 0,
    .ringProdWrite .pf 0 0, .flashWrite 0 0 0 0 0, .flashErase 0 0 0 0, .flashRead 0 0 0 0 0, .termAuthorize 0 0 0 0 0 [],
    .termTransit 0 0 0 0 0, .termState 0 0 0 0, .termMsg 0 0 0 false [], .allocSet 0, .queueSet 0, .termNodeSet 0,
    .tmplApply 0 [], .ruleSet 0, .keyRotate 0 0 0, .keyErase 0 0 0, .keyCfg 0 0 0, .stage 0 0] = true := by decide
theorem test_wellFormed_5 : acceptedAll [
    .apply 0 false false, .abandon 0, .commit 0, .login 0 0 [] [], .logout 0, .secStatus 0, .zeroize 0, .selfTest 0 0,
    .coEnrol 0 [] 0, .coCredSet 0 0 [], .userCredSet 0 0 [], .imgKeySet 0 [] [], .ktkEstablish 0 0 [], .attest 0 [],
    .identityCertSet 0 0, .pairProvision 0 [] none, .unpair 0, .fiUnlock 0, .fiLock 0, .random 0 0, .badOpcode 0,
    .ringResolve .pf 0, .hostRingWrite, .dmaStart .pf 0, .dmaAbort .pf 0, .moveInstr 0 0 0 [], .loop 0, .waitRequest 0,
    .waitReg 0 0, .waitTime 0 0, .waitSatisfied 0 0, .waitTimeout 0, .signalInterrupt 0, .signalFlag 0 0, .signalDoorbell 0,
    .fence 0, .fenceComplete 0, .endProg 0, .dmaBeatError 0 0 0 0, .dmaReqRaise .pf 0] = true := by decide
theorem test_wellFormed_6 : acceptedAll [
    .dmaReqEdge 0 0, .prtStateReleased .pf 0, .prtStateNotReady .pf 0, .prtAlive .pf, .aliveTimeout, .tokenClaim 0,
    .claimWindowEnd 0, .peerHbLost, .tokenStuck false, .plkLaneSync 0 false false,
    .helloMsg { alive := 0, cycle := 0, len := 0, body := .idle },
    .digestMsg { alive := 0, cycle := 0, len := 0, body := .idle },
    .keyMsg { alive := 0, cycle := 0, len := 0, body := .idle } [],
    .stateMsg { alive := 0, cycle := 0, len := 0, body := .idle }, .stateMessageSend, .revertWtrExpire, .snapshot .pf 0 0,
    .freeze .pf 0 0, .pcValueWrite .pf 0 0, .traceInject .pf 0, .kill .pf 0, .fiArm .pf 0 0 0, .fiHoldRelease 0 0, .railPoll [],
    .pmbAlert [], .pmbLost 0, .avsCheck 1 0, .pwrDvfsWrite .pf 0 0, .voutReached 0, .pwrGateUplWrite .pf 0, .sensorRead 0 0,
    .throttleClear 0, .capEvaluation, .sidebandInputChange 0 false false, .modulePoll, .tokenLineChange false, .peerHbEdge 0,
    .supplyRemoval 0, .pcieLinkUp, .pcieLinkDown] = true := by decide
theorem test_wellFormed_7 : acceptedAll [
    .uplinkLinkDown 0, .uplinkFrameTransmit 0 0, .pauseTimerExpire 0 0, .functionLevelReset 0, .moveComplete 0] = true := by decide
/-! ## Witnesses: accesses, dies, ownership -/

theorem witness_stepRuns : ({ up with pending := [.scrubPass] } : State).pending = .scrubPass :: [] := rfl
theorem witness_stepIdles : State.reset.pending = [] := rfl
theorem witness_stepKeeps : ∃ t, Canon State.reset ∧ step State.reset = .next t := ⟨State.reset, by unfold Canon; decide, rfl⟩
theorem witness_stores : mayWriteHost .scrubPass = false ∧ mayWriteTables .scrubPass = false
    ∧ exec .scrubPass State.reset = .next State.reset := ⟨rfl, rfl, rfl⟩
/-- The register of the plain write: FWD_LOCK_CFG. -/
def lockRef : RegRef := (regFind Adr.fwdLockCfg).get (by decide)
theorem witness_plainWrite :
    mwf resetWord up.regs = true ∧ pcEnabled up = [] ∧ placeOf up .pf Adr.fwdLockCfg = .ctlw Adr.fwdLockCfg
      ∧ reachable up Adr.fwdLockCfg = true ∧ blockFused up Adr.fwdLockCfg = false ∧ Adr.fwdLockCfg % 4 = 0
      ∧ regFind Adr.fwdLockCfg = some lockRef ∧ plainReg lockRef = true ∧ islDown up (islandOf Adr.fwdLockCfg) = false
      ∧ mayWrite up .pf lockRef Adr.fwdLockCfg = true ∧ lockRef.off = 4 * (lockRef.off / 4) ∧ lockRef.off ≤ Adr.fwdLockCfg
      ∧ regTake up lockRef.desc.id 0 0 50 = some 50 := by decide
theorem witness_plainWrite_routes (x : Nat) (w : Word) (ofs : Nat) :
    routeWrite up .pf .fwdLockCfg 0 0 0 x w ofs = none := rfl
theorem witness_badAccess : mwf resetWord up.regs = true ∧ accessBad up .pf 0x2 4 false = true ∧ accessBad up (.vf 63) 0 4 true = true
    ∧ accessBad up .pf Adr.glbDeviceId 4 true = true := by decide
theorem witness_barrier : mget 0 (after (exec (.glbBarrierRead (.core 15)) up)).acc.barWait (Requester.core 15).code = 1 := by decide
theorem witness_lowWord : (∃ r, readable up .pf (Adr.timPpsCfg) r ∧ r.off = 0 ∧ r.desc.bits = 64)
    ∧ ∃ r, readable up .pf (Adr.timPpsCfg + 4) r ∧ r.off = 4 ∧ r.desc.bits = 64 := by
  refine ⟨⟨(regFind Adr.timPpsCfg).getD lockRef, ?_⟩, ⟨(regFind (Adr.timPpsCfg + 4)).getD lockRef, ?_⟩⟩ <;>
    (unfold readable; decide)
theorem witness_pendClear : mwf resetWord up.regs = true ∧ 10 < 11 ∧ 21 < 32 ∧ 32 * 10 + 21 < 342 := by decide
/-- Port 7 with replays in a row and a retry buffer in direction 1. -/
def replaying (n : Nat) (l : List (Nat × Nat × List Byte)) : State := setD2d up 7 1 { d2dOf up 7 1 with replays := n, retry := l }
theorem witness_flits : flitPortUp up 7 1 2 63 ∧ (d2dOf up 7 1).replays < 8 ∧ (d2dOf up 7 1).retry.head? = none := by
  unfold flitPortUp; decide
theorem witness_flitNinth : flitPortUp (replaying 8 [(2, 63, [7])]) 7 1 2 63 ∧ (d2dOf (replaying 8 [(2, 63, [7])]) 7 1).replays = 8
    ∧ (d2dOf (replaying 8 [(2, 63, [7])]) 7 1).retry.head? = some (2, 63, [7]) := by unfold flitPortUp; decide
theorem witness_flitBehind : flitPortUp (replaying 1 [(0, 0, [])]) 7 1 2 63
    ∧ (d2dOf (replaying 1 [(0, 0, [])]) 7 1).retry = [(0, 0, [])] ∧ (2, 63, [7]) ∉ ([] : List (Nat × Nat × List Byte))
    ∧ (d2dOf (replaying 1 [(0, 0, [])]) 7 1).retry.length < 128 := by unfold flitPortUp; decide
/-- Port 7 in its n-th failed retraining. -/
def retrain (n : Nat) : State := setD2d up 7 0 { d2dOf up 7 0 with retraining := true, failedRow := n }
theorem witness_retrain : (d2dOf (retrain 1) 7 0).retraining = true ∧ (d2dOf (retrain 1) 7 0).failedRow < 2
    ∧ (d2dOf (retrain 2) 7 0).retraining = true ∧ (d2dOf (retrain 2) 7 0).failedRow = 2 := by decide
theorem witness_lost :
    (chanValid up 255 = true ∧ islState up 255 ≠ islLost ∧ chnEff (setF up (Adr.chnState 255) 7 0 4) 255 ≠ chOff
      ∧ islState (setF up (Adr.chnState 255) 7 0 4) 255 ≠ islLost)
    ∧ (31 < 32 ∧ laneValid up (8 * 31) = true ∧ islState up (256 + 31) ≠ islLost)
    ∧ (islState up (288 + 15) ≠ islLost ∧ islState up (288 + 15) ≠ islFused)
    ∧ (336 ≤ 340 ∧ 340 < 341 ∧ islState up 340 ≠ islLost ∧ islState up 340 ≠ islFused)
    ∧ islState (setIsl up 303 islLost) 303 = islLost := by decide
theorem witness_memoryErrors : 341 < 342 ∧ ∃ st n, tblShape up 0 = some (st, n) ∧ 0 < n := ⟨by decide, _, _, rfl, by decide⟩
/-- A frame with buffer 5 before the queues. -/
def clauseIn : State := { up with flow := { up.flow with out := [({ cl := { kind := 8, buf := 5 } }, [])] } }
theorem witness_clause : 300 < 342 ∧ 301 < 342 ∧ linkInjectors up 300 301 = [] ∧ ({} : Clause).kind < 8 ∧ 0 ≠ ({} : Clause).check
    ∧ 256 ≤ 301 ∧ linkInjectors clauseIn 320 3 = [] ∧ 8 ≤ ({ kind := 8, buf := 5 } : Clause).kind
    ∧ ({ kind := 8, buf := 5 } : Clause).buf ≠ noBuf ∧ inFlow clauseIn 5 = true
    ∧ mget 0 (raise (cnt32 (itemDrop clauseIn 3 { kind := 8, buf := 5 }) (Adr.glbClauseErr 3) 1) 3 .corrected 0x0002).line.clauseSec 3
      < 1000 := by decide
theorem witness_handover : isPfSide up .pf = true ∧ islDown up 336 = false ∧ fld (0x00030101#32) 19 16 ≤ 11 ∧ treeValid up (fld (0x00030101#32) 13 8) = true
    ∧ (deviceScope (fld (0x00030101#32) 19 16) = true → fld (0x00030101#32) 13 8 = 0)
    ∧ fld (0x00030101#32) 31 24 = uEpoch up (Adr.mbxOwner 3 1) ∧ rf up (Adr.mbxOwner 3 1) 11 8 = 0
    ∧ fld (0x00030101#32) 0 0 ≠ owner up 3 1 := by decide
/-- A handover of function 3 of tree 1 under way, all flips sent. -/
def handing : State := { up with own := { up.own with handovers :=
  [{ func := 3, tree := 1, newOwner := 1, record := 0, flipsSent := true, waiting := [] }] } }
theorem witness_flip : (∃ h, findHandover handing 3 1 = some h ∧ h.flipsSent = true ∧ h.waiting = [] ∧ h.newOwner = 1)
    ∧ ∃ h, findHandover (({ up with own := { up.own with handovers := [{ func := 3, tree := 1, newOwner := 1, record := 0
                                                                         flipsSent := true, waiting := [4, 5] }] } } : State)) 3 1 = some h ∧ 4 ∈ h.waiting :=
  ⟨⟨_, rfl, rfl, rfl, rfl⟩, ⟨_, rfl, by decide⟩⟩
theorem witness_watchdog : Canon up ∧ islDown up 336 = false
    ∧ ({ up with own := { up.own with wdArmed := true } } : State).own.wdArmed = true := ⟨canon_up, by decide, rfl⟩
/-! ## Witnesses: the image, supplies, boot, resets, channel starts -/

theorem witness_ringImage : (imgTakes (cmd 0x4001) 0x4001) ∧ (imgTakes (cmd 0x4002) 0x4002) ∧ (imgTakes (cmd 0x4003) 0x4003)
    ∧ imgTakes (cmd 0x4004) 0x4004 := by unfold imgTakes ringTakes; decide +kernel
/-- The command op of ring 0, its function in a Crypto Officer session. -/
def officer (op : Nat) : State := { cmd op with sec := { up.sec with role := [(0, 1)] } }
theorem witness_imageOps : imgWrites up .pf ∧ up.img.op = .idle ∧ 6 ≤ phase up ∧ rdW up Adr.mbxImgAddr 2 % 16 = 0
    ∧ imgWrites (officer 0x4004) .pf ∧ mget 0 (officer 0x4004).sec.role (fnOf (officer 0x4004) .pf) = 1
    ∧ regionBusy (officer 0x4004) vrHashes = false := by unfold imgWrites; decide
theorem witness_imageCommands : 6 ≤ phase (ringStep (cmd 0x4001) 0) ∧ (slotCtx (cmd 0x4001) 0).addr % 16 = 0 ∧ (cmd 0x4001).img.op = .idle
    ∧ imgTakes (officer 0x4004) 0x4004 ∧ mget 0 (officer 0x4004).sec.role 0 = 1
    ∧ regionBusy (ringStep (officer 0x4004) 0) vrHashes = false := by unfold imgTakes ringTakes; decide +kernel
theorem witness_imageIdle : isPfSide up .pf = true ∧ up.img.op = .idle ∧ 6 ≤ phase up ∧ 3 < 4 ∧ 2 < 3
    ∧ 0x10 % 16 = 0 ∧ regionBusy up vrHashes = false
    ∧ mget 0 ({ up with sec := { up.sec with role := [(0, 1)] } } : State).sec.role
        (imgFn { up with sec := { up.sec with role := [(0, 1)] } } (.reg .pf)) = 1
    ∧ regionBusy ({ up with sec := { up.sec with role := [(0, 1)] } } : State) vrHashes = false := by decide
/-- A device with a staged image of no sections, the same as what runs. -/
def staged : State := { up with img := { up.img with staged := [0], running := [0] } }
theorem witness_apply : staged.img.op = .idle ∧ 6 ≤ phase staged ∧ staged.grm.loading = false ∧ staged.img.staged ≠ []
    ∧ deviceDiffers staged = none ∧ namedTrees staged false = 0 := by decide
theorem witness_applyWrite : imgWrites staged .pf := by unfold imgWrites; decide
/-- The same with APPLY as a command of ring 0. -/
def stagedCmd : State := { cmd 0x4002 with img := { up.img with staged := [0], running := [0] } }
theorem witness_applyCommand : imgTakes stagedCmd 0x4002 ∧ (ringStep stagedCmd 0).img.op = .idle ∧ (ringStep stagedCmd 0).img.staged ≠ []
    ∧ deviceDiffers (ringStep stagedCmd 0) = none ∧ namedTrees (ringStep stagedCmd 0) false = 0 := by
  unfold imgTakes ringTakes; decide +kernel
theorem witness_applyTrees : ∀ t, t < 64 → nbit (namedTrees staged false) t = true → treeValid staged t = true := by
  intro t _ h
  rw [witness_apply.2.2.2.2.2] at h
  simp [nbit] at h
/-- An image operation under way. -/
def imaging (op : ImgOp) (left reset : List Nat) : State :=
  { up with img := { up.img with op := op, applyLeft := left, applyReset := reset } }
theorem witness_applyEnds : (imaging (.applyWait true 5) [] []).img.op = .applyWait true 5
    ∧ (imaging .applying [3, 63] [3]).img.op = .applying ∧ 63 ∈ (imaging .applying [3, 63] [3]).img.applyLeft
    ∧ ¬ 63 ∈ (imaging .applying [3, 63] [3]).img.applyReset := by decide
theorem witness_fetch : (imaging .stage [] []).img.op = .stage
    ∧ (imaging .bootStage [] []).img.op = .bootStage ∧ (imaging (.bootFetch 1 false 0 0 0) [] []).img.op = .bootFetch 1 false 0 0 0
    ∧ (imaging (.bootFetch 2 true 4 0 0) [] []).img.op = .bootFetch 2 true 4 0 0 := by decide

/-- A device whose supplies of steps after n are off. -/
def rising (n : Nat) : State :=
  { State.reset with boot := { resetRun := 2, supply := ((List.range 14).filter fun j => n < supplyStep j).map fun j => (j, supOff) } }
theorem witness_supplyStart : 13 < 14 ∧ supplyOf (rising 0) 13 = supOff ∧ supplyOf (setSupply (rising 0) 13 supStarted) 13 = supStarted := by
  decide
theorem witness_supplyGap : ∀ j, j < 14 → (supplyStep j ≤ 1 → supplyOf (rising 1) j = supValid)
    ∧ (supplyStep j = 1 + 1 → supplyOf (rising 1) j = supOff) := by decide
theorem witness_supplyOut : up.boot.porLow = false ∧ supplyOf up 13 = supValid ∧ supplyOf up 0 = supValid
    ∧ (∀ j, j < 14 → supplyOf up j = supValid) := by decide
/-- A device in a phase of boot. -/
def booting (p : Nat) : State := wf { State.reset with boot := { resetRun := 2, perstLow := false } } Adr.glbBootStat 31 28 p
theorem witness_phases : inPhase (booting 0) 0 = true ∧ (booting 0).sec.erasing = [] ∧ inPhase (booting 1) 1 = true
    ∧ inPhase (booting 2) 2 = true ∧ secState (booting 2) ≠ smZeroized ∧ inPhase (booting 4) 4 = true
    ∧ inPhase (booting 5) 5 = true ∧ phase (booting 6) = 6 ∧ (booting 6).boot.linkUp = false ∧ (booting 6).boot.perstLow = false := by
  decide
theorem witness_p0Sensors : ∀ n, n < 96 → sensorTemp (booting 0) n ≤ 95 * 256 := by decide
theorem witness_resetControl : isPfSide up .pf = true ∧ islDown up 340 = false ∧ 5 ≤ phase up ∧ up.boot.resetRun ≠ 2 ∧ 0x0A5B < 65536 ∧ 0x0A5B ≠ 0x0A5A := by
  decide
/-- A device for which a reset has been asked. -/
def asked (n : Nat) : State := { up with boot := { up.boot with request := n } }
theorem witness_resets : Canon (asked 2) ∧ (asked 2).boot.request = 2 ∧ (asked 1).boot.request = 1 := ⟨canon_up, rfl, rfl⟩
theorem witness_sideband : 63 < 64 ∧ rb up (Adr.treModStat 63) 1 = false ∧ rb up (Adr.treModStat 63) 0 = false := by decide
/-- A device with channel c in a state and its tree's state set. -/
def chan (c st tree : Nat) : State := setF (setF up (Adr.chnState c) 7 0 st) (Adr.treState (c / 4)) 7 0 tree
theorem witness_channelReset : isPfSide up .pf = true ∧ (chan 255 chRun 2).boot.resetRun = 0
    ∧ 0 = uEpoch (chan 255 chRun 2) (Adr.chnState 255) ∧ chnEff (chan 255 chRun 2) 255 ≠ chOff
    ∧ effState (chan 255 chRun 2) (Adr.treState (255 / 4)) ≠ 1 ∧ islDown (chan 255 chRun 2) 336 = false ∧ 0 = uEpoch (chan 255 chRun 2) (Adr.treState 63)
    ∧ effState (chan 255 chRun 2) (Adr.treState 63) ≠ 0 ∧ applyResets (chan 255 chRun 2) 63 = false := by decide
theorem witness_channelStart : chnEff (setIsl (chan 255 chReset 2) 255 islReset) 255 = chReset
    ∧ islState (setIsl (chan 255 chReset 2) 255 islReset) 255 = islReset ∧ chnEff (chan 255 chReset 2) 255 = chReset
    ∧ islState (chan 255 chReset 2) 255 = islRun ∧ chnEff (chan 255 chStarting 2) 255 = chStarting
    ∧ chanValid (chan 255 chReset 2) 255 = true ∧ islState (chan 255 chStarting 2) 255 ≠ islLost := by decide
theorem witness_treeStart : effState (chan 255 chReset 1) (Adr.treState 63) = 1 ∧ readyMask (chan 255 chReset 1) 63 = 0
    ∧ effState (chan 255 chReset 2) (Adr.treState 63) = 2 ∧ readyMask (chan 255 chReset 2) 63 = 0 := by decide
/-! ## Witnesses: bursts, discovery, messages, terminals, rogues -/

theorem witness_plant : isN200 plant 0 = true ∧ isC50 plant 3 = true ∧ chnEff plant 0 = chRun ∧ slotLimit plant 0 = 512 := by decide
/-- A granted burst of TID 511 on channel c, an Ephemeris grant or, as kind 2, a discovery window. -/
def burst : GBurst := { cycle := 0, tid := 511, start := 0x100, len := 0x200, cold := true, kind := 0 }
/-- The plant with that burst granted on a channel. -/
def granted (c : Nat) : State := setBursts plant c [burst, burst]
theorem witness_burstStart : let s := wf (granted 0) Adr.glbBootStat 31 28 7
    s.boot.dataStopped = false ∧ islDown s 0 = false ∧ outsHeld s = false
      ∧ ((burstsOf s 0).findIdx? fun g => !g.started) = some 0 ∧ (burstsOf s 0)[0]? = some burst := by decide
theorem witness_burstLost : burstsOf (granted 0) 0 = burst :: [burst] ∧ chnEff (granted 0) 0 = chRun ∧ burst.tid ≠ 0x7FFF
    ∧ burstDelim (granted 0) 0 [] = none ∧ burst.kind ≠ 2 := by decide
/-- What the receiver takes of a good burst. -/
def good : Reception := { window := [true], cws := [.good 0], hdr := BurstHdr.of 511 0 0 false false 0 0 }
theorem witness_burstGood : burstsOf (granted 3) 3 = burst :: [burst] ∧ burstDelim (granted 3) 3 good.window = some (0, 0, 0)
    ∧ fiArmed (granted 3) (Adr.fiCfgUs 3) = false ∧ (fiOf (granted 3) (Adr.fiCfgUs 3)).held = []
    ∧ good.cws.head? ≠ some .uncorrectable ∧ good.hdr.crcOk = true ∧ good.hdr.tid = burst.tid
    ∧ islDown (granted 3) 3 = false ∧ chnEff (granted 3) 3 ≠ chStandby := by decide +kernel
theorem witness_tlr : islDown plant 255 = false ∧ isOwner plant (.core 0) 255 9 (255 / 4) = true ∧ 511 < 512 := by decide
theorem witness_burstWarm : burstWarm (setF plant (tlrAddr 0 511 + 0x20) 16 16 1) 0 511 = true ∧ burstWarm plant 0 511 = false
    ∧ rf plant (Adr.chnTlrCfg 0) 31 16 ≠ 0 := by decide
theorem witness_pmRead : isC50 plant 0 = false ∧ islDown plant 0 = false ∧ fld (rdReq plant .pf (Adr.chnPmSel 0)) 12 8 ≤ 18
    ∧ fld (rdReq plant .pf (Adr.chnPmSel 0)) 3 0 ≤ 13 := by decide
theorem witness_crs : islDown plant 0 = false ∧ isOwner plant (.core 0) 0 2 (0 / 4) = true ∧ crsFieldsOk 0 (2 ^ 56) = true
    ∧ crsRegion plant 0 63 (2 ^ 56) 16 ≤ 202752 ∧ crsFieldsOk 0 0 = false := by decide
theorem witness_cycle : plant.boot.porLow = false ∧ 5 ≤ phase plant ∧ Canon plant ∧ 2 ^ 48 - 1 < 2 ^ 48
    ∧ ∀ b, b < 8 → baseState plant b = tbUnset := ⟨rfl, by decide, by unfold Canon; decide, by decide, by decide⟩

/-- The plant at cycle n - 1 of channel 0, so that the next is n. -/
def beforeCycle (n : Nat) : State := wrW plant (Adr.chnCycle 0) (n - 1) 2
theorem witness_comaEpoch : let s := beforeCycle 96
    s.boot.dataStopped = false ∧ comaOn s 0 = true ∧ inQuiet s 0 (cycleNow s + 1) = false ∧ (cycleNow s + 1) % comaPeriod s (0 / 4) = 0
      ∧ isEpoch s 0 (cycleNow s + 1) = false := by decide
theorem witness_comaPosted : Canon plant
    ∧ mget [] ({ plant with reg := { plant.reg with epochs := [(0, [5, 6])] } } : State).reg.epochs 0 = 5 :: [6] :=
  ⟨by unfold Canon; decide, rfl⟩
theorem witness_comaCandidate : let s := { setF plant (Adr.mbxOwner 0 0) 0 0 1 with reg := { plant.reg with epochs := [(0, [5, 6])] } }
    mwf resetWord s.regs = true ∧ mget [] s.reg.epochs 0 = 5 :: [6] ∧ 63 < 64 ∧ inSearch s (0 / 4) (eqrtSymbols s 0) = true
      ∧ basic s 0 (0 / 4) = false := by decide
/-- A report of a new serial heard in a quiet window. -/
def report : List Byte := tcmBytes bcast mtSerialReport 0 0 (bytesBE 8 0x1122334455667788 ++ [0x00#8, 0xFF#8, 0, 0, 0, 0])
/-- The plant inside the time of a quiet window of channel 0 that ended with the running cycle. -/
def quieted : State := { plant with grant := { plant.grant with quiet := [(0, [(0, 0)])] } }
theorem witness_registration : isN200 quieted 0 = true ∧ chnEff quieted 0 = chRun ∧ islDown quieted 0 = false ∧ quietSeen quieted 0 none = true
    ∧ rxField report 15 1 = 0xFF ∧ quietSeen quieted 0 (some (eqrtSymbols quieted 0)) = true
    ∧ rxField report 16 2 * 16 ≤ eqrtSymbols quieted 0 ∧ rxCrcOk report = true
    ∧ rxType report = mtSerialReport ∧ rxAddr report = bcast := by decide +kernel
theorem witness_registrationSerial : let v := pmAddScope (pmAddScope quieted 0 0 0 1) 0 0 8 1
    let w := serialAlive (pmAddScope v 0 0 9 1) 0 (rxField report 6 8) (rxAlive report)
    (BurstHdr.of 0x7FFF 0 0 false false 0 0).crcOk = true ∧ (BurstHdr.of 0x7FFF 0 0 false false 0 0).tid = 0x7FFF
      ∧ w.1 = true ∧ basic w.2 0 (0 / 4) = true := by decide +kernel
/-- A report heard in the window of invitation 254, with its code. -/
def invitedReport : List Byte := tcmBytes bcast mtSerialReport 0 0 (bytesBE 8 0x1122334455667788 ++ [0x07#8, 0xFE#8, 0, 0, 0, 0])
/-- A registration grant of invitation 254. -/
def regBurst : GBurst := { cycle := 0, tid := 0x7FFF, invite := 254, start := 0x100, len := 0x200, cold := true, kind := 2 }
/-- The plant with that grant and its invitation open, with code 7. -/
def invited : State := { setBursts plant 0 [regBurst] with
  reg := { plant.reg with invites := [(254, { epoch := 0, code := 7, delta := 1000, cycle := 0 })] } }
theorem witness_invited : rxField invitedReport 15 1 = 254 ∧ rxCrcOk invitedReport = true ∧ rxType invitedReport = mtSerialReport
    ∧ rxAddr invitedReport = bcast ∧ regGrantFind invited 0 (some 254) = some regBurst ∧ regGrantFind invited 0 none = some regBurst
    ∧ (invited.reg.invites.find? (·.1 = 0 * 256 + regBurst.invite)).any (fun p => p.2.code == rxField invitedReport 14 1) = true := by
  decide +kernel
/-- The arrival of a serial at the tree's EQRT. -/
def arrival (s : State) : Arrival :=
  { chan := 0, delta := eqrtSymbols s 0, serial := 77, caps := 0, nonce := 0, txLevel := 0, traceOk := true }
theorem witness_newSerial : inSearch plant 0 (arrival plant).delta = true ∧ serialBusy plant 77 = none ∧ serialIn plant 0 77 = none
    ∧ chooseSlot plant 0 77 = some 0 := by decide +kernel
/-- A tree of 32 slots, all taken. -/
def full : State := (List.range 32).foldl (fun s k => term s (tidOf 0 k) tsOffline) up
theorem witness_treeFull : inSearch full 0 (eqrtSymbols full 0) = true ∧ serialBusy full 77 = none ∧ serialIn full 0 77 = none
    ∧ chooseSlot full 0 77 = none := by decide +kernel
theorem witness_quiet : quietOn (setF plant (Adr.treDiscCfg 0) 31 30 2) 0 = true
    ∧ rf (setF plant (Adr.treDiscCfg 0) 31 30 2) (Adr.treDiscCfg (0 / 4)) 15 8 ≠ 0
    ∧ islDown plant (islandOf (Adr.treDiscCfg 0)) = false ∧ isOwner plant (.core 0) (islandOf (Adr.treDiscCfg 0)) 0 0 = true
    ∧ (4#32 : Word).toNat.testBit 2 = true ∧ (quietPlace (setF plant (Adr.treDiscCfg 0) 31 30 2) 0 (winCycles plant 0) 200
        (cycleNow plant + 2 + inviteLead (setF plant (Adr.treDiscCfg 0) 31 30 2) 0)).isSome = true
    ∧ isN200 (setF plant (Adr.treDiscCfg 0) 31 30 2) 0 = true := by decide
/-- An upstream message of TID 511 with ALIVE 7. -/
def upMsg : List Byte := tcmBytes 511 mtAck 0 7 []
/-- The plant with terminal 511 ACTIVE and LAST + 1 of it. -/
def heardLast (l : Nat) : State := { term plant 511 tsActive with tcm := { plant.tcm with aliveUp := [(511, l)] } }
theorem witness_tcm : rxCrcOk upMsg = true ∧ mtUpOnly (rxType upMsg) = true ∧ isC50 plant 0 = false ∧ treeOfTid 511 = 0 / 4
    ∧ termEff (heardLast 1) 511 ≠ tsFree ∧ rxAddr upMsg = 511 ∧ rxType upMsg = mtAck
    ∧ (term plant 511 tsActive).tcm.aliveUp.find? (·.1 = 511) = none
    ∧ modSub (rxAlive upMsg + 1) 8 65536 = 0 ∧ (1 ≤ modSub (rxAlive upMsg + 1) 7 65536 ∧ modSub (rxAlive upMsg + 1) 7 65536 ≤ 32767)
    ∧ modSub (rxAlive upMsg + 1) 32777 65536 = 32767 ∧ 32767 < modSub (rxAlive upMsg + 1) 9 65536 := by decide +kernel
theorem witness_tcmAck : ∃ w, tcmWaitOf ({ plant with tcm := { plant.tcm with wait :=
    [(511, { chan := 0, msg := msgTo 511 mtTune true [], alives := [1], resends := 2 })] } } : State) 511 = some w ∧ w.resends < 3 :=
  ⟨_, rfl, by decide⟩
theorem witness_ploam : islDown plant 3 = false ∧ isC50 plant 3 = true ∧ chnEff plant 3 = chRun ∧ basic plant 0 (3 / 4) = true
    ∧ treeOfTid 511 = 3 / 4 ∧ termW (wrW plant (infoAddr 511) (3 * 2 ^ 35) 4) 511 = 3 % 4 := by decide
theorem witness_termWrites : let a := termAddr 511
    islDown plant (islandOf a) = false ∧ plant.prt.standby = false ∧ isOwner plant (.core 0) (islandOf a) 0 0 = true
      ∧ 0 = uEpoch plant a ∧ (termRow (termEff (term plant 511 tsActive) 511) tsDisabled).1 = true
      ∧ (termRow (termEff (term plant 511 tsAuthWait) 511) tsFree).1 = true
      ∧ (termRow (termEff (term plant 511 tsAuthWait) 511) tsRanging).1 = true
      ∧ (termRow (termEff (term plant 511 tsActive) 511) tsFree) = (false, false, false)
      ∧ isOwner plant .pf (islandOf a) 0 0 = false ∧ isOwner plant .pf (islandOf a) 3 0 = false ∧ isOwner plant .pf (islandOf a) 11 0 = false := by
  decide
theorem witness_timers : termEff (term plant 511 tsAuthWait) 511 = tsAuthWait ∧ termEff (term plant 511 tsLost) 511 = tsLost := by decide
theorem witness_termInfo : let s := setF plant (Adr.mbxOwner 0 0) 0 0 1
    islDown s (islandOf (infoAddr 511)) = false ∧ isOwner s .pf (islandOf (infoAddr 511)) 0 0 = true
      ∧ ownerAt s (islandOf (infoAddr 511)) 0 0 = 1 ∧ nfld (putNfld 0 23 16 0) 36 35 = termW s 511
      ∧ termW (wrW s (infoAddr 511) (putNfld 0 23 16 0) 4) 511 = termW s 511 := by decide
theorem witness_termAuthorize : let s := onRing (term plant 0 tsAuthWait) 0x1001
    ringTakes s 0 0x1001 ∧ rf (ringStep s 0) Adr.secStatus 31 28 ≠ 2 ∧ serialWaits (ringStep s 0) 0 = some 0
      ∧ slotOfTid 0 < slotLimit (ringStep s 0) 0 ∧ (slotCtx s 0).fn = 0 ∧ basic (ringStep s 0) 0 0 = true := by
  unfold ringTakes; decide +kernel
theorem witness_termState : let s := onRing (term plant 0 tsAuthWait) 0x1003
    ringTakes s 0 0x1003 ∧ cmdTidOk (ringStep s 0) (slotCtx s 0).fn 0 = true ∧ (slotCtx s 0).expect = uEpoch (ringStep s 0) (termAddr 0)
      ∧ (termRow (termEff (ringStep s 0) 0) tsFree).1 = true ∧ tsFree ≠ tsDisabled := by unfold ringTakes; decide +kernel
theorem witness_termMsg : let s := onRing (term plant 0 tsActive) 0x1004
    ringTakes s 0 0x1004 ∧ mtKnown mtTuneCapsReq = true ∧ mtUpOnly mtTuneCapsReq = false ∧ isC50 (ringStep s 0) (termChan (ringStep s 0) 0) = false
      ∧ basic (ringStep s 0) (txFunc mtTuneCapsReq) 0 = true
      ∧ (tcmPush (ringStep s 0) (termChan (ringStep s 0) 0) (msgTo 0 mtTuneCapsReq false [])).isSome = true := by
  unfold ringTakes; decide +kernel
theorem witness_rogue : islDown plant (islandOf (Adr.treRogueCfg 0)) = false
    ∧ isOwner plant (.core 0) (islandOf (Adr.treRogueCfg 0)) 11 0 = true
    ∧ (0x10000000#32).toNat.testBit 28 = true ∧ (0x10000000#32).toNat.testBit 29 = false
    ∧ (rogueOf (setRogue plant 0 { phase := .baseline 31 2 }) 0).phase = .baseline 31 2 ∧ 2 + b2n true < 4
    ∧ (rogueOf (setRogue plant 0 { phase := .persist 3, tid := some 511 }) 0).phase = .persist 3
    ∧ (rogueOf (setRogue plant 0 { phase := .persist 3, tid := some 511 }) 0).tid = some 511 := by decide
theorem witness_burstLostUp : islDown (granted 0) 0 = false ∧ chnEff (granted 0) 0 ≠ chStandby := by decide
theorem witness_statusReport : rxType (tcmBytes 511 mtStatusReport 0 7 []) = mtStatusReport ∧ rxCrcOk (tcmBytes 511 mtStatusReport 0 7 []) = true
    ∧ mtUpOnly mtStatusReport = true ∧ rxAddr (tcmBytes 511 mtStatusReport 0 7 []) = 511 ∧ basic plant 0 (0 / 4) = true
    ∧ rxCrcOk [] = false ∧ (tcmQueue plant 0).length < tcmDepth := by decide +kernel
theorem witness_ploamSerial : quietSeen { plant with grant := { plant.grant with quiet := [(3, [(0, 0)])] } } 3 none = true := by decide
/-- Firmware's message buffer of channel 0 with a TUNE_CAPS_REQ to TID 511 staged but for its last word. -/
def txStaged : State := { plant with acc := { plant.acc with stage :=
  [(reqKey (.core 0) (Adr.chnTcmTx 0 0), BitVec.ofNat 32 (511 * 65536 + mtTuneCapsReq * 256))] } }
theorem witness_hostMessage :
    let u := { txStaged with acc := { txStaged.acc with stage := mset 0 txStaged.acc.stage (reqKey (.core 0) (Adr.chnTcmTx 0 10)) 0 } }
    let b := (List.range 11).flatMap fun j => bytesBE 4 (mget 0 u.acc.stage (reqKey (.core 0) (Adr.chnTcmTx 0 j))).toNat
    islDown txStaged 0 = false ∧ ofBytesBE (b.take 2) = 511 ∧ ofBytesBE ((b.drop 2).take 1) = mtTuneCapsReq
      ∧ ofBytesBE ((b.drop 3).take 1) < 2 ∧ mtKnown mtTuneCapsReq = true ∧ mtUpOnly mtTuneCapsReq = false
      ∧ isOwner u (.core 0) 0 (txFunc mtTuneCapsReq) (0 / 4) = true ∧ isC50 u 0 = false ∧ (tcmQueue u 0).length < tcmDepth := by
  decide +kernel
theorem witness_termWritesComplete : ∀ st, st ∈ [tsFree, tsAuthWait, tsRanging, tsKeying, tsActive, tsLost, tsDisabled, tsOffline, tsTransit] →
    termEff (term plant 511 st) 511 = st ∧ 0 = uEpoch (term plant 511 st) (termAddr 511) := by decide
theorem witness_termOwners : ∀ f, f ∈ [0, 3, 11] → isOwner plant (.core 0) (islandOf (termAddr 511)) f (treeOfTid 511) = true := by decide
/-! ## Witnesses: grants, frames, gates, samplers -/

/-- A SYSREQ of a terminal grant of TID id at START st in a cycle. -/
def sysreq (cyc id st len : Nat) : Nat := cyc * 2 ^ 80 + 2 ^ 78 + st * 2 ^ 61 + len * 2 ^ 44 + id * 2 ^ 28
/-- The booking that a SYSREQ spells. -/
def bookingOf (v : Nat) : Booking :=
  { cycle := nfld v 127 80, kind := nfld v 79 78, start := nfld v 77 61, len := nfld v 60 44, tcm := nbit v 43, id := nfld v 42 28 }
theorem witness_bookings : islDown plant 0 = false ∧ isOwner plant (.core 0) 0 0 (0 / 4) = true ∧ isOwner plant (.core 0) 0 1 (0 / 4) = true
    ∧ bookCheck plant 0 (bookingOf (sysreq 64 511 109692 308)) = bkOk ∧ bookCheck plant 0 (bookingOf (sysreq 65 511 0 308)) = bkTooEarly
    ∧ modSub (16 % 32) (rf plant (Adr.chnGeRingCtl 0) 20 16) 32 ≤ 16 ∧ 16 < modSub (17 % 32) (rf plant (Adr.chnGeRingCtl 0) 20 16) 32 := by
  decide
theorem witness_grantBuild : let m := cycleNow plant + 1
    islDown plant 0 = false ∧ mget 0 plant.grant.built 0 ≠ m + 1 ∧ chanValid plant 0 = true ∧ isC50 plant 0 = false ∧ inQuiet plant 0 m = false
      ∧ (geTake 0 m 16 (engineBooks plant 0 m)).2 = none ∧ geMode (geTake 0 m 16 (engineBooks plant 0 m)).1 0 = 0
      ∧ chnEff up 0 ≠ chRun ∧ chnEff up 0 ≠ chEclipseEntering ∧ (∃ s, mget 0 (State.grant s).built 0 = m + 1)
      ∧ ∃ q, inQuiet ({ plant with grant := { plant.grant with quiet := q } } : State) 0 m = true :=
  ⟨by decide, by decide, by decide, by decide, by decide, by decide, by decide, by decide, by decide,
    ⟨{ plant with grant := { plant.grant with built := [(0, 2)] } }, by decide⟩, ⟨[(0, [(0, 5)])], by decide⟩⟩
/-- A frame of four bytes with a plain Clause. -/
def frame4 : QFrame := { cl := { len := 4, tid := 511 }, data := [1#8, 2#8, 3#8, 4#8] }
/-- The plant with terminal 511 ACTIVE under sending key 2, scheduled, and a frame at the head of queue 7 of it. -/
def queued : State :=
  let s := setF (term plant 511 tsActive) (keyAddr 0 (slotIx 511 0 0)) 7 0 ksActive
  let s := wrT s (dsQueueAt 7) (2 ^ 255 + 511 * 2 ^ 240 + 2 ^ 120) 8
  let s := wrT s (dsTermAt 511) (2 ^ 127 + 2 ^ 38) 4
  let s := wrW s (Adr.chnDsPart 0 0) (2 ^ 38) 4
  setQueue s 7 [frame4]
theorem witness_enqueue : let s := { plant with flow := { plant.flow with out := [({ cl := {} }, [7])] } }
    (s.flow.out.findIdx? fun x => !ctrlWaits s x.1) = some 0 ∧ s.flow.out[0]? = some ({ cl := {} }, [7]) := by decide
theorem witness_select : let u := qCleanAll queued (chanQueues queued 0)
    let m := markFits u (chanQueues u 0) (lineFits u 0 (linePos u 0 0))
    sendsCycles queued 0 = true ∧ 0 < packetArea queued 0 ∧ linePos u 0 0 < 0 + 65536
      ∧ (selectQueue m 0 (linePos u 0 0) (cyclePs (cycleNow u) + leavePs u 0 0)).map (·.1) = some 7 ∧ qHead m 7 = some frame4
      ∧ frame4.cl.kind ≠ ClauseKind.tracer.code ∧ selectQueue plant 0 0 0 = none ∧ sendsCycles up 0 = false := by decide +kernel
/-- A gate list of two entries of 500 ns. -/
def list2 : GclList := { tb := 0, start := 0, cycle := 1000, entries := [(0xFF, 500), (0x01, 500)] }
/-- The plant with that list running and pending at channel 0, gate lists enabled. -/
def gated : State := setF (setGcl plant 0 { run := some list2, next := some list2 }) (Adr.chnGclCtl 0) 31 31 1
/-- The plant with time base 0 free-running and the admin list set. -/
def admin : State :=
  let s := setF plant (Adr.timTbStat 0) 31 28 1
  let s := wrW s (gclCyc 0) (2 ^ 32 + 1000) 2
  wrW s (gclAdmin 0 0) (0xFF * 2 ^ 56 + 32) 2
theorem witness_gates : (gclOf gated 0).run = some list2 ∧ (gclCut list2.entries list2.cycle)[1]? = some (0x01, 500)
    ∧ (gclOf gated 0).next = some list2 ∧ rb gated (gclCtl 0) 31 = true ∧ unitOk plant 0 = true
    ∧ islDown plant (islandOf (gclCtl 0)) = false ∧ isOwner plant (.core 0) 0 2 (0 / 4) = true ∧ adminList plant 0 = none
    ∧ unitOk up 256 = true ∧ isPfSide up .pf = true ∧ islDown up (islandOf (gclCtl 256)) = false := by decide
theorem witness_install : (gclInstall admin 0).isSome = true := by decide
theorem witness_sampler : rb (setF plant (Adr.dtmSmpCtl 7) 31 31 1) (Adr.dtmSmpCtl 7) 31 = true ∧ rb plant (Adr.dtmSmpCtl 7) 31 = false := by
  decide
/-- The plant with queue 7 empty and of a limit, and a free cell in the control pool. -/
def placing : State := setPool (wrT (setQueue queued 7 []) (dsQueueAt 7) (2 ^ 255 + 511 * 2 ^ 240 + 2 ^ 120 + 8 * 2 ^ 96) 8) 9
  { pool queued 9 with cache := [5] }
/-- A management frame's Clause. -/
def mgmt4 : Clause := { kind := ClauseKind.mgmtFrame.code, len := 4, tid := 511 }
theorem witness_queueAdmit : qAdmit placing 7 mgmt4 = none ∧ mgmt4.kind ≠ ClauseKind.tracer.code ∧
    (placeFrame placing mgmt4.kind mgmt4.part mgmt4.len (colourOf mgmt4.dp) (qCellBytes placing 7) [qHolder 7] 0).1.isSome = true := by
  decide +kernel
/-- The plant with mode m of channel 0's grant engine and a ring record of that mode for the next cycle, with no entry. -/
def ringed (m : Nat) : State :=
  let s := setF (setF plant (Adr.chnGeCfg 0) 31 30 m) (Adr.chnGeRingCtl 0) 4 0 1
  let s := wrW s (geSlot 0 0) (cycleNow plant + 1 + m * 2 ^ 48) 8
  wr s (geSlot 0 0 + 0x1C) (BitVec.ofNat 32 (crc32c (geRecBytes s 0 0 0 8)))
theorem witness_ringRecord : (geTake 0 (cycleNow (ringed 1) + 1) 16 (engineBooks (ringed 1) 0 (cycleNow (ringed 1) + 1))).2 = some 0
    ∧ (geTake 0 (cycleNow (ringed 2) + 1) 16 (engineBooks (ringed 2) 0 (cycleNow (ringed 2) + 1))).2 = some 0 := by decide +kernel
theorem witness_rawEmpty : let s := setF plant (Adr.chnGeCfg 0) 31 30 2
    (geTake 0 (cycleNow s + 1) 16 (engineBooks s 0 (cycleNow s + 1))).2 = none
      ∧ geMode (geTake 0 (cycleNow s + 1) 16 (engineBooks s 0 (cycleNow s + 1))).1 0 = 2 := by decide +kernel
/-! ## Witnesses: Transit, Eclipse, folding, balancing -/

/-- Terminal 511 of the plant, ACTIVE on wavelength 0 and tunable to wavelengths 1 and 2. -/
def tunable : State := setF (setF (setInfo (term plant 511 tsActive) 511 28 25 1) (trAddr 511) 13 0 10) (trAddr 511) 17 14 6
/-- A TRANSIT request of OP for TID 511 to wavelength w, at the first switch cycle or at x. -/
def trReq (op w x : Nat) : Nat := x * 2 ^ 80 + op * 2 ^ 70 + w * 2 ^ 68 + 511 * 2 ^ 59
theorem witness_transitStart : islDown tunable (islandOf (Adr.treTransitReq 0)) = false
    ∧ isOwner tunable (.core 0) (islandOf (Adr.treTransitReq 0)) 5 0 = true
    ∧ tidOf 0 (nfld (trReq 0 1 0) 67 59) = 511 ∧ nfld (trReq 0 1 0) 69 68 = 1 ∧ nfld (trReq 0 1 0) 127 80 = 0
    ∧ nfld (trReq 0 1 0) 79 72 = uEpoch tunable (termAddr 511)
    ∧ trCheck tunable 511 1 (firstSwitch (cycleNow tunable) 0) 0 = none ∧ trCheck tunable 511 1 (65536) 15624 = none
    ∧ trCheck tunable 511 0 640 0 = some .outOfRange ∧ trCheck tunable 511 1 639 0 = some .leadShort := by decide
/-- The Transit accepted, in a phase, with its switch at cycle x. -/
def inTransit (ph x : Nat) (held : List UsItem) : State :=
  let s := setPhase (setTrRec (term tunable 511 tsTransit) 511 { x := x, y := x + 1, held := held }) 511 ph
  setF (setF s (trAddr 511) 27 26 0) (trAddr 511) 25 24 1
theorem witness_transitCancel : let s := inTransit phTuning 640 []
    nfld (trReq 1 0 0) 71 70 = 1 ∧ nfld (trReq 1 0 0) 79 72 = uEpoch s (termAddr 511)
      ∧ trRec s 511 = some { x := 640, y := 641 } ∧ trPhase s 511 < phSwitched ∧ 3000000 ≤ leadNs (cycleNow s) 0 640
      ∧ 3000000 ≤ leadNs (cycleNow s) 0 192 := by decide
theorem witness_termTransit : let s := onRing tunable 0x1002
    let u := ringStep s 0
    ringTakes s 0 0x1002 ∧ cmdTidOk u (slotCtx s 0).fn 511 = true ∧ basic u 5 (treeOfTid 511) = true
      ∧ (slotCtx s 0).expect = uEpoch u (termAddr 511) ∧ (tcmQueue u (termChan u 511)).length < tcmDepth
      ∧ trCheck u 511 1 (firstSwitch (cycleNow u) 0) 0 = none := by unfold ringTakes; decide +kernel
theorem witness_transitSwitch : trRec (inTransit phArmed 0 []) 511 = some { x := 0, y := 1 } ∧ trPhase (inTransit phArmed 0 []) 511 = phArmed
    ∧ 0 ≤ cycleNow (inTransit phArmed 0 []) ∧ cycleNow (inTransit phArmed 1 []) < 1 ∧ trPhase (inTransit phTuning 0 []) 511 ≠ phArmed
    ∧ phSwitched ≤ trPhase (inTransit phSwitched 0 []) 511 ∧ rb (inTransit phSwitched 0 []) (trAddr 511) 23 = false
    ∧ rb (inTransit phSwitched 0 []) (trAddr 511) 22 = false
    ∧ rb (wb (inTransit phSwitched 0 []) (trAddr 511) 23 true) (trAddr 511) 23 = true := by decide
theorem witness_eclipse : islDown plant (islandOf (Adr.chnState 1)) = false ∧ isOwner plant (.core 0) (islandOf (Adr.chnState 1)) 5 0 = true
    ∧ plant.prt.standby = false ∧ 0 = uEpoch plant (Adr.chnState 1) ∧ isN200 plant 1 = true ∧ applyHolds plant 0 = false
    ∧ chnEff plant 1 = chRun ∧ otherRuns plant 1 = true ∧ chnEff (setF plant (Adr.chnState 1) 7 0 chEclipse) 1 = chEclipse := by decide
/-- The plant with channel c in a state and a terminal of wavelength 0 in use. -/
def chanIn (c st : Nat) : State := setF (term plant 511 tsActive) (Adr.chnState c) 7 0 st
theorem witness_eclipseEnter : chnEff (chanIn 1 chEclipseEntering) 1 = chEclipseEntering ∧ chanEmpty (chanIn 1 chEclipseEntering) 1 = true
    ∧ chnEff (chanIn 0 chEclipseEntering) 0 = chEclipseEntering ∧ chanEmpty (chanIn 0 chEclipseEntering) 0 = false
    ∧ chnEff (chanIn 1 chWaking) 1 = chWaking ∧ foldState (wf (wf (chnChange (chanIn 1 chWaking) 1 chRun 0) (Adr.chnEclStat 1) 15 8
        (min 20 255)) (Adr.chnComaStat 1) 31 28 0) 0 ≠ 3 ∧ chnEff plant 1 ≠ chWaking := by decide
/-- The plant with TRE_FOLD_CFG v, time base 0 running at 0 and the fold state f; wavelengths 1 and 2 may fold. -/
def folding (v f : Nat) : State :=
  let s : State := { plant with img := { plant.img with treeRec := [(0, treeRec + 6 * 2 ^ 152)] } }
  setF (setF (wrW s (Adr.treFoldCfg 0) v 2) (Adr.timTbStat 0) 31 28 1) (Adr.treFoldStat 0) 31 28 f
theorem witness_fold : let on := 2 ^ 63 + 60 * 2 ^ 40 + 50 * 2 ^ 33
    let off := 2 ^ 63 + 60 * 2 ^ 51 + 120 * 2 ^ 40
    basic (folding on 0) 5 0 = true ∧ baseState (folding on 0) 0 ≠ 0 ∧ foldAnchor (folding on 0) 0 = some 0
      ∧ foldState (folding off 2) 0 = 2 ∧ inWindow (minuteOfDay (folding off 2)) (nfld off 61 51) (nfld off 50 40) = false
      ∧ foldState (folding on 0) 0 = 0 ∧ inWindow (minuteOfDay (folding on 0)) (nfld on 61 51) (nfld on 50 40) = true
      ∧ nbit (rdW (folding on 0) (Adr.treFoldCfg 0) 2) 63 = true ∧ 50 ≤ nfld on 39 33 ∧ foldFits (folding on 0) 0 0 = true
      ∧ foldWaves (folding on 0) 0 = [1, 2] := by decide
theorem witness_balance : let s := { wrW tunable (Adr.treFoldCfg 0) (2 ^ 62 + 10 * 2 ^ 19) 2 with boot := tunable.boot }
    basic s 5 0 = true ∧ nbit (rdW s (Adr.treFoldCfg 0) 2) 62 = true ∧ foldState s 0 = 0
      ∧ ((0, 20) : Nat × Nat).2 > ((1, 9) : Nat × Nat).2 + nfld (rdW s (Adr.treFoldCfg 0) 2) 25 19
      ∧ (∀ p, p ∈ [((0, 20) : Nat × Nat), (1, 9)] → p.1 < 4 ∧ chnEff s (chanOf 0 p.1) = chRun ∧ isN200 s (chanOf 0 p.1) = true)
      ∧ termW s 511 = 0 ∧ treeOfTid 511 = 0 ∧ termEff s 511 = tsActive := by decide
theorem witness_wakeTimeout : chanValid (chanIn 1 chWaking) 1 = true ∧ islState (chanIn 1 chWaking) 1 ≠ islLost := by decide
/-! ## Witnesses: keys and the security module -/

/-- The plant with terminal 511 ACTIVE and its KEK held by channel 0. -/
def keyed : State := setChanKek (term plant 511 tsActive) 0 511 [1#8]
/-- A KEY_INSTALL value for slot k with generation gen and limit lim. -/
def install (k gen lim : Nat) : Nat := (k * 2 ^ 42 + lim * 2 ^ 16 + gen) * 2 ^ 251 * 2 ^ 200
theorem keyed_slots : termEff keyed (slotTid 0 2047) = tsActive ∧ sendingWorn keyed 0 2047 = false ∧ (!(chanKek keyed 0 511).isEmpty) = true
    ∧ keyEff keyed 0 2047 = ksEmpty ∧ keyEff keyed 0 (otherIx 2047) = ksEmpty ∧ keyed.keys.shadow = []
    ∧ slotTid 0 2047 = 511 ∧ keyGen keyed 0 2047 ≠ 65535 := by decide
set_option exponentiation.threshold 600 in
theorem witness_keyInstall : islDown keyed 0 = false ∧ isOwner keyed (.core 0) 0 3 (0 / 4) = true ∧ keyed.prt.standby = false
    ∧ nfld (install 2047 65535 1) 503 493 = 2047 ∧ nfld (install 2047 65535 1) 511 504 = uEpoch keyed (keyAddr 0 2047)
    ∧ nfld (install 2047 65535 1) 466 451 = 65535 ∧ nfld (install 2047 65535 1) 490 467 = 1
    ∧ (∀ m, installCheck keyed 0 2047 65535 1 (!(chanKek keyed 0 (slotTid 0 2047)).isEmpty) (some m) = .ok)
    ∧ nfld (install 2047 65535 0) 490 467 = 0 :=
  ⟨by decide, by decide, by decide, by decide, by decide, by decide, by decide, fun m => by
    obtain ⟨a, b, c, d, e, f, g, h⟩ := keyed_slots
    unfold installCheck
    rw [if_neg (by rw [a, b]; decide), g, if_neg (by rw [Bool.not_eq_true']; simpa using c)]
    simp [d, e, f, Ne.symm h], by decide⟩
/-- Key slot k of channel 0 of the plant in a state. -/
def slotIn (k st : Nat) : State := setF keyed (keyAddr 0 k) 7 0 st
theorem witness_keySlot : islDown keyed (islandOf (keyAddr 0 2044)) = false ∧ isOwner keyed (.core 0) (islandOf (keyAddr 0 2044)) 3 (0 / 4) = true
    ∧ 0 = uEpoch (slotIn 2044 ksReady) (keyAddr 0 2044) ∧ keyEff (slotIn 2044 ksReady) 0 2044 ≠ ksEmpty ∧ keyEff (slotIn 2044 ksReady) 0 2044 = ksReady
    ∧ slotDir 2044 = 0 ∧ keyEff (slotIn 2044 ksActive) 0 2044 ≠ ksReady := by decide
/-- The same with its RETIRE count begun at cycle 0 and the channel at cycle n. -/
def retiring (n : Nat) : State :=
  let s := wrW (slotIn 2046 ksRetiring) (Adr.chnCycle 0) n 2
  { s with keys := { s.keys with retire := [(keyKey 0 2046, 0)] } }
theorem witness_keyRetire : keyEff (retiring 300) 0 2046 = ksRetiring
    ∧ mget (cycleNow (retiring 300)) (retiring 300).keys.retire (keyKey 0 2046) + retireOf (retiring 300) 0 ≤ cycleNow (retiring 300) := by decide
theorem witness_coreCheck : 3 < 4 ∧ ¬ 3 ∈ mget [] plant.keys.coresOut 0
    ∧ (mget [] ({ plant with keys := { plant.keys with coresOut := [(0, [0, 1, 2])] } } : State).keys.coresOut 0 ++ [3]).length = 4 := by decide
/-- The keyed device with its DRBG running and KEY_ROTATE waiting. -/
def rotating : State := onRing { keyed with sec := { keyed.sec with drbg := true } } 0x3001
/-- The device as KEY_ROTATE has opened its record and drawn the key of terminal 511's downstream direction. -/
def drawn (s : State) : State := (drawKey (cmdPut (ringStep s 0) (slotCtx s 0) {})).2
theorem witness_keyRotate : let u := ringStep rotating 0
    ringTakes rotating 0 0x3001 ∧ cmdTidOk u (slotCtx rotating 0).fn 511 = true ∧ basic u 3 (treeOfTid 511) = true ∧ termEff u 511 = tsActive
      ∧ (u.keys.rot.any fun p => p.1 == 511 * 2 + 0) = false ∧ u.sec.drbg = true ∧ isC50 u (termChan u 511) = false := by
  unfold ringTakes; decide +kernel
theorem rotating_facts : let w := drawn rotating
    let k := slotIx (slotOfTid 511) 0 (spareIdx w 0 (slotOfTid 511) 0)
    (termEff w (slotTid 0 k) = tsActive ∧ sendingWorn w 0 k = false) ∧ (chanKek w 0 511).isEmpty = false ∧ keyEff w 0 k = ksEmpty
      ∧ keyEff w 0 (otherIx k) = ksEmpty ∧ w.keys.shadow = [] ∧ 1 ≠ keyGen w 0 k ∧ termChan w 511 = 0
      ∧ (max (keyGen w 0 k) (keyGen w 0 (otherIx k))) % 0xFFFF + 1 = 1 := by decide +kernel
theorem witness_keyRotateInstalls (m : List Byte) : let w := drawn rotating
    let k := slotIx (slotOfTid 511) 0 (spareIdx w 0 (slotOfTid 511) 0)
    installCheck w 0 k 1 0xFFFFFF (!(chanKek w 0 511).isEmpty) (some m) = .ok := by
  obtain ⟨⟨a, b⟩, c, d, e, f, g, _⟩ := rotating_facts
  intro w k
  unfold installCheck
  rw [if_neg (by rw [a, b]; decide), c, if_neg (by decide)]
  simp [w, k, d, e, f, g]
/-- The same of a terminal without a KEK. -/
def rotatingBare : State := onRing { term plant 511 tsActive with sec := { plant.sec with drbg := true } } 0x3001
theorem witness_keyRotateNoKek (m : List Byte) : let w := drawn rotatingBare
    let k := slotIx (slotOfTid 511) 0 (spareIdx w 0 (slotOfTid 511) 0)
    ringTakes rotatingBare 0 0x3001 ∧ chanKek w 0 511 = [] ∧ installCheck w 0 k 1 0xFFFFFF false (some m) = .noKek := by
  refine ⟨by unfold ringTakes; decide +kernel, by decide +kernel, ?_⟩
  unfold installCheck
  rw [if_neg (by decide +kernel)]
  rfl
theorem witness_keyRotateC50 : let s := onRing (wrW (term plant 511 tsActive) (infoAddr 511) (3 * 2 ^ 35) 4) 0x3001
    let v := cmdPut (ringStep s 0) (slotCtx s 0) {}
    ringTakes s 0 0x3001 ∧ isC50 v (termChan v 511) = true ∧ termEff (ringStep s 0) 511 = tsActive := by unfold ringTakes; decide +kernel
theorem witness_keyErase : ringTakes (onRing keyed 0x3002) 0 0x3002 := by unfold ringTakes; decide +kernel
theorem witness_keyCfg : let s := onRing keyed 0x3003
    ringTakes s 0 0x3003 ∧ (slotCtx s 0).fn = 0 ∧ chanValid (ringStep s 0) 3 = true ∧ basic (ringStep s 0) 3 (3 / 4) = true
      ∧ islDown (ringStep s 0) 3 = false := by unfold ringTakes; decide +kernel
/-- Function 3 of tree 0 at the expert level. -/
def expert (s : State) : State := setF s (Adr.mbxOwner 3 0) 0 0 1
theorem witness_keyExpert : let s := onRing (expert keyed) 0x3001
    ringTakes s 0 0x3001 ∧ basic (ringStep s 0) 3 (treeOfTid 511) = false := by unfold ringTakes; decide +kernel

/-- The device with its module operational and a role logged in at the physical function. -/
def module (role : Nat) : State :=
  let s := setF up Adr.secStatus 31 28 smOperational
  { s with sec := { s.sec with role := if role = 0 then [] else [(0, role)], drbg := true } }
/-- The same with a command of a ring. -/
def service (role op : Nat) : State := onRing (module role) op
theorem witness_notReady : secReady (ringStep (onRing up 0x5001) 0) = false ∧ ringTakes (onRing up 0x5001) 0 0x5001
    ∧ ringTakes (onRing up 0x5002) 0 0x5002 ∧ ringTakes (onRing up 0x5005) 0 0x5005 ∧ ringTakes (onRing up 0x5011) 0 0x5011
    ∧ ringTakes (onRing up 0x5006) 0 0x5006 := by unfold ringTakes; decide +kernel
/-- A device with virtual function 0's challenge and User credential, its ring's command waiting. -/
def userLogin : State :=
  let s := setF (service 0 0x5001) (Adr.mbxRingCfg 0) 7 0 1
  { s with sec := { s.sec with chal := [((fnRequester (slotCtx s 0).fn).code, [7#8])],
                               vault := { s.sec.vault with userCred := [(userPart (slotCtx s 0).fn, [1#8])] } } }
theorem witness_loginFacts : ringTakes userLogin 0 0x5001 ∧ secReady (ringStep userLogin 0) = true
    ∧ ¬ ((slotCtx userLogin 0).fn * 4 + 2) ∈ (ringStep userLogin 0).sec.refused
    ∧ mget [] (ringStep userLogin 0).sec.chal (fnRequester (slotCtx userLogin 0).fn).code = [7#8]
    ∧ mget [] (ringStep userLogin 0).sec.vault.userCred (userPart (slotCtx userLogin 0).fn) = [1#8] := by
  unfold ringTakes; decide +kernel
theorem witness_login : ∃ sig, loginOk (secSet (ringStep userLogin 0) fun y => { y with
    chal := mdel y.chal (fnRequester (slotCtx userLogin 0).fn).code }) (slotCtx userLogin 0).fn 2 [7#8] [] sig = true :=
  ⟨_, by
    have h := witness_loginFacts.2.2.2.2
    unfold loginOk secSet
    rw [if_neg (by decide), if_pos (by decide)]
    simp only [h]
    exact Bool.and_eq_true_iff.mpr ⟨rfl, beq_self_eq_true _⟩⟩
theorem witness_services : secReady (ringStep (service roleCo 0x5005) 0) = true
    ∧ sessionOf (ringStep (service roleCo 0x5005) 0) (slotCtx (service roleCo 0x5005) 0).fn = roleCo
    ∧ sessionOf (ringStep (service 0 0x5005) 0) (slotCtx (service 0 0x5005) 0).fn ≠ roleCo
    ∧ (∀ op, op ∈ [0x5002, 0x5003, 0x5004, 0x5005, 0x5006, 0x5007, 0x5008, 0x5009, 0x500A, 0x500B, 0x500C, 0x500D, 0x500E, 0x500F, 0x5010,
        0x5011] → canTake (service roleCo op) 0 op = true ∧ slotOk (service roleCo op) (slotAddr 0 (ringCons (service roleCo op) 0)) = true)
    ∧ (slotCtx (service roleCo 0x5006) 0).fn = 0 ∧ (ringStep (service roleCo 0x5006) 0).sec.vault.coCred = []
    ∧ (∀ g, g < 6 → regionBusy (ringStep (service roleCo 0x5007) 0) g = false)
    ∧ (ringStep (service roleCo 0x500D) 0).sec.vault.pair = none ∧ (ringStep (service roleCo 0x500D) 0).sec.prov = none
    ∧ (ringStep (service roleCo 0x500F) 0).keys.ktk = []
    ∧ (∀ ch, ch < 256 → keySlots (ringStep (service roleCo 0x500F) 0) ch = [])
    ∧ sessionOf (ringStep (service 0 0x5011) 0) (slotCtx (service 0 0x5011) 0).fn = 0 := by decide +kernel
theorem witness_bufferServices : ∀ op, op ∈ [0x500A, 0x500B, 0x5011] → Canon (service roleCo op) := by unfold Canon; decide +kernel
theorem witness_provision : ({ up with sec := { up.sec with prov := some ⟨.none, [], []⟩ } } : State).sec.prov = some ⟨.none, [], []⟩ := rfl
theorem witness_module : (module 0).sec.drbg = true ∧ secState (module 0) = smOperational
    ∧ (∀ i, i < 2 → mget 0 ({ module 0 with sec := { (module 0).sec with ctr := [(0, 1), (1, 1)] } } : State).sec.ctr i
      ≠ (chkNewest (module 0) i).2 ∧ regionBusy (module 0) (4 + i) = false)
    ∧ isPfSide (module 0) .pf = true ∧ fld (0x5EC0#32) 15 0 = 0x5EC0 ∧ fld (0#32) 15 0 ≠ 0x5EC0
    ∧ ({ module 0 with sec := { (module 0).sec with erasing := [1] } } : State).sec.erasing ≠ [] := by decide
/-! ## Witnesses: the parser, forwarding, tables -/

/-- A program of two verbs, MAX_DEPTH 128, MAX_HDRS 8, budget 4. -/
def prog (v0 v1 : Nat) : List Byte :=
  List.replicate 8 0#8 ++ bytesLE 2 2 ++ bytesLE 2 0 ++ bytesLE 2 128 ++ [8#8, 4#8] ++ List.replicate 48 0#8 ++ bytesLE 8 v0 ++ bytesLE 8 v1
/-- A verb of code op with OFS, WIDTH - 1, TARGET and an immediate. -/
def verb (op ofs width target imm : Nat) : Nat := op * 2 ^ 58 + ofs * 2 ^ 46 + width * 2 ^ 38 + target * 2 ^ 26 + imm
/-- A packet of n zero bytes under parse at pc 0, the cursor at cur, hdrs headers so far. -/
def parsing (n cur hdrs : Nat) : ParseCtx :=
  { item := { fr := { cl := { kind := ClauseKind.packet.code }, data := List.replicate n 0 }, port := 0 }, pc := 0, cur := cur, hdrCount := hdrs }
/-- A device whose pipeline 0 stands at a verb. -/
def atVerb (v : Nat) (c : ParseCtx) : State :=
  { up with img := { up.img with grammar := prog v v }, grm := { up.grm with ctx := [(0, c)] } }
theorem witness_verbs : ∀ op, op < 15 → verbAt (atVerb (verb op 0 7 0 0) (parsing 64 0 2)) 0 op (parsing 64 0 2) (verb op 0 7 0 0) := by
  unfold verbAt; decide +kernel
theorem witness_verbBounds : 510 + vImm (verb 5 0 0 0 1) % 512 ≤ 511 ∧ 511 < 511 + vImm (verb 5 0 0 0 1) % 512
    ∧ (parsing 64 0 7).hdrCount + 1 ≤ progMaxHdrs (progOf (atVerb (verb 8 0 0 0 1) (parsing 64 0 7)) false)
    ∧ progMaxHdrs (progOf (atVerb (verb 8 0 0 0 1) (parsing 64 0 8)) false) < (parsing 64 0 8).hdrCount + 1 := by decide
theorem witness_fields : let b := prog (verb 3 0 7 1 0) (verb 3 0 7 2 0)
    fieldEx b (parsing 64 63 2) (verb 3 0 7 1 0) = none ∧ fieldEx b (parsing 64 64 2) (verb 3 0 7 1 0) = some .malformed
      ∧ fieldEx b (parsing 64 128 2) (verb 3 0 7 1 0) = some .depth
      ∧ vTarget (verb 3 0 7 1 0) + min 0 (vImm (verb 3 0 7 1 0) % 256) < progVerbs b
      ∧ progVerbs b ≤ vTarget (verb 3 0 7 2 0) + min 0 (vImm (verb 3 0 7 2 0) % 256)
      ∧ 0 + (0 * 2 ^ (vImm (verb 6 0 7 0 16) % 8) + nfld (vImm (verb 6 0 7 0 16)) 12 4) ≤ 511 := by decide
/-- A device whose pipeline 0 has an item waiting, in program prog. -/
def waiting (k n : Nat) : State :=
  { up with img := { up.img with grammar := prog 0 0 }
            flow := { up.flow with ingress := [(0, [{ fr := { cl := { kind := k }, data := List.replicate n 0 }, port := 0 }])] } }
/-- What the Prefix stage answers to the item of pipeline 0. -/
def admitted (n : Nat) : Option ParseEx :=
  let s := waiting ClauseKind.packet.code n
  let x : Ingress := { fr := { cl := { kind := ClauseKind.packet.code }, data := List.replicate n 0 }, port := 0 }
  let u := pc (setIngress s 0 []) { code := 0x08, unit := some 0, tc := some x.fr.cl.tc }
  let d := traceDraw u 0 (prefixClause u x)
  (prefixStage d.2 x d.1 (d.2.grm.loading && decide (0 ∈ d.2.grm.marked))).2
theorem witness_admit : ctxOfPipe (waiting ClauseKind.packet.code 60) 0 = none
    ∧ ingressOf (waiting ClauseKind.packet.code 60) 0
      = [{ fr := { cl := { kind := ClauseKind.packet.code }, data := List.replicate 60 0 }, port := 0 }]
    ∧ admitted 14 = none ∧ admitted 13 = some .malformed
    ∧ (8 : Nat) ≠ ClauseKind.packet.code ∧ (8 : Nat) ≠ ClauseKind.hostInject.code := by decide
theorem witness_markers : let s := { up with grm := { up.grm with loading := true, marked := List.range 16 } }
    s.grm.loading = true ∧ (∀ p, p < 16 → p ∈ s.grm.marked) ∧ s.grm.ctx = [] := by decide

/-- A frame of 60 bytes in bridge domain 0 that entered on port. -/
def fwdItem (port : Nat) (data : List Byte) : FwdItem :=
  { fr := { cl := { kind := ClauseKind.packet.code }, data := data }, port := port, e := 12, etype := 0 }
/-- A device with an item to forward, bridge domain 0 set to v. -/
def forwarding (v port : Nat) : State :=
  let s := { up with flow := { up.flow with fwd := [(0, [fwdItem port (List.replicate 60 0)])] } }
  tblPut s tbBdCfg 0 v
/-- The same with address 0 of the domain at a destination. -/
def known (dest : Nat) : State :=
  match brWays (forwarding (2 ^ 127) 0) 0 0 with
  | i :: _ => tblPut (forwarding (2 ^ 127) 0) tbBridge i (2 ^ 127 + 2 ^ 126 + dest * 2 ^ 40)
  | [] => forwarding (2 ^ 127) 0
/-- Where the known address is found after the source step. -/
def foundAt (dest : Nat) : Option Nat :=
  let s := known dest
  let u := { s with flow := { s.flow with fwd := mset [] s.flow.fwd 0 [] } }
  brFind (sourceStep u (fwdItem 0 (List.replicate 60 0)) (bdCfg u 0)) 0 0
theorem witness_forward : mget [] (forwarding 0 0).flow.fwd 0 = fwdItem 0 (List.replicate 60 0) :: []
    ∧ nbit (bdCfg (forwarding 0 0) 0) 127 = false ∧ nbit (bdCfg (forwarding (2 ^ 127 + 2 ^ 125) 0) 0) 127 = true
    ∧ bdPart (bdCfg (forwarding (2 ^ 127) 0) 0) = 0
    ∧ spoofOk (forwarding (2 ^ 127) 0) (fwdItem 0 (List.replicate 60 0)) (2 ^ 127) = true
    ∧ nbit (bdCfg (forwarding (2 ^ 127 + 2 ^ 125) 0) 0) 125 = true ∧ nbit (bdCfg (forwarding (2 ^ 127) 0) 0) 125 = false := by decide +kernel
theorem witness_known : (∃ i, foundAt 0xFFFF = some i) ∧ (∃ i, foundAt 511 = some i) := by
  have h : (foundAt 0xFFFF).isSome = true ∧ (foundAt 511).isSome = true := by decide +kernel
  exact ⟨Option.isSome_iff_exists.mp h.1, Option.isSome_iff_exists.mp h.2⟩
theorem witness_spoof : spoofOk (tblPut (forwarding (2 ^ 127) 0) tbAsp 0x7FFF (2 ^ 63 + 2 ^ 61)) (fwdItem 0 (List.replicate 60 0)) (2 ^ 127) = false := by
  decide +kernel
theorem witness_aging : rf (setF up Adr.fwdBrCfg 31 20 0) Adr.fwdBrCfg 31 20 = 0 ∧ rf (setF up Adr.fwdBrCfg 31 20 1) Adr.fwdBrCfg 31 20 ≠ 0 := by
  decide
theorem witness_age : brHit (2 ^ 127 + 2 ^ 124) = true ∧ brHit (2 ^ 127) = false ∧ brAge (2 ^ 127 + 2 ^ 122) < 2 ∧ 2 ≤ brAge (2 ^ 127 + 2 ^ 123)
    ∧ brStatic (2 ^ 127 + 2 ^ 123) = false ∧ brLock (2 ^ 127 + 2 ^ 123) = false := by decide
theorem witness_locks : tblShape up tbExact = some (32, hostEntries (tabPlan up)) ∧ tblLockBit tbExact 32 = some 254
    ∧ (tblShape up tbBridge).isSome = true ∧ tblLockBit tbBridge 16 = some 125 ∧ tblLockBit 11 64 = some 510
    ∧ tblValid 16 (2 ^ 127 + 2 ^ 125) = true ∧ nbit (2 ^ 127 + 2 ^ 125) 125 = true := by decide
/-- A table command word: TABLE, PLANE, generation. -/
def tcmd (table plane gen : Nat) : Word := BitVec.ofNat 32 (table * 2 ^ 23 + plane * 2 ^ 21 + gen)
theorem witness_tcmd : tcTable (fld (tcmd 7 0 1) 26 23) (fld (tcmd 7 0 1) 22 21) = none
    ∧ tcTable (fld (tcmd 2 3 1) 26 23) (fld (tcmd 2 3 1) 22 21) = some 11
    ∧ tcTable (fld (tcmd 0 0 1) 26 23) (fld (tcmd 0 0 1) 22 21) = some tbBridge ∧ tblShape up tbBridge = some (16, 4194304)
    ∧ fld (rdReq up .pf Adr.fwdTindex) 26 0 < 4194304
    ∧ 262144 ≤ fld (rdReq (wrReq up .pf Adr.fwdTindex 262144#32) .pf Adr.fwdTindex) 26 0
    ∧ (tblWrite up .pf tbNh 0 (tblSetGen tbNh 16 0 1)).2 = none ∧ (tblWrite up .pf tbNh 0 0).2 = some .outOfRange
    ∧ tblKeyed tbBridge = true ∧ fld (tcmd 0 0 1) 15 0 ≠ 0 := by decide +kernel
/-- An image whose only section is a table plan with plane 3 of width code 2. -/
def freeformImg : List Byte :=
  List.replicate 8 0#8 ++ bytesLE 4 208 ++ List.replicate 52 0#8 ++ [5#8, 0, 0, 0, 0x80, 0, 0, 0] ++ List.replicate 11 0#8 ++ [2#8]
    ++ List.replicate 124 0#8
theorem witness_freeform : planeWidth (tabPlan { up with img := { up.img with running := freeformImg } }) (11 - 8) = 2
    ∧ planeWidth (tabPlan up) (11 - 8) ≠ 2 := by decide +kernel
/-- The entry that INSERT makes of FWD_TDATA for a table code of stride st. -/
def inserted (s : State) (code st : Nat) : Nat := putNfld (tblSetGen code st (tdata s .pf st) 1) (8 * st - 1) (8 * st - 1) 1
/-- A device with bridge domain 0 valid and an address for the port's own terminal in FWD_TDATA. -/
def bridging : State := setTdata (forwarding (2 ^ 127) 0) .pf 16 (0xFFFF * 2 ^ 40)
theorem witness_insert : let s := bridging
    let v := inserted s tbBridge 16
    s.fwd.reloc = none ∧ islDown s (islandOf Adr.fwdTcmd) = false ∧ tblFindKey s tbBridge v = none
      ∧ ((freeWay s tbBridge 16 (brWays s (brBd v) (brMac v))).any fun i =>
          decide (i < 4194304) && tblMayWrite s .pf tbBridge i v && tblGen tbBridge 16 v != 0 && !tblBad s tbBridge i v) = true := by
  decide +kernel
theorem witness_duplicate : ((brWays bridging 0 0).head?.any fun i =>
    let u := tblPut bridging tbBridge i (inserted bridging tbBridge 16)
    (tblFindKey u tbBridge (inserted u tbBridge 16)).isSome
      && (tblFindKey u tbBridge (inserted u tbBridge 16)).all (fun i => tblMayWrite u .pf tbBridge i (tblEntry u tbBridge i))
      && (tblSearchKey u tbBridge (inserted u tbBridge 16)).isSome) = true
    ∧ tblSearchKey bridging tbBridge (inserted bridging tbBridge 16) = none := by decide +kernel
/-- An image whose only section is a table plan with plane 0 for routes. -/
def routeImg : List Byte :=
  List.replicate 8 0#8 ++ bytesLE 4 208 ++ List.replicate 52 0#8 ++ [5#8, 0, 0, 0, 0x80, 0, 0, 0] ++ List.replicate 12 0#8 ++ [1#8]
    ++ List.replicate 123 0#8
/-- A device with that plan and a route of 8 bits in FWD_TDATA. -/
def routing : State := setTdata { up with img := { up.img with running := routeImg } } .pf 64 (0xFF * 2 ^ 280)
/-- Whether an INSERT of its route has its hypotheses met, with moves to make or none. -/
def routeIn (s : State) (moves : Bool) : Bool :=
  let v := inserted s 8 64
  let role := planeRole (tabPlan s) 0
  role == 1 && (tblFindKey s 8 v).isNone
    && !((spaceList s role).any fun e => acmKey 0 e.2 == acmKey 0 v && acmMask 0 e.2 == acmMask 0 v)
    && (insertPlan (spaceList s role) (spaceSize s role) (routeLen v)).any fun q =>
      q.2.isEmpty != moves && !(q.2.any fun m => nbit ((atPos (spaceList s role) m.1).getD 0) 510)
        && (spaceAt s role q.1).any fun x => tblMayWrite s .pf x.1 x.2 v && tblGen x.1 64 v != 0 && !tblBad s x.1 x.2 v
theorem witness_route : tblShape routing 8 = some (64, 131072) ∧ planeWidth (tabPlan routing) 0 ≠ 2 ∧ routeIn routing false = true
    ∧ routeIn (tblPut routing 8 0 (2 ^ 511)) true = true := by decide +kernel
/-- The same with a relocation from 0 to 1 that has n moves left to make. -/
def moving (copied : Bool) (ms : List (Nat × Nat)) : State := { routing with fwd := { routing.fwd with
  reloc := some { who := .core 0, word := 0, role := 1, moves := ms, copied := copied, moved := [(0, 1)], code := 8, idx := 0, entry := 0 } } }
theorem witness_relocation : (∃ r, (moving false [(0, 1)]).fwd.reloc = some r ∧ r.moves = (0, 1) :: [] ∧ r.copied = false)
    ∧ (∃ r, (moving true [(0, 1)]).fwd.reloc = some r ∧ r.moves = (0, 1) :: [] ∧ r.copied = true)
    ∧ ∃ r, (moving false []).fwd.reloc = some r ∧ r.moves = [] := ⟨⟨_, rfl, rfl, rfl⟩, ⟨_, rfl, rfl, rfl⟩, ⟨_, rfl, rfl⟩⟩
theorem witness_retry : let s := moving true []
    relocSome s = s ∧ islDown s (islandOf Adr.fwdTcmd) = false ∧ (s.fwd.reloc.any fun r => r.who == .pf) = false
      ∧ tcTable (fld (tcmd 2 0 1) 26 23) (fld (tcmd 2 0 1) 22 21) = some 8
      ∧ (movedTo s 8 (fld (rdReq s .pf Adr.fwdTindex) 26 0)).isSome = true := ⟨rfl, by decide +kernel⟩
theorem witness_window : let sel := rdReq (wrReq up .pf Adr.mbxTblwSel 3#32) .pf Adr.mbxTblwSel
    fld sel 5 0 = tbNh ∧ tblShape up tbNh = some (16, 262144) ∧ (0 + 4194300 / 16 < 262144) ∧ 4194300 % 4 = 0 ∧ tbNh ≠ tbAstat
      ∧ 4194296 % 16 / 4 + 1 < 16 / 4 ∧ mget 0 up.acc.tblEntry (Requester.code .pf) = 0 := by decide
/-! ## Witnesses: uplink ports, buffers, time -/

/-- A device with uplink port 0 of one lane enabled, its link up or down. -/
def port0 (link : Nat) : State :=
  setF (setF (setF up (Adr.uplGrpMode 0) 2 0 4) (Adr.uplPortCfg 0) 31 31 1) (Adr.uplPortStat 0) 31 31 link
theorem witness_link : laneValid (port0 0) 0 = true ∧ portExists (port0 0) 0 = true ∧ rb (port0 0) (Adr.uplPortCfg 0) 31 = true
    ∧ islState (port0 0) (uplIsland 0) = islRun ∧ portUp (port0 1) 0 = true ∧ (port0 1).boot.dataStopped = false
    ∧ (∃ u, u < 8 ∧ portExists (port0 0) u = false) ∧ isPfSide up .pf = true ∧ islDown up (256 + 31) = false
    ∧ grpModeOk 0x155 = true ∧ grpModeOk 0x050 = true ∧ grpModeOk 0x006 = false ∧ grpModeOk 0x060 = false := by decide
theorem witness_uplinkReceive : fiArmed (port0 1) (Adr.fiCfgUrx 0) = false ∧ (fiOf (port0 1) (Adr.fiCfgUrx 0)).held = []
    ∧ fcsOk (List.replicate 63 0) = false ∧ (List.replicate 63 (0#8 : Byte)).length < 64 := by decide +kernel
/-- Port 0 with a frame in the queue of class 7, or of class 6 with class 7 paused. -/
def uplQueued (tc : Nat) : State :=
  setQueue { port0 1 with upl := { (port0 1).upl with paused := if tc = 7 then [] else [(0, 0x80)] } } (uplKey 0 tc) [frame4]
/-- The state a port of group 0 picks its next frame from (R222). -/
def picking (s : State) (u : Nat) : State :=
  let ks := (List.range 8).map (uplKey u)
  markFits (qCleanAll s ks) ks (uplFits (qCleanAll s ks) u 0)
theorem witness_uplinkTransmit : (∀ tc, tc < 8 → uplHead (picking (port0 1) 0) 0 tc 0 = none)
    ∧ uplHead (picking (uplQueued 7) 0) 0 7 0 = some frame4
    ∧ uplHead (picking (uplQueued 6) 0) 0 6 0 = some frame4 ∧ uplHead (picking (uplQueued 6) 0) 0 7 0 = none
    ∧ portUp (uplQueued 6) 0 = true ∧ (uplQueued 6).boot.dataStopped = false
    ∧ frame4.cl.kind ≠ ClauseKind.tracer.code ∧ frame4.tsReq = none := by decide +kernel
theorem witness_pfc : rb (setF (port0 1) (Adr.uplPortCfg 0) 25 25 1) (Adr.uplPortCfg 0) 25 = true
    ∧ portUp (setF (port0 1) (Adr.uplPortCfg 0) 25 25 1) 0 = true := by decide
/-- A device whose buffer 0 is held by names. -/
def held (lost : Bool) (names : List Nat) : State :=
  { up with buf := { up.buf with desc := [(0, { lost := lost, len := 4, part := 0, names := names })] } }
theorem witness_free : handleOk (held false [7, 7]) 0 = true ∧ descOf (held false [7, 7]) 0 = some { len := 4, part := 0, names := [7, 7] }
    ∧ ([7, 7] : List Nat).erase 7 ≠ [] ∧ ([7] : List Nat).erase 7 = [] ∧ ¬ 8 ∈ ([7, 7] : List Nat) ∧ descOf up 0 = none
    ∧ descOf (held true [7]) 0 = some { lost := true, len := 4, part := 0, names := [7] }
    ∧ isPfSide (held false [7]) .pf = true ∧ islDown (held false [7]) (islandOf Adr.bpmFree) = false := by decide
theorem witness_deepHead : qFrames queued 7 ≠ [] ∧ qFrames queued 8 = [] ∧ queued.boot.dataStopped = false := by decide

/-- A device with time base 7 in a state. -/
def based (st : Nat) (x : BaseSt) : State :=
  setF { up with tim := { up.tim with base := [(7, x)] } } (Adr.timTbStat 7) 31 28 st
theorem witness_holdover : Canon (based tbLocked { adj := 5 }) ∧ baseState (based tbLocked { adj := 5 }) 7 = tbLocked
    ∧ baseSrc (based tbLocked { adj := 5 }) 7 ≠ 2 ∧ baseSrc (setF (based tbLocked {}) (Adr.timTbCfg 7) 31 30 2) 7 = 2
    ∧ islDown up 339 = false ∧ isOwner up (.core 0) 339 4 0 = true ∧ baseSrc (based tbHoldover { adj := 5 }) 7 = 0
    ∧ baseState (based tbHoldover { adj := 5 }) 7 ≠ tbUnset
    ∧ signed 48 (nfld 6553600 47 0) ≤ (max 1 (rf (based tbLocked {}) (Adr.timTbCfg 7) 15 0) * 100 * 65536 : Nat)
    ∧ ((max 1 (rf (setF (based tbLocked {}) (Adr.timTbCfg 7) 15 0 1) (Adr.timTbCfg 7) 15 0) * 100 * 65536 : Nat) : Int)
      < signed 48 (nfld 6553601 47 0) := by unfold Canon; decide
theorem witness_bases : (baseOf (based tbLocked { held := some 5, staged := some 0 }) 7).held = some 5
    ∧ (baseOf (based tbLocked { held := some 5, staged := some 0 }) 7).staged = some 0 ∧ (baseOf (based tbLocked {}) 7).held = none
    ∧ baseState up 7 = tbUnset ∧ isPfSide up .pf = true ∧ timeOk (nfld (999999999 * 2 ^ 48) 127 32) = true
    ∧ timeOk (nfld (1000000000 * 2 ^ 48) 127 32) = false := by decide
/-- A device with PPS input and output enabled, an edge accepted at instant last - 1, base 0 running. -/
def pps (last : Nat) : State :=
  let s := wrW { up with tim := { up.tim with ppsLast := last } } Adr.timPpsCfg (2 ^ 35 + 2 ^ 63 + 1 * 2 ^ 48) 2
  setF s (Adr.timTbStat 0) 31 28 1
/-- A time-of-day message with its check. -/
def todMsg : List Byte :=
  let m : List Byte := [0xC5#8, 0x3A, 0x01, 0x01] ++ List.replicate 10 0
  m ++ bytesBE 2 (crc16 m)
theorem witness_pps : rfW (pps 1) Adr.timPpsCfg 2 35 35 = 1 ∧ (pps 1).tim.ppsLast ≠ 0
    ∧ devNs (pps 1) 899999999 + 1 < (pps 1).tim.ppsLast + 900000000 ∧ (pps 1).tim.ppsLast + 900000000 ≤ devNs (pps 1) 900000000 + 1
    ∧ (pps 0).tim.ppsLast = 0 ∧ rb (pps 0) Adr.timEvent 7 = false ∧ rb (setF (pps 0) Adr.timEvent 7 7 1) Adr.timEvent 7 = true
    ∧ rfW (setF up Adr.timPpsCfg 3 3 0) Adr.timPpsCfg 2 35 35 = 0
    ∧ islDown up 255 = false ∧ isOwner up (.core 0) 255 4 0 = true := by decide
theorem witness_ppsOut : let s := setF (setF (pps 1) Adr.glbBootStat 31 28 7) Adr.timTodCfg 31 31 0
    outsHeld s = false ∧ rfW s Adr.timPpsCfg 2 63 63 = 1 ∧ baseState s (rfW s Adr.timPpsCfg 2 62 60) ≠ tbUnset ∧ prtOutOk s = true
      ∧ rb s Adr.timTodCfg 31 = false := by decide
theorem witness_tod : todMsg.length = 16 ∧ ofBytesBE (todMsg.take 3) = 0xC53A01 ∧ (todMsg.getD 3 0).toNat.testBit 0 = true
    ∧ crc16 (todMsg.take 14) = ofBytesBE (todMsg.drop 14) ∧ (pps 1).tim.ppsLast + 10000000 ≤ devNs (pps 1) 10000000 + 1
    ∧ devNs (pps 1) 900000000 + 1 ≤ (pps 1).tim.ppsLast + 900000000
    ∧ rb (setF (pps 1) Adr.timTodCfg 30 30 1) Adr.timTodCfg 30 = true := by decide +kernel
/-- A device with capture input 7 enabled on both edges, MIN_P 1 us, stuck detection on, 0 to 16 records waiting. -/
def capture (last n : Nat) : State :=
  let s := { up with tim := { up.tim with cap := [(7, { last := last, fifo := List.replicate n 5 })] } }
  wrW s (Adr.timCapCfg 7) (2 ^ 63 + 3 * 2 ^ 61 + 1 * 2 ^ 16 + 1) 2
theorem witness_capture : let cfg := rdW (capture 1 16) (Adr.timCapCfg 7) 2
    nbit cfg 63 = true ∧ nbit (nfld cfg 62 61) 0 = true ∧ nbit (nfld cfg 62 61) 1 = true ∧ nbit cfg 57 = false ∧ nfld cfg 15 0 ≠ 0
      ∧ (capOf (capture 1 16) 7).last ≠ 0 ∧ devNs (capture 1 16) 999 + 1 < 1 + max 1 (nfld cfg 31 16) * 1000
      ∧ 1 + max 1 (nfld cfg 31 16) * 1000 ≤ devNs (capture 1 16) 1000 + 1 ∧ (capOf (capture 0 0) 7).last = 0
      ∧ rb (capture 0 0) (Adr.timCapStat 7) 31 = false ∧ 16 ≤ (capOf (capture 1 16) 7).fifo.length
      ∧ (capOf (capture 1 2) 7).fifo = 5 :: [5] ∧ islDown (capture 1 2) 339 = false := by decide
/-- An action value of slot 63: ARM, KIND, ARG1, at instant t of base 7. -/
def action (arm kind arg1 t : Nat) : Nat := t * 2 ^ 160 + 7 * 2 ^ 157 + kind * 2 ^ 153 + arm * 2 ^ 151 + arg1 * 2 ^ 32
theorem witness_actions : let s := based tbLocked {}
    islDown s 339 = false ∧ isPfSide s .pf = true ∧ nbit (action 1 1 8 0) 151 = true ∧ nbit (action 0 1 8 0) 151 = false
      ∧ (!actArgsOk s (nfld (action 1 1 8 0) 156 153) (nfld (action 1 1 8 0) 95 64) (nfld (action 1 1 8 0) 63 32)
        || decide (0 < nfld (action 1 1 8 0) 149 120 ∧ nfld (action 1 1 8 0) 149 120 < 1000)
        || decide (1000000000 < nfld (action 1 1 8 0) 149 120) || baseState s (nfld (action 1 1 8 0) 159 157) == tbUnset
        || !timeOk (nfld (action 1 1 8 0) 255 160)) = false
      ∧ actArgsOk s (nfld (action 1 1 7 0) 156 153) (nfld (action 1 1 7 0) 95 64) (nfld (action 1 1 7 0) 63 32) = false := by decide
/-- A device whose slot 63 holds an action of a kind, ARMED for instant t of base 7. -/
def armed (kind t : Nat) : State := wrW (based tbLocked {}) (Adr.timAct 63) (action 1 kind 8 t + actArmed * 2 ^ 28) 8
theorem witness_actionRuns : actStatus (armed 1 0) 63 = actArmed ∧ actKind (armed 1 0) 63 = 1
    ∧ timeTicks (actTime (armed 1 0) 63) ≤ baseAt (armed 1 0) (actTb (armed 1 0) 63) 0 ∧ prtOutOk (armed 1 0) = true
    ∧ (actDo (armed 1 0) 63 0).2 = 0 ∧ (actDo (armed 2 0) 63 0).2 ≠ 0
    ∧ baseAt (armed 1 (2 ^ 48)) (actTb (armed 1 (2 ^ 48)) 63) 0 < timeTicks (actTime (armed 1 (2 ^ 48)) 63)
    ∧ actFld (armed 1 0) 63 152 152 = 0 ∧ actKind (armed 3 0) 63 ≠ 1
    ∧ outsHeld (setF (armed 1 0) Adr.glbBootStat 31 28 7) = false ∧ actKind (setF (armed 1 0) Adr.glbBootStat 31 28 7) 63 = 1 := by decide
/-! ## Witnesses: command rings and DMA -/

theorem witness_rings : fnOf up .pf = ringFn up 15 ∧ fnOf up (.vf 0) ≠ ringFn up 15
    ∧ 256 < modSub (257 % 512) (ringCons up 15) 512 ∧ modSub (256 % 512) (ringCons up 15) 512 ≤ 256
    ∧ canTake (wr (cmd 0x4003) (slotAddr 0 0 + 0x3C) 0#32) 0 0x4003 = true
    ∧ slotOk (wr (cmd 0x4003) (slotAddr 0 0 + 0x3C) 0#32) (slotAddr 0 0) = false
    ∧ slotOk (wr (cmd 0x5003) (slotAddr 0 0 + 0x3C) 0#32) (slotAddr 0 0) = false ∧ ringCons (cmd 0x4003) 0 = 0
    ∧ opcodeListed 0x6001 = false ∧ canTake (cmd 0x6001) 0 0x6001 = true ∧ slotOk (cmd 0x6001) (slotAddr 0 0) = true
    ∧ ringOn up 0 = false ∧ islDown up 336 = false := by decide +kernel
/-- A table command of ring 0 on a device, with a generation and a number of items at 0x1000, host memory listing one item. -/
def tableOn (s : State) (op gen count idx word : Nat) : State :=
  let s := { s with hostMem := mputBytes 0 (mputBytes 0 [] 0x1000 (bytesLE 8 idx)) 0x1008 (bytesLE 64 word) }
  let s := wb (wf (withCmd s op 0 count 0x1000) (Adr.mbxRingIdx 0) 8 0 1) (Adr.mbxRingCfg 0) 31 true
  let s := wr s (slotAddr 0 0 + 8) (BitVec.ofNat 32 gen)
  wr s (slotAddr 0 0 + 0x3C) (BitVec.ofNat 32 (crc32c (regBytes s (slotAddr 0 0) 15)))
/-- The same on the plant. -/
def tableOp (op gen count idx word : Nat) : State := tableOn plant op gen count idx word
theorem witness_tableCmds : ∀ op, op ∈ [0x2001, 0x2002, 0x2003, 0x2004, 0x2005] → ∀ gen, gen ∈ [0, 1] → let n := 1 - gen
    canTake (tableOp op gen n 0 0) 0 op = true ∧ slotOk (tableOp op gen n 0 0) (slotAddr 0 (ringCons (tableOp op gen n 0 0) 0)) = true
      ∧ (slotCtx (tableOp op gen n 0 0) 0).gen = gen ∧ (slotCtx (tableOp op gen n 0 0) 0).count = n
      ∧ (slotCtx (tableOp op gen n 0 0) 0).fn = 0 := by decide +kernel
theorem witness_tableItem : let s := tableOp 0x2002 1 1 0 0
    let b := mbytes 0 (ringStep s 0).hostMem (slotCtx s 0).addr 40
    (dsQueueWrite (ringStep s 0) (leAt b 0 8) (putNfld (leAt b 8 32) 223 208 (slotCtx s 0).gen)).2 = none := by decide +kernel
theorem witness_tableItemBad : let s := tableOp 0x2002 1 1 (2 ^ 20) 0
    let b := mbytes 0 (ringStep s 0).hostMem (slotCtx s 0).addr 40
    (dsQueueWrite (ringStep s 0) (leAt b 0 8) (putNfld (leAt b 8 32) 223 208 (slotCtx s 0).gen)).2 = some .outOfRange := by decide +kernel
theorem witness_tmpl : itemsOwn (ringStep (tableOp 0x2004 1 1 0 0) 0) 0 ([(511, 0)].map (·.1)) = true := by decide +kernel
/-- An image of a partition plan whose partition 0 may have a queue and a table plan of 64 classification rules. -/
def tableImg : List Byte :=
  List.replicate 8 0#8 ++ bytesLE 4 2272 ++ List.replicate 52 0#8 ++ [3#8, 0, 0, 0] ++ bytesLE 4 2048 ++ List.replicate 8 0#8
    ++ (List.replicate 0x18 0#8 ++ bytesLE 4 1 ++ List.replicate 2020 0#8)
    ++ [5#8, 0, 0, 0] ++ bytesLE 4 128 ++ List.replicate 8 0#8 ++ (List.replicate 0x10 0#8 ++ bytesLE 4 64 ++ List.replicate 108 0#8)
/-- A template with no queue, its node of weight 1. -/
def tmplImg : List Byte := [0#8, 0x80] ++ List.replicate 14 0#8 ++ bytesLE 16 (2 ^ 38) ++ List.replicate 224 0#8
/-- The plant with those plans and terminal 511 ACTIVE. -/
def planned : State :=
  let s := term plant 511 tsActive
  wrW { s with img := { s.img with running := tableImg, templates := tmplImg } } (Adr.chnGeAssured 0) 100 1
theorem witness_tableAlloc : let s := tableOn planned 0x2001 1 1 0 (2 ^ 255 + 511 * 2 ^ 230)
    let u := ringStep s 0
    let x := slotCtx s 0
    let v := putNfld (leAt ((mbytes 0 u.hostMem x.addr 40)) 8 32) 223 208 x.gen
    canTake s 0 0x2001 = true ∧ slotOk s (slotAddr 0 (ringCons s 0)) = true ∧ treeValid u (treeOfAid 0) = true
      ∧ basic u 1 (treeOfAid 0 % 64) = true ∧ aValid v = true ∧ geAllocCheck u 0 v = none ∧ isC50 u (termChan u (aTid v)) = false := by
  decide +kernel
theorem witness_tableQueue : let s := tableOn planned 0x2002 1 1 0 (2 ^ 255 + 511 * 2 ^ 240 + 2 ^ 120)
    let u := ringStep s 0
    let x := slotCtx s 0
    let v := putNfld (leAt ((mbytes 0 u.hostMem x.addr 40)) 8 32) 223 208 x.gen
    canTake s 0 0x2002 = true ∧ slotOk s (slotAddr 0 (ringCons s 0)) = true ∧ treeValid u (treeOfQid 0) = true
      ∧ basic u 2 (treeOfQid 0 % 64) = true ∧ qValid v = true ∧ dsQueueCheck u 0 v = none := by decide +kernel
theorem witness_tableNode : let s := tableOn planned 0x2003 1 1 511 (2 ^ 127 + 2 ^ 38)
    let u := ringStep s 0
    let x := slotCtx s 0
    let v := putNfld (leAt ((mbytes 0 u.hostMem x.addr 24)) 8 16) 37 22 x.gen
    canTake s 0 0x2003 = true ∧ slotOk s (slotAddr 0 (ringCons s 0)) = true ∧ leAt ((mbytes 0 u.hostMem x.addr 24)) 0 8 = 511
      ∧ treeValid u (treeOfTid 511) = true ∧ basic u 2 (treeOfTid 511 % 64) = true ∧ nbit v 127 = true ∧ dsTermCheck v = none := by
  decide +kernel
theorem witness_tableRule : let s := tableOn planned 0x2005 1 1 63 (2 ^ 511)
    let u := ringStep s 0
    let x := slotCtx s 0
    let v := tblSetGen tbCls 64 (leAt ((mbytes 0 u.hostMem x.addr 72)) 8 64) x.gen
    canTake s 0 0x2005 = true ∧ slotOk s (slotAddr 0 (ringCons s 0)) = true ∧ leAt ((mbytes 0 u.hostMem x.addr 72)) 0 8 = 63
      ∧ tblShape u tbCls = some (64, 64) ∧ tblMayWrite u .pf tbCls 63 v = true ∧ tblGen tbCls 64 v ≠ 0 ∧ tblBad u tbCls 63 v = false := by
  decide +kernel
theorem witness_tableTmpl : let s := tableOn planned 0x2004 1 1 0 0
    let u := ringStep s 0
    let x := slotCtx s 0
    let v := putNfld (putNfld (tmplNode u.img.templates 0) 127 127 1) 37 22 x.gen
    canTake s 0 0x2004 = true ∧ slotOk s (slotAddr 0 (ringCons s 0)) = true ∧ x.gen ≠ 0 ∧ x.count = 1 ∧ x.fn = 0
      ∧ treeValid u (treeOfTid 511) = true ∧ slotOfTid 511 < slotLimit u (treeOfTid 511) ∧ 0 < tmplCount u.img.templates
      ∧ tmplValid u.img.templates 0 = true ∧ tmplQcount u.img.templates 0 = 0 ∧ basic u 2 (treeOfTid 511) = true ∧ nbit v 127 = true
      ∧ dsTermCheck v = none := by decide +kernel
theorem witness_assured : let s := wrW (term plant 511 tsActive) (Adr.chnGeAssured 0) 100 1
    geAllocCheck s 0 (2 ^ 255 + 511 * 2 ^ 230 + 100 * 2 ^ 186 + 100 * 2 ^ 164) = none
      ∧ 0 ∈ countChans s (aTid (2 ^ 255 + 511 * 2 ^ 230 + 100 * 2 ^ 186 + 100 * 2 ^ 164))
      ∧ geAllocCheck s 0 (2 ^ 255 + 511 * 2 ^ 230 + 101 * 2 ^ 186 + 101 * 2 ^ 164) ≠ none := by decide +kernel
theorem witness_flash : ∀ op, op ∈ [1, 2, 3] → Canon (cmd op) ∧ (slotCtx (cmd op) 0).fn = 0 ∧ canTake (cmd op) 0 op = true
    ∧ slotOk (cmd op) (slotAddr 0 (ringCons (cmd op) 0)) = true := by unfold Canon; decide +kernel

/-- Channel 31 running the program of one instruction with words a, b, c at 0x1000 of host memory. -/
def program (a b c : Nat) (p : DmaProg) : State :=
  let m := mputBytes 0 (mputBytes 0 (mputBytes 0 [] 0x1000 (bytesLE 8 a)) 0x1008 (bytesLE 8 b)) 0x1010 (bytesLE 8 c)
  let s := { up with hostMem := m, dma := { up.dma with prog := [(31, p)] } }
  let s := setF (setF (wrW s (Adr.dmaChProg 31) 0x1000 2) (Adr.dmaChCfg 31) 23 23 1) (Adr.dmaChCfg 31) 31 31 1
  setDmaState s 31 dsRunning
/-- A program's own state at its start. -/
def begun : DmaProg := { idx := 0, tag := 1 }
/-- What channel 31 stands at, as dmaAt says it. -/
theorem dmaAt_of (s : State) (p : DmaProg) (op : DmaOp)
    (h : dmaBusy s 31 = true ∧ dmaProg s 31 = some p ∧ p.fence = false ∧ dmaPc s 31 < 4096
      ∧ (dmaFetch s 31 (dmaPc s 31)).bind (fun x => decodeInstr (dmaPc s 31) x.1 x.2.1 x.2.2.1 x.2.2.2) = some op) :
    dmaAt s 31 p op := by
  obtain ⟨h1, h2, h3, h4, h5⟩ := h
  obtain ⟨⟨w0, w1, w2, w3⟩, h6, h7⟩ := Option.bind_eq_some_iff.mp h5
  exact ⟨by decide, h1, h2, h3, h4, w0, w1, w2, w3, h6, h7⟩
/-- A device whose channel 31 is enabled with a generation, idle. -/
def idleDma (gen : Nat) : State := setF (setF up (Adr.dmaChCfg 31) 31 31 1) (Adr.dmaChCfg 31) 15 0 gen
theorem witness_dmaStart : islDown up 340 = false ∧ dmaOwner (idleDma 1) .pf 31 = true ∧ (dmaStart (idleDma 1) 31).isSome = true
    ∧ dmaGen (idleDma 0) 31 = 0 ∧ dmaGen (idleDma 65535) 31 ≠ 0 ∧ rb up (Adr.dmaChCfg 31) 31 = false ∧ Canon (idleDma 1)
    ∧ dmaBusy (idleDma 1) 31 = false ∧ rb (idleDma 1) (Adr.dmaChCfg 31) 31 = true ∧ dmaBusy (program 0 0 0 begun) 31 = true := by
  unfold Canon; decide +kernel
/-- A MOVE of 65 bytes from device to host on no line. -/
theorem witness_move : dmaAt (program (2 ^ 60 + 2 ^ 56 + 0x7F * 2 ^ 47 + 65) 0x080000000000 0x8000 begun) 31 begun
    (.move .device .host false false 0x7F 4096 65 0x080000000000 0x8000 0) := dmaAt_of _ _ _ (by decide +kernel)
theorem witness_moveEnd : dmaAt (program (2 ^ 60 + 2 ^ 56 + 71 * 2 ^ 47 + 65) 0x080000000000 0x8000 { begun with moved := 65 }) 31
    { begun with moved := 65 } (.move .device .host false false 71 4096 65 0x080000000000 0x8000 0) := dmaAt_of _ _ _ (by decide +kernel)
/-- A MOVE of 64 bytes of host memory to INJECT, the control pool with a free cell or with none. -/
def injecting (cells : List Nat) : State :=
  let s := program (2 ^ 60 + 2 ^ 58 + 2 ^ 57 + 0x7F * 2 ^ 47 + 64) 0x2000 0 begun
  setPool s 9 { pool s 9 with cache := cells }
theorem witness_inject (cells : List Nat) (h : cells = [] ∨ cells = [5]) : dmaAt (injecting cells) 31 begun
    (.move .host .inject false false 0x7F 4096 64 0x2000 0 0) := by
  rcases h with rfl | rfl <;> exact dmaAt_of _ _ _ (by decide +kernel)
theorem witness_injectCells : let v (cells : List Nat) : State := dmaUpd (setResidue (injecting cells) 31 64) 31 fun p => { p with tsIn := some 0 }
    (placeCells (v [5]) 9 (dmaFn (v [5]) 31 - 1) 64 []).isNone = false ∧ (placeCells (v []) 9 (dmaFn (v []) 31 - 1) 64 []).isNone = true
      ∧ (readSide (setDmaState (v [5]) 31 dsRunning) 31 .host 0x2000 64 0).2 = some (List.replicate 64 0) ∧ begun.moved = 0 := by decide +kernel
theorem witness_moveWaits : rf (program 0 0 0 begun) (Adr.dmaReqStat 71) 7 0 = 0 ∧ begun.moved < 65
    ∧ dmaState (program 0 0 0 begun) 31 = dsRunning := by decide +kernel
theorem witness_moveBeat : Canon (program 0 0 0 begun)
    ∧ ((readSide (program 0 0 0 begun) 31 .device (devCtlw + 64) (min 64 (65 - 64)) 0).2).isSome = true
    ∧ ((readSide (program 0 0 0 begun) 31 .device devCtlw (min 64 (65 - 0)) 0).2.getD []).length = min 64 (65 - 0)
    ∧ nfld (2 ^ 58 + 2 ^ 56) 59 58 = 1 ∧ nfld (2 ^ 58 + 2 ^ 56) 57 56 = 1 := by unfold Canon; decide +kernel
/-- Loops that stand open beside one at PC 0. -/
def open4 : SMap Nat := [(1, 0), (2, 0), (3, 0), (4, 0)]
theorem witness_loopFirst : begun.loops.find? (·.1 = 0) = none ∧ begun.loops.length < 4
    ∧ dmaAt (program (6 * 2 ^ 60) 0 0 begun) 31 begun .finish := ⟨rfl, by decide, dmaAt_of _ _ _ (by decide +kernel)⟩
/-- Channel 31 at a LOOP of count 2 to target 0, at PC 1. -/
def looping (p : DmaProg) : State := setDmaPc (program 0 0 0 p) 31 1
theorem witness_loop : ∀ l, l ∈ [([] : SMap Nat), [(0, 0), (2, 0), (3, 0)], open4.drop 1 ++ [(5, 0)], [(1, 1)], [(1, 0)]] →
    let p : DmaProg := { begun with loops := l }
    let s := { looping p with hostMem := mputBytes 0 [] 0x1020 (bytesLE 8 (2 * 2 ^ 60 + 2)) }
    dmaBusy s 31 = true ∧ dmaProg s 31 = some p ∧ p.fence = false ∧ dmaPc s 31 = 1
      ∧ (dmaFetch s 31 1).bind (fun x => decodeInstr 1 x.1 x.2.1 x.2.2.1 x.2.2.2) = some (.loop 2 0 0 0) := by decide +kernel
theorem witness_loopCases : (([] : SMap Nat).find? (·.1 = 1) = none ∧ ([(1, 1)] : SMap Nat).find? (·.1 = 1) = some (1, 0 + 1))
    ∧ ([(1, 0)] : SMap Nat).find? (·.1 = 1) = some (1, 0) ∧ 4 ≤ (open4.drop 1 ++ [(5, 0)] : SMap Nat).length
    ∧ (open4.drop 1 ++ [(5, 0)] : SMap Nat).find? (·.1 = 1) = none := by decide
theorem witness_waitReq : dmaAt (program (3 * 2 ^ 60 + 71 * 2 ^ 47) 0 0 begun) 31 begun (.waitReq 71 0) := dmaAt_of _ _ _ (by decide +kernel)
theorem witness_waitReqTaken : reqTake (program (3 * 2 ^ 60 + 71 * 2 ^ 47) 0 0 begun) 31 71 = none
    ∧ (reqTake (setF (program (3 * 2 ^ 60 + 71 * 2 ^ 47) 0 0 begun) (Adr.dmaReqStat 71) 7 0 1) 31 71).isSome = true := by decide +kernel
theorem witness_waitReg : dmaAt (program (3 * 2 ^ 60 + 2 ^ 58) 0x080000000000 0xFFFFFFFF begun) 31 begun (.waitReg 0x080000000000 0xFFFFFFFF 0)
    ∧ devPlace (program (3 * 2 ^ 60 + 2 ^ 58) 0x080000000000 0xFFFFFFFF begun) 31 0x080000000000 4 = some (.ctlw 0) :=
  ⟨dmaAt_of _ _ _ (by decide +kernel), by decide +kernel⟩
theorem witness_waitRegBits : let s := program (3 * 2 ^ 60 + 2 ^ 58) 0x080000000000 0xFFFFFFFF begun
    ofBytesLE (devRead s 31 (.ctlw 0) 4 0).2 &&& 0xFFFFFFFF ≠ 0 ∧ ofBytesLE (devRead s 31 (.ctlw 0) 4 0).2 &&& 0 = 0 := by decide +kernel
theorem witness_waitTime : dmaAt (program (3 * 2 ^ 60 + 2 ^ 59 + 7 * 2 ^ 48 + 5) 0 1 begun) 31 begun (.waitTime 7 (2 ^ 32) 5) :=
  dmaAt_of _ _ _ (by decide +kernel)
theorem witness_waitTimeBase : let s := setF (program (3 * 2 ^ 60 + 2 ^ 59 + 7 * 2 ^ 48 + 5) 0 1 begun) (Adr.timTbStat 7) 31 28 1
    baseState s 7 ≠ tbUnset ∧ timeTicks 0 ≤ baseAt s 7 0 ∧ baseAt s 7 0 < timeTicks (2 ^ 48)
      ∧ dmaState (setDmaState s 31 dsWaiting) 31 = dsWaiting := by decide +kernel
theorem witness_signalInterrupt : dmaAt (program (4 * 2 ^ 60 + 2047) 0 0 begun) 31 begun (.interrupt 2047) :=
  dmaAt_of _ _ _ (by decide +kernel)
theorem witness_signalFlag : dmaAt (program (4 * 2 ^ 60 + 2 ^ 58 + 2 ^ 56) 0x8000 7 begun) 31 begun (.flag .host 0x8000 7) :=
  dmaAt_of _ _ _ (by decide +kernel)
theorem witness_signalDoorbell : dmaAt (program (4 * 2 ^ 60 + 2 ^ 59 + 31) 0 0 begun) 31 begun (.doorbell 31) :=
  dmaAt_of _ _ _ (by decide +kernel)
theorem witness_fence : dmaAt (program (5 * 2 ^ 60) 0 0 { begun with touched := [0] }) 31 { begun with touched := [0] } .fence :=
  dmaAt_of _ _ _ (by decide +kernel)
theorem witness_fenceOut : dmaProg (program 0 0 0 { begun with fence := true, ending := true }) 31
    = some { begun with fence := true, ending := true } := by decide +kernel
/-- A device whose receive ring 63 has a descriptor of size n at 0x1000 for the frame that waits for it. -/
def hostRing (en n : Nat) : State :=
  let m := mputBytes 0 (mputBytes 0 [] 0x1000 (bytesLE 8 0x2000)) 0x1008 (bytesLE 4 n)
  let s := { up with hostMem := m, flow := { up.flow with toHost := [(63, { cl := { buf := noBuf }, data := [1, 2] })] } }
  setF (wrW s (Adr.dmaRxCfg 63) (0x1000 * 2 ^ 64 + en * 2 ^ 63) 4) (Adr.dmaRxIdx 63) 11 0 1
theorem witness_hostRing : Canon (hostRing 1 2) ∧ nbit (rdW (hostRing 1 2) (Adr.dmaRxCfg 63) 4) 63 = true
    ∧ rfW (hostRing 1 2) (Adr.dmaRxIdx 63) 2 11 0 % rxSize (hostRing 1 2) 63 ≠ rfW (hostRing 1 2) (Adr.dmaRxIdx 63) 2 43 32 % rxSize (hostRing 1 2) 63
    ∧ ofBytesLE (mbytes 0 (hostRing 1 2).hostMem (0x1000 + 8) 4) = 2 ∧ ofBytesLE (mbytes 0 (hostRing 1 2).hostMem 0x1000 8) = 0x2000
    ∧ ofBytesLE (mbytes 0 (hostRing 1 1).hostMem (0x1000 + 8) 4) < 2 ∧ (hostRing 1 2).boot.linkUp = true
    ∧ nbit (rdW (hostRing 0 2) (Adr.dmaRxCfg 63) 4) 63 = false ∧ 0x1000 + 32 ≤ 0x2000
    ∧ (hostRing 1 2).boot.dataStopped = false ∧ up.flow.toHost = [] ∧ islDown up 340 = false := by unfold Canon; decide +kernel
/-! ## Witnesses: the pair, observation, injection, power -/

/-- A device with a pairing record of a role, PRT_STATE st and PRT_LINK_STAT of value link. -/
def pair (role st link : Nat) : State :=
  let s := { up with sec := { up.sec with vault := { up.sec.vault with pair := some ⟨[], [5], role, false, []⟩ } } }
  wrW (setF s Adr.prtState 7 0 st) Adr.prtLinkStat link 2
theorem witness_release : islDown up 341 = false ∧ isOwner up (.core 0) 341 7 0 = true ∧ isOwner up .pf 341 7 0 = false
    ∧ 0 = uEpoch (pair 0 ptActive 0) Adr.prtState ∧ 1 ≠ uEpoch (pair 0 ptActive 0) Adr.prtState
    ∧ prtSt (pair 0 ptActive (ptReady * 2 ^ 56)) = ptActive ∧ linkFld (pair 0 ptActive (ptReady * 2 ^ 56)) 59 56 = ptReady
    ∧ rb (pair 0 ptActive 0) Adr.prtCfg 28 = false ∧ linkFld (pair 0 ptActive 0) 59 56 ≠ ptReady
    ∧ prtSt (pair 0 ptReleased 0) = ptReleased ∧ uDetail (pair 0 ptReleased 0) Adr.prtState ≠ 2
    ∧ uDetail (setF (pair 0 ptReleased 0) Adr.prtState 15 8 2) Adr.prtState = 2 ∧ isCore (.core 0) = true ∧ isCore .pf = false := by decide
theorem witness_alive : Canon (pair 0 ptClaiming 0) ∧ prtSt (pair 0 ptClaiming 0) = ptClaiming
    ∧ Adr.prtState ∉ (pair 0 ptClaiming 0).unit.changed
    ∧ Adr.prtState ∈ ({ pair 0 ptActive 0 with unit := { up.unit with changed := [Adr.prtState] } } : State).unit.changed
    ∧ prtSt (pair 0 ptReady 0) ≠ ptActive ∧ prtSt (pair 0 ptReady 0) ≠ ptClaiming := by unfold Canon; decide
theorem witness_revert : let s := setF (setF (pair 0 ptActive (ptReady * 2 ^ 56)) Adr.prtCfg 30 30 1) Adr.prtCfg 29 29 0
    rb s Adr.prtCfg 30 = true ∧ rb s Adr.prtCfg 29 = false ∧ basic s 7 0 = true := by decide
theorem witness_claim : prtRole (pair 1 ptReady 0) = some 1 ∧ prtStandby (pair 1 ptReady 0) = true ∧ (pair 1 ptReady 0).prt.stuck = false
    ∧ linkFld (pair 1 ptReady 0) 54 54 = 0 ∧ peerHb (pair 1 ptReady 0) = 0 ∧ peerHb (pair 1 ptReady (2 ^ 52)) ≠ 0
    ∧ prtStandby (pair 1 ptReleased 0) = false ∧ linkFld (pair 1 ptReady (2 ^ 54)) 54 54 ≠ 0 ∧ prtRole (pair 0 ptReady 0) = some 0 := by decide
theorem witness_claimWindow : prtSt (pair 1 ptClaiming 0) = ptClaiming ∧ (pair 1 ptClaiming 0).prt.fastSeen = false
    ∧ ({ pair 1 ptClaiming 0 with prt := { up.prt with fastSeen := true } } : State).prt.fastSeen = true
    ∧ prtRole (pair 0 ptClaiming 0) ≠ some 1 := by decide
theorem witness_heartbeat : prtSt (pair 1 ptReady 0) ≠ ptSolo ∧ ({ up with prt := { up.prt with hb := [9, 8, 7] } } : State).prt.hb = 9 :: 8 :: [7]
    ∧ devNs up 4007 < 8 + 4000 ∧ ¬ devNs up 4008 < 8 + 4000 ∧ prtSt up = ptSolo := by decide
theorem witness_stuck : linkFld (pair 1 ptReady (2 ^ 54)) 54 54 = 1 ∧ (pair 1 ptReady (2 ^ 54)).prt.driving = false
    ∧ peerHb (pair 1 ptReady (2 ^ 54)) ≠ 2 ∧ peerHb (pair 1 ptReady (2 ^ 54 + 2 ^ 53)) = 2 ∧ gateMay (pair 1 ptReady 0) = false
    ∧ (pair 1 ptReady 0).prt.standby = false := by decide
theorem witness_lanes : mget (0, 0) (pair 1 ptReady 0).prt.lanes 3 = (0, 0) ∧ 3 < 4 := by decide
/-- The same with the link up, and an ALIVE of each TYPE heard. -/
def linked (role st : Nat) (heard : SMap Nat) : State :=
  let s := pair role st (2 * 2 ^ 60)
  { s with prt := { s.prt with aligned := true, aliveRx := heard, formed := true } }
/-- A message of the pair's link with ALIVE n. -/
def msgOf (n : Nat) (b : PlkBody) : PlkMsg := { alive := n, cycle := 0, len := 0, body := b }
theorem witness_pairLink : prtLinkUp (linked 1 ptReady []) = true ∧ prtLinkUp (pair 1 ptReady 0) = false ∧ prtSt (linked 1 ptReady []) ≠ ptSolo
    ∧ fiArmed (linked 1 ptReady []) (Adr.fiCfgObs 16) = false ∧ (fiOf (linked 1 ptReady []) (Adr.fiCfgObs 16)).held = []
    ∧ fiArmed (linked 1 ptReady []) (Adr.fiCfgObs 17) = false ∧ (fiOf (linked 1 ptReady []) (Adr.fiCfgObs 17)).held = [] := by decide
theorem witness_messages : plkAccept (linked 1 ptReady []) (msgOf 9 (.digest true { cycle := 0 })) = some 0
    ∧ plkAccept (linked 1 ptReady [(2, 10)]) (msgOf 9 (.digest true { cycle := 0 })) = none
    ∧ plkAccept (linked 1 ptReady [(2, 10)]) (msgOf 32776 (.digest true { cycle := 0 })) = some 32766
    ∧ plkAccept (linked 1 ptReady [(2, 10)]) (msgOf 32777 (.digest true { cycle := 0 })) = none
    ∧ plkAccept (linked 1 ptReady []) (msgOf 0 (.key 255 2047 ksReady 1 1 false 0 [])) = some 0
    ∧ plkAccept (linked 1 ptReady []) (msgOf 0 (.state ptActive 0 [])) = some 0
    ∧ plkAccept (linked 1 ptReady []) (msgOf 0 (.hello [5] 0 ptActive [] [] none)) = some 0
    ∧ (linked 1 ptReady []).sec.vault.pair = some ⟨[], [5], 1, false, []⟩ ∧ prtStandby (linked 1 ptReady []) = true
    ∧ prtFormed (linked 1 ptReady []) = true ∧ (linked 1 ptReady []).prt.part = none ∧ (linked 1 ptReady []).prt.partLost = false
    ∧ Canon (linked 1 ptReady []) := by unfold Canon; decide

/-- An image whose only section is a pool plan with a reserve of 2 GiB. -/
def reserveImg : List Byte :=
  List.replicate 8 0#8 ++ bytesLE 4 336 ++ List.replicate 52 0#8 ++ [4#8, 0, 0, 0, 0, 1, 0, 0] ++ List.replicate 12 0#8 ++ bytesLE 4 2048
    ++ List.replicate 248 0#8
/-- A device with its statistics areas set in the reserve. -/
def areas : State :=
  let s := { up with img := { up.img with running := reserveImg } }
  wrW (wrW s Adr.obsStatBase dramBase 2) Adr.obsShadowBase (dramBase + 2 ^ 30) 2
theorem witness_areas : statOn areas = true ∧ rb areas Adr.obsSnapCtl 29 = false := by decide +kernel
theorem witness_snapshot : islDown up 336 = false ∧ isPfSide up .pf = true ∧ isPfSide up (.vf 0) = false ∧ fld (0x80000000#32) 31 31 = 1
    ∧ fld (0x60000000#32) 31 31 = 0 ∧ statOn up = false ∧ rb (setF up Adr.obsSnapCtl 29 29 1) Adr.obsSnapCtl 29 = true
    ∧ rb up Adr.obsSnapCtl 29 = false ∧ up.obs.snapAt = 0 ∧ devNs up 998 < 1 + 999 ∧ 1 + 999 ≤ devNs up 1000 := by decide
theorem witness_injectors : fiLocked (setF up Adr.secApproved 31 31 1) = true ∧ fiLocked (setF up Adr.secApproved 31 31 0) = false
    ∧ fld (0x8000F1A5#32) 31 31 = 1 ∧ fld (0x8000F1A5#32) 15 0 = 0xF1A5 ∧ fld (0x8000F1A5#32) 30 30 = 0 ∧ fld (0xC000F1A5#32) 30 30 = 1
    ∧ fld (0x80000000#32) 15 0 ≠ 0xF1A5 ∧ fiAddr 4 33 = some (Adr.fiCfgObs 33) ∧ fiAddr 0 255 = some (Adr.fiCfgDs 255)
    ∧ islDown up 336 = false ∧ isPfSide up .pf = true ∧ islDown up (islandOf (Adr.fiCfgObs 33)) = false ∧ fiOps 1 < nfld (3 * 2 ^ 124) 126 124 ∧ nfld (2 * 2 ^ 124) 126 124 ≤ fiOps 1
    ∧ nbit (2 ^ 127) 127 = true ∧ nbit (0 : Nat) 127 = false
    ∧ rb (fiDisarm (wrW (setF up Adr.obsFiGlobal 31 31 1) (Adr.fiCfgObs 33) (2 ^ 127 + 2 ^ 64) 4) (Adr.fiCfgObs 33)) Adr.obsFiGlobal 31 = true
    ∧ rb (fiDisarm (wrW up (Adr.fiCfgObs 33) 0 4) (Adr.fiCfgObs 33)) Adr.obsFiGlobal 31 = false := by decide
/-- A device with rail 15 enabled and in the cap, its kind k + 1. -/
def railed (kind : Nat) : State := wrW up (Adr.pwrRailCfg 15) (2 ^ 63 + 2 ^ 62 + kind * 2 ^ 56) 2
theorem witness_rails : Canon (railed 0) ∧ railEn (railed 0) 15 = true ∧ railTel (railed 0) 15 63 63 = 0 ∧ railEn up 15 = false
    ∧ railTel (setRailTel (railed 0) 15 63 63 1) 15 63 63 ≠ 0 ∧ 0 < 2 ^ 15 - 1 := by unfold Canon; decide
theorem witness_avs : let s := setF up (Adr.pwrDvfs 4) 31 31 1
    dvfsFld s 4 31 31 = 1 ∧ basic s 6 0 = true ∧ s.pwr.shutdown = false ∧ dvfsFld s 4 12 8 ≠ clamp 10 30 9
      ∧ dvfsFld (setF s (Adr.pwrDvfs 4) 12 8 10) 4 12 8 = clamp 10 30 9 := by decide
theorem witness_dvfs : islDown up 338 = false ∧ isOwner up (.core 0) 338 6 0 = true ∧ 30 < fld (0x001F0000#32) 20 16
    ∧ fld (0x00190000#32) 20 16 < pointFloor (fld (0x00190000#32) 25 24) ∧ pointFloor (fld (0x001E0000#32) 25 24) ≤ fld (0x001E0000#32) 20 16
    ∧ up.pwr.shutdown = false ∧ dvfsFld (setF up (Adr.pwrDvfs 0) 0 0 1) 0 0 0 = 1 ∧ dvfsFld (setF up (Adr.pwrDvfs 0) 0 0 0) 0 0 0 = 0
    ∧ dvfsFld (setF up (Adr.pwrDvfs 4) 20 16 30) 4 12 8 < dvfsFld (setF up (Adr.pwrDvfs 4) 20 16 30) 4 20 16 ∧ up.pwr.next = []
    ∧ dvfsFld (setF up (Adr.pwrDvfs 4) 31 31 0) 4 31 31 = 0
    ∧ ({ up with pwr := { up.pwr with next := [(4, 0x001E0000#32)] } } : State).pwr.next = [(4, 0x001E0000#32)]
    ∧ ({ up with pwr := { up.pwr with shutdown := true } } : State).pwr.shutdown = true := by decide
theorem witness_gating : pwrHostOk up .pf = true ∧ rb up Adr.pwrGateUpl 0 = false ∧ groupOn (port0 0) 0 = true ∧ groupOn up 31 = false ∧ islDown up 338 = false := by decide
/-- A device with sensor n suspected. -/
def warned (n : Nat) : State := { up with pwr := { up.pwr with warn := [n] } }
/-- The same with sensor 95 suspected, shut down or not. -/
def hot (b : Bool) : State := { up with pwr := { up.pwr with warn := [95], shutdown := b } }
theorem witness_sensors : 95 ∈ (warned 95).pwr.warn ∧ (-2560 : Int) ≤ 256 * 94 ∧ (256 : Int) * 94 < 256 * 95
    ∧ (∀ b, b ∈ [false, true] → 95 ∈ (hot b).pwr.warn) ∧ rb (shutdown (hot true)) Adr.secTamper 5 = false
    ∧ sensorTemp (setF up (Adr.pwrTherm 95) 15 0 (256 * 93 - 1)) 95 < 256 * 93 ∧ sensorStage up 95 = 0
    ∧ 256 * 93 ≤ sensorTemp (setF up (Adr.pwrTherm 23) 15 0 (256 * 98)) 23
    ∧ stageKeep 23 (256 * 98) < sensorStage ({ up with pwr := { up.pwr with stage := [(23, 1)] } } : State) 23 := by decide +kernel
/-- A device with the cap on at cap watts, WIN watts below it, an energy of sum over n polls, below evaluations under the window. -/
def capped (en cap win sum n below : Nat) : State :=
  let s := wr up Adr.pwrCap (BitVec.ofNat 32 (en * 2 ^ 31 + win * 2 ^ 20 + cap))
  { s with pwr := { s.pwr with energy := sum, polls := n, below := below } }
/-- The measure of an evaluation shown. -/
def shown (s : State) : State :=
  wf (pwrUpd s fun p => { p with energy := 0, polls := 0 }) Adr.pwrStat 9 0 (min 1023 (s.pwr.energy / (s.pwr.polls * 100000)))
theorem witness_cap : (capped 1 100 10 0 0 0).pwr.polls = 0 ∧ rb (shown (capped 0 100 10 5 1 0)) Adr.pwrCap 31 = false
    ∧ rb (shown (capped 1 100 10 10000001 1 0)) Adr.pwrCap 31 = true ∧ basic (shown (capped 1 100 10 10000001 1 0)) 6 0 = true
    ∧ rf (shown (capped 1 100 10 10000001 1 0)) Adr.pwrCap 9 0 * 1 * 100000 < 10000001
    ∧ 8999999 < (rf (shown (capped 1 100 10 8999999 1 9)) Adr.pwrCap 9 0 - rf (shown (capped 1 100 10 8999999 1 9)) Adr.pwrCap 28 20) * 1 * 100000
    ∧ (∀ r, r < 16 → railInCap (shown (capped 1 100 10 8999999 1 9)) r = false) := by decide
/-! ## Witnesses: timed actions -/

/-- A state whose slot 63 holds an action of a kind and ARG0, ARMED for instant 0 of base 7. -/
def armedOn (s : State) (kind arg0 : Nat) : State :=
  wrW (setF s (Adr.timTbStat 7) 31 28 tbLocked) (Adr.timAct 63) (action 1 kind 0 0 + arg0 * 2 ^ 64 + actArmed * 2 ^ 28) 8
/-- What every clause of the timed actions asks of the slot. -/
def isArmed (s : State) (kind : Nat) : Bool :=
  decide (actStatus s 63 = actArmed) && decide (timeTicks (actTime s 63) ≤ baseAt s (actTb s 63) 0) && decide (actKind s 63 = kind)
/-- The device that acts for a function: core 0 at the basic level. -/
def byCore (s : State) (isl f t : Nat) : Bool := decide (owner s f t = 0) && isOwner s (.core 0) isl f t
theorem witness_actPulse : isArmed (armedOn up 1 0) 1 = true ∧ prtOutOk (armedOn up 1 0) = true := by decide
theorem witness_actGcl : let s := armedOn admin 2 0
    isArmed s 2 = true ∧ actGclUnit (actArg0 s 63) = 0 ∧ unitOk s 0 = true ∧ islDown s (islandOf (gclCtl 0)) = false ∧ byCore s 0 2 0 = true
      ∧ adminList s 0 = some (0, 0, 1000, [(0xFF, 32)]) := by decide +kernel
theorem witness_actKey : let s := armedOn (setF keyed (keyAddr 0 2044) 7 0 ksReady) 3 (2044 * 2 ^ 8)
    isArmed s 3 = true ∧ islDown s (islandOf (keyAddr 0 2044)) = false ∧ byCore s (islandOf (keyAddr 0 2044)) 3 0 = true
      ∧ s.prt.standby = false ∧ actExpect s 63 = uEpoch s (keyAddr 0 2044) ∧ keyEff s 0 2044 = ksReady ∧ slotDir 2044 = 0
      ∧ nfld (actArg0 s 63) 18 8 = 2044 := by decide
theorem witness_actTransit : let s := armedOn tunable 4 (511 * 2 ^ 6 + 1 * 2 ^ 15)
    isArmed s 4 = true ∧ tidOf 0 (nfld (actArg0 s 63) 14 6) = 511 ∧ nfld (actArg0 s 63) 16 15 = 1
      ∧ islDown s (islandOf (Adr.treTransitReq 0)) = false ∧ byCore s (islandOf (Adr.treTransitReq 0)) 5 0 = true
      ∧ actExpect s 63 = uEpoch s (termAddr 511) ∧ trCheck s 511 1 (firstSwitch (cycleNow s) 0) 0 = none := by decide
theorem witness_actDma : let s := armedOn (idleDma 1) 5 31
    isArmed s 5 = true ∧ nfld (actArg0 s 63) 4 0 = 31 ∧ islDown s 340 = false ∧ dmaBusy s 31 = false ∧ dmaGen s 31 ≠ 0
      ∧ rb s (Adr.dmaChCfg 31) 31 = true := by decide
theorem witness_actSnapshot : isArmed (armedOn areas 6 0) 6 = true ∧ rb (armedOn areas 6 0) Adr.obsSnapCtl 29 = false
    ∧ statOn (armedOn areas 6 0) = true ∧ snapBusy (armedOn areas 6 0) 0 = false := by decide +kernel
theorem witness_actEclipse : let s := armedOn plant 7 0
    let w := armedOn (setF plant (Adr.chnState 0) 7 0 chEclipse) 7 (2 ^ 8)
    (∀ u, u ∈ [s, w] → isArmed u 7 = true ∧ nfld (actArg0 u 63) 7 0 = 0 ∧ islDown u (islandOf (Adr.chnState 0)) = false
        ∧ byCore u (islandOf (Adr.chnState 0)) 5 0 = true ∧ u.prt.standby = false ∧ actExpect u 63 = uEpoch u (Adr.chnState 0)
        ∧ isN200 u 0 = true ∧ applyHolds u 0 = false)
      ∧ nbit (actArg0 s 63) 8 = false ∧ chnEff s 0 = chRun ∧ otherRuns s 0 = true ∧ nbit (actArg0 w 63) 8 = true
      ∧ chnEff w 0 = chEclipse := by decide
/-! ## The spec's worked examples and single steps

Expected values are those that the spec prints, or zero-extended field values read off its tables. -/

/-- 00, locating one terminal: channel, TID, AID, QID, TRE and CHN blocks. -/
theorem test_locate : chanOf 21 2 = 86 ∧ tidOf 21 37 = 0x2A25 ∧ treeOfTid 0x2A25 = 21 ∧ slotOfTid 0x2A25 = 37 ∧ treeOfAid 0x2A005 = 21
    ∧ treeOfQid 0x54064 = 21 ∧ Adr.treState 21 = 0x1054000 ∧ Adr.chnState 86 = 0x3580000 ∧ Adr.chnState 84 = 0x3500000 := by decide
/-- R51: the check value of CRC-32C. -/
theorem test_crc32c : crc32c [0x31, 0x32, 0x33, 0x34, 0x35, 0x36, 0x37, 0x38, 0x39] = 0xE3069283 := by decide +kernel
/-- 04, an 8 Gbit/s client: 15,661 bytes of container, 389,843 of packet area. -/
theorem test_container : crsBytes (2 ^ 63 + 4 * 2 ^ 56 + 15625 * 2 ^ 40) 16 = 15661
    ∧ packetArea (wrW plant (Adr.chnCrs 0 0) (2 ^ 63 + 4 * 2 ^ 56 + 15625 * 2 ^ 40) 2) 0 = 389843 := by decide
/-- 05, ranging on tree 21: WIN 406,000 ns, at least 28 cycles, at EQRT 440,000 ns. -/
theorem test_window : let s := { up with img := { up.img with treeRec := [(21, 2 ^ 143 + 440000 * 2 ^ 160)] } }
    winNs s 21 = 406000 ∧ winCycles s 21 = 28 ∧ eqrtSymbols s 21 = 49561600 ∧ eqrtSymbols s 21 - 29784977 = 0x12DC46F := by decide
/-- An allocation of the surplus example: weight, wish. -/
def wish (aid w n : Nat) : ABld :=
  { aid := aid, v := w * 2 ^ 128 + aid * 2 ^ 230, rep := n, ant := 0, acr := 0, mcr := 8000000, last := 0 }
/-- 06, dividing 200,000 bytes of surplus. -/
theorem test_surplus : (stepSur (fun _ => 200000) 0 0 [wish 1 4 150000, wish 2 2 20000, wish 3 2 200000]).map ABld.sur = [120000, 20000, 60000] := by
  decide +kernel
/-- 06, a report on channel 86: D_rep 0 and D_ant 24,800 at the build of cycle n + 29, with n = 1,000. -/
theorem test_demand : demand (2 ^ 255 + 2 ^ 254)
    { backlog := 20000, rpt := 1001, rate := 1200 * 256, out := [{ cycle := 1028, bytes := 30000 }] } 1029 = (0, 24800) := by decide
/-- 07, T_worst of 9,024 and of 1,624 bytes without constant-rate streams, in ps. -/
theorem test_tWorst : tWorstChan 0 9024 = 625000 ∧ tWorstChan 0 1624 = 312500 := by decide
/-- 07, a frame whose last byte is packet-area byte 192,575 ends at 97 codewords; byte 310,568 leaves at 12,000 ns. -/
theorem test_line : endPs plant 0 192575 = 97 * 78125 ∧ leavePs plant 0 0 = 156250 ∧ leavePs plant 0 310568 = 12000000 := by decide +kernel
/-- 07, the list's entries, and a revised list installed at D0 + 425 us that starts at D0 + 500 us. -/
theorem test_gateList : nfld 0x8000000000002EE0 63 56 = 0x80 ∧ nfld 0x8000000000002EE0 29 0 = 12000 ∧ nfld 0x7F0000000001B968 29 0 = 113000
    ∧ gclStartAt (425000 * 65536) 0 125000 = (500000 * 65536, true) := by decide
/-- 08, a request 5 us into cycle n: X = n + 641, and 14 cycles of retuning for 200 us. -/
theorem test_transitCycles : firstSwitch 1000 5000 = 1641 ∧ retuneCycles 200 = 14 := by decide
/-- 09, R258: the other index of a slot. -/
theorem test_slots : slotIx 37 1 0 = 150 ∧ otherIx 150 = 151 ∧ slotDir 150 = 1 ∧ slotTid 86 150 = 0x2A25 := by decide
/-- 10, the pairing wrap counter across a power loss. -/
theorem test_checkpoint : let s := { up with sec := { up.sec with vault := { up.sec.vault with
      chk := [(2, (9000002, 5)), (3, (9000003, 0x31A2B0000))] } } }
    chkNewest s 0 = (9000003, 0x31A2B0000) ∧ mget 0 (chkResume s).sec.ctr 0 = 0x41A2B0000 := by decide +kernel
/-- 11, verbs 0 and 12 of the GTP-U program. -/
theorem test_verbFields : vOp 0x080003C0080086DD = 0x02 ∧ vWidth 0x080003C0080086DD = 16 ∧ vTarget 0x080003C0080086DD = 2
    ∧ vImm 0x080003C0080086DD = 0x86DD ∧ vOp 0x040107C000000000 = 0x01 ∧ vOfs 0x040107C000000000 = 4 ∧ vWidth 0x040107C000000000 = 32
    ∧ vDst 0x040107C000000000 = 0 := by decide
/-- 12, the mask of 10.20.30.0/24 has length 24 beside its VRF; an insert shifts one entry of each shorter group. -/
def route (n : Nat) : Nat := 2 ^ 319 / 2 ^ 31 - 2 ^ 319 / 2 ^ (31 + n)
theorem test_insertPlan : insertPlan [(0, route 40), (1, route 40), (2, route 32), (3, route 32), (4, route 24)] 100 40
    = some (2, [(4, 5), (2, 4)]) := by decide +kernel
/-- 13, a shared buffer's frees: 3, 2, refused, 1, free. -/
theorem test_sharedBuffer : let s := held false [0x100544A0, 0x100544A1, 0x100544C0]
    let t := after (exec (.bufferFree 0 0x100544C0 304) s)
    let u := after (exec (.bufferFree 0 0x100544C0 304) t)
    (descOf t 0).map (·.names.length) = some 2 ∧ descOf u 0 = descOf t 0 := by decide
/-- 14, DS_DELAY of TID 10,789: 114,653.918 ns (the spec's count of units is of that rounded figure). -/
theorem test_dsDelay :
    let s := { up with img := { up.img with treeRec := [(21, 2 ^ 143 + 440000 * 2 ^ 160)] } }
    let s := setInfo (setInfo s 0x2A25 63 37 19776623) 0x2A25 36 35 2
    dsDelay (wrW s (Adr.chnTimeCfg 86) (0x80004000 * 2 ^ 96 + 1500 * 2 ^ 80 + 1700 * 2 ^ 64) 4) 0x2A25 35120000 * 1000 / 65536 = 114653918 := by decide +kernel
/-- 15, word 0 of the export's instructions. -/
theorem test_dmaWords : decodeInstr 0 0x3800000000000000 0 0 0 = some (.waitTime 0 0 0)
    ∧ decodeInstr 1 0x113F804000100000 0x100006000000 0x480000000 0
      = some (.move .device .host false false 0x7F 64 1048576 0x100006000000 0x480000000 0)
    ∧ decodeInstr 2 0x5000000000000000 0 0 0 = some .fence ∧ decodeInstr 3 0x4500000000000000 0x480100000 0x2A 0 = some (.flag .host 0x480100000 0x2A)
    ∧ decodeInstr 4 0x4000000000000028 0 0 0 = some (.interrupt 40) ∧ decodeInstr 5 0x6000000000000000 0 0 0 = some .finish := by decide
/-- 04, a refused reset of channel 86: EXPECT 0x31 is stale where EPOCH is 0x32; with 0x32 it is taken and EPOCH is 0x33. -/
def faulted : State := setF (setF plant (Adr.chnState 2) 7 0 chFault) (Adr.chnState 2) 31 24 0x32
theorem test_chnReset : uState (after (exec (.chnStateReset .pf 2 0x31) faulted)) (Adr.chnState 2) = chFault
    ∧ uState (after (exec (.chnStateReset .pf 2 0x32) faulted)) (Adr.chnState 2) = chReset
    ∧ uEpoch (after (exec (.chnStateReset .pf 2 0x32) faulted)) (Adr.chnState 2) = 0x33 := by decide +kernel
/-- A step takes the front command: a control core's write of PRT_ALIVE; on an empty queue nothing changes. -/
theorem test_step : step { up with pending := [.prtAlive (.core 0)] } = .next (wrOk up (.core 0) Adr.prtAlive) ∧ step up = .next up := by
  exact ⟨rfl, rfl⟩
/-- R387: a byte access is counted and changes nothing else. -/
theorem test_badAccess : (after (exec (.badAccess .pf 2 1 true) up)).tabs = up.tabs
    ∧ (after (exec (.badAccess .pf 2 1 true) up)).sent = up.sent := by decide +kernel
/-- No word of the table spells a command. -/
theorem test_decode : decodeTableWord 32 0 = none ∧ State.reset.withFetchWord 32 0 = State.reset := ⟨rfl, rfl⟩
/-- R76, R80: from P0 the boot advances only with the work done. -/
theorem test_boot : phase State.reset = 0 ∧ phase up = 6 := by decide
/-- R27: a barrier of a requester with nothing outstanding reads 0, and the read returns that word. -/
theorem test_barrier : mget 0 (after (exec (.glbBarrierRead .pf) up)).acc.ret (Requester.code .pf) = 0 := by decide +kernel
/-- Every variant of the delivered part begins with its maps in their canonical form. -/
theorem test_shipped : ∀ a b, Canon (State.shipped a b) := by
  intro a b; cases a <;> cases b <;> exact ⟨by decide, by decide⟩

end Sys2Proof.Tests
end

section
/-! SUPPORT AND PROOFS. Accesses to the control window: what a write that passes its checks does to a plain register (R13, R476), and
what reads of 64-bit registers latch (R12). -/
namespace Sys2Proof.Machine

variable {s : State} {who : Requester} {r : RegRef} {a ofs : Nat} {w : Word}

/-- With no performance counter enabled an event is counted nowhere (R432). -/
theorem pc_eq_self_of_pcEnabled_nil (h : pcEnabled s = []) (e : PcEv) : pc s e = s := by
  have hcount : pcCount s e = (s, 0) := by simp [pcCount, h]
  simp [pc, hcount]

/-! ## Writes of plain registers -/

theorem exec_registerWrite (who : Requester) (a : Nat) (w : Word) (ofs : Nat) (s : State) :
    exec (.registerWrite who a w ofs) s = .next (hostWrite s who a w ofs) := rfl

/-- A reachable register word, in no fused block, is written as its register says. -/
theorem ctlwWrite_eq_regWrite (hreach : reachable s a = true) (hfused : blockFused s a = false) (halign : a % 4 = 0)
    (hfind : regFind a = some r) : ctlwWrite s who a w ofs = regWrite s who r a w ofs := by
  simp [ctlwWrite, hreach, hfused, halign, hfind]

/-- The registers that regWrite tells apart by name are not plain. -/
theorem plainReg_id_ne (hp : plainReg r = true) :
    r.desc.id ≠ .uplGrpMode ∧ r.desc.id ≠ .chnDsPart ∧ r.desc.id ≠ .chnTcmTx := by
  refine ⟨?_, ?_, ?_⟩ <;> intro h <;> simp [plainReg, h] at hp

/-- A landed write of a plain register brings nothing with it. -/
theorem afterWrite_eq_self_of_plainReg (hp : plainReg r = true) (s : State) (i1 k old new : Nat) (w : Word) :
    afterWrite s r.desc.id i1 k old new w = s := by
  unfold afterWrite
  split
  case h_9 => rfl
  all_goals simp [plainReg, *] at hp

/-- A write of a plain register that has no operation of its own, by a requester that may write it, goes to plainWrite. -/
theorem regWrite_eq_plainWrite (hpc : pcEnabled s = []) (hp : plainReg r = true) (hup : islDown s (islandOf a) = false)
    (hroute : routeWrite s who r.desc.id (r.idx.headD 0) ((r.idx.drop 1).headD 0) (r.off / 4) w.toNat w ofs = none)
    (hmay : mayWrite s who r a = true) : regWrite s who r a w ofs = plainWrite s who r a w := by
  obtain ⟨hgrp, hpart, htcm⟩ := plainReg_id_ne hp
  simp only [plainReg, Bool.and_eq_true, Bool.not_eq_true', beq_iff_eq] at hp
  obtain ⟨⟨⟨⟨hcommit, -⟩, hfi⟩, hro⟩, -⟩ := hp
  simp only [mayWrite, Bool.and_eq_true] at hmay
  obtain ⟨hwriter, howner⟩ := hmay
  unfold regWrite
  -- The indices are kept as routeWrite takes them in hroute.
  cases ho : r.desc.owner with
  | none =>
    simp [-List.headD_eq_head?_getD, -List.drop_one, pc_eq_self_of_pcEnabled_nil hpc, hup, hcommit, hfi, hro, hwriter, hroute,
      hgrp, htcm, ho]
  | some f =>
    replace howner : isOwner s who (islandOf a) f (treeOfAddr a) = true := by simpa only [ho] using howner
    simp [-List.headD_eq_head?_getD, -List.drop_one, pc_eq_self_of_pcEnabled_nil hpc, hup, hcommit, hfi, hro, hwriter, hroute,
      hgrp, hpart, ho, howner]

/-- The word takes, by its fields' types, the value that the register takes, and the write is noted as OK. -/
theorem plainWrite_eq_noteWriteAt_wr {v : Nat} (hp : plainReg r = true) (hoff : r.off = 4 * (r.off / 4)) (hle : r.off ≤ a)
    (htake : regTake s r.desc.id (r.idx.headD 0) (r.off / 4)
      (putNfld (rdW s (a - r.off) (r.desc.bits / 32)) (32 * (r.off / 4) + 31) (32 * (r.off / 4)) w.toNat) = some v) :
    plainWrite s who r a w = noteWriteAt
      (wr s a (mergeWord r.desc (r.off / 4) (rd s a) (BitVec.ofNat 32 (v / 2 ^ (32 * (r.off / 4)))))) who a .ok 0 0 := by
  have haddr : a - r.off + 4 * (r.off / 4) = a := by omega
  have hafter := afterWrite_eq_self_of_plainReg hp
  simp only [plainReg, Bool.and_eq_true, Bool.not_eq_true', beq_iff_eq] at hp
  obtain ⟨⟨⟨⟨hcommit, hper⟩, -⟩, -⟩, -⟩ := hp
  simp [-List.headD_eq_head?_getD, plainWrite, hper, hcommit, htake, hafter, haddr]

/-! ## Reads of 64-bit registers -/

theorem exec_lowWordRead (who : Requester) (a ofs : Nat) (s : State) :
    exec (.lowWordRead who a ofs) s = .next (hostRead s who a ofs) := rfl

/-- A readable register word is read as its register says. -/
theorem hostRead_eq_regRead (h : readable s who a r) : hostRead s who a ofs = regRead s who r a ofs := by
  obtain ⟨hpc, hplace, hreach, hfused, halign, hfind, hup, hgrp, -⟩ := h
  simp only [hostRead, hplace]
  simp [-List.headD_eq_head?_getD, ctlwRead, hreach, hfused, halign, hfind, hup, hgrp, pc_eq_self_of_pcEnabled_nil hpc]

/-- Where the read is no operation of its own, the low word is read with its latching, and any other word from the latch. -/
theorem regRead_eq_ite (hown : ownRead r.desc.id = false) :
    regRead s who r a ofs =
      if r.off / 4 ≠ 0 then ret s who (latched s who a)
      else ret (afterRead (latchHigh s who (a - r.off)
            (regValue s who r.desc (a - r.off) (r.idx.headD 0) ((r.idx.drop 1).headD 0) ofs) (r.desc.bits / 32))
          who r.desc (a - r.off)) who
        (BitVec.ofNat 32 (regValue s who r.desc (a - r.off) (r.idx.headD 0) ((r.idx.drop 1).headD 0) ofs)) := by
  dsimp only [regRead]
  split
  case h_7 => rfl
  all_goals simp [ownRead, *] at hown

/-- Writing a wide register leaves the accesses' state. -/
@[simp] theorem wrW_acc (s : State) (a v n : Nat) : (wrW s a v n).acc = s.acc := by
  induction n generalizing s a v with
  | zero => rfl
  | succ n ih => rw [wrW, ih, wr_acc]

@[simp] theorem wfW_acc (s : State) (a n hi lo v : Nat) : (wfW s a n hi lo v).acc = s.acc := wrW_acc ..

/-- What a low-word read clears is neither a latched word nor a value returned. -/
theorem afterRead_latch_ret (s : State) (who : Requester) (d : RegDesc) (ra : Nat) :
    (afterRead s who d ra).acc.latch = s.acc.latch ∧ (afterRead s who d ra).acc.ret = s.acc.ret := by
  unfold afterRead
  split
  · simp
  · exact ⟨rfl, rfl⟩
  · split
    · simp
    · exact ⟨rfl, rfl⟩

theorem latchHigh_ret (s : State) (who : Requester) (a v n : Nat) : (latchHigh s who a v n).acc.ret = s.acc.ret := rfl

/-- A 64-bit register has one word to latch, its high word. -/
theorem latchHigh_two_latch (s : State) (who : Requester) (a v : Nat) :
    (latchHigh s who a v 2).acc.latch = mset 0 s.acc.latch (reqKey who (a + 4)) (BitVec.ofNat 32 (v / 2 ^ 32)) := rfl

/-- The read of a 64-bit register's low word returns that word and latches the high word. -/
theorem hostRead_low_ret_latch (h : readable s who a r) (hoff : r.off = 0) (hbits : r.desc.bits = 64) {v : Nat}
    (hv : regValue s who r.desc a (r.idx.headD 0) ((r.idx.drop 1).headD 0) ofs = v) :
    (hostRead s who a ofs).acc.ret = mset 0 s.acc.ret who.code (BitVec.ofNat 32 v)
      ∧ (hostRead s who a ofs).acc.latch = mset 0 s.acc.latch (reqKey who (a + 4)) (BitVec.ofNat 32 (v / 2 ^ 32)) := by
  have hread := hostRead_eq_regRead (ofs := ofs) h
  obtain ⟨-, -, -, -, -, -, -, -, hown⟩ := h
  obtain ⟨hlatch, hret⟩ := afterRead_latch_ret (latchHigh s who a v 2) who r.desc a
  simp only [regRead_eq_ite hown, hoff, hbits, Nat.zero_div, ne_eq, not_true_eq_false, if_false, Nat.sub_zero, hv,
    Nat.reduceDiv] at hread
  rw [hread]
  simp only [ret, hlatch, hret, latchHigh_two_latch, latchHigh_ret, and_self]

/-- The read of a high word returns what is latched for the requester, and changes nothing else. -/
theorem hostRead_high (h : readable s who a r) (hoff : r.off = 4) : hostRead s who a ofs = ret s who (latched s who a) := by
  rw [hostRead_eq_regRead h]
  obtain ⟨-, -, -, -, -, -, -, -, hown⟩ := h
  rw [regRead_eq_ite hown, if_pos (by omega)]

end Sys2Proof.Machine

open Sys2Proof.Machine

/-- Settles O8: the write passes every check of regWrite and lands in plainWrite, which changes one word and the requester's last
write. -/
theorem plainRegisterWriteTakesItsFieldsByType : Obligations.PlainRegisterWriteTakesItsFieldsByType := by
  intro s who a w ofs r v hwf hpc hplace hreach hfused halign hfind hp hup hroute hmay hoff hle htake
  have hrun : hostWrite s who a w ofs = noteWriteAt
      (wr s a (mergeWord r.desc (r.off / 4) (rd s a) (BitVec.ofNat 32 (v / 2 ^ (32 * (r.off / 4)))))) who a .ok 0 0 :=
    calc hostWrite s who a w ofs
        = ctlwWrite s who a w ofs := by simp only [hostWrite, hplace]
      _ = regWrite s who r a w ofs := ctlwWrite_eq_regWrite hreach hfused halign hfind
      _ = plainWrite s who r a w := regWrite_eq_plainWrite hpc hp hup (hroute _) hmay
      _ = _ := plainWrite_eq_noteWriteAt_wr hp hoff hle htake
  rw [exec_registerWrite, hrun]
  exact ⟨_, rfl, rd_wr_same hwf a _, fun b hb => rd_wr_other s _ hb, rfl, rfl, rfl, rfl, rfl, rfl⟩

/-- Settles O10: the low-word read latches under the key of the requester and the high word's address, which is the key that a read
of the high word looks up. -/
theorem lowWordReadLatchesTheHighWordPerRequester : Obligations.LowWordReadLatchesTheHighWordPerRequester := by
  refine ⟨fun s who a ofs r h hoff hbits => ?low, fun s who a ofs r h hoff _ => ?high, fun _ => rfl⟩
  case low =>
    intro v latch
    obtain ⟨hret, hlatch⟩ := hostRead_low_ret_latch h hoff hbits (v := v) rfl
    refine ⟨_, exec_lowWordRead .., hret, hlatch, fun k hk => ?_⟩
    rw [hlatch, mget_mset_other _ _ _ _ hk]
  case high =>
    rw [exec_lowWordRead, hostRead_high h hoff]
    rfl
end

section
/-! SUPPORT AND PROOFS. Accepted writes of unit state registers (R24 to R26). -/
namespace Sys2Proof.Machine

/-- A state whose list of pending changes names register 0 twice. mput, which alone adds to the list, makes no such one: the state is
out of reach, but the statement is about every state with canonical memories. -/
def pendingTwice : State := { State.reset with unit := { pend := [(0, 1, 0), (0, 1, 0)] } }

theorem pendingTwice_canon : Canon pendingTwice := by
  unfold Canon; decide

/-- An accepted write discards one of the two pending changes, so that the unit still acts on the other. -/
theorem effState_unitAccept_pendingTwice : effState (unitAccept pendingTwice 0 0 0) 0 = 1 := rfl

end Sys2Proof.Machine

open Sys2Proof.Machine

/-- Refutes O26 by its last clause: Canon says nothing of the pending changes, and where their list names a register twice an accepted
write of STATE 0 discards the first of the two only, so that the unit acts on STATE 1 of the second. -/
theorem not_acceptedUnitWriteAdvancesTheEpochByOne : ¬ Obligations.AcceptedUnitWriteAdvancesTheEpochByOne := by
  intro h
  obtain ⟨hstate, -, -, -, -, heff⟩ := h pendingTwice 0 0 0 pendingTwice_canon
  rw [hstate, effState_unitAccept_pendingTwice] at heff
  exact absurd heff (by decide)
end

section
/-! SUPPORT AND PROOFS. Flits and credits of the die-to-die ports (R17, R18). -/
namespace Sys2Proof.Machine

variable {s : State} {p d cls lp : Nat} {data : List Byte} {ok : Bool}

/-- A unit passes an injector that is neither armed nor holding as it is. -/
theorem fiPass_of_idle {cfg : Nat} (harmed : fiArmed s cfg = false) (hheld : (fiOf s cfg).held = []) (tid : Option Nat)
    (u : FiUnit) : fiPass s cfg tid u = ([u], s) := by
  simp [fiPass, harmed, hheld]

/-- On a port that takes flits, FLIT_RECEIVE is the check of the flit. -/
theorem exec_flitReceive_of_flitPortUp (h : flitPortUp s p d cls lp) (data : List Byte) (ok : Bool) :
    exec (.flitReceive p d cls lp data ok) s = .next (flitGo s p d cls lp data ok) := by
  obtain ⟨hp, hd, hcls, hlp, hpc, hlost, hretraining, hescape, harmed, hheld⟩ := h
  have hcredit : ¬ (cls = 2 ∧ 64 ≤ escapeOut s p d) := fun ⟨hc, hout⟩ => by have := hescape hc; omega
  have hgo : flitReceive s p d cls lp data ok = flitGo s p d cls lp data ok := by
    simp [flitReceive, hlost, hretraining, hcredit, pc_eq_self_of_pcEnabled_nil hpc, fiPass_of_idle harmed hheld, flitUnits]
  calc exec (.flitReceive p d cls lp data ok) s
      = .next (if p < 8 ∧ d < 2 ∧ cls < 3 ∧ lp < 64 then flitReceive s p d cls lp data ok else s) := rfl
    _ = .next (flitGo s p d cls lp data ok) := by rw [if_pos ⟨hp, hd, hcls, hlp⟩, hgo]

/-- A flit that is the first to be replayed, or finds none waiting, is checked in its turn. -/
theorem flitGo_in_turn
    (h : (d2dOf s p d).retry.head? = none ∨ (d2dOf s p d).retry.head? = some (cls, lp, data)) :
    flitGo s p d cls lp data ok = if ok then flitAccept s p d cls lp else flitFail s p d cls lp data := by
  unfold flitGo
  cases hretry : (d2dOf s p d).retry with
  | nil => simp [hretry]
  | cons f fs =>
    have hf : f = (cls, lp, data) := by simpa [hretry] using h
    simp [hretry, hf]

/-- A flit that arrives behind another one joins the retry buffer, which holds 128. -/
theorem flitGo_behind {f : Nat × Nat × List Byte} {fs : List (Nat × Nat × List Byte)}
    (hretry : (d2dOf s p d).retry = f :: fs) (hf : f ≠ (cls, lp, data)) (hfs : ¬ (cls, lp, data) ∈ fs)
    (hroom : (d2dOf s p d).retry.length < 128) :
    flitGo s p d cls lp data ok
      = setD2d s p d { d2dOf s p d with retry := (d2dOf s p d).retry ++ [(cls, lp, data)] } := by
  have hjoin : ¬ ((cls, lp, data) ∈ f :: fs ∨ 128 ≤ (f :: fs).length) := by
    rw [hretry] at hroom
    rintro (hmem | hlong)
    · exact (List.mem_cons.mp hmem).elim (fun h => hf h.symm) hfs
    · omega
  simp only [flitGo, hretry, if_neg hf, if_neg hjoin]

/-- CREDIT_RETURN of a port, direction, class and logical port that exist. -/
theorem exec_creditReturn (hp : p < 8) (hd : d < 2) (hcls : cls < 3) (hlp : lp < 64) :
    exec (.creditReturn p d cls lp) s = .next (creditReturn s p d cls lp) := by
  calc exec (.creditReturn p d cls lp) s
      = .next (if p < 8 ∧ d < 2 ∧ cls < 3 ∧ lp < 64 then creditReturn s p d cls lp else s) := rfl
    _ = .next (creditReturn s p d cls lp) := by rw [if_pos ⟨hp, hd, hcls, hlp⟩]

/-- The ninth failure of a flit in a row retrains the port, others replay it. -/
theorem flitFail_eq (s : State) (p d cls lp : Nat) (data : List Byte) :
    flitFail s p d cls lp data =
      let x := { d2dOf s p d with retry := (cls, lp, data) :: (d2dOf s p d).retry.drop 1 }
      if (d2dOf s p d).replays < 8 then
        raiseFree (pc (setD2d s p d { x with replays := (d2dOf s p d).replays + 1 }) { code := 0x11, unit := some p }) (320 + p)
          .corrected
      else
        let u := setD2d s p d { x with replays := 0 }
        setD2d u p 0 { d2dOf u p 0 with retraining := true } := rfl

/-- RETRAIN_COMPLETE of a port that retrains. -/
theorem exec_retrainComplete (hp : p < 8) (h : (d2dOf s p 0).retraining = true) (ok : Bool) :
    exec (.retrainComplete p ok) s = .next (
      if ok then setD2d s p 0 { d2dOf s p 0 with retraining := false, failedRow := 0 }
      else if (d2dOf s p 0).failedRow < 2 then setD2d s p 0 { d2dOf s p 0 with failedRow := (d2dOf s p 0).failedRow + 1 }
      else d2dLost s p) := by
  calc exec (.retrainComplete p ok) s
      = .next (if p < 8 then retrainDone s p ok else s) := rfl
    _ = _ := by rw [if_pos hp]; simp [retrainDone, h]

/-- In its turn a good flit is accepted and a failed one replayed; one out of its turn waits for its replay. -/
theorem flitsAreAcceptedReplayedOrRetrainThePort : Sys2Proof.Rules.FlitsAreAcceptedReplayedOrRetrainThePort := by
  intro s p d cls lp data hup x k out
  obtain ⟨hp, hd, hcls, hlp, -⟩ := id hup
  refine ⟨fun hturn => ⟨?accepted, fun hfew => ?replayed, fun hninth => ?retrained⟩,
    fun f fs ok hretry hf hfs hroom => ?behind, exec_creditReturn hp hd hcls hlp⟩
  case accepted =>
    rw [exec_flitReceive_of_flitPortUp hup, flitGo_in_turn hturn]; rfl
  case replayed =>
    rw [exec_flitReceive_of_flitPortUp hup, flitGo_in_turn hturn, if_neg Bool.false_ne_true, flitFail_eq, if_pos hfew]
  case retrained =>
    have hmany : ¬ (d2dOf s p d).replays < 8 := by show ¬ x.replays < 8; omega
    rw [exec_flitReceive_of_flitPortUp hup, flitGo_in_turn hturn, if_neg Bool.false_ne_true, flitFail_eq, if_neg hmany]
  case behind =>
    rw [exec_flitReceive_of_flitPortUp hup, flitGo_behind hretry hf hfs hroom]

/-- A retraining that ends is a success, one more failure, or the third failure in a row. -/
theorem thirdFailedRetrainingLosesThePort : Sys2Proof.Rules.ThirdFailedRetrainingLosesThePort := by
  intro s p hp hretraining
  refine ⟨?_, fun hfew => ?_, fun hthird => ?_⟩
  · rw [exec_retrainComplete hp hretraining, if_pos rfl]
  · rw [exec_retrainComplete hp hretraining, if_neg Bool.false_ne_true, if_pos hfew]
  · rw [exec_retrainComplete hp hretraining, if_neg Bool.false_ne_true, if_neg (by omega)]

end Sys2Proof.Machine

/-- Settles O11: an idle injector and no counter leave FLIT_RECEIVE the check of the flit, whose cases are those of the retry buffer's
head; the retraining's cases are those of its count of failures. -/
theorem flitsAreAcceptedReplayedOrLoseThePort : Obligations.FlitsAreAcceptedReplayedOrLoseThePort :=
  ⟨Sys2Proof.Machine.flitsAreAcceptedReplayedOrRetrainThePort, Sys2Proof.Machine.thirdFailedRetrainingLosesThePort⟩
end

section
/-! SUPPORT. Single bits of register words, wide registers over several words, and the canonical form of the registers after a
write. -/
namespace Sys2Proof.Machine

variable {s : State}

/-! ## The canonical form after a write -/

theorem mwf_regs_wr (h : mwf resetWord s.regs = true) (a : Nat) (w : Word) : mwf resetWord (wr s a w).regs = true :=
  mwf_mset resetWord s.regs a w h

theorem mwf_regs_wf (h : mwf resetWord s.regs = true) (a hi lo v : Nat) : mwf resetWord (wf s a hi lo v).regs = true :=
  mwf_regs_wr h a _

theorem mwf_regs_wb (h : mwf resetWord s.regs = true) (a i : Nat) (b : Bool) : mwf resetWord (wb s a i b).regs = true :=
  mwf_regs_wr h a _

/-! ## Single bits -/

/-- One bit of a word is its field of one bit. -/
theorem testBit_eq_fld (w : Word) (i : Nat) : w.toNat.testBit i = decide (fld w i i = 1) := by
  rw [Nat.testBit_eq_decide_div_mod_eq, fld, BitVec.extractLsb'_toNat, Nat.shiftRight_eq_div_pow]
  simp

/-- Reading a bit just written. -/
theorem rb_wb_same (h : mwf resetWord s.regs = true) (a i : Nat) (b : Bool) (hi : i < 32) : rb (wb s a i b) a i = b := by
  unfold rb wb wf
  rw [rd_wr_same h, testBit_eq_fld, fld_putFld_same _ _ _ _ (Nat.le_refl i) hi]
  cases b <;> simp [b2n]

/-- Reading another word after a bit was written. -/
theorem rd_wb_other (s : State) {a b : Nat} (i : Nat) (x : Bool) (h : b ≠ a) : rd (wb s a i x) b = rd s b :=
  rd_wr_other s _ h

theorem rf_congr {t : State} {a : Nat} (h : rd t a = rd s a) (hi lo : Nat) : rf t a hi lo = rf s a hi lo := by
  unfold rf; rw [h]

theorem rb_congr {t : State} {a : Nat} (h : rd t a = rd s a) (i : Nat) : rb t a i = rb s a i := by
  unfold rb; rw [h]

/-- Writing a register word changes the registers only. -/
theorem wr_with_regs (s : State) (a : Nat) (w : Word) (m : SMap Word) : { wr s a w with regs := m } = { s with regs := m } := rfl

theorem wf_with_regs (s : State) (a hi lo v : Nat) (m : SMap Word) : { wf s a hi lo v with regs := m } = { s with regs := m } := rfl

theorem wb_with_regs (s : State) (a i : Nat) (b : Bool) (m : SMap Word) : { wb s a i b with regs := m } = { s with regs := m } :=
  rfl

/-! ## Wide registers -/

/-- Writing a wide register leaves the words outside it. -/
theorem rd_wrW_other (s : State) (a v n : Nat) {b : Nat} (h : b < a ∨ a + 4 * n ≤ b) : rd (wrW s a v n) b = rd s b := by
  induction n generalizing s a v with
  | zero => rfl
  | succ n ih => rw [wrW, ih _ _ _ (by omega), rd_wr_other _ _ (by omega)]

/-- Writing a wide register changes the registers only. -/
theorem wrW_with_regs (s : State) (a v n : Nat) (m : SMap Word) : { wrW s a v n with regs := m } = { s with regs := m } := by
  induction n generalizing s a v with
  | zero => rfl
  | succ n ih => rw [wrW, ih, wr_with_regs]

theorem wfW_with_regs (s : State) (a n hi lo v : Nat) (m : SMap Word) :
    { wfW s a n hi lo v with regs := m } = { s with regs := m } := wrW_with_regs s a _ n m

/-- Reading a wide register just written gives the value cut to its words. -/
theorem rdW_wrW_same (h : mwf resetWord s.regs = true) (a v n : Nat) : rdW (wrW s a v n) a n = v % 2 ^ (32 * n) := by
  induction n generalizing s a v with
  | zero => simp [rdW, Nat.mod_one]
  | succ n ih =>
    rw [rdW, wrW, ih (mwf_regs_wr h _ _), rd_wrW_other _ _ _ _ (by omega), rd_wr_same h, BitVec.toNat_ofNat,
      show 32 * (n + 1) = 32 + 32 * n by omega, pow_add, Nat.mod_mul]

/-- A field of a number into which it was put reads as the value cut to the field. -/
theorem nfld_putNfld_same (v hi lo x : Nat) (h : lo ≤ hi) : nfld (putNfld v hi lo x) hi lo = x % 2 ^ (hi + 1 - lo) := by
  have hsplit : 2 ^ (hi + 1) = 2 ^ lo * 2 ^ (hi + 1 - lo) := by rw [← pow_add]; congr 1; omega
  have hlow : v % 2 ^ lo < 2 ^ lo := Nat.mod_lt _ (by positivity)
  have hput : putNfld v hi lo x = 2 ^ lo * (2 ^ (hi + 1 - lo) * (v / 2 ^ (hi + 1)) + x % 2 ^ (hi + 1 - lo)) + v % 2 ^ lo := by
    unfold putNfld; rw [hsplit]; ring
  rw [hput, nfld, Nat.mul_add_div (by positivity), Nat.div_eq_of_lt hlow, add_zero, Nat.mul_add_mod, Nat.mod_mod]

/-- A field put into a number of n bits leaves it one of n bits. -/
theorem putNfld_lt {v hi lo : Nat} (x : Nat) {n : Nat} (hv : v < 2 ^ n) (h : lo ≤ hi) (hn : hi < n) : putNfld v hi lo x < 2 ^ n := by
  have hfield : x % 2 ^ (hi + 1 - lo) + 1 ≤ 2 ^ (hi + 1 - lo) := Nat.mod_lt _ (by positivity)
  have hlow : v % 2 ^ lo < 2 ^ lo := Nat.mod_lt _ (by positivity)
  have hhigh : v / 2 ^ (hi + 1) + 1 ≤ 2 ^ (n - (hi + 1)) := by
    rw [Nat.add_one_le_iff, Nat.div_lt_iff_lt_mul (by positivity), ← pow_add]
    rwa [show n - (hi + 1) + (hi + 1) = n by omega]
  calc putNfld v hi lo x
      < v / 2 ^ (hi + 1) * 2 ^ (hi + 1) + (x % 2 ^ (hi + 1 - lo) + 1) * 2 ^ lo := by unfold putNfld; rw [add_mul]; omega
    _ ≤ v / 2 ^ (hi + 1) * 2 ^ (hi + 1) + 2 ^ (hi + 1 - lo) * 2 ^ lo := by gcongr
    _ = (v / 2 ^ (hi + 1) + 1) * 2 ^ (hi + 1) := by rw [← pow_add, show hi + 1 - lo + lo = hi + 1 by omega]; ring
    _ ≤ 2 ^ (n - (hi + 1)) * 2 ^ (hi + 1) := by gcongr
    _ = 2 ^ n := by rw [← pow_add, show n - (hi + 1) + (hi + 1) = n by omega]

theorem rdW_lt (s : State) (a n : Nat) : rdW s a n < 2 ^ (32 * n) := by
  induction n generalizing a with
  | zero => simp [rdW]
  | succ n ih =>
    have hword := (rd s a).isLt
    have hrest : rdW s (a + 4) n + 1 ≤ 2 ^ (32 * n) := ih (a + 4)
    calc rdW s a (n + 1) < 2 ^ 32 * (rdW s (a + 4) n + 1) := by rw [rdW]; omega
      _ ≤ 2 ^ 32 * 2 ^ (32 * n) := by gcongr
      _ = 2 ^ (32 * (n + 1)) := by rw [← pow_add]; congr 1; omega

/-- Reading a field of a wide register just written. -/
theorem rfW_wfW_same (h : mwf resetWord s.regs = true) (a n hi lo v : Nat) (hl : lo ≤ hi) (hn : hi < 32 * n) :
    rfW (wfW s a n hi lo v) a n hi lo = v % 2 ^ (hi + 1 - lo) := by
  rw [rfW, wfW, rdW_wrW_same h, Nat.mod_eq_of_lt (putNfld_lt v (rdW_lt s a n) hl hn), nfld_putNfld_same _ _ _ _ hl]

end Sys2Proof.Machine
end

section
/-! SUPPORT AND PROOFS. Clearing PEND (R38), lost islands (R20, R36) and memory errors (R37). -/
namespace Sys2Proof.Machine

variable {s : State}

/-! ## PEND -/

/-- A fold over a range in which one number acts is that number's step. -/
theorem foldl_range_single {α : Type} {f : α → Nat → α} {k : Nat} (h : ∀ x j, j ≠ k → f x j = x) (x : α) (n : Nat) :
    (List.range n).foldl f x = if k < n then f x k else x := by
  induction n with
  | zero => simp
  | succ n ih =>
    rw [List.range_succ, List.foldl_append, ih, List.foldl_cons, List.foldl_nil]
    by_cases hk : n = k
    · subst hk; simp
    · rw [h _ _ hk]
      simp only [show k < n + 1 ↔ k < n by omega]

/-- A word of 2^k has bit k set and no other. -/
theorem testBit_word_two_pow {k : Nat} (hk : k < 32) (i : Nat) : (BitVec.ofNat 32 (2 ^ k)).toNat.testBit i = decide (k = i) := by
  rw [BitVec.toNat_ofNat, Nat.mod_eq_of_lt (Nat.pow_lt_pow_right (by omega) hk), Nat.testBit_two_pow]

/-- A write of a single 1 clears the PEND bit of the island that it names, with the island's MAXSEV and EVCOUNT. -/
theorem exec_pendClear_single (s : State) {j k : Nat} (hj : j < 11) (hk : k < 32) (hi : 32 * j + k < 342) :
    exec (.pendClear j (BitVec.ofNat 32 (2 ^ k))) s = .next (wf (wf (wb s (Adr.glbEventPend j) k false)
      (Adr.glbIslandStat (32 * j + k)) 25 24 0) (Adr.glbIslandStat (32 * j + k)) 23 16 0) := by
  have hclear : pendClear s j (BitVec.ofNat 32 (2 ^ k)) = wf (wf (wb s (Adr.glbEventPend j) k false)
      (Adr.glbIslandStat (32 * j + k)) 25 24 0) (Adr.glbIslandStat (32 * j + k)) 23 16 0 := by
    unfold pendClear
    rw [foldl_range_single (k := k) (fun x i hik => ?other), if_pos hk]
    · simp only [testBit_word_two_pow hk, hi, decide_true, Bool.and_self, if_true]
    case other =>
      simp only [testBit_word_two_pow hk, decide_eq_false (Ne.symm hik), Bool.false_and, Bool.false_eq_true, if_false]
  calc exec (.pendClear j (BitVec.ofNat 32 (2 ^ k))) s
      = .next (if j < 11 then pendClear s j (BitVec.ofNat 32 (2 ^ k)) else s) := rfl
    _ = _ := by rw [if_pos hj, hclear]

/-- PEND and the status of islands lie apart. -/
theorem glbEventPend_ne_glbIslandStat {j : Nat} (hj : j < 11) (i : Nat) : Adr.glbEventPend j ≠ Adr.glbIslandStat i := by
  unfold Adr.glbEventPend Adr.glbIslandStat; omega

theorem pendClearClearsTheIslandsNamed : Sys2Proof.Rules.PendClearClearsTheIslandsNamed := by
  intro s j k hwf hj hk hi i
  have hne := glbEventPend_ne_glbIslandStat hj i
  have hwf1 := mwf_regs_wb hwf (Adr.glbEventPend j) k false
  have hwf2 := mwf_regs_wf hwf1 (Adr.glbIslandStat i) 25 24 0
  have hstat (hi lo : Nat) : rf (wb s (Adr.glbEventPend j) k false) (Adr.glbIslandStat i) hi lo = rf s (Adr.glbIslandStat i) hi lo :=
    rf_congr (rd_wb_other s _ _ hne.symm) hi lo
  refine ⟨_, exec_pendClear_single s hj hk hi, ?pend, ?maxsev, ?evcount, ?state, ?lastcode, fun x hx hx' => ?other, ?frame⟩
  case pend =>
    have hword : i / 32 = j ∧ i % 32 = k := by omega
    unfold islPend
    rw [hword.1, hword.2, rb_congr (rd_wf_other _ _ _ _ hne), rb_congr (rd_wf_other _ _ _ _ hne), rb_wb_same hwf _ _ _ hk]
  case maxsev =>
    rw [rf_wf_field hwf2 _ _ _ _ _ _ (by omega) (by omega) (by omega), rf_wf_same hwf1 _ _ _ _ (by omega) (by omega), Nat.zero_mod]
  case evcount => rw [rf_wf_same hwf2 _ _ _ _ (by omega) (by omega), Nat.zero_mod]
  case state =>
    rw [rf_wf_field hwf2 _ _ _ _ _ _ (by omega) (by omega) (by omega), rf_wf_field hwf1 _ _ _ _ _ _ (by omega) (by omega) (by omega),
      hstat]
  case lastcode =>
    rw [rf_wf_field hwf2 _ _ _ _ _ _ (by omega) (by omega) (by omega), rf_wf_field hwf1 _ _ _ _ _ _ (by omega) (by omega) (by omega),
      hstat]
  case other => rw [rd_wf_other _ _ _ _ hx', rd_wf_other _ _ _ _ hx', rd_wb_other _ _ _ hx]
  case frame => rw [wf_with_regs, wf_with_regs, wb_with_regs]

/-! ## Lost islands -/

/-- ISLAND_LOST by the kind of the island: a channel, an uplink port group, a pipeline, one of FATAL severity, one that is lost. -/
theorem exec_islandLost_channel {c : Nat} (hc : c < 256) (det : Nat) : exec (.islandLost c det) s = .next (chanLost s c det) := by
  calc exec (.islandLost c det) s = .next (islandLost s c det) := rfl
    _ = _ := by simp only [islandLost, if_pos hc]

theorem exec_islandLost_group {g : Nat} (hg : g < 32) (det : Nat) : exec (.islandLost (256 + g) det) s = .next (groupLost s g) := by
  calc exec (.islandLost (256 + g) det) s = .next (islandLost s (256 + g) det) := rfl
    _ = _ := by rw [islandLost, if_neg (by omega), if_pos (by omega), Nat.add_sub_cancel_left]

theorem exec_islandLost_pipe {p : Nat} (hp : p < 16) (hlost : islState s (288 + p) ≠ islLost)
    (hfused : islState s (288 + p) ≠ islFused) (det : Nat) : exec (.islandLost (288 + p) det) s
      = .next (raiseFree (pipeLost (setIsl s (288 + p) islLost) p) (288 + p) .degraded) := by
  have hin : ¬ (342 ≤ 288 + p ∨ islState s (288 + p) = islLost ∨ islState s (288 + p) = islFused) := by
    rintro (h | h | h)
    exacts [by omega, hlost h, hfused h]
  calc exec (.islandLost (288 + p) det) s = .next (islandLost s (288 + p) det) := rfl
    _ = _ := by rw [islandLost, if_neg (by omega), if_neg (by omega), if_neg hin, if_pos (by omega), Nat.add_sub_cancel_left]

theorem exec_islandLost_fatal {i : Nat} (hi : 336 ≤ i) (hi' : i < 341) (hlost : islState s i ≠ islLost)
    (hfused : islState s i ≠ islFused) (det : Nat) :
    exec (.islandLost i det) s = .next (raiseFree (setIsl s i islLost) i .fatal) := by
  have hin : ¬ (342 ≤ i ∨ islState s i = islLost ∨ islState s i = islFused) := by
    rintro (h | h | h)
    exacts [by omega, hlost h, hfused h]
  calc exec (.islandLost i det) s = .next (islandLost s i det) := rfl
    _ = _ := by
      rw [islandLost, if_neg (by omega), if_neg (by omega), if_neg hin, if_neg (by omega), if_neg (by omega), if_neg (by omega),
        if_neg (by omega), if_neg (by omega), if_neg (by omega)]

theorem exec_islandLost_of_lost {i : Nat} (hi : 288 ≤ i) (hlost : islState s i = islLost) (det : Nat) :
    exec (.islandLost i det) s = .next s := by
  calc exec (.islandLost i det) s = .next (islandLost s i det) := rfl
    _ = _ := by rw [islandLost, if_neg (by omega), if_neg (by omega), if_pos (.inr (.inl hlost))]

theorem lostIslandsStopAndReportBySeverity : Sys2Proof.Rules.LostIslandsStopAndReportBySeverity := by
  refine ⟨fun s c det hc hvalid hup => ?_, fun s g det hg hvalid hup => ?_, fun s p det hp hlost hfused => ?_,
    fun s i det hi hi' hlost hfused => ?_, fun s i det hi hlost => ?_⟩
  · intro u
    have hin : ¬ (chanValid s c = false ∨ islState s c = islLost) := by simp [hvalid, hup]
    rw [exec_islandLost_channel hc, chanLost, if_neg hin]
  · have hin : ¬ (laneValid s (8 * g) = false ∨ islState s (256 + g) = islLost) := by simp [hvalid, hup]
    rw [exec_islandLost_group hg, groupLost, if_neg hin]
  · exact exec_islandLost_pipe hp hlost hfused det
  · exact exec_islandLost_fatal hi hi' hlost hfused det
  · exact exec_islandLost_of_lost hi hlost det

/-! ## Memory errors -/

/-- An entry with an uncorrectable error is stored as 0, and its table and index are reported. -/
theorem entryBad_eq {isl code idx st n : Nat} (hshape : tblShape s code = some (st, n)) (hidx : idx < n) :
    entryBad s isl code idx
      = raiseFree (emit (showPlanes (tblPut s code idx 0) code) (.tableError code idx)) isl .degraded := by
  simp only [entryBad, hshape, if_pos hidx]

theorem memoryErrorsAreCorrectedOrContained : Sys2Proof.Rules.MemoryErrorsAreCorrectedOrContained := by
  refine ⟨fun s i hi => ?single, fun s h => ?cell, fun s i code idx st n hi hshape hidx => ?entry, fun s i => ?state, fun s => ?scrub⟩
  case single =>
    calc exec (.sramError (.single i)) s = .next (if i < 342 then raiseFree s i .corrected else s) := rfl
      _ = _ := by rw [if_pos hi]
  case entry =>
    calc exec (.sramError (.entry i code idx)) s = .next (if i < 342 then entryBad s i code idx else s) := rfl
      _ = _ := by rw [if_pos hi, entryBad_eq hshape hidx]
  all_goals rfl

end Sys2Proof.Machine

open Sys2Proof.Machine

/-- Settles O12: of a write of one 1 only the step of its bit acts, and ISLAND_LOST and SRAM_ERROR go by the kind of what failed. -/
theorem eventsAreClearedAndMemoryErrorsContained : Obligations.EventsAreClearedAndMemoryErrorsContained :=
  ⟨pendClearClearsTheIslandsNamed, lostIslandsStopAndReportBySeverity, memoryErrorsAreCorrectedOrContained⟩
end

section
/-! SUPPORT AND PROOFS. The check of a Clause that enters an island (R29, R31, R39). -/
namespace Sys2Proof.Machine

variable {s : State} {src dst : Nat} {cl : Clause} {check : Nat}

/-! ## Discarding an item -/

/-- In lists by key from which the elements of a kind are taken, none of that kind is left. -/
theorem any_any_map_filter_not {α : Type} (l : List (Nat × List α)) (p : α → Bool) (r : Nat × List α → Bool) :
    (((l.map fun q => (q.1, q.2.filter fun x => !p x)).filter r).any fun q => q.2.any p) = false := by
  rw [List.any_eq_false]
  intro q hq
  obtain ⟨q', -, rfl⟩ := List.mem_map.mp (List.mem_of_mem_filter hq)
  simp

/-- Taking a buffer's items out of flow leaves none of them there. -/
theorem inFlow_flowWithout_buf (s : State) (h : Nat) : inFlow (flowWithout s fun x => x.buf == h) h = false := by
  have hingress := any_any_map_filter_not s.flow.ingress (fun x => x.fr.cl.buf == h) (fun q => q.2 != [])
  have hfwd := any_any_map_filter_not s.flow.fwd (fun x => x.fr.cl.buf == h) (fun q => q.2 != [])
  simp [inFlow, flowWithout, hingress, hfwd]

/-- An item that waits before or beside the queues leaves every place there, and its buffer is freed. -/
theorem itemDrop_of_inFlow (hbuf : cl.buf ≠ noBuf) (hflow : inFlow s cl.buf = true) (i : Nat) :
    itemDrop s i cl = bufDrop (flowWithout s fun x => x.buf == cl.buf) cl.buf i := by
  rw [itemDrop, if_neg hbuf, if_pos hflow]

/-! ## The check -/

/-- Where no injector selects the link, CLAUSE_ISLAND_ENTRY is the check of the item. -/
theorem exec_clauseIslandEntry_of_no_injector (hsrc : src < 342) (hdst : dst < 342) (hnone : linkInjectors s src dst = []) :
    exec (.clauseIslandEntry src dst cl check) s = .next (itemGo s dst cl check) := by
  calc exec (.clauseIslandEntry src dst cl check) s
      = .next (if src < 342 ∧ dst < 342 then clauseEntry s src dst cl check else s) := rfl
    _ = .next (clauseEntry s src dst cl check) := by rw [if_pos ⟨hsrc, hdst⟩]
    _ = .next (itemGo s dst cl check) := by simp only [clauseEntry, hnone, passAll, itemUnits, List.foldl_cons, List.foldl_nil]

/-- A Clause with its CHECK right and a KIND of R29 goes on. -/
theorem itemGo_of_good (hcheck : check = cl.check) (hkind : cl.kind < 8) : itemGo s dst cl check = s := by
  have hgood : ¬ (check ≠ cl.check ∨ 8 ≤ cl.kind) := by rintro (h | h); exacts [h hcheck, by omega]
  rw [itemGo, if_neg hgood]

/-- What every Clause error brings: the item discarded, the count, the event. -/
def clauseFault (s : State) (dst : Nat) (cl : Clause) : State :=
  raise (cnt32 (itemDrop s dst cl) (Adr.glbClauseErr dst) 1) dst .corrected 0x0002

/-- A Clause error in an island that is no channel. -/
theorem clauseError_of_block (hdst : 256 ≤ dst) : clauseError s dst cl = clauseFault s dst cl := by
  unfold clauseError clauseFault
  rw [if_neg (by omega)]

/-- A Clause error in a channel island, one of the first 1,000 of its second, counts in that second too. -/
theorem clauseError_of_channel (hdst : dst < 256) (hfew : mget 0 (clauseFault s dst cl).line.clauseSec dst < 1000) :
    clauseError s dst cl = { clauseFault s dst cl with line := { (clauseFault s dst cl).line with
      clauseSec := mset 0 (clauseFault s dst cl).line.clauseSec dst (mget 0 (clauseFault s dst cl).line.clauseSec dst + 1) } } := by
  have hunder : ¬ 1000 < mget 0 (clauseFault s dst cl).line.clauseSec dst + 1 := by omega
  unfold clauseError
  exact (if_pos hdst).trans (if_neg hunder)

end Sys2Proof.Machine

open Sys2Proof.Machine

/-- Settles O13: with no injector on the link the item meets its check alone, which it passes or which makes it a Clause error. -/
theorem clauseIsCheckedAsItEntersAnIsland : Obligations.ClauseIsCheckedAsItEntersAnIsland := by
  intro s src dst cl check hsrc hdst hnone
  have hentry := exec_clauseIslandEntry_of_no_injector (cl := cl) (check := check) hsrc hdst hnone
  refine ⟨fun hcheck hkind => ?good, fun hbad => ?bad,
    fun hbuf hflow => ⟨itemDrop_of_inFlow hbuf hflow dst, inFlow_flowWithout_buf s _⟩⟩
  case good => rw [hentry, itemGo_of_good hcheck hkind]
  case bad =>
    rw [itemGo, if_pos hbad] at hentry
    exact ⟨fun hblock => hentry.trans (congrArg _ (clauseError_of_block hblock)),
      fun hchannel hfew => hentry.trans (congrArg _ (clauseError_of_channel hchannel hfew))⟩
end

section
/-! SUPPORT AND PROOFS. Handovers (R43 to R45) and the host watchdog (R47). -/
namespace Sys2Proof.Machine

variable {s : State} {who : Requester} {v : Word} {f t : Nat} {h : Handover}

/-! ## Requests -/

/-- A request that passes the checks of R43 is accepted. -/
theorem ownerReqCheck_eq_none (hf : fld v 19 16 ≤ 11) (htree : treeValid s (fld v 13 8) = true)
    (hscope : deviceScope (fld v 19 16) = true → fld v 13 8 = 0)
    (hexpect : fld v 31 24 = uEpoch s (Adr.mbxOwner (fld v 19 16) (fld v 13 8)))
    (hstable : rf s (Adr.mbxOwner (fld v 19 16) (fld v 13 8)) 11 8 = 0)
    (hnew : fld v 0 0 ≠ owner s (fld v 19 16) (fld v 13 8)) : ownerReqCheck s v = none := by
  have hrange : ¬ (11 < fld v 19 16 ∨ treeValid s (fld v 13 8) = false ∨ (deviceScope (fld v 19 16) = true ∧ fld v 13 8 ≠ 0)) := by
    rintro (h | h | ⟨h, h'⟩)
    exacts [by omega, by simp [htree] at h, h' (hscope h)]
  unfold ownerReqCheck
  rw [if_neg hrange, if_neg (not_not.mpr hexpect), if_neg (not_not.mpr hstable), if_neg hnew]

/-- OWNER_REQUEST of the physical function's side with an accepted request starts the handover. -/
theorem exec_ownerRequest_of_accepted (hup : islDown s 336 = false) (hpf : isPfSide s who = true)
    (hcheck : ownerReqCheck s v = none) : exec (.ownerRequest who v) s
      = .next (wrOk (startHandover s (fld v 19 16) (fld v 13 8) (fld v 0 0) false) who Adr.mbxOwnerReq) := by
  have hrun : ownerRequest s who v
      = wrOk (startHandover s (fld v 19 16) (fld v 13 8) (fld v 0 0) false) who Adr.mbxOwnerReq := by
    simp [ownerRequest, hup, hpf, hcheck]
  calc exec (.ownerRequest who v) s = .next (ownerRequest s who v) := rfl
    _ = _ := by rw [hrun]

theorem handoverRequestIsAcceptedWhenItsChecksPass : Sys2Proof.Rules.HandoverRequestIsAcceptedWhenItsChecksPass := by
  intro s who v hpf hup f t hf htree hscope hexpect hstable hnew
  exact exec_ownerRequest_of_accepted hup hpf (ownerReqCheck_eq_none hf htree hscope hexpect hstable hnew)

/-! ## Flips and the end of a handover -/

/-- The flip of an island still waited for is noted, and nothing but the state of ownership changes. -/
theorem ownerFlip_of_waiting (hfind : findHandover s f t = some h) {i : Nat} (hi : i ∈ h.waiting) :
    (ownerFlip s f t i).own.flipped = s.own.flipped ++ [(f * 64 + t, i)] ∧ { ownerFlip s f t i with own := s.own } = s := by
  simp only [ownerFlip, hfind, if_pos hi, and_self]

/-- A handover whose islands have all acknowledged ends; its owner's registers are taken as consistent. -/
theorem handoverDone_of_acknowledged (hfind : findHandover s f t = some h) (hsent : h.flipsSent = true) (hnone : h.waiting = []) :
    handoverDone s f t true = putRec
      (wf (wf (setHstate (endHandover s f t) f t 0) (Adr.mbxOwner f t) 23 16 0) (Adr.mbxOwner f t) 0 0 h.newOwner)
      (regopAddr h.record) { tag := handoverTag f t h.watchdog, opcode := 0x6000 + f, state := .done } := by
  simp [handoverDone, hfind, hsent, hnone]

/-- A handover that is abandoned leaves OWNER. -/
theorem abandonHandover_of_found (hfind : findHandover s f t = some h) (why : Status) :
    abandonHandover s f t why = putRec (setHstate (endHandover s f t) f t 0) (regopAddr h.record)
      { tag := handoverTag f t h.watchdog, opcode := 0x6000 + f, state := .notDone, status := why.code } := by
  simp only [abandonHandover, hfind]

theorem handoverFlipsEveryIslandThenChangesTheOwner : Sys2Proof.Rules.HandoverFlipsEveryIslandThenChangesTheOwner := by
  intro s f t h hfind
  refine ⟨fun i hi => ⟨ownerFlip s f t i, rfl, ownerFlip_of_waiting hfind hi⟩, fun hsent hnone _ => ?_, ?_⟩
  · exact congrArg Host.Outcome.next (handoverDone_of_acknowledged hfind hsent hnone)
  · exact congrArg Host.Outcome.next (abandonHandover_of_found hfind .quiesceTimeout)

/-! ## The host watchdog -/

/-- The word that a write of MBX_HOST_WD leaves (R47, R476). -/
def hostWdWord (s : State) (v : Word) : Word :=
  putFld (putFld (putFld (0 : Word) 31 31 (fld v 31 31)) 30 30 (b2n (rb s Adr.mbxHostWd 30 && !v.toNat.testBit 30))) 13 0
    (clamp 10 10000 (fld v 13 0))

/-- A write of MBX_HOST_WD on a control complex that is up. -/
theorem exec_hostWdWrite (hup : islDown s 336 = false) (who : Requester) (v : Word) : exec (.hostWdWrite who v) s
      = .next (wrOk { wr s Adr.mbxHostWd (hostWdWord s v) with own := { s.own with wdArmed := v.toNat.testBit 31 } } who
          Adr.mbxHostWd) := by
  calc exec (.hostWdWrite who v) s = .next (hostWdWrite s who v) := rfl
    _ = _ := by simp only [hostWdWrite, hup, Bool.false_eq_true, if_false]; rfl

/-- A write that takes effect is noted with its requester and changes no register and nothing of ownership. -/
theorem wrOk_regs_own (s : State) (who : Requester) (a : Nat) : (wrOk s who a).regs = s.regs ∧ (wrOk s who a).own = s.own := by
  simp [wrOk, noteWrite, noteWriteAt]

/-- A period of 10 to 10,000 fits its field. -/
theorem clamp_period_lt (n : Nat) : clamp 10 10000 n < 2 ^ 14 := by
  unfold clamp; split_ifs <;> omega

/-- The period reads as written, cut to its limits. -/
theorem fld_hostWdWord_period (s : State) (v : Word) : fld (hostWdWord s v) 13 0 = clamp 10 10000 (fld v 13 0) := by
  rw [hostWdWord, fld_putFld_same _ _ _ _ (by omega) (by omega), Nat.mod_eq_of_lt (clamp_period_lt _)]

/-- EXPIRED is cleared where 1 is written. -/
theorem testBit_hostWdWord_expired {s : State} {v : Word} (hclear : v.toNat.testBit 30 = true) :
    (hostWdWord s v).toNat.testBit 30 = false := by
  rw [testBit_eq_fld, hostWdWord, fld_putFld_other _ _ _ _ _ _ (by omega) (by omega) (by omega),
    fld_putFld_same _ _ _ _ (by omega) (by omega)]
  simp [hclear, b2n]

theorem hostWatchdogIsRestartedAndExpires : Sys2Proof.Rules.HostWatchdogIsRestartedAndExpires := by
  refine ⟨fun s who v hcanon hup => ⟨_, exec_hostWdWrite hup who v, ?_⟩, fun s harmed => ?expire⟩
  · obtain ⟨hwf, -⟩ := hcanon
    obtain ⟨hregs, hown⟩ := wrOk_regs_own
      { wr s Adr.mbxHostWd (hostWdWord s v) with own := { s.own with wdArmed := v.toNat.testBit 31 } } who Adr.mbxHostWd
    generalize wrOk _ who Adr.mbxHostWd = t at hregs hown ⊢
    have hrd (a : Nat) : rd t a = rd (wr s Adr.mbxHostWd (hostWdWord s v)) a := by unfold rd; rw [hregs]
    refine ⟨by rw [hown], ?period, fun hclear => ?expired, fun a ha => ?other⟩
    case period => rw [rf, hrd, rd_wr_same hwf, fld_hostWdWord_period]
    case expired => rw [rb, hrd, rd_wr_same hwf, testBit_hostWdWord_expired hclear]
    case other => rw [hrd, rd_wr_other _ _ ha]
  case expire =>
    calc exec .hostWdExpire s = .next (hostWdExpire s) := rfl
      _ = _ := by rw [hostWdExpire, if_pos harmed]; rfl

end Sys2Proof.Machine

open Sys2Proof.Machine

/-- Settles O14: a request that meets every check reaches startHandover, flips and endings find their handover, and the watchdog's word
reads back field by field. -/
theorem handoverChangesTheOwnerInStepsAndTheWatchdogTakesBack :
    Obligations.HandoverChangesTheOwnerInStepsAndTheWatchdogTakesBack :=
  ⟨handoverRequestIsAcceptedWhenItsChecksPass, handoverFlipsEveryIslandThenChangesTheOwner, hostWatchdogIsRestartedAndExpires⟩
end

section
/-! SUPPORT. What the report of an island's event changes (R38, R388, R389): registers of the events and interrupts, pending vectors,
and what has been sent. -/
namespace Sys2Proof.Machine

/-- A step that changes registers, the accesses' state and what has been sent, and nothing else. -/
def KeepsUnits (s t : State) : Prop := { t with regs := s.regs, acc := s.acc, sent := s.sent } = s

namespace KeepsUnits

variable {s t u : State}

theorem refl (s : State) : KeepsUnits s s := rfl

theorem trans (h : KeepsUnits s t) (g : KeepsUnits t u) : KeepsUnits s u := by
  unfold KeepsUnits at h g ⊢
  rw [← h, ← g]

theorem wr (s : State) (a : Nat) (w : Word) : KeepsUnits s (wr s a w) := rfl

theorem unit (h : KeepsUnits s t) : t.unit = s.unit := by unfold KeepsUnits at h; rw [← h]
theorem prt (h : KeepsUnits s t) : t.prt = s.prt := by unfold KeepsUnits at h; rw [← h]
theorem fwd (h : KeepsUnits s t) : t.fwd = s.fwd := by unfold KeepsUnits at h; rw [← h]

theorem sendMsix (s : State) (fn vec : Nat) : KeepsUnits s (sendMsix s fn vec) := by
  unfold Machine.sendMsix
  split_ifs
  · exact wr s _ _
  all_goals rfl

theorem fireSource (s : State) (src : Nat) : KeepsUnits s (fireSource s src) := by
  unfold Machine.fireSource
  split
  · exact sendMsix s _ _
  · exact refl s

theorem setPend (s : State) (i : Nat) : KeepsUnits s (setPend s i) := by
  unfold Machine.setPend
  split
  · exact refl s
  · exact (wr s _ _).trans (fireSource _ i)

theorem report (s : State) (i : Nat) (sev : Severity) (code : Nat) : KeepsUnits s (report s i sev code) :=
  (wr s _ _).trans (setPend _ i)

end KeepsUnits

/-! ## The registers between the islands' status and the pending vectors -/

theorem rd_sendMsix_other (s : State) (fn vec : Nat) {b : Nat} (hb : b < 0xF80000) : rd (sendMsix s fn vec) b = rd s b := by
  unfold sendMsix
  split_ifs
  · exact rd_wb_other _ _ _ (by unfold Adr.msixPba; omega)
  all_goals rfl

theorem rd_fireSource_other (s : State) (src : Nat) {b : Nat} (hb : b < 0xF80000) : rd (fireSource s src) b = rd s b := by
  unfold fireSource
  split
  · exact rd_sendMsix_other s _ _ hb
  · rfl

theorem rd_setPend_other (s : State) {i b : Nat} (hi : i < 342) (hlo : 0x2000 ≤ b) (hhi : b < 0xF80000) :
    rd (setPend s i) b = rd s b := by
  unfold setPend
  split
  · rfl
  · rw [rd_fireSource_other _ _ hhi, rd_wb_other _ _ _ (by unfold Adr.glbEventPend; omega)]

/-- The report of an island's event changes PEND, the island's status and the pending vectors, and no register between them. -/
theorem rd_report_other (s : State) {i b : Nat} (hi : i < 342) (sev : Severity) (code : Nat) (hlo : 0x2000 ≤ b)
    (hhi : b < 0xF80000) : rd (report s i sev code) b = rd s b :=
  (rd_setPend_other _ hi hlo hhi).trans (rd_wr_other s _ (by unfold Adr.glbIslandStat; omega))

end Sys2Proof.Machine
end

section
/-! SUPPORT. What leaves PRT_STATE as it is: the injectors and messages of the protection link (R419, R440), the closing gate (R415) and
the report of an event (R38). -/
namespace Sys2Proof.Machine

/-! ## Pending changes -/

theorem find?_mput_same {α : Type} (m : SMap α) (a : Nat) (v : α) : (mput m a v).find? (·.1 = a) = some (a, v) := by
  induction m with
  | nil => simp [mput]
  | cons p m ih =>
    obtain ⟨k, x⟩ := p
    simp only [mput]
    split
    · simp
    · split
      · simp
      · rw [List.find?_cons_of_neg (by simp; omega), ih]

theorem find?_mput_other {α : Type} (m : SMap α) {a b : Nat} (v : α) (h : b ≠ a) :
    (mput m a v).find? (·.1 = b) = m.find? (·.1 = b) := by
  induction m with
  | nil => simp [mput, Ne.symm h]
  | cons p m ih =>
    obtain ⟨k, x⟩ := p
    simp only [mput]
    split
    · rw [List.find?_cons_of_neg (by simpa using Ne.symm h)]
    · split
      · next hk =>
        subst hk
        rw [List.find?_cons_of_neg (by simpa using Ne.symm h), List.find?_cons_of_neg (by simpa using Ne.symm h)]
      · rw [List.find?_cons, List.find?_cons, ih]

/-- A change of a unit that has changed in this cycle waits for the next cycle start. -/
theorem dpChange_of_wait {s : State} {a st det : Nat}
    (h : a ∈ s.unit.changed ∧ (st ≠ uState s a ∨ (s.unit.pend.any fun p => p.1 == a) = true)) :
    dpChange s a st det = { s with unit := { s.unit with pend := mput s.unit.pend a (st, det) } } := by
  rw [dpChange, if_pos h]

/-- Any other change is shown at once. -/
theorem dpChange_of_now {s : State} {a st det : Nat}
    (h : ¬ (a ∈ s.unit.changed ∧ (st ≠ uState s a ∨ (s.unit.pend.any fun p => p.1 == a) = true))) :
    dpChange s a st det =
      if decide (uState s a ≠ st) = true then
        { putUnit s a st det (decide (uState s a ≠ st)) with
          unit := { (putUnit s a st det (decide (uState s a ≠ st))).unit with
            changed := (putUnit s a st det (decide (uState s a ≠ st))).unit.changed ++ [a] } }
      else putUnit s a st det (decide (uState s a ≠ st)) := by
  rw [dpChange, if_neg h]

/-! ## Keeping PRT_STATE -/

/-- A step that leaves the register PRT_STATE and its pending change. -/
structure KeepsPrtState (s t : State) : Prop where
  reg : rd t Adr.prtState = rd s Adr.prtState
  pend : t.unit.pend.find? (·.1 = Adr.prtState) = s.unit.pend.find? (·.1 = Adr.prtState)

namespace KeepsPrtState

variable {s t u : State} {cfg : Nat}

theorem refl (s : State) : KeepsPrtState s s := ⟨rfl, rfl⟩

theorem trans (h : KeepsPrtState s t) (g : KeepsPrtState t u) : KeepsPrtState s u :=
  ⟨g.reg.trans h.reg, g.pend.trans h.pend⟩

/-- The state that the device already acts on is kept. -/
theorem effState (h : KeepsPrtState s t) : Machine.effState t Adr.prtState = Machine.effState s Adr.prtState := by
  unfold Machine.effState uState rf; rw [h.pend, h.reg]

theorem uState (h : KeepsPrtState s t) : Machine.uState t Adr.prtState = Machine.uState s Adr.prtState := by
  unfold Machine.uState rf; rw [h.reg]

theorem uDetail (h : KeepsPrtState s t) : Machine.uDetail t Adr.prtState = Machine.uDetail s Adr.prtState := by
  unfold Machine.uDetail rf; rw [h.reg]

/-- What changes neither registers nor units. -/
theorem of_regs_unit (hregs : t.regs = s.regs) (hunit : t.unit = s.unit) : KeepsPrtState s t :=
  ⟨by unfold rd; rw [hregs], by rw [hunit]⟩

theorem foldl {α : Type} {f : State → α → State} (h : ∀ s x, KeepsPrtState s (f s x)) (l : List α) (s : State) :
    KeepsPrtState s (l.foldl f s) := by
  induction l generalizing s with
  | nil => exact refl s
  | cons x l ih => exact (h s x).trans (ih _)

theorem prtUpd (s : State) (f : PrtSt → PrtSt) : KeepsPrtState s (prtUpd s f) := of_regs_unit rfl rfl

theorem wr {a : Nat} (ha : a ≠ Adr.prtState) (s : State) (w : Word) : KeepsPrtState s (wr s a w) :=
  ⟨rd_wr_other s w ha.symm, rfl⟩

theorem wrW {a n : Nat} (ha : Adr.prtState < a ∨ a + 4 * n ≤ Adr.prtState) (s : State) (v : Nat) :
    KeepsPrtState s (wrW s a v n) :=
  ⟨rd_wrW_other s a v n ha, by rw [congrArg State.unit (wrW_with_regs s a v n s.regs)]⟩

/-! ### Injectors. Their status lies below PRT_STATE. -/

theorem setFi (s : State) (cfg : Nat) (x : FiSt) : KeepsPrtState s (setFi s cfg x) := of_regs_unit rfl rfl

theorem fiDisarm (hcfg : fiStat cfg + 4 < Adr.prtState) (s : State) : KeepsPrtState s (fiDisarm s cfg) := by
  unfold Machine.fiDisarm
  split
  · exact wr (by omega) s _
  · exact refl s

theorem fiSelect (hcfg : fiStat cfg + 4 < Adr.prtState) (s : State) : KeepsPrtState s (fiSelect s cfg).2 := by
  unfold Machine.fiSelect
  extract_lets v st
  split
  · exact of_regs_unit rfl rfl
  · split
    · exact setFi s cfg _
    · split
      · exact refl s
      next n _ =>
        extract_lets left
        have hleft : KeepsPrtState s left := setFi s cfg _
        show KeepsPrtState s (if n ≤ 1 then Machine.fiDisarm left cfg else left)
        split
        · exact hleft.trans (fiDisarm hcfg left)
        · exact hleft

theorem satF_fiStat (hcfg : fiStat cfg + 4 < Adr.prtState) (s : State) : KeepsPrtState s (satF s (fiStat cfg) 31 16 1) :=
  wr (by omega) s _

theorem satF_fiStat_hits (hcfg : fiStat cfg + 4 < Adr.prtState) (s : State) : KeepsPrtState s (satF s (fiStat cfg + 4) 31 0 1) :=
  wr (by omega) s _

theorem fiDue (s : State) (cfg : Nat) : KeepsPrtState s (fiDue s cfg).2 := setFi s cfg _

theorem fiAct (hcfg : fiStat cfg + 4 < Adr.prtState) (s : State) (u : FiUnit) : KeepsPrtState s (fiAct s cfg u).2 := by
  unfold Machine.fiAct
  extract_lets v st busySwap held
  have hheld : KeepsPrtState s held := setFi s cfg _
  clear_value held
  split
  next hit sel hsel =>
  have hselected : KeepsPrtState held sel := by
    have := congrArg Prod.snd hsel
    simp only at this
    rw [← this]
    split
    · exact fiSelect hcfg held
    · exact refl held
  extract_lets hits hold
  have hhits : KeepsPrtState sel hits := satF_fiStat_hits hcfg sel
  split
  next now acted hacted =>
  have hdone : KeepsPrtState sel acted := by
    have := congrArg Prod.snd hacted
    simp only at this
    rw [← this]
    split
    · exact refl sel
    · split
      · exact hhits
      · split
        · exact satF_fiStat hcfg sel
        · exact hhits
      · exact hhits.trans (setFi hits cfg _)
      · exact hhits.trans (setFi hits cfg _)
      · exact refl sel
  exact ((hheld.trans hselected).trans hdone).trans (fiDue acted cfg)

theorem fiPass (hcfg : fiStat cfg + 4 < Adr.prtState) (s : State) (tid : Option Nat) (u : FiUnit) :
    KeepsPrtState s (fiPass s cfg tid u).2 := by
  unfold Machine.fiPass
  split
  · exact refl s
  · extract_lets m
    split
    · exact fiAct hcfg s u
    · exact refl s

theorem emitFi (hcfg : fiStat cfg + 4 < Adr.prtState) (s : State) (tid : Option Nat) (o : Sent) :
    KeepsPrtState s (emitFi s cfg tid o) := by
  refine (fiPass hcfg s tid (.out o)).trans (foldl (fun s u => ?_) _ _)
  cases u <;> exact of_regs_unit rfl rfl

/-! ### The protection link -/

theorem plkSend (s : State) (b : PlkBody) : KeepsPrtState s (plkSend s b) := by
  unfold Machine.plkSend
  split
  · exact refl s
  · extract_lets a m p t
    have ht : KeepsPrtState s t := of_regs_unit rfl rfl
    exact ht.trans (emitFi (by decide) t none (.plk m))

theorem plkState (s : State) : KeepsPrtState s (plkState s) := by
  unfold Machine.plkState
  split
  · exact (plkSend s _).trans (of_regs_unit rfl rfl)
  · exact refl s

/-! ### Other units, and events -/

theorem putUnit {a : Nat} (ha : a ≠ Adr.prtState) (s : State) (st det : Nat) (b : Bool) :
    KeepsPrtState s (putUnit s a st det b) := wr ha s _

theorem dpChange {a : Nat} (ha : a ≠ Adr.prtState) (s : State) (st det : Nat) : KeepsPrtState s (dpChange s a st det) := by
  by_cases hwait : a ∈ s.unit.changed ∧ (st ≠ Machine.uState s a ∨ (s.unit.pend.any fun p => p.1 == a) = true)
  · rw [dpChange_of_wait hwait]
    exact ⟨rfl, find?_mput_other _ _ ha.symm⟩
  · rw [dpChange_of_now hwait]
    split
    · exact (putUnit ha s st det _).trans ⟨rfl, rfl⟩
    · exact putUnit ha s st det _

/-- Channels lie above PRT_STATE. -/
theorem prtClose (s : State) : KeepsPrtState s (prtClose s) := by
  unfold Machine.prtClose
  extract_lets p t
  have ht : KeepsPrtState s t := of_regs_unit rfl rfl
  clear_value t
  refine ht.trans (foldl (fun s c => ?_) (List.range 256) t)
  extract_lets st
  split
  · exact dpChange (by unfold Adr.chnState Adr.prtState; omega) s 8 0
  · exact refl s

end KeepsPrtState

end Sys2Proof.Machine
end

section
/-! SUPPORT AND PROOFS. The interlock of the protection pair (R413 to R417, R428, R429). -/
namespace Sys2Proof.Machine

variable {s : State} {who : Requester}

/-! ## Writes of PRT_STATE and PRT_ALIVE -/

/-- A write by the owner of function 7 with the current EPOCH that prtStateAct takes. -/
theorem prtStateWrite_of_taken (hup : islDown s 341 = false) (howner : isOwner s who 341 7 0 = true) {v : Nat} {t : State}
    (hact : prtStateAct s v = some t) : prtStateWrite s who (uEpoch s Adr.prtState) v = wrOk t who Adr.prtState := by
  simp only [prtStateWrite, hup, howner, ne_eq, not_true_eq_false, Bool.false_eq_true, Bool.true_eq_false, if_false, hact]

/-- One that it does not take is out of range. -/
theorem prtStateWrite_of_not_taken (hup : islDown s 341 = false) (howner : isOwner s who 341 7 0 = true) {v : Nat}
    (hact : prtStateAct s v = none) :
    prtStateWrite s who (uEpoch s Adr.prtState) v = wrRefuse s who Adr.prtState .outOfRange := by
  simp only [prtStateWrite, hup, howner, ne_eq, not_true_eq_false, Bool.false_eq_true, Bool.true_eq_false, if_false, hact]

theorem prtStateWrite_of_stale (hup : islDown s 341 = false) (howner : isOwner s who 341 7 0 = true) {e : Nat}
    (hstale : e ≠ uEpoch s Adr.prtState) (v : Nat) : prtStateWrite s who e v = wrStale s who Adr.prtState := by
  simp only [prtStateWrite, hup, howner, Bool.false_eq_true, Bool.true_eq_false, if_false, if_pos hstale]

theorem prtStateWrite_of_not_owner (hup : islDown s 341 = false) (howner : isOwner s who 341 7 0 = false) (e v : Nat) :
    prtStateWrite s who e v = wrNotOwner s who Adr.prtState 7 0 := by
  simp only [prtStateWrite, hup, howner, Bool.false_eq_true, if_false, if_true]

/-- A release by the owner is taken on an ACTIVE device whose peer reads READY or with FORCE_OK. -/
theorem exec_prtStateReleased_of_current (hup : islDown s 341 = false) (howner : isOwner s who 341 7 0 = true) :
    exec (.prtStateReleased who (uEpoch s Adr.prtState)) s = .next (
      if prtSt s = ptActive ∧ (rb s Adr.prtCfg 28 = true ∨ linkFld s 59 56 = ptReady) then
        wrOk (prtUpd s fun p => { p with release := true }) who Adr.prtState
      else wrRefuse s who Adr.prtState .outOfRange) := by
  have hact : prtStateAct s ptReleased =
      if prtSt s = ptActive ∧ (rb s Adr.prtCfg 28 = true ∨ linkFld s 59 56 = ptReady) then
        some (prtUpd s fun p => { p with release := true })
      else none := by
    simp [prtStateAct, ptReleased, ptNotReady]
  calc exec (.prtStateReleased who (uEpoch s Adr.prtState)) s
      = .next (prtStateWrite s who (uEpoch s Adr.prtState) ptReleased) := rfl
    _ = _ := by
      by_cases h : prtSt s = ptActive ∧ (rb s Adr.prtCfg 28 = true ∨ linkFld s 59 56 = ptReady)
      · rw [if_pos h, prtStateWrite_of_taken hup howner (hact.trans (if_pos h))]
      · rw [if_neg h, prtStateWrite_of_not_taken hup howner (hact.trans (if_neg h))]

/-- A rejoin by the owner is taken on a RELEASED device, DETAIL not FATAL. -/
theorem exec_prtStateNotReady_of_current (hup : islDown s 341 = false) (howner : isOwner s who 341 7 0 = true) :
    exec (.prtStateNotReady who (uEpoch s Adr.prtState)) s = .next (
      if prtSt s = ptReleased ∧ uDetail s Adr.prtState ≠ 2 then
        wrOk (prtEval (prtUpd (plkState (unitAccept s Adr.prtState ptNotReady 0)) fun p => { p with held := false }))
          who Adr.prtState
      else wrRefuse s who Adr.prtState .outOfRange) := by
  have hrejoin : prtStateAct s ptNotReady =
      if ptNotReady = ptNotReady ∧ prtSt s = ptReleased ∧ uDetail s Adr.prtState ≠ 2 then
        some (prtEval (prtUpd (plkState (unitAccept s Adr.prtState ptNotReady 0)) fun p => { p with held := false }))
      else none := if_neg fun h => absurd h.1 (by decide)
  calc exec (.prtStateNotReady who (uEpoch s Adr.prtState)) s
      = .next (prtStateWrite s who (uEpoch s Adr.prtState) ptNotReady) := rfl
    _ = _ := by
      by_cases h : prtSt s = ptReleased ∧ uDetail s Adr.prtState ≠ 2
      · rw [if_pos h, prtStateWrite_of_taken hup howner (hrejoin.trans (if_pos ⟨rfl, h⟩))]
      · rw [if_neg h, prtStateWrite_of_not_taken hup howner (hrejoin.trans (if_neg fun g => h g.2))]

theorem exec_prtAlive (hup : islDown s 341 = false) (who : Requester) : exec (.prtAlive who) s
    = .next (if isCore who then wrOk s who Adr.prtAlive else wrRefuse s who Adr.prtAlive .notAuthorized) := by
  calc exec (.prtAlive who) s = .next (prtAliveWrite s who) := rfl
    _ = _ := by cases h : isCore who <;> simp [prtAliveWrite, h, hup]

/-! ## The release of the token (R416) -/

/-- The device without the token: its state told, its gate closed, its outputs held. -/
def tokenLetGo (s : State) (cause : Nat) : State :=
  prtUpd (prtClose (prtSet s 5 cause)) fun p => { p with driving := false, release := false, flush := true, held := true }

/-- A holder of the token lets it go and reports RELEASED. -/
theorem prtRelease_of_holder (h : prtSt s = ptActive ∨ prtSt s = ptClaiming) (cause : Nat) :
    prtRelease s cause = report (wb (tokenLetGo s cause) Adr.prtEvent 1 true) 341 .corrected 0x0F01 := by
  unfold prtRelease
  exact if_pos h

/-- A device without the token releases nothing. -/
theorem prtRelease_of_no_holder (h : prtSt s ≠ ptActive) (h' : prtSt s ≠ ptClaiming) (cause : Nat) : prtRelease s cause = s := by
  unfold prtRelease
  exact if_neg (not_or.mpr ⟨h, h'⟩)

/-- A change of PRT_STATE is told to the peer. -/
theorem prtSet_of_change {st : Nat} (h : prtSt s ≠ st) (det : Nat) :
    prtSet s st det = plkState (dpChange s Adr.prtState st det) := by
  unfold prtSet
  exact if_neg h

/-- A change waits where STATE has changed in this cycle, and the device acts on it at once. -/
theorem effState_dpChange_of_changed {a st : Nat} (hin : a ∈ s.unit.changed) (h : effState s a ≠ st) (det : Nat) :
    effState (dpChange s a st det) a = st := by
  have hwait : a ∈ s.unit.changed ∧ (st ≠ uState s a ∨ (s.unit.pend.any fun p => p.1 == a) = true) := by
    refine ⟨hin, ?_⟩
    by_contra hno
    obtain ⟨heq, hnone⟩ := not_or.mp hno
    have hfind : s.unit.pend.find? (·.1 = a) = none := by
      rw [List.find?_eq_none]
      exact fun p hp hpa => hnone (List.any_eq_true.mpr ⟨p, hp, by simpa using hpa⟩)
    exact h (by rw [effState, hfind, not_not.mp heq])
  rw [dpChange_of_wait hwait, effState]
  simp only [find?_mput_same]

/-- Where STATE has not changed in this cycle the change is shown. -/
theorem uState_uDetail_dpChange_of_unchanged (hwf : mwf resetWord s.regs = true) {a : Nat} (hin : a ∉ s.unit.changed) (st det : Nat) :
    uState (dpChange s a st det) a = st % 256 ∧ uDetail (dpChange s a st det) a = det % 256 := by
  obtain ⟨hstate, hdetail, -⟩ := putUnit_read hwf a st det (decide (uState s a ≠ st))
  rw [dpChange_of_now fun h => hin h.1]
  split
  · exact ⟨hstate, hdetail⟩
  · exact ⟨hstate, hdetail⟩

/-- Letting the token go changes PRT_STATE by one data-path change. -/
theorem keepsPrtState_tokenLetGo (h : prtSt s ≠ ptReleased) (cause : Nat) :
    KeepsPrtState (dpChange s Adr.prtState ptReleased cause) (tokenLetGo s cause) := by
  have hset : prtSet s 5 cause = plkState (dpChange s Adr.prtState ptReleased cause) := prtSet_of_change h cause
  unfold tokenLetGo
  rw [hset]
  exact ((KeepsPrtState.plkState _).trans (KeepsPrtState.prtClose _)).trans (.prtUpd _ _)

theorem keepsPrtState_report (s : State) {i : Nat} (hi : i < 342) (sev : Severity) (code : Nat) :
    KeepsPrtState s (report s i sev code) :=
  ⟨rd_report_other s hi sev code (by decide) (by decide), by rw [(KeepsUnits.report s i sev code).unit]⟩

theorem keepsPrtState_prtRelease (h : prtSt s = ptActive ∨ prtSt s = ptClaiming) (cause : Nat) :
    KeepsPrtState (dpChange s Adr.prtState ptReleased cause) (prtRelease s cause) := by
  have hheld : prtSt s ≠ ptReleased := by rcases h with h | h <;> rw [h] <;> decide
  rw [prtRelease_of_holder h]
  exact ((keepsPrtState_tokenLetGo hheld cause).trans (.wr (by decide) _ _)).trans (keepsPrtState_report _ (by decide) _ _)

theorem dpChange_prt (s : State) (a st det : Nat) : (dpChange s a st det).prt = s.prt := by
  by_cases h : a ∈ s.unit.changed ∧ (st ≠ uState s a ∨ (s.unit.pend.any fun p => p.1 == a) = true)
  · rw [dpChange_of_wait h]
  · rw [dpChange_of_now h]
    split <;> rfl

/-- The closed gate. -/
theorem prtClose_prt (s : State) : (prtClose s).prt = { s.prt with standby := true } := by
  have hfold (l : List Nat) (t : State) : (l.foldl (fun s c =>
      let st := effState s (Adr.chnState c)
      if st = 2 ∨ st = 3 ∨ st = 4 ∨ st = 6 then dpChange s (Adr.chnState c) 8 0 else s) t).prt = t.prt := by
    induction l generalizing t with
    | nil => rfl
    | cons c l ih =>
      rw [List.foldl_cons, ih]
      dsimp only
      split
      · exact dpChange_prt ..
      · rfl
  unfold prtClose
  extract_lets p t
  exact hfold (List.range 256) t

theorem prtUpd_prt (s : State) (f : PrtSt → PrtSt) : (prtUpd s f).prt = f s.prt := rfl

theorem prtUpd_regs (s : State) (f : PrtSt → PrtSt) : (prtUpd s f).regs = s.regs := rfl

theorem wb_prt (s : State) (a i : Nat) (b : Bool) : (wb s a i b).prt = s.prt := rfl

/-- A release closes the gate, holds the outputs and drives the line no more. -/
theorem prtRelease_prt (h : prtSt s = ptActive ∨ prtSt s = ptClaiming) (cause : Nat) :
    (prtRelease s cause).prt.driving = false ∧ (prtRelease s cause).prt.standby = true ∧ (prtRelease s cause).prt.held = true := by
  rw [prtRelease_of_holder h, (KeepsUnits.report _ _ _ _).prt, wb_prt, tokenLetGo, prtUpd_prt, prtClose_prt]
  exact ⟨rfl, rfl, rfl⟩

/-- A release reports its event. -/
theorem rb_prtEvent_prtRelease (hcanon : Canon s) (h : prtSt s = ptActive ∨ prtSt s = ptClaiming) (cause : Nat) :
    rb (prtRelease s cause) Adr.prtEvent 1 = true := by
  have hfollows : Follows ⟨true, true, true⟩ s (prtClose (prtSet s 5 cause)) :=
    prtClose_follows (prtSet_follows (Follows.refl _ s) 5 cause)
  obtain ⟨hclosed, -⟩ := hfollows.canon hcanon
  have hwf : mwf resetWord (tokenLetGo s cause).regs = true := by rw [tokenLetGo, prtUpd_regs, hclosed]
  rw [prtRelease_of_holder h, rb_congr (rd_report_other _ (by decide) _ _ (by decide) (by decide)), rb_wb_same hwf _ _ _ (by decide)]

theorem gateMay_of_not_driving (h : s.prt.driving = false) : gateMay s = false := by
  simp [gateMay, h]

theorem releasesAndRejoinsFollowTheInterlock : Sys2Proof.Rules.ReleasesAndRejoinsFollowTheInterlock := by
  refine ⟨fun s who e hup => ⟨fun howner => ⟨?current, fun hstale => ?stale⟩, fun howner => ?foreign, fun hcore => ?core,
      fun hhost => ?host⟩,
    fun s hcanon => ⟨fun hholder => ?alive, fun hactive hclaiming => ?none, fun hrev hoff hst hpeer hbasic => ?revert⟩⟩
  case current =>
    rintro rfl
    rw [exec_prtStateReleased_of_current hup howner, exec_prtStateNotReady_of_current hup howner]
    refine ⟨fun hst hpeer => by rw [if_pos ⟨hst, hpeer⟩], fun hno => ?_,
      fun hst hdet => by rw [if_pos ⟨hst, hdet⟩], fun hno => ?_⟩
    · rw [if_neg]
      rintro ⟨hst, hpeer⟩
      rcases hno with hno | ⟨hforce, hready⟩
      · exact hno hst
      · exact hpeer.elim (fun h => by simp [hforce] at h) hready
    · rw [if_neg]
      rintro ⟨hst, hdet⟩
      exact hno.elim (fun h => h hst) hdet
  case stale =>
    exact ⟨congrArg Host.Outcome.next (prtStateWrite_of_stale hup howner hstale ptReleased),
      congrArg Host.Outcome.next (prtStateWrite_of_stale hup howner hstale ptNotReady)⟩
  case foreign => exact congrArg Host.Outcome.next (prtStateWrite_of_not_owner hup howner e ptReleased)
  case core => rw [exec_prtAlive hup, if_pos hcore]
  case host => rw [exec_prtAlive hup, hhost, if_neg Bool.false_ne_true]
  case alive =>
    obtain ⟨hdriving, hstandby, hheld⟩ := prtRelease_prt hholder 3
    have hkept := keepsPrtState_prtRelease hholder 3
    refine ⟨prtRelease s 3, rfl, fun hin => ?_, fun hin => ?_, hdriving, hstandby, hheld, gateMay_of_not_driving hdriving,
      rb_prtEvent_prtRelease hcanon hholder 3⟩
    · have hst : effState s Adr.prtState ≠ ptReleased := by
        show prtSt s ≠ ptReleased
        rcases hholder with h | h <;> rw [h] <;> decide
      exact hkept.effState.trans (effState_dpChange_of_changed hin hst 3)
    · obtain ⟨hstate, hdetail⟩ := uState_uDetail_dpChange_of_unchanged hcanon.1 hin ptReleased 3
      exact ⟨hkept.uState.trans hstate, hkept.uDetail.trans hdetail⟩
  case none =>
    calc exec .aliveTimeout s = .next (prtRelease s 3) := rfl
      _ = .next s := by rw [prtRelease_of_no_holder hactive hclaiming]
  case revert =>
    calc exec .revertWtrExpire s = .next (revertRelease s) := rfl
      _ = _ := by rw [revertRelease, if_pos ⟨hrev, hoff, hst, hpeer, hbasic⟩]

/-! ## The events of the token (R413, R414, R417) -/

/-- The line's level and the peer's heartbeat lie in PRT_LINK_STAT, apart from PRT_STATE. -/
theorem prtSt_setLink (s : State) (hi lo v : Nat) : prtSt (setLink s hi lo v) = prtSt s :=
  KeepsPrtState.effState (KeepsPrtState.wrW (n := 2) (by decide) s _)

theorem setLink_prt (s : State) (hi lo v : Nat) : (setLink s hi lo v).prt = s.prt := by
  have h := congrArg State.prt (wfW_with_regs s Adr.prtLinkStat 2 hi lo v s.regs)
  exact h

/-- PEER_HB reads as it was set. -/
theorem peerHb_setLink (hwf : mwf resetWord s.regs = true) {v : Nat} (hv : v < 4) : peerHb (setLink s 53 52 v) = v := by
  unfold peerHb linkFld setLink
  rw [rfW_wfW_same hwf _ _ _ _ _ (by decide) (by decide)]
  exact Nat.mod_eq_of_lt hv

theorem tokenClaim_eq {role : Nat} (hrole : prtRole s = some role) (ns : Nat) :
    tokenClaim s ns = if prtStandby s = true ∧ s.prt.stuck = false ∧ linkFld s 54 54 = 0 ∧ tAcq s role ≤ ns then
        prtSet (setLink (prtUpd s fun p =>
          { p with driving := true, prev := (prtSt s, uDetail s Adr.prtState), fastSeen := peerHb s == 2 }) 54 54 1) ptClaiming 0
      else s := by
  simp only [tokenClaim, hrole]

/-- At the end of the claim window the secondary that has seen the fast heartbeat gives up, any other claimant takes over. -/
theorem claimEnd_eq (hst : prtSt s = ptClaiming) (ofs : Nat) :
    claimEnd s ofs = if s.prt.fastSeen = true ∧ prtRole s = some 1 then
        prtEvent (prtSet (setLink (prtUpd s fun p => { p with driving := false }) 54 54 0) s.prt.prev.1 s.prt.prev.2) 8
      else takeOver s ofs := by
  unfold claimEnd
  exact if_pos hst

/-- The peer's edges as kept and PEER_HB, on the third edge. -/
def hbSeen (s : State) (ofs a b : Nat) : State :=
  setLink (prtUpd s fun p => { p with hb := [devNs s ofs, a, b] }) 53 52 (if decide (devNs s ofs < b + 4000) then 2 else 1)

/-- A third edge reads FAST within 4 us of the first, and one in the claim window is remembered. -/
theorem hbEdge_of_third {ofs a b : Nat} {rest : List Nat} (hpair : prtSt s ≠ ptSolo) (hhb : s.prt.hb = a :: b :: rest) :
    hbEdge s ofs = if decide (devNs s ofs < b + 4000) = true ∧ prtSt s = ptClaiming then
        prtUpd (hbSeen s ofs a b) fun p => { p with fastSeen := true }
      else hbSeen s ofs a b := by
  have hst : prtSt (hbSeen s ofs a b) = prtSt s := prtSt_setLink _ _ _ _
  unfold hbEdge
  rw [if_neg hpair, ← hst]
  simp only [hhb]
  rfl

theorem hbSeen_prt (s : State) (ofs a b : Nat) : (hbSeen s ofs a b).prt = { s.prt with hb := [devNs s ofs, a, b] } :=
  setLink_prt _ _ _ _

theorem peerHb_hbSeen (hwf : mwf resetWord s.regs = true) (ofs a b : Nat) :
    peerHb (hbSeen s ofs a b) = if devNs s ofs < b + 4000 then 2 else 1 := by
  have hset := peerHb_setLink (s := prtUpd s fun p => { p with hb := [devNs s ofs, a, b] }) hwf
    (v := if decide (devNs s ofs < b + 4000) then 2 else 1) (by split <;> decide)
  rw [hbSeen, hset]
  simp only [decide_eq_true_eq]

theorem peerHb_prtUpd (s : State) (f : PrtSt → PrtSt) : peerHb (prtUpd s f) = peerHb s := rfl

theorem hbEdge_third_read {ofs a b : Nat} {rest : List Nat} (hpair : prtSt s ≠ ptSolo) (hhb : s.prt.hb = a :: b :: rest) :
    (hbEdge s ofs).prt.hb = [devNs s ofs, a, b]
      ∧ (Canon s → peerHb (hbEdge s ofs) = if devNs s ofs < b + 4000 then 2 else 1)
      ∧ ((hbEdge s ofs).prt.fastSeen = (s.prt.fastSeen || (decide (devNs s ofs < b + 4000) && prtSt s == ptClaiming))) := by
  rw [hbEdge_of_third hpair hhb]
  split
  next hfast =>
    rw [peerHb_prtUpd, prtUpd_prt, hbSeen_prt, hfast.1, hfast.2]
    exact ⟨rfl, fun hcanon => peerHb_hbSeen hcanon.1 ofs a b, by simp⟩
  next hslow =>
    have hno : (decide (devNs s ofs < b + 4000) && prtSt s == ptClaiming) = false := by
      rw [Bool.eq_false_iff]
      simpa using hslow
    rw [hbSeen_prt, hno, Bool.or_false]
    exact ⟨rfl, fun hcanon => peerHb_hbSeen hcanon.1 ofs a b, rfl⟩

theorem tokenIsClaimedKeptOrGivenUp : Sys2Proof.Rules.TokenIsClaimedKeptOrGivenUp := by
  intro s
  refine ⟨fun role ns hrole => ?claim, fun ofs hst => ?window, fun ofs hst => ?noClaim,
    fun ofs a b rest hpair hhb => ⟨hbEdge s ofs, rfl, hbEdge_third_read hpair hhb⟩, fun hpair hhb => ?lost, fun hno => ?notLost,
    fun tg hpair hstuck => ?stuck, rfl, fun u hu => ?high, fun hpair hgate hopen => ?gate⟩
  case claim =>
    have hexec : exec (.tokenClaim ns) s = .next (tokenClaim s ns) := rfl
    rw [hexec, tokenClaim_eq hrole]
    refine ⟨fun hstandby hfree hline hns => by rw [if_pos ⟨hstandby, hfree, hline, hns⟩], fun hno => ?_⟩
    rw [if_neg]
    rintro ⟨hstandby, hfree, hline, hns⟩
    rcases hno with h | h | h | h
    · simp [h] at hstandby
    · simp [h] at hfree
    · exact h hline
    · exact absurd hns (Nat.not_le.mpr h)
  case window =>
    have hexec : exec (.claimWindowEnd ofs) s = .next (claimEnd s ofs) := rfl
    rw [hexec, claimEnd_eq hst]
    refine ⟨fun hfast hrole => by rw [if_pos ⟨hfast, hrole⟩], fun hno => ?_⟩
    rw [if_neg]
    rintro ⟨hfast, hrole⟩
    exact hno.elim (fun h => by simp [h] at hfast) (fun h => h hrole)
  case noClaim =>
    calc exec (.claimWindowEnd ofs) s = .next (claimEnd s ofs) := rfl
      _ = .next s := by rw [claimEnd, if_neg hst]
  case lost =>
    calc exec .peerHbLost s = .next (hbLost s) := rfl
      _ = _ := by rw [hbLost, if_neg (not_or.mpr ⟨hpair, hhb⟩)]
  case notLost =>
    calc exec .peerHbLost s = .next (hbLost s) := rfl
      _ = _ := by rw [hbLost, if_pos hno]
  case stuck =>
    have hexec : exec (.tokenStuck tg) s = .next (tokenStuck s tg) := rfl
    have hin : ¬ (prtSt s = ptSolo ∨ s.prt.stuck = true) := by simp [hpair, hstuck]
    rw [hexec, tokenStuck, if_neg hin]
    refine ⟨fun h => by rw [if_pos h], fun htg hno => ?_⟩
    rw [if_neg]
    rintro (h | ⟨hline, hdriving, hslow⟩)
    · simp [htg] at h
    · rcases hno with h | h | h
      · exact h hline
      · simp [h] at hdriving
      · exact hslow h
  case high => subst hu; rfl
  case gate => rw [prtGate, if_neg hpair, hgate, if_neg Bool.false_ne_true, hopen, if_neg Bool.false_ne_true]

end Sys2Proof.Machine

open Sys2Proof.Machine

/-- Settles O55: past the one change of PRT_STATE everything that a release does leaves that register and its pending change
(KeepsPrtState); the other commands are their conditions read off. -/
theorem pairReleasesClaimsAndKeepsTheToken : Obligations.PairReleasesClaimsAndKeepsTheToken :=
  ⟨releasesAndRejoinsFollowTheInterlock, tokenIsClaimedKeptOrGivenUp⟩
end

section
/-! SUPPORT. What the tables' operations leave, and what a write, an insert and a command that pass their checks do (R22, R325, R330,
R332). -/
namespace Sys2Proof.Machine

variable {s : State} {who : Requester} {w : Word} {code st n : Nat}

/-! ## Storing an entry leaves the forwarding engine's own state -/

theorem wrT_regs_fwd (s : State) (a v n : Nat) : (wrT s a v n).regs = s.regs ∧ (wrT s a v n).fwd = s.fwd := by
  induction n generalizing s a v with
  | zero => exact ⟨rfl, rfl⟩
  | succ n ih => exact ih { s with tabs := mset 0 s.tabs a (BitVec.ofNat 32 v) } (a + 4) (v / 2 ^ 32)

theorem wrW_fwd (s : State) (a v n : Nat) : (wrW s a v n).fwd = s.fwd := by
  have h := congrArg State.fwd (wrW_with_regs s a v n s.regs)
  exact h

theorem pcCount_fwd (s : State) (e : PcEv) : (pcCount s e).1.fwd = s.fwd := by
  have hfold (l : List Nat) (p : State × Nat) : (l.foldl (fun (s, o) n =>
      let (s, ov) := pcAdd s n e.n
      (s, if ov && rb s (Adr.obsPcSel n + 4) 30 then o + 1 else o)) p).1.fwd = p.1.fwd := by
    induction l generalizing p with
    | nil => rfl
    | cons n l ih => exact (ih _).trans (wrW_fwd _ _ _ _)
  unfold pcCount
  split
  · rfl
  · exact hfold _ (s, 0)

/-- Counting an event, with the overflow it may raise, leaves the forwarding engine's own state. -/
theorem pc_fwd (s : State) (e : PcEv) : (pc s e).fwd = s.fwd := by
  have hcount := pcCount_fwd s e
  unfold pc
  split
  next t o h =>
  rw [h] at hcount
  split
  · exact hcount
  · exact (pcCount_fwd _ _).trans ((KeepsUnits.report _ _ _ _).fwd.trans hcount)

theorem tblPut_fwd (s : State) (code idx v : Nat) : (tblPut s code idx v).fwd = s.fwd := by
  unfold tblPut
  split
  next st _ _ =>
    dsimp only
    split
    · exact (pc_fwd _ _).trans (wrT_regs_fwd ..).2
    · exact (wrT_regs_fwd ..).2
  · rfl

theorem spacePut_fwd (s : State) (role pos v : Nat) : (spacePut s role pos v).fwd = s.fwd := by
  unfold spacePut
  split
  · exact tblPut_fwd ..
  · rfl

/-- Storing a bridging entry changes no register. -/
theorem tblPut_bridge_regs (s : State) (idx v : Nat) : (tblPut s tbBridge idx v).regs = s.regs := (wrT_regs_fwd ..).1

/-! ## Relocations: none is under way -/

theorem relocEnd_of_none (h : s.fwd.reloc = none) : relocEnd s = s := by
  simp [relocEnd, relocLeft, h, relocSteps]

theorem relocSome_of_none (h : s.fwd.reloc = none) : relocSome s = s := by
  simp [relocSome, relocLeft, h]

theorem movedTo_of_none (h : s.fwd.reloc = none) (code idx : Nat) : movedTo s code idx = none := by
  simp [movedTo, h]

/-! ## Writes of whole entries -/

/-- A write that passes every check of a table without checks of its own is stored, an ACM entry with its relocation's fields 0. -/
theorem tblWrite_of_checked {idx v : Nat} (hshape : tblShape s code = some (st, n)) (hidx : idx < n)
    (hmay : tblMayWrite s who code idx v = true) (hgen : tblGen code st v ≠ 0) (hgood : tblBad s code idx v = false)
    (halloc : code ≠ tbAlloc) (hqueue : code ≠ tbQueue) (hterm : code ≠ tbTerm) (hsid : code ≠ tbSid) :
    tblWrite s who code idx v
      = (showPlanes (tblPut s code idx (if 8 ≤ code ∧ code < 12 then putNfld v (8 * st - 3) (8 * st - 20) 0 else v)) code, none) := by
  have hchecks : ¬ (tblGen code st v = 0 ∨ ((tblValid st v = true ∨ code = tbSid) ∧ tblBad s code idx v = true)) := by
    simp [hgen, hgood]
  simp only [tblWrite, hshape]
  rw [if_neg (Nat.not_le.mpr hidx), hmay, if_neg (by simp), if_neg hchecks, tblStore, if_neg halloc, if_neg hqueue, if_neg hterm]
  simp only [if_neg hsid]

/-- The forwarding tables other than the planes store the entry as it is. -/
theorem tblWrite_of_checked_low {idx v : Nat} (hlow : code < 8) (hshape : tblShape s code = some (st, n)) (hidx : idx < n)
    (hmay : tblMayWrite s who code idx v = true) (hgen : tblGen code st v ≠ 0) (hgood : tblBad s code idx v = false) :
    tblWrite s who code idx v = (showPlanes (tblPut s code idx v) code, none) := by
  have hapart : code ≠ tbAlloc ∧ code ≠ tbQueue ∧ code ≠ tbTerm ∧ code ≠ tbSid := by
    unfold tbAlloc tbQueue tbTerm tbSid; omega
  obtain ⟨halloc, hqueue, hterm, hsid⟩ := hapart
  rw [tblWrite_of_checked hshape hidx hmay hgen hgood halloc hqueue hterm hsid, if_neg (by omega)]

/-- The entry that a command's FWD_TDATA and generation spell. -/
def tcEntry (s : State) (who : Requester) (w : Word) (code st : Nat) : Nat := tblSetGen code st (tdata s who st) (fld w 15 0)
/-- The same with VALID, as INSERT stores it and DELETE and SEARCH look for its key. -/
def tcValid (s : State) (who : Requester) (w : Word) (code st : Nat) : Nat :=
  putNfld (tcEntry s who w code st) (8 * st - 1) (8 * st - 1) 1

/-! ## INSERT -/

theorem tblInsert_of_duplicate {v : Nat} (h : (tblFindKey s code v).isSome = true) :
    tblInsert s who w code st v = (s, .duplicate, 0) := by
  rw [tblInsert, if_pos h]

/-- A new key of a hashed table goes into the first free way of its buckets. -/
theorem tblInsert_of_free_way {v i : Nat} (hcode : code = tbBridge ∨ code = tbExact) (hnew : tblFindKey s code v = none)
    (hway : freeWay s code st (if code = tbBridge then brWays s (brBd v) (brMac v) else exWays s (exKind v) (exVrf v) (exAddr v))
      = some i) {t : State} (hwrite : tblWrite s who code i v = (t, none)) :
    tblInsert s who w code st v = (t, .ok, i) := by
  simp only [tblInsert, hnew, Option.isSome_none, Bool.false_eq_true, if_false, if_pos hcode, hway, hwrite]

/-- A new route goes to the place that the plan gives, at once or after the relocations that free it. -/
theorem tblInsert_of_plan {v pos c i : Nat} {ms : List (Nat × Nat)} (hlo : 8 ≤ code) (hnew : tblFindKey s code v = none)
    (hrole : planeRole (tabPlan s) (code - 8) = 1 ∨ planeRole (tabPlan s) (code - 8) = 2)
    (hfresh : ((spaceList s (planeRole (tabPlan s) (code - 8))).any fun e =>
      acmKey 0 e.2 == acmKey 0 v && acmMask 0 e.2 == acmMask 0 v) = false)
    (hplan : insertPlan (spaceList s (planeRole (tabPlan s) (code - 8))) (spaceSize s (planeRole (tabPlan s) (code - 8)))
      (routeLen v) = some (pos, ms))
    (hunlocked : (ms.any fun m =>
      nbit ((atPos (spaceList s (planeRole (tabPlan s) (code - 8))) m.1).getD 0) (8 * st - 2)) = false)
    (hat : spaceAt s (planeRole (tabPlan s) (code - 8)) pos = some (c, i)) (hmay : tblMayWrite s who c i v = true)
    (hgen : tblGen c st v ≠ 0) (hgood : tblBad s c i v = false) :
    tblInsert s who w code st v =
      let role := planeRole (tabPlan s) (code - 8)
      let x := putNfld v (8 * st - 3) (8 * st - 20) 0
      let r : Reloc := { who := who, word := w, role := role, moves := ms, code := c, idx := i, entry := x }
      if ms.isEmpty then ((planesOf (tabPlan s) role).foldl showPlane (tblPut s c i x), .ok, i)
      else ({ s with fwd := { s.fwd with reloc := some r } }, .retry, i) := by
  have hkeyed : ¬ (code = tbBridge ∨ code = tbExact) := by unfold tbBridge tbExact; omega
  have hchecks : ¬ (tblGen c st v = 0 ∨ tblBad s c i v = true) := by simp [hgen, hgood]
  simp only [tblInsert, hnew, Option.isSome_none, Bool.false_eq_true, if_false, if_neg hkeyed, if_pos hrole, hfresh, hplan,
    hunlocked, hat, hmay, Bool.true_eq_false, if_neg hchecks]

/-! ## The compatibility commands -/

/-- The status of a command that has ended, in the requester's FWD_TCMD. -/
def tcShow (s : State) (who : Requester) (w : Word) (r : TcRes) : State :=
  wrReq s who Adr.fwdTcmd (putFld (putFld w 31 31 0) 20 17 r.code)

/-- With no relocation under way a command runs as it lands. -/
theorem tcmdRun_of_none (hup : islDown s (islandOf Adr.fwdTcmd) = false) (h : s.fwd.reloc = none) (op : Nat) :
    tcmdRun s who op w = wrOk (tcmdGo s who op w) who Adr.fwdTcmd := by
  simp [tcmdRun, hup, relocSome_of_none h, relocEnd_of_none h, h]

theorem tcmdGo_of_no_table (h : tcTable (fld w 26 23) (fld w 22 21) = none) (op : Nat) :
    tcmdGo s who op w = tcShow s who w .outOfRange := by
  simp only [tcmdGo, h]; rfl

section
variable (htable : tcTable (fld w 26 23) (fld w 22 21) = some code)
include htable

/-- A FREEFORM plane takes no command. -/
theorem tcmdGo_of_freeform (h : 8 ≤ code ∧ code < 12 ∧ planeWidth (tabPlan s) (code - 8) = 2) (op : Nat) :
    tcmdGo s who op w = tcShow s who w .outOfRange := by
  simp only [tcmdGo, htable]
  split
  · rfl
  · rw [if_pos h]; rfl

variable (hshape : tblShape s code = some (st, n))
  (hform : ¬ (8 ≤ code ∧ code < 12 ∧ planeWidth (tabPlan s) (code - 8) = 2))
include hshape hform

theorem tcmdGo_read : tcmdGo s who 1 w =
    let idx := fld (rdReq s who Adr.fwdTindex) 26 0
    if (movedTo s code idx).isSome then tcShow s who w .retry
    else if idx < n then tcShow (setTdata s who st (tblEntry s code idx)) who w .ok
    else tcShow s who w .outOfRange := by
  simp only [tcmdGo, htable, hshape, if_neg hform, if_true]; rfl

section
variable {t : State}

theorem tcmdGo_write_of_stored
    (h : tblWrite s who code (fld (rdReq s who Adr.fwdTindex) 26 0) (tcEntry s who w code st) = (t, none)) :
    tcmdGo s who 2 w = tcShow t who w .ok := by
  unfold tcEntry at h
  simp only [tcmdGo, htable, hshape, if_neg hform, OfNat.ofNat_ne_one, if_false, if_true, h]; rfl

theorem tcmdGo_write_of_refused {x : Status}
    (h : tblWrite s who code (fld (rdReq s who Adr.fwdTindex) 26 0) (tcEntry s who w code st) = (t, some x)) :
    tcmdGo s who 2 w = tcShow t who w (tcOf x) := by
  unfold tcEntry at h
  simp only [tcmdGo, htable, hshape, if_neg hform, OfNat.ofNat_ne_one, if_false, if_true, h]; rfl

variable (hkeyed : tblKeyed code = true)
include hkeyed

theorem tcmdGo_insert_of_stored (hgen : fld w 15 0 ≠ 0) {i : Nat}
    (h : tblInsert s who w code st (tcValid s who w code st) = (t, .ok, i)) :
    tcmdGo s who 3 w = tcShow (setTindex t who i) who w .ok := by
  unfold tcValid tcEntry at h
  simp only [tcmdGo, htable, hshape, if_neg hform, hkeyed, if_neg hgen, h]; rfl

theorem tcmdGo_insert_of_relocating (hgen : fld w 15 0 ≠ 0) {i : Nat}
    (h : tblInsert s who w code st (tcValid s who w code st) = (t, .retry, i)) :
    tcmdGo s who 3 w = wrReq t who Adr.fwdTcmd (putFld (putFld w 31 31 1) 20 17 0) := by
  unfold tcValid tcEntry at h
  simp only [tcmdGo, htable, hshape, if_neg hform, hkeyed, if_neg hgen, h]; rfl

theorem tcmdGo_insert_of_duplicate (hgen : fld w 15 0 ≠ 0) (h : (tblFindKey s code (tcValid s who w code st)).isSome = true) :
    tcmdGo s who 3 w = tcShow s who w .duplicate := by
  have hinsert := tblInsert_of_duplicate (who := who) (w := w) (st := st) h
  unfold tcValid tcEntry at hinsert
  simp only [tcmdGo, htable, hshape, if_neg hform, hkeyed, if_neg hgen, hinsert]; rfl

theorem tcmdGo_delete_of_found {i : Nat} (h : tblFindKey s code (tcValid s who w code st) = some i)
    (hmay : tblMayWrite s who code i (tblEntry s code i) = true) :
    tcmdGo s who 4 w = tcShow (showPlanes (tblPut s code i 0) code) who w .ok := by
  unfold tcValid tcEntry at h
  simp only [tcmdGo, htable, hshape, if_neg hform, hkeyed, if_true, h, hmay]; rfl

theorem tcmdGo_search_of_found {i : Nat} (h : tblSearchKey s code (tcValid s who w code st) = some i) :
    tcmdGo s who 5 w = tcShow (setTindex s who i) who w .ok := by
  unfold tcValid tcEntry at h
  simp only [tcmdGo, htable, hshape, if_neg hform, hkeyed, h]; rfl

theorem tcmdGo_search_of_none (h : tblSearchKey s code (tcValid s who w code st) = none) :
    tcmdGo s who 5 w = tcShow s who w .notFound := by
  unfold tcValid tcEntry at h
  simp only [tcmdGo, htable, hshape, if_neg hform, hkeyed, h]; rfl

end

end

end Sys2Proof.Machine
end

section
/-! SUPPORT AND PROOFS. Aging and locks (R318, R331), the compatibility commands (R332), relocations (R323, R324) and staged writes
(R330). -/
namespace Sys2Proof.Machine

variable {s : State} {who : Requester} {w : Word} {code st n : Nat}

/-! ## Aging and locks -/

/-- A counter of the forwarding engine lies apart from its settings. -/
theorem rb_fwdBrCfg_fwdCount (s : State) (k i : Nat) : rb (fwdCount s 6 k) Adr.fwdBrCfg i = rb s Adr.fwdBrCfg i :=
  rb_congr (rd_wrW_other s _ _ 2 (.inl (by decide))) i

/-- An entry of AGE 2 or more that is neither hit, locked nor static becomes invalid, and without learning's notes only that. -/
theorem ageOne_of_old {i v : Nat} (hhit : brHit v = false) (hage : 2 ≤ brAge v) (hstatic : brStatic v = false)
    (hlock : brLock v = false) (hnote : rb s Adr.fwdBrCfg 2 = false) :
    ageOne s i v = fwdCount (tblPut s tbBridge i (putNfld v 127 127 0)) 6 1 := by
  have hthree : min 3 (brAge v + 1) = 3 := by omega
  have hquiet : rb (fwdCount (tblPut s tbBridge i (putNfld v 127 127 0)) 6 1) Adr.fwdBrCfg 2 = false := by
    rw [rb_fwdBrCfg_fwdCount, rb, rd, tblPut_bridge_regs]; exact hnote
  simp [ageOne, hlock, hhit, hthree, hstatic, hquiet]

/-- One of AGE below 2 grows older. -/
theorem ageOne_of_young {i v : Nat} (hlock : brLock v = false) (hhit : brHit v = false) (hage : brAge v < 2) :
    ageOne s i v = tblPut s tbBridge i (putNfld v 123 122 (brAge v + 1)) := by
  have hnext : min 3 (brAge v + 1) = brAge v + 1 := by omega
  have hyoung : ¬ (brAge v + 1 = 3 ∧ (!brStatic v) = true) := by omega
  simp only [ageOne, hlock, hhit, Bool.false_eq_true, if_false, hnext, if_neg hyoung]

/-- LOCK_EXPIRED of a table that has locks, with no relocation under way. -/
theorem lockExpired_of_none {idx b : Nat} (hnone : s.fwd.reloc = none) (hshape : tblShape s code = some (st, n))
    (hbit : tblLockBit code st = some b) : lockExpired s code idx =
      if tblValid st (tblEntry s code idx) && nbit (tblEntry s code idx) b then
        fwdEvent (fwdCount (tblPut s code idx (putNfld (tblEntry s code idx) b b 0)) 12 1) 2
      else s := by
  simp only [lockExpired, hshape, hbit, relocEnd_of_none hnone, ite_self]

theorem entriesAgeAndLocksExpire : Sys2Proof.Rules.EntriesAgeAndLocksExpire := by
  refine ⟨fun s => ⟨fun hoff => ?off, fun hon => ?on⟩, fun s i v => ⟨fun hlock => ?locked, fun hlock hhit => ?hit,
    ageOne_of_young, ageOne_of_old⟩, fun s code idx st n b hnone hshape hbit => ?lock⟩
  case off => exact congrArg Host.Outcome.next (if_pos hoff)
  case on => exact congrArg Host.Outcome.next (if_neg hon)
  case locked => rw [ageOne, if_pos hlock]
  case hit => rw [ageOne, hlock, if_neg Bool.false_ne_true, if_pos hhit]
  case lock =>
    have hexec : exec (.lockExpired code idx) s = .next (lockExpired s code idx) := rfl
    rw [hexec, lockExpired_of_none hnone hshape hbit]
    exact ⟨fun hvalid hlock => by rw [hvalid, hlock]; rfl, fun hlock => by rw [hlock, Bool.and_false, if_neg Bool.false_ne_true]⟩

/-! ## The compatibility commands -/

/-- What each of the five commands of FWD_TCMD runs, with no relocation under way. -/
theorem exec_tcmd_of_none (hup : islDown s (islandOf Adr.fwdTcmd) = false) (h : s.fwd.reloc = none) :
    exec (.tblRead who w) s = .next (wrOk (tcmdGo s who 1 w) who Adr.fwdTcmd)
      ∧ exec (.tblWrite who w) s = .next (wrOk (tcmdGo s who 2 w) who Adr.fwdTcmd)
      ∧ exec (.tblInsert who w) s = .next (wrOk (tcmdGo s who 3 w) who Adr.fwdTcmd)
      ∧ exec (.tblDelete who w) s = .next (wrOk (tcmdGo s who 4 w) who Adr.fwdTcmd)
      ∧ exec (.tblSearch who w) s = .next (wrOk (tcmdGo s who 5 w) who Adr.fwdTcmd) := by
  simp only [← tcmdRun_of_none (who := who) (w := w) hup h]
  exact ⟨rfl, rfl, rfl, rfl, rfl⟩

/-- The hashed tables are no planes, and keyed. -/
theorem hashed_lt_eight (h : code = tbBridge ∨ code = tbExact) : code < 8 := by
  rcases h with rfl | rfl <;> decide

theorem tblKeyed_of_hashed (h : code = tbBridge ∨ code = tbExact) : tblKeyed code = true := by
  rcases h with rfl | rfl <;> rfl

theorem tblKeyed_of_plane (hlo : 8 ≤ code) (hhi : code < 12) : tblKeyed code = true := by
  simp [tblKeyed, hlo, hhi]

theorem tableCommandsActAndShowTheirStatus : Sys2Proof.Rules.TableCommandsActAndShowTheirStatus := by
  intro s who w a hup hnone done
  obtain ⟨hread, hwrite, hinsert, hdelete, hsearch⟩ := exec_tcmd_of_none (who := who) (w := w) hup hnone
  refine ⟨fun htable => ?noTable, fun code htable hlo hhi hwide => ?freeform, fun code st n htable hshape hform => ?table⟩
  case noTable =>
    rw [hread, hwrite, hinsert, hdelete, hsearch]
    simp only [tcmdGo_of_no_table htable]
    exact ⟨rfl, rfl, rfl, rfl, rfl⟩
  case freeform =>
    rw [hread, hwrite, hinsert, hdelete, hsearch]
    simp only [tcmdGo_of_freeform htable ⟨hlo, hhi, hwide⟩]
    exact ⟨rfl, rfl, rfl, rfl, rfl⟩
  intro idx e v
  have hnoForm : ¬ (8 ≤ code ∧ code < 12 ∧ planeWidth (tabPlan s) (code - 8) = 2) := fun ⟨hlo, hhi, hwide⟩ => hform hlo hhi hwide
  have hreadGo := tcmdGo_read (who := who) htable hshape hnoForm
  simp only [movedTo_of_none hnone, Option.isSome_none, Bool.false_eq_true, if_false] at hreadGo
  rw [hread, hwrite, hinsert, hdelete, hsearch]
  refine ⟨fun hidx => ?read, fun hidx => ?readPast, fun hidx hmay hgen hgood halloc hqueue hterm hsid => ?write,
    fun x hx => ?writeRefused, fun i hhashed hgen hnew hi hway hmay hgenv hgood => ?insertWay,
    fun pos ms c i hlo hhi hgen hnew hrole hfresh hplan hunlocked hat hmay hgenv hgood =>
      ⟨fun hms => ?insertNow, fun hms => ?insertLater⟩,
    fun hkeyed hold hgen => ?duplicate, fun i hkeyed hfind hmay => ?delete, fun i hkeyed hfind => ?search,
    fun hkeyed hfind => ?searchNone⟩
  case read => rw [hreadGo, if_pos hidx]; rfl
  case readPast => rw [hreadGo, if_neg (Nat.not_lt.mpr hidx)]; rfl
  case write =>
    have hstored := tblWrite_of_checked hshape hidx hmay hgen hgood halloc hqueue hterm hsid
    rw [tcmdGo_write_of_stored htable hshape hnoForm hstored]; rfl
  case writeRefused =>
    have hrefused : tblWrite s who code idx e = ((tblWrite s who code idx e).1, some x) := by rw [← hx]
    rw [tcmdGo_write_of_refused htable hshape hnoForm hrefused]; rfl
  case insertWay =>
    have hkeyed := tblKeyed_of_hashed hhashed
    have hstored := tblWrite_of_checked_low (hashed_lt_eight hhashed) hshape hi hmay hgenv hgood
    rw [tcmdGo_insert_of_stored htable hshape hnoForm hkeyed hgen (tblInsert_of_free_way hhashed hnew hway hstored)]; rfl
  case insertNow =>
    have hgo := tblInsert_of_plan (who := who) (w := w) hlo hnew hrole hfresh hplan hunlocked hat hmay hgenv hgood
    subst hms
    rw [tcmdGo_insert_of_stored htable hshape hnoForm (tblKeyed_of_plane hlo hhi) hgen hgo]; rfl
  case insertLater =>
    have hgo := tblInsert_of_plan (who := who) (w := w) hlo hnew hrole hfresh hplan hunlocked hat hmay hgenv hgood
    rw [if_neg (by simpa using hms)] at hgo
    rw [tcmdGo_insert_of_relocating htable hshape hnoForm (tblKeyed_of_plane hlo hhi) hgen hgo]
  case duplicate => rw [tcmdGo_insert_of_duplicate htable hshape hnoForm hkeyed hgen hold]; rfl
  case delete => rw [tcmdGo_delete_of_found htable hshape hnoForm hkeyed hfind hmay]; rfl
  case search => rw [tcmdGo_search_of_found htable hshape hnoForm hkeyed hfind]; rfl
  case searchNone => rw [tcmdGo_search_of_none htable hshape hnoForm hkeyed hfind]; rfl

/-! ## Relocations (R323, R324) -/

/-- While the copy of a relocation stands at both indices a READ of the old one answers RETRY. -/
theorem exec_tblRead_of_moved (hup : islDown s (islandOf Adr.fwdTcmd) = false)
    (hfree : ((relocSome s).fwd.reloc.any fun r => r.who == who) = false)
    (htable : tcTable (fld w 26 23) (fld w 22 21) = some code) (hshape : tblShape (relocSome s) code = some (st, n))
    (hform : ¬ (8 ≤ code ∧ code < 12 ∧ planeWidth (tabPlan (relocSome s)) (code - 8) = 2))
    (hmoved : (movedTo (relocSome s) code (fld (rdReq (relocSome s) who Adr.fwdTindex) 26 0)).isSome = true) :
    exec (.tblRead who w) s = .next (wrOk (tcShow (relocSome s) who w .retry) who Adr.fwdTcmd) := by
  have hgo := tcmdGo_read (who := who) htable hshape hform
  simp only [hmoved, if_true] at hgo
  calc exec (.tblRead who w) s = .next (tcmdRun s who 1 w) := rfl
    _ = _ := by simp only [tcmdRun, hup, hfree, Bool.false_eq_true, if_false, if_true, hgo]

/-- An ACM plane has a shape. -/
theorem tblShape_of_plane (s : State) (hlo : 8 ≤ code) (hhi : code < 12) : ∃ st n, tblShape s code = some (st, n) := by
  interval_cases code <;> exact ⟨_, _, rfl⟩

theorem relocationCopiesThenClears : Sys2Proof.Rules.RelocationCopiesThenClears := by
  refine ⟨fun s r old new ms hreloc hmoves => ⟨fun hcopied => ?copy, fun hcopied => ?clear⟩, fun s r hreloc hmoves => ?last,
    fun s who w code => ?retry⟩
  case copy =>
    refine ⟨(r.moved.filter fun p => p.1 ≠ new) ++ [(old, new)], ?_, by simp⟩
    simp only [relocStep, hreloc, hmoves, hcopied, Bool.false_eq_true, if_false, spacePut_fwd]
  case clear => simp only [relocStep, hreloc, hmoves, hcopied, if_true, spacePut_fwd]
  case last => simp only [relocStep, hreloc, hmoves]
  case retry =>
    intro a u hup hfree htable hlo hhi hwide hmoved
    obtain ⟨st, n, hshape⟩ := tblShape_of_plane u hlo hhi
    exact exec_tblRead_of_moved hup hfree htable hshape (fun ⟨_, _, h⟩ => hwide h) hmoved

/-! ## Staged words (R330) -/

/-- TBLW_WRITE of a word of a table that exists. -/
theorem exec_tblwWrite_of_shape {ofs : Nat}
    (hshape : tblShape s (fld (rdReq s who Adr.mbxTblwSel) 5 0) = some (st, n)) (halign : ofs % 4 = 0) :
    exec (.tblwWrite who ofs w) s = .next (tblWord s who (fld (rdReq s who Adr.mbxTblwSel) 5 0)
      ((if (vfPart s who).isSome then fld (rdReq s who Adr.mbxTblwSel) 31 6 else 0) + ofs / st) (ofs % st / 4) w) := by
  have haligned : ¬ ofs % 4 ≠ 0 := not_not.mpr halign
  calc exec (.tblwWrite who ofs w) s = .next (tblwWrite s who ofs w) := rfl
    _ = _ := by simp only [tblwWrite, hshape, if_neg haligned]

section
variable {idx k : Nat} (hshape : tblShape s code = some (st, n)) (hastat : code ≠ tbAstat) (hidx : idx < n)
include hshape hastat hidx

/-- A word under the top one is staged. -/
theorem tblWord_of_lower (hk : k + 1 < st / 4) (hfirst : mget 0 s.acc.tblEntry who.code = 0) :
    tblWord s who code idx k w = { s with acc := { s.acc with
      tblStage := mput s.acc.tblStage (who.code * 2 ^ 40 + 4 * k) w,
      tblEntry := mset 0 s.acc.tblEntry who.code (entAddr code st idx + 1) } } := by
  have hin : ¬ (code = tbAstat ∨ n ≤ idx ∧ code ≠ tbCls) := by simp [hastat, hidx]
  have hsame : ¬ (mget 0 s.acc.tblEntry who.code ≠ 0 ∧ mget 0 s.acc.tblEntry who.code ≠ entAddr code st idx + 1) :=
    fun h => h.1 hfirst
  simp only [tblWord, tblWordR, hshape, if_neg hin, if_neg hsame, if_pos hk]

/-- The entry as its staged words, the word that lands and its present words spell it. -/
def tblWhole (s : State) (who : Requester) (code st idx k : Nat) (w : Word) : Nat :=
  let word (j : Nat) : Nat := if j = k then w.toNat else
    match (tblStaged s who).find? (·.1 = who.code * 2 ^ 40 + 4 * j) with
    | some (_, x) => x.toNat
    | none => (mget 0 s.tabs (entAddr code st idx + 4 * j)).toNat
  (List.range (st / 4)).foldl (fun n j => n + word j * 2 ^ (32 * j)) 0

/-- With the top word the entry is written, and the outcome noted. -/
theorem tblWord_of_top (hk : k + 1 = st / 4)
    (hsame : mget 0 s.acc.tblEntry who.code = entAddr code st idx + 1 ∨ mget 0 s.acc.tblEntry who.code = 0)
    (hnone : s.fwd.reloc = none) (hup : islDown s (tblIsland code) = false) (hdma : ∀ d, who ≠ .dma d) {t : State}
    (hwrite : tblWrite (tblUnstage s who) who code idx (tblWhole s who code st idx k w) = (t, none)) :
    tblWord s who code idx k w = tblNote t who .ok := by
  have hin : ¬ (code = tbAstat ∨ n ≤ idx ∧ code ≠ tbCls) := by simp [hastat, hidx]
  have hentry : ¬ (mget 0 s.acc.tblEntry who.code ≠ 0 ∧ mget 0 s.acc.tblEntry who.code ≠ entAddr code st idx + 1) :=
    fun h => hsame.elim h.2 h.1
  have htop : ¬ k + 1 < st / 4 := by omega
  have hdown : islDown (tblUnstage s who) (tblIsland code) = false := hup
  have hnoReloc : relocEnd (tblUnstage s who) = tblUnstage s who := relocEnd_of_none hnone
  cases who with
  | dma d => exact absurd rfl (hdma d)
  | pf | vf p | core i =>
    simp only [tblWord, tblWordR, hshape, if_neg hin, if_neg hentry, if_neg htop, hdown, hnoReloc, ite_self, Bool.false_eq_true,
      if_false]
    split
    next u h =>
      cases h.symm.trans hwrite
      rfl
    next u x h => cases h.symm.trans hwrite

end

theorem windowWordsAreStagedUntilTheTopWordLands : Sys2Proof.Rules.WindowWordsAreStagedUntilTheTopWordLands := by
  intro s who ofs st n w sel code idx hshape halign hastat hidx
  have hexec : exec (.tblwWrite who ofs w) s = .next (tblWord s who code idx (ofs % st / 4) w) :=
    exec_tblwWrite_of_shape hshape halign
  refine ⟨hexec, fun hk hfirst => tblWord_of_lower hshape hastat hidx hk hfirst, fun hk hsame hnone hup => ?_⟩
  intro k word v hdma hwrite
  have hstored : tblWrite (tblUnstage s who) who code idx v = ((tblWrite (tblUnstage s who) who code idx v).1, none) := by
    rw [← hwrite]
  rw [hexec, tblWord_of_top hshape hastat hidx hk hsame hnone hup hdma hstored]

end Sys2Proof.Machine

open Sys2Proof.Machine

/-- Settles O41: with no relocation under way each command is its own case of tcmdGo, where the checks assumed choose the branch; a
relocation's step touches the planes and the list of its moves only; a staged word waits for the top one, which writes the entry. -/
theorem tablesAgeUnlockAndTakeCommands : Obligations.TablesAgeUnlockAndTakeCommands :=
  ⟨entriesAgeAndLocksExpire, tableCommandsActAndShowTheirStatus, relocationCopiesThenClears,
    windowWordsAreStagedUntilTheTopWordLands⟩
end

section
/-! SUPPORT AND PROOFS. Image operations: STAGE, APPLY, ABANDON and COMMIT as register writes and as commands of ring 0 (R61, R66 to
R68, R394), the ends of a waiting or running APPLY (R68, R70), and the end of a fetch (R62, R65 to R67). -/
namespace Sys2Proof.Machine

variable {s : State} {who : Requester} {f : ImgFrom} {live trees : Bool}

/-! ## Outcome records and status change registers and interrupts only -/

namespace KeepsUnits

variable {t : State}

theorem img (h : KeepsUnits s t) : t.img = s.img := by unfold KeepsUnits at h; rw [← h]
theorem sec (h : KeepsUnits s t) : t.sec = s.sec := by unfold KeepsUnits at h; rw [← h]

theorem wrWords (s : State) (a : Nat) (ws : List Word) : KeepsUnits s (wrWords s a ws) := by
  induction ws generalizing s a with
  | nil => exact refl s
  | cons w ws ih => exact (wr s a w).trans (ih _ _)

theorem ringSource (s : State) (src : Nat) : KeepsUnits s (ringSource s src) := by
  have hpend : KeepsUnits s { s with acc := { s.acc with srcPend := s.acc.srcPend ++ [src] } } := rfl
  unfold Machine.ringSource
  split
  · exact refl s
  · exact hpend.trans (fireSource _ src)

theorem cmdPut (s : State) (c : CmdCtx) (r : OutRec) : KeepsUnits s (cmdPut s c r) := by
  have hput : KeepsUnits s (putRec s (outAddr c.ring c.idx) ((cmdRec c r).approve s)) := wrWords ..
  unfold Machine.cmdPut
  split
  · exact hput.trans (ringSource ..)
  · exact hput

theorem regopPut (s : State) (r : OutRec) : KeepsUnits s (regopPut s r) := (wrWords ..).trans (wr ..)

/-- Beside the count of image operations, opening a record writes the record. -/
theorem imgOpen (s : State) (f : ImgFrom) (op : Nat) (r : OutRec) :
    KeepsUnits { s with img := { s.img with opCount := s.img.opCount + 1 } } (imgOpen s f op r).1 := by
  cases f with
  | reg => exact regopPut ..
  | cmd => exact cmdPut ..

end KeepsUnits

@[simp] theorem imgOpen_img (s : State) (f : ImgFrom) (op : Nat) (r : OutRec) :
    (imgOpen s f op r).1.img = { s.img with opCount := s.img.opCount + 1 } := (KeepsUnits.imgOpen s f op r).img

@[simp] theorem imgOpen_sec (s : State) (f : ImgFrom) (op : Nat) (r : OutRec) : (imgOpen s f op r).1.sec = s.sec :=
  (KeepsUnits.imgOpen s f op r).sec

@[simp] theorem imgStat_img (s : State) (st code sec ofs : Nat) : (imgStat s st code sec ofs).img = s.img := rfl
@[simp] theorem imgStat_sec (s : State) (st code sec ofs : Nat) : (imgStat s st code sec ofs).sec = s.sec := rfl

@[simp] theorem imgNote_img (s : State) (f : ImgFrom) : (imgNote s f 0).img = s.img := by cases f <;> rfl
@[simp] theorem imgNote_sec (s : State) (f : ImgFrom) : (imgNote s f 0).sec = s.sec := by cases f <;> rfl

/-! ## Issuing an operation -/

/-- With the security module not in ERROR the gate is open. -/
theorem imgGate_of_not_error (h : rf s Adr.secStatus 31 28 ≠ 2) (f : ImgFrom) (op : Nat) (go : State → State) :
    imgGate f op go s = go s := if_neg h

/-- A write of MBX_IMG_CTRL that reaches the image engine runs the operation that its OP names (R67). -/
theorem imgCtrl_of_writes (h : imgWrites s who) (v : Word) :
    (fld v 31 28 = 1 → imgCtrl s who v = imgStage s (.reg who) (fld v 27 26) (rdW s Adr.mbxImgAddr 2))
      ∧ (fld v 31 28 = 2 → imgCtrl s who v = imgApply s (.reg who) (v.toNat.testBit 0) (v.toNat.testBit 1))
      ∧ (fld v 31 28 = 3 → imgCtrl s who v = imgAbandon s (.reg who))
      ∧ (fld v 31 28 = 4 → imgCtrl s who v = imgCommit s (.reg who)) := by
  obtain ⟨hpf, hup, hsec⟩ := h
  refine ⟨fun hop => ?_, fun hop => ?_, fun hop => ?_, fun hop => ?_⟩ <;>
    simp only [imgCtrl, hup, hpf, hop, imgGate_of_not_error hsec, Bool.false_eq_true, Bool.true_eq_false, if_false]

theorem exec_imgCtrlStage_of_writes (h : imgWrites s who) {src : Nat} (hsrc : src < 4) :
    exec (.imgCtrlStage who src) s = .next (imgStage s (.reg who) src (rdW s Adr.mbxImgAddr 2)) := by
  have hop : fld (putFld (putFld (0 : Word) 31 28 1) 27 26 src) 31 28 = 1 := by
    rw [fld_putFld_other _ _ _ _ _ _ (by omega) (by omega) (by omega)]; decide
  have hfrom : fld (putFld (putFld (0 : Word) 31 28 1) 27 26 src) 27 26 = src := by
    rw [fld_putFld_same _ _ _ _ (by omega) (by omega)]; exact Nat.mod_eq_of_lt hsrc
  obtain ⟨hstage, -, -, -⟩ := imgCtrl_of_writes h (putFld (putFld (0 : Word) 31 28 1) 27 26 src)
  rw [hfrom] at hstage
  exact congrArg Host.Outcome.next (hstage hop)

/-- The word that IMG_CTRL_APPLY writes spells OP 2, LIVE and TREES. -/
theorem applyWord_fields (live trees : Bool) :
    fld (putFld (putFld (putFld (0 : Word) 31 28 2) 0 0 (b2n live)) 1 1 (b2n trees)) 31 28 = 2
      ∧ (putFld (putFld (putFld (0 : Word) 31 28 2) 0 0 (b2n live)) 1 1 (b2n trees)).toNat.testBit 0 = live
      ∧ (putFld (putFld (putFld (0 : Word) 31 28 2) 0 0 (b2n live)) 1 1 (b2n trees)).toNat.testBit 1 = trees := by
  revert live trees; decide

theorem exec_imgCtrlApply_of_writes (h : imgWrites s who) (live trees : Bool) :
    exec (.imgCtrlApply who live trees) s = .next (imgApply s (.reg who) live trees) := by
  obtain ⟨-, happly, -, -⟩ := imgCtrl_of_writes h (putFld (putFld (putFld (0 : Word) 31 28 2) 0 0 (b2n live)) 1 1 (b2n trees))
  obtain ⟨hop, hlive, htrees⟩ := applyWord_fields live trees
  rw [hlive, htrees] at happly
  exact congrArg Host.Outcome.next (happly hop)

theorem exec_imgCtrlAbandon_of_writes (h : imgWrites s who) :
    exec (.imgCtrlAbandon who) s = .next (imgAbandon s (.reg who)) := by
  obtain ⟨-, -, habandon, -⟩ := imgCtrl_of_writes h (putFld 0 31 28 3)
  exact congrArg Host.Outcome.next (habandon (by decide))

theorem exec_imgCtrlCommit_of_writes (h : imgWrites s who) :
    exec (.imgCtrlCommit who) s = .next (imgCommit s (.reg who)) := by
  obtain ⟨-, -, -, hcommit⟩ := imgCtrl_of_writes h (putFld 0 31 28 4)
  exact congrArg Host.Outcome.next (hcommit (by decide))

/-- A whole command that firmware can take runs, with CONS advanced. -/
theorem runCmd_of_takes {r op : Nat} (h : ringTakes s r op) (f : State → CmdCtx → State) :
    runCmd s r op f = f (ringStep s r) (slotCtx s r) := by
  obtain ⟨htake, hok⟩ := h
  have hok' : slotOk s (slotAddr r (slotCtx s r).idx) = true := hok
  simp only [runCmd, htake, hok', if_true]

/-- So does an image command of the physical function on ring 0. -/
theorem imgCmd_of_takes {op : Nat} (h : imgTakes s op) (f : State → ImgFrom → State) :
    imgCmd s 0 op f = f (ringStep s 0) (.cmd (slotCtx s 0)) := by
  obtain ⟨htake, hfn, hsec⟩ := h
  have hplace : (slotCtx s 0).ring = 0 ∧ (slotCtx s 0).fn = 0 := ⟨rfl, hfn⟩
  rw [imgCmd, runCmd_of_takes htake, if_pos hplace, imgGate_of_not_error hsec]

theorem exec_stage_of_takes (h : imgTakes s 0x4001) (src : Nat) :
    exec (.stage 0 src) s = .next (imgStage (ringStep s 0) (.cmd (slotCtx s 0)) src (slotCtx s 0).addr) :=
  congrArg Host.Outcome.next (imgCmd_of_takes h _)

theorem exec_apply_of_takes (h : imgTakes s 0x4002) (live trees : Bool) :
    exec (.apply 0 live trees) s = .next (imgApply (ringStep s 0) (.cmd (slotCtx s 0)) live trees) :=
  congrArg Host.Outcome.next (imgCmd_of_takes h _)

theorem exec_abandon_of_takes (h : imgTakes s 0x4003) :
    exec (.abandon 0) s = .next (imgAbandon (ringStep s 0) (.cmd (slotCtx s 0))) :=
  congrArg Host.Outcome.next (imgCmd_of_takes h _)

theorem exec_commit_of_takes (h : imgTakes s 0x4004) :
    exec (.commit 0) s = .next (imgCommit (ringStep s 0) (.cmd (slotCtx s 0))) :=
  congrArg Host.Outcome.next (imgCmd_of_takes h _)

/-! ## STAGE, ABANDON and COMMIT with no operation running -/

theorem imgBusy_of_idle (h : s.img.op = .idle) : imgBusy s = false := by rw [imgBusy, h]

theorem imgStage_of_idle (h : s.img.op = .idle) (hphase : 6 ≤ phase s) {src addr : Nat} (hsrc : src < 3)
    (haddr : src = 0 → addr % 16 = 0) (f : ImgFrom) :
    imgStage s f src addr = imgNote (stageStart (imgOpen s f 0x4001 {}).1 (imgOpen s f 0x4001 {}).2 src addr) f 0 := by
  have hearly : ¬ (s.img.op ≠ .bootWait ∧ phase s < 6) := by omega
  have hsource : ¬ (src = 3 ∨ src = 0 ∧ addr % 16 ≠ 0) := by
    rintro (hthree | ⟨hzero, hodd⟩)
    · omega
    · exact hodd (haddr hzero)
  simp only [imgStage, if_neg hearly, imgBusy_of_idle h, Bool.false_eq_true, if_false, if_neg hsource]

/-- A STAGE out of the P3 wait fetches from its source, with nothing staged. -/
theorem stageStart_img (h : s.img.op ≠ .bootWait) (t : Ticket) (src addr : Nat) : (stageStart s t src addr).img =
    { s.img with staged := [], op := .stage, src := src, addr := addr, ticket := t } := by
  simp [stageStart, h]

theorem imgStage_img_of_idle (h : s.img.op = .idle) (hphase : 6 ≤ phase s) {src addr : Nat} (hsrc : src < 3)
    (haddr : src = 0 → addr % 16 = 0) (f : ImgFrom) :
    (imgStage s f src addr).img.op = .stage ∧ (imgStage s f src addr).img.staged = []
      ∧ (imgStage s f src addr).img.src = src ∧ (imgStage s f src addr).img.addr = addr := by
  have hwait : (imgOpen s f 0x4001 {}).1.img.op ≠ .bootWait := by simp [h]
  rw [imgStage_of_idle h hphase hsrc haddr, imgNote_img, stageStart_img hwait]
  exact ⟨rfl, rfl, rfl, rfl⟩

theorem imgAbandon_of_idle (h : s.img.op = .idle) (f : ImgFrom) : imgAbandon s f = imgNote
    (imgStat (imgOpen { s with img := { s.img with staged := [] } } f 0x4003 (imgRec 0)).1 imIdle 0 0 0) f 0 := by
  simp only [imgAbandon, imgBusy_of_idle h, Bool.false_eq_true, if_false]

theorem imgAbandon_img_of_idle (h : s.img.op = .idle) (f : ImgFrom) :
    (imgAbandon s f).img.op = .idle ∧ (imgAbandon s f).img.staged = [] := by
  simp [imgAbandon_of_idle h, h]

theorem imgCommit_vault_of_idle (h : s.img.op = .idle) (hrole : mget 0 s.sec.role (imgFn s f) = 1)
    (hfree : regionBusy s vrHashes = false) :
    (imgCommit s f).sec.vault.imgArb = max s.sec.vault.imgArb (imgArbVersion s.img.running)
      ∧ (imgCommit s f).sec.vault.fwArb = max s.sec.vault.fwArb (leAt (imgBody s.img.running 11) 4 4) := by
  simp [imgCommit, imgBusy_of_idle h, hrole, hfree, regionWrite]

theorem stageAbandonAndCommitTakeEffectWhenIdle : Sys2Proof.Rules.StageAbandonAndCommitTakeEffectWhenIdle := by
  refine ⟨fun s who src h hsrc => ?writes, fun s src => ?commands, fun s f src addr h hphase hsrc haddr => ?stage,
    fun s f h => ?others⟩
  case writes =>
    exact ⟨exec_imgCtrlStage_of_writes h hsrc, exec_imgCtrlAbandon_of_writes h, exec_imgCtrlCommit_of_writes h⟩
  case commands => exact ⟨fun h => exec_stage_of_takes h src, exec_abandon_of_takes, exec_commit_of_takes⟩
  case stage =>
    obtain ⟨hop, hstaged, -, -⟩ := imgStage_img_of_idle h hphase hsrc haddr f
    exact ⟨imgStage_of_idle h hphase hsrc haddr f, hop, hstaged⟩
  case others => exact ⟨imgAbandon_of_idle h f, imgCommit_vault_of_idle h⟩

theorem imageOperationsCompleteWhenIdle : Sys2Proof.Rules.ImageOperationsCompleteWhenIdle := by
  refine ⟨fun s who src h hidle => ⟨fun hphase hsrc haddr => ?_, ?_, fun hrole hfree => ?_⟩,
    fun s src hidle => ⟨fun h hphase hsrc haddr => ?_, fun h => ?_, fun h hrole hfree => ?_⟩⟩
  · exact ⟨_, exec_imgCtrlStage_of_writes h (by omega), imgStage_img_of_idle hidle hphase hsrc haddr _⟩
  · exact ⟨_, exec_imgCtrlAbandon_of_writes h, imgAbandon_img_of_idle hidle _⟩
  · exact ⟨_, exec_imgCtrlCommit_of_writes h, imgCommit_vault_of_idle hidle hrole hfree⟩
  -- Taking a command advances CONS, a register, so that the engine is as idle as it was.
  · exact ⟨_, exec_stage_of_takes h src, imgStage_img_of_idle (s := ringStep s 0) hidle hphase hsrc haddr _⟩
  · exact ⟨_, exec_abandon_of_takes h, imgAbandon_img_of_idle (s := ringStep s 0) hidle _⟩
  · have hexec := exec_commit_of_takes h
    obtain ⟨-, hfn, -⟩ := h
    have hrole' : mget 0 (ringStep s 0).sec.role (imgFn (ringStep s 0) (.cmd (slotCtx s 0))) = 1 :=
      (congrArg (mget 0 s.sec.role) hfn).trans hrole
    exact ⟨_, hexec, imgCommit_vault_of_idle (s := ringStep s 0) hidle hrole' hfree⟩

/-! ## APPLY -/

/-- An APPLY that may be taken passes every check of R68. -/
theorem imgApply_eq_applyTaken (h : applyMay s live trees) (f : ImgFrom) : imgApply s f live trees = applyTaken s f live trees := by
  obtain ⟨hidle, hgrammar, hstaged, hdevice, hvalid⟩ := h
  have hfree : (imgBusy s || (live && s.grm.loading && (imgSec s.img.staged 6).isSome)) = false := by
    rw [imgBusy_of_idle hidle, Bool.false_or, Bool.eq_false_iff]
    intro hall
    simp only [Bool.and_eq_true] at hall
    obtain ⟨⟨hlive, hloading⟩, hsome⟩ := hall
    exact absurd ((hgrammar hlive hsome).symm.trans hloading) (by decide)
  have hfused : (List.range 64).find? (fun t => nbit (namedTrees s trees) t && !treeValid s t) = none := by
    rw [List.find?_eq_none]
    intro t ht hbad
    simp only [Bool.and_eq_true, Bool.not_eq_true'] at hbad
    obtain ⟨hnamed, hgone⟩ := hbad
    exact absurd ((hvalid t (List.mem_range.mp ht) hnamed).symm.trans hgone) (by decide)
  simp only [imgApply, hfree, hfused, hdevice, if_neg hstaged, Bool.false_eq_true, if_false, applyTaken]

theorem applyTransitTimeout_of_waiting {m : Nat} (h : s.img.op = .applyWait live m) : applyTransitTimeout s =
    imgStat (ticketFail { s with img := { s.img with op := .idle, ticket := .none } } s.img.ticket iTreeBusy)
      imFailed iTreeBusy 0 0 := by
  simp only [applyTransitTimeout, h]

theorem applyWaitsForTransitsThenResetsTheTreesThatDiffer :
    Sys2Proof.Rules.ApplyWaitsForTransitsThenResetsTheTreesThatDiffer := by
  refine ⟨fun s who live trees h => ?write, fun s live trees h => ?command, fun s f live trees h => imgApply_eq_applyTaken h f,
    fun s live m h => ?transit, fun s t hop hleft hreset => ?tree⟩
  case write =>
    have hexec := exec_imgCtrlApply_of_writes h live trees
    exact ⟨hexec, fun hmay => by rw [hexec, imgApply_eq_applyTaken hmay]⟩
  case command =>
    have hexec := exec_apply_of_takes h live trees
    exact ⟨hexec, fun hmay => by rw [hexec, imgApply_eq_applyTaken hmay]⟩
  case transit => exact congrArg Host.Outcome.next (applyTransitTimeout_of_waiting h)
  case tree => exact congrArg Host.Outcome.next (if_pos ⟨hop, hleft, hreset⟩)

/-! ## The end of a fetch -/

theorem imageFetched_of_stage (h : s.img.op = .stage) (err : Bool) : imageFetched s err = stageFetched s false err := by
  rw [imageFetched, h]

theorem imageFetched_of_bootStage (h : s.img.op = .bootStage) (err : Bool) : imageFetched s err = stageFetched s true err := by
  rw [imageFetched, h]

theorem imageFetched_of_bootFetch {slot code sec ofs : Nat} {second : Bool} (h : s.img.op = .bootFetch slot second code sec ofs)
    (err : Bool) : imageFetched s err = bootFetched s slot second code sec ofs err := by
  rw [imageFetched, h]

/-- The result of the checks decides how the fetch ends: good, or bad with the first failed check. -/
theorem fetchedImageIsCheckedThenStagedOrLoaded : Sys2Proof.Rules.FetchedImageIsCheckedThenStagedOrLoaded := by
  refine ⟨fun s err h => ⟨_, congrArg Host.Outcome.next (imageFetched_of_stage h err), ?running⟩,
    fun s err slot code sec ofs second h => (congrArg Host.Outcome.next (imageFetched_of_bootFetch h err)).trans ?flash,
    fun s err h => (congrArg Host.Outcome.next (imageFetched_of_bootStage h err)).trans ?wait, fun _ _ _ _ => rfl⟩
  case running =>
    unfold stageFetched
    obtain ⟨b, _ | e⟩ := fetched s s.img.src s.img.addr err false <;> rfl
  case flash =>
    unfold bootFetched
    obtain ⟨b, _ | e⟩ := fetched s slot 0 err true <;> rfl
  case wait =>
    unfold stageFetched
    obtain ⟨b, _ | e⟩ := fetched s s.img.src s.img.addr err true <;> rfl

end Sys2Proof.Machine

open Sys2Proof.Machine

/-- Settles O15: with no operation running each command passes its checks to its own effect, which leaves the records and
MBX_IMG_STAT to registers alone; an APPLY that may be taken passes R68's checks; the checks' result decides how a fetch ends. -/
theorem imagesAreCheckedStagedAppliedAndCommitted : Obligations.ImagesAreCheckedStagedAppliedAndCommitted :=
  ⟨stageAbandonAndCommitTakeEffectWhenIdle, imageOperationsCompleteWhenIdle, applyWaitsForTransitsThenResetsTheTreesThatDiffer,
    fetchedImageIsCheckedThenStagedOrLoaded⟩
end

section
/-! SUPPORT AND PROOFS. The phases of boot and their failures (R76, R80). -/
namespace Sys2Proof.Machine

variable {s : State}

/-! ## P0 -/

/-- Steps that each change registers only change registers only. -/
theorem foldl_with_regs {α : Type} {f : State → α → State} {m : SMap Word}
    (h : ∀ s x, { f s x with regs := m } = { s with regs := m }) (l : List α) (s : State) :
    { l.foldl f s with regs := m } = { s with regs := m } := by
  induction l generalizing s with
  | nil => rfl
  | cons x l ih => exact (ih (f s x)).trans (h s x)

/-- A P0 under way waits for no erase and no sensor. -/
theorem not_p0_waits (hphase : inPhase s 0 = true) (herase : s.sec.erasing = []) (htemp : ∀ n, n < 96 → sensorTemp s n ≤ 95 * 256) :
    ¬ (inPhase s 0 = false ∨ s.sec.erasing ≠ [] ∨ ((List.range 96).any fun n => decide (95 * 256 < sensorTemp s n)) = true) := by
  rintro (h | h | h)
  · simp [hphase] at h
  · exact h herase
  · obtain ⟨n, hn, hhot⟩ := List.any_eq_true.mp h
    exact absurd (htemp n (List.mem_range.mp hn)) (not_le.mpr (of_decide_eq_true hhot))

/-- Marking the fused islands changes registers only. -/
theorem fuseIslands_with_regs (l : List Nat) (s : State) (m : SMap Word) :
    { l.foldl (fun s i => if islFusedOff s i then setIsl s i islFused else s) s with regs := m } = { s with regs := m } := by
  refine foldl_with_regs (fun u i => ?_) l s
  split <;> rfl

/-- With its fuses read, P0 ends in boot mode; beside that it changes registers only. -/
theorem p0Done_true_with_regs (hphase : inPhase s 0 = true) (herase : s.sec.erasing = [])
    (htemp : ∀ n, n < 96 → sensorTemp s n ≤ 95 * 256) (m : SMap Word) :
    { p0Done s true with regs := m } = { s with regs := m, boot := { s.boot with bootMode := true } } := by
  unfold p0Done
  rw [if_neg (not_p0_waits hphase herase htemp)]
  generalize List.range 342 = l
  exact (congrArg (bootUpd · fun b => { b with bootMode := true }) (fuseIslands_with_regs l (wf (wf s Adr.glbDeviceId 31 16
    (if s.boot.fuse6432 then 0x6432 else 0x6400)) Adr.glbDeviceId 15 12 (b2n s.boot.fuseP)) m) :)

/-! ## P1 and P2 -/

theorem p1Done_of_inPhase (h : inPhase s 1 = true) (romOk vaultOk : Bool) : p1Done s romOk vaultOk =
    if !romOk then bootStay s 0x21 0
    else if !vaultOk then bootStay s 0x23 0
    else if s.boot.bootsel = 3 then bootStay s 0x22 0
    else setPhase7 (wr s (Adr.mbxImgArb + 4) (BitVec.ofNat 32 s.sec.vault.imgArb)) 2 :=
  if_neg (by simp [h])

/-- A module that is not ZEROIZED runs its self-tests in P2: where none fails P3 starts, else P2 stays with the test that failed. -/
theorem p2Done_of_inPhase (h : inPhase s 2 = true) (hmodule : secState s ≠ smZeroized) (fail : Nat) :
    p2Done s fail = if fail = 0 then p3Start (secP2 s fail) else bootStay (secP2 s fail) 0x30 fail :=
  (if_neg (by simp [h])).trans (if_neg hmodule)

/-! ## P4 and P5 -/

/-- P4 with every die-to-die port trained ends, or stays with the DRAM site that failed. -/
theorem p4Done_of_inPhase (h : inPhase s 4 = true) (site : Option Nat) : p4Done s site [] =
    site.elim (setPhase7 (bootUpd s fun b => { b with fwAlive := true, bootMode := false }) 5) (bootStay s 0x40) := by
  unfold p4Done
  rw [if_neg (by simp [h])]
  cases site <;> rfl

theorem fwTimeout_of_inPhase (h : inPhase s 4 = true) : fwTimeout s = bootStay s 0x42 0 := if_pos h

/-- The link is late from P5 on, with PERST_N released. -/
theorem linkTimeout_of_down (hphase : phase s = 5 ∨ phase s = 6) (hlink : s.boot.linkUp = false) (hperst : s.boot.perstLow = false) :
    linkTimeout s = bootFail s 0x50 0 := if_pos ⟨hphase, hlink, hperst⟩

end Sys2Proof.Machine

open Sys2Proof.Machine

/-- Settles O16: each phase's command finds its phase under way and takes the branch of what it is told; what P0 does beside leaving
P0 with boot mode is a matter of registers. -/
theorem bootPhasesEndInOrderOrStayWithTheirCode : Obligations.BootPhasesEndInOrderOrStayWithTheirCode := by
  intro s
  refine ⟨fun hphase herase htemp => ⟨?fuses, _, rfl, ?boot, ?tabs⟩, fun hphase => ?p1, fun hphase hmodule => ⟨?tested, fun n => ?failed⟩,
    fun hphase => ?p4, fun hphase hlink hperst => ?late, fun hphase => ?p5, fun hperst => ?up, rfl⟩
  case fuses => exact congrArg Host.Outcome.next (if_neg (not_p0_waits hphase herase htemp))
  case boot => exact (congrArg (·.boot) (p0Done_true_with_regs hphase herase htemp []) :)
  case tabs => exact (congrArg (·.tabs) (p0Done_true_with_regs hphase herase htemp []) :)
  case p1 =>
    have hrun := p1Done_of_inPhase hphase
    exact ⟨congrArg Host.Outcome.next (hrun false true), congrArg Host.Outcome.next (hrun true false),
      congrArg Host.Outcome.next (hrun true true)⟩
  case tested => exact congrArg Host.Outcome.next ((p2Done_of_inPhase hphase hmodule 0).trans (if_pos rfl))
  case failed =>
    exact congrArg Host.Outcome.next ((p2Done_of_inPhase hphase hmodule (n + 1)).trans (if_neg n.succ_ne_zero))
  case p4 =>
    have hrun := p4Done_of_inPhase hphase
    exact ⟨congrArg Host.Outcome.next (hrun none), fun m => congrArg Host.Outcome.next (hrun (some m)),
      congrArg Host.Outcome.next (fwTimeout_of_inPhase hphase)⟩
  case late => exact congrArg Host.Outcome.next (linkTimeout_of_down hphase hlink hperst)
  case p5 => exact congrArg Host.Outcome.next (if_neg (by simp [hphase]))
  case up => exact congrArg Host.Outcome.next (if_neg (by simp [hperst]))
end

section
/-! SUPPORT AND PROOFS. GLB_RESET_CTRL, and what COLD and WARM resets keep (R81 to R83). -/
namespace Sys2Proof.Machine

variable {s : State} {who : Requester} {v : Word}

/-! ## GLB_RESET_CTRL -/

/-- The word that GLB_RESET_CTRL_COLD and GLB_RESET_CTRL_WARM write spells their TYPE and CONFIRM. -/
theorem resetCtrlWord_fields (op confirm : Nat) :
    fld (putFld (putFld (0 : Word) 31 28 op) 15 0 confirm) 31 28 = op % 16
      ∧ fld (putFld (putFld (0 : Word) 31 28 op) 15 0 confirm) 15 0 = confirm % 65536 := by
  constructor
  · rw [fld_putFld_other _ _ _ _ _ _ (by omega) (by omega) (by omega), fld_putFld_same _ _ _ _ (by omega) (by omega)]
    rfl
  · rw [fld_putFld_same _ _ _ _ (by omega) (by omega)]
    rfl

/-- Without CONFIRM the write asks for nothing. -/
theorem resetCtrlWrite_of_unconfirmed (hpf : isPfSide s who = true) (hup : islDown s 340 = false) (h : fld v 15 0 ≠ 0x0A5A) :
    resetCtrlWrite s who v = wrOk s who Adr.glbResetCtrl := by
  simp [resetCtrlWrite, hpf, hup, h]

/-- With CONFIRM a COLD reset is asked for at any time. -/
theorem resetCtrlWrite_cold (hpf : isPfSide s who = true) (hup : islDown s 340 = false) (h : fld v 15 0 = 0x0A5A)
    (hop : fld v 31 28 = 1) :
    resetCtrlWrite s who v = wrOk { s with boot := { s.boot with request := 2 } } who Adr.glbResetCtrl := by
  simp [resetCtrlWrite, hpf, hup, h, hop, bootUpd]

/-- With CONFIRM a WARM reset is asked for past P4, unless a COLD reset runs. -/
theorem resetCtrlWrite_warm (hpf : isPfSide s who = true) (hup : islDown s 340 = false) (h : fld v 15 0 = 0x0A5A)
    (hop : fld v 31 28 = 2) (hphase : 5 ≤ phase s) (hcold : s.boot.resetRun ≠ 2) :
    resetCtrlWrite s who v = wrOk { s with boot := { s.boot with request := max 1 s.boot.request } } who Adr.glbResetCtrl := by
  simp [resetCtrlWrite, hpf, hup, h, hop, not_lt.mpr hphase, hcold, bootUpd]

theorem resetControlAsksForResetsWithConfirm : Sys2Proof.Rules.ResetControlAsksForResetsWithConfirm := by
  intro s who hpf hup
  refine ⟨?cold, fun hphase hcold => ?warm, fun x hx hwrong => ?wrong⟩
  case cold =>
    obtain ⟨hop, hconfirm⟩ := resetCtrlWord_fields 1 0x0A5A
    exact congrArg Host.Outcome.next (resetCtrlWrite_cold hpf hup hconfirm hop)
  case warm =>
    obtain ⟨hop, hconfirm⟩ := resetCtrlWord_fields 2 0x0A5A
    exact congrArg Host.Outcome.next (resetCtrlWrite_warm hpf hup hconfirm hop hphase hcold)
  case wrong =>
    have hasks (op : Nat) : resetCtrlWrite s who (putFld (putFld (0 : Word) 31 28 op) 15 0 x) = wrOk s who Adr.glbResetCtrl := by
      obtain ⟨-, hconfirm⟩ := resetCtrlWord_fields op x
      refine resetCtrlWrite_of_unconfirmed hpf hup ?_
      rwa [hconfirm, Nat.mod_eq_of_lt hx]
    exact ⟨congrArg Host.Outcome.next (hasks 1), congrArg Host.Outcome.next (hasks 2)⟩

/-! ## Registers that a reset returns -/

/-- A map of which some keys are left out reads as before at the keys kept, and as unlisted at the others. -/
theorem mget_filter_key {α : Type} (d : α) (m : SMap α) (keep : Nat → Bool) (a : Nat) :
    mget d (m.filter fun p => keep p.1) a = if keep a then mget d m a else d := by
  induction m with
  | nil => simp [mget]
  | cons p m ih =>
    obtain ⟨k, x⟩ := p
    by_cases hk : k = a
    · subst hk
      cases hkeep : keep k <;> simp [mget, hkeep, ih]
    · cases hkeep : keep k <;> simp [mget, hkeep, hk, ih]

/-- The registers that a COLD reset keeps read as before, the others as their reset values. -/
theorem rd_coldState (s : State) (keep : Nat → Bool) (a : Nat) :
    rd (coldState s keep) a = if keep a then rd s a else resetWord a := mget_filter_key ..

/-- So it is with a WARM reset, by R81. -/
theorem rd_warmState (s : State) (b a : Nat) :
    rd (warmState s b) a = if warmKeeps a then rd s a else resetWord a := mget_filter_key ..

/-! ## COLD reset -/

/-- Holding the host port in reset is a matter of its island's register. -/
theorem portHeld_with_regs (s : State) (m : SMap Word) : { portHeld s with regs := m } = { s with regs := m } := by
  unfold portHeld
  split <;> rfl

theorem rd_portHeld_other (s : State) {a : Nat} (h : a ≠ Adr.glbIslandStat 340) : rd (portHeld s) a = rd s a := by
  unfold portHeld
  split
  · exact rd_wf_other _ _ _ _ h
  · rfl

/-- The registers that a COLD reset itself keeps: its causes and the tampers. -/
def coldKeeps (a : Nat) : Bool := a == Adr.glbResetCause || a == Adr.secTamper

/-- What a COLD reset leaves beside registers is what coldState leaves, with the cause. -/
theorem coldReset_with_regs (s : State) (cause : Nat) (m : SMap Word) : { coldReset s cause with regs := m }
    = { bootUpd (coldState s coldKeeps) fun b => { b with cause := cause } with regs := m } :=
  portHeld_with_regs ..

/-- Apart from the fields of GLB_BOOT_STAT and the host port's island, a COLD reset returns every register that it does not keep. -/
theorem rd_coldReset_other (s : State) (cause : Nat) {a : Nat} (hboot : a ≠ Adr.glbBootStat) (hport : a ≠ Adr.glbIslandStat 340) :
    rd (coldReset s cause) a = if coldKeeps a then rd s a else resetWord a :=
  calc rd (coldReset s cause) a
      = rd (coldState s coldKeeps) a := (rd_portHeld_other _ hport).trans (rd_wf_other _ _ _ _ hboot)
    _ = _ := rd_coldState s coldKeeps a

/-- A COLD reset begins P0. -/
theorem phase_coldReset (hwf : mwf resetWord s.regs = true) (cause : Nat) : phase (coldReset s cause) = 0 := by
  have hreset : rd (bootUpd (coldState s coldKeeps) fun b => { b with cause := cause }) Adr.glbBootStat
      = resetWord Adr.glbBootStat := rd_coldState s coldKeeps Adr.glbBootStat
  have hkept : mwf resetWord (bootUpd (coldState s coldKeeps) fun b => { b with cause := cause }).regs = true := mwf_filter _ _ _ hwf
  calc phase (coldReset s cause)
      = rf (showSource (bootUpd (coldState s coldKeeps) fun b => { b with cause := cause })) Adr.glbBootStat 31 28 :=
        rf_congr (rd_portHeld_other _ (by decide)) 31 28
    _ = rf (bootUpd (coldState s coldKeeps) fun b => { b with cause := cause }) Adr.glbBootStat 31 28 :=
        rf_wf_field hkept _ _ _ _ _ _ (by omega) (by omega) (by omega)
    _ = fld (resetWord Adr.glbBootStat) 31 28 := by rw [rf, hreset]
    _ = 0 := by decide

/-- A COLD reset forgets tables, DRAM, sessions, KEKs, the image, queues and traffic, and leaves host memory, flash and the vault. -/
theorem coldReset_stores_and_units (s : State) (cause : Nat) :
    let t := coldReset s cause
    t.tabs = [] ∧ t.dram = [] ∧ t.hostMem = s.hostMem ∧ t.flash = s.flash ∧ t.sec.vault = s.sec.vault
      ∧ t.sec.role = [] ∧ t.keys.kek = [] ∧ t.img = {} ∧ t.sched = {} ∧ t.flow = {} ∧ t.boot.resetRun = 2 := by
  have h := coldReset_with_regs s cause []
  exact ⟨(congrArg (·.tabs) h :), (congrArg (·.dram) h :), (congrArg (·.hostMem) h :), (congrArg (·.flash) h :),
    (congrArg (·.sec.vault) h :), (congrArg (·.sec.role) h :), (congrArg (·.keys.kek) h :), (congrArg (·.img) h :),
    (congrArg (·.sched) h :), (congrArg (·.flow) h :), (congrArg (·.boot.resetRun) h :)⟩

theorem coldAndWarmResetsLeaveWhatTheyKeep : Sys2Proof.Rules.ColdAndWarmResetsLeaveWhatTheyKeep := by
  refine ⟨fun s hcanon hasked => ⟨coldReset s 2, congrArg Host.Outcome.next (if_pos hasked), fun a hcause htamper hboot hport => ?other,
      ?cause, ?phase, coldReset_stores_and_units s 2⟩,
    fun s b hasked => ⟨_, _, congrArg Host.Outcome.next (if_pos hasked), rfl, rfl, rfl, rfl, rfl, rfl, rfl, rfl, rfl, rfl,
      fun a hgone => ?gone, fun a hkept => ?kept⟩⟩
  case other =>
    have hgone : coldKeeps a = false := by simp [coldKeeps, hcause, htamper]
    rw [rd_coldReset_other s 2 hboot hport, hgone, if_neg Bool.false_ne_true]
  case cause => exact rd_coldReset_other s 2 (by decide) (by decide)
  case phase =>
    obtain ⟨hwf, -⟩ := hcanon
    exact phase_coldReset hwf 2
  case gone => rw [rd_warmState, hgone, if_neg Bool.false_ne_true]
  case kept => rw [rd_warmState, if_pos hkept]

end Sys2Proof.Machine

open Sys2Proof.Machine

/-- Settles O17: the written word spells TYPE and CONFIRM, which choose the branch of the write; a reset keeps of the registers those
that it filters for, and of the rest what coldState and warmState name. -/
theorem resetsAskConfirmAndLeaveWhatTheyKeep : Obligations.ResetsAskConfirmAndLeaveWhatTheyKeep :=
  ⟨resetControlAsksForResetsWithConfirm, coldAndWarmResetsLeaveWhatTheyKeep⟩
end

section
/-! SUPPORT AND PROOFS. Supplies, reset pins and tampers (R71 to R75, R291), the module sideband (R462, R463). -/
namespace Sys2Proof.Machine

variable {s : State} {i : Nat}

/-! ## Supplies -/

/-- A command of a supply that the part has. -/
theorem exec_supply (hi : i < 14) :
    exec (.supplyStart i) s = .next (supplyStart s i) ∧ exec (.supplyValid i) s = .next (supplyValid s i)
      ∧ exec (.supplyOutOfRange i) s = .next (supplyBad s) ∧ exec (.supplyRemoval i) s = .next (supplyRemove s i) :=
  ⟨congrArg Host.Outcome.next (if_pos hi), congrArg Host.Outcome.next (if_pos hi), congrArg Host.Outcome.next (if_pos hi),
    congrArg Host.Outcome.next (if_pos hi)⟩

/-- The next step is late where every supply up to step k is valid and none of step k + 1 has started. -/
theorem supplyGap_of_late {k : Nat} (hk : k < 6)
    (h : ∀ j, j < 14 → (supplyStep j ≤ k → supplyOf s j = supValid) ∧ (supplyStep j = k + 1 → supplyOf s j = supOff)) :
    supplyGap s = seqError s := by
  refine if_pos (List.any_eq_true.mpr ⟨k, List.mem_range.mpr hk, List.all_eq_true.mpr fun j hj => ?_⟩)
  obtain ⟨hvalid, hoff⟩ := h j (List.mem_range.mp hj)
  split_ifs with hstep hnext
  · exact beq_iff_eq.mpr (hvalid hstep)
  · exact beq_iff_eq.mpr (hoff hnext)
  · rfl

theorem suppliesRiseInTheOrderOfTheirSteps : Sys2Proof.Rules.SuppliesRiseInTheOrderOfTheirSteps := by
  refine ⟨fun s i hi hoff => ?start, fun s i hi hstarted => ?valid, fun s k hk hlate => ?gap⟩
  case start =>
    obtain ⟨hstart, -⟩ := exec_supply (s := s) hi
    exact hstart.trans (congrArg _ (if_neg (not_not.mpr hoff)))
  case valid =>
    obtain ⟨-, hvalid, -⟩ := exec_supply (s := s) hi
    exact hvalid.trans (congrArg _ (if_pos hstarted))
  case gap => exact congrArg Host.Outcome.next (supplyGap_of_late hk hlate)

/-! ## Reset pins, and supplies out of their windows -/

/-- With POR_N high a supply out of its window trips the voltage tamper and a COLD reset. -/
theorem supplyBad_of_por_high (h : s.boot.porLow = false) : supplyBad s = coldReset (zeroize s 7) 4 := if_neg (by simp [h])

/-- With POR_N high the fall of a valid supply does so first; VDD_AON takes with it what no memory keeps. -/
theorem supplyRemove_of_valid (h : s.boot.porLow = false) (hvalid : supplyOf s i = supValid) : supplyRemove s i =
    if i = 0 then
      portHeld (bootUpd (coldState (setSupply (coldReset (zeroize s 7) 4) 0 supOff) fun _ => false)
        fun b => { b with seqErr := false, stay := false, porLow := true })
    else setSupply (coldReset (zeroize s 7) 4) i supOff := by
  simp only [supplyRemove, if_pos hvalid, supplyBad_of_por_high h]
  split_ifs with hi
  · rw [hi]
  · rfl

theorem porAssert_of_high (h : s.boot.porLow = false) : porAssert s = bootUpd (coldReset s 1) fun b => { b with porLow := true } :=
  if_neg (by simp [h])

/-- POR_N is released once every supply is valid. -/
theorem porRelease_of_valid (h : s.boot.porLow = true) (hvalid : ∀ j, j < 14 → supplyOf s j = supValid) (b : Nat) :
    porRelease s b = showSource (bootUpd s fun x => { x with porLow := false, bootsel := b % 4 }) :=
  if_pos ⟨h, List.all_eq_true.mpr fun j hj => beq_iff_eq.mpr (hvalid j (List.mem_range.mp hj))⟩

theorem perstRelease_of_por_high (h : s.boot.porLow = false) :
    perstRelease s = bootUpd (setIsl s 340 islRun) fun b => { b with perstLow := false } := if_neg (by simp [h])

theorem suppliesAndResetPinsReset : Sys2Proof.Rules.SuppliesAndResetPinsReset := by
  intro s i hi hpor
  obtain ⟨-, -, hbad, hremove⟩ := exec_supply (s := s) hi
  obtain ⟨-, -, -, hremoveAon⟩ := exec_supply (s := s) (i := 0) (by omega)
  refine ⟨?bad, fun hvalid hpos => ?fall, fun hvalid => ?fallAon, congrArg Host.Outcome.next (porAssert_of_high hpor),
    congrArg Host.Outcome.next (perstRelease_of_por_high hpor), ⟨perstAssert s, rfl, rfl, rfl, rfl, rfl⟩, fun b hvalid => ?release⟩
  case bad => rw [hbad, supplyBad_of_por_high hpor]
  case fall => rw [hremove, supplyRemove_of_valid hpor hvalid, if_neg (by omega)]
  case fallAon => rw [hremoveAon, supplyRemove_of_valid hpor hvalid, if_pos rfl]
  case release =>
    exact congrArg Host.Outcome.next
      (porRelease_of_valid (s := { s with boot := { s.boot with porLow := true } }) rfl hvalid b)

/-! ## Tampers -/

theorem tamperTripZeroizesTheModule : Sys2Proof.Rules.TamperTripZeroizesTheModule := by
  refine fun s => ⟨fun n hn => congrArg Host.Outcome.next ?source, fun hpor => ?voltage⟩
  case source => rw [tamperTrip, if_neg (by omega), if_pos hn]
  case voltage => exact congrArg Host.Outcome.next (supplyBad_of_por_high hpor)

/-! ## The module sideband -/

/-- MOD_INT_N falls while LIGHT_IN stays low. -/
theorem sideband_of_fall {t : Nat} (hint : rb s (Adr.treModStat t) 1 = false) (hlight : rb s (Adr.treModStat t) 0 = false) :
    sideband s t true false = evBit (wb (wb s (Adr.treModStat t) 1 true) (Adr.treModStat t) 0 false) (Adr.treModStat t) 2 336
      .corrected (0x1200 + t) := by
  simp [sideband, hint, hlight]

/-- LIGHT_IN rises while MOD_INT_N stays high. -/
theorem sideband_of_light {t : Nat} (hlight : rb s (Adr.treModStat t) 0 = false) :
    sideband s t false true = evBit (wb (wb s (Adr.treModStat t) 1 false) (Adr.treModStat t) 0 true) (Adr.treModStat t) 3 336
      .corrected (0x1240 + t) := by
  simp [sideband, hlight]

theorem sidebandChangesAreReported : Sys2Proof.Rules.SidebandChangesAreReported := by
  refine ⟨fun s t ht hint hlight => ?changes, fun _ => rfl⟩
  have hexec (intLow light : Bool) : exec (.sidebandInputChange t intLow light) s = .next (sideband s t intLow light) :=
    congrArg Host.Outcome.next (if_pos ht)
  exact ⟨(hexec true false).trans (congrArg _ (sideband_of_fall hint hlight)),
    (hexec false true).trans (congrArg _ (sideband_of_light hlight))⟩

end Sys2Proof.Machine

open Sys2Proof.Machine

/-- Settles O18: each command finds its supply, pin or input as the clause takes it, and so takes the branch that the clause states. -/
theorem suppliesPinsTamperAndSidebandAct : Obligations.SuppliesPinsTamperAndSidebandAct :=
  ⟨suppliesRiseInTheOrderOfTheirSteps, suppliesAndResetPinsReset, tamperTripZeroizesTheModule, sidebandChangesAreReported⟩
end

section
/-! SUPPORT AND PROOFS. CHANNEL and TREE resets, and the steps of a channel's start (R20, R78, R81 to R83, R117 to R119). -/
namespace Sys2Proof.Machine

variable {s : State} {who : Requester} {c t expect : Nat}

/-! ## Resets -/

/-- A write of RESET with the channel's epoch resets a channel that is not OFF, unless a wider reset runs or its tree is in RESET. -/
theorem chanResetWrite_of_current (hpf : isPfSide s who = true) (hrun : s.boot.resetRun = 0)
    (hepoch : expect = uEpoch s (Adr.chnState c)) (hoff : chnEff s c ≠ chOff) (htree : effState s (Adr.treState (c / 4)) ≠ 1) :
    chanResetWrite s who c expect = wrOk (chanReset s c) who (Adr.chnState c) := by
  simp [chanResetWrite, hpf, hrun, hepoch, hoff, htree]

/-- A write of RESET with the tree's epoch resets a tree that is not OFF, unless a wider reset runs or an APPLY resets it. -/
theorem treeStateWrite_reset_of_current (hpf : isPfSide s who = true) (hup : islDown s 336 = false) (hrun : s.boot.resetRun = 0)
    (hepoch : expect = uEpoch s (Adr.treState t)) (hoff : effState s (Adr.treState t) ≠ 0) (happly : applyResets s t = false) :
    treeStateWrite s who t expect 1 = wrOk (treeReset s t) who (Adr.treState t) := by
  simp [treeStateWrite, hpf, hup, hrun, hepoch, hoff, happly]

theorem channelAndTreeResetsAreTaken : Sys2Proof.Rules.ChannelAndTreeResetsAreTaken := by
  refine ⟨fun s who c expect hc hpf hrun hepoch hoff htree => congrArg Host.Outcome.next ?channel,
    fun s who t expect ht hpf hup hrun hepoch hoff happly => congrArg Host.Outcome.next ?tree⟩
  case channel => rw [if_pos hc, chanResetWrite_of_current hpf hrun hepoch hoff htree]
  case tree => rw [if_pos ht, treeStateWrite_reset_of_current hpf hup hrun hepoch hoff happly, treeReset]

/-! ## Starts -/

/-- A channel that has not been lost is lost: it stops, its island is LOST and its STATE, unless OFF, is FAULT with the cause. -/
theorem chanLost_of_not_lost (hvalid : chanValid s c = true) (hlost : islState s c ≠ islLost) (det : Nat) :
    chanLost s c det =
      let u := setIsl (chanStop s c) c islLost
      raise (if chnEff u c = chOff then u else chnChange u c chFault det) c .contained (0x04F0 + det) :=
  if_neg (by simp [hvalid, hlost])

theorem channelStartsStepByStepOrFaults : Sys2Proof.Rules.ChannelStartsStepByStepOrFaults := by
  refine ⟨fun s c hreset hisland => congrArg Host.Outcome.next ?islandDone, fun s c hreset hisland => congrArg Host.Outcome.next ?trained,
    fun s c hstarting => congrArg (fun u => Host.Outcome.next (applyFinish u)) ?run, fun s c hstart hvalid hlost => ?late,
    fun s t hstarting hready => congrArg Host.Outcome.next ?treeLate⟩
  case islandDone => exact if_pos ⟨hreset, hisland⟩
  case trained => exact if_pos ⟨hreset, hisland⟩
  case run => exact if_pos hstarting
  case late => exact congrArg Host.Outcome.next ((if_pos hstart).trans (chanLost_of_not_lost hvalid hlost 2))
  case treeLate => exact if_pos ⟨hstarting, hready⟩

end Sys2Proof.Machine

open Sys2Proof.Machine

/-- Settles O19: a write of RESET passes every check to the reset itself, and each event of a start finds its channel or tree in the
step that it ends. -/
theorem channelsAreResetAndStartedStepByStep : Obligations.ChannelsAreResetAndStartedStepByStep :=
  ⟨channelAndTreeResetsAreTaken, channelStartsStepByStepOrFaults⟩
end

section
/-! SUPPORT AND PROOFS. Upstream bursts: their starts (R108, R112) and what is received of them (R105, R106). -/
namespace Sys2Proof.Machine

variable {s : State} {c i : Nat} {g : GBurst} {rest : List GBurst} {rx : Reception} {pat dist : Nat} {ofs : Int}

/-- While the data path runs, its events act. -/
theorem dataUp_of_running (h : s.boot.dataStopped = false) (f : State → State) : dataUp s f = f s := if_neg (by simp [h])

/-! ## Starts -/

/-- Once the outputs are no longer held, what a pin shows is sent. -/
theorem emitPin_of_not_held (h : outsHeld s = false) (o : Sent) : emitPin s o = emit s o := if_neg (by simp [h])

/-- The staging registers hold no state that the outputs depend on. -/
theorem outsHeld_stageSwap_setBursts (s : State) (c : Nat) (l : List GBurst) (cur next : Nat) :
    outsHeld (stageSwap (setBursts s c l) c cur next) = outsHeld s := rfl

/-- The next burst of a channel that is up is marked, its record comes into force and its reset pulse is due. -/
theorem burstStart_of_next (hup : islDown s c = false) (hfind : ((burstsOf s c).findIdx? fun g => !g.started) = some i)
    (hget : (burstsOf s c)[i]? = some g) : burstStart s c =
      let rise := g.start + fld (rd s (Adr.chnOptCfg c)) 6 0
      emitPin (stageSwap (setBursts s c ((burstsOf s c).set i { g with started := true })) c (stageSlot g)
        (((burstsOf s c)[i + 1]?.map stageSlot).getD 0)) (.burstReset c rise (rise + fld (rd s (Adr.chnOptCfg c)) 14 8)) := by
  simp only [burstStart, hfind, hget, hup, Bool.false_eq_true, if_false]
  rfl

theorem burstStartSwapsStagingAndPulsesTheReset : Sys2Proof.Rules.BurstStartSwapsStagingAndPulsesTheReset := by
  intro s c i g hrun hup houts hfind hget next rise live ready
  refine ⟨_, congrArg Host.Outcome.next (dataUp_of_running hrun _), ?_⟩
  rw [burstStart_of_next hup hfind hget, emitPin_of_not_held ((outsHeld_stageSwap_setBursts ..).trans houts)]
  exact ⟨rfl, rfl, rfl, rfl, rfl, rfl⟩

/-! ## Receptions -/

/-- The oldest granted burst taken from its channel's list and counted as granted. -/
def burstTaken (s : State) (c : Nat) (g : GBurst) (rest : List GBurst) : State :=
  let u := setBursts s c rest
  { u with line := { u.line with secGranted := secAdd u.line.secGranted c g 1 } }

/-- On a running channel that is no standby the reception's end is that of the oldest granted burst. -/
theorem exec_burstReceive_of_running (hrun : s.boot.dataStopped = false) (hbursts : burstsOf s c = g :: rest)
    (hup : islDown s c = false) (hactive : chnEff s c ≠ chStandby) (rx : Reception) :
    exec (.burstReceive c rx) s = .next (burstOver s c g rx) := by
  have hreceive : burstReceive s c rx = burstOver s c g rx := by
    simp only [burstReceive, hbursts, hup, Bool.false_eq_true, if_false, if_neg hactive]
  calc exec (.burstReceive c rx) s = .next (dataUp s fun s => burstReceive s c rx) := rfl
    _ = _ := by rw [dataUp_of_running hrun, hreceive]

/-- A burst without a delimiter is lost. -/
theorem burstOver_of_no_delim (hbursts : burstsOf s c = g :: rest) (hkind : g.kind ≠ 2) (hdelim : burstDelim s c rx.window = none) :
    burstOver s c g rx = burstLost (burstTaken s c g rest) c g [4] := by
  simp only [burstOver, hdelim, if_neg hkind, hbursts]
  rfl

/-- One with a delimiter passes an idle injector to the decoding. -/
theorem burstOver_of_delim (hbursts : burstsOf s c = g :: rest) (hkind : g.kind ≠ 2)
    (hdelim : burstDelim s c rx.window = some (pat, ofs, dist)) (harmed : fiArmed (burstTaken s c g rest) (Adr.fiCfgUs c) = false)
    (hheld : (fiOf (burstTaken s c g rest) (Adr.fiCfgUs c)).held = []) :
    burstOver s c g rx = burstDecode (burstTaken s c g rest) c g rx pat ofs dist := by
  have hpass (u : FiUnit) := fiPass_of_idle harmed hheld (some g.tid) u
  unfold burstTaken at hpass
  simp only [burstOver, hdelim, hkind, if_false, false_and, hbursts, List.drop_succ_cons, List.drop_zero, hpass,
    List.isEmpty_cons, Bool.false_eq_true]
  rfl

/-- A first codeword that is good, a prologue whose CRC holds and the granted TID are no fault. -/
theorem burstFault_of_good (hfirst : rx.cws.head? ≠ some .uncorrectable) (hcrc : rx.hdr.crcOk = true) (htid : rx.hdr.tid = g.tid)
    (pat : Nat) : burstFault g rx pat = none := by
  rw [burstFault, if_neg hfirst, if_neg (by simp [hcrc]), if_pos (.inl htid)]

/-- The end of a burst's grants leaves the line. -/
theorem grantsEnd_line (s : State) (g : GBurst) (recd : Bool) : (grantsEnd s g recd).line = s.line :=
  List.foldlRecOn (motive := fun t : State => t.line = s.line) _ _ rfl fun _ ht _ _ => ht

/-- A burst in whose prologue no fault is found is received: its grants end, and its channel has been heard. -/
def burstHeard (s : State) (c : Nat) (g : GBurst) (rx : Reception) : State :=
  let u := cwCount s c g rx.cws
  { grantsEnd u g true with line := { u.line with heard := addNew u.line.heard c } }

theorem burstHeard_eq (s : State) (c : Nat) (g : GBurst) (rx : Reception) : burstHeard s c g rx =
    let v := grantsEnd (cwCount s c g rx.cws) g true
    { v with line := { v.line with heard := addNew v.line.heard c } } := by
  simp only [burstHeard, grantsEnd_line]

/-- A terminal's burst without fault counts to its ranging on an N200 channel, updates its record and its trace, and its frames and
reports are taken. -/
theorem burstDecode_of_good (hfault : burstFault g rx pat = none) (htid : g.tid ≠ 0x7FFF) (s : State) (ofs : Int) (dist : Nat) :
    burstDecode s c g rx pat ofs dist =
      let v := burstHeard s c g rx
      let v := if isN200 v c then rangingKeep v c g.tid ofs else v
      let w := tlrUpdate v c (slotOfTid g.tid) g.cold rx.dsp rx.quality g.cycle ofs dist
      let x := if isN200 v c then traceStep (if g.cold then pmBurst w c g 8 1 else w) c g.tid rx.hdr.traceCrc else v
      let y := takeReports (usBytes x c g.tid rx.frames) c g.tid g.cycle (rx.reports.take rx.hdr.rptCount)
      termHeard (if isC50 y c then g.grants.foldl (fun y p => takeMonitor y p.1 g.cycle) y else y) c g rx (pat == 1) ofs := by
  unfold burstDecode
  extract_lets +onlyGivenNames u keep
  have hkeep : keep = fun t => if isN200 t c then rangingKeep t c g.tid ofs else t :=
    funext fun t => by simp only [keep, ne_eq, htid, not_false_eq_true, and_true]
  rw [hkeep, hfault]
  exact if_neg htid

theorem receivedBurstIsDecodedOrLost : Sys2Proof.Rules.ReceivedBurstIsDecodedOrLost := by
  intro s c rx g rest hrun hbursts hup hactive hkind htid u
  have hover := exec_burstReceive_of_running hrun hbursts hup hactive rx
  refine ⟨fun hdelim => ?lost, fun pat ofs dist hdelim harmed hheld => ⟨?decoded, fun hfirst hcrc hgranted => ?good⟩⟩
  case lost => exact hover.trans (congrArg Host.Outcome.next (burstOver_of_no_delim hbursts hkind hdelim))
  case decoded => exact hover.trans (congrArg Host.Outcome.next (burstOver_of_delim hbursts hkind hdelim harmed hheld))
  case good => rw [burstDecode_of_good (burstFault_of_good hfirst hcrc hgranted pat) htid, burstHeard_eq]

end Sys2Proof.Machine

open Sys2Proof.Machine

/-- Settles O20: a start is marking, swapping and pulsing in turn, of which only the pulse is sent; a reception that ends takes the
oldest burst, which no delimiter loses and no fault of its prologue keeps from being decoded. -/
theorem burstsStartAndAreDecodedOrLost : Obligations.BurstsStartAndAreDecodedOrLost :=
  ⟨burstStartSwapsStagingAndPulsesTheReset, receivedBurstIsDecodedOrLost⟩
end

section
/-! SUPPORT AND PROOFS. Terminal Lock Records (R113, R115) and performance bins (R120, R123). -/
namespace Sys2Proof.Machine

variable {s : State} {who : Requester} {c k : Nat}

/-! ## Terminal Lock Records -/

/-- The owner of function 9 has its command run on the record that it names, of the 512. -/
theorem tlrCmdWrite_of_owner (hup : islDown s c = false) (howner : isOwner s who c 9 (c / 4) = true) (hk : k < 512) (op : Nat) :
    tlrCmdWrite s who c op k = wrOk (tlrCmd s c op k) who (Adr.chnTlrCmd c) := by
  simp only [tlrCmdWrite, hup, howner, Bool.false_eq_true, Bool.true_eq_false, if_false, Nat.mod_eq_of_lt hk]

theorem tlrCommandsChangeFlagsOfTheirRecord : Sys2Proof.Rules.TlrCommandsChangeFlagsOfTheirRecord := by
  intro s who c k hup howner hk a flag
  have hrun := tlrCmdWrite_of_owner hup howner hk
  have hrunAll := tlrCmdWrite_of_owner (k := 0) hup howner (by decide) 5
  exact ⟨congrArg Host.Outcome.next (hrun 1), congrArg Host.Outcome.next (hrun 2), congrArg Host.Outcome.next (hrun 3),
    congrArg Host.Outcome.next (hrun 4), congrArg Host.Outcome.next hrunAll, fun i b x hx => rd_wb_other s _ b hx⟩

theorem burstIsWarmByValidForceColdAndAge : Sys2Proof.Rules.BurstIsWarmByValidForceColdAndAge := by
  intro s c k
  simp only [burstWarm, Bool.and_eq_true, Bool.not_eq_true', decide_eq_true_eq, bne_iff_ne, and_assoc]
  exact Iff.rfl

/-! ## Performance bins -/

/-- A requester's own word, or one returned to it, changes the accesses' state only. -/
theorem wrReq_with_acc (s : State) (who : Requester) (a : Nat) (w : Word) (x : AccessSt) :
    { wrReq s who a w with acc := x } = { s with acc := x } := rfl

theorem ret_with_acc (s : State) (who : Requester) (w : Word) (x : AccessSt) :
    { ret s who w with acc := x } = { s with acc := x } := rfl

theorem wrReq_acc_ret (s : State) (who : Requester) (a : Nat) (w : Word) : (wrReq s who a w).acc.ret = s.acc.ret := rfl

theorem ret_acc_ret (s : State) (who : Requester) (w : Word) : (ret s who w).acc.ret = mset 0 s.acc.ret who.code w := rfl

/-- The scope that the requester's CHN_PM_SEL names: 0 the channel, else a slot's number and one. -/
def pmSelScope (s : State) (who : Requester) (c : Nat) : Nat :=
  let sel := rdReq s who (Adr.chnPmSel c)
  if fld sel 31 31 = 1 then fld sel 24 16 + 1 else 0

/-- The bin that it names. -/
def pmSelBin (s : State) (who : Requester) (c : Nat) : Nat := fld (rdReq s who (Adr.chnPmSel c)) 12 8

/-- The counter that it names. -/
def pmSelCounter (s : State) (who : Requester) (c : Nat) : Nat := fld (rdReq s who (Adr.chnPmSel c)) 3 0

/-- A read of CHN_PM_DATA changes the accesses' state only. -/
theorem pmDataRead_with_acc (s : State) (who : Requester) (c : Nat) (x : AccessSt) :
    { pmDataRead s who c with acc := x } = { s with acc := x } := by
  unfold pmDataRead
  extract_lets
  rw [ret_with_acc, wrReq_with_acc, wrReq_with_acc, wrReq_with_acc]

/-- One of the 19 bins and a counter that an N200 channel has in every scope reads as the count with its flags. -/
theorem pmDataRead_ret_of_live (hn : isC50 s c = false) (hbin : pmSelBin s who c ≤ 18) (hcounter : pmSelCounter s who c ≤ 13) :
    (pmDataRead s who c).acc.ret =
      let scope := pmSelScope s who c
      let bin := pmSelBin s who c
      let counter := pmSelCounter s who c
      mset 0 s.acc.ret who.code (BitVec.ofNat 32 (pmCount s c scope bin counter
        + 2 ^ 62 * b2n (decide (pmKey c scope bin counter ∈ s.line.pmTca))
        + 2 ^ 63 * b2n (decide (pmBin c scope bin ∈ s.line.pmSuspect) || decide (pmBin c 0 bin ∈ s.line.pmSuspect)))) := by
  unfold pmDataRead
  extract_lets sel scope bin counter dead v
  replace hbin : bin ≤ 18 := hbin
  replace hcounter : counter ≤ 13 := hcounter
  have hlive : ¬ dead := by
    simp only [dead, hn, Bool.false_eq_true, false_and, false_or]
    omega
  rw [ret_acc_ret, wrReq_acc_ret, wrReq_acc_ret, wrReq_acc_ret]
  exact congrArg _ (congrArg _ (if_neg hlive))

theorem pmBinsShiftAndReadWithTheirFlags : Sys2Proof.Rules.PmBinsShiftAndReadWithTheirFlags := by
  refine ⟨fun s c second => ⟨pmRollover s c false second, rfl, rfl, rfl, rfl, rfl⟩, fun s who c hn hup => ?read⟩
  case read =>
    intro sel scope bin counter hbin hcounter v
    have hframe := pmDataRead_with_acc s who c {}
    exact ⟨pmDataRead s who c, congrArg Host.Outcome.next (if_neg (by simp [hup])), pmDataRead_ret_of_live hn hbin hcounter,
      (congrArg State.regs hframe :), (congrArg State.line hframe :), (congrArg State.tabs hframe :)⟩

end Sys2Proof.Machine

open Sys2Proof.Machine

/-- Settles O21: each command of CHN_TLR_CMD passes its checks to one flag's write, a warm burst is the four conditions together, and
a rollover and a read change no more than the bins and what the read returns. -/
theorem terminalLearningRecordsFollowTheirFlags : Obligations.TerminalLearningRecordsFollowTheirFlags :=
  ⟨tlrCommandsChangeFlagsOfTheirRecord, burstIsWarmByValidForceColdAndAge, pmBinsShiftAndReadWithTheirFlags⟩
end

section
/-! SUPPORT AND PROOFS. The cycle start (R85, R128). -/
namespace Sys2Proof.Machine

variable {s : State}

/-- Where no time base is set a cycle start moves CHN_CYCLE alone. -/
theorem tick_of_bases_unset (h : ∀ b, b < 8 → baseState s b = tbUnset) (n : Nat) : tick s n = wrW s (Adr.chnCycle 0) n 2 := by
  have hunset : ∀ b, b < 8 → baseState (wrW s (Adr.chnCycle 0) n 2) b = tbUnset := fun b hb => by
    have hapart : Adr.timTbStat b < Adr.chnCycle 0 := by unfold Adr.timTbStat Adr.chnCycle; omega
    exact (rf_congr (rd_wrW_other s _ _ _ (.inl hapart)) 31 28).trans (h b hb)
  refine List.foldlRecOn (motive := (· = wrW s (Adr.chnCycle 0) n 2)) _ _ rfl fun t ht b hb => ?_
  rw [ht, if_pos (hunset b (List.mem_range.mp hb))]

/-- The cycle number reads as it was set, of 48 bits. -/
theorem cycleNow_wrW (hwf : mwf resetWord s.regs = true) (n : Nat) : cycleNow (wrW s (Adr.chnCycle 0) n 2) = n % 2 ^ 48 := by
  rw [cycleNow, rdW_wrW_same hwf]
  exact Nat.mod_mod_of_dvd n (by decide)

end Sys2Proof.Machine

open Sys2Proof.Machine

/-- Settles O22: with the device past its power-on reset, and P5 reached or a reset run, the cycle starts; CHN_CYCLE then reads as the
tick set it. -/
theorem cycleStartAdvancesTheCycleAndItsWork : Obligations.CycleStartAdvancesTheCycleAndItsWork := by
  refine ⟨fun s energy sfc hpor hrun => congrArg Host.Outcome.next ?start, fun s n hcanon hn hunset => ?advanced⟩
  case start =>
    have hstarts : ¬ (s.boot.porLow = true ∨ (phase s < 5 ∧ s.boot.resetRun ≠ 1)) := by simp [hpor]; omega
    exact if_neg hstarts
  case advanced =>
    obtain ⟨hwf, -⟩ := hcanon
    rw [tick_of_bases_unset hunset, cycleNow_wrW hwf, Nat.mod_eq_of_lt hn]
end

section
/-! SUPPORT AND PROOFS. Registration bursts (R139, R140, R145) and the slots of new serials (R140). -/
namespace Sys2Proof.Machine

variable {s : State} {c : Nat} {b : RegBurst} {g : GBurst}

/-! ## Bursts -/

/-- Registration bursts that overlap in a quiet window are known by their collision only. -/
theorem registration_of_overlap (hn : isN200 s c = true) (hrun : chnEff s c = chRun) (hup : islDown s c = false)
    (hover : b.overlap = true) (hquiet : quietSeen s c none = true) :
    registration s c b = evBit s (Adr.chnDiscEvent c) 3 c .corrected 0x0423 := by
  simp [registration, hn, hrun, hup, hover, hquiet]

/-- A burst that does not decode is taken for the answer to the oldest registration grant. -/
theorem registration_of_undecoded (hn : isN200 s c = true) (hrun : chnEff s c = chRun) (hup : islDown s c = false)
    (hone : b.overlap = false) (hcw : b.cw = .uncorrectable) (hgrant : regGrantFind s c none = some g) :
    registration s c b
      = regLost (regCwCount (inviteGone (regGrantTaken s c g) c g.invite) c .uncorrectable) c true := by
  simp [registration, hn, hrun, hup, hone, hcw, hgrant]

/-- The counts of a good prologue: a cold burst, and a trace that differs from the expected one (R106, R116). -/
def prologueCounted (s : State) (c : Nat) (hdr : BurstHdr) : State :=
  let v := pmAddScope s c 0 8 1
  if hdr.traceCrc = crc16 (traceExpected v c) then v else pmAddScope v c 0 9 1

/-- What the answer to a registration grant uses up. -/
def regAnswered (s : State) (c : Nat) : Option GBurst → State
  | some g => inviteGone (regGrantTaken s c g) c g.invite
  | none => s

/-- A burst that decodes without a correction, and whose prologue is that of a terminal without TID. -/
def regDecodes (b : RegBurst) : Prop :=
  b.overlap = false ∧ b.cw = .good 0 ∧ b.hdr.crcOk = true ∧ b.hdr.tid = 0x7FFF

/-- Such a burst, of a grant that is outstanding or in a quiet window, is counted and comes to its SERIAL_REPORT. -/
theorem registration_of_decoded (hn : isN200 s c = true) (hrun : chnEff s c = chRun) (hup : islDown s c = false)
    (hgood : regDecodes b) {o : Option GBurst}
    (hgrant : o = if rxField b.msg 15 1 = 0xFF then none else regGrantFind s c (some (rxField b.msg 15 1)))
    (hheard : o.isSome = true ∨ (rxField b.msg 15 1 = 0xFF ∧ quietSeen s c (some b.arrival) = true)) :
    registration s c b = serialReport (prologueCounted (regCwCount (regAnswered s c o) c b.cw) c b.hdr) c b o.isNone
      (o.bind fun g => (s.reg.invites.find? (·.1 = c * 256 + g.invite)).map (·.2)) := by
  obtain ⟨hone, hcw, hcrc, htid⟩ := hgood
  unfold registration
  rw [if_neg (by simp [hn, hrun, hup]), if_neg (by simp [hone])]
  extract_lets id dark g inv
  have hdark : dark = false := by simp [dark, hcw, hcrc, htid]
  have hg : g = o := by simp only [g, hdark, hgrant, id]; simp
  have hcome : ¬ (g.isNone && !((dark || id == 0xFF) && quietSeen s c (some b.arrival))) = true := by
    rw [hg, hdark]
    rcases hheard with h | ⟨hid, hquiet⟩
    · simp [Option.isNone_eq_false_iff.mpr h]
    · simp [id, hid, hquiet]
  rw [if_neg hcome]
  clear_value g
  subst hg
  rw [if_neg (by simp [hcw]), if_neg (by simp [hcrc]), if_neg (by simp [htid])]
  rfl

/-! ## The SERIAL_REPORT -/

/-- The round trip that a burst tells: in a quiet window its arrival less the terminal's own delay, in answer to an invitation the
candidate's with the offset of its delimiter (R140, R145). -/
def reportedDelta (b : RegBurst) (quiet : Bool) (inv : Option Invite) : Option Nat :=
  if quiet then
    (if rxField b.msg 16 2 * 16 ≤ b.arrival then some (b.arrival - rxField b.msg 16 2 * 16) else none)
  else inv.bind fun i => if i.code = rxField b.msg 14 1 then some ((i.delta : Int) + b.ofs).toNat else none

theorem reportedDelta_quiet (h : rxField b.msg 16 2 * 16 ≤ b.arrival) (inv : Option Invite) :
    reportedDelta b true inv = some (b.arrival - rxField b.msg 16 2 * 16) := by
  simp [reportedDelta, h]

theorem reportedDelta_invited {i : Invite} (h : i.code = rxField b.msg 14 1) :
    reportedDelta b false (some i) = some ((i.delta : Int) + b.ofs).toNat := by
  simp [reportedDelta, h]

/-- A broadcast SERIAL_REPORT whose CRC holds. -/
def isSerialReport (m : List Byte) : Prop := rxCrcOk m = true ∧ rxType m = mtSerialReport ∧ rxAddr m = bcast

/-- At the basic level a SERIAL_REPORT that passes its alive check, with a round trip, is its serial's arrival. -/
theorem serialReport_of_delta {quiet : Bool} {inv : Option Invite} {d : Nat} (hmsg : isSerialReport b.msg)
    (halive : (serialAlive s c (rxField b.msg 6 8) (rxAlive b.msg)).1 = true)
    (hbasic : basic (serialAlive s c (rxField b.msg 6 8) (rxAlive b.msg)).2 0 (c / 4) = true)
    (hdelta : reportedDelta b quiet inv = some d) :
    serialReport s c b quiet inv =
      let u := (serialAlive s c (rxField b.msg 6 8) (rxAlive b.msg)).2
      firstAlive (arrive u (serialArrival u c b d)) c b.msg := by
  obtain ⟨hcrc, htype, haddr⟩ := hmsg
  unfold reportedDelta at hdelta
  simp [serialReport, hcrc, htype, haddr, halive, hbasic, hdelta]

theorem registrationBurstArrivesOrIsCounted : Sys2Proof.Rules.RegistrationBurstArrivesOrIsCounted := by
  intro s c hdr msg ofs arrival hdata hn hrun hup id
  have hexec (cw : CwResult) (overlap : Bool) : exec (.registrationBurst c cw hdr msg ofs arrival overlap) s
      = .next (registration s c ⟨cw, hdr, msg, ofs, arrival, overlap⟩) :=
    congrArg Host.Outcome.next (dataUp_of_running hdata _)
  refine ⟨fun hquiet => ?overlap, fun g hgrant => ?undecoded, fun d u hcrc htid hcase => ?arrives⟩
  case overlap => rw [hexec, registration_of_overlap hn hrun hup rfl hquiet]
  case undecoded => rw [hexec, registration_of_undecoded hn hrun hup rfl rfl hgrant]
  case arrives =>
    intro v v' w hmsg htype haddr halive hbasic x
    let b : RegBurst := ⟨.good 0, hdr, msg, ofs, arrival, false⟩
    have hgood : regDecodes b := ⟨rfl, rfl, hcrc, htid⟩
    have hreport {quiet : Bool} {inv : Option Invite} (hdelta : reportedDelta b quiet inv = some d) :
        serialReport (prologueCounted u c hdr) c b quiet inv = firstAlive (arrive w.2 x) c msg :=
      serialReport_of_delta (s := prologueCounted u c hdr) ⟨hmsg, htype, haddr⟩ halive hbasic hdelta
    rw [hexec]
    refine congrArg Host.Outcome.next ?_
    rcases hcase with ⟨hid, hquiet, hback, hd, hu⟩ | ⟨hid, g, k, i, hgrant, hinv, hcode, hd, hu⟩
    · have hcount : regCwCount (regAnswered s c none) c (.good 0) = u := hu.symm
      rw [registration_of_decoded hn hrun hup hgood (if_pos hid).symm (.inr ⟨hid, hquiet⟩), hcount]
      exact hreport ((reportedDelta_quiet (b := b) hback none).trans (congrArg some hd.symm))
    · have hcount : regCwCount (regAnswered s c (some g)) c (.good 0) = u := hu.symm
      rw [registration_of_decoded hn hrun hup hgood ((if_neg hid).trans hgrant).symm (.inl rfl), hcount, Option.bind_some, hinv]
      exact hreport ((reportedDelta_invited (b := b) hcode).trans (congrArg some hd.symm))

/-! ## Serials -/

/-- A new serial of a device inside the search window takes the slot that is chosen for it. -/
theorem arrive_of_slot {a : Arrival} {tid : Nat} (hsearch : inSearch s (a.chan / 4) a.delta = true)
    (hbusy : serialBusy s a.serial = none) (hnew : serialIn s (a.chan / 4) a.serial = none)
    (hslot : chooseSlot s (a.chan / 4) a.serial = some tid) : arrive s a =
      let u := { s with tcm := { s.tcm with aliveUp := mdel s.tcm.aliveUp tid } }
      let u := putArrival (takeSlot u tid a.serial) tid a
      holdAndAsk (termMgmt u tid tsAuthWait 0) tid a := by
  simp only [arrive, hsearch, hbusy, hnew, hslot, Bool.not_true, Bool.false_eq_true, if_false]

/-- With no slot free it is announced only. -/
theorem arrive_of_full {a : Arrival} (hsearch : inSearch s (a.chan / 4) a.delta = true)
    (hbusy : serialBusy s a.serial = none) (hnew : serialIn s (a.chan / 4) a.serial = none)
    (hfull : chooseSlot s (a.chan / 4) a.serial = none) :
    arrive s a = ntfPf (evBit s (Adr.chnDiscEvent a.chan) 7 a.chan .corrected 0x0427) ntfTreeFull
      (bytesLE 8 a.serial ++ bytesLE 1 (a.chan / 4) ++ bytesLE 1 (a.chan % 4)) := by
  simp only [arrive, hsearch, hbusy, hnew, hfull, Bool.not_true, Bool.false_eq_true, if_false]

theorem newSerialTakesASlotAndWaits : Sys2Proof.Rules.NewSerialTakesASlotAndWaits :=
  fun _ _ hsearch hbusy hnew =>
    ⟨fun _ hslot => arrive_of_slot hsearch hbusy hnew hslot, arrive_of_full hsearch hbusy hnew⟩

end Sys2Proof.Machine

/-- Settles O23: whether a burst overlaps, decodes, and answers an invitation or a quiet window chooses the branch of its registration;
the SERIAL_REPORT's round trip then makes it an arrival. -/
theorem registrationBurstArrivesOrIsCounted : Obligations.RegistrationBurstArrivesOrIsCounted :=
  ⟨Sys2Proof.Machine.registrationBurstArrivesOrIsCounted, Sys2Proof.Machine.newSerialTakesASlotAndWaits⟩
end

section
/-! SUPPORT AND PROOFS. A Coma candidate posted (R136). -/
namespace Sys2Proof.Machine

/-- The device after reset with tree 0 at the expert level of function 0 and an epoch of channel 0 to be posted. No image gives the tree an
EQRT, so that its search window holds the round trip 0 alone. -/
def epochToPost : State :=
  { wb State.reset (Adr.mbxOwner 0 0) 0 true with reg := { State.reset.reg with epochs := [(0, [1])] } }

theorem epochToPost_canon : Canon epochToPost := by
  unfold Canon; decide

/-- COMA_CANDIDATES_POSTED takes a peak as its code, its magnitude and its round trip, in this order (R136). -/
theorem exec_comaCandidatesPosted_one (s : State) (c code mag delta : Nat) :
    exec (.comaCandidatesPosted c [(code, mag, delta)]) s = .next (comaPost s c [{ code := code, mag := mag, delta := delta }]) := rfl

/-- A peak of magnitude 0 with the round trip 1 lies outside the search window, so that none is counted. -/
theorem comaPost_epochToPost_peaks :
    rf (comaPost epochToPost 0 [{ code := 0, mag := 0, delta := 1 }]) (Adr.chnComaStat 0) 27 25 = 0 := by
  decide

end Sys2Proof.Machine

open Sys2Proof.Machine

/-- Refutes O24 by the third clause of its epochs: it writes the peak that the command takes as (code, delta, mag), while the command's
operand is (code, mag, delta). For the round trip 0, which lies in the search window, and the magnitude 1 it so posts the round trip 1,
which lies outside: CHN_COMA_STAT then shows no peak where the clause has one. -/
theorem not_comaEpochsAndQuietWindowsArePlaced : ¬ Obligations.ComaEpochsAndQuietWindowsArePlaced := by
  rintro ⟨⟨-, -, hpeak⟩, -⟩
  obtain ⟨t, ht, -, -, -, hstat⟩ := hpeak epochToPost 0 1 0 0 1 [] (by decide) epochToPost_canon rfl (by decide) (by decide) (by decide)
  rw [exec_comaCandidatesPosted_one] at ht
  obtain rfl := Host.Outcome.next.inj ht
  rw [comaPost_epochToPost_peaks] at hstat
  exact absurd hstat (by decide)
end

section
/-! SUPPORT AND PROOFS. Terminal control messages in both directions (R147 to R152) and PLOAM messages (R126). -/
namespace Sys2Proof.Machine

variable {s : State} {who : Requester} {c tid : Nat} {m : List Byte}

/-! ## The alive check (R150) -/

/-- LAST of a terminal takes the ALIVE of an accepted message. -/
def aliveKept (s : State) (tid alive : Nat) : State :=
  { s with tcm := { s.tcm with aliveUp := mput s.tcm.aliveUp tid (alive + 1) } }

theorem aliveCheck_of_first (h : s.tcm.aliveUp.find? (·.1 = tid) = none) (alive : Nat) :
    aliveCheck s tid alive = (.accepted, aliveKept s tid alive) := by
  simp only [aliveCheck, h, aliveKept]

section
variable {k l alive : Nat}

theorem aliveCheck_of_replay (h : s.tcm.aliveUp.find? (·.1 = tid) = some (k, l)) (hd : modSub (alive + 1) l 65536 = 0) :
    aliveCheck s tid alive = (.replay, s) := by
  simp only [aliveCheck, h, if_pos hd]

theorem aliveCheck_of_next (h : s.tcm.aliveUp.find? (·.1 = tid) = some (k, l)) (hpos : 1 ≤ modSub (alive + 1) l 65536)
    (hd : modSub (alive + 1) l 65536 ≤ 32767) : aliveCheck s tid alive = (.accepted, aliveKept s tid alive) := by
  have hnew : modSub (alive + 1) l 65536 ≠ 0 := by omega
  simp only [aliveCheck, h, if_neg hnew, if_pos hd, aliveKept]

theorem aliveCheck_of_stale (h : s.tcm.aliveUp.find? (·.1 = tid) = some (k, l)) (hd : 32767 < modSub (alive + 1) l 65536) :
    aliveCheck s tid alive = (.stale, s) := by
  have hnew : modSub (alive + 1) l 65536 ≠ 0 := by omega
  have hfar : ¬ modSub (alive + 1) l 65536 ≤ 32767 := by omega
  simp only [aliveCheck, h, if_neg hnew, if_neg hfar]

end

/-! ## Reception (R147, R150) -/

/-- A terminal in use whose channel, of its own tree, takes terminal control messages. -/
def tcmListens (s : State) (c tid : Nat) : Prop :=
  islDown s c = false ∧ isC50 s c = false ∧ treeOfTid tid = c / 4 ∧ termEff s tid ≠ tsFree

/-- A message that the terminal itself may have sent. -/
def tcmIsOf (tid : Nat) (m : List Byte) : Prop :=
  rxCrcOk m = true ∧ mtKnown (rxType m) = true ∧ mtUpOnly (rxType m) = true ∧ rxAddr m = tid

theorem tcmReceive_of_bad_crc (h : tcmListens s c tid) (hcrc : rxCrcOk m = false) : tcmReceive s c tid m
    = { s with tcm := { s.tcm with discards := mset 0 s.tcm.discards c (mget 0 s.tcm.discards c + 1) } } := by
  obtain ⟨hup, hn, htree, hused⟩ := h
  simp [tcmReceive, hup, hn, htree, hused, hcrc]

theorem tcmReceive_of_accepted (h : tcmListens s c tid) (hm : tcmIsOf tid m) {u : State}
    (halive : aliveCheck s tid (rxAlive m) = (.accepted, u)) : tcmReceive s c tid m = tcmAct u c tid m := by
  obtain ⟨hup, hn, htree, hused⟩ := h
  obtain ⟨hcrc, hknown, hown, haddr⟩ := hm
  simp [tcmReceive, hup, hn, htree, hused, hcrc, hknown, hown, haddr, halive]

theorem tcmReceive_of_replay (h : tcmListens s c tid) (hm : tcmIsOf tid m)
    (halive : aliveCheck s tid (rxAlive m) = (.replay, s)) :
    tcmReceive s c tid m = evBit s (Adr.chnDiscEvent c) 5 c .corrected 0x0425 := by
  obtain ⟨hup, hn, htree, hused⟩ := h
  obtain ⟨hcrc, hknown, hown, haddr⟩ := hm
  simp [tcmReceive, hup, hn, htree, hused, hcrc, hknown, hown, haddr, halive]

theorem tcmReceive_of_stale (h : tcmListens s c tid) (hm : tcmIsOf tid m)
    (halive : aliveCheck s tid (rxAlive m) = (.stale, s)) : tcmReceive s c tid m = s := by
  obtain ⟨hup, hn, htree, hused⟩ := h
  obtain ⟨hcrc, hknown, hown, haddr⟩ := hm
  simp [tcmReceive, hup, hn, htree, hused, hcrc, hknown, hown, haddr, halive]

/-! ## What an accepted message does at the basic level -/

/-- A STATUS_REPORT is counted for its terminal. -/
theorem tcmAct_of_statusReport (hbasic : basic s 0 (treeOfTid tid) = true) (htype : rxType m = mtStatusReport) :
    tcmAct s c tid m = pmAdd s c (slotOfTid tid) 12 (rxField m 6 4) := by
  have hack : mtStatusReport ≠ mtAck := by decide
  simp [tcmAct, htype, hbasic, hack]

/-- An ACK ends what waits for it. -/
theorem tcmAct_of_ack (hbasic : basic s 0 (treeOfTid tid) = true) (htype : rxType m = mtAck) :
    tcmAct s c tid m = ackTake s tid m := by
  simp [tcmAct, htype, hbasic]

/-! ## No ACK (R151, R152) -/

/-- A message whose ACK does not come is queued again at the head, up to three times, where the queue has room. -/
theorem ackTimeout_of_resend {w : TcmWait} (hwait : tcmWaitOf s tid = some w) (hfew : w.resends < 3)
    (hroom : (tcmQueue s w.chan).length < tcmDepth) : ackTimeout s tid =
      let u := { s with tcm := { s.tcm with wait := mput s.tcm.wait tid { w with resends := w.resends + 1 } } }
      setTcmQueue u w.chan ({ w.msg with resend := true } :: tcmQueue u w.chan) := by
  have hfree : ¬ tcmDepth ≤ (tcmQueue s w.chan).length := by omega
  simp only [ackTimeout, hwait, if_pos hfew, tcmResend, if_neg hfree]

theorem terminalMessagesActByTheirAliveCounter : Sys2Proof.Rules.TerminalMessagesActByTheirAliveCounter := by
  refine ⟨fun s c tid m hdata hup hn htree hused => ?receive, fun s tid w hwait hfew hroom => ?resend⟩
  case receive =>
    have hears : tcmListens s c tid := ⟨hup, hn, htree, hused⟩
    have hexec : exec (.tcmReceive c tid m) s = .next (tcmReceive s c tid m) :=
      congrArg Host.Outcome.next (dataUp_of_running hdata _)
    have hexecAck (hack : rxType m = mtAck) : exec (.tcmAckReceive c tid m) s = .next (tcmReceive s c tid m) :=
      congrArg Host.Outcome.next ((dataUp_of_running hdata _).trans (if_pos hack))
    refine ⟨fun hcrc => by rw [hexec, tcmReceive_of_bad_crc hears hcrc], fun hcrc hknown hown haddr => ?_⟩
    have hm : tcmIsOf tid m := ⟨hcrc, hknown, hown, haddr⟩
    refine ⟨fun hfirst => ?first, fun k l hlast => ⟨fun hd => ?replay, fun hpos hd => ?next, fun hd => ?stale⟩,
      fun hack => (hexecAck hack).trans hexec.symm⟩
    case first =>
      have hact := tcmReceive_of_accepted hears hm (aliveCheck_of_first hfirst _)
      rw [← htree]
      refine ⟨by rw [hexec, hact, aliveKept], fun hbasic htype => ?report, fun hbasic hack => ?ack⟩
      case report => exact tcmAct_of_statusReport (s := aliveKept s tid (rxAlive m)) hbasic htype
      case ack => rw [hexecAck hack, hact, tcmAct_of_ack (s := aliveKept s tid (rxAlive m)) hbasic hack, aliveKept]
    case replay => rw [hexec, tcmReceive_of_replay hears hm (aliveCheck_of_replay hlast hd)]
    case next => rw [hexec, tcmReceive_of_accepted hears hm (aliveCheck_of_next hlast hpos hd), aliveKept]
    case stale => rw [hexec, tcmReceive_of_stale hears hm (aliveCheck_of_stale hlast hd)]
  case resend =>
    exact ⟨_, congrArg Host.Outcome.next (ackTimeout_of_resend hwait hfew hroom), rfl, rfl, rfl, rfl⟩

/-! ## The host's message buffer (R152) -/

/-- A write of word 10 of CHN_TCM_TX on an island that is up is staged before the message is looked at. -/
theorem tcmTxWrite_of_up (hup : islDown s c = false) (v : Word) : tcmTxWrite s who c v
    = hostTcmTx { s with acc := { s.acc with stage := mset 0 s.acc.stage (reqKey who (Adr.chnTcmTx c 10)) v } } who c := by
  simp [tcmTxWrite, hup]

/-- The 44 bytes of the message that a requester has staged in CHN_TCM_TX. -/
def stagedTcm (s : State) (who : Requester) (c : Nat) : List Byte :=
  (List.range 11).flatMap fun j => bytesBE 4 (mget 0 s.acc.stage (reqKey who (Adr.chnTcmTx c j))).toNat

/-- The staged message as the queue takes it. -/
def stagedMsg (s : State) (who : Requester) (c : Nat) : QMsg :=
  let b := stagedTcm s who c
  let addr := ofBytesBE (b.take 2)
  let typ := ofBytesBE ((b.drop 2).take 1)
  { cls := mtClass typ, addr := addr, typ := typ, ack := ofBytesBE ((b.drop 3).take 1) == 1, body := padBody (b.drop 6),
    peer := txPeer s c addr typ (b.drop 6) }

theorem tcmPush_of_room (hroom : (tcmQueue s c).length < tcmDepth) (q : QMsg) :
    tcmPush s c q = some (setTcmQueue s c (tcmQueue s c ++ [q])) := if_pos hroom

/-- A staged message that passes its checks, with a free place, stands last in the queue. -/
theorem hostTcmTx_of_good
    (howner : isOwner s who c (txFunc (stagedMsg s who c).typ) (c / 4) = true) (haddr : (stagedMsg s who c).addr < 2 ^ 15)
    (hflags : ofBytesBE (((stagedTcm s who c).drop 3).take 1) < 2) (hknown : mtKnown (stagedMsg s who c).typ = true)
    (hdown : mtUpOnly (stagedMsg s who c).typ = false) (hn : isC50 s c = false) (hroom : (tcmQueue s c).length < tcmDepth) :
    hostTcmTx s who c =
      let w := setTcmQueue s c (tcmQueue s c ++ [stagedMsg s who c])
      wrOk (wrReq w who (Adr.chnTcmTxstat c) (BitVec.ofNat 32 (txQueued * 2 ^ 28 + (tcmQueue w c).length))) who
        (Adr.chnTcmTx c 10) := by
  have hfield : ¬ 2 ^ 15 ≤ (stagedMsg s who c).addr := by omega
  have hreserved : ofBytesBE (((stagedTcm s who c).drop 3).take 1) / 2 = 0 := by omega
  simp only [stagedMsg, stagedTcm] at howner hfield hreserved hknown hdown ⊢
  simp only [hostTcmTx, howner, hfield, hreserved, hknown, hdown, hn, tcmPush_of_room hroom, Bool.true_eq_false, if_false,
    decide_false, bne_self_eq_false, Bool.or_false, Bool.not_true, Bool.false_eq_true]

/-! ## PLOAM messages (R126) -/

section
variable {typ serial delta idx : Nat} {w : List Byte}

/-- On a running C50 channel a message of a reserved type is counted in EHDR_ERR. -/
theorem ploamReceive_of_unsupported (hup : islDown s c = false) (hc : isC50 s c = true) (hrun : chnEff s c = chRun)
    (htyp : 3 < typ) : ploamReceive s c tid typ serial delta idx w = pmAddScope s c 0 6 1 := by
  simp [ploamReceive, hup, hc, hrun, htyp]

/-- Serial_Number_ONU in a quiet window, at the basic level. -/
theorem ploamReceive_of_serial (hup : islDown s c = false) (hc : isC50 s c = true) (hrun : chnEff s c = chRun)
    (hbasic : basic s 0 (c / 4) = true) (hquiet : quietSeen s c none = true) :
    ploamReceive s c tid 0 serial delta idx w = arrive s
      { chan := c, delta := delta, serial := serial, caps := 0, nonce := 0, txLevel := 0, traceOk := false } := by
  simp [ploamReceive, hup, hc, hrun, hbasic, hquiet]

/-- Registration, Key_Report and Acknowledge of a terminal of the channel, at the basic level. -/
theorem ploamReceive_of_terminal (hup : islDown s c = false) (hc : isC50 s c = true) (hrun : chnEff s c = chRun)
    (hbasic : basic s 0 (c / 4) = true) (htree : treeOfTid tid = c / 4) (hwave : termW s tid = c % 4) :
    ploamReceive s c tid 1 serial delta idx w = ploamRegistration s tid
      ∧ ploamReceive s c tid 2 serial delta idx w = keyReport s c tid idx w
      ∧ ploamReceive s c tid 3 serial delta idx w = ploamAck s c tid := by
  simp [ploamReceive, hup, hc, hrun, hbasic, htree, hwave]

end

theorem hostMessageBufferAndPloamMessages : Sys2Proof.Rules.HostMessageBufferAndPloamMessages := by
  refine ⟨fun s who c v hup => ?buffer, fun s c tid typ serial delta idx w hdata hup hc hrun => ?ploam⟩
  case buffer =>
    intro u a b addr typ fl
    have hexec : exec (.chnTcmTx who c v) s = .next (hostTcmTx u who c) := congrArg Host.Outcome.next (tcmTxWrite_of_up hup v)
    refine ⟨hexec, fun howner haddr hflags hknown hdown hn hroom => hexec.trans ?_⟩
    exact congrArg Host.Outcome.next (hostTcmTx_of_good howner haddr hflags hknown hdown hn hroom)
  case ploam =>
    have hexec (typ : Nat) : exec (.ploamReceive c tid typ serial delta idx w) s
        = .next (ploamReceive s c tid typ serial delta idx w) := congrArg Host.Outcome.next (dataUp_of_running hdata _)
    simp only [hexec]
    refine ⟨fun htyp => ?unsupported, fun hbasic hquiet => ?serial, fun hbasic htree hwave => ?terminal⟩
    case unsupported => rw [ploamReceive_of_unsupported hup hc hrun htyp]
    case serial => rw [ploamReceive_of_serial hup hc hrun hbasic hquiet]
    case terminal =>
      obtain ⟨hregistration, hreport, hack⟩ := ploamReceive_of_terminal (serial := serial) (delta := delta) (idx := idx) (w := w)
        hup hc hrun hbasic htree hwave
      exact ⟨by rw [hack], by rw [hreport], by rw [hregistration]⟩

end Sys2Proof.Machine

/-- Settles O25: the alive check chooses what becomes of an upstream message, the checks of the host's buffer all pass, and a PLOAM
message acts by its type. -/
theorem terminalMessagesActInBothDirections : Obligations.TerminalMessagesActInBothDirections :=
  ⟨Sys2Proof.Machine.terminalMessagesActByTheirAliveCounter, Sys2Proof.Machine.hostMessageBufferAndPloamMessages⟩
end

section
/-! SUPPORT AND PROOFS. Writes of terminal states (R154) and what each does. -/
namespace Sys2Proof.Machine

variable {s : State} {who : Requester} {tid expect dst det : Nat} {own0 own3 own11 : Bool}

/-! ## The rows of R154 -/

theorem termRow_free (st : Nat) : (termRow st tsFree).1 = true ↔ st = tsAuthWait ∨ st = tsOffline := by
  show (st == tsAuthWait || st == tsOffline) = true ↔ _
  simp

theorem termRow_authWait (st : Nat) : (termRow st tsAuthWait).1 = true ↔ st = tsFree ∨ st = tsOffline := by
  show (st == tsFree || st == tsOffline) = true ↔ _
  simp

theorem termRow_ranging (st : Nat) :
    (termRow st tsRanging).1 = true ↔ st = tsAuthWait ∨ st = tsDisabled ∨ st = tsOffline := by
  show (st == tsAuthWait || st == tsDisabled || st == tsOffline) = true ↔ _
  simp [or_assoc]

theorem termRow_keying (st : Nat) : (termRow st tsKeying).1 = true ↔ st = tsRanging := by
  show (st == tsRanging) = true ↔ _
  simp

theorem termRow_active (st : Nat) : (termRow st tsActive).2.1 = true ↔ st = tsKeying := by
  show (st == tsKeying) = true ↔ _
  simp

/-- A terminal that waits, is in service, lost or in Transit is disabled by the owner of function 0 or of function 11. -/
theorem termRow_disabled {st : Nat} (h : (tsAuthWait ≤ st ∧ st ≤ tsLost) ∨ st = tsTransit) :
    termRow st tsDisabled = (true, false, true) := by
  have hrow : (decide (tsAuthWait ≤ st ∧ st ≤ tsLost) || st == tsTransit) = true := by simpa using h
  calc termRow st tsDisabled
      = (decide (tsAuthWait ≤ st ∧ st ≤ tsLost) || st == tsTransit, false,
          decide (tsAuthWait ≤ st ∧ st ≤ tsLost) || st == tsTransit) := rfl
    _ = _ := by rw [hrow]

theorem termRow_offline (st : Nat) : (termRow st tsOffline).1 = true ↔ tsAuthWait ≤ st ∧ st ≤ tsDisabled := by
  show decide (tsAuthWait ≤ st ∧ st ≤ tsDisabled) = true ↔ _
  simp

/-- Whether a writer owns a function whose owner makes the transition from a state to another. -/
def rowOwned (st dst : Nat) (own0 own3 own11 : Bool) : Bool :=
  ((termRow st dst).1 && own0) || ((termRow st dst).2.1 && own3) || ((termRow st dst).2.2 && own11)

theorem rowOwned_by_0 (hown : own0 = true) {st : Nat} (hrow : (termRow st dst).1 = true) :
    rowOwned st dst own0 own3 own11 = true := by
  simp [rowOwned, hown, hrow]

theorem rowOwned_by_3 (hown : own3 = true) {st : Nat} (hrow : (termRow st dst).2.1 = true) :
    rowOwned st dst own0 own3 own11 = true := by
  simp [rowOwned, hown, hrow]

theorem rowOwned_by_11 (hown : own11 = true) {st : Nat} (hrow : (termRow st dst).2.2 = true) :
    rowOwned st dst own0 own3 own11 = true := by
  simp [rowOwned, hown, hrow]

/-- Who makes a transition owns one of the functions 0, 3 and 11. -/
theorem owner_of_rowOwned {st : Nat} (h : rowOwned st dst own0 own3 own11 = true) : (own0 || own3 || own11) = true := by
  simp only [rowOwned, Bool.or_eq_true, Bool.and_eq_true] at h ⊢
  tauto

/-! ## The transition that a write asks for -/

theorem termAct_of_row (h : rowOwned (termEff s tid) dst own0 own3 own11 = true) (hdst : dst ≠ tsDisabled) :
    termAct s tid dst det own0 own3 own11 = .ok (termGo s tid dst (if dst = tsOffline then 2 else 0)) :=
  (if_pos h).trans (if_neg hdst)

theorem termAct_disabled_of_detail {d : Nat} (h : rowOwned (termEff s tid) tsDisabled own0 own3 own11 = true)
    (hdetail : disableDetail det own0 own11 = .ok d) :
    termAct s tid tsDisabled det own0 own3 own11 = .ok (termGo s tid tsDisabled d) := by
  refine (if_pos h).trans ((if_pos rfl).trans ?_)
  rw [hdetail]

theorem termAct_disabled_of_refused {e : WrStatus} (h : rowOwned (termEff s tid) tsDisabled own0 own3 own11 = true)
    (hdetail : disableDetail det own0 own11 = .error e) : termAct s tid tsDisabled det own0 own3 own11 = .error e := by
  refine (if_pos h).trans ((if_pos rfl).trans ?_)
  rw [hdetail]

theorem termAct_of_no_row (h : rowOwned (termEff s tid) dst own0 own3 own11 = false) :
    termAct s tid dst det own0 own3 own11 = .error .outOfRange :=
  if_neg (by rw [← Bool.not_eq_true] at h; exact h)

/-! ## Writes of TRE_TERM -/

/-- Whether a requester is the owner of function f as the island of a terminal's registers sees it. -/
def ownsTerm (s : State) (who : Requester) (tid f : Nat) : Bool :=
  isOwner s who (islandOf (termAddr tid)) f (treeOfTid tid)

/-- The island of a terminal's registers is up, and the device is not the standby of a pair. -/
def termWritable (s : State) (tid : Nat) : Prop := islDown s (islandOf (termAddr tid)) = false ∧ s.prt.standby = false

/-- The transition that a requester's write asks for. -/
def termAsk (s : State) (who : Requester) (tid dst det : Nat) : Except WrStatus State :=
  termAct s tid dst det (ownsTerm s who tid 0) (ownsTerm s who tid 3) (ownsTerm s who tid 11)

/-- Whether the requester owns a function of the transition's row. -/
def rowAsked (s : State) (who : Requester) (tid dst : Nat) : Bool :=
  rowOwned (termEff s tid) dst (ownsTerm s who tid 0) (ownsTerm s who tid 3) (ownsTerm s who tid 11)

/-- Whether the requester owns one of the functions whose owners write terminal states. -/
def ownsAny (s : State) (who : Requester) (tid : Nat) : Bool :=
  ownsTerm s who tid 0 || ownsTerm s who tid 3 || ownsTerm s who tid 11

theorem termWrite_of_ok (hw : termWritable s tid) (hown : ownsAny s who tid = true) (hepoch : expect = uEpoch s (termAddr tid))
    {t : State} (h : termAsk s who tid dst det = .ok t) : termWrite s who tid expect dst det = wrOk t who (termAddr tid) := by
  obtain ⟨hup, hactive⟩ := hw
  simp only [termAsk, ownsAny, ownsTerm] at h hown
  simp [termWrite, hup, hactive, hown, hepoch, h]

theorem termWrite_of_not_owner (hw : termWritable s tid) (hown : ownsAny s who tid = true)
    (hepoch : expect = uEpoch s (termAddr tid)) (h : termAsk s who tid dst det = .error .notOwner) :
    termWrite s who tid expect dst det = wrNotOwner s who (termAddr tid) (if det = 2 then 11 else 0) (treeOfTid tid) := by
  obtain ⟨hup, hactive⟩ := hw
  simp only [termAsk, ownsAny, ownsTerm] at h hown
  simp [termWrite, hup, hactive, hown, hepoch, h]

theorem termWrite_of_out_of_range (hw : termWritable s tid) (hown : ownsAny s who tid = true)
    (hepoch : expect = uEpoch s (termAddr tid)) (h : termAsk s who tid dst det = .error .outOfRange) :
    termWrite s who tid expect dst det = wrRefuse s who (termAddr tid) .outOfRange := by
  obtain ⟨hup, hactive⟩ := hw
  simp only [termAsk, ownsAny, ownsTerm] at h hown
  simp [termWrite, hup, hactive, hown, hepoch, h]

theorem termWrite_of_stale (hw : termWritable s tid) (hown : ownsAny s who tid = true)
    (hepoch : expect ≠ uEpoch s (termAddr tid)) : termWrite s who tid expect dst det = wrStale s who (termAddr tid) := by
  obtain ⟨hup, hactive⟩ := hw
  simp only [ownsAny, ownsTerm] at hown
  simp [termWrite, hup, hactive, hown, hepoch]

theorem termWrite_of_no_owner (hw : termWritable s tid) (hown : ownsAny s who tid = false) :
    termWrite s who tid expect dst det = wrNotOwner s who (termAddr tid) 0 (treeOfTid tid) := by
  obtain ⟨hup, hactive⟩ := hw
  simp only [ownsAny, ownsTerm] at hown
  simp only [termWrite, hup, hown, Bool.false_eq_true, if_false, Bool.not_false, Bool.true_or, if_true]

/-- A current write of a row's owner makes the transition. -/
theorem termWrite_of_row (hw : termWritable s tid) (hepoch : expect = uEpoch s (termAddr tid))
    (hrow : rowAsked s who tid dst = true) (hdst : dst ≠ tsDisabled) : termWrite s who tid expect dst det
      = wrOk (termGo s tid dst (if dst = tsOffline then 2 else 0)) who (termAddr tid) :=
  termWrite_of_ok hw (owner_of_rowOwned hrow) hepoch (termAct_of_row hrow hdst)

/-- So does one of DISABLED, with the DETAIL that its value asks for. -/
theorem termWrite_disabled_of_row (hw : termWritable s tid) (hepoch : expect = uEpoch s (termAddr tid))
    (hrow : rowAsked s who tid tsDisabled = true) {d : Nat}
    (hdetail : disableDetail det (ownsTerm s who tid 0) (ownsTerm s who tid 11) = .ok d) :
    termWrite s who tid expect tsDisabled det = wrOk (termGo s tid tsDisabled d) who (termAddr tid) :=
  termWrite_of_ok hw (owner_of_rowOwned hrow) hepoch (termAct_disabled_of_detail hrow hdetail)

/-- Each of the commands that write a STATE is a write of that STATE; bits 15:8 count in a write of DISABLED only. -/
theorem exec_of_termWriteOf {i : Instr} (h : termWriteOf who tid expect det dst = some i) :
    exec i s = .next (termWrite s who tid expect dst (if dst = tsDisabled then det else 0)) := by
  unfold termWriteOf at h
  split at h
  case h_8 => exact absurd h (by simp)
  all_goals
    obtain rfl := Option.some.inj h
    rfl

/-! ## DETAIL of a write of DISABLED -/

theorem disableDetail_management (h : own0 = true) : disableDetail 1 own0 own11 = .ok 1 := by
  simp [disableDetail, h]

theorem disableDetail_rogue (h : own11 = true) : disableDetail 2 own0 own11 = .ok 2 := by
  simp [disableDetail, h]

theorem disableDetail_reserved (h : 2 < det) : disableDetail det own0 own11 = .error .outOfRange := by
  have h0 : det ≠ 0 := by omega
  have h1 : det ≠ 1 := by omega
  have h2 : det ≠ 2 := by omega
  simp [disableDetail, h0, h1, h2]

theorem terminalStateIsWrittenByTheRowsOfItsOwners : Sys2Proof.Rules.TerminalStateIsWrittenByTheRowsOfItsOwners := by
  intro s who tid expect det dst i hi a t own row hup hactive
  have hw : termWritable s tid := ⟨hup, hactive⟩
  rw [exec_of_termWriteOf hi]
  refine ⟨fun hown hepoch => ⟨fun hrow hdst => ?accepted, fun hrow hdst => ?disabled, fun hrow => ?refused⟩,
    fun hown hepoch => ?stale, fun hown => ?nobody⟩
  case accepted => exact congrArg Host.Outcome.next (termWrite_of_row hw hepoch hrow hdst)
  case disabled =>
    subst hdst
    rw [if_pos rfl]
    refine ⟨fun hdet => ?unnamed, fun hdet => ?management, fun hdet => ?rogue, fun hdet => ?reserved⟩
    case unnamed =>
      subst hdet
      exact congrArg Host.Outcome.next (termWrite_disabled_of_row hw hepoch hrow rfl)
    case management =>
      subst hdet
      cases h0 : own 0 with
      | true => exact congrArg Host.Outcome.next (termWrite_disabled_of_row hw hepoch hrow (disableDetail_management h0))
      | false =>
        have hdetail : disableDetail 1 (own 0) (own 11) = .error .notOwner := by simp [disableDetail, h0]
        exact congrArg Host.Outcome.next (termWrite_of_not_owner hw hown hepoch (termAct_disabled_of_refused hrow hdetail))
    case rogue =>
      subst hdet
      cases h11 : own 11 with
      | true => exact congrArg Host.Outcome.next (termWrite_disabled_of_row hw hepoch hrow (disableDetail_rogue h11))
      | false =>
        have hdetail : disableDetail 2 (own 0) (own 11) = .error .notOwner := by simp [disableDetail, h11]
        exact congrArg Host.Outcome.next (termWrite_of_not_owner hw hown hepoch (termAct_disabled_of_refused hrow hdetail))
    case reserved =>
      exact congrArg Host.Outcome.next
        (termWrite_of_out_of_range hw hown hepoch (termAct_disabled_of_refused hrow (disableDetail_reserved hdet)))
  case refused => exact congrArg Host.Outcome.next (termWrite_of_out_of_range hw hown hepoch (termAct_of_no_row hrow))
  case stale => exact congrArg Host.Outcome.next (termWrite_of_stale hw hown hepoch)
  case nobody => exact congrArg Host.Outcome.next (termWrite_of_no_owner hw hown)

/-! ## What each transition does -/

theorem termGo_free (s : State) (tid det : Nat) : termGo s tid tsFree det = termMgmt s tid tsFree det := rfl

theorem termGo_authWait (s : State) (tid det : Nat) : termGo s tid tsAuthWait det = termMgmt s tid tsAuthWait det := rfl

/-- A DISABLED terminal is enabled before its registration starts again. -/
theorem termGo_ranging (s : State) (tid det : Nat) : termGo s tid tsRanging det = regStart
    (if termEff s tid = tsDisabled then sendDisable (termMgmt s tid tsRanging det) tid mtEnable else termMgmt s tid tsRanging det)
    tid := rfl

theorem termGo_keying (s : State) (tid det : Nat) :
    termGo s tid tsKeying det = keysStart (termMgmt s tid tsKeying det) tid := rfl

theorem termGo_active (s : State) (tid det : Nat) :
    termGo s tid tsActive det = endStep (termMgmt s tid tsActive det) tid := rfl

/-- A terminal that is disabled gives up its Transit. -/
theorem termGo_disabled (s : State) (tid det : Nat) : termGo s tid tsDisabled det = sendDisable
    (if termEff s tid = tsTransit then trDisabled (termMgmt s tid tsDisabled det) tid else termMgmt s tid tsDisabled det)
    tid mtDisable := rfl

theorem termGo_offline (s : State) (tid det : Nat) :
    termGo s tid tsOffline det = sendDeactivate (termMgmt s tid tsOffline det) tid := rfl

theorem terminalWritesComplete : Sys2Proof.Rules.TerminalWritesComplete := by
  intro s who tid expect a own st hup hactive hepoch
  have hw : termWritable s tid := ⟨hup, hactive⟩
  have hwrite0 (dst : Nat) (h0 : own 0 = true) (hrow : (termRow st dst).1 = true) (hdst : dst ≠ tsDisabled) :
      termWrite s who tid expect dst 0 = wrOk (termGo s tid dst (if dst = tsOffline then 2 else 0)) who a :=
    termWrite_of_row hw hepoch (rowOwned_by_0 h0 hrow) hdst
  have hdisable0 (h0 : own 0 = true) (hst : (tsAuthWait ≤ st ∧ st ≤ tsLost) ∨ st = tsTransit) :
      termWrite s who tid expect tsDisabled 1 = wrOk (termGo s tid tsDisabled 1) who a :=
    termWrite_disabled_of_row hw hepoch (rowOwned_by_0 h0 (by rw [termRow_disabled hst])) (disableDetail_management h0)
  have hserves (hst : st ≤ tsLost) : st ≠ tsTransit := fun h => absurd (h ▸ hst) (by decide)
  refine ⟨fun h0 hst => ?free, fun h0 hst => ?authWait, fun h0 hst => ?ranging, fun h0 hst => ?enabled, fun h0 hst => ?keying,
    fun h3 hst => ?active, fun h0 hlo hhi => ?disabled, fun h11 hlo hhi => ?rogue, fun h0 hst => ?transit,
    fun h0 hlo hhi => ?offline⟩
  case free =>
    have h := hwrite0 tsFree h0 ((termRow_free st).mpr hst) (by decide)
    rw [termGo_free] at h
    exact congrArg Host.Outcome.next h
  case authWait =>
    have h := hwrite0 tsAuthWait h0 ((termRow_authWait st).mpr hst) (by decide)
    rw [termGo_authWait] at h
    exact congrArg Host.Outcome.next h
  case ranging =>
    have h := hwrite0 tsRanging h0 ((termRow_ranging st).mpr (hst.imp_right .inr)) (by decide)
    have hkept : termEff s tid ≠ tsDisabled := by
      rcases hst with h | h <;> rw [show termEff s tid = _ from h] <;> decide
    rw [termGo_ranging, if_neg hkept] at h
    exact congrArg Host.Outcome.next h
  case enabled =>
    have h := hwrite0 tsRanging h0 ((termRow_ranging st).mpr (.inr (.inl hst))) (by decide)
    rw [termGo_ranging, if_pos hst] at h
    exact congrArg Host.Outcome.next h
  case keying =>
    have h := hwrite0 tsKeying h0 ((termRow_keying st).mpr hst) (by decide)
    rw [termGo_keying] at h
    exact congrArg Host.Outcome.next h
  case active =>
    have h : termWrite s who tid expect tsActive 0 = _ :=
      termWrite_of_row hw hepoch (rowOwned_by_3 h3 ((termRow_active st).mpr hst)) (by decide)
    rw [termGo_active] at h
    exact congrArg Host.Outcome.next h
  case disabled =>
    have h := hdisable0 h0 (.inl ⟨hlo, hhi⟩)
    rw [termGo_disabled, if_neg (hserves hhi)] at h
    exact congrArg Host.Outcome.next h
  case rogue =>
    have h : termWrite s who tid expect tsDisabled 2 = _ :=
      termWrite_disabled_of_row hw hepoch (rowOwned_by_11 h11 (by rw [termRow_disabled (.inl ⟨hlo, hhi⟩)])) (disableDetail_rogue h11)
    rw [termGo_disabled, if_neg (hserves hhi)] at h
    exact congrArg Host.Outcome.next h
  case transit =>
    have h := hdisable0 h0 (.inr hst)
    rw [termGo_disabled, if_pos hst] at h
    exact congrArg Host.Outcome.next h
  case offline =>
    have h := hwrite0 tsOffline h0 ((termRow_offline st).mpr ⟨hlo, hhi⟩) (by decide)
    rw [termGo_offline] at h
    exact congrArg Host.Outcome.next h

/-! ## Timers and TRE_TERM_INFO (R154, R156, R164) -/

/-- A commit of TRE_TERM_INFO by the owner of function 0 at the expert level, which leaves the terminal's wavelength, stores the words. -/
theorem termInfoWrite_of_owner {v : Nat} (hup : islDown s (islandOf (infoAddr tid)) = false)
    (howner : isOwner s who (islandOf (infoAddr tid)) 0 (treeOfTid tid) = true)
    (hexpert : ownerAt s (islandOf (infoAddr tid)) 0 (treeOfTid tid) = 1)
    (hwave : termW (wrW s (infoAddr tid) (putNfld v 23 16 0) 4) tid = termW s tid) :
    termInfoWrite s who tid v = wrOk (wrW s (infoAddr tid) (putNfld v 23 16 0) 4) who (infoAddr tid) := by
  simp [termInfoWrite, hup, howner, hexpert, hwave]

theorem terminalTimersAndInformation : Sys2Proof.Rules.TerminalTimersAndInformation := by
  refine ⟨fun s tid => ⟨fun h => ?_, fun h => ?_, fun h => ?_, fun h => ?_⟩, fun s who tid v => ?info⟩
  · exact congrArg Host.Outcome.next (if_pos h)
  · exact congrArg Host.Outcome.next (if_neg h)
  · exact congrArg Host.Outcome.next (if_pos h)
  · exact congrArg Host.Outcome.next (if_neg h)
  case info =>
    intro a hup howner hexpert _ hwave
    exact congrArg Host.Outcome.next (termInfoWrite_of_owner hup howner hexpert hwave)

end Sys2Proof.Machine
end

section
/-! SUPPORT AND PROOFS. The ring commands of terminals: TERM_AUTHORIZE, TERM_STATE and TERM_MSG (R142, R394). -/
namespace Sys2Proof.Machine

variable {s : State} {x : CmdCtx} {r tid : Nat}

/-- A whole command that firmware can take and that is final at once writes its record after its effect. -/
theorem runCmdNow_of_takes {op : Nat} (h : ringTakes s r op) (f : State → CmdCtx → State × OutRec) :
    runCmdNow s r op f
      = cmdPut (f (ringStep s r) (slotCtx s r)).1 (slotCtx s r) (f (ringStep s r) (slotCtx s r)).2 :=
  runCmd_of_takes h _

/-! ## TERM_AUTHORIZE -/

/-- A TERM_AUTHORIZE that names no other slot passes its checks at the basic level: the security module is not in ERROR, the serial waits,
and the partition is the caller's (R142). -/
structure Authorizes (s : State) (x : CmdCtx) (ser part tid : Nat) : Prop where
  moduleUp : rf s Adr.secStatus 31 28 ≠ 2
  waits : serialWaits s ser = some tid
  partInRange : part < 64
  slotInRange : slotOfTid tid < slotLimit s (treeOfTid tid)
  ownSlot : tidOf (treeOfTid tid) (slotOfTid tid) = tid
  caller : x.fn = 0 ∨ part = x.fn - 1
  atBasic : basic s 0 (treeOfTid tid) = true

section
variable {ser part : Nat} (h : Authorizes s x ser part tid) (kek : List Byte)
include h

theorem Authorizes.inRange {dec : Nat} (hdec : dec ≤ 2) :
    ¬ (2 < dec ∨ 63 < part ∨ (x.fn ≠ 0 ∧ part ≠ x.fn - 1) ∨ slotLimit s (treeOfTid tid) ≤ slotOfTid tid
      ∨ (tid ≠ tid ∧ termEff s tid ≠ tsFree)) := by
  obtain ⟨-, -, hpart, hslot, -, hcaller, -⟩ := h
  rintro (h | h | ⟨hfn, hp⟩ | h | ⟨h, -⟩)
  · omega
  · omega
  · exact hcaller.elim hfn hp
  · omega
  · exact h rfl

theorem cmdTermAuthorize_of_reject :
    cmdTermAuthorize s x ser 1 0xFFFF part kek = (termMgmt s tid tsFree 0, doneRec) := by
  have hrange := h.inRange (dec := 1) (by omega)
  obtain ⟨hmodule, hwaits, -, -, htid, -, hbasic⟩ := h
  simp only [cmdTermAuthorize, if_neg hmodule, hwaits, if_true, htid, if_neg hrange, hbasic]

theorem cmdTermAuthorize_of_disable : cmdTermAuthorize s x ser 2 0xFFFF part kek
    = (sendDisable (termMgmt s tid tsDisabled 3) tid mtDisable, doneRec) := by
  have hrange := h.inRange (dec := 2) (by omega)
  obtain ⟨hmodule, hwaits, -, -, htid, -, hbasic⟩ := h
  have hdec : (2 : Nat) ≠ 1 := by decide
  simp only [cmdTermAuthorize, if_neg hmodule, hwaits, if_true, htid, if_neg hrange, if_neg hdec, hbasic]

theorem cmdTermAuthorize_of_accept {key : List Byte} (hktk : mget [] s.keys.ktk part ≠ [])
    (hkey : Config.keyUnwrap (mget [] s.keys.ktk part) kek = some key) : cmdTermAuthorize s x ser 0 0xFFFF part kek
      = (regStart (termMgmt (storeKek (setInfo s tid 34 29 part) tid key) tid tsRanging 0) tid, doneRec) := by
  have hrange := h.inRange (dec := 0) (by omega)
  obtain ⟨hmodule, hwaits, -, -, htid, -, hbasic⟩ := h
  have hsome : (mget [] s.keys.ktk part).isEmpty = false := by simpa using hktk
  have hdec : (0 : Nat) ≠ 1 ∧ (0 : Nat) ≠ 2 := by decide
  simp only [cmdTermAuthorize, if_neg hmodule, hwaits, if_true, htid, if_neg hrange, if_neg hdec.1, if_neg hdec.2, hsome,
    Bool.false_eq_true, if_false, hkey, hbasic]

end

/-! ## TERM_STATE and TERM_MSG -/

/-- A current TERM_STATE of a row of function 0 makes the transition at the basic level, and its record shows the terminal after it. -/
theorem cmdTermState_of_row {dst : Nat} (htid : cmdTidOk s x.fn tid = true) (hbasic : basic s 0 (treeOfTid tid) = true)
    (hepoch : x.expect = uEpoch s (termAddr tid)) (hrow : (termRow (termEff s tid) dst).1 = true) (hdst : dst ≠ tsDisabled) :
    cmdTermState s x tid dst 0 = (let v := termGo s tid dst (if dst = tsOffline then 2 else 0)
      (v, { doneRec with epoch := uEpoch v (termAddr tid), ustate := effState v (termAddr tid) })) := by
  have hact := termAct_of_row (s := s) (det := 0) (own0 := true) (own3 := basic s 3 (treeOfTid tid)) (own11 := basic s 11 (treeOfTid tid))
    (rowOwned_by_0 rfl hrow) hdst
  simp [cmdTermState, htid, hbasic, hepoch, hact]

/-- A TERM_MSG of a type that is sent downstream on an N200 channel queues its message. -/
theorem cmdTermMsg_of_room {typ : Nat} {ack : Bool} {body : List Byte} {v : State} (htid : cmdTidOk s x.fn tid = true)
    (hknown : mtKnown typ = true) (hdown : mtUpOnly typ = false) (hn : isC50 s (termChan s tid) = false)
    (hbasic : basic s (txFunc typ) (treeOfTid tid) = true)
    (hpush : tcmPush s (termChan s tid) (msgTo tid typ ack body) = some v) :
    cmdTermMsg s x tid typ ack body = (v, doneRec) := by
  simp [cmdTermMsg, htid, hknown, hdown, hn, hbasic, hpush]

theorem terminalRingCommandsAreDone : Sys2Proof.Rules.TerminalRingCommandsAreDone := by
  intro s r tid u x
  refine ⟨fun ser part kek htakes hmodule hwaits hpart hslot htid hcaller hbasic => ?authorize,
    fun dst htakes htid hbasic hepoch hrow hdst => ?state, fun typ ack body v htakes htid hknown hdown hn hbasic hpush => ?message⟩
  case authorize =>
    have h : Authorizes u x ser part tid := ⟨hmodule, hwaits, hpart, hslot, htid, hcaller, hbasic⟩
    have hrun (dec : Nat) : exec (.termAuthorize r ser dec 0xFFFF part kek) s
        = .next (cmdPut (cmdTermAuthorize u x ser dec 0xFFFF part kek).1 x (cmdTermAuthorize u x ser dec 0xFFFF part kek).2) :=
      congrArg Host.Outcome.next (runCmdNow_of_takes htakes _)
    exact ⟨by rw [hrun, cmdTermAuthorize_of_reject h], by rw [hrun, cmdTermAuthorize_of_disable h],
      fun m hktk hkey => by rw [hrun, cmdTermAuthorize_of_accept h kek hktk hkey]⟩
  case state =>
    have hrun : exec (.termState r tid dst 0) s
        = .next (cmdPut (cmdTermState u x tid dst 0).1 x (cmdTermState u x tid dst 0).2) :=
      congrArg Host.Outcome.next (runCmdNow_of_takes htakes _)
    rw [hrun, cmdTermState_of_row htid hbasic hepoch hrow hdst]
  case message =>
    have hrun : exec (.termMsg r tid typ ack body) s
        = .next (cmdPut (cmdTermMsg u x tid typ ack body).1 x (cmdTermMsg u x tid typ ack body).2) :=
      congrArg Host.Outcome.next (runCmdNow_of_takes htakes _)
    rw [hrun, cmdTermMsg_of_room htid hknown hdown hn hbasic hpush]

end Sys2Proof.Machine

open Sys2Proof.Machine

/-- Settles O27: a current write of a row's owner is the transition that termGo makes, the timers go by the state they find, and a ring
command that passes its checks writes its record after its effect. -/
theorem terminalStatesFollowTheirOwnersTimersAndCommands : Obligations.TerminalStatesFollowTheirOwnersTimersAndCommands :=
  ⟨terminalStateIsWrittenByTheRowsOfItsOwners, terminalWritesComplete, terminalTimersAndInformation, terminalRingCommandsAreDone⟩
end

section
/-! SUPPORT AND PROOFS. Rogue terminals: writes of TRE_ROGUE_CFG, the baseline, repeated DISABLEs (R159, R162). -/
namespace Sys2Proof.Machine

variable {s : State} {who : Requester} {t : Nat} {v : Word}

/-- The settings that a write of TRE_ROGUE_CFG leaves, cut to their limits and without START and CLEAR (R159). -/
def rogueCfgWord (v : Word) : Word :=
  let x := putFld (putFld (putFld v 29 28 0) 25 24 0) 19 16 0
  putFld (putFld (putFld x 23 20 (max 1 (fld v 23 20))) 15 8 (max 4 (fld v 15 8))) 7 0 (max 8 (fld v 7 0))

/-- A write by the owner of function 11 stores the settings, then clears, then starts. -/
theorem rogueCfgWrite_of_owner (hup : islDown s (islandOf (Adr.treRogueCfg t)) = false)
    (howner : isOwner s who (islandOf (Adr.treRogueCfg t)) 11 t = true) : rogueCfgWrite s who t v =
      let u := wr s (Adr.treRogueCfg t) (rogueCfgWord v)
      let u := if v.toNat.testBit 29 then rogueStop u t rgIdle else u
      wrOk (if v.toNat.testBit 28 then rogueStart u t (fld v 27 26) else u) who (Adr.treRogueCfg t) := by
  simp only [rogueCfgWrite, hup, howner, Bool.false_eq_true, Bool.true_eq_false, if_false]
  rfl

/-- A baseline window before the 32nd is followed by another one. -/
theorem probeEnd_of_baseline_running {n k : Nat} (hphase : (rogueOf s t).phase = .baseline n k) (hn : n < 31) (e : Bool) :
    probeEnd s t e = probeWindow (setPhaseR s t (.baseline (n + 1) (k + b2n e))) t none := by
  have hmore : n + 1 < 32 := by omega
  simp only [probeEnd, hphase, if_pos hmore]

/-- A baseline that ends with fewer than 4 windows of energy ends the localization. -/
theorem probeEnd_of_baseline_quiet {n k : Nat} {e : Bool} (hphase : (rogueOf s t).phase = .baseline n k) (hn : n = 31)
    (hquiet : k + b2n e < 4) : probeEnd s t e = rogueStop s t rgTransient := by
  have hover : ¬ n + 1 < 32 := by omega
  simp only [probeEnd, hphase, if_neg hover, if_pos hquiet]

/-- The DISABLE of a persistent rogue that is a known terminal goes to that terminal. -/
theorem rogueRepeat_of_known {n x : Nat} (hphase : (rogueOf s t).phase = .persist n) (htid : (rogueOf s t).tid = some x) :
    rogueRepeat s t = sendDisable s x mtDisable := by
  simp only [rogueRepeat, hphase, htid]

end Sys2Proof.Machine

open Sys2Proof.Machine

/-- Settles O28: START and CLEAR are the two branches of the owner's write, and a probe window's end and a repeated DISABLE go by the
phase of the tree's localization. -/
theorem rogueLocalizationStartsClearsAndGoesOn : Obligations.RogueLocalizationStartsClearsAndGoesOn := by
  refine ⟨fun s who t v => ?write, fun s t n k e hphase => ⟨fun hn => ?next, fun hn hquiet => ?transient⟩,
    fun s t n x hphase htid => ?repeated⟩
  case write =>
    intro a hup howner x y
    have hwrite := rogueCfgWrite_of_owner (v := v) hup howner
    refine ⟨fun hstart hclear => ?start, fun hclear hstart => ?clear⟩
    all_goals
      simp only [hstart, hclear, Bool.false_eq_true, if_true, if_false] at hwrite
      exact congrArg Host.Outcome.next hwrite
  case next => exact congrArg Host.Outcome.next (probeEnd_of_baseline_running hphase hn e)
  case transient => exact congrArg Host.Outcome.next (probeEnd_of_baseline_quiet hphase hn hquiet)
  case repeated => exact congrArg Host.Outcome.next (rogueRepeat_of_known hphase htid)
end

section
/-! SUPPORT AND PROOFS. Bookings (R186), the input ring's WR_IDX (R191) and writes of constant-rate entries (R96, R99). -/
namespace Sys2Proof.Machine

variable {s : State} {who : Requester} {c i v : Nat} {b : Booking}

/-! ## The check of a booking -/

/-- A code in front of a check leaves the answer OK where its condition does not hold. -/
theorem ite_code_eq_bkOk_iff {p : Prop} [Decidable p] {code rest : Nat} (hcode : code ≠ bkOk) :
    (if p then code else rest) = bkOk ↔ ¬ p ∧ rest = bkOk := by
  split <;> simp [*]

/-- A span is clear of a booking where they lie apart and, for a burst, their openings are 704 grant units apart. -/
theorem Span.not_meets_iff (x : Span) (start len : Nat) : ¬ x.meets start len = true ↔
    (x.start + x.len ≤ start ∨ start + len ≤ x.start)
      ∧ (x.burst = true → x.start + 704 ≤ start ∨ start + 704 ≤ x.start) := by
  cases hburst : x.burst <;> simp [Span.meets, hburst] <;> omega

/-- A booking's identity is good for a message grant of a terminal of the tree and for an invitation. -/
theorem bookId_good_iff : ¬ (b.kind = 0 ∨ b.kind = 3 ∨ (b.kind = 1 ∧ treeOfTid b.id ≠ c / 4)) ↔
    b.kind ≠ 0 ∧ b.kind ≠ 3 ∧ (b.kind = 1 → treeOfTid b.id = c / 4) := by
  tauto

theorem bookLength_good_iff : ¬ ((b.kind = 2 ∧ b.len < regSpan) ∨ 110000 < b.start + b.len) ↔
    (b.kind = 2 → 1841 ≤ b.len) ∧ b.start + b.len ≤ 110000 := by
  unfold regSpan; omega

theorem bookOverlap_free_iff (held : List Booking) :
    (held.any fun x => decide (b.start < x.start + x.len ∧ x.start < b.start + b.len)) = false ↔
      ∀ x, x ∈ held → x.start + x.len ≤ b.start ∨ b.start + b.len ≤ x.start := by
  simp only [List.any_eq_false, decide_eq_true_eq]
  exact forall₂_congr fun x _ => by omega

theorem bookSpacing_good_iff (opens : Nat) (held : List Span) :
    ¬ (b.start < opens ∨ (held.any fun x => x.meets b.start b.len) = true) ↔
      opens ≤ b.start ∧ ∀ x, x ∈ held → (x.start + x.len ≤ b.start ∨ b.start + b.len ≤ x.start)
        ∧ (x.burst = true → x.start + 704 ≤ b.start ∨ b.start + 704 ≤ x.start) := by
  simp only [not_or, Nat.not_lt, List.any_eq_true, not_exists, not_and, Span.not_meets_iff]

theorem bookedGrantsFitTheirCycle : Sys2Proof.Rules.BookedGrantsFitTheirCycle := by
  intro s c b
  simp (disch := decide) only [bookCheck, ite_code_eq_bkOk_iff, bookId_good_iff, bookLength_good_iff, bookOverlap_free_iff,
    bookSpacing_good_iff, Nat.not_lt, Nat.not_le, Bool.not_eq_true, not_and, and_true, and_assoc]

/-! ## SYSREQ -/

/-- The booking that the 128 bits of CHN_GE_SYSREQ ask for (R186). -/
def sysReqBooking (v : Nat) : Booking :=
  { cycle := nfld v 127 80, kind := nfld v 79 78, start := nfld v 77 61, len := nfld v 60 44, tcm := nbit v 43,
    id := if nfld v 79 78 = 2 then nfld v 35 28 else nfld v 42 28 }

/-- A booking that is appended counts among those of its cycle. -/
theorem booksAt_setBooks_append (s : State) (c : Nat) (b : Booking) :
    booksAt (setBooks s c (booksOf s c ++ [b])) c b.cycle = booksAt s c b.cycle ++ [b] := by
  have hbooks : booksOf (setBooks s c (booksOf s c ++ [b])) c = booksOf s c ++ [b] := by
    unfold booksOf setBooks mset
    rw [if_neg (by simp), mget_mput_same]
  simp [booksAt, hbooks]

/-- The owner of function 0 has its booking checked: it stands and is counted, or the reason is shown and counted. -/
theorem sysReq_of_owner (hup : islDown s c = false) (howner : isOwner s who c 0 (c / 4) = true) (v : Nat) :
    sysReq s who c v =
      let r := book s c (sysReqBooking v)
      let u := wrReq r.1 who (Adr.chnGeSysstat c)
        (BitVec.ofNat 32 (r.2 * 2 ^ 28 + (booksAt r.1 c (sysReqBooking v).cycle).length))
      if r.2 = bkOk then wrOk u who (Adr.chnGeSysreq c)
      else wrRefuse (geCount u c 13 1) who (Adr.chnGeSysreq c) .unitRefused := by
  simp only [sysReq, hup, howner, Bool.false_eq_true, Bool.true_eq_false, if_false]
  rfl

theorem book_of_ok (h : bookCheck s c b = bkOk) : book s c b = (setBooks s c (booksOf s c ++ [b]), bkOk) := by
  simp only [book, h, if_true]

theorem book_of_refused (h : bookCheck s c b ≠ bkOk) : book s c b = (s, bookCheck s c b) := by
  simp only [book, if_neg h]

/-! ## WR_IDX -/

/-- The owner of function 1 moves WR_IDX as long as at most 16 records wait. -/
theorem ringWrIdx_of_owner (hup : islDown s c = false) (howner : isOwner s who c 1 (c / 4) = true) (v : Nat) :
    ringWrIdx s who c v =
      if 16 < modSub (v % 32) (rf s (Adr.chnGeRingCtl c) 20 16) 32 then wrRefuse s who (Adr.chnGeRingCtl c) .outOfRange
      else wrOk (wf s (Adr.chnGeRingCtl c) 4 0 v) who (Adr.chnGeRingCtl c) := by
  simp only [ringWrIdx, hup, howner, Bool.false_eq_true, Bool.true_eq_false, if_false]

theorem bookingsAndRingRecordsAreTakenWithinTheirChecks : Sys2Proof.Rules.BookingsAndRingRecordsAreTakenWithinTheirChecks := by
  intro s who c v hup kind b
  refine ⟨fun howner => ⟨fun hok => ?booked, fun hbad => ?refused⟩, fun howner => ?index⟩
  case booked =>
    have hreq := sysReq_of_owner hup howner v
    rw [book_of_ok (b := sysReqBooking v) hok] at hreq
    simp only [if_true, booksAt_setBooks_append, List.length_append, List.length_singleton] at hreq
    refine congrArg Host.Outcome.next (hreq.trans ?_)
    rw [show bkOk * 2 ^ 28 = 0 from rfl, Nat.zero_add]
    rfl
  case refused =>
    have hreq := sysReq_of_owner hup howner v
    rw [book_of_refused (b := sysReqBooking v) hbad] at hreq
    exact congrArg Host.Outcome.next (hreq.trans (if_neg hbad))
  case index =>
    have hwrite := ringWrIdx_of_owner hup howner v
    exact ⟨fun hroom => congrArg Host.Outcome.next (hwrite.trans (if_neg (Nat.not_lt.mpr hroom))),
      fun hfull => congrArg Host.Outcome.next (hwrite.trans (if_pos hfull))⟩

/-! ## Constant-rate entries -/

/-- The owner of function 2 changes an entry whose fields and whose channel's region are within their limits. -/
theorem crsWrite_of_owner (hup : islDown s c = false) (howner : isOwner s who c 2 (c / 4) = true) (i v : Nat) :
    crsWrite s who c i v =
      if (crsFieldsOk c v && decide (crsRegion s c i v 16 ≤ 202752)) = true then
        wrOk { s with line := { s.line with crsPend := mput s.line.crsPend (c * 64 + i) ⟨v, cycleNow s⟩ } } who (Adr.chnCrs c i)
      else wrRefuse s who (Adr.chnCrs c i) .outOfRange := by
  simp only [crsWrite, hup, howner, Bool.false_eq_true, Bool.true_eq_false, if_false]

theorem constantRateEntryIsTakenWithinItsLimits : Sys2Proof.Rules.ConstantRateEntryIsTakenWithinItsLimits := by
  intro s who c i v hup howner
  have hwrite := crsWrite_of_owner hup howner i v
  refine ⟨fun hfields hregion => ?taken, fun hbad => ?refused⟩
  case taken => exact congrArg Host.Outcome.next (hwrite.trans (if_pos (by simp [hfields, hregion])))
  case refused =>
    have hlimits : ¬ (crsFieldsOk c v && decide (crsRegion s c i v 16 ≤ 202752)) = true := by
      simp only [Bool.and_eq_true, decide_eq_true_eq, not_and, Nat.not_le]
      exact fun hfields => hbad.resolve_left (by simp [hfields])
    exact congrArg Host.Outcome.next (hwrite.trans (if_neg hlimits))

end Sys2Proof.Machine

open Sys2Proof.Machine

/-- Settles O29: a booking's check is a chain of codes, each passed where its own condition fails, and each of the three writes is by its
owner's check. -/
theorem bookingsAndConstantRatesAreTakenWithinTheirChecks : Obligations.BookingsAndConstantRatesAreTakenWithinTheirChecks :=
  ⟨bookingsAndRingRecordsAreTakenWithinTheirChecks, bookedGrantsFitTheirCycle, constantRateEntryIsTakenWithinItsLimits⟩
end

section
/-! SUPPORT AND PROOFS. Table ring commands (R167, R200, R209, R308, R394): their items, the entry writes of each, and the assured limit
(R167, R169). -/
namespace Sys2Proof.Machine

variable {s : State} {x : CmdCtx} {r op i v : Nat}

/-! ## Items -/

section
variable {α β : Type} {f : State → α → State × Option Status}

/-- The items of a command may be read from host memory as they are run. -/
theorem runItems_map (f : State → α → State × Option Status) (g : β → α) (l : List β) (n : Nat) (s : State) (o : OutRec) :
    runItems f (l.map g) n s o = runItems (fun s b => f s (g b)) l n s o := by
  induction l generalizing n s o with
  | nil => rfl
  | cons b l ih =>
    simp only [List.map_cons, runItems, ih]

/-- One good item counts in PROGRESS and the command is done. -/
theorem runItems_single_of_good {a : α} {t : State} (h : f s a = (t, none)) :
    runItems f [a] 0 s {} = (t, { state := .done, progress := 1 }) := by
  simp [runItems, h]

/-- One refused item is the first that FIRST names. -/
theorem runItems_single_of_refused {a : α} {t : State} {st : Status} (h : f s a = (t, some st)) :
    runItems f [a] 0 s {} = (t, { state := .partly, first := 0, firstStatus := st.code }) := by
  simp [runItems, h]

/-- Behind a refused item further refusals change nothing. -/
theorem runItems_refused_of_first {o : OutRec} (ho : o.first ≠ 0xFFFFFFFF) (st : Status) (l : List α) (n : Nat) :
    runItems (fun w _ => (w, some st)) l n s o = (s, { o with state := .partly }) := by
  induction l generalizing n with
  | nil => simp [runItems, ho]
  | cons a l ih =>
    rw [runItems]
    simp only [if_neg ho, ih]

/-- Where every item is refused, the first one is named and nothing changes. -/
theorem runItems_refused {l : List α} (hl : l ≠ []) (st : Status) :
    runItems (fun w _ => (w, some st)) l 0 s {} = (s, { state := .partly, first := 0, firstStatus := st.code }) := by
  obtain ⟨a, l, rfl⟩ := List.exists_cons_of_ne_nil hl
  rw [runItems]
  exact runItems_refused_of_first (show (0 : Nat) ≠ 0xFFFFFFFF by decide) st l 1

end

theorem hostItems_of_count_zero (h : x.count = 0) (s : State) (size : Nat) : hostItems s x size = [] := by
  simp [hostItems, h]

theorem hostItems_of_count_one (h : x.count = 1) (s : State) (size : Nat) :
    hostItems s x size = [mbytes 0 s.hostMem x.addr size] := by
  simp [hostItems, h]

/-- The physical function owns every unit. -/
theorem itemsOwn_of_pf (h : x.fn = 0) (s : State) (tids : List Nat) : itemsOwn s x.fn tids = true := by
  simp [itemsOwn, h]

/-- The check in front of a table command's items: its generation, and whose the units are. -/
theorem tableGate_open (hgen : x.gen ≠ 0) (hcaller : x.count = 0 ∨ x.fn = 0) (s : State) (size : Nat) (unitOf : List Byte → Nat) :
    ¬ (x.gen = 0 ∨ itemsOwn s x.fn ((hostItems s x size).map unitOf) = false) := by
  rintro (h | h)
  · exact hgen h
  · rcases hcaller with hcount | hfn
    · simp [hostItems_of_count_zero hcount, itemsOwn] at h
    · simp [itemsOwn_of_pf hfn] at h

/-! ## The four commands over host memory -/

/-- What a table command does: generation 0 is refused, and else, for the physical function or with no item, each item is a write. -/
structure RunsItems (s : State) (x : CmdCtx) (f : State → CmdCtx → State × OutRec) (size : Nat)
    (w : State → CmdCtx → List Byte → State × Option Status) : Prop where
  refused : x.gen = 0 → f s x = (s, refusal .outOfRange)
  runs : x.gen ≠ 0 → x.count = 0 ∨ x.fn = 0 → f s x = runItems (fun s b => w s x b) (hostItems s x size) 0 s {}

theorem tableCmd_runsItems {cmd : Instr} {f : State → CmdCtx → State × OutRec} {size : Nat}
    {w : State → CmdCtx → List Byte → State × Option Status} (h : tableCmd r op = some (cmd, f, size, w)) (s : State) (x : CmdCtx) :
    RunsItems s x f size w := by
  unfold tableCmd at h
  split at h <;> cases h
  case h_1 | h_2 | h_3 =>
    refine ⟨fun hgen => if_pos (.inl hgen), fun hgen hcaller => ?_⟩
    refine (if_neg ?_).trans (runItems_map ..)
    rw [List.map_map]
    exact tableGate_open hgen hcaller s _ _
  case h_4 =>
    refine ⟨fun hgen => if_pos hgen, fun hgen hcaller => (if_neg hgen).trans ((runItems_map ..).trans ?_)⟩
    rcases hcaller with hcount | hfn
    · simp only [hostItems_of_count_zero hcount, runItems]
    · simp only [hfn, if_true]

theorem exec_tableCmd {cmd : Instr} {f : State → CmdCtx → State × OutRec} {size : Nat}
    {w : State → CmdCtx → List Byte → State × Option Status} (h : tableCmd r op = some (cmd, f, size, w)) (s : State) :
    exec cmd s = .next (runCmdNow s r op f) := by
  unfold tableCmd at h
  split at h <;> cases h <;> rfl

section
variable {cmd : Instr} {f : State → CmdCtx → State × OutRec} {size : Nat} {w : State → CmdCtx → List Byte → State × Option Status}
  (hcmd : tableCmd r op = some (cmd, f, size, w)) (htakes : ringTakes s r op)
include hcmd htakes

/-- A table command that firmware takes writes the record of its items after them. -/
theorem exec_tableCmd_of_takes : exec cmd s
    = .next (cmdPut (f (ringStep s r) (slotCtx s r)).1 (slotCtx s r) (f (ringStep s r) (slotCtx s r)).2) :=
  (exec_tableCmd hcmd s).trans (congrArg Host.Outcome.next (runCmdNow_of_takes htakes f))

theorem exec_tableCmd_of_generation_zero (hgen : (slotCtx s r).gen = 0) :
    exec cmd s = .next (cmdPut (ringStep s r) (slotCtx s r) (refusal .outOfRange)) := by
  rw [exec_tableCmd_of_takes hcmd htakes, (tableCmd_runsItems hcmd _ _).refused hgen]

theorem exec_tableCmd_of_no_item (hgen : (slotCtx s r).gen ≠ 0) (hcount : (slotCtx s r).count = 0) :
    exec cmd s = .next (cmdPut (ringStep s r) (slotCtx s r) { state := .done }) := by
  rw [exec_tableCmd_of_takes hcmd htakes, (tableCmd_runsItems hcmd _ _).runs hgen (.inl hcount), hostItems_of_count_zero hcount]
  rfl

section
variable (hgen : (slotCtx s r).gen ≠ 0) (hcount : (slotCtx s r).count = 1) (hfn : (slotCtx s r).fn = 0) {t : State}
include hgen hcount hfn

theorem exec_tableCmd_of_good_item
    (hitem : w (ringStep s r) (slotCtx s r) (mbytes 0 (ringStep s r).hostMem (slotCtx s r).addr size) = (t, none)) :
    exec cmd s = .next (cmdPut t (slotCtx s r) { state := .done, progress := 1 }) := by
  rw [exec_tableCmd_of_takes hcmd htakes, (tableCmd_runsItems hcmd _ _).runs hgen (.inr hfn), hostItems_of_count_one hcount,
    runItems_single_of_good hitem]

theorem exec_tableCmd_of_refused_item {st : Status}
    (hitem : w (ringStep s r) (slotCtx s r) (mbytes 0 (ringStep s r).hostMem (slotCtx s r).addr size) = (t, some st)) :
    exec cmd s = .next (cmdPut t (slotCtx s r) { state := .partly, first := 0, firstStatus := st.code }) := by
  rw [exec_tableCmd_of_takes hcmd htakes, (tableCmd_runsItems hcmd _ _).runs hgen (.inr hfn), hostItems_of_count_one hcount,
    runItems_single_of_refused hitem]

end
end

/-! ## TMPL_APPLY -/

/-- An item of TMPL_APPLY: a terminal's entries written from a template of the running image (R209). -/
def tmplItem (body : List Byte) (gen : Nat) (s : State) (i : Nat × Nat) : State × Option Status :=
  if 2 ^ 15 ≤ i.1 ∨ treeValid s (treeOfTid i.1) = false ∨ slotLimit s (treeOfTid i.1) ≤ slotOfTid i.1
      ∨ tmplCount body ≤ i.2 ∨ tmplValid body i.2 = false then (s, some .outOfRange)
  else if basic s 2 (treeOfTid i.1) then tmplWrite s body i.1 i.2 gen else (s, some .notOwner)

theorem cmdTmplApply_of_generation_zero (hgen : x.gen = 0) (s : State) (items : List (Nat × Nat)) :
    cmdTmplApply s x items = (s, refusal .outOfRange) := if_pos (.inl hgen)

theorem cmdTmplApply_of_generation {items : List (Nat × Nat)} (hgen : x.gen ≠ 0) (hown : itemsOwn s x.fn (items.map (·.1)) = true) :
    cmdTmplApply s x items = runItems (tmplItem s.img.templates x.gen) items 0 s {} :=
  if_neg (by simp [hgen, hown])

theorem exec_tmplApply_of_takes (htakes : ringTakes s r 0x2004) (items : List (Nat × Nat)) : exec (.tmplApply r items) s
    = .next (cmdPut (cmdTmplApply (ringStep s r) (slotCtx s r) items).1 (slotCtx s r)
        (cmdTmplApply (ringStep s r) (slotCtx s r) items).2) :=
  congrArg Host.Outcome.next (runCmdNow_of_takes htakes _)

theorem tableCommandsRunTheirItems : Sys2Proof.Rules.TableCommandsRunTheirItems := by
  refine ⟨fun s r op cmd f size w hcmd htakes => ?overMemory, fun s r items htakes => ?templates, fun s items st hitems => ?refused⟩
  case overMemory =>
    refine ⟨exec_tableCmd_of_generation_zero hcmd htakes, exec_tableCmd_of_no_item hcmd htakes, fun hgen hcount hfn => ⟨fun hgood => ?_,
      fun st hbad => ?_⟩⟩
    · exact exec_tableCmd_of_good_item hcmd htakes hgen hcount hfn (Prod.ext rfl hgood)
    · exact exec_tableCmd_of_refused_item hcmd htakes hgen hcount hfn (Prod.ext rfl hbad)
  case templates =>
    have hrun := exec_tmplApply_of_takes htakes items
    refine ⟨fun hgen => ?_, fun hgen hown => ?_⟩
    · rw [hrun, cmdTmplApply_of_generation_zero hgen]
    · rw [hrun, cmdTmplApply_of_generation hgen hown]
      rfl
  case refused =>
    intro p
    have hp : p = (s, { state := .partly, first := 0, firstStatus := st.code }) := runItems_refused hitems st
    rw [hp]
    exact ⟨rfl, rfl, rfl, rfl, rfl⟩

/-! ## The entry writes -/

/-- An index of a table that the running plan has. -/
theorem index_not_outside {n : Nat} {valid : Bool} (hi : i < n) (hvalid : valid = true) : ¬ (n ≤ i ∨ valid = false) := by
  simp [hi, hvalid]

theorem geAllocWrite_of_admitted (hi : i < 2 ^ 19) (htree : treeValid s (treeOfAid i) = true) (hvalid : aValid v = true)
    (hcheck : geAllocCheck s i v = none) (hn : isC50 s (termChan s (aTid v)) = false) :
    geAllocWrite s i v = (setDyn (wrT s (geAllocAt i) v 8) i (dynWritten s i v), none) := by
  rw [geAllocWrite, if_neg (index_not_outside hi htree)]
  simp [hvalid, hcheck, hn]

theorem dsQueueWrite_of_admitted (hi : i < 2 ^ 20) (htree : treeValid s (treeOfQid i) = true) (hvalid : qValid v = true)
    (hcheck : dsQueueCheck s i v = none) :
    dsQueueWrite s i v = (wrT (restartBuckets s i (queueP (dsQueue s i)) (queueP v)) (dsQueueAt i) v 8, none) := by
  rw [dsQueueWrite, if_neg (index_not_outside hi htree)]
  simp [hvalid, hcheck]

theorem dsTermWrite_of_admitted (hi : i < 2 ^ 15) (htree : treeValid s (treeOfTid i) = true) (hvalid : nbit v 127 = true)
    (hcheck : dsTermCheck v = none) :
    dsTermWrite s i v = (wrT (restartBuckets s (nodeTerm i) (termP (dsTerm s i)) (termP v)) (dsTermAt i) v 4, none) := by
  rw [dsTermWrite, if_neg (index_not_outside hi htree)]
  simp [hvalid, hcheck]

/-- The node that a template gives a terminal, with the command's generation (R209). -/
def tmplNodeEntry (body : List Byte) (k gen : Nat) : Nat := putNfld (putNfld (tmplNode body k) 127 127 1) 37 22 gen

/-- A template of no queue writes the terminal's node only. -/
theorem tmplWrite_of_no_queue {body : List Byte} {k gen : Nat} {t : State} (hcount : tmplQcount body k = 0)
    (hnode : dsTermWrite s i (tmplNodeEntry body k gen) = (t, none)) : tmplWrite s body i k gen = (t, none) := by
  unfold tmplNodeEntry at hnode
  simp [tmplWrite, hnode, hcount]

theorem tmplItem_of_good {body : List Byte} {k gen : Nat} (hi : i < 2 ^ 15) (htree : treeValid s (treeOfTid i) = true)
    (hslot : slotOfTid i < slotLimit s (treeOfTid i)) (hk : k < tmplCount body) (hvalid : tmplValid body k = true)
    (hbasic : basic s 2 (treeOfTid i) = true) : tmplItem body gen s (i, k) = tmplWrite s body i k gen := by
  refine (if_neg ?_).trans (if_pos hbasic)
  simp only [htree, hvalid, Bool.true_eq_false, false_or, or_false, not_or, Nat.not_le]
  exact ⟨hi, hslot, hk⟩

/-! ## The items of each command -/

/-- An item of ALLOC_SET, QUEUE_SET and TERM_NODE_SET: an index, and an entry that takes the command's generation. -/
def allocItem (s : State) (x : CmdCtx) (b : List Byte) : State × Option Status :=
  if basic s 1 (treeOfAid (leAt b 0 8) % 64) then geAllocWrite s (leAt b 0 8) (putNfld (leAt b 8 32) 223 208 x.gen)
  else (s, some .notOwner)
def queueItem (s : State) (x : CmdCtx) (b : List Byte) : State × Option Status :=
  if basic s 2 (treeOfQid (leAt b 0 8) % 64) then dsQueueWrite s (leAt b 0 8) (putNfld (leAt b 8 32) 223 208 x.gen)
  else (s, some .notOwner)
def nodeItem (s : State) (x : CmdCtx) (b : List Byte) : State × Option Status :=
  if basic s 2 (treeOfTid (leAt b 0 8) % 64) then dsTermWrite s (leAt b 0 8) (putNfld (leAt b 8 16) 37 22 x.gen)
  else (s, some .notOwner)
/-- An item of RULE_SET. -/
def ruleItem (s : State) (x : CmdCtx) (b : List Byte) : State × Option Status :=
  tblWrite s .pf tbCls (leAt b 0 8) (tblSetGen tbCls 64 (leAt b 8 64) x.gen)

theorem tableCmd_allocSet (r : Nat) : tableCmd r 0x2001 = some (.allocSet r, cmdAllocSet, 40, allocItem) := rfl
theorem tableCmd_queueSet (r : Nat) : tableCmd r 0x2002 = some (.queueSet r, cmdQueueSet, 40, queueItem) := rfl
theorem tableCmd_termNodeSet (r : Nat) : tableCmd r 0x2003 = some (.termNodeSet r, cmdTermNodeSet, 24, nodeItem) := rfl
theorem tableCmd_ruleSet (r : Nat) : tableCmd r 0x2005 = some (.ruleSet r, cmdRuleSet, 72, ruleItem) := rfl

section
variable {b : List Byte}

theorem allocItem_of_basic (hv : v = putNfld (leAt b 8 32) 223 208 x.gen) (hi : i = leAt b 0 8)
    (hbasic : basic s 1 (treeOfAid i % 64) = true) : allocItem s x b = geAllocWrite s i v := by
  subst hv hi; exact if_pos hbasic

theorem queueItem_of_basic (hv : v = putNfld (leAt b 8 32) 223 208 x.gen) (hi : i = leAt b 0 8)
    (hbasic : basic s 2 (treeOfQid i % 64) = true) : queueItem s x b = dsQueueWrite s i v := by
  subst hv hi; exact if_pos hbasic

theorem nodeItem_of_basic (hv : v = putNfld (leAt b 8 16) 37 22 x.gen) (hi : i = leAt b 0 8)
    (hbasic : basic s 2 (treeOfTid i % 64) = true) : nodeItem s x b = dsTermWrite s i v := by
  subst hv hi; exact if_pos hbasic

theorem ruleItem_eq (hv : v = tblSetGen tbCls 64 (leAt b 8 64) x.gen) (hi : i = leAt b 0 8) :
    ruleItem s x b = tblWrite s .pf tbCls i v := by
  subst hv hi; rfl

end

theorem tableRingCommandsComplete : Sys2Proof.Rules.TableRingCommandsComplete := by
  intro s r u x b hgen hcount hfn
  refine ⟨?alloc, ?queue, ?node, ?rule, ?template⟩
  case alloc =>
    intro i v hv hix htakes hi htree hbasic hvalid hcheck hn
    have hitem := (allocItem_of_basic hv hix hbasic).trans (geAllocWrite_of_admitted hi htree hvalid hcheck hn)
    exact exec_tableCmd_of_good_item (tableCmd_allocSet r) htakes hgen hcount hfn hitem
  case queue =>
    intro i v hv hix htakes hi htree hbasic hvalid hcheck
    have hitem := (queueItem_of_basic hv hix hbasic).trans (dsQueueWrite_of_admitted hi htree hvalid hcheck)
    exact exec_tableCmd_of_good_item (tableCmd_queueSet r) htakes hgen hcount hfn hitem
  case node =>
    intro i v hv hix htakes hi htree hbasic hvalid hcheck
    have hitem := (nodeItem_of_basic hv hix hbasic).trans (dsTermWrite_of_admitted hi htree hvalid hcheck)
    exact exec_tableCmd_of_good_item (tableCmd_termNodeSet r) htakes hgen hcount hfn hitem
  case rule =>
    intro i v st n hv hix htakes hshape hi hmay hgenv hgood
    have hitem := (ruleItem_eq hv hix).trans (tblWrite_of_checked_low (by decide) hshape hi hmay hgenv hgood)
    exact exec_tableCmd_of_good_item (tableCmd_ruleSet r) htakes hgen hcount hfn hitem
  case template =>
    intro tid k htakes hi htree hslot hk hvalid hqueues hbasic v hv hcheck
    have hitem : tmplItem u.img.templates x.gen u (tid, k) = _ :=
      (tmplItem_of_good hi htree hslot hk hvalid hbasic).trans
        (tmplWrite_of_no_queue hqueues (dsTermWrite_of_admitted hi htree hv hcheck))
    rw [exec_tmplApply_of_takes htakes, cmdTmplApply_of_generation hgen (itemsOwn_of_pf hfn ..), runItems_single_of_good hitem]
    rfl

/-! ## The assured limit -/

/-- The units that an entry counts on a channel (R169). -/
def unitsOn (s : State) (c v : Nat) : Nat := if aValid v && decide (c ∈ countChans s (aTid v)) then allocUnits v else 0

/-- Of an allocation that is admitted the fields are in their ranges, and each channel that counts it has room (R167). -/
theorem geAllocCheck_eq_none (h : geAllocCheck s i v = none) :
    aStream v ≤ 30 ∧ aAssured v ≤ aMax v ∧ aPart v = termPart s (aTid v)
      ∧ ∀ c, c ∈ countChans s (aTid v) → unitsOn s c (geAlloc s i) < allocUnits v →
          assuredSum s c - unitsOn s c (geAlloc s i) + allocUnits v ≤ assuredCap s c := by
  unfold geAllocCheck at h
  extract_lets tid old oldUnits at h
  split_ifs at h with hfields hstream hroom
  simp only [Bool.or_eq_true, decide_eq_true_eq, not_or, Nat.not_lt] at hfields
  simp only [List.any_eq_true, Bool.and_eq_true, decide_eq_true_eq, not_exists, not_and, Nat.not_lt] at hroom
  obtain ⟨⟨⟨⟨⟨⟨hlow, -⟩, hpart⟩, hmax⟩, -⟩, -⟩, -⟩ := hfields
  exact ⟨hlow, hmax, not_not.mp hpart, hroom⟩

theorem admittedAllocationsFitTheAssuredLimit : Sys2Proof.Rules.AdmittedAllocationsFitTheAssuredLimit := by
  intro s aid v c hcheck hc
  obtain ⟨hstream, hmax, hpart, hroom⟩ := geAllocCheck_eq_none hcheck
  exact ⟨hstream, hmax, hpart, hroom c hc⟩

end Sys2Proof.Machine

open Sys2Proof.Machine

/-- Settles O49: the four commands over host memory run their items alike, so that one good item is the entry write that its checks let through,
and what the check of an allocation asks is read off its conditions. -/
theorem tableRingCommandsRunTheirItems : Obligations.TableRingCommandsRunTheirItems :=
  ⟨tableCommandsRunTheirItems, tableRingCommandsComplete, admittedAllocationsFitTheAssuredLimit⟩
end

section
/-! SUPPORT AND PROOFS. The grant build (R177, R190 to R195): what it commits, and that the cycle then counts as built. -/
namespace Sys2Proof.Machine

variable {s : State} {c m : Nat}

/-! ## What leaves the grant engine's state -/

theorem KeepsUnits.grant {t : State} (h : KeepsUnits s t) : t.grant = s.grant := by unfold KeepsUnits at h; rw [← h]

@[simp] theorem wrW_grant (s : State) (a v n : Nat) : (wrW s a v n).grant = s.grant := by
  have h := congrArg State.grant (wrW_with_regs s a v n s.regs)
  exact h

@[simp] theorem geCount_grant (s : State) (c code n : Nat) : (geCount s c code n).grant = s.grant := wrW_grant ..

@[simp] theorem pcCount_grant (s : State) (e : PcEv) : (pcCount s e).1.grant = s.grant := by
  unfold pcCount
  split
  · rfl
  · exact List.foldlRecOn (motive := fun p : State × Nat => p.1.grant = s.grant) _ _ rfl fun _ h _ _ => (wrW_grant ..).trans h

/-- Counting an event, with the overflow it may raise, leaves the grant engine. -/
@[simp] theorem pc_grant (s : State) (e : PcEv) : (pc s e).grant = s.grant := by
  have hcount := pcCount_grant s e
  unfold pc
  split
  next t o h =>
  rw [h] at hcount
  split
  · exact hcount
  · exact (pcCount_grant ..).trans ((KeepsUnits.report ..).grant.trans hcount)

@[simp] theorem geEvent_grant (s : State) (c bit : Nat) : (geEvent s c bit).grant = s.grant :=
  (pc_grant ..).trans (KeepsUnits.report ..).grant

/-! ## A committed cycle counts as built -/

/-- Deferring the terminals of a build leaves which cycles are built. -/
theorem defer_built (s : State) (tids : List Nat) :
    (tids.foldl (fun s t => (allocsOf s t).foldl (fun s a =>
      setDyn s a { allocDyn s a with deferrals := satAdd 255 (allocDyn s a).deferrals 1 }) s) s).grant.built = s.grant.built :=
  List.foldlRecOn (motive := fun t : State => t.grant.built = s.grant.built) _ _ rfl fun _ h _ _ =>
    List.foldlRecOn (motive := fun t : State => t.grant.built = s.grant.built) _ _ h fun _ h _ _ => h

@[simp] theorem commitBuild_built (s : State) (c m : Nat) (es : List EphEntry) (gbs : List GBurst) (b : Built) :
    (commitBuild s c m es gbs b).grant.built = mput s.grant.built c (m + 1) := by
  unfold commitBuild
  extract_lets es cold busy idle last g s1 s2 s3 s4 s5 s6 s7
  have h3 : s3.grant.built = mput s.grant.built c (m + 1) := by simp [s3, s2, s1, g]
  have h4 : s4.grant.built = s3.grant.built := defer_built ..
  have h5 : s5.grant = s4.grant := by unfold s5; split <;> simp
  have h6 : s6.grant = s5.grant := by unfold s6; split <;> simp
  have h7 : s7.grant = s6.grant := by unfold s7; split <;> simp
  rw [wrW_grant, h7, h6, h5, h4, h3]

/-- Every commit of cycle m makes it built. -/
theorem mget_built_commitCharged (s : State) (c m : Nat) (parts : List ABld) (es : List EphEntry) (gbs : List GBurst) (b : Built) :
    mget 0 (commitCharged s c m parts es gbs b).grant.built c = m + 1 := by
  rw [commitCharged, commitBuild_built, mget_mput_same]

theorem mget_built_commitBursts (s : State) (c m : Nat) (b : Built) : mget 0 (commitBursts s c m b).grant.built c = m + 1 :=
  mget_built_commitCharged ..

theorem mget_built_buildTemplate (s : State) (c m i : Nat) : mget 0 (buildTemplate s c m i).grant.built c = m + 1 :=
  mget_built_commitBursts ..

theorem mget_built_buildRaw (s : State) (c m i : Nat) : mget 0 (buildRaw s c m i).grant.built c = m + 1 :=
  mget_built_commitCharged ..

/-! ## The builds of a running channel -/

/-- The build by the steps of R178 around the bookings. -/
def buildBySteps (s : State) (c m : Nat) : State :=
  commitBursts s c m (buildSteps s c m (heldSpans s c m) (booksAt s c m).length [])

/-- The build in mode RAW without a record raises RING_EMPTY: the bookings alone, or with the fallback the steps (R195). -/
def buildRingEmpty (s : State) (c m : Nat) : State :=
  let u := geEvent s c 4
  if rb u (Adr.chnGeCfg c) 29 then buildBySteps u c m else commitBursts (rawMsgs u c m [] []) c m {}

/-- The build of cycle m from what the ring gives. -/
def buildFromRing (s : State) (c m : Nat) : Option Nat → State
  | none => if geMode s c = 2 then buildRingEmpty s c m else buildBySteps s c m
  | some i => if geMode s c = 1 then buildTemplate s c m i else buildRaw s c m i

/-- The build of cycle m: nothing in a quiet window, else the engine's bookings and what the ring gives (R177). -/
def buildCycle (s : State) (c m : Nat) : State :=
  if inQuiet s c m then commitCharged (geTake c m 16 s).1 c m [] [] [] {}
  else buildFromRing (geTake c m 16 (engineBooks s c m)).1 c m (geTake c m 16 (engineBooks s c m)).2

theorem mget_built_buildRingEmpty (s : State) (c m : Nat) : mget 0 (buildRingEmpty s c m).grant.built c = m + 1 := by
  unfold buildRingEmpty
  extract_lets u
  split <;> exact mget_built_commitBursts ..

theorem mget_built_buildFromRing (s : State) (c m : Nat) (slot : Option Nat) :
    mget 0 (buildFromRing s c m slot).grant.built c = m + 1 := by
  cases slot with
  | none =>
    rw [buildFromRing]
    split
    · exact mget_built_buildRingEmpty ..
    · exact mget_built_commitBursts ..
  | some i =>
    rw [buildFromRing]
    split
    · exact mget_built_buildTemplate ..
    · exact mget_built_buildRaw ..

/-- Whatever is built, the cycle then counts as built. -/
theorem mget_built_buildCycle (s : State) (c m : Nat) : mget 0 (buildCycle s c m).grant.built c = m + 1 := by
  unfold buildCycle
  split
  · exact mget_built_commitCharged ..
  · exact mget_built_buildFromRing ..

/-- Where the next cycle is built or the channel does not run, nothing is built. -/
theorem grantBuild_of_idle (h : mget 0 s.grant.built c = cycleNow s + 1 + 1 ∨ (chnEff s c ≠ chRun ∧ chnEff s c ≠ chEclipseEntering)) :
    grantBuild s c = s := by
  unfold grantBuild
  extract_lets m st
  rcases h with hbuilt | hstopped
  · exact if_pos (.inl hbuilt)
  · exact if_pos (.inr (.inr (.inl (not_or.mpr hstopped))))

/-- A running N200 channel whose next cycle is not built builds it. -/
theorem grantBuild_of_running (hnew : mget 0 s.grant.built c ≠ cycleNow s + 1 + 1) (hvalid : chanValid s c = true)
    (hrun : chnEff s c = chRun) (hup : islDown s c = false) (hn : isC50 s c = false) :
    grantBuild s c = buildCycle s c (cycleNow s + 1) := by
  simp only [grantBuild, hnew, hvalid, hrun, hup, hn, Bool.true_eq_false, Bool.false_eq_true, true_or, not_true_eq_false,
    or_self, if_false]
  unfold buildCycle
  split
  · rfl
  · cases (geTake c (cycleNow s + 1) 16 (engineBooks s c (cycleNow s + 1))).2 <;> rfl

theorem exec_grantBuild_of_running (h : s.boot.dataStopped = false) (c : Nat) :
    exec (.grantBuild c) s = .next (grantBuild s c) :=
  congrArg Host.Outcome.next (dataUp_of_running h _)

end Sys2Proof.Machine

open Sys2Proof.Machine

/-- Settles O30: the next cycle's build is one commit, chosen by quiet window, ring record and mode, and each commit makes its cycle built. -/
theorem grantBuildMakesTheNextCyclesEphemeris : Obligations.GrantBuildMakesTheNextCyclesEphemeris := by
  intro s c hdata m
  have hexec := exec_grantBuild_of_running hdata c
  refine ⟨fun hrun heclipse => ?stopped, fun hbuilt => ?once, fun hnew hvalid hrun hup hn => ?builds⟩
  case stopped => rw [hexec, grantBuild_of_idle (.inr ⟨hrun, heclipse⟩)]
  case once => rw [hexec, grantBuild_of_idle (.inl hbuilt)]
  case builds =>
    have hbuild : exec (.grantBuild c) s = .next (buildCycle s c m) := by
      rw [hexec, grantBuild_of_running hnew hvalid hrun hup hn]
    refine ⟨fun hquiet => ?quiet, fun hquiet => ?ring, _, hbuild, mget_built_buildCycle s c m⟩
    case quiet => exact hbuild.trans (congrArg Host.Outcome.next (if_pos hquiet))
    case ring =>
      intro w full
      have hring : exec (.grantBuild c) s = .next (buildFromRing w c m (geTake c m 16 (engineBooks s c m)).2) :=
        hbuild.trans (congrArg Host.Outcome.next (if_neg (by simp [hquiet])))
      refine ⟨fun hnone hmode => ?steps, fun hnone hmode => ?empty, fun i hsome => ?record⟩
      case steps => rw [hring, hnone, buildFromRing, if_neg hmode]; rfl
      case empty => rw [hring, hnone, buildFromRing, if_pos hmode]; rfl
      case record => rw [hring, hsome, buildFromRing]
end

section
/-! SUPPORT AND PROOFS. Downstream frames: into their queues (R201, R345, R350), from the queue selected to the line (R204 to R206, R215),
and their charged length (R203). -/
namespace Sys2Proof.Machine

variable {s u : State} {f : Frame} {k h busy c line : Nat}

/-! ## Into the queues -/

/-- With no frame forwarded there is nothing to queue. -/
theorem frameEnqueue_of_no_frame (hout : s.flow.out = []) (busy : Nat) : frameEnqueue s busy = s := by
  simp [frameEnqueue, hout]

/-- The first frame that does not wait for its buffer leaves the forwarded frames for its queues. -/
theorem frameEnqueue_of_ready {i : Nat} {ks : List Nat} (hfind : (s.flow.out.findIdx? fun x => !ctrlWaits s x.1) = some i)
    (hget : s.flow.out[i]? = some (f, ks)) (busy : Nat) : frameEnqueue s busy =
      enqueue { s with flow := { s.flow with out := s.flow.out.eraseIdx i } } { f with cl := egrNow s f.cl } ks busy := by
  simp only [frameEnqueue, hfind, hget]

/-- A buffer always has room for its first holder's name. -/
theorem fitNames_singleton (s : State) (name : Nat) : fitNames s [name] = ([name], s) := rfl

/-- A frame for one queue that admits it takes a buffer in that queue's name and enters the queue. -/
theorem enqueue_of_admitted (hk : k < 2 ^ 20) (hadmit : qAdmit s k f.cl = none) (hkind : f.cl.kind ≠ ClauseKind.tracer.code)
    (hplace : placeFrame s f.cl.kind f.cl.part f.cl.len (colourOf f.cl.dp) (qCellBytes s k) [qHolder k] busy = (some h, u)) :
    enqueue s f [k] busy = qTake u k { f.cl with buf := h, queue := k } f := by
  have hok : ([k].filter fun k => (qAdmit s k f.cl).isNone) = [k] := by simp [hadmit]
  simp only [enqueue, List.foldl_cons, List.foldl_nil, hadmit, hok, if_neg hkind, List.map_cons, List.map_nil, fitNames_singleton,
    List.length_singleton, List.take_succ_cons, List.take_zero, hplace, if_pos hk]

/-! ## From the queues to the line -/

/-- A channel's queues with the heads dropped that can never leave: what a selection on it starts from. -/
def selCleaned (s : State) (c : Nat) : State := qCleanAll s (chanQueues s c)
/-- Where the next frame's place starts, and the instant of the byte now leaving. -/
def selPos (s : State) (c line : Nat) : Nat := linePos (selCleaned s c) c line
def selNow (s : State) (c line : Nat) : Nat := cyclePs (cycleNow (selCleaned s c)) + leavePs (selCleaned s c) c line
/-- The heads marked that fit their gates at that place: the state in which the queue is selected. -/
def selMarked (s : State) (c line : Nat) : State :=
  markFits (selCleaned s c) (chanQueues (selCleaned s c) c) (lineFits (selCleaned s c) c (selPos s c line))

/-- The head frame f of queue q, no tracer, is charged on the path, sent, counted and freed. -/
def sendSelected (m : State) (c pos now q : Nat) (path : List Pick) (f : QFrame) : State :=
  let v := dsQueue m q
  let tag := sendTag m (qTid v)
  let len := chargedWith v f.len tag
  let pl := placeAt (packetArea m c) (areaAfter m c) pos f.len tag
  let x := lineIdle (chargePath (trace m f.cl stSelect qIsland q (qDepth m q)) now len path) c pl.start
  let t := if isN200 x c then sendFrame x c q f pl else sendC50 x c q f pl.start
  let y := qFree (qPop (countSent (advanceLine t c (lineStop x t c pl.stop)) c q f len) q) q f
  trace y f.cl stTransmit c f.cl.egr (cycleNow y)

theorem schedSelect_of_no_area (hidle : sendsCycles s c = false ∨ packetArea s c ≤ line) : schedSelect s c line = s :=
  if_pos (by simpa using hidle)

section
variable (hsends : sendsCycles s c = true) (harea : line < packetArea s c)
include hsends harea

theorem schedSelect_of_line_full (hfull : line + 65536 ≤ selPos s c line) : schedSelect s c line = selCleaned s c := by
  simp only [selPos, selCleaned] at hfull ⊢
  simp [schedSelect, hsends, harea, hfull]

theorem schedSelect_of_none_eligible (hroom : selPos s c line < line + 65536)
    (hsel : selectQueue (selMarked s c line) c (selPos s c line) (selNow s c line) = none) :
    schedSelect s c line = selMarked s c line := by
  simp only [selMarked, selPos, selNow, selCleaned] at hroom hsel ⊢
  simp [schedSelect, hsends, harea, Nat.not_le.mpr hroom, hsel]

theorem schedSelect_of_selected {q : Nat} {path : List Pick} {f : QFrame} (hroom : selPos s c line < line + 65536)
    (hsel : selectQueue (selMarked s c line) c (selPos s c line) (selNow s c line) = some (q, path))
    (hhead : qHead (selMarked s c line) q = some f) (hkind : f.cl.kind ≠ ClauseKind.tracer.code) :
    schedSelect s c line = sendSelected (selMarked s c line) c (selPos s c line) (selNow s c line) q path f := by
  simp only [selMarked, selPos, selNow, selCleaned] at hroom hsel hhead ⊢
  simp only [schedSelect, hsends, Nat.not_le.mpr harea, Nat.not_le.mpr hroom, hsel, hhead, if_neg hkind]
  rfl

end

/-! ## The rules -/

theorem exec_frameEnqueue_of_running (h : s.boot.dataStopped = false) (busy : Nat) :
    exec (.frameEnqueue busy) s = .next (frameEnqueue s busy) :=
  congrArg Host.Outcome.next (dataUp_of_running h _)

theorem exec_schedulerSelect_of_running (h : s.boot.dataStopped = false) (c line : Nat) :
    exec (.schedulerSelect c line) s = .next (schedSelect s c line) :=
  congrArg Host.Outcome.next (dataUp_of_running h _)

theorem framesAreQueuedSelectedAndSent : Sys2Proof.Rules.FramesAreQueuedSelectedAndSent := by
  refine ⟨fun s busy hdata => ⟨fun hout => ?none, fun i f ks hfind hget => ?ready⟩, fun s u f k h busy hk hadmit hkind hplace => ?admitted,
    fun s c line hdata => ⟨fun hidle => ?idle, fun hsends harea => ⟨fun hfull => ?full, fun hroom hsel => ?ineligible,
      fun q path f hroom hsel hhead hkind => ?selected⟩⟩⟩
  case none => rw [exec_frameEnqueue_of_running hdata, frameEnqueue_of_no_frame hout]
  case ready => rw [exec_frameEnqueue_of_running hdata, frameEnqueue_of_ready hfind hget]
  case admitted => exact enqueue_of_admitted hk hadmit hkind hplace
  case idle => rw [exec_schedulerSelect_of_running hdata, schedSelect_of_no_area hidle]
  case full =>
    exact (exec_schedulerSelect_of_running hdata c line).trans
      (congrArg Host.Outcome.next (schedSelect_of_line_full hsends harea hfull))
  case ineligible =>
    exact (exec_schedulerSelect_of_running hdata c line).trans
      (congrArg Host.Outcome.next (schedSelect_of_none_eligible hsends harea hroom hsel))
  case selected =>
    exact (exec_schedulerSelect_of_running hdata c line).trans
      (congrArg Host.Outcome.next (schedSelect_of_selected hsends harea hroom hsel hhead hkind))

theorem chargedLengthAddsHeaderTagAndAdjustment : Sys2Proof.Rules.ChargedLengthAddsHeaderTagAndAdjustment := by
  intro v len tag x
  calc ((chargedWith v len tag : Nat) : Int) = max ((x.toNat : Nat) : Int) ((1 : Nat) : Int) := Nat.cast_max ..
    _ = max 1 x := by rw [Int.toNat_eq_max]; omega

end Sys2Proof.Machine

open Sys2Proof.Machine

/-- Settles O31: a frame takes the branch that its queue's admission and its buffer choose, a selection the one that the line's place and
the queue selected choose, and the natural number charged is the greater of 1 and the signed sum. -/
theorem framesAreQueuedSelectedChargedAndSent : Obligations.FramesAreQueuedSelectedChargedAndSent :=
  ⟨framesAreQueuedSelectedAndSent, chargedLengthAddsHeaderTagAndAdjustment⟩
end

section
/-! SUPPORT AND PROOFS. Transits: requests at the register and by ring command (R228 to R231, R241), the switch and the keys' moves (R234,
R236, R237). -/
namespace Sys2Proof.Machine

variable {s u : State} {who : Requester} {t v tid w x x0 ofs : Nat} {st : Status} {r : TransitRec}

/-! ## The request and its checks -/

/-- A request that passes every check has an ACTIVE terminal, another wavelength in RUN, room among the Transits in flight, and a switch
cycle in its range (R229, R230). -/
theorem trCheck_eq_none (h : trCheck s tid w x ofs = none) :
    termEff s tid = tsActive ∧ w ≠ termW s tid ∧ chnEff s (chanOf (treeOfTid tid) w) = chRun
      ∧ (trTids s (treeOfTid tid)).length < maxInflight s (treeOfTid tid)
      ∧ firstSwitch (cycleNow s) ofs ≤ x ∧ x ≤ cycleNow s + 65536 := by
  unfold trCheck at h
  extract_lets tree src dest n at h
  split_ifs at h with hrange hactive htunable hrun hbusy hassured hlead
  simp only [not_or, Nat.not_lt, Nat.not_le] at hrange hrun hbusy hlead
  obtain ⟨-, hother, -, -, hfar⟩ := hrange
  exact ⟨not_not.mp hactive, hother, not_not.mp hrun.1, hbusy.1, hlead, hfar⟩

/-- The first switch cycle starts 10 ms or more after the request lands (R230). -/
theorem firstSwitch_lead {n : Nat} (h : firstSwitch n ofs ≤ x) : 10000000 + ofs ≤ (x - n) * 15625 := by
  unfold firstSwitch ceilDiv at h
  omega

theorem trRequest_of_accepted (hx : x = if x0 = 0 then firstSwitch (cycleNow s) ofs else x0) (h : trCheck s tid w x ofs = none)
    (tk : Ticket) : trRequest s tid w x0 ofs tk = (trAccept s tid w x tk, x, none) := by
  simp only [trRequest, ← hx, h]

theorem trRequest_of_refused (hx : x = if x0 = 0 then firstSwitch (cycleNow s) ofs else x0) (h : trCheck s tid w x ofs = some st)
    (tk : Ticket) : trRequest s tid w x0 ofs tk = (s, 0, some st) := by
  simp only [trRequest, ← hx, h]

/-- CANCEL early enough brings a terminal that has not switched back to its source (R241). -/
theorem trCancel_of_early (hrec : trRec s tid = some r) (hnormal : r.recover = false) (hphase : trPhase s tid < phSwitched)
    (hearly : 3000000 ≤ leadNs (cycleNow s) ofs r.x) : trCancel s tid ofs = (none, trBack s tid rsCancelled true) := by
  have hnot : ¬ (phSwitched ≤ trPhase s tid ∨ leadNs (cycleNow s) ofs r.x < 3000000) := by omega
  simp only [trCancel, hrec, hnormal, Bool.false_eq_true, if_false, if_neg hnot]

/-! ## Writes of TRE_TRANSIT_REQ -/

/-- The terminal that a value of TRE_TRANSIT_REQ names. -/
def trReqTid (t v : Nat) : Nat := tidOf t (nfld v 67 59)

/-- A write of TRE_TRANSIT_REQ that reaches its operation: the island is up, its writer owns function 5, and the epoch is the terminal's. -/
structure TrReqTaken (s : State) (who : Requester) (t v : Nat) : Prop where
  up : islDown s (islandOf (Adr.treTransitReq t)) = false
  owner : isOwner s who (islandOf (Adr.treTransitReq t)) 5 t = true
  epoch : nfld v 79 72 = uEpoch s (termAddr (trReqTid t v))

section
variable (h : TrReqTaken s who t v)
include h

theorem TrReqTaken.start_accepted (hop : nfld v 71 70 = 0)
    (hreq : trRequest s (trReqTid t v) (nfld v 69 68) (nfld v 127 80) ofs .none = (u, x, none)) :
    trReqWrite s who t v ofs = wrOk (trResult u who t (trReqTid t v) .ok x) who (Adr.treTransitReq t) := by
  obtain ⟨hup, howner, hepoch⟩ := h
  simp only [trReqTid] at hepoch hreq ⊢
  simp [trReqWrite, hup, howner, hepoch, hop, hreq]

theorem TrReqTaken.start_refused (hop : nfld v 71 70 = 0)
    (hreq : trRequest s (trReqTid t v) (nfld v 69 68) (nfld v 127 80) ofs .none = (s, 0, some st)) :
    trReqWrite s who t v ofs = wrRefuse (trResult s who t (trReqTid t v) st 0) who (Adr.treTransitReq t) st.toWr := by
  obtain ⟨hup, howner, hepoch⟩ := h
  simp only [trReqTid] at hepoch hreq ⊢
  simp [trReqWrite, hup, howner, hepoch, hop, hreq]

theorem TrReqTaken.cancelled (hop : nfld v 71 70 = 1) (hcancel : trCancel s (trReqTid t v) ofs = (none, u)) :
    trReqWrite s who t v ofs = wrOk (trResult u who t (trReqTid t v) .ok 0) who (Adr.treTransitReq t) := by
  obtain ⟨hup, howner, hepoch⟩ := h
  simp only [trReqTid] at hepoch hcancel ⊢
  simp [trReqWrite, hup, howner, hepoch, hop, hcancel]

end

theorem exec_transitReqStart (hop : nfld v 71 70 = 0) : exec (.transitReqStart who t v ofs) s = .next (trReqWrite s who t v ofs) :=
  congrArg Host.Outcome.next (if_neg (by omega))

theorem exec_transitReqCancel (hop : nfld v 71 70 = 1) : exec (.transitReqCancel who t v ofs) s = .next (trReqWrite s who t v ofs) :=
  congrArg Host.Outcome.next (if_pos hop)

/-! ## TERM_TRANSIT -/

/-- At the basic level firmware makes the request with the command's ticket; its record is final when the Transit ends (R228, R242). -/
theorem cmdTermTransit_of_accepted {k : CmdCtx} (htid : cmdTidOk s k.fn tid = true) (hbasic : basic s 5 (treeOfTid tid) = true)
    (hepoch : k.expect = uEpoch s (termAddr tid)) (hroom : (tcmQueue s (termChan s tid)).length < tcmDepth)
    (hreq : trRequest s tid w x0 ofs (.cmd k) = (u, x, none)) : cmdTermTransit s k tid w x0 ofs = cmdPut u k {} := by
  simp [cmdTermTransit, htid, hbasic, hepoch, Nat.not_le.mpr hroom, hreq]

theorem transitRequestsAreCheckedAcceptedAndCancelled : Sys2Proof.Rules.TransitRequestsAreCheckedAcceptedAndCancelled := by
  refine ⟨fun s who t v ofs hup howner hepoch => ?register,
    fun s r tid w x0 ofs htakes htid hbasic hepoch hroom hcheck => congrArg Host.Outcome.next ?command,
    fun s tid w x ofs hcheck => ?checks⟩
  case register =>
    have htaken : TrReqTaken s who t v := ⟨hup, howner, hepoch⟩
    refine ⟨fun hop hcheck => ?accepted, fun st hop hcheck => ?refused, fun r hop hrec hnormal hphase hearly => ?cancelled⟩
    case accepted => rw [exec_transitReqStart hop, htaken.start_accepted hop (trRequest_of_accepted rfl hcheck .none)]; rfl
    case refused => rw [exec_transitReqStart hop, htaken.start_refused hop (trRequest_of_refused rfl hcheck .none)]; rfl
    case cancelled =>
      rw [exec_transitReqCancel hop, htaken.cancelled hop (trCancel_of_early hrec hnormal hphase hearly)]; rfl
  case command =>
    rw [runCmd_of_takes htakes,
      cmdTermTransit_of_accepted htid hbasic hepoch hroom (trRequest_of_accepted rfl hcheck (.cmd (slotCtx s r)))]
  case checks =>
    obtain ⟨hactive, hother, hrun, hroom, hlead, hfar⟩ := trCheck_eq_none hcheck
    exact ⟨hactive, hother, hrun, hroom, firstSwitch_lead hlead, hfar⟩

/-! ## The switch and the keys -/

section
variable (hrec : trRec s tid = some r)
include hrec

/-- Before its instant, or not ARMED, a Transit does not switch. -/
theorem trSwitch_of_early (h : trPhase s tid ≠ phArmed ∨ cycleNow s < r.x) : trSwitch s tid = s := by
  simp only [trSwitch, hrec, if_pos h]

/-- The downstream keys that are still to move go by the slots 0 and 1 of the terminal. -/
theorem trDsMove_of_unmoved (hphase : phSwitched ≤ trPhase s tid) (hds : rb s (trAddr tid) 23 = false) :
    trDsMove s tid = wb (moveSlots s (trSrc s tid) (trDest s tid) tid r.bundle [0, 1]) (trAddr tid) 23 true := by
  simp [trDsMove, hrec, hds, Nat.not_lt.mpr hphase]

theorem trDsMove_of_moved (hds : rb s (trAddr tid) 23 = true) : trDsMove s tid = s := by
  simp [trDsMove, hrec, hds]

end

/-- Nothing keeps the upstream keys of a switched Transit from moving: it is no recovery, and they have not moved. -/
theorem not_usMove_waits (hnormal : r.recover = false) (hphase : phSwitched ≤ trPhase s tid) (hus : rb s (trAddr tid) 22 = false) :
    ¬ (r.recover || decide (trPhase s tid < phSwitched) || rb s (trAddr tid) 22) = true := by
  simp [hnormal, hus, hphase]

theorem transitSwitchMovesTheTerminalItsMessagesAndKeys : Sys2Proof.Rules.TransitSwitchMovesTheTerminalItsMessagesAndKeys := by
  intro s tid r hrec src dest
  refine ⟨fun harmed hdue => congrArg Host.Outcome.next ?switched,
    fun hearly => congrArg Host.Outcome.next (trSwitch_of_early hrec hearly),
    fun hphase => ⟨fun hds => congrArg Host.Outcome.next (trDsMove_of_unmoved hrec hphase hds),
      fun hds => congrArg Host.Outcome.next (trDsMove_of_moved hrec hds), fun hnormal hus => congrArg Host.Outcome.next ?upstream⟩⟩
  case switched =>
    have hnow : ¬ (trPhase s tid ≠ phArmed ∨ cycleNow s < r.x) := by omega
    rw [trSwitch, hrec]
    exact if_neg hnow
  case upstream =>
    rw [trUsMove, hrec]
    exact if_neg (not_usMove_waits hnormal hphase hus)

end Sys2Proof.Machine

open Sys2Proof.Machine

/-- Settles O33: a current request is the answer of its checks, of which each is read off a request that passes them, and a Transit whose
record is found switches and moves its keys by its phase and by what has moved. -/
theorem transitsAreCheckedSwitchedAndCancelled : Obligations.TransitsAreCheckedSwitchedAndCancelled :=
  ⟨transitRequestsAreCheckedAcceptedAndCancelled, transitSwitchMovesTheTerminalItsMessagesAndKeys⟩
end

section
/-! SUPPORT AND PROOFS. Eclipse and waking of a channel (R243 to R245), firmware's folding and balancing (R246 to R248). -/
namespace Sys2Proof.Machine

variable {s u : State} {who : Requester} {c t : Nat}

/-! ## Eclipse and waking -/

/-- A unit write by the owner, with the unit's epoch and off the standby, is what its act makes of the value. -/
theorem unitWriteR_of_ok {a f expect : Nat} {act : State → Except WrStatus State} (hup : islDown s (islandOf a) = false)
    (howner : isOwner s who (islandOf a) f t = true) (hmain : s.prt.standby = false) (hepoch : expect = uEpoch s a)
    (hact : act s = .ok u) : unitWriteR s who a f t expect act = wrOk u who a := by
  simp [unitWriteR, hup, howner, hmain, hepoch, hact]

section
variable (hn : isN200 s c = true) (hfree : applyHolds s (c / 4) = false)
include hn hfree

theorem eclipseAct_entering (hrun : chnEff s c = chRun) (hother : otherRuns s c = true) :
    eclipseAct c chEclipseEntering s = .ok (eclipseEntering s c) := by
  simp [eclipseAct, hn, hfree, hrun, hother]

theorem eclipseAct_waking (hecl : chnEff s c = chEclipse) : eclipseAct c chWaking s
    = .ok (showEclipsed (treeFollow (setIsl (unitAccept s (Adr.chnState c) chWaking 0) c islRun) (c / 4)) (c / 4)) := by
  have hcode : chWaking ≠ chEclipseEntering := by decide
  simp [eclipseAct, hn, hfree, hecl, hcode]

end

/-- ms after its wake a channel is in RUN with its access restarted, when no fold waits for it (R245). -/
theorem wakeComplete_of_no_unfold {ms : Nat} (hwake : chnEff s c = chWaking)
    (hu : u = wf (chnChange s c chRun 0) (Adr.chnEclStat c) 15 8 (min ms 255))
    (hfold : foldState (wf u (Adr.chnComaStat c) 31 28 (min 12 (rf u (Adr.treDiscCfg (c / 4)) 19 16))) (c / 4) ≠ 3) :
    wakeComplete s c ms = wf u (Adr.chnComaStat c) 31 28 (min 12 (rf u (Adr.treDiscCfg (c / 4)) 19 16)) := by
  subst hu
  rw [wakeComplete, if_pos hwake]
  exact if_neg fun h => hfold h.1

theorem channelsEnterEclipseAndWake : Sys2Proof.Rules.ChannelsEnterEclipseAndWake := by
  intro s c
  refine ⟨fun who ex hup howner hmain hepoch hn hfree => ⟨fun hrun hother => ?accepted, fun hecl => ?woken⟩,
    fun hentering => ⟨fun hempty => ⟨?enters, ?inTime⟩, fun hfull => ⟨?waits, ?returns⟩⟩,
    fun hwake => ⟨fun hvalid hlost => congrArg Host.Outcome.next ?lost, fun ms hfold => congrArg Host.Outcome.next ?completes⟩,
    fun hnot => ⟨congrArg Host.Outcome.next (if_neg hnot), fun ms => congrArg Host.Outcome.next (if_neg hnot)⟩⟩
  case accepted =>
    exact congrArg Host.Outcome.next (unitWriteR_of_ok hup howner hmain hepoch (eclipseAct_entering hn hfree hrun hother))
  case woken => exact congrArg Host.Outcome.next (unitWriteR_of_ok hup howner hmain hepoch (eclipseAct_waking hn hfree hecl))
  case enters => exact congrArg Host.Outcome.next (if_pos ⟨hentering, hempty⟩)
  case inTime => exact congrArg Host.Outcome.next (if_neg (by simp [hempty]))
  case waits => exact congrArg Host.Outcome.next (if_neg (by simp [hfull]))
  case returns => exact congrArg Host.Outcome.next (if_pos ⟨hentering, hfull⟩)
  case lost => exact (if_pos hwake).trans (chanLost_of_not_lost hvalid hlost 2)
  case completes => exact wakeComplete_of_no_unfold hwake rfl hfold

/-! ## The fold policy -/

/-- Whether the minute of day lies in a tree's fold window. -/
def foldWindow (s : State) (t : Nat) : Bool :=
  inWindow (minuteOfDay s) (nfld (rdW s (Adr.treFoldCfg t) 2) 61 51) (nfld (rdW s (Adr.treFoldCfg t) 2) 50 40)

/-- A fold of the tree to a wavelength begins: the anchor is kept, no terminal has moved yet, and the first fold step is made. -/
def foldBegin (s : State) (t aw : Nat) : State :=
  let u := { s with reg := { s.reg with anchor := mput s.reg.anchor t aw } }
  foldGo (wf (setFold u t 1) (Adr.treFoldStat t) 15 0 0) t

theorem foldMinute_of_expert (h : basic s 5 t = false) (l a : Nat) : foldMinute s t l a = s := if_pos (.inl h)

section
variable {aw l : Nat} (hbasic : basic s 5 t = true) (hbase : baseState s 0 ≠ 0) (hanchor : foldAnchor s t = some aw)
include hbasic hbase hanchor

theorem foldMinute_of_folded_outside (hfold : foldState s t = 2) (hwin : foldWindow s t = false) (a : Nat) :
    foldMinute s t l a = unfold s t aw := by
  simp only [foldWindow] at hwin
  simp [foldMinute, hbasic, hbase, hanchor, hfold, hwin]

theorem foldMinute_of_low_load (hfold : foldState s t = 0) (hwin : foldWindow s t = true)
    (hon : nbit (rdW s (Adr.treFoldCfg t) 2) 63 = true) (hload : l ≤ nfld (rdW s (Adr.treFoldCfg t) 2) 39 33)
    (hfits : foldFits s t aw = true) (hwaves : foldWaves s t ≠ []) (a : Nat) : foldMinute s t l a = foldBegin s t aw := by
  simp only [foldWindow] at hwin
  simp [foldMinute, foldBegin, hbasic, hbase, hanchor, hfold, hwin, hon, hload, hfits, hwaves]

theorem foldMinute_of_unfolded_outside (hfold : foldState s t = 0) (hwin : foldWindow s t = false) (a : Nat) :
    foldMinute s t l a = s := by
  simp only [foldWindow] at hwin
  simp [foldMinute, hbasic, hbase, hanchor, hfold, hwin]

end

/-! ## The balance policy -/

theorem balanceCheck_of_expert (h : basic s 5 t = false) (ls ts : List (Nat × Nat)) : balanceCheck s t ls ts = s := if_pos (.inl h)

/-- Of two running N200 channels further apart than the limit, the busier one's only terminal is asked to move to the other (R247). -/
theorem balanceCheck_of_pair {hi lo : Nat × Nat} {tid : Nat} (hbasic : basic s 5 t = true)
    (hon : nbit (rdW s (Adr.treFoldCfg t) 2) 62 = true) (hfold : foldState s t = 0)
    (hspread : hi.2 > lo.2 + nfld (rdW s (Adr.treFoldCfg t) 2) 25 19)
    (hrun : ∀ p, p ∈ [lo, hi] → p.1 < 4 ∧ chnEff s (chanOf t p.1) = chRun ∧ isN200 s (chanOf t p.1) = true)
    (hw : termW s tid = hi.1) (htree : treeOfTid tid = t) (hactive : termEff s tid = tsActive) (load : Nat) :
    balanceCheck s t [lo, hi] [(tid, load)] = (trRequest s tid lo.1 0 1 .none).1 := by
  have hboth : ([lo, hi].filter fun p => decide (p.1 < 4) && chnEff s (chanOf t p.1) == chRun && isN200 s (chanOf t p.1)) = [lo, hi] :=
    List.filter_eq_self.mpr fun p hp => by simp [hrun p hp]
  have hbusy : lo.2 < hi.2 := by omega
  have hwide : ¬ hi.2 - lo.2 ≤ nfld (rdW s (Adr.treFoldCfg t) 2) 25 19 := by omega
  simp [balanceCheck, hboth, hbasic, hon, hfold, hbusy, Nat.lt_asymm hbusy, hwide, hw, htree, hactive]

theorem foldAndBalancePoliciesAct : Sys2Proof.Rules.FoldAndBalancePoliciesAct := by
  intro s t cfg
  refine ⟨fun hexpert l a ls ts => ⟨congrArg Host.Outcome.next (foldMinute_of_expert hexpert l a),
      congrArg Host.Outcome.next (balanceCheck_of_expert hexpert ls ts)⟩,
    fun aw l a hbasic hbase hanchor => ⟨fun hfold hwin => congrArg Host.Outcome.next ?unfolds,
      fun hfold hwin hon hload hfits hwaves => congrArg Host.Outcome.next ?folds, fun hfold hwin => congrArg Host.Outcome.next ?stays⟩,
    fun hi lo tid load hbasic hon hfold hspread hrun hw htree hactive hcheck => congrArg Host.Outcome.next ?balances⟩
  case unfolds => exact foldMinute_of_folded_outside hbasic hbase hanchor hfold hwin a
  case folds => exact foldMinute_of_low_load hbasic hbase hanchor hfold hwin hon hload hfits hwaves a
  case stays => exact foldMinute_of_unfolded_outside hbasic hbase hanchor hfold hwin a
  case balances =>
    rw [balanceCheck_of_pair hbasic hon hfold hspread hrun hw htree hactive load, trRequest_of_accepted (if_pos rfl).symm hcheck .none]

end Sys2Proof.Machine

open Sys2Proof.Machine

/-- Settles O34: each command of a channel's Eclipse goes by the state that it finds, and the policies by the level, the fold state, the
window and the spread of the loads. -/
theorem channelsEclipseFoldAndBalance : Obligations.ChannelsEclipseFoldAndBalance :=
  ⟨channelsEnterEclipseAndWake, foldAndBalancePoliciesAct⟩
end

section
/-! SUPPORT AND PROOFS. Key slots: installs, erases and activations by the owner (R254, R255, R258, R268), the end of RETIRE cycles
(R261) and a core's failed check (R250). -/
namespace Sys2Proof.Machine

variable {s : State} {who : Requester} {c k : Nat}

/-! ## Installs (R255) -/

/-- CHN_KEY_INSTALL_STAT shows its requester an install's result beside the slot's EPOCH and STATE (R255). -/
def showKeyRes (s : State) (who : Requester) (c k : Nat) (r : KeyRes) : State :=
  wrReq s who (Adr.chnKeyInstallStat c)
    (BitVec.ofNat 32 (r.code * 2 ^ 28 + uEpoch s (keyAddr c k) * 2 ^ 16 + uState s (keyAddr c k) * 2 ^ 8))

/-- An install of a value refused by the checks of R255. -/
def installRefused (s : State) (who : Requester) (c v : Nat) (r : KeyRes) (st : WrStatus) : State :=
  wrRefuse (ciphCount (showKeyRes s who c (nfld v 503 493) r) c 10 1) who (Adr.chnKeyInstall c) st

/-- What the result of R255's checks makes of the install of a value whose key is m. -/
def installEnd (s : State) (who : Requester) (c v : Nat) (m : List Byte) : KeyRes → State
  | .ok =>
    let k := nfld v 503 493
    wrOk (showKeyRes (installKey s c k (nfld v 466 451) (nfld v 490 467) (nbit v 492) m) who c k .ok) who (Adr.chnKeyInstall c)
  | .outOfRange => installRefused s who c v .outOfRange .outOfRange
  | .busy => installRefused s who c v .busy .busy
  | r => installRefused s who c v r .unitRefused

/-- A current install of the owner goes by the result of its checks. -/
theorem exec_keyInstall_of_current {v : Nat} (hup : islDown s c = false) (howner : isOwner s who c 3 (c / 4) = true)
    (hmain : s.prt.standby = false) (hepoch : nfld v 511 504 = uEpoch s (keyAddr c (nfld v 503 493))) {key : Option (List Byte)}
    (hkey : Config.keyUnwrap (chanKek s c (slotTid c (nfld v 503 493))) (bytesBE 40 (nfld v 319 0)) = key) {r : KeyRes}
    (hcheck : installCheck s c (nfld v 503 493) (nfld v 466 451) (nfld v 490 467)
      (!(chanKek s c (slotTid c (nfld v 503 493))).isEmpty) key = r) :
    exec (.keyInstall who c v) s = .next (installEnd s who c v (key.getD []) r) := by
  have hexec : exec (.keyInstall who c v) s = .next (keyInstallWrite s who c v) :=
    congrArg Host.Outcome.next (if_neg (Bool.eq_false_iff.mp hup))
  have htaken : ¬ (isOwner s who c 3 (c / 4) = false ∨ s.prt.standby = true) := by simp [howner, hmain]
  rw [hexec]
  simp only [keyInstallWrite, hup, Bool.false_eq_true, if_false, if_neg htaken, if_neg (not_not.mpr hepoch), hkey, hcheck]
  cases r <;> rfl

/-- LIMIT 0 and generation 0 are out of range whatever the key. -/
theorem installCheck_of_zero {gen lim : Nat} (h : lim = 0 ∨ gen = 0) (held : Bool) (key : Option (List Byte)) :
    installCheck s c k gen lim held key = .outOfRange := if_pos (h.imp_right .inl)

/-! ## Erases and activations (R254, R258, R268) -/

theorem keyStateWrite_empty (h : keyEff s c k ≠ ksEmpty) : keyStateWrite s c k ksEmpty = some (keyErase s c k kdCommand) :=
  if_pos ⟨rfl, h⟩

theorem keyStateWrite_active (hready : keyEff s c k = ksReady) (hds : slotDir k = 0) :
    keyStateWrite s c k ksActive = some (keyActivate s c k) :=
  (if_neg fun h => absurd h.1 (by decide)).trans (if_pos ⟨rfl, hready, hds⟩)

theorem keyStateWrite_active_of_not_ready (h : keyEff s c k ≠ ksReady) : keyStateWrite s c k ksActive = none :=
  (if_neg fun h => absurd h.1 (by decide)).trans (if_neg fun ⟨_, hready, _⟩ => h hready)

section
variable {ex v : Nat} (hup : islDown s (islandOf (keyAddr c k)) = false)
  (howner : isOwner s who (islandOf (keyAddr c k)) 3 (c / 4) = true) (hmain : s.prt.standby = false)
  (hepoch : ex = uEpoch s (keyAddr c k))
include hup howner hmain hepoch

theorem keySlotWrite_of_taken {t : State} (h : keyStateWrite s c k v = some t) :
    keySlotWrite s who c k ex v = wrOk t who (keyAddr c k) := by
  rw [keySlotWrite, unitWrite]
  exact unitWriteR_of_ok hup howner hmain hepoch (by simp only [h])

theorem keySlotWrite_of_refused (h : keyStateWrite s c k v = none) :
    keySlotWrite s who c k ex v = wrRefuse s who (keyAddr c k) .outOfRange := by
  simp [keySlotWrite, unitWrite, unitWriteR, hup, howner, hmain, hepoch, h]

end

theorem keySlotsAreInstalledActivatedAndErased : Sys2Proof.Rules.KeySlotsAreInstalledActivatedAndErased := by
  intro s who c hup howner hmain
  refine ⟨?installs, fun k ex hown hisl hepoch => ⟨fun hused => ?erase, fun hready hds => ?activate, fun hready => ?refuse⟩⟩
  case installs =>
    intro v k gen lim kek stat hepoch
    exact ⟨fun m hkey hcheck => exec_keyInstall_of_current hup howner hmain hepoch hkey hcheck,
      fun hkey hcheck => exec_keyInstall_of_current hup howner hmain hepoch hkey hcheck,
      fun hzero => exec_keyInstall_of_current hup howner hmain hepoch rfl (installCheck_of_zero hzero _ _)⟩
  case erase => exact congrArg Host.Outcome.next (keySlotWrite_of_taken hisl hown hmain hepoch (keyStateWrite_empty hused))
  case activate => exact congrArg Host.Outcome.next (keySlotWrite_of_taken hisl hown hmain hepoch (keyStateWrite_active hready hds))
  case refuse =>
    exact congrArg Host.Outcome.next (keySlotWrite_of_refused hisl hown hmain hepoch (keyStateWrite_active_of_not_ready hready))

/-! ## The end of RETIRE cycles (R261), and cores (R250) -/

theorem keyRetireExpire_of_over (hretiring : keyEff s c k = ksRetiring)
    (hover : mget (cycleNow s) s.keys.retire (keyKey c k) + retireOf s c ≤ cycleNow s) :
    keyRetireExpire s c k = keyErase (ctxFragErr s c k fun _ => true) c k kdRetired := if_pos ⟨hretiring, hover⟩

theorem coreCheck_of_passed (s : State) (c core : Nat) : coreCheck s c core true = s := by simp [coreCheck]

theorem coreCheck_of_failed {core : Nat} (hcore : core < 4) (hin : ¬ core ∈ mget [] s.keys.coresOut c) :
    coreCheck s c core false =
      let out := mget [] s.keys.coresOut c ++ [core]
      let u := keyEvent (ciphCount { s with keys := { s.keys with coresOut := mset [] s.keys.coresOut c out } } c 13 1) c 6
      if out.length = 4 then keyEraseChan u c kdAlarm else u :=
  if_neg (by simp [hcore, hin])

theorem retiringSlotsExpireAndFailedCoresLeave : Sys2Proof.Rules.RetiringSlotsExpireAndFailedCoresLeave :=
  ⟨fun _ _ _ hretiring hover => congrArg Host.Outcome.next (keyRetireExpire_of_over hretiring hover),
    fun s c core => ⟨congrArg Host.Outcome.next (coreCheck_of_passed s c core),
      fun hcore hin => congrArg Host.Outcome.next (coreCheck_of_failed hcore hin)⟩⟩

end Sys2Proof.Machine

open Sys2Proof.Machine

/-- Settles O35: a current install goes by R255's checks, a current write of a slot's state by the state that it finds, a RETIRING slot
by its cycles, and a core's check by its result. -/
theorem keySlotsFollowTheirLifeCycle : Obligations.KeySlotsFollowTheirLifeCycle :=
  ⟨keySlotsAreInstalledActivatedAndErased, retiringSlotsExpireAndFailedCoresLeave⟩
end

section
/-! SUPPORT. What leaves the state of keys: records, injectors and messages of the protection link (R393, R419, R440); and what leaves
the rotations that run: an install and a draw of the DRBG (R255, R282). -/
namespace Sys2Proof.Machine

theorem KeepsUnits.keys {s t : State} (h : KeepsUnits s t) : t.keys = s.keys := by unfold KeepsUnits at h; rw [← h]

@[simp] theorem cmdPut_keys (s : State) (x : CmdCtx) (r : OutRec) : (cmdPut s x r).keys = s.keys := (KeepsUnits.cmdPut s x r).keys

@[simp] theorem wrW_keys (s : State) (a v n : Nat) : (wrW s a v n).keys = s.keys := by
  have h := congrArg State.keys (wrW_with_regs s a v n s.regs)
  exact h

@[simp] theorem ciphCount_keys (s : State) (c code n : Nat) : (ciphCount s c code n).keys = s.keys := wrW_keys ..

@[simp] theorem setKeyFld_keys (s : State) (c k hi lo v : Nat) : (setKeyFld s c k hi lo v).keys = s.keys := wrW_keys ..

@[simp] theorem unitAccept_keys (s : State) (a st det : Nat) : (unitAccept s a st det).keys = s.keys := rfl

/-! ## Injectors and the protection link -/

theorem fiDisarm_keys (s : State) (cfg : Nat) : (fiDisarm s cfg).keys = s.keys := by
  unfold fiDisarm
  split <;> rfl

theorem fiSelect_keys (s : State) (cfg : Nat) : (fiSelect s cfg).2.keys = s.keys := by
  unfold fiSelect
  extract_lets v st
  split
  · rfl
  · split
    · rfl
    · split
      · rfl
      · extract_lets t
        split
        · exact fiDisarm_keys t cfg
        · rfl

theorem fiAct_keys (s : State) (cfg : Nat) (u : FiUnit) : (fiAct s cfg u).2.keys = s.keys := by
  unfold fiAct
  extract_lets v st busySwap held
  split
  next hit sel hsel =>
  have hselected : sel.keys = s.keys := by
    have h := congrArg (fun p => p.2.keys) hsel.symm
    dsimp only at h
    rw [h]
    split
    · exact fiSelect_keys held cfg
    · rfl
  extract_lets hits hold
  split
  next now acted hacted =>
  have hdone : acted.keys = sel.keys := by
    have h := congrArg (fun p => p.2.keys) hacted.symm
    dsimp only at h
    rw [h]
    split
    · rfl
    · split
      case h_2 => split <;> rfl
      all_goals rfl
  exact hdone.trans hselected

theorem fiPass_keys (s : State) (cfg : Nat) (tid : Option Nat) (u : FiUnit) : (fiPass s cfg tid u).2.keys = s.keys := by
  unfold fiPass
  split
  · rfl
  · extract_lets m
    split
    · exact fiAct_keys s cfg u
    · rfl

theorem emitFi_keys (s : State) (cfg : Nat) (tid : Option Nat) (o : Sent) : (emitFi s cfg tid o).keys = s.keys :=
  List.foldlRecOn (motive := fun t : State => t.keys = s.keys) _ _ (fiPass_keys s cfg tid (.out o)) fun t h u _ => by
    cases u <;> exact h

@[simp] theorem plkSend_keys (s : State) (b : PlkBody) : (plkSend s b).keys = s.keys := by
  unfold plkSend
  split
  · rfl
  · exact emitFi_keys ..

@[simp] theorem prtKeySend_keys (s : State) (c k : Nat) : (prtKeySend s c k).keys = s.keys := by
  unfold prtKeySend
  split
  · split
    · exact plkSend_keys ..
    · rfl
  · rfl

/-! ## Messages to terminals, draws and installs -/

@[simp] theorem tcmSend_keys (s : State) (c : Nat) (m : QMsg) : (tcmSend s c m).keys = s.keys := by
  unfold tcmSend tcmPush
  split <;> rfl

theorem foldl_tcmSend_keys {α : Type} (c : Nat) (f : α → QMsg) (l : List α) (s : State) :
    (l.foldl (fun s p => tcmSend s c (f p)) s).keys = s.keys :=
  List.foldlRecOn (motive := fun t : State => t.keys = s.keys) _ _ rfl fun t h p _ => (tcmSend_keys t c (f p)).trans h

@[simp] theorem drbgDraw_rot (s : State) (n : Nat) : (drbgDraw s n).2.keys.rot = s.keys.rot := by
  unfold drbgDraw drbgSeed
  split <;> rfl

/-- Writing an installed key's fields and STATE, its count and the partner's copy leave the keys. -/
theorem readied_keys (s : State) (c k v : Nat) :
    (prtKeySend (ciphCount (unitAccept (setKeyFld s c k 127 32 v) (keyAddr c k) ksReady 0) c 9 1) c k).keys = s.keys := by
  rw [prtKeySend_keys, ciphCount_keys, unitAccept_keys, setKeyFld_keys]

@[simp] theorem installKey_rot (s : State) (c k gen lim : Nat) (tag12 : Bool) (m : List Byte) :
    (installKey s c k gen lim tag12 m).keys.rot = s.keys.rot := by
  unfold installKey
  extract_lets key old ls sh line _ shadowed _ keyed
  have hline : line.keys = s.keys := by unfold line; split <;> rfl
  have hshadowed : shadowed.keys.rot = line.keys.rot := by unfold shadowed; split <;> rfl
  calc _ = keyed.keys.rot := congrArg KeySt.rot (readied_keys keyed ..)
    _ = shadowed.keys.rot := rfl
    _ = s.keys.rot := by rw [hshadowed, hline]

end Sys2Proof.Machine
end

section
/-! SUPPORT AND PROOFS. The key commands of rings: KEY_ROTATE, KEY_ERASE and KEY_CFG (R260, R270). -/
namespace Sys2Proof.Machine

variable {s : State} {x : CmdCtx} {tid dir : Nat}

/-- Putting a key that a map does not list makes it one entry longer. -/
theorem length_mput_of_not_listed {α : Type} {m : SMap α} {a : Nat} (h : (m.any fun p => p.1 == a) = false) (v : α) :
    (mput m a v).length = m.length + 1 := by
  induction m with
  | nil => rfl
  | cons p m ih =>
    obtain ⟨k, x⟩ := p
    simp only [List.any_cons, Bool.or_eq_false_iff, beq_eq_false_iff_ne] at h
    obtain ⟨hk, hm⟩ := h
    rw [mput, if_neg hk.symm]
    split
    · rfl
    · simp only [List.length_cons, ih hm]

/-! ## Firmware's install of a drawn key (R143, R260) -/

/-- The generation that follows those of a slot and of the other index. -/
def nextKeyGen (s : State) (c k : Nat) : Nat := (max (keyGen s c k) (keyGen s c (otherIx k))) % 0xFFFF + 1

section
variable (d : List Byte × State) (c tid dir idx : Nat)

/-- The result of R255's checks for a drawn key in an index of a direction, in the state after the draw. -/
def drawnCheck : KeyRes :=
  let k := slotIx (slotOfTid tid) dir idx
  installCheck d.2 c k (nextKeyGen d.2 c k) 0xFFFFFF (!(chanKek d.2 c tid).isEmpty) (some d.1)

/-- The drawn key installed, its rotation begun and its two KEY_INSTALL parts queued. -/
def drawnInstall (tk : Ticket) : State :=
  let k := slotIx (slotOfTid tid) dir idx
  let y := installKey d.2 c k (nextKeyGen d.2 c k) 0xFFFFFF false d.1
  let y := { y with keys := { y.keys with rot := mput y.keys.rot (tid * 2 + dir) ⟨idx, 2, tk⟩ } }
  [0, 1].foldl (fun y p => tcmSend y c (msgTo tid mtKeyInstall true
    (keyInstallBody dir idx (nextKeyGen d.2 c k) p (Config.keyWrap (chanKek d.2 c tid) d.1)))) y

theorem drawnInstall_rot (tk : Ticket) :
    (drawnInstall d c tid dir idx tk).keys.rot = mput d.2.keys.rot (tid * 2 + dir) ⟨idx, 2, tk⟩ := by
  unfold drawnInstall
  extract_lets k installed _ begun
  calc _ = begun.keys.rot := congrArg KeySt.rot (foldl_tcmSend_keys ..)
    _ = mput installed.keys.rot (tid * 2 + dir) ⟨idx, 2, tk⟩ := rfl
    _ = _ := by rw [show installed.keys.rot = d.2.keys.rot from installKey_rot ..]

end

theorem fwInstall_of_seeded (hdrbg : s.sec.drbg = true) (idx : Nat) (tk : Ticket) : fwInstall s tid dir idx tk =
    if drawnCheck (drawKey s) (termChan s tid) tid dir idx = .ok then drawnInstall (drawKey s) (termChan s tid) tid dir idx tk
    else (drawKey s).2 := by
  rw [fwInstall, if_neg (by simp [hdrbg])]
  obtain ⟨m, t⟩ := drawKey s
  dsimp only
  split
  next hok => exact (if_pos hok).symm
  next hrefused => exact (if_neg hrefused).symm

/-! ## KEY_ROTATE -/

theorem keyDirection_in_range (hnamed : cmdTidOk s x.fn tid = true) (hdir : dir < 2) :
    ¬ (!cmdTidOk s x.fn tid || decide (1 < dir)) = true := by
  simpa [hnamed] using Nat.le_of_lt_succ hdir

/-- A KEY_ROTATE passes its checks: its function may name the terminal, the direction exists, function 3 is at the basic level, the
terminal is ACTIVE and no rotation of the direction runs (R260). -/
structure Rotates (s : State) (x : CmdCtx) (tid dir : Nat) : Prop where
  named : cmdTidOk s x.fn tid = true
  direction : dir < 2
  atBasic : basic s 3 (treeOfTid tid) = true
  active : termEff s tid = tsActive
  idle : (s.keys.rot.any fun p => p.1 == tid * 2 + dir) = false

section
variable (h : Rotates s x tid dir) {v : State} (hv : cmdPut s x {} = v)
include h hv

/-- Such a command is refused when no rotation has begun after it, and else stays open. -/
theorem cmdKeyRotate_of_rotates : cmdKeyRotate s x tid dir =
    let t := keyRotate v tid dir (.cmd x)
    if t.keys.rot.length = s.keys.rot.length then
      cmdPut t x (refusal (if (chanKek s (termChan s tid) tid).isEmpty then .noKek else .outOfRange))
    else t := by
  obtain ⟨hnamed, hdir, hbasic, hactive, hidle⟩ := h
  rw [cmdKeyRotate, if_neg (keyDirection_in_range hnamed hdir), if_neg (by simp [hbasic]), if_neg (not_not.mpr hactive),
    if_neg (Bool.eq_false_iff.mp hidle), hv]

theorem cmdKeyRotate_of_begun (r : KeyRot) {t : State} (ht : keyRotate v tid dir (.cmd x) = t)
    (hrot : t.keys.rot = mput v.keys.rot (tid * 2 + dir) r) : cmdKeyRotate s x tid dir = t := by
  have hlen : t.keys.rot.length = s.keys.rot.length + 1 := by
    rw [hrot, ← hv, cmdPut_keys, length_mput_of_not_listed h.idle]
  rw [cmdKeyRotate_of_rotates h hv, ht]
  exact if_neg (by omega)

theorem cmdKeyRotate_of_not_begun {t : State} (ht : keyRotate v tid dir (.cmd x) = t) (hrot : t.keys.rot = v.keys.rot) :
    cmdKeyRotate s x tid dir =
      cmdPut t x (refusal (if (chanKek s (termChan s tid) tid).isEmpty then .noKek else .outOfRange)) := by
  rw [cmdKeyRotate_of_rotates h hv, ht]
  exact if_pos (by rw [hrot, ← hv, cmdPut_keys])

/-- A rotation on a C50 channel asks the terminal (R125), on another one it installs a drawn key. -/
theorem keyRotate_of_rotates (tk : Ticket) : keyRotate v tid dir tk =
    let i := spareIdx v (termChan v tid) (slotOfTid tid) dir
    if isC50 v (termChan v tid) = true then
      emit { v with keys := { v.keys with rot := mput v.keys.rot (tid * 2 + dir) ⟨i, 1, tk⟩ } } (.ploam (termChan v tid) tid 7 i)
    else fwInstall v tid dir i tk := by
  have hidle := h.idle
  rw [← cmdPut_keys s x {}, hv] at hidle
  rw [keyRotate, if_neg (Bool.eq_false_iff.mp hidle)]

variable {c i : Nat} (hc : termChan v tid = c) (hi : spareIdx v c (slotOfTid tid) dir = i)
include hc hi

/-- On a C50 channel the record stays open while the terminal is asked with a Key_Control message. -/
theorem cmdKeyRotate_of_c50 (hc50 : isC50 v c = true) : cmdKeyRotate s x tid dir =
    emit { v with keys := { v.keys with rot := mput v.keys.rot (tid * 2 + dir) ⟨i, 1, .cmd x⟩ } } (.ploam c tid 7 i) := by
  subst hc hi
  exact cmdKeyRotate_of_begun h hv _ ((keyRotate_of_rotates h hv _).trans (if_pos hc50)) rfl

variable (hn200 : isC50 v c = false) (hdrbg : v.sec.drbg = true)
include hn200 hdrbg

theorem keyRotate_of_n200 : keyRotate v tid dir (.cmd x) =
    if drawnCheck (drawKey v) c tid dir i = .ok then drawnInstall (drawKey v) c tid dir i (.cmd x) else (drawKey v).2 := by
  subst hc hi
  exact ((keyRotate_of_rotates h hv _).trans (if_neg (Bool.eq_false_iff.mp hn200))).trans (fwInstall_of_seeded hdrbg _ _)

theorem cmdKeyRotate_of_installed (hok : drawnCheck (drawKey v) c tid dir i = .ok) :
    cmdKeyRotate s x tid dir = drawnInstall (drawKey v) c tid dir i (.cmd x) := by
  refine cmdKeyRotate_of_begun h hv ⟨i, 2, .cmd x⟩ ((keyRotate_of_n200 h hv hc hi hn200 hdrbg).trans (if_pos hok)) ?_
  rw [drawnInstall_rot, drawKey, drbgDraw_rot]

theorem cmdKeyRotate_of_refused (hrefused : drawnCheck (drawKey v) c tid dir i ≠ .ok) : cmdKeyRotate s x tid dir =
    cmdPut (drawKey v).2 x (refusal (if (chanKek s (termChan s tid) tid).isEmpty then .noKek else .outOfRange)) :=
  cmdKeyRotate_of_not_begun h hv ((keyRotate_of_n200 h hv hc hi hn200 hdrbg).trans (if_neg hrefused)) (drbgDraw_rot v 32)

end

/-! ## KEY_ERASE, KEY_CFG and the expert level -/

section
variable (hnamed : cmdTidOk s x.fn tid = true) (hdir : dir < 2)
include hnamed hdir

theorem cmdKeyRotate_of_expert (hexpert : basic s 3 (treeOfTid tid) = false) :
    cmdKeyRotate s x tid dir = cmdPut s x (refusal .notOwner) := by
  rw [cmdKeyRotate, if_neg (keyDirection_in_range hnamed hdir), if_pos (by simp [hexpert])]

theorem cmdKeyErase_of_expert (hexpert : basic s 3 (treeOfTid tid) = false) :
    cmdKeyErase s x tid dir = (s, refusal .notOwner) := by
  rw [cmdKeyErase, if_neg (keyDirection_in_range hnamed hdir), if_pos (by simp [hexpert])]

theorem cmdKeyErase_of_basic (hbasic : basic s 3 (treeOfTid tid) = true) : cmdKeyErase s x tid dir =
    (keyErase (keyErase s (termChan s tid) (slotIx (slotOfTid tid) dir 0) kdCommand) (termChan s tid)
      (slotIx (slotOfTid tid) dir 1) kdCommand, doneRec) := by
  rw [cmdKeyErase, if_neg (keyDirection_in_range hnamed hdir), if_neg (by simp [hbasic])]
  rfl

end

theorem cmdKeyCfg_of_basic {ch : Nat} (hpf : x.fn = 0) (hch : ch < 256) (hvalid : chanValid s ch = true)
    (hbasic : basic s 3 (ch / 4) = true) (hup : islDown s ch = false) (v : Word) : cmdKeyCfg s x ch v =
      (showBypass (wf (wf (wf s (Adr.chnKeyCfg ch) 31 15 (fld v 31 15)) (Adr.chnKeyCfg ch) 11 8 (fld v 11 8))
        (Adr.chnKeyCfg ch) 14 12 0), doneRec) := by
  have hrange : ¬ (x.fn ≠ 0 ∨ 256 ≤ ch ∨ chanValid s ch = false) := by simp [hpf, hvalid, hch]
  rw [cmdKeyCfg, if_neg hrange, if_neg (by simp [hbasic]), if_neg (by simp [hup])]

/-! ## The commands that firmware takes -/

variable {r : Nat}

theorem exec_keyRotate_of_takes (h : ringTakes s r 0x3001) (tid dir : Nat) :
    exec (.keyRotate r tid dir) s = .next (cmdKeyRotate (ringStep s r) (slotCtx s r) tid dir) :=
  congrArg Host.Outcome.next (runCmd_of_takes h _)

theorem exec_keyErase_of_takes (h : ringTakes s r 0x3002) (tid dir : Nat) : exec (.keyErase r tid dir) s =
    .next (cmdPut (cmdKeyErase (ringStep s r) (slotCtx s r) tid dir).1 (slotCtx s r)
      (cmdKeyErase (ringStep s r) (slotCtx s r) tid dir).2) :=
  congrArg Host.Outcome.next (runCmdNow_of_takes h _)

theorem exec_keyCfg_of_takes (h : ringTakes s r 0x3003) (ch : Nat) (v : Word) : exec (.keyCfg r ch v) s =
    .next (cmdPut (cmdKeyCfg (ringStep s r) (slotCtx s r) ch v).1 (slotCtx s r)
      (cmdKeyCfg (ringStep s r) (slotCtx s r) ch v).2) :=
  congrArg Host.Outcome.next (runCmdNow_of_takes h _)

end Sys2Proof.Machine

open Sys2Proof.Machine

/-- Settles O36: a command that firmware can take passes its checks; a rotation is then begun or refused by its channel and R255's
checks of the drawn key, an erase goes over both slots, and KEY_CFG writes its fields. -/
theorem keyCommandsActAtTheBasicLevel : Obligations.KeyCommandsActAtTheBasicLevel := by
  intro s r u x
  refine ⟨fun tid dir hnamed hdir => ⟨?rotate, fun htakes hbasic => ?erase, fun hexpert => ⟨fun htakes => ?rotateExpert,
    fun htakes => ?eraseExpert⟩⟩, fun ch v htakes hpf hch hvalid hbasic hup => ?cfg⟩
  case rotate =>
    intro htakes hbasic hactive hidle v c i k d gen kek
    have h : Rotates u x tid dir := ⟨hnamed, hdir, hbasic, hactive, hidle⟩
    have hv : cmdPut u x {} = v := rfl
    have hc : termChan v tid = c := rfl
    have hi : spareIdx v c (slotOfTid tid) dir = i := rfl
    rw [exec_keyRotate_of_takes htakes]
    refine ⟨fun hc50 => congrArg Host.Outcome.next ?asks, fun hn hdrbg hok => congrArg Host.Outcome.next ?installs,
      fun hn hdrbg hkek hcheck => congrArg Host.Outcome.next ?refused⟩
    case asks => exact cmdKeyRotate_of_c50 h hv hc hi hc50
    case installs =>
      have hpasses : drawnCheck d c tid dir i = .ok := hok
      rw [cmdKeyRotate_of_installed h hv hc hi hn hdrbg hpasses]
      rfl
    case refused =>
      have hnone : drawnCheck d c tid dir i = .noKek := by rw [drawnCheck, hkek]; exact hcheck
      exact cmdKeyRotate_of_refused h hv hc hi hn hdrbg (by rw [hnone]; decide)
  case erase => rw [exec_keyErase_of_takes htakes, cmdKeyErase_of_basic hnamed hdir hbasic]
  case rotateExpert => rw [exec_keyRotate_of_takes htakes, cmdKeyRotate_of_expert hnamed hdir hexpert]
  case eraseExpert => rw [exec_keyErase_of_takes htakes, cmdKeyErase_of_expert hnamed hdir hexpert]
  case cfg => rw [exec_keyCfg_of_takes htakes, cmdKeyCfg_of_basic hpf hch hvalid hbasic hup]
end

section
/-! SUPPORT. What the security module's services share: their guards (R277, R278, R281), the vault region that a service writes (R286),
the draw of the DRBG (R282), and the command's buffer in host memory. -/
namespace Sys2Proof.Machine

variable {s : State} {x : CmdCtx}

/-! ## Guards -/

section
variable (f : State → State × OutRec)

theorem coService_of_not_ready (h : secReady s = false) : coService x s f = (s, refusal .moduleError) := if_pos (by simp [h])

theorem anyService_of_not_ready (h : secReady s = false) : anyService x s f = (s, refusal .moduleError) := if_pos (by simp [h])

theorem coService_of_other_role (h : secReady s = true) (hrole : sessionOf s x.fn ≠ roleCo) :
    coService x s f = (s, refusal .notAuthorized) := by
  rw [coService, if_neg (by simp [h]), if_pos hrole]

theorem coService_of_officer (h : secReady s = true) (hrole : sessionOf s x.fn = roleCo) : coService x s f = f s := by
  rw [coService, if_neg (by simp [h]), if_neg (not_not_intro hrole)]

theorem anyService_of_no_session (h : secReady s = true) (hrole : sessionOf s x.fn = 0) :
    anyService x s f = (s, refusal .notAuthorized) := by
  rw [anyService, if_neg (by simp [h]), if_pos hrole]

theorem anyService_of_officer (h : secReady s = true) (hrole : sessionOf s x.fn = roleCo) : anyService x s f = f s := by
  rw [anyService, if_neg (by simp [h]), if_neg (by rw [hrole]; decide)]

end

/-- A service that is done in a region that is not busy notes the region's write. -/
theorem vaultService_of_done {g : Nat} {f : State → State × OutRec} {t : State} (hfree : regionBusy s g = false)
    (hdone : f s = (t, doneRec)) : vaultService g s f = (regionWrite t g, doneRec) := by
  rw [vaultService, if_neg (by simp [hfree]), hdone]
  rfl

/-- A service that firmware takes writes its record after its effect. -/
theorem next_secCmd_of_takes {r op : Nat} (h : ringTakes s r op) {f : State → CmdCtx → State × OutRec} {t : State} {o : OutRec}
    (hf : f (ringStep s r) (slotCtx s r) = (t, o)) :
    (.next (secCmd s r op f) : Host.Outcome State Fault Refusal) = .next (cmdPut t (slotCtx s r) o) := by
  rw [secCmd, runCmdNow_of_takes h, hf]

/-! ## Draws of the DRBG (R282) -/

/-- A draw gives the next output and counts it; it may reseed, and nothing else changes. -/
theorem drbgDraw_eq (s : State) (n : Nat) : ∃ seeded reseeds seedAt, drbgDraw s n =
    (Config.drbg s.keys.draws n, { s with
      sec := { s.sec with drbg := seeded, reseeds := reseeds, seedAt := seedAt }
      keys := { s.keys with draws := s.keys.draws + 1 } }) := by
  by_cases h : s.keys.draws < s.sec.seedAt + 2 ^ 20
  · exact ⟨_, _, _, by simp only [drbgDraw, if_pos h]; rfl⟩
  · exact ⟨_, _, _, by simp only [drbgDraw, if_neg h]; rfl⟩

@[simp] theorem drbgDraw_hostMem (s : State) (n : Nat) : (drbgDraw s n).2.hostMem = s.hostMem := by
  obtain ⟨_, _, _, h⟩ := drbgDraw_eq s n
  rw [h]

@[simp] theorem drbgDraw_keys (s : State) (n : Nat) : (drbgDraw s n).2.keys = { s.keys with draws := s.keys.draws + 1 } := by
  obtain ⟨_, _, _, h⟩ := drbgDraw_eq s n
  rw [h]

/-! ## The buffer of a command -/

theorem KeepsUnits.hostMem {t : State} (h : KeepsUnits s t) : t.hostMem = s.hostMem := by unfold KeepsUnits at h; rw [← h]

@[simp] theorem cmdPut_hostMem (s : State) (x : CmdCtx) (o : OutRec) : (cmdPut s x o).hostMem = s.hostMem :=
  (KeepsUnits.cmdPut s x o).hostMem

@[simp] theorem putHost_keys (s : State) (a : Nat) (b : List Byte) : (putHost s a b).keys = s.keys := rfl

/-- Bytes written to a canonical memory read back. -/
theorem mbytes_mputBytes (d : Byte) (bs : List Byte) : ∀ (m : SMap Byte) (a : Nat), mwf (fun _ => d) m = true →
    mbytes d (mputBytes d m a bs) a bs.length = bs := by
  induction bs with
  | nil => intro m a _; rfl
  | cons b bs ih =>
    intro m a hm
    have hfirst : mget d (mputBytes d (mset d m a b) (a + 1) bs) a = b := by
      rw [mget_mputBytes_other _ _ _ _ _ _ (.inl (Nat.lt_succ_self a))]
      exact mget_mset_same (fun _ => d) m a b hm
    rw [mputBytes, List.length_cons, mbytes, hfirst, ih _ _ (mwf_mset (fun _ => d) m a b hm)]

/-- t holds the bytes b from address a of host memory on, and s's bytes everywhere else. -/
def WritesBuffer (s t : State) (a : Nat) (b : List Byte) : Prop :=
  mbytes 0 t.hostMem a b.length = b ∧ ∀ i, i < a ∨ a + b.length ≤ i → mget 0 t.hostMem i = mget 0 s.hostMem i

/-- A service that changes host memory by its bytes alone writes them to the buffer, whatever its record. -/
theorem writesBuffer_cmdPut_putHost {u : State} (hcanon : Canon s) (hsame : u.hostMem = s.hostMem) (o : OutRec) (a : Nat) (b : List Byte) :
    WritesBuffer s (cmdPut (putHost u a b) x o) a b := by
  obtain ⟨-, -, hhost, -, -⟩ := hcanon
  have hmem : (cmdPut (putHost u a b) x o).hostMem = mputBytes 0 s.hostMem a b := by rw [cmdPut_hostMem, ← hsame]; rfl
  unfold WritesBuffer
  rw [hmem]
  exact ⟨mbytes_mputBytes 0 b s.hostMem a hhost, fun i hi => mget_mputBytes_other 0 0 b s.hostMem a i hi⟩

end Sys2Proof.Machine
end

section
/-! SUPPORT AND PROOFS. The services of the security module: those of the Crypto Officer (R286, R289, R290, R292), and those that return
bytes to the command's buffer (R278, R282, R283). -/
namespace Sys2Proof.Machine

variable {s : State} {x : CmdCtx}

/-! ## KTKs (R283) -/

/-- The KTK of partition p that an exchange with a secret and the peer's public key gives (R283). -/
def ktkOf (secret pub : List Byte) (p : Nat) : List Byte :=
  Config.kdf (Config.ecdh secret pub) (labelKtk ++ bytesLE 1 p ++ pub ++ Config.ecdhPublic secret)

/-- The KTK of partition p is replaced. -/
def keepKtk (s : State) (p : Nat) (k : List Byte) : State := { s with keys := { s.keys with ktk := mset [] s.keys.ktk p k } }

@[simp] theorem keepKtk_hostMem (s : State) (p : Nat) (k : List Byte) : (keepKtk s p k).hostMem = s.hostMem := rfl

@[simp] theorem keepKtk_ktk (s : State) (p : Nat) (k : List Byte) : (keepKtk s p k).keys.ktk = mset [] s.keys.ktk p k := rfl

/-! ## The Crypto Officer's services -/

section
variable (hready : secReady s = true) (hrole : sessionOf s x.fn = roleCo)
include hready hrole

theorem coCredSet_of_officer {i : Nat} {h : List Byte} (hi : i < 2) (hlen : h.length = 48) (hfree : regionBusy s vrHashes = false) :
    coCredSet s x i h = (regionWrite (vaultSet s fun v => { v with coCred := mput v.coCred i h }) vrHashes, doneRec) := by
  rw [coCredSet, coService_of_officer _ hready hrole, if_neg (by omega)]
  exact vaultService_of_done hfree rfl

theorem userCredSet_of_officer {p : Nat} {h : List Byte} (hp : p < 64) (hlen : h.length = 32) (hfree : regionBusy s vrUsers = false) :
    userCredSet s x p h = (regionWrite (vaultSet s fun v => { v with userCred := mput v.userCred p h }) vrUsers, doneRec) := by
  rw [userCredSet, coService_of_officer _ hready hrole, if_neg (by omega)]
  exact vaultService_of_done hfree rfl

theorem imgKeySet_of_officer {e m : List Byte} (he : e.length = 48) (hm : m.length = 48) (hfree : regionBusy s vrHashes = false) :
    imgKeySet s x e m = (regionWrite (vaultSet s fun v => { v with ownerEc := [e], ownerMl := [m] }) vrHashes, doneRec) := by
  rw [imgKeySet, coService_of_officer _ hready hrole, if_neg (by omega)]
  exact vaultService_of_done hfree rfl

theorem certSet_of_officer {n : Nat} (hpos : 0 < n) (hmax : n ≤ 6144) (hfree : regionBusy s vrIdentity = false) :
    certSet s x n = (regionWrite (wf (vaultSet s fun v => { v with cert := mbytes 0 s.hostMem x.addr n }) Adr.secStatus 8 8 0)
      vrIdentity, doneRec) := by
  rw [certSet, coService_of_officer _ hready hrole, if_neg (by omega)]
  exact vaultService_of_done hfree rfl

theorem unpair_of_officer (hfree : regionBusy s vrPairing = false) :
    unpair s x = (regionWrite (pairForget s) vrPairing, doneRec) := by
  rw [unpair, coService_of_officer _ hready hrole]
  exact vaultService_of_done hfree rfl

/-- A pairing that starts opens its record, draws its secret and waits for the partner (R290). -/
theorem pairProvision_of_start {h : List Byte} (hlen : h.length = 48) (hpair : s.sec.vault.pair = none) (hprov : s.sec.prov = none)
    (hfree : regionBusy s vrPairing = false) : pairProvision s x h none =
      (let d := drbgDraw (cmdPut s x {}) 48
       secSet d.2 fun y => { y with prov := some ⟨.cmd x, h, d.1⟩ }) := by
  have hidle : ¬ (s.sec.vault.pair ≠ none ∨ s.sec.prov ≠ none ∨ regionBusy s vrPairing = true) := by simp [hpair, hprov, hfree]
  rw [pairProvision, coService_of_officer _ hready hrole, if_neg (not_not_intro hlen), if_neg hidle]
  rfl

/-- With every key slot EMPTY and no KTK held the fault-injection lock opens (R292). -/
theorem fiUnlock_of_no_keys (hktk : s.keys.ktk = []) (hempty : ∀ ch, ch < 256 → ∀ k, k ∈ keySlots s ch → keyEff s ch k = ksEmpty) :
    fiUnlock s x = (secUpd (wb (wb s Adr.secApproved 5 true) Adr.secApproved 4 true), doneRec) := by
  have hnone : ¬ (s.keys.ktk ≠ []
      ∨ ((List.range 256).any fun ch => (keySlots s ch).any fun k => keyEff s ch k != ksEmpty) = true) := by
    simpa [hktk] using hempty
  rw [fiUnlock, coService_of_officer _ hready hrole, if_neg hnone]

theorem fiLock_of_officer : fiLock s x = (fiRelock (fiDisarmAll s), doneRec) := coService_of_officer _ hready hrole

/-! ## The services that return bytes -/

theorem random_of_officer {n : Nat} (hmin : 16 ≤ n) (hmax : n ≤ 4096) :
    random s x n = (putHost (drbgDraw s n).2 x.addr (drbgDraw s n).1, doneRec) := by
  rw [random, anyService_of_officer _ hready hrole, if_neg (by omega)]

theorem attest_of_officer (nonce : List Byte) : attest s x nonce = (putHost s x.addr (signed2 s nonce), doneRec) :=
  anyService_of_officer _ hready hrole

theorem ktkEstablish_of_officer {p : Nat} (hp : p < 64) (pub : List Byte) : ktkEstablish s x p pub =
    (putHost (keepKtk (drbgDraw s 48).2 p (ktkOf (drbgDraw s 48).1 pub p)) x.addr
      (Config.ecdhPublic (drbgDraw s 48).1 ++ signed2 s (Config.ecdhPublic (drbgDraw s 48).1)), doneRec) := by
  have hnotUser : ¬ (sessionOf s x.fn = roleUser ∧ userPart x.fn ≠ p) := fun h => absurd (hrole.symm.trans h.1) (by decide)
  rw [ktkEstablish, anyService_of_officer _ hready hrole, if_neg (by omega), if_neg hnotUser]
  obtain ⟨_, _, _, hdraw⟩ := drbgDraw_eq s 48
  rw [hdraw]
  rfl

end

/-- A provisioning under way that times out ends NOT_DONE, with a STATUS that no rule gives (R290). -/
theorem pairTimeout_of_prov {p : PairProv} (h : s.sec.prov = some p) : pairTimeout s =
    ticketPut (nextFree (secSet s fun y => { y with prov := none })) p.ticket { state := .notDone, status := freeVal s % 256 } := by
  rw [pairTimeout, h]

/-! ## The rules -/

theorem cryptoOfficerServicesWriteTheirRegions : Sys2Proof.Rules.CryptoOfficerServicesWriteTheirRegions := by
  intro s r u x hready
  refine ⟨fun hrole => ?officer, fun hnone => ?noSession, fun p hprov => ?timeout⟩
  case officer =>
    exact ⟨fun i h htakes hi hlen hfree => next_secCmd_of_takes htakes (coCredSet_of_officer hready hrole hi hlen hfree),
      fun p h htakes hp hlen hfree => next_secCmd_of_takes htakes (userCredSet_of_officer hready hrole hp hlen hfree),
      fun e m htakes he hm hfree => next_secCmd_of_takes htakes (imgKeySet_of_officer hready hrole he hm hfree),
      fun n htakes hpos hmax hfree => next_secCmd_of_takes htakes (certSet_of_officer hready hrole hpos hmax hfree),
      fun htakes hfree => next_secCmd_of_takes htakes (unpair_of_officer hready hrole hfree),
      fun h htakes hlen hpair hprov hfree => congrArg Host.Outcome.next
        ((runCmd_of_takes htakes _).trans (pairProvision_of_start hready hrole hlen hpair hprov hfree)),
      fun htakes hktk hempty => next_secCmd_of_takes htakes (fiUnlock_of_no_keys hready hrole hktk hempty),
      fun htakes => next_secCmd_of_takes htakes (fiLock_of_officer hready hrole)⟩
  case noSession =>
    have hother : sessionOf u x.fn ≠ roleCo := by rw [hnone]; decide
    exact ⟨fun i h htakes => next_secCmd_of_takes htakes (coService_of_other_role _ hready hother),
      fun n htakes => next_secCmd_of_takes htakes (anyService_of_no_session _ hready hnone)⟩
  case timeout => exact congrArg Host.Outcome.next (pairTimeout_of_prov hprov)

theorem servicesReturnTheirBytesToTheBuffer : Sys2Proof.Rules.ServicesReturnTheirBytesToTheBuffer := by
  intro s r u x hcanon hready hrole
  refine ⟨fun n htakes hmin hmax => ?random, fun nonce htakes => ?attest, fun p pub htakes hp => ?establish⟩
  case random =>
    have hrun : exec (.random r n) s = .next (cmdPut (putHost (drbgDraw u n).2 x.addr (drbgDraw u n).1) x doneRec) :=
      next_secCmd_of_takes htakes (random_of_officer hready hrole hmin hmax)
    obtain ⟨hbytes, hothers⟩ := writesBuffer_cmdPut_putHost (x := x) hcanon (drbgDraw_hostMem u n) doneRec x.addr (drbgDraw u n).1
    exact ⟨_, hrun, hbytes, hothers, by rw [cmdPut_keys, putHost_keys, drbgDraw_keys]; rfl⟩
  case attest =>
    have hrun : exec (.attest r nonce) s = .next (cmdPut (putHost u x.addr (signed2 u nonce)) x doneRec) :=
      next_secCmd_of_takes htakes (attest_of_officer hready hrole nonce)
    obtain ⟨hbytes, hothers⟩ := writesBuffer_cmdPut_putHost (x := x) (u := u) hcanon rfl doneRec x.addr (signed2 u nonce)
    exact ⟨_, hrun, hbytes, hothers⟩
  case establish =>
    intro own
    let v := keepKtk (drbgDraw u 48).2 p (ktkOf (drbgDraw u 48).1 pub p)
    have hrun : exec (.ktkEstablish r p pub) s = .next (cmdPut (putHost v x.addr (own ++ signed2 u own)) x doneRec) :=
      next_secCmd_of_takes htakes (ktkEstablish_of_officer hready hrole hp pub)
    obtain ⟨hbytes, hothers⟩ := writesBuffer_cmdPut_putHost (x := x) (u := v) hcanon
      ((keepKtk_hostMem ..).trans (drbgDraw_hostMem u 48)) doneRec x.addr (own ++ signed2 u own)
    have hktk : (cmdPut (putHost v x.addr (own ++ signed2 u own)) x doneRec).keys.ktk
        = mset [] s.keys.ktk p (ktkOf (drbgDraw u 48).1 pub p) := by
      rw [cmdPut_keys, putHost_keys, keepKtk_ktk, drbgDraw_keys]
      rfl
    exact ⟨_, hrun, hktk, hbytes, hothers⟩

end Sys2Proof.Machine

open Sys2Proof.Machine

/-- Settles O37: past its guard each service does what its own definition does with the vault or with the command's buffer, and writes
its record after it. -/
theorem cryptoOfficerAndBufferServicesAct : Obligations.CryptoOfficerAndBufferServicesAct :=
  ⟨cryptoOfficerServicesWriteTheirRegions, servicesReturnTheirBytesToTheBuffer⟩
end

section
/-! SUPPORT AND PROOFS. Sessions and the services that guard the module (R275 to R278, R281), and the module's own events (R276, R277, R281,
R282, R287, R291). -/
namespace Sys2Proof.Machine

variable {s : State} {x : CmdCtx}

/-! ## Services -/

/-- A login against its challenge that verifies, of a role not refused, sets the role and its failures to none (R276). -/
theorem login_of_verified {role : Nat} {key sig : List Byte} (hrole : role = 1 ∨ role = 2) (hallowed : ¬ (x.fn * 4 + role) ∈ s.sec.refused)
    (hchal : mget [] s.sec.chal (fnRequester x.fn).code ≠ [])
    (hok : loginOk (secSet s fun y => { y with chal := mdel y.chal (fnRequester x.fn).code }) x.fn role
      (mget [] s.sec.chal (fnRequester x.fn).code) key sig = true) :
    login s x role key sig =
      (let w := secSet s fun y => { y with chal := mdel y.chal (fnRequester x.fn).code }
       let w := secSet w fun y => { y with role := mset 0 y.role x.fn role, fails := mdel y.fails (x.fn * 4 + role) }
       (secUpd (if role = roleCo then wf w Adr.secStatus 7 0 0 else w), doneRec)) := by
  have hknown : ¬ (role ≠ roleCo ∧ role ≠ roleUser) := fun h => hrole.elim h.1 h.2
  have hmod : role % 4 = role := Nat.mod_eq_of_lt (by omega)
  have hverified : (!(mget [] s.sec.chal (fnRequester x.fn).code).isEmpty
      && loginOk (secSet s fun y => { y with chal := mdel y.chal (fnRequester x.fn).code }) x.fn role
        (mget [] s.sec.chal (fnRequester x.fn).code) key sig) = true := by simp [hchal, hok]
  simp only [login, hmod, if_neg hknown, if_neg hallowed, hverified, if_true]

theorem selfTest_of_officer_passed (hready : secReady s = true) (hrole : sessionOf s x.fn = roleCo) :
    selfTest s x 0 = (s, doneRec) := by
  rw [selfTest, coService_of_officer _ hready hrole, if_neg (by omega)]

theorem selfTest_of_officer_failed (hready : secReady s = true) (hrole : sessionOf s x.fn = roleCo) {f : Nat} (hmin : 1 ≤ f) (hmax : f ≤ 8) :
    selfTest s x f = (secError s f, refusal .moduleError) := by
  rw [selfTest, coService_of_officer _ hready hrole, if_pos ⟨hmin, hmax⟩]

theorem coEnrol_of_not_ready {h : List Byte} {age : Nat} (hnot : secReady s = false) :
    coEnrol s x h age = (s, refusal .moduleError) := if_pos (by simp [hnot])

/-- The first credential, of the physical function and in time (R276). -/
theorem coEnrol_of_first {h : List Byte} {age : Nat} (hready : secReady s = true) (hpf : x.fn = 0) (hnone : s.sec.vault.coCred = [])
    (hage : age ≤ 600) (hlen : h.length = 48) (hfree : regionBusy s vrHashes = false) :
    coEnrol s x h age = (regionWrite (vaultSet s fun v => { v with coCred := [(0, h)] }) vrHashes, doneRec) := by
  have hallowed : ¬ (x.fn ≠ 0 ∨ s.sec.vault.coCred ≠ [] ∨ 600 < age) := by simp [hpf, hnone, hage]
  rw [coEnrol, if_neg (by simp [hready]), if_neg hallowed, if_neg (not_not_intro hlen)]
  exact vaultService_of_done hfree rfl

theorem sessionsOpenCloseAndGuardServices : Sys2Proof.Rules.SessionsOpenCloseAndGuardServices := by
  intro s r u x
  refine ⟨fun hnot => ?notReady, fun hready => ⟨fun role key sig htakes hrole hallowed => ?login, fun htakes => ?logout,
    fun f htakes => ⟨fun hother => ?selfTestRefused, fun hrole => ⟨fun hpassed => ?selfTestPassed, fun hmin hmax => ?selfTestFailed⟩⟩,
    fun h age htakes hpf hnone hage hlen hfree => ?enrol⟩, fun htakes => ?status, fun htakes => ?zeroize⟩
  case notReady =>
    have hguard : ¬ secReady u = true := by simp [hnot]
    exact ⟨fun role key sig htakes => next_secCmd_of_takes htakes (if_neg hguard),
      fun htakes => next_secCmd_of_takes htakes (if_neg hguard),
      fun f htakes => next_secCmd_of_takes htakes (coService_of_not_ready _ hnot),
      fun n htakes => next_secCmd_of_takes htakes (anyService_of_not_ready _ hnot),
      fun h age htakes => next_secCmd_of_takes htakes (coEnrol_of_not_ready hnot)⟩
  case login =>
    intro chal w hchal hok
    exact next_secCmd_of_takes htakes ((if_pos hready).trans (login_of_verified hrole hallowed hchal hok))
  case logout => exact next_secCmd_of_takes htakes (if_pos hready)
  case selfTestRefused => exact next_secCmd_of_takes htakes (coService_of_other_role _ hready hother)
  case selfTestPassed => exact hpassed ▸ next_secCmd_of_takes htakes (selfTest_of_officer_passed hready hrole)
  case selfTestFailed => exact next_secCmd_of_takes htakes (selfTest_of_officer_failed hready hrole hmin hmax)
  case enrol => exact next_secCmd_of_takes htakes (coEnrol_of_first hready hpf hnone hage hlen hfree)
  case status => exact next_secCmd_of_takes htakes rfl
  case zeroize =>
    by_cases hpf : x.fn = 0
    · rw [if_pos hpf]
      exact next_secCmd_of_takes htakes (if_neg (not_not_intro hpf))
    · rw [if_neg hpf]
      exact next_secCmd_of_takes htakes (if_pos hpf)

/-! ## Challenges (R276) -/

/-- A requester's own words change the accesses' state only. -/
theorem foldl_wrReq_with_acc (who : Requester) (a : Nat → Nat) (w : Nat → Word) (l : List Nat) (z : AccessSt) (s : State) :
    { l.foldl (fun s j => wrReq s who (a j) (w j)) s with acc := z } = { s with acc := z } := by
  induction l generalizing s with
  | nil => rfl
  | cons j l ih => rw [List.foldl_cons, ih, wrReq_with_acc]

/-- With the DRBG running a read draws the requester's challenge; beside it and the draw only the accesses' state changes. -/
theorem challengeRead_with_acc (hdrbg : s.sec.drbg = true) (who : Requester) (z : AccessSt) : { challengeRead s who with acc := z } =
    { secSet (drbgDraw s 48).2 (fun y => { y with chal := mput y.chal who.code (drbgDraw s 48).1 }) with acc := z } := by
  rw [challengeRead, if_pos hdrbg]
  dsimp only
  rw [ret_with_acc, foldl_wrReq_with_acc]

/-- What such a read leaves: the challenge latched and the draw counted, the sessions and the tables as they were. -/
theorem challengeRead_latches_draw (hdrbg : s.sec.drbg = true) (who : Requester) :
    (challengeRead s who).sec.chal = mput s.sec.chal who.code (Config.drbg s.keys.draws 48)
      ∧ (challengeRead s who).keys.draws = s.keys.draws + 1 ∧ (challengeRead s who).sec.role = s.sec.role
      ∧ (challengeRead s who).tabs = s.tabs := by
  have hframe := challengeRead_with_acc hdrbg who {}
  obtain ⟨_, _, _, hdraw⟩ := drbgDraw_eq s 48
  rw [hdraw] at hframe
  generalize challengeRead s who = t at hframe ⊢
  have hsec := congrArg State.sec hframe
  have hkeys := congrArg State.keys hframe
  have htabs := congrArg State.tabs hframe
  exact ⟨congrArg SecSt.chal hsec, congrArg KeySt.draws hkeys, (congrArg SecSt.role hsec :), htabs⟩

/-! ## Sessions (R277) -/

@[simp] theorem wb_sec (s : State) (a i : Nat) (b : Bool) : (wb s a i b).sec = s.sec := rfl

/-- SEC_APPROVED follows the module, whose state stays. -/
@[simp] theorem secUpd_sec (s : State) : (secUpd s).sec = s.sec := by
  unfold secUpd secShow
  simp only [wb_sec]

theorem endSession_role (s : State) (fn : Nat) : mget 0 (endSession s fn).sec.role fn = 0 := by
  rw [endSession, secUpd_sec]
  exact mget_mput_same ..

theorem endSession_chal (s : State) (fn : Nat) : (endSession s fn).sec.chal = s.sec.chal := by
  rw [endSession, secUpd_sec]
  rfl

/-! ## Checkpoints (R287) -/

theorem checkpoint_of_changed {i : Nat} (hi : i < 2) (hchanged : mget 0 s.sec.ctr i ≠ (chkNewest s i).2)
    (hfree : regionBusy s (4 + i) = false) : checkpoint s i = vaultSet (regionWrite s (4 + i)) fun w => { w with
      chk := mput w.chk (i * 8 + ((chkNewest s i).1 + 1) % 8) ((chkNewest s i).1 + 1, mget 0 s.sec.ctr i) } := by
  rw [checkpoint]
  exact if_pos ⟨hi, hchanged, hfree⟩

/-! ## Zeroization (R291) -/

theorem zeroizeWrite_of_pf {who : Requester} (hpf : isPfSide s who = true) (hup : islDown s (islandOf Adr.secZeroize) = false) (v : Word) :
    zeroizeWrite s who v = if fld v 15 0 = 0x5EC0 then wrOk (zeroize s 0) who Adr.secZeroize else wrOk s who Adr.secZeroize := by
  rw [zeroizeWrite, if_neg (by simp [hup]), if_neg (by simp [hpf])]

/-- Notes a tripped source in the tamper log with the time t of base 0. -/
def tamperLogged (t : Nat) (s : State) (src : Nat) : State :=
  vaultSet s fun v => { v with tamperLog := mput v.tamperLog (v.logCount % 256) (2 ^ src, t), logCount := v.logCount + 1 }

/-- Each source that tripped has its record. -/
theorem foldl_tamperLogged_logCount (t : Nat) (l : List Nat) (s : State) :
    (l.foldl (tamperLogged t) s).sec.vault.logCount = s.sec.vault.logCount + l.length := by
  induction l generalizing s with
  | nil => rfl
  | cons src l ih =>
    rw [List.foldl_cons, ih, List.length_cons]
    exact Nat.add_right_comm s.sec.vault.logCount 1 l.length

theorem wrappingErased_of_erasing (h : s.sec.erasing ≠ []) : wrappingErased s =
    secSet (vaultSet (pairForget (s.sec.erasing.foldl (tamperLogged (baseTime s 0)) s)) fun v => { v with blank := true, userCred := [] })
      fun x => { x with erasing := [] } := if_neg h

@[simp] theorem wrW_sec (s : State) (a v n : Nat) : (wrW s a v n).sec = s.sec :=
  (congrArg State.sec (wrW_with_regs s a v n s.regs) :)

@[simp] theorem pairForget_vault (s : State) : (pairForget s).sec.vault = { s.sec.vault with pair := none } :=
  (congrArg SecSt.vault (wrW_sec ..) :)

/-! ## A key put, and the canonical form -/

theorem length_mdel_le {α : Type} (m : SMap α) (a : Nat) : (mdel m a).length ≤ m.length := by
  induction m with
  | nil => exact Nat.le_refl 0
  | cons p m ih =>
    obtain ⟨k, x⟩ := p
    rw [mdel]
    split
    · exact Nat.le_succ m.length
    · exact Nat.succ_le_succ ih

/-- A map with a key put has more entries than the map without it. -/
theorem length_mdel_lt_mput {α : Type} (m : SMap α) (a : Nat) (v : α) : (mdel m a).length < (mput m a v).length := by
  induction m with
  | nil => exact Nat.zero_lt_one
  | cons p m ih =>
    obtain ⟨k, x⟩ := p
    have hle := length_mdel_le ((k, x) :: m) a
    rw [mput]
    split
    · exact Nat.lt_succ_of_le hle
    · split
      next hk => rw [mdel, if_pos hk.symm]; exact Nat.lt_succ_self m.length
      next hk => rw [mdel, if_neg (Ne.symm hk)]; exact Nat.succ_lt_succ ih

/-- A draw of no bytes is latched as an entry of no bytes, which the canonical form would leave out. -/
theorem mput_eq_mset_iff {α : Type} [DecidableEq α] {d : α} (m : SMap α) (a : Nat) (v : α) : mput m a v = mset d m a v ↔ v ≠ d := by
  refine ⟨fun h hv => ?_, fun hv => by rw [mset, if_neg hv]⟩
  rw [mset, if_pos hv] at h
  exact absurd (congrArg List.length h) (length_mdel_lt_mput m a v).ne'

/-! ## The module's events -/

/-- A DRBG output of the 48 bytes of a challenge is not empty, which the model leaves open (assumption log 1). -/
def DrbgGivesChallenges : Prop := ∀ n, Config.drbg n 48 ≠ []

/-- A challenge drawn is latched in the canonical form exactly where the DRBG gives bytes. -/
theorem challengeRead_completes_iff (who : Requester) (hup : islDown s 337 = false) (hdrbg : s.sec.drbg = true) :
    (∃ t, exec (.secChallengeRead who) s = .next t
      ∧ t.sec.chal = mset [] s.sec.chal who.code (Config.drbg s.keys.draws 48)
      ∧ t.keys.draws = s.keys.draws + 1 ∧ t.sec.role = s.sec.role ∧ t.tabs = s.tabs) ↔ Config.drbg s.keys.draws 48 ≠ [] := by
  have hrun : exec (.secChallengeRead who) s = .next (challengeRead s who) := congrArg Host.Outcome.next (if_neg (by simp [hup]))
  obtain ⟨hchal, hrest⟩ := challengeRead_latches_draw hdrbg who
  rw [← mput_eq_mset_iff s.sec.chal who.code, ← hchal, hrun]
  refine ⟨fun ⟨t, ht, hlatched, _⟩ => ?_, fun h => ⟨_, rfl, h, hrest⟩⟩
  cases ht
  exact hlatched

theorem moduleEventsChangeTheModule_of_drbg (hdrbg : DrbgGivesChallenges) : Sys2Proof.Rules.ModuleEventsChangeTheModule := by
  intro s
  refine ⟨fun who hup hrunning => (challengeRead_completes_iff who hup hrunning).mpr (hdrbg _), fun fn => ?sessions,
    fun fn role hrole => ?lockout, fun hrunning => ?reseed, fun n hmin hmax hstate => ?failed, rfl, fun i hi hchanged hfree => ?checkpoint,
    fun who v hpf hup => ?zeroize, fun herasing => ?erased⟩
  case sessions =>
    refine ⟨rfl, endSession_role s fn, _, rfl, endSession_role _ fn, ?_⟩
    rw [endSession_chal]
    exact mget_mput_same ..
  case lockout =>
    refine ⟨_, rfl, ?_, rfl⟩
    simp [secSet, Nat.mod_eq_of_lt hrole]
  case reseed => exact ⟨_, congrArg Host.Outcome.next (if_pos hrunning), rfl, rfl⟩
  case failed => exact congrArg Host.Outcome.next (if_pos ⟨hmin, hmax, .inl hstate⟩)
  case checkpoint => exact ⟨_, congrArg Host.Outcome.next (checkpoint_of_changed hi hchanged hfree), mget_mput_same ..⟩
  case zeroize =>
    have hrun : exec (.secZeroizeWrite who v) s = .next (zeroizeWrite s who v) := rfl
    rw [hrun, zeroizeWrite_of_pf hpf hup]
    exact ⟨fun h => by rw [if_pos h], fun h => by rw [if_neg h]⟩
  case erased =>
    refine ⟨_, congrArg Host.Outcome.next (wrappingErased_of_erasing herasing), rfl, rfl, ?_, rfl, ?_⟩
    all_goals simp [secSet, vaultSet, foldl_tamperLogged_logCount]

/-- The device out of reset as its DRBG has served n requests. -/
def drbgServed (n : Nat) : State :=
  { State.reset with sec := { State.reset.sec with drbg := true }, keys := { State.reset.keys with draws := n } }

theorem drbgGivesChallenges_of_moduleEvents (h : Sys2Proof.Rules.ModuleEventsChangeTheModule) : DrbgGivesChallenges := by
  intro n
  obtain ⟨hdrawn, -⟩ := h (drbgServed n)
  have hup : islDown State.reset 337 = false := by decide
  exact (challengeRead_completes_iff (s := drbgServed n) .pf hup rfl).mp (hdrawn .pf hup rfl)

end Sys2Proof.Machine

open Sys2Proof.Machine

/-- O38 without a verdict: its clauses hold of every state but for one, that a challenge drawn is latched with `mset []`, where the model
latches it with `mput`. The two differ for an output of no bytes, and Config.drbg is opaque (assumption log 1): no proof sees whether it
ever gives one. -/
theorem sessionsAndModuleEventsGuardServices_iff_drbgGivesChallenges :
    Obligations.SessionsAndModuleEventsGuardServices ↔ DrbgGivesChallenges :=
  ⟨fun ⟨_, hevents⟩ => drbgGivesChallenges_of_moduleEvents hevents,
    fun hdrbg => ⟨sessionsOpenCloseAndGuardServices, moduleEventsChangeTheModule_of_drbg hdrbg⟩⟩
end

section
/-! SUPPORT AND PROOFS. Steps and commands as a whole: each command completes and keeps what its own lemma says (Follows), from which the
statements about every step follow; and the values at reset. -/
namespace Sys2Proof.Machine
open Sys2Proof

/-- Which stores a command keeps: all but the two flash commands keep flash, and mayWriteHost and mayWriteTables name the others. -/
def keepOf (c : Instr) : Keep where
  flash := match c with
    | .flashWrite .. | .flashErase .. => false
    | _ => true
  host := !mayWriteHost c
  tabs := !mayWriteTables c

theorem keepOf_flash {c : Instr} (hwrite : ∀ r slot ofs host len, c ≠ .flashWrite r slot ofs host len)
    (herase : ∀ r slot ofs len, c ≠ .flashErase r slot ofs len) : (keepOf c).flash = true := by
  unfold keepOf
  split
  · exact (hwrite _ _ _ _ _ rfl).elim
  · exact (herase _ _ _ _ rfl).elim
  · rfl

/-- Every command completes, and keeps what the lemma of its meaning says. -/
theorem exec_follows (c : Instr) (s : State) : ∃ t, exec c s = .next t ∧ Follows (keepOf c) s t := by
  cases c with
  | registerWrite => exact execRegisterWrite_follows ..
  | badAccess => exact execBadAccess_follows ..
  | lowWordRead => exact execLowWordRead_follows ..
  | glbBarrierRead => exact execGlbBarrierRead_follows ..
  | barrierReturn => exact execBarrierReturn_follows ..
  | barrierTimeout => exact execBarrierTimeout_follows ..
  | glbWrstatRead => exact execGlbWrstatRead_follows ..
  | pendClear => exact execPendClear_follows ..
  | flitReceive => exact execFlitReceive_follows ..
  | retrainComplete => exact execRetrainComplete_follows ..
  | creditReturn => exact execCreditReturn_follows ..
  | islandLost => exact execIslandLost_follows ..
  | sramError => exact execSramError_follows ..
  | scrubPass => exact execScrubPass_follows ..
  | clauseIslandEntry => exact execClauseIslandEntry_follows ..
  | ownerRequest => exact execOwnerRequest_follows ..
  | ownerFlip => exact execOwnerFlip_follows ..
  | ownerHandoverDone => exact execOwnerHandoverDone_follows ..
  | quiesceTimeout => exact execQuiesceTimeout_follows ..
  | hostWdWrite => exact execHostWdWrite_follows ..
  | hostWdExpire => exact execHostWdExpire_follows ..
  | imgCtrlStage => exact execImgCtrlStage_follows ..
  | imgCtrlApply => exact execImgCtrlApply_follows ..
  | imgCtrlAbandon => exact execImgCtrlAbandon_follows ..
  | imgCtrlCommit => exact execImgCtrlCommit_follows ..
  | imageFetchDone => exact execImageFetchDone_follows ..
  | applyTransitTimeout => exact execApplyTransitTimeout_follows ..
  | applyTreeTimeout => exact execApplyTreeTimeout_follows ..
  | grammarSwitchMarker => exact execGrammarSwitchMarker_follows ..
  | grammarSwitchComplete => exact execGrammarSwitchComplete_follows ..
  | supplyStart => exact execSupplyStart_follows ..
  | supplyValid => exact execSupplyValid_follows ..
  | supplyGapTimeout => exact execSupplyGapTimeout_follows ..
  | supplyOutOfRange => exact execSupplyOutOfRange_follows ..
  | porNAssert => exact execPorNAssert_follows ..
  | porNRelease => exact execPorNRelease_follows ..
  | perstNAssert => exact execPerstNAssert_follows ..
  | perstNRelease => exact execPerstNRelease_follows ..
  | p0Complete => exact execP0Complete_follows ..
  | p1Complete => exact execP1Complete_follows ..
  | p2Complete => exact execP2Complete_follows ..
  | p4Complete => exact execP4Complete_follows ..
  | fwStartTimeout => exact execFwStartTimeout_follows ..
  | p5Complete => exact execP5Complete_follows ..
  | linkTrainTimeout => exact execLinkTrainTimeout_follows ..
  | treeStartTimeout => exact execTreeStartTimeout_follows ..
  | glbResetCtrlCold => exact execGlbResetCtrlCold_follows ..
  | glbResetCtrlWarm => exact execGlbResetCtrlWarm_follows ..
  | coldReset => exact execColdReset_follows ..
  | warmReset => exact execWarmReset_follows ..
  | treeReset => exact execTreeReset_follows ..
  | chnStateReset => exact execChnStateReset_follows ..
  | channelIslandResetDone => exact execChannelIslandResetDone_follows ..
  | channelLaneTrained => exact execChannelLaneTrained_follows ..
  | channelRun => exact execChannelRun_follows ..
  | channelStartTimeout => exact execChannelStartTimeout_follows ..
  | chnStateEclipseEntering => exact execChnStateEclipseEntering_follows ..
  | chnStateWaking => exact execChnStateWaking_follows ..
  | cycleStart => exact execCycleStart_follows ..
  | chnCrsWrite => exact execChnCrsWrite_follows ..
  | burstStart => exact execBurstStart_follows ..
  | burstReceive => exact execBurstReceive_follows ..
  | tlrInvalidate => exact execTlrInvalidate_follows ..
  | tlrForceCold => exact execTlrForceCold_follows ..
  | tlrPin => exact execTlrPin_follows ..
  | tlrUnpin => exact execTlrUnpin_follows ..
  | tlrInvalidateAll => exact execTlrInvalidateAll_follows ..
  | pmBinRollover => exact execPmBinRollover_follows ..
  | pmDataRead => exact execPmDataRead_follows ..
  | ploamReceive => exact execPloamReceive_follows ..
  | comaEpoch => exact execComaEpoch_follows ..
  | comaCandidatesPosted => exact execComaCandidatesPosted_follows ..
  | registrationBurst => exact execRegistrationBurst_follows ..
  | quietWindowDue => exact execQuietWindowDue_follows ..
  | qwNow => exact execQwNow_follows ..
  | tcmReceive => exact execTcmReceive_follows ..
  | tcmAckReceive => exact execTcmAckReceive_follows ..
  | tcmAckTimeout => exact execTcmAckTimeout_follows ..
  | chnTcmTx => exact execChnTcmTx_follows ..
  | authTimeout => exact execAuthTimeout_follows ..
  | lostTimeout => exact execLostTimeout_follows ..
  | termWriteFree => exact execTermWriteFree_follows ..
  | termWriteAuthWait => exact execTermWriteAuthWait_follows ..
  | termWriteRanging => exact execTermWriteRanging_follows ..
  | termWriteKeying => exact execTermWriteKeying_follows ..
  | termWriteActive => exact execTermWriteActive_follows ..
  | termWriteDisabled => exact execTermWriteDisabled_follows ..
  | termWriteOffline => exact execTermWriteOffline_follows ..
  | treTermInfoWrite => exact execTreTermInfoWrite_follows ..
  | rogueStart => exact execRogueStart_follows ..
  | rogueClear => exact execRogueClear_follows ..
  | probeWindowEnd => exact execProbeWindowEnd_follows ..
  | rogueDisableRepeat => exact execRogueDisableRepeat_follows ..
  | grantBuild => exact execGrantBuild_follows ..
  | chnGeSysreq => exact execChnGeSysreq_follows ..
  | geRingWrIdx => exact execGeRingWrIdx_follows ..
  | tblwWrite => exact execTblwWrite_follows ..
  | frameEnqueue => exact execFrameEnqueue_follows ..
  | schedulerSelect => exact execSchedulerSelect_follows ..
  | gateEntryChange => exact execGateEntryChange_follows ..
  | gclInstall => exact execGclInstall_follows ..
  | gclDisable => exact execGclDisable_follows ..
  | gclStart => exact execGclStart_follows ..
  | samplerPeriod => exact execSamplerPeriod_follows ..
  | transitReqStart => exact execTransitReqStart_follows ..
  | transitReqCancel => exact execTransitReqCancel_follows ..
  | transitSwitch => exact execTransitSwitch_follows ..
  | transitDsKeysMoved => exact execTransitDsKeysMoved_follows ..
  | transitUsMove => exact execTransitUsMove_follows ..
  | eclipseEnter => exact execEclipseEnter_follows ..
  | eclTimeout => exact execEclTimeout_follows ..
  | wakeComplete => exact execWakeComplete_follows ..
  | wakeTimeout => exact execWakeTimeout_follows ..
  | foldMinute => exact execFoldMinute_follows ..
  | balanceCheck => exact execBalanceCheck_follows ..
  | keyInstall => exact execKeyInstall_follows ..
  | keySlotErase => exact execKeySlotErase_follows ..
  | keySlotActivate => exact execKeySlotActivate_follows ..
  | keyRetireExpire => exact execKeyRetireExpire_follows ..
  | coreCheck => exact execCoreCheck_follows ..
  | secChallengeRead => exact execSecChallengeRead_follows ..
  | sessionTimeout => exact execSessionTimeout_follows ..
  | loginLockoutExpire => exact execLoginLockoutExpire_follows ..
  | drbgReseed => exact execDrbgReseed_follows ..
  | conditionalTestFail => exact execConditionalTestFail_follows ..
  | checkpointWrite => exact execCheckpointWrite_follows ..
  | tamperTrip => exact execTamperTrip_follows ..
  | secZeroizeWrite => exact execSecZeroizeWrite_follows ..
  | keyWrappingAreaErased => exact execKeyWrappingAreaErased_follows ..
  | pairProvisionTimeout => exact execPairProvisionTimeout_follows ..
  | pipelineAdmit => exact execPipelineAdmit_follows ..
  | nop => exact execNop_follows ..
  | extractVerb => exact execExtractVerb_follows ..
  | matchVerb => exact execMatchVerb_follows ..
  | dispatchVerb => exact execDispatchVerb_follows ..
  | gotoVerb => exact execGotoVerb_follows ..
  | advance => exact execAdvance_follows ..
  | advanceField => exact execAdvanceField_follows ..
  | advanceIf => exact execAdvanceIf_follows ..
  | markVerb => exact execMarkVerb_follows ..
  | keepCur => exact execKeepCur_follows ..
  | hashVerb => exact execHashVerb_follows ..
  | setnoun => exact execSetnoun_follows ..
  | acceptVerb => exact execAcceptVerb_follows ..
  | dropVerb => exact execDropVerb_follows ..
  | puntVerb => exact execPuntVerb_follows ..
  | forwarding => exact execForwarding_follows ..
  | agingSweep => exact execAgingSweep_follows ..
  | lockExpired => exact execLockExpired_follows ..
  | tblRead => exact execTblRead_follows ..
  | tblWrite => exact execTblWrite_follows ..
  | tblInsert => exact execTblInsert_follows ..
  | tblDelete => exact execTblDelete_follows ..
  | tblSearch => exact execTblSearch_follows ..
  | uplGrpModeWrite => exact execUplGrpModeWrite_follows ..
  | uplinkLinkUp => exact execUplinkLinkUp_follows ..
  | uplinkFrameReceive => exact execUplinkFrameReceive_follows ..
  | pfcReceive => exact execPfcReceive_follows ..
  | bufferFree => exact execBufferFree_follows ..
  | bpmFreeWrite => exact execBpmFreeWrite_follows ..
  | deepHeadFetchDone => exact execDeepHeadFetchDone_follows ..
  | offsetSample => exact execOffsetSample_follows ..
  | holdTimeout => exact execHoldTimeout_follows ..
  | forceStepOffset => exact execForceStepOffset_follows ..
  | forceStepAbsolute => exact execForceStepAbsolute_follows ..
  | tbSet => exact execTbSet_follows ..
  | ppsInEdge => exact execPpsInEdge_follows ..
  | todInMessage => exact execTodInMessage_follows ..
  | ppsStuck => exact execPpsStuck_follows ..
  | ppsOutPulse => exact execPpsOutPulse_follows ..
  | captureEdge => exact execCaptureEdge_follows ..
  | captureStuck => exact execCaptureStuck_follows ..
  | capFifoRead => exact execCapFifoRead_follows ..
  | actionCommit => exact execActionCommit_follows ..
  | actionPulse => exact execActionPulse_follows ..
  | trigPulseEnd => exact execTrigPulseEnd_follows ..
  | actionGclInstall => exact execActionGclInstall_follows ..
  | actionKeySwitch => exact execActionKeySwitch_follows ..
  | actionTransit => exact execActionTransit_follows ..
  | actionDmaStart => exact execActionDmaStart_follows ..
  | actionSnapshot => exact execActionSnapshot_follows ..
  | actionEclipse => exact execActionEclipse_follows ..
  | c50TimeLatchArm => exact execC50TimeLatchArm_follows ..
  | ringProdWrite => exact execRingProdWrite_follows ..
  | flashWrite => exact execFlashWrite_follows ..
  | flashErase => exact execFlashErase_follows ..
  | flashRead => exact execFlashRead_follows ..
  | termAuthorize => exact execTermAuthorize_follows ..
  | termTransit => exact execTermTransit_follows ..
  | termState => exact execTermState_follows ..
  | termMsg => exact execTermMsg_follows ..
  | allocSet => exact execAllocSet_follows ..
  | queueSet => exact execQueueSet_follows ..
  | termNodeSet => exact execTermNodeSet_follows ..
  | tmplApply => exact execTmplApply_follows ..
  | ruleSet => exact execRuleSet_follows ..
  | keyRotate => exact execKeyRotate_follows ..
  | keyErase => exact execKeyErase_follows ..
  | keyCfg => exact execKeyCfg_follows ..
  | stage => exact execStage_follows ..
  | apply => exact execApply_follows ..
  | abandon => exact execAbandon_follows ..
  | commit => exact execCommit_follows ..
  | login => exact execLogin_follows ..
  | logout => exact execLogout_follows ..
  | secStatus => exact execSecStatus_follows ..
  | zeroize => exact execZeroize_follows ..
  | selfTest => exact execSelfTest_follows ..
  | coEnrol => exact execCoEnrol_follows ..
  | coCredSet => exact execCoCredSet_follows ..
  | userCredSet => exact execUserCredSet_follows ..
  | imgKeySet => exact execImgKeySet_follows ..
  | ktkEstablish => exact execKtkEstablish_follows ..
  | attest => exact execAttest_follows ..
  | identityCertSet => exact execIdentityCertSet_follows ..
  | pairProvision => exact execPairProvision_follows ..
  | unpair => exact execUnpair_follows ..
  | fiUnlock => exact execFiUnlock_follows ..
  | fiLock => exact execFiLock_follows ..
  | random => exact execRandom_follows ..
  | badOpcode => exact execBadOpcode_follows ..
  | ringResolve => exact execRingResolve_follows ..
  | hostRingWrite => exact execHostRingWrite_follows ..
  | dmaStart => exact execDmaStart_follows ..
  | dmaAbort => exact execDmaAbort_follows ..
  | moveInstr => exact execMoveInstr_follows ..
  | loop => exact execLoop_follows ..
  | waitRequest => exact execWaitRequest_follows ..
  | waitReg => exact execWaitReg_follows ..
  | waitTime => exact execWaitTime_follows ..
  | waitSatisfied => exact execWaitSatisfied_follows ..
  | waitTimeout => exact execWaitTimeout_follows ..
  | signalInterrupt => exact execSignalInterrupt_follows ..
  | signalFlag => exact execSignalFlag_follows ..
  | signalDoorbell => exact execSignalDoorbell_follows ..
  | fence => exact execFence_follows ..
  | fenceComplete => exact execFenceComplete_follows ..
  | endProg => exact execEndProg_follows ..
  | dmaBeatError => exact execDmaBeatError_follows ..
  | dmaReqRaise => exact execDmaReqRaise_follows ..
  | dmaReqEdge => exact execDmaReqEdge_follows ..
  | prtStateReleased => exact execPrtStateReleased_follows ..
  | prtStateNotReady => exact execPrtStateNotReady_follows ..
  | prtAlive => exact execPrtAlive_follows ..
  | aliveTimeout => exact execAliveTimeout_follows ..
  | tokenClaim => exact execTokenClaim_follows ..
  | claimWindowEnd => exact execClaimWindowEnd_follows ..
  | peerHbLost => exact execPeerHbLost_follows ..
  | tokenStuck => exact execTokenStuck_follows ..
  | plkLaneSync => exact execPlkLaneSync_follows ..
  | helloMsg => exact execHelloMsg_follows ..
  | digestMsg => exact execDigestMsg_follows ..
  | keyMsg => exact execKeyMsg_follows ..
  | stateMsg => exact execStateMsg_follows ..
  | stateMessageSend => exact execStateMessageSend_follows ..
  | revertWtrExpire => exact execRevertWtrExpire_follows ..
  | snapshot => exact execSnapshot_follows ..
  | freeze => exact execFreeze_follows ..
  | pcValueWrite => exact execPcValueWrite_follows ..
  | traceInject => exact execTraceInject_follows ..
  | kill => exact execKill_follows ..
  | fiArm => exact execFiArm_follows ..
  | fiHoldRelease => exact execFiHoldRelease_follows ..
  | railPoll => exact execRailPoll_follows ..
  | pmbAlert => exact execPmbAlert_follows ..
  | pmbLost => exact execPmbLost_follows ..
  | avsCheck => exact execAvsCheck_follows ..
  | pwrDvfsWrite => exact execPwrDvfsWrite_follows ..
  | voutReached => exact execVoutReached_follows ..
  | pwrGateUplWrite => exact execPwrGateUplWrite_follows ..
  | sensorRead => exact execSensorRead_follows ..
  | throttleClear => exact execThrottleClear_follows ..
  | capEvaluation => exact execCapEvaluation_follows ..
  | sidebandInputChange => exact execSidebandInputChange_follows ..
  | modulePoll => exact execModulePoll_follows ..
  | tokenLineChange => exact execTokenLineChange_follows ..
  | peerHbEdge => exact execPeerHbEdge_follows ..
  | supplyRemoval => exact execSupplyRemoval_follows ..
  | pcieLinkUp => exact execPcieLinkUp_follows ..
  | pcieLinkDown => exact execPcieLinkDown_follows ..
  | uplinkLinkDown => exact execUplinkLinkDown_follows ..
  | uplinkFrameTransmit => exact execUplinkFrameTransmit_follows ..
  | pauseTimerExpire => exact execPauseTimerExpire_follows ..
  | functionLevelReset => exact execFunctionLevelReset_follows ..
  | moveComplete => exact execMoveComplete_follows ..

theorem Follows.of_exec {c : Instr} {s t : State} (h : exec c s = .next t) : Follows (keepOf c) s t := by
  obtain ⟨t', ht', hfollows⟩ := exec_follows c s
  rw [ht'] at h
  cases h
  exact hfollows

theorem step_of_pending_nil {s : State} (h : s.pending = []) : step s = .next s := by
  simp only [step, h]

theorem step_of_pending_cons {s : State} {c : Instr} {q : List Instr} (h : s.pending = c :: q) :
    step s = exec c { s with pending := q } := by
  simp only [step, h]

/-- What a step can do: idle on an empty queue, or run the front command on the state with the queue's rest. -/
theorem step_cases {s t : State} (h : step s = .next t) :
    (s.pending = [] ∧ t = s) ∨ ∃ c q, s.pending = c :: q ∧ Follows (keepOf c) { s with pending := q } t := by
  cases hqueue : s.pending with
  | nil =>
    rw [step_of_pending_nil hqueue] at h
    cases h
    exact .inl ⟨rfl, rfl⟩
  | cons c q => exact .inr ⟨c, q, rfl, .of_exec (step_of_pending_cons hqueue ▸ h)⟩

end Sys2Proof.Machine

open Sys2Proof.Machine

/-- Settles O1. -/
theorem stepRunsTheFrontCommand : Obligations.StepRunsTheFrontCommand := fun _ _ _ h => step_of_pending_cons h

/-- Settles O2. -/
theorem stepOnAnEmptyQueueIdles : Obligations.StepOnAnEmptyQueueIdles := fun _ h => step_of_pending_nil h

/-- Settles O3. -/
theorem everyCommandAnswersANextState : Obligations.EveryCommandAnswersANextState := by
  intro c s
  obtain ⟨t, ht, hfollows⟩ := exec_follows c s
  exact ⟨t, ht, hfollows.queue⟩

/-- Settles O4: the command that a step runs keeps the canonical form, which the queue is no part of. -/
theorem stepKeepsMemoriesCanonical : Obligations.StepKeepsMemoriesCanonical := by
  intro s t hcanon hstep
  obtain ⟨-, rfl⟩ | ⟨c, q, -, hfollows⟩ := step_cases hstep
  · exact hcanon
  · exact hfollows.canon hcanon

/-- Settles O5: a command leaves the queue as it finds it, which is without the command. -/
theorem stepTakesOneCommandAndRevokesNothing : Obligations.StepTakesOneCommandAndRevokesNothing := by
  intro s t hstep
  obtain ⟨hempty, rfl⟩ | ⟨c, q, hqueue, hfollows⟩ := step_cases hstep
  · exact ⟨by rw [hempty, List.tail_nil], List.prefix_refl _, Nat.le_refl _⟩
  · exact ⟨by rw [hqueue, hfollows.queue, List.tail_cons], hfollows.sent, hfollows.free⟩

/-- Settles O6: a command that a list does not name keeps that store. -/
theorem storesChangeByTheirCommandsOnly : Obligations.StoresChangeByTheirCommandsOnly := by
  refine ⟨fun c s t hexec => ⟨fun hhost => ?_, fun hwrite herase => ?_⟩, fun c s t hexec htabs => ?_⟩
  · exact (Follows.of_exec hexec).host (by simp [keepOf, hhost])
  · exact (Follows.of_exec hexec).flash (keepOf_flash hwrite herase)
  · exact (Follows.of_exec hexec).tabs (by simp [keepOf, htabs])

/-- Settles O7: the reset state lists what differs from the registers' reset values, and each clause reads a word of it. -/
theorem resetLeavesTheStatedValues : Obligations.ResetLeavesTheStatedValues := by
  refine ⟨?canon, rfl, rfl, rfl, ?device, ?revision, ?channels, ?trees, ?terminals, ?islands, ?syncN, ?aliveMs, ?pair, ?cap, ?age,
    ?lock, ?watchdog, ?bases⟩
  case canon => unfold Sys2Proof.Rules.ResetMemoriesAreCanonical Canon; decide
  case channels => rintro c (rfl | rfl) <;> decide
  case trees => rintro t (rfl | rfl) <;> decide
  case terminals => rintro tid (rfl | rfl) <;> decide
  case islands => rintro i (rfl | rfl) <;> decide
  case bases => rintro b (rfl | rfl) <;> decide
  all_goals decide
end

section
/-! SUPPORT. Fields of wide registers, and what the report of a corrected event and its counting leave: every register outside the
islands' status, the pending vectors and the observation block (R38, R432, R433). -/
namespace Sys2Proof.Machine

variable {s t u : State}

/-! ## Fields of wide registers -/

theorem testBit_nfld (v hi lo j : Nat) : (nfld v hi lo).testBit j = (decide (j < hi + 1 - lo) && v.testBit (lo + j)) := by
  rw [nfld, Nat.testBit_mod_two_pow, Nat.testBit_div_two_pow, Nat.add_comm j lo]

theorem testBit_putNfld (v hi lo x j : Nat) (h : lo ≤ hi) :
    (putNfld v hi lo x).testBit j = if lo ≤ j ∧ j ≤ hi then x.testBit (j - lo) else v.testBit j := by
  have hsplit : 2 ^ (hi + 1) = 2 ^ lo * 2 ^ (hi + 1 - lo) := by rw [← pow_add]; congr 1; omega
  have hput : putNfld v hi lo x = 2 ^ lo * (2 ^ (hi + 1 - lo) * (v / 2 ^ (hi + 1)) + x % 2 ^ (hi + 1 - lo)) + v % 2 ^ lo := by
    unfold putNfld; rw [hsplit]; ring
  rw [hput, Nat.testBit_two_pow_mul_add _ (Nat.mod_lt _ (by positivity)),
    Nat.testBit_two_pow_mul_add _ (Nat.mod_lt _ (by positivity)), Nat.testBit_mod_two_pow, Nat.testBit_mod_two_pow,
    Nat.testBit_div_two_pow]
  by_cases hlow : j < lo
  · rw [if_pos hlow, if_neg (by omega)]; simp [hlow]
  · rw [if_neg hlow]
    by_cases hhigh : j ≤ hi
    · rw [if_pos (by omega), if_pos (by omega)]; simp; omega
    · rw [if_neg (by omega), if_neg (by omega)]; congr 1; omega

/-- A field of a number apart from one that was put reads as before. -/
theorem nfld_putNfld_other {v hi lo x hi' lo' : Nat} (h : lo ≤ hi) (hapart : hi' < lo ∨ hi < lo') :
    nfld (putNfld v hi lo x) hi' lo' = nfld v hi' lo' := by
  apply Nat.eq_of_testBit_eq
  intro j
  rw [testBit_nfld, testBit_nfld, testBit_putNfld v hi lo x _ h]
  by_cases hj : j < hi' + 1 - lo'
  · rw [if_neg (by omega)]
  · simp [hj]

theorem rdW_congr {a n : Nat} (h : ∀ b, a ≤ b → b < a + 4 * n → rd t b = rd s b) : rdW t a n = rdW s a n := by
  induction n generalizing a with
  | zero => rfl
  | succ n ih => rw [rdW, rdW, h a (by omega) (by omega), ih fun b hlo hhi => h b (by omega) (by omega)]

theorem rfW_congr {a n : Nat} (h : ∀ b, a ≤ b → b < a + 4 * n → rd t b = rd s b) (hi lo : Nat) : rfW t a n hi lo = rfW s a n hi lo := by
  rw [rfW, rfW, rdW_congr h]

/-- Reading another field of a wide register. -/
theorem rfW_wfW_field (h : mwf resetWord s.regs = true) {a n hi lo v hi' lo' : Nat} (hl : lo ≤ hi) (hn : hi < 32 * n)
    (hapart : hi' < lo ∨ hi < lo') : rfW (wfW s a n hi lo v) a n hi' lo' = rfW s a n hi' lo' := by
  rw [rfW, wfW, rdW_wrW_same h, Nat.mod_eq_of_lt (putNfld_lt v (rdW_lt s a n) hl hn), nfld_putNfld_other hl hapart, rfW]

theorem mwf_regs_wrW (h : mwf resetWord s.regs = true) (a v n : Nat) : mwf resetWord (wrW s a v n).regs = true := by
  induction n generalizing s a v with
  | zero => exact h
  | succ n ih => exact ih (mwf_regs_wr h ..) _ _

/-! ## Single bits beside a field -/

/-- Reading a bit apart from a field just written. -/
theorem rb_wf_field (h : mwf resetWord s.regs = true) {a hi lo v i : Nat} (hl : lo ≤ hi) (hh : hi < 32) (hapart : i < lo ∨ hi < i) :
    rb (wf s a hi lo v) a i = rb s a i := by
  have hfld : rf (wf s a hi lo v) a i i = rf s a i i := rf_wf_field h a hi lo v i i hapart hh hl
  unfold rf at hfld
  rw [rb, testBit_eq_fld, hfld, rb, testBit_eq_fld]

/-- Reading another bit of a word after one was written. -/
theorem rb_wb_bit (h : mwf resetWord s.regs = true) {a i j : Nat} (b : Bool) (hi : i < 32) (hne : j ≠ i) : rb (wb s a i b) a j = rb s a j :=
  rb_wf_field h (Nat.le_refl i) hi (by omega)

/-- Reading a field after a bit apart from it was written. -/
theorem rf_wb_field (h : mwf resetWord s.regs = true) {a i hi lo : Nat} (b : Bool) (hi32 : i < 32) (hapart : hi < i ∨ i < lo) :
    rf (wb s a i b) a hi lo = rf s a hi lo := rf_wf_field h a i i _ hi lo hapart hi32 (Nat.le_refl i)

/-! ## Corrected events -/

/-! What a step that keeps the units keeps, unit by unit. -/

theorem KeepsUnits.grm (h : KeepsUnits s t) : t.grm = s.grm := by unfold KeepsUnits at h; rw [← h]
theorem KeepsUnits.tim (h : KeepsUnits s t) : t.tim = s.tim := by unfold KeepsUnits at h; rw [← h]
theorem KeepsUnits.upl (h : KeepsUnits s t) : t.upl = s.upl := by unfold KeepsUnits at h; rw [← h]
theorem KeepsUnits.buf (h : KeepsUnits s t) : t.buf = s.buf := by unfold KeepsUnits at h; rw [← h]
theorem KeepsUnits.flow (h : KeepsUnits s t) : t.flow = s.flow := by unfold KeepsUnits at h; rw [← h]
theorem KeepsUnits.stat (h : KeepsUnits s t) : t.stat = s.stat := by unfold KeepsUnits at h; rw [← h]
theorem KeepsUnits.obs (h : KeepsUnits s t) : t.obs = s.obs := by unfold KeepsUnits at h; rw [← h]
theorem KeepsUnits.dma (h : KeepsUnits s t) : t.dma = s.dma := by unfold KeepsUnits at h; rw [← h]
theorem KeepsUnits.pwr (h : KeepsUnits s t) : t.pwr = s.pwr := by unfold KeepsUnits at h; rw [← h]
theorem KeepsUnits.boot (h : KeepsUnits s t) : t.boot = s.boot := by unfold KeepsUnits at h; rw [← h]
theorem KeepsUnits.sched (h : KeepsUnits s t) : t.sched = s.sched := by unfold KeepsUnits at h; rw [← h]

/-- A register word outside the islands' status and pending vectors, the observation block and the interrupt tables. -/
def quietWord (b : Nat) : Prop := 0x2000 ≤ b ∧ b < 0xF80000 ∧ (b < 0x60000 ∨ 0x70000 ≤ b)

/-- A step that reports or counts: it keeps every unit and every quiet word, and the registers' canonical form. -/
structure ReportsOnly (s t : State) : Prop where
  keeps : KeepsUnits s t
  words : ∀ b, quietWord b → rd t b = rd s b
  canon : mwf resetWord s.regs = true → mwf resetWord t.regs = true

namespace ReportsOnly

theorem refl (s : State) : ReportsOnly s s := ⟨.refl s, fun _ _ => rfl, id⟩

theorem trans (h : ReportsOnly s t) (g : ReportsOnly t u) : ReportsOnly s u :=
  ⟨h.keeps.trans g.keeps, fun b hb => (g.words b hb).trans (h.words b hb), fun hs => g.canon (h.canon hs)⟩

theorem wr (s : State) {a : Nat} (ha : ¬ quietWord a) (w : Word) : ReportsOnly s (wr s a w) :=
  ⟨.wr s a w, fun b hb => rd_wr_other s w (by rintro rfl; exact ha hb), fun hs => mwf_regs_wr hs a w⟩

theorem wrW (s : State) {a n : Nat} (ha : ∀ b, a ≤ b → b < a + 4 * n → ¬ quietWord b) (v : Nat) : ReportsOnly s (wrW s a v n) := by
  induction n generalizing s a v with
  | zero => exact refl s
  | succ n ih => exact (wr s (ha a (by omega) (by omega)) _).trans (ih _ (fun b hlo hhi => ha b (by omega) (by omega)) _)

/-- A message changes only a pending bit or what was sent. -/
theorem sendMsix (s : State) (fn vec : Nat) : ReportsOnly s (sendMsix s fn vec) := by
  unfold Machine.sendMsix
  split_ifs
  · exact wr s (by unfold quietWord Adr.msixPba; omega) _
  all_goals exact ⟨rfl, fun _ _ => rfl, id⟩

theorem fireSource (s : State) (src : Nat) : ReportsOnly s (fireSource s src) := by
  unfold Machine.fireSource
  split
  · exact sendMsix s _ _
  · exact refl s

theorem setPend (s : State) {i : Nat} (hi : i < 342) : ReportsOnly s (setPend s i) := by
  unfold Machine.setPend
  split
  · exact refl s
  · exact (wr s (by unfold quietWord Adr.glbEventPend; omega) _).trans (fireSource _ i)

theorem report (s : State) {i : Nat} (hi : i < 342) (sev : Severity) (code : Nat) : ReportsOnly s (report s i sev code) :=
  (wr s (by unfold quietWord Adr.glbIslandStat; omega) _).trans (setPend _ hi)

theorem pcAdd (s : State) {n : Nat} (hn : n < 256) (k : Nat) : ReportsOnly s (pcAdd s n k).1 :=
  wrW s (fun b hlo hhi => by unfold Adr.obsPcVal at hlo hhi; unfold quietWord; omega) _

/-- The counters that are enabled are counters of the block. -/
theorem lt_of_mem_pcEnabled {n : Nat} (h : n ∈ pcEnabled s) : n < 256 := by
  unfold pcEnabled at h
  obtain ⟨p, -, hp⟩ := List.mem_filterMap.mp h
  split at hp
  · next hsel =>
    unfold Adr.obsPcSel at hsel hp
    cases hp
    omega
  · cases hp

theorem pcCount (s : State) (e : PcEv) : ReportsOnly s (pcCount s e).1 := by
  have hfold : ∀ (l : List Nat) (p : State × Nat), (∀ n ∈ l, n < 256) → ReportsOnly s p.1 →
      ReportsOnly s (l.foldl (fun (s, o) n =>
        let (s, ov) := Machine.pcAdd s n e.n
        (s, if ov && rb s (Adr.obsPcSel n + 4) 30 then o + 1 else o)) p).1 := by
    intro l
    induction l with
    | nil => exact fun _ _ h => h
    | cons n l ih =>
      intro p hl h
      exact ih _ (fun m hm => hl m (List.mem_cons_of_mem _ hm)) (h.trans (pcAdd p.1 (hl n List.mem_cons_self) e.n))
  unfold Machine.pcCount
  split
  · exact refl s
  · exact hfold _ _ (fun n hn => lt_of_mem_pcEnabled (List.mem_of_mem_filter hn)) (refl s)

theorem raise0 (s : State) {i : Nat} (hi : i < 342) (code : Nat) : ReportsOnly s (raise0 s i .corrected code) := report s hi _ _

theorem pc (s : State) (e : PcEv) : ReportsOnly s (pc s e) := by
  unfold Machine.pc
  have hcount := pcCount s e
  split
  next t o heq =>
  rw [heq] at hcount
  split
  · exact hcount
  · exact ((hcount.trans (wr _ (by unfold quietWord Adr.obsEvent; omega) _)).trans (raise0 _ (by omega) _)).trans (pcCount _ _)

/-- A corrected event of an island. -/
theorem raise (s : State) {i : Nat} (hi : i < 342) (code : Nat) : ReportsOnly s (raise s i .corrected code) :=
  (raise0 s hi code).trans (pc _ _)

variable (h : ReportsOnly s t)
include h

theorem rb {a : Nat} (ha : quietWord a) (i : Nat) : Machine.rb t a i = Machine.rb s a i := rb_congr (h.words a ha) i
theorem rf {a : Nat} (ha : quietWord a) (hi lo : Nat) : Machine.rf t a hi lo = Machine.rf s a hi lo := rf_congr (h.words a ha) hi lo
theorem rdW {a n : Nat} (ha : ∀ b, a ≤ b → b < a + 4 * n → quietWord b) : Machine.rdW t a n = Machine.rdW s a n :=
  rdW_congr fun b hlo hhi => h.words b (ha b hlo hhi)
theorem rfW {a n : Nat} (ha : ∀ b, a ≤ b → b < a + 4 * n → quietWord b) (hi lo : Nat) :
    Machine.rfW t a n hi lo = Machine.rfW s a n hi lo := by
  rw [Machine.rfW, Machine.rfW, h.rdW ha]

end ReportsOnly

end Sys2Proof.Machine
end

section
/-! SUPPORT AND PROOFS. The parser's verbs, the items of a pipeline and the switch of programs (R294 to R309). -/
namespace Sys2Proof.Machine

variable {s : State} {p op v : Nat} {c : ParseCtx}

/-! ## Verbs (R299, R302) -/

@[simp] theorem ctxOfPipe_setCtx_same (s : State) (p : Nat) (c : ParseCtx) : ctxOfPipe (setCtx s p c) p = some c := by
  simp [ctxOfPipe, setCtx, find?_mput_same]

/-- A verb at which a pipeline stands is none of those that are left alone. -/
theorem not_verb_left_alone (h : verbAt s p op c v) :
    ¬ (pipeUp s p = false ∨ progVerbs (progOf s c.newBank) ≤ c.pc ∨ vOp (progVerb (progOf s c.newBank) c.pc) ≠ op) := by
  obtain ⟨hup, -, hpc, rfl, hcode, -⟩ := h
  simpa [hup, hcode] using hpc

/-- A verb that leaves a context, its count of verbs and its bank as they were, is done with it. -/
theorem verbStep_of_inl (h : verbAt s p op c v) (hop : op < 0x0C) {f : List Byte → ParseCtx → Nat → VerbRes} {c' : ParseCtx}
    (hf : f (progOf s c.newBank) c v = .inl c') (hcount : c'.vcount = c.vcount) (hbank : c'.newBank = c.newBank) :
    verbStep s p op f = verbDone s p c' := by
  have hruns := not_verb_left_alone h
  obtain ⟨-, hctx, -, rfl, -, hbudget⟩ := h
  simp only [verbStep, hctx]
  rw [if_neg hruns, if_neg (Nat.not_le.mpr (hbudget hop)), hf]
  simp only [verbDone, hcount, hbank]

theorem verbStep_of_inr (h : verbAt s p op c v) (hop : op < 0x0C) {f : List Byte → ParseCtx → Nat → VerbRes} {e : ParseEx}
    (hf : f (progOf s c.newBank) c v = .inr e) : verbStep s p op f = parseExc s p c e := by
  have hruns := not_verb_left_alone h
  obtain ⟨-, hctx, -, rfl, -, hbudget⟩ := h
  simp only [verbStep, hctx]
  rw [if_neg hruns, if_neg (Nat.not_le.mpr (hbudget hop)), hf]

theorem verbEnd_of_verbAt (h : verbAt s p op c v) (f : State → ParseCtx → Nat → State) :
    verbEnd s p op f = f (grmCount s p 10 1) { c with vcount := c.vcount + 1 } v := by
  have hruns := not_verb_left_alone h
  obtain ⟨-, hctx, -, rfl, -, -⟩ := h
  simp only [verbEnd, hctx]
  rw [if_neg hruns]

/-- With the budget used up a verb that is no end verb is the budget exception. -/
theorem verbStep_of_no_budget (h : verbAt s p op c v) (f : List Byte → ParseCtx → Nat → VerbRes) {d : ParseCtx}
    (hd : d = { c with vcount := progBudget (progOf s c.newBank) }) :
    verbStep (setCtx s p d) p op f = parseExc (setCtx s p d) p d .budget := by
  have hruns := not_verb_left_alone h
  subst hd
  simp only [verbStep, ctxOfPipe_setCtx_same]
  exact (if_neg hruns).trans (if_pos (Nat.le_refl _))

theorem vAdvance_of_le {k : Nat} (h : c.cur + k ≤ 511) : vAdvance c k = .inl { c with pc := c.pc + 1, cur := c.cur + k } :=
  if_neg (by omega)

theorem vAdvance_of_deep {k : Nat} (h : 511 < c.cur + k) : vAdvance c k = .inr .depth := if_pos h

theorem verbsMoveTheCursorAndTheNouns : Sys2Proof.Rules.VerbsMoveTheCursorAndTheNouns := by
  intro s p op c v h
  refine ⟨?nop, ?goto, ?advance, ?tooDeep, ?mark, ?markFull, ?keepCur, ?hash, ?setnoun, ?budget⟩
  case nop => rintro rfl; exact congrArg Host.Outcome.next (verbStep_of_inl h (by decide) rfl rfl rfl)
  case goto => rintro rfl; exact congrArg Host.Outcome.next (verbStep_of_inl h (by decide) rfl rfl rfl)
  case advance =>
    rintro rfl hle
    exact congrArg Host.Outcome.next (verbStep_of_inl h (by decide) (vAdvance_of_le hle) rfl rfl)
  case tooDeep =>
    rintro rfl hdeep
    exact congrArg Host.Outcome.next (verbStep_of_inr h (by decide) (vAdvance_of_deep hdeep))
  case mark =>
    rintro rfl hroom
    exact congrArg Host.Outcome.next (verbStep_of_inl h (by decide) (if_neg (Nat.not_lt.mpr hroom)) rfl rfl)
  case markFull =>
    rintro rfl hfull
    exact congrArg Host.Outcome.next (verbStep_of_inr h (by decide) (if_pos hfull))
  case keepCur => rintro rfl; exact congrArg Host.Outcome.next (verbStep_of_inl h (by decide) rfl rfl rfl)
  case hash => rintro rfl; exact congrArg Host.Outcome.next (verbStep_of_inl h (by decide) rfl rfl rfl)
  case setnoun => rintro rfl; exact congrArg Host.Outcome.next (verbStep_of_inl h (by decide) rfl rfl rfl)
  case budget => rintro d hd rfl; exact congrArg Host.Outcome.next (verbStep_of_no_budget h _ hd)

/-! ## Verbs that read a field (R298, R302) -/

theorem withField_of_none {b : List Byte} (h : fieldEx b c v = none) (f : Nat → VerbRes) :
    withField b c v f = f (verbField c v) := by
  rw [withField, h]

theorem withField_of_some {b : List Byte} {e : ParseEx} (h : fieldEx b c v = some e) (f : Nat → VerbRes) :
    withField b c v f = .inr e := by
  rw [withField, h]

theorem fieldEx_eq_depth_iff (b : List Byte) (c : ParseCtx) (v : Nat) :
    fieldEx b c v = some .depth ↔ progMaxDepth b ≤ c.cur + vOfs v + (vBit v + vWidth v - 1) / 8 := by
  unfold fieldEx
  dsimp only
  split_ifs with hdeep hend <;> simp [hdeep]

theorem verbsThatReadAFieldOrExcept : Sys2Proof.Rules.VerbsThatReadAFieldOrExcept := by
  intro s p op c v h b x
  refine ⟨fun hread => ⟨?extract, ?branch, ?dispatch, ?dispatchPast, ?advanceField, ?advanceIf⟩, fun e hexcept => ?except,
    fieldEx_eq_depth_iff b c v⟩
  case extract =>
    rintro rfl
    exact congrArg Host.Outcome.next (verbStep_of_inl h (by decide) (withField_of_none hread _) rfl rfl)
  case branch =>
    rintro rfl
    refine congrArg Host.Outcome.next (verbStep_of_inl h (by decide) ((withField_of_none hread _).trans (congrArg Sum.inl ?_)) rfl rfl)
    by_cases hx : x = vImm v % 65536
    · rw [if_pos hx]; exact if_pos hx
    · rw [if_neg hx]; exact if_neg hx
  case dispatch =>
    rintro rfl hlt
    exact congrArg Host.Outcome.next
      (verbStep_of_inl h (by decide) ((withField_of_none hread _).trans (if_neg (Nat.not_le.mpr hlt))) rfl rfl)
  case dispatchPast =>
    rintro rfl hpast
    exact congrArg Host.Outcome.next (verbStep_of_inr h (by decide) ((withField_of_none hread _).trans (if_pos hpast)))
  case advanceField =>
    rintro rfl k hle
    exact congrArg Host.Outcome.next
      (verbStep_of_inl h (by decide) ((withField_of_none hread _).trans (vAdvance_of_le hle)) rfl rfl)
  case advanceIf =>
    rintro rfl k hle
    refine congrArg Host.Outcome.next (verbStep_of_inl h (by decide) ((withField_of_none hread _).trans ?_) rfl rfl)
    by_cases hx : x = 0
    · have hk : k = 0 := if_pos hx
      rw [hk]
      exact if_neg (not_not_intro hx)
    · have hk : k = vImm v % 512 := if_neg hx
      rw [hk] at hle ⊢
      exact (if_pos hx).trans (vAdvance_of_le hle)
  case except =>
    refine ⟨?_, ?_, ?_, ?_, ?_⟩ <;> rintro rfl <;>
      exact congrArg Host.Outcome.next (verbStep_of_inr h (by decide) (withField_of_some hexcept _))

/-! ## Items (R294, R295) and the switch of programs (R305) -/

theorem pipeAdmit_of_item (hup : pipeUp s p = true) (hctx : ctxOfPipe s p = none) {x : Ingress} {rest : List Ingress}
    (hitem : ingressOf s p = x :: rest) : pipeAdmit s p =
      let u := pc (setIngress s p rest) { code := 0x08, unit := some p, tc := some x.fr.cl.tc }
      if x.fr.cl.kind = ClauseKind.packet.code ∨ x.fr.cl.kind = ClauseKind.hostInject.code then
        let d := traceDraw u p (prefixClause u x)
        let r := prefixStage d.2 x d.1 (d.2.grm.loading && decide (p ∈ d.2.grm.marked))
        let w := setCtx (if 512 ≤ x.port then nextFree d.2 else d.2) p r.1
        r.2.elim w (parseExc w p r.1)
      else
        let cl := x.fr.cl
        let u := trace u cl stParse (pipeIsland p) 0 (cl.kind * 2 ^ 28 + cl.part * 2 ^ 22 + cl.len)
        let u := trace (trace u cl stClassify (pipeIsland p) cl.sid cl.bd) cl stForward (pipeIsland p) cl.queue cl.egr
        flowOut u x.fr (egressKeys cl.egr cl.queue cl.tc) := by
  simp only [pipeAdmit, hup, hctx, hitem]
  rw [if_neg (by decide)]
  by_cases hkind : x.fr.cl.kind = ClauseKind.packet.code ∨ x.fr.cl.kind = ClauseKind.hostInject.code
  · rw [if_pos hkind, if_pos hkind]
    generalize prefixStage _ _ _ _ = r
    obtain ⟨c, _ | e⟩ := r <;> rfl
  · rw [if_neg hkind, if_neg hkind]

theorem pipeAdmit_of_no_item (hitem : ingressOf s p = []) : pipeAdmit s p = s := by
  unfold pipeAdmit
  rw [hitem]
  split_ifs
  · rfl
  · split <;> simp_all

/-- The registers of a switch, before its event: the program shown, LOADING cleared, BANK turned and GENERATION counted. -/
def switchShown (s : State) : State :=
  let s := showProg (wb s Adr.grmProgStat 23 false)
  let s := wb s Adr.grmProgStat 22 (!rb s Adr.grmProgStat 22)
  wf s Adr.grmProgStat 31 24 ((rf s Adr.grmProgStat 31 24 + 1) % 256)

theorem grmSwitch_of_all_marked (hload : s.grm.loading = true) (hmarked : ∀ p, p < 16 → p ∈ s.grm.marked) (hctx : s.grm.ctx = []) :
    grmSwitch s = evBit (switchShown { s with
      img := { s.img with grammar := s.grm.shadow }
      grm := { s.grm with shadow := s.img.grammar, loading := false, marked := [], ctx := [] } })
      Adr.grmEvent 0 288 .corrected 0x0800 := by
  have hready : (s.grm.loading && (List.range 16).all (fun p => decide (p ∈ s.grm.marked)) && s.grm.ctx.all (·.2.newBank)) = true := by
    simpa [hload, hctx] using hmarked
  rw [grmSwitch, if_pos hready, hctx]
  rfl

theorem switchShown_progStat (h : mwf resetWord s.regs = true) : let a := Adr.grmProgStat
    rf (switchShown s) a 31 24 = (rf s a 31 24 + 1) % 256 ∧ rb (switchShown s) a 22 = !rb s a 22 ∧ rb (switchShown s) a 23 = false := by
  intro a
  let v := wrW (wb s a 23 false) Adr.grmProgId (progId s.img.grammar) 2
  let w := wf v a 12 0 (progVerbs s.img.grammar)
  let x := wb w a 22 (!rb w a 22)
  have hcanon1 : mwf resetWord (wb s a 23 false).regs = true := mwf_regs_wb h ..
  have hcanonv : mwf resetWord v.regs = true := mwf_regs_wrW hcanon1 ..
  have hcanonw : mwf resetWord w.regs = true := mwf_regs_wf hcanonv ..
  have hcanonx : mwf resetWord x.regs = true := mwf_regs_wb hcanonw ..
  have hword : rd v a = rd (wb s a 23 false) a := rd_wrW_other _ _ _ _ (by decide)
  have hgen : rf x a 31 24 = rf s a 31 24 := by
    rw [rf_wb_field hcanonw _ (by decide) (by decide), rf_wf_field hcanonv _ _ _ _ _ _ (by decide) (by decide) (by decide), rf_congr hword,
      rf_wb_field h _ (by decide) (by decide)]
  have hbank : rb w a 22 = rb s a 22 := by
    rw [rb_wf_field hcanonv (by decide) (by decide) (by decide), rb_congr hword, rb_wb_bit h _ (by decide) (by decide)]
  have hload : rb w a 23 = false := by
    rw [rb_wf_field hcanonv (by decide) (by decide) (by decide), rb_congr hword, rb_wb_same h _ _ _ (by decide)]
  have hshown : switchShown s = wf x a 31 24 ((rf x a 31 24 + 1) % 256) := rfl
  rw [hshown]
  refine ⟨?_, ?_, ?_⟩
  · rw [rf_wf_same hcanonx _ _ _ _ (by decide) (by decide), hgen]; exact Nat.mod_mod _ _
  · rw [rb_wf_field hcanonx (by decide) (by decide) (by decide), rb_wb_same hcanonw _ _ _ (by decide), hbank]
  · rw [rb_wf_field hcanonx (by decide) (by decide) (by decide), rb_wb_bit hcanonw _ (by decide) (by decide), hload]

theorem parsesEndItemsEnterAndProgramsSwitch : Sys2Proof.Rules.ParsesEndItemsEnterAndProgramsSwitch := by
  refine ⟨fun s p op c v h => ⟨?accept, ?drop, ?punt⟩, fun s p x rest hup hctx hitem => ⟨fun hkind hport => ?packet, fun hpacket hinject => ?item⟩,
    fun s p hnone => congrArg Host.Outcome.next (pipeAdmit_of_no_item hnone), fun s p hload hp => ?marker,
    fun s hload hmarked hctx hcanon => ?switch⟩
  case accept => rintro rfl; exact congrArg Host.Outcome.next (verbEnd_of_verbAt h _)
  case drop => rintro rfl; exact congrArg Host.Outcome.next (verbEnd_of_verbAt h _)
  case punt => rintro rfl; exact congrArg Host.Outcome.next (verbEnd_of_verbAt h _)
  case packet =>
    intro d r
    have hrun : exec (.pipelineAdmit p) s = .next (r.2.elim (setCtx d.2 p r.1) (parseExc (setCtx d.2 p r.1) p r.1)) := by
      have hadmit := pipeAdmit_of_item hup hctx hitem
      dsimp only at hadmit
      rw [if_pos (.inl hkind), if_neg (Nat.not_le.mpr hport)] at hadmit
      exact congrArg Host.Outcome.next hadmit
    exact ⟨fun hnone => by rw [hrun, hnone]; rfl, fun e hsome => by rw [hrun, hsome]; rfl⟩
  case item =>
    refine congrArg Host.Outcome.next ((pipeAdmit_of_item hup hctx hitem).trans ?_)
    exact if_neg (not_or.mpr ⟨hpacket, hinject⟩)
  case marker => exact congrArg Host.Outcome.next (if_pos (by simp [hload, hp]))
  case switch =>
    obtain ⟨hregs, -⟩ := hcanon
    have hrun : exec .grammarSwitchComplete s = _ := congrArg Host.Outcome.next (grmSwitch_of_all_marked hload hmarked hctx)
    refine ⟨_, hrun, ?_⟩
    generalize hu : ({ s with
      img := { s.img with grammar := s.grm.shadow }
      grm := { s.grm with shadow := s.img.grammar, loading := false, marked := [], ctx := [] } } : State) = u
    have hword : ∀ b, rd u b = rd s b := by rw [← hu]; exact fun _ => rfl
    obtain ⟨hgen, hbank, hload⟩ := switchShown_progStat (s := u) (by rw [← hu]; exact hregs)
    have hreports : ReportsOnly (wb (switchShown u) Adr.grmEvent 0 true) (evBit (switchShown u) Adr.grmEvent 0 288 .corrected 0x0800) :=
      .raise _ (by decide) _
    have hstat : rd (evBit (switchShown u) Adr.grmEvent 0 288 .corrected 0x0800) Adr.grmProgStat = rd (switchShown u) Adr.grmProgStat :=
      (hreports.words _ (by unfold quietWord; decide)).trans (rd_wb_other _ _ _ (by decide))
    have hkeeps := hreports.keeps
    refine ⟨?_, ?_, ?_, ?_, ?_, ?_, ?_⟩
    · rw [hkeeps.img, ← hu]; rfl
    · rw [hkeeps.grm, ← hu]; rfl
    · rw [hkeeps.grm, ← hu]; rfl
    · rw [hkeeps.grm, ← hu]; rfl
    · rw [rf_congr hstat, hgen, rf_congr (hword _)]
    · rw [rb_congr hstat, hbank, rb_congr (hword _)]
    · rw [rb_congr hstat, hload]

end Sys2Proof.Machine

open Sys2Proof.Machine

/-- Settles O39: a pipeline that stands at a verb runs it, and what it does with the context decides how the parse goes on. -/
theorem parserVerbsMoveReadAndEnd : Obligations.ParserVerbsMoveReadAndEnd :=
  ⟨verbsMoveTheCursorAndTheNouns, verbsThatReadAFieldOrExcept, parsesEndItemsEnterAndProgramsSwitch⟩
end

section
/-! SUPPORT AND PROOFS. The forwarding stage (R312): where a frame goes, and that a spoofed one (R319) goes nowhere. -/
namespace Sys2Proof.Machine

variable {s t : State} {p : Nat} {ms : List Nat} {it : FwdItem} {rest : List FwdItem}

/-! ## What leaves the frames in flow -/

@[simp] theorem wrW_flow (s : State) (a v n : Nat) : (wrW s a v n).flow = s.flow := (congrArg State.flow (wrW_with_regs s a v n s.regs) :)

@[simp] theorem fwdCount_flow (s : State) (code n : Nat) : (fwdCount s code n).flow = s.flow := wrW_flow ..

@[simp] theorem stat_flow (s : State) (scope i code n : Nat) : (stat s scope i code n).flow = s.flow := by
  unfold stat
  split <;> rfl

theorem evBit_corrected_flow (s : State) (a bit : Nat) {i : Nat} (hi : i < 342) (code : Nat) :
    (evBit s a bit i .corrected code).flow = s.flow := (ReportsOnly.raise (wb s a bit true) hi code).keeps.flow

theorem dramRingPut_flow {base log2 idx : Nat} {bytes : List Byte} (h : dramRingPut s base log2 idx bytes = some t) : t.flow = s.flow := by
  unfold dramRingPut at h
  dsimp only at h
  split at h
  · cases h
  · cases h; exact wrW_flow ..

theorem traceRoom_flow (h : traceRoom s = some t) : t.flow = s.flow := by
  unfold traceRoom at h
  by_cases hfull : traceRate ≤ if s.obs.traceCycle = cycleNow s then s.obs.traceCount else 0
  · rw [if_pos hfull] at h; cases h
  · rw [if_neg hfull] at h; cases h; rfl

@[simp] theorem trace_flow (s : State) (cl : Clause) (stage isl arg aux : Nat) : (trace s cl stage isl arg aux).flow = s.flow := by
  unfold trace
  split
  · rfl
  · dsimp only
    split
    next hput =>
      obtain ⟨w, hroom, hring⟩ := Option.bind_eq_some_iff.mp hput
      exact ((dramRingPut_flow hring).trans (traceRoom_flow hroom)).trans (nextFree_flow s)
    next => exact evBit_corrected_flow _ _ _ (by decide) _

@[simp] theorem traceDrop_flow (s : State) (cl : Clause) (isl code scope unit : Nat) : (traceDrop s cl isl code scope unit).flow = s.flow :=
  trace_flow ..

@[simp] theorem fwdNotify_flow (s : State) (kind bd mac old new : Nat) : (fwdNotify s kind bd mac old new).flow = s.flow := by
  unfold fwdNotify
  dsimp only
  split
  next hput => exact (dramRingPut_flow hput).trans (nextFree_flow s)
  next => exact (evBit_corrected_flow _ _ _ (by decide) _).trans (fwdCount_flow ..)

/-! ## FORWARDING -/

section
variable (hup : pipeUp s p = true) (hitem : mget [] s.flow.fwd p = it :: rest)
  {u : State} (hu : ({ s with flow := { s.flow with fwd := mset [] s.flow.fwd p rest } } : State) = u)
include hup hitem hu

theorem forwarding_of_foreign_domain (hforeign : nbit (bdCfg u it.fr.cl.bd) 127 = false ∨ bdPart (bdCfg u it.fr.cl.bd) ≠ it.fr.cl.part) :
    forwarding s p ms = fwdDrop u p 10 it.fr.cl := by
  simp only [forwarding, hup, hitem, hu]
  rw [if_neg (by decide), if_pos (by simpa using hforeign)]

variable (hvalid : nbit (bdCfg u it.fr.cl.bd) 127 = true) (hpart : bdPart (bdCfg u it.fr.cl.bd) = it.fr.cl.part)
include hvalid hpart

/-- A spoofed frame is counted, noted and traced, and goes nowhere. -/
theorem forwarding_flow_of_spoofed (hpon : it.port < 256) (hspoof : spoofOk u it (bdCfg u it.fr.cl.bd) = false) :
    (forwarding s p ms).flow = u.flow := by
  simp only [forwarding, hup, hitem, hu]
  rw [if_neg (by decide), if_neg (by simp [hvalid, hpart]), if_pos (by simp [hpon, hspoof])]
  simp

theorem forwarding_of_passed (hpass : 256 ≤ it.port ∨ spoofOk u it (bdCfg u it.fr.cl.bd) = true) :
    forwarding s p ms =
      let bdv := bdCfg u it.fr.cl.bd
      let w := sourceStep u it bdv
      let da := (frameNum it.fr.data 0 6).getD 0
      let flood := if nbit bdv 125 then fwdQueue w p it (some (nfld bdv 111 98)) ms else fwdDrop w p 10 it.fr.cl
      (brFind w it.fr.cl.bd da).elim flood fun i =>
        if brDest (tblEntry w tbBridge i) = 0xFFFF then fwdDrop w p 8 it.fr.cl
        else if brRoute (tblEntry w tbBridge i) && nbit bdv 124 then fwdRoute w p it bdv
        else if da.testBit 40 then flood
        else fwdQueue w p it none [brDest (tblEntry w tbBridge i)] := by
  have hkept : ¬ (it.port < 256 ∧ (!spoofOk u it (bdCfg u it.fr.cl.bd)) = true) := by
    rintro ⟨hpon, hspoof⟩
    rcases hpass with hport | hok
    · omega
    · simp [hok] at hspoof
  simp only [forwarding, hup, hitem, hu]
  rw [if_neg (by decide), if_neg (by simp [hvalid, hpart]), if_neg hkept]
  cases brFind _ _ _ <;> rfl

end

end Sys2Proof.Machine

open Sys2Proof.Machine

/-- Settles O40: a frame passes the domain's checks or not; past them the bridge entry of its destination decides. -/
theorem framesAreForwardedFloodedOrDropped : Obligations.FramesAreForwardedFloodedOrDropped := by
  intro s p ms it rest hup hitem u cl bdv
  have hu : ({ s with flow := { s.flow with fwd := mset [] s.flow.fwd p rest } } : State) = u := rfl
  refine ⟨fun hforeign => ?foreign, fun hvalid hpart hpass => ?passed, fun hvalid hpart hpon hspoof => ?spoofed⟩
  case foreign => exact congrArg Host.Outcome.next (forwarding_of_foreign_domain hup hitem hu hforeign)
  case passed =>
    intro w da
    have hforward : exec (.forwarding p ms) s = _ := congrArg Host.Outcome.next (forwarding_of_passed hup hitem hu hvalid hpart hpass)
    rw [hforward]
    refine ⟨fun hunknown => ?unknown, fun i hknown => ?known⟩
    case unknown =>
      dsimp only
      rw [hunknown]
      exact ⟨fun hflood => congrArg Host.Outcome.next (if_pos hflood),
        fun hnone => congrArg Host.Outcome.next (if_neg (Bool.eq_false_iff.mp hnone))⟩
    case known =>
      intro v
      dsimp only
      rw [hknown]
      refine ⟨fun hdrop => congrArg Host.Outcome.next (if_pos hdrop), fun hdest hroute hgroup => congrArg Host.Outcome.next ?_⟩
      have hswitched : ¬ (brRoute v && nbit bdv 124) = true := by simp [hroute]
      exact (if_neg hdest).trans ((if_neg hswitched).trans (if_neg (Bool.eq_false_iff.mp hgroup)))
  case spoofed =>
    have hflow : (forwarding s p ms).flow = u.flow := forwarding_flow_of_spoofed hup hitem hu hvalid hpart hpon hspoof
    exact ⟨_, rfl, by rw [hflow], by rw [hflow]⟩
end

section
/-! SUPPORT AND PROOFS. Uplink ports: links and group modes (R333, R334), frames received and sent (R222, R334, R337), pauses (R335). -/
namespace Sys2Proof.Machine

variable {s : State} {u : Nat}

/-! ## Links and group modes -/

theorem portGroupsAndLinksFollowTheirSettings : Sys2Proof.Rules.PortGroupsAndLinksFollowTheirSettings := by
  refine ⟨fun s u => ⟨fun hlane hexists hen hrun => ?up, fun habsent => ?absent, rfl⟩, fun s who g v hpf hup => ⟨fun hok => ?mode, fun hbad => ?badMode⟩⟩
  case up => exact congrArg Host.Outcome.next (if_pos (by simp [hlane, hexists, hen, hrun]))
  case absent => exact congrArg Host.Outcome.next (if_neg (by simp [habsent]))
  case mode =>
    refine congrArg Host.Outcome.next ?_
    rw [grpModeWrite, if_neg (by simp [hup]), if_neg (by simp [hpf]), if_neg (by simp [hok])]
  case badMode =>
    refine congrArg Host.Outcome.next ?_
    rw [grpModeWrite, if_neg (by simp [hup]), if_neg (by simp [hpf]), if_pos (by simp [hbad])]

/-! ## Frames -/

theorem fiArmed_satF_uplPortStat (s : State) (hi lo k : Nat) :
    fiArmed (satF s (Adr.uplPortStat u) hi lo k) (Adr.fiCfgUrx u) = fiArmed s (Adr.fiCfgUrx u) :=
  rb_congr (rd_wf_other s hi lo _ (by unfold fiStat Adr.fiCfgUrx Adr.uplPortStat; omega)) 0

theorem uplReceive_of_idle (hup : portUp s u = true) (hruns : s.boot.dataStopped = false)
    (harmed : fiArmed s (Adr.fiCfgUrx u) = false) (hheld : (fiOf s (Adr.fiCfgUrx u)).held = []) (ofs : Nat) (d : List Byte) (fec : Nat) :
    uplReceive s u ofs d fec = uplRxGo (satF s (Adr.uplPortStat u) 23 0 fec) u ofs d := by
  have hpass := fiPass_of_idle (s := satF s (Adr.uplPortStat u) 23 0 fec) ((fiArmed_satF_uplPortStat s _ _ _).trans harmed) hheld none (.uplRx u ofs d)
  rw [uplReceive, if_neg (by simp [hup, hruns])]
  dsimp only
  rw [hpass]
  rfl

theorem uplRxGo_of_bad {ofs : Nat} {d : List Byte} (h : fcsOk d = false ∨ d.length < 64 ∨ 16383 < d.length) :
    uplRxGo s u ofs d = stat s scPort u 4 1 := by
  refine if_pos ?_
  rcases h with h | h | h <;> simp [h]

/-- The first class a port tries that offers a frame is the highest that does. -/
theorem find?_highest {p : Nat → Bool} {tc : Nat} (htc : tc < 8) (hp : p tc = true) (habove : ∀ k, tc < k → k < 8 → p k = false) :
    ((List.range 8).map (7 - ·)).find? p = some tc := by
  refine List.find?_eq_some_iff_getElem.mpr ⟨hp, 7 - tc, by simp; omega, by simp; omega, fun j hj => ?_⟩
  simp [habove (7 - j) (by omega) (by omega)]

section
variable (hup : portUp s u = true) (hruns : s.boot.dataStopped = false) (ofs : Nat) {v : State}
  (hv : markFits (qCleanAll s ((List.range 8).map (uplKey u))) ((List.range 8).map (uplKey u))
    (uplFits (qCleanAll s ((List.range 8).map (uplKey u))) u ofs) = v)
include hup hruns hv

theorem uplTransmit_of_no_head (hnone : ∀ tc, tc < 8 → uplHead v u tc ofs = none) : uplTransmit s u ofs = v := by
  have hfind : ((List.range 8).map (7 - ·)).find? (fun tc => (uplHead v u tc ofs).isSome) = none := by
    refine List.find?_eq_none.mpr fun tc htc => ?_
    obtain ⟨k, -, rfl⟩ := List.mem_map.mp htc
    simp [hnone (7 - k) (by omega)]
  rw [uplTransmit, if_neg (by simp [hup, hruns])]
  dsimp only
  rw [hv, hfind]

theorem uplTransmit_of_head {tc : Nat} {f : QFrame} (htc : tc < 8) (hhead : uplHead v u tc ofs = some f)
    (habove : ∀ k, tc < k → k < 8 → uplHead v u k ofs = none) (hframe : f.cl.kind ≠ ClauseKind.tracer.code) (hnots : f.tsReq = none) :
    uplTransmit s u ofs =
      let k := uplKey u tc
      let w := trace v f.cl stSelect (uplIsland u) f.cl.queue (qDepth v k)
      let d := uplFrameOut w u ofs f
      let w := emitFi (stat (stat w scPort u 2 1) scPort u 3 f.len) (Adr.fiCfgUtx u) none (.uplFrame u tc d.length d)
      let w := trace w f.cl stTransmit (uplIsland u) f.cl.egr 0
      qFree (qPop w k) k f := by
  have hfind : ((List.range 8).map (7 - ·)).find? (fun tc => (uplHead v u tc ofs).isSome) = some tc :=
    find?_highest htc (by simp [hhead]) fun k hlo hhi => by simp [habove k hlo hhi]
  rw [uplTransmit, if_neg (by simp [hup, hruns])]
  dsimp only
  rw [hv, hfind]
  dsimp only
  rw [hhead]
  dsimp only
  rw [if_neg hframe, hnots]

end

theorem uplinkFramesAreReceivedAndSent : Sys2Proof.Rules.UplinkFramesAreReceivedAndSent := by
  refine fun s u _ hup hruns => ⟨fun ofs d harmed hheld => ⟨?received, uplRxGo_of_bad⟩, fun ofs => ⟨fun hnone => ?nothing, fun tc f htc hhead habove hframe hnots => ?sent⟩⟩
  case received => exact congrArg Host.Outcome.next (uplReceive_of_idle hup hruns harmed hheld ofs d 0)
  case nothing => exact congrArg Host.Outcome.next (uplTransmit_of_no_head hup hruns ofs rfl hnone)
  case sent => exact congrArg Host.Outcome.next (uplTransmit_of_head hup hruns ofs rfl htc hhead habove hframe hnots)

/-! ## Pauses -/

theorem putBit_eq_putNfld (v i : Nat) (b : Bool) : putBit v i b = putNfld v i i (b2n b) := by
  have hhalf : v / 2 ^ (i + 1) * 2 ^ (i + 1) = v / 2 ^ i / 2 * 2 * 2 ^ i := by
    rw [pow_succ, ← Nat.div_div_eq_div_mul]; ring
  have hv : v = (v / 2 ^ i / 2 * 2 + v / 2 ^ i % 2) * 2 ^ i + v % 2 ^ i := by
    rw [Nat.div_add_mod', Nat.div_add_mod']
  have hbit : v.testBit i = decide (v / 2 ^ i % 2 = 1) := Nat.testBit_eq_decide_div_mod_eq
  rw [add_mul] at hv
  unfold putBit setBit clrBit putNfld
  rw [hhalf, hbit, Nat.add_sub_cancel_left]
  rcases Nat.mod_two_eq_zero_or_one (v / 2 ^ i) with hclear | hset
  · rw [hclear] at hv ⊢
    cases b <;> simp [b2n] <;> omega
  · rw [hset] at hv ⊢
    cases b <;> simp [b2n] <;> omega

theorem testBit_putBit (v i : Nat) (b : Bool) (j : Nat) : (putBit v i b).testBit j = if j = i then b else v.testBit j := by
  rw [putBit_eq_putNfld, testBit_putNfld _ _ _ _ _ (Nat.le_refl i)]
  by_cases hj : j = i
  · subst hj; cases b <;> simp [b2n]
  · rw [if_neg (by omega), if_neg hj]

/-- Writing bits of a number one after another leaves in each the value of its last write, or the number's own. -/
theorem testBit_foldl_putBit {step : Nat → Nat → Nat} {writes val : Nat → Bool}
    (hstep : ∀ m i, step m i = if writes i then putBit m i (val i) else m) (m n j : Nat) :
    ((List.range n).foldl step m).testBit j = if j < n ∧ writes j = true then val j else m.testBit j := by
  induction n with
  | zero => simp
  | succ n ih =>
    rw [List.range_succ, List.foldl_append, List.foldl_cons, List.foldl_nil, hstep]
    by_cases hn : writes n = true
    · rw [if_pos hn, testBit_putBit, ih]
      by_cases hj : j = n
      · subst hj; simp [hn]
      · rw [if_neg hj]; congr 1; simp; omega
    · rw [if_neg hn, ih]
      by_cases hj : j = n
      · subst hj; simp [hn]
      · congr 1; simp; omega

theorem pauseFramesHoldAndReleaseClasses : Sys2Proof.Rules.PauseFramesHoldAndReleaseClasses := by
  refine fun s u => ⟨fun pfc vec times hup hon => ⟨_, _, congrArg Host.Outcome.next (if_neg (by simp [hup, hon])), rfl, rfl, fun tc htc => ?_⟩,
    fun mask => ⟨_, _, rfl, rfl, rfl, fun tc htc => ?_⟩⟩
  · refine (testBit_foldl_putBit (writes := fun k => !(pfc && !vec.testBit k))
      (val := fun k => decide (times.getD (if pfc then k else 0) 0 ≠ 0)) (fun m k => ?_) _ 8 tc).trans ?_
    · cases h : pfc && !vec.testBit k <;> simp
    · cases h : pfc && !vec.testBit tc <;> simp [htc]
  · refine (testBit_foldl_putBit (writes := mask.testBit) (val := fun _ => false) (fun _ _ => rfl) _ 8 tc).trans ?_
    cases h : mask.testBit tc <;> simp [htc]

end Sys2Proof.Machine

open Sys2Proof.Machine

/-- Settles O42: the settings of ports and groups, the frames they receive and send, and the pauses they obey. -/
theorem uplinkPortsSendReceiveAndPause : Obligations.UplinkPortsSendReceiveAndPause :=
  ⟨portGroupsAndLinksFollowTheirSettings, uplinkFramesAreReceivedAndSent, pauseFramesHoldAndReleaseClasses⟩
end

section
/-! SUPPORT AND PROOFS. Frees of buffers (R346), staged deep heads (R352) and the check value of the CRC (R51). -/
namespace Sys2Proof.Machine

variable {s : State} {h name isl : Nat} {d : BufDesc}

/-! ## What a return leaves of the descriptors -/

@[simp] theorem wrW_buf (s : State) (a v n : Nat) : (wrW s a v n).buf = s.buf := (congrArg State.buf (wrW_with_regs s a v n s.regs) :)

@[simp] theorem bpmCount_buf (s : State) (code k : Nat) : (bpmCount s code k).buf = s.buf := wrW_buf ..

@[simp] theorem pc_buf (s : State) (e : PcEv) : (pc s e).buf = s.buf := (ReportsOnly.pc s e).keeps.buf

theorem poolSpill_desc (s : State) (n : Nat) : (poolSpill s n).buf.desc = s.buf.desc := by
  unfold poolSpill
  dsimp only
  split
  · rw [pc_buf, bpmCount_buf]; rfl
  · rfl

theorem poolFree_desc (s : State) (n i : Nat) : (poolFree s n i).buf.desc = s.buf.desc := by
  unfold poolFree
  split
  · rfl
  · rw [showPool, wrW_buf, poolSpill_desc]; rfl

theorem foldl_poolFree_desc (s : State) (n : Nat) (cells : List Nat) :
    (cells.foldl (fun s c => poolFree s n c) s).buf.desc = s.buf.desc := by
  induction cells generalizing s with
  | nil => rfl
  | cons c cells ih => rw [List.foldl_cons, ih, poolFree_desc]

theorem bufReturn_desc (s : State) (h : Nat) (d : BufDesc) : (bufReturn s h d).buf.desc = mdel s.buf.desc h := by
  unfold bufReturn
  dsimp only
  split
  · rw [showUse, wrW_buf]; exact foldl_poolFree_desc _ _ _
  · rw [showUse, wrW_buf]; exact poolFree_desc _ _ _

@[simp] theorem wb_buf (s : State) (a i : Nat) (b : Bool) : (wb s a i b).buf = s.buf := rfl

theorem evBit_corrected_buf (s : State) (a bit : Nat) {i : Nat} (hi : i < 342) (code : Nat) :
    (evBit s a bit i .corrected code).buf = s.buf := (ReportsOnly.raise (wb s a bit true) hi code).keeps.buf

theorem freeFault_buf (s : State) (h name isl kind bit cnt code : Nat) : (freeFault s h name isl kind bit cnt code).buf = s.buf := by
  refine (evBit_corrected_buf (i := 304) _ _ _ (by decide) _).trans ?_
  rw [bpmCount_buf, wr_buf, wrW_buf]

/-! ## BUFFER_FREE and BPM_FREE -/

section
variable (hok : handleOk s h = true)
include hok

theorem bufFree_of_free (hnone : descOf s h = none) : bufFree s h name isl = (freeFault s h name isl 1 0 7 0x0A00, .doubleFree) := by
  simp only [bufFree, hok, hnone]
  rfl

theorem bufFree_of_lost (hdesc : descOf s h = some d) (hlost : d.lost = true) : bufFree s h name isl = (bpmCount s 9 1, .lost) := by
  simp only [bufFree, hok, hdesc, hlost]
  rfl

variable (hdesc : descOf s h = some d) (hlost : d.lost = false)
include hdesc hlost

theorem bufFree_of_other (hother : ¬ name ∈ d.names) :
    bufFree s h name isl = (freeFault s h name isl 2 1 8 0x0A01, .notHolder d.names.length) := by
  simp only [bufFree, hok, hdesc, hlost]
  exact if_neg hother

theorem bufFree_of_shared (hholds : name ∈ d.names) (hshared : d.names.erase name ≠ []) :
    bufFree s h name isl = (setDesc s h { d with names := d.names.erase name }, .ok (d.names.erase name).length) := by
  simp only [bufFree, hok, hdesc, hlost]
  exact (if_pos hholds).trans (if_neg hshared)

theorem bufFree_of_last (hholds : name ∈ d.names) (hlast : d.names.erase name = []) :
    bufFree s h name isl = (bufReturn s h d, .ok 0) := by
  simp only [bufFree, hok, hdesc, hlost]
  exact (if_pos hholds).trans (if_pos hlast)

end

theorem bpmFreeWrite_of_pf {who : Requester} (hpf : isPfSide s who = true) (hup : islDown s (islandOf Adr.bpmFree) = false) :
    bpmFreeWrite s who h name =
      let p := bufFree s h name 340
      let u := wrReq p.1 who Adr.bpmFreeStat (BitVec.ofNat 32 (p.2.code * 2 ^ 28 + p.2.shares % 4096))
      match p.2 with
      | .ok _ => wrOk u who (Adr.bpmFree + 4)
      | .outOfRange => wrRefuse u who (Adr.bpmFree + 4) .outOfRange
      | _ => wrRefuse u who (Adr.bpmFree + 4) .unitRefused := by
  exact (if_neg (by simp [hup])).trans (if_neg (by simp [hpf]))

theorem freesTakeOneShareOrAreRefused : Sys2Proof.Rules.FreesTakeOneShareOrAreRefused := by
  intro s h name isl hok
  refine ⟨fun d hdesc hlost hholds => ⟨fun hshared => ?shared, fun hlast => ⟨_, ?last, rfl, bufReturn_desc s h d⟩⟩,
    fun d hdesc hlost hother => ⟨?other, freeFault_buf ..⟩, fun hnone => ?double, fun d hdesc hlost => ?lost,
    fun who d hpf hup hdesc hlost hholds hlast => ?pfLast, fun who hpf hup => ?pf⟩
  case shared => exact congrArg (Host.Outcome.next ·.1) (bufFree_of_shared hok hdesc hlost hholds hshared)
  case last => exact congrArg (Host.Outcome.next ·.1) (bufFree_of_last hok hdesc hlost hholds hlast)
  case other => exact congrArg (Host.Outcome.next ·.1) (bufFree_of_other hok hdesc hlost hother)
  case double => exact congrArg (Host.Outcome.next ·.1) (bufFree_of_free hok hnone)
  case lost => exact congrArg (Host.Outcome.next ·.1) (bufFree_of_lost hok hdesc hlost)
  case pfLast =>
    refine congrArg Host.Outcome.next ?_
    rw [bpmFreeWrite_of_pf hpf hup, bufFree_of_last hok hdesc hlost hholds hlast]
    dsimp only [FreeRes.shares]
    rfl
  case pf => exact congrArg Host.Outcome.next (bpmFreeWrite_of_pf hpf hup)

/-! ## Deep heads, and the CRC -/

theorem deepHeadsAreStagedAndTheCrcChecks : Sys2Proof.Rules.DeepHeadsAreStagedAndTheCrcChecks := by
  refine ⟨fun s k hruns => ⟨fun hempty => ?empty, fun hframe => ?staged⟩, Sys2Proof.Tests.test_crc32c⟩
  case empty => exact congrArg Host.Outcome.next ((if_neg (by simp [hruns])).trans (if_pos hempty))
  case staged => exact congrArg Host.Outcome.next ((if_neg (by simp [hruns])).trans (if_neg hframe))

end Sys2Proof.Machine

open Sys2Proof.Machine

/-- Settles O43: the frees of a buffer by a holder and by another, and the heads that are staged. -/
theorem buffersAreFreedAndDeepHeadsStaged : Obligations.BuffersAreFreedAndDeepHeadsStaged :=
  ⟨freesTakeOneShareOrAreRefused, deepHeadsAreStagedAndTheCrcChecks⟩
end

section
/-! SUPPORT AND PROOFS. The time bases (R357 to R363): what each operation on a base shows and leaves, samples and HOLDOVER, forced
steps and settings. -/
namespace Sys2Proof.Machine

variable {s t : State} {b a : Nat}

/-! ## Which words an operation on a base leaves -/

theorem rd_putOffset_other (s : State) (b : Nat) (th : Int) (refused : Bool) (h : a < Adr.timTbOffset b ∨ Adr.timTbOffset b + 8 ≤ a) :
    rd (putOffset s b th refused) a = rd s a := rd_wrW_other _ _ _ _ h

theorem rd_setHeld_other (s : State) (b : Nat) (held : Option Int) (h : a ≠ Adr.timTbStat b) : rd (setHeld s b held) a = rd s a :=
  rd_wb_other _ _ _ h

theorem rd_setAdj_other (s : State) (b : Nat) (adj : Int) (h : a ≠ Adr.timTbStat b) : rd (setAdj s b adj) a = rd s a :=
  rd_wf_other _ _ _ _ h

theorem rd_setBaseState_other (s : State) (b st : Nat) (hstat : a ≠ Adr.timTbStat b) (htime : a ≠ Adr.timTbTime b) :
    rd (setBaseState s b st) a = rd s a := (rd_wf_other _ _ _ _ htime).trans (rd_wf_other _ _ _ _ hstat)

/-- A time event is a report after its bit is set. -/
theorem timEvent_reports (s : State) (bit : Nat) : ReportsOnly (wb s Adr.timEvent bit true) (timEvent s bit) := .raise _ (by decide) _

theorem rd_timEvent_other (s : State) (bit : Nat) (hq : quietWord a) (h : a ≠ Adr.timEvent) : rd (timEvent s bit) a = rd s a :=
  ((timEvent_reports s bit).words a hq).trans (rd_wb_other _ _ _ h)

@[simp] theorem timEvent_tim (s : State) (bit : Nat) : (timEvent s bit).tim = s.tim := (timEvent_reports s bit).keeps.tim

theorem rb_timEvent_same (h : mwf resetWord s.regs = true) {bit : Nat} (hbit : bit < 32) : rb (timEvent s bit) Adr.timEvent bit = true :=
  ((timEvent_reports s bit).rb (by unfold quietWord Adr.timEvent; omega) bit).trans (rb_wb_same h _ _ _ hbit)

/-! ## The registers' canonical form -/

theorem regs_setBase (s : State) (b : Nat) (x : BaseSt) : (setBase s b x).regs = s.regs := rfl

theorem mwf_regs_putOffset (h : mwf resetWord s.regs = true) (th : Int) (refused : Bool) :
    mwf resetWord (putOffset s b th refused).regs = true := mwf_regs_wrW h ..

theorem mwf_regs_setHeld (h : mwf resetWord s.regs = true) (held : Option Int) : mwf resetWord (setHeld s b held).regs = true :=
  mwf_regs_wb (s := setBase s b _) h ..

theorem mwf_regs_setAdj (h : mwf resetWord s.regs = true) (adj : Int) : mwf resetWord (setAdj s b adj).regs = true :=
  mwf_regs_wf (s := setBase s b _) h ..

theorem mwf_regs_setBaseState (h : mwf resetWord s.regs = true) (st : Nat) : mwf resetWord (setBaseState s b st).regs = true :=
  mwf_regs_wf (mwf_regs_wf h ..) ..

/-! ## A base's STATE -/

theorem baseState_setBaseState (h : mwf resetWord s.regs = true) {st : Nat} (hst : st < 16) : baseState (setBaseState s b st) b = st :=
  (rf_congr (rd_wf_other _ _ _ _ (by unfold Adr.timTbStat Adr.timTbTime; omega)) 31 28).trans
    ((rf_wf_same h _ 31 28 st (by decide) (by decide)).trans (Nat.mod_eq_of_lt hst))

theorem baseState_setAdj (h : mwf resetWord s.regs = true) (adj : Int) : baseState (setAdj s b adj) b = baseState s b :=
  rf_wf_field (s := setBase s b _) h _ _ _ _ 31 28 (.inr (by decide)) (by decide) (by decide)

theorem baseState_setHeld (h : mwf resetWord s.regs = true) (held : Option Int) : baseState (setHeld s b held) b = baseState s b :=
  rf_wb_field (s := setBase s b _) h _ (by decide) (.inr (by decide))

theorem baseState_putOffset (th : Int) (refused : Bool) : baseState (putOffset s b th refused) b = baseState s b :=
  rf_congr (rd_putOffset_other _ _ _ _ (by unfold Adr.timTbStat Adr.timTbOffset; omega)) 31 28

theorem baseState_timEvent (hb : b < 8) (bit : Nat) : baseState (timEvent s bit) b = baseState s b :=
  rf_congr (rd_timEvent_other _ _ (by unfold quietWord Adr.timTbStat; omega) (by unfold Adr.timTbStat Adr.timEvent; omega)) 31 28

/-! ## A base's TIME -/

theorem baseTime_eq_rdW (s : State) (b : Nat) : baseTime s b = rdW s (Adr.timTbTime b + 4) 3 := by
  have hlow := (rd s (Adr.timTbTime b)).isLt
  have hhigh := rdW_lt s (Adr.timTbTime b + 4) 3
  rw [baseTime, rfW, rdW, nfld, Nat.add_mul_div_left _ _ (by decide), Nat.div_eq_of_lt hlow, Nat.zero_add, Nat.mod_eq_of_lt hhigh]

theorem baseTime_congr (h : ∀ a, Adr.timTbTime b < a → a < Adr.timTbTime b + 16 → rd t a = rd s a) : baseTime t b = baseTime s b := by
  rw [baseTime_eq_rdW, baseTime_eq_rdW]
  exact rdW_congr fun a hlo hhi => h a (by omega) (by omega)

theorem baseTime_setBaseState (st : Nat) : baseTime (setBaseState s b st) b = baseTime s b :=
  baseTime_congr fun _ hlo _ => rd_setBaseState_other _ _ _ (by unfold Adr.timTbTime at hlo; unfold Adr.timTbStat; omega) (by omega)

theorem baseTime_setAdj (adj : Int) : baseTime (setAdj s b adj) b = baseTime s b :=
  baseTime_congr fun _ hlo _ => rd_setAdj_other _ _ _ (by unfold Adr.timTbTime at hlo; unfold Adr.timTbStat; omega)

theorem baseTime_setBase (x : BaseSt) : baseTime (setBase s b x) b = baseTime s b := rfl

theorem baseTime_setHeld (held : Option Int) : baseTime (setHeld s b held) b = baseTime s b :=
  baseTime_congr fun _ hlo _ => rd_setHeld_other _ _ _ (by unfold Adr.timTbTime at hlo; unfold Adr.timTbStat; omega)

theorem baseTime_putOffset (th : Int) (refused : Bool) : baseTime (putOffset s b th refused) b = baseTime s b :=
  baseTime_congr fun _ _ hhi => rd_putOffset_other _ _ _ _ (by unfold Adr.timTbTime at hhi; unfold Adr.timTbOffset; omega)

theorem baseTime_timEvent (hb : b < 8) (bit : Nat) : baseTime (timEvent s bit) b = baseTime s b :=
  baseTime_congr fun a hlo hhi => by
    unfold Adr.timTbTime at hlo hhi
    exact rd_timEvent_other _ _ (by unfold quietWord; omega) (by unfold Adr.timEvent; omega)

/-! ## What a base keeps of its servo -/

@[simp] theorem baseOf_setBase (s : State) (b : Nat) (x : BaseSt) : baseOf (setBase s b x) b = x := mget_mput_same ..

@[simp] theorem baseOf_setAdj (s : State) (b : Nat) (adj : Int) : baseOf (setAdj s b adj) b = { baseOf s b with adj := adj } :=
  baseOf_setBase ..

@[simp] theorem baseOf_setHeld (s : State) (b : Nat) (held : Option Int) : baseOf (setHeld s b held) b = { baseOf s b with held := held } :=
  baseOf_setBase ..

@[simp] theorem baseOf_setBaseState (s : State) (b st : Nat) : baseOf (setBaseState s b st) b = baseOf s b := rfl

@[simp] theorem wrW_tim (s : State) (a v n : Nat) : (wrW s a v n).tim = s.tim := (congrArg State.tim (wrW_with_regs s a v n s.regs) :)

@[simp] theorem baseOf_putOffset (s : State) (b : Nat) (th : Int) (refused : Bool) : baseOf (putOffset s b th refused) b = baseOf s b :=
  by rw [baseOf, putOffset, wrW_tim, baseOf]

@[simp] theorem baseOf_timEvent (s : State) (b bit : Nat) : baseOf (timEvent s bit) b = baseOf s b :=
  by rw [baseOf, timEvent_tim, baseOf]

/-! ## HOLDOVER -/

theorem holdover_of_locked (h : baseState s b = tbLocked) :
    holdover s b = timEvent (setAdj (setBaseState s b tbHoldover) b (baseOf s b).integ) (8 + b) := if_pos h

theorem holdover_of_other (h : baseState s b ≠ tbLocked) : holdover s b = s := if_neg h

section
variable (hc : mwf resetWord s.regs = true) (hb : b < 8)
include hb

theorem baseTime_holdover : baseTime (holdover s b) b = baseTime s b := by
  by_cases hlocked : baseState s b = tbLocked
  · rw [holdover_of_locked hlocked, baseTime_timEvent hb, baseTime_setAdj, baseTime_setBaseState]
  · rw [holdover_of_other hlocked]

include hc

theorem baseState_holdover : baseState (holdover s b) b = if baseState s b = tbLocked then tbHoldover else baseState s b := by
  by_cases hlocked : baseState s b = tbLocked
  · rw [holdover_of_locked hlocked, baseState_timEvent hb, baseState_setAdj (mwf_regs_setBaseState hc _),
      baseState_setBaseState hc (by decide), if_pos hlocked]
  · rw [holdover_of_other hlocked, if_neg hlocked]

theorem holdTimeout_of_locked (hlocked : baseState s b = tbLocked) (hsrc : baseSrc s b ≠ 2) :
    baseState (holdTimeout s b) b = tbHoldover ∧ baseOf (holdTimeout s b) b = { baseOf s b with adj := (baseOf s b).integ }
      ∧ rb (holdTimeout s b) Adr.timEvent (8 + b) = true ∧ baseTime (holdTimeout s b) b = baseTime s b := by
  rw [holdTimeout, if_neg hsrc]
  refine ⟨by rw [baseState_holdover hc hb, if_pos hlocked], ?_, ?_, baseTime_holdover hb⟩
  · rw [holdover_of_locked hlocked]; simp
  · rw [holdover_of_locked hlocked]
    exact rb_timEvent_same (mwf_regs_setAdj (mwf_regs_setBaseState hc _) _) (by omega)

end

theorem held_holdover (s : State) (b : Nat) : (baseOf (holdover s b) b).held = (baseOf s b).held := by
  by_cases hlocked : baseState s b = tbLocked
  · rw [holdover_of_locked hlocked]; simp
  · rw [holdover_of_other hlocked]

theorem mwf_regs_holdover (hc : mwf resetWord s.regs = true) : mwf resetWord (holdover s b).regs = true := by
  by_cases hlocked : baseState s b = tbLocked
  · rw [holdover_of_locked hlocked]
    exact (timEvent_reports _ _).canon (mwf_regs_wb (mwf_regs_setAdj (mwf_regs_setBaseState hc _) _) ..)
  · rwa [holdover_of_other hlocked]

theorem holdTimeout_of_exempt (h : baseSrc s b = 2 ∨ baseState s b ≠ tbLocked) : holdTimeout s b = s := by
  rcases h with hnone | hother
  · exact if_pos hnone
  · exact ite_eq_left_iff.mpr fun _ => holdover_of_other hother

/-! ## Samples -/

/-- STEP_THR of a base in 2^-16 ns. -/
def stepThr (s : State) (b : Nat) : Int := (max 1 (rf s (Adr.timTbCfg b) 15 0) * 100 * 65536 : Nat)

/-- I of a base after a sample that is taken. -/
def integAfter (s : State) (b : Nat) (th : Int) : Int := clampPpb ((baseOf s b).integ + (rf s (Adr.timTbServo b) 15 0 : Nat) * th)

/-- The servo's registers as they stand once a sample is shown. -/
theorem rf_timTbServo_shown (s : State) (b : Nat) (th : Int) (hi lo : Nat) :
    rf (setHeld (putOffset s b th false) b none) (Adr.timTbServo b) hi lo = rf s (Adr.timTbServo b) hi lo :=
  rf_congr ((rd_setHeld_other _ _ _ (by unfold Adr.timTbServo Adr.timTbStat; omega)).trans
    (rd_putOffset_other _ _ _ _ (by unfold Adr.timTbServo Adr.timTbOffset; omega))) hi lo

theorem sampleTake_of_within {th : Int} (hlo : -stepThr s b ≤ th) (hhi : th ≤ stepThr s b) :
    sampleTake s b th =
      let v := setHeld (putOffset s b th false) b none
      let u := setBase v b { baseOf v b with integ := integAfter s b th, stepped := false }
      setBaseState (setAdj u b (clampPpb ((rf s (Adr.timTbServo b) 31 16 : Nat) * th * 16 + integAfter s b th))) b tbLocked := by
  have hinteg : (baseOf (setHeld (putOffset s b th false) b none) b).integ = (baseOf s b).integ := by simp
  rw [integAfter, ← rf_timTbServo_shown s b th 15 0, ← rf_timTbServo_shown s b th 31 16, ← hinteg]
  exact if_pos ⟨hlo, hhi⟩

theorem sampleTake_of_beyond {th : Int} (h : th < -stepThr s b ∨ stepThr s b < th) :
    sampleTake s b th = timEvent (holdover (setHeld (putOffset s b th true) b (some th)) b) (16 + b) :=
  if_neg (show ¬ (-stepThr s b ≤ th ∧ th ≤ stepThr s b) by omega)

section
variable (hc : mwf resetWord s.regs = true) (hb : b < 8)
include hc

theorem sampleTake_within {th : Int} (hlo : -stepThr s b ≤ th) (hhi : th ≤ stepThr s b) :
    baseState (sampleTake s b th) b = tbLocked ∧ baseTime (sampleTake s b th) b = baseTime s b
      ∧ (baseOf (sampleTake s b th) b).held = none ∧ (baseOf (sampleTake s b th) b).integ = integAfter s b th
      ∧ (baseOf (sampleTake s b th) b).adj = clampPpb ((rf s (Adr.timTbServo b) 31 16 : Nat) * th * 16 + integAfter s b th) := by
  rw [sampleTake_of_within hlo hhi]
  dsimp only
  have hshown : mwf resetWord (setHeld (putOffset s b th false) b none).regs = true := mwf_regs_setHeld (mwf_regs_putOffset hc ..) _
  refine ⟨?state, ?time, by simp, by simp, by simp⟩
  case state =>
    refine baseState_setBaseState (mwf_regs_setAdj ?_ _) (by decide)
    rwa [regs_setBase]
  case time => rw [baseTime_setBaseState, baseTime_setAdj, baseTime_setBase, baseTime_setHeld, baseTime_putOffset]

include hb

theorem sampleTake_beyond {th : Int} (h : th < -stepThr s b ∨ stepThr s b < th) :
    baseTime (sampleTake s b th) b = baseTime s b ∧ (baseOf (sampleTake s b th) b).held = some th
      ∧ rb (sampleTake s b th) Adr.timEvent (16 + b) = true
      ∧ baseState (sampleTake s b th) b = (if baseState s b = tbLocked then tbHoldover else baseState s b) := by
  have hcs : mwf resetWord (setHeld (putOffset s b th true) b (some th)).regs = true := mwf_regs_setHeld (mwf_regs_putOffset hc ..) _
  rw [sampleTake_of_beyond h]
  refine ⟨?time, ?held, rb_timEvent_same (mwf_regs_holdover hcs) (by omega), ?state⟩
  case time => rw [baseTime_timEvent hb, baseTime_holdover hb, baseTime_setHeld, baseTime_putOffset]
  case held => rw [baseOf_timEvent, held_holdover, baseOf_setHeld]
  case state =>
    rw [baseState_timEvent hb, baseState_holdover hcs hb, baseState_setHeld (mwf_regs_putOffset hc ..), baseState_putOffset]

end

/-! ## A sample written by the host -/

theorem wrOk_tim (s : State) (who : Requester) (off : Nat) : (wrOk s who off).tim = s.tim := by
  unfold wrOk noteWrite noteWriteAt
  rfl

theorem rd_of_regs (h : t.regs = s.regs) (a : Nat) : rd t a = rd s a := by rw [rd, rd, h]

theorem rb_of_regs (h : t.regs = s.regs) (a i : Nat) : rb t a i = rb s a i := rb_congr (rd_of_regs h a) i

theorem baseState_of_regs (h : t.regs = s.regs) : baseState t b = baseState s b := rf_congr (rd_of_regs h _) 31 28

theorem baseTime_of_regs (h : t.regs = s.regs) : baseTime t b = baseTime s b := baseTime_congr fun a _ _ => rd_of_regs h a

theorem baseOf_of_tim (h : t.tim = s.tim) : baseOf t b = baseOf s b := by rw [baseOf, baseOf, h]

theorem offsetWrite_of_host {who : Requester} (hup : islDown s 339 = false) (howns : isOwner s who 339 4 0 = true)
    (hsrc : baseSrc s b = 0) (hset : baseState s b ≠ tbUnset) (v : Nat) :
    offsetWrite s who b v = wrOk (sampleTake s b (signed 48 (nfld v 47 0))) who (Adr.timTbOffset b) := by
  rw [offsetWrite, if_neg (by simp [hup]), if_neg (by simp [howns])]
  dsimp only
  rw [if_pos ⟨hsrc, hset⟩]

end Sys2Proof.Machine

open Sys2Proof.Machine

/-- Settles O44: HOLDOVER freezes ADJ at I, and a sample within STEP_THR locks the base again. -/
theorem unsampledBaseHoldsOverUntilTheNextSample : Obligations.UnsampledBaseHoldsOverUntilTheNextSample := by
  refine ⟨fun s b hc hb hlocked hsrc => ⟨_, congrArg Host.Outcome.next (if_pos hb), holdTimeout_of_locked hc.1 hb hlocked hsrc⟩,
    fun s b hb hexempt => congrArg Host.Outcome.next ((if_pos hb).trans (holdTimeout_of_exempt hexempt)),
    fun s who b v hc hb hup howns hsrc hset => ?_⟩
  intro th thr
  have hexec : exec (.offsetSample who b v) s = .next (wrOk (sampleTake s b th) who (Adr.timTbOffset b)) :=
    congrArg Host.Outcome.next ((if_pos hb).trans (offsetWrite_of_host hup howns hsrc hset v))
  obtain ⟨hregs, -⟩ := wrOk_regs_own (sampleTake s b th) who (Adr.timTbOffset b)
  have htim := wrOk_tim (sampleTake s b th) who (Adr.timTbOffset b)
  rw [hexec]
  refine ⟨fun hlo hhi => ⟨_, rfl, ?within⟩, fun hbeyond => ⟨_, rfl, ?beyond⟩⟩
  case within =>
    obtain ⟨hstate, htime, hheld, hinteg, hadj⟩ := sampleTake_within hc.1 hlo hhi
    rw [baseState_of_regs hregs, baseTime_of_regs hregs, baseOf_of_tim htim]
    exact ⟨hstate, htime, hheld, hinteg, hadj.trans (by rw [hinteg])⟩
  case beyond =>
    rw [baseState_of_regs hregs, baseTime_of_regs hregs, baseOf_of_tim htim, rb_of_regs hregs]
    exact sampleTake_beyond hc.1 hb hbeyond
end

section
/-! SUPPORT AND PROOFS. Forced steps and settings of the time bases (R357, R358, R363). -/
namespace Sys2Proof.Machine

variable {s : State} {who : Requester} {b ofs mode x : Nat}

/-! ## The word of a forced step -/

theorem fld_eq_div_mod (w : Word) (hi lo : Nat) : fld w hi lo = w.toNat / 2 ^ lo % 2 ^ (hi + 1 - lo) := by
  rw [fld, BitVec.extractLsb'_toNat, Nat.shiftRight_eq_div_pow]

theorem toNat_forceWord (hmode : mode < 16) : (forceWord mode b x).toNat = mode * 2 ^ 28 + b % 8 * 2 ^ 16 + x % 2 ^ 16 :=
  (BitVec.toNat_ofNat ..).trans (Nat.mod_eq_of_lt (by omega))

theorem fld_forceWord_base (hmode : mode < 16) (hb : b < 8) : fld (forceWord mode b x) 18 16 = b := by
  rw [fld_eq_div_mod, toNat_forceWord hmode]
  omega

theorem fld_forceWord_mode (hmode : mode < 16) : fld (forceWord mode b x) 31 28 = mode := by
  rw [fld_eq_div_mod, toNat_forceWord hmode]
  omega

theorem fld_forceWord_confirm (hmode : mode < 16) (hx : x < 65536) : fld (forceWord mode b x) 15 0 = x := by
  rw [fld_eq_div_mod, toNat_forceWord hmode]
  omega

/-! ## Forced steps -/

section
variable (hb : b < 8) (hup : islDown s 339 = false) (hpf : isPfSide s who = true)
include hb hup hpf

omit hb in
/-- Without its CONFIRM a forced step does nothing. -/
theorem forceStepWrite_of_unconfirmed (hmode : mode < 16) (hx : x < 65536) (hwrong : x ≠ 0x57E9) :
    forceStepWrite s who (forceWord mode b x) ofs = wrOk s who Adr.timForceStep := by
  rw [forceStepWrite, if_neg (by simp [hup]), if_neg (by simp [hpf]), fld_forceWord_confirm hmode hx, if_pos (.inl hwrong)]

/-- A confirmed forced step of either mode. -/
theorem forceStepWrite_of_confirmed (hmode : mode = 1 ∨ mode = 2) :
    forceStepWrite s who (forceWord mode b 0x57E9) ofs =
      if baseState s b = tbUnset then wrRefuse s who Adr.timForceStep .outOfRange
      else if mode = 1 then
        match (baseOf s b).held with
        | some th => wrOk (forceStep (setHeld s b none) b ((baseAt s b ofs : Int) + th).toNat ofs) who Adr.timForceStep
        | none => wrRefuse s who Adr.timForceStep .outOfRange
      else
        match (baseOf s b).staged with
        | some t => wrOk (forceStep (setBase s b { baseOf s b with staged := none }) b (timeTicks t) ofs) who Adr.timForceStep
        | none => wrRefuse s who Adr.timForceStep .outOfRange := by
  rw [forceStepWrite, fld_forceWord_confirm (by omega) (by decide), fld_forceWord_base (by omega) hb, fld_forceWord_mode (by omega)]
  exact (if_neg (by simp [hup])).trans ((if_neg (by simp [hpf])).trans (if_neg (by omega)))

theorem forceStepWrite_of_unset (hmode : mode = 1 ∨ mode = 2) (hunset : baseState s b = tbUnset) :
    forceStepWrite s who (forceWord mode b 0x57E9) ofs = wrRefuse s who Adr.timForceStep .outOfRange := by
  rw [forceStepWrite_of_confirmed hb hup hpf hmode, if_pos hunset]

variable (hset : baseState s b ≠ tbUnset)
include hset

theorem forceStepWrite_offset_of_held {th : Int} (hheld : (baseOf s b).held = some th) :
    forceStepWrite s who (forceWord 1 b 0x57E9) ofs =
      wrOk (forceStep (setHeld s b none) b ((baseAt s b ofs : Int) + th).toNat ofs) who Adr.timForceStep := by
  rw [forceStepWrite_of_confirmed hb hup hpf (.inl rfl), if_neg hset, if_pos rfl, hheld]

theorem forceStepWrite_offset_of_none (hheld : (baseOf s b).held = none) :
    forceStepWrite s who (forceWord 1 b 0x57E9) ofs = wrRefuse s who Adr.timForceStep .outOfRange := by
  rw [forceStepWrite_of_confirmed hb hup hpf (.inl rfl), if_neg hset, if_pos rfl, hheld]

theorem forceStepWrite_absolute_of_staged {t : Nat} (hstaged : (baseOf s b).staged = some t) :
    forceStepWrite s who (forceWord 2 b 0x57E9) ofs =
      wrOk (forceStep (setBase s b { baseOf s b with staged := none }) b (timeTicks t) ofs) who Adr.timForceStep := by
  rw [forceStepWrite_of_confirmed hb hup hpf (.inr rfl), if_neg hset, if_neg (by decide), hstaged]

end

/-! ## Settings -/

section
variable (hup : islDown s 339 = false) (hpf : isPfSide s who = true) {v : Nat}
include hup hpf

theorem tbSetWrite_of_bad (hbad : timeOk (nfld v 127 32) = false) :
    tbSetWrite s who b v ofs = wrRefuse s who (Adr.timTbSet b) .outOfRange := by
  rw [tbSetWrite, if_neg (by simp [hup]), if_neg (by simp [hpf])]
  exact if_pos (by simp [hbad])

variable (hok : timeOk (nfld v 127 32) = true)
include hok

theorem tbSetWrite_of_unset (hunset : baseState s b = tbUnset) :
    tbSetWrite s who b v ofs = wrOk (baseFirstSet s b (timeTicks (nfld v 127 32)) ofs) who (Adr.timTbSet b) := by
  rw [tbSetWrite, if_neg (by simp [hup]), if_neg (by simp [hpf])]
  exact (if_neg (by simp [hok])).trans (if_pos hunset)

theorem tbSetWrite_of_set (hset : baseState s b ≠ tbUnset) :
    tbSetWrite s who b v ofs = wrOk (setBase s b { baseOf s b with staged := some (nfld v 127 32) }) who (Adr.timTbSet b) := by
  rw [tbSetWrite, if_neg (by simp [hup]), if_neg (by simp [hpf])]
  exact (if_neg (by simp [hok])).trans (if_neg hset)

end

end Sys2Proof.Machine

open Sys2Proof.Machine

/-- Settles O45: a forced step by its CONFIRM, its base's STATE and what is held or staged; a setting by its time and the STATE. -/
theorem basesAreSetAndSteppedByTheHost : Obligations.BasesAreSetAndSteppedByTheHost := by
  intro s who b ofs hb hup hpf
  refine ⟨fun hset => ⟨fun th hheld => ?held, fun hnone => ?notHeld, fun x hstaged => ?staged⟩, fun hunset => ⟨?unsetOffset, ?unsetAbsolute⟩,
    fun x hx hwrong => ⟨?plainOffset, ?plainAbsolute⟩, fun v => ⟨fun hbad => ?bad, fun hok hunset => ?first, fun hok hset => ?stage⟩⟩
  case held => exact congrArg Host.Outcome.next (forceStepWrite_offset_of_held hb hup hpf hset hheld)
  case notHeld => exact congrArg Host.Outcome.next (forceStepWrite_offset_of_none hb hup hpf hset hnone)
  case staged => exact congrArg Host.Outcome.next (forceStepWrite_absolute_of_staged hb hup hpf hset hstaged)
  case unsetOffset => exact congrArg Host.Outcome.next (forceStepWrite_of_unset hb hup hpf (.inl rfl) hunset)
  case unsetAbsolute => exact congrArg Host.Outcome.next (forceStepWrite_of_unset hb hup hpf (.inr rfl) hunset)
  case plainOffset => exact congrArg Host.Outcome.next (forceStepWrite_of_unconfirmed hup hpf (by decide) hx hwrong)
  case plainAbsolute => exact congrArg Host.Outcome.next (forceStepWrite_of_unconfirmed hup hpf (by decide) hx hwrong)
  case bad => exact congrArg Host.Outcome.next ((if_pos hb).trans (tbSetWrite_of_bad hup hpf hbad))
  case first => exact congrArg Host.Outcome.next ((if_pos hb).trans (tbSetWrite_of_unset hup hpf hok hunset))
  case stage => exact congrArg Host.Outcome.next ((if_pos hb).trans (tbSetWrite_of_set hup hpf hok hset))
end

section
/-! SUPPORT AND PROOFS. PPS, time of day, and capture inputs (R372 to R376). -/
namespace Sys2Proof.Machine

variable {s : State} {i ofs : Nat} {who : Requester}

/-! ## PPS_IN and its messages -/

theorem ppsEdge_of_off (h : rfW s Adr.timPpsCfg 2 35 35 = 0) : ppsEdge s ofs = s := if_pos h

section
variable (hon : rfW s Adr.timPpsCfg 2 35 35 = 1)
include hon

theorem ppsEdge_of_near (hlast : s.tim.ppsLast ≠ 0) (hnear : devNs s ofs + 1 < s.tim.ppsLast + 900000000) :
    ppsEdge s ofs = timEvent (satF s Adr.timPpsCfg 11 0 1) 6 := by
  rw [ppsEdge, if_neg (by rw [hon]; decide), if_pos ⟨hlast, hnear⟩]

theorem ppsEdge_of_far (hfar : s.tim.ppsLast = 0 ∨ s.tim.ppsLast + 900000000 ≤ devNs s ofs + 1) :
    ppsEdge s ofs = (List.range 8).foldl (fun u b => ppsSample u ofs s.tim.tod b)
      (wb (timSet s fun t => { t with ppsLast := devNs s ofs + 1, tod := none }) Adr.timEvent 7 false) := by
  rw [ppsEdge, if_neg (by rw [hon]; decide), if_neg (by omega)]

theorem ppsStuck_of_new (hnew : rb s Adr.timEvent 7 = false) : ppsStuck s = timEvent s 7 := if_pos ⟨hon, hnew⟩

end

theorem ppsStuck_of_off (h : rfW s Adr.timPpsCfg 2 35 35 = 0) : ppsStuck s = s := if_neg (by rw [h]; simp)

theorem ppsStuck_of_reported (h : rb s Adr.timEvent 7 = true) : ppsStuck s = s := if_neg (by simp [h])

section
variable (hon : rb s Adr.timTodCfg 30 = true) {m : List Byte}
include hon

theorem todMessage_of_good (hlen : m.length = 16) (hhead : ofBytesBE (m.take 3) = 0xC53A01) (hvalid : (m.getD 3 0).toNat.testBit 0 = true)
    (hcrc : crc16 (m.take 14) = ofBytesBE (m.drop 14)) (hlast : s.tim.ppsLast ≠ 0) (hlo : s.tim.ppsLast + 10000000 ≤ devNs s ofs + 1)
    (hhi : devNs s ofs + 1 ≤ s.tim.ppsLast + 900000000) :
    todMessage s m ofs = timSet s fun t => { t with tod := some (ofBytesBE ((m.drop 4).take 6)) } := by
  have hearly : 10000000 ≤ devNs s ofs + 1 - s.tim.ppsLast := by omega
  have hlate : devNs s ofs + 1 - s.tim.ppsLast ≤ 900000000 := by omega
  rw [todMessage, if_neg (by simp [hon])]
  exact if_pos (by rw [hlen, hhead, hvalid, hcrc]; simp [hlast, hearly, hlate])

theorem todMessage_of_broken (h : m.length ≠ 16 ∨ crc16 (m.take 14) ≠ ofBytesBE (m.drop 14)) : todMessage s m ofs = timEvent s 5 := by
  rw [todMessage, if_neg (by simp [hon])]
  refine if_neg ?_
  rcases h with h | h <;> simp [h]

end

/-! ## PPS_OUT, and the latch of a C50 channel -/

theorem ppsPulse_of_set (hfree : outsHeld s = false) (hon : rfW s Adr.timPpsCfg 2 63 63 = 1)
    (hset : baseState s (rfW s Adr.timPpsCfg 2 62 60) ≠ tbUnset) (hpair : prtOutOk s = true) (htod : rb s Adr.timTodCfg 31 = false) :
    ppsPulse s ofs = emit s (.pulse ppsOut (rfW s Adr.timPpsCfg 2 59 48 * 100000)) := by
  have hpin (o : Sent) : emitPin s o = emit s o := if_neg (by simp [hfree])
  rw [ppsPulse, if_pos ⟨hon, hset, hpair⟩, hpin]
  exact if_neg (Bool.eq_false_iff.mp htod)

theorem c50Arm_of_owner {c : Nat} (hup : islDown s c = false) (howns : isOwner s who c 4 0 = true) (w : Word) :
    c50Arm s who c w = wrOk (wrW s (Adr.chnTimeC50 c) (w.toNat * 2 ^ 96) 4) who (Adr.chnTimeC50 c + 12) := by
  rw [c50Arm, if_neg (by simp [hup]), if_neg (by simp [howns])]

theorem pulsesAndTimeOfDayAreTakenAndSent : Sys2Proof.Rules.PulsesAndTimeOfDayAreTakenAndSent := by
  intro s ofs a
  refine ⟨fun hon => ⟨fun hlast hnear => ?near, fun hfar => ?far, fun hnew => ?stuck, fun hold => ?reported⟩, fun hoff => ⟨?edgeOff, ?stuckOff⟩,
    fun m hon => ⟨fun hlen hhead hvalid hcrc hlast hlo hhi => ?good, fun hbroken => ?broken⟩, fun hfree hon hset hpair htod => ?pulse,
    fun who c w hc hup howns => ?arm⟩
  case near => exact congrArg Host.Outcome.next (ppsEdge_of_near hon hlast hnear)
  case far => exact congrArg Host.Outcome.next (ppsEdge_of_far hon hfar)
  case stuck => exact congrArg Host.Outcome.next (ppsStuck_of_new hon hnew)
  case reported => exact congrArg Host.Outcome.next (ppsStuck_of_reported hold)
  case edgeOff => exact congrArg Host.Outcome.next (ppsEdge_of_off hoff)
  case stuckOff => exact congrArg Host.Outcome.next (ppsStuck_of_off hoff)
  case good => exact congrArg Host.Outcome.next (todMessage_of_good hon hlen hhead hvalid hcrc hlast hlo hhi)
  case broken => exact congrArg Host.Outcome.next (todMessage_of_broken hon hbroken)
  case pulse => exact congrArg Host.Outcome.next (ppsPulse_of_set hfree hon hset hpair htod)
  case arm => exact congrArg Host.Outcome.next ((if_pos hc).trans (c50Arm_of_owner hup howns w))

/-! ## Capture inputs -/

section
variable (hon : nbit (rdW s (Adr.timCapCfg i) 2) 63 = true)
include hon

/-- An edge of EDGE on an input that takes every instant. -/
theorem capEdge_of_taken {rising : Bool} (hedge : nbit (nfld (rdW s (Adr.timCapCfg i) 2) 62 61) (if rising then 0 else 1) = true)
    (hwin : nbit (rdW s (Adr.timCapCfg i) 2) 57 = false) {u : State}
    (hu : wb (wb s (Adr.timCapStat i) 30 rising) (Adr.timCapStat i) 31 false = u) :
    capEdge s i rising ofs =
      if (capOf s i).last ≠ 0 ∧ devNs u ofs + 1 < (capOf s i).last + max 1 (nfld (rdW s (Adr.timCapCfg i) 2) 31 16) * 1000 then
        setCap (satF u (Adr.timCapStat i) 7 0 1) i { capOf s i with absorbed := (capOf s i).absorbed + 1 }
      else capPut (setCap u i { capOf s i with last := devNs u ofs + 1 }) i
        (ticksTime (baseAt u (nfld (rdW s (Adr.timCapCfg i) 2) 60 58) ofs)) rising false := by
  have hcap : capOf u i = capOf s i := by rw [← hu]; rfl
  rw [capEdge, if_neg (by simp [hon])]
  dsimp only
  rw [if_neg (by simp [hedge]), hu, hcap]
  exact if_neg (by simp [hwin])

theorem capStuck_of_new (htimed : nfld (rdW s (Adr.timCapCfg i) 2) 15 0 ≠ 0) (hnew : rb s (Adr.timCapStat i) 31 = false) :
    capStuck s i ofs =
      timEvent (wb (capPut s i (ticksTime (baseAt s (nfld (rdW s (Adr.timCapCfg i) 2) 60 58) ofs)) (rb s (Adr.timCapStat i) 30) true)
        (Adr.timCapStat i) 31 true) 4 := if_pos (by simp [hon, htimed, hnew])

end

theorem capPut_of_full (hfull : 16 ≤ (capOf s i).fifo.length) (t : Nat) (rising stuck : Bool) :
    capPut s i t rising stuck = satF s (Adr.timCapStat i) 15 8 1 := if_pos hfull

theorem latchWords_tim (s : State) (who : Requester) (a v n : Nat) : (latchWords s who a v n).tim = s.tim := by
  induction n generalizing s a v with
  | zero => rfl
  | succ n ih => exact ih ..

theorem latchWords_ret (s : State) (who : Requester) (a v n : Nat) : (latchWords s who a v n).acc.ret = s.acc.ret := by
  induction n generalizing s a v with
  | zero => rfl
  | succ n ih => exact ih ..

@[simp] theorem capOf_setCap (s : State) (i : Nat) (c : CapSt) : capOf (setCap s i c) i = c := mget_mput_same ..

/-- A read takes the oldest record off the input and returns its first word. -/
theorem capRead_of_cons {r : Nat} {rest : List Nat} (hfifo : (capOf s i).fifo = r :: rest) :
    capOf (capRead s who i) i = { capOf s i with fifo := rest }
      ∧ (capRead s who i).acc.ret = mset 0 s.acc.ret who.code (BitVec.ofNat 32 r) := by
  unfold capRead
  dsimp only
  rw [hfifo]
  constructor
  · refine (congrArg (fun m : TimeSt => mget {} m.cap i) (latchWords_tim _ who (Adr.timCapFifo i) r 4)).trans ?_
    exact capOf_setCap s i _
  · exact congrArg (fun m => mset 0 m who.code (BitVec.ofNat 32 r)) (latchWords_ret _ who (Adr.timCapFifo i) r 4)

theorem captureInputsRecordTheirEdges : Sys2Proof.Rules.CaptureInputsRecordTheirEdges := by
  intro s i hi cfg
  refine ⟨fun rising ofs hon hedge hwin => ?edge, fun ofs hon htimed hnew => ?stuck, fun t rising stuck hfull => capPut_of_full hfull t rising stuck,
    fun who r rest hup hfifo => ?read⟩
  case edge =>
    have htaken := capEdge_of_taken (ofs := ofs) hon hedge hwin rfl
    refine ⟨fun hlast hnear => ?_, fun hfar => ?_⟩
    · exact congrArg Host.Outcome.next ((if_pos hi).trans (htaken.trans (if_pos ⟨hlast, hnear⟩)))
    · exact congrArg Host.Outcome.next ((if_pos hi).trans (htaken.trans (if_neg fun ⟨hlast, hnear⟩ =>
        hfar.elim hlast (Nat.not_le.mpr hnear))))
  case stuck => exact congrArg Host.Outcome.next ((if_pos hi).trans (capStuck_of_new hon htimed hnew))
  case read => exact ⟨_, congrArg Host.Outcome.next ((if_pos hi).trans (if_neg (by simp [hup]))), capRead_of_cons hfifo⟩

end Sys2Proof.Machine

open Sys2Proof.Machine

/-- Settles O46: the edges, messages and pulses of the pins, and the records of the capture inputs. -/
theorem pulsesCapturesAndTimeOfDay : Obligations.PulsesCapturesAndTimeOfDay :=
  ⟨pulsesAndTimeOfDayAreTakenAndSent, captureInputsRecordTheirEdges⟩
end

section
/-! SUPPORT AND PROOFS. The flash commands (R394). -/
namespace Sys2Proof.Machine

variable {s t : State} {r slot ofs len host : Nat}

theorem KeepsUnits.flash (h : KeepsUnits s t) : t.flash = s.flash := by unfold KeepsUnits at h; rw [← h]

@[simp] theorem cmdPut_flash (s : State) (x : CmdCtx) (o : OutRec) : (cmdPut s x o).flash = s.flash := (KeepsUnits.cmdPut s x o).flash

theorem length_mbytes (d : Byte) (m : SMap Byte) (a n : Nat) : (mbytes d m a n).length = n := by
  induction n generalizing a with
  | zero => rfl
  | succ n ih => rw [mbytes, List.length_cons, ih]

/-- A copy of n bytes puts them at its destination. -/
theorem mbytes_mputBytes_mbytes {d e : Byte} {m k : SMap Byte} (hm : mwf (fun _ => d) m = true) (a b n : Nat) :
    mbytes d (mputBytes d m a (mbytes e k b n)) a n = mbytes e k b n := by
  have hcopy := mbytes_mputBytes d (mbytes e k b n) m a hm
  rwa [length_mbytes] at hcopy

/-- A copy of n bytes changes no byte outside its destination. -/
theorem mget_mputBytes_mbytes_other {d e : Byte} {m k : SMap Byte} {a b n x : Nat} (hx : x < a ∨ a + n ≤ x) :
    mget d (mputBytes d m a (mbytes e k b n)) x = mget d m x :=
  mget_mputBytes_other _ _ _ _ _ _ (by rwa [length_mbytes])

theorem flashCmd_of_range {c : CmdCtx} (hfn : c.fn = 0) (hslot : slot < 2) (hrange : ofs + len ≤ 2 ^ 24) (f : Nat → State) :
    flashCmd s c slot ofs len f = (f (slot * 2 ^ 24 + ofs), doneRec) := by
  rw [flashCmd, flashAt, if_pos ⟨hslot, hrange⟩]
  exact if_pos hfn

theorem flashCmd_of_beyond {c : CmdCtx} (hrange : 2 ^ 24 < ofs + len) (f : Nat → State) :
    flashCmd s c slot ofs len f = (s, refusal .outOfRange) := by
  rw [flashCmd, flashAt, if_neg (fun ⟨_, hin⟩ => Nat.not_le.mpr hrange hin)]

/-- The sectors from a byte's to another's, as the bytes from their first to their end. -/
theorem sector_range {a n : Nat} (hn : 0 < n) (x : Nat) :
    (!(decide (x < a / 65536 * 65536) || decide (ceilDiv (a + n) 65536 * 65536 ≤ x)))
      = decide (a / 65536 ≤ x / 65536 ∧ x / 65536 ≤ (a + n - 1) / 65536) := by
  have hiff : ¬ (x < a / 65536 * 65536 ∨ ceilDiv (a + n) 65536 * 65536 ≤ x)
      ↔ a / 65536 ≤ x / 65536 ∧ x / 65536 ≤ (a + n - 1) / 65536 := by
    unfold ceilDiv
    omega
  rw [← Bool.decide_or, ← decide_not]
  exact decide_eq_decide.mpr hiff

/-- An erased flash reads erased in the range's sectors and as before elsewhere. -/
theorem mget_erased {m : SMap Byte} {a n : Nat} (hn : 0 < n) (x : Nat) :
    mget 0xFF (m.filter fun p => decide (p.1 < a / 65536 * 65536) || decide (ceilDiv (a + n) 65536 * 65536 ≤ p.1)) x
      = if a / 65536 ≤ x / 65536 ∧ x / 65536 ≤ (a + n - 1) / 65536 then 0xFF else mget 0xFF m x := by
  have hsector := sector_range (a := a) hn x
  rw [mget_filter_key 0xFF m (fun k => decide (k < a / 65536 * 65536) || decide (ceilDiv (a + n) 65536 * 65536 ≤ k))]
  by_cases hin : a / 65536 ≤ x / 65536 ∧ x / 65536 ≤ (a + n - 1) / 65536
  · rw [if_pos hin]; rw [decide_eq_true hin] at hsector; exact if_neg (by simpa using hsector)
  · rw [if_neg hin]; rw [decide_eq_false hin] at hsector; exact if_pos (Bool.not_eq_false' .. |>.mp hsector)

section
variable (hfn : (slotCtx s r).fn = 0) (hslot : slot < 2) (hrange : ofs + len ≤ 2 ^ 24)
include hfn hslot hrange

theorem exec_flashWrite_of_range (htake : ringTakes s r 0x0001) :
    exec (.flashWrite r slot ofs host len) s = .next (cmdPut { ringStep s r with
      flash := mputBytes 0xFF s.flash (slot * 2 ^ 24 + ofs) (mbytes 0 s.hostMem host len) } (slotCtx s r) doneRec) := by
  refine congrArg Host.Outcome.next ?_
  rw [runCmdNow_of_takes htake, flashWrite, flashCmd_of_range hfn hslot hrange]
  rfl

theorem exec_flashErase_of_range (htake : ringTakes s r 0x0002) (hlen : 0 < len) :
    exec (.flashErase r slot ofs len) s = .next (cmdPut { ringStep s r with
      flash := s.flash.filter fun p => decide (p.1 < (slot * 2 ^ 24 + ofs) / 65536 * 65536)
        || decide (ceilDiv (slot * 2 ^ 24 + ofs + len) 65536 * 65536 ≤ p.1) } (slotCtx s r) doneRec) := by
  refine congrArg Host.Outcome.next ?_
  rw [runCmdNow_of_takes htake, flashErase, flashCmd_of_range hfn hslot hrange]
  dsimp only
  rw [if_neg (by omega)]
  rfl

theorem exec_flashRead_of_range (htake : ringTakes s r 0x0003) :
    exec (.flashRead r slot ofs host len) s
      = .next (cmdPut (putHost (ringStep s r) host (mbytes 0xFF s.flash (slot * 2 ^ 24 + ofs) len)) (slotCtx s r) doneRec) := by
  refine congrArg Host.Outcome.next ?_
  rw [runCmdNow_of_takes htake, flashRead, flashCmd_of_range hfn hslot hrange]
  rfl

end

end Sys2Proof.Machine

open Sys2Proof.Machine

/-- Settles O50: each flash command as its range of flash and of host memory. -/
theorem flashCommandsTouchOnlyTheirRange : Obligations.FlashCommandsTouchOnlyTheirRange := by
  intro s r slot ofs host len hcanon hfn hslot a
  obtain ⟨-, -, hhost, hflash, -⟩ := hcanon
  refine ⟨fun hrange => ⟨fun htake => ⟨_, exec_flashWrite_of_range hfn hslot hrange htake, ?write, ?writeOther, ?writeHost⟩,
    fun htake hlen => ⟨_, exec_flashErase_of_range hfn hslot hrange htake hlen, fun x => ?erase⟩,
    fun htake => ⟨_, exec_flashRead_of_range hfn hslot hrange htake, ?read, ?readOther, ?readFlash⟩⟩, fun hrange htake => ?beyond⟩
  case write => rw [cmdPut_flash]; exact mbytes_mputBytes_mbytes hflash a host len
  case writeOther => intro x hx; rw [cmdPut_flash]; exact mget_mputBytes_mbytes_other hx
  case writeHost => rw [cmdPut_hostMem]; rfl
  case erase => rw [cmdPut_flash]; exact mget_erased hlen x
  case read => rw [cmdPut_hostMem]; exact mbytes_mputBytes_mbytes hhost host a len
  case readOther => intro x hx; rw [cmdPut_hostMem]; exact mget_mputBytes_mbytes_other hx
  case readFlash => rw [cmdPut_flash]; rfl
  case beyond =>
    refine congrArg Host.Outcome.next ?_
    rw [runCmdNow_of_takes htake, flashWrite, flashCmd_of_beyond hrange]
end

section
/-! SUPPORT AND PROOFS. The instructions of DMA programs: LOOP and WAIT (R402, R403), SIGNAL, FENCE and END (R401, R404, R410). -/
namespace Sys2Proof.Machine

variable {s : State} {d : Nat} {p : DmaProg} {op : DmaOp}

/-! ## Taking an instruction -/

/-- A channel whose program takes op now runs it. -/
theorem dmaExec_of_dmaAt (h : dmaAt s d p op) (run : State → DmaProg → DmaOp → State) : dmaExec s d run = run s p op := by
  obtain ⟨hd, hbusy, hprog, hfence, hpc, a, b, c, w, hfetch, hdecode⟩ := h
  rw [dmaExec, if_pos ⟨hd, hbusy⟩, hprog]
  dsimp only
  rw [hfence, if_neg Bool.false_ne_true, if_neg (by omega), hfetch]
  dsimp only
  rw [hdecode]

theorem dmaAt.prog (h : dmaAt s d p op) : dmaProg s d = some p := by
  obtain ⟨-, -, hprog, -⟩ := h
  exact hprog

theorem dmaUpd_of_prog (h : dmaProg s d = some p) (f : DmaProg → DmaProg) : dmaUpd s d f = setDmaProg s d (f p) := by
  rw [dmaUpd, h]

@[simp] theorem dmaProg_setDmaProg (s : State) (d : Nat) (p : DmaProg) : dmaProg (setDmaProg s d p) d = some p := by
  rw [dmaProg, setDmaProg, find?_mput_same]
  rfl

/-! ## LOOP -/

/-- A jump back, with n more to come. -/
def loopJump (s : State) (d : Nat) (p : DmaProg) (target : Nat) (a b : Int) (n : Nat) : State :=
  setDmaPc (setDmaProg s d
    { p with loops := mput p.loops (dmaPc s d) n, ofsSrc := p.ofsSrc + a, ofsDst := p.ofsDst + b, done := p.done + 1 }) d target

section
variable {count target : Nat} {a b : Int} (hat : dmaAt s d p (.loop count target a b))
include hat

theorem exec_loop_of_dmaAt : exec (.loop d) s = .next (loopRun s d p (.loop count target a b)) :=
  congrArg Host.Outcome.next (dmaExec_of_dmaAt hat _)

theorem loopRun_of_new (hnew : p.loops.find? (·.1 = dmaPc s d) = none) (hroom : p.loops.length < 4) :
    loopRun s d p (.loop count target a b) = loopJump s d p target a b (count - 1) := by
  simp only [loopRun, hnew]
  rw [if_neg (by omega), dmaUpd_of_prog hat.prog]
  rfl

theorem loopRun_of_again {k n : Nat} (hopen : p.loops.find? (·.1 = dmaPc s d) = some (k, n + 1)) :
    loopRun s d p (.loop count target a b) = loopJump s d p target a b n := by
  simp only [loopRun, hopen]
  rw [dmaUpd_of_prog hat.prog]
  rfl

theorem loopRun_of_ended {k : Nat} (hopen : p.loops.find? (·.1 = dmaPc s d) = some (k, 0)) :
    loopRun s d p (.loop count target a b) = dmaNext (setDmaProg s d { p with loops := mdel p.loops (dmaPc s d) }) d := by
  simp only [loopRun, hopen]
  rw [dmaUpd_of_prog hat.prog]

end

theorem loopRun_of_deep {count target : Nat} {a b : Int} (hnew : p.loops.find? (·.1 = dmaPc s d) = none) (hdeep : 4 ≤ p.loops.length) :
    loopRun s d p (.loop count target a b) = dmaFail s d deLoopDepth := by
  simp only [loopRun, hnew]
  rw [if_pos hdeep]

theorem loopsRepeatCountTimesThenGoOn : Sys2Proof.Rules.LoopsRepeatCountTimesThenGoOn := by
  intro s d p count target a b hat i q jump
  refine ⟨fun hnew => ⟨fun hroom => ?first, fun hdeep => ?deep⟩, fun k n hopen => ?again, fun k hopen => ?ended⟩
  case first => exact (exec_loop_of_dmaAt hat).trans (congrArg Host.Outcome.next (loopRun_of_new hat hnew hroom))
  case deep => exact (exec_loop_of_dmaAt hat).trans (congrArg Host.Outcome.next (loopRun_of_deep hnew hdeep))
  case again => exact (exec_loop_of_dmaAt hat).trans (congrArg Host.Outcome.next (loopRun_of_again hat hopen))
  case ended => exact (exec_loop_of_dmaAt hat).trans (congrArg Host.Outcome.next (loopRun_of_ended hat hopen))

/-! ## WAIT -/

theorem waitTry_request_of_taken {l t ofs : Nat} {u : State} (h : reqTake s d l = some u) : waitTry s d ofs (.waitReq l t) = dmaNext u d := by
  simp only [waitTry, h]

theorem waitTry_request_of_none {l t ofs : Nat} (h : reqTake s d l = none) :
    waitTry s d ofs (.waitReq l t) = dmaWaits s d (some l) := by
  simp only [waitTry, h]

theorem waitTry_reg {a mask t ofs : Nat} {q : DevPlace} (h : devPlace s d a 4 = some q) :
    waitTry s d ofs (.waitReg a mask t) = if ofBytesLE (devRead s d q 4 ofs).2 &&& mask ≠ 0 then dmaNext (devRead s d q 4 ofs).1 d
      else dmaWaits (devRead s d q 4 ofs).1 d none := by
  simp only [waitTry, h]

theorem waitTry_time {tb x t ofs : Nat} (hset : baseState s tb ≠ tbUnset) :
    waitTry s d ofs (.waitTime tb x t) = if timeTicks x ≤ baseAt s tb ofs then dmaNext s d else dmaWaits s d none := if_neg hset

theorem waitsGoOnWaitOrTimeOut : Sys2Proof.Rules.WaitsGoOnWaitOrTimeOut := by
  intro s d p ofs
  refine ⟨fun l t hat => ⟨fun u htaken => ?taken, fun hnone => ?noRequest⟩,
    fun a mask t q hat hplace => ⟨fun hset => ?set, fun hclear => ?clear⟩,
    fun tb x t hat hset => ⟨fun hreached => ?reached, fun hearly => ?early, fun hwaiting => ?looked, fun hwaiting hlimit => ?expired, fun hlimit => ?unlimited⟩⟩
  case taken => exact congrArg Host.Outcome.next ((dmaExec_of_dmaAt hat _).trans (waitTry_request_of_taken htaken))
  case noRequest => exact congrArg Host.Outcome.next ((dmaExec_of_dmaAt hat _).trans (waitTry_request_of_none hnone))
  case set => exact congrArg Host.Outcome.next ((dmaExec_of_dmaAt hat _).trans ((waitTry_reg hplace).trans (if_pos hset)))
  case clear =>
    exact congrArg Host.Outcome.next ((dmaExec_of_dmaAt hat _).trans ((waitTry_reg hplace).trans (if_neg (not_not.mpr hclear))))
  case reached => exact congrArg Host.Outcome.next ((dmaExec_of_dmaAt hat _).trans ((waitTry_time hset).trans (if_pos hreached)))
  case early =>
    exact congrArg Host.Outcome.next ((dmaExec_of_dmaAt hat _).trans ((waitTry_time hset).trans (if_neg (Nat.not_le.mpr hearly))))
  case looked =>
    have hwait : exec (.waitTime d ofs) s = .next (waitTry s d ofs (.waitTime tb x t)) := congrArg Host.Outcome.next (dmaExec_of_dmaAt hat _)
    exact (congrArg Host.Outcome.next ((dmaExec_of_dmaAt hat _).trans (if_pos hwaiting))).trans hwait.symm
  case expired => exact congrArg Host.Outcome.next ((dmaExec_of_dmaAt hat _).trans (if_pos ⟨hlimit, hwaiting⟩))
  case unlimited => exact congrArg Host.Outcome.next ((dmaExec_of_dmaAt hat _).trans (if_neg fun h => h.1 hlimit))

/-! ## FENCE and END -/

theorem dmaFinish_of_prog (h : dmaProg s d = some p) :
    dmaFinish s d = dmaFinal s d { p with done := p.done + 1 } dsDone deNone { state := .done } := by
  rw [dmaFinish, h]

theorem fenceRun_of_untouched (h : p.touched = []) (ending : Bool) :
    fenceRun s d p ending = if ending then dmaFinish s d else dmaNext s d := if_pos (by rw [h]; rfl)

theorem fenceRun_of_touched (hprog : dmaProg s d = some p) (h : p.touched ≠ []) (ending : Bool) :
    fenceRun s d p ending = setDmaProg s d { p with fence := true, ending := ending } := by
  rw [fenceRun, if_neg (by simpa using h), dmaUpd_of_prog hprog]

theorem fenceDone_of_prog (hprog : dmaProg s d = some p) (hfence : p.fence = true) :
    fenceDone s d = if p.ending then dmaFinish (setDmaProg s d { p with fence := false, ending := false, touched := [] }) d
      else dmaNext (setDmaProg s d { p with fence := false, ending := false, touched := [] }) d := by
  simp only [fenceDone, hprog]
  exact if_pos hfence

end Sys2Proof.Machine

open Sys2Proof.Machine

/-- Settles O52: a LOOP by what stands open at its PC, and a WAIT by what it names. -/
theorem loopsAndWaitsGoOn : Obligations.LoopsAndWaitsGoOn := ⟨loopsRepeatCountTimesThenGoOn, waitsGoOnWaitOrTimeOut⟩

/-- Settles O53: the three SIGNALs, and FENCE and END by the destinations touched. -/
theorem signalsFencesAndEndsComplete : Obligations.SignalsFencesAndEndsComplete := by
  intro s d p
  refine ⟨fun v hat => ?interrupt, fun a v ofs hat => ?flag, fun c hat => ?doorbell, fun hat => ⟨fun hnone => ?fenceNone, fun hsome => ?fenceSome⟩,
    fun hat => ⟨fun hnone => ?endNone, fun hsome => ?endSome⟩, fun hprog hfence => ⟨fun hgo => ?complete, fun hend => ⟨_, ?completeEnd, rfl⟩⟩⟩
  case interrupt => exact congrArg Host.Outcome.next (dmaExec_of_dmaAt hat _)
  case flag => exact congrArg Host.Outcome.next (dmaExec_of_dmaAt hat _)
  case doorbell => exact congrArg Host.Outcome.next (dmaExec_of_dmaAt hat _)
  case fenceNone => exact congrArg Host.Outcome.next ((dmaExec_of_dmaAt hat _).trans (fenceRun_of_untouched hnone false))
  case fenceSome => exact congrArg Host.Outcome.next ((dmaExec_of_dmaAt hat _).trans (fenceRun_of_touched hat.prog hsome false))
  case endNone =>
    exact congrArg Host.Outcome.next
      ((dmaExec_of_dmaAt hat _).trans ((fenceRun_of_untouched hnone true).trans (dmaFinish_of_prog hat.prog)))
  case endSome => exact congrArg Host.Outcome.next ((dmaExec_of_dmaAt hat _).trans (fenceRun_of_touched hat.prog hsome true))
  case complete => exact congrArg Host.Outcome.next ((fenceDone_of_prog hprog hfence).trans (if_neg (Bool.eq_false_iff.mp hgo)))
  case completeEnd =>
    exact congrArg Host.Outcome.next
      ((fenceDone_of_prog hprog hfence).trans ((if_pos hend).trans (dmaFinish_of_prog (dmaProg_setDmaProg ..))))
end

section
/-! SUPPORT AND PROOFS. MOVE: its bursts and beats (R402, R406, R407, R409) and injection (R408). -/
namespace Sys2Proof.Machine

variable {s u : State} {d src dst len m ofs : Nat} {p : DmaProg} {b : List Byte}

/-! ## Bursts -/

theorem reqTake_of_empty {l : Nat} (h : rf s (Adr.dmaReqStat l) 7 0 = 0) : reqTake s d l = none := if_neg (by simp [h])

section
variable {ss ds : DmaSpace} {ts rel : Bool} {req burst srcA dstA w3 : Nat} {ms : List Nat} {n err : Nat}

theorem moveRun_of_memory (hds : ds ≠ .inject) (hleft : p.moved < len) :
    moveRun s d n ofs ms p (.move ss ds ts rel req burst len srcA dstA w3) =
      moveBursts d ss ds req burst (moveAddrs p rel srcA dstA).1 (moveAddrs p rel srcA dstA).2 len ofs n p.moved
        (if p.moved = 0 then setResidue s d len else s) := by
  rcases haddrs : moveAddrs p rel srcA dstA with ⟨src, dst⟩
  simp only [moveRun, haddrs]
  exact (if_neg (Nat.not_le.mpr hleft)).trans (if_neg hds)

theorem moveBursts_of_no_request (hreq : req < 72) (hempty : rf u (Adr.dmaReqStat req) 7 0 = 0) (hleft : m < len) :
    moveBursts d ss ds req burst src dst len ofs (n + 1) m u = dmaWaits u d (some req) := by
  rw [moveBursts, if_neg (by omega), if_neg (by omega), reqTake_of_empty hempty]

theorem moveBeatError_first (hds : ds ≠ .inject) (hleft : p.moved < len) (hruns : dmaState s d = dsRunning) (herr : err = deHost ∨ err = deDevice) :
    moveBeatError s d err 0 ofs p (.move ss ds ts rel req burst len srcA dstA w3) =
      let src := (moveAddrs p rel srcA dstA).1
      let dst := (moveAddrs p rel srcA dstA).2
      beatFail s d err ds (dst + (beatAt (descending ss ds src dst len) len p.moved).1) len p.moved
        (beatAt (descending ss ds src dst len) len p.moved).2 ofs := by
  have hgo : ¬ (dmaState s d ≠ dsRunning ∨ len ≤ p.moved ∨ (err ≠ deHost ∧ err ≠ deDevice)) := by
    rintro (hstopped | hover | ⟨hhost, hdevice⟩)
    · exact hstopped hruns
    · omega
    · exact herr.elim hhost hdevice
  rcases haddrs : moveAddrs p rel srcA dstA with ⟨src, dst⟩
  simp only [moveBeatError, haddrs, moveBeats]
  exact (if_neg hgo).trans ((if_neg hds).trans (if_neg (Nat.not_le.mpr hleft)))

end

theorem movesCopyBurstByBurst : Sys2Proof.Rules.MovesCopyBurstByBurst := by
  intro s d p ss ds ts rel req burst len srcA dstA w3 hat hds src dst
  refine ⟨fun n ofs ms hleft => ?bursts, fun hall => ?all, fun hleft => ?unfinished, fun ofs err hleft hruns herr => ?error,
    fun n ofs u hreq hempty hleft => moveBursts_of_no_request hreq hempty hleft⟩
  case bursts => exact congrArg Host.Outcome.next ((dmaExec_of_dmaAt hat _).trans (moveRun_of_memory hds hleft))
  case all => exact congrArg Host.Outcome.next ((dmaExec_of_dmaAt hat _).trans (if_pos hall))
  case unfinished => exact congrArg Host.Outcome.next ((dmaExec_of_dmaAt hat _).trans (if_neg (by omega)))
  case error => exact congrArg Host.Outcome.next ((dmaExec_of_dmaAt hat _).trans (moveBeatError_first hds hleft hruns herr))

/-! ## A beat to the host -/

/-- R401: host memory is never copied to host addresses. -/
theorem decodeMove_host_host {a b c w : Nat} (hsrc : nfld a 59 58 = 1) (hdst : nfld a 57 56 = 1) : decodeMove a b c w = none := by
  simp only [decodeMove, hsrc, hdst, spaceOf]
  exact if_pos (by simp)

/-- A good beat writes the bytes read, notes its destination and counts down RESIDUE. -/
theorem moveBeat_of_read (hread : readSide s d .device (src + m) (min 64 (len - m)) ofs = (u, some b)) :
    ∃ e, moveBeat s d .device .host src dst len m ofs =
      (setResidue (dmaUpd (pc (dmaTouch (putHost u (dst + m) b) d 0) e) d fun q => { q with moved := m + min 64 (len - m), any := true }) d
        (len - (m + min 64 (len - m))), true) := by
  refine ⟨{ code := 5, unit := some d, who := some (.dma d), addrs := [src + m] }, ?_⟩
  have hup : beatAt (descending .device .host src dst len) len m = (m, min 64 (len - m)) := rfl
  rw [moveBeat, hup]
  dsimp only
  rw [hread]
  rfl

theorem dmaUpd_hostMem (s : State) (d : Nat) (f : DmaProg → DmaProg) : (dmaUpd s d f).hostMem = s.hostMem := by
  unfold dmaUpd
  split <;> rfl

theorem dmaUpd_regs (s : State) (d : Nat) (f : DmaProg → DmaProg) : (dmaUpd s d f).regs = s.regs := by
  unfold dmaUpd
  split <;> rfl

theorem wrW_hostMem (s : State) (a v n : Nat) : (wrW s a v n).hostMem = s.hostMem :=
  (congrArg State.hostMem (wrW_with_regs s a v n s.regs) :)

theorem setResidue_hostMem (s : State) (d n : Nat) : (setResidue s d n).hostMem = s.hostMem := wrW_hostMem ..

theorem dmaFld_setResidue (h : mwf resetWord s.regs = true) (d n : Nat) : dmaFld (setResidue s d n) d 31 0 = n % 2 ^ 32 :=
  rfW_wfW_same h _ 2 31 0 n (by decide) (by decide)

theorem moveBeatsWriteOnlyTheirBytes : Sys2Proof.Rules.MoveBeatsWriteOnlyTheirBytes := by
  refine ⟨fun a b c w hsrc hdst => decodeMove_host_host hsrc hdst, fun s d src dst len m ofs b hcanon hleft hd => ?_⟩
  intro n hread hlen r
  obtain ⟨u, hu⟩ : ∃ u, readSide s d .device (src + m) n ofs = (u, some b) := ⟨_, Prod.ext rfl hread⟩
  have hkeeps : Follows ⟨true, true, false⟩ s u := by
    have hfirst := readSide_follows (kp := ⟨true, true, false⟩) rfl (.refl _ s) d .device (src + m) n ofs
    rwa [hu] at hfirst
  obtain ⟨e, hbeat⟩ := moveBeat_of_read (dst := dst) hu
  obtain ⟨hregs, -, hhost, -, -⟩ := hkeeps.canon hcanon
  set v := dmaTouch (putHost u (dst + m) b) d 0 with hv
  have hmem : r.1.hostMem = mputBytes 0 s.hostMem (dst + m) b := by
    show (moveBeat s d .device .host src dst len m ofs).1.hostMem = _
    rw [hbeat, setResidue_hostMem, dmaUpd_hostMem, (ReportsOnly.pc v e).keeps.hostMem, hv, dmaTouch, dmaUpd_hostMem, ← hkeeps.host rfl]
    rfl
  have hcount : mwf resetWord (pc v e).regs = true := by
    refine (ReportsOnly.pc v e).canon ?_
    rwa [hv, dmaTouch, dmaUpd_regs]
  refine ⟨?runs, ?bytes, fun x hx => ?others, ?residue⟩
  case runs => exact congrArg Prod.snd hbeat
  case bytes =>
    have hcopy := mbytes_mputBytes 0 b s.hostMem (dst + m) (by rwa [← hkeeps.host rfl])
    rwa [hmem, ← hlen]
  case others => rw [hmem]; exact mget_mputBytes_other _ _ _ _ _ _ (by rwa [hlen])
  case residue =>
    show dmaFld (moveBeat s d .device .host src dst len m ofs).1 d 31 0 = _
    rw [hbeat, dmaFld_setResidue (by rwa [dmaUpd_regs])]

/-! ## Injection -/

section
variable {ss : DmaSpace} {ts rel : Bool} {burst srcA dstA w3 n : Nat} {ms : List Nat}

theorem moveRun_of_inject (hnew : p.moved = 0) (hlen : 0 < len) :
    moveRun s d n ofs ms p (.move ss .inject ts rel 0x7F burst len srcA dstA w3) =
      moveInject (setResidue s d len) d p ss ts (moveAddrs p rel srcA dstA).1 len w3 ofs ms := by
  rcases haddrs : moveAddrs p rel srcA dstA with ⟨src, dst⟩
  simp only [moveRun, haddrs]
  rw [if_neg (by omega), if_pos hnew]
  rfl

variable {v : State} (hv : dmaUpd s d (fun q => { q with tsIn := some (p.tsIn.getD (baseAt s 0 ofs / 65536 % 2 ^ 40)) }) = v)
include hv

theorem moveInject_of_full (hfull : (placeCells v 9 (dmaFn v d - 1) len []).isNone = true) :
    moveInject s d p ss ts src len w3 ofs ms = dmaWaits v d none := by
  simp only [moveInject, hv]
  exact if_pos hfull

theorem moveInject_of_room (hroom : (placeCells v 9 (dmaFn v d - 1) len []).isNone = false) {r : State}
    (hread : readSide (setDmaState v d dsRunning) d ss src len ofs = (r, some b)) :
    moveInject s d p ss ts src len w3 ofs ms =
      let w := pc r { code := 5, n := ceilDiv len 64, unit := some d, who := some (.dma d),
                      addrs := if ss = .device then [src] else [] }
      let f : Frame := { cl := injectClause w d len (p.tsIn.getD (baseAt s 0 ofs / 65536 % 2 ^ 40)) w3, data := b,
                         tsReq := if ts then some (d, dmaPc w d) else none }
      injectGo (setResidue (dmaUpd w d fun p => { p with moved := len, any := true }) d 0) d f (nbit w3 63) ms := by
  simp only [moveInject, hv, hread]
  exact if_neg (Bool.eq_false_iff.mp hroom)

end

theorem injectionsHandOnTheirFrame : Sys2Proof.Rules.InjectionsHandOnTheirFrame := by
  intro s d n ofs ms p ss ts rel burst len srcA dstA w3 hat hnew hlen src u stamp v run
  have hexec : exec (.moveInstr d n ofs ms) s = .next (moveInject u d p ss ts src len w3 ofs ms) :=
    congrArg Host.Outcome.next ((dmaExec_of_dmaAt hat _).trans (moveRun_of_inject hnew hlen))
  exact ⟨fun hfull => hexec.trans (congrArg Host.Outcome.next (moveInject_of_full rfl hfull)),
    fun hroom r b hread => hexec.trans (congrArg Host.Outcome.next (moveInject_of_room rfl hroom hread))⟩

end Sys2Proof.Machine

open Sys2Proof.Machine

/-- Settles O51: the bursts of a MOVE, its beats to the host, and the frame that one injects. -/
theorem movesCopyTheirBytesAndNoOthers : Obligations.MovesCopyTheirBytesAndNoOthers :=
  ⟨movesCopyBurstByBurst, moveBeatsWriteOnlyTheirBytes, injectionsHandOnTheirFrame⟩
end

section
/-! SUPPORT AND PROOFS. DMA programs start and abort (R400, R409); request lines (R406) and receive rings (R399). -/
namespace Sys2Proof.Machine

variable {s u : State} {who : Requester} {d i hi lo : Nat}

/-! ## Words and records written in one piece -/

theorem rd_wrWords_other (s : State) (a : Nat) (ws : List Word) {b : Nat} (h : b < a ∨ a + 4 * ws.length ≤ b) :
    rd (wrWords s a ws) b = rd s b := by
  induction ws generalizing s a with
  | nil => rfl
  | cons w ws ih =>
    rw [List.length_cons] at h
    rw [wrWords, ih _ _ (by omega), rd_wr_other _ _ (by omega)]

theorem mwf_regs_wrWords (h : mwf resetWord s.regs = true) (a : Nat) (ws : List Word) : mwf resetWord (wrWords s a ws).regs = true := by
  induction ws generalizing s a with
  | nil => exact h
  | cons w ws ih => exact ih (mwf_regs_wr h ..) _

theorem length_wordsOf (bs : List Byte) (n : Nat) : (wordsOf bs n).length = n := by simp [wordsOf]

theorem ReportsOnly.ringSource (s : State) (src : Nat) : ReportsOnly s (ringSource s src) := by
  have hpend : ReportsOnly s { s with acc := { s.acc with srcPend := s.acc.srcPend ++ [src] } } := ⟨rfl, fun _ _ => rfl, id⟩
  unfold Machine.ringSource
  split
  · exact .refl s
  · exact hpend.trans (.fireSource _ src)

/-! ## A channel's status -/

theorem mwf_regs_setDmaFld (h : mwf resetWord s.regs = true) (d hi lo v : Nat) : mwf resetWord (setDmaFld s d hi lo v).regs = true :=
  mwf_regs_wrW h ..

theorem dmaFld_setDmaFld_same (h : mwf resetWord s.regs = true) (v : Nat) (hl : lo ≤ hi) (hh : hi < 64) :
    dmaFld (setDmaFld s d hi lo v) d hi lo = v % 2 ^ (hi + 1 - lo) := rfW_wfW_same h _ 2 hi lo v hl hh

theorem dmaFld_setDmaFld_other (h : mwf resetWord s.regs = true) {v hi' lo' : Nat} (hl : lo ≤ hi) (hh : hi < 64)
    (hapart : hi' < lo ∨ hi < lo') : dmaFld (setDmaFld s d hi lo v) d hi' lo' = dmaFld s d hi' lo' := rfW_wfW_field h hl hh hapart

@[simp] theorem wrW_dma (s : State) (a v n : Nat) : (wrW s a v n).dma = s.dma := (congrArg State.dma (wrW_with_regs s a v n s.regs) :)

theorem regs_setDmaProg (s : State) (d : Nat) (p : DmaProg) : (setDmaProg s d p).regs = s.regs := rfl

theorem dmaFld_setDmaProg (s : State) (d : Nat) (p : DmaProg) (c hi lo : Nat) : dmaFld (setDmaProg s d p) c hi lo = dmaFld s c hi lo := rfl

theorem dmaProg_dmaOutPut (s : State) (d : Nat) (bytes : List Byte) : dmaProg (dmaOutPut s d bytes).1 d = dmaProg s d := by
  have hdma : (dmaOutPut s d bytes).1.dma = s.dma := (wrW_dma ..).trans (KeepsUnits.wrWords s _ _).dma
  rw [dmaProg, dmaProg, hdma]

/-- An outcome record leaves a channel's status but for the place of the next one. -/
theorem dmaFld_dmaOutPut (h : mwf resetWord s.regs = true) (bytes : List Byte) (hapart : hi < 44 ∨ 52 < lo) :
    dmaFld (dmaOutPut s d bytes).1 d hi lo = dmaFld s d hi lo := by
  refine (dmaFld_setDmaFld_other (mwf_regs_wrWords h ..) (by decide) (by decide) hapart).trans ?_
  refine rfW_congr (fun a hlo hhi => rd_wrWords_other _ _ _ ?_) hi lo
  unfold Adr.dmaChStat at hhi
  unfold dmaOutAddr
  omega

/-! ## START and ABORT -/

theorem dmaStart_of_refused (h : dmaBusy s d = true ∨ dmaGen s d = 0 ∨ rb s (Adr.dmaChCfg d) 31 = false) : dmaStart s d = none := by
  refine if_pos ?_
  rcases h with h | h | h <;> simp [h]

/-- The start of a channel counted. -/
def started (s : State) (d : Nat) : State :=
  { s with dma := { s.dma with starts := mset 0 s.dma.starts d ((mget 0 s.dma.starts d + 1) % 2 ^ 32) } }

/-- A channel with its status as a start leaves it. -/
def dmaStarting (s : State) (d : Nat) : State := setResidue (setDmaPc (setDmaFld (setDmaState s d dsRunning) d 59 55 0) d 0) d 0

section
variable (hc : mwf resetWord s.regs = true)
include hc

theorem mwf_regs_dmaStarting (d : Nat) : mwf resetWord (dmaStarting s d).regs = true := by
  unfold dmaStarting setResidue setDmaPc setDmaState
  exact mwf_regs_setDmaFld (mwf_regs_setDmaFld (mwf_regs_setDmaFld (mwf_regs_setDmaFld hc d 63 60 _) d 59 55 _) d 43 32 _) d 31 0 _

theorem dmaState_dmaStarting (d : Nat) : dmaState (dmaStarting s d) d = dsRunning := by
  have hrunning := mwf_regs_setDmaFld hc d 63 60 dsRunning
  have hcleared := mwf_regs_setDmaFld hrunning d 59 55 0
  unfold dmaState dmaStarting setResidue setDmaPc setDmaState
  rw [dmaFld_setDmaFld_other (mwf_regs_setDmaFld hcleared d 43 32 0) (by decide) (by decide) (.inr (by decide)),
    dmaFld_setDmaFld_other hcleared (by decide) (by decide) (.inr (by decide)),
    dmaFld_setDmaFld_other hrunning (by decide) (by decide) (.inr (by decide)),
    dmaFld_setDmaFld_same hc _ (by decide) (by decide)]
  rfl

theorem dmaPc_dmaStarting (d : Nat) : dmaPc (dmaStarting s d) d = 0 := by
  have hrunning := mwf_regs_setDmaFld hc d 63 60 dsRunning
  have hcleared := mwf_regs_setDmaFld hrunning d 59 55 0
  unfold dmaPc dmaStarting setResidue setDmaPc setDmaState
  rw [dmaFld_setDmaFld_other (mwf_regs_setDmaFld hcleared d 43 32 0) (by decide) (by decide) (.inr (by decide)),
    dmaFld_setDmaFld_same hcleared _ (by decide) (by decide)]
  rfl

end

theorem dmaStart_eq_of_idle (hidle : dmaBusy s d = false) (hgen : dmaGen s d ≠ 0) (hen : rb s (Adr.dmaChCfg d) 31 = true) :
    ∃ p bytes, dmaStart s d = some (dmaOutPut (setDmaProg (dmaStarting (started s d) d) d p) d bytes).1
      ∧ p.done = 0 ∧ p.moved = 0 ∧ p.loops = [] := by
  rw [dmaStart, if_neg (by simp [hidle, hgen, hen])]
  exact ⟨_, _, rfl, rfl, rfl, rfl⟩

theorem dmaStart_of_idle (hc : mwf resetWord s.regs = true) (hidle : dmaBusy s d = false) (hgen : dmaGen s d ≠ 0)
    (hen : rb s (Adr.dmaChCfg d) 31 = true) :
    ∃ t, dmaStart s d = some t ∧ dmaState t d = dsRunning ∧ dmaPc t d = 0
      ∧ ∃ p, dmaProg t d = some p ∧ p.done = 0 ∧ p.moved = 0 ∧ p.loops = [] := by
  obtain ⟨p, bytes, hstart, hnew⟩ := dmaStart_eq_of_idle hidle hgen hen
  have hcs : mwf resetWord (started s d).regs = true := hc
  have hcv : mwf resetWord (setDmaProg (dmaStarting (started s d) d) d p).regs = true := by
    rw [regs_setDmaProg]
    exact mwf_regs_dmaStarting hcs d
  refine ⟨_, hstart, ?state, ?pc, p, (dmaProg_dmaOutPut ..).trans (dmaProg_setDmaProg ..), hnew⟩
  case state =>
    rw [dmaState, dmaFld_dmaOutPut hcv _ (.inr (by decide)), dmaFld_setDmaProg]
    exact dmaState_dmaStarting hcs d
  case pc =>
    rw [dmaPc, dmaFld_dmaOutPut hcv _ (.inl (by decide)), dmaFld_setDmaProg]
    exact dmaPc_dmaStarting hcs d

theorem dmaStartWrite_of_some (hup : islDown s 340 = false) (howns : dmaOwner s who d = true) (hstart : dmaStart s d = some u) :
    dmaStartWrite s who d = wrOk u who (Adr.dmaChCtl d) := by
  rw [dmaStartWrite, if_neg (by simp [hup]), if_neg (by simp [howns]), hstart]

theorem dmaStartWrite_of_none (hup : islDown s 340 = false) (howns : dmaOwner s who d = true) (hstart : dmaStart s d = none) :
    dmaStartWrite s who d = wrRefuse s who (Adr.dmaChCtl d) .outOfRange := by
  rw [dmaStartWrite, if_neg (by simp [hup]), if_neg (by simp [howns]), hstart]

theorem dmaAbortWrite_of_owner (hup : islDown s 340 = false) (howns : dmaOwner s who d = true) :
    dmaAbortWrite s who d = wrOk (dmaAbort s d deNone) who (Adr.dmaChCtl d) := by
  rw [dmaAbortWrite, if_neg (by simp [hup]), if_neg (by simp [howns])]

theorem wrOk_dma (s : State) (who : Requester) (off : Nat) : (wrOk s who off).dma = s.dma := by
  unfold wrOk noteWrite noteWriteAt
  rfl

theorem dmaFld_wrOk (s : State) (who : Requester) (off d hi lo : Nat) : dmaFld (wrOk s who off) d hi lo = dmaFld s d hi lo :=
  rfW_congr (fun a _ _ => rd_of_regs (wrOk_regs_own s who off).1 a) hi lo

theorem dmaProg_wrOk (s : State) (who : Requester) (off d : Nat) : dmaProg (wrOk s who off) d = dmaProg s d := by
  rw [dmaProg, dmaProg, wrOk_dma]

theorem dmaProgramsStartAndAbortByTheirOwner : Sys2Proof.Rules.DmaProgramsStartAndAbortByTheirOwner := by
  intro s who d hd hup howns
  refine ⟨fun t hstart => ?some, fun hrefused => ?refused, fun hcanon hidle hgen hen => ?started, ?abort⟩
  case some => exact congrArg Host.Outcome.next ((if_pos hd).trans (dmaStartWrite_of_some hup howns hstart))
  case refused =>
    exact congrArg Host.Outcome.next ((if_pos hd).trans (dmaStartWrite_of_none hup howns (dmaStart_of_refused hrefused)))
  case started =>
    obtain ⟨t, hstart, hstate, hpc, hprog⟩ := dmaStart_of_idle hcanon.1 hidle hgen hen
    refine ⟨_, congrArg Host.Outcome.next ((if_pos hd).trans (dmaStartWrite_of_some hup howns hstart)), ?_, ?_, ?_⟩
    · rwa [dmaState, dmaFld_wrOk]
    · rwa [dmaPc, dmaFld_wrOk]
    · rwa [dmaProg_wrOk]
  case abort => exact congrArg Host.Outcome.next ((if_pos hd).trans (dmaAbortWrite_of_owner hup howns))

/-! ## Request lines -/

theorem reqRaiseWrite_of_up (hup : islDown s 340 = false) (w : Word) :
    reqRaiseWrite s who w
      = wrOk ((List.range 32).foldl (fun s l => if w.toNat.testBit l then dmaReq s l else s) s) who Adr.dmaReqRaise := by
  rw [reqRaiseWrite, if_neg (by simp [hup])]

/-! ## Receive rings -/

/-- The place of the descriptor that receive ring i offers next. -/
def rxAt (s : State) (i : Nat) : Nat :=
  nfld (rdW s (Adr.dmaRxCfg i) 4) 127 64 + 32 * (rfW s (Adr.dmaRxIdx i) 2 43 32 % rxSize s i)

/-- The buffer that it offers. -/
def rxBuf (s : State) (i : Nat) : Nat := ofBytesLE (mbytes 0 s.hostMem (rxAt s i) 8)

theorem rxSize_putHost (s : State) (a : Nat) (b : List Byte) (i : Nat) : rxSize (putHost s a b) i = rxSize s i := rfl

/-- Whether ring i takes n bytes now: enabled, a descriptor offered whose buffer fits, the link up. -/
def rxTakes (s : State) (i n : Nat) : Prop :=
  nbit (rdW s (Adr.dmaRxCfg i) 4) 63 = true
    ∧ rfW s (Adr.dmaRxIdx i) 2 11 0 % rxSize s i ≠ rfW s (Adr.dmaRxIdx i) 2 43 32 % rxSize s i
    ∧ n ≤ ofBytesLE (mbytes 0 s.hostMem (rxAt s i + 8) 4) ∧ s.boot.linkUp = true

section
variable {f : Frame} {rest : List (Nat × Frame)} (hitem : s.flow.toHost = (i, f) :: rest) (hbuf : f.cl.buf = noBuf)
  (hu : ({ s with flow := { s.flow with toHost := rest } } : State) = u)
include hitem hbuf hu

theorem hostRingWrite_of_takes (h : rxTakes u i (f.data.length + f.trl.length)) :
    hostRingWrite s = ringSource (wfW (putHost (putHost u (rxBuf u i) (f.data ++ f.trl)) (rxAt u i) (rxDescriptor (rxBuf u i) f))
      (Adr.dmaRxIdx i) 2 43 32 ((rfW u (Adr.dmaRxIdx i) 2 43 32 % rxSize u i + 1) % rxSize u i)) (374 + i) := by
  obtain ⟨hen, hoffered, hfits, hlink⟩ := h
  have hmem : u.hostMem = s.hostMem := by rw [← hu]
  simp only [rxAt, hmem] at hfits
  simp only [hostRingWrite, hitem, hu]
  rw [if_pos hbuf, if_neg (by simpa [hen, hlink, hoffered] using hfits)]
  simp only [rxBuf, rxAt, hmem, rxSize_putHost]

theorem hostRingWrite_of_drop (h : ¬ rxTakes u i (f.data.length + f.trl.length)) :
    hostRingWrite s = wfW u (Adr.dmaRxIdx i) 2 63 48 (satAdd 0xFFFF (rfW u (Adr.dmaRxIdx i) 2 63 48) 1) := by
  have hmem : u.hostMem = s.hostMem := by rw [← hu]
  simp only [rxTakes, rxAt, hmem] at h
  simp only [hostRingWrite, hitem, hu]
  rw [if_pos hbuf]
  refine if_pos ?_
  by_contra hno
  exact h (by simpa [and_assoc] using hno)

end

theorem length_bytesLE (k v : Nat) : (bytesLE k v).length = k := by
  induction k generalizing v with
  | zero => rfl
  | succ k ih => rw [bytesLE, List.length_cons, ih]

theorem length_rxDescriptor (addr : Nat) (f : Frame) : (rxDescriptor addr f).length = 32 := by
  simp only [rxDescriptor, List.length_append, length_bytesLE]

/-- The ring's size is a power of two of at most 12 bits. -/
theorem rxSize_le (s : State) (i : Nat) : 0 < rxSize s i ∧ rxSize s i ≤ 2 ^ 12 := by
  refine ⟨Nat.two_pow_pos _, Nat.pow_le_pow_right (by decide) ?_⟩
  unfold clamp
  split_ifs <;> omega

/-- Bytes written elsewhere leave a range of bytes as it reads. -/
theorem mbytes_mputBytes_other (d : Byte) (m : SMap Byte) {a x n : Nat} (bs : List Byte) (h : x + n ≤ a ∨ a + bs.length ≤ x) :
    mbytes d (mputBytes d m a bs) x n = mbytes d m x n := by
  induction n generalizing x with
  | zero => rfl
  | succ n ih => rw [mbytes, mbytes, ih (by omega), mget_mputBytes_other _ _ _ _ _ _ (by omega)]

section
variable {f : Frame} {rest : List (Nat × Frame)} (hcanon : Canon s) (hitem : s.flow.toHost = (i, f) :: rest)
  (hbuf : f.cl.buf = noBuf)
include hcanon hitem hbuf

theorem hostRingWrite_written (hring : i < 64) (h : rxTakes s i (f.data.length + f.trl.length)) :
    (hostRingWrite s).flow.toHost = rest
      ∧ (hostRingWrite s).hostMem
          = mputBytes 0 (mputBytes 0 s.hostMem (rxBuf s i) (f.data ++ f.trl)) (rxAt s i) (rxDescriptor (rxBuf s i) f)
      ∧ rfW (hostRingWrite s) (Adr.dmaRxIdx i) 2 43 32 = (rfW s (Adr.dmaRxIdx i) 2 43 32 % rxSize s i + 1) % rxSize s i := by
  obtain ⟨hpos, hsize⟩ := rxSize_le s i
  have hnext : (rfW s (Adr.dmaRxIdx i) 2 43 32 % rxSize s i + 1) % rxSize s i < 2 ^ 12 := Nat.lt_of_lt_of_le (Nat.mod_lt _ hpos) hsize
  rw [hostRingWrite_of_takes hitem hbuf rfl h]
  have hsent (v : State) := ReportsOnly.ringSource v (374 + i)
  refine ⟨?flow, ?mem, ?cons⟩
  case flow => rw [(hsent _).keeps.flow, wfW, wrW_flow]; rfl
  case mem => rw [(hsent _).keeps.hostMem, wfW, wrW_hostMem]; rfl
  case cons =>
    rw [(hsent _).rfW (by unfold quietWord Adr.dmaRxIdx; omega)]
    rw [rfW_wfW_same (by simpa only [putHost] using hcanon.1) _ 2 43 32 _ (by decide) (by decide)]
    exact Nat.mod_eq_of_lt hnext

theorem hostRingWrite_dropped (h : ¬ rxTakes s i (f.data.length + f.trl.length)) :
    (hostRingWrite s).flow.toHost = rest ∧ (hostRingWrite s).hostMem = s.hostMem
      ∧ rfW (hostRingWrite s) (Adr.dmaRxIdx i) 2 63 48 = min 0xFFFF (rfW s (Adr.dmaRxIdx i) 2 63 48 + 1) := by
  rw [hostRingWrite_of_drop hitem hbuf rfl h]
  refine ⟨by rw [wfW, wrW_flow], by rw [wfW, wrW_hostMem], ?_⟩
  refine (rfW_wfW_same hcanon.1 _ 2 63 48 _ (by decide) (by decide)).trans (Nat.mod_eq_of_lt ?_)
  unfold satAdd
  omega

end

theorem requestLinesAndReceiveRingsTakeEntries : Sys2Proof.Rules.RequestLinesAndReceiveRingsTakeEntries := by
  refine ⟨fun s who w hup => ?raise, fun s n h hn => ⟨fun hheld => ?edge, fun hshort => ?glitch⟩, fun s hruns hempty => ?idle,
    fun s i f rest hcanon hruns hring hitem hbuf => ?entry⟩
  case raise => exact congrArg Host.Outcome.next (reqRaiseWrite_of_up hup w)
  case edge => exact congrArg Host.Outcome.next (if_pos ⟨hn, hheld⟩)
  case glitch => exact congrArg Host.Outcome.next (if_neg (by omega))
  case idle =>
    refine congrArg Host.Outcome.next ((if_neg (by simp [hruns])).trans ?_)
    rw [hostRingWrite, hempty]
  case entry =>
    intro cfg prod cons at_ addr size len
    obtain ⟨-, -, hhost, -, -⟩ := id hcanon
    have hexec : exec .hostRingWrite s = .next (hostRingWrite s) := congrArg Host.Outcome.next (if_neg (by simp [hruns]))
    refine ⟨fun hen hoffered hfits hlink hapart => ⟨_, hexec, ?_⟩, fun hno => ⟨_, hexec, ?_⟩⟩
    · have hlen : (f.data ++ f.trl).length = len := List.length_append
      have hdesc := length_rxDescriptor addr f
      obtain ⟨hflow, hmem, hcons⟩ := hostRingWrite_written hcanon hitem hbuf hring ⟨hen, hoffered, hfits, hlink⟩
      change (hostRingWrite s).hostMem = mputBytes 0 (mputBytes 0 s.hostMem addr (f.data ++ f.trl)) at_ (rxDescriptor addr f) at hmem
      refine ⟨hflow, ?_, ?_, fun x hbuf hat => ?_, hcons⟩
      · rw [hmem, mbytes_mputBytes_other _ _ _ (by omega), ← hlen]
        exact mbytes_mputBytes 0 _ _ _ hhost
      · rw [hmem, ← hdesc]
        exact mbytes_mputBytes 0 _ _ _ (mwf_mputBytes _ _ _ _ hhost)
      · rw [hmem, mget_mputBytes_other _ _ _ _ _ _ (by omega), mget_mputBytes_other _ _ _ _ _ _ (by omega)]
    · refine hostRingWrite_dropped hcanon hitem hbuf ?_
      rintro ⟨hen, hoffered, hfits, hlink⟩
      rcases hno with h | h | h | h
      · exact absurd hen (by rw [h]; decide)
      · exact hoffered h
      · exact absurd hfits (Nat.not_le.mpr h)
      · exact absurd hlink (by rw [h]; decide)

end Sys2Proof.Machine

open Sys2Proof.Machine

/-- Settles O54: START and ABORT by the channel's owner, request lines, and the frames of receive rings. -/
theorem dmaProgramsStartAbortAndTakeRequests : Obligations.DmaProgramsStartAbortAndTakeRequests :=
  ⟨dmaProgramsStartAndAbortByTheirOwner, requestLinesAndReceiveRingsTakeEntries⟩
end

section
/-! PROOFS. Command rings: PROD, RESOLVE, broken records and unlisted opcodes (R391 to R397). -/
namespace Sys2Proof.Machine

variable {s : State} {who : Requester} {r op : Nat}

/-! ## PROD and RESOLVE -/

theorem ringProdWrite_of_up (hup : islDown s 336 = false) (v : Nat) :
    ringProdWrite s who r v =
      let u := endSource s (342 + r)
      if fnOf u who ≠ ringFn u r then wrRefuse u who (Adr.mbxRingIdx r) .notOwner
      else if 256 < modSub (v % 512) (ringCons u r) 512 then wrRefuse u who (Adr.mbxRingIdx r) .outOfRange
      else wrOk (wf u (Adr.mbxRingIdx r) 8 0 v) who (Adr.mbxRingIdx r) := if_neg (by simp [hup])

theorem ringResolve_of_owner (hup : islDown s 336 = false) (howns : fnOf s who = ringFn s r) :
    ringResolve s who r = wrOk (wb ((List.range 256).foldl (fun s i =>
      if recAccepted s (outAddr r i) then resolveRec s (outAddr r i) else s) s) (Adr.mbxRingCfg r) 8 false) who (Adr.mbxRingCfg r) := by
  rw [ringResolve, if_neg (by simp [hup]), if_neg (not_not.mpr howns)]

/-! ## Commands that cannot be taken, and broken records -/

theorem canTake_of_off (h : ringOn s r = false) (op : Nat) : canTake s r op = false := by simp [canTake, h]

theorem opcode_of_canTake (h : canTake s r op = true) : rf s (slotAddr r (ringCons s r)) 15 0 = op := by
  simp only [canTake, Bool.and_eq_true, beq_iff_eq] at h
  exact h.1.2

theorem runCmd_of_not_taken (h : canTake s r op = false) (f : State → CmdCtx → State) : runCmd s r op f = s := by
  rw [runCmd, if_neg (by simp [h])]

theorem runCmd_of_broken (htake : canTake s r op = true) (hbroken : slotOk s (slotAddr r (ringCons s r)) = false)
    (f : State → CmdCtx → State) : runCmd s r op f = cmdPut (ringStep s r) (slotCtx s r) (refusal .badRecord) := by
  rw [runCmd, if_pos htake]
  exact if_neg (Bool.eq_false_iff.mp hbroken)

/-- A service is a command, final at once. -/
theorem secCmd_eq_runCmd (s : State) (r op : Nat) (f : State → CmdCtx → State × OutRec) :
    secCmd s r op f = runCmd s r op fun s c => cmdPut (f s c).1 c (f s c).2 := rfl

theorem badOpcode_of_off (h : ringOn s r = false) : badOpcode s r = s := by
  unfold badOpcode
  dsimp only
  split
  · rfl
  · exact runCmd_of_not_taken (canTake_of_off h _) _

theorem badOpcode_of_unlisted (htake : canTake s r op = true) (hunlisted : opcodeListed op = false)
    (hok : slotOk s (slotAddr r (ringCons s r)) = true) :
    badOpcode s r = cmdPut (ringStep s r) (slotCtx s r) (refusal .badOpcode) := by
  have hop := opcode_of_canTake htake
  rw [badOpcode, hop, if_neg (by simp [hunlisted])]
  exact runCmdNow_of_takes ⟨htake, hok⟩ _

end Sys2Proof.Machine

open Sys2Proof.Machine

/-- Settles O48: PROD and RESOLVE by the ring's function, and the record that refuses a command. -/
theorem ringsTakeResolveAndRefuseCommands : Obligations.RingsTakeResolveAndRefuseCommands := by
  intro s who r hr hup
  refine ⟨fun v => ?prod, fun howns => ?resolve, fun op htake => ⟨fun hbroken => ⟨fun hop => ?abandon, fun hop => ?status⟩,
    fun hunlisted hok => ?unlisted⟩, fun hoff => ⟨?off, fun f => ?selfTest⟩⟩
  case prod =>
    have hprod : exec (.ringProdWrite who r v) s = _ := congrArg Host.Outcome.next ((if_pos hr).trans (ringProdWrite_of_up hup v))
    intro u
    rw [hprod]
    refine ⟨fun hother => ?_, fun howns hfull => ?_, fun howns hroom => ?_⟩
    · exact congrArg Host.Outcome.next (if_pos hother)
    · exact congrArg Host.Outcome.next ((if_neg (not_not.mpr howns)).trans (if_pos hfull))
    · exact congrArg Host.Outcome.next ((if_neg (not_not.mpr howns)).trans (if_neg (Nat.not_lt.mpr hroom)))
  case resolve => exact congrArg Host.Outcome.next ((if_pos hr).trans (ringResolve_of_owner hup howns))
  case abandon => subst hop; exact congrArg Host.Outcome.next (runCmd_of_broken htake hbroken _)
  case status => subst hop; exact congrArg Host.Outcome.next ((secCmd_eq_runCmd ..).trans (runCmd_of_broken htake hbroken _))
  case unlisted => exact congrArg Host.Outcome.next (badOpcode_of_unlisted htake hunlisted hok)
  case off => exact congrArg Host.Outcome.next (badOpcode_of_off hoff)
  case selfTest => exact congrArg Host.Outcome.next ((secCmd_eq_runCmd ..).trans <| runCmd_of_not_taken (canTake_of_off hoff _) _)
end

section
/-! PROOFS. Bad accesses (R387), and the reads of the barrier (R35) and of the write status (R27). -/
namespace Sys2Proof.Machine

variable {s : State} {who : Requester}

/-- BAD_ACCESS's word of a requester's function. -/
def badAccessWord (s : State) (who : Requester) : Nat := Adr.dmaFnStat (if fnOf s who = 65 then 0 else fnOf s who)

theorem badAccess_eq_wf (s : State) (who : Requester) :
    badAccess s who = wf s (badAccessWord s who) 31 16 (min 65535 (rf s (badAccessWord s who) 31 16 + 1)) := rfl

/-- A bad access counts in one word, which reads the count; every other word reads as before. -/
theorem rd_badAccess (h : mwf resetWord s.regs = true) :
    rd (badAccess s who) (badAccessWord s who)
        = putFld (rd s (badAccessWord s who)) 31 16 (min 65535 (rf s (badAccessWord s who) 31 16 + 1))
      ∧ ∀ a, a ≠ badAccessWord s who → rd (badAccess s who) a = rd s a := by
  rw [badAccess_eq_wf]
  exact ⟨rd_wr_same h _ _, fun a ha => rd_wf_other s _ _ _ ha⟩

theorem badAccessIsCountedAndChangesNothing : Sys2Proof.Rules.BadAccessIsCountedAndChangesNothing := by
  intro s who a size write hcanon hbad b
  obtain ⟨hcount, hothers⟩ := rd_badAccess (who := who) hcanon.1
  cases write with
  | true => exact ⟨_, congrArg Host.Outcome.next ((if_pos hbad).trans (if_pos rfl)), hcount, hothers, rfl, rfl⟩
  | false => exact ⟨_, congrArg Host.Outcome.next ((if_pos hbad).trans (if_neg Bool.false_ne_true)), hcount, hothers, rfl, rfl⟩

/-- A waiting barrier read returned with a word: the wait is over and LOST starts anew. -/
def barrierReturned (s : State) (who : Requester) (v : Nat) : State :=
  ret { s with acc := { s.acc with barWait := mset 0 s.acc.barWait who.code 0, barLost := mset 0 s.acc.barLost who.code 0 } } who
    (BitVec.ofNat 32 v)

theorem barrierDone_none (h : mget 0 s.acc.barWait who.code = 1) :
    barrierDone s who none = barrierReturned s who (mget 0 s.acc.barLost who.code * 2 ^ 31) := by
  unfold barrierDone
  rw [if_neg (by rw [h]; decide)]
  dsimp only
  rw [Nat.add_zero, barrierReturned]

theorem barrierDone_some (h : mget 0 s.acc.barWait who.code = 1) (n : Nat) :
    barrierDone s who (some n) = barrierReturned s who (mget 0 s.acc.barLost who.code * 2 ^ 31 + (2 ^ 30 + min 0xFFFF n)) := by
  unfold barrierDone
  rw [if_neg (by rw [h]; decide)]
  rfl

theorem barrierAndWriteStatusReads : Sys2Proof.Rules.BarrierAndWriteStatusReads := by
  refine ⟨fun s who => ⟨_, rfl, rfl, rfl, rfl⟩, fun s who hwait => ?returned, fun s who n hwait => ?timeout,
    fun s who => ⟨_, rfl, rfl, rfl, rfl, rfl, rfl, rfl⟩⟩
  case returned => exact ⟨_, congrArg Host.Outcome.next (barrierDone_none hwait), rfl, rfl, rfl, rfl, rfl⟩
  case timeout => exact ⟨_, congrArg Host.Outcome.next (barrierDone_some hwait n), rfl, rfl, rfl, rfl, rfl⟩

end Sys2Proof.Machine

open Sys2Proof.Machine

/-- Settles O9: a bad access counts in its function's word; the barrier and the write status answer their requester. -/
theorem registerAccessesAreCheckedAndAnswered : Obligations.RegisterAccessesAreCheckedAndAnswered :=
  ⟨badAccessIsCountedAndChangesNothing, barrierAndWriteStatusReads⟩
end

section
/-! SUPPORT. What leaves the power unit's own state: reports, and the FATAL actions with the token they release (R36, R416). -/
namespace Sys2Proof.Machine

variable {s t : State}

/-! ## Injectors and the protection link -/

theorem fiDisarm_pwr (s : State) (cfg : Nat) : (fiDisarm s cfg).pwr = s.pwr := by
  unfold fiDisarm
  split <;> rfl

theorem fiSelect_pwr (s : State) (cfg : Nat) : (fiSelect s cfg).2.pwr = s.pwr := by
  unfold fiSelect
  dsimp only
  split
  · rfl
  · split
    · rfl
    · split
      · rfl
      · dsimp only
        split
        · exact fiDisarm_pwr _ cfg
        · rfl

theorem fiAct_pwr (s : State) (cfg : Nat) (u : FiUnit) : (fiAct s cfg u).2.pwr = s.pwr := by
  unfold fiAct
  extract_lets v st busySwap held
  have hheld : held.pwr = s.pwr := rfl
  clear_value held
  split
  next hit sel hsel =>
  have hselected : sel.pwr = s.pwr := by
    have hsnd : _ = sel := congrArg Prod.snd hsel
    rw [← hsnd, ← hheld]
    split
    · exact fiSelect_pwr held cfg
    · rfl
  extract_lets hits hold
  split
  next now acted hacted =>
  have hsnd : _ = acted := congrArg Prod.snd hacted
  show acted.pwr = s.pwr
  rw [← hsnd, ← hselected]
  split
  · rfl
  · split
    · rfl
    · split <;> rfl
    all_goals rfl

theorem fiPass_pwr (s : State) (cfg : Nat) (tid : Option Nat) (u : FiUnit) : (fiPass s cfg tid u).2.pwr = s.pwr := by
  unfold fiPass
  split
  · rfl
  · dsimp only
    split
    · exact fiAct_pwr s cfg u
    · rfl

theorem foldl_pwr {α : Type} {f : State → α → State} (h : ∀ s x, (f s x).pwr = s.pwr) (l : List α) (s : State) :
    (l.foldl f s).pwr = s.pwr := by
  induction l generalizing s with
  | nil => rfl
  | cons x l ih => exact (ih _).trans (h s x)

theorem emitFi_pwr (s : State) (cfg : Nat) (tid : Option Nat) (o : Sent) : (emitFi s cfg tid o).pwr = s.pwr := by
  refine (foldl_pwr (fun s u => ?_) _ _).trans (fiPass_pwr s cfg tid (.out o))
  cases u <;> rfl

theorem plkState_pwr (s : State) : (plkState s).pwr = s.pwr := by
  unfold plkState
  split
  · show (plkSend s _).pwr = s.pwr
    unfold plkSend
    split
    · rfl
    · exact emitFi_pwr _ _ _ _
  · rfl

/-! ## The token, and the FATAL actions -/

theorem dpChange_pwr (s : State) (a st det : Nat) : (dpChange s a st det).pwr = s.pwr := by
  by_cases h : a ∈ s.unit.changed ∧ (st ≠ uState s a ∨ (s.unit.pend.any fun p => p.1 == a) = true)
  · rw [dpChange_of_wait h]
  · rw [dpChange_of_now h]
    split <;> rfl

theorem prtSet_pwr (s : State) (st det : Nat) : (prtSet s st det).pwr = s.pwr := by
  unfold prtSet
  split
  · rfl
  · exact (plkState_pwr _).trans (dpChange_pwr ..)

theorem prtClose_pwr (s : State) : (prtClose s).pwr = s.pwr := by
  unfold prtClose
  refine foldl_pwr (fun s c => ?_) _ _
  dsimp only
  split
  · exact dpChange_pwr ..
  · rfl

theorem wb_pwr (s : State) (a i : Nat) (b : Bool) : (wb s a i b).pwr = s.pwr := rfl

theorem report_pwr (s : State) (i : Nat) (sev : Severity) (code : Nat) : (report s i sev code).pwr = s.pwr :=
  (KeepsUnits.report s i sev code).pwr

theorem prtRelease_pwr (s : State) (cause : Nat) : (prtRelease s cause).pwr = s.pwr := by
  unfold prtRelease
  dsimp only
  split
  · rw [report_pwr, wb_pwr]
    dsimp only
    rw [prtClose_pwr, prtSet_pwr]
  · rfl

/-- Raising an event leaves the power unit's own state. -/
theorem raise_pwr (s : State) (i : Nat) (sev : Severity) (code : Nat) : (raise s i sev code).pwr = s.pwr := by
  have hreport := report_pwr s i sev code
  rw [raise, (ReportsOnly.pc _ _).keeps.pwr]
  cases sev with
  | fatal => exact (prtRelease_pwr _ 2).trans hreport
  | degraded =>
    unfold raise0
    dsimp only
    split
    · exact (prtRelease_pwr _ 4).trans hreport
    · exact hreport
  | corrected => exact hreport
  | contained => exact hreport

theorem pwrEvent_pwr (s : State) (bit : Nat) : (pwrEvent s bit).pwr = s.pwr := by
  rw [pwrEvent, evBit, raise_pwr, wb_pwr]

/-- An event of the power unit other than THERM_SHUTDOWN is a report after its bit is set. -/
theorem pwrEvent_reports (s : State) {bit : Nat} (h : bit ≠ 5) : ReportsOnly (wb s Adr.pwrEvent bit true) (pwrEvent s bit) := by
  rw [pwrEvent, if_neg h]
  exact .raise _ (by decide) _

end Sys2Proof.Machine
end

section
/-! SUPPORT AND PROOFS. Rails (R444 to R446), core voltage (R447) and gating (R448). -/
namespace Sys2Proof.Machine

variable {s : State} {who : Requester} {r k hi lo : Nat}

/-! ## Telemetry -/

theorem mwf_regs_setRailTel (h : mwf resetWord s.regs = true) (r hi lo v : Nat) : mwf resetWord (setRailTel s r hi lo v).regs = true :=
  mwf_regs_wrW h ..

theorem railTel_setRailTel_same (h : mwf resetWord s.regs = true) (v : Nat) (hl : lo ≤ hi) (hh : hi < 64) :
    railTel (setRailTel s r hi lo v) r hi lo = v % 2 ^ (hi + 1 - lo) := rfW_wfW_same h _ 2 hi lo v hl hh

theorem railTel_setRailTel_other (h : mwf resetWord s.regs = true) {v hi' lo' : Nat} (hl : lo ≤ hi) (hh : hi < 64)
    (hapart : hi' < lo ∨ hi < lo') : railTel (setRailTel s r hi lo v) r hi' lo' = railTel s r hi' lo' := rfW_wfW_field h hl hh hapart

theorem railPost_of_enabled (hen : railEn s r = true) (v i t : Nat) :
    railPost s r (some (v, i, t)) = setRailTel (setRailTel (setRailTel (setRailTel s r 47 32 v) r 31 16 i) r 7 0 t) r 63 63 0 := if_pos hen

/-- A rail's readings stand in its telemetry once they are posted. -/
theorem railTel_railPost (h : mwf resetWord s.regs = true) (hen : railEn s r = true) {v i t : Nat} (hv : v < 65536) (hi : i < 65536) (ht : t < 256) :
    railTel (railPost s r (some (v, i, t))) r 47 32 = v ∧ railTel (railPost s r (some (v, i, t))) r 31 16 = i
      ∧ railTel (railPost s r (some (v, i, t))) r 7 0 = t ∧ railTel (railPost s r (some (v, i, t))) r 63 63 = 0 := by
  have hvolts := mwf_regs_setRailTel h r 47 32 v
  have hamperes := mwf_regs_setRailTel hvolts r 31 16 i
  have htemp := mwf_regs_setRailTel hamperes r 7 0 t
  rw [railPost_of_enabled hen]
  refine ⟨?volts, ?amperes, ?temp, ?fresh⟩
  case volts =>
    rw [railTel_setRailTel_other htemp (by decide) (by decide) (.inl (by decide)),
      railTel_setRailTel_other hamperes (by decide) (by decide) (.inr (by decide)),
      railTel_setRailTel_other hvolts (by decide) (by decide) (.inr (by decide)),
      railTel_setRailTel_same h _ (by decide) (by decide)]
    exact Nat.mod_eq_of_lt hv
  case amperes =>
    rw [railTel_setRailTel_other htemp (by decide) (by decide) (.inl (by decide)),
      railTel_setRailTel_other hamperes (by decide) (by decide) (.inr (by decide)),
      railTel_setRailTel_same hvolts _ (by decide) (by decide)]
    exact Nat.mod_eq_of_lt hi
  case temp =>
    rw [railTel_setRailTel_other htemp (by decide) (by decide) (.inl (by decide)),
      railTel_setRailTel_same hamperes _ (by decide) (by decide)]
    exact Nat.mod_eq_of_lt ht
  case fresh => exact railTel_setRailTel_same htemp 0 (by decide) (by decide)

/-! ## Alerts -/

/-- STATUS_WORD of one rail, as an alert takes it. -/
def alertTake (s : State) (r : Nat) (x : Option Nat) : State :=
  match x with
  | some w => if railEn s r && w % 2 ^ 15 != 0 then pwrEvent (setRailTel s r 62 48 (w % 2 ^ 15)) 0 else s
  | none => s

theorem pmbAlert_eq_foldl (s : State) (ws : List (Option Nat)) :
    pmbAlert s ws = (List.range 16).foldl (fun s r => alertTake s r (ws.getD r none)) s := rfl

theorem alertTake_of_good (s : State) (r : Nat) {x : Option Nat} (h : x = none ∨ x = some 0) : alertTake s r x = s := by
  rcases h with rfl | rfl
  · rfl
  · exact if_neg (by simp)

theorem pmbAlert_of_good {ws : List (Option Nat)} (h : ∀ w ∈ ws, w = none ∨ w = some 0) : pmbAlert s ws = s := by
  rw [pmbAlert_eq_foldl]
  refine List.foldl_fixed' (fun r => alertTake_of_good s r ?_) _
  by_cases hr : r < ws.length
  · rw [List.getD_eq_getElem _ _ hr]
    exact h _ (List.getElem_mem hr)
  · rw [List.getD_eq_default _ _ (Nat.not_lt.mp hr)]
    exact .inl rfl

/-- An alert by one rail alone. -/
theorem pmbAlert_of_one (hr : r < 16) (w : Nat) :
    pmbAlert s (List.replicate r none ++ [some w]) = alertTake s r (some w) := by
  have hone : (List.replicate r none ++ [some w]).getD r none = some w := by simp [List.getD]
  have hothers (j : Nat) (hj : j ≠ r) : (List.replicate r (none : Option Nat) ++ [some w]).getD j none = none := by
    rcases Nat.lt_or_gt_of_ne hj with hlt | hgt
    · simp [List.getD, List.getElem?_append_left, hlt]
    · exact List.getD_eq_default _ _ (by simp; omega)
  rw [pmbAlert_eq_foldl, foldl_range_single (k := r) (fun u j hj => by rw [hothers j hj]; rfl), if_pos hr, hone]

theorem alertTake_fault (h : mwf resetWord s.regs = true) (hr : r < 16) (hen : railEn s r = true) {w : Nat} (hpos : 0 < w) (hw : w < 2 ^ 15) :
    railTel (alertTake s r (some w)) r 62 48 = w ∧ rb (alertTake s r (some w)) Adr.pwrEvent 0 = true := by
  have hword : w % 2 ^ 15 = w := Nat.mod_eq_of_lt hw
  have htake : alertTake s r (some w) = pwrEvent (setRailTel s r 62 48 w) 0 := by
    rw [alertTake, hword]
    exact if_pos (by simp [hen]; omega)
  have hset := mwf_regs_setRailTel h r 62 48 w
  have hreports := pwrEvent_reports (setRailTel s r 62 48 w) (bit := 0) (by decide)
  rw [htake]
  constructor
  · refine (hreports.rfW (by unfold quietWord Adr.pwrRailTel; omega) 62 48).trans ?_
    refine (rfW_congr (fun a hlo hhi => rd_wb_other _ _ _ (by unfold Adr.pwrRailTel at hlo; unfold Adr.pwrEvent; omega)) 62 48).trans ?_
    exact (railTel_setRailTel_same h w (by decide) (by decide)).trans hword
  · exact (hreports.rb (by unfold quietWord Adr.pwrEvent; omega) 0).trans (rb_wb_same hset _ 0 _ (by decide))

theorem railsAreReadAndAdjusted : Sys2Proof.Rules.RailsAreReadAndAdjusted := by
  refine ⟨fun s xs => ⟨rfl, fun r v i t hr hcanon hen hv hi ht => ?posted⟩, fun s ws => ⟨_, rfl, pmbAlert_of_good, fun r w hcanon hr hws hen hpos hw => ?fault⟩,
    fun s r hr => ⟨fun hen hfresh => ?lost, fun hnot => ?known⟩, fun s k pass hk hk5 havs hbasic hup => ⟨fun hne => ?adjusted, fun heq => ?stays⟩⟩
  case posted =>
    obtain ⟨hvolts, hamperes, htemp, hfresh⟩ := railTel_railPost hcanon.1 hen hv hi ht
    exact ⟨hvolts, hamperes, htemp, hfresh, rfl⟩
  case fault =>
    rw [hws, pmbAlert_of_one hr]
    exact alertTake_fault hcanon.1 hr hen hpos hw
  case lost => exact congrArg Host.Outcome.next ((if_pos hr).trans (if_pos (by simp [hen, hfresh])))
  case known =>
    refine congrArg Host.Outcome.next ((if_pos hr).trans (if_neg ?_))
    rcases hnot with h | h <;> simp [h]
  case adjusted => exact congrArg Host.Outcome.next ((if_pos ⟨hk, hk5⟩).trans (if_pos ⟨havs, hbasic, hup, hne⟩))
  case stays => exact congrArg Host.Outcome.next ((if_pos ⟨hk, hk5⟩).trans (if_neg fun h => h.2.2.2 heq))

/-! ## Core voltage -/

section
variable (hup : islDown s 338 = false) (howns : isOwner s who 338 6 0 = true) {v : Word}
include hup howns

theorem dvfsWrite_of_bad (hbad : 30 < fld v 20 16 ∨ (k = 0 ∧ fld v 20 16 < pointFloor (fld v 25 24))) :
    dvfsWrite s who k v = wrRefuse s who (Adr.pwrDvfs k) .outOfRange := by
  rw [dvfsWrite, if_neg (by simp [hup]), if_neg (by simp [howns]), if_pos hbad]

theorem dvfsWrite_of_good (hhigh : fld v 20 16 ≤ 30) (hfloor : k = 0 → pointFloor (fld v 25 24) ≤ fld v 20 16) :
    dvfsWrite s who k v = wrOk (dvfsRequest s k v) who (Adr.pwrDvfs k) := by
  have hgood : ¬ (30 < fld v 20 16 ∨ (k = 0 ∧ fld v 20 16 < pointFloor (fld v 25 24))) := by
    rintro (hover | ⟨hcore, hunder⟩)
    · omega
    · exact Nat.not_le.mpr hunder (hfloor hcore)
  rw [dvfsWrite, if_neg (by simp [hup]), if_neg (by simp [howns]), if_neg hgood]

end

theorem dvfsRequest_of_shutdown (h : s.pwr.shutdown = true) (v : Word) : dvfsRequest s k v = dvfsPut s k v := if_pos h

theorem dvfsRequest_of_changing (hup : s.pwr.shutdown = false) (h : dvfsFld s k 0 0 = 1) (v : Word) :
    dvfsRequest s k v = pwrUpd s fun p => { p with next := mput p.next k v } := by
  rw [dvfsRequest, if_neg (by simp [hup]), if_pos h]

theorem dvfsRequest_of_settled (hup : s.pwr.shutdown = false) (h : dvfsFld s k 0 0 = 0) (v : Word) :
    dvfsRequest s k v = dvfsStart (dvfsPut s k v) k := by
  rw [dvfsRequest, if_neg (by simp [hup]), if_neg (by omega)]

theorem dvfsFld_dvfsFreq (s : State) (k c hi lo : Nat) : dvfsFld (dvfsFreq s k) c hi lo = dvfsFld s c hi lo := by
  unfold dvfsFreq
  split <;> rfl

theorem dvfsFreq_of_limb (hk : k ≠ 0) : dvfsFreq s k = s := if_neg hk

/-- A rise sends the voltage and waits for it; a lower point is taken before. -/
theorem dvfsStart_of_rise (hfree : k = 0 ∨ dvfsFld s k 31 31 = 0) (hrise : dvfsFld s k 12 8 < dvfsFld s k 20 16) :
    dvfsStart s k = setDvfs (sendVolt (if s.pwr.point ≤ dvfsFld s 0 25 24 then dvfsFreq s k else s) k (dvfsFld s k 20 16)) k 0 0 1 := by
  have hvolts : dvfsFld (if s.pwr.point ≤ dvfsFld s 0 25 24 then dvfsFreq s k else s) k 12 8 = dvfsFld s k 12 8 := by
    split
    · exact dvfsFld_dvfsFreq ..
    · rfl
  rw [dvfsStart, if_neg (by omega)]
  exact if_pos (by rwa [hvolts])

theorem voutReached_of_settled (h : dvfsFld s k 0 0 = 0) : voutReached s k = s := if_pos h

theorem setDvfs_pwr (s : State) (k hi lo v : Nat) : (setDvfs s k hi lo v).pwr = s.pwr := rfl

theorem dvfsFreq_next (s : State) (k : Nat) : (dvfsFreq s k).pwr.next = s.pwr.next := by
  unfold dvfsFreq
  split <;> rfl

theorem voutReached_of_none (h : dvfsFld s k 0 0 = 1) (hnext : s.pwr.next = []) : voutReached s k = dvfsFreq (setDvfs s k 0 0 0) k := by
  have hnone : (dvfsFreq (setDvfs s k 0 0 0) k).pwr.next = [] := (dvfsFreq_next _ k).trans hnext
  rw [voutReached, if_neg (by omega)]
  dsimp only
  rw [hnone]
  rfl

theorem voutReached_of_waiting (h : dvfsFld s k 0 0 = 1) (hk : k ≠ 0) {v : Word} (hnext : s.pwr.next = [(k, v)]) :
    voutReached s k =
      dvfsStart (dvfsPut (pwrUpd (setDvfs s k 0 0 0) fun p => { p with next := mdel p.next k }) k v) k := by
  have hwaits : (setDvfs s k 0 0 0).pwr.next.find? (·.1 = k) = some (k, v) := by rw [setDvfs_pwr, hnext]; simp
  rw [voutReached, if_neg (by omega), dvfsFreq_of_limb hk]
  dsimp only
  rw [hwaits]

theorem point_dvfsFreq (s : State) (k : Nat) : (dvfsFreq s k).pwr.point = if k = 0 then dvfsFld s 0 25 24 else s.pwr.point := by
  unfold dvfsFreq
  split <;> rfl

/-! ## Gating -/

section
variable (hup : islDown s 338 = false) (howns : pwrHostOk s who = true) {v : Word}
include hup howns

theorem gateUplWrite_of_busy (hbusy : ∃ g, g < 32 ∧ v.toNat.testBit g = true ∧ rb s Adr.pwrGateUpl g = false ∧ groupOn s g = true) :
    gateUplWrite s who v = wrRefuse s who Adr.pwrGateUpl .busy := by
  obtain ⟨g, hg, hset, hopen, hon⟩ := hbusy
  rw [gateUplWrite, if_neg (by simp [hup]), if_neg (by simp [howns])]
  exact if_pos (List.any_eq_true.mpr ⟨g, List.mem_range.mpr hg, by simp [hset, hopen, hon]⟩)

theorem gateUplWrite_of_idle (hidle : ∀ g, g < 32 → v.toNat.testBit g = true → rb s Adr.pwrGateUpl g = false → groupOn s g = false) :
    gateUplWrite s who v = wrOk (gateUplTaken s v) who Adr.pwrGateUpl := by
  rw [gateUplWrite, if_neg (by simp [hup]), if_neg (by simp [howns])]
  refine if_neg fun hany => ?_
  obtain ⟨g, hg, hgate⟩ := List.any_eq_true.mp hany
  simp only [Bool.and_eq_true, Bool.not_eq_true'] at hgate
  obtain ⟨⟨hset, hopen⟩, hon⟩ := hgate
  exact absurd hon (by rw [hidle g (List.mem_range.mp hg) hset hopen]; decide)

end

theorem coreVoltageAndGatesFollowTheirRequests : Sys2Proof.Rules.CoreVoltageAndGatesFollowTheirRequests := by
  refine ⟨fun s who k v hk hup howns => ⟨fun hbad => ?bad, fun hhigh hfloor => ?good⟩,
    fun s k v hk => ⟨fun h => dvfsRequest_of_shutdown h v, fun hup h => dvfsRequest_of_changing hup h v, fun hup h => dvfsRequest_of_settled hup h v,
      fun hfree hrise => dvfsStart_of_rise hfree hrise, fun h => ?settled, fun h hnext => ⟨dvfsFreq (setDvfs s k 0 0 0) k, ?none, fun hcanon => ?ended, ?point, ?noNext⟩,
      fun h hlimb hnext u hu => ?waiting⟩,
    fun s who v hup howns => ⟨fun hbusy => congrArg Host.Outcome.next (gateUplWrite_of_busy hup howns hbusy),
      fun hidle => congrArg Host.Outcome.next (gateUplWrite_of_idle hup howns hidle)⟩⟩
  case bad => exact congrArg Host.Outcome.next ((if_pos hk).trans (dvfsWrite_of_bad hup howns hbad))
  case good => exact congrArg Host.Outcome.next ((if_pos hk).trans (dvfsWrite_of_good hup howns hhigh hfloor))
  case settled => exact congrArg Host.Outcome.next ((if_pos hk).trans (voutReached_of_settled h))
  case none => exact congrArg Host.Outcome.next ((if_pos hk).trans (voutReached_of_none h hnext))
  case ended =>
    rw [dvfsFld_dvfsFreq]
    exact rf_wf_same hcanon.1 _ 0 0 0 (by decide) (by decide)
  case point =>
    rw [point_dvfsFreq]
    by_cases hcore : k = 0
    · rw [if_pos hcore, if_pos hcore, hcore]
    · rw [if_neg hcore, if_neg hcore]
      rfl
  case noNext => exact (dvfsFreq_next _ k).trans hnext
  case waiting => subst hu; exact congrArg Host.Outcome.next ((if_pos hk).trans (voutReached_of_waiting h hlimb hnext))

end Sys2Proof.Machine

open Sys2Proof.Machine

/-- Settles O58: the telemetry and its faults, the core voltage's requests and changes, and the gates. -/
theorem railsAndCoreVoltageFollowTheirRequests : Obligations.RailsAndCoreVoltageFollowTheirRequests :=
  ⟨railsAreReadAndAdjusted, coreVoltageAndGatesFollowTheirRequests⟩
end

section
/-! PROOFS. Sensors and thermal stages (R449 to R451), and the cap loop (R452). -/
namespace Sys2Proof.Machine

variable {s u : State} {n : Nat} {x : Int}

/-! ## Readings -/

/-- A sensor's register with a reading and the highest whole degrees since the last read. -/
def sensorShown (s : State) (n : Nat) (x : Int) : State :=
  wf (wf s (Adr.pwrTherm n) 15 0 (unsigned 16 x)) (Adr.pwrTherm n) 31 24
    (unsigned 8 (max (signed 8 (rf s (Adr.pwrTherm n) 31 24)) (x / 256)))

/-- Below 95 degrees no reading calls for a stage. -/
theorem stageOf_of_cool (n : Nat) (h : x < 256 * 95) : stageOf n x = 0 := by
  unfold stageOf stageLevels
  split_ifs <;> simp <;> omega

/-- A sensor past those of the pipelines and planes has no stages. -/
theorem stageOf_of_other (hn : 24 ≤ n) (x : Int) : stageOf n x = 0 := by
  rw [stageOf, stageLevels, if_neg (by omega), if_neg (by omega)]
  rfl

theorem sensorRead_of_cool (hlo : -2560 ≤ x) (hhi : x < 256 * 95) :
    sensorRead s n x = if 16 ≤ n ∧ n < 24 then planeTherm (sensorShown s n x) ((n - 16) / 2) else sensorShown s n x := by
  unfold sensorRead
  dsimp only
  rw [if_neg (by omega), stageOf_of_cool n hhi, if_neg (Nat.not_lt_zero _), if_neg (by omega), if_neg (by omega)]
  rfl

/-- A reading of 110 degrees of a sensor without stages that has warned. -/
theorem sensorRead_of_hot (hn : 24 ≤ n) (hhot : 256 * 110 ≤ x) (hwarned : n ∈ s.pwr.warn) :
    sensorRead s n x =
      if (x < -2560 ∨ 256 * 115 < x) ∧ ¬ (rb (shutdown (sensorShown s n x)) Adr.secTamper 5 = true
        ∧ secState (shutdown (sensorShown s n x)) = smZeroized) then zeroize (shutdown (sensorShown s n x)) 5
      else shutdown (sensorShown s n x) := by
  unfold sensorRead
  dsimp only
  rw [← sensorShown, if_neg (show ¬ (16 ≤ n ∧ n < 24) by omega),
    if_neg (show ¬ (256 * 95 ≤ x ∧ n ∉ (sensorShown s n x).pwr.warn) from fun h => h.2 hwarned), stageOf_of_other hn, if_neg (Nat.not_lt_zero _),
    if_pos hhot]

theorem sensorRead_of_shutdown (hn : 24 ≤ n) (hhot : 256 * 110 ≤ x) (hhi : x ≤ 256 * 115) (hwarned : n ∈ s.pwr.warn) :
    sensorRead s n x = shutdown (sensorShown s n x) := by
  rw [sensorRead_of_hot hn hhot hwarned, if_neg (by omega)]

theorem sensorRead_of_tamper (hn : 24 ≤ n) (hhot : 256 * 115 < x) (hwarned : n ∈ s.pwr.warn)
    (hnew : rb (shutdown (sensorShown s n x)) Adr.secTamper 5 = false) :
    sensorRead s n x = zeroize (shutdown (sensorShown s n x)) 5 := by
  rw [sensorRead_of_hot hn (by omega) hwarned, if_pos ⟨.inr hhot, by simp [hnew]⟩]

/-! ## Shutdown -/

theorem shutdown_of_shutdown (h : s.pwr.shutdown = true) : shutdown s = s := if_pos h

theorem sendVolt_pwr (s : State) (k code : Nat) : (sendVolt s k code).pwr = s.pwr := by
  refine (foldl_pwr (fun s r => ?_) _ _).trans (setDvfs_pwr s k 12 8 (min 30 code))
  split <;> rfl

theorem shutdown_pwr (h : s.pwr.shutdown = false) : (shutdown s).pwr = { s.pwr with shutdown := true, next := [] } := by
  rw [shutdown, if_neg (by simp [h])]
  refine (foldl_pwr (fun s k => ?_) _ _).trans ((foldl_pwr (fun s i => ?_) _ _).trans ?_)
  · rw [setDvfs_pwr, sendVolt_pwr]
  · split <;> rfl
  · rw [pwrEvent_pwr, wb_pwr]
    rfl

/-! ## Stages that fall -/

theorem throttleClear_of_cool (hcool : sensorTemp s n < 256 * 93) (hstage : sensorStage s n = 0) :
    throttleClear s n = pwrUpd s fun p => { p with warn := p.warn.filter (· ≠ n) } := by
  have hsame : sensorStage (pwrUpd s fun p => { p with warn := p.warn.filter (· ≠ n) }) n = 0 := hstage
  unfold throttleClear
  dsimp only
  rw [if_pos hcool, hsame, Nat.zero_min, if_pos rfl]

theorem throttleClear_of_fall (hwarm : 256 * 93 ≤ sensorTemp s n) (hfall : stageKeep n (sensorTemp s n) < sensorStage s n) :
    throttleClear s n = setStage s n (stageKeep n (sensorTemp s n)) := by
  unfold throttleClear
  dsimp only
  rw [if_neg (Int.not_lt.mpr hwarm), Nat.min_eq_right hfall.le, if_neg (Nat.ne_of_lt hfall)]

/-! ## The cap loop -/

/-- The measure's polls and energy cleared. -/
def capCleared (s : State) : State := pwrUpd s fun p => { p with energy := 0, polls := 0 }

/-- The mean shown, the polls and energy cleared. -/
def capShown (s : State) : State := wf (capCleared s) Adr.pwrStat 9 0 (min 1023 (s.pwr.energy / (s.pwr.polls * 100000)))

theorem capEval_of_no_poll (h : s.pwr.polls = 0) : capEval s = capCleared s := by
  unfold capEval
  dsimp only
  rw [if_pos h, if_pos (.inl h)]
  rfl

theorem capEval_of_off (hpolls : 0 < s.pwr.polls) (hoff : rb (capShown s) Adr.pwrCap 31 = false ∨ basic (capShown s) 6 0 = false) :
    capEval s = capShown s := by
  unfold capEval
  dsimp only
  rw [if_neg (Nat.ne_of_gt hpolls)]
  exact if_pos (Or.inr hoff)

section
variable (hpolls : 0 < s.pwr.polls) (hon : rb (capShown s) Adr.pwrCap 31 = true) (hbasic : basic (capShown s) 6 0 = true)
include hpolls hon hbasic

theorem capEval_of_on :
    capEval s =
      if rf (capShown s) Adr.pwrCap 9 0 * s.pwr.polls * 100000 < s.pwr.energy then
        showStep (capMore (pwrUpd (capShown s) fun p => { p with below := 0 }))
      else
        let t := pwrUpd (capShown s) fun p => { p with unmet := false, below :=
          if s.pwr.energy < (rf (capShown s) Adr.pwrCap 9 0 - rf (capShown s) Adr.pwrCap 28 20) * s.pwr.polls * 100000 then p.below + 1 else 0 }
        if 10 ≤ t.pwr.below ∧ ((List.range 16).any fun r => railInCap t r && railTel t r 63 63 == 1) = false then
          showStep (capLess (pwrUpd t fun p => { p with below := 0 }))
        else t := by
  unfold capEval
  dsimp only
  rw [if_neg (Nat.ne_of_gt hpolls)]
  refine if_neg ?_
  rintro (hnone | hoff | hexpert)
  · omega
  · exact absurd hon (Bool.eq_false_iff.mp hoff)
  · exact absurd hbasic (Bool.eq_false_iff.mp hexpert)

theorem capEval_of_over (hover : rf (capShown s) Adr.pwrCap 9 0 * s.pwr.polls * 100000 < s.pwr.energy) :
    capEval s = showStep (capMore (pwrUpd (capShown s) fun p => { p with below := 0 })) := by
  rw [capEval_of_on hpolls hon hbasic, if_pos hover]

theorem capEval_of_under
    (hunder : s.pwr.energy < (rf (capShown s) Adr.pwrCap 9 0 - rf (capShown s) Adr.pwrCap 28 20) * s.pwr.polls * 100000)
    (hbelow : 9 ≤ s.pwr.below) (hfresh : ∀ r, r < 16 → railInCap (capShown s) r = true → railTel (capShown s) r 63 63 = 0) :
    capEval s = showStep (capLess (pwrUpd (capShown s) fun p => { p with unmet := false, below := 0 })) := by
  have hnotOver : ¬ rf (capShown s) Adr.pwrCap 9 0 * s.pwr.polls * 100000 < s.pwr.energy := by
    have hfloor : (rf (capShown s) Adr.pwrCap 9 0 - rf (capShown s) Adr.pwrCap 28 20) * s.pwr.polls * 100000
        ≤ rf (capShown s) Adr.pwrCap 9 0 * s.pwr.polls * 100000 := by gcongr; omega
    omega
  have hnoneStale : ((List.range 16).any fun r => railInCap (capShown s) r && railTel (capShown s) r 63 63 == 1) = false := by
    refine List.any_eq_false.mpr fun r hr => ?_
    by_cases hin : railInCap (capShown s) r = true
    · simp [hfresh r (List.mem_range.mp hr) hin]
    · simp [hin]
  rw [capEval_of_on hpolls hon hbasic, if_neg hnotOver]
  refine if_pos ⟨?_, hnoneStale⟩
  show 10 ≤ if _ then s.pwr.below + 1 else 0
  rw [if_pos hunder]
  omega

end

end Sys2Proof.Machine

open Sys2Proof.Machine

/-- Settles O59: a reading by its levels, the shutdown, the stages that fall, and the cap loop's evaluation. -/
theorem sensorsAndTheCapLoopStepByTheirLevels : Obligations.SensorsAndTheCapLoopStepByTheirLevels := by
  refine ⟨fun s n x hn => ?sensors, fun s => ⟨fun hnone => ?noPoll, fun hpolls hoff => ?off, fun hpolls hon hbasic hover => ?overCap,
    fun hpolls hon hbasic hunder hbelow hfresh => ?under⟩⟩
  case sensors =>
    refine ⟨fun hlo hhi hplain => ?cool, fun hlo hhi hplane hplane' => ?plane, fun hother hhot hhi hwarned => ?shutdown,
      fun hother hhot hwarned hnew => ?tamper, shutdown_of_shutdown, fun hup => ⟨_, rfl, ?shut, ?noNext⟩, fun hcool hstage => ?lifted,
      fun hwarm hfall => ?fallen⟩
    case cool => exact congrArg Host.Outcome.next ((if_pos hn).trans ((sensorRead_of_cool hlo hhi).trans (if_neg hplain)))
    case plane => exact congrArg Host.Outcome.next ((if_pos hn).trans ((sensorRead_of_cool hlo hhi).trans (if_pos ⟨hplane, hplane'⟩)))
    case shutdown => exact congrArg Host.Outcome.next ((if_pos hn).trans (sensorRead_of_shutdown hother hhot hhi hwarned))
    case tamper => exact congrArg Host.Outcome.next ((if_pos hn).trans (sensorRead_of_tamper hother hhot hwarned hnew))
    case shut => rw [shutdown_pwr hup]
    case noNext => rw [shutdown_pwr hup]
    case lifted => exact congrArg Host.Outcome.next ((if_pos hn).trans (throttleClear_of_cool hcool hstage))
    case fallen => exact congrArg Host.Outcome.next ((if_pos hn).trans (throttleClear_of_fall hwarm hfall))
  case noPoll => exact congrArg Host.Outcome.next (capEval_of_no_poll hnone)
  case off => exact congrArg Host.Outcome.next (capEval_of_off hpolls hoff)
  case overCap => exact congrArg Host.Outcome.next (capEval_of_over hpolls hon hbasic hover)
  case under => exact congrArg Host.Outcome.next (capEval_of_under hpolls hon hbasic hunder hbelow hfresh)
end

section
/-! SUPPORT AND PROOFS. Snapshots and performance counters (R431 to R436), injectors and tracers (R437 to R441). -/
namespace Sys2Proof.Machine

variable {s t u : State} {who : Requester} {v ofs n a : Nat}

/-! ## Snapshots -/

theorem cycleNow_congr (h : ∀ b, Adr.chnCycle 0 ≤ b → rd t b = rd s b) : cycleNow t = cycleNow s := by
  rw [cycleNow, cycleNow, rdW_congr fun b hlo _ => h b hlo]

theorem devNs_congr (h : ∀ b, Adr.chnCycle 0 ≤ b → rd t b = rd s b) (ofs : Nat) : devNs t ofs = devNs s ofs := by
  rw [devNs, devNs, cycleNow_congr h]

/-- Register writes of a fold change nothing but registers. -/
theorem foldl_wr_stat_obs {α : Type} (f : α → Nat) (g : α → Word) (l : List α) (s : State) :
    (l.foldl (fun s x => wr s (f x) (g x)) s).stat = s.stat ∧ (l.foldl (fun s x => wr s (f x) (g x)) s).obs = s.obs := by
  induction l generalizing s with
  | nil => exact ⟨rfl, rfl⟩
  | cons x l ih => exact ih (wr s (f x) (g x))

theorem pcShadow_stat (s : State) : (pcShadow s).stat = s.stat := by
  unfold pcShadow
  exact (foldl_wr_stat_obs (fun p : Nat × Word => Adr.obsPcShadow ((p.1 - Adr.obsPcSel 0) / 0x20) + (p.1 - Adr.obsPcSel 0) % 0x20 - 8) Prod.snd _ _).1

theorem pcShadow_obs (s : State) : (pcShadow s).obs = s.obs := by
  unfold pcShadow
  exact (foldl_wr_stat_obs (fun p : Nat × Word => Adr.obsPcShadow ((p.1 - Adr.obsPcSel 0) / 0x20) + (p.1 - Adr.obsPcSel 0) % 0x20 - 8) Prod.snd _ _).2

@[simp] theorem wrW_stat (s : State) (a v n : Nat) : (wrW s a v n).stat = s.stat := (congrArg State.stat (wrW_with_regs s a v n s.regs) :)

@[simp] theorem wrW_obs (s : State) (a v n : Nat) : (wrW s a v n).obs = s.obs := (congrArg State.obs (wrW_with_regs s a v n s.regs) :)

theorem snapshot_of_refused (h : rb s Adr.obsSnapCtl 29 = true ∨ statOn s = false) :
    snapshot s ofs = (evBit (satF s Adr.obsSnapStat 30 24 1) Adr.obsEvent 1 336 .corrected 0x1001, true) :=
  if_pos (by rcases h with h | h <;> simp [h])

section
variable (hopen : rb s Adr.obsSnapCtl 29 = false) (hon : statOn s = true)
include hopen hon

theorem snapshot_of_near (hlast : s.obs.snapAt ≠ 0) (hnear : devNs s ofs < s.obs.snapAt + 999) : snapshot s ofs = (s, false) := by
  rw [snapshot, if_neg (by simp [hopen, hon])]
  exact if_pos (by simp [snapBusy, hlast, hnear])

/-- A snapshot that is taken copies the live counts, and is accepted. -/
theorem snapshot_of_taken (hfar : s.obs.snapAt = 0 ∨ s.obs.snapAt + 999 ≤ devNs s ofs) :
    (snapshot s ofs).1.stat = { s.stat with shadow := s.stat.live, shadowSeq := (rf s Adr.obsSnapStat 23 0 + 1) % 2 ^ 24
                                            shadowWrapped := s.stat.wrapped, wrapped := [] }
      ∧ (snapshot s ofs).1.obs.snapAt = devNs s ofs + 1 ∧ (snapshot s ofs).2 = false := by
  have hfree : ¬ snapBusy s ofs = true := by
    unfold snapBusy
    rcases hfar with h | h
    · simp [h]
    · simp [Nat.not_lt.mpr h]
  rw [snapshot, if_neg (by simp [hopen, hon]), if_neg hfree]
  dsimp only
  have hnow : devNs (wrW (wf s Adr.obsSnapStat 23 0 ((rf s Adr.obsSnapStat 23 0 + 1) % 2 ^ 24)) Adr.obsSnapTime
      (ticksTime (baseAt (wf s Adr.obsSnapStat 23 0 ((rf s Adr.obsSnapStat 23 0 + 1) % 2 ^ 24)) 0 ofs) * 2 ^ 32) 4) ofs = devNs s ofs :=
    devNs_congr (fun b hb => (rd_wrW_other _ _ _ _ (.inr (Nat.le_trans (by decide) hb))).trans
      (rd_wf_other _ _ _ _ (Nat.ne_of_gt (Nat.lt_of_lt_of_le (by decide) hb)))) ofs
  refine ⟨?stat, ?obs, rfl⟩
  case stat => rw [pcShadow_stat, wrW_stat]; rfl
  case obs => rw [pcShadow_obs]; dsimp only; rw [hnow]

end

/-! ## SNAP_CTL -/

section
variable (hup : islDown s 336 = false) (hpf : isPfSide s who = true)
include hup hpf

/-- A write without SNAP only takes LOCK and FREEZE. -/
theorem snapCtlWrite_of_unset {v : Word} (hv : fld v 31 31 = 0) : snapCtlWrite s who v ofs
    = wrOk (wf (wf s Adr.obsSnapCtl 30 30 (fld v 30 30)) Adr.obsSnapCtl 29 29 (fld v 29 29)) who Adr.obsSnapCtl := by
  unfold snapCtlWrite
  rw [if_neg (by simp [hup]), if_neg (by simp [hpf]), if_neg (by simp [hv])]
  rfl

/-- A write with SNAP takes a snapshot first, then LOCK and FREEZE, and reports it. -/
theorem snapCtlWrite_of_set {v : Word} (hv : fld v 31 31 = 1) {bad : Bool} (hsnap : snapshot s ofs = (u, bad)) :
    snapCtlWrite s who v ofs
      = if bad = true then wrRefuse (wf (wf u Adr.obsSnapCtl 30 30 (fld v 30 30)) Adr.obsSnapCtl 29 29 (fld v 29 29)) who Adr.obsSnapCtl .busy
        else wrOk (wf (wf u Adr.obsSnapCtl 30 30 (fld v 30 30)) Adr.obsSnapCtl 29 29 (fld v 29 29)) who Adr.obsSnapCtl := by
  unfold snapCtlWrite
  rw [if_neg (by simp [hup]), if_neg (by simp [hpf]), if_pos hv, hsnap]

end

theorem exec_snapCtl {i : Instr} {v : Word} (hi : i = .snapshot who v ofs ∨ i = .freeze who v ofs) :
    exec i s = .next (snapCtlWrite s who v ofs) := by
  rcases hi with rfl | rfl <;> rfl

/-- What a snapshot wrote stands after LOCK, FREEZE and the report are written. -/
theorem wrOk_wf_wf_stat_obs (u : State) (who : Requester) (a b hi lo x hi' lo' x' c : Nat) :
    (wrOk (wf (wf u a hi lo x) b hi' lo' x') who c).stat = u.stat
      ∧ (wrOk (wf (wf u a hi lo x) b hi' lo' x') who c).obs = u.obs := ⟨rfl, rfl⟩

/-! ## Injectors and tracers -/

section
variable (hup : islDown s 336 = false)
include hup

theorem fiGlobalWrite_of_locked (hlock : fiLocked s = true) (v : Word) :
    fiGlobalWrite s who v = wrRefuse s who Adr.obsFiGlobal .notAuthorized := by
  unfold fiGlobalWrite
  dsimp only
  rw [if_neg (by simp [hup]), if_pos (.inr hlock)]

/-- A write of GLOBAL that is not shut out: without its magic ENABLE does nothing; else ENABLE is taken, behind the end of every injector where KILL is set or ENABLE clear. -/
theorem fiGlobalWrite_of_unlocked (hpf : isPfSide s who = true) (hfree : fiLocked s = false) (v : Word) :
    fiGlobalWrite s who v = if fld v 31 31 = 1 ∧ fld v 15 0 ≠ 0xF1A5 then wrOk s who Adr.obsFiGlobal
      else wrOk (wf (if fld v 30 30 = 1 ∨ fld v 31 31 = 0 then fiDisarmAll s else s) Adr.obsFiGlobal 31 31 (fld v 31 31)) who Adr.obsFiGlobal := by
  unfold fiGlobalWrite
  dsimp only
  rw [if_neg (by simp [hup]), if_neg (by simp [hpf, hfree])]

end

/-- FI_CFG as a write leaves it: its reserved fields 0, and a DELAY_N of 0 taken as 1. -/
def fiCfgTaken (v : Nat) : Nat := putNfld (putNfld (putNfld v 122 112 0) 31 0 0) 71 64 (max 1 (nfld v 71 64))

theorem nfld_fiCfgTaken {hi lo : Nat} (v : Nat) (h : 72 ≤ lo ∧ hi < 112) : nfld (fiCfgTaken v) hi lo = nfld v hi lo := by
  rw [fiCfgTaken, nfld_putNfld_other (by decide) (by omega), nfld_putNfld_other (by decide) (by omega),
    nfld_putNfld_other (by decide) (by omega)]

theorem nbit_fiCfgTaken {i : Nat} (v : Nat) (h : 122 < i) : nbit (fiCfgTaken v) i = nbit v i := by
  rw [nbit, nbit, fiCfgTaken, testBit_putNfld _ _ _ _ _ (by decide), if_neg (by omega), testBit_putNfld _ _ _ _ _ (by decide),
    if_neg (by omega), testBit_putNfld _ _ _ _ _ (by decide), if_neg (by omega)]

/-- The state in which a write of FI_CFG has stored its value and disarmed the injector. -/
def fiCfgStored (s : State) (a v : Nat) : State := fiDisarm (wrW s a (fiCfgTaken v) 4) a

theorem fiCfgWrite_of_taken {kind : Nat} (hpf : isPfSide s who = true) (hfree : fiLocked s = false) (hops : nfld v 126 124 ≤ fiOps kind) :
    fiCfgWrite s who a v (fiOps kind) = wrOk (if nbit v 127 = true ∧ rb (fiCfgStored s a v) Adr.obsFiGlobal 31 = true then
        wb (setFi (fiCfgStored s a v) a { fiOf (fiCfgStored s a v) a with
          skip := nfld v 111 96, left := if nfld v 95 72 = 0 then none else some (nfld v 95 72) }) (fiStat a) 0 true
      else fiCfgStored s a v) who a := by
  unfold fiCfgWrite
  rw [if_neg (by simp [hpf]), if_neg (by simp [hfree]), if_neg (Nat.not_lt.mpr hops)]
  dsimp only
  rw [← fiCfgTaken, ← fiCfgStored, nbit_fiCfgTaken v (by decide), nfld_fiCfgTaken v (by decide), nfld_fiCfgTaken v (by decide)]
  simp only [Bool.and_eq_true]

theorem fiWrite_of_addr {kind : Nat} (ha : fiAddr kind n = some a) (hup : islDown s (islandOf a) = false) :
    fiWrite s who kind n v = fiCfgWrite s who a v (fiOps kind) := by
  unfold fiWrite
  rw [ha]
  exact if_neg (by simp [hup])

/-- The tracer that a write of TRACE_INJ makes. -/
def tracerOf (s : State) (v : Nat) : Ingress :=
  { fr := { cl := { kind := ClauseKind.tracer.code, egr := nfld v 59 44, queue := nfld v 19 0, buf := noBuf,
                    trace := 128 + s.obs.injected % 128 } }, port := 16 * nfld v 63 60 }

/-- A pipeline's items after one is put behind them. -/
theorem ingressOf_setIngress_append (s : State) (p : Nat) (l : List Ingress) (x : Ingress) : ingressOf (setIngress s p (l ++ [x])) p = l ++ [x] :=
  (congrArg (mget [] · p) (if_neg (by simp))).trans (mget_mput_same _ _ _ _)

theorem traceInject_of_up (hup : islDown s 336 = false) (hpf : isPfSide s who = true) (v : Nat) :
    traceInject s who v = wrOk (setIngress { s with obs := { s.obs with injected := s.obs.injected + 1 } } (nfld v 63 60)
      (ingressOf s (nfld v 63 60) ++ [tracerOf s v])) who Adr.obsTraceInj := by
  unfold traceInject
  rw [if_neg (by simp [hup]), if_neg (by simp [hpf])]
  rfl

end Sys2Proof.Machine

open Sys2Proof.Machine

theorem Sys2Proof.Machine.snapshotsCopyTheLiveCountsOrAreRefused : Sys2Proof.Rules.SnapshotsCopyTheLiveCountsOrAreRefused := by
  refine ⟨fun s who v ofs hup hpf i hi => ?snapshot, fun s who n v hn hup => ?value⟩
  case snapshot =>
    rw [exec_snapCtl hi]
    refine ⟨fun hv => congrArg _ (snapCtlWrite_of_unset hup hpf hv), fun hv => ⟨fun hno => ?refused, fun hopen hon => ⟨fun hlast hnear => ?near, fun hfar => ?taken⟩⟩⟩
    case refused => exact congrArg _ ((snapCtlWrite_of_set hup hpf hv (snapshot_of_refused hno)).trans (if_pos rfl))
    case near => exact congrArg _ ((snapCtlWrite_of_set hup hpf hv (snapshot_of_near hopen hon hlast hnear)).trans (if_neg (by simp)))
    case taken =>
      obtain ⟨hstat, hobs, hgood⟩ := snapshot_of_taken hopen hon hfar
      obtain ⟨ht, hr⟩ := wrOk_wf_wf_stat_obs (snapshot s ofs).1 who Adr.obsSnapCtl Adr.obsSnapCtl 30 30 (fld v 30 30) 29 29 (fld v 29 29) Adr.obsSnapCtl
      refine ⟨_, congrArg _ ((snapCtlWrite_of_set (u := (snapshot s ofs).1) (bad := false) hup hpf hv (Prod.ext rfl hgood)).trans (if_neg (by simp))), ht.trans hstat, ?_⟩
      rw [hr, hobs]
  case value =>
    refine ⟨fun hpf => congrArg Host.Outcome.next ((if_pos hn).trans ?_), fun hpf => congrArg Host.Outcome.next ((if_pos hn).trans ?_)⟩
    · unfold pcValWrite
      rw [if_neg (by simp [hup]), if_neg (by simp [hpf])]
    · unfold pcValWrite
      rw [if_neg (by simp [hup]), if_pos (by simp [hpf])]

theorem Sys2Proof.Machine.injectorsArmReleaseAndEnd : Sys2Proof.Rules.InjectorsArmReleaseAndEnd := by
  refine fun s who hup hpf => ⟨?locked, ?global, ?cfg, ?hold, ?trace⟩
  case locked => exact fun hlock v => congrArg Host.Outcome.next (fiGlobalWrite_of_locked hup hlock v)
  case global =>
    refine fun hfree v => ⟨fun hen hmagic => congrArg Host.Outcome.next ((fiGlobalWrite_of_unlocked hup hpf hfree v).trans ?bad),
      fun hen hmagic hkill => congrArg Host.Outcome.next ((fiGlobalWrite_of_unlocked hup hpf hfree v).trans ?on),
      fun hoff => congrArg Host.Outcome.next ((fiGlobalWrite_of_unlocked hup hpf hfree v).trans ?off)⟩
    case bad => exact if_pos ⟨hen, hmagic⟩
    case on => rw [if_neg (fun h => h.2 hmagic), if_neg (by simp [hen, hkill]), hen]
    case off =>
      rw [if_neg ?_, if_pos ?_]
      · exact hoff.elim .inr fun h => .inl h.1
      · rintro ⟨hen, hmagic⟩
        rcases hoff with h | ⟨_, h⟩
        · simp [hen] at h
        · exact hmagic h
  case cfg =>
    refine fun kind n a v ha hisl => ⟨fun hlock => congrArg Host.Outcome.next ((fiWrite_of_addr ha hisl).trans ?locked),
      fun hfree hops => congrArg Host.Outcome.next ((fiWrite_of_addr ha hisl).trans ?op),
      fun hfree hops => ⟨fun hoff => congrArg Host.Outcome.next ((fiWrite_of_addr ha hisl).trans ((fiCfgWrite_of_taken hpf hfree hops).trans ?off)),
        fun hen hon => congrArg Host.Outcome.next ((fiWrite_of_addr ha hisl).trans ((fiCfgWrite_of_taken hpf hfree hops).trans ?armed))⟩⟩
    case locked => rw [fiCfgWrite, if_neg (by simp [hpf]), if_pos hlock]
    case op => rw [fiCfgWrite, if_neg (by simp [hpf]), if_neg (by simp [hfree]), if_pos hops]
    case off => exact congrArg (wrOk · who a) (if_neg fun ⟨hen, hon⟩ => hoff.elim (fun h => Bool.false_ne_true (h.symm.trans hen)) fun h => Bool.false_ne_true (h.symm.trans hon))
    case armed => exact congrArg (wrOk · who a) (if_pos ⟨hen, hon⟩)
  case hold =>
    refine fun kind n a ha => ⟨_, congrArg Host.Outcome.next (?_ : _ = fiRelease s a), rfl⟩
    rw [ha]
  case trace =>
    refine fun v => ⟨_, tracerOf s v, congrArg Host.Outcome.next (traceInject_of_up hup hpf v), rfl, rfl, rfl, rfl, rfl, ?_, rfl⟩
    exact ingressOf_setIngress_append { s with obs := { s.obs with injected := s.obs.injected + 1 } } _ _ _

/-- Settles O57: SNAP_CTL's write is a snapshot that is refused, joins the last one or copies the live counts, followed by LOCK, FREEZE and the report;
FI_CFG keeps EN, SKIP and COUNT of the write, and a tracer goes behind its pipeline's items. -/
theorem snapshotsAndInjectorsObserve : Obligations.SnapshotsAndInjectorsObserve :=
  ⟨snapshotsCopyTheLiveCountsOrAreRefused, injectorsArmReleaseAndEnd⟩

end

section
/-! SUPPORT AND PROOFS. The protection link (R418 to R423): lanes, STATE, and messages. -/
namespace Sys2Proof.Machine

variable {s t u : State} {cfg a b : Nat}

/-! ## What an injector may change -/

/-- A property that an injector's own steps keep: its state, its two status words and the free values. -/
structure FiStable (cfg : Nat) (P : State → Prop) : Prop where
  setFi : ∀ s x, P s → P (setFi s cfg x)
  wr : ∀ s a w, a = fiStat cfg ∨ a = fiStat cfg + 4 → P s → P (wr s a w)
  nextFree : ∀ s, P s → P (nextFree s)

namespace FiStable

variable {P : State → Prop} (h : FiStable cfg P)
include h

theorem fiDisarm (hs : P s) : P (fiDisarm s cfg) := by
  unfold Machine.fiDisarm
  split
  · exact h.wr s _ _ (.inl rfl) hs
  · exact hs

theorem fiSelect (hs : P s) : P (fiSelect s cfg).2 := by
  unfold Machine.fiSelect
  extract_lets v st
  split
  · exact h.nextFree s hs
  · split
    · exact h.setFi s _ hs
    · split
      · exact hs
      next n _ =>
        extract_lets left
        have hleft : P left := h.setFi s _ hs
        show P (if n ≤ 1 then Machine.fiDisarm left cfg else left)
        split
        · exact h.fiDisarm hleft
        · exact hleft

theorem fiAct (hs : P s) (x : FiUnit) : P (fiAct s cfg x).2 := by
  unfold Machine.fiAct
  extract_lets v st busySwap held
  have hheld : P held := h.setFi s _ hs
  clear_value held
  split
  next hit sel hsel =>
  have hselected : P sel := by
    have hsnd : _ = sel := congrArg Prod.snd hsel
    rw [← hsnd]
    split
    · exact h.fiSelect hheld
    · exact hheld
  extract_lets hits hold
  have hhits : P hits := h.wr sel _ _ (.inr rfl) hselected
  split
  next now acted hacted =>
  have hdone : P acted := by
    have hsnd : _ = acted := congrArg Prod.snd hacted
    rw [← hsnd]
    split
    · exact hselected
    · split
      · exact hhits
      · split
        · exact h.wr sel _ _ (.inl rfl) hselected
        · exact hhits
      · exact h.setFi hits _ hhits
      · exact h.setFi hits _ hhits
      · exact hselected
  exact h.setFi acted _ hdone

theorem fiPass (hs : P s) (tid : Option Nat) (x : FiUnit) : P (fiPass s cfg tid x).2 := by
  unfold Machine.fiPass
  split
  · exact hs
  · dsimp only
    split
    · exact h.fiAct hs x
    · exact hs

/-- What may leave past an injector changes what was sent besides. -/
theorem emitFi (hemit : ∀ s o, P s → P (emit s o)) (hs : P s) (tid : Option Nat) (o : Sent) : P (emitFi s cfg tid o) := by
  refine List.foldlRecOn _ _ (h.fiPass hs tid (.out o)) fun t ht x _ => ?_
  cases x
  case out => exact hemit t _ ht
  all_goals exact ht

end FiStable

/-! ## Keeping the link's words -/

/-- A step that leaves PRT_LINK_STAT, PRT_EVENT and the refresh outstanding. -/
structure KeepsLink (s t : State) : Prop where
  words : ∀ b, Adr.prtLinkStat ≤ b → b ≤ Adr.prtEvent → rd t b = rd s b
  refresh : t.prt.refresh = s.prt.refresh

namespace KeepsLink

theorem refl (s : State) : KeepsLink s s := ⟨fun _ _ _ => rfl, rfl⟩

theorem trans (h : KeepsLink s t) (g : KeepsLink t u) : KeepsLink s u :=
  ⟨fun b hlo hhi => (g.words b hlo hhi).trans (h.words b hlo hhi), g.refresh.trans h.refresh⟩

theorem wr (s : State) (ha : a < Adr.prtLinkStat) (w : Word) : KeepsLink s (wr s a w) :=
  ⟨fun b hlo _ => rd_wr_other s w (by omega), rfl⟩

/-- The injector of the sending side. -/
theorem fiStable (s : State) : FiStable (Adr.fiCfgObs 16) (KeepsLink s) where
  setFi _ _ h := ⟨h.words, h.refresh⟩
  wr t a w ha h := h.trans (wr t (by rcases ha with rfl | rfl <;> decide) w)
  nextFree _ h := ⟨h.words, h.refresh⟩

theorem plkSend (s : State) (x : PlkBody) : KeepsLink s (plkSend s x) := by
  unfold Machine.plkSend
  split
  · exact refl s
  · extract_lets a m p t
    have ht : KeepsLink s t := ⟨fun _ _ _ => rfl, rfl⟩
    exact (fiStable s).emitFi (fun _ _ h => ⟨h.words, h.refresh⟩) ht none _

theorem plkState (s : State) : KeepsLink s (plkState s) := by
  unfold Machine.plkState
  split
  · exact ⟨(plkSend s _).words, (plkSend s _).refresh⟩
  · exact refl s

theorem dpChange_prtState (s : State) (st det : Nat) : KeepsLink s (dpChange s Adr.prtState st det) := by
  refine ⟨fun b hlo _ => ?_, congrArg PrtSt.refresh (dpChange_prt s _ st det)⟩
  have hput (c : Bool) : rd (putUnit s Adr.prtState st det c) b = rd s b := rd_wr_other s _ (Nat.ne_of_gt (Nat.lt_of_lt_of_le (by decide) hlo))
  by_cases hwait : Adr.prtState ∈ s.unit.changed ∧ (st ≠ uState s Adr.prtState ∨ (s.unit.pend.any fun p => p.1 == Adr.prtState) = true)
  · rw [dpChange_of_wait hwait]
    rfl
  · rw [dpChange_of_now hwait]
    split
    · exact hput _
    · exact hput _

theorem prtSet (s : State) (st det : Nat) : KeepsLink s (prtSet s st det) := by
  unfold Machine.prtSet
  split
  · exact wr s (by decide) _
  · exact (dpChange_prtState s st det).trans (plkState _)

theorem prtEval (s : State) : KeepsLink s (prtEval s) := by
  unfold Machine.prtEval
  split
  · dsimp only
    split
    · exact prtSet s _ _
    · exact prtSet s _ _
  · exact refl s

end KeepsLink

/-! ## A digest that is lost -/

/-- A pair event is a report after its bit is set. -/
theorem prtEvent_reports (s : State) {bit : Nat} (hbit : bit ≠ 6) : ReportsOnly (wb s Adr.prtEvent bit true) (prtEvent s bit) := by
  unfold prtEvent
  rw [if_neg hbit]
  exact .raise _ (by decide) _

/-- The state in which a lost digest is counted and a full refresh is outstanding. -/
def digestCounted (s : State) : State :=
  prtUpd (setLink s 39 32 (satAdd 255 (linkFld s 39 32) 1)) fun p => { p with refresh := 256, part := none, partLost := false }

theorem rb_digestLost (hc : mwf resetWord s.regs = true) : rb (digestLost s) Adr.prtEvent 5 = true := by
  have hcounted : mwf resetWord (digestCounted s).regs = true := mwf_regs_wrW hc _ _ _
  calc rb (digestLost s) Adr.prtEvent 5
      = rb (prtEvent (digestCounted s) 5) Adr.prtEvent 5 := rb_congr ((KeepsLink.prtEval _).words _ (by decide) (by decide)) 5
    _ = rb (wb (digestCounted s) Adr.prtEvent 5 true) Adr.prtEvent 5 :=
        (prtEvent_reports _ (by decide)).rb (by unfold quietWord Adr.prtEvent; omega) 5
    _ = true := rb_wb_same hcounted _ _ _ (by decide)

theorem refresh_digestLost (s : State) : (digestLost s).prt.refresh = 256 :=
  (KeepsLink.prtEval _).refresh.trans (congrArg PrtSt.refresh (prtEvent_reports (digestCounted s) (by decide)).keeps.prt)

/-- A lost digest is counted, and nothing else of PRT_LINK_STAT changes. -/
theorem rd_digestLost_link (s : State) (hlo : Adr.prtLinkStat ≤ b) (hhi : b < Adr.prtLinkStat + 4 * 2) :
    rd (digestLost s) b = rd (setLink s 39 32 (satAdd 255 (linkFld s 39 32) 1)) b := by
  have hbelow : b < Adr.prtEvent := Nat.lt_of_lt_of_le hhi (by decide)
  have hquiet : quietWord b := by unfold Adr.prtLinkStat at hlo hhi; unfold quietWord; omega
  calc rd (digestLost s) b = rd (prtEvent (digestCounted s) 5) b := (KeepsLink.prtEval _).words b hlo hbelow.le
    _ = rd (wb (digestCounted s) Adr.prtEvent 5 true) b := (prtEvent_reports _ (by decide)).words b hquiet
    _ = rd (digestCounted s) b := rd_wb_other _ _ _ hbelow.ne
    _ = rd (setLink s 39 32 (satAdd 255 (linkFld s 39 32) 1)) b := rd_of_regs (prtUpd_regs _ _) b

theorem linkFld_digestLost (hc : mwf resetWord s.regs = true) : linkFld (digestLost s) 39 32 = min 255 (linkFld s 39 32 + 1) := by
  have hlt : satAdd 255 (linkFld s 39 32) 1 < 2 ^ (39 + 1 - 32) := Nat.lt_of_le_of_lt (Nat.min_le_left ..) (by decide)
  rw [linkFld, rfW_congr fun b hlo hhi => rd_digestLost_link s hlo hhi, setLink, rfW_wfW_same hc _ _ _ _ _ (by decide) (by decide),
    Nat.mod_eq_of_lt hlt, satAdd]

/-! ## The digest's parts -/

/-- The only part of a digest is the whole: it is applied, or lost where a message was skipped. -/
theorem digestTake_of_single (hstandby : prtStandby s = true) (hformed : prtFormed s = true) (hpart : s.prt.part = none)
    (hlost : s.prt.partLost = false) (skipped : Nat) (d : Digest) :
    digestTake s skipped true d = if skipped = 0 then digestApply s d else digestLost s := by
  unfold digestTake
  rw [if_neg (by simp [hstandby, hformed]), hpart]
  by_cases h : skipped = 0
  · simp [hpart, hlost, h]
  · simp [hlost, h, Nat.pos_of_ne_zero h]

/-! ## Lanes -/

/-- What a lane remembers and whether the block counts are aligned, after a marker is compared. -/
def laneUpd (s : State) (n i : Nat) (old : Nat × Nat) (hit al : Bool) : State :=
  prtUpd s fun p => { p with lanes := mset (0, 0) p.lanes i (laneNext n old hit), aligned := al }

/-- A lane's marker: the lane goes on, LINK shows the least lane, and the link changes with them. -/
theorem exec_plkLaneSync {i : Nat} (hi : i < 4) (s : State) (hit al : Bool) : exec (.plkLaneSync i hit al) s = .next (linkChange
    (setLink (laneUpd (if (mget (0, 0) s.prt.lanes i).1 ≠ 0 ∧ hit = false then setLink s 15 0 (satAdd 0xFFFF (linkFld s 15 0) 1) else s)
        (clamp 1 7 (rf s Adr.prtCfg 15 12)) i (mget (0, 0) s.prt.lanes i) hit al) 63 60
      ([0, 1, 2, 3].foldl (fun n j => min n (mget (0, 0) (laneUpd (if (mget (0, 0) s.prt.lanes i).1 ≠ 0 ∧ hit = false then
          setLink s 15 0 (satAdd 0xFFFF (linkFld s 15 0) 1) else s)
        (clamp 1 7 (rf s Adr.prtCfg 15 12)) i (mget (0, 0) s.prt.lanes i) hit al).prt.lanes j).1) 2)) (prtLinkUp s)) := by
  have hcfg : syncN (if (mget (0, 0) s.prt.lanes i).1 ≠ 0 ∧ hit = false then setLink s 15 0 (satAdd 0xFFFF (linkFld s 15 0) 1) else s)
      = clamp 1 7 (rf s Adr.prtCfg 15 12) := by
    split
    · exact congrArg (clamp 1 7) (rf_congr (rd_wrW_other s _ _ _ (.inl (by decide))) 15 12)
    · rfl
  refine congrArg Host.Outcome.next ((if_pos hi).trans ?_)
  unfold laneSync
  dsimp only
  rw [hcfg]
  rfl

/-! ## STATE -/

/-- The message that a link which is up sends next of a body's TYPE. -/
def plkMsgOf (s : State) (x : PlkBody) : PlkMsg :=
  { alive := (mget 0 s.prt.aliveTx x.typ + 1) % 65536, cycle := rdW s (Adr.chnCycle 0) 2 % 2 ^ 48, len := freeVal s % 16385, body := x }

/-- Past an idle injector the message leaves. -/
theorem plkSend_sent (hup : prtLinkUp s = true) (harmed : fiArmed s (Adr.fiCfgObs 16) = false) (hheld : (fiOf s (Adr.fiCfgObs 16)).held = [])
    (x : PlkBody) : (plkSend s x).sent = s.sent ++ [.plk (plkMsgOf s x)] := by
  unfold plkSend
  rw [if_neg (by simp [hup])]
  extract_lets a m p t
  have hpass : fiPass t (Adr.fiCfgObs 16) none (.out (.plk m)) = ([.out (.plk m)], t) := fiPass_of_idle (s := t) harmed hheld _ _
  rw [emitFi, hpass]
  rfl

theorem plkState_of_up (hup : prtLinkUp s = true) :
    plkState s = prtUpd (plkSend s (.state (prtSt s) s.prt.heard s.prt.resets)) fun p => { p with resets := [] } := if_pos hup

/-! ## Messages -/

/-- Past an idle injector a message of its TYPE goes on. -/
theorem plkReceive_of_idle {m : PlkMsg} {typ : Nat} (hup : prtLinkUp s = true) (hst : prtSt s ≠ ptSolo) (htyp : m.body.typ = typ)
    (harmed : fiArmed s (Adr.fiCfgObs 17) = false) (hheld : (fiOf s (Adr.fiCfgObs 17)).held = []) (key : List Byte) :
    plkReceive s typ m key = plkGo s m key := by
  unfold plkReceive
  rw [if_pos ⟨hup, htyp, hst⟩, fiPass_of_idle harmed hheld]
  rfl

theorem plkAccept_of_crc (m : PlkMsg) (h : m.crcOk = false) (s : State) : plkAccept s m = none := if_pos (by simp [h])

theorem plkAccept_of_first {m : PlkMsg} (h : m.crcOk = true) (hrx : mget 0 s.prt.aliveRx m.body.typ = 0) : plkAccept s m = some 0 := by
  rw [plkAccept, if_neg (by simp [h]), hrx]

theorem plkAccept_of_next {m : PlkMsg} (h : m.crcOk = true) {k : Nat} (hrx : mget 0 s.prt.aliveRx m.body.typ = k + 1) :
    plkAccept s m = if modSub m.alive k 65536 = 0 ∨ 32768 ≤ modSub m.alive k 65536 then none else some (modSub m.alive k 65536 - 1) := by
  rw [plkAccept, if_neg (by simp [h]), hrx]

theorem plkGo_of_dropped {m : PlkMsg} (h : plkAccept s m = none) (key : List Byte) : plkGo s m key = s := by
  rw [plkGo, h]

/-- The state in which the ALIVE of an accepted message is remembered. -/
def aliveTaken (s : State) (m : PlkMsg) : State :=
  prtUpd s fun p => { p with aliveRx := mput p.aliveRx m.body.typ (m.alive % 65536 + 1) }

section
variable {m : PlkMsg} {skipped : Nat} (h : plkAccept s m = some skipped) (key : List Byte)
include h

theorem plkGo_of_digest {last : Bool} {d : Digest} (hbody : m.body = .digest last d) :
    plkGo s m key = digestTake (aliveTaken s m) skipped last d := by
  rw [plkGo, h]
  dsimp only
  rw [← aliveTaken, hbody]

theorem plkGo_of_key {c k st gen limit : Nat} {tag12 : Bool} {ctr : Nat} {wr : List Byte}
    (hbody : m.body = .key c k st gen limit tag12 ctr wr) (hc : c < 256) (hk : k < 2048) :
    plkGo s m key = keyTakeCopy (aliveTaken s m) c k st gen limit tag12 key := by
  rw [plkGo, h]
  dsimp only
  rw [← aliveTaken, hbody]
  exact if_pos ⟨hc, hk⟩

theorem plkGo_of_state {st heard : Nat} {resets : List Nat} (hbody : m.body = .state st heard resets) :
    plkGo s m key = stateTake (aliveTaken s m) st heard (resets.filter (· < 256)) := by
  rw [plkGo, h]
  dsimp only
  rw [← aliveTaken, hbody]

theorem plkGo_of_hello {id : List Byte} {role st : Nat} {nonce plan : List Byte} {ans : Option (Nat × List Byte)}
    (hbody : m.body = .hello id role st nonce plan ans) : plkGo s m key = helloTake (aliveTaken s m) id role nonce plan ans := by
  rw [plkGo, h]
  dsimp only
  rw [← aliveTaken, hbody]

end

theorem helloTake_of_mismatch {p : PairRec} (hpair : s.sec.vault.pair = some p) {id : List Byte} {role : Nat}
    (h : id ≠ p.pairId ∨ role = p.role) (nonce plan : List Byte) (ans : Option (Nat × List Byte)) :
    helloTake s id role nonce plan ans = pairMismatch s := by
  rw [helloTake, hpair]
  exact if_pos h

end Sys2Proof.Machine

open Sys2Proof.Machine

theorem Sys2Proof.Machine.lanesSynchronizeByTheirMarkers : Sys2Proof.Rules.LanesSynchronizeByTheirMarkers := by
  refine ⟨fun s i hit al hi => exec_plkLaneSync hi s hit al,
    fun n k => ⟨rfl, rfl, rfl, rfl, fun h => if_neg (Nat.not_le.mpr h), fun h => if_pos h, fun h => if_neg (Nat.not_le.mpr h), fun h => if_pos h⟩,
    fun s hst => ⟨fun hdown => ?down, fun hup => ?up⟩⟩
  case down => exact congrArg Host.Outcome.next ((if_neg hst).trans (if_neg (by simp [hdown])))
  case up =>
    refine ⟨_, congrArg Host.Outcome.next ((if_neg hst).trans (plkState_of_up hup)), rfl, fun harmed hheld => ?_⟩
    exact ⟨_, plkSend_sent hup harmed hheld _, rfl, rfl⟩

theorem Sys2Proof.Machine.linkMessagesAreAcceptedAndApplied : Sys2Proof.Rules.LinkMessagesAreAcceptedAndApplied := by
  intro s m key hup hst harmed hheld
  have hgo {typ : Nat} (htyp : m.body.typ = typ) (key : List Byte) : plkReceive s typ m key = plkGo s m key :=
    plkReceive_of_idle hup hst htyp harmed hheld key
  refine ⟨fun skipped last d hbody => ⟨fun hacc => ?digest, fun hno => ?dropped⟩,
    fun skipped c k st gen limit tag12 ctr wr hbody hc hk hacc => ?key,
    fun skipped st heard resets hbody hacc => ?state,
    fun skipped id role st nonce plan ans p hbody hacc hpair => ⟨fun hmis => ?mismatch, fun hid hrole => ?hello⟩,
    fun hcrc => plkAccept_of_crc m hcrc s, fun hcrc hrx => plkAccept_of_first hcrc hrx, fun k hcrc hrx => plkAccept_of_next hcrc hrx,
    fun hstandby hformed skipped d hpart hlost => digestTake_of_single hstandby hformed hpart hlost skipped d,
    fun hc => ⟨rb_digestLost hc.1, refresh_digestLost s, linkFld_digestLost hc.1⟩⟩
  case digest => exact congrArg Host.Outcome.next ((hgo (by rw [hbody]; rfl) []).trans (plkGo_of_digest hacc [] hbody))
  case dropped => exact congrArg Host.Outcome.next ((hgo (by rw [hbody]; rfl) []).trans (plkGo_of_dropped hno []))
  case key => exact congrArg Host.Outcome.next ((hgo (by rw [hbody]; rfl) key).trans (plkGo_of_key hacc key hbody hc hk))
  case state => exact congrArg Host.Outcome.next ((hgo (by rw [hbody]; rfl) []).trans (plkGo_of_state hacc [] hbody))
  case mismatch =>
    exact congrArg Host.Outcome.next ((hgo (by rw [hbody]; rfl) []).trans ((plkGo_of_hello hacc [] hbody).trans (helloTake_of_mismatch (s := aliveTaken s m) hpair hmis nonce plan ans)))
  case hello => exact congrArg Host.Outcome.next ((hgo (by rw [hbody]; rfl) []).trans (plkGo_of_hello hacc [] hbody))

/-- Settles O56: a message past an idle injector is accepted by its CRC and ALIVE and goes to the rule of its TYPE; what follows a lost digest keeps
the link's words, because an injector's steps write only its own status. -/
theorem pairLinkSynchronizesAndAppliesMessages : Obligations.PairLinkSynchronizesAndAppliesMessages :=
  ⟨lanesSynchronizeByTheirMarkers, linkMessagesAreAcceptedAndApplied⟩

end

section
/-! SUPPORT AND PROOFS. Timed actions (R377 to R380, R365, R406). -/
namespace Sys2Proof.Machine

variable {s t u w : State} {who : Requester} {n ofs kind st : Nat}

/-! ## What a slot's run keeps -/

@[simp] theorem wrW_sched (s : State) (a v n : Nat) : (wrW s a v n).sched = s.sched := (congrArg State.sched (wrW_with_regs s a v n s.regs) :)

@[simp] theorem setAct_sched (s : State) (n hi lo v : Nat) : (setAct s n hi lo v).sched = s.sched := by rw [setAct, wfW, wrW_sched]

@[simp] theorem setAct_stat (s : State) (n hi lo v : Nat) : (setAct s n hi lo v).stat = s.stat := by rw [setAct, wfW, wrW_stat]

@[simp] theorem timEvent_sched (s : State) (bit : Nat) : (timEvent s bit).sched = s.sched := (timEvent_reports s bit).keeps.sched

@[simp] theorem timEvent_stat (s : State) (bit : Nat) : (timEvent s bit).stat = s.stat := (timEvent_reports s bit).keeps.stat

/-- After a run only the slot and the runs left have changed. -/
theorem actAfter_sched_stat (s : State) (n next : Nat) : (actAfter s n next).sched = s.sched ∧ (actAfter s n next).stat = s.stat := by
  unfold actAfter
  dsimp only
  split
  · exact ⟨setAct_sched .., setAct_stat ..⟩
  · exact ⟨setAct_sched .., setAct_stat ..⟩

/-- A slot after its write: not late, the write's status, and RUNS one more. -/
def actShown (w : State) (n st : Nat) : State := setAct (setAct (setAct w n 27 27 0) n 26 23 st) n 11 0 ((actFld w n 11 0 + 1) % 4096)

@[simp] theorem actShown_sched (w : State) (n st : Nat) : (actShown w n st).sched = w.sched := by
  rw [actShown, setAct_sched, setAct_sched, setAct_sched]

@[simp] theorem actShown_stat (w : State) (n st : Nat) : (actShown w n st).stat = w.stat := by
  rw [actShown, setAct_stat, setAct_stat, setAct_stat]

/-! ## A slot at its instant -/

theorem exec_actionOf {i : Instr} (h : actionOf n ofs kind = some i) : exec i s = .next (actDue s kind n ofs) := by
  unfold actionOf at h
  split at h <;> cases h <;> rfl

theorem actDue_of_not_due (h : actStatus s n ≠ actArmed ∨ actKind s n ≠ kind ∨ baseAt s (actTb s n) ofs < timeTicks (actTime s n)) :
    actDue s kind n ofs = s :=
  if_neg fun ⟨_, harmed, hkind, hdue⟩ => by
    rcases h with h | h | h
    · exact h harmed
    · exact h hkind
    · exact Nat.not_lt.mpr hdue h

section
variable (hn : n < 64) (harmed : actStatus s n = actArmed) (hkind : actKind s n = kind)
  (hdue : timeTicks (actTime s n) ≤ baseAt s (actTb s n) ofs) (hout : kind = 1 → prtOutOk s = true)
include hn harmed hkind hdue hout

/-- A slot that is due runs its kind's write, and goes on or fails by its status. -/
theorem actDue_of_due (hdo : actDo s n ofs = (w, st)) : actDue s kind n ofs
    = if st = 0 then actAfter (actShown w n st) n (timeTicks (actTime s n) + actPeriodTicks s n)
      else timEvent (setActStatus (actShown w n st) n actFailed) 2 := by
  unfold actDue actRun
  dsimp only
  rw [if_pos ⟨hn, harmed, hkind, hdue⟩, if_neg (fun h => by simp [hout (hkind.symm.trans h.1)] at h), hdo]
  rfl

theorem actDue_of_ok (hdo : actDo s n ofs = (w, 0)) :
    actDue s kind n ofs = actAfter (actShown w n 0) n (timeTicks (actTime s n) + actPeriodTicks s n) :=
  (actDue_of_due hn harmed hkind hdue hout hdo).trans (if_pos rfl)

/-- Whatever its status, what the write did to the gate lists and the counters stands. -/
theorem actDue_sched_stat (hdo : actDo s n ofs = (w, st)) : (actDue s kind n ofs).sched = w.sched ∧ (actDue s kind n ofs).stat = w.stat := by
  rw [actDue_of_due hn harmed hkind hdue hout hdo]
  split
  · obtain ⟨hsched, hstat⟩ := actAfter_sched_stat (actShown w n st) n (timeTicks (actTime s n) + actPeriodTicks s n)
    exact ⟨hsched.trans (actShown_sched ..), hstat.trans (actShown_stat ..)⟩
  · rw [setActStatus, timEvent_sched, timEvent_stat, setAct_sched, setAct_stat, actShown_sched, actShown_stat]
    exact ⟨rfl, rfl⟩

end

/-! ## The commit of a slot -/

/-- Whether the arguments of a commit are out of range. -/
def actBad (s : State) (v : Nat) : Bool :=
  !actArgsOk s (nfld v 156 153) (nfld v 95 64) (nfld v 63 32) || decide (0 < nfld v 149 120 ∧ nfld v 149 120 < 1000)
    || decide (1000000000 < nfld v 149 120) || baseState s (nfld v 159 157) == tbUnset || !timeOk (nfld v 255 160)

/-- A slot with a commit's arguments. -/
def actStored (s : State) (n v : Nat) : State := wrW s (Adr.timAct n) (putNfld (putNfld v 151 150 0) 31 0 (actFld s n 31 0)) 8

theorem actCommit_of_up (hup : islDown s 339 = false) (hpf : isPfSide s who = true) (v : Nat) : actCommit s who n v ofs
    = if (nbit v 151 && actBad s v) = true then wrRefuse s who (Adr.timAct n) .outOfRange
      else wrOk (if nbit v 151 = true then actArm (actStored s n v) n ofs else setActStatus (actStored s n v) n actIdle) who (Adr.timAct n) := by
  unfold actCommit
  dsimp only
  rw [if_neg (by simp [hup]), if_neg (by simp [hpf])]
  rfl

/-- A slot whose arming starts: its status is cleared and its runs are counted anew. -/
def actCleared (u : State) (n : Nat) : State :=
  timSet (setAct (setAct u n 31 23 0) n 19 0 0) fun t =>
    { t with left := mset 0 t.left n (actFld (setAct (setAct u n 31 23 0) n 19 0 0) n 119 104) }

/-- Arming: ARMED where the instant is 200 ns away or more, LATE without RUN_LATE else. -/
theorem actArm_of_ahead (h : baseAt (actCleared u n) (actTb (actCleared u n) n) ofs + 200 * 65536 ≤ timeTicks (actTime (actCleared u n) n)) :
    actArm u n ofs = setActStatus (actCleared u n) n actArmed := if_pos h

theorem actArm_of_late (h : timeTicks (actTime (actCleared u n) n) < baseAt (actCleared u n) (actTb (actCleared u n) n) ofs + 200 * 65536)
    (hlate : actFld (actCleared u n) n 152 152 = 0) : actArm u n ofs = timEvent (setActStatus (actCleared u n) n actLate) 3 :=
  (if_neg (Nat.not_le.mpr h)).trans (if_pos hlate)

/-! ## Where a write is noted -/

/-- Rows of a list are at most 512 bytes wide. -/
def narrowRows (l : List RegDesc) : Bool := l.all fun d => decide (d.bits ≤ 4096)

theorem bits_of_regFindIn {l : List RegDesc} (hl : narrowRows l = true) {a : Nat} {r : RegRef} (h : regFindIn a l = some r) :
    r.desc.bits ≤ 4096 := by
  induction l with
  | nil => cases h
  | cons d l ih =>
    obtain ⟨hd, hrest⟩ := (by simpa [narrowRows] using hl : d.bits ≤ 4096 ∧ ∀ x ∈ l, x.bits ≤ 4096)
    have hrest : narrowRows l = true := by simpa [narrowRows] using hrest
    unfold regFindIn at h
    split at h
    · split at h
      · split at h
        · cases h; exact hd
        · exact ih hrest h
      · exact ih hrest h
    · exact ih hrest h

theorem narrowRows_tre : narrowRows regsTre = true := by decide
theorem narrowRows_chn : narrowRows regsChn = true := by decide

/-- The registers of trees and channels are narrow. -/
theorem narrowRows_regsAt {a : Nat} (hlo : 0x1000000 ≤ a) : narrowRows (regsAt a) = true := by
  unfold regsAt
  iterate 17 rw [if_neg (by omega)]
  split
  · exact narrowRows_tre
  · split
    · rfl
    · split
      · exact narrowRows_chn
      · rfl

/-- The offset noted for a write of a tree's or channel's register is not 0. -/
theorem commitOff_ne_zero {a : Nat} (hlo : 0x1000000 ≤ a) (hhi : a < 0x6000000) : commitOff a % 2 ^ 27 ≠ 0 := by
  unfold commitOff
  split
  next r hr =>
    have hbits : r.desc.bits ≤ 4096 := bits_of_regFindIn (narrowRows_regsAt hlo) hr
    split
    · omega
    · omega
  next => omega

/-- A commit without a refusal is an arming or leaves the slot IDLE. -/
theorem actCommit_of_taken (hup : islDown s 339 = false) (hpf : isPfSide s who = true) {v : Nat} (h : nbit v 151 = false ∨ actBad s v = false) :
    actCommit s who n v ofs
      = wrOk (if nbit v 151 = true then actArm (actStored s n v) n ofs else setActStatus (actStored s n v) n actIdle) who (Adr.timAct n) := by
  rw [actCommit_of_up hup hpf, if_neg (by rcases h with h | h <;> simp [h])]

/-! ## Pulses -/

theorem dmaReq_sent (s : State) (l : Nat) : (dmaReq s l).sent = s.sent := by
  unfold dmaReq
  dsimp only
  split <;> rfl

theorem actPulse_sent (h : outsHeld s = false) (n : Nat) :
    (actPulse s n).sent = s.sent ++ [.pulse (nfld (actArg0 s n) 3 0) (actFld s n 63 32)] := by
  unfold actPulse
  dsimp only
  rw [dmaReq_sent, emitPin_of_not_held h]
  rfl

theorem actDo_of_pulse (h : actKind s n = 1) (ofs : Nat) : actDo s n ofs = (actPulse s n, 0) := by
  unfold actDo
  rw [h]
  rfl

end Sys2Proof.Machine

open Sys2Proof.Machine

theorem Sys2Proof.Machine.actionsAreArmedLateOrRefused : Sys2Proof.Rules.ActionsAreArmedLateOrRefused := by
  refine fun s who n v ofs hn hup hpf => ⟨fun harm hbad => congrArg Host.Outcome.next ((if_pos hn).trans ?refused),
    fun harm hgood => congrArg Host.Outcome.next ((if_pos hn).trans ((actCommit_of_taken hup hpf (.inr hgood)).trans ?armed)),
    fun harm => congrArg Host.Outcome.next ((if_pos hn).trans ((actCommit_of_taken hup hpf (.inl harm)).trans ?idle)),
    fun u => ⟨fun h => actArm_of_ahead h, fun h hlate => actArm_of_late h hlate⟩⟩
  case refused => exact (actCommit_of_up hup hpf v).trans (if_pos (Bool.and_eq_true_iff.mpr ⟨harm, hbad⟩))
  case armed => exact congrArg (wrOk · who (Adr.timAct n)) (if_pos harm)
  case idle => exact congrArg (wrOk · who (Adr.timAct n)) (if_neg (by simp [harm]))

theorem Sys2Proof.Machine.actionsRunAtTheirInstant : Sys2Proof.Rules.ActionsRunAtTheirInstant := by
  refine ⟨fun s n ofs kind i hn hi => ?action, fun s n => ⟨_, rfl, rfl, rfl⟩⟩
  rw [exec_actionOf hi]
  refine ⟨fun harmed hkind hdue hout w st hdo => ?due, fun h => congrArg _ (actDue_of_not_due h), fun hk hkind hheld => ?pulse⟩
  case due =>
    have hrun := actDue_of_due hn harmed hkind hdue hout hdo
    exact ⟨fun hst => congrArg _ (hrun.trans (if_pos hst)), fun hst => congrArg _ (hrun.trans (if_neg hst))⟩
  case pulse => exact ⟨_, actDo_of_pulse hkind ofs, actPulse_sent hheld n⟩

end

section
/-! SUPPORT AND PROOFS. The writes that timed actions make (R377). -/
namespace Sys2Proof.Machine

variable {s t u w x : State} {who : Requester} {n ofs st c k tid : Nat}

/-! ## A write made as the owner of its function -/

/-- The owner as which a timed action writes. -/
def actBy (s : State) (f t : Nat) : Requester := if owner s f t = 0 then .core 0 else .pf

/-- The state in which a requester has no write noted. -/
def clearNote (s : State) (who : Requester) : State :=
  { s with acc := { s.acc with wrLast := mset {} s.acc.wrLast who.code {} } }

/-- What a write made of the state, with every requester's notes as they were. -/
def keepNotes (s y : State) : State :=
  { y with acc := { y.acc with wrLast := s.acc.wrLast, wrBad := s.acc.wrBad, wrCount := s.acc.wrCount } }

/-- A write that takes effect is noted with status 0. -/
theorem status_wrOk (x : State) (who : Requester) {off : Nat} (hoff : commitOff off % 2 ^ 27 ≠ 0) :
    (mget {} (wrOk x who off).acc.wrLast who.code).status = 0 := by
  have hnote : (wrOk x who off).acc.wrLast = mput x.acc.wrLast who.code ⟨0, 0, 0, commitOff off % 2 ^ 27⟩ :=
    if_neg fun h => hoff (WrRec.mk.inj h).2.2.2
  rw [hnote, mget_mput_same]

theorem actWrite_eq (s : State) (f t : Nat) (f' : State → Requester → State) : actWrite s f t f'
    = (keepNotes s (f' (clearNote s (actBy s f t)) (actBy s f t)),
      (mget {} (f' (clearNote s (actBy s f t)) (actBy s f t)).acc.wrLast (actBy s f t).code).status) := rfl

/-- A timed write that takes effect has status 0 and leaves the notes. -/
theorem actWrite_of_taken {f t : Nat} {f' : State → Requester → State} {off : Nat} (hwho : who = actBy s f t)
    (hwrite : f' (clearNote s who) who = wrOk x who off) (hoff : commitOff off % 2 ^ 27 ≠ 0) :
    actWrite s f t f' = (keepNotes s (wrOk x who off), 0) := by
  rw [actWrite_eq, ← hwho, hwrite, status_wrOk x who hoff]

/-! ### A requester's note takes no part in what a write finds. -/

section
variable (s : State) (who : Requester)

theorem islDown_clearNote (a : Nat) : islDown (clearNote s who) a = islDown s a := rfl
theorem isOwner_clearNote (q : Requester) (i f t : Nat) : isOwner (clearNote s who) q i f t = isOwner s q i f t := rfl
theorem uEpoch_clearNote (a : Nat) : uEpoch (clearNote s who) a = uEpoch s a := rfl
theorem keyEff_clearNote (c k : Nat) : keyEff (clearNote s who) c k = keyEff s c k := rfl
theorem trCheck_clearNote (tid w x ofs : Nat) : trCheck (clearNote s who) tid w x ofs = trCheck s tid w x ofs := rfl
theorem cycleNow_clearNote : cycleNow (clearNote s who) = cycleNow s := rfl
theorem chnEff_clearNote (c : Nat) : chnEff (clearNote s who) c = chnEff s c := rfl
theorem isN200_clearNote (c : Nat) : isN200 (clearNote s who) c = isN200 s c := rfl
theorem applyHolds_clearNote (t : Nat) : applyHolds (clearNote s who) t = applyHolds s t := rfl
theorem otherRuns_clearNote (c : Nat) : otherRuns (clearNote s who) c = otherRuns s c := rfl
theorem adminList_clearNote (x : Nat) : adminList (clearNote s who) x = adminList s x := rfl
theorem baseAt_clearNote (b ofs : Nat) : baseAt (clearNote s who) b ofs = baseAt s b ofs := rfl

end

/-! ## Gate lists -/

theorem evBit_corrected_sched (s : State) (a bit : Nat) {i : Nat} (hi : i < 342) (code : Nat) :
    (evBit s a bit i .corrected code).sched = s.sched := (ReportsOnly.raise (wb s a bit true) hi code).keeps.sched

theorem gclEvent_sched {x : Nat} (hx : x < 512) (s : State) (bit : Nat) : (gclEvent s x bit).sched = s.sched := by
  unfold gclEvent
  split
  · exact evBit_corrected_sched s _ _ (by omega) _
  · exact evBit_corrected_sched s _ _ (by omega) _

theorem lt_of_unitOk {x : Nat} (h : unitOk s x = true) : x < 512 := by
  unfold unitOk at h
  split at h
  · omega
  · exact of_decide_eq_true (Bool.and_eq_true_iff.mp h).1

theorem gclOf_congr (h : t.sched = s.sched) (x : Nat) : gclOf t x = gclOf s x := by rw [gclOf, gclOf, h]

/-- A unit's list that is put pending is pending. -/
theorem gclOf_setGcl_next (s : State) (x : Nat) (g : GclSt) (l : GclList) : (gclOf (setGcl s x { g with next := some l }) x).next = some l := by
  have hlist : ({ g with next := some l } : GclSt) ≠ {} := fun h => nomatch congrArg GclSt.next h
  have hmap : (setGcl s x { g with next := some l }).sched.gcl = mput s.sched.gcl x { g with next := some l } := if_neg hlist
  rw [gclOf, hmap, mget_mput_same]

/-- An admin list that stands is pending until its start. -/
theorem gclInstall_of_adminList {x : Nat} (hx : x < 512) {tb base cyc : Nat} {es : List (Nat × Nat)} (hlist : adminList s x = some (tb, base, cyc, es)) :
    ∃ t, gclInstall s x = some t ∧ (gclOf t x).next = some ⟨tb, (gclStartAt (baseAt s tb (freeVal s % 25626)) base cyc).1, cyc, es⟩ := by
  unfold gclInstall
  rw [hlist]
  dsimp only
  refine ⟨_, rfl, ?_⟩
  rw [gclOf_congr (s := setGcl s x { gclOf s x with next := some ⟨tb, (gclStartAt (baseAt s tb (freeVal s % 25626)) base cyc).1, cyc, es⟩ })]
  · exact gclOf_setGcl_next ..
  · split_ifs <;> simp only [gclEvent_sched hx, wrW_sched] <;> rfl

theorem gclWriter_of_writer {x : Nat} (hunit : unitOk s x = true) (hup : islDown s (islandOf (gclCtl x)) = false)
    (hwriter : (if x < 256 then isOwner s who x 2 (x / 4) else isPfSide s who) = true) (ok : State → State) : gclWriter s who x ok = ok s := by
  unfold gclWriter
  dsimp only
  rw [if_neg (by simp [hunit]), if_neg (by simp [hup])]
  split at hwriter
  · exact (if_pos ‹_›).trans (if_pos hwriter)
  · exact (if_neg ‹_›).trans (if_pos hwriter)

/-- INSTALL by a writer of the unit leaves the admin list pending. -/
theorem gclInstallWrite_of_adminList {x : Nat} (hunit : unitOk s x = true) (hup : islDown s (islandOf (gclCtl x)) = false)
    (hwriter : (if x < 256 then isOwner s who x 2 (x / 4) else isPfSide s who) = true)
    {tb base cyc : Nat} {es : List (Nat × Nat)} (hlist : adminList s x = some (tb, base, cyc, es)) :
    (gclOf (gclInstallWrite s who x) x).next = some ⟨tb, (gclStartAt (baseAt s tb (freeVal s % 25626)) base cyc).1, cyc, es⟩ := by
  obtain ⟨t, hinstall, hnext⟩ := gclInstall_of_adminList (lt_of_unitOk hunit) hlist
  rw [gclInstallWrite, gclWriter_of_writer hunit hup hwriter, hinstall]
  exact hnext

theorem actDo_of_gcl (h : actKind s n = 2) (ofs : Nat) {x : Nat} (hx : x = actGclUnit (actArg0 s n)) : actDo s n ofs
    = actWrite s 2 (if x < 256 then x / 4 else 0) fun s who => gclInstallWrite s (if x < 256 then who else .pf) x := by
  unfold actDo
  rw [h, hx]
  rfl

/-! ## Keys, Transits and Eclipse -/

theorem actExpect_lt (s : State) (n : Nat) : actExpect s n < 2 ^ 8 := Nat.mod_lt _ (by decide)

theorem nfld_lt (v hi lo : Nat) : nfld v hi lo < 2 ^ (hi + 1 - lo) := Nat.mod_lt _ (Nat.two_pow_pos _)

/-- The value of TRE_TRANSIT_REQ that a timed action writes: START of a terminal's slot to a wavelength, at no named cycle. -/
def actTrReq (slot wave expect : Nat) : Nat := slot * 2 ^ 59 + wave * 2 ^ 68 + expect * 2 ^ 72

theorem nfld_actTrReq {slot wave expect : Nat} (hslot : slot < 2 ^ 9) (hwave : wave < 2 ^ 2) (hexp : expect < 2 ^ 8) :
    nfld (actTrReq slot wave expect) 67 59 = slot ∧ nfld (actTrReq slot wave expect) 69 68 = wave
      ∧ nfld (actTrReq slot wave expect) 71 70 = 0 ∧ nfld (actTrReq slot wave expect) 79 72 = expect
      ∧ nfld (actTrReq slot wave expect) 127 80 = 0 := by
  unfold nfld actTrReq
  norm_num only
  omega

/-- A timed Transit is accepted at the first switch cycle. -/
theorem actDo_of_transit (hkind : actKind s n = 4) {t w x : Nat} (ht : t = nfld (actArg0 s n) 5 0) (htid : tid = tidOf t (nfld (actArg0 s n) 14 6))
    (hw : w = nfld (actArg0 s n) 16 15) (hx : x = firstSwitch (cycleNow s) ofs) (hwho : who = actBy s 5 t)
    (hup : islDown s (islandOf (Adr.treTransitReq t)) = false) (howner : isOwner s who (islandOf (Adr.treTransitReq t)) 5 t = true)
    (hepoch : actExpect s n = uEpoch s (termAddr tid)) (hcheck : trCheck s tid w x ofs = none) :
    actDo s n ofs = (keepNotes s (wrOk (trResult (trAccept (clearNote s who) tid w x .none) who t tid .ok x) who (Adr.treTransitReq t)), 0) := by
  have hdo : actDo s n ofs = actWrite s 5 t fun u q =>
      trReqWrite u q t (actTrReq (nfld (actArg0 s n) 14 6) w (actExpect s n)) ofs := by
    unfold actDo
    rw [hkind, ht, hw]
    rfl
  obtain ⟨hslot, hwave, hop, hexp, hcyc⟩ := nfld_actTrReq (nfld_lt (actArg0 s n) 14 6) (hw ▸ nfld_lt (actArg0 s n) 16 15) (actExpect_lt s n)
  have hreqTid : trReqTid t (actTrReq (nfld (actArg0 s n) 14 6) w (actExpect s n)) = tid := by rw [trReqTid, hslot, htid]
  have htaken : TrReqTaken (clearNote s who) who t (actTrReq (nfld (actArg0 s n) 14 6) w (actExpect s n)) :=
    ⟨hup, howner, by rw [hexp, hreqTid, uEpoch_clearNote, hepoch]⟩
  have hreq : trRequest (clearNote s who) tid w 0 ofs .none = (trAccept (clearNote s who) tid w x .none, x, none) :=
    trRequest_of_accepted (by rw [if_pos rfl, cycleNow_clearNote, hx]) ((trCheck_clearNote ..).trans hcheck) .none
  rw [hdo]
  refine actWrite_of_taken hwho ?_ ?_
  · rw [htaken.start_accepted hop (by rw [hreqTid, hwave, hcyc, hreq]), hreqTid]
  · have htree : t < 64 := ht ▸ nfld_lt (actArg0 s n) 5 0
    exact commitOff_ne_zero (by unfold Adr.treTransitReq; omega) (by unfold Adr.treTransitReq; omega)

/-- A timed key switch makes a READY downstream slot the sending one. -/
theorem actDo_of_key (hkind : actKind s n = 3) (hc : c = nfld (actArg0 s n) 7 0) (hk : k = nfld (actArg0 s n) 18 8)
    (hwho : who = actBy s 3 (c / 4)) (hup : islDown s (islandOf (keyAddr c k)) = false)
    (howner : isOwner s who (islandOf (keyAddr c k)) 3 (c / 4) = true) (hmain : s.prt.standby = false)
    (hepoch : actExpect s n = uEpoch s (keyAddr c k)) (hready : keyEff s c k = ksReady) (hds : slotDir k = 0) :
    actDo s n ofs = (keepNotes s (wrOk (keyActivate (clearNote s who) c k) who (keyAddr c k)), 0) := by
  have hdo : actDo s n ofs = actWrite s 3 (c / 4) fun u q => keySlotWrite u q c k (actExpect s n) ksActive := by
    unfold actDo
    rw [hkind, hc, hk]
    rfl
  rw [hdo]
  refine actWrite_of_taken hwho ?_ ?_
  · exact keySlotWrite_of_taken (s := clearNote s who) hup howner hmain hepoch (keyStateWrite_active (s := clearNote s who) hready hds)
  · have hchan : c < 256 := hc ▸ nfld_lt (actArg0 s n) 7 0
    have hslot : k < 2048 := hk ▸ nfld_lt (actArg0 s n) 18 8
    exact commitOff_ne_zero (by unfold keyAddr Adr.chnKeySlot; omega) (by unfold keyAddr Adr.chnKeySlot; omega)

/-- A timed Eclipse or waking is what the channel's act makes of its value. -/
theorem actDo_of_eclipse (hkind : actKind s n = 7) (hc : c = nfld (actArg0 s n) 7 0) (hwho : who = actBy s 5 (c / 4))
    (hup : islDown s (islandOf (Adr.chnState c)) = false) (howner : isOwner s who (islandOf (Adr.chnState c)) 5 (c / 4) = true)
    (hmain : s.prt.standby = false) (hepoch : actExpect s n = uEpoch s (Adr.chnState c))
    (hact : eclipseAct c (if nbit (actArg0 s n) 8 = true then chWaking else chEclipseEntering) (clearNote s who) = .ok x) :
    actDo s n ofs = (keepNotes s (wrOk x who (Adr.chnState c)), 0) := by
  have hdo : actDo s n ofs = actWrite s 5 (c / 4) fun u q =>
      eclipseWrite u q c (actExpect s n) (if nbit (actArg0 s n) 8 = true then chWaking else chEclipseEntering) := by
    unfold actDo
    rw [hkind, hc]
    rfl
  rw [hdo]
  refine actWrite_of_taken hwho ?_ ?_
  · exact unitWriteR_of_ok (s := clearNote s who) hup howner hmain hepoch hact
  · have hchan : c < 256 := hc ▸ nfld_lt (actArg0 s n) 7 0
    exact commitOff_ne_zero (by unfold Adr.chnState; omega) (by unfold Adr.chnState; omega)

/-! ## DMA programs and snapshots -/

theorem actDo_of_dma (hkind : actKind s n = 5) {d : Nat} (hd : d = nfld (actArg0 s n) 4 0) (hup : islDown s 340 = false)
    (hstart : dmaStart s d = some t) : actDo s n ofs = (t, 0) := by
  have hdo : actDo s n ofs = if islDown s 340 = true then (s, WrStatus.islandDown.code)
      else (dmaStart s d).elim (s, WrStatus.outOfRange.code) fun t => (t, 0) := by
    unfold actDo
    rw [hkind, hd]
    dsimp only
    cases dmaStart s (nfld (actArg0 s n) 4 0) <;> rfl
  rw [hdo, if_neg (by simp [hup]), hstart]
  rfl

theorem actDo_of_snapshot (hkind : actKind s n = 6) (hgood : (snapshot s ofs).2 = false) : actDo s n ofs = ((snapshot s ofs).1, 0) := by
  unfold actDo
  rw [hkind]
  dsimp only
  rw [hgood]
  rfl

theorem snapFar_of_not_busy (h : snapBusy s ofs = false) : s.obs.snapAt = 0 ∨ s.obs.snapAt + 999 ≤ devNs s ofs := by
  unfold snapBusy at h
  rcases Nat.eq_zero_or_pos s.obs.snapAt with h0 | hpos
  · exact .inl h0
  · exact .inr (Nat.not_lt.mp fun hlt => by simp [hpos.ne', hlt] at h)

end Sys2Proof.Machine

open Sys2Proof.Machine

theorem Sys2Proof.Machine.timedActionsComplete : Sys2Proof.Rules.TimedActionsComplete := by
  intro s n ofs hn harmed hdue
  refine ⟨fun hk hout => ?pulse, fun x who tb base cyc es hk hx hwho hunit hup hwriter hlist => ?gcl,
    fun c k who hk hc hslot hwho hup howner hmain hepoch hready hds => ?key,
    fun t tid x who hk ht htid hx hwho hup howner hepoch hcheck => ?transit,
    fun d hk hd hup hidle hgen hen => ?dma, fun hk hopen hon hfree => ?snapshot,
    fun c who hk hc hwho hup howner hmain hepoch hn200 hfree => ⟨fun hbit hrun hother => ?eclipse, fun hbit hecl => ?waking⟩⟩
  case pulse => exact congrArg _ (actDue_of_ok hn harmed hk hdue (fun _ => hout) (actDo_of_pulse hk ofs))
  case gcl =>
    obtain ⟨hsched, -⟩ := actDue_sched_stat hn harmed hk hdue nofun ((actDo_of_gcl hk ofs hx).trans (actWrite_eq ..))
    refine ⟨_, rfl, ?_⟩
    rw [gclOf_congr hsched]
    have hby : who = if x < 256 then actBy s 2 (if x < 256 then x / 4 else 0) else .pf := by
      rw [hwho]
      split <;> rfl
    rw [hby] at hwriter
    exact gclInstallWrite_of_adminList (s := clearNote s _) hunit hup hwriter hlist
  case key => exact congrArg _ (actDue_of_ok hn harmed hk hdue nofun (actDo_of_key hk hc hslot hwho hup howner hmain hepoch hready hds))
  case transit => exact congrArg _ (actDue_of_ok hn harmed hk hdue nofun (actDo_of_transit hk ht htid rfl hx hwho hup howner hepoch hcheck))
  case dma =>
    obtain ⟨p, bytes, hstart, -⟩ := dmaStart_eq_of_idle hidle hgen hen
    exact ⟨_, hstart, congrArg _ (actDue_of_ok hn harmed hk hdue nofun (actDo_of_dma hk hd hup hstart))⟩
  case snapshot =>
    obtain ⟨htaken, -, hgood⟩ := snapshot_of_taken hopen hon (snapFar_of_not_busy hfree)
    obtain ⟨-, hstat⟩ := actDue_sched_stat hn harmed hk hdue nofun (actDo_of_snapshot hk hgood)
    refine ⟨_, rfl, ?_, ?_⟩
    · rw [hstat, htaken]
    · rw [hstat, htaken]
  case eclipse =>
    refine congrArg _ (actDue_of_ok hn harmed hk hdue nofun (actDo_of_eclipse hk hc hwho hup howner hmain hepoch ?_))
    rw [if_neg (by simp [hbit])]
    exact eclipseAct_entering (s := clearNote s who) hn200 hfree hrun hother
  case waking =>
    refine congrArg _ (actDue_of_ok hn harmed hk hdue nofun (actDo_of_eclipse hk hc hwho hup howner hmain hepoch ?_))
    rw [if_pos hbit]
    exact eclipseAct_waking (s := clearNote s who) hn200 hfree hecl

/-- Settles O47: a slot that is due is its kind's write and what its status makes of it; a write as the owner reads nothing of the requesters' notes
and ends with status 0 where it takes effect, since no register of a tree or channel is noted at offset 0. -/
theorem actionsAreArmedAndRunAtTheirInstant : Obligations.ActionsAreArmedAndRunAtTheirInstant :=
  ⟨actionsAreArmedLateOrRefused, actionsRunAtTheirInstant, timedActionsComplete⟩

end
